-- ==== Sys2Proof/Word.lean ====
section
/-! DEFINITION. The word and byte types of the AK5248: registers are 32 bits wide (R8), memory is bytes. -/

namespace Sys2Proof

/-- A register word (R8: registers are 32 bits wide). -/
abbrev Word := BitVec 32

/-- One byte of memory. -/
abbrev Byte := BitVec 8

end Sys2Proof
end

