-- ==== Sys2Proof/Syntax.lean ====
section
/-! DEFINITION. The commands of the AK5248: one constructor per row of spec/opcode_table.json, in the table's order,
with the operands the row's rule gives it.  Index operands carry their range (R13) in their type.  `m` is always the
master ID (R133) of the sender; `v` is the 32-bit value written.  Facts that only the world outside the device knows
(a temperature, a training result, a received frame) are operands. -/

namespace Sys2Proof

/-- Where an uncorrectable error falls on a request or response (R138, R264). -/
inductive FlitErr where
  /-- no uncorrectable error -/
  | clean
  /-- in the header; router `k` detects it and discards the whole -/
  | header (k : Nat)
  /-- in the data; router `k` detects it (R434) -/
  | data (k : Nat)
  /-- none on the way; of the request's lines the one numbered `i`, if the cache slice holds it, suffers an error that SECDED
  cannot correct (R264) -/
  | cache (i : Nat)
  deriving DecidableEq, Repr

/-- What a stored line suffers before the infuser reads it (R270): errors in its bytes, and whether the copy of it in the
tray cache takes one that SECDED cannot correct (R264). -/
structure LineDamage where
  cells : List (Fin 72 × Byte) := []
  cached : Bool := false
  deriving DecidableEq, Repr

/-- A packet queue of the device: the cup queues of R99, the management queues of R214, the mailbox queues of R338. -/
inductive QRef where
  | ingress (c : Fin 192) (n : Fin 8)
  | egress (c : Fin 192) (n : Fin 8)
  | mgmtTx (q : Fin 64)
  | mgmtRx (q : Fin 64)
  | mailTx
  | mailRx
  deriving DecidableEq, Repr

/-- The outcome the environment gives one configuration word read by the steep pass (R125). -/
inductive WordFault where
  | none
  | single (bit : Fin 32)
  | double
  deriving DecidableEq, Repr

/-- What one full training of a pseudo-channel finds (R255): for each of the 38 lanes the write and the read sweep, bit i
telling whether step i of 256 passed; and the command delay and read latency. -/
structure TrainResult where
  lanes : List (BitVec 256 × BitVec 256)
  cadly : Nat
  lat : Nat
  deriving DecidableEq, Repr

/-- Straps at their lands, or as latched (R454). -/
structure Straps where
  bootMode : Nat := 0
  testMode : Bool := false
  cascId : Nat := 0
  masterEn : Bool := false
  deputyEn : Bool := false
  deriving DecidableEq, Repr

/-- What the world shows the device during start-up (R311): self-test and Colrek failures, lanes repaired by Colrek
training, HBM training results, the ticks at which steps 3 to 7 complete, the levels of the straps at their latching (R454),
and the leaf rails whose regulators do not answer (R366). -/
structure StartEnv where
  selfTestFail : List Nat
  colrekFail : List Nat
  colrekRepair : List (Nat × Nat × Nat × Nat)
  train : List (Nat × TrainResult)
  stepTick : List Nat
  flipTick : Nat
  straps : Straps := {}
  deafRails : List Nat := []
  deriving DecidableEq, Repr

/-- A timestamped frame as a port engine receives it (R206, R215): port, bytes from the destination MAC to the last
byte before the FCS, FCS verdict, FEC verdict, sub-tick fraction of its arrival. -/
structure RxFrame where
  port : Fin 4
  bytes : List Byte
  fcsOk : Bool
  fecOk : Bool
  frac : Fin 8
  deriving DecidableEq, Repr

/-- A packet, or a flit of one, as it is ejected at an endpoint (R133), and the router that detected an error in it that
cannot be corrected, if one did (R138, R434). -/
structure RxPacket where
  bytes : List Byte
  bad : Option (Fin 240) := none
  deriving DecidableEq, Repr

/-- The stamps of one SYNC exchange, in 0.5 ns (R339): this device sent at t1, the neighbour received at t2 and sent at
t3, this device received at t4. -/
structure SyncStamps where
  t1 : Nat
  t2 : Nat
  t3 : Nat
  t4 : Nat
  deriving DecidableEq, Repr

/-- Kinds of lease (R394): the activity classes. -/
inductive LeaseClass where
  | steepPass | captureReadback | shadowLoad | patrolScrub | fullRetrain | driftTrack
  | rekeySweep | eyeScan | laneRetrain | storeWrite | caddyWrite
  deriving DecidableEq, Repr

/-- Resources a lease is held on (R394, MNT_ENT.KIND of R402). -/
inductive Resource where
  | leaf (p : Nat) | cup (c : Nat) | stack (s : Nat) | pch (x : Nat) | lane (l : Nat)
  | libEntry (n : Nat) | region (r : Nat) | storeDie
  /-- the key range that a re-key lease serves, named after its stack (R290, R394) -/
  | range (r : Nat)
  deriving DecidableEq, Repr

/-- The far end of a link as its training finds it: the device, and its quad (R343). -/
structure FarEnd where
  id : Fin 1024
  quad : Fin 64 := 0
  deriving DecidableEq, Repr

/-- What the sensors of a rail read (R367, R383): mV, and 0.1 A. -/
structure RailReading where
  mv : Nat
  deciamps : Nat
  deriving DecidableEq, Repr

/-- A link in an LSA message (R337): its far device, and its state as CAS_LINK shows it. -/
structure LinkReport where
  far : Fin 1024
  state : Fin 8 := 2
  deriving DecidableEq, Repr

/-- Where a DOWN or failed link's stream is moved (R343): stream and its new link. -/
abbrev RerouteEntry := Nat × Nat

/-- The commands of the block. -/
inductive Instr where
  /-- R10: a write of `size` bytes by `m` to tray address `addr` of register space -/
  | registerWrite (m : Nat) (addr : Nat) (size : Nat) (v : Word)
  /-- R9: a read by `m` of the low word of a 64-bit pair at `addr` -/
  | lowWordRead (m : Nat) (addr : Nat)
  /-- R464: a read by `m` of the register with an RC field at `addr` -/
  | rcFieldRead (m : Nat) (addr : Nat)
  /-- R135: a READ of `len` bytes from `m` with TAG `tag` -/
  | read (m : Nat) (tag : Nat) (addr : Nat) (len : Nat) (err : FlitErr)
  /-- R135: a WRITE of `data` from `m` with TAG `tag` -/
  | write (m : Nat) (tag : Nat) (addr : Nat) (data : List Byte) (err : FlitErr)
  /-- R144 -/
  | fence (m : Nat) (tag : Nat)
  /-- R144 -/
  | fenceComplete (m : Nat)
  /-- R136: the response to request (m, tag) reaches the master's interface -/
  | responseFlit (m : Nat) (tag : Nat) (err : FlitErr)
  /-- R138 -/
  | requestTimeout (m : Nat) (tag : Nat)
  /-- R415 -/
  | refusalLatencyExpiry (m : Nat) (tag : Nat)
  /-- R78 -/
  | leafDivWrite (m : Nat) (p : Fin 52) (n : Fin 16) (v : Word)
  /-- R78 -/
  | dividerChangeEffect (p : Fin 52) (n : Fin 16)
  /-- R86: group g of leaf p -/
  | colrekCrcMismatch (p : Fin 52) (g : Fin 178)
  /-- R86 -/
  | colrekLockLoss (p : Fin 52) (g : Fin 178)
  /-- R86: `failing` are the lanes the per-lane test finds bad, `holds` says the repaired group works -/
  | colrekRetrain (p : Fin 52) (g : Fin 178) (failing : List (Fin 32)) (holds : Bool)
  /-- R86 -/
  | colrekRetrainDone (p : Fin 52) (g : Fin 178)
  /-- R121 -/
  | cupStateReq (m : Nat) (c : Fin 192) (v : Word)
  /-- R121 -/
  | cupOffToDormantDone (c : Fin 192)
  /-- R121 -/
  | cupClocksStart (c : Fin 192)
  /-- R121 -/
  | cupClocksStop (c : Fin 192)
  /-- R121 -/
  | cupToOffDone (c : Fin 192)
  /-- R112 -/
  | cupLoad (m : Nat) (c : Fin 192) (v : Word)
  /-- R112 -/
  | loadComplete (c : Fin 192)
  /-- R127 -/
  | shadowRecheck (c : Fin 192)
  /-- R107 -/
  | cupBrdReqWrite (m : Nat) (c : Fin 192) (side : Fin 4) (v : Word)
  /-- R109 -/
  | cupBdrvWrite (m : Nat) (c : Fin 192) (side : Fin 4) (v : Word)
  /-- R107 -/
  | borderApply (c : Fin 192) (side : Fin 4)
  /-- R122 -/
  | captureRelease (m : Nat) (c : Fin 192) (v : Word)
  /-- R124 -/
  | readbackStart (m : Nat) (c : Fin 192) (v : Word)
  /-- R124 -/
  | readbackDone (c : Fin 192)
  /-- R142: `out` selects CUP_SOUT -/
  | streamPortBindWrite (m : Nat) (c : Fin 192) (out : Bool) (n : Fin 4) (v : Word)
  /-- R96, R138: a packet of stream `stream` arrives at stream-in port n -/
  | streamInPacket (c : Fin 192) (n : Fin 4) (stream : Fin 16384) (data : RxPacket)
  /-- R96: stream-out port n holds the EOP beat of packet `data` -/
  | streamOutPacket (c : Fin 192) (n : Fin 4) (data : List Byte)
  /-- R98: the request port takes a request with header fields OP, ADDR, TAG and RQ_LEN + 1 -/
  | cupRequest (c : Fin 192) (op : Fin 16) (addr : Nat) (tag : Fin 64) (len : Nat) (data : List Byte)
  /-- R100: tray OPEN of queue q -/
  | qOpen (m : Nat) (tag : Nat) (q : QRef)
  /-- R100: tray DATA, 32 or 64 bytes -/
  | qData (m : Nat) (tag : Nat) (q : QRef) (bytes : List Byte)
  /-- R100: tray CLOSE -/
  | qClose (m : Nat) (tag : Nat) (q : QRef) (lastBytes : Fin 256) (flags : Fin 65536)
  /-- R102: tray READ of `slots` (1 or 2) slots -/
  | egressRead (m : Nat) (tag : Nat) (q : QRef) (slots : Fin 3)
  /-- R102 -/
  | drop (m : Nat) (tag : Nat) (q : QRef)
  /-- R104: the fabric takes the shown slot of ingress queue n -/
  | inTake (c : Fin 192) (n : Fin 8)
  /-- R101 -/
  | queueWriteTimeout (m : Nat) (tag : Nat)
  /-- R102 -/
  | queueReadTimeout (m : Nat) (tag : Nat)
  /-- R102 -/
  | queueStallResume (m : Nat) (tag : Nat)
  /-- R117 -/
  | clearAtFlipDone (c : Fin 192) (blk : Fin 200)
  /-- R126 -/
  | steepPassCupEnd (c : Fin 192)
  /-- R125 -/
  | steepPassWord (c : Fin 192) (w : Fin 787600) (f : WordFault)
  /-- R152 -/
  | reserve (m : Nat) (set : Fin 16)
  /-- R154 -/
  | prepareTree (m : Nat) (set : Fin 16)
  /-- R154 -/
  | release (m : Nat) (set : Fin 16)
  /-- R154 -/
  | prepareRelease (m : Nat) (set : Fin 16)
  /-- R154 -/
  | applySet (m : Nat) (set : Fin 16)
  /-- R154 -/
  | discardSet (m : Nat) (set : Fin 16)
  /-- R154: the first SOP of the stream at or after the point of application -/
  | streamTreeSwitch (stream : Fin 16384)
  /-- R149: a write of TRAY_SENT by m -/
  | streamDomainWrite (m : Nat) (v : Word)
  /-- R155: at destination index d of the stream's tree -/
  | streamSilenceTimeout (stream : Fin 16384) (d : Fin 64)
  /-- R141 -/
  | queueGrantWrite (m : Nat) (v : Word)
  /-- R159 -/
  | signal (m : Nat) (tag : Nat) (n : Fin 64)
  /-- R159 -/
  | message (m : Nat) (tag : Nat) (n : Fin 64) (bytes : List Byte)
  /-- R161 -/
  | pop (m : Nat) (n : Fin 64) (v : Word)
  /-- R162 -/
  | collectorVecClear (m : Nat) (n : Fin 64) (w : Fin 8) (v : Word)
  /-- R174 -/
  | timeSecondBoundary
  /-- R174 -/
  | timeAdjWrite (m : Nat) (v : Word)
  /-- R175 -/
  | timeStep (m : Nat) (v : Word)
  /-- R175 -/
  | timeSet (m : Nat) (v : Word)
  /-- R176: a servo measurement: the offset in ns and the rate adjustment the servo chooses -/
  | servoUpdate (offset : Int) (adj : Int)
  /-- R176 -/
  | holdover
  /-- R177 -/
  | ppsOutFall
  /-- R178 -/
  | ppsInEdge (frac : Fin 8)
  /-- R181 -/
  | spStage (m : Nat) (v : Word)
  /-- R181 -/
  | spFree (m : Nat) (v : Word)
  /-- R182 -/
  | arm (m : Nat) (g : Fin 256)
  /-- R187 -/
  | cancel (m : Nat) (g : Fin 256)
  /-- R186 -/
  | spFinalCheck (g : Fin 256)
  /-- R190 -/
  | spCommitCheck (g : Fin 256)
  /-- R188 -/
  | spExecute (g : Fin 256)
  /-- R186 -/
  | spHeldWritesApply
  /-- R202 -/
  | lnTxeqWrite (m : Nat) (q : Fin 64) (j : Fin 4) (v : Word)
  /-- R228 -/
  | eyeScanPoint (m : Nat) (q : Fin 64) (j : Fin 4) (v : Word)
  /-- R228: `errors` disagreements were counted -/
  | eyeScanDone (q : Fin 64) (j : Fin 4) (errors : Nat)
  /-- R229: the eye height measured -/
  | marginMeasure (q : Fin 64) (j : Fin 4) (height : Fin 256)
  /-- R227 -/
  | los (q : Fin 64) (j : Fin 4)
  /-- R227 -/
  | lol (q : Fin 64) (j : Fin 4)
  /-- R231 -/
  | pcsAlignmentLossTimeout (q : Fin 64) (n : Fin 4)
  /-- R231 -/
  | laneRetrain (q : Fin 64) (j : Fin 4)
  /-- R231 -/
  | laneRetrainDone (q : Fin 64) (j : Fin 4)
  /-- R230: a write of LN_CTL -/
  | lanePowerRequest (m : Nat) (q : Fin 64) (j : Fin 4) (v : Word)
  /-- R230 -/
  | lanePowerExitDone (q : Fin 64) (j : Fin 4)
  /-- R196, R363: the producer's DEGRADED declaration on the stream clears -/
  | degradedClear (stream : Fin 16384)
  /-- R206 -/
  | ethFrameReceive (q : Fin 64) (f : RxFrame)
  /-- R213: leg B if `b` -/
  | mergeLegSilence (q : Fin 64) (i : Fin 512) (b : Bool)
  /-- R211 -/
  | clsSelWrite (m : Nat) (q : Fin 64) (v : Word)
  /-- R211 -/
  | clsActWrite (m : Nat) (q : Fin 64) (v : Word)
  /-- R219 -/
  | pacCfgWrite (m : Nat) (q : Fin 64) (v : Word)
  /-- R216, R138: a stream packet reaches quad q in ETH role -/
  | pacerEnqueue (q : Fin 64) (stream : Fin 16384) (data : RxPacket)
  /-- R217 -/
  | pacerToken (q : Fin 64) (k : Fin 1024)
  /-- R218: port n of quad q becomes free -/
  | packetTransmit (q : Fin 64) (n : Fin 4) (frac : Fin 8)
  /-- R215: a read of the high word of TXSTAMP -/
  | txstampPop (m : Nat) (q : Fin 64)
  /-- R225: PKT words received on lane j, the first at tick `t0` -/
  | rawRxPacket (q : Fin 64) (j : Fin 4) (t0 : Nat) (frac : Fin 8) (data : List Byte)
  /-- R225 -/
  | rawTxUnderrun (q : Fin 64) (j : Fin 4)
  /-- R226: a write of RAW_CTL -/
  | slip (m : Nat) (q : Fin 64) (j : Fin 4) (v : Word)
  /-- R226 -/
  | slipDone (q : Fin 64) (j : Fin 4)
  /-- R222: an inbound memory TLP of function `f` (0 physical, v virtual) of controller n; `wr` carries write data -/
  | pcieTlp (n : Fin 2) (f : Fin 65) (tag : Nat) (bar2 : Bool) (off : Nat) (len : Nat) (wr : Option (List Byte))
  /-- R223 -/
  | perst (n : Fin 2)
  /-- R223: Function Level Reset of virtual function v + 1 -/
  | functionLevelReset (n : Fin 2) (v : Fin 64)
  /-- R238: `cfg` selects CG_CFG -/
  | cgWrite (m : Nat) (st : Fin 8) (cfg : Bool) (v : Word)
  /-- R243: a write of RTP_CFG -/
  | rtpEnable (m : Nat) (st : Fin 8) (v : Word)
  /-- R244, R138: a packet of the port's stream arrives -/
  | rtpWritePacket (st : Fin 8) (i : Fin 256) (data : RxPacket)
  /-- R246 -/
  | rtpBoundary (st : Fin 8) (i : Fin 256)
  /-- R246 -/
  | rtpPacketSend (st : Fin 8) (i : Fin 256)
  /-- R251: the stack's temperature in °C -/
  | stackTempSample (st : Fin 8) (celsius : Int)
  /-- R252 -/
  | selfRefreshEntry (st : Fin 8)
  /-- R253 -/
  | selfRefreshExit (st : Fin 8)
  /-- R253: whether the verification read of pseudo-channel h passes -/
  | selfRefreshVerify (st : Fin 8) (h : Fin 32) (pass : Bool)
  /-- R256 -/
  | fullRetrain (st : Fin 8) (h : Fin 32)
  /-- R256: the result counts at the last stage -/
  | retrainStageDone (st : Fin 8) (h : Fin 32) (r : TrainResult)
  /-- R249 -/
  | panicYieldTimeout (st : Fin 8) (h : Fin 32)
  /-- R249 -/
  | retrainHeldRepeat (st : Fin 8) (h : Fin 32)
  /-- R257: per lane the corrections to RDLY and WDLY; `narrow` says a sampled window fell below 24 steps -/
  | driftTrack (st : Fin 8) (h : Fin 32) (corr : List (Int × Int)) (narrow : Bool)
  /-- R260: line `line` of the stack (64-byte line number within it) -/
  | patrolScrubStep (st : Fin 8) (line : Fin 603979776)
  /-- R262 -/
  | waymaskWrite (m : Nat) (st : Fin 8) (n : Fin 66) (v : Word)
  /-- R270: a tagged or untagged read of the line at `addr` for domain `dom`; `damage` is what the cells suffered -/
  | lineRead (addr : Nat) (dom : Nat) (tagged : Bool) (damage : LineDamage)
  /-- R282 -/
  | create (m : Nat)
  /-- R282 -/
  | setOwner (m : Nat)
  /-- R282 -/
  | remove (m : Nat)
  /-- R287 -/
  | rekey (m : Nat)
  /-- R282 -/
  | rangeFillDone (r : Fin 80)
  /-- R288 -/
  | rekeySweepStep (r : Fin 80)
  /-- R290: writes counted on the old counter in the last ms, and lines the sweep moves per ms at 1 % -/
  | sweepRateCheck (r : Fin 80) (growth : Nat) (linesPerPct : Nat)
  /-- R273 -/
  | bucketLeak (st : Fin 8) (h : Fin 32)
  /-- R273 -/
  | infBktCfgWrite (m : Nat) (st : Fin 8) (v : Word)
  /-- R445 -/
  | porst
  /-- R311: PORST_N rises -/
  | porstRelease
  /-- R350, R454: the straps at the end of step 1, and what the world shows start-up -/
  | aonStartCountDone (env : StartEnv)
  /-- R445: SYSRST_N low for 1 µs or more -/
  | sysrst
  /-- R317 -/
  | chipReset (env : StartEnv)
  /-- R295 -/
  | storeWrite (m : Nat) (v : Word)
  /-- R324 -/
  | storeRead (m : Nat) (v : Word)
  /-- R295 -/
  | verify (m : Nat) (v : Word)
  /-- R317 -/
  | reload (m : Nat) (v : Word)
  /-- R307 -/
  | wrap (m : Nat) (v : Word)
  /-- R308 -/
  | progSlot (m : Nat) (v : Word)
  /-- R308 -/
  | revoke (m : Nat) (v : Word)
  /-- R308 -/
  | raiseSvn (m : Nat) (v : Word)
  /-- R314 -/
  | run (m : Nat) (v : Word) (env : StartEnv)
  /-- R314 -/
  | imgJdataWrite (m : Nat) (v : Word)
  /-- R297 -/
  | imgLibentWrite (m : Nat) (v : Word)
  /-- R319 -/
  | hceJobStart (m : Nat) (i : Fin 8) (v : Word)
  /-- R320 -/
  | hceChunkDone (pipe : Fin 8)
  /-- R322 -/
  | hceSlotBoundary
  /-- R323 -/
  | hceCtxWrite (m : Nat) (i : Fin 8) (v : Word)
  /-- R328: a frame of 272 bytes arrives on link n -/
  | selovFrame (n : Fin 32) (frame : List Byte)
  /-- R329 -/
  | ackTimeout (n : Fin 32)
  /-- R329 -/
  | selovRetrain (n : Fin 32)
  /-- R329 -/
  | selovRetrainFail (n : Fin 32)
  /-- R332 -/
  | claimSend
  /-- R332: CLAIM with its epoch and master ID received on link n -/
  | claim (n : Fin 32) (epoch : Word) (id : Fin 1024)
  /-- R334 -/
  | claimTimeout
  /-- R335 -/
  | conflictClear
  /-- R336 -/
  | deputySilenceTimeout
  /-- R333: JOIN from `id` over link n: last epoch, and the digest and VALID of each cup -/
  | join (n : Fin 32) (id : Fin 1024) (epoch : Word) (digests : List (BitVec 384 × Bool))
  /-- R334: ADMIT with the epoch; `ofs` is the whole alignment offset measured -/
  | casAdmitMsg (n : Fin 32) (epoch : Word) (restart : Bool)
  /-- R333: CAS_MEMBERS as the master's list -/
  | registry (members : List Word)
  /-- R337: the state of every link of device `id`: far ends it reaches -/
  | lsa (n : Fin 32) (id : Fin 1024) (links : List LinkReport)
  /-- R336: takeover poll from the deputy `id` -/
  | silenceQ (n : Fin 32) (id : Fin 1024)
  /-- R336: answer of device `id`, which confirms silence or not, with the highest epoch it saw -/
  | silenceA (id : Fin 1024) (silent : Bool) (epoch : Word)
  /-- R344 -/
  | prepare (g : Fin 256) (exec : Nat)
  /-- R345 -/
  | ready (id : Fin 1024) (g : Fin 256)
  /-- R345 -/
  | refuse (id : Fin 1024) (g : Fin 256) (cause : Fin 16)
  /-- R345 -/
  | commitDecision (g : Fin 256)
  /-- R345 -/
  | commit (g : Fin 256)
  /-- R345 -/
  | abort (g : Fin 256)
  /-- R346: `cause` 0 means executed -/
  | report (id : Fin 1024) (g : Fin 256) (cause : Fin 16)
  /-- R346 -/
  | reportTimeout (id : Fin 1024) (g : Fin 256)
  /-- R347 -/
  | censusRound
  /-- R347 -/
  | censusQ (round : Nat)
  /-- R347: PDIG and VALID of cups `first` to `first + 3` of device `id` -/
  | census (id : Fin 1024) (first : Fin 192) (digests : List (BitVec 384 × Bool))
  /-- R347 -/
  | censusAnswerTimeout (id : Fin 1024)
  /-- R343: the failed link and the new link of each stream -/
  | reroute (n : Fin 32) (moves : List RerouteEntry)
  /-- R348 -/
  | casState (id : Fin 1024) (coast aligned : Bool)
  /-- R338: a mailbox packet from device `src` -/
  | mbox (src : Fin 1024) (bytes : List Byte)
  /-- R339: SYNC on link n: one exchange's stamps, and the offset of the neighbour's cascade tick in ticks -/
  | sync (n : Fin 32) (stamps : SyncStamps) (farOfs : Int)
  /-- R344 -/
  | casPrepare (m : Nat) (g : Fin 256)
  /-- R335 -/
  | resign (m : Nat)
  /-- R333 -/
  | casAdmit (m : Nat) (id : Fin 1024)
  /-- R334 -/
  | override (m : Nat)
  /-- R329 -/
  | restore (m : Nat) (n : Fin 1024)
  /-- R347 -/
  | casCensus (m : Nat)
  /-- R341 -/
  | casSlinkWrite (m : Nat) (v : Word)
  /-- R342: a flit of stream `stream` is ejected at CASCADE quad q -/
  | cascadeFlitEject (q : Fin 64) (stream : Fin 16384) (sop eop : Bool) (payload : RxPacket)
  /-- R351 -/
  | xtalFail
  /-- R358: the window's count of REFCLK_CORE edges -/
  | refWindow (count : Fin 1024)
  /-- R361 -/
  | rootRelock
  /-- R366: for each leaf rail the wanted change in mV, or no answer -/
  | avsAdjust (want : List (Option Int))
  /-- R367, R375: what the sensors of the 23 rails read, and the activity counters of clients 192 to 291 -/
  | powerSample (rails : List RailReading) (activity : List Nat)
  /-- R375 -/
  | overloadRepeat
  /-- R377 -/
  | unthrottleStep
  /-- R368: the sensors' temperatures in °C: 52 leaves, 8 tray sections, 8 stacks -/
  | tempSample (celsius : List Int)
  /-- R368: the sensor and its temperature -/
  | thermalTrip (sensor : Fin 68) (celsius : Int)
  /-- R373: client n asks for u units -/
  | urnRequest (n : Fin 292) (u : Nat)
  /-- R372: client n releases u units -/
  | urnRelease (n : Fin 292) (u : Nat)
  /-- R374 -/
  | urnBudgetWrite (m : Nat) (v : Word)
  /-- R355 -/
  | cupGateStop (c : Fin 192)
  /-- R355 -/
  | cupGateWake (c : Fin 192)
  /-- R357 -/
  | wfi (t : Fin 16)
  /-- R357 -/
  | coreInterrupt (t : Fin 16)
  /-- R379: of the request deferred on client n -/
  | deferLimitTimeout (n : Fin 292)
  /-- R387: an event of source n, kind, concerned domains and data -/
  | strainerEvent (n : Fin 4096) (kind : Nat) (doms : List Nat) (bytes : List Byte)
  /-- R389 -/
  | strIrqackWrite (m : Nat) (v : Word)
  /-- R388 -/
  | strEvpop (m : Nat) (v : Word)
  /-- R390 -/
  | errAssert (m : Nat) (v : Word)
  /-- R390 -/
  | errRelease (m : Nat) (v : Word)
  /-- R390 -/
  | errPulseEnd
  /-- R391 -/
  | lockstepMismatch
  /-- R391 -/
  | strainerSelfFault
  /-- R395: an activity asks for a lease on its resources, for domain `dom` -/
  | leaseRequest (cls : LeaseClass) (rs : List Resource) (dom : Nat)
  /-- R394 -/
  | leaseRenew (e : Fin 512)
  /-- R378 -/
  | leaseEnd (e : Fin 512)
  /-- R394 -/
  | leaseExpiry (e : Fin 512)
  /-- R400 -/
  | caddyCommit
  /-- R399 -/
  | caddyHeadFound
  /-- R400 -/
  | droopTrip
  /-- R402 -/
  | cadSelWrite (m : Nat) (v : Word)
  /-- R401 -/
  | injectEvent (m : Nat) (v : Word)
  /-- R401 -/
  | injectConfigBit (m : Nat) (v : Word)
  /-- R401 -/
  | injectLineBytes (m : Nat) (v : Word)
  /-- R401 -/
  | injectWrongTag (m : Nat) (v : Word)
  /-- R401 -/
  | injectFlitError (m : Nat) (v : Word)
  /-- R401 -/
  | injectLaneBurst (m : Nat) (v : Word)
  /-- R401 -/
  | injectCompareMismatch (m : Nat) (v : Word)
  /-- R409: ACQUIREs of the given masters arrive in one tray cycle -/
  | acquire (ms : List Nat)
  /-- R409 -/
  | tokenRelease (m : Nat)
  /-- R410 -/
  | devHeartbeat (m : Nat)
  /-- R410 -/
  | tokenLapse
  /-- R412 -/
  | tenantCreate (m : Nat) (n : Fin 64)
  /-- R413 -/
  | teardown (m : Nat) (n : Fin 64)
  /-- R405 -/
  | cpuPinWrite (m : Nat) (t : Fin 16) (v : Word)
  /-- R407: a write of CPU_C_CTL with RUN 1 -/
  | coreRun (m : Nat) (t : Fin 16) (v : Word)
  /-- R407: a write of CPU_C_CTL with RUN 0 -/
  | coreReset (m : Nat) (t : Fin 16) (v : Word)
  /-- R407 -/
  | msipWrite (m : Nat) (t : Fin 16) (v : Word)
  /-- R407 -/
  | machineTimer (t : Fin 16)
  /-- R420: through session window `w` (8 is a tenant window's) -/
  | hello (m : Nat) (w : Fin 9) (v : Word)
  /-- R420 -/
  | proof (m : Nat) (w : Fin 9) (v : Word)
  /-- R421 -/
  | dbgClose (m : Nat) (w : Fin 9) (v : Word)
  /-- R421 -/
  | sessionIdleTimeout (i : Fin 8)
  /-- R422 -/
  | halt (m : Nat) (w : Fin 9) (v : Word)
  /-- R423 -/
  | resume (m : Nat) (w : Fin 9) (v : Word)
  /-- R423 -/
  | step (m : Nat) (w : Fin 9) (v : Word)
  /-- R423 -/
  | exec (m : Nat) (w : Fin 9) (v : Word)
  /-- R425 -/
  | dbgCapture (m : Nat) (w : Fin 9) (v : Word)
  /-- R427 -/
  | recover (m : Nat) (w : Fin 9) (v : Word)
  /-- R465: a DBGACC access: `wr` carries the bytes of a write -/
  | dbgacc (tag : Nat) (addr : Nat) (len : Nat) (wr : Option (List Byte))
  /-- R455 -/
  | jtagInstruction (code : Byte)
  /-- R453: bytes written after the address; more than 4 are not acknowledged -/
  | i2cOffsetWrite (bytes : List Byte)
  /-- R453 -/
  | i2cRead
  /-- R43: a rising edge of clock line n of cup c -/
  | fabricClockEdge (c : Fin 192) (n : Fin 4)
  /-- R227 -/
  | losClear (q : Fin 64) (j : Fin 4)
  /-- R231 -/
  | pcsAlignmentLoss (q : Fin 64) (n : Fin 4)
  /-- R329: link n is up; `far` is the device at its far end -/
  | selovLinkUp (n : Fin 32) (far : FarEnd)
  /-- R223 -/
  | perstRelease (n : Fin 2)
  /-- R425 -/
  | debugCaptureTick (i : Fin 8)
  /-- R395 -/
  | steepPassPauseTimeout (p : Fin 52)
  /-- R395 -/
  | steepPassMinRunExpiry (p : Fin 52)
  /-- R296: the command of window w (0 owner, n + 1 tenant n) completes -/
  | imgCommandDone (w : Fin 65)
  /-- R196 -/
  | elasticBufferOverrun (q : Fin 64) (j : Fin 4)
  /-- R455 -/
  | tapReset
  deriving DecidableEq, Repr

end Sys2Proof
end

