-- ==== Sys2Proof/Decode.lean ====
section
/-! DEFINITION. The command that a word spells.  spec/opcode_table.json gives no row any bits: the device takes
commands, not instruction words. -/

namespace Sys2Proof

/-- No row of the table has bits, so no word spells a command. -/
def decodeTableWord (_nbits _w : Nat) : Option Instr := none

end Sys2Proof
end

