-- ==== Sys2Proof/Config.lean ====
section
/-! DEFINITION. What the spec leaves to the unit or to standards outside it, as constants without a body: nothing can
prove a value of any of them, so a statement holds whatever they are.  Each names its log entry. -/

namespace Sys2Proof.Config

/-- A value the spec leaves open, the n-th drawn (log entry 2). -/
opaque freeNat : Nat → Nat

/-- The severity Plyngen fixes for each kind of event of a source (R385; log entry 4). -/
opaque eventSev : (source kind : Nat) → BitVec 2

/-- The severity STR_SRC shows for a source (R385; log entry 4). -/
opaque srcSev : (source : Nat) → BitVec 2

/-- The NMI selection the Kettle firmware fixes for a source (R387; log entry 4). -/
opaque srcNmi : (source : Nat) → Bool

/-- ECDSA P-384 verification: public key, message, signature (R305; log entry 5). -/
opaque ecdsaOk : (pub msg sig : List Byte) → Bool

/-- Verification under the key of an owner slot, of which the device keeps the hash alone (R308; log entry 5). -/
opaque slotSigOk : (hash : BitVec 384) → (msg sig : List Byte) → Bool

/-- The x-coordinate of a P-384 key agreement with a private key of the device, by handle (R307, R420; log entry 5). -/
opaque ecdhX : (handle : Nat) → (pub : List Byte) → List Byte

/-- Signature by a private key of the device, by handle (R420; log entry 5). -/
opaque deviceSign : (handle : Nat) → (msg : List Byte) → List Byte

/-- The public half of the n-th ephemeral key the Kettle makes (R420; log entry 5). -/
opaque ephemeralPub : Nat → List Byte

/-- The device key-encryption key of the one-time cells (R297). -/
opaque kek : BitVec 256

/-- The device identity public key, 97 bytes (R307, R324). -/
opaque devicePub : List Byte

/-- The hash of Plyngen's firmware-signing key in the mask ROM (R297). -/
opaque plyngenFwHash : BitVec 384

/-- The hash of Plyngen's debug key in the mask ROM (R419). -/
opaque plyngenDbgHash : BitVec 384

/-- Whether a Colrek group carries a die-crossing wire: group, quadrant, wire (R85; log entry 2). -/
opaque gapWire : (g quadrant wire : Nat) → Bool

/-- The value that the boundary cell of a land holds, loaded through the TAP (R455; log entry 108): land 0 is ERR_N. -/
opaque boundaryCell : (land : Nat) → Bool

/-- The silicon stepping (R434, R463). -/
opaque stepping : BitVec 8

/-- The value of a wire on a combinational loop across PASS borders (R110; log entry 2). -/
opaque loopValue : (root wire : Nat) → Bool

/-- A fabric clock line whose edges are `period` root cycles apart is still high `since` root cycles after an edge: the
spec gives no instant for its fall (R42, R76; log entry 13). -/
opaque lineHigh : (period since : Nat) → Bool

/-- A random 256-bit key, the n-th the Kettle draws (R278). -/
opaque randomKey : Nat → BitVec 256

/-- A random 32-byte nonce, the n-th (R420). -/
opaque nonce : Nat → List Byte

/-- The configuration space of a PCI Express physical function (R434). -/
opaque pcieCfg : (n w : Nat) → Word

/-- One RV64GC instruction of the set published by RISC-V International (R403, R404; log entry 6): instruction word,
integer registers, floating registers, pc, privilege, and the value a load returns, to the new integer register and its
number, the new floating register and its number, the new pc, the new privilege, an exception cause if it traps. -/
opaque rvStep : (insn : Word) → (xs fs csrs : List (Nat × BitVec 64)) → (pc : BitVec 64) → (priv : Nat) →
    (loaded : BitVec 64) →
    List (Nat × BitVec 64) × List (Nat × BitVec 64) × List (Nat × BitVec 64) × BitVec 64 × Nat × Option Nat

/-- The memory access the same instruction makes: address, bytes read, bytes written (log entry 6). -/
opaque rvAccess : (insn : Word) → (xs fs csrs : List (Nat × BitVec 64)) → (pc : BitVec 64) → (priv : Nat) →
    Option (Nat × Nat × List Byte)

/-- The physical address of the instruction at pc under the translation of the same set, whose tables stand in memory: the
n-th use (log entry 6). -/
opaque rvFetch : (n : Nat) → (csrs : List (Nat × BitVec 64)) → (pc : BitVec 64) → (priv : Nat) → Option Nat

/-- What a Kettle address is (R403), whose map the spec does not give: none on the tray, else a place of the 4 MiB SRAM or of
the mask ROM (log entry 6). -/
opaque kettleMap : (a : Nat) → Option (Sum (Fin 4194304) Nat)

/-- A byte of the mask ROM (R403; log entry 6). -/
opaque kettleRom : (i : Nat) → Byte

/-- The entry of a trap in the same set: CSRs, pc and privilege after it (log entry 6). -/
opaque rvTrap : (csrs : List (Nat × BitVec 64)) → (pc : BitVec 64) → (priv cause : Nat) →
    List (Nat × BitVec 64) × BitVec 64 × Nat

/-- REMOTE_FAULT and HI_SER of a port at a tick, at their bits of PORT_STAT: what the far end and the medium do, which no
command says (log entry 18). -/
opaque portFault : (port tick : Nat) → Word

/-- The negotiated width and rate a PCI Express link reports in its boot (R434; log entry 2). -/
opaque pcieLinkRate : (n : Nat) → Word

/-- The rail voltage in mV recorded at manufacture for leaf column x (R366). -/
opaque railStart : (x : Nat) → Nat

/-- BASE and LIMIT of key range 0, which the Kettle creates for itself at start-up (R276, R303; log entry 2). -/
opaque kettleRange : Nat × Nat

/-- The router of a master that the spec places at none (R130; log entry 80). -/
opaque masterRouter : Nat → Nat

/-- The router and the local port of a block of registers (R130; log entry 80). -/
opaque blockRouter : Nat → Nat
opaque blockPort : Nat → Nat

/-- The bytes of a management message of a TYPE behind its first 8, from the fields R337 lists for it: the spec gives no
layout for them (R337; log entry 68). -/
opaque messageBody : (type : Nat) → (fields : List Nat) → List Byte

/-- The bytes that the packet buffer of a quad in RAW or CASCADE role holds (R148; log entry 91). -/
opaque quadBuffer : Nat

/-- The bank and the row of a pseudo-channel's address, which no rule gives (R242, log entry 102). -/
opaque bankRow : (addr : Nat) → Nat × Nat

end Sys2Proof.Config
end

