-- ==== Sys2Proof/Machine/Bits.lean ====
section
/-! DEFINITION. Bit fields, byte order and small lists: the helpers every chapter uses (R5, R6, R8). -/

namespace Sys2Proof.Machine

/-- The field [hi:lo] of a register word (R6). -/
def bits (w : Word) (hi lo : Nat) : Nat := (w.toNat >>> lo) % 2 ^ (hi + 1 - lo)

/-- One bit of a register word. -/
def bit (w : Word) (n : Nat) : Bool := w.getLsbD n

/-- The mask of the field [hi:lo]. -/
def fieldMask (hi lo : Nat) : Word := BitVec.ofNat 32 ((2 ^ (hi + 1 - lo) - 1) <<< lo)

/-- The word with its field [hi:lo] set to v, cut to the field's width. -/
def putBits (w : Word) (hi lo v : Nat) : Word :=
  (w &&& ~~~ fieldMask hi lo) ||| (BitVec.ofNat 32 (v <<< lo) &&& fieldMask hi lo)

/-- A saturating count. -/
def satInc (max n : Nat) : Nat := if n < max then n + 1 else max

/-- Bytes of a number, least significant first (R8). -/
def leBytes : Nat → Nat → List Byte
  | 0, _ => []
  | k + 1, n => BitVec.ofNat 8 n :: leBytes k (n / 256)

/-- A number as bytes, most significant first. -/
def beBytes (k n : Nat) : List Byte := (leBytes k n).reverse

/-- The number that bytes spell, least significant first. -/
def ofLe : List Byte → Nat
  | [] => 0
  | b :: bs => b.toNat + 256 * ofLe bs

/-- The number that bytes spell, most significant first. -/
def ofBe (bs : List Byte) : Nat := bs.foldl (fun n b => n * 256 + b.toNat) 0

/-- A word's four bytes, least significant first. -/
def wordBytes (w : Word) : List Byte := leBytes 4 w.toNat

/-- The word that bytes spell. -/
def wordOf (bs : List Byte) : Word := BitVec.ofNat 32 (ofLe bs)

/-- `len` bytes of a list from `off`, zeros beyond its end. -/
def slice (bs : List Byte) (off len : Nat) : List Byte :=
  let t := (bs.drop off).take len
  t ++ List.replicate (len - t.length) 0

/-- The little-endian number in bytes off to off + len − 1. -/
def numAt (bs : List Byte) (off len : Nat) : Nat := ofLe (slice bs off len)

/-- The big-endian number in bytes off to off + len − 1. -/
def numAtBe (bs : List Byte) (off len : Nat) : Nat := ofBe (slice bs off len)

/-- The bytes of a 384-bit digest, first byte least significant (R128: PDIG). -/
def digestBytes (d : BitVec 384) : List Byte := leBytes 48 d.toNat

/-- Whether every byte is zero. -/
def allZero (bs : List Byte) : Bool := bs.all (· == 0)

/-- Sign of a w-bit field. -/
def signed (w n : Nat) : Int := if n < 2 ^ (w - 1) then (n : Int) else (n : Int) - (2 ^ w : Nat)

/-- A signed number cut to w bits. -/
def toUnsigned (w : Nat) (z : Int) : Nat := (z % (2 ^ w : Nat)).toNat

/-- Bits 31:0 and 63:32 of a 64-bit count. -/
def loWord (n : Nat) : Word := BitVec.ofNat 32 n

/-- Bits 63:32 of a 64-bit count. -/
def hiWord (n : Nat) : Word := BitVec.ofNat 32 (n / 2 ^ 32)

/-- The number of two register words, low word first (R9). -/
def pairNat (lo hi : Word) : Nat := lo.toNat + 2 ^ 32 * hi.toNat

/-- Ceiling division. -/
def ceilDiv (a b : Nat) : Nat := (a + b - 1) / b

/-- Bytes joined into words. -/
def wordsOf : List Byte → List Word
  | a :: b :: c :: d :: r => wordOf [a, b, c, d] :: wordsOf r
  | _ => []

/-- Bytes cut into 32-byte queue slots, the last one filled with zeros. -/
def slotsOf (bs : List Byte) : List (BitVec 256) :=
  (List.range (ceilDiv bs.length 32)).map fun i => BitVec.ofNat 256 (numAt bs (32 * i) 32)

/-- The bytes of a slot. -/
def slotBytes (w : BitVec 256) : List Byte := leBytes 32 w.toNat

/-- CRC-32 with the IEEE 802.3 polynomial (R327, R398), in its reflected form. -/
def crcStep (c : BitVec 32) (b : Byte) : BitVec 32 :=
  (List.range 8).foldl
    (fun (c : BitVec 32) _ => if c.getLsbD 0 then (c >>> 1) ^^^ 0xEDB88320#32 else c >>> 1)
    (c ^^^ b.setWidth 32)

/-- The CRC-32 of bytes. -/
def crc32 (bs : List Byte) : BitVec 32 := ~~~ (bs.foldl crcStep 0xFFFFFFFF#32)

/-! ### Sparse lists

A sparse list holds keys with their values in rising key order; a key that is not listed has its default. -/

/-- The value listed for a key. -/
def look {κ α : Type} [DecidableEq κ] : List (κ × α) → κ → Option α
  | [], _ => none
  | (k', v) :: r, k => if k = k' then some v else look r k

/-- The value of a key, with its default. -/
def lookD {κ α : Type} [DecidableEq κ] (m : List (κ × α)) (k : κ) (d : α) : α := (look m k).getD d

/-- The list without a key. -/
def erase {κ α : Type} [DecidableEq κ] (m : List (κ × α)) (k : κ) : List (κ × α) := m.filter fun e => decide (e.1 ≠ k)

/-- Lists a value in its place in the order `lt`. -/
def insertAt {κ α : Type} [DecidableEq κ] (lt : κ → κ → Bool) : List (κ × α) → κ → α → List (κ × α)
  | [], k, v => [(k, v)]
  | (k', v') :: r, k, v =>
    if k = k' then (k, v) :: r
    else if lt k k' then (k, v) :: (k', v') :: r
    else (k', v') :: insertAt lt r k v

/-- Writes a value, listing it only where it differs from the default. -/
def putD {κ α : Type} [DecidableEq κ] [DecidableEq α] (lt : κ → κ → Bool) (m : List (κ × α)) (k : κ) (v d : α) :
    List (κ × α) :=
  if v = d then erase m k else insertAt lt m k v

/-- The order of number keys. -/
def natLt (a b : Nat) : Bool := decide (a < b)

/-- A number-keyed write with default. -/
def nput {α : Type} [DecidableEq α] (m : List (Nat × α)) (k : Nat) (v d : α) : List (Nat × α) := putD natLt m k v d

/-- A number-keyed write that always lists the value. -/
def nset {α : Type} (m : List (Nat × α)) (k : Nat) (v : α) : List (Nat × α) := insertAt natLt m k v

/-- A number-keyed read with default. -/
def nget {α : Type} (m : List (Nat × α)) (k : Nat) (d : α) : α := lookD m k d

end Sys2Proof.Machine
end

