-- ==== Sys2Proof/Machine/State.lean ====
section
/-! DEFINITION. The state of the AK5248 as plain data, its faults and refusals, and the state after reset.

Every register the spec names is a `RegName`; its value is kept in `State.regs`, a sparse canonical list of words in
which a register that is not listed holds its Reset value (`Sys2Proof.Machine.resetVal`, in Machine/Regs.lean).  What
the spec gives the machine beside its registers stands in the structures below, each with the rule that names it. -/

namespace Sys2Proof.Machine

/-- Every register of the register chapters, in the order of R432's blocks.  A register "for the entry that X selects"
is one register per entry here; a selector is one register per window. -/
inductive RegName where
  -- DEV (R429, R434)
  | devId | devCasc | devToken | devHeartbeat | devTokenCfg | devTdesc | devTdescHi | devTcmd | devTstat | devTexist
  -- CLK (R382)
  | clkStat | clkCtl | clkRefcnt | clkLossTick | clkLossTickHi | clkLossDur
  -- URN (R383)
  | urnBudget | urnStat | urnPower | urnDefer | urnRail | urnCl | urnCls | urnTemp
  -- STR (R402)
  | strStat | strErrcfg | strErrctl | strEvstat | strEvpop | strEv | strIrqack | strInj | strInjWord | strSrc | strPend
  -- CAD (R402)
  | cadStat | cadSel | cadSelstat | cadHead | cadRec
  -- TICK (R191)
  | tickLo | tickHi | tickCascOfs | tickCascOfsHi | timeCtl | timeStat | timeAdj | timeNs | timeSecLo | timeSecHi
  | timeStep | timeSetNs | timeSetSecLo | timeSetSecHi | timeMapTick | timeMapTickHi | timeMapSec | timeMapSecHi
  | timeMapFrac | timeMapAdj | ppsCfg | ppsInStamp | ppsInStampHi | ppsInFrac | spSel | spCtl | spTickLo | spTickHi
  | spArg | spCmd | spStat
  -- IMG (R324)
  | imgStat | imgCause | imgCmd | imgCmdstat | imgSrc | imgSrcHi | imgDst | imgDstHi | imgLen | imgJdata | imgValid
  | imgSlots | imgLibsel | imgLibent | imgStep | imgDevpub
  -- HCE (R325)
  | hceCtl | hceCtx | hceWrr | hceSlot | hceDesc | hceDescHi | hceCmd | hceStat
  -- MNT (R402)
  | mntSel | mntEnt | mntLogsel | mntLogTick | mntLogTickHi | mntLog | mntBudget
  -- DBG (R431)
  | dbgCtl | dbgStat | dbgInsn | dbgData0 | dbgData0Hi | dbgData1 | dbgData1Hi | dbgMsg
  -- CAS (R349)
  | casStat | casEpoch | casCfg | casCmd | casCmdstat | casPtick | casPtickHi | casExpect | casExpectHi | casGsel
  | casGstat | casSsel | casSlink | casCmis | casMembers | casAdmitted | casLink | casLdly
  -- INF (R293)
  | infRsel | infRngCtl | infRngBase | infRngLimit | infRngStat | infRngGen | infRngPtr | infRngPtrHi | infRngWcnt
  | infRngWcntHi | infRngRights | infRngCmd | infSweep | infBktCfg | infPsel | infPchStat | infPchCecnt | infPchOvfcnt
  | infLog
  -- CUP (R128)
  | cupState | cupStateReq | cupOwner | cupLoadSrc | cupLoadSrcHi | cupLoadCmd | cupLoadStat | cupBrd | cupBrdReq
  | cupBdrv | cupCap | cupRbAddr | cupRbAddrHi | cupRbCmd | cupSin | cupSout | cupQcfg | cupQstat | cupPdig
  | cupPdigTick | cupPdigTickHi | cupPdigStat | cupScrub | cupEdig | cupSdig
  -- LEAF (R89)
  | leafStatus | leafDiv | leafDivgrant | leafCrkSel | leafCrkGstat
  -- TRAY (R84, R165)
  | trayLmap | trayPhealth | rsvCmd | rsvStat | rsvStream | rsvSrc | rsvSlots | rsvDst | traySsel | traySent | trayScfg
  | traySbudget | trayQgsel | trayQg | colCfg | colSrcsel | colSrc | colStat | colVec | colExpect | colNotify
  | colNotifyHi | colMsghdr | colPop | colMsgtick | colMsgtickHi | colMsg
  -- RTR (R434)
  | rtrErr
  -- QUAD (R234)
  | quadCfg | quadStat | lnCtl | lnStat | lnTxeq | lnEscan | lnEscanRes | lnMargin | portStat | portCtl | portMac
  | portMacHi | portCnt | portCntHi | clsSel | clsAct | clsKey | clsAddr | clsDefault | pacSel | pacCfg | pacStreams
  | pacTrs | pacStat | mrgSel | mrgCfg | mrgStat | ptpCfg | txstamp | txstampHi | txstampInfo | rawCtl | rawIdle | mqCfg
  | mqStat | tmpl
  -- STK (R265)
  | stkStat | stkCtl | stkCgStart | stkCgCfg | stkAge | stkTemp | stkScrub | stkRetired | stkPanic | stkWaymask | rtpSel
  | rtpCfg | rtpBind | rtpBase | rtpBaseHi | rtpRing | rtpStart | rtpStartHi | rtpPeriod | rtpPeriodHi | rtpInterval
  | rtpStat | rtpFrame | pchStat | pchCtl | pchLat | pchDly
  -- PCIE (R434)
  | pcieCfg | pcieLink
  -- CPU (R430)
  | cpuCtl | cpuStat | cpuBoot | cpuBootHi | cpuMtimecmp | cpuMtimecmpHi | cpuMsip | cpuPin
  deriving DecidableEq, Repr

/-- One register: its name, the instance of its block (cup, leaf, lane, stack, ...) and the element of its array. -/
structure RegKey where
  name : RegName
  i : Nat := 0
  j : Nat := 0
  deriving DecidableEq, Repr

/-- Tray response codes (R139). -/
inductive Code where
  | ok | denied | uncorrectable | retired | empty
  deriving DecidableEq, Repr

/-- A response on its way to its master, or one flit of it as it arrives: `last` is LAST of its sideband (R136). -/
structure Resp where
  mid : Nat
  tag : Nat
  code : Code
  bytes : List Byte := []
  last : Bool := true
  deriving DecidableEq, Repr

/-- Request kinds (R134). -/
inductive ReqOp where
  | read | write | fence
  /-- a reserved OP, by its code -/
  | reserved (n : Nat)
  deriving DecidableEq, Repr

/-- The destination endpoint of a request (R29, R104, R130, R132, R140): an attachment of a stack, the queue port of a
cup, a block of registers by the number `blockNo` gives it, a collector, the issuing endpoint itself (a FENCE), or
reserved space. -/
inductive Endpoint where
  | stack (i att : Nat)
  | cup (c : Nat)
  | block (n : Nat)
  | collector (n : Nat)
  | self
  | nowhere
  deriving DecidableEq, Repr

/-- A request a master has issued and not yet seen answered (R138), with what its header carries (R134): `len` is its
length in bytes.  `lost` says that no answer can come, since an error in a header discarded the request or its response;
`got` and `bad` are the bytes of the response flits so far and whether one of them was damaged (R136, R138). -/
structure Outstanding where
  mid : Nat
  tag : Nat
  op : ReqOp
  issued : Nat
  dst : Endpoint := .self
  cls : Nat := 2
  dom : Nat := 0
  cidx : Nat := 0
  addr : Nat := 0
  len : Nat := 1
  lost : Bool := false
  got : List Byte := []
  bad : Bool := false
  deriving DecidableEq, Repr

/-- What a held refusal releases (R415): a DENIED response, or the fields (high, low, value) of a failed status in a
command's status register. -/
inductive HeldEff where
  | deny
  | status (l : List (RegKey × List (Nat × Nat × Nat)))
  deriving DecidableEq, Repr

/-- A refusal formed for a tenant and held to its fixed latency (R415); `due` is a root cycle. -/
structure HeldRefusal where
  mid : Nat
  tag : Nat
  due : Nat
  eff : HeldEff
  deriving DecidableEq, Repr

/-- A queue access (R100 to R102). -/
inductive QAccess where
  | opn
  | dat (slots : List (BitVec 256))
  | cls (lastBytes flags : Nat)
  | rd (slots : Nat)
  | drp
  deriving DecidableEq, Repr

/-- A tray request as its master's interface holds it behind a FENCE (R144). -/
inductive Req where
  | read (addr len : Nat) (err : FlitErr)
  | write (addr : Nat) (data : List Byte) (err : FlitErr)
  | fence
  | queue (q : QRef) (acc : QAccess)
  | signal (n : Nat)
  | message (n : Nat) (bytes : List Byte)
  /-- a request that its target refuses whatever its rights: a wrong size (R104, R159), a reserved OP (R98, R135) -/
  | refused (op : ReqOp) (addr len : Nat)
  /-- a write of a word or a read of a register by its place, and one by its address (R8 to R10) -/
  | put (k : RegKey) (v : Word)
  | get (k : RegKey)
  | putAt (addr size : Nat) (v : Word)
  | getAt (addr : Nat)
  deriving DecidableEq, Repr

/-- A queue access held at a full or empty queue (R101, R102), since tick `since`. -/
structure Stall where
  mid : Nat
  tag : Nat
  q : QRef
  acc : QAccess
  since : Nat
  deriving DecidableEq, Repr

/-- A request that has reached a stack controller and waits for a training stage of a pseudo-channel (R256): its bytes are
written, or `len` bytes are read. -/
structure HbmReq where
  mid : Nat
  tag : Nat
  dom : Nat
  addr : Nat
  len : Nat
  data : Option (List Byte) := none
  /-- the tray cycle of its acceptance (R241) -/
  since : Nat := 0
  /-- it is held, having passed the rights check when it was accepted (R279, R280) -/
  passed : Bool := false
  deriving DecidableEq, Repr

/-- Work of the device's own whose access to HBM waits for a training stage (R256): the descriptor of the HCE's context i
(R319), the creation of tenant n (R412), the OP on a core in session window `win` (R423), the comparison of a device's
digests at its JOIN (R333) or in the census (R347). -/
inductive Later where
  | descriptor (i : Nat)
  | create (n : Nat)
  | core (win : Nat)
  | join (id : Nat) (digests : List (BitVec 384 × Bool))
  | census (id first : Nat) (digests : List (BitVec 384 × Bool))
  deriving DecidableEq, Repr

/-- A packet in a queue (R100): its header once written, its data slots, whether data was discarded, its producer. -/
structure Pkt where
  header : Option (BitVec 256) := none
  slots : List (BitVec 256) := []
  trunc : Bool := false
  dom : Nat := 0
  mid : Nat := 0
  deriving DecidableEq, Repr

/-- A packet queue (R99): the slots left of the packet whose header the consumer has taken, the packets behind it
(only the last may be open), and whether a DROP waits for the head packet's close (R102). -/
structure QueueSt where
  cur : Option (List (BitVec 256)) := none
  pkts : List Pkt := []
  dropping : Bool := false
  deriving DecidableEq, Repr

/-- The registers of a math block (R73). -/
structure MathSt where
  a : BitVec 27 := 0
  b16 : BitVec 16 := 0
  ce : Bool := false
  load : Bool := false
  loadB : Bool := false
  rst : Bool := false
  neg : Bool := false
  coef : BitVec 24 := 0
  m : BitVec 51 := 0
  mLoad : Bool := false
  p : BitVec 58 := 0
  deriving DecidableEq, Repr

/-- The output side of a block RAM (R68, R69): the DOUT of each port, its output register, and the ECC flags. -/
structure BramOut where
  doutA : BitVec 64 := 0
  doutB : BitVec 64 := 0
  oregA : BitVec 64 := 0
  oregB : BitVec 64 := 0
  sbe : Bool := false
  ue : Bool := false
  sbeReg : Bool := false
  ueReg : Bool := false
  deriving DecidableEq, Repr

/-- A status-port event (R105): the 64-bit word. -/
abbrev StatusEvent := BitVec 64

/-- A shadow load in progress (R112): the CODE its authentication gave (0 passed), the structure and content words read
from the image, the digest it declares, and its library entry. -/
structure LoadJob where
  code : Nat
  /-- the image is still in HBM, a training stage holding it (R256): the requester's domain and the image's address -/
  unread : Option (Nat × Nat) := none
  words : List Word := []
  content : Option (List Word) := none
  digest : BitVec 384 := 0
  lib : Option Nat := none
  /-- the root cycle of the write that started it, from which a refusal's latency counts (R415) -/
  since : Nat := 0
  deriving DecidableEq, Repr

/-- A readback in progress (R124). -/
structure RbJob where
  regions : Nat
  addr : Nat
  dom : Nat
  waiting : Bool := false
  /-- the root cycle of the write that started it, from which a refusal's latency counts (R415) -/
  since : Nat := 0
  deriving DecidableEq, Repr

/-- A stream-in port's buffer (R96): packets held, whether the first beat of the head packet is taken, and whether a
packet was discarded since the last SOP delivered. -/
structure SinSt where
  pkts : List (List Byte) := []
  started : Bool := false
  gap : Bool := false
  deriving DecidableEq, Repr

/-- A cup's request port (R98): tags outstanding, room kept for the responses of reads (tag, bytes), responses the
fabric has not taken, the write whose data beats are arriving: ADDR, TAG, length, bytes so far, and a header that has
been transferred and cannot go on yet: OP, TAG, ADDR, length. -/
structure ReqPortSt where
  tags : List Nat := []
  room : List (Nat × Nat) := []
  resp : List Resp := []
  cur : Option (Nat × Nat × Nat × List Byte) := none
  held : Option (Nat × Nat × Nat × Nat) := none
  deriving DecidableEq, Repr

/-- What the fabric of a cup holds between clock edges. -/
structure FabSt where
  /-- macrocell registers, cell n macrocell m at 4n + m (R43) -/
  macs : List (Nat × Bool) := []
  /-- math blocks (R73) -/
  math : List (Nat × MathSt) := []
  /-- block-RAM contents, block b 64-bit word a at 2048b + a (R70) -/
  bram : List (Nat × BitVec 64) := []
  /-- words that count as unwritten or damaged under ECC (R69): 1 single-bit error, 2 uncorrectable -/
  bramErr : List (Nat × Nat) := []
  bramOut : List (Nat × BramOut) := []
  /-- crossing registers of outgoing die-edge wires, first and second stage, wire j at place n of side sd at
  640sd + 4n + j (R79), and the sides whose stages carry a flip window (R81) -/
  cross1 : List (Nat × Bool) := []
  cross2 : List (Nat × Bool) := []
  crossF1 : List Nat := []
  crossF2 : List Nat := []
  /-- clock lines still to give E1, and still to give E2, since the last swap (R115) -/
  waitE1 : List Nat := []
  waitE2 : List Nat := []
  /-- the data each tap shows, by block, and the control outputs of each bound port, N pins at 15:0 and S pins at
  31:16, by binding word (R92, R94) -/
  portD : List (Nat × BitVec 64) := []
  portC : List (Nat × Nat) := []
  deriving DecidableEq, Repr

/-- What a cup holds beside its registers. -/
structure CupSt where
  /-- which of the two plane banks is active (R111): false bank 0, true bank 1 -/
  bank : Bool := false
  /-- frame words of bank 0 and bank 1 in canonical order (R63), sparse, 0 when unlisted (R53) -/
  plane0 : List (Nat × Word) := []
  plane1 : List (Nat × Word) := []
  /-- bits of configuration words that stand flipped (R125, R401): word w of bank b at 787600b + w -/
  cfgErr : List (Nat × Word) := []
  fab : FabSt := {}
  /-- the fabric as it stood before the edges of root cycle n, and the bits port A has written there since, so that
  edges at one root instant all see the state before it (R68, R73, R79) -/
  old : Option (Nat × FabSt × List (Nat × BitVec 64)) := none
  /-- root cycle of the last swap point (R115) -/
  swapRoot : Nat := 0
  /-- blocks being cleared at the flip and the edges left (R117) -/
  clearing : List (Nat × Nat) := []
  /-- the lines run (R121, R355) -/
  clocksOn : Bool := false
  /-- edges fall only after this root cycle (R121, R122, R355) -/
  startRoot : Nat := 0
  /-- each line gives its last edge after this tick (R121, R355) -/
  stopTick : Option Nat := none
  /-- since the last power sample: registers that toggled at an edge of their line, and registers that met one (R383) -/
  toggles : Nat := 0
  chances : Nat := 0
  /-- root cycle of the last edge of each line -/
  lastEdge : List (Nat × Nat) := []
  /-- tick since which neither AWAKE nor port work held (R355) -/
  idleSince : Nat := 0
  awake : Bool := false
  /-- a granted transition waits for its completion command -/
  moving : Bool := false
  /-- a STATE_REQ deferred by a lease (R378): its TARGET -/
  deferred : Option Nat := none
  /-- the domain's DORMANT is emulated under debug (R424) -/
  emulated : Bool := false
  /-- digest declared for the shadow plane (R112) -/
  xdig : BitVec 384 := 0
  loadJob : Option LoadJob := none
  /-- accepted border modes waiting to be applied, by side (R107) -/
  brdPend : List (Nat × Word) := []
  /-- a DRIVE or grant bit was cleared and the shadow check is due (R109, R127) -/
  recheck : Bool := false
  /-- values captured (R122) and whether they have been read -/
  capMacs : List (Nat × Bool) := []
  capMath : List (Nat × MathSt) := []
  /-- the words of region 2 of a readback, by block (R124) -/
  capOut : List (Nat × BitVec 64) := []
  capUnread : Bool := false
  /-- lines that still owe a capture edge, the root cycle they must follow, and hold mode (R122) -/
  capWait : List Nat := []
  capRoot : Nat := 0
  capHold : Bool := false
  rbJob : Option RbJob := none
  sin : List (Nat × SinSt) := []
  /-- open packets of the stream-out ports (R96) -/
  sout : List (Nat × List Byte) := []
  rq : ReqPortSt := {}
  /-- egress queues that were full when the fabric last wrote them (R355) -/
  egFull : List Nat := []
  /-- an egress access that the queue port has taken and whose queue has no room for it yet (R94, R101) -/
  egHeld : Option (Nat × QAccess) := none
  /-- the ingress queue whose slot the queue port shows (R104) -/
  inShown : Nat := 0
  /-- the status buffer (R105): events waiting, oldest first, and events lost -/
  status : List StatusEvent := []
  statusLost : Nat := 0
  /-- values frozen in HOLD: incoming wire j at place n of side sd at 640sd + 4n + j (R106) -/
  hold : List (Nat × Bool) := []
  /-- this pass met an uncorrectable word; a flip cut this pass (R126) -/
  passUe : Bool := false
  passCut : Bool := false
  deriving DecidableEq, Repr

/-- What a leaf die holds beside its registers. -/
structure LeafSt where
  /-- dividers in force, by n; unlisted 5 (R76, R89) -/
  divNow : List (Nat × Nat) := []
  /-- accepted divider values not yet in force (R78) -/
  divPend : List (Nat × Nat) := []
  /-- tick of the last CRC mismatch of a group (R86) -/
  crcAt : List (Nat × Nat) := []
  /-- ticks of the retrains of a group in the last second (R86) -/
  retrains : List (Nat × List Nat) := []
  /-- start tick of a retrain in progress (R86) -/
  gapStart : List (Nat × Nat) := []
  /-- the outputs that the second crossing stages of quadrant m held, at 2560m + key, as a die-crossing group began to
  retrain (R86) -/
  gapHeld : List (Nat × List (Nat × Bool)) := []
  /-- lanes already spared per group (R86) -/
  spared : List (Nat × Nat) := []
  /-- cups whose loads the configuration port has still to serve, in order of request (R88) -/
  loads : List Nat := []
  /-- the steep pass is paused since this tick (R395) -/
  pausedAt : Option Nat := none
  /-- the steep pass last resumed at this tick (R395) -/
  resumedAt : Option Nat := none
  deriving DecidableEq, Repr

/-- A reservation tree (R151): source endpoint, via router, destinations, first-link slots, best-effort. -/
structure Tree where
  srcK : Nat
  srcPort : Nat
  via : Option Nat
  dsts : List (Nat × Nat)
  slots : List Nat
  be : Bool
  deriving DecidableEq, Repr

/-- A prepared change (R154): its swap set, the new tree or a release, and whether its point of application is past. -/
structure Prep where
  set : Nat
  tree : Option Tree
  applied : Bool := false
  deriving DecidableEq, Repr

/-- A block that puts packets onto streams (R150): stream-out port n of a cup, a real-time port, or an engine, RAW lane or
cascade link of a quad, which counts at port n. -/
inductive Producer where
  | sout (c n : Nat)
  | rtp (x : Nat)
  | port (q n : Nat)
  deriving DecidableEq, Repr

/-- A packet in its producer's buffer as it waits for the slots of its stream (R148): the producer and the endpoint where
it stands, the bytes, the flits that have left, and whether an error has damaged one of those (R138). -/
structure WaitPkt where
  owner : Producer
  k : Nat
  p : Nat
  bytes : List Byte
  gone : Nat := 0
  bad : Bool := false
  deriving DecidableEq, Repr

/-- A stream's tree, prepared change, the state at each destination (R155), its last SOP tick there and at the source
since its tree took effect, the tick of the producer's last DEGRADED cause (R196, R363), and the packets that wait in
their producer's buffer for the slots held, oldest first (R148). -/
structure StreamSt where
  tree : Option Tree := none
  prep : Option Prep := none
  srcSop : Option Nat := none
  dstState : List (Nat × Nat) := []
  lastSop : List (Nat × Nat) := []
  degradedAt : Option Nat := none
  wait : List WaitPkt := []
  deriving DecidableEq, Repr

/-- A collector message (R158): source index, the Strainer source it stems from (R170), tick of acceptance, 32 bytes. -/
structure ColMsg where
  idx : Nat
  src : Nat
  tick : Nat
  bytes : List Byte
  deriving DecidableEq, Repr

/-- A collector's message queue, the requests that wait in their sources' interfaces for a credit (R161), the requests
pending at it, of which it accepts one in each tray cycle (R160), and the tray cycle and index of the
completion it accepted last (R163).  A request is its master, its tag, and the message, none for a SIGNAL. -/
structure ColSt where
  msgs : List ColMsg := []
  waiting : List (Nat × Nat × Option (List Byte)) := []
  queued : List (Nat × Nat × Option (List Byte)) := []
  last : Option (Nat × Nat) := none
  deriving DecidableEq, Repr

/-- Device time and PPS (R172 to R178).  `acc` counts 2⁻³² ns from the PTP epoch. -/
structure TimeSt where
  acc : Nat := 0
  secDone : Nat := 0
  adj : Int := 0
  pendAdj : Option Int := none
  pendStep : Option Int := none
  pendSet : Option (Nat × Nat) := none
  servoGood : Nat := 0
  everLocked : Bool := false
  lastUpdate : Nat := 0
  ppsFallAt : Nat := 0
  ppsStamped : Bool := false
  deriving DecidableEq, Repr

/-- A classifier entry (R207): CLS_ACT, CLS_KEY and the address. -/
structure ClsEnt where
  act : Word := 0
  key : Word := 0
  addr : BitVec 128 := 0
  deriving DecidableEq, Repr

/-- A pacer (R216, R217): its committed registers, its tokens, the tick of the last token with the part of TRS already
past then in 2⁻³² ns, the root cycle since which it is due, and its queue with arrival numbers. -/
structure PacEnt where
  cfg : Word := 0
  streams : Word := 0
  trs : Word := 0
  tokens : Nat := 0
  lastTok : Nat := 0
  part : Nat := 0
  since : Nat := 0
  queue : List (Nat × List Byte) := []
  deriving DecidableEq, Repr

/-- A merge pair (R212): the highest sequence number passed, the numbers passed, the last tick of each leg.  Its
registers stand in the register file. -/
structure MrgSt where
  hi : Option Nat := none
  seen : List Nat := []
  lastA : Nat := 0
  lastB : Nat := 0
  deriving DecidableEq, Repr

/-- A transmit stamp (R215): tick, fraction, port, cookie. -/
structure TxStamp where
  tick : Nat
  frac : Nat
  port : Nat
  cookie : Nat
  deriving DecidableEq, Repr

/-- What a lane holds beside its registers. -/
structure LaneSt where
  /-- ticks of counted retrains (R232) -/
  counted : List Nat := []
  retraining : Bool := false
  /-- a retrain is due: LOL rose, or PCS alignment stayed lost (R231) -/
  due : Bool := false
  /-- the present retrain counts against no budget -/
  uncounted : Bool := false
  /-- a power request waits for a grant, with its LP (R230) -/
  wantLp : Option Nat := none
  /-- a power request deferred by a lease (R378) -/
  deferredLp : Option Nat := none
  /-- margin heights below, and at or above, THRESH in a row (R229) -/
  below : Nat := 0
  above : Nat := 0
  /-- bits slipped at the receive boundary (R226) -/
  slips : Nat := 0
  /-- errors an injected burst has put on the receiver (R401) -/
  burst : Nat := 0
  /-- words of transmit packets that had still to leave a RAW lane at root cycle `txAt`, and the part of a word time past
  then (R195, R225) -/
  txWords : Nat := 0
  txAt : Nat := 0
  txPart : Nat := 0
  /-- tick of the margin monitor's last measurement (R229), and DWELL of the scan that runs (R228) -/
  measuredAt : Nat := 0
  dwell : Nat := 0
  deriving DecidableEq, Repr

/-- What a quad holds beside its registers and its lanes. -/
structure QuadSt where
  cls : List (Nat × ClsEnt) := []
  pac : List (Nat × PacEnt) := []
  mrg : List (Nat × MrgSt) := []
  stamps : List TxStamp := []
  /-- PTP messages handed to the servo (R215) -/
  arrivals : Nat := 0
  /-- packets queued in the pacers so far (R217) -/
  pacSeq : Nat := 0
  /-- tick of PCS alignment loss per port (R231) -/
  pcsLost : List (Nat × Nat) := []
  /-- lane plan entry in force, words 1 to 3 (R198) -/
  plan : List Word := []
  /-- streams whose open packet a damaged flit has spoilt, so that its further flits are discarded too (R138) -/
  spoilt : List Nat := []
  /-- N and F of PLL A and of PLL B (R193) -/
  pllA : Nat × Nat := (0, 0)
  pllB : Nat × Nat := (0, 0)
  deriving DecidableEq, Repr

/-- A line of the tray cache (R261): the 64-byte line number in the stack, its plaintext, its marks, and whether an error
that SECDED cannot correct stands in it, unread so far (R264). -/
structure CacheLine where
  line : Nat
  bytes : List Byte
  dirty : Bool
  poison : Bool := false
  bad : Bool := false
  deriving DecidableEq, Repr

/-- A frame-table entry of a write port (R245). -/
structure FrameEnt where
  num : Nat
  slot : Nat
  seq : Nat
  tick : Nat
  ended : Bool
  count : Nat
  deriving DecidableEq, Repr

/-- A real-time port (R243 to R248): the writer's slot, SEQ, frame table, gap, and packets that wait in its buffer
with their arrival ticks; the reader's next boundary, the tick of its last boundary with the part of PERIOD past then in
2⁻³² ns, the frame being sent with the index of the next packet, the packets prefetched, and the last frame chosen. -/
structure RtpSt where
  slot : Nat := 0
  seq : Nat := 0
  frames : List FrameEnt := []
  gap : Bool := false
  buf : List (List Byte × Nat) := []
  boundary : Nat := 0
  bTick : Nat := 0
  bPart : Nat := 0
  sending : Option (FrameEnt × Nat) := none
  ahead : List (List Byte) := []
  last : Option FrameEnt := none
  deriving DecidableEq, Repr

/-- A full retrain of a pseudo-channel, asked for or under way (R249, R256): the tick since which panic holds it, its
stages completed, whether a stage runs, the tick it began and that of its last event. -/
structure RetrainSt where
  waitingSince : Option Nat := none
  stage : Nat := 0
  active : Bool := false
  startedAt : Nat := 0
  lastRaise : Nat := 0
  deriving DecidableEq, Repr

/-- What a pseudo-channel holds beside its registers: retrain, drift history, correction log (R272), leak instants. -/
structure PchSt where
  retrain : Option RetrainSt := none
  /-- ticks of completed full retrains, with the tick each started (R393) -/
  done : List (Nat × Nat) := []
  log : List (Word × Word × Nat) := []
  leakBase : Nat := 0
  /-- the verification read after self-refresh is due (R253) -/
  verify : Bool := false
  deriving DecidableEq, Repr

/-- A bank of a pseudo-channel (R242): the row left open, the predictor's 2-bit counter, the tray cycle of the last
access. -/
structure BankSt where
  row : Option Nat := none
  ctr : Nat := 2
  lastAt : Nat := 0
  deriving DecidableEq, Repr

/-- What a stack holds beside its registers. -/
structure StackSt where
  /-- the tray cache slice, set × 16 + way (R261) -/
  cache : List (Nat × CacheLine) := []
  /-- tree pseudo-LRU bits per set (R262) -/
  plru : List (Nat × BitVec 15) := []
  /-- delays saved at self-refresh entry (R252), and the temperature then -/
  saved : List (Nat × Word) := []
  srTemp : Int := 0
  /-- tick of the last request (R252) -/
  lastReq : Nat := 0
  /-- tick since which the temperature stayed 3 °C below each boundary, by the rate above it (R251) -/
  coolSince : List (Nat × Nat) := []
  /-- injected errors for the next stored line (R401): byte errors, wrong tag -/
  injBytes : Nat := 0
  injTag : Bool := false
  /-- stored lines that an injection damaged (R401) -/
  injLines : List Nat := []
  /-- a deferred self-refresh request (R378) -/
  deferredSr : Bool := false
  deriving DecidableEq, Repr

/-- A key range in force (R276, R287): base and limit units, owner, generation, keys of the live generations, sweep
pointer as a line number, counters, and the sweep's raised share. -/
structure RangeSt where
  base : Nat := 0
  limit : Nat := 0
  owner : Nat := 0
  gen : Nat := 0
  k1 : BitVec 256 := 0
  k2 : BitVec 256 := 0
  n1 : BitVec 256 := 0
  n2 : BitVec 256 := 0
  ptr : Nat := 0
  wcnt : Nat := 0
  wnew : Nat := 0
  share : Nat := 0
  deriving DecidableEq, Repr

/-- A Caddy record or event-queue entry (R398). -/
structure CadRec where
  seq : Nat
  tick : Nat
  sec : Nat
  ns : Nat
  source : Nat
  sev : Nat
  tvalid : Bool
  inj : Bool
  dom : Nat
  cause : Nat
  boot : Nat
  bytes : List Byte
  deriving DecidableEq, Repr

/-- A library directory entry (R297). -/
structure LibEnt where
  dom : Nat := 1
  valid : Bool := false
  deriving DecidableEq, Repr

/-- An owner key slot (R308). -/
inductive KeySlot where
  | blank
  | active (hash : BitVec 384)
  | revoked (hash : BitVec 384)
  deriving DecidableEq, Repr

/-- What the device keeps without power: the store die (R294), the marks (R295), the directory (R297), the one-time
cells, the Caddy ring, newest first (R399), the boot count, the die-health marks (R82) and the factory's values. -/
structure NvSt where
  store : List Host.Cell := []
  fwA : Bool := false
  fwB : Bool := false
  primary : Bool := false
  golden : Bool := false
  lib : List (Nat × LibEnt) := []
  slots : List KeySlot := [.blank, .blank, .blank, .blank]
  minSvn : Nat := 0
  ring : List CadRec := []
  boot : Nat := 0
  failed : List Nat := []
  retiredEver : List Nat := []
  deriving DecidableEq, Repr

/-- The Caddy engine (R400): records buffered and waiting, oldest first, records dropped since the last drop record. -/
structure CaddySt where
  buf : List CadRec := []
  waiting : List CadRec := []
  dropped : Nat := 0
  nextSeq : Nat := 0
  deriving DecidableEq, Repr

/-- An image command between its write and its completion (R324): its master, its operands when written, whether the
Kettle has begun to serve it, and the bytes gathered through IMG_JDATA. -/
structure ImgJob where
  mid : Nat
  op : Nat
  region : Nat
  lib : Nat
  src : Nat
  dst : Nat
  len : Nat
  srcj : Bool
  started : Bool := false
  gathered : List Byte := []
  /-- the root cycle of the write, from which a refusal's latency counts (R415) -/
  since : Nat := 0
  deriving DecidableEq, Repr

/-- A hash-and-cipher job (R319): its descriptor, chunks left, its CODE once it has finished, abort request. -/
structure HceJob where
  desc : List Byte
  dom : Nat
  left : Nat
  code : Nat := 0
  stop : Bool := false
  finished : Bool := false
  deriving DecidableEq, Repr

/-- What a switch-point entry was staged with (R181): the values of its registers at the write that staged it. -/
structure SpEnt where
  exec : Nat := 0
  casc : Bool := false
  hold : Bool := false
  group : Nat := 0
  action : Nat := 0
  args : List Word := []
  deriving DecidableEq, Repr

/-- A frame in the replay buffer of a link (R328, R329): its SEQ, its bytes, and how often it has been replayed. -/
structure HeldFrame where
  seq : Nat
  bytes : List Byte
  replays : Nat := 0
  deriving DecidableEq, Repr

/-- A Selov link (R328, R329): the next SEQ to send and to receive, the frames held for replay, the tick of the last
progress, whether NAK is due, whether a retrain is due or runs and since when, the ticks of counted failures, the streams
received with the flits of their open packets, and since when a failed link's streams await a REROUTE (R343). -/
structure LinkSt where
  txSeq : Nat := 0
  rxSeq : Nat := 0
  replay : List HeldFrame := []
  lastAck : Nat := 0
  nakDue : Bool := false
  due : Bool := false
  retrainAt : Option Nat := none
  uncounted : Bool := false
  fails : List Nat := []
  rx : List (Nat × List Byte) := []
  /-- the quad at the far end, as the last training found it (R343) -/
  farQuad : Nat := 0
  failedAt : Option Nat := none
  deriving DecidableEq, Repr

/-- A cascade group as the master and as a member see it (R344 to R346). -/
structure CasGroup where
  exec : Nat := 0
  ready : List Nat := []
  executed : List Nat := []
  failed : List Nat := []
  commit : Bool := false
  raised : List Nat := []
  deriving DecidableEq, Repr

/-- A link as link states report it (R337), by the number of its far device plus 1024 times its state. -/
def linkCode (far state : Nat) : Nat := far + 1024 * state

/-- The far devices of the links that a report shows up. -/
def reportedUp (codes : List Nat) : List Nat := ((codes.filter fun c => c / 1024 == 2).map (· % 1024)).dedup

/-- The cascade (R331 to R348): the tick of the last CLAIM from each device and of the last one sent; this device's
epoch as claimant, and the highest seen; whether it claims, and whether it has sent JOIN in this hold; its groups; the
link states of each device, by `linkCode`; the deputy's poll; the devices that await admission and the links of those admitted; the
census; the deputy's copy of the member list; COAST and ALIGNED as members report them; whether the whole offset is due
after a coast; and the tick at which the device began to listen. -/
structure CasSt where
  claims : List (Nat × Nat) := []
  lastSent : Option Nat := none
  epoch : Nat := 0
  maxEpoch : Nat := 0
  claimant : Bool := false
  asked : Bool := false
  groups : List (Nat × CasGroup) := []
  routes : List (Nat × List Nat) := []
  polled : List (Nat × Bool) := []
  lastPoll : Option Nat := none
  joined : List (Nat × Nat) := []
  paths : List (Nat × Nat) := []
  round : Nat := 0
  roundAt : Nat := 0
  answered : List Nat := []
  registry : List Word := []
  states : List (Nat × Nat) := []
  realign : Bool := false
  startAt : Nat := 0
  /-- IDs that two devices have been found to carry, until the owner admits one (R333) -/
  dups : List Nat := []
  deriving DecidableEq, Repr

/-- The root clock (R353, R358 to R362). -/
inductive RootMode where
  | off | running | holding | stopped | coasting | relocking
  deriving DecidableEq, Repr

/-- The root and the always-on island's reference monitor (R358): windows outside and inside the limits in a row, the
AON cycle of the last loss, the tick of the last resumption, and the switch-point entries armed at the loss (R190). -/
structure ClkSt where
  mode : RootMode := .off
  /-- the reference is inside its limits, as the monitor has judged it; CLK_STAT.REF_OK shows it until a reset of the block -/
  refOk : Bool := true
  bad : Nat := 0
  good : Nat := 0
  lossAon : Nat := 0
  resumeTick : Nat := 0
  lost : List Nat := []
  deriving DecidableEq, Repr

/-- A power request (R373), with the tray cycle of its arrival. -/
structure UrnReq where
  client : Nat
  units : Nat
  cycle : Nat := 0
  deriving DecidableEq, Repr

/-- The Urn beside its registers (R373 to R377). -/
structure UrnSt where
  pend : List UrnReq := []
  prevAbove : Bool := false
  lowSince : Option Nat := none
  lastStep : Nat := 0
  lastRaise : Nat := 0
  attributed : List Nat := []
  /-- the client of each level raised, newest first (R377) -/
  order : List Nat := []
  coolSince : Option Nat := none
  tenantPower : List (Nat × Nat) := []
  /-- power-throttle level of each client (R375), before the 4 that heat brings (R368) -/
  lvl : List (Nat × Nat) := []
  /-- a sensor has exceeded 125 °C, and not all have yet stayed below 122 °C for 1 s (R368) -/
  heated : Bool := false
  /-- set points of the leaf rails in mV; unlisted 800, a regulator's own start (R366, R442) -/
  rails : List (Nat × Nat) := []
  /-- leaf rails whose regulator did not answer at step 2, to be reported after step 7 (R366) -/
  deaf : List Nat := []
  /-- deferred requests, oldest first: client, tick (R378) -/
  deferred : List (Nat × Nat) := []
  /-- the budget that the image gave, to which URN_BUDGET resets; that of R383 until step 5 -/
  budget : Nat := 0x1130
  /-- ticks of the last rail sample (R367), sensor reading (R368) and trim of the rails (R366) -/
  sampleAt : Nat := 0
  tempAt : Nat := 0
  trimAt : Nat := 0
  deriving DecidableEq, Repr

/-- An event queue (R388): entries, oldest first, with the vector of each, and its own count. -/
structure EvQueue where
  ents : List (CadRec × Nat) := []
  seq : Nat := 0
  deriving DecidableEq, Repr

/-- The Strainer beside its registers (R387 to R390): event queues by window, and the end of the ERR_N pulse in AON
cycles. -/
structure StrSt where
  queues : List (Nat × EvQueue) := []
  pulseEnd : Option Nat := none
  /-- what happens now is caused by an injection, so its records and events carry INJ (R401) -/
  inj : Bool := false
  deriving DecidableEq, Repr

/-- A lease (R394). -/
structure Lease where
  cls : LeaseClass
  rs : List Resource
  dom : Nat
  started : Nat
  renewed : Nat
  renewals : Nat := 0
  /-- tick of the oldest request it defers (R379) -/
  deferAt : Option Nat := none
  deriving DecidableEq, Repr

/-- A line of the lease log (R394). -/
structure LeaseLog where
  event : Nat
  cls : LeaseClass
  res : Resource
  dom : Nat
  tick : Nat
  deriving DecidableEq, Repr

/-- A tenant core's architectural state (R404, R422). -/
structure CoreSt where
  x : List (Nat × BitVec 64) := []
  f : List (Nat × BitVec 64) := []
  csr : List (Nat × BitVec 64) := []
  pc : BitVec 64 := 0
  priv : Nat := 3
  /-- interrupts pending: machine timer, software, external (R407) -/
  mtip : Bool := false
  deriving DecidableEq, Repr

/-- A line of a cluster's L2 (R406): domain, line address, bytes, dirty; `due` says that it is to be written back and
invalidated before a core of the cluster may start. -/
structure L2Line where
  cluster : Nat
  dom : Nat
  addr : Nat
  bytes : List Byte
  dirty : Bool
  due : Bool := false
  deriving DecidableEq, Repr

/-- A debug session (R417 to R425). -/
structure SessSt where
  isOpen : Bool := false
  /-- a BLOCK reset of DBG has ended it, and the Kettle has still to release what it held (R421) -/
  ended : Bool := false
  /-- HELLO is answered, PROOF awaited -/
  auth : Bool := false
  /-- the register window that shows it: 0 to 7 the owner's session windows, 8 + n tenant n's (R417, R431) -/
  win : Nat := 0
  mid : Nat := 0
  dom : Nat := 0
  h1 : BitVec 384 := 0
  ks : BitVec 256 := 0
  leafKey : List Byte := []
  leafHash : List Byte := []
  lastAccess : Nat := 0
  halted : List Nat := []
  held : List Nat := []
  /-- captures accepted and not yet made: cups, hold, tick (R425) -/
  captures : List (List Nat × Bool × Nat) := []
  deriving DecidableEq, Repr

/-- The phase of the device (R311, R314, R315, R391, R292). -/
inductive Phase where
  /-- PORST_N low -/
  | inReset
  /-- step 1: the AON counter runs (R350) -/
  | counting
  /-- in service, after step 7 -/
  | service
  /-- SYSRST_N is low: a CHIP reset has begun, and step 2 waits for its rise (R445) -/
  | sysrst
  /-- recovery mode, waiting for JTAG (R314) -/
  | recovery
  /-- factory test mode (R314) -/
  | factory
  /-- a start-up halt (R315) -/
  | halted
  /-- the safe state (R391); `thermal` after a thermal trip -/
  | safe (thermal : Bool)
  /-- integrity halt (R292) -/
  | integrity
  deriving DecidableEq, Repr

/-- The pins and the small serial ports (R452 to R455). -/
structure PinSt where
  porstN : Bool := false
  sysrstN : Bool := true
  perst0N : Bool := false
  perst1N : Bool := false
  errExtLow : Bool := false
  thermTrip : Bool := false
  ppsOut : Bool := false
  squelched : Bool := true
  straps : Straps := {}
  latched : Straps := {}
  ir : Byte := 0x01
  i2cOff : Nat := 0
  i2cNack : Bool := false
  deriving DecidableEq, Repr

/-- Outgoing cascade messages (R337). -/
inductive CasOut where
  | claim (epoch id : Nat)
  /-- message i of 48 carries cups `first` = 4i to 4i + 3 -/
  | join (epoch first : Nat) (digests : List (BitVec 384 × Bool))
  | admitted (id epoch : Nat)
  | registry (members : List Word)
  | silenceQ
  | silenceA (dest : Nat) (silent : Bool) (epoch : Nat)
  | prepare (g exec : Nat)
  | ready (g : Nat)
  | refuse (g cause : Nat)
  | commit (g : Nat)
  | abort (g : Nat)
  | report (g cause : Nat)
  | censusQ (round : Nat)
  | census (round first : Nat) (digests : List (BitVec 384 × Bool))
  | reroute (link : Nat) (moves : List RerouteEntry)
  | state (coast aligned : Bool)
  | lsa (links : List Nat)
  | mbox (dst : Nat) (bytes : List Byte)
  deriving DecidableEq, Repr

/-- What the device drives out, one entry each. -/
inductive Out where
  /-- a response reaching its master (R136) -/
  | response (r : Resp)
  /-- a PCI Express completion: controller, function, status, bytes (R222) -/
  | completion (n f tag : Nat) (status : Nat) (bytes : List Byte)
  /-- an MSI-X message: window (0 owner), vector (R389) -/
  | msix (win vec : Nat)
  /-- a packet whose last flit has left on a stream (R148), and whether an error damaged one on its way (R138) -/
  | streamPacket (stream : Nat) (bytes : List Byte) (bad : Bool := false)
  /-- an Ethernet frame leaving port n of quad q, less its FCS (R218) -/
  | frame (q n : Nat) (bytes : List Byte)
  /-- the bytes of raw words leaving a lane (R225) -/
  | raw (l : Nat) (bytes : List Byte)
  /-- a frame leaving on a Selov link (R327) -/
  | selov (n : Nat) (bytes : List Byte)
  /-- a management message to every device or one (R337) -/
  | cas (dest : Option Nat) (msg : CasOut)
  /-- a VOUT_COMMAND on the PMBus: leaf rail and mV (R442) -/
  | pmbus (x : Nat) (mv : Int)
  /-- a non-maskable interrupt to the Kettle from a source (R387) -/
  | nmi (n : Nat)
  /-- an interrupt line of a tenant core: core, cause (R407) -/
  | coreIrq (t cause : Nat)
  /-- the infuser's answer to the read of a stored line: address, code, data (R270) -/
  | line (addr : Nat) (code : Code) (bytes : List Byte)
  /-- four bytes read over I2C (R453) -/
  | i2c (bytes : List Byte)
  /-- the instruction that the TAP obeys, and the IDCODE where it selects that register (R455) -/
  | tap (ir : Byte) (id : Option Word)
  /-- a debug CHALLENGE (R420) -/
  | challenge (sess : Nat) (bytes : List Byte)
  deriving DecidableEq, Repr

/-- The whole device. -/
structure State where
  /-- commands waiting, first in first out -/
  pending : List Instr := []
  /-- the model's own: how many free values have been drawn -/
  freeCtr : Nat := 0
  /-- what the device has driven out, newest first -/
  sent : List Out := []
  phase : Phase := .inReset
  /-- root cycles since the root PLL first locked (R166) -/
  root : Nat := 0
  /-- AON cycles since PORST (R350) -/
  aon : Nat := 0
  clk : ClkSt := {}
  time : TimeSt := {}
  pins : PinSt := {}
  regs : List (RegKey × Word) := []
  /-- high words latched by a read of the low word: master, high register, word (R9) -/
  latches : List (Nat × RegKey × Word) := []
  /-- requests in flight and their responses (R136, R138, R144) -/
  outstanding : List Outstanding := []
  responses : List Resp := []
  fences : List (Nat × Nat) := []
  /-- requests held behind a FENCE: master, tag, request, oldest first (R144) -/
  heldReqs : List (Nat × Nat × Req) := []
  refusals : List HeldRefusal := []
  stalls : List Stall := []
  queues : List (Nat × QueueSt) := []
  cups : List (Nat × CupSt) := []
  leaves : List (Nat × LeafSt) := []
  streams : List (Nat × StreamSt) := []
  cols : List (Nat × ColSt) := []
  quads : List (Nat × QuadSt) := []
  lanes : List (Nat × LaneSt) := []
  /-- injected flit errors armed at routers: bits (R401) -/
  flitInj : List (Nat × Nat) := []
  stks : List (Nat × StackSt) := []
  pchs : List (Nat × PchSt) := []
  /-- banks of each pseudo-channel (R242) -/
  banks : List (Nat × List (Nat × BankSt)) := []
  rtps : List (Nat × RtpSt) := []
  /-- requests held at the stack controllers for training stages, oldest first (R256) -/
  hbmHeld : List HbmReq := []
  /-- stored bytes of HBM: stored byte b of line n of pseudo-channel 32s + h at 72(P(32s + h) + n) + b, P lines in a
  pseudo-channel (R235, R237, R266) -/
  hbm : List Host.Cell := []
  ranges : List (Nat × RangeSt) := []
  nv : NvSt := {}
  caddy : CaddySt := {}
  imgJobs : List (Nat × ImgJob) := []
  hceJobs : List (Nat × HceJob) := []
  /-- the context each pipeline serves (R320), and the chunks each domain has left in the round (R321) -/
  hcePipe : List (Nat × Nat) := []
  hceLeft : List (Nat × Nat) := []
  /-- the context served last, and the number of the present slot (R321, R322) -/
  hceLast : Nat := 0
  hceSlotNo : Nat := 0
  /-- a written MODE not yet in force (R322) -/
  hceMode : Option Bool := none
  links : List (Nat × LinkSt) := []
  cas : CasSt := {}
  urn : UrnSt := {}
  str : StrSt := {}
  leases : List (Nat × Lease) := []
  leaseLog : List LeaseLog := []
  cores : List (Nat × CoreSt) := []
  l2 : List L2Line := []
  /-- bytes of the Kettle's private SRAM, 4 MiB (R403); one that nothing has written reads as 0 (log entry 6) -/
  kettleRam : List Host.Cell := []
  sess : List (Nat × SessSt) := []
  /-- the owner lease runs since this tick (R410) -/
  beat : Nat := 0
  /-- work of the device's own that waits for a training stage to end, oldest first (R256) -/
  later : List Later := []
  /-- writes held from a final check to the tick (R186): EXEC and the command -/
  heldWrites : List (Nat × Instr) := []
  /-- the values switch-point entries were staged with (R181) -/
  spEnts : List (Nat × SpEnt) := []
  /-- the local tick fixed for an entry at its final check (R340) -/
  spLocal : List (Nat × Nat) := []
  /-- key hashes registered for tenants: image key, debug authority key (R412) -/
  tenantKeys : List (Nat × BitVec 384 × BitVec 384) := []
  /-- virtual functions enabled (R412) -/
  vfs : List Nat := []
  /-- a Plyngen-keyed session has been opened since PORST: the key engine refuses the device's own keys (R426) -/
  plyngen : Bool := false
  /-- a CHIP reaction waits for buffered records (R387) -/
  chipDue : Bool := false
  /-- what caused it, as the RESET record numbers it (R398): 2 SYSRST_N, 3 a reaction, 4 RELOAD, 5 JTAG recovery -/
  chipWhy : Nat := 3
  /-- full image region that the next start-up loads, set by RELOAD (R324) -/
  reloadRegion : Option Nat := none
  deriving DecidableEq, Repr

/-- Reasons a step stops.  Every index operand of a command is bounded by its type, so no meaning of this model raises
a fault; the type is kept for the interface. -/
inductive Fault where
  /-- raised by no meaning (safe: nothing stops) -/
  | unreachable
  deriving DecidableEq, Repr

/-- Reasons a command has no meaning. -/
inductive Refusal where
  /-- raised by exec's arm of a command that has no meaning yet (safe) -/
  | notModelled (mnemonic : String)
  deriving DecidableEq, Repr

/-- The device right after PORST (R12, R445): every register at its Reset value, every store of the boot empty, the
start-up not begun.  What the device keeps without power is that of a device as manufactured (log entry 3). -/
def State.reset : State := {}

end Sys2Proof.Machine
end

