-- ==== Sys2Proof/Machine/Regs.lean ====
section
/-! DEFINITION. The register file: every register's writable and clearing fields (R10, R11, R464 and the field maps of
each chapter), its Reset value (R12), and reads and writes of the file itself.  A bit that no listed field covers is
read-only or reserved. -/

namespace Sys2Proof.Machine

/-- Access codes of R464 other than RO. -/
inductive Acc where
  | rw | wo | w1c | w1s | rc
  deriving DecidableEq, Repr

/-- A field of a register: its bits, its access, and which values are encodings (R11). -/
structure Fld where
  hi : Nat
  lo : Nat
  acc : Acc
  ok : Nat → Bool := fun _ => true

def rwF (hi lo : Nat) : Fld := { hi, lo, acc := .rw }
def rwOk (hi lo : Nat) (ok : Nat → Bool) : Fld := { hi, lo, acc := .rw, ok }
def w1cF (n : Nat) : Fld := { hi := n, lo := n, acc := .w1c }
def w1sF (n : Nat) : Fld := { hi := n, lo := n, acc := .w1s }
def rcF (hi lo : Nat) : Fld := { hi, lo, acc := .rc }
def woF (hi lo : Nat) : Fld := { hi, lo, acc := .wo }
def full : List Fld := [rwF 31 0]

/-- A value in a range. -/
def inRange (a b n : Nat) : Bool := decide (a ≤ n ∧ n ≤ b)

/-- The fields of each register that a write or a clearing read acts on.  STR_INJ.KIND takes every value, those that
R401 does not list among them (log entry 110). -/
def fieldsOf : RegName → List Fld
  | .devToken => [w1cF 28, w1sF 1, w1sF 0]
  | .devHeartbeat => [woF 31 0]
  | .devTokenCfg => [rwOk 15 0 (inRange 100 65535)]
  | .devTdesc => full
  | .devTdescHi => [rwF 7 0]
  | .devTcmd => [w1sF 31, rwOk 9 8 (inRange 1 2), rwF 5 0]
  | .clkCtl => [rwOk 1 0 (inRange 0 2)]
  | .urnBudget => [rwOk 12 0 (inRange 1 6400)]
  | .urnDefer => [rcF 15 0]
  | .urnCl => [rwF 31 31, rwOk 10 0 (inRange 1 2047)]
  | .strErrcfg => [rwF 31 31, rwOk 9 0 (inRange 1 1000)]
  | .strErrctl => [w1sF 1, w1sF 0]
  | .strEvstat => [rcF 15 0]
  | .strEvpop => [w1sF 0]
  | .strIrqack => [w1cF 7, w1cF 6, w1cF 5, w1cF 4, w1cF 3, w1cF 2, w1cF 1, w1cF 0]
  | .strInj => [w1sF 31, rwF 27 24, rwF 23 16, rwF 15 0]
  | .strInjWord => [rwF 19 0]
  | .strSrc => [w1cF 31, rwF 27 27, rwF 26 26, rwF 25 25, rwF 24 22, rwOk 21 20 (inRange 0 2), rcF 15 0]
  | .cadStat => [rcF 15 0]
  | .cadSel => [rwF 19 0]
  | .timeCtl => [rwF 9 8, rwF 7 2, rwF 1 0]
  | .timeStat => [w1cF 3]
  | .timeAdj => full
  | .timeStep => [woF 31 0]
  | .timeSetNs => full
  | .timeSetSecLo => full
  | .timeSetSecHi => [rwF 15 0]
  | .ppsCfg => [rwOk 9 2 (inRange 1 255), rwF 1 1, rwF 0 0]
  | .spSel => [rwF 7 0]
  | .spCtl => [rwF 28 28, rwF 27 27, rwF 23 16, rwOk 3 0 (inRange 0 4)]
  | .spTickLo => full
  | .spTickHi => full
  | .spArg => full
  | .spCmd => [w1sF 31, rwOk 11 8 (inRange 1 2), rwF 7 0]
  | .imgCmd => [w1sF 31, rwF 30 30, rwOk 11 8 (inRange 0 4), rwOk 3 0 (inRange 1 9)]
  | .imgSrc => full
  | .imgSrcHi => [rwF 7 0]
  | .imgDst => full
  | .imgDstHi => [rwF 7 0]
  | .imgLen => full
  | .imgJdata => [woF 31 0]
  | .imgLibsel => [rwF 9 0]
  | .imgLibent => [rwOk 7 0 fun v => v == 1 || inRange 0x10 0x4F v]
  | .hceCtl => [rwF 0 0]
  | .hceCtx => [rwF 31 31, rwOk 7 0 fun v => inRange 0 1 v || inRange 0x10 0x4F v]
  | .hceWrr => [rwOk 3 0 (inRange 1 15)]
  | .hceSlot => [rwF 7 0]
  | .hceDesc => full
  | .hceDescHi => [rwF 7 0]
  | .hceCmd => [w1sF 31]
  | .mntSel => [rwF 8 0]
  | .mntLogsel => [rwF 7 0]
  | .mntBudget => [rwOk 31 28 (inRange 1 15), rwOk 27 0 (inRange 1 100000000)]
  | .dbgCtl => [w1sF 31, rwOk 27 24 (inRange 1 9), rwF 23 16, rwOk 4 0 (inRange 0 16)]
  | .dbgInsn => [woF 31 0]
  | .dbgData0 => full
  | .dbgData0Hi => full
  | .dbgData1 => full
  | .dbgData1Hi => full
  | .dbgMsg => full
  | .casCfg => [rwF 2 2, rwF 1 1, rwF 0 0]
  | .casCmd => [w1sF 31, rwOk 19 16 (inRange 1 6), rwF 9 0]
  | .casPtick => full
  | .casPtickHi => full
  | .casExpect => full
  | .casExpectHi => [rwF 7 0]
  | .casGsel => [rwF 7 0]
  | .casSsel => [w1cF 31, rwF 21 16, rwF 13 0]
  | .casSlink => [rwF 31 31, rwF 28 24, rwF 9 0]
  | .casCmis => [w1cF 31]
  | .casMembers => full
  | .infRsel => [rwOk 6 0 (inRange 0 79)]
  | .infRngCtl => [rwF 7 0]
  | .infRngBase => [rwF 18 0]
  | .infRngLimit => [rwF 18 0]
  | .infRngRights => full
  | .infRngCmd => [w1sF 31, rwOk 3 0 (inRange 1 4)]
  | .infSweep => [rwOk 15 8 (inRange 1 50), rwOk 7 0 (inRange 1 50)]
  | .infBktCfg => [rwOk 31 16 (inRange 1 65535), rwOk 15 0 (inRange 1 65535)]
  | .infPsel => [rwF 12 10, rwF 9 5, rwF 4 0]
  | .infPchStat => [w1cF 31, rcF 30 16]
  | .infPchCecnt => [rcF 31 0]
  | .infPchOvfcnt => [rcF 15 0]
  | .cupStateReq => [{ hi := 1, lo := 0, acc := .wo, ok := inRange 0 2 }]
  | .cupLoadSrc => full
  | .cupLoadSrcHi => [rwF 7 0]
  | .cupLoadCmd => [w1sF 31, rwOk 27 26 (inRange 0 1), rwF 25 25, rwF 15 0]
  | .cupBrdReq => [woF 29 20, woF 19 0]
  | .cupBdrv => [w1cF 31, rwF 9 0]
  | .cupCap => [w1cF 3, w1sF 2]
  | .cupRbAddr => full
  | .cupRbAddrHi => [rwF 7 0]
  | .cupRbCmd => [rwF 3 0]
  | .cupSin => [rwF 31 31, rcF 29 14, rwF 13 0]
  | .cupSout => [rwF 31 31, rcF 29 14, rwF 13 0]
  | .cupQcfg => [rwOk 9 0 (inRange 1 1023)]
  | .cupQstat => [w1cF 25]
  | .cupScrub => [rwF 16 16, rcF 15 8, rcF 7 0]
  | .leafStatus => [w1cF 8]
  | .leafDiv => [rwOk 7 0 (inRange 4 255)]
  | .leafDivgrant => [rwF 15 0]
  | .leafCrkSel => [rwF 7 0]
  | .rsvCmd => [w1sF 31, rwF 7 4, rwOk 3 0 (inRange 0 5)]
  | .rsvStream => [rwF 13 0]
  | .rsvSrc => [rwF 31 31, rwF 23 16, rwOk 9 8 (inRange 0 2), rwF 7 0]
  | .rsvSlots => [rwF 31 31, rwF 25 16, rwF 9 0]
  | .rsvDst => [rwF 31 31, rwOk 9 8 (inRange 0 2), rwF 7 0]
  | .traySsel => [w1cF 31, rwF 13 0]
  | .traySent => [rwF 7 0]
  | .trayScfg => [rwF 9 0]
  | .trayQgsel => [rwF 7 0]
  | .trayQg => [rwF 31 31, rwF 30 30, rwF 26 24, rwF 23 16, rwF 7 0]
  | .colCfg => [rwF 31 31, rwF 30 30, rwF 15 8, rwF 7 0]
  | .colSrcsel => [rwF 7 0]
  | .colSrc => [rwF 31 31, rwF 23 16, rwF 9 0]
  | .colStat => [w1cF 30]
  | .colExpect => full
  | .colNotify => full
  | .colNotifyHi => [rwF 7 0]
  | .colPop => [w1sF 0]
  | .rtrErr => [rcF 15 0]
  | .lnCtl => [rwF 2 2, rwOk 1 0 (inRange 0 2)]
  | .lnStat => [rcF 23 16, rcF 15 8]
  | .lnTxeq => [rwF 29 24, rwF 23 18, rwF 17 12, rwF 11 6]
  | .lnEscan => [w1sF 31, rwOk 29 28 (inRange 0 2), rwF 27 24, rwF 23 16, rwF 14 8]
  | .lnMargin => [rwF 15 8, rwF 7 0]
  | .portCtl => [rwF 0 0]
  | .portMac => full
  | .portMacHi => [rwF 15 0]
  | .clsSel => [rwF 9 0]
  | .clsAct => [rwF 31 31, rwF 30 30, rwF 29 29, rwF 28 25, rwOk 24 23 (inRange 0 2), rwF 22 22, rwF 21 21, rwF 20 20,
      rwF 13 0]
  | .clsKey => [rwF 31 16, rwF 11 0]
  | .clsAddr => full
  | .clsDefault => [rwF 31 31, rwF 30 30, rwF 13 0]
  | .pacSel => [rwF 9 0]
  | .pacCfg => [rwF 31 31, rwF 30 30, rwF 29 29, rwF 28 23, rwF 22 16, rwF 11 10, rwF 9 0]
  | .pacStreams => [rwF 31 31, rwF 29 16, rwF 13 0]
  | .pacTrs => full
  | .pacStat => [rcF 15 0]
  | .mrgSel => [rwF 8 0]
  | .mrgCfg => [rwF 31 31, rwF 30 30, rwOk 29 16 (inRange 1 16383), rwF 13 0]
  | .mrgStat => [rcF 29 15, rcF 14 0]
  | .ptpCfg => [rwF 31 31, rwF 7 0]
  | .txstampInfo => [rcF 30 30]
  | .rawCtl => [w1sF 31, rwF 30 30, rwF 29 29, rwF 28 16, rwF 13 0]
  | .rawIdle => full
  | .mqCfg => [rwOk 9 0 (inRange 1 1023)]
  | .mqStat => [w1cF 31, rcF 21 12]
  | .tmpl => full
  | .stkStat => [w1cF 26]
  | .stkCtl => [rwF 31 31, rwF 23 16, rwF 7 0]
  | .stkCgStart => full
  | .stkCgCfg => [rwOk 1 0 (inRange 0 2)]
  | .stkAge => [rwF 23 16, rwF 15 8, rwF 7 0]
  | .stkScrub => [rwF 31 31, rwOk 15 8 (inRange 1 255), rcF 7 0]
  | .stkWaymask => [w1cF 31, rwF 15 0]
  | .rtpSel => [rwF 7 0]
  | .rtpCfg => [rwF 31 31, rwF 30 30, rwF 29 29, rwF 27 24, rwF 23 16, rwF 14 12, rwF 7 0]
  | .rtpBind => [rwF 31 24, rwF 13 0]
  | .rtpBase => full
  | .rtpBaseHi => [rwF 7 0]
  | .rtpRing => [rwF 31 24, rwF 19 0]
  | .rtpStart => full
  | .rtpStartHi => full
  | .rtpPeriod => full
  | .rtpPeriodHi => full
  | .rtpInterval => full
  | .rtpStat => [w1cF 29, rcF 23 16, rcF 15 8, rcF 7 0]
  | .pchCtl => [rwF 31 31, rwF 15 0]
  | .cpuCtl => [rwF 31 31, rwF 30 30]
  | .cpuBoot => full
  | .cpuBootHi => [rwF 7 0]
  | .cpuMtimecmp => full
  | .cpuMtimecmpHi => full
  | .cpuMsip => [rwF 0 0]
  | .cpuPin => [w1cF 31, rwF 7 0]
  | .colVec => (List.range 32).map w1cF
  | _ => []

/-- What one field becomes when `new` is written over `old` (R10, R11, R464). -/
def mergeField (new acc : Word) (f : Fld) : Word :=
  match f.acc with
  | .rw => if f.ok (bits new f.hi f.lo) then putBits acc f.hi f.lo (bits new f.hi f.lo) else acc
  | .w1c => if bit new f.lo then putBits acc f.hi f.lo 0 else acc
  | .w1s => if bit new f.lo then putBits acc f.hi f.lo 1 else acc
  | .wo => acc
  | .rc => acc

/-- A register's word after a plain write of `new` over `old`. -/
def mergeWrite (n : RegName) (old new : Word) : Word := (fieldsOf n).foldl (mergeField new) old

/-- A register's word after a read that clears its RC fields (R464). -/
def clearRc (n : RegName) (w : Word) : Word :=
  (fieldsOf n).foldl (fun a f => if f.acc = .rc then putBits a f.hi f.lo 0 else a) w

/-- What a read returns of the stored word: write-only fields read zero (R464). -/
def maskWo (n : RegName) (w : Word) : Word :=
  (fieldsOf n).foldl (fun a f => if f.acc = .wo then putBits a f.hi f.lo 0 else a) w

/-- Whether a register has an RC field. -/
def hasRc (n : RegName) : Bool := (fieldsOf n).any fun f => f.acc = .rc

/-- The reset reaction fields by severity (R387): IRQ, CADDY, ERRPIN. -/
def srcReset (n : Nat) : Word :=
  let sev := (Config.srcSev n).toNat
  let w := putBits 0 30 29 sev
  let w := putBits w 28 28 (if Config.srcNmi n then 1 else 0)
  let w := putBits w 25 25 (if 1 ≤ sev then 1 else 0)
  let w := putBits w 27 27 (if 2 ≤ sev then 1 else 0)
  putBits w 26 26 (if sev = 3 then 1 else 0)

/-- Source IDs that exist (R384). -/
def sourceExists (n : Nat) : Bool :=
  inRange 0x000 0x07F n || inRange 0x100 0x1BF n || inRange 0x200 0x233 n || inRange 0x280 0x2BF n ||
  inRange 0x300 0x3EF n || inRange 0x400 0x4FF n || inRange 0x500 0x53F n || inRange 0x540 0x55F n ||
  inRange 0x560 0x561 n || inRange 0x600 0x6FF n || inRange 0x700 0x707 n || inRange 0x708 0x70F n ||
  inRange 0x780 0x7CF n || inRange 0x800 0x80F n || inRange 0x810 0x813 n || n == 0x818

/-- The default need of a power client (R370). -/
def defaultNeed (n : Nat) : Nat :=
  if n < 192 then 16 else if n < 256 then 12 else if n < 264 then 48 else if n < 280 then 6 else if n < 284 then 8
  else 60

/-- Whether a client is firm at reset (R370). -/
def resetFirm (n : Nat) : Bool := n < 264 || 284 ≤ n

/-- Reset of a register (R12 and the Reset columns); 0 where the spec gives 0 or nothing, but for CUP_OWNER, which the spec
gives no Reset value and the model starts as the owner's, 0x01 (log entry 1). -/
def resetVal (k : RegKey) : Word :=
  match k.name with
  | .devId => BitVec.ofNat 32 (0x52480000 + Config.stepping.toNat * 256)
  | .devTokenCfg => 0x7D0
  | .clkStat => 0x20000000
  | .clkRefcnt => 0x100
  | .urnBudget => 0x01E01130
  | .urnCl => BitVec.ofNat 32 ((if resetFirm k.i then 2 ^ 31 else 0) + defaultNeed k.i)
  | .strStat => 0x40000000
  | .strErrcfg => 1
  | .strSrc => if sourceExists k.i then srcReset k.i else 0
  | .ppsCfg => 0x28
  | .imgStat => 0x0C100000
  | .imgCause => 0x00FFFF00
  | .hceCtx => 1
  | .hceWrr => 1
  | .hceSlot => 0xFF
  | .mntBudget => if k.i = 0 then 0x30002710 else if k.i = 1 then 0x300003E8 else if k.i = 2 then 0x10002710
      else 0x300003E8
  | .casCfg => 3
  | .infSweep => 0x3202
  | .infBktCfg => 0x001003E8
  | .cupOwner => 1
  | .cupBrd => 0x3FF00000
  | .cupQcfg => 0x10
  | .leafDiv => 4
  | .leafCrkGstat => 0xFFFF0000
  | .trayLmap => BitVec.ofNat 32 (k.i / 12 * 13 + k.i % 12)
  | .trayPhealth => if k.i % 13 = 12 then 0xFF01 else BitVec.ofNat 32 ((k.i / 13 * 12 + k.i % 13) * 256)
  | .traySent => 1
  | .trayScfg => 0x3D1
  | .colCfg => 1
  | .lnCtl => 2
  | .lnTxeq => 0x00FC0000
  | .lnMargin => 0x2064
  | .mrgCfg => 0x03E80000
  | .rawCtl => 0x01000000
  | .mqCfg => 0x10
  | .stkCgStart => 1
  | .stkCtl => 0x000A0000
  | .stkAge => 0x00FF4010
  | .stkScrub => 0x80001800
  | .stkWaymask => if k.j = 0 then 0x8000 else if k.j = 1 then 0x7FFF else 0
  | .rtpBind => 0x01000000
  | .pchStat => 0x00FFFF00
  | .pchCtl => 0x100
  | .cpuCtl => 1
  | .cpuPin => 1
  | .pcieCfg =>
    if k.j = 0 then putBits (Config.pcieCfg k.i 0) 31 16 0x5248
    else if k.j = 2 then putBits (Config.pcieCfg k.i 2) 31 8 0x048000
    else Config.pcieCfg k.i k.j
  | _ => 0

/-- The order of the register file: by name, instance, element. -/
def keyLt (a b : RegKey) : Bool :=
  decide (a.name.ctorIdx < b.name.ctorIdx ∨
    a.name.ctorIdx = b.name.ctorIdx ∧ (a.i < b.i ∨ a.i = b.i ∧ a.j < b.j))

/-- The stored word of a register. -/
def State.reg (s : State) (k : RegKey) : Word := lookD s.regs k (resetVal k)

/-- Stores a register's word. -/
def State.setReg (s : State) (k : RegKey) (w : Word) : State := { s with regs := putD keyLt s.regs k w (resetVal k) }

/-- A field of a register, as a number. -/
def State.fld (s : State) (k : RegKey) (hi lo : Nat) : Nat := bits (s.reg k) hi lo

/-- Sets a field of a register. -/
def State.setFld (s : State) (k : RegKey) (hi lo v : Nat) : State := s.setReg k (putBits (s.reg k) hi lo v)

/-- One bit of a register. -/
def State.flag (s : State) (k : RegKey) (n : Nat) : Bool := bit (s.reg k) n

/-- Sets one bit of a register. -/
def State.setFlag (s : State) (k : RegKey) (n : Nat) (b : Bool) : State := s.setFld k n n (if b then 1 else 0)

/-- Adds 1 to a saturating count field. -/
def State.countUp (s : State) (k : RegKey) (hi lo : Nat) : State :=
  s.setFld k hi lo (satInc (2 ^ (hi + 1 - lo) - 1) (s.fld k hi lo))

/-- A plain write of a register (R10). -/
def State.plainWrite (s : State) (k : RegKey) (v : Word) : State := s.setReg k (mergeWrite k.name (s.reg k) v)

/-- Returns every register that `p` selects to its Reset value (R12). -/
def State.resetRegs (s : State) (p : RegKey → Bool) : State := { s with regs := s.regs.filter fun e => !p e.1 }

/-- The 64-bit number of a register pair (R9). -/
def State.pair (s : State) (lo hi : RegKey) : Nat := pairNat (s.reg lo) (s.reg hi)

/-- Stores a 64-bit number in a register pair. -/
def State.setPair (s : State) (lo hi : RegKey) (n : Nat) : State := (s.setReg lo (loWord n)).setReg hi (hiWord n)

end Sys2Proof.Machine
end

