-- ==== Sys2Proof/Machine/Ops.lean ====
section
/-! DEFINITION. The operations every chapter shares: the parts of State by index, who a master is (R15, R26, R133), the
tick and device time (R166, R172), answers to masters (R136, R139, R415), events and their reactions (R385 to R390),
Caddy records (R398, R400), and status events (R105). -/

namespace Sys2Proof.Machine

/-! ### Parts of the device by index -/

def State.cup (s : State) (c : Nat) : CupSt := nget s.cups c {}
def State.setCup (s : State) (c : Nat) (x : CupSt) : State := { s with cups := nput s.cups c x {} }
def State.modCup (s : State) (c : Nat) (f : CupSt → CupSt) : State := s.setCup c (f (s.cup c))
def State.leaf (s : State) (p : Nat) : LeafSt := nget s.leaves p {}
def State.modLeaf (s : State) (p : Nat) (f : LeafSt → LeafSt) : State :=
  { s with leaves := nput s.leaves p (f (s.leaf p)) {} }
def State.stream (s : State) (n : Nat) : StreamSt := nget s.streams n {}
def State.modStream (s : State) (n : Nat) (f : StreamSt → StreamSt) : State :=
  { s with streams := nput s.streams n (f (s.stream n)) {} }
def State.col (s : State) (n : Nat) : ColSt := nget s.cols n {}
def State.modCol (s : State) (n : Nat) (f : ColSt → ColSt) : State := { s with cols := nput s.cols n (f (s.col n)) {} }
def State.quad (s : State) (q : Nat) : QuadSt := nget s.quads q {}
def State.modQuad (s : State) (q : Nat) (f : QuadSt → QuadSt) : State :=
  { s with quads := nput s.quads q (f (s.quad q)) {} }
def State.lane (s : State) (l : Nat) : LaneSt := nget s.lanes l {}
def State.modLane (s : State) (l : Nat) (f : LaneSt → LaneSt) : State :=
  { s with lanes := nput s.lanes l (f (s.lane l)) {} }
def State.stk (s : State) (i : Nat) : StackSt := nget s.stks i {}
def State.modStk (s : State) (i : Nat) (f : StackSt → StackSt) : State :=
  { s with stks := nput s.stks i (f (s.stk i)) {} }
def State.pch (s : State) (x : Nat) : PchSt := nget s.pchs x {}
def State.modPch (s : State) (x : Nat) (f : PchSt → PchSt) : State := { s with pchs := nput s.pchs x (f (s.pch x)) {} }
def State.rtp (s : State) (x : Nat) : RtpSt := nget s.rtps x {}
def State.modRtp (s : State) (x : Nat) (f : RtpSt → RtpSt) : State := { s with rtps := nput s.rtps x (f (s.rtp x)) {} }
def State.range (s : State) (r : Nat) : RangeSt := nget s.ranges r {}
def State.modRange (s : State) (r : Nat) (f : RangeSt → RangeSt) : State :=
  { s with ranges := nput s.ranges r (f (s.range r)) {} }
def State.link (s : State) (n : Nat) : LinkSt := nget s.links n {}
def State.modLink (s : State) (n : Nat) (f : LinkSt → LinkSt) : State :=
  { s with links := nput s.links n (f (s.link n)) {} }
def State.core (s : State) (t : Nat) : CoreSt := nget s.cores t {}
def State.modCore (s : State) (t : Nat) (f : CoreSt → CoreSt) : State :=
  { s with cores := nput s.cores t (f (s.core t)) {} }
def State.session (s : State) (i : Nat) : SessSt := nget s.sess i {}
def State.modSession (s : State) (i : Nat) (f : SessSt → SessSt) : State :=
  { s with sess := nput s.sess i (f (s.session i)) {} }
def State.group (s : State) (g : Nat) : CasGroup := nget s.cas.groups g {}
def State.modGroup (s : State) (g : Nat) (f : CasGroup → CasGroup) : State :=
  { s with cas := { s.cas with groups := nput s.cas.groups g (f (s.group g)) {} } }
def State.evq (s : State) (w : Nat) : EvQueue := nget s.str.queues w {}
def State.modEvq (s : State) (w : Nat) (f : EvQueue → EvQueue) : State :=
  { s with str := { s.str with queues := nput s.str.queues w (f (s.evq w)) {} } }
def State.spEnt (s : State) (e : Nat) : SpEnt := nget s.spEnts e {}
def State.log (s : State) (o : Out) : State := { s with sent := o :: s.sent }

/-- Draws a fresh number for a free value. -/
def State.draw (s : State) : State := { s with freeCtr := s.freeCtr + 1 }

/-- A number for each packet queue. -/
def queueKey : QRef → Nat
  | .ingress c n => 8 * c.val + n.val
  | .egress c n => 2000 + 8 * c.val + n.val
  | .mgmtTx q => 4000 + q.val
  | .mgmtRx q => 4100 + q.val
  | .mailTx => 4200
  | .mailRx => 4201

def State.queue (s : State) (q : QRef) : QueueSt := nget s.queues (queueKey q) {}
def State.setQueue (s : State) (q : QRef) (x : QueueSt) : State :=
  { s with queues := nput s.queues (queueKey q) x {} }

/-! ### Time -/

/-- TICK: tick T begins at root cycle 16T (R166, R469). -/
def State.tick (s : State) : Nat := s.root / 16

/-- The next tick: the first whose root cycle lies strictly after the present one (R469). -/
def State.nextTick (s : State) : Nat := s.root / 16 + 1

/-- The ticks of a time in ms, µs. -/
def msTicks (n : Nat) : Nat := n * 250000
def usTicks (n : Nat) : Nat := n * 250

/-- The cascade tick (R168). -/
def State.cascTick (s : State) : Nat :=
  ((s.tick : Int) + signed 64 (s.pair ⟨.tickCascOfs, 0, 0⟩ ⟨.tickCascOfsHi, 0, 0⟩)).toNat

/-- Device time counted in 2⁻³² ns (R172): nanoseconds, and the seconds and nanoseconds of the PTP epoch. -/
def State.devNs (s : State) : Nat := s.time.acc / 2 ^ 32
def State.devSec (s : State) : Nat := s.devNs / 1000000000
def State.devSubNs (s : State) : Nat := s.devNs % 1000000000

/-- TIME_STAT.VALID. -/
def State.timeValid (s : State) : Bool := s.flag ⟨.timeStat, 0, 0⟩ 0

/-! ### Whether the core side runs -/

/-- The root makes edges (R360, R362). -/
def State.rootRuns (s : State) : Bool :=
  match s.clk.mode with
  | .running | .coasting => true
  | _ => false

/-- The device, after step 3, waits for the Plyngen-keyed session of factory test mode: BOOT_MODE 010 and TEST_MODE are latched,
and until that session opens the mode is the start-up failure of a reserved value, CAUSE 0x0E (R314, R426; log entry 37). -/
def State.factoryWaits (s : State) : Bool :=
  decide (s.phase = .halted) && s.fld ⟨.imgStat, 0, 0⟩ 31 29 == 2 && s.flag ⟨.imgStat, 0, 0⟩ 28 &&
    s.fld ⟨.imgStat, 0, 0⟩ 22 20 == 4

/-- The blocks answer: start-up is past step 7 (R312), or the device waits in recovery or factory mode (R314), and the
root runs. -/
def State.live (s : State) : Bool :=
  s.rootRuns && match s.phase with
    | .service | .recovery | .factory => true
    | _ => s.factoryWaits

/-- The tray cycle: four root cycles. -/
def State.trayCycle (s : State) : Nat := s.root / 4

/-- User traffic flows: step 7 is past (R311) and the root runs. -/
def State.serving (s : State) : Bool := s.rootRuns && decide (s.phase = .service)

/-- The outcome of a command the core side takes only while it runs. -/
def State.whenLive (s : State) (f : State → State) : Host.Outcome State Fault Refusal :=
  .next (if s.live then f s else s)

/-- The outcome of a command that only a device in service takes. -/
def State.whenServing (s : State) (f : State → State) : Host.Outcome State Fault Refusal :=
  .next (if s.serving then f s else s)

/-! ### Masters and domains -/

/-- The tenant of a domain (R15). -/
def tenantOf (d : Nat) : Option Nat := if inRange 0x10 0x4F d then some (d - 0x10) else none

/-- The register window of a domain: 0 the owner's, n + 1 tenant n's. -/
def windowOf (d : Nat) : Nat :=
  match tenantOf d with
  | some n => n + 1
  | none => 0

/-- The domain of a window. -/
def windowDom (w : Nat) : Nat := if w = 0 then 0x01 else 0x10 + (w - 1)

/-- The rights slot of a domain (R280). -/
def slotOf (d : Nat) : Nat := if inRange 0x10 0x4F d then d - 0x10 + 2 else d

/-- A tenant is created (DEV_TEXIST, R412). -/
def State.tenantExists (s : State) (n : Nat) : Bool := s.flag ⟨.devTexist, 0, n / 32⟩ (n % 32)

/-- A domain that can own things: the owner, or a created tenant. -/
def State.domainExists (s : State) (d : Nat) : Bool :=
  d == 0x01 || match tenantOf d with
    | some n => s.tenantExists n
    | none => false

/-- The domain of a cup. -/
def State.cupDom (s : State) (c : Nat) : Nat := s.fld ⟨.cupOwner, c, 0⟩ 7 0

/-- The domain of a tenant core (R405). -/
def State.coreDom (s : State) (t : Nat) : Nat := s.fld ⟨.cpuPin, t, 0⟩ 7 0

/-- A debug session's scope while it is open (R417, R431). -/
def State.sessDom (s : State) (i : Nat) : Option Nat :=
  if (s.session i).isOpen then some (s.session i).dom else none

/-- The PCI Express controller n is present (R220): its first quad is in PCIE role. -/
def State.pciePresent (s : State) (n : Nat) : Bool :=
  s.fld ⟨.quadCfg, if n = 0 then 0 else 60, 0⟩ 2 0 == 2

/-- The domain a master carries (R26, R133); none for a master ID that no master has. -/
def State.midDomain (s : State) (m : Nat) : Option Nat :=
  if m < 192 then some (s.cupDom m)
  else if inRange 0x100 0x10F m then some (s.coreDom (m - 0x100))
  else if m = 0x180 ∨ m = 0x188 then some 0x00
  else if m = 0x181 then some 0x01
  else if inRange 0x190 0x197 m then s.sessDom (m - 0x190)
  else if m = 0x200 ∨ m = 0x280 then some 0x01
  else if inRange 0x201 0x240 m then some (0x10 + (m - 0x201))
  else if inRange 0x281 0x2C0 m then some (0x10 + (m - 0x281))
  else none

/-- The code DEV_TOKEN.HOLDER gives a host master (R408, R429); 0 for a master that is none. -/
def holderCode (m : Nat) : Nat := if m = 0x200 then 1 else if m = 0x280 then 2 else if m = 0x181 then 3 else 0

/-- DEV_TOKEN.HOLDER. -/
def State.holder (s : State) : Nat := s.fld ⟨.devToken, 0, 0⟩ 31 30

/-- A host master without the owner token, whose owner writes are refused (R408).  Before step 7, where JTAG alone asks and
DEV_TOKEN does not answer, JTAG needs no token (R312, R314, R315; log entry 81). -/
def State.lacksToken (s : State) (m : Nat) : Bool :=
  holderCode m != 0 && s.holder != holderCode m && !(m == 0x181 && decide (s.phase ≠ .service))

/-- Cascade hold refuses configuration changes, unless the owner overrides it (R334). -/
def State.inHold (s : State) : Bool := s.flag ⟨.casStat, 0, 0⟩ 29 && !s.flag ⟨.casStat, 0, 0⟩ 28

/-! ### Answers to masters -/

/-- Puts a response on its way to its master (R136).  Numbers 0x400 + n, above every master ID, stand for collector n's
own notification write, whose refusal sets NOTIFY_FAIL (R162), and 0x440 + c for the write-backs of cluster c's L2. -/
def State.respond (s : State) (m tag : Nat) (code : Code) (bytes : List Byte := []) : State :=
  if inRange 0x440 0x443 m then s
  else if inRange 0x400 0x43F m then (if code = .ok then s else s.setFlag ⟨.colStat, m - 0x400, 0⟩ 30 true)
  else { s with responses := s.responses ++ [{ mid := m, tag, code, bytes }] }

/-- 2 µs, 500 µs and 50 ms in root cycles: the latencies of R415. -/
def trayLatency : Nat := 8000
def kettleLatency : Nat := 2000000
def authLatency : Nat := 200000000

/-- Holds a refusal until root cycle `due` (R415). -/
def State.holdUntil (s : State) (m tag due : Nat) (eff : HeldEff) : State :=
  { s with refusals := s.refusals ++ [{ mid := m, tag, due, eff }] }

/-- Holds a refusal to its latency from now. -/
def State.hold (s : State) (m tag latency : Nat) (eff : HeldEff) : State := s.holdUntil m tag (s.root + latency) eff

/-- Whether a master's refusals are uniform: it is a tenant's (R414). -/
def State.isTenant (s : State) (m : Nat) : Bool :=
  match s.midDomain m with
  | some d => (tenantOf d).isSome
  | none => false

/-- Refuses a tray request, `win` saying whether it came to a tenant window: at once, or at 2 µs for a tenant and for
every master in a tenant window (R8, R142, R415, R436). -/
def State.denyIn (s : State) (win : Bool) (m tag : Nat) : State :=
  if win || s.isTenant m then s.hold m tag trayLatency .deny else s.respond m tag .denied

/-- Refuses a tray request outside the tenant windows. -/
def State.denyTray (s : State) (m tag : Nat) : State := s.denyIn false m tag

/-- Sets fields of a register: high bit, low bit, value. -/
def State.setFields (s : State) (k : RegKey) (fs : List (Nat × Nat × Nat)) : State :=
  s.setReg k (fs.foldl (fun (w : Word) (f : Nat × Nat × Nat) => putBits w f.1 f.2.1 f.2.2) (s.reg k))

/-- Fails a Kettle command that was written at root cycle `since` and whose status stands in fields of register k: at once
for the owner, at 500 µs from the write for a tenant (R415). -/
def State.failSince (s : State) (since m : Nat) (k : RegKey) (fs : List (Nat × Nat × Nat)) : State :=
  if s.isTenant m then s.holdUntil m 0 (since + kettleLatency) (.status [(k, fs)]) else s.setFields k fs

/-- Fails a Kettle command that has just been written. -/
def State.failKettle (s : State) (m : Nat) (k : RegKey) (fs : List (Nat × Nat × Nat)) : State := s.failSince s.root m k fs

/-- The answer to a register access that a command states without a request tag: it reaches its master under tag 0. -/
def State.answer (s : State) (m : Nat) (code : Code) (bytes : List Byte := []) : State :=
  s.log (.response { mid := m, tag := 0, code, bytes })

/-- The refusal of such an access, `win` saying whether it came to a tenant window. -/
def State.denyAccessIn (s : State) (win : Bool) (m : Nat) : State :=
  if win || s.isTenant m then s.hold m 0 trayLatency .deny else s.answer m .denied

/-- The refusal of such an access outside the tenant windows. -/
def State.denyAccess (s : State) (m : Nat) : State := s.denyAccessIn false m

/-! ### Caddy records -/

/-- The bytes of a record, its CRC last (R398). -/
def recBytes (r : CadRec) (crc : Bool) : List Byte :=
  let body := leBytes 4 r.seq ++ leBytes 8 r.tick ++ leBytes 6 r.sec ++ leBytes 4 r.ns ++
    leBytes 2 (r.source % 4096 + r.sev % 4 * 4096 + (if r.tvalid then 2 ^ 14 else 0) + (if r.inj then 2 ^ 15 else 0)) ++
    [BitVec.ofNat 8 r.dom, 0] ++ leBytes 2 r.cause ++ leBytes 4 r.boot ++ slice r.bytes 0 24 ++ [0, 0, 0, 0]
  body ++ (if crc then leBytes 4 (crc32 body).toNat else [0, 0, 0, 0])

/-- A record stamped now; its SEQ is given at its place in the ring. -/
def State.mkRec (s : State) (source sev dom cause : Nat) (bytes : List Byte) : CadRec :=
  { seq := 0, tick := s.tick, sec := s.devSec, ns := s.devSubNs, source, sev, tvalid := s.timeValid,
    inj := s.str.inj, dom, cause, boot := s.nv.boot, bytes }

/-- An event's place among entries, oldest first: behind all but those of its own tick from higher sources (R170). -/
def eventPlace (l : List CadRec) (r : CadRec) : Nat :=
  l.length - (l.reverse.takeWhile fun x => x.tick == r.tick && r.source < x.source).length

/-- A record at its place among others. -/
def insertRec (l : List CadRec) (r : CadRec) : List CadRec := l.take (eventPlace l r) ++ r :: l.drop (eventPlace l r)

/-- The buffer of the Caddy engine holds 32 records; a full one drops class 0x08 and makes others wait (R400). -/
def State.addRecord (s : State) (r : CadRec) : State :=
  if s.caddy.buf.length < 32 ∧ s.caddy.waiting = [] then
    { s with caddy := { s.caddy with buf := insertRec s.caddy.buf r } }
  else if r.cause / 256 = 0x08 then
    ({ s with caddy := { s.caddy with dropped := s.caddy.dropped + 1 } }).countUp ⟨.cadStat, 0, 0⟩ 15 0
  else { s with caddy := { s.caddy with waiting := insertRec s.caddy.waiting r } }

/-- Writes a record of the given cause. -/
def State.record (s : State) (source dom cause : Nat) (bytes : List Byte) : State :=
  s.addRecord (s.mkRec source (Config.eventSev source cause).toNat dom cause bytes)

/-! ### Status events of cups -/

/-- Puts an event in the status buffer of 64 entries; a full one counts it as lost (R105). -/
def State.statusEvent (s : State) (c kind detail obj : Nat) : State :=
  let x := s.cup c
  let ev : StatusEvent := BitVec.ofNat 64
    (kind % 16 + detail % 16 * 16 + obj % 2 ^ 14 * 256 + s.tick % 2 ^ 32 * 2 ^ 32)
  if x.status.length < 64 then s.setCup c { x with status := x.status ++ [ev] }
  else s.setCup c { x with statusLost := x.statusLost + 1 }

/-! ### The split of a cluster's L2 (R406) -/

/-- The distinct domains pinned to a cluster's cores, ascending. -/
def State.l2Doms (s : State) (cl : Nat) : List Nat :=
  (List.range 256).filter fun d => (List.range 4).any fun j => s.coreDom (4 * cl + j) == d

/-- The ways of a domain: an equal share each from way 0 upward, and for the lowest the rest too. -/
def State.l2Ways (s : State) (cl d : Nat) : List Nat :=
  let doms := s.l2Doms cl
  let share := 16 / doms.length
  match doms.idxOf? d with
  | some i => (List.range share).map (fun w => i * share + w) ++
      if i = 0 then (List.range (16 - share * doms.length)).map fun w => share * doms.length + w else []
  | none => []

/-- The lines of a domain in a cluster. -/
def L2Line.isOf (l : L2Line) (cl d : Nat) : Bool := l.cluster == cl && l.dom == d

/-- Marks the lines of a cluster whose domain `p` selects: they are to be written back and invalidated before a core of the
cluster may start. -/
def State.l2Mark (s : State) (cl : Nat) (p : Nat → Bool) : State :=
  { s with l2 := s.l2.map fun l => if l.cluster == cl && p l.dom then { l with due := true } else l }

/-- The pin of a core takes domain d, and the lines of every domain whose ways change are marked (R406). -/
def State.pinSplit (s : State) (t d : Nat) : State :=
  let cl := t / 4
  let old := (s.l2Doms cl).map fun k => (k, s.l2Ways cl k)
  let s1 := s.setFld ⟨.cpuPin, t, 0⟩ 7 0 d
  s1.l2Mark cl fun k => old.any fun e => e.1 == k && s1.l2Ways cl k != e.2

/-- A power client's grant and request are gone; what waits is examined again within the microsecond of R373. -/
def State.dropClient (s : State) (n : Nat) : State :=
  ({ s with urn := { s.urn with pend := s.urn.pend.filter (fun e => e.client != n), lvl := erase s.urn.lvl n,
                                order := s.urn.order.filter fun k => k != n } }).setFields
    ⟨.urnCls, n, 0⟩ [(28, 26, 0), (10, 0, 0)]

/-! ### Blocks and BLOCK resets -/

/-- The block of a register (R432). -/
inductive Blk where
  | dev | clk | urn | str | cad | tick | img | hce | mnt | dbg | cas | inf | cup | leaf | tray | col | rtr | lane | port
  | stk | pch | pcie | cpu
  deriving DecidableEq, Repr

def blkOf : RegName → Blk
  | .devId | .devCasc | .devToken | .devHeartbeat | .devTokenCfg | .devTdesc | .devTdescHi | .devTcmd | .devTstat
  | .devTexist => .dev
  | .clkStat | .clkCtl | .clkRefcnt | .clkLossTick | .clkLossTickHi | .clkLossDur => .clk
  | .urnBudget | .urnStat | .urnPower | .urnDefer | .urnRail | .urnCl | .urnCls | .urnTemp => .urn
  | .strStat | .strErrcfg | .strErrctl | .strEvstat | .strEvpop | .strEv | .strIrqack | .strInj | .strInjWord | .strSrc
  | .strPend => .str
  | .cadStat | .cadSel | .cadSelstat | .cadHead | .cadRec => .cad
  | .tickLo | .tickHi | .tickCascOfs | .tickCascOfsHi | .timeCtl | .timeStat | .timeAdj | .timeNs | .timeSecLo
  | .timeSecHi | .timeStep | .timeSetNs | .timeSetSecLo | .timeSetSecHi | .timeMapTick | .timeMapTickHi | .timeMapSec
  | .timeMapSecHi | .timeMapFrac | .timeMapAdj | .ppsCfg | .ppsInStamp | .ppsInStampHi | .ppsInFrac | .spSel | .spCtl
  | .spTickLo | .spTickHi | .spArg | .spCmd | .spStat => .tick
  | .imgStat | .imgCause | .imgCmd | .imgCmdstat | .imgSrc | .imgSrcHi | .imgDst | .imgDstHi | .imgLen | .imgJdata
  | .imgValid | .imgSlots | .imgLibsel | .imgLibent | .imgStep | .imgDevpub => .img
  | .hceCtl | .hceCtx | .hceWrr | .hceSlot | .hceDesc | .hceDescHi | .hceCmd | .hceStat => .hce
  | .mntSel | .mntEnt | .mntLogsel | .mntLogTick | .mntLogTickHi | .mntLog | .mntBudget => .mnt
  | .dbgCtl | .dbgStat | .dbgInsn | .dbgData0 | .dbgData0Hi | .dbgData1 | .dbgData1Hi | .dbgMsg => .dbg
  | .casStat | .casEpoch | .casCfg | .casCmd | .casCmdstat | .casPtick | .casPtickHi | .casExpect | .casExpectHi
  | .casGsel | .casGstat | .casSsel | .casSlink | .casCmis | .casMembers | .casAdmitted | .casLink | .casLdly => .cas
  | .infRsel | .infRngCtl | .infRngBase | .infRngLimit | .infRngStat | .infRngGen | .infRngPtr | .infRngPtrHi
  | .infRngWcnt | .infRngWcntHi | .infRngRights | .infRngCmd | .infSweep | .infBktCfg | .infPsel | .infPchStat
  | .infPchCecnt | .infPchOvfcnt | .infLog => .inf
  | .cupState | .cupStateReq | .cupOwner | .cupLoadSrc | .cupLoadSrcHi | .cupLoadCmd | .cupLoadStat | .cupBrd
  | .cupBrdReq | .cupBdrv | .cupCap | .cupRbAddr | .cupRbAddrHi | .cupRbCmd | .cupSin | .cupSout | .cupQcfg | .cupQstat
  | .cupPdig | .cupPdigTick | .cupPdigTickHi | .cupPdigStat | .cupScrub | .cupEdig | .cupSdig => .cup
  | .leafStatus | .leafDiv | .leafDivgrant | .leafCrkSel | .leafCrkGstat => .leaf
  | .trayLmap | .trayPhealth | .rsvCmd | .rsvStat | .rsvStream | .rsvSrc | .rsvSlots | .rsvDst | .traySsel | .traySent
  | .trayScfg | .traySbudget | .trayQgsel | .trayQg => .tray
  | .colCfg | .colSrcsel | .colSrc | .colStat | .colVec | .colExpect | .colNotify | .colNotifyHi | .colMsghdr | .colPop
  | .colMsgtick | .colMsgtickHi | .colMsg => .col
  | .rtrErr => .rtr
  | .lnCtl | .lnStat | .lnTxeq | .lnEscan | .lnEscanRes | .lnMargin | .rawCtl | .rawIdle => .lane
  | .quadCfg | .quadStat | .portStat | .portCtl | .portMac | .portMacHi | .portCnt | .portCntHi | .clsSel | .clsAct
  | .clsKey | .clsAddr | .clsDefault | .pacSel | .pacCfg | .pacStreams | .pacTrs | .pacStat | .mrgSel | .mrgCfg
  | .mrgStat | .ptpCfg | .txstamp | .txstampHi | .txstampInfo | .mqCfg | .mqStat | .tmpl => .port
  | .stkStat | .stkCtl | .stkCgStart | .stkCgCfg | .stkAge | .stkTemp | .stkScrub | .stkRetired | .stkPanic
  | .stkWaymask | .rtpSel | .rtpCfg | .rtpBind | .rtpBase | .rtpBaseHi | .rtpRing | .rtpStart | .rtpStartHi
  | .rtpPeriod | .rtpPeriodHi | .rtpInterval | .rtpStat | .rtpFrame => .stk
  | .pchStat | .pchCtl | .pchLat | .pchDly => .pch
  | .pcieCfg | .pcieLink => .pcie
  | .cpuCtl | .cpuStat | .cpuBoot | .cpuBootHi | .cpuMtimecmp | .cpuMtimecmpHi | .cpuMsip | .cpuPin => .cpu

/-- The bits of a register, which holds w, that a BLOCK reset of its block keeps (R12; log entry 7): fields whose Meaning
names PORST or CHIP alone, straps, registers to which the spec gives no Reset value because a map, a plan or the Kettle
sets them (R84, R90, R167, R197), and the mark of a
retirement, which only PORST, CHIP or a link's RESTORE ends (R393). -/
def keptBits (n : RegName) (w : Word) : Word :=
  let all : Word := 0xFFFFFFFF
  match n with
  | .clkStat => 0x1000FFFF
  | .timeAdj | .timeMapTick | .timeMapTickHi | .timeMapSec | .timeMapSecHi | .timeMapFrac | .timeMapAdj
  | .ppsInStamp | .ppsInStampHi | .ppsInFrac | .tickCascOfs | .tickCascOfsHi | .imgStep | .cupOwner | .trayLmap
  | .trayPhealth | .quadCfg | .quadStat | .devToken | .devTexist | .traySbudget | .casEpoch | .stkRetired | .pchLat => all
  | .timeStat => 0x00000001
  | .imgStat => 0xF0000000
  | .imgCause => 0xFF000000
  | .leafStatus => 0x00000003
  | .casStat => 0x008003FF
  | .urnTemp | .stkTemp => 0x0000FF00
  | .rtpStat => 0x40000000
  | .lnStat | .pchStat => if bits w 31 30 = 3 then 0xC0000000 else 0
  | .casLink => if bits w 31 29 = 4 then 0xE0000000 else 0
  | .leafCrkGstat => if bits w 1 0 = 3 then 0x00000003 else 0
  | _ => 0

/-- A register's word after a BLOCK reset of its block. -/
def blockWord (k : RegKey) (w : Word) : Word :=
  (w &&& keptBits k.name w) ||| (resetVal k &&& ~~~ keptBits k.name w)

/-- Whether a BLOCK reaction from source n resets a register (R387, R468). -/
def blockResets (n : Nat) (k : RegKey) : Bool :=
  (if inRange 0x010 0x01F n then blkOf k.name == .clk
  else if inRange 0x020 0x02F n then blkOf k.name == .urn
  else if inRange 0x030 0x03F n then blkOf k.name == .tick
  else if inRange 0x040 0x04F n then blkOf k.name == .cas
  else if inRange 0x050 0x05F n then blkOf k.name == .img || blkOf k.name == .hce
  else if inRange 0x060 0x06F n then blkOf k.name == .mnt || blkOf k.name == .cad
  else if inRange 0x070 0x07F n then blkOf k.name == .dbg
  else if inRange 0x100 0x1BF n then blkOf k.name == .cup && k.i == n - 0x100
  else if inRange 0x200 0x233 n then blkOf k.name == .leaf && k.i == n - 0x200
  else if inRange 0x280 0x2BF n then blkOf k.name == .col && k.i == n - 0x280
  else if inRange 0x300 0x3EF n then blkOf k.name == .rtr && k.i == n - 0x300
  else if inRange 0x400 0x4FF n then blkOf k.name == .lane && k.i == n - 0x400
  else if inRange 0x500 0x53F n then blkOf k.name == .port &&
    (if k.name == .portStat || k.name == .portCtl || k.name == .portMac || k.name == .portMacHi || k.name == .portCnt ||
        k.name == .portCntHi then k.i / 4 == n - 0x500 else k.i == n - 0x500)
  else if inRange 0x540 0x55F n then (k.name == .casLink || k.name == .casLdly) && k.i == n - 0x540
  else if inRange 0x560 0x561 n then blkOf k.name == .pcie && k.i == n - 0x560
  else if inRange 0x600 0x6FF n then blkOf k.name == .pch && k.i == n - 0x600
  else if inRange 0x700 0x707 n then blkOf k.name == .stk &&
    (if k.name == .rtpCfg || k.name == .rtpBind || k.name == .rtpBase || k.name == .rtpBaseHi || k.name == .rtpRing ||
        k.name == .rtpStart || k.name == .rtpStartHi || k.name == .rtpPeriod || k.name == .rtpPeriodHi ||
        k.name == .rtpInterval || k.name == .rtpStat || k.name == .rtpFrame then k.i / 256 == n - 0x700
      else k.i == n - 0x700)
  else if inRange 0x708 0x70F n then
    (k.name == .infBktCfg && k.i == n - 0x708) ||
    ((k.name == .infPchStat || k.name == .infPchCecnt || k.name == .infPchOvfcnt) && k.i / 32 == n - 0x708)
  else if inRange 0x800 0x80F n then blkOf k.name == .cpu && k.i == n - 0x800
  else false)

/-- A BLOCK reset of the registers that p selects. -/
def State.blockRegs (s : State) (p : RegKey → Bool) : State :=
  { s with regs := (s.regs.map fun e => if p e.1 then (e.1, blockWord e.1 e.2) else e).filter fun e =>
      e.2 != resetVal e.1 }

/-- A cup after a BLOCK reset of its block: OFF, with what the registers show gone and the planes kept (R12, R120). -/
def CupSt.blockReset (x : CupSt) : CupSt :=
  { bank := x.bank, plane0 := x.plane0, plane1 := x.plane1, cfgErr := x.cfgErr, status := x.status,
    statusLost := x.statusLost, fab := { waitE1 := x.fab.waitE1 ++ x.fab.waitE2.filter fun n => !x.fab.waitE1.contains n } }

/-- What a BLOCK reset of the Urn leaves of it: its requests stand, since their clients still ask; a cup that gating had
stopped runs on. -/
def State.urnReset (s : State) : State :=
  let s := { s with
    urn := { s.urn with prevAbove := false, lowSince := none, attributed := [], order := [], coolSince := none, lvl := [],
                        heated := false }
    cups := s.cups.map fun e => if s.flag ⟨.urnCls, e.1, 0⟩ 29 then
        (e.1, { e.2 with stopTick := none, startRoot := s.root, idleSince := s.tick }) else e }
  s

/-- A collector forgets what it holds; the requests that wait for it, which it has not accepted, are DENIED (R159). -/
def State.colForget (s : State) (n : Nat) : State :=
  let w := (s.col n).queued ++ (s.col n).waiting
  w.foldl (fun (s : State) e => s.denyTray e.1 e.2.1) { s with cols := erase s.cols n }

/-- A lane of an ETH quad in L0 trains anew, uncounted. -/
def State.lanePort (s : State) (l : Nat) : State :=
  if s.fld ⟨.quadCfg, l / 4, 0⟩ 2 0 = 1 ∧ s.fld ⟨.lnStat, l, 0⟩ 31 30 = 0 then
    s.modLane l fun x => { x with retraining := true, uncounted := true, due := false }
  else s

/-- The engine of quad q forgets its tables and mailboxes, and its ports come up anew. -/
def State.portForget (s : State) (q : Nat) : State :=
  let s := (List.range 4).foldl (fun (s : State) j => s.lanePort (4 * q + j)) s
  ((s.modQuad q fun x => { x with cls := [], pac := [], mrg := [], stamps := [], spoilt := [] }).setQueue
    (.mgmtRx (Fin.ofNat 64 q)) {}).setQueue (.mgmtTx (Fin.ofNat 64 q)) {}

/-- A core forgets its state and releases its grant; the last of its cluster releases the cluster's (R372). -/
def State.coreForget (s : State) (t : Nat) : State :=
  let drop (e : Nat × SessSt) : Nat × SessSt := (e.1, { e.2 with halted := e.2.halted.erase t })
  let s := ({ s with cores := erase s.cores t, sess := s.sess.map drop }).dropClient (264 + t)
  if (List.range 4).any fun j => s.flag ⟨.cpuCtl, 4 * (t / 4) + j, 0⟩ 31 then s else s.dropClient (280 + t / 4)

/-- What the BLOCK reset of source n's block does beside the registers: what their computed fields show returns with them
(R12; log entry 7), and a TICK reset discards a step or a set not yet applied and lowers PPS_OUT (R177, R466), and the
servo's first lock is to come again (log entry 117). -/
def State.blockStore (s : State) (n : Nat) : State :=
  if inRange 0x030 0x03F n then
    { s with time := { s.time with pendStep := none, pendSet := none, servoGood := 0, everLocked := false },
             pins := { s.pins with ppsOut := false }, spEnts := [], spLocal := [] }
  else if inRange 0x040 0x04F n then
    { s with cas := { epoch := s.cas.epoch, maxEpoch := s.cas.maxEpoch, routes := s.cas.routes, round := s.cas.round,
                      roundAt := s.cas.roundAt } }
  else if inRange 0x050 0x05F n then 
    let gone := s.leases.filter fun e => e.2.cls == .storeWrite
    let lines : List LeaseLog := gone.map fun e =>
      { event := 3, cls := e.2.cls, res := e.2.rs.headD .storeDie, dom := e.2.dom, tick := s.tick }
    { s with imgJobs := [], hceJobs := [], hcePipe := [], hceLeft := [], hceMode := none,
             leases := s.leases.filter fun e => e.2.cls != .storeWrite, leaseLog := (lines ++ s.leaseLog).take 256 }
  else if inRange 0x100 0x1BF n then
    let c := n - 0x100
    let s := ({ s with leaves := s.leaves.map fun (e : Nat × LeafSt) => (e.1, { e.2 with loads := e.2.loads.erase c }) }).dropClient c
    let s := { s with urn := { s.urn with deferred := s.urn.deferred.filter fun e => e.1 != c } }
    { (s.modCup c CupSt.blockReset) with queues := s.queues.filter fun e =>
        !((8 * c ≤ e.1 && e.1 < 8 * c + 8) || (2000 + 8 * c ≤ e.1 && e.1 < 2000 + 8 * c + 8)) }
  else if inRange 0x200 0x233 n then
    s.modLeaf (n - 0x200) fun x => { x with divNow := [], divPend := [], retrains := [], gapStart := [], gapHeld := [],
                                            spared := [] }
  else if inRange 0x280 0x2BF n then s.colForget (n - 0x280)
  else if inRange 0x400 0x4FF n then s.modLane (n - 0x400) fun _ => {}
  else if inRange 0x500 0x53F n then
    s.portForget (n - 0x500)
  else if inRange 0x540 0x55F n then { s with links := erase s.links (n - 0x540) }
  else if inRange 0x700 0x707 n then { s with rtps := s.rtps.filter fun e => e.1 / 256 != n - 0x700 }
  else if inRange 0x708 0x70F n then
    { s with pchs := s.pchs.map fun e => if e.1 / 32 = n - 0x708 then (e.1, { e.2 with log := [] }) else e }
  else if inRange 0x060 0x06F n then
    { s with leases := [], leaseLog := [], caddy := { s.caddy with buf := [], waiting := [], dropped := 0 } }
  else if inRange 0x070 0x07F n then
    { s with sess := (s.sess.filter fun e => e.2.isOpen).map fun e => (e.1, { e.2 with isOpen := false, ended := true }) }
  else if inRange 0x800 0x80F n then
    s.coreForget (n - 0x800)
  else if inRange 0x810 0x813 n then s.l2Mark (n - 0x810) fun _ => true
  else if n = 0x818 then { s with cores := erase s.cores 16 }
  else s

/-- The BLOCK reset of a source's own block (R12, R387, R468); URN_BUDGET returns to what the image gave (R383). -/
def State.blockReset (s : State) (n : Nat) : State :=
  let urn := inRange 0x020 0x02F n
  let s := if inRange 0x800 0x80F n then s.pinSplit (n - 0x800) 0x01 else s
  let s := ((if urn then s.urnReset else s).blockRegs (blockResets n)).blockStore n
  if urn then s.setFld ⟨.urnBudget, 0, 0⟩ 12 0 s.urn.budget else s

/-! ### Events -/

/-- Sends the message of a vector of a window: the owner's only while a physical function holds the token, a tenant's
through its virtual function (R389). -/
def State.sendMsix (s : State) (w vec : Nat) : State :=
  if w = 0 then (if s.holder = 1 ∨ s.holder = 2 then s.log (.msix 0 vec) else s)
  else if s.vfs.contains (w - 1) then s.log (.msix w vec) else s

/-- Interrupts of the cores pinned to a domain whose event queue has signalled (R389, R407). -/
def State.signalCores (s : State) (d : Nat) : State :=
  (List.range 16).foldl
    (fun (s : State) t =>
      if s.coreDom t = d ∧ s.flag ⟨.cpuCtl, t, 0⟩ 30 = true ∧ s.flag ⟨.cpuCtl, t, 0⟩ 31 = true
      then s.log (.coreIrq t 9) else s) s

/-- An event queue with an event at its place, the entries behind it numbered on. -/
def EvQueue.insert (q : EvQueue) (vec : Nat) (r : CadRec) : EvQueue :=
  let p := eventPlace (q.ents.map (·.1)) r
  let later := q.ents.drop p
  { ents := q.ents.take p ++ ({ r with seq := q.seq - later.length }, vec) ::
      later.map fun e => ({ e.1 with seq := e.1.seq + 1 }, e.2)
    seq := q.seq + 1 }

/-- An event enters the queue of a window (R388), and its vector signals if its STR_IRQACK bit is clear (R389). -/
def State.enqueueEvent (s : State) (w cap vec : Nat) (r : CadRec) : State :=
  let q := s.evq w
  if q.ents.length < cap then
    let s := s.modEvq w fun q => q.insert vec r
    if s.flag ⟨.strIrqack, w, 0⟩ vec then s
    else ((s.setFlag ⟨.strIrqack, w, 0⟩ vec true).sendMsix w vec).signalCores (windowDom w)
  else s.countUp ⟨.strEvstat, w, 0⟩ 15 0

/-- STR_ERRCFG.PULSE in AON cycles: units of 10 µs, 250 cycles each (R390). -/
def State.pulseLen (s : State) : Nat := s.fld ⟨.strErrcfg, 0, 0⟩ 9 0 * 250

/-- A drive of ERR_N by an event: the pulse starts or restarts, and the event latch sets with HOLD (R390). -/
def State.errPulse (s : State) : State :=
  let s := { s with str := { s.str with pulseEnd := some (s.aon + s.pulseLen) } }
  if s.flag ⟨.strErrcfg, 0, 0⟩ 31 then s.setFlag ⟨.strStat, 0, 0⟩ 28 true else s

/-- The safe state or integrity halt holds: BLOCK and CHIP reactions are ignored (R387). -/
def State.stoppedSafe (s : State) : Bool :=
  match s.phase with
  | .safe _ | .integrity => true
  | _ => false

/-- What happens from now on is caused by an injection, or no longer is. -/
def State.setInj (s : State) (b : Bool) : State := { s with str := { s.str with inj := b } }

/-- What `f` does is caused by an injection where `b` says so: the records and events that come of it carry INJ (R401). -/
def State.injected (s : State) (b : Bool) (f : State → State) : State :=
  (f (s.setInj (s.str.inj || b))).setInj s.str.inj

/-- An event of source n: kind, the domains it concerns, its data, and the Caddy record the spec gives this event if it
has one of its own class (R385 to R390, R398; log entry 8). -/
def State.raiseEvent (s : State) (n kind : Nat) (doms : List Nat) (bytes : List Byte) (own : Option Nat := none) :
    State :=
  let k : RegKey := ⟨.strSrc, n, 0⟩
  let cfg := s.reg k
  let sev := (Config.eventSev n kind).toNat
  let dom := match doms with
    | [d] => d
    | _ => 0x01
  let cause := own.getD (0x0800 + sev)
  let r := s.mkRec n sev dom cause bytes
  let s := (s.setFlag k 31 true).countUp k 15 0
  let s := doms.foldl
    (fun (s : State) d => match tenantOf d with
      | some t => if s.tenantExists t then s.enqueueEvent (t + 1) 64 0 { r with dom := d } else s
      | none => s) s
  let s := if bit cfg 25 then s.enqueueEvent 0 1024 (bits cfg 24 22) r else s
  let s := if bit cfg 28 then s.log (.nmi n) else s
  let s := if bit cfg 26 then s.errPulse else s
  let s := if inRange 0x100 0x1BF n then s.statusEvent (n - 0x100) 1 sev n else s
  let s := if !s.stoppedSafe && bits cfg 21 20 == 1 then s.blockReset n else s
  let s := if bit cfg 27 || bits cfg 21 20 == 2 || own.isSome then s.addRecord r else s
  if s.stoppedSafe || bits cfg 21 20 != 2 || s.chipDue then s
  else { s with chipDue := true, chipWhy := 3, reloadRegion := none }

/-- A retirement: its event from the resource's source and its Caddy record of class 0x03 (R393, R398). -/
def State.retireEvent (s : State) (n detail idx tick : Nat) (doms : List Nat) : State :=
  s.raiseEvent n 3 doms (leBytes 2 idx ++ leBytes 8 tick) (some (0x0300 + detail))

/-- A HEALTH record, written whenever a mark changes; it raises no event (R399). -/
def State.healthRecord (s : State) : State :=
  let mask (l : List Nat) : Nat := l.foldl (fun n p => n ||| 2 ^ p) 0
  s.addRecord { s.mkRec 0x818 0 0x01 0x0A01 (leBytes 7 (mask s.nv.failed) ++ leBytes 7 (mask s.nv.retiredEver)) with
    sev := 0 }

end Sys2Proof.Machine
end

