-- ==== Sys2Proof/Machine/Operands.lean ====
section
/-! DEFINITION. The operand of a tray request: what a 40-bit address names (R28, R432 to R438), and who may read and
write it there (R31, R140, R408, R436).  A register "for the entry that a selector names" is resolved here. -/

namespace Sys2Proof.Machine

/-- Which array element lies at offset o of an array of n elements from `base`, `stride` apart. -/
def arrAt (base stride n o : Nat) : Option Nat :=
  if base ≤ o ∧ (o - base) % stride = 0 ∧ (o - base) / stride < n then some ((o - base) / stride) else none

/-- A register of a table of offsets, for an instance i. -/
def regIn (t : List (Nat × RegName)) (i o : Nat) : Option RegKey := (look t o).map fun n => ⟨n, i, 0⟩

/-- An array register. -/
def regArr (n : RegName) (i base stride len o : Nat) : Option RegKey :=
  (arrAt base stride len o).map fun j => ⟨n, i, j⟩

/-- DEV (R429, R434). -/
def devAt (o : Nat) : Option RegKey :=
  regIn [(0x000, .devId), (0x004, .devCasc), (0x100, .devToken), (0x104, .devHeartbeat), (0x108, .devTokenCfg),
    (0x110, .devTdesc), (0x114, .devTdescHi), (0x118, .devTcmd), (0x11C, .devTstat)] 0 o
  <|> regArr .devTexist 0 0x120 4 2 o

/-- CLK (R382). -/
def clkAt (o : Nat) : Option RegKey :=
  regIn [(0x000, .clkStat), (0x004, .clkCtl), (0x008, .clkRefcnt), (0x010, .clkLossTick), (0x014, .clkLossTickHi),
    (0x018, .clkLossDur)] 0 o

/-- URN (R383). -/
def urnAt (o : Nat) : Option RegKey :=
  regIn [(0x000, .urnBudget), (0x004, .urnStat), (0x008, .urnPower), (0x00C, .urnDefer)] 0 o
  <|> (arrAt 0x040 4 23 o).map (fun n => ⟨.urnRail, n, 0⟩)
  <|> (arrAt 0x100 4 292 o).map (fun n => ⟨.urnCl, n, 0⟩)
  <|> (arrAt 0x600 4 292 o).map (fun n => ⟨.urnCls, n, 0⟩)
  <|> (arrAt 0xC00 4 60 o).map (fun n => ⟨.urnTemp, n, 0⟩)

/-- STR, as window w shows it (R402). -/
def strAt (w o : Nat) : Option RegKey :=
  regIn [(0x010, .strEvstat), (0x014, .strEvpop), (0x080, .strIrqack)] w o
  <|> regArr .strEv w 0x020 4 16 o
  <|> (if w = 0 then
    regIn [(0x000, .strStat), (0x004, .strErrcfg), (0x008, .strErrctl), (0x090, .strInj), (0x094, .strInjWord)] 0 o
    <|> (arrAt 0x1000 4 4096 o).map (fun n => ⟨.strSrc, n, 0⟩)
    <|> regArr .strPend 0 0x5000 4 128 o
    else none)

/-- CAD, as window w shows it (R402). -/
def cadAt (w o : Nat) : Option RegKey :=
  regIn [(0x000, .cadStat), (0x004, .cadSel), (0x008, .cadSelstat), (0x00C, .cadHead)] w o
  <|> regArr .cadRec w 0x040 4 16 o

/-- TICK (R191); the switch-point registers are those of the entry SP_SEL names. -/
def tickAt (s : State) (o : Nat) : Option RegKey :=
  let e := s.fld ⟨.spSel, 0, 0⟩ 7 0
  regIn [(0x000, .tickLo), (0x004, .tickHi), (0x008, .tickCascOfs), (0x00C, .tickCascOfsHi), (0x010, .timeCtl),
    (0x014, .timeStat), (0x018, .timeAdj), (0x01C, .timeNs), (0x020, .timeSecLo), (0x024, .timeSecHi),
    (0x028, .timeStep), (0x02C, .timeSetNs), (0x030, .timeSetSecLo), (0x034, .timeSetSecHi), (0x040, .timeMapTick),
    (0x044, .timeMapTickHi), (0x048, .timeMapSec), (0x04C, .timeMapSecHi), (0x050, .timeMapFrac), (0x054, .timeMapAdj),
    (0x060, .ppsCfg), (0x064, .ppsInStamp), (0x068, .ppsInStampHi), (0x06C, .ppsInFrac), (0x100, .spSel),
    (0x130, .spCmd), (0x134, .spStat)] 0 o
  <|> regIn [(0x104, .spCtl), (0x108, .spTickLo), (0x10C, .spTickHi)] e o
  <|> regArr .spArg e 0x110 4 6 o

/-- IMG, as window w shows it (R324). -/
def imgAt (w o : Nat) : Option RegKey :=
  regIn [(0x008, .imgCmd), (0x00C, .imgCmdstat), (0x010, .imgSrc), (0x014, .imgSrcHi), (0x018, .imgDst),
    (0x01C, .imgDstHi), (0x020, .imgLen), (0x040, .imgLibsel), (0x044, .imgLibent)] w o
  <|> regArr .imgDevpub 0 0x100 4 25 o
  <|> (if w = 0 then
    regIn [(0x000, .imgStat), (0x004, .imgCause), (0x024, .imgJdata), (0x030, .imgValid), (0x034, .imgSlots)] 0 o
    <|> (arrAt 0x080 4 8 o).bind (fun n => if 3 ≤ n then some ⟨.imgStep, 0, n⟩ else none)
    else none)

/-- HCE, as window w shows it (R325). -/
def hceAt (w o : Nat) : Option RegKey :=
  (if 0x400 ≤ o ∧ o < 0x500 then
    regIn [(0x00, .hceDesc), (0x04, .hceDescHi), (0x08, .hceCmd), (0x0C, .hceStat)] ((o - 0x400) / 0x20) ((o - 0x400) % 0x20)
    else none)
  <|> (if w = 0 then
    regIn [(0x000, .hceCtl)] 0 o
    <|> (arrAt 0x040 4 8 o).bind (fun i => if 1 ≤ i then some ⟨.hceCtx, i, 0⟩ else none)
    <|> (arrAt 0x080 4 66 o).map (fun n => ⟨.hceWrr, n, 0⟩)
    <|> (arrAt 0x200 4 16 o).map (fun i => ⟨.hceSlot, i, 0⟩)
    else none)

/-- MNT (R402). -/
def mntAt (o : Nat) : Option RegKey :=
  regIn [(0x010, .mntSel), (0x014, .mntEnt), (0x020, .mntLogsel), (0x024, .mntLogTick), (0x028, .mntLogTickHi),
    (0x02C, .mntLog)] 0 o
  <|> (arrAt 0x100 4 4 o).map (fun k => ⟨.mntBudget, k, 0⟩)

/-- DBG, session window i (R431). -/
def dbgAt (i o : Nat) : Option RegKey :=
  regIn [(0x000, .dbgCtl), (0x004, .dbgStat), (0x00C, .dbgInsn), (0x010, .dbgData0), (0x014, .dbgData0Hi),
    (0x018, .dbgData1), (0x01C, .dbgData1Hi)] i o
  <|> regArr .dbgMsg i 0x400 4 256 o

/-- CAS (R349). -/
def casAt (s : State) (o : Nat) : Option RegKey :=
  let sel := s.reg ⟨.casSsel, 0, 0⟩
  regIn [(0x000, .casStat), (0x004, .casEpoch), (0x008, .casCfg), (0x00C, .casCmd), (0x010, .casCmdstat),
    (0x018, .casPtick), (0x01C, .casPtickHi), (0x020, .casExpect), (0x024, .casExpectHi), (0x028, .casGsel),
    (0x030, .casSsel), (0x038, .casCmis)] 0 o
  <|> (if o = 0x02C then some ⟨.casGstat, s.fld ⟨.casGsel, 0, 0⟩ 7 0, 0⟩ else none)
  <|> (if o = 0x034 then some ⟨.casSlink, bits sel 21 16, bits sel 13 0⟩ else none)
  <|> regArr .casMembers 0 0x080 4 32 o
  <|> regArr .casAdmitted 0 0x100 4 32 o
  <|> (arrAt 0x200 8 32 o).map (fun n => ⟨.casLink, n, 0⟩)
  <|> (arrAt 0x204 8 32 o).map (fun n => ⟨.casLdly, n, 0⟩)

/-- INF, as window w shows it (R293). -/
def infAt (s : State) (w o : Nat) : Option RegKey :=
  let r := s.fld ⟨.infRsel, 0, w⟩ 6 0
  let ps := s.reg ⟨.infPsel, 0, 0⟩
  let x := 32 * bits ps 12 10 + bits ps 9 5
  (if o = 0x000 then some ⟨.infRsel, 0, w⟩ else none)
  <|> regIn [(0x004, .infRngCtl), (0x008, .infRngBase), (0x00C, .infRngLimit), (0x010, .infRngStat), (0x014, .infRngGen),
    (0x018, .infRngPtr), (0x01C, .infRngPtrHi), (0x020, .infRngWcnt), (0x024, .infRngWcntHi), (0x060, .infRngCmd)] r o
  <|> regArr .infRngRights r 0x040 4 5 o
  <|> (if w = 0 then
    regIn [(0x080, .infSweep), (0x200, .infPsel)] 0 o
    <|> (arrAt 0x100 4 8 o).map (fun i => ⟨.infBktCfg, i, 0⟩)
    <|> regIn [(0x204, .infPchStat), (0x208, .infPchCecnt), (0x20C, .infPchOvfcnt)] x o
    <|> regArr .infLog x 0x210 4 4 o
    else none)

/-- CUP[c] (R128). -/
def cupAt (c o : Nat) : Option RegKey :=
  regIn [(0x000, .cupState), (0x004, .cupStateReq), (0x008, .cupOwner), (0x010, .cupLoadSrc), (0x014, .cupLoadSrcHi),
    (0x018, .cupLoadCmd), (0x01C, .cupLoadStat), (0x060, .cupCap), (0x068, .cupRbAddr), (0x06C, .cupRbAddrHi),
    (0x070, .cupRbCmd), (0x0A0, .cupQcfg), (0x130, .cupPdigTick), (0x134, .cupPdigTickHi), (0x138, .cupPdigStat),
    (0x13C, .cupScrub)] c o
  <|> regArr .cupBrd c 0x020 4 4 o <|> regArr .cupBrdReq c 0x030 4 4 o <|> regArr .cupBdrv c 0x040 4 4 o
  <|> regArr .cupSin c 0x080 4 4 o <|> regArr .cupSout c 0x090 4 4 o <|> regArr .cupQstat c 0x0C0 4 16 o
  <|> regArr .cupPdig c 0x100 4 12 o <|> regArr .cupEdig c 0x180 4 12 o <|> regArr .cupSdig c 0x1C0 4 12 o

/-- LEAF[p] (R89). -/
def leafAt (s : State) (p o : Nat) : Option RegKey :=
  regIn [(0x000, .leafStatus), (0x0C0, .leafCrkSel)] p o
  <|> regArr .leafDiv p 0x040 4 16 o <|> regArr .leafDivgrant p 0x080 4 4 o
  <|> (if o = 0x0C4 then some ⟨.leafCrkGstat, p, s.fld ⟨.leafCrkSel, p, 0⟩ 7 0⟩ else none)

/-- TRAY, as window w shows it (R84, R165). -/
def trayAt (s : State) (w o : Nat) : Option RegKey :=
  (if o = 0x600 then some ⟨.traySsel, 0, w⟩ else none)
  <|> (if o = 0x604 then some ⟨.traySent, s.fld ⟨.traySsel, 0, w⟩ 13 0, 0⟩ else none)
  <|> (if 0x8000 ≤ o ∧ o < 0xC000 then
    let n := (o - 0x8000) / 0x100
    let r := (o - 0x8000) % 0x100
    regIn [(0x00, .colCfg), (0x04, .colSrcsel), (0x0C, .colStat), (0x50, .colNotify), (0x54, .colNotifyHi),
      (0x60, .colMsghdr), (0x64, .colPop), (0x68, .colMsgtick), (0x6C, .colMsgtickHi)] n r
    <|> (if r = 0x08 then some ⟨.colSrc, n, s.fld ⟨.colSrcsel, n, 0⟩ 7 0⟩ else none)
    <|> regArr .colVec n 0x10 4 8 r <|> regArr .colExpect n 0x30 4 8 r <|> regArr .colMsg n 0x80 4 8 r
    else none)
  <|> (if w = 0 then
    regIn [(0x400, .rsvCmd), (0x404, .rsvStat), (0x408, .rsvStream), (0x40C, .rsvSrc), (0x410, .rsvSlots),
      (0x608, .trayScfg), (0x800, .trayQgsel)] 0 o
    <|> (if o = 0x804 then some ⟨.trayQg, s.fld ⟨.trayQgsel, 0, 0⟩ 7 0, 0⟩ else none)
    <|> (arrAt 0x100 4 48 o).map (fun n => ⟨.trayLmap, n, 0⟩)
    <|> (arrAt 0x200 4 52 o).map (fun p => ⟨.trayPhealth, p, 0⟩)
    <|> regArr .rsvDst 0 0x500 4 64 o
    <|> (arrAt 0x700 4 64 o).map (fun n => ⟨.traySbudget, n, 0⟩)
    else none)

/-- QUAD[q] (R234). -/
def quadAt (s : State) (q o : Nat) : Option RegKey :=
  regIn [(0x0000, .quadCfg), (0x0004, .quadStat), (0x0800, .clsSel), (0x0804, .clsAct), (0x0808, .clsKey),
    (0x0830, .clsDefault), (0x0900, .pacSel), (0x0904, .pacCfg), (0x0908, .pacStreams), (0x090C, .pacTrs),
    (0x0A00, .mrgSel), (0x0B20, .txstamp), (0x0B24, .txstampHi), (0x0B28, .txstampInfo), (0x0D00, .mqCfg)] q o
  <|> (if o = 0x0910 then some ⟨.pacStat, q, s.fld ⟨.pacSel, q, 0⟩ 9 0⟩ else none)
  <|> (if o = 0x0A04 then some ⟨.mrgCfg, q, s.fld ⟨.mrgSel, q, 0⟩ 8 0⟩ else none)
  <|> (if o = 0x0A08 then some ⟨.mrgStat, q, s.fld ⟨.mrgSel, q, 0⟩ 8 0⟩ else none)
  <|> (if 0x0100 ≤ o ∧ o < 0x0200 then
    regIn [(0x00, .lnCtl), (0x04, .lnStat), (0x08, .lnTxeq), (0x10, .lnEscan), (0x14, .lnEscanRes), (0x18, .lnMargin)]
      (4 * q + (o - 0x0100) / 0x40) ((o - 0x0100) % 0x40)
    else none)
  <|> (if 0x0400 ≤ o ∧ o < 0x0600 then
    let i := 4 * q + (o - 0x0400) / 0x80
    let r := (o - 0x0400) % 0x80
    regIn [(0x00, .portStat), (0x04, .portCtl), (0x08, .portMac), (0x0C, .portMacHi)] i r
    <|> regArr .portCnt i 0x10 8 8 r <|> regArr .portCntHi i 0x14 8 8 r
    else none)
  <|> regArr .clsAddr q 0x0810 4 4 o <|> regArr .ptpCfg q 0x0B00 4 4 o
  <|> (arrAt 0x0C00 8 4 o).map (fun j => ⟨.rawCtl, 4 * q + j, 0⟩)
  <|> (arrAt 0x0C04 8 4 o).map (fun j => ⟨.rawIdle, 4 * q + j, 0⟩)
  <|> regArr .mqStat q 0x0D04 4 2 o <|> regArr .tmpl q 0x10000 4 16384 o

/-- The real-time port registers of STK[s] for the port that window w selects (R265). -/
def rtpAt (s : State) (w st o : Nat) : Option RegKey :=
  let i := 256 * st + s.fld ⟨.rtpSel, st, w⟩ 7 0
  (if o = 0x400 then some ⟨.rtpSel, st, w⟩ else none)
  <|> regIn [(0x404, .rtpCfg), (0x408, .rtpBind), (0x410, .rtpBase), (0x414, .rtpBaseHi), (0x418, .rtpRing),
    (0x420, .rtpStart), (0x424, .rtpStartHi), (0x428, .rtpPeriod), (0x42C, .rtpPeriodHi), (0x430, .rtpInterval),
    (0x434, .rtpStat), (0x438, .rtpFrame)] i o

/-- STK[s] in the owner window (R265). -/
def stkAt (s : State) (st o : Nat) : Option RegKey :=
  regIn [(0x0000, .stkStat), (0x0004, .stkCtl), (0x0008, .stkCgStart), (0x000C, .stkCgCfg), (0x0010, .stkAge),
    (0x0014, .stkTemp), (0x0018, .stkScrub), (0x001C, .stkRetired)] st o
  <|> regArr .stkPanic st 0x0020 4 8 o <|> regArr .stkWaymask st 0x0100 4 66 o
  <|> rtpAt s 0 st o
  <|> (if 0x10000 ≤ o ∧ o < 0x30000 then
    let x := 32 * st + (o - 0x10000) / 0x1000
    let r := (o - 0x10000) % 0x1000
    regIn [(0x000, .pchStat), (0x004, .pchCtl), (0x008, .pchLat)] x r <|> regArr .pchDly x 0x100 4 38 r
    else none)

/-- PCIE[n] (R434). -/
def pcieAt (n o : Nat) : Option RegKey :=
  regArr .pcieCfg n 0x0000 4 1024 o <|> (if o = 0x1000 then some ⟨.pcieLink, n, 0⟩ else none)

/-- CPU_C[t] (R430). -/
def cpuAt (o : Nat) : Option RegKey :=
  if o < 0x1000 then
    regIn [(0x00, .cpuCtl), (0x04, .cpuStat), (0x08, .cpuBoot), (0x0C, .cpuBootHi), (0x10, .cpuMtimecmp),
      (0x14, .cpuMtimecmpHi), (0x18, .cpuMsip)] (o / 0x100) (o % 0x100)
  else (arrAt 0x1000 4 16 o).map fun t => ⟨.cpuPin, t, 0⟩

/-- What an aligned 32-bit access to offset o of the owner window names; none is reserved (R432, R433). -/
def State.ownerAt (s : State) (o : Nat) : Option RegKey :=
  if o < 0x0100000 then
    let r := o % 0x10000
    match o / 0x10000 with
    | 0x0 => devAt r
    | 0x1 => clkAt r
    | 0x2 => urnAt r
    | 0x3 => strAt 0 r
    | 0x4 => cadAt 0 r
    | 0x5 => tickAt s r
    | 0x6 => imgAt 0 r
    | 0x7 => hceAt 0 r
    | 0x8 => mntAt r
    | 0x9 => if r < 0x8000 then dbgAt (r / 0x1000) (r % 0x1000) else none
    | 0xA => casAt s r
    | 0xB => infAt s 0 r
    | _ => none
  else if o < 0x0D00000 then cupAt ((o - 0x0100000) / 0x10000) ((o - 0x0100000) % 0x10000)
  else if o < 0x0D34000 then leafAt s ((o - 0x0D00000) / 0x1000) ((o - 0x0D00000) % 0x1000)
  else if o < 0x0E00000 then none
  else if o < 0x0E10000 then trayAt s 0 (o - 0x0E00000)
  else if o < 0x0E1F000 then if (o - 0x0E10000) % 0x100 = 0 then some ⟨.rtrErr, (o - 0x0E10000) / 0x100, 0⟩ else none
  else if o < 0x1000000 then none
  else if o < 0x2000000 then quadAt s ((o - 0x1000000) / 0x40000) ((o - 0x1000000) % 0x40000)
  else if o < 0x3000000 then stkAt s ((o - 0x2000000) / 0x200000) ((o - 0x2000000) % 0x200000)
  else if o < 0x3100000 then pcieAt ((o - 0x3000000) / 0x80000) ((o - 0x3000000) % 0x80000)
  else if o < 0x4000000 then none
  else if o < 0x4002000 then cpuAt (o - 0x4000000)
  else none

/-- What an aligned 32-bit access to offset o of tenant n's window names (R435). -/
def State.tenantAt (s : State) (n o : Nat) : Option RegKey :=
  let w := n + 1
  if o < 0x0C00000 then cupAt (o / 0x10000) (o % 0x10000)
  else
    let r := o % 0x10000
    match o / 0x10000 with
    | 0xC0 => trayAt s w r
    | 0xC1 => if r < 0x8000 then rtpAt s w (r / 0x1000) (r % 0x1000) else none
    | 0xC2 => infAt s w r
    | 0xC3 => strAt w r
    | 0xC4 => cadAt w r
    | 0xC5 => imgAt w r
    | 0xC6 => hceAt w r
    | 0xC7 => (arrAt 0x600 4 292 r).map fun n => ⟨.urnCls, n, 0⟩
    | 0xC8 => if r < 0x1000 then cpuAt r else none
    | 0xC9 => dbgAt (8 + n) r
    | _ => none

/-- Rights a range's mask gives a domain (R280): bit 0 read, bit 1 write; its owning domain has both. -/
def State.rangeRights (s : State) (r d : Nat) : Nat :=
  if (s.range r).owner = d then 3
  else if d = 0 then 0
  else s.fld ⟨.infRngRights, r, slotOf d / 16⟩ (2 * (slotOf d % 16) + 1) (2 * (slotOf d % 16))

/-- A range's state (R282): 0 FREE, 1 FILLING, 2 ACTIVE, 3 SWEEPING. -/
def State.rangeState (s : State) (r : Nat) : Nat := s.fld ⟨.infRngStat, r, 0⟩ 2 0

/-- The registers of a real-time port beside RTP_SEL (R265). -/
def rtpReg : RegName → Bool
  | .rtpCfg | .rtpBind | .rtpBase | .rtpBaseHi | .rtpRing | .rtpStart | .rtpStartHi | .rtpPeriod | .rtpPeriodHi
  | .rtpInterval | .rtpStat | .rtpFrame => true
  | _ => false

/-- What a tenant sees of a register in its own window (R31, R165, R265, R293, R324, R325, R383, R402, R435). -/
def State.tenantSees (s : State) (n : Nat) (k : RegKey) : Bool :=
  let d := 0x10 + n
  match blkOf k.name with
  | .cup => k.i < 192 && s.cupDom k.i == d
  | .tray => match k.name with
    | .traySsel => true
    | .traySent => s.fld k 7 0 == d
    | _ => false
  | .col => s.fld ⟨.colCfg, k.i, 0⟩ 7 0 == d
  | .stk => k.name == .rtpSel || (rtpReg k.name && s.fld ⟨.rtpBind, k.i, 0⟩ 31 24 == d)
  | .inf => k.name == .infRsel ||
      (match k.name with
      | .infRngBase | .infRngLimit | .infRngRights =>
        s.rangeState k.i != 0 && k.i != 0 && s.rangeRights k.i d != 0
      | _ => s.rangeState k.i != 0 && (s.range k.i).owner == d)
  | .str => match k.name with
    | .strEvstat | .strEvpop | .strEv | .strIrqack => true
    | _ => false
  | .cad => true
  | .img => match k.name with
    | .imgLibent => (nget s.nv.lib (s.fld ⟨.imgLibsel, n + 1, 0⟩ 9 0) {}).dom == d &&
        decide (s.fld ⟨.imgLibsel, n + 1, 0⟩ 9 0 < 819)
    | .imgStat | .imgCause | .imgJdata | .imgValid | .imgSlots | .imgStep => false
    | _ => true
  | .hce => match k.name with
    | .hceDesc | .hceDescHi | .hceCmd | .hceStat =>
      k.i != 0 && s.flag ⟨.hceCtx, k.i, 0⟩ 31 && s.fld ⟨.hceCtx, k.i, 0⟩ 7 0 == d
    | _ => false
  | .urn => k.name == .urnCls &&
      ((k.i < 192 && s.cupDom k.i == d) || (inRange 264 279 k.i && s.coreDom (k.i - 264) == d))
  | .cpu => k.name != .cpuPin && s.coreDom k.i == d
  | .dbg => true
  | _ => false

/-- What a tenant may write of what it sees (R128, R165, R265, R293, R324). -/
def tenantWrites (k : RegKey) : Bool :=
  match k.name with
  | .cupStateReq | .cupLoadSrc | .cupLoadSrcHi | .cupLoadCmd | .cupCap | .cupRbAddr | .cupRbAddrHi | .cupRbCmd
  | .cupSin | .cupSout | .cupQcfg | .cupScrub => true
  | .traySsel | .colStat | .colVec | .colExpect | .colNotify | .colNotifyHi | .colPop | .colSrcsel => true
  | .traySent | .colCfg | .colSrc | .infRngCtl | .infRngBase | .infRngLimit | .imgLibent => false
  | .infRsel | .infRngRights | .infRngCmd => true
  | .infRngStat | .infRngGen | .infRngPtr | .infRngPtrHi | .infRngWcnt | .infRngWcntHi => true
  | n => !(blkOf n == .cup)

/-- The contents of a collector, which its owner domain alone may read and clear (R158). -/
def colContents : RegName → Bool
  | .colStat | .colVec | .colMsghdr | .colPop | .colMsgtick | .colMsgtickHi | .colMsg => true
  | _ => false

/-- A register of a collector's contents that a domain other than the collector's owner asks for: refused in every window
(R158; log entry 82). -/
def State.colBars (s : State) (d : Nat) (k : RegKey) : Bool := colContents k.name && s.fld ⟨.colCfg, k.i, 0⟩ 7 0 != d

/-- A register access by a master: in the window of its own domain, the owner's otherwise (R221, R435). -/
inductive Verdict where
  | pass | denied
  deriving DecidableEq, Repr

/-- Whether master m, on its own window, may write register k (R128, R165, R408, R438). -/
def State.writeVerdict (s : State) (m : Nat) (k : RegKey) : Verdict :=
  match s.midDomain m with
  | none => .denied
  | some d =>
    match tenantOf d with
    | some n =>
      if s.tenantExists n && s.tenantSees n k && tenantWrites k &&
          (k.name != .infRngRights || (s.range k.i).owner == d) then .pass else .denied
    | none =>
      if s.colBars d k || (s.lacksToken m && k.name != .devToken && blkOf k.name != .dbg) then .denied else .pass

/-- Whether master m, on its own window, may read register k. -/
def State.readVerdict (s : State) (m : Nat) (k : RegKey) : Verdict :=
  match s.midDomain m with
  | none => .denied
  | some d =>
    match tenantOf d with
    | some n => if s.tenantExists n && s.tenantSees n k then .pass else .denied
    | none => if s.colBars d k then .denied else .pass

/-- A cup is absent or its leaf was retired in service: every access to it answers RETIRED (R22, R24). -/
def State.cupGone (s : State) (c : Nat) : Bool :=
  s.fld ⟨.trayLmap, c / 4, 0⟩ 5 0 == 0x3F || s.flag ⟨.trayLmap, c / 4, 0⟩ 8

/-- A register of a cup that answers RETIRED. -/
def State.keyGone (s : State) (k : RegKey) : Bool := blkOf k.name == .cup && s.cupGone k.i

/-- A FENCE of master m is pending, so its interface holds every later request (R144). -/
def State.fenced (s : State) (m : Nat) : Bool := s.fences.any fun e => e.1 == m

/-- The interface of master m holds a request behind its FENCE (R144). -/
def State.holdReq (s : State) (m tag : Nat) (r : Req) : State := { s with heldReqs := s.heldReqs ++ [(m, tag, r)] }

/-- No TAG: the place of an access that a command states without one, outside the range of TAG (R134). -/
def noTag : Nat := 1024

/-- A register write that a command states: checked, performed by `act`, and answered (R10, R136, R438). -/
def State.regWrite (s : State) (m : Nat) (k : RegKey) (act : State → State) : State :=
  match s.writeVerdict m k with
  | .pass => if s.keyGone k then s.answer m .retired else (act s).answer m .ok
  | .denied => if s.isTenant m && s.readVerdict m k == .pass && s.keyGone k then s.answer m .retired else s.denyAccess m

/-- Whether a register answers a master at all (R292, R312, R314, R315, R391, R402): everything in service; JTAG alone in
recovery and factory mode; JTAG at IMG in a start-up halt and at the debug port in integrity halt; and at CAD, which the
Caddy engine serves, whenever PORST_N is high. -/
def State.reaches (s : State) (m : Nat) (k : RegKey) : Bool :=
  let jtag := m == 0x181
  if jtag && blkOf k.name == .cad then decide (s.phase ≠ .inReset)
  else match s.phase with
  | .service => s.rootRuns
  | .recovery => s.rootRuns && jtag && (blkOf k.name == .img || blkOf k.name == .dbg)
  | .factory => s.rootRuns && jtag && [.img, .dbg, .str].contains (blkOf k.name)
  | .halted => jtag && (blkOf k.name == .img || (s.live && blkOf k.name == .dbg))
  | .integrity => jtag && blkOf k.name == .dbg
  | _ => false

/-- The same as its master sends it, `act` doing what a write of the word v does: it does nothing at a register that does not
answer, and is held behind a FENCE of the master (R144). -/
def State.writeNow (s : State) (m : Nat) (k : RegKey) (v : Word) (act : State → State) : State :=
  if s.reaches m k then (if s.fenced m then s.holdReq m noTag (.put k v) else s.regWrite m k act) else s

/-- The same for a register that refuses some values: `bar` says that it refuses this write. -/
def State.writeUnless (s : State) (m : Nat) (k : RegKey) (v : Word) (bar : Bool) (act : State → State) :
    Host.Outcome State Fault Refusal :=
  .next (if s.reaches m k = true ∧ s.fenced m = false ∧ s.writeVerdict m k = .pass ∧ s.keyGone k = false ∧ bar = true then
    s.denyAccess m
  else s.writeNow m k v act)

/-- A register write as a command. -/
def State.writeCommand (s : State) (m : Nat) (k : RegKey) (v : Word) (act : State → State) :
    Host.Outcome State Fault Refusal := .next (s.writeNow m k v act)

/-! ### Tray addresses -/

/-- A queue access by its aperture offset (R104). -/
inductive QOp where
  | opn | dat | cls | rd | drp
  deriving DecidableEq, Repr

/-- What a tray address names (R28); `win` is the window an aperture is reached by, 0 the owner's and n + 1 tenant n's. -/
inductive Target where
  | hbm
  | owner (o : Nat)
  | tenant (n o : Nat)
  | queue (q : QRef) (op : QOp) (win : Nat)
  | badAperture (win : Nat)
  | signal (n : Nat) (msg : Bool) (win : Nat)
  | reserved
  deriving DecidableEq, Repr

/-- The aperture at an offset of 0x8000 to 0xFFFF of a block with `lanes` queues each way (R104). -/
def apertureAt (o : Nat) : Option (Bool × Nat × QOp) :=
  let e := decide (0xC000 ≤ o)
  let b := if e then o - 0xC000 else o - 0x8000
  let n := b / 0x800
  match b % 0x800, e with
  | 0x000, false => some (false, n, .opn)
  | 0x040, false => some (false, n, .dat)
  | 0x080, false => some (false, n, .cls)
  | 0x000, true => some (true, n, .rd)
  | 0x040, true => some (true, n, .drp)
  | _, _ => none

/-- The queue aperture of a cup. -/
def cupAperture (c o win : Nat) : Target :=
  match apertureAt o with
  | some (e, n, op) =>
    let cc : Fin 192 := Fin.ofNat 192 c
    let nn : Fin 8 := Fin.ofNat 8 n
    .queue (if e then .egress cc nn else .ingress cc nn) op win
  | none => .badAperture win

/-- The queue aperture of a management or mailbox pair, n = 0 only (R214, R338). -/
def pairAperture (tx rx : QRef) (o : Nat) : Target :=
  match apertureAt o with
  | some (e, 0, op) => .queue (if e then rx else tx) op 0
  | _ => .badAperture 0

/-- The collector signal aperture at an offset of 0xC000 to 0xCFFF of TRAY (R159). -/
def signalAt (o win : Nat) : Target :=
  if (o - 0xC000) % 0x20 = 0 then .signal ((o - 0xC000) / 0x40) ((o - 0xC000) % 0x40 = 0x20) win else .badAperture win

/-- What an address names. -/
def State.target (_s : State) (a : Nat) : Target :=
  if a < 0x4800000000 then .hbm
  else if 0xF000000000 ≤ a ∧ a < 0xF010000000 then
    let o := a - 0xF000000000
    if 0x0100000 ≤ o ∧ o < 0x0D00000 ∧ 0x8000 ≤ o % 0x10000 then
      let c := (o - 0x0100000) / 0x10000
      cupAperture c (o % 0x10000) 0
    else if 0x0E0C000 ≤ o ∧ o < 0x0E0D000 then signalAt (o - 0x0E00000) 0
    else if 0x1000000 ≤ o ∧ o < 0x2000000 ∧ 0x8000 ≤ o % 0x40000 ∧ o % 0x40000 < 0x10000 then
      let q : Fin 64 := Fin.ofNat 64 ((o - 0x1000000) / 0x40000)
      pairAperture (.mgmtTx q) (.mgmtRx q) (o % 0x40000)
    else if 0x00A8000 ≤ o ∧ o < 0x00B0000 then pairAperture .mailTx .mailRx (o - 0x00A0000)
    else .owner o
  else if 0xF100000000 ≤ a ∧ a < 0xF140000000 then
    let n := (a - 0xF100000000) / 0x1000000
    let o := (a - 0xF100000000) % 0x1000000
    if o < 0x0C00000 ∧ 0x8000 ≤ o % 0x10000 then cupAperture (o / 0x10000) (o % 0x10000) (n + 1)
    else if 0x0C0C000 ≤ o ∧ o < 0x0C0D000 then signalAt (o - 0x0C00000) (n + 1)
    else .tenant n o
  else .reserved

end Sys2Proof.Machine
end

