-- ==== Sys2Proof/Machine/Flags.lean ====
section
/-! DEFINITION. Registers whose value is computed when they are read (status flags, counts and heads of queues), the
latching of 64-bit pairs (R9), and clearing reads (R464). -/

namespace Sys2Proof.Machine

/-- A one-bit number. -/
def b2n (b : Bool) : Nat := if b then 1 else 0

/-- Bits assembled into a register word: (high, low, value). -/
def packBits (l : List (Nat × Nat × Nat)) : Word := l.foldl (fun w (f : Nat × Nat × Nat) => putBits w f.1 f.2.1 f.2.2) 0

/-! ### Command registers (R467) -/

/-- The OP field of a command register with GO at bit 31: high bit, low bit, and the first and last value that names an
operation; a register without an OP names its one operation always. -/
def opField : RegName → Nat × Nat × Nat × Nat
  | .devTcmd => (9, 8, 1, 2)
  | .spCmd => (11, 8, 1, 2)
  | .imgCmd => (3, 0, 1, 9)
  | .dbgCtl => (27, 24, 1, 9)
  | .casCmd => (19, 16, 1, 6)
  | .infRngCmd => (3, 0, 1, 4)
  | .rsvCmd => (3, 0, 0, 5)
  | _ => (0, 0, 0, 1)

/-- The OP that a written word places names an operation. -/
def namesOp (n : RegName) (v : Word) : Bool :=
  let (hi, lo, a, b) := opField n
  inRange a b (bits v hi lo)

/-- A write of a command register (R467): ignored whole while GO reads 1; otherwise its fields are stored (R11), and `act`
starts the operation where the write sets GO and its OP names one.  Where it names none GO reads 0 and nothing else changes. -/
def State.goWrite (s : State) (k : RegKey) (v : Word) (act : State → State) : State :=
  if s.flag k 31 then s
  else
    let t := (s.plainWrite k v).setFlag k 31 false
    if bit v 31 && namesOp k.name v then act t else t

/-! ### ERR_N (R390) -/

/-- A hardware condition drives ERR_N. -/
def State.hwHold (s : State) : Bool :=
  match s.phase with
  | .service => s.clk.mode != .running && s.clk.mode != .coasting
  | _ => true

/-- The level the device drives on ERR_N: true when low. -/
def State.errLow (s : State) : Bool :=
  s.hwHold || s.str.pulseEnd.isSome || s.flag ⟨.strStat, 0, 0⟩ 28 || s.flag ⟨.strStat, 0, 0⟩ 27

/-! ### The TAP's hold on the lands (R455) -/

/-- Instructions always available. -/
def irAlways (c : Byte) : Bool := c == 0x01 || c == 0x02 || c == 0x20

/-- Restricted instructions. -/
def irRestricted (c : Byte) : Bool := inRange 0x03 0x07 c.toNat

/-- The instruction in force: a restricted one outside recovery mode before RUN and factory test mode, and a code not
listed, behave as BYPASS. -/
def State.irFor (s : State) (c : Byte) : Byte :=
  if irAlways c || irRestricted c && (decide (s.phase = .recovery) || decide (s.phase = .factory)) then c else 0xFF

/-- The TAP's instruction in force: the mode counts as it is now, so RUN ends a restricted one (R455). -/
def State.tap (s : State) : Byte := s.irFor s.pins.ir

/-- The level of the ERR_N land, true when low: this device's drive, wired with the other devices' (R452).  HIGHZ takes the
drive off, and EXTEST and CLAMP put the boundary cell's value in its place, which comes through the TAP and is open (log
entry 108).  Of the outputs the boundary scan covers, ERR_N is the one that something reads back in the modes that take these
instructions. -/
def State.errPin (s : State) : Bool :=
  s.pins.errExtLow ||
    (if s.tap = 0x07 then false else if irRestricted s.tap then Config.boundaryCell 0 else s.errLow)

/-- STR_STAT (R390, R402). -/
def State.strStatWord (s : State) : Word :=
  packBits [(31, 31, b2n s.errPin), (30, 30, b2n s.hwHold), (29, 29, b2n s.str.pulseEnd.isSome),
    (28, 28, b2n (s.flag ⟨.strStat, 0, 0⟩ 28)), (27, 27, b2n (s.flag ⟨.strStat, 0, 0⟩ 27))]

/-- STR_PEND[w]: bit b mirrors STICKY of source 32w + b (R386). -/
def State.strPendWord (s : State) (w : Nat) : Word :=
  packBits ((List.range 32).map fun b => (b, b, b2n (s.flag ⟨.strSrc, 32 * w + b, 0⟩ 31)))

/-- STR_EV[w]: word w of the head entry of a window's queue, its CRC 0; 0 with an empty queue (R388). -/
def State.strEvWord (s : State) (win w : Nat) : Word :=
  match (s.evq win).ents with
  | (r, _) :: _ => wordOf (slice (recBytes r false) (4 * w) 4)
  | [] => 0

/-! ### Queues (R99 to R102) -/

/-- Whether a packet is closed: its header is written. -/
def Pkt.closed (p : Pkt) : Bool := p.header.isSome

/-- Slots in use: what is left of the current packet, and a header slot and the data slots of each other. -/
def QueueSt.used (q : QueueSt) : Nat :=
  (q.cur.getD []).length + (q.pkts.map fun p => 1 + p.slots.length).sum

/-- The last packet is open. -/
def QueueSt.isOpen (q : QueueSt) : Bool :=
  match q.pkts.getLast? with
  | some p => !p.closed
  | none => false

/-- Closed packets held. -/
def QueueSt.packets (q : QueueSt) : Nat := (q.pkts.filter Pkt.closed).length + b2n q.cur.isSome

/-- CUP[c]_QSTAT[n]. -/
def State.qstatWord (s : State) (c n : Nat) : Word :=
  let cc : Fin 192 := Fin.ofNat 192 c
  let nn : Fin 8 := Fin.ofNat 8 n
  let q := s.queue (if n < 8 then .ingress cc nn else .egress cc nn)
  packBits [(25, 25, b2n (s.flag ⟨.cupQstat, c, n⟩ 25)), (24, 24, b2n q.isOpen), (23, 16, min q.packets 255),
    (9, 0, q.used)]

/-- QUAD[q]_MQ_STAT[n] (R214, R234). -/
def State.mqstatWord (s : State) (q n : Nat) : Word :=
  let qq : Fin 64 := Fin.ofNat 64 q
  let x := s.queue (if n = 0 then .mgmtRx qq else .mgmtTx qq)
  let w := s.reg ⟨.mqStat, q, n⟩
  packBits [(31, 31, bits w 31 31), (30, 30, b2n x.isOpen), (29, 22, min x.packets 255), (21, 12, bits w 21 12),
    (11, 0, x.used)]

/-! ### Roles, ports and lanes (R198, R205) -/

/-- Role and CONFIG of a quad (R198). -/
def State.quadRole (s : State) (q : Nat) : Nat := s.fld ⟨.quadCfg, q, 0⟩ 2 0
def State.quadConfig (s : State) (q : Nat) : Nat := s.fld ⟨.quadCfg, q, 0⟩ 7 4

/-- The odd quad of a pair that the even quad serves (R205, R326). -/
def State.servedByEven (s : State) (q : Nat) : Bool :=
  q % 2 == 1 && ((s.quadRole q == 1 && s.quadConfig q == 6) || (s.quadRole q == 3 && s.quadConfig q == 3))

/-- The odd quad of an 800GbE pair, whose classifier, pacers and merge are unused and read zero (R205). -/
def State.ethByEven (s : State) (q : Nat) : Bool := s.servedByEven q && s.quadRole q == 1

/-- The lanes a quad's role uses, by lane plan word 0 (R198, R220). -/
def usedLanes (w : Word) : List Nat :=
  match bits w 2 0 with
  | 0 => []
  | 2 => List.range (min 4 (2 ^ bits w 7 4))
  | _ => [0, 1, 2, 3]

/-- The ports of an Ethernet quad: number and lanes l of the device. -/
def State.portsOf (s : State) (q : Nat) : List (Nat × List Nat) :=
  let lane (j : Nat) : Nat := 4 * q + j
  if s.quadRole q ≠ 1 then []
  else match s.quadConfig q with
    | 0 => [(0, [lane 0, lane 1, lane 2, lane 3])]
    | 1 => [(0, [lane 0, lane 1]), (2, [lane 2, lane 3])]
    | 6 => if q % 2 = 0 then [(0, (List.range 8).map fun j => 4 * q + j)] else []
    | _ => (List.range 4).map fun n => (n, [lane n])

/-- The engine that serves a quad's ports (R205). -/
def State.engineOf (s : State) (q : Nat) : Nat := if s.servedByEven q then q - 1 else q

/-- The port a lane belongs to: quad and number. -/
def State.portOfLane (s : State) (l : Nat) : Option (Nat × Nat) :=
  let q := s.engineOf (l / 4)
  ((s.portsOf q).find? fun e => e.2.contains l).map fun e => (q, e.1)

/-- A lane's power state: 0 L0, 1 LP1, 2 LP2 or off, 3 retired. -/
def State.laneState (s : State) (l : Nat) : Nat := s.fld ⟨.lnStat, l, 0⟩ 31 30

def State.los (s : State) (l : Nat) : Bool := s.flag ⟨.lnStat, l, 0⟩ 28
def State.lol (s : State) (l : Nat) : Bool := s.flag ⟨.lnStat, l, 0⟩ 27

/-- A port receives: all its lanes in L0, with signal and lock, PCS aligned, and no retrain (log entry 18). -/
def State.portUp (s : State) (q n : Nat) : Bool :=
  match (s.portsOf q).find? fun e => e.1 == n with
  | some (_, ls) => (look (s.quad q).pcsLost n).isNone &&
      ls.all fun l => s.laneState l == 0 && !s.los l && !s.lol l && !(s.lane l).retraining
  | none => false

/-- Bytes of a word of a RAW quad (R198, R224). -/
def State.rawBytes (s : State) (q : Nat) : Nat := if s.quadConfig q = 1 then 16 else 8

/-- A lane's line rate in kbit/s, by the plan's rate of the PLL that clocks it; PAM4 carries two bits a symbol (R198). -/
def State.laneRate (s : State) (l : Nat) : Nat :=
  let w := ((s.quad (l / 4)).plan[if s.flag ⟨.quadCfg, l / 4, 0⟩ (12 + l % 4) then 1 else 0]?).getD 0
  bits w 26 0 * (if bit w 31 then 2 else 1)

/-- Word times of a RAW lane since its transmit buffer was last counted, and the part of one past, in units of 1/12000000
of a bit: a root cycle is one at 4.0 GHz, or at 60 % of that in a coast, while the lane keeps its rate (R362; log entry
56). -/
def State.txTimes (s : State) (l : Nat) : Nat × Nat :=
  let x := s.lane l
  let word := 8 * s.rawBytes (l / 4) * 12000000
  let gone := x.txPart + (s.root - x.txAt) * s.laneRate l * (if s.clk.mode = .coasting then 5 else 3)
  (gone / word, gone % word)

/-- Words of transmit packets that have still to leave a RAW lane (R225). -/
def State.txWaiting (s : State) (l : Nat) : Nat := (s.lane l).txWords - (s.txTimes l).1

/-- The transmit buffers of the RAW lanes counted up to now, as the root is about to change its rate. -/
def State.txSettle (s : State) : State :=
  { s with lanes := s.lanes.map fun e => (e.1, { e.2 with
      txWords := s.txWaiting e.1, txAt := s.root, txPart := (s.txTimes e.1).2 }) }

/-- LN_STAT.TXFILL: a RAW lane's buffer holds 16 of the words that wait (R195); in the other roles the protocol layer
keeps the buffer of a lane in L0 filled, to a level that the spec leaves open (log entry 56). -/
def State.txFill (s : State) (l : Nat) : Nat :=
  match s.quadRole (l / 4) with
  | 0 => 0
  | 4 => min 16 (s.txWaiting l)
  | _ => if s.laneState l = 0 then 1 + Config.freeNat s.freeCtr % 16 else 0

/-- The Selov links in number order: quad and lanes (R199, R326). -/
def State.casLinks (s : State) : List (Nat × List Nat) :=
  (List.range 64).flatMap fun q =>
    let lanes (a n : Nat) : Nat × List Nat := (q, (List.range n).map fun j => 4 * q + a + j)
    if s.quadRole q ≠ 3 then []
    else match s.quadConfig q with
      | 0 => [lanes 0 4]
      | 1 => [lanes 0 2, lanes 2 2]
      | 3 => if q % 2 = 0 then [lanes 0 8] else []
      | _ => [lanes 0 1, lanes 1 1, lanes 2 1, lanes 3 1]

/-- The quad and the lanes of link n. -/
def State.linkQuad (s : State) (n : Nat) : Nat := ((s.casLinks[n]?).map (·.1)).getD 64
def State.linkLanes (s : State) (n : Nat) : List Nat := ((s.casLinks[n]?).map (·.2)).getD []

/-- The link of a lane. -/
def State.linkOfLane (s : State) (l : Nat) : Option Nat := s.casLinks.findIdx? fun e => e.2.contains l

/-- A link's slots for streams: S − 4, from its lane count and rate (R330). -/
def State.linkSlots (s : State) (n : Nat) : Nat :=
  let w := ((s.quad (s.linkQuad n)).plan[0]?).getD 0
  let lanes := (s.linkLanes n).length
  let baud := bits w 26 0
  (if bit w 31 then lanes * baud * 2 * 514 * 256 * 1024 / (544 * 257 * 2176 * 1000000)
    else lanes * baud * 64 * 1024 / (66 * 2176 * 1000000)) - 4

/-- Link slots not held by entries of CAS_SLINK (R341, R349). -/
def State.linkFree (s : State) (n : Nat) : Nat :=
  s.linkSlots n - ((s.regs.filter fun e => e.1.name == .casSlink && bit e.2 31 && bits e.2 28 24 == n).map
    fun e => bits e.2 9 0).sum

/-- A link's STATE: 0 unused, 1 training, 2 up, 3 DOWN, 4 retired. -/
def State.linkState (s : State) (n : Nat) : Nat := s.fld ⟨.casLink, n, 0⟩ 31 29

/-- QUAD[q]_PORT_STAT[n]: whether the far end signals a fault and how many symbols its FEC meets in error no command says,
so both are free (log entry 18). -/
def State.portStatWord (s : State) (q n : Nat) : Word :=
  if (s.portsOf q).any fun e => e.1 == n then
    packBits [(31, 31, b2n (s.portUp q n)), (30, 30, b2n (!s.portUp q n)),
      (29, 28, bits (Config.portFault (4 * q + n) s.tick) 29 28)]
  else 0

/-- QUAD[q]_STAT: a PLL is locked while a lane that it clocks is out of LP2, which turns it off (R193, R230). -/
def State.quadStatWord (s : State) (q : Nat) : Word :=
  let raw := s.reg ⟨.quadStat, q, 0⟩
  let on (b : Bool) : Bool := (List.range 4).any fun j =>
    s.flag ⟨.quadCfg, q, 0⟩ (12 + j) == b && decide (s.laneState (4 * q + j) ≤ 1)
  putBits (putBits raw 0 0 (b2n (bit raw 0 && on false))) 1 1 (b2n (bit raw 1 && on true))

/-! ### Streams (R155) -/

/-- The calendar periods of TRAY_SCFG.SILENCE in ticks: 256 ticks each (R145). -/
def State.silenceTicks (s : State) : Nat := s.fld ⟨.trayScfg, 0, 0⟩ 9 0 * 256

/-- The state a stream shows at its source, LOST if any destination is LOST (R155, R156; log entry 9). -/
def State.streamState (s : State) (n : Nat) : Nat :=
  let x := s.stream n
  if x.tree.isNone then 0
  else if x.dstState.any (fun e => e.2 == 4) then 4
  else if x.degradedAt.isSome then 5
  else match x.srcSop with
    | none => 1
    | some t => if s.silenceTicks ≠ 0 ∧ t + s.silenceTicks ≤ s.tick then 3 else 2

/-- TRAY_SENT. -/
def State.traySentWord (s : State) (n : Nat) : Word :=
  let x := s.stream n
  packBits [(31, 28, s.streamState n), (27, 27, b2n x.prep.isSome), (26, 23, (x.prep.map (·.set)).getD 0),
    (22, 13, (x.tree.map (·.slots.length)).getD 0), (12, 12, b2n ((x.tree.map (·.be)).getD false)),
    (7, 0, s.fld ⟨.traySent, n, 0⟩ 7 0)]

/-! ### Collectors (R158 to R162) -/

/-- DONE: EXPECT is not zero and every bit it selects is set. -/
def State.colDone (s : State) (n : Nat) : Bool :=
  let ex := (List.range 8).map fun w => s.reg ⟨.colExpect, n, w⟩
  ex.any (· != 0) && (List.range 8).all fun w =>
    s.reg ⟨.colExpect, n, w⟩ &&& ~~~ s.reg ⟨.colVec, n, w⟩ == 0

/-- COL[n]_STAT. -/
def State.colStatWord (s : State) (n : Nat) : Word :=
  packBits [(31, 31, b2n (s.colDone n)), (30, 30, b2n (s.flag ⟨.colStat, n, 0⟩ 30)), (8, 0, (s.col n).msgs.length)]

/-! ### Power (R369, R378, R383) -/

/-- The base allowance in units. -/
def urnBase : Nat := 480

/-- The grant a client holds. -/
def State.grant (s : State) (n : Nat) : Nat := s.fld ⟨.urnCls, n, 0⟩ 10 0

/-- Units granted, without the base. -/
def State.granted (s : State) : Nat := ((List.range 292).map s.grant).sum

/-- URN_STAT.FREE, the units available for grants; until the Urn first grants after a reset it reads its Reset value 0
(R383; log entry 109). -/
def State.freeUnits (s : State) : Nat :=
  if s.granted = 0 then 0 else s.fld ⟨.urnBudget, 0, 0⟩ 12 0 - urnBase - s.granted

/-- A client's throttle level (R376). -/
def State.throttle (s : State) (n : Nat) : Nat := s.fld ⟨.urnCls, n, 0⟩ 28 26

/-- A client is throttled. -/
def State.throttling (s : State) : Bool := (List.range 292).any fun n => s.throttle n != 0

/-- URN_STAT. -/
def State.urnStatWord (s : State) : Word :=
  packBits [(31, 31, s.fld ⟨.urnStat, 0, 0⟩ 31 31), (30, 30, b2n s.throttling), (29, 29, s.fld ⟨.urnStat, 0, 0⟩ 29 29),
    (28, 16, s.granted), (12, 0, s.freeUnits)]

/-- URN_CLS[n]: STATE from the requests pending and deferred. -/
def State.urnClsWord (s : State) (n : Nat) : Word :=
  let raw := s.reg ⟨.urnCls, n, 0⟩
  let st := if s.urn.deferred.any fun e => e.1 == n then 3
    else if s.urn.pend.any fun e => e.client == n then 2
    else if s.grant n ≠ 0 then 1 else 0
  putBits raw 31 30 st

/-! ### Leases (R394, R402) -/

/-- Class codes of R394. -/
def classCode : LeaseClass → Nat
  | .steepPass => 1 | .captureReadback => 2 | .shadowLoad => 3 | .patrolScrub => 4 | .fullRetrain => 5
  | .driftTrack => 6 | .rekeySweep => 7 | .eyeScan => 8 | .laneRetrain => 9 | .storeWrite => 10 | .caddyWrite => 11

/-- MNT_ENT.KIND and INDEX of a resource.  A range names whose sweep a stack's lease is; it stands behind the stack, which
the registers show. -/
def resKind : Resource → Nat × Nat
  | .leaf p => (0, p) | .cup c => (1, c) | .stack i => (2, i) | .pch x => (3, x) | .lane l => (4, l)
  | .libEntry n => (5, n) | .region r => (6, r) | .storeDie => (7, 0) | .range r => (15, r)

/-- MNT_ENT of a lease entry. -/
def State.mntEntWord (s : State) (e : Nat) : Word :=
  match look s.leases e with
  | some l =>
    let r := (l.rs.head?.map resKind).getD (0, 0)
    packBits [(31, 31, 1), (30, 30, b2n l.deferAt.isSome), (29, 26, classCode l.cls), (25, 22, r.1), (21, 10, r.2),
      (9, 0, min l.renewals 1023)]
  | none => 0

/-- MNT_LOG of the n-th newest entry, with its tick. -/
def State.mntLogEnt (s : State) (n : Nat) : Word × Nat :=
  match s.leaseLog[n]? with
  | some l =>
    let r := resKind l.res
    (packBits [(31, 28, l.event), (27, 24, classCode l.cls), (23, 20, r.1), (19, 8, r.2), (7, 0, l.dom)], l.tick)
  | none => (0, 0)

/-- The client of a deferred request's lease: what a lease's first resource is as a power client (R370, R378). -/
def clientOf : Resource → Option Nat
  | .cup c => some c
  | .lane l => some (192 + l / 4)
  | .stack i => some (256 + i)
  | .pch x => some (256 + x / 32)
  | _ => none

/-- URN_DEFER. -/
def State.urnDeferWord (s : State) : Word :=
  let cnt := s.fld ⟨.urnDefer, 0, 0⟩ 15 0
  match s.urn.deferred with
  | (c, _) :: _ =>
    let cls := (s.leases.find? fun e => e.2.deferAt.isSome && e.2.rs.any fun r => clientOf r == some c).map
      fun e => classCode e.2.cls
    packBits [(31, 31, 1), (30, 27, cls.getD 0), (26, 18, c), (15, 0, cnt)]
  | [] => packBits [(15, 0, cnt)]

/-! ### Other computed registers -/

/-- Tick t lies within 10 ms after a reference-loss stop (R393). -/
def State.afterStopAt (s : State) (t : Nat) : Bool :=
  s.clk.resumeTick != 0 && decide (s.clk.resumeTick ≤ t ∧ t < s.clk.resumeTick + msTicks 10)

/-- How many of a list of ticks lie in the last `n` ticks. -/
def State.inWindow (s : State) (ts : List Nat) (n : Nat) : Nat := (ts.filter fun t => s.tick < t + n).length

/-- IMG_SLOTS (R308, R324). -/
def slotsWord (nv : NvSt) : Word :=
  let st (k : KeySlot) : Nat := match k with
    | .blank => 0
    | .active _ => 1
    | .revoked _ => 2
  packBits ((14, 8, nv.minSvn) ::
    (List.range 4).map fun n => (2 * n + 1, 2 * n, ((nv.slots[n]?).map st).getD 0))

/-- INF_LOG word j of the entry that INF_PSEL names (R272). -/
def State.infLogWord (s : State) (x j : Nat) : Word :=
  match (s.pch x).log[s.fld ⟨.infPsel, 0, 0⟩ 4 0]? with
  | some (w0, w1, t) => if j = 0 then w0 else if j = 1 then w1 else if j = 2 then loWord t else hiWord t
  | none => 0

/-- The DOMAIN and CAUSE a leaf's state comes from; LEAF STATE copies TRAY_PHEALTH (R89). -/
def State.leafState (s : State) (p : Nat) : Nat := s.fld ⟨.trayPhealth, p, 0⟩ 1 0

/-- A stack's panic word: bit b, port 32w + b in panic (R248, R265). -/
def State.panicWord (s : State) (st w : Nat) : Word :=
  packBits ((List.range 32).map fun b => (b, b, b2n (s.flag ⟨.rtpStat, 256 * st + 32 * w + b, 0⟩ 31)))

/-- A port of the stack is in panic. -/
def State.stackPanic (s : State) (st : Nat) : Bool :=
  s.regs.any fun e => e.1.name == .rtpStat && e.1.i / 256 == st && bit e.2 31

/-- A stack is in self-refresh. -/
def State.inSr (s : State) (st : Nat) : Bool := s.fld ⟨.stkStat, st, 0⟩ 31 30 == 2

/-- Leases that defer a self-refresh request of a stack (R378). -/
def stackLease (st : Nat) (x : Lease) : Bool :=
  (x.cls == .rekeySweep && x.rs.contains (.stack st)) ||
  ((x.cls == .fullRetrain || x.cls == .driftTrack || x.cls == .patrolScrub) &&
    x.rs.any fun r => match r with
      | .pch y => y / 32 == st
      | _ => false)

/-- The second condition of R252. -/
def State.srFree (s : State) (st : Nat) : Bool :=
  !(s.regs.any fun e => e.1.name == .rtpCfg && e.1.i / 256 == st && bit e.2 31) && !s.stackPanic st &&
  !(s.hbmHeld.any fun h => h.addr / 0x900000000 == st) &&
  !s.leases.any fun e => stackLease st e.2

/-- STR_INJ works (R401): factory mode with a Plyngen-keyed session. -/
def State.injectOn (s : State) : Bool := decide (s.phase = .factory) && s.sess.any fun e => e.2.isOpen && e.2.dom == 0x00

/-- PERST_N of controller n is high. -/
def State.perstHigh (s : State) (n : Nat) : Bool := if n = 0 then s.pins.perst0N else s.pins.perst1N

/-- The lanes of a controller: the first of its quads' by its width (R220). -/
def State.pcieLanes (s : State) (n : Nat) : List Nat :=
  if s.pciePresent n then (List.range (2 ^ s.quadConfig (60 * n))).map (240 * n + ·) else []

/-- A lane can carry its part of a controller's link: it is not retired, and has signal and lock. -/
def State.pcieGood (s : State) (l : Nat) : Bool := s.laneState l != 3 && !s.los l && !s.lol l

/-- The width a controller's link can hold: the lanes before the first that cannot carry it, to a power of 2; a link that
cannot hold its width goes on narrower (R232). -/
def State.pcieWidth (s : State) (n : Nat) : Nat :=
  let good := ((s.pcieLanes n).takeWhile s.pcieGood).length
  ([16, 8, 4, 2, 1].find? fun w => decide (w ≤ good)).getD 0

/-- A controller's link trains: no width is left, or a lane of the width it holds trains (R231, R232, R312). -/
def State.pcieTrains (s : State) (n : Nat) : Bool :=
  s.pcieWidth n == 0 || ((s.pcieLanes n).take (s.pcieWidth n)).any fun l => (s.lane l).retraining || (s.lane l).due

/-- PCIE[n]_LINK: absent, in reset by PERST_N, training, or up with the width and rate that the host negotiated, the width
no more than the lanes hold (R232, R434; log entry 2). -/
def State.pcieLinkWord (s : State) (n : Nat) : Word :=
  if !s.pciePresent n then 0
  else if !s.perstHigh n then packBits [(31, 30, 3)]
  else if s.pcieTrains n then packBits [(31, 30, 1)]
  else packBits [(31, 30, 2), (29, 24, min (bits (Config.pcieLinkRate n) 29 24) (s.pcieWidth n)),
    (23, 20, bits (Config.pcieLinkRate n) 23 20)]

/-- What window w reads of register k for master m, before any clearing. -/
def State.readReg (s : State) (m w : Nat) (k : RegKey) : Word :=
  let raw := s.reg k
  let own := w == 0
  match k.name with
  | .devToken => putBits raw 29 29 (b2n (holderCode m != 0 && s.holder == holderCode m))
  | .tickLo => loWord s.tick
  | .tickHi => hiWord s.tick
  | .timeNs => loWord s.devSubNs
  | .timeSecLo => loWord s.devSec
  | .timeSecHi => BitVec.ofNat 32 (s.devSec / 2 ^ 32 % 2 ^ 16)
  | .strStat => s.strStatWord
  | .strEvstat => packBits [(26, 16, (s.evq k.i).ents.length), (15, 0, bits raw 15 0)]
  | .strEv => s.strEvWord k.i k.j
  | .strPend => s.strPendWord k.j
  | .strInj => if s.injectOn then raw else 0
  | .strInjWord => if s.injectOn then raw else 0
  | .strIrqack => if own then raw else raw &&& 1
  | .strSrc => if sourceExists k.i then raw else 0
  | .cadStat => if own then packBits [(31, 31, b2n (s.flag ⟨.cadStat, 0, 0⟩ 31)), (21, 16, s.caddy.buf.length),
      (15, 0, bits raw 15 0)] else packBits [(31, 31, b2n (s.flag ⟨.cadStat, 0, 0⟩ 31))]
  | .cadHead => if own then BitVec.ofNat 32 ((s.nv.ring.head?.map (·.seq)).getD 0) else 0
  | .imgValid => packBits [(3, 3, b2n s.nv.golden), (2, 2, b2n s.nv.primary), (1, 1, b2n s.nv.fwB), (0, 0, b2n s.nv.fwA)]
  | .imgSlots => slotsWord s.nv
  | .imgLibent =>
    let e := s.fld ⟨.imgLibsel, w, 0⟩ 9 0
    if e < 819 then packBits [(31, 31, b2n (nget s.nv.lib e {}).valid), (7, 0, (nget s.nv.lib e {}).dom)] else 0
  | .imgDevpub => wordOf (slice Config.devicePub (4 * k.j) 4)
  | .mntEnt => s.mntEntWord (s.fld ⟨.mntSel, 0, 0⟩ 8 0)
  | .mntLog => (s.mntLogEnt (s.fld ⟨.mntLogsel, 0, 0⟩ 7 0)).1
  | .mntLogTick => loWord (s.mntLogEnt (s.fld ⟨.mntLogsel, 0, 0⟩ 7 0)).2
  | .mntLogTickHi => hiWord (s.mntLogEnt (s.fld ⟨.mntLogsel, 0, 0⟩ 7 0)).2
  | .infRngGen => if k.i = 0 then 0 else BitVec.ofNat 32 ((s.range k.i).gen % 2 ^ 24)
  | .infRngPtr => if k.i ≠ 0 ∧ s.rangeState k.i = 3 then loWord ((s.range k.i).ptr * 64) else 0
  | .infRngPtrHi => if k.i ≠ 0 ∧ s.rangeState k.i = 3 then hiWord ((s.range k.i).ptr * 64) else 0
  | .infRngWcnt => if k.i = 0 then 0 else loWord (s.range k.i).wcnt
  | .infRngWcntHi => if k.i = 0 then 0 else BitVec.ofNat 32 ((s.range k.i).wcnt / 2 ^ 32 % 256)
  | .infRngCtl | .infRngCmd => if k.i = 0 then 0 else raw
  | .infRngBase => if own then raw else BitVec.ofNat 32 (s.range k.i).base
  | .infRngLimit => if own then raw else BitVec.ofNat 32 (s.range k.i).limit
  | .infRngRights =>
    if k.i = 0 then 0
    else if own || (s.range k.i).owner == windowDom w then raw
    else
      let n := slotOf (windowDom w)
      if n / 16 = k.j then packBits [(2 * (n % 16) + 1, 2 * (n % 16), bits raw (2 * (n % 16) + 1) (2 * (n % 16)))]
      else 0
  | .infLog => s.infLogWord k.i k.j
  | .cupState => if own then raw else putBits raw 10 10 (b2n (bit raw 10 || (s.cup k.i).deferred.isSome))
  | .cupQstat => s.qstatWord k.i k.j
  | .mqStat => s.mqstatWord k.i k.j
  | .portStat => s.portStatWord (k.i / 4) (k.i % 4)
  | .quadStat => s.quadStatWord k.i
  | .traySent => s.traySentWord k.i
  | .colStat => s.colStatWord k.i
  | .colMsghdr => match (s.col k.i).msgs with
    | h :: _ => packBits [(31, 31, 1), (7, 0, h.idx)]
    | [] => 0
  | .colMsgtick => loWord (((s.col k.i).msgs.head?.map (·.tick)).getD 0)
  | .colMsgtickHi => hiWord (((s.col k.i).msgs.head?.map (·.tick)).getD 0)
  | .colMsg => wordOf (slice (((s.col k.i).msgs.head?.map (·.bytes)).getD []) (4 * k.j) 4)
  | .leafStatus => putBits raw 1 0 (s.leafState k.i)
  | .leafCrkGstat => if k.j < 178 then
      putBits raw 15 8 (min 255 (s.inWindow (nget (s.leaf k.i).retrains k.j []) (msTicks 1000))) else 0
  | .lnStat =>
    let w := putBits raw 26 24 (min 7 (s.inWindow (s.lane k.i).counted (msTicks (s.fld ⟨.mntBudget, 0, 0⟩ 27 0))))
    putBits w 4 0 (s.txFill k.i)
  | .clsSel | .clsAct | .clsKey | .clsAddr | .clsDefault | .pacSel | .pacCfg | .pacStreams | .pacTrs | .pacStat | .mrgSel
  | .mrgCfg | .mrgStat => if s.ethByEven k.i then 0 else raw
  | .casLink =>
    if k.i < s.casLinks.length then
      putBits (putBits raw 26 24 (min 7 (s.inWindow (s.link k.i).fails (msTicks 1000)))) 9 0 (s.linkFree k.i)
    else raw
  | .casGstat =>
    let g := s.group k.i
    packBits [(31, 30, bits raw 31 30), (29, 20, g.ready.length), (19, 10, g.executed.length), (9, 0, g.failed.length)]
  | .txstamp => loWord (((s.quad k.i).stamps.head?.map (·.tick)).getD 0)
  | .txstampHi => hiWord (((s.quad k.i).stamps.head?.map (·.tick)).getD 0)
  | .txstampInfo => match (s.quad k.i).stamps with
    | t :: _ => packBits [(31, 31, 1), (30, 30, bits raw 30 30), (25, 24, t.port), (18, 16, t.frac), (15, 0, t.cookie)]
    | [] => packBits [(30, 30, bits raw 30 30)]
  | .urnStat => s.urnStatWord
  | .urnDefer => s.urnDeferWord
  | .urnCls => if own || bits (s.urnClsWord k.i) 31 30 != 3 then s.urnClsWord k.i else putBits (s.urnClsWord k.i) 31 30 2
  | .stkPanic => s.panicWord k.i k.j
  | .stkStat => putBits (putBits raw 28 28 (b2n (s.stackPanic k.i))) 29 29
      (b2n (s.flag ⟨.stkCtl, k.i, 0⟩ 31 && !s.inSr k.i && !s.srFree k.i))
  | .stkRetired => packBits ((List.range 32).map fun h => (h, h, b2n (s.fld ⟨.pchStat, 32 * k.i + h, 0⟩ 31 30 == 3)))
  | .cpuCtl => putBits raw 7 0 (s.coreDom k.i)
  | .pcieCfg => if s.pciePresent k.i then raw else 0
  | .pcieLink => s.pcieLinkWord k.i
  | .hceDesc | .hceDescHi | .hceCmd | .hceStat => if k.i = 0 then 0 else raw
  | _ => maskWo k.name raw

/-- The register whose read latches another (R9, R191), low word first. -/
def highOf : RegName → List RegName
  | .tickLo => [.tickHi]
  | .tickCascOfs => [.tickCascOfsHi]
  | .timeNs => [.timeSecLo, .timeSecHi]
  | .timeSecLo => [.timeSecHi]
  | .timeMapTick => [.timeMapTickHi]
  | .timeMapSec => [.timeMapSecHi]
  | .timeSetSecLo => [.timeSetSecHi]
  | .ppsInStamp => [.ppsInStampHi]
  | .spTickLo => [.spTickHi]
  | .clkLossTick => [.clkLossTickHi]
  | .mntLogTick => [.mntLogTickHi]
  | .imgSrc => [.imgSrcHi]
  | .imgDst => [.imgDstHi]
  | .hceDesc => [.hceDescHi]
  | .dbgData0 => [.dbgData0Hi]
  | .dbgData1 => [.dbgData1Hi]
  | .casPtick => [.casPtickHi]
  | .casExpect => [.casExpectHi]
  | .infRngPtr => [.infRngPtrHi]
  | .infRngWcnt => [.infRngWcntHi]
  | .cupLoadSrc => [.cupLoadSrcHi]
  | .cupRbAddr => [.cupRbAddrHi]
  | .cupPdigTick => [.cupPdigTickHi]
  | .colNotify => [.colNotifyHi]
  | .colMsgtick => [.colMsgtickHi]
  | .portMac => [.portMacHi]
  | .portCnt => [.portCntHi]
  | .txstamp => [.txstampHi]
  | .rtpBase => [.rtpBaseHi]
  | .rtpStart => [.rtpStartHi]
  | .rtpPeriod => [.rtpPeriodHi]
  | .devTdesc => [.devTdescHi]
  | .cpuBoot => [.cpuBootHi]
  | .cpuMtimecmp => [.cpuMtimecmpHi]
  | _ => []

/-- The registers whose high words a read of register k latches: those of `highOf`, and the high word of the TICK of a
correction-log entry, which stands in INF_LOG[2] and INF_LOG[3] (R272, R293). -/
def highKeys (k : RegKey) : List RegKey :=
  if k.name = .infLog ∧ k.j = 2 then [{ k with j := 3 }] else (highOf k.name).map fun n => { k with name := n }

/-- The latched word of a high register for a master. -/
def State.latched (s : State) (m : Nat) (k : RegKey) : Option Word :=
  (s.latches.find? fun e => e.1 = m ∧ e.2.1 = k).map (·.2.2)

/-- Forgets a latch. -/
def State.unlatch (s : State) (m : Nat) (k : RegKey) : State :=
  { s with latches := s.latches.filter fun e => !(e.1 == m && e.2.1 == k) }

/-- Latches the high words that a read of k latches (R9), unless k's own value came from a latch. -/
def State.latchHigh (s : State) (m w : Nat) (k : RegKey) : State :=
  (highKeys k).foldl
    (fun (s : State) h => { (s.unlatch m h) with latches := (m, h, s.readReg m w h) :: (s.unlatch m h).latches }) s

/-- What a read by m through window w returns of k (R9). -/
def State.readValue (s : State) (m w : Nat) (k : RegKey) : Word := (s.latched m k).getD (s.readReg m w k)

/-- What a read does besides returning a value: it latches the high word, uses up a latch, clears RC fields (R464), and
a read of the high word of TXSTAMP pops the FIFO (R215, R234).  TXFILL of LN_STAT is a fresh free value (log entry 2). -/
def State.readEffect (s : State) (m w : Nat) (k : RegKey) : State :=
  let s := if (s.latched m k).isSome then s.unlatch m k else s.latchHigh m w k
  let s := if hasRc k.name then s.setReg k (clearRc k.name (s.reg k)) else s
  if k.name = .txstampHi then s.modQuad k.i fun q => { q with stamps := q.stamps.drop 1 }
  else if k.name = .lnStat then s.draw else s

/-- A register read that a command states: checked, answered with its word, and its effect (R9, R136, R464). -/
def State.regRead (s : State) (m : Nat) (k : RegKey) : State :=
  match s.readVerdict m k with
  | .pass =>
    let w := windowOf ((s.midDomain m).getD 0)
    if s.keyGone k then s.answer m .retired else (s.readEffect m w k).answer m .ok (wordBytes (s.readValue m w k))
  | .denied => s.denyAccess m

/-- The same for a command. -/
def State.readCommand (s : State) (m : Nat) (k : RegKey) : Host.Outcome State Fault Refusal :=
  .next (if s.reaches m k then (if s.fenced m then s.holdReq m noTag (.get k) else s.regRead m k) else s)

end Sys2Proof.Machine
end

