-- ==== Sys2Proof/Machine/Lease.lean ====
section
/-! DEFINITION. The lease table and its conflict matrix (R394 to R397), armed switch-point entries (R185, R396), and
where cups and routers stand (R17 to R19, R84). -/

namespace Sys2Proof.Machine

/-! ### Positions -/

/-- The physical leaf that carries a cup, from the sparing map; none when absent (R22, R84). -/
def State.leafOfCup (s : State) (c : Nat) : Option Nat :=
  let p := s.fld ⟨.trayLmap, c / 4, 0⟩ 5 0
  if p < 52 then some p else none

/-- The physical column of leaf position x (R14). -/
def physCol (x : Nat) : Nat := if x < 4 then x else if x < 9 then x + 1 else x + 2

/-- The router a cup's ports attach to (R18). -/
def State.cupRouter (s : State) (c : Nat) : Option Nat :=
  (s.leafOfCup c).map fun p =>
    let qd := c % 4
    (2 * (p / 13) + qd / 2) * 30 + 2 * physCol (p % 13) + qd % 2

/-- The cups of a physical leaf: the logical leaf mapped to it (R84). -/
def State.cupsOfLeaf (s : State) (p : Nat) : List Nat :=
  match (List.range 48).find? fun n => s.fld ⟨.trayLmap, n, 0⟩ 5 0 == p with
  | some n => [4 * n, 4 * n + 1, 4 * n + 2, 4 * n + 3]
  | none => []

/-- The routers under an HBM stack (R17, R18). -/
def stackRouters (st : Nat) : List Nat :=
  let r := st / 2
  let j := if st % 2 = 0 then 4 else 10
  [(2 * r) * 30 + 2 * j, (2 * r) * 30 + 2 * j + 1, (2 * r + 1) * 30 + 2 * j, (2 * r + 1) * 30 + 2 * j + 1]

/-- The router of a quad, and its local port there (R19, R130). -/
def quadRouter (q : Nat) : Nat × Nat :=
  let n := q / 4
  let m := if n < 8 then n else n - 8
  let row := if n < 8 then 0 else 7
  (row * 30 + 3 * m + 3 + q % 4 / 2, 1 + q % 2)

/-! ### Switch-point entries as leases meet them -/

/-- An entry is ARMED or FINAL (R181). -/
def State.spArmed (s : State) (e : Nat) : Bool :=
  let st := s.fld ⟨.spCtl, e, 0⟩ 31 29
  st == 2 || st == 3

/-- The action of an entry. -/
def State.spAction (s : State) (e : Nat) : Nat := (s.spEnt e).action

/-- The local tick at which an entry executes: EXEC, or for CASC the tick fixed at the final check, else by the offset
in force (R340). -/
def State.spLocalTick (s : State) (e : Nat) : Nat :=
  if (s.spEnt e).casc then
    (look s.spLocal e).getD
      (((s.spEnt e).exec : Int) - signed 64 (s.pair ⟨.tickCascOfs, 0, 0⟩ ⟨.tickCascOfsHi, 0, 0⟩)).toNat
  else (s.spEnt e).exec

/-- Argument word i of an entry. -/
def SpEnt.arg (x : SpEnt) (i : Nat) : Word := x.args.getD i 0

/-- A cup mask names a cup (R180). -/
def SpEnt.names (x : SpEnt) (c : Nat) : Bool := bit (x.arg (c / 32)) (c % 32)

/-- An entry's cup mask names a cup. -/
def State.spNames (s : State) (e c : Nat) : Bool := (s.spEnt e).names c

/-- An armed entry excludes a lease of class cls on a cup (R396). -/
def State.spExcludes (s : State) (e : Nat) (cls : LeaseClass) (c : Nat) : Bool :=
  s.spArmed e && s.spNames e c &&
    ((s.spAction e == 1 && (cls == .shadowLoad || cls == .captureReadback)) ||
      (s.spAction e == 4 && cls == .captureReadback))

/-- The armed entries a lease meets. -/
def State.spConflicts (s : State) (cls : LeaseClass) (rs : List Resource) : List Nat :=
  (List.range 256).filter fun e => rs.any fun r => match r with
    | .cup c => s.spExcludes e cls c
    | _ => false

/-! ### The table -/

/-- 10 ms: how long a lease lasts (R394). -/
def leaseTicks : Nat := 2500000

/-- A line of the lease log, a ring of 256 (R394). -/
def State.logLease (s : State) (event : Nat) (cls : LeaseClass) (rs : List Resource) (dom : Nat) : State :=
  { s with leaseLog := ({ event, cls, res := rs.headD .storeDie, dom, tick := s.tick } :: s.leaseLog).take 256 }

/-- A lease is held on a resource for an activity. -/
def State.leased (s : State) (cls : LeaseClass) (r : Resource) : Bool :=
  s.leases.any fun e => e.2.cls == cls && e.2.rs.contains r

/-- The entry of a lease by its class and first resource. -/
def State.leaseEntry (s : State) (cls : LeaseClass) (r : Resource) : Option Nat :=
  (s.leases.find? fun e => e.2.cls == cls && e.2.rs.head? == some r).map (·.1)

/-- What a held lease does to a request (R395). -/
inductive Meet where
  | compatible | busy | takeOver | pausePass
  deriving DecidableEq, Repr

/-- One pair of the matrix of R395. -/
def State.meet (s : State) (held : Lease) (cls : LeaseClass) (rs : List Resource) : Meet :=
  let same := held.rs.head? == rs.head?
  let shares (f : Resource → Bool) : Bool := rs.any fun r => f r && held.rs.contains r
  let isStack (r : Resource) : Bool := match r with | .stack _ => true | _ => false
  let isPch (r : Resource) : Bool := match r with | .pch _ => true | _ => false
  let isLane (r : Resource) : Bool := match r with | .lane _ => true | _ => false
  let isLib (r : Resource) : Bool := match r with | .libEntry _ => true | _ => false
  match held.cls, cls with
  | .caddyWrite, .caddyWrite => .compatible
  | .steepPass, .captureReadback =>
    if rs.any (fun r => match r with
      | .cup c => (s.leafOfCup c).any fun p => held.rs.contains (.leaf p)
      | _ => false) then .pausePass else .compatible
  | .rekeySweep, .fullRetrain => if shares isStack then .takeOver else .compatible
  | .fullRetrain, .rekeySweep => if shares isStack then .busy else .compatible
  | .driftTrack, .fullRetrain => if shares isPch then .takeOver else .compatible
  | .fullRetrain, .driftTrack => if shares isPch then .busy else .compatible
  | .patrolScrub, .fullRetrain => if shares isPch then .takeOver else .compatible
  | .fullRetrain, .patrolScrub => if shares isPch then .busy else .compatible
  | .eyeScan, .laneRetrain => if shares isLane then .takeOver else .compatible
  | .laneRetrain, .eyeScan => if shares isLane then .busy else .compatible
  | .storeWrite, .storeWrite => .busy
  | .storeWrite, .shadowLoad => if shares isLib then .busy else .compatible
  | .shadowLoad, .storeWrite => if shares isLib then .busy else .compatible
  | a, b => if a = b ∧ same then .busy else .compatible

/-- The activity of a lease stops at once (R379): an eye scan ends ABORTED, a lane or link retrain ends, a full retrain
ends its stage. -/
def State.haltActivity (s : State) (l : Lease) : State :=
  match l.cls, l.rs with
  | .eyeScan, .lane i :: _ =>
    (s.setFld ⟨.lnEscanRes, i, 0⟩ 31 30 3).setFlag ⟨.lnEscan, i, 0⟩ 31 false
  | .laneRetrain, .lane i :: _ =>
    let s := s.modLane i fun x => { x with retraining := false }
    match s.linkOfLane i with
    | some n => s.modLink n fun x => { x with retrainAt := none, due := x.due || x.retrainAt.isSome }
    | none => s
  | .fullRetrain, .pch x :: _ => s.modPch x fun p => { p with retrain := p.retrain.map fun r => { r with active := false } }
  | _, _ => s

/-- A lease whose activity another takes over ends; an eye scan ends ABORTED (R231, R395). -/
def State.takeOver (s : State) (e : Nat) (l : Lease) : State :=
  (({ s with leases := erase s.leases e }).logLease 5 l.cls l.rs l.dom).haltActivity l

/-- The free entry for a request: 511 is kept for the Caddy write (R394). -/
def State.freeLease (s : State) (cls : LeaseClass) : Option Nat :=
  if cls = .caddyWrite then (if (look s.leases 511).isNone then some 511 else none)
  else (List.range 511).find? fun e => (look s.leases e).isNone

/-- Whether the matrix, the armed entries and the table admit a request. -/
def State.leaseOk (s : State) (cls : LeaseClass) (rs : List Resource) : Bool :=
  (s.leases.all fun e => s.meet e.2 cls rs != .busy) && (s.spConflicts cls rs).isEmpty && (s.freeLease cls).isSome

/-- When the request was deferred that a lease would go on deferring (R378, R379). -/
def State.deferTick (s : State) (cls : LeaseClass) (rs : List Resource) : Option Nat :=
  let since (n : Nat) : Option Nat := (s.urn.deferred.find? fun e => e.1 == n).map (·.2)
  match cls, rs with
  | .captureReadback, .cup c :: _ => if (s.cup c).deferred.isSome then since c else none
  | .eyeScan, .lane l :: _ | .laneRetrain, .lane l :: _ => if (s.lane l).deferredLp.isSome then since (192 + l / 4) else none
  | .fullRetrain, .pch x :: _ | .driftTrack, .pch x :: _ | .patrolScrub, .pch x :: _ =>
    if (s.stk (x / 32)).deferredSr then since (256 + x / 32) else none
  | .rekeySweep, .stack i :: _ => if (s.stk i).deferredSr then since (256 + i) else none
  | _, _ => none

/-- A request for a lease: granted, with the take-overs and pauses of R395, or refused; either way it is logged. -/
def State.leaseTry (s : State) (cls : LeaseClass) (rs : List Resource) (dom : Nat) : State × Bool :=
  match s.freeLease cls with
  | some e =>
    if s.leaseOk cls rs then
      let olds := s.leases.filter fun h => s.meet h.2 cls rs == .takeOver
      let s := olds.foldl (fun (s : State) h => s.takeOver h.1 h.2) s
      let paused := s.leases.filter fun h => s.meet h.2 cls rs == .pausePass
      let s := paused.foldl
        (fun (s : State) h => match h.2.rs with
          | .leaf p :: _ => s.modLeaf p fun x => { x with pausedAt := some (x.pausedAt.getD s.tick) }
          | _ => s) s
      let l : Lease := { cls, rs, dom, started := s.tick, renewed := s.tick, deferAt := s.deferTick cls rs }
      (({ s with leases := nset s.leases e l }).logLease 1 cls rs dom, true)
    else (s.logLease 4 cls rs dom, false)
  | none => (s.logLease 4 cls rs dom, false)

/-- A readback of a cup of leaf p holds its lease. -/
def State.leafRead (s : State) (p : Nat) : Bool :=
  s.leases.any fun e => e.2.cls == .captureReadback && e.2.rs.any fun r => match r with
    | .cup c => s.leafOfCup c == some p
    | _ => false

/-- A lease that has left the table ends: the log (R394); the steep pass resumes when the last readback of its leaf ends
(R395), and a pass that ends is paused no more. -/
def State.leaseEnded (s : State) (l : Lease) : State :=
  let s := s.logLease 3 l.cls l.rs l.dom
  match l.cls, l.rs with
  | .captureReadback, .cup c :: _ =>
    match s.leafOfCup c with
    | some p => if s.leafRead p then s else s.modLeaf p fun x =>
        if x.pausedAt.isSome then { x with pausedAt := none, resumedAt := some s.tick } else x
    | none => s
  | .steepPass, .leaf p :: _ => s.modLeaf p fun x => { x with pausedAt := none }
  | _, _ => s

/-- The lease of one entry of the table ends. -/
def State.leaseDrop (s : State) (e : Nat) : State :=
  match look s.leases e with
  | some l => ({ s with leases := erase s.leases e }).leaseEnded l
  | none => s

/-- Every lease that `p` selects ends. -/
def State.leaseDropIf (s : State) (p : Lease → Bool) : State :=
  (s.leases.filter fun e => p e.2).foldl (fun (s : State) e => s.leaseEnded e.2)
    { s with leases := s.leases.filter fun e => !p e.2 }

/-- Ends every lease of an activity on a resource. -/
def State.leaseDropOn (s : State) (cls : LeaseClass) (r : Resource) : State :=
  s.leaseDropIf fun l => l.cls == cls && l.rs.contains r

/-- Ends every lease that meets a resource, and its activity (R379: resets and retirements). -/
def State.leaseDropRes (s : State) (p : Resource → Bool) : State :=
  ((s.leases.filter fun e => e.2.rs.any p).foldl (fun (s : State) e => s.haltActivity e.2) s).leaseDropIf fun l => l.rs.any p

/-- Cancels every armed group and ends every lease, as the safe state and integrity halt do (R379, R392), and drops a CHIP
reset that was due, since they end otherwise.  The spec names no CAUSE for it, so CAUSE is free (log entry 2). -/
def State.haltAll (s : State) : State :=
  let s : State := { s with chipDue := false, reloadRegion := none }
  let s := (s.leases.foldl (fun (s : State) (e : Nat × Lease) => s.haltActivity e.2) s).leaseDropIf fun _ => true
  (List.range 256).foldl
    (fun (s : State) e => if s.spArmed e then
        s.draw.setFields ⟨.spCtl, e, 0⟩ [(31, 29, 5), (15, 12, Config.freeNat s.freeCtr % 16)] else s) s

/-- A lease's renewal is barred: it would last past the final check of an armed entry (R185), or past 50 ms from a
deferred request (R379). -/
def State.renewBarred (s : State) (l : Lease) : Bool :=
  ((s.spConflicts l.cls l.rs).any fun e => decide (s.spLocalTick e < s.tick + leaseTicks + 250000)) ||
  (match l.deferAt with
    | some t => decide (t + 12500000 < s.tick + leaseTicks)
    | none => false)

end Sys2Proof.Machine
end

