-- ==== Sys2Proof/Machine/Header.lean ====
section
/-! DEFINITION. What a request carries as it crosses the tray (R130 to R134, R239): the router its master stands at, its
destination endpoint and where that stands, its class, and the 128 bits of its header flit. -/

namespace Sys2Proof.Machine

/-! ### Masters -/

/-- Controller and function of a host master (R133). -/
def hostFn (m : Nat) : Option (Nat × Nat) :=
  if inRange 0x200 0x240 m then some (0, m - 0x200) else if inRange 0x280 0x2C0 m then some (1, m - 0x280) else none

/-- The router a master's requests start from (R18, R19, R131): a cup's own, and that of the first quad of a PCI Express
controller.  The spec places no other master at a router: its router is free (log entry 80). -/
def State.masterRouter (s : State) (m : Nat) : Nat :=
  match (if m < 192 then s.cupRouter m else none), hostFn m with
  | some k, _ => k
  | none, some (n, _) => (quadRouter (if n = 0 then 0 else 60)).1
  | none, none => Config.masterRouter m % 240

/-- The class a master issues (R239): 1 HIGH, 2 NORM, 3 BULK.  The Kettle's background agents, which carry BULK too, send
no request that a command of this model states. -/
def classOf (m : Nat) : Nat :=
  if m = 0x180 ∨ m = 0x181 ∨ inRange 0x190 0x197 m = true then 1 else if m = 0x188 then 3 else 2

/-! ### Destinations -/

/-- The attachment of a stack that lies nearest router k, in the order of `stackRouters` (R132). -/
def stackAtt (k st : Nat) : Nat :=
  let r := st / 2
  let j := if st % 2 = 0 then 4 else 10
  2 * (if k / 30 ≤ 2 * r then 0 else 1) + (if k % 30 ≤ 2 * j then 0 else 1)

/-- The cup of a queue. -/
def qCup : QRef → Option Nat
  | .ingress c _ | .egress c _ => some c.val
  | _ => none

/-- A number for the block of registers at offset o of the owner window (R432). -/
def blockNo (o : Nat) : Nat :=
  if o < 0x0100000 then o / 0x10000
  else if o < 0x0D00000 then 0x100 + (o - 0x0100000) / 0x10000
  else if o < 0x0E00000 then 0x200 + (o - 0x0D00000) / 0x1000
  else if o < 0x0E10000 then 0x300
  else if o < 0x1000000 then 0x400 + (o - 0x0E10000) / 0x100
  else if o < 0x2000000 then 0x600 + (o - 0x1000000) / 0x40000
  else if o < 0x3000000 then 0x700 + (o - 0x2000000) / 0x200000
  else if o < 0x4000000 then 0x710 + (o - 0x3000000) / 0x80000
  else 0x800

/-- The number of the block that a view at offset o of a tenant window shows (R435). -/
def viewNo (o : Nat) : Nat :=
  if o < 0x0C00000 then 0x100 + o / 0x10000
  else match o / 0x10000 with
    | 0xC0 => 0x300
    | 0xC1 => 0x700 + o % 0x10000 / 0x1000
    | 0xC2 => 0xB
    | 0xC3 => 0x3
    | 0xC4 => 0x4
    | 0xC5 => 0x6
    | 0xC6 => 0x7
    | 0xC7 => 0x2
    | 0xC8 => 0x800
    | _ => 0x9

/-- The endpoint that answers requests to a queue's aperture. -/
def queueEnd : QRef → Endpoint
  | .ingress c _ | .egress c _ => .cup c.val
  | .mgmtTx q | .mgmtRx q => .block (0x900 + q.val)
  | .mailTx | .mailRx => .block 0x8A0

/-- The endpoint that a request of master m to an address goes to (R132, R134). -/
def State.endpoint (s : State) (m a : Nat) : Endpoint :=
  match s.target a with
  | .hbm => .stack (a / 0x900000000) (stackAtt (s.masterRouter m) (a / 0x900000000))
  | .owner o => .block (blockNo o)
  | .tenant _ o => .block (viewNo o)
  | .queue q _ _ => queueEnd q
  | .signal n _ _ => .collector n
  | .badAperture _ | .reserved => .nowhere

/-- Router and local port of an endpoint (R18, R130, R158); for a block of registers the spec gives neither, and they are
free (log entry 80).  `m` is the master, whose own interface answers a FENCE. -/
def State.place (s : State) (m : Nat) : Endpoint → Nat × Nat
  | .stack i att => ((stackRouters i)[att]?.getD 0, 0)
  | .cup c => ((s.cupRouter c).getD 0, 0)
  | .collector n => (s.fld ⟨.colCfg, n, 0⟩ 15 8, 3)
  | .block n => (Config.blockRouter n % 240, Config.blockPort n % 4)
  | .self => (s.masterRouter m, Config.blockPort (0x10000 + m) % 4)
  | .nowhere => (Config.blockRouter 0x10000 % 240, Config.blockPort 0x10000 % 4)

/-- The index under which collector n accepts a master of a domain: the lowest enabled entry that names both. -/
def State.colIndex (s : State) (n m d : Nat) : Option Nat :=
  if s.flag ⟨.colCfg, n, 0⟩ 31 then
    (List.range 256).find? fun i =>
      let w := s.reg ⟨.colSrc, n, i⟩
      bit w 31 && bits w 9 0 == m && bits w 23 16 == d
  else none

/-! ### The header -/

/-- OP of a header (R134). -/
def ReqOp.code : ReqOp → Nat
  | .read => 0
  | .write => 1
  | .fence => 2
  | .reserved n => n

/-- The 128 bits of a request's header flit (R134). -/
def State.header (s : State) (o : Outstanding) : BitVec 128 :=
  let p := s.place o.mid o.dst
  BitVec.ofNat 128 (o.addr % 2 ^ 40 + o.cidx % 256 * 2 ^ 64 + (o.len - 1) % 4096 * 2 ^ 72 + o.op.code * 2 ^ 84 +
    o.tag % 1024 * 2 ^ 88 + o.dom % 256 * 2 ^ 98 + o.mid % 1024 * 2 ^ 106 + o.cls % 4 * 2 ^ 116 + p.2 % 4 * 2 ^ 118 +
    p.1 % 256 * 2 ^ 120)

/-- What a request of master m to an address carries as its interface issues it: DST, DPORT, SRC, DOM and CIDX are the
interface's, the rest the master's (R134, R159). -/
def State.outgoing (s : State) (m tag : Nat) (op : ReqOp) (addr len : Nat) : Outstanding :=
  let dst := if op = .fence then .self else s.endpoint m addr
  let dom := (s.midDomain m).getD 0
  { mid := m, tag, op, issued := s.tick, dst, cls := classOf m, dom, addr, len,
    cidx := match dst with
      | .collector n => (s.colIndex n m dom).getD 0
      | _ => 0 }

/-- The master's interface records a request it issues (R138). -/
def State.issue (s : State) (m tag : Nat) (op : ReqOp) (addr len : Nat) : State :=
  { s with outstanding := s.outstanding ++ [s.outgoing m tag op addr len] }

/-! ### Where apertures stand -/

/-- The window a master of a domain reaches a cup's queue by: the owner's and the Kettle's the owner window, a tenant the
window of the cup's domain (R141, R221). -/
def State.queueBase (s : State) (m c : Nat) : Nat :=
  match (s.midDomain m).bind tenantOf, tenantOf (s.cupDom c) with
  | some _, some n => 0xF100000000 + 0x1000000 * n + 0x10000 * c
  | _, _ => 0xF000100000 + 0x10000 * c

/-- The aperture offset of an access (R104). -/
def QAccess.offset (n : Nat) : QAccess → Nat
  | .opn => 0x8000 + 0x800 * n
  | .dat _ => 0x8040 + 0x800 * n
  | .cls _ _ => 0x8080 + 0x800 * n
  | .rd _ => 0xC000 + 0x800 * n
  | .drp => 0xC040 + 0x800 * n

/-- The address of the aperture by which master m makes an access to a queue (R104, R214, R338). -/
def State.queueAddr (s : State) (m : Nat) (q : QRef) (a : QAccess) : Nat :=
  match q with
  | .ingress c n | .egress c n => s.queueBase m c.val + a.offset n.val
  | .mgmtTx k | .mgmtRx k => 0xF001000000 + 0x40000 * k.val + a.offset 0
  | .mailTx | .mailRx => 0xF0000A0000 + a.offset 0

/-- The length of an access in bytes. -/
def QAccess.len : QAccess → Nat
  | .dat l => 32 * l.length
  | .rd n => 32 * n
  | _ => 32

/-- The address of collector n's aperture for SIGNAL or MESSAGE in a master's own window (R159, R435). -/
def State.signalAddr (s : State) (m n : Nat) (msg : Bool) : Nat :=
  (match (s.midDomain m).bind tenantOf with
    | some t => 0xF100C00000 + 0x1000000 * t
    | none => 0xF000E00000) + 0xC000 + 0x40 * n + (if msg then 0x20 else 0)

/-- Address and length of a request. -/
def State.reqSpan (s : State) (m : Nat) : Req → Nat × Nat
  | .read a len _ => (a, len)
  | .write a data _ => (a, data.length)
  | .queue q acc => (s.queueAddr m q acc, acc.len)
  | .signal n => (s.signalAddr m n false, 32)
  | .message n _ => (s.signalAddr m n true, 32)
  | .putAt a size _ => (a, size)
  | .getAt a => (a, 4)
  | .refused _ a len => (a, len)
  | .fence | .put _ _ | .get _ => (0xFFFFFFFFFF, 1)

/-- A request came to a tenant window, where every refusal has the uniform latency (R8, R415, R436). -/
def State.uniformAt (s : State) (a : Nat) : Bool :=
  match s.target a with
  | .tenant _ _ => true
  | .queue _ _ win | .badAperture win | .signal _ _ win => win != 0
  | _ => false

end Sys2Proof.Machine
end

