-- ==== Sys2Proof/Machine/Link.lean ====
section
/-! DEFINITION. What leaves on Selov links (R327, R328): frames, their numbering and replay, link control with delay stamps
(R339), and management messages on the path of the fewest hops (R337). -/

namespace Sys2Proof.Machine

/-! ### Identity -/

/-- This device's cascade ID, and its ROLE: 0 standalone, 1 member, 2 master. -/
def State.casId (s : State) : Nat := s.fld ⟨.casStat, 0, 0⟩ 9 0
def State.casRole (s : State) : Nat := s.fld ⟨.casStat, 0, 0⟩ 31 30
def State.casMaster (s : State) : Nat := s.fld ⟨.casStat, 0, 0⟩ 19 10
def State.casHold (s : State) : Bool := s.flag ⟨.casStat, 0, 0⟩ 29
def State.casConflict (s : State) : Bool := s.flag ⟨.casStat, 0, 0⟩ 27

/-- The device at the far end of a link. -/
def State.farId (s : State) (n : Nat) : Nat := s.fld ⟨.casLink, n, 0⟩ 19 10

/-- The links that are up. -/
def State.upLinks (s : State) : List Nat := (List.range s.casLinks.length).filter fun n => s.linkState n == 2

/-- This device's link states, a code for each of its links. -/
def State.casStates (s : State) : List Nat :=
  (List.range s.casLinks.length).map fun n => linkCode (s.farId n) (s.linkState n)

/-! ### Frames (R327, R328) -/

/-- The bytes of a frame (R327). -/
def frameBytes (type flags stream len seq ack : Nat) (payload : List Byte) : List Byte :=
  let body := [BitVec.ofNat 8 type, BitVec.ofNat 8 flags] ++ leBytes 2 stream ++ [BitVec.ofNat 8 len, 0] ++
    leBytes 2 seq ++ leBytes 2 ack ++ [0, 0] ++ slice payload 0 256
  body ++ leBytes 4 (crc32 body).toNat

/-- ACK of a link: the SEQ of the last frame received in order. -/
def LinkSt.ack (x : LinkSt) : Nat := (x.rxSeq + 65535) % 65536

/-- A delay stamp: TICK with its fraction, in units of 0.5 ns, 8 to a tick and 2 root cycles each (R339). -/
def State.stamp (s : State) : Nat := s.root / 2

/-- A link-control frame: the acknowledgement, NAK if it is due, and a delay stamp in its first 8 payload bytes (R328; log
entry 21). -/
def State.linkControl (s : State) (n : Nat) : State :=
  let x := s.link n
  (s.log (.selov n (frameBytes 3 (if x.nakDue then 4 else 0) 0 8 0 x.ack (leBytes 8 s.stamp)))).modLink n fun x =>
    { x with nakDue := false }

/-- A link's replay buffer takes no more frames. -/
def State.linkFull (s : State) (n : Nat) : Bool := decide (8192 ≤ (s.link n).replay.length)

/-- A numbered frame leaves, held for replay; a full replay buffer takes none, and a link that is not up sends it when it
comes up. -/
def State.linkSend (s : State) (n type flags stream len : Nat) (payload : List Byte) : State :=
  let x := s.link n
  if s.linkFull n then s
  else
    let f := frameBytes type (flags + if x.nakDue then 4 else 0) stream len x.txSeq x.ack payload
    let s := s.modLink n fun x =>
      { x with txSeq := (x.txSeq + 1) % 65536, replay := x.replay ++ [{ seq := x.txSeq, bytes := f }], nakDue := false,
               lastAck := if x.replay = [] then s.tick else x.lastAck }
    if s.linkState n = 2 then s.log (.selov n f) else s

/-- Frames acknowledged leave the replay buffer. -/
def State.linkAck (s : State) (n ack : Nat) : State :=
  let x := s.link n
  match x.replay.findIdx? fun e => e.seq == ack with
  | some i => s.modLink n fun x => { x with replay := x.replay.drop (i + 1), lastAck := s.tick }
  | none => s

/-- The frames held are sent again in order. -/
def State.linkResend (s : State) (n : Nat) : State :=
  (s.link n).replay.foldl (fun (s : State) e => s.log (.selov n e.bytes)) s

/-- The frames after ACK are replayed in order; a frame replayed for the fourth time makes a retrain due (R329). -/
def State.linkReplay (s : State) (n : Nat) : State :=
  (s.linkResend n).modLink n fun x =>
    let replay := x.replay.map fun e => { e with replays := e.replays + 1 }
    { x with replay, due := x.due || replay.any fun e => decide (4 ≤ e.replays) }

/-! ### Management messages (R337) -/

/-- TYPE and fields of a message, in the order in which R337 lists them. -/
def CasOut.parts : CasOut → Nat × List Nat
  | .claim epoch id => (0x01, [epoch, id])
  | .join epoch first ds => (0x02, epoch :: first :: ds.flatMap fun d => [d.1.toNat, b2n d.2])
  | .admitted _ epoch => (0x03, [epoch, 1])
  | .registry ws => (0x04, ws.map BitVec.toNat)
  | .lsa far => (0x05, far)
  | .silenceQ => (0x06, [])
  | .silenceA _ silent epoch => (0x07, [b2n silent, epoch])
  | .prepare g exec => (0x08, [g, exec])
  | .ready g => (0x09, [g])
  | .refuse g cause => (0x0A, [g, cause])
  | .commit g => (0x0B, [g])
  | .abort g => (0x0C, [g])
  | .report g cause => (0x0D, [g, cause])
  | .censusQ round => (0x0E, [round])
  | .census round first ds => (0x0F, round :: first :: ds.flatMap fun d => [d.1.toNat, b2n d.2])
  | .reroute link moves => (0x10, link :: moves.flatMap fun e => [e.1, e.2])
  | .state coast aligned => (0x11, [b2n coast, b2n aligned])
  | .mbox _ bytes => (0x12, bytes.map BitVec.toNat)

/-- The bytes of a message behind its first 8: an owner's mailbox data as it stands, else as the spec leaves it open. -/
def CasOut.body : CasOut → List Byte
  | .mbox _ bytes => bytes
  | m => (Config.messageBody m.parts.1 m.parts.2).take 248

/-- Payload bytes 0 to 7: source, destination, TYPE and HOPS from bit 0 on, then the length (R337; log entry 68). -/
def casHeader (src dst type hops len : Nat) : List Byte :=
  leBytes 8 (src + 2 ^ 10 * dst + 2 ^ 20 * type + 2 ^ 26 * hops + 2 ^ 32 * len)

/-- The devices within 0 to 16 hops of a device over the links that LSA messages report. -/
def State.casLayers (s : State) (a : Nat) : List (List Nat) :=
  let step (l : List Nat) : List Nat := (l ++ l.flatMap fun i => reportedUp (nget s.cas.routes i [])).dedup
  (List.range 16).foldl (fun (ls : List (List Nat)) _ => ls ++ [step (ls.getLastD [])]) [[a]]

/-- The hops from device a to device b, 17 where they are more than 16. -/
def State.casHops (s : State) (a b : Nat) : Nat := ((s.casLayers a).findIdx? fun l => l.contains b).getD 17

/-- The link on which a message for a device leaves: on the path of the fewest hops, at most 16, the lowest number of
equals. -/
def State.casRoute (s : State) (dst : Nat) : Option Nat :=
  (s.upLinks.foldl
    (fun (best : Option (Nat × Nat)) n =>
      let h := s.casHops (s.farId n) dst + 1
      if 16 < h then best
      else match best with
      | some (_, g) => if h < g then some (n, h) else best
      | none => some (n, h)) none).map (·.1)

/-- One message frame on a link: TYPE 10, the payload's first 8 bytes and its body. -/
def State.casFrame (s : State) (n dst hops : Nat) (msg : CasOut) : State :=
  s.linkSend n 2 0 0 ((8 + msg.body.length) % 256) (casHeader s.casId dst msg.parts.1 hops msg.body.length ++ msg.body)

/-- The devices that this device reaches over the reported links, itself apart. -/
def State.casReached (s : State) : List Nat := ((s.casLayers s.casId).getLastD []).filter fun id => id != s.casId

/-- A message leaves for a device; none where it cannot be reached. -/
def State.casPost (s : State) (dst : Nat) (msg : CasOut) : State :=
  match s.casRoute dst with
  | some n => s.casFrame n dst 1 msg
  | none => s

/-- A management message to one device, or to all that are reached: the Kettle's message, and its frames. -/
def State.casSend (s : State) (dest : Option Nat) (msg : CasOut) : State :=
  let s := s.log (.cas dest msg)
  match dest with
  | some id => s.casPost id msg
  | none => s.casReached.foldl (fun (s : State) id => s.casPost id msg) s

/-- Another device's link states go on to every neighbour but the one they came from, with one hop more; a message whose
HOPS would exceed 16 is discarded (R337). -/
def State.casRelay (s : State) (n id : Nat) (codes : List Nat) : State :=
  let hops := s.casHops s.casId id + 1
  let msg : CasOut := .lsa codes
  if 16 < hops then s
  else (s.upLinks.filter fun m => m != n).foldl
    (fun (s : State) m =>
      s.linkSend m 2 0 0 ((8 + msg.body.length) % 256) (casHeader id (s.farId m) 5 hops msg.body.length ++ msg.body)) s

/-- Floods this device's link states when they change (R337). -/
def State.casFlood (s : State) : State :=
  let codes := s.casStates
  if nget s.cas.routes s.casId [] = codes then s
  else
    let s : State := { s with cas := { s.cas with routes := nput s.cas.routes s.casId codes [] } }
    s.upLinks.foldl (fun (s : State) n => s.casFrame n (s.farId n) 1 (.lsa codes)) (s.log (.cas none (.lsa codes)))

/-- ALIGNED and COAST as a member shows them; a change is told to the master (R337, R348). -/
def State.casTold (s : State) (coast aligned : Bool) : State :=
  if s.flag ⟨.casStat, 0, 0⟩ 25 = coast ∧ s.flag ⟨.casStat, 0, 0⟩ 24 = aligned then s
  else
    let s := s.setFields ⟨.casStat, 0, 0⟩ [(25, 25, b2n coast), (24, 24, b2n aligned)]
    if s.casRole = 1 then s.casSend (some s.casMaster) (.state coast aligned) else s

end Sys2Proof.Machine
end

