-- ==== Sys2Proof/Machine/Crypto.lean ====
section
/-! DEFINITION. The cryptographic standards the spec names and does not print: AES-256 (R284, R285, R306, R319), its CTR
and GCM modes, the key wrap of RFC 3394 (R306), SHA-256, SHA-384 and their HMAC (R301, R319).  PRESUMED, log entry 5. -/

namespace Sys2Proof.Machine

/-! ### AES-256 -/

/-- The substitution table and its inverse, 32 entries a word, entry 0 least significant. -/
def aesSub : List Nat :=
  [0xc072a49cafa2d4adf04759fa7dc982ca76abd7fe2b670130c56f6bf27b777c63,
   0x75b227ebe28012079a059618c323c7041531d871f1e5a534ccf73f362693fdb7,
   0xcf584c4a39becb6a5bb1fc20ed00d153842fe329b3d63b52a05a6e1b1a2c8309,
   0xd2f3ff1021dab6bcf5389d928f40a351a89f3c507f02f94585334d43fbaaefd0,
   0xdb0b5ede14b8ee4688902a22dc4f816073195d643d7ea7c41744975fec130ccd,
   0x08ae7a65eaf4566ca94ed58d6d37c8e779e4959162acd3c25c2406490a3a32e0,
   0x9e1dc186b95735610ef6034866b53e708a8bbd4b1f74dde8c6b4a61c2e2578ba,
   0x16bb54b00f2d99416842e6bf0d89a18cdf2855cee9871e9b948ed9691198f8e1]
def aesInvSub : List Nat :=
  [0xcbe9dec444438e3487ff2f9b8239e37cfbd7f3819ea340bf38a53630d56a0952,
   0x25d18b6d49a25b76b224d92866a12e084ec3fa420b954cee3d23c2a632947b54,
   0x849d8da75746155edab9edfd5048706c92b6655dcc5ca4d41698688664f6f872,
   0x6b8a130103bdafc1020f3fca8f1e2cd00645b3b80558e4f70ad3bc8c00abd890,
   0x6edf751ce837f9e28535ade72274ac9673e6b4f0cecff297eadc674f4111913a,
   0xf45acd78fec0db9a2079d2c64b3e56fc1bbe18aa0e62b76f89c5291d711af147,
   0xef9cc9939f7ae52d0d4ab519a97f51605fec8027591012b131c7078833a8dd1f,
   0x7d0c2155631469e126d677ba7e042b17619953833cbbebc8b0f52aae4d3be0a0]

/-- An entry of such a table. -/
def subByte (t : List Nat) (b : Byte) : Byte := BitVec.ofNat 8 (t.getD (b.toNat / 32) 0 >>> (8 * (b.toNat % 32)))

/-- Multiplication in GF(2⁸) modulo x⁸ + x⁴ + x³ + x + 1. -/
def aesMul (a b : Byte) : Byte :=
  ((List.range 8).foldl
    (fun (e : Byte × Byte) i =>
      (if b.getLsbD i then e.1 ^^^ e.2 else e.1,
       if e.2.getLsbD 7 then (e.2 <<< 1) ^^^ 0x1B#8 else e.2 <<< 1)) (0#8, a)).1

/-- Bytes added in that field. -/
def xorBytes (a b : List Byte) : List Byte := List.zipWith (· ^^^ ·) a b

/-- The key schedule: 60 words of 4 bytes from the 8 of the key. -/
def aesSchedule (key : List Byte) : List (List Byte) :=
  (List.range 52).foldl
    (fun (ws : List (List Byte)) j =>
      let i := j + 8
      let t := ws.getLastD []
      let turned := (t.drop 1 ++ t.take 1).map (subByte aesSub)
      let t := if i % 8 = 0 then xorBytes turned [BitVec.ofNat 8 (2 ^ (i / 8 - 1)), 0, 0, 0]
        else if i % 8 = 4 then t.map (subByte aesSub) else t
      ws ++ [xorBytes (ws.getD j []) t])
    ((List.range 8).map fun i => slice key (4 * i) 4)

/-- Round key r of 0 to 14. -/
def roundKey (ws : List (List Byte)) (r : Nat) : List Byte := ((ws.drop (4 * r)).take 4).flatten

/-- The rows of a state turned left by `by' row`. -/
def turnRows (by' : Nat → Nat) (s : List Byte) : List Byte :=
  (List.range 16).map fun i => s.getD (i % 4 + 4 * ((i / 4 + by' (i % 4)) % 4)) 0

/-- The columns of a state multiplied by the circulant matrix of a row. -/
def mixColumns (row : List Byte) (s : List Byte) : List Byte :=
  (List.range 16).map fun i =>
    (List.range 4).foldl (fun (x : Byte) j => x ^^^ aesMul (row.getD ((j + 4 - i % 4) % 4) 0) (s.getD (4 * (i / 4) + j) 0)) 0

/-- The cipher on a block of 16 bytes. -/
def aesBytes (key block : List Byte) : List Byte :=
  let ws := aesSchedule key
  let sub (s : List Byte) : List Byte := turnRows id (s.map (subByte aesSub))
  let s := (List.range 13).foldl
    (fun (s : List Byte) r => xorBytes (mixColumns [2, 3, 1, 1] (sub s)) (roundKey ws (r + 1)))
    (xorBytes block (roundKey ws 0))
  xorBytes (sub s) (roundKey ws 14)

/-- The inverse cipher. -/
def aesInvBytes (key block : List Byte) : List Byte :=
  let ws := aesSchedule key
  let sub (s : List Byte) : List Byte := (turnRows (fun r => 4 - r) s).map (subByte aesInvSub)
  let s := (List.range 13).foldl
    (fun (s : List Byte) r => mixColumns [14, 11, 13, 9] (xorBytes (sub s) (roundKey ws (13 - r))))
    (xorBytes block (roundKey ws 14))
  xorBytes (sub s) (roundKey ws 0)

/-- The cipher on numbers whose byte 0 is least significant (R285). -/
def aesEnc (key : BitVec 256) (block : BitVec 128) : BitVec 128 :=
  BitVec.ofNat 128 (ofLe (aesBytes (leBytes 32 key.toNat) (leBytes 16 block.toNat)))

/-- Its inverse. -/
def aesDec (key : BitVec 256) (block : BitVec 128) : BitVec 128 :=
  BitVec.ofNat 128 (ofLe (aesInvBytes (leBytes 32 key.toNat) (leBytes 16 block.toNat)))

/-! ### Modes -/

/-- The first n blocks of k bytes. -/
def blocksOf (k : Nat) : Nat → List Byte → List (List Byte)
  | 0, _ => []
  | n + 1, bs => bs.take k :: blocksOf k n (bs.drop k)

/-- Bytes cut into blocks of k, the last one perhaps shorter. -/
def chunks (k : Nat) (bs : List Byte) : List (List Byte) := blocksOf k (ceilDiv bs.length k) bs

/-- The key stream from a counter added to bytes; `next` advances the counter. -/
def ctrWith (key : List Byte) (next : Nat → Nat) (counter : Nat) (bs : List Byte) : List Byte :=
  ((chunks 16 bs).foldl
    (fun (e : List (List Byte) × Nat) b => (xorBytes b (aesBytes key (beBytes 16 e.2)) :: e.1, next e.2))
    ([], counter)).1.reverse.flatten

/-- CTR mode with a 128-bit counter. -/
def aesCtr (key : BitVec 256) (iv text : List Byte) : List Byte :=
  ctrWith (leBytes 32 key.toNat) (fun n => (n + 1) % 2 ^ 128) (ofBe iv) text

/-- The product of GHASH, where the most significant bit of a block is the coefficient of x⁰. -/
def ghashMul (x y : BitVec 128) : BitVec 128 :=
  ((List.range 128).foldl
    (fun (e : BitVec 128 × BitVec 128) i =>
      (if x.getLsbD (127 - i) then e.1 ^^^ e.2 else e.1,
       if e.2.getLsbD 0 then (e.2 >>> 1) ^^^ (0xE1#128 <<< 120) else e.2 >>> 1)) (0#128, y)).1

/-- GHASH of bytes, whose last block zeros fill. -/
def ghash (h : BitVec 128) (bs : List Byte) : BitVec 128 :=
  (chunks 16 bs).foldl (fun y b => ghashMul (y ^^^ BitVec.ofNat 128 (ofBe (slice b 0 16))) h) 0#128

/-- Bytes filled with zeros to whole blocks. -/
def fillBlock (bs : List Byte) : List Byte := slice bs 0 (16 * ceilDiv bs.length 16)

/-- The first counter block of GCM. -/
def gcmStart (h : BitVec 128) (iv : List Byte) : Nat :=
  if iv.length = 12 then ofBe iv * 2 ^ 32 + 1
  else (ghash h (fillBlock iv ++ beBytes 16 (8 * iv.length))).toNat

/-- A GCM counter advances in its low 32 bits. -/
def gcmNext (n : Nat) : Nat := n / 2 ^ 32 * 2 ^ 32 + (n + 1) % 2 ^ 32

/-- The tag of a ciphertext. -/
def gcmTag (key iv aad ct : List Byte) : List Byte :=
  let h := BitVec.ofNat 128 (ofBe (aesBytes key (List.replicate 16 0)))
  let y := ghash h (fillBlock aad ++ fillBlock ct ++ beBytes 8 (8 * aad.length) ++ beBytes 8 (8 * ct.length))
  xorBytes (beBytes 16 y.toNat) (aesBytes key (beBytes 16 (gcmStart h iv)))

/-- The key stream of GCM added to bytes. -/
def gcmStream (key iv bs : List Byte) : List Byte :=
  let h := BitVec.ofNat 128 (ofBe (aesBytes key (List.replicate 16 0)))
  ctrWith key gcmNext (gcmNext (gcmStart h iv)) bs

/-- GCM encryption: ciphertext and tag. -/
def gcmSeal (key : BitVec 256) (iv aad text : List Byte) : List Byte × List Byte :=
  let k := leBytes 32 key.toNat
  let ct := gcmStream k iv text
  (ct, gcmTag k iv aad ct)

/-- GCM decryption: plaintext, and whether the tag matches. -/
def gcmOpen (key : BitVec 256) (iv aad text tag : List Byte) : List Byte × Bool :=
  let k := leBytes 32 key.toNat
  (gcmStream k iv text, gcmTag k iv aad text == tag)

/-- One step t of the wrapping of 4 blocks of 8 bytes: the integrity word, and the blocks turned by one. -/
def wrapStep (kek : List Byte) (e : List Byte × List (List Byte)) (t : Nat) : List Byte × List (List Byte) :=
  let b := aesBytes kek (e.1 ++ e.2.headD [])
  (xorBytes (b.take 8) (beBytes 8 t), e.2.drop 1 ++ [b.drop 8])

/-- The same step undone. -/
def unwrapStep (kek : List Byte) (e : List Byte × List (List Byte)) (t : Nat) : List Byte × List (List Byte) :=
  let b := aesInvBytes kek (xorBytes e.1 (beBytes 8 t) ++ e.2.getLastD [])
  (b.take 8, b.drop 8 :: e.2.dropLast)

/-- A 256-bit key wrapped under another (RFC 3394): 40 bytes. -/
def keyWrap (kek key : BitVec 256) : List Byte :=
  let e := (List.range 24).foldl (fun e i => wrapStep (leBytes 32 kek.toNat) e (i + 1))
    (List.replicate 8 0xA6, chunks 8 (leBytes 32 key.toNat))
  e.1 ++ e.2.flatten

/-- The key that 40 bytes wrap; none where their integrity word is wrong. -/
def keyUnwrap (kek : BitVec 256) (wrapped : List Byte) : Option (BitVec 256) :=
  let e := (List.range 24).foldl (fun e i => unwrapStep (leBytes 32 kek.toNat) e (24 - i))
    (slice wrapped 0 8, chunks 8 (slice wrapped 8 32))
  if e.1 = List.replicate 8 0xA6 then some (BitVec.ofNat 256 (ofLe e.2.flatten)) else none

/-! ### SHA-256, SHA-384 and HMAC -/

/-- The whole part of the k-th root of a number below 2^(70 * k), built from its highest bit down. -/
def wholeRoot (k n : Nat) : Nat :=
  (List.range 70).foldl (fun (r : Nat) i => if (r + 2 ^ (69 - i)) ^ k ≤ n then r + 2 ^ (69 - i) else r) 0

/-- The first 64 bits of the fractional part of the k-th root of p. -/
def rootBits (k p : Nat) : Nat := wholeRoot k (p * 2 ^ (64 * k)) % 2 ^ 64

/-- The first 80 primes: the numbers from 2 to 409 that none from 2 to 20 divides but itself. -/
def firstPrimes : List Nat :=
  (List.range 410).filter fun n => decide (2 ≤ n) && (List.range 21).all fun d => decide (d < 2 ∨ n ≤ d ∨ n % d ≠ 0)

/-- The constants of the rounds, from the cube roots of the first 80 primes; SHA-256 takes the upper halves. -/
def roundConsts : List Nat := firstPrimes.map (rootBits 3)

/-- What tells one function of the family from another, for words of w bits. -/
structure Sha2 where
  rounds : Nat
  /-- The rotations of the two functions of a round. -/
  big : List Nat × List Nat
  /-- The two rotations and the shift of the two functions of the schedule. -/
  small : List Nat × List Nat
  start : List Nat
  deriving DecidableEq, Repr

/-- SHA-256; it starts from the upper halves for the square roots of the first 8 primes. -/
def sha256Params : Sha2 :=
  { rounds := 64, big := ([2, 13, 22], [6, 11, 25]), small := ([7, 18, 3], [17, 19, 10])
    start := (firstPrimes.take 8).map fun p => rootBits 2 p / 2 ^ 32 }

/-- SHA-384; it starts from the square roots of the next 8. -/
def sha384Params : Sha2 :=
  { rounds := 80, big := ([28, 34, 39], [14, 18, 41]), small := ([1, 8, 7], [19, 61, 6])
    start := ((firstPrimes.drop 8).take 8).map (rootBits 2) }

/-- Three rotations added. -/
def rot3 {w : Nat} (l : List Nat) (x : BitVec w) : BitVec w :=
  x.rotateRight (l.getD 0 0) ^^^ x.rotateRight (l.getD 1 0) ^^^ x.rotateRight (l.getD 2 0)

/-- Two rotations and a shift added. -/
def rot2 {w : Nat} (l : List Nat) (x : BitVec w) : BitVec w :=
  x.rotateRight (l.getD 0 0) ^^^ x.rotateRight (l.getD 1 0) ^^^ (x >>> l.getD 2 0)

/-- The message schedule of a block: its 16 words and those that follow from them. -/
def sha2Schedule {w : Nat} (p : Sha2) (block : List (BitVec w)) : List (BitVec w) :=
  ((List.range (p.rounds - 16)).foldl
    (fun (ws : List (BitVec w)) _ =>
      (rot2 p.small.2 (ws.getD 1 0) + ws.getD 6 0 + rot2 p.small.1 (ws.getD 14 0) + ws.getD 15 0) :: ws) block.reverse).reverse

/-- One round, with its word and its constant already added. -/
def sha2Round {w : Nat} (p : Sha2) (v : List (BitVec w)) (kw : BitVec w) : List (BitVec w) :=
  match v with
  | [a, b, c, d, e, f, g, h] =>
    let t1 := h + rot3 p.big.2 e + ((e &&& f) ^^^ (~~~e &&& g)) + kw
    let t2 := rot3 p.big.1 a + ((a &&& b) ^^^ (a &&& c) ^^^ (b &&& c))
    [t1 + t2, a, b, c, d + t1, e, f, g]
  | _ => v

/-- One block. -/
def sha2Block {w : Nat} (p : Sha2) (v : List (BitVec w)) (block : List Byte) : List (BitVec w) :=
  let words := (List.range 16).map fun i => BitVec.ofNat w (numAtBe block (w / 8 * i) (w / 8))
  let ks := roundConsts.map fun k => BitVec.ofNat w (k >>> (64 - w))
  List.zipWith (· + ·) v ((List.zipWith (· + ·) (sha2Schedule p words) ks).foldl (sha2Round p) v)

/-- A message with its padding: a 1, zeros, and its length in bits in w/4 bytes. -/
def sha2Pad (w : Nat) (bs : List Byte) : List Byte :=
  let block := 2 * w
  let len := ceilDiv (bs.length + 1 + w / 4) block * block
  bs ++ [0x80] ++ List.replicate (len - bs.length - 1 - w / 4) 0 ++ beBytes (w / 4) (8 * bs.length)

/-- The digest bytes of a message. -/
def sha2 (w : Nat) (p : Sha2) (bs : List Byte) : List Byte :=
  ((chunks (2 * w) (sha2Pad w bs)).foldl (sha2Block p) (p.start.map (BitVec.ofNat w))).flatMap fun x => beBytes (w / 8) x.toNat

/-- SHA-256, its first byte least significant. -/
def sha256 (bs : List Byte) : BitVec 256 := BitVec.ofNat 256 (ofLe (sha2 32 sha256Params bs))

/-- SHA-384, its first byte least significant. -/
def sha384 (bs : List Byte) : BitVec 384 := BitVec.ofNat 384 (ofLe ((sha2 64 sha384Params bs).take 48))

/-- HMAC with SHA-384 or SHA-256. -/
def hmac (is384 : Bool) (key msg : List Byte) : List Byte :=
  let block := if is384 then 128 else 64
  let h (bs : List Byte) : List Byte := if is384 then (sha2 64 sha384Params bs).take 48 else sha2 32 sha256Params bs
  let k := slice (if block < key.length then h key else key) 0 block
  h (k.map (· ^^^ 0x5C) ++ h (k.map (· ^^^ 0x36) ++ msg))

end Sys2Proof.Machine
end

