-- ==== Sys2Proof/Machine/Plane.lean ====
section
/-! DEFINITION. The configuration plane of a cup: sites and canonical order (R60 to R64), cell, block-RAM and math
frames (R39 to R53, R67, R74), the settings area (R77, R91, R93), and the sieve (R58, R127).  A plane is a sparse list
of frame words, 0 where unlisted. -/

namespace Sys2Proof.Machine

/-- A configuration plane: frame words by canonical index. -/
abbrev Plane := List (Nat × Word)

/-- The word at an index. -/
def Plane.at (pl : Plane) (i : Nat) : Word := nget pl i 0

/-! ### Sites (R60, R61) -/

/-- What stands at a site, with the offset inside a block. -/
inductive Site where
  | cell
  | bram (i du dv : Nat)
  | math (i du dv : Nat)
  deriving DecidableEq, Repr

/-- The pattern of a tile (R61). -/
def tileSite (u v : Nat) : Site :=
  if inRange 1 4 u && inRange 1 8 v then .bram 0 (u - 1) (v - 1)
  else if inRange 9 12 u && inRange 7 14 v then .bram 1 (u - 9) (v - 7)
  else if inRange 6 7 u && inRange 1 4 v then .math 0 (u - 6) (v - 1)
  else if inRange 13 14 u && inRange 1 4 v then .math 1 (u - 13) (v - 1)
  else if inRange 1 2 u && inRange 11 14 v then .math 2 (u - 1) (v - 11)
  else if inRange 5 6 u && inRange 11 14 v then .math 3 (u - 5) (v - 11)
  else .cell

/-- The site at cup-local coordinates; block indices are the cup's (R61). -/
def siteAt (x y : Nat) : Site :=
  let tile := 10 * (y / 16) + x / 16
  match tileSite (x % 16) (y % 16) with
  | .cell => .cell
  | .bram i du dv => .bram (2 * tile + i) du dv
  | .math i du dv => .math (4 * tile + i) du dv

/-- A product-term cell stands there. -/
def isCell (x y : Nat) : Bool := decide (x < 160 ∧ y < 160) && siteAt x y == .cell

/-- Frame words of a tile site: 49 for a cell, 2 and 8 at the anchors (R63). -/
def frameWords (u v : Nat) : Nat :=
  match tileSite u v with
  | .cell => 49
  | .bram _ 0 0 => 2
  | .math _ 0 0 => 8
  | _ => 0

/-- Cells of a tile site: 1 or 0. -/
def cellCount (u v : Nat) : Nat := if tileSite u v = .cell then 1 else 0

/-- A sum over a tile row. -/
def rowSum (f : Nat → Nat → Nat) (v : Nat) : Nat := ((List.range 16).map fun u => f u v).sum

/-- Something counted over all sites before (x, y) in canonical order: by y, and within a row by x (R63). -/
def countBefore (f : Nat → Nat → Nat) (x y : Nat) : Nat :=
  let perTile := ((List.range 16).map fun v => rowSum f v).sum
  let v := y % 16
  (y / 16) * (10 * perTile) + 10 * ((List.range v).map fun w => rowSum f w).sum + (x / 16) * rowSum f v +
    ((List.range (x % 16)).map fun u => f u v).sum

/-- The canonical index of word 0 of the frame at a site (R63). -/
def frameIndex (x y : Nat) : Nat := countBefore frameWords x y

/-- The canonical number of a cell, sites other than cells skipped (R124). -/
def cellIndex (x y : Nat) : Nat := countBefore cellCount x y

/-- The anchor site of a cup block-RAM block (R61). -/
def bramAnchor (b : Nat) : Nat × Nat :=
  let t := b / 2
  if b % 2 = 0 then (16 * (t % 10) + 1, 16 * (t / 10) + 1) else (16 * (t % 10) + 9, 16 * (t / 10) + 7)

/-- The anchor site of a cup math block. -/
def mathAnchor (b : Nat) : Nat × Nat :=
  let t := b / 4
  let x := 16 * (t % 10)
  let y := 16 * (t / 10)
  match b % 4 with
  | 0 => (x + 6, y + 1)
  | 1 => (x + 13, y + 1)
  | 2 => (x + 1, y + 11)
  | _ => (x + 5, y + 11)

def bramFrame (b : Nat) : Nat := frameIndex (bramAnchor b).1 (bramAnchor b).2
def mathFrame (b : Nat) : Nat := frameIndex (mathAnchor b).1 (mathAnchor b).2

/-- The canonical index of word w of the settings area: words w6 and w7 of the math frames in canonical order, 40 frames
to a row of tiles (R64). -/
def settingsIndex (w : Nat) : Nat :=
  let f := w / 2
  let r := f % 40
  let x := 16 * (r % 20 / 2)
  let y := 16 * (f / 40)
  let (ax, ay) := if r < 20 then (if r % 2 = 0 then (x + 6, y + 1) else (x + 13, y + 1))
    else (if r % 2 = 0 then (x + 1, y + 11) else (x + 5, y + 11))
  frameIndex ax ay + 6 + w % 2

/-- A word of the settings area. -/
def Plane.setting (pl : Plane) (w : Nat) : Word := pl.at (settingsIndex w)

/-! ### Clock selection and bindings (R77, R91, R93) -/

/-- Clock line n is declared running. -/
def Plane.lineRuns (pl : Plane) (n : Nat) : Bool := bit (pl.setting 0) (24 + n)

/-- Lines declared running. -/
def Plane.lines (pl : Plane) : List Nat := (List.range 4).filter pl.lineRuns

/-- The leaf divider of line n. -/
def Plane.lineDiv (pl : Plane) (n : Nat) : Nat := bits (pl.setting 0) (4 * n + 3) (4 * n)

/-- The crossing clock line of side sd: 0 north, 1 east, 2 south, 3 west. -/
def Plane.xclk (pl : Plane) (sd : Nat) : Nat := bits (pl.setting 0) (17 + 2 * sd) (16 + 2 * sd)

/-- The sides of quadrant m that are die edges (R77). -/
def dieSides (m : Nat) : List Nat :=
  match m with
  | 0 => [0, 3]
  | 1 => [0, 1]
  | 2 => [2, 3]
  | _ => [2, 1]

/-- Ports by their binding word: 1–4 stream-in, 5–8 stream-out, 9 request, 10 queue, 11 status. -/
def Plane.bound (pl : Plane) (w : Nat) : Bool := bit (pl.setting w) 31
def Plane.portClk (pl : Plane) (w : Nat) : Nat := bits (pl.setting w) 27 26
def Plane.portSlices (pl : Plane) (w : Nat) : Nat := 2 ^ bits (pl.setting w) 18 16
def Plane.portFirst (pl : Plane) (w : Nat) : Nat := bits (pl.setting w) 7 0

/-- The taps of a bound port. -/
def Plane.taps (pl : Plane) (w : Nat) : List Nat :=
  if pl.bound w then (List.range (pl.portSlices w)).map fun i => pl.portFirst w + i else []

/-- Every tap of the cup. -/
def Plane.allTaps (pl : Plane) : List Nat := ((List.range 11).map fun i => pl.taps (i + 1)).flatten

/-! ### Cell frames (R39 to R52) -/

/-- A field of a macrocell's control (R46): macrocells 0 and 1 in w44, 2 and 3 in w45. -/
def mcCtl (pl : Plane) (x y m : Nat) : Nat :=
  let w := pl.at (frameIndex x y + 44 + m / 2)
  if m % 2 = 0 then bits w 15 0 else bits w 31 16

def mcMode (pl : Plane) (x y m : Nat) : Nat := mcCtl pl x y m % 4
def mcPol (pl : Plane) (x y m : Nat) : Bool := mcCtl pl x y m / 4 % 2 == 1
def mcClk (pl : Plane) (x y m : Nat) : Nat := mcCtl pl x y m / 8 % 4
def mcInit (pl : Plane) (x y m : Nat) : Bool := mcCtl pl x y m / 32 % 2 == 1
def mcCe (pl : Plane) (x y m : Nat) : Nat := mcCtl pl x y m / 64 % 16
def mcSet (pl : Plane) (x y m : Nat) : Nat := mcCtl pl x y m / 1024 % 8
def mcRst (pl : Plane) (x y m : Nat) : Nat := mcCtl pl x y m / 8192 % 8

/-- The code of input i in product term k (R39, R52). -/
def termCode (pl : Plane) (x y k i : Nat) : Nat :=
  let b := 40 * k + 2 * i
  bits (pl.at (frameIndex x y + b / 32)) (b % 32 + 1) (b % 32)

/-- The OR mask of macrocell m takes term k (R41). -/
def orTakes (pl : Plane) (x y m k : Nat) : Bool := bit (pl.at (frameIndex x y + 40 + m)) k

/-- The select of output wire j (R47, R52). -/
def outSel (pl : Plane) (x y j : Nat) : Nat :=
  let b := frameIndex x y
  if j < 6 then bits (pl.at (b + 46)) (5 * j + 4) (5 * j)
  else if j < 12 then bits (pl.at (b + 47)) (5 * (j - 6) + 4) (5 * (j - 6))
  else bits (pl.at (b + 48)) (5 * (j - 12) + 4) (5 * (j - 12))

def chIn (pl : Plane) (x y : Nat) : Bool := bit (pl.at (frameIndex x y + 46)) 30
def chOut (pl : Plane) (x y : Nat) : Bool := bit (pl.at (frameIndex x y + 46)) 31
def chMc (pl : Plane) (x y : Nat) : Nat := bits (pl.at (frameIndex x y + 47)) 31 30
def clkUse (pl : Plane) (x y n : Nat) : Bool := bit (pl.at (frameIndex x y + 48)) (20 + n)

/-- The south neighbour is a cell of the same cup, so a chain may enter (R49). -/
def chainAllowed (x y : Nat) : Bool := isCell x (y + 1)

/-- A select value that names something (R47). -/
def selOk (v : Nat) : Bool := v == 0 || v == 1 || inRange 4 7 v || 0x10 ≤ v

/-! ### Where a cell's inputs come from (R35 to R38) -/

/-- The neighbour on a side, when it lies in the same cup. -/
def neighbour (x y sd : Nat) : Option (Nat × Nat) :=
  match sd with
  | 0 => if y = 0 then none else some (x, y - 1)
  | 1 => if x = 159 then none else some (x + 1, y)
  | 2 => if y = 159 then none else some (x, y + 1)
  | _ => if x = 0 then none else some (x - 1, y)

/-- The output wire of the neighbour on side sd that drives input 4·sd + j: its wire towards this cell (R35, R36). -/
def facingWire (sd j : Nat) : Nat := 4 * ((sd + 2) % 4) + j

/-! ### Signals and the paths between them (R58 item 5) -/

/-- A signal of a cell: k 0–3 macrocell output, 4–19 output wire k − 4, 20 chain output. -/
abbrev Node := Nat × Nat × Nat

/-- The combinational sources of input i of a cell: an own combinational or latch macrocell, or the facing wire of a
neighbouring cell.  Block outputs are registered (R68, R73), border inputs free (R127). -/
def inputNodes (pl : Plane) (x y i : Nat) : List Node :=
  if 16 ≤ i then (if mcMode pl x y (i - 16) = 1 ∨ mcMode pl x y (i - 16) = 2 then [] else [(x, y, i - 16)])
  else match neighbour x y (i / 4) with
    | some (a, b) => if isCell a b then [(a, b, 4 + facingWire (i / 4) (i % 4))] else []
    | none => []

/-- A product term is forced false by a code of 11 (R40). -/
def termFalse (pl : Plane) (x y k : Nat) : Bool := (List.range 20).any fun i => termCode pl x y k i == 3

/-- The sources of a product term; a term forced false has none (log entry 12). -/
def termNodes (pl : Plane) (x y k : Nat) : List Node :=
  if termFalse pl x y k then []
  else ((List.range 20).filter fun i => termCode pl x y k i != 0).flatMap fun i => inputNodes pl x y i

/-- The sources of the OR stage of macrocell m (R41, R48). -/
def stageNodes (pl : Plane) (x y m : Nat) : List Node :=
  (((List.range 32).filter fun k => orTakes pl x y m k).flatMap fun k => termNodes pl x y k) ++
    (if m = chMc pl x y ∧ chIn pl x y = true ∧ chainAllowed x y = true then [(x, y + 1, 20)] else [])

/-- The sources of a signal. -/
def nodeDeps (pl : Plane) (n : Node) : List Node :=
  let (x, y, k) := n
  if k < 4 then
    match mcMode pl x y k with
    | 0 => stageNodes pl x y k
    | 3 => stageNodes pl x y k ++
        (if mcCe pl x y k = 0 then [] else termNodes pl x y (16 + mcCe pl x y k)) ++
        (if mcSet pl x y k = 0 then [] else termNodes pl x y (24 + mcSet pl x y k)) ++
        (if mcRst pl x y k = 0 then [] else termNodes pl x y (24 + mcRst pl x y k))
    | _ => []
  else if k < 20 then
    let v := outSel pl x y (k - 4)
    if inRange 4 7 v then (if mcMode pl x y (v - 4) = 1 ∨ mcMode pl x y (v - 4) = 2 then [] else [(x, y, v - 4)])
    else if 0x10 ≤ v then inputNodes pl x y (v - 0x10)
    else []
  else if chOut pl x y then stageNodes pl x y (chMc pl x y)
  else []

/-- Everything reachable from a list of signals in at most `fuel` rounds. -/
def reach (pl : Plane) : Nat → List Node → List Node → List Node
  | 0, _, seen => seen
  | _ + 1, [], seen => seen
  | f + 1, n :: todo, seen =>
    if seen.contains n then reach pl f todo seen else reach pl f (nodeDeps pl n ++ todo) (n :: seen)

/-- Enough rounds for every path of a cup: each signal of each cell is expanded once, with at most 768 sources. -/
def reachFuel : Nat := 16000 * 21 * 800

/-- A signal lies on a combinational loop. -/
def onLoop (pl : Plane) (n : Node) : Bool := (reach pl reachFuel (nodeDeps pl n) []).contains n

/-! ### The sieve (R127) -/

/-- All cells of a cup in canonical order. -/
def allCells : List (Nat × Nat) :=
  (List.range 160).flatMap fun y => ((List.range 160).filter fun x => isCell x y).map fun x => (x, y)

/-- The smallest of the offending words. -/
def firstOf (l : List Nat) : Option Nat := l.foldl (fun m w => some (match m with | some a => min a w | none => w)) none

/-- Offending words of a cell frame by items 1 to 4 of R58; of item 4 the macrocell's control word (log entry 114). -/
def badCell (pl : Plane) (x y : Nat) : List Nat :=
  let b := frameIndex x y
  ((List.range 4).filter fun m => mcMode pl x y m != 0 && !clkUse pl x y (mcClk pl x y m)).map (fun m => b + 44 + m / 2)
  ++ ((List.range 16).filter fun j => !selOk (outSel pl x y j)).map
      (fun j => b + (if j < 6 then 46 else if j < 12 then 47 else 48))
  ++ (if chIn pl x y && !chainAllowed x y then [b + 46] else [])
  ++ (if bits (pl.at (b + 48)) 31 24 = 0 then [] else [b + 48])

/-- Offending words of a block-RAM frame (R67); a tap is not checked here (R92). -/
def badBram (pl : Plane) (n : Nat) : List Nat :=
  let b := bramFrame n
  let w := pl.at b
  let on := bit w 2
  let clr := bit w 14
  (if bits w 31 15 != 0 || bits w 11 10 == 3 || bits w 9 8 == 3 || (bit w 3 && bits w 1 0 != 3) ||
      ((on || clr) && !pl.lineRuns (bits w 5 4)) || (on && !pl.lineRuns (bits w 7 6)) then [b] else [])
  ++ (if pl.at (b + 1) = 0 then [] else [b + 1])

/-- Offending words of a math frame (R74). -/
def badMath (pl : Plane) (n : Nat) : List Nat :=
  let b := mathFrame n
  let w2 := pl.at (b + 2)
  (if bits (pl.at b) 31 27 = 0 then [] else [b]) ++ (if bits (pl.at (b + 1)) 31 24 = 0 then [] else [b + 1])
  ++ (if bits w2 31 16 != 0 || bit w2 0 || 10 < bits w2 11 8 || 4 < bits w2 5 3 || bits w2 2 1 == 3 then [b + 2] else [])
  ++ ((List.range 3).filter fun i => pl.at (b + 3 + i) != 0).map fun i => b + 3 + i

/-- Offending words of check 0110 for quadrant m with grants g (R77, R78). -/
def badClocks (pl : Plane) (m : Nat) (g : Word) : List Nat :=
  let w := pl.setting 0
  if bits w 31 28 != 0 || (pl.lines.any fun n => !bit g (pl.lineDiv n)) ||
      (!pl.lines.isEmpty && (dieSides m).any fun sd => !pl.lineRuns (pl.xclk sd))
  then [settingsIndex 0] else []

/-- The segment of a side that a border cell faces, if it stands on that side (R106). -/
def segmentOf (x y sd : Nat) : Option Nat :=
  match sd with
  | 0 => if y = 0 then some (x / 16) else none
  | 1 => if x = 159 then some (y / 16) else none
  | 2 => if y = 159 then some (x / 16) else none
  | _ => if x = 0 then some (y / 16) else none

/-- Offending words of check 0111: outputs across a segment whose DRIVE bit is clear. -/
def badDrive (pl : Plane) (drive : List Word) : List Nat :=
  allCells.flatMap fun (x, y) =>
    (List.range 4).flatMap fun sd =>
      match segmentOf x y sd with
      | some n => if bit (drive.getD sd 0) n then [] else
          ((List.range 4).filter fun j => outSel pl x y (4 * sd + j) != 0).map fun j =>
            frameIndex x y + (if 4 * sd + j < 6 then 46 else if 4 * sd + j < 12 then 47 else 48)
      | none => []

/-- SLICES a port may use (R93). -/
def slicesOk (w v : Nat) : Bool :=
  if w ≤ 8 then decide (v ≤ 4) else if w = 9 then decide (v ≤ 3) else if w = 10 then v == 2 else v == 0

/-- Words of the frames of a port's taps that are not zero; blocks beyond the last are none. -/
def badTaps (pl : Plane) (w : Nat) : List Nat :=
  ((pl.taps w).filter fun b => decide (b < 200)).flatMap fun b =>
    ((List.range 2).filter fun j => pl.at (bramFrame b + j) != 0).map fun j => bramFrame b + j

/-- Offending words of check 1000 (R92, R93).  Where two bindings share a tap the spec does not say which of them offends:
it is the later word (DESIGN CHOICE, log entry 89). -/
def badBindings (pl : Plane) : List Nat :=
  (List.range 11).flatMap fun i =>
    let w := i + 1
    let v := pl.setting w
    let earlier := ((List.range i).map fun j => pl.taps (j + 1)).flatten
    if !bit v 31 then (if v = 0 then [] else [settingsIndex w])
    else (if bits v 30 28 != 0 || bits v 25 19 != 0 || bits v 15 8 != 0 || !slicesOk w (bits v 18 16) ||
        !pl.lineRuns (pl.portClk w) || decide (199 < pl.portFirst w + pl.portSlices w - 1) ||
        (pl.taps w).any earlier.contains then [settingsIndex w] else []) ++
      (if bits v 18 16 ≤ 4 then badTaps pl w else [])

/-- Offending words of check 1001. -/
def badReserved (pl : Plane) : List Nat :=
  ((List.range 788).filter fun i => pl.setting (12 + i) != 0).map fun i => settingsIndex (12 + i)

/-- Check 1010 fails: a content word for a tap or for a block with CLR_FLIP. -/
def badContent (pl : Plane) (content : List (Nat × Word)) : Bool :=
  content.any fun e => e.2 != 0 && (pl.allTaps.contains (e.1 / 4096) || bit (pl.at (bramFrame (e.1 / 4096))) 14)

/-- A check of the sieve by its number and its offending words. -/
def checkOf (n : Nat) (bad : List Nat) : Option (Nat × Nat) := (firstOf bad).map fun w => (n, w)

/-- Check 0001: the lengths of the structure and of the content. -/
def badLength (words : Nat) (content : Option (Nat × List (Nat × Word))) : Bool :=
  words != 787600 || content.any fun c => c.1 != 200 * 4096

/-- The first cell with a signal on a combinational loop. -/
def loopCell (pl : Plane) : Option (Nat × Nat) :=
  allCells.find? fun p => (List.range 21).any fun k => onLoop pl (p.1, p.2, k)

/-- The sieve (R127): the failing check and its word, in ascending order of CHECK. -/
def sieve (pl : Plane) (words : Nat) (content : Option (Nat × List (Nat × Word))) (m : Nat) (g : Word)
    (drive : List Word) : Option (Nat × Nat) :=
  (if badLength words content then some (1, 0) else none).or <|
  (checkOf 2 (allCells.flatMap fun p => badCell pl p.1 p.2)).or <|
  ((loopCell pl).map fun p => (3, frameIndex p.1 p.2)).or <|
  (checkOf 4 (((List.range 200).filter fun b => !pl.allTaps.contains b).flatMap fun b => badBram pl b)).or <|
  (checkOf 5 ((List.range 400).flatMap fun b => badMath pl b)).or <|
  (checkOf 6 (badClocks pl m g)).or <|
  (checkOf 7 (badDrive pl drive)).or <|
  (checkOf 8 (badBindings pl)).or <|
  (checkOf 9 (badReserved pl)).or <|
  if content.any fun c => badContent pl c.2 then some (10, 0) else none

/-- Checks 0110 and 0111 alone, as a clearing of a grant or DRIVE bit re-runs them (R127). -/
def resieve (pl : Plane) (m : Nat) (g : Word) (drive : List Word) : Option (Nat × Nat) :=
  (checkOf 6 (badClocks pl m g)).or (checkOf 7 (badDrive pl drive))

/-! ### Planes of a cup, and their digest (R111, R126) -/

/-- The active plane. -/
def CupSt.active (x : CupSt) : Plane := if x.bank then x.plane1 else x.plane0

/-- The shadow plane. -/
def CupSt.shadow (x : CupSt) : Plane := if x.bank then x.plane0 else x.plane1

/-- A cup with another shadow plane. -/
def CupSt.setShadow (x : CupSt) (pl : Plane) : CupSt :=
  if x.bank then { x with plane0 := pl } else { x with plane1 := pl }

/-- A cup with another active plane. -/
def CupSt.setActive (x : CupSt) (pl : Plane) : CupSt :=
  if x.bank then { x with plane1 := pl } else { x with plane0 := pl }

/-- The plane digest: SHA-384 over the 787,600 words, each least significant byte first (R126). -/
def planeDigest (pl : Plane) : BitVec 384 :=
  sha384 ((List.range 787600).flatMap fun i => wordBytes (pl.at i))

/-- The frame of a block RAM in a plane. -/
def Plane.bramW (pl : Plane) (b : Nat) : Word := pl.at (bramFrame b)

/-- A sparse plane of a list of words. -/
def toPlane (ws : List Word) : Plane :=
  ((List.range ws.length).zip ws).filter fun e => e.2 != 0

end Sys2Proof.Machine
end

