-- ==== Sys2Proof/Machine/Queue.lean ====
section
/-! DEFINITION. Packet queues (R99 to R104, R141, R214, R338): producing, consuming, dropping, accesses of tray masters
and of the fabric, and accesses held at a full or empty queue. -/

namespace Sys2Proof.Machine

/-- Slots of a queue (R99, R214, R338). -/
def qCap : QRef → Nat
  | .mgmtTx _ | .mgmtRx _ => 2048
  | _ => 512

/-- The register that shows a queue's PROTO, and its bit (R101, R234); the mailbox has none. -/
def qProtoKey : QRef → Option (RegKey × Nat)
  | .ingress c n => some (⟨.cupQstat, c.val, n.val⟩, 25)
  | .egress c n => some (⟨.cupQstat, c.val, 8 + n.val⟩, 25)
  | .mgmtRx q => some (⟨.mqStat, q.val, 0⟩, 31)
  | .mgmtTx q => some (⟨.mqStat, q.val, 1⟩, 31)
  | _ => none

/-- Sets PROTO of a queue. -/
def State.qProto (s : State) (q : QRef) : State :=
  match qProtoKey q with
  | some (k, n) => s.setFlag k n true
  | none => s

/-- QUEUE_TIMEOUT of a queue in ticks (R128, R214); the mailbox's is the Reset value of CUP_QCFG (log entry 14). -/
def State.qTimeout (s : State) : QRef → Nat
  | .ingress c _ | .egress c _ => usTicks (s.fld ⟨.cupQcfg, c.val, 0⟩ 9 0)
  | .mgmtTx q | .mgmtRx q => usTicks (s.fld ⟨.mqCfg, q.val, 0⟩ 9 0)
  | _ => usTicks 16

/-! ### Producing (R100, R101) -/

/-- How a queue answers a producer. -/
inductive QRes where
  | ok | proto | full
  deriving DecidableEq, Repr

/-- LENGTH of a closed packet; a LAST_BYTES above 32 leaves it open (R100; log entry 2). -/
def State.qLength (s : State) (p : Pkt) (last : Nat) : Nat :=
  if p.slots = [] then 0
  else if 32 < last then Config.freeNat s.freeCtr % 2 ^ 14
  else 32 * p.slots.length - 32 + (if last = 0 then 32 else last)

/-- The header slot that a CLOSE writes (R100). -/
def State.qHeader (s : State) (p : Pkt) (last flags : Nat) : BitVec 256 :=
  BitVec.ofNat 256 (s.qLength p last + (if p.trunc then 2 ^ 14 else 0) + flags % 2 ^ 16 * 2 ^ 16 +
    p.dom % 256 * 2 ^ 32 + s.tick % 2 ^ 64 * 2 ^ 64)

/-- A queue with another last packet. -/
def QueueSt.setLast (x : QueueSt) (p : Pkt) : QueueSt := { x with pkts := x.pkts.dropLast ++ [p] }

/-- A closed packet at the head goes where a waiting DROP sends it (R102). -/
def QueueSt.settle (x : QueueSt) : QueueSt :=
  if x.dropping && x.cur.isNone then
    match x.pkts with
    | p :: ps => if p.closed then { x with pkts := ps, dropping := false } else x
    | [] => x
  else x

/-- OPEN by a producer of a domain and master ID. -/
def QueueSt.openPkt (x : QueueSt) (cap dom mid : Nat) : QueueSt × QRes :=
  if x.isOpen then (x, .proto)
  else if cap ≤ x.used then (x, .full)
  else ({ x with pkts := x.pkts ++ [{ dom, mid }] }, .ok)

/-- Data slots: those past the 511th are discarded, and the rest must fit whole. -/
def QueueSt.addData (x : QueueSt) (cap : Nat) (d : List (BitVec 256)) : QueueSt × QRes :=
  match x.pkts.getLast? with
  | some p =>
    if p.closed then (x, .proto)
    else
      let keep := d.take (511 - p.slots.length)
      if cap < x.used + keep.length then (x, .full)
      else (x.setLast { p with slots := p.slots ++ keep, trunc := p.trunc || keep.length < d.length }, .ok)
  | none => (x, .proto)

/-- CLOSE with a header. -/
def QueueSt.closePkt (x : QueueSt) (hdr : Pkt → BitVec 256) : QueueSt × QRes :=
  match x.pkts.getLast? with
  | some p => if p.closed then (x, .proto) else ((x.setLast { p with header := some (hdr p) }).settle, .ok)
  | none => (x, .proto)

/-- A producer's access. -/
def State.qProduce (s : State) (q : QRef) (dom mid : Nat) (a : QAccess) : State × QRes :=
  let x := s.queue q
  let r := match a with
    | .opn => x.openPkt (qCap q) dom mid
    | .dat d => x.addData (qCap q) d
    | .cls last flags => x.closePkt fun p => s.qHeader p last flags
    | _ => (x, .ok)
  match r.2 with
  | .ok =>
    let drew := match a with
      | .cls last _ => decide (32 < last)
      | _ => false
    ((if drew then s.draw else s).setQueue q r.1, .ok)
  | .proto => (s.qProto q, .proto)
  | .full => (s, .full)

/-! ### Consuming (R102) -/

/-- The next slot, whether it is a header, and the queue after it; none where the consumer stalls. -/
def QueueSt.take1 (x : QueueSt) : Option (BitVec 256 × Bool × QueueSt) :=
  match x.cur with
  | some (a :: r) => some (a, false, { x with cur := if r = [] then none else some r })
  | _ =>
    if x.dropping then none
    else match x.pkts with
      | p :: ps => match p.header with
        | some h => some (h, true, { x with cur := if p.slots = [] then none else some p.slots, pkts := ps })
        | none => none
      | [] => none

/-- The slots of a READ of one or two slots: a packet that ends leaves zeros (R104). -/
def QueueSt.takeN (x : QueueSt) (n : Nat) : Option (List (BitVec 256) × QueueSt) :=
  match x.take1 with
  | none => none
  | some (a, _, y) =>
    if n = 1 then some ([a], y)
    else if y.cur.isSome then
      match y.take1 with
      | some (b, _, z) => some ([a, b], z)
      | none => some ([a, 0], y)
    else some ([a, 0], y)

/-- DROP (R102): the rest of the current packet, or the next packet whole, once it is closed. -/
def QueueSt.dropPkt (x : QueueSt) : QueueSt :=
  if x.cur.isSome then { x with cur := none } else ({ x with dropping := true } : QueueSt).settle

/-! ### Rights (R140, R141, R408) -/

/-- A queue grant gives domain d an access to queue q. -/
def State.queueGranted (s : State) (d : Nat) (q : QRef) : Bool :=
  (List.range 256).any fun e =>
    let w := s.reg ⟨.trayQg, e, 0⟩
    bit w 31 && bits w 7 0 == d && (match q with
      | .ingress c n => !bit w 30 && bits w 23 16 == c.val && bits w 26 24 == n.val
      | .egress c n => bit w 30 && bits w 23 16 == c.val && bits w 26 24 == n.val
      | _ => false)

/-- The apertures of R104: ingress queues, transmit and send queues are written; the others read and dropped. -/
def qWritten : QRef → Bool
  | .ingress _ _ | .mgmtTx _ | .mailTx => true
  | _ => false

/-- Whether a master may use a queue's aperture; `wr` for writes, which the owner token covers.  A grantee reaches a cup of
another tenant in that tenant's window; a cup of the owner's has its apertures in the owner window alone, where no tenant
passes (R32, R141). -/
def State.queueRight (s : State) (m : Nat) (q : QRef) (wr : Bool) : Bool :=
  (match q with
    | .mailTx | .mailRx => s.flag ⟨.casCfg, 0, 0⟩ 2
    | _ => true) &&
  match s.midDomain m with
  | none => false
  | some d =>
    match tenantOf d with
    | none => !(wr && s.lacksToken m)
    | some n => s.tenantExists n && (match qCup q with
      | some c => s.cupDom c == d || (s.queueGranted d q && (tenantOf (s.cupDom c)).isSome)
      | none => false)

/-! ### The owner mailbox (R338) -/

/-- A packet closed in the send queue leaves for its destination. -/
def State.sendMail (s : State) : State :=
  let x := s.queue .mailTx
  match x.pkts with
  | p :: ps =>
    if p.closed then
      let s := s.setQueue .mailTx { x with pkts := ps }
      let len := ((p.header.getD 0).toNat) % 2 ^ 14
      let bytes := slice (p.slots.flatMap slotBytes) 0 len
      let dst := numAt bytes 0 2 % 1024
      if 1 ≤ len ∧ len ≤ 240 ∧ s.casHops s.casId dst ≤ 16 then s.casSend (some dst) (.mbox dst bytes) else s
    else s
  | [] => s

/-! ### Accesses of tray masters -/

/-- The domain an access acts under: its master's, or a notifying collector's owner (R162). -/
def State.qDom (s : State) (m : Nat) : Nat :=
  if inRange 0x400 0x43F m then s.fld ⟨.colCfg, m - 0x400, 0⟩ 7 0 else (s.midDomain m).getD 0

/-- A tray access carried out, or none where it must wait at a full or empty queue (R101, R102). -/
def State.qTry (s : State) (m tag : Nat) (q : QRef) (a : QAccess) : Option State :=
  match a with
  | .rd n =>
    match (s.queue q).takeN n with
    | some (l, x) => some ((s.setQueue q x).respond m tag .ok (l.flatMap slotBytes))
    | none => none
  | .drp => some ((s.setQueue q (s.queue q).dropPkt).respond m tag .ok)
  | _ =>
    match s.qProduce q (s.qDom m) m a with
    | (s, .ok) => some ((match q, a with
        | .mailTx, .cls _ _ => s.sendMail
        | _, _ => s).respond m tag .ok)
    | (s, .proto) => some (s.respond m tag .denied)
    | (_, .full) => none

/-- An earlier access of this master waits at a queue of the same endpoint (R143). -/
def State.qBehind (s : State) (m : Nat) (q : QRef) : Bool :=
  s.stalls.any fun e => e.mid == m && queueEnd e.q == queueEnd q

/-- A tray access after its rights check: done, or held (R101, R102). -/
def State.qDo (s : State) (m tag : Nat) (q : QRef) (a : QAccess) : State :=
  let wait := { s with stalls := s.stalls ++ [{ mid := m, tag, q, acc := a, since := s.tick }] }
  if s.qBehind m q then wait else (s.qTry m tag q a).getD wait

/-- A tray access to a queue aperture: absent cups answer RETIRED, a lacking right DENIED (R22, R140, R142). -/
def State.qAccess (s : State) (m tag : Nat) (q : QRef) (a : QAccess) : State :=
  let prod := match a with
    | .opn | .dat _ | .cls _ _ => true
    | _ => false
  let wr := match a with
    | .rd _ => false
    | _ => true
  if qWritten q != prod || !s.queueRight m q wr then s.denyTray m tag
  else if (qCup q).any s.cupGone then s.respond m tag .retired
  else s.qDo m tag q a

/-! ### The fabric's side (R101, R104) -/

/-- A port of a cup, by its binding word, acts: the cup is in RUN, the active plane binds the port, and no E1 of its
line is due (R94, R115). -/
def State.portActs (s : State) (c w : Nat) : Bool :=
  let x := s.cup c
  s.fld ⟨.cupState, c, 0⟩ 1 0 == 2 && x.active.bound w && !x.fab.waitE1.contains (x.active.portClk w)

/-- A fabric producer at egress queue n: EG_READY 0 keeps it from writing to a full queue. -/
def State.fabProduce (s : State) (c : Nat) (n : Fin 8) (a : QAccess) : State :=
  let q : QRef := .egress (Fin.ofNat 192 c) n
  let (s', r) := s.qProduce q (s.cupDom c) c a
  match r with
  | .full => s
  | _ =>
    let full := decide (qCap q ≤ (s'.queue q).used)
    s'.modCup c fun x =>
      let rest := x.egFull.filter (fun k => k != n.val)
      { x with egFull := if full then rest ++ [n.val] else rest }

/-- The fabric takes the shown slot of ingress queue n (R102, R104). -/
def State.fabTake (s : State) (c : Nat) (n : Fin 8) : State :=
  let q : QRef := .ingress (Fin.ofNat 192 c) n
  match (s.queue q).take1 with
  | some (_, _, x) => s.setQueue q x
  | none => s

/-- The fabric drops at ingress queue n (R102, R104). -/
def State.fabDrop (s : State) (c : Nat) (n : Fin 8) : State :=
  let q : QRef := .ingress (Fin.ofNat 192 c) n
  s.setQueue q (s.queue q).dropPkt

/-! ### Held accesses -/

/-- The held access of a request. -/
def State.findStall (s : State) (m tag : Nat) : Option Stall := s.stalls.find? fun e => e.mid = m ∧ e.tag = tag

/-- Forgets a held access. -/
def State.dropStall (s : State) (m tag : Nat) : State :=
  { s with stalls := s.stalls.filter fun e => !(e.mid == m && e.tag == tag) }

/-- No earlier held access of the same master waits at the same endpoint. -/
def State.stallFirst (s : State) (x : Stall) : Bool :=
  match s.stalls.find? fun e => e.mid = x.mid ∧ queueEnd e.q = queueEnd x.q with
  | some e => e.tag == x.tag
  | none => false

/-- Empties every queue of a cup (R103). -/
def State.emptyQueues (s : State) (c : Nat) : State :=
  { (s.modCup c fun x => { x with egHeld := none }) with queues := s.queues.filter fun e => !((8 * c ≤ e.1 && e.1 < 8 * c + 8) ||
      (2000 + 8 * c ≤ e.1 && e.1 < 2000 + 8 * c + 8)) }

/-- Closes the packet that a departed grantee holds open in a queue, with FLAGS 0 and TRUNC set (R141). -/
def State.closeFor (s : State) (q : QRef) (d : Nat) : State :=
  let x := s.queue q
  match x.pkts.getLast? with
  | some p =>
    if !p.closed && p.dom == d then
      let p := { p with trunc := true }
      s.setQueue q ((x.setLast { p with header := some (s.qHeader p 0 0) }).settle)
    else s
  | none => s

/-! ### Commands -/

/-- A tray request of master m: held behind a FENCE of the master (R144), else issued and carried out. -/
def State.request (s : State) (m tag : Nat) (op : ReqOp) (r : Req) (f : State → State) : State :=
  if s.fenced m then s.holdReq m tag r else f (s.issue m tag op (s.reqSpan m r).1 (s.reqSpan m r).2)

/-- A queue access by its tray request. -/
def State.qRequest (s : State) (m tag : Nat) (q : QRef) (a : QAccess) : State :=
  s.request m tag (match a with
    | .rd _ => .read
    | _ => .write) (.queue q a) fun s => s.qAccess m tag q a

/-- A queue access: the cup's own queue port at its egress queues, its fabric's drop at its ingress queues, a tray
request otherwise (R101, R104, R133). -/
def State.qCommand (s : State) (m tag : Nat) (q : QRef) (a : QAccess) : State :=
  match q, a with
  | _, .rd _ => s.qRequest m tag q a
  | .egress _ _, .drp => s.qRequest m tag q a
  | .ingress c n, .drp => if m = c.val then (if s.portActs c.val 10 then s.fabDrop c.val n else s)
      else s.qRequest m tag q a
  | .egress c n, _ => if m = c.val then (if s.portActs c.val 10 then s.fabProduce c.val n a else s)
      else s.qRequest m tag q a
  | _, _ => s.qRequest m tag q a

/-- OPEN (R100, R101). -/
def execQOpen (m tag : Nat) (q : QRef) (s : State) : Host.Outcome State Fault Refusal :=
  s.whenLive fun s => s.qCommand m tag q .opn

/-- DATA (R100, R101): 32 or 64 bytes; any other access is DENIED (R104). -/
def execQData (m tag : Nat) (q : QRef) (bytes : List Byte) (s : State) : Host.Outcome State Fault Refusal :=
  s.whenLive fun s =>
    if bytes.length = 32 ∨ bytes.length = 64 then s.qCommand m tag q (.dat (slotsOf bytes))
    else
      let a := s.queueAddr m q (.dat [])
      s.request m tag .write (.refused .write a bytes.length) fun s => s.denyIn (s.uniformAt a) m tag

/-- CLOSE (R100, R101). -/
def execQClose (m tag : Nat) (q : QRef) (lastBytes : Fin 256) (flags : Fin 65536) (s : State) :
    Host.Outcome State Fault Refusal :=
  s.whenLive fun s => s.qCommand m tag q (.cls lastBytes.val flags.val)

/-- EGRESS_READ (R102, R104): one or two slots; any other access is DENIED. -/
def execEgressRead (m tag : Nat) (q : QRef) (slots : Fin 3) (s : State) : Host.Outcome State Fault Refusal :=
  s.whenLive fun s =>
    if slots.val = 0 then
      let a := s.queueAddr m q (.rd 0)
      s.request m tag .read (.refused .read a 1) fun s => s.denyIn (s.uniformAt a) m tag
    else s.qCommand m tag q (.rd slots.val)

/-- DROP (R102). -/
def execDrop (m tag : Nat) (q : QRef) (s : State) : Host.Outcome State Fault Refusal :=
  s.whenLive fun s => s.qCommand m tag q .drp

/-- IN_TAKE (R102, R104). -/
def execInTake (c : Fin 192) (n : Fin 8) (s : State) : Host.Outcome State Fault Refusal :=
  s.whenServing fun s => if s.portActs c.val 10 then s.fabTake c.val n else s

/-- QUEUE_WRITE_TIMEOUT (R101): a write held for QUEUE_TIMEOUT completes with DENIED; nothing is written. -/
def execQueueWriteTimeout (m tag : Nat) (s : State) : Host.Outcome State Fault Refusal :=
  s.whenLive fun s =>
    match s.findStall m tag with
    | some x =>
      let wr := match x.acc with
        | .rd _ => false
        | _ => true
      if wr = true ∧ x.since + s.qTimeout x.q ≤ s.tick then (s.dropStall m tag).respond m tag .denied else s
    | none => s

/-- QUEUE_READ_TIMEOUT (R102): a read held for QUEUE_TIMEOUT completes with EMPTY; nothing is consumed. -/
def execQueueReadTimeout (m tag : Nat) (s : State) : Host.Outcome State Fault Refusal :=
  s.whenLive fun s =>
    match s.findStall m tag with
    | some x =>
      let rd := match x.acc with
        | .rd _ => true
        | _ => false
      if rd = true ∧ x.since + s.qTimeout x.q ≤ s.tick then (s.dropStall m tag).respond m tag .empty else s
    | none => s

/-- A held access of a master whose grant has ended since: it is refused, for it would open a packet that nothing closes
(R141; log entry 83).  A notifying collector's access acts in its owner domain's right (R162). -/
def State.stallBarred (s : State) (x : Stall) : Bool :=
  let wr := match x.acc with
    | .rd _ => false
    | _ => true
  !inRange 0x400 0x43F x.mid && !s.queueRight x.mid x.q wr

/-- QUEUE_STALL_RESUME (R101, R102): a held access that no earlier one of its master precedes goes on once the queue
lets it. -/
def execQueueStallResume (m tag : Nat) (s : State) : Host.Outcome State Fault Refusal :=
  s.whenLive fun s =>
    match s.findStall m tag with
    | some x =>
      if s.stallBarred x then (s.dropStall m tag).denyTray m tag
      else if s.stallFirst x then ((s.dropStall m tag).qTry m tag x.q x.acc).getD s else s
    | none => s

end Sys2Proof.Machine
end

