-- ==== Sys2Proof/Machine/Stream.lean ====
section
/-! DEFINITION. The stream plane (R145 to R157, R165): trees and their calendar slots, the reservation engine, swap
sets, stream states, and the queue grant table (R141). -/

namespace Sys2Proof.Machine

/-- Adds 1 to counter i of a port (R234). -/
def State.portCount (s : State) (q n i : Nat) : State :=
  let lo : RegKey := ⟨.portCnt, 4 * q + n, i⟩
  let hi : RegKey := ⟨.portCntHi, 4 * q + n, i⟩
  s.setPair lo hi ((s.pair lo hi + 1) % 2 ^ 64)

/-! ### Endpoints and paths (R130, R131, R150, R151) -/

/-- The quad at a router's local port. -/
def quadAtPort (k p : Nat) : Option Nat := (List.range 64).find? fun q => quadRouter q == (k, p)

/-- The physical leaf position over a router; none under a stack. -/
def leafOverRouter (k : Nat) : Option Nat :=
  let j := k % 30 / 2
  if j = 4 ∨ j = 10 then none
  else some (k / 30 / 2 * 13 + (if j < 4 then j else if j < 10 then j - 1 else j - 2))

/-- The cup at port 0 of a router. -/
def State.cupAtRouter (s : State) (k : Nat) : Option Nat :=
  (leafOverRouter k).bind fun p => (s.cupsOfLeaf p)[2 * (k / 30 % 2) + k % 2]?

/-- A stream endpoint (R150). -/
def State.endpointOk (s : State) (k p : Nat) : Bool :=
  decide (k < 240) &&
  (if p = 0 then (leafOverRouter k).isNone || (s.cupAtRouter k).isSome
   else match quadAtPort k p with
    | some q => (s.quadRole q == 1 || s.quadRole q == 3 || s.quadRole q == 4) && !s.servedByEven q
    | none => false)

/-- The directed links of the dimension-ordered path from router a to router b: router and LINK code (R131). -/
def hopPath (a b : Nat) : List (Nat × Nat) :=
  let (ra, ca) := (a / 30, a % 30)
  let (rb, cb) := (b / 30, b % 30)
  (if ra ≤ rb then (List.range (rb - ra)).map fun i => ((ra + i) * 30 + ca, 2)
    else (List.range (ra - rb)).map fun i => ((ra - i) * 30 + ca, 0)) ++
  (if ca ≤ cb then (List.range (cb - ca)).map fun i => (rb * 30 + ca + i, 1)
    else (List.range (ca - cb)).map fun i => (rb * 30 + ca - i, 3))

/-- The path of a tree to a destination router (R151). -/
def Tree.path (t : Tree) (k : Nat) : List (Nat × Nat) :=
  match t.via with
  | some v => hopPath t.srcK v ++ hopPath v k
  | none => hopPath t.srcK k

/-- A place of a tree: 0 injection port, 1 mesh link, 2 ejection port; its offset from σ; router; LINK code; port. -/
abbrev Place := Nat × Nat × Nat × Nat × Nat

/-- The place without its offset. -/
def placeId (p : Place) : Nat × Nat × Nat × Nat := (p.1, p.2.2)

/-- The routers that a request crosses from router a to router b, both among them (R131). -/
def routersOn (a b : Nat) : List Nat := (hopPath a b).map (·.1) ++ [b]

/-- The places a tree holds for σ (R146). -/
def Tree.places (t : Tree) : List Place :=
  (0, 0, t.srcK, 4, t.srcPort) ::
  ((t.dsts.flatMap fun d =>
      let p := t.path d.1
      ((List.range p.length).zip p).map fun (e : Nat × Nat × Nat) => ((1, 2 * e.1, e.2.1, e.2.2, 0) : Place)).dedup ++
    t.dsts.map fun d => ((2, 2 * max 1 (t.path d.1).length, d.1, 5, d.2) : Place))

/-- A tree holds a slot at a place. -/
def Tree.holds (t : Tree) (id : Nat × Nat × Nat × Nat) (slot : Nat) : Bool :=
  t.places.any fun p => placeId p == id && t.slots.any fun σ => (σ + p.2.1) % 1024 == slot

/-- A stream's trees: the current one and a prepared one. -/
def StreamSt.trees (x : StreamSt) : List Tree := x.tree.toList ++ ((x.prep.bind (·.tree)).toList)

/-- A reservation or a prepared change holds a slot at a place (R152). -/
def State.placeHeld (s : State) (p : Place) (slot : Nat) : Bool :=
  s.streams.any fun e => e.2.trees.any fun t => t.holds (placeId p) slot

/-- First-link slots a stream counts for (R149). -/
def StreamSt.slotCount (x : StreamSt) : Nat := (x.trees.map fun t => t.slots.length).sum

/-! ### Stream states (R155, R156) -/

/-- The destination of a stream at an endpoint. -/
def StreamSt.dstAt (x : StreamSt) (k p : Nat) : Option Nat :=
  x.tree.bind fun t => t.dsts.findIdx? fun d => d == (k, p)

/-- A stream of the cup's own domain, which alone its ports may bind (R150). -/
def State.ownStream (s : State) (c stream : Nat) : Bool := s.fld ⟨.traySent, stream, 0⟩ 7 0 == s.cupDom c

/-- A cup at port 0 of a router that has a stream-in port bound to a stream (R150, R155). -/
def State.tellCup (s : State) (k p stream st : Nat) : State :=
  if p = 0 then
    match s.cupAtRouter k with
    | some c =>
      if s.ownStream c stream && (List.range 4).any fun n => s.flag ⟨.cupSin, c, n⟩ 31 && s.fld ⟨.cupSin, c, n⟩ 13 0 == stream
      then s.statusEvent c 2 st stream else s
    | none => s
  else s

/-- Sets the state at a destination; a change reaches the cup there as a status event (R155). -/
def State.setDst (s : State) (stream d st : Nat) : State :=
  let x := s.stream stream
  if nget x.dstState d 0 = st then s
  else
    let s := s.modStream stream fun x => { x with dstState := nput x.dstState d st 0 }
    match x.tree.bind fun t => t.dsts[d]? with
    | some (k, p) => s.tellCup k p stream st
    | none => s

/-- Sets the state at every destination that `p` selects. -/
def State.setDsts (s : State) (stream st : Nat) (p : Nat → Bool) : State :=
  match (s.stream stream).tree with
  | some t => ((List.range t.dsts.length).filter fun d => p (nget (s.stream stream).dstState d 0)).foldl
      (fun (s : State) d => s.setDst stream d st) s
  | none => s

/-- The state of a stream at an endpoint: UNUSED where no tree brings it (R155). -/
def StreamSt.stateAt (x : StreamSt) (d : Nat × Nat) : Nat :=
  match x.dstAt d.1 d.2 with
  | some n => nget x.dstState n 0
  | none => 0

/-- A stream takes another tree, or none: every destination of the tree goes to RESERVED, every other to UNUSED, and a
destination hears of it where its state changes (R154, R155). -/
def State.setTree (s : State) (stream : Nat) (t : Option Tree) : State :=
  let old := s.stream stream
  let dsts := (t.map (·.dsts)).getD []
  let gone := ((old.tree.map (·.dsts)).getD []).filter fun d => !dsts.contains d
  let s := gone.foldl (fun (s : State) d => s.tellCup d.1 d.2 stream 0) s
  let kept := (List.range dsts.length).zip dsts |>.foldl
    (fun (l : List (Nat × Nat)) e => nput l e.1 (old.stateAt e.2) 0) []
  let s := s.modStream stream fun x =>
    { x with tree := t, prep := none, srcSop := none, dstState := kept, lastSop := [], degradedAt := none }
  s.setDsts stream 1 fun _ => true

/-- The producer at an endpoint retires: every destination of its streams goes LOST (R156). -/
def State.producerRetired (s : State) (k p : Nat) : State :=
  (s.streams.filter fun e => e.2.tree.any fun t => t.srcK == k && t.srcPort == p).foldl
    (fun (s : State) e => s.setDsts e.1 4 fun _ => true) s

/-- The first SOP at or after the point of application puts a prepared change into effect (R154). -/
def State.switchTree (s : State) (stream : Nat) : State :=
  match (s.stream stream).prep with
  | some p => if p.applied then s.setTree stream p.tree else s
  | none => s

/-- A SOP leaves the source. -/
def State.sourceSop (s : State) (stream : Nat) : State :=
  (s.switchTree stream).modStream stream fun x => { x with srcSop := if x.tree.isSome then some s.tick else none }

/-- A packet reaches a destination of its stream: FLOWING, unless LOST or DEGRADED (R155, R156). -/
def State.streamArrive (s : State) (stream k p : Nat) : State :=
  match (s.stream stream).dstAt k p with
  | some d =>
    let s := s.modStream stream fun x => { x with lastSop := nset x.lastSop d s.tick }
    let st := nget (s.stream stream).dstState d 0
    if st = 1 ∨ st = 3 then s.setDst stream d 2 else s
  | none => s

/-- The RAW lanes that send a stream (R225): its tree reaches the lane's quad, TX_EN is set, the transmit stream is
STREAM + 1, and the lane is in L0. -/
def State.rawSinks (s : State) (stream : Nat) (tr : Tree) : List Nat :=
  (List.range 256).filter fun l =>
    s.quadRole (l / 4) == 4 && tr.dsts.contains (quadRouter (l / 4)) && s.flag ⟨.rawCtl, l, 0⟩ 29 &&
      s.fld ⟨.rawCtl, l, 0⟩ 13 0 + 1 == stream && s.laneState l == 0

/-- A packet's words go to a RAW lane in order (R225); the table has no row for a word that leaves, so the bytes are shown
with the packet, and the words wait in the lane's transmit buffer for their word times.  What fills a last word that the
packet leaves short is free (log entry 56). -/
def State.rawSend (s : State) (stream l : Nat) (bytes : List Byte) : State :=
  let short := (s.rawBytes (l / 4) - bytes.length % s.rawBytes (l / 4)) % s.rawBytes (l / 4)
  let (k, p) := quadRouter (l / 4)
  let s := (s.streamArrive stream k p).log (.raw l (bytes ++ leBytes short (Config.freeNat s.freeCtr)))
  let words := ceilDiv bytes.length (s.rawBytes (l / 4))
  let s := s.modLane l fun x =>
    { x with txWords := s.txWaiting l + words, txAt := s.root, txPart := (s.txTimes l).2 }
  if short = 0 then s else s.draw

/-! ### Packets in their producers' buffers (R148, R150) -/

/-- Flits of a packet (R147). -/
def flitCount (len : Nat) : Nat := ceilDiv len 256

/-- Bytes of a packet that have still to leave. -/
def WaitPkt.left (w : WaitPkt) : Nat := w.bytes.length - 256 * w.gone

/-- Bytes of a stream that still wait in its producer's buffer. -/
def State.bytesWaiting (s : State) (stream : Nat) : Nat := ((s.stream stream).wait.map WaitPkt.left).sum

/-- Bytes that wait in a buffer, over all streams: those of the packets that `p` selects. -/
def State.bytesHeld (s : State) (p : WaitPkt → Bool) : Nat :=
  (s.streams.map fun e => ((e.2.wait.filter p).map WaitPkt.left).sum).sum

/-- Packets that `p` selects leave their buffers unsent, as those are emptied (R103, R118). -/
def State.dropWait (s : State) (p : WaitPkt → Bool) : State :=
  (s.streams.filter fun e => e.2.wait.any p).foldl
    (fun (s : State) e => s.modStream e.1 fun x => { x with wait := x.wait.filter fun w => !p w }) s

/-- The packet buffer of a quad in RAW or CASCADE role has room for a packet of its stream.  The spec gives it no size: with
nothing waiting there is room, else that is open (log entry 91). -/
def State.quadRoom (s : State) (stream len : Nat) : Bool :=
  s.bytesWaiting stream == 0 || decide (s.bytesWaiting stream + len ≤ Config.quadBuffer)

/-- An endpoint is the source of the stream's tree, or of the tree that replaces it at the next SOP (R150, R154). -/
def State.isSource (s : State) (stream k p : Nat) : Bool :=
  let x := s.stream stream
  let at_ (t : Option Tree) : Bool := t.any fun t => t.srcK == k && t.srcPort == p
  at_ x.tree || x.prep.any fun e => e.applied && at_ e.tree

/-- The producing block counts a packet that it discards for want of a tree (R150): a stream-out port in DISC, a real-time
port in DROPPED, a port in RX_NOTREE (log entry 91). -/
def State.countLost (s : State) : Producer → State
  | .sout c n => s.countUp ⟨.cupSout, c, n⟩ 29 14
  | .rtp x => s.countUp ⟨.rtpStat, x, 0⟩ 23 16
  | .port q n => s.portCount q n 5

/-- An uncorrectable error in a flit is counted at the router that detects it (R138, R434). -/
def State.flitError (s : State) (k : Nat) : State := if k < 240 then s.countUp ⟨.rtrErr, k, 0⟩ 15 0 else s

/-- A flit crosses the routers of a list: an injected error that waits at one is spent, and one of two bits damages the
flit (R138, R401). -/
def State.crossRouters (s : State) (l : List Nat) : State × Bool :=
  match s.flitInj.find? fun e => l.contains e.1 with
  | some (k, n) =>
    let s := { s with flitInj := erase s.flitInj k }
    if n = 2 then (s.flitError k, true) else (s, false)
  | none => (s, false)

/-- The routers of a tree. -/
def Tree.routers (t : Tree) : List Nat := (t.places.map fun p => p.2.2.1).dedup

/-- A flit of the packet at the head of a stream's buffer leaves: the first is the SOP, and with the last the packet is out.
The RAW lanes that send the stream take it whole, or discard it damaged and count that in TX_NOPACER under the lane's
number (R138; log entry 91). -/
def State.leaveFlit (s : State) (stream : Nat) (tr : Tree) : State :=
  match (s.stream stream).wait with
  | w :: rest =>
    let (s, hurt) := s.crossRouters tr.routers
    let w := { w with gone := w.gone + 1, bad := w.bad || hurt }
    let s := if w.gone = 1 then s.modStream stream fun x => { x with srcSop := some s.tick } else s
    if w.gone < flitCount w.bytes.length then s.modStream stream fun x => { x with wait := w :: rest }
    else
      let s := (s.modStream stream fun x => { x with wait := rest }).log (.streamPacket stream w.bytes w.bad)
      (s.rawSinks stream tr).foldl
        (fun (s : State) l => if w.bad then s.portCount (l / 4) (l % 4) 7 else s.rawSend stream l w.bytes) s
  | [] => s

/-- What needs no slot: a change that has been applied takes effect as a packet whose flits have not begun to leave comes
to the head (R154); a packet whose stream has no tree from its endpoint is discarded and counted (R150); and a best-effort
packet leaves, since it waits for no slot of its own (R157; its latency is timing). -/
def State.flowSteps (stream : Nat) : Nat → State → State
  | 0, s => s
  | n + 1, s =>
    match (s.stream stream).wait with
    | [] => s
    | w :: rest =>
      let s := if w.gone = 0 then s.switchTree stream else s
      match (s.stream stream).tree with
      | some tr =>
        if tr.srcK = w.k ∧ tr.srcPort = w.p then
          if tr.be then
            State.flowSteps stream n
              ((List.range (flitCount w.bytes.length - w.gone)).foldl (fun (s : State) _ => s.leaveFlit stream tr) s)
          else s
        else State.flowSteps stream n ((s.modStream stream fun x => { x with wait := rest }).countLost w.owner)
      | none => State.flowSteps stream n ((s.modStream stream fun x => { x with wait := rest }).countLost w.owner)

/-- The packets of a stream that go on, or go, without a slot. -/
def State.streamFlow (s : State) (stream : Nat) : State :=
  State.flowSteps stream ((s.stream stream).wait.length + 1) s

/-- The streams at a root cycle: in each tray cycle, a stream that holds the slot then current sends one flit (R145, R148). -/
def State.streamCycle (s : State) : State :=
  if s.root % 4 = 0 then
    ((s.streams.filter fun e => !e.2.wait.isEmpty).map (·.1)).foldl
      (fun (s : State) n =>
        let s := s.streamFlow n
        match (s.stream n).tree with
        | some tr => if tr.slots.contains (s.trayCycle % 1024) then s.leaveFlit n tr else s
        | none => s) s
  else s

/-- A packet of legal length enters its producer's buffer at an endpoint (R147, R150), and whether it does: where the
stream has no tree from that endpoint, it is discarded.  Its flits leave at the slots held (R148). -/
def State.inject (s : State) (stream k p : Nat) (owner : Producer) (bytes : List Byte) : State × Bool :=
  if s.isSource stream k p = true ∧ bytes.length ≤ 9216 ∧ 1 ≤ bytes.length then
    ((s.modStream stream fun x => { x with wait := x.wait ++ [{ owner, k, p, bytes }] }).streamFlow stream, true)
  else (s, false)

/-- The producer declares DEGRADED on a stream (R196, R363). -/
def State.degrade (s : State) (stream : Nat) : State :=
  if (s.stream stream).tree.isSome then
    (s.modStream stream fun x => { x with degradedAt := some s.tick }).setDsts stream 5 fun st => st != 4
  else s

/-- The declaration that a discard makes while COAST is set (R363). -/
def State.coastDiscard (s : State) (stream : Nat) : State :=
  if s.clk.mode = .coasting then s.degrade stream else s

/-- The state a destination returns to from DEGRADED. -/
def State.plainState (s : State) (stream d : Nat) : Nat :=
  match look (s.stream stream).lastSop d with
  | none => 1
  | some t => if s.silenceTicks ≠ 0 ∧ t + s.silenceTicks ≤ s.tick then 3 else 2

/-- The DEGRADED declaration clears. -/
def State.undegrade (s : State) (stream : Nat) : State :=
  let s := s.modStream stream fun x => { x with degradedAt := none }
  match (s.stream stream).tree with
  | some t => (List.range t.dsts.length).foldl
      (fun (s : State) d => if nget (s.stream stream).dstState d 0 = 5 then s.setDst stream d (s.plainState stream d)
        else s) s
  | none => s

/-! ### The reservation engine (R151 to R154) -/

/-- TRAY_RSV_STAT. -/
def State.rsvDone (s : State) (code k link taken : Nat) : State :=
  s.setReg ⟨.rsvStat, 0, 0⟩ (packBits [(31, 30, if code = 0 then 2 else 3), (27, 24, code), (23, 16, k), (15, 13, link),
    (9, 0, taken)])

/-- An armed STREAM_SWAP entry names a set (R154). -/
def State.setArmed (s : State) (set : Nat) : Bool :=
  (List.range 256).any fun e => s.spArmed e && s.spAction e == 2 && bits ((s.spEnt e).arg 0) 3 0 == set

/-- The tree that the staging registers describe, without slots. -/
def State.stagedTree (s : State) : Tree :=
  let w := s.reg ⟨.rsvSrc, 0, 0⟩
  { srcK := bits w 7 0, srcPort := bits w 9 8, via := if bit w 31 then some (bits w 23 16) else none,
    dsts := ((List.range 64).filter fun n => s.flag ⟨.rsvDst, 0, n⟩ 31).map fun n =>
      (s.fld ⟨.rsvDst, 0, n⟩ 7 0, s.fld ⟨.rsvDst, 0, n⟩ 9 8),
    slots := [], be := s.flag ⟨.rsvSlots, 0, 0⟩ 31 }

/-- The code that refuses a descriptor, 0 where it is in order (R151; of several the first in the order of log entry
116). -/
def State.descriptorCode (s : State) (t : Tree) (count : Nat) : Nat :=
  if !s.endpointOk t.srcK t.srcPort || 239 < s.fld ⟨.rsvSrc, 0, 0⟩ 23 16 ||
      (t.dsts.any fun d => !s.endpointOk d.1 d.2) || t.dsts.dedup.length < t.dsts.length then 3
  else if t.dsts = [] ∨ (t.be = false ∧ count = 0) ∨ 512 < count ∨ (t.be = true ∧ count ≠ 0) then 6
  else 0

/-- Slots a domain's streams hold (R149). -/
def State.domSlots (s : State) (d : Nat) : Nat :=
  ((s.streams.filter fun e => s.fld ⟨.traySent, e.1, 0⟩ 7 0 == d).map fun e => e.2.slotCount).sum

/-- A tenant's MAX_SLOTS would be exceeded. -/
def State.overSlots (s : State) (stream count : Nat) : Bool :=
  let d := s.fld ⟨.traySent, stream, 0⟩ 7 0
  match tenantOf d with
  | some n => decide (s.fld ⟨.traySbudget, n, 0⟩ 31 16 < s.domSlots d + count)
  | none => false

/-- A slot is free at every place of a tree. -/
def State.slotFree (s : State) (t : Tree) (σ : Nat) : Bool :=
  t.places.all fun p => !s.placeHeld p ((σ + p.2.1) % 1024)

/-- The order of places in a report (R152). -/
def placeLt (a b : Place) : Bool :=
  decide (a.1 < b.1 ∨ (a.1 = b.1 ∧ (a.2.1 < b.2.1 ∨ (a.2.1 = b.2.1 ∧
    (a.2.2.1 < b.2.2.1 ∨ (a.2.2.1 = b.2.2.1 ∧ a.2.2.2.1 < b.2.2.2.1))))))

/-- The nearest place that refused a target slot: router and LINK code.  Where no place refused it, this same command
having chosen it already, the spec names none: both read 0 (R152; DESIGN CHOICE, log entry 90). -/
def State.refusing (s : State) (t : Tree) (σ : Nat) : Nat × Nat :=
  let bad := t.places.filter fun p => s.placeHeld p ((σ + p.2.1) % 1024)
  match bad.foldl (fun (m : Option Place) p => match m with
      | some a => some (if placeLt p a then p else a)
      | none => some p) none with
  | some p => (p.2.2.1, p.2.2.2.1)
  | none => (0, 0)

/-- The allocation of R152: the slots, or the target slot that failed. -/
def State.allocate (s : State) (t : Tree) (start count : Nat) : Except Nat (List Nat) :=
  (List.range count).foldlM
    (fun (chosen : List Nat) i =>
      let target := (start + i * 1024 / count) % 1024
      match (List.range 1024).find? fun k =>
          let σ := (target + k) % 1024
          !chosen.contains σ && s.slotFree t σ with
      | some k => .ok (chosen ++ [(target + k) % 1024])
      | none => .error target) []

/-- RESERVE or PREPARE after the state checks. -/
def State.rsvTake (s : State) (stream : Nat) (prep : Option Nat) : State :=
  let t := s.stagedTree
  let count := s.fld ⟨.rsvSlots, 0, 0⟩ 9 0
  let code := s.descriptorCode t count
  if code ≠ 0 then s.rsvDone code 0 0 0
  else if s.overSlots stream count then s.rsvDone 2 0 0 0
  else match s.allocate t (s.fld ⟨.rsvSlots, 0, 0⟩ 25 16) count with
  | .ok slots =>
    let t := { t with slots }
    (match prep with
    | none => s.setTree stream (some t)
    | some set => s.modStream stream fun x => { x with prep := some { set, tree := some t } }).rsvDone 0 0 0 slots.length
  | .error σ => s.rsvDone 1 (s.refusing t σ).1 (s.refusing t σ).2 0

/-- The streams with a prepared change of a set that has not taken effect. -/
def State.setMembers (s : State) (set : Nat) : List Nat :=
  (s.streams.filter fun e => e.2.prep.any fun p => p.set == set).map (·.1)

/-- A swap set is applied: each change waits for the stream's next SOP (R154). -/
def State.applySwap (s : State) (set : Nat) : State :=
  (s.setMembers set).foldl
    (fun (s : State) n => s.modStream n fun x => { x with prep := x.prep.map fun p => { p with applied := true } }) s

/-- A swap set is discarded, changes already applied that wait for their SOP with it (R154). -/
def State.discardSwap (s : State) (set : Nat) : State :=
  (s.setMembers set).foldl (fun (s : State) n => s.modStream n fun x => { x with prep := none }) s

/-- One command of the engine on the staged descriptor (R153, R154, R165). -/
def State.rsvRun (s : State) (op set : Nat) : State :=
  let stream := s.fld ⟨.rsvStream, 0, 0⟩ 13 0
  let x := s.stream stream
  match op with
  | 0 => if x.tree.isSome then s.rsvDone 4 0 0 0 else s.rsvTake stream none
  | 1 => if x.tree.isNone then s.rsvDone 4 0 0 0
      else if x.prep.isSome || s.setArmed set then s.rsvDone 5 0 0 0
      else s.rsvTake stream (some set)
  | 2 => if x.tree.isNone then s.rsvDone 4 0 0 0
      else if x.prep.any fun p => s.setArmed p.set then s.rsvDone 5 0 0 0
      else ((s.setTree stream none).streamFlow stream).rsvDone 0 0 0 0
  | 3 => if x.tree.isNone then s.rsvDone 4 0 0 0
      else if x.prep.isSome || s.setArmed set then s.rsvDone 5 0 0 0
      else (s.modStream stream fun x => { x with prep := some { set, tree := none } }).rsvDone 0 0 0 0
  | 4 => if s.setArmed set then s.rsvDone 5 0 0 0 else (s.applySwap set).rsvDone 0 0 0 0
  | _ => if s.setArmed set then s.rsvDone 5 0 0 0 else (s.discardSwap set).rsvDone 0 0 0 0

/-- A write of TRAY_RSV_CMD (R165, R467): SET and OP are stored, and GO runs an OP that the same write names. -/
def State.writeRsvCmd (s : State) (v : Word) : State :=
  s.goWrite ⟨.rsvCmd, 0, 0⟩ v fun s =>
    if s.inHold then s.rsvDone 5 0 0 0 else s.rsvRun (bits v 3 0) (bits v 7 4)

/-- The word of TRAY_RSV_CMD that starts an OP on a set. -/
def rsvWord (op set : Nat) : Word := packBits [(31, 31, 1), (7, 4, set), (3, 0, op)]

/-- The write of TRAY_RSV_CMD that each command of the engine is. -/
def State.rsvCommand (s : State) (m op : Nat) (set : Fin 16) : Host.Outcome State Fault Refusal :=
  s.writeCommand m ⟨.rsvCmd, 0, 0⟩ (rsvWord op set.val) fun s => s.writeRsvCmd (rsvWord op set.val)

/-- RESERVE (R151, R152). -/
def execReserve (m : Nat) (set : Fin 16) (s : State) : Host.Outcome State Fault Refusal := s.rsvCommand m 0 set

/-- PREPARE (R154). -/
def execPrepareTree (m : Nat) (set : Fin 16) (s : State) : Host.Outcome State Fault Refusal := s.rsvCommand m 1 set

/-- RELEASE (R154). -/
def execRelease (m : Nat) (set : Fin 16) (s : State) : Host.Outcome State Fault Refusal := s.rsvCommand m 2 set

/-- PREPARE_RELEASE (R154). -/
def execPrepareRelease (m : Nat) (set : Fin 16) (s : State) : Host.Outcome State Fault Refusal := s.rsvCommand m 3 set

/-- APPLY_SET (R154). -/
def execApplySet (m : Nat) (set : Fin 16) (s : State) : Host.Outcome State Fault Refusal := s.rsvCommand m 4 set

/-- DISCARD_SET (R154). -/
def execDiscardSet (m : Nat) (set : Fin 16) (s : State) : Host.Outcome State Fault Refusal := s.rsvCommand m 5 set

/-- STREAM_TREE_SWITCH (R154): an SOP with no earlier flit before it. -/
def execStreamTreeSwitch (stream : Fin 16384) (s : State) : Host.Outcome State Fault Refusal :=
  s.whenServing fun s =>
    if ((s.stream stream.val).prep.any (·.applied)) && (s.stream stream.val).wait.isEmpty then s.sourceSop stream.val else s

/-- A write of TRAY_SENT for a stream, through window w (R149). -/
def State.writeStreamDomain (s : State) (w stream : Nat) (v : Word) : State :=
  let d := bits v 7 0
  let k : RegKey := ⟨.traySent, stream, 0⟩
  if (s.stream stream).tree.isSome ∨ s.fld k 7 0 = d then s
  else if !s.domainExists d then s.setFlag ⟨.traySsel, 0, w⟩ 31 true
  else
    let held := (s.regs.filter fun e => e.1.name == .traySent && bits e.2 7 0 == d).length
    match tenantOf d with
    | some n => if s.fld ⟨.traySbudget, n, 0⟩ 15 0 < held + 1 then s.setFlag ⟨.traySsel, 0, w⟩ 31 true
        else s.setFld k 7 0 d
    | none => s.setFld k 7 0 d

/-- STREAM_DOMAIN_WRITE (R149): TRAY_SENT of the stream that the writer's TRAY_SSEL selects. -/
def execStreamDomainWrite (m : Nat) (v : Word) (s : State) : Host.Outcome State Fault Refusal :=
  let w := windowOf ((s.midDomain m).getD 0)
  let stream := s.fld ⟨.traySsel, 0, w⟩ 13 0
  s.writeCommand m ⟨.traySent, stream, 0⟩ v fun s => s.writeStreamDomain w stream v

/-- STREAM_SILENCE_TIMEOUT (R155). -/
def execStreamSilenceTimeout (stream : Fin 16384) (d : Fin 64) (s : State) : Host.Outcome State Fault Refusal :=
  s.whenServing fun s =>
    let x := s.stream stream.val
    match look x.lastSop d.val with
    | some t =>
      if nget x.dstState d.val 0 = 2 ∧ s.silenceTicks ≠ 0 ∧ t + s.silenceTicks ≤ s.tick then
        s.setDst stream.val d.val 3
      else s
    | none => s

/-- DEGRADED_CLEAR (R196, R363): 1 ms after the last discard. -/
def execDegradedClear (stream : Fin 16384) (s : State) : Host.Outcome State Fault Refusal :=
  s.whenServing fun s =>
    match (s.stream stream.val).degradedAt with
    | some t => if t + msTicks 1 ≤ s.tick then s.undegrade stream.val else s
    | none => s

/-! ### Queue grants (R141, R165) -/

/-- The queue a grant word names. -/
def grantQueue (w : Word) : QRef :=
  let c : Fin 192 := Fin.ofNat 192 (bits w 23 16)
  let n : Fin 8 := Fin.ofNat 8 (bits w 26 24)
  if bit w 30 then .egress c n else .ingress c n

/-- A grant that an entry gave ends, unless another entry still gives it. -/
def State.endGrant (s : State) (w : Word) : State :=
  if bit w 31 && !s.queueGranted (bits w 7 0) (grantQueue w) then s.closeFor (grantQueue w) (bits w 7 0) else s

/-- A write of TRAY_QG for the entry that TRAY_QGSEL selects (R165). -/
def State.writeQueueGrant (s : State) (v : Word) : State :=
  let k : RegKey := ⟨.trayQg, s.fld ⟨.trayQgsel, 0, 0⟩ 7 0, 0⟩
  if 191 < bits v 23 16 ∨ inRange 0x10 0x4F (bits v 7 0) = false then s
  else (s.plainWrite k v).endGrant (s.reg k)

/-- QUEUE_GRANT_WRITE (R141). -/
def execQueueGrantWrite (m : Nat) (v : Word) (s : State) : Host.Outcome State Fault Refusal :=
  s.writeCommand m ⟨.trayQg, s.fld ⟨.trayQgsel, 0, 0⟩ 7 0, 0⟩ v fun s => s.writeQueueGrant v

/-- Clears EN of every grant that names a cup or a grantee domain, and closes what they hold open (R141). -/
def State.endGrants (s : State) (p : Word → Bool) : State :=
  (List.range 256).foldl
    (fun (s : State) e =>
      let k : RegKey := ⟨.trayQg, e, 0⟩
      let w := s.reg k
      if bit w 31 && p w then (s.setFlag k 31 false).endGrant w else s) s

end Sys2Proof.Machine
end

