-- ==== Sys2Proof/Machine/Hbm.lean ====
section
/-! DEFINITION. HBM: the address map (R237), the line code (R266 to R270), the cipher and the tag (R284, R285), the
rights check (R279), the tray cache (R261, R262, R264), and reads and writes of HBM (R274, R275). -/

namespace Sys2Proof.Machine

/-! ### The address map (R29, R237) -/

/-- Bytes of a stack and of a pseudo-channel. -/
def stackBytes : Nat := 0x900000000
def pchBytes : Nat := 0x48000000

/-- The stack of an address. -/
def stackOf (a : Nat) : Nat := a / stackBytes

/-- The first pseudo-channel and the size of the channel group that holds pseudo-channel position h (R237). -/
def State.groupOf (s : State) (st h : Nat) : Nat × Nat :=
  let w := s.reg ⟨.stkCgStart, st, 0⟩
  let b := ((List.range (h + 1)).filter fun i => bit w i || i == 0).getLastD 0
  let e := ((List.range 32).find? fun i => decide (b < i) && bit w i).getD 32
  (b, e - b)

/-- The interleaving granularity G. -/
def State.gran (s : State) (st : Nat) : Nat :=
  match s.fld ⟨.stkCgCfg, st, 0⟩ 1 0 with
  | 0 => 256
  | 1 => 1024
  | _ => 4096

/-- The pseudo-channel of an address, as 32s + h, and the address within it (R237). -/
def State.pchAddr (s : State) (a : Nat) : Nat × Nat :=
  let st := stackOf a
  let o := a % stackBytes
  let (b, n) := s.groupOf st (o / pchBytes)
  let g := s.gran st
  let chunk := (o - b * pchBytes) / g
  (32 * st + b + chunk % n, chunk / n * g + (o - b * pchBytes) % g)

/-- The pseudo-channel of an address, as 32s + h. -/
def State.pchOf (s : State) (a : Nat) : Nat := (s.pchAddr a).1

/-- Where line n of the HBM lies among the lines of all pseudo-channels (R237). -/
def State.lineCell (s : State) (n : Nat) : Nat :=
  let p := s.pchAddr (64 * n)
  p.1 * (pchBytes / 64) + p.2 / 64

/-- The line of the HBM that lies at such a place. -/
def State.cellLine (s : State) (c : Nat) : Nat :=
  let x := c / (pchBytes / 64)
  let addr := c % (pchBytes / 64) * 64
  let (b, n) := s.groupOf (x / 32) (x % 32)
  let g := s.gran (x / 32)
  ((x / 32) * stackBytes + b * pchBytes + ((addr / g) * n + (x % 32 - b)) * g + addr % g) / 64

/-- A pseudo-channel is retired. -/
def State.pchRetired (s : State) (x : Nat) : Bool := s.fld ⟨.pchStat, x, 0⟩ 31 30 == 3

/-- The channel group of an address has a retired member, so every address of it answers RETIRED (R259). -/
def State.groupRetired (s : State) (a : Nat) : Bool :=
  let st := stackOf a
  let (b, n) := s.groupOf st (a % stackBytes / pchBytes)
  (List.range n).any fun i => s.pchRetired (32 * st + b + i)

/-! ### The line code RS(72,68) (R267) -/

/-- Multiplication in GF(2⁸) modulo x⁸ + x⁴ + x³ + x² + 1. -/
def gfMul (a b : Byte) : Byte :=
  ((List.range 8).foldl
    (fun (e : Byte × Byte) i =>
      (if b.getLsbD i then e.1 ^^^ e.2 else e.1,
       if e.2.getLsbD 7 then (e.2 <<< 1) ^^^ 0x1D#8 else e.2 <<< 1)) (0#8, a)).1

/-- α to a power. -/
def gfExp : Nat → Byte
  | 0 => 1
  | n + 1 => gfMul (gfExp n) 2

/-- A power. -/
def gfPow (a : Byte) : Nat → Byte
  | 0 => 1
  | n + 1 => gfMul (gfPow a n) a

/-- The inverse, a²⁵⁴. -/
def gfInv (a : Byte) : Byte := gfPow a 254

/-- The generator (x − 1)(x − α)(x − α²)(x − α³) without its leading term, coefficients of x³ down to x⁰. -/
def rsGen : List Byte :=
  let mulRoot (p : List Byte) (r : Byte) : List Byte :=
    -- p holds the coefficients of a monic polynomial below its leading term, highest first
    let full := (1 : Byte) :: p
    (List.range full.length).map fun i => (full.getD (i + 1) 0) ^^^ gfMul r (full.getD i 0)
  (List.range 4).foldl (fun p j => mulRoot p (gfExp j)) []

/-- Check bytes of 68 message bytes: the remainder of the message × x⁴ modulo the generator. -/
def rsCheck (msg : List Byte) : List Byte :=
  msg.foldl
    (fun (r : List Byte) b =>
      let f := b ^^^ r.getD 0 0
      (List.range 4).map fun i => (r.getD (i + 1) 0) ^^^ gfMul f (rsGen.getD i 0)) [0, 0, 0, 0]

/-- Syndrome j of a stored line: its value at α to the j. -/
def rsSyn (line : List Byte) (j : Nat) : Byte := line.foldl (fun r b => gfMul r (gfExp j) ^^^ b) 0

/-- What the decoder makes of a stored line. -/
inductive RsRes where
  | clean
  | fixed (line : List Byte) (pos : List Nat)
  | bad
  deriving DecidableEq, Repr

/-- Adds errors at stored bytes. -/
def addErr (line : List Byte) (es : List (Nat × Byte)) : List Byte :=
  es.foldl (fun l e => l.set e.1 (l.getD e.1 0 ^^^ e.2)) line

/-- The decoder: no error, one or two bad bytes corrected, or uncorrectable (R270). -/
def rsDecode (line : List Byte) : RsRes :=
  let s0 := rsSyn line 0
  let s1 := rsSyn line 1
  let s2 := rsSyn line 2
  let s3 := rsSyn line 3
  let loc (n : Nat) : Byte := gfExp (71 - n)
  if s0 = 0 ∧ s1 = 0 ∧ s2 = 0 ∧ s3 = 0 then .clean
  else match (List.range 72).find? fun n =>
      s0 != 0 && gfMul s0 (loc n) == s1 && gfMul s1 (loc n) == s2 && gfMul s2 (loc n) == s3 with
  | some n => .fixed (addErr line [(n, s0)]) [n]
  | none =>
    let det := gfMul s1 s1 ^^^ gfMul s0 s2
    if det = 0 then .bad
    else
      let inv := gfInv det
      let a := gfMul (gfMul s1 s2 ^^^ gfMul s0 s3) inv
      let b := gfMul (gfMul s2 s2 ^^^ gfMul s1 s3) inv
      let roots := (List.range 72).filter fun n =>
        let x := loc n
        gfMul x x ^^^ gfMul a x ^^^ b == 0
      match roots with
      | [n, m] =>
        let x1 := loc n
        let x2 := loc m
        let e1 := gfMul (s1 ^^^ gfMul s0 x2) (gfInv (x1 ^^^ x2))
        .fixed (addErr line [(n, e1), (m, s0 ^^^ e1)]) [n, m]
      | _ => .bad

/-! ### Stored lines (R266, R269) -/

/-- Byte b of the poison pattern, which is also what a stored line that nothing has written reads as (log entry 15). -/
def poisonByte (b : Nat) : Byte := if b < 68 then 0x00 else 0x5A

/-- The poison pattern. -/
def poisonLine : List Byte := (List.range 72).map poisonByte

/-- What a stored byte that is not listed reads as. -/
def hbmDefault (k : Nat) : Byte := poisonByte (k % 72)

/-- One stored byte. -/
def State.cell (s : State) (k : Nat) : Byte := nget s.hbm k (hbmDefault k)

/-- Stores a byte; a byte equal to what an unlisted one reads as is not listed. -/
def State.setCell (s : State) (k : Nat) (b : Byte) : State := { s with hbm := nput s.hbm k b (hbmDefault k) }

/-- A stored line of 72 bytes: line n of the whole HBM, in the cells that the channel map gives it (R237). -/
def State.stored (s : State) (n : Nat) : List Byte :=
  let c := s.lineCell n
  (List.range 72).map fun b => s.cell (72 * c + b)

/-- Stores 72 bytes in the cells from place c on. -/
def State.fillCells (s : State) (c : Nat) (line : List Byte) : State :=
  (List.range 72).foldl (fun (s : State) b => s.setCell (72 * c + b) (line.getD b 0)) s

/-- The row that a bank still holds open (R242): under the idle timer none once IDLE tray cycles have passed. -/
def State.openRow (s : State) (x : Nat) (e : BankSt) : Option Nat :=
  if s.flag ⟨.pchCtl, x, 0⟩ 31 = false ∧ e.lastAt + s.fld ⟨.pchCtl, x, 0⟩ 15 0 ≤ s.trayCycle then none else e.row

/-- The predictor's counter after an access to row r (R242): a hit counts up, a conflict down. -/
def BankSt.count (e : BankSt) (isOpen : Option Nat) (r : Nat) : Nat :=
  match isOpen with
  | some r' => if r' = r then min 3 (e.ctr + 1) else e.ctr - 1
  | none => e.ctr

/-- The rows of a pseudo-channel that its idle timer has closed are closed for good, before its policy changes (R242). -/
def State.settleRows (s : State) (x : Nat) : State :=
  let close (e : Nat × BankSt) : Nat × BankSt := (e.1, { e.2 with row := s.openRow x e.2 })
  { s with banks := s.banks.map fun e => if e.1 = x then (x, e.2.map close) else e }

/-- A request held at the controller waits for a row of a bank. -/
def State.rowQueued (s : State) (x b r : Nat) : Bool :=
  s.hbmHeld.any fun h => (List.range ((h.addr + h.len - 1) / 64 - h.addr / 64 + 1)).any fun i =>
    let p := s.pchAddr (64 * (h.addr / 64 + i))
    p.1 == x && Config.bankRow p.2 == (b, r)

/-- An access to line n at its pseudo-channel, by the page policy (R242). -/
def State.accessRow (s : State) (n : Nat) : State :=
  let p := s.pchAddr (64 * n)
  let (b, r) := Config.bankRow p.2
  let l := nget s.banks p.1 []
  let e := nget l b {}
  let predict := s.flag ⟨.pchCtl, p.1, 0⟩ 31
  let ctr := if predict then e.count (s.openRow p.1 e) r else e.ctr
  let keep := !predict || decide (2 ≤ ctr) || s.rowQueued p.1 b r
  { s with banks := nset s.banks p.1 (nset l b { row := if keep then some r else none, ctr, lastAt := s.trayCycle }) }

/-- After training every counter of a pseudo-channel starts at 10 again (R242), and no row of its map is open (R235). -/
def State.trainBanks (s : State) (x : Nat) : State := { s with banks := erase s.banks x }

/-- Stores a line. -/
def State.store (s : State) (n : Nat) (line : List Byte) : State := (s.accessRow n).fillCells (s.lineCell n) line

/-- Writes the poison pattern into lines lo to hi (R269). -/
def State.poisonLines (s : State) (lo hi : Nat) : State :=
  { s with hbm := s.hbm.filter fun e => decide (s.cellLine (e.1 / 72) < lo ∨ hi < s.cellLine (e.1 / 72)) }

/-- A line treated as the poison pattern: at most 2 bytes differ from it (R269). -/
def nearPoison (line : List Byte) : Bool :=
  decide (((List.range 72).filter fun b => line.getD b 0 != poisonByte b).length ≤ 2)

/-! ### The cipher and the tag (R284, R285) -/

/-- Multiplication by x in GF(2¹²⁸) modulo x¹²⁸ + x⁷ + x² + x + 1. -/
def gf128Dbl (a : BitVec 128) : BitVec 128 := if a.getLsbD 127 then (a <<< 1) ^^^ 0x87#128 else a <<< 1

/-- Multiplication in that field. -/
def gf128Mul (a b : BitVec 128) : BitVec 128 :=
  ((List.range 128).foldl
    (fun (e : BitVec 128 × BitVec 128) i => (if b.getLsbD i then e.1 ^^^ e.2 else e.1, gf128Dbl e.2)) (0#128, a)).1

/-- 16 bytes as a block, byte 0 least significant. -/
def blockAt (bs : List Byte) (j : Nat) : BitVec 128 := BitVec.ofNat 128 (numAt bs (16 * j) 16)

/-- The sequence number i of a line of generation g at line number n. -/
def unitNo (g n : Nat) : BitVec 128 := BitVec.ofNat 128 (g * 2 ^ 64 + n)

/-- XTS-AES-256 of one data unit of 64 bytes, with the block cipher or its inverse. -/
def xts (f : BitVec 256 → BitVec 128 → BitVec 128) (k1 k2 : BitVec 256) (i : BitVec 128) (bs : List Byte) : List Byte :=
  ((List.range 4).foldl
    (fun (e : List Byte × BitVec 128) j =>
      (e.1 ++ leBytes 16 (f k1 (blockAt bs j ^^^ e.2) ^^^ e.2).toNat, gf128Dbl e.2)) ([], aesEnc k2 i)).1

/-- The hash key under K2. -/
def hashKey (k2 : BitVec 256) : BitVec 128 := aesEnc k2 (BitVec.ofNat 128 (2 ^ 120))

/-- The tag of a ciphertext (R285). -/
def lineTag (k2 : BitVec 256) (i : BitVec 128) (ct : List Byte) : Nat :=
  let h := hashKey k2
  let y := (List.range 4).foldl (fun y j => gf128Mul (y ^^^ blockAt ct j) h) 0#128
  let y := gf128Mul (y ^^^ i) h
  let y := BitVec.ofNat 128 (y.toNat % 2 ^ 120 + 2 * 2 ^ 120)
  (aesEnc k2 y).toNat % 2 ^ 32

/-- The codeword of 64 ciphertext bytes and a tag. -/
def codeword (ct : List Byte) (tag : Nat) : List Byte :=
  let msg := slice ct 0 64 ++ leBytes 4 tag
  msg ++ rsCheck msg

/-! ### Ranges (R276, R279, R280, R288) -/

/-- The range that holds an address, in any state but FREE. -/
def State.rangeAt (s : State) (a : Nat) : Option Nat :=
  (List.range 80).find? fun r =>
    s.rangeState r != 0 && inRange (s.range r).base (s.range r).limit (a / 2 ^ 21)

/-- The first and last line of a range. -/
def State.rangeLines (s : State) (r : Nat) : Nat × Nat :=
  ((s.range r).base * 32768, (s.range r).limit * 32768 + 32767)

/-- Generation and keys of a line of a range (R288). -/
def State.lineKeys (s : State) (r n : Nat) : Nat × BitVec 256 × BitVec 256 :=
  let x := s.range r
  if s.rangeState r = 3 ∧ n < x.ptr then (x.gen + 1, x.n1, x.n2) else (x.gen, x.k1, x.k2)

/-- The rights check at the controller entry (R279): the range, where the request passes. -/
def State.hbmRight (s : State) (d a : Nat) (wr : Bool) : Option Nat :=
  match s.rangeAt a with
  | some r =>
    let st := s.rangeState r
    if (st = 2 ∨ st = 3) ∧ (s.rangeRights r d).testBit (if wr then 1 else 0) = true then some r else none
  | none => none

/-- A pair of keys that R278 admits: K1 and K2 differ and the hash key is not zero. -/
def keysOk (p : BitVec 256 × BitVec 256) : Bool := p.1 != p.2 && hashKey p.2 != 0

/-- Draws a pair of keys, again until R278 admits it; `keysOk` also holds of the pair taken should 64 draws in a row be
refused (log entry 5). -/
def State.newKeys (s : State) : State × BitVec 256 × BitVec 256 :=
  let draws := (List.range 64).map fun i =>
    (Config.randomKey (s.freeCtr + 2 * i), Config.randomKey (s.freeCtr + 2 * i + 1))
  ({ s with freeCtr := s.freeCtr + 128 }, (draws.find? keysOk).getD (1, 0))

/-! ### Corrections and uncorrectable reads (R271 to R273) -/

/-- A correction enters the bucket of a pseudo-channel (R273). -/
def State.bucketHit (s : State) (x : Nat) : State :=
  let k : RegKey := ⟨.infPchStat, x, 0⟩
  let s := s.countUp ⟨.infPchCecnt, x, 0⟩ 31 0
  if s.fld k 15 0 < s.fld ⟨.infBktCfg, x / 32, 0⟩ 31 16 then s.setFld k 15 0 (s.fld k 15 0 + 1)
  else if s.flag k 31 then s.countUp ⟨.infPchOvfcnt, x, 0⟩ 15 0
  else (s.setFlag k 31 true).raiseEvent (0x600 + x) 1 [0x01] []

/-- A correction of a read of line n: the log, then the bucket (R272, R273).  `src`: 0 read, 1 fetch, 2 scrub,
3 sweep. -/
def State.correction (s : State) (n dom src : Nat) (pos : List Nat) : State :=
  let x := s.pchOf (64 * n)
  let w1 := packBits [(31, 31, 1), (27, 20, dom), (19, 13, (pos[1]?).getD 0x7F), (12, 6, (pos[0]?).getD 0),
    (5, 4, pos.length), (3, 2, src), (1, 0, n / 2 ^ 32)]
  (s.modPch x fun p => { p with log := ((BitVec.ofNat 32 n, w1, s.tick) :: p.log).take 32 }).bucketHit x

/-- A tagged read answered UNCORRECTABLE (R271). -/
def State.ueRead (s : State) (n : Nat) : State :=
  let x := s.pchOf (64 * n)
  let r := s.rangeAt (64 * n)
  let owner := (r.map fun r => (s.range r).owner).getD 0x01
  (s.countUp ⟨.infPchStat, x, 0⟩ 30 16).raiseEvent (0x600 + x) 2 [owner] (leBytes 5 (64 * n) ++ leBytes 1 (r.getD 0))

/-! ### Storing a line -/

/-- n distinct stored bytes with errors, their places and values open (R401; log entry 2). -/
def freeErrors : Nat → Nat → List Nat → List (Nat × Byte)
  | 0, _, _ => []
  | k + 1, ctr, left =>
    let i := Config.freeNat ctr % left.length
    (left.getD i 0, BitVec.ofNat 8 (1 + Config.freeNat (ctr + 1) % 255)) :: freeErrors k (ctr + 2) (left.eraseIdx i)

/-- Stores a codeword in a stack, with the errors injected for its next stored line (R401). -/
def State.storeCode (s : State) (n : Nat) (ct : List Byte) (tag : Nat) : State :=
  let st := stackOf (64 * n)
  let x := s.stk st
  let others := x.injLines.filter (· != n)
  if x.injBytes = 0 ∧ x.injTag = false then
    (if x.injLines.contains n then s.modStk st fun x => { x with injLines := others } else s).store n (codeword ct tag)
  else
    let tag := if x.injTag then (tag + 1 + Config.freeNat s.freeCtr % (2 ^ 32 - 1)) % 2 ^ 32 else tag
    let es := freeErrors x.injBytes (s.freeCtr + 1) (List.range 72)
    let s := { s with freeCtr := s.freeCtr + 11 }
    (s.modStk st fun x => { x with injBytes := 0, injTag := false, injLines := n :: others }).store n (addErr (codeword ct tag) es)

/-- The number of a counter at which a re-key sweep starts (R287). -/
def rekeyAt : Nat := 2 ^ 40 - 2 ^ 32

/-- What the re-key lease of a range in a stack holds: the stack, for this range (R290, R394). -/
def sweepLease (st r : Nat) : List Resource := [.stack st, .range r]

/-- Starts a sweep: SWEEPING, new keys, PTR at the first line (R288); it takes the lease when it can (R290). -/
def State.startSweep (s : State) (r : Nat) : State :=
  let (s, n1, n2) := s.newKeys
  let lo := (s.rangeLines r).1
  let s := s.modRange r fun x => { x with n1, n2, ptr := lo, wnew := 0, share := s.fld ⟨.infSweep, 0, 0⟩ 7 0 }
  s.setFld ⟨.infRngStat, r, 0⟩ 2 0 3

/-- Counts a line written under the keys of a range (R287, R289, R290). -/
def State.countLine (s : State) (r n : Nat) : State :=
  let x := s.range r
  if s.rangeState r = 3 ∧ n < x.ptr then s.modRange r fun x => { x with wnew := x.wnew + 1 }
  else
    let s := s.modRange r fun x => { x with wcnt := x.wcnt + 1 }
    let c := (s.range r).wcnt
    if s.rangeState r = 2 ∧ rekeyAt ≤ c then
      ((s.startSweep r).leaseTry .rekeySweep (sweepLease (stackOf (64 * n)) r) 0x00).1
    else if s.rangeState r = 3 ∧ c = 2 ^ 40 then
      (s.setFlag ⟨.infRngStat, r, 0⟩ 8 true).raiseEvent (0x780 + r) 0 [(s.range r).owner] []
    else s

/-- Encrypts, tags, codes and stores a line of a range under the generation of its place, counted unless it is part of
a fill. -/
def State.storeLine (s : State) (r n : Nat) (plain : List Byte) : State :=
  let (g, k1, k2) := s.lineKeys r n
  let i := unitNo g n
  let ct := xts aesEnc k1 k2 i plain
  (s.storeCode n ct (lineTag k2 i ct)).countLine r n

/-! ### Self-refresh and integrity halt -/

/-- The event of a dirty cached line that SECDED cannot correct, told to its range's owner; the spec numbers no kind of it
(R264; log entry 69). -/
def State.secdedEvent (s : State) (st line : Nat) : State :=
  let owner := (s.rangeAt (64 * (st * (stackBytes / 64) + line))).map fun r => (s.range r).owner
  s.raiseEvent (0x700 + st) 2 [owner.getD 0x01] []

/-- Writes a cached line back to the stack (R261, R264); one that SECDED cannot correct goes there poisoned. -/
def State.writeBack (s : State) (l : CacheLine) (st : Nat) : State :=
  let n := st * (stackBytes / 64) + l.line
  if l.poison then s.store n poisonLine
  else if l.bad then (s.secdedEvent st l.line).store n poisonLine
  else match s.rangeAt (64 * n) with
    | some r => if s.groupRetired (64 * n) then s else s.storeLine r n l.bytes
    | none => s

/-- Writes back every dirty line of a slice and invalidates the slice (R252). -/
def State.flushSlice (s : State) (st : Nat) : State :=
  let dirty := (s.stk st).cache.filter fun e => e.2.dirty || e.2.poison
  (dirty.foldl (fun (s : State) e => s.writeBack e.2 st) s).modStk st fun x => { x with cache := [] }

/-- A pseudo-channel runs a training stage, and requests to it are held (R256). -/
def State.pchBusy (s : State) (x : Nat) : Bool := (s.pch x).retrain.any fun r => r.active

/-- Entry into self-refresh: the slice is written back, the delays saved (R252). -/
def State.enterSr (s : State) (st : Nat) : State :=
  let s := s.flushSlice st
  let saved := (List.range 1216).map fun i => (i, s.reg ⟨.pchDly, 32 * st + i / 38, i % 38⟩)
  let s := s.modStk st fun x => { x with saved, srTemp := signed 8 (s.fld ⟨.stkTemp, st, 0⟩ 7 0) }
  s.setFld ⟨.stkStat, st, 0⟩ 31 30 2

/-- Exit from self-refresh: the saved delays return, and every pseudo-channel is due a verification read (R253). -/
def State.exitSr (s : State) (st : Nat) : State :=
  let saved := (s.stk st).saved
  let s := saved.foldl (fun (s : State) e => s.setReg ⟨.pchDly, 32 * st + e.1 / 38, e.1 % 38⟩ e.2) s
  let s := (List.range 32).foldl
    (fun (s : State) h => if s.pchRetired (32 * st + h) then s
      else s.modPch (32 * st + h) fun p => { p with verify := true }) s
  (s.setFld ⟨.stkStat, st, 0⟩ 31 30 0).modStk st fun x => { x with saved := [], lastReq := s.tick }

/-- A request reaches a stack: it leaves self-refresh first (R253), and the idle time starts again. -/
def State.touchStack (s : State) (st : Nat) : State :=
  if s.fld ⟨.stkStat, st, 0⟩ 31 30 = 2 then s.exitSr st
  else s.modStk st fun x => { x with lastReq := s.tick }

/-- Integrity halt (R292): transmitters squelch, stacks self-refresh, outstanding requests are abandoned, ERR_N is
driven and a record is written. -/
def State.integrityHalt (s : State) (r n : Nat) : State :=
  let x := s.pchOf (64 * n)
  let g := (s.lineKeys r n).1
  let s := s.raiseEvent 0x003 0 [(s.range r).owner]
    (leBytes 5 (64 * n) ++ leBytes 1 r ++ leBytes 3 g ++ leBytes 1 (x / 32) ++ leBytes 1 (x % 32)) (some 0x0601)
  let s := (List.range 8).foldl
    (fun (s : State) st => if s.fld ⟨.stkStat, st, 0⟩ 31 30 = 2 then s else s.enterSr st) s
  let s := s.haltAll
  { s with phase := .integrity, pins := { s.pins with squelched := true },
           outstanding := [], responses := [], fences := [], heldReqs := [], stalls := [], refusals := [], hbmHeld := [] }

/-- The safe state (R391): fixed logic squelches the transmitters, puts every stack in self-refresh without the work of
firmware, stops clocks and drives ERR_N; the Caddy engine records the cause. -/
def State.enterSafe (s : State) (source cause : Nat) (bytes : List Byte) (thermal : Bool) : State :=
  let s := s.raiseEvent source 0 [] bytes (some cause)
  let s := (List.range 8).foldl (fun (s : State) st => s.setFld ⟨.stkStat, st, 0⟩ 31 30 2) s
  let s := s.haltAll
  { s with phase := .safe thermal, pins := { s.pins with squelched := true, thermTrip := s.pins.thermTrip || thermal } }

/-! ### Reading a stored line (R270) -/

/-- The outcome of a tagged read. -/
inductive LineRes where
  | ok (bytes : List Byte)
  | ue
  | halt
  deriving DecidableEq, Repr

/-- An injection damaged the stored line n (R401). -/
def State.lineInjected (s : State) (n : Nat) : Bool := (s.stk (stackOf (64 * n))).injLines.contains n

/-- A tagged read of a line, whatever damaged it. -/
def State.readLine (s : State) (r n dom src : Nat) : State × LineRes :=
  let line := s.stored n
  let s := s.accessRow n
  if nearPoison line then (s.ueRead n, .ue)
  else
    let (g, k1, k2) := s.lineKeys r n
    let i := unitNo g n
    let tagOk (l : List Byte) : Bool := lineTag k2 i (l.take 64) == numAt l 64 4
    let plain (l : List Byte) : List Byte := xts aesDec k1 k2 i (l.take 64)
    match rsDecode line with
    | .clean =>
      if allZero (line.take 68) then (s.ueRead n, .ue)
      else if tagOk line then (s, .ok (plain line))
      else (s.integrityHalt r n, .halt)
    | .fixed l pos =>
      if allZero (l.take 68) || !tagOk l then (s.ueRead n, .ue)
      else (s.correction n dom src pos, .ok (plain l))
    | .bad => (s.ueRead n, .ue)

/-- A tagged read of line n of range r for a domain; `src` as in R272.  What comes of an injected error carries INJ. -/
def State.taggedRead (s : State) (r n dom src : Nat) : State × LineRes :=
  match (s.setInj (s.str.inj || s.lineInjected n)).readLine r n dom src with
  | (t, res) => (t.setInj s.str.inj, res)

/-- An untagged read of line n, as the patrol scrub makes it (R260, R270). -/
def State.untaggedRead (s : State) (n : Nat) : State :=
  s.injected (s.lineInjected n) fun s =>
  let line := s.stored n
  let s := s.accessRow n
  let st := stackOf (64 * n)
  if nearPoison line then s.countUp ⟨.stkScrub, st, 0⟩ 7 0
  else match rsDecode line with
    | .clean => if allZero (line.take 68) then s.countUp ⟨.stkScrub, st, 0⟩ 7 0 else s
    | .fixed l pos =>
      if allZero (l.take 68) then s.countUp ⟨.stkScrub, st, 0⟩ 7 0
      else (s.store n l).correction n 0x00 2 pos
    | .bad => s.countUp ⟨.stkScrub, st, 0⟩ 7 0

/-! ### The tray cache (R261, R262) -/

/-- The key of a way of the set of a line of the stack. -/
def wayKey (line w : Nat) : Nat := line % 32768 * 16 + w

/-- The way that holds a line of the stack. -/
def StackSt.wayOf (x : StackSt) (line : Nat) : Option Nat :=
  (List.range 16).find? fun w => (look x.cache (wayKey line w)).any fun l => l.line == line

/-- A cached line. -/
def StackSt.hit (x : StackSt) (line : Nat) : Option CacheLine :=
  (x.wayOf line).bind fun w => look x.cache (wayKey line w)

/-- Sets the line a way holds. -/
def StackSt.setWay (x : StackSt) (line w : Nat) (l : CacheLine) : StackSt :=
  { x with cache := nset x.cache (wayKey line w) l }

/-- The tree bits after a use of way w: each node on its path points away from it. -/
def plruTouch (t : BitVec 15) (w : Nat) : BitVec 15 :=
  (List.range 4).foldl
    (fun (t : BitVec 15) d =>
      let node := 2 ^ d - 1 + w / 2 ^ (4 - d)
      let right := w / 2 ^ (3 - d) % 2 == 1
      if right then t &&& ~~~ (1#15 <<< node) else t ||| (1#15 <<< node)) t

/-- The victim among the ways of a mask: each node's bit is followed where both its halves hold such ways. -/
def plruVictim (t : BitVec 15) (mask : Nat) : Nat :=
  ((List.range 4).foldl
    (fun (w : Nat) d =>
      let node := 2 ^ d - 1 + w
      let half (b : Nat) : Bool :=
        (List.range (2 ^ (3 - d))).any fun i => mask.testBit ((2 * w + b) * 2 ^ (3 - d) + i)
      let right := if half 0 && half 1 then t.getLsbD node else half 1
      2 * w + b2n right) 0)

/-- The way mask of a domain in a stack (R262). -/
def State.wayMask (s : State) (st d : Nat) : Nat := s.fld ⟨.stkWaymask, st, slotOf d⟩ 15 0

/-- A use of a way by a domain updates the replacement state if the way is in its mask. -/
def State.useWay (s : State) (st line w d : Nat) : State :=
  if (s.wayMask st d).testBit w then
    s.modStk st fun x => { x with plru := nput x.plru (line % 32768) (plruTouch (nget x.plru (line % 32768) 0) w) 0 }
  else s

/-- The way that a domain's allocation of a line takes: a free one of its mask, else the victim. -/
def State.allocWay (s : State) (st d line : Nat) : Nat :=
  let mask := s.wayMask st d
  let x := s.stk st
  ((List.range 16).find? fun w => mask.testBit w && (look x.cache (wayKey line w)).isNone).getD
    (plruVictim (nget x.plru (line % 32768) 0) mask)

/-- Allocates a line for a domain, writing a dirty victim back; the domain's mask is not empty. -/
def State.allocLine (s : State) (st d : Nat) (l : CacheLine) : State :=
  let w := s.allocWay st d l.line
  let s := match look (s.stk st).cache (wayKey l.line w) with
    | some v => if v.dirty || v.poison then s.writeBack v st else s
    | none => s
  (s.modStk st fun x => x.setWay l.line w l).useWay st l.line w d

/-- Invalidates cached lines without writing back (R263): lines lo to hi of the whole HBM. -/
def State.dropCached (s : State) (lo hi : Nat) : State :=
  let per := stackBytes / 64
  let keep (st : Nat) (c : Nat × CacheLine) : Bool := decide (st * per + c.2.line < lo ∨ hi < st * per + c.2.line)
  { s with stks := s.stks.map (fun e => (e.1, { e.2 with cache := e.2.cache.filter (keep e.1) })) }

/-! ### Reads and writes of HBM -/

/-- A cached line is about to be read (R264): one that SECDED cannot correct is invalidated if clean; if dirty it stays,
poisoned, and an event tells of it. -/
def State.secded (s : State) (st line : Nat) : State :=
  match (s.stk st).wayOf line, (s.stk st).hit line with
  | some w, some l =>
    if !l.bad || l.poison then s
    else if l.dirty then
      (s.modStk st fun x => x.setWay line w { l with bad := false, poison := true }).secdedEvent st line
    else s.modStk st fun x => { x with cache := erase x.cache (wayKey line w) }
  | _, _ => s

/-- The copy of a line in the tray cache, if there is one, takes an error that SECDED cannot correct (R264). -/
def State.spoilCached (s : State) (n : Nat) : State :=
  let st := stackOf (64 * n)
  let line := n % (stackBytes / 64)
  match (s.stk st).wayOf line, (s.stk st).hit line with
  | some w, some l => s.modStk st fun x => x.setWay line w { l with bad := true }
  | _, _ => s

/-- The plaintext of a line for a domain: from the cache, or by a tagged read that `alloc` lets fill the cache. -/
def State.lineGet (s : State) (r n dom src : Nat) (alloc : Bool) : State × LineRes :=
  let st := stackOf (64 * n)
  let line := n % (stackBytes / 64)
  let s := s.secded st line
  match (s.stk st).wayOf line, (s.stk st).hit line with
  | some w, some l =>
    if l.poison then (s, .ue) else (if alloc then s.useWay st line w dom else s, .ok l.bytes)
  | _, _ =>
    match s.taggedRead r n dom src with
    | (s, .ok b) =>
      (if alloc && s.wayMask st dom != 0 then s.allocLine st dom { line, bytes := b, dirty := false } else s, .ok b)
    | (s, e) => (s, e)

/-- Writes a whole line for a domain: into the cache, or to the stack where it may not allocate. -/
def State.linePut (s : State) (r n dom : Nat) (bytes : List Byte) (alloc : Bool) : State :=
  let st := stackOf (64 * n)
  let line := n % (stackBytes / 64)
  match (s.stk st).wayOf line with
  | some w =>
    let s := s.modStk st fun x => x.setWay line w { line, bytes, dirty := true }
    if alloc then s.useWay st line w dom else s
  | none =>
    if alloc && s.wayMask st dom != 0 then s.allocLine st dom { line, bytes, dirty := true }
    else s.storeLine r n bytes

/-- How an HBM access ends. -/
inductive HbmRes where
  | ok (bytes : List Byte)
  | code (c : Code)
  | halted
  deriving DecidableEq, Repr

/-- The lines of an access and the part of each: line number, offset in the line, length, offset in the data. -/
def lineParts (a len : Nat) : List (Nat × Nat × Nat × Nat) :=
  (List.range ((a + len - 1) / 64 - a / 64 + 1)).map fun i =>
    let n := a / 64 + i
    let lo := max a (64 * n)
    let hi := min (a + len) (64 * n + 64)
    (n, lo - 64 * n, hi - lo, lo - a)

/-- Reads from a range whose rights check has passed, `r` its number (R259, R270, R274). -/
def State.rangeRead (s : State) (r dom a len src : Nat) (alloc : Bool) : State × HbmRes :=
  if s.groupRetired a then (s, .code .retired)
  else
    let s := s.touchStack (stackOf a)
    (lineParts a len).foldl
      (fun (e : State × HbmRes) p =>
        match e.2 with
        | .ok acc =>
          match e.1.lineGet r p.1 dom src alloc with
          | (s, .ok b) => (s, .ok (acc ++ slice b p.2.1 p.2.2.1))
          | (s, .ue) => (s, .code .uncorrectable)
          | (s, .halt) => (s, .halted)
        | _ => e) (s, .ok [])

/-- Reads HBM for a domain (R279); `alloc` where the cache may be filled. -/
def State.hbmRead (s : State) (dom a len src : Nat) (alloc : Bool) : State × HbmRes :=
  match s.hbmRight dom a false with
  | none => (s, .code .denied)
  | some r => s.rangeRead r dom a len src alloc

/-- Writes to a range whose rights check has passed (R259, R274, R275): lines in part are fetched first, and an
UNCORRECTABLE one changes nothing. -/
def State.rangeWrite (s : State) (r dom a : Nat) (data : List Byte) (alloc : Bool) : State × HbmRes :=
  if s.groupRetired a then (s, .code .retired)
  else
    let s := s.touchStack (stackOf a)
    let parts := lineParts a data.length
    let fetched := parts.foldl
      (fun (e : State × HbmRes × List (Nat × List Byte)) p =>
        match e.2.1 with
        | .ok _ =>
          if p.2.2.1 = 64 then e
          else match e.1.lineGet r p.1 dom 1 alloc with
          | (s, .ok b) => (s, .ok [], (p.1, b) :: e.2.2)
          | (s, .ue) => (s, .code .uncorrectable, e.2.2)
          | (s, .halt) => (s, .halted, e.2.2)
        | _ => e) (s, .ok [], [])
    match fetched with
    | (s, .ok _, l) =>
      (parts.foldl
        (fun (s : State) p =>
          let new := slice data p.2.2.2 p.2.2.1
          let prev := lookD l p.1 []
          s.linePut r p.1 dom (if p.2.2.1 = 64 then new
            else slice prev 0 p.2.1 ++ new ++ slice prev (p.2.1 + p.2.2.1) (64 - p.2.1 - p.2.2.1)) alloc) s, .ok [])
    | (s, e, _) => (s, e)

/-- Writes HBM for a domain (R279). -/
def State.hbmWrite (s : State) (dom a : Nat) (data : List Byte) (alloc : Bool) : State × HbmRes :=
  match s.hbmRight dom a true with
  | none => (s, .code .denied)
  | some r => s.rangeWrite r dom a data alloc

/-- An extent cut at 4 KiB boundaries, as requests are (R135): address and length of each piece. -/
def pieces (a len : Nat) : List (Nat × Nat) :=
  if len = 0 then [] else
    (List.range ((a + len - 1) / 4096 - a / 4096 + 1)).map fun i =>
      let p := a / 4096 + i
      let lo := max a (4096 * p)
      (lo, min (a + len) (4096 * p + 4096) - lo)

/-- Reads bytes of HBM for an agent that needs them all: none where a right, the cells or the halt forbids it. -/
def State.hbmFetch (s : State) (dom a len : Nat) : State × Option (List Byte) :=
  (pieces a len).foldl
    (fun (e : State × Option (List Byte)) p =>
      match e.2 with
      | some acc =>
        match e.1.hbmRead dom p.1 p.2 0 true with
        | (s, .ok b) => (s, some (acc ++ b))
        | (s, _) => (s, none)
      | none => e) (s, some [])

/-- Writes bytes of HBM for such an agent; false where something forbids it. -/
def State.hbmPut (s : State) (dom a : Nat) (data : List Byte) : State × Bool :=
  (pieces a data.length).foldl
    (fun (e : State × Bool) p =>
      if e.2 then
        match e.1.hbmWrite dom p.1 (slice data (p.1 - a) p.2) true with
        | (s, .ok _) => (s, true)
        | (s, _) => (s, false)
      else e) (s, true)

/-- Reads bytes of a ring for a port, piece by piece (R243). -/
def State.ringRead (s : State) (dom a len : Nat) : State × HbmRes :=
  (pieces a len).foldl
    (fun (e : State × HbmRes) p =>
      match e.2 with
      | .ok acc =>
        match e.1.hbmRead dom p.1 p.2 0 false with
        | (s, .ok b) => (s, .ok (acc ++ b))
        | r => r
      | _ => e) (s, .ok [])

/-- Writes bytes of a ring for a port. -/
def State.ringWrite (s : State) (dom a : Nat) (data : List Byte) : State × HbmRes :=
  (pieces a data.length).foldl
    (fun (e : State × HbmRes) p =>
      match e.2 with
      | .ok _ => e.1.hbmWrite dom p.1 (slice data (p.1 - a) p.2) false
      | _ => e) (s, .ok [])

/-- An access of a domain to line n waits for a training stage: the line is in no cache slice, or unreadable there, and its
pseudo-channel trains, or the cache would write a victim back to one that does (R256). -/
def State.lineWaits (s : State) (dom n : Nat) : Bool :=
  let st := stackOf (64 * n)
  let per := stackBytes / 64
  let x := s.stk st
  if (x.hit (n % per)).any fun l => !l.bad || l.dirty then false
  else s.pchBusy (s.pchOf (64 * n)) ||
    (s.wayMask st dom != 0 && (look x.cache (wayKey (n % per) (s.allocWay st dom (n % per)))).any fun v =>
      (v.dirty || v.poison) && s.pchBusy (s.pchOf (64 * (st * per + v.line))))

/-- Some line of an access waits for a training stage. -/
def State.hbmWaits (s : State) (dom a len : Nat) : Bool := (lineParts a len).any fun p => s.lineWaits dom p.1

/-- Two requests that share a line, which are performed in the order of their acceptance (R240). -/
def HbmReq.meets (h h' : HbmReq) : Bool :=
  decide (h.addr / 64 ≤ (h'.addr + h'.len - 1) / 64 ∧ h'.addr / 64 ≤ (h.addr + h.len - 1) / 64)

/-- A request passes the controller entry (R259, R279); one that has passed it stays passed, whatever rights change since
(R280). -/
def State.hbmTaken (s : State) (h : HbmReq) : Bool :=
  (h.passed || (s.hbmRight h.dom h.addr h.data.isSome).isSome) && !s.groupRetired h.addr

/-- A request that has passed the controller entry waits for a training stage (R256). -/
def State.hbmStays (s : State) (h : HbmReq) : Bool := s.hbmTaken h && s.hbmWaits h.dom h.addr h.len

/-- A request at its lines: one that has passed the check is not checked again (R280). -/
def State.hbmRun (s : State) (h : HbmReq) : State × HbmRes :=
  match h.data, (if h.passed then s.rangeAt h.addr else s.hbmRight h.dom h.addr h.data.isSome) with
  | _, none => (s, .code .denied)
  | some d, some r => s.rangeWrite r h.dom h.addr d true
  | none, some r => s.rangeRead r h.dom h.addr h.len 0 true

/-- The answer to a READ or WRITE request from HBM; a halted device answers nothing (R292). -/
def State.hbmDo (s : State) (h : HbmReq) : State :=
  match s.hbmRun h with
  | (s, .ok b) => s.respond h.mid h.tag .ok b
  | (s, .code .denied) => s.denyTray h.mid h.tag
  | (s, .code c) => s.respond h.mid h.tag c
  | (s, .halted) => s

/-- A request at the controller waits for a training stage, or behind a request that waits and shares a line with it
(R240, R256). -/
def State.hbmReq (s : State) (h : HbmReq) : State :=
  if s.hbmStays h || (s.hbmTaken h && s.hbmHeld.any fun h' => h'.meets h) then
    { s.touchStack (stackOf h.addr) with hbmHeld := s.hbmHeld ++ [{ h with passed := true }] }
  else s.hbmDo h

/-- A READ request at the controller. -/
def State.hbmReadReq (s : State) (m tag dom a len : Nat) : State :=
  s.hbmReq { mid := m, tag, dom, addr := a, len, since := s.trayCycle }

/-- A WRITE request at the controller. -/
def State.hbmWriteReq (s : State) (m tag dom a : Nat) (data : List Byte) : State :=
  s.hbmReq { mid := m, tag, dom, addr := a, len := data.length, data := some data, since := s.trayCycle }

/-- The age limit of a class, in tray cycles (R241). -/
def State.ageLimit (s : State) (st cls : Nat) : Nat := 64 * s.fld ⟨.stkAge, st, 0⟩ (8 * cls - 1) (8 * cls - 8)

/-- The first line of a request lies in a row that its bank holds open (R241). -/
def State.rowHit (s : State) (h : HbmReq) : Bool :=
  let p := s.pchAddr (64 * (h.addr / 64))
  let (b, r) := Config.bankRow p.2
  s.openRow p.1 (nget (nget s.banks p.1 []) b {}) == some r

/-- A request older than the age limit of its class is promoted (R241). -/
def State.promoted (s : State) (h : HbmReq) : Bool :=
  let limit := s.ageLimit (stackOf h.addr) (classOf h.mid)
  limit != 0 && decide (h.since + limit < s.trayCycle)

/-- Where a waiting request stands in its engine's order, least first (R241). -/
def State.hbmRank (s : State) (h : HbmReq) : Nat :=
  if s.promoted h then 0 else 2 * classOf h.mid + b2n (!s.rowHit h)

/-- A held request of a stack can be served, or only if promoted: no training stage holds it, and no older request is to
one of its lines (R240, R256). -/
def State.hbmServable (s : State) (st : Nat) (promotedOnly : Bool) (older : List HbmReq) (h : HbmReq) : Bool :=
  stackOf h.addr == st && !s.hbmStays h && (!promotedOnly || s.promoted h) && !older.any fun h' => h'.meets h

/-- The servable request of least rank among those younger than `older`, the oldest of these (R241). -/
def State.hbmBest (s : State) (st : Nat) (promotedOnly : Bool) (older : List HbmReq) : List HbmReq → Option HbmReq
  | [] => none
  | h :: l =>
    match s.hbmServable st promotedOnly older h, s.hbmBest st promotedOnly (older ++ [h]) l with
    | true, some h' => some (if s.hbmRank h' < s.hbmRank h then h' else h)
    | true, none => some h
    | false, best => best

/-- The request that the engines of a stack serve next among those held (R241). -/
def State.hbmPick (s : State) (st : Nat) (promotedOnly : Bool) : Option HbmReq := s.hbmBest st promotedOnly [] s.hbmHeld

/-- The requests held at a stack are served, as far as its pseudo-channels serve (R241, R256, R259). -/
def State.hbmServe (s : State) (st : Nat) (promotedOnly : Bool) : State :=
  (List.range s.hbmHeld.length).foldl
    (fun (s : State) _ => match s.hbmPick st promotedOnly with
      | some h => { s with hbmHeld := s.hbmHeld.erase h }.hbmDo h
      | none => s) s

/-! ### Agents inside a block (R239) -/

/-- The classes of R239: a request of class LIVE, HIGH, NORM or BULK carries 0, 1, 2 or 3. -/
def highClass : Nat := 1
def normClass : Nat := 2
def bulkClass : Nat := 3

/-- The access of an agent of a class, for a domain, is not accepted yet: a training stage holds one of its lines, a held
request shares a line with it, or its engine has a servable request to serve first (R240, R241, R256).  The agents are the
HCE, the loads, readbacks, scrub and sweeps of the Kettle (BULK), its firmware's own accesses and the debug sessions (HIGH),
and the cores (NORM).  Each is accepted as its command takes effect (log entry 120). -/
def State.agentWaits (s : State) (cls dom a len : Nat) : Bool :=
  len != 0 && (!s.hbmHeld.isEmpty || s.pchs.any fun e => e.2.retrain.any (·.active)) &&
  (s.hbmWaits dom a len || s.hbmHeld.any fun h =>
    h.meets { mid := 0, tag := 0, dom, addr := a, len } ||
    (s.pchOf h.addr == s.pchOf a && !s.hbmStays h && decide (s.hbmRank h ≤ 2 * cls + 1)))

/-- Work of the device's own that waits for such an access: the descriptor of an HCE job (R319), a tenant's creation (R412),
the instruction that a session feeds a core through a window (R423), a comparison of digests (R333, R347). -/
def State.putOff (s : State) (l : Later) : State := { s with later := s.later ++ [l] }

end Sys2Proof.Machine
end

