-- ==== Sys2Proof/Machine/Infuser.lean ====
section
/-! DEFINITION. Key ranges (R276 to R283), re-keying (R287 to R290), buckets (R273) and reads of stored lines (R270). -/

namespace Sys2Proof.Machine

/-- Sets STATUS and CODE of a range's last command (R293). -/
def State.rngStatus (s : State) (r code : Nat) : State :=
  s.setFields ⟨.infRngStat, r, 0⟩ [(31, 30, if code = 0 then 2 else 3), (27, 24, code)]

/-- The owning domain that a range's index allows, which exists (R276, R277). -/
def State.ownerFits (s : State) (r d : Nat) : Bool :=
  if r = 0 then d == 0x00
  else if r ≤ 15 then d == 0x01
  else match tenantOf d with
    | some n => s.tenantExists n
    | none => false

/-- The code that refuses a descriptor, 0 where it is in order (R277). -/
def State.rangeCode (s : State) (r base limit owner : Nat) : Nat :=
  let per := stackBytes / 2 ^ 21
  if limit < base then 6
  else if base / per ≠ limit / per ∨ 8 * per ≤ limit then 1
  else if (List.range 80).any fun o =>
      o != r && s.rangeState o != 0 && decide ((s.range o).base ≤ limit ∧ base ≤ (s.range o).limit) then 2
  else if s.ownerFits r owner then 0 else 3

/-- A range takes its extent and owner, which its registers show (R293), new keys and a rights mask, its cached lines are
dropped and its lines poisoned, for which its stack leaves self-refresh (R253); it is FILLING until the fill is done (R278,
R282). -/
def State.fillRange (s : State) (r base limit owner : Nat) (rights : List Word) : State :=
  let (s, k1, k2) := s.newKeys
  let s := (s.modRange r fun _ => { base, limit, owner, k1, k2 }).touchStack (base * 2 ^ 21 / stackBytes)
  let s := (s.setFld ⟨.infRngBase, r, 0⟩ 18 0 base).setFld ⟨.infRngLimit, r, 0⟩ 18 0 limit
  let s := s.setFld ⟨.infRngCtl, r, 0⟩ 7 0 owner
  let s := (List.range 5).foldl (fun (s : State) w => s.setReg ⟨.infRngRights, r, w⟩ (rights.getD w 0)) s
  let (lo, hi) := s.rangeLines r
  let s := (s.dropCached lo hi).poisonLines lo hi
  s.setFields ⟨.infRngStat, r, 0⟩ [(8, 8, 0), (2, 0, 1)]

/-- The end of a fill: ACTIVE, and the lease ends (R282). -/
def State.fillDone (s : State) (r : Nat) : State :=
  (s.setFld ⟨.infRngStat, r, 0⟩ 2 0 2).leaseDropOn .rekeySweep (.range r)

/-- A fill under its lease, for a domain; the code where the lease is refused (R395). -/
def State.tryFill (s : State) (r base limit owner : Nat) (rights : List Word) (dom : Nat) : State × Nat :=
  match s.leaseTry .rekeySweep (sweepLease (base * 2 ^ 21 / stackBytes) r) dom with
  | (s, true) => (s.fillRange r base limit owner rights, 0)
  | (s, false) => (s, 5)

/-- A range returns to FREE: rights cleared, keys erased, cached lines dropped, its fill or sweep ended (R263, R282). -/
def State.removeRange (s : State) (r : Nat) : State :=
  if s.rangeState r = 0 then s
  else
    let (lo, hi) := s.rangeLines r
    let s := (s.dropCached lo hi).leaseDropOn .rekeySweep (.range r)
    let s := (List.range 5).foldl (fun (s : State) w => s.setReg ⟨.infRngRights, r, w⟩ 0) s
    (s.modRange r fun _ => {}).setFields ⟨.infRngStat, r, 0⟩ [(8, 8, 0), (2, 0, 0)]

/-- One command on a range, for a domain: the state and its CODE (R282). -/
def State.rangeRun (s : State) (r op dom : Nat) : State × Nat :=
  let st := s.rangeState r
  let owner := s.fld ⟨.infRngCtl, r, 0⟩ 7 0
  match op with
  | 2 => (s.removeRange r, 0)
  | 1 =>
    if st = 1 ∨ st = 3 then (s, 4)
    else if st ≠ 0 then (s, 7)
    else
      let base := s.fld ⟨.infRngBase, r, 0⟩ 18 0
      let limit := s.fld ⟨.infRngLimit, r, 0⟩ 18 0
      match s.rangeCode r base limit owner with
      | 0 => s.tryFill r base limit owner [] dom
      | c => (s, c)
  | 3 =>
    if st = 1 ∨ st = 3 then (s, 4)
    else if st = 0 then (s, 7)
    else match s.leaseTry .rekeySweep (sweepLease ((s.range r).base * 2 ^ 21 / stackBytes) r) dom with
      | (s, true) => (s.startSweep r, 0)
      | (s, false) => (s, 5)
  | _ =>
    if st = 1 ∨ st = 3 then (s, 4)
    else if st = 0 then (s, 7)
    else if !s.ownerFits r owner then (s, 3)
    else s.tryFill r (s.range r).base (s.range r).limit owner [] dom

/-- The range that a master's window selects (R293). -/
def State.rngSel (s : State) (m : Nat) : Nat := s.fld ⟨.infRsel, 0, windowOf ((s.midDomain m).getD 0)⟩ 6 0

/-- A write of INF_RNG_CMD that its register refuses a tenant: another's range, or an OP other than REKEY (R293). -/
def State.rngDenied (s : State) (m : Nat) (v : Word) : Bool :=
  let d := (s.midDomain m).getD 0
  let r := s.rngSel m
  (tenantOf d).isSome && (s.rangeState r == 0 || (s.range r).owner != d || bit v 31 && bits v 3 0 != 3)

/-- A command on a range that the Kettle refuses for want of its lease: at once for the owner; for a tenant it runs, GO
reading 1, until the latency of refusals (R293, R415). -/
def State.rngRefused (s : State) (m r : Nat) : State :=
  let st : RegKey := ⟨.infRngStat, r, 0⟩
  let k : RegKey := ⟨.infRngCmd, r, 0⟩
  if s.isTenant m then
    ((s.setFields st [(31, 30, 1), (27, 24, 0)]).setFlag k 31 true).hold m 0 kettleLatency
      (.status [(st, [(31, 30, 3), (27, 24, 5)]), (k, [(31, 31, 0)])])
  else s.rngStatus r 5

/-- A write of INF_RNG_CMD that its register accepts (R282, R293), ignored while GO reads 1 (R467); range 0 is hidden. -/
def State.writeRngCmd (s : State) (m : Nat) (v : Word) : State :=
  let d := (s.midDomain m).getD 0
  let r := s.rngSel m
  let k : RegKey := ⟨.infRngCmd, r, 0⟩
  if r = 0 then s
  else s.goWrite k v fun s =>
    if s.inHold then s.rngStatus r 4
    else match s.rangeRun r (bits v 3 0) d with
    | (s, 5) => s.rngRefused m r
    | (s, c) => s.rngStatus r c

/-- A command on the range that the master's window selects. -/
def State.rngCommand (s : State) (m op : Nat) : Host.Outcome State Fault Refusal :=
  let k : RegKey := ⟨.infRngCmd, s.rngSel m, 0⟩
  let v := packBits [(31, 31, 1), (3, 0, op)]
  s.writeUnless m k v (s.rngDenied m v) fun s => s.writeRngCmd m v

/-- CREATE (R282). -/
def execCreate (m : Nat) (s : State) : Host.Outcome State Fault Refusal := s.rngCommand m 1

/-- REMOVE (R282). -/
def execRemove (m : Nat) (s : State) : Host.Outcome State Fault Refusal := s.rngCommand m 2

/-- REKEY (R282, R287). -/
def execRekey (m : Nat) (s : State) : Host.Outcome State Fault Refusal := s.rngCommand m 3

/-- SET_OWNER (R282). -/
def execSetOwner (m : Nat) (s : State) : Host.Outcome State Fault Refusal := s.rngCommand m 4

/-- A write of INF_RNG_RIGHTS[w] of a range, through a window (R280, R282, R293). -/
def State.writeRights (s : State) (own : Bool) (r w : Nat) (v : Word) : State :=
  let v := if w = 4 then v &&& 0xF else v
  if s.rangeState r = 0 ∨ (own = true ∧ inRange 1 15 r = false) then s else s.setReg ⟨.infRngRights, r, w⟩ v

/-- RANGE_FILL_DONE (R282): a fill whose lease has run out takes it again (R394). -/
def execRangeFillDone (r : Fin 80) (s : State) : Host.Outcome State Fault Refusal :=
  s.whenLive fun s =>
    if s.rangeState r.val ≠ 1 then s
    else if s.leased .rekeySweep (.range r.val) then s.fillDone r.val
    else match s.leaseTry .rekeySweep (sweepLease ((s.range r.val).base * 2 ^ 21 / stackBytes) r.val) 0x00 with
      | (s, true) => s.fillDone r.val
      | (s, false) => s

/-- The end of a sweep (R288). -/
def State.sweepEnd (s : State) (r : Nat) : State :=
  let s := s.modRange r fun x =>
    { x with gen := x.gen + 1, k1 := x.n1, k2 := x.n2, n1 := 0, n2 := 0, wcnt := x.wnew, wnew := 0, ptr := 0 }
  (s.setFields ⟨.infRngStat, r, 0⟩ [(8, 8, 0), (2, 0, 2)]).leaseDropOn .rekeySweep (.range r)

/-- A sweep's pointer moves past line n. -/
def State.sweepPast (s : State) (r n : Nat) : State := s.modRange r fun x => { x with ptr := n + 1 }

/-- One line of a sweep (R288), a request of the Kettle's to the stack (R253). -/
def State.sweepLine (s : State) (r : Nat) : State :=
  let n := (s.range r).ptr
  let st := stackOf (64 * n)
  let s := s.touchStack st
  let line := n % (stackBytes / 64)
  let s := s.secded st line
  let s :=
    if s.groupRetired (64 * n) then s.sweepPast r n
    else match (s.stk st).wayOf line, (s.stk st).hit line with
    | some w, some l =>
      if l.poison then (s.store n poisonLine).sweepPast r n
      else
        let s := s.modStk st fun x => x.setWay line w { l with dirty := false }
        (s.sweepPast r n).storeLine r n l.bytes
    | _, _ => match s.taggedRead r n 0x00 3 with
      | (s, .ok b) => (s.sweepPast r n).storeLine r n b
      | (s, .ue) => (s.store n poisonLine).sweepPast r n
      | (s, .halt) => s
  if (s.rangeLines r).2 < (s.range r).ptr then s.sweepEnd r else s

/-- REKEY_SWEEP_STEP (R249, R288, R290): no step starts while a port of the stack is in panic, nor without the range's own
lease on the stack. -/
def execRekeySweepStep (r : Fin 80) (s : State) : Host.Outcome State Fault Refusal :=
  s.whenLive fun s =>
    let st := stackOf (64 * (s.range r.val).ptr)
    if s.rangeState r.val ≠ 3 ∨ s.stackPanic st = true ∨ s.agentWaits bulkClass 0x00 (64 * (s.range r.val).ptr) 64 = true then s
    else if s.leased .rekeySweep (.range r.val) then s.sweepLine r.val
    else match s.leaseTry .rekeySweep (sweepLease st r.val) 0x00 with
      | (s, true) => s.sweepLine r.val
      | (s, false) => s

/-- The share at which a sweep ends before the old counter reaches 2⁴⁰, at most MAXPCT (R290; log entry 16). -/
def State.neededShare (s : State) (r growth linesPerPct : Nat) : Nat :=
  let x := s.range r
  let left := (s.rangeLines r).2 + 1 - x.ptr
  let top := s.fld ⟨.infSweep, 0, 0⟩ 15 8
  ((List.range (top + 1)).find? fun p =>
    decide (x.share ≤ p ∧ left * growth ≤ (2 ^ 40 - x.wcnt) * p * linesPerPct)).getD (max x.share top)

/-- SWEEP_RATE_CHECK (R290). -/
def execSweepRateCheck (r : Fin 80) (growth linesPerPct : Nat) (s : State) : Host.Outcome State Fault Refusal :=
  s.whenLive fun s =>
    if s.rangeState r.val = 3 then s.modRange r.val fun x => { x with share := s.neededShare r.val growth linesPerPct }
    else s

/-- BUCKET_LEAK (R273). -/
def execBucketLeak (st : Fin 8) (h : Fin 32) (s : State) : Host.Outcome State Fault Refusal :=
  s.whenLive fun s =>
    let x := 32 * st.val + h.val
    let due := (s.pch x).leakBase + msTicks (s.fld ⟨.infBktCfg, st.val, 0⟩ 15 0)
    if due ≤ s.tick then
      let k : RegKey := ⟨.infPchStat, x, 0⟩
      (s.modPch x fun p => { p with leakBase := due }).setFld k 15 0 (s.fld k 15 0 - 1)
    else s

/-- A write of INF_BKT_CFG[s] restarts the leak instants of its stack (R273). -/
def State.writeBucket (s : State) (st : Nat) (v : Word) : State :=
  (List.range 32).foldl (fun (s : State) h => s.modPch (32 * st + h) fun p => { p with leakBase := s.tick })
    (s.plainWrite ⟨.infBktCfg, st, 0⟩ v)

/-- INF_BKT_CFG_WRITE (R273). -/
def execInfBktCfgWrite (m : Nat) (st : Fin 8) (v : Word) (s : State) : Host.Outcome State Fault Refusal :=
  s.writeCommand m ⟨.infBktCfg, st.val, 0⟩ v fun s => s.writeBucket st.val v

/-- LINE_READ (R264, R270): the line suffers `damage`, and the infuser reads its cells: tagged for a domain, or untagged. -/
def execLineRead (addr dom : Nat) (tagged : Bool) (damage : LineDamage) (s : State) :
    Host.Outcome State Fault Refusal :=
  s.whenServing fun s =>
    if 8 * stackBytes ≤ addr then s
    else
      let n := addr / 64
      let c := s.lineCell n
      let s := if damage.cached then s.spoilCached n else s
      let s := damage.cells.foldl
        (fun (s : State) e => s.setCell (72 * c + e.1.val) (s.cell (72 * c + e.1.val) ^^^ e.2)) (s.touchStack (stackOf addr))
      if !tagged then s.untaggedRead n
      else match s.rangeAt addr with
      | some r =>
        if s.rangeState r = 2 ∨ s.rangeState r = 3 then
          match s.taggedRead r n dom 0 with
          | (s, .ok b) => s.log (.line (64 * n) .ok b)
          | (s, .ue) => s.log (.line (64 * n) .uncorrectable [])
          | (s, .halt) => s
        else s
      | none => s

end Sys2Proof.Machine
end

