-- ==== Sys2Proof/Machine/Collector.lean ====
section
/-! DEFINITION. Collectors (R158 to R163, R165): signals and messages, credits, the completion vector, and the
notification. -/

namespace Sys2Proof.Machine

/-! ### Notification (R162) -/

/-- A queue access by its operation, as a 32-byte write makes it; none where the aperture takes no such write. -/
def qWriteAccess (op : QOp) (data : List Byte) : Option QAccess :=
  match op with
  | .opn => some .opn
  | .dat => some (.dat (slotsOf data))
  | .cls => if data.length = 32 then some (.cls (numAt data 0 1) (numAt data 2 2)) else none
  | .drp => some .drp
  | .rd => none

/-- A domain may use a queue's aperture in window `win`, 0 the owner's and n + 1 tenant n's: the owner window passes
domains 0x00 and 0x01 alone (R32), and a tenant's window shows only the tenant's own cups, to those domains, to the tenant
and to a grantee (R31, R140, R141). -/
def State.domQueue (s : State) (d : Nat) (q : QRef) (win : Nat) : Bool :=
  if win = 0 then d == 0x00 || d == 0x01
  else s.tenantExists (win - 1) && (qCup q).any (fun c => s.cupDom c == windowDom win) &&
    (d == 0x00 || d == 0x01 || d == windowDom win || s.queueGranted d q)

/-- The write of COL_STAT to NOTIFY with the collector's owner domain; the normal rights check applies. -/
def State.notify (s : State) (n : Nat) : State :=
  let d := s.fld ⟨.colCfg, n, 0⟩ 7 0
  let a := s.pair ⟨.colNotify, n, 0⟩ ⟨.colNotifyHi, n, 0⟩
  let data := leBytes 32 (s.colStatWord n).toNat
  let fail (s : State) : State := s.setFlag ⟨.colStat, n, 0⟩ 30 true
  match s.target a with
  | .hbm =>
    if 4096 < a % 4096 + 32 then fail s
    else s.hbmReq { mid := 0x400 + n, tag := 0, dom := d, addr := a, len := 32, data := some data, since := s.trayCycle }
  | .owner _ => if d ≤ 0x01 then s else fail s
  | .queue q op win =>
    if a % 32 = 0 ∧ s.domQueue d q win = true ∧ (qCup q).any s.cupGone = false then
      match qWriteAccess op data with
      | some acc => if qWritten q || acc == .drp then s.qDo (0x400 + n) 0 q acc else fail s
      | none => fail s
    else fail s
  | _ => fail s

/-- After a change of the vector or the mask: DONE has risen since state s0, so the collector notifies. -/
def State.colAfter (s s0 : State) (n : Nat) : State :=
  if s.colDone n && !s0.colDone n && s.pair ⟨.colNotify, n, 0⟩ ⟨.colNotifyHi, n, 0⟩ != 0 then s.notify n else s

/-! ### Signals and messages (R159 to R161) -/

/-- The Strainer source of the block that a master belongs to (R170, R384): a cup, a tenant core, a PCI Express controller,
the Kettle, the HCE; for JTAG and the debug sessions the debug unit (log entry 105). -/
def originOf (m : Nat) : Nat :=
  if m < 192 then 0x100 + m
  else if inRange 0x100 0x10F m then 0x800 + (m - 0x100)
  else if inRange 0x200 0x240 m then 0x560
  else if inRange 0x280 0x2C0 m then 0x561
  else if m = 0x180 then 0x818
  else if m = 0x188 then 0x050
  else 0x070

/-- A message that was accepted at the tick of e stands behind it where its origin is higher, or is the same with a higher
index (R170; log entry 105). -/
def insertMsg (l : List ColMsg) (e : ColMsg) : List ColMsg :=
  let after := (l.reverse.takeWhile fun x => x.tick == e.tick && decide (e.src < x.src ∨ e.src = x.src ∧ e.idx < x.idx)).length
  l.take (l.length - after) ++ e :: l.drop (l.length - after)

/-- A completion of master m at index i, with its message where the collector has a queue. -/
def State.complete (s : State) (m n i : Nat) (msg : Option (List Byte)) : State :=
  let s1 := (s.setFlag ⟨.colVec, n, i / 32⟩ (i % 32) true).modCol n fun x => { x with last := some (s.trayCycle, i) }
  let s2 := match msg with
    | some b =>
      let e : ColMsg := { idx := i, src := originOf m, tick := s.tick, bytes := b }
      if s.flag ⟨.colCfg, n, 0⟩ 30 then s1.modCol n fun x => { x with msgs := insertMsg x.msgs e } else s1
    | none => s1
  s2.colAfter s n

/-- The index at which the collector would record a request of master m, none where it is refused (R140, R158, R408). -/
def State.colWould (s : State) (m n : Nat) : Option Nat :=
  match s.midDomain m with
  | none => none
  | some d => if s.lacksToken m || (tenantOf d).any fun t => !s.tenantExists t then none else s.colIndex n m d

/-- A collector request at its collector: accepted and recorded, or DENIED. -/
def State.colAccept (s : State) (m tag n : Nat) (msg : Option (List Byte)) : State :=
  match s.colWould m n with
  | some i => (s.complete m n i msg).respond m tag .ok
  | none => s.denyTray m tag

/-- A collector request reaches its collector: it is pending there to the next tray cycle, for those that become pending in
one tray cycle are accepted in bit-index order (R160; log entry 84); one that no entry matches is DENIED. -/
def State.colReach (s : State) (m tag n : Nat) (msg : Option (List Byte)) : State :=
  if (s.colWould m n).isSome then s.modCol n fun x => { x with queued := x.queued ++ [(m, tag, msg)] }
  else s.denyTray m tag

/-- Of the requests pending at a collector, the one of the lowest index, the earliest of those with one index. -/
def State.colNext (s : State) (n : Nat) : Option (Nat × Nat × Option (List Byte)) :=
  (s.col n).queued.foldl
    (fun (best : Option (Nat × Nat × Option (List Byte))) e => match best with
      | some b => if (s.colWould e.1 n).getD 256 < (s.colWould b.1 n).getD 256 then some e else some b
      | none => some e) none

/-- The collector accepts one of its pending completions, in bit-index order (R160). -/
def State.colServe (s : State) (n : Nat) : State :=
  match s.colNext n with
  | some e => (s.modCol n fun x => { x with queued := x.queued.erase e }).colAccept e.1 e.2.1 n e.2.2
  | none => s

/-- The collectors at a root cycle: each accepts one completion as a tray cycle begins (R160). -/
def State.colCycle (s : State) : State :=
  if s.root % 4 = 0 then s.cols.foldl (fun (s : State) e => s.colServe e.1) s else s

/-- The source has an unpopped message at the collector, so its next message waits in its interface (R161). -/
def State.noCredit (s : State) (m n : Nat) : Bool :=
  match s.midDomain m with
  | some d => match s.colIndex n m d with
    | some i => ((s.col n).msgs.any fun e => e.idx == i) || (s.col n).queued.any fun e => e.1 == m && e.2.2.isSome
    | none => false
  | none => false

/-- A collector request as its source's interface sends it: behind an earlier one that waits, or for a credit. -/
def State.colSend (s : State) (m tag n : Nat) (msg : Option (List Byte)) : State :=
  if ((s.col n).waiting.any fun e => e.1 == m) || (msg.isSome && s.noCredit m n) then
    s.modCol n fun x => { x with waiting := x.waiting ++ [(m, tag, msg)] }
  else s.colReach m tag n msg

/-- Sends again every request that waits at a collector, in order. -/
def State.colRelease (s : State) (n : Nat) : State :=
  (s.col n).waiting.foldl (fun (s : State) e => s.colSend e.1 e.2.1 n e.2.2)
    (s.modCol n fun x => { x with waiting := [] })

/-- SIGNAL (R159). -/
def execSignal (m tag : Nat) (n : Fin 64) (s : State) : Host.Outcome State Fault Refusal :=
  s.whenLive fun s => s.request m tag .write (.signal n.val) fun s => s.colSend m tag n.val none

/-- MESSAGE (R159, R161): 32 bytes; any other length is DENIED. -/
def execMessage (m tag : Nat) (n : Fin 64) (bytes : List Byte) (s : State) : Host.Outcome State Fault Refusal :=
  s.whenLive fun s =>
    if bytes.length = 32 then s.request m tag .write (.message n.val bytes) fun s => s.colSend m tag n.val (some bytes)
    else
      let a := s.signalAddr m n.val true
      s.request m tag .write (.refused .write a bytes.length) fun s => s.denyIn (s.uniformAt a) m tag

/-! ### Registers (R162, R163, R165) -/

/-- A write of COL_POP: the head message goes and its source's credit returns. -/
def State.writePop (s : State) (n : Nat) (v : Word) : State :=
  if bit v 0 ∧ (s.col n).msgs ≠ [] then (s.modCol n fun x => { x with msgs := x.msgs.drop 1 }).colRelease n else s

/-- POP (R161). -/
def execPop (m : Nat) (n : Fin 64) (v : Word) (s : State) : Host.Outcome State Fault Refusal :=
  s.writeCommand m ⟨.colPop, n.val, 0⟩ v fun s => s.writePop n.val v

/-- The bit of word w that a completion of this tray cycle set; a clear leaves it set (R163). -/
def State.colFresh (s : State) (n w : Nat) : Word :=
  match (s.col n).last with
  | some (t, i) => if t = s.trayCycle ∧ i / 32 = w then BitVec.ofNat 32 (2 ^ (i % 32)) else 0
  | none => 0

/-- A write of COL_VEC[w] clears the bits written 1, but for one set in the same tray cycle (R163). -/
def State.writeVec (s : State) (n w : Nat) (v : Word) : State :=
  s.setReg ⟨.colVec, n, w⟩ (s.reg ⟨.colVec, n, w⟩ &&& ~~~ (v &&& ~~~ s.colFresh n w))

/-- COLLECTOR_VEC_CLEAR (R162). -/
def execCollectorVecClear (m : Nat) (n : Fin 64) (w : Fin 8) (v : Word) (s : State) :
    Host.Outcome State Fault Refusal :=
  s.writeCommand m ⟨.colVec, n.val, w.val⟩ v fun s => s.writeVec n.val w.val v

/-- A write of COL_EXPECT[w]; DONE may rise. -/
def State.writeExpect (s : State) (n w : Nat) (v : Word) : State :=
  (s.setReg ⟨.colExpect, n, w⟩ v).colAfter s n

/-- A write of COL_CFG: HOME and OWNER only while EN is 0. -/
def State.writeColCfg (s : State) (n : Nat) (v : Word) : State :=
  let k : RegKey := ⟨.colCfg, n, 0⟩
  let w := s.reg k
  s.setReg k (if bit w 31 then putBits (putBits w 31 31 (bits v 31 31)) 30 30 (bits v 30 30) else mergeWrite .colCfg w v)

/-- A collector back at its Reset values (R163). -/
def State.colReset (s : State) (n : Nat) : State :=
  (s.resetRegs fun k => blkOf k.name == .col && k.i == n).colForget n

end Sys2Proof.Machine
end

