-- ==== Sys2Proof/Machine/Fabric.lean ====
section
/-! DEFINITION. The fabric of a cup between and at clock edges: product-term cells (R35 to R50), block RAM (R65 to R70),
math blocks (R72, R73), die crossings (R79, R81), borders as their inputs read (R106, R110, R116).  Ports stand in
Machine/CupPort.lean. -/

namespace Sys2Proof.Machine

/-! ### Neighbouring cups (R14) -/

/-- The cup across side sd, and whether a die edge lies between; none outside the logical fabric. -/
def cupAcross (c sd : Nat) : Option (Nat × Bool) :=
  let row := c / 48
  let col := c % 48 / 4
  let q := c % 4
  let mk (r cl qd : Nat) : Nat := r * 48 + cl * 4 + qd
  match sd with
  | 0 => if 2 ≤ q then some (mk row col (q - 2), false) else if row = 0 then none else some (mk (row - 1) col (q + 2), true)
  | 1 => if q % 2 = 0 then some (mk row col (q + 1), false) else if col = 11 then none else
      some (mk row (col + 1) (q - 1), true)
  | 2 => if q < 2 then some (mk row col (q + 2), false) else if row = 3 then none else some (mk (row + 1) col (q - 2), true)
  | _ => if q % 2 = 1 then some (mk row col (q - 1), false) else if col = 0 then none else
      some (mk row (col - 1) (q + 1), true)

/-- The applied mode of a segment (R106): 0 CLAMP0, 1 PASS, 2 HOLD. -/
def State.segMode (s : State) (c sd n : Nat) : Nat := s.fld ⟨.cupBrd, c, sd⟩ (2 * n + 1) (2 * n)

/-- FLIPMODE of a segment is CLAMP0 (R110). -/
def State.segFlipClamp (s : State) (c sd n : Nat) : Bool := s.flag ⟨.cupBrd, c, sd⟩ (20 + n)

/-! ### Views at an instant -/

/-- What an edge at root cycle r starts from: the fabric before that instant, and the bits port A has written in it. -/
def CupSt.instant (x : CupSt) (r : Nat) : FabSt × List (Nat × BitVec 64) :=
  match x.old with
  | some (n, f, aw) => if n = r then (f, aw) else (x.fab, [])
  | none => (x.fab, [])

/-- The fabric of a cup as edges at the present root cycle see it: as it stood before the first of them. -/
def State.fabPre (s : State) (c : Nat) : FabSt := ((s.cup c).instant s.root).1

/-- How signals are read: as edges at the present root cycle see them, before the first of them; or as they stand now,
after the edges so far, with the latches whose lines are high transparent. -/
inductive View where
  | before
  | now
  deriving DecidableEq, Repr

/-- The fabric of a cup in a view. -/
def State.fabView (s : State) (v : View) (c : Nat) : FabSt := if v = .now then (s.cup c).fab else s.fabPre c

/-- The root cycles between edges of line n of cup c: its divider, times 2 to the throttle level (R76, R78, R376). -/
def State.linePeriod (s : State) (c n : Nat) : Nat :=
  match s.leafOfCup c with
  | some p => nget (s.leaf p).divNow ((s.cup c).active.lineDiv n) 5 * 2 ^ s.throttle c
  | none => 0

/-- Line n of cup c is high (R42): from a rising edge to its fall, whose instant within the period the spec leaves open
(`Config.lineHigh`; log entry 13).  After E1 its registers hold INIT until E2 (R115). -/
def State.lineHigh (s : State) (c n : Nat) : Bool :=
  let x := s.cup c
  match look x.lastEdge n with
  | some r =>
    s.fld ⟨.cupState, c, 0⟩ 1 0 == 2 && x.active.lineRuns n && !x.fab.waitE1.contains n && !x.fab.waitE2.contains n &&
    decide (x.swapRoot < r ∧ r ≤ s.root) &&
    (decide (s.root = r) || (decide (s.root < r + s.linePeriod c n) && Config.lineHigh (s.linePeriod c n) (s.root - r)))
  | none => false

/-! ### Block pins (R65, R66, R72, R92) -/

/-- Bit n of a number. -/
def nbit (v n : Nat) : Bool := v.testBit n

/-- OUT of a math block (R73, R74). -/
def mathOut (pl : Plane) (b : Nat) (p : BitVec 58) : Nat :=
  let w2 := pl.at (mathFrame b + 2)
  if !bit w2 15 then 0
  else
    let sh := bits w2 11 8
    if bit w2 12 then
      let z := p.toInt >>> sh
      toUnsigned 48 (max (-(2 ^ 47)) (min (2 ^ 47 - 1) z))
    else p.toNat / 2 ^ sh % 2 ^ 48

/-- A math block's output pin: side 0 north, 1 east, 2 south, 3 west. -/
def mathPin (out sd i : Nat) : Bool :=
  match sd with
  | 0 => nbit out i
  | 1 => nbit out (8 + i)
  | 2 => nbit out (24 + i)
  | _ => nbit out (32 + i)

/-- What a block-RAM port shows: its output register with OREG, else DOUT. -/
def bramShown (w : Word) (o : BramOut) (portB : Bool) : BitVec 64 :=
  if portB then (if bit w 13 then o.oregB else o.doutB) else (if bit w 12 then o.oregA else o.doutA)

/-- A block RAM's output pin (R66). -/
def bramPin (w : Word) (o : BramOut) (sd i : Nat) : Bool :=
  if !bit w 2 then false
  else
    let width := bits w 1 0
    if width = 3 then
      let d := bramShown w o true
      match sd with
      | 3 => d.getLsbD i
      | 1 => d.getLsbD (32 + i)
      | 0 => if i = 0 then (if bit w 13 then o.sbeReg else o.sbe) else if i = 1 then (if bit w 13 then o.ueReg else o.ue)
          else false
      | _ => false
    else
      let n := 8 * 2 ^ width
      match sd with
      | 3 => decide (i < n) && (bramShown w o false).getLsbD i
      | 1 => decide (i < n) && (bramShown w o true).getLsbD i
      | _ => false

/-- The port whose first tap a block is. -/
def Plane.firstTapOf (pl : Plane) (b : Nat) : Option Nat :=
  ((List.range 11).map (· + 1)).find? fun w => pl.bound w && pl.portFirst w == b

/-- A tap's output pin (R92). -/
def tapPin (pl : Plane) (f : FabSt) (b sd i : Nat) : Bool :=
  match sd with
  | 3 => (nget f.portD b 0).getLsbD i
  | 1 => (nget f.portD b 0).getLsbD (32 + i)
  | 0 => (pl.firstTapOf b).any fun w => nbit (nget f.portC w 0) i
  | _ => (pl.firstTapOf b).any fun w => nbit (nget f.portC w 0) (16 + i)

/-! ### Cup ports and die crossings while a Colrek group retrains (R86) -/

/-- The groups of a leaf that carry the cup ports of quadrant m, towards the leaf or the tray (R85). -/
def portGroups (m : Nat) (toLeaf : Bool) : List Nat :=
  (List.range 18).map fun i => (if toLeaf then 104 else 32) + 18 * m + i

/-- Pin i of side sd of block b, as a wire of the cup's ports. -/
def tapWire (b sd i : Nat) : Nat := 128 * b + 32 * sd + i

/-- What the receiver holds for a wire of cup c's ports, if a group that carries it retrains.  Which of its quadrant's 18
groups carries a wire the spec does not say, and a wire that carried nothing as the group began to retrain holds
anything (log entry 30). -/
def State.portGap (s : State) (c : Nat) (toLeaf : Bool) (wire : Nat) : Option Bool :=
  (s.leafOfCup c).bind fun p => (portGroups (c % 4) toLeaf).findSome? fun g =>
    if (look (s.leaf p).gapStart g).isSome && Config.gapWire g (c % 4) wire then
      some ((look (nget (s.leaf p).gapHeld g []) (32768 * c + wire)).getD (Config.loopValue s.root wire))
    else none

/-- The output pin that a block at a site of cup c drives towards the cell on its side sd, f being its fabric. -/
def State.blockPin (s : State) (c : Nat) (pl : Plane) (f : FabSt) (st : Site) (sd j : Nat) : Bool :=
  match st with
  | .cell => false
  | .bram b du dv =>
    let i := 4 * (if sd = 0 ∨ sd = 2 then du else dv) + j
    if pl.allTaps.contains b then (s.portGap c true (tapWire b sd i)).getD (tapPin pl f b sd i)
    else bramPin (pl.bramW b) (nget f.bramOut b {}) sd i
  | .math b du dv =>
    let i := 4 * (if sd = 0 ∨ sd = 2 then du else dv) + j
    mathPin (mathOut pl b (nget f.math b {}).p) sd i

/-- The groups of a leaf that carry crossings of side sd, outgoing or incoming (R85). -/
def crossGroups (sd : Nat) (inward : Bool) : List Nat :=
  (List.range 4).map fun i => 4 * sd + i + (if inward then 16 else 0)

/-- What a die-crossing group of a leaf that retrains holds for a wire of quadrant m, if it carries that wire. -/
def State.gapValue (s : State) (p : Option Nat) (groups : List Nat) (m key : Nat) : Option Bool :=
  p.bind fun p => groups.findSome? fun g =>
    if (look (s.leaf p).gapStart g).isSome && Config.gapWire g m key then
      some (nget (nget (s.leaf p).gapHeld g []) (2560 * m + key) false)
    else none

/-- What reaches the tray from wire `key` of side `back` of the driving cup c', whose crossing registers are f. -/
def State.crossSent (s : State) (f : FabSt) (c' back key : Nat) : Bool :=
  (s.gapValue (s.leafOfCup c') (crossGroups back false) (c' % 4) key).getD (nget f.cross2 key false)

/-- What arrives across a die edge from wire `key` of side `back` of the driving cup c' at cup c's side sd: the group
towards the leaf holds what it carried, else the group towards the tray. -/
def State.crossRead (s : State) (f : FabSt) (c' back c sd key : Nat) : Bool :=
  (s.gapValue (s.leafOfCup c) (crossGroups sd true) (c % 4) key).getD (s.crossSent f c' back key)

/-! ### Signals -/

/-- A product term from the values of its inputs (R39, R40). -/
def termVal (pl : Plane) (x y k : Nat) (rd : Nat → Bool) : Bool :=
  (List.range 20).all fun i =>
    match termCode pl x y k i with
    | 0 => true
    | 1 => rd i
    | 2 => !rd i
    | _ => false

/-- The OR stage of macrocell m (R41, R48). -/
def orStage (pl : Plane) (x y m : Nat) (rd : Nat → Bool) (chain : Bool) : Bool :=
  ((List.range 32).any fun k => orTakes pl x y m k && termVal pl x y k rd) ||
    (m == chMc pl x y && chIn pl x y && chain)

/-- What a registered macrocell takes at an edge, from its present output (R42, R43). -/
def regNext (pl : Plane) (x y m : Nat) (q : Bool) (rd : Nat → Bool) (chain : Bool) : Bool :=
  let rst := mcRst pl x y m
  let set := mcSet pl x y m
  let ce := mcCe pl x y m
  if rst != 0 && termVal pl x y (24 + rst) rd then false
  else if set != 0 && termVal pl x y (24 + set) rd then true
  else if ce == 0 || termVal pl x y (16 + ce) rd then
    let d := orStage pl x y m rd chain != mcPol pl x y m
    if mcMode pl x y m = 2 then q != d else d
  else q

/-- A wire's number, for the value of a loop or of a wire of a cup without power (R110, R120; log entry 2). -/
def wireId (c : Nat) (n : Node) : Nat := ((c * 160 + n.2.1) * 160 + n.1) * 21 + n.2.2

/-- The value of a signal of cup c.  `fuel` bounds the length of a path: only a loop, which the spec leaves undefined
(R110), exhausts it.  What an output wire drives whose select is reserved, as a damaged configuration word can leave it
(R47, R401), the spec does not say: it is free (DESIGN CHOICE, log entry 2). -/
def State.sigVal (s : State) (v : View) : Nat → Nat → Node → Bool
  | 0, c, n => Config.loopValue s.root (wireId c n)
  | f + 1, c, (x, y, k) =>
    let cp := s.cup c
    let pl := cp.active
    let fab := s.fabView v c
    if s.fld ⟨.cupState, c, 0⟩ 1 0 = 0 then Config.loopValue s.root (wireId c (x, y, k))
    else
      let border (sd j : Nat) : Bool :=
        let place := if sd = 0 ∨ sd = 2 then x else y
        let n := place / 16
        let key := 640 * sd + 4 * place + j
        match cupAcross c sd with
        | none => false
        | some (c', edge) =>
          let drv := s.fabView v c'
          let back := (sd + 2) % 4
          let window := if edge then drv.crossF2.contains back else !(drv.waitE1.isEmpty && drv.waitE2.isEmpty)
          let mode := s.segMode c sd n
          if mode = 0 then false
          else if mode = 2 then nget cp.hold key false
          else if window && s.segFlipClamp c sd n then false
          else if window then nget cp.hold key false
          else if edge then s.crossRead drv c' back c sd (640 * back + 4 * place + j)
          else
            let (a, b) := match sd with
              | 0 => (x, 159)
              | 1 => (0, y)
              | 2 => (x, 0)
              | _ => (159, y)
            s.sigVal v f c' (a, b, 4 + (4 * back + j))
      let rd (i : Nat) : Bool :=
        if 16 ≤ i then
          (if mcMode pl x y (i - 16) = 1 ∨ mcMode pl x y (i - 16) = 2 then nget fab.macs (4 * cellIndex x y + (i - 16)) false
          else s.sigVal v f c (x, y, i - 16))
        else match neighbour x y (i / 4) with
          | some (a, b) =>
            if isCell a b then s.sigVal v f c (a, b, 4 + facingWire (i / 4) (i % 4))
            else s.blockPin c pl fab (siteAt a b) ((i / 4 + 2) % 4) (i % 4)
          | none => border (i / 4) (i % 4)
      let chain : Bool := chainAllowed x y && chIn pl x y && s.sigVal v f c (x, y + 1, 20)
      if k < 4 then
        match mcMode pl x y k with
        | 0 => orStage pl x y k rd chain != mcPol pl x y k
        | 3 =>
          let q := nget fab.macs (4 * cellIndex x y + k) false
          if v = .now ∧ s.lineHigh c (mcClk pl x y k) = true ∧ clkUse pl x y (mcClk pl x y k) = true then
            regNext pl x y k (nget (s.fabPre c).macs (4 * cellIndex x y + k) false) rd chain
          else q
        | _ => nget fab.macs (4 * cellIndex x y + k) false
      else if k < 20 then
        let sel := outSel pl x y (k - 4)
        if sel = 1 then true
        else if inRange 4 7 sel then
          (if mcMode pl x y (sel - 4) = 1 ∨ mcMode pl x y (sel - 4) = 2
            then nget fab.macs (4 * cellIndex x y + (sel - 4)) false
            else s.sigVal v f c (x, y, sel - 4))
        else if 0x10 ≤ sel then rd (sel - 0x10)
        else if sel = 0 then false
        else Config.loopValue s.root (wireId c (x, y, k))
      else chOut pl x y && orStage pl x y (chMc pl x y) rd chain

/-- Path length enough for every loop-free path of the device: each signal at most once. -/
def sigFuel : Nat := 192 * 16000 * 21

/-- A signal as edges at the present instant see it. -/
def State.sig (s : State) (c : Nat) (n : Node) : Bool := s.sigVal .before sigFuel c n

/-- What an input of a cell reads (R35): the same as the node that drives it. -/
def State.cellInput (s : State) (v : View) (c x y i : Nat) : Bool :=
  -- a route-through of input i shows exactly its value
  let pl := (s.cup c).active
  let fab := s.fabView v c
  if 16 ≤ i then s.sigVal v sigFuel c (x, y, i - 16)
  else match neighbour x y (i / 4) with
    | some (a, b) =>
      if isCell a b then s.sigVal v sigFuel c (a, b, 4 + facingWire (i / 4) (i % 4))
      else s.blockPin c pl fab (siteAt a b) ((i / 4 + 2) % 4) (i % 4)
    | none =>
      let sd := i / 4
      let place := if sd = 0 ∨ sd = 2 then x else y
      let key := 640 * sd + 4 * place + i % 4
      match cupAcross c sd with
      | none => false
      | some (c', edge) =>
        let drv := s.fabView v c'
        let back := (sd + 2) % 4
        let window := if edge then drv.crossF2.contains back else !(drv.waitE1.isEmpty && drv.waitE2.isEmpty)
        match s.segMode c sd (place / 16) with
        | 1 =>
          if window && s.segFlipClamp c sd (place / 16) then false
          else if window then nget (s.cup c).hold key false
          else if edge then s.crossRead drv c' back c sd (640 * back + 4 * place + i % 4)
          else
            let (a, b) := match sd with
              | 0 => (x, 159)
              | 1 => (0, y)
              | 2 => (x, 0)
              | _ => (159, y)
            s.sigVal v sigFuel c' (a, b, 4 + (4 * back + i % 4))
        | 2 => nget (s.cup c).hold key false
        | _ => false

/-! ### Input pins of blocks -/

/-- The wire that drives input pin i of a side of a block of width w and height h anchored at (ax, ay) (R65). -/
def pinNode (ax ay w h sd i : Nat) : Node :=
  match sd with
  | 0 => (ax + i / 4, ay - 1, 4 + (8 + i % 4))
  | 1 => (ax + w, ay + i / 4, 4 + (12 + i % 4))
  | 2 => (ax + i / 4, ay + h, 4 + (0 + i % 4))
  | _ => (ax - 1, ay + i / 4, 4 + (4 + i % 4))

/-- Bits assembled least significant first. -/
def ofBools (l : List Bool) : Nat := l.foldr (fun b n => 2 * n + b2n b) 0

/-- The number on the first n input pins of a side. -/
def State.pins4 (s : State) (c ax ay w h sd n : Nat) : Nat :=
  ofBools ((List.range n).map fun i => s.sig c (pinNode ax ay w h sd i))

def State.bramPins (s : State) (c b sd : Nat) : Nat :=
  s.pins4 c (bramAnchor b).1 (bramAnchor b).2 4 8 sd (if sd = 0 ∨ sd = 2 then 16 else 32)

def State.mathPins (s : State) (c b sd : Nat) : Nat :=
  s.pins4 c (mathAnchor b).1 (mathAnchor b).2 2 4 sd (if sd = 0 ∨ sd = 2 then 8 else 16)

/-! ### Math blocks at an edge (R73) -/

/-- The math block with the same tile position in the tile directly south; none in tile row 9. -/
def mathSouth (b : Nat) : Option Nat := if b / 40 = 9 then none else some (b + 40)

/-- One edge of a math block: `pins` are its input pins by side, f its cup's fabric before the edge. -/
def mathStep (pl : Plane) (f : FabSt) (b : Nat) (pn pe ps pw : Nat) : MathSt :=
  let x := nget f.math b {}
  let base := mathFrame b
  let w2 := pl.at (base + 2)
  let a := pn + pe * 2 ^ 8 + ps % 8 * 2 ^ 24
  let b16 := ps / 8 + pw % 2 ^ 11 * 2 ^ 5
  let ce := nbit pw 11
  let load := nbit pw 12
  let loadB := nbit pw 13
  let rst := nbit pw 14
  let neg := nbit pw 15
  if rst then { coef := x.coef }
  else if !ce then x
  else
    let south := mathSouth b
    let d : BitVec 27 := if bit w2 6 then (match south with | some n => (nget f.math n {}).a | none => 0)
      else BitVec.ofNat 27 (bits (pl.at base) 26 0)
    let cin : BitVec 58 := match south with
      | some n => (nget f.math n {}).p
      | none => 0
    let pre : BitVec 27 := match bits w2 2 1 with
      | 0 => x.a
      | 1 => d + x.a
      | _ => d - x.a
    let coefZ : Int := if bit w2 7 then x.coef.toInt else x.b16.toInt
    let prod : Int := (if x.neg then -1 else 1) * pre.toInt * coefZ
    let m58 : BitVec 58 := BitVec.ofInt 58 x.m.toInt
    let p' : BitVec 58 := match bits w2 5 3 with
      | 0 => m58
      | 1 => if x.mLoad then m58 else x.p + m58
      | 2 => if x.mLoad then m58 else x.p - m58
      | 3 => cin + m58
      | _ => cin - m58
    { a := BitVec.ofNat 27 a, b16 := BitVec.ofNat 16 b16, ce, load, loadB, rst := false, neg,
      coef := if bit w2 7 && loadB then BitVec.ofNat 24 (a % 256 * 2 ^ 16 + b16) else x.coef,
      m := BitVec.ofInt 51 prod, mLoad := x.load, p := p' }

/-- A math block when a new plane takes effect (R73). -/
def mathInit (pl : Plane) (b : Nat) : MathSt := { coef := BitVec.ofNat 24 (bits (pl.at (mathFrame b + 1)) 23 0) }

/-! ### Block RAM at an edge (R66 to R69) -/

/-- A port's acting pins. -/
structure BramAct where
  en : Bool
  we : Bool
  addr : Nat
  din : Nat
  deriving DecidableEq, Repr

/-- The pins of port A or B of a block (R66). -/
def bramAct (w : Word) (portB : Bool) (pn pe ps pw : Nat) : BramAct :=
  let width := bits w 1 0
  let depth := 14 - width
  let adr := if portB then ps else pn
  { en := nbit adr 15, we := nbit adr 14 && !(portB && width == 3), addr := adr % 2 ^ depth,
    din := if width = 3 then pw + pe * 2 ^ 32 else (if portB then pe else pw) % 2 ^ (8 * 2 ^ width) }

/-- The value at an address at the block's width (R70). -/
def bramGet (m : List (Nat × BitVec 64)) (b width a : Nat) : BitVec 64 :=
  let per := 64 / (8 * 2 ^ width)
  let word := nget m (2048 * b + a / per) 0
  BitVec.ofNat 64 (word.toNat / 2 ^ (a % per * (8 * 2 ^ width)) % 2 ^ (8 * 2 ^ width))

/-- The bits of a 64-bit word that an access covers. -/
def bramMask (width a : Nat) : BitVec 64 :=
  let per := 64 / (8 * 2 ^ width)
  BitVec.ofNat 64 ((2 ^ (8 * 2 ^ width) - 1) * 2 ^ (a % per * (8 * 2 ^ width)))

/-- Stores at an address, leaving the bits of `keep` as they are. -/
def bramPut (m : List (Nat × BitVec 64)) (b width a din : Nat) (keep : BitVec 64) : List (Nat × BitVec 64) :=
  let per := 64 / (8 * 2 ^ width)
  let k := 2048 * b + a / per
  let mask := bramMask width a &&& ~~~ keep
  let v := BitVec.ofNat 64 (din * 2 ^ (a % per * (8 * 2 ^ width)))
  nput m k ((nget m k 0 &&& ~~~ mask) ||| (v &&& mask)) 0

/-- The index of the 64-bit word an address falls in. -/
def bramWord (b width a : Nat) : Nat := 2048 * b + a / (64 / (8 * 2 ^ width))

/-- One edge of a port: pre is the fabric before the instant, f the fabric so far, aw the bits port A has written at
this instant.  Answers the fabric and those bits.  At an edge with EN 0 the whole port holds, its output register too
(log entry 52). -/
def bramPort (pl : Plane) (pre f : FabSt) (aw : List (Nat × BitVec 64)) (b : Nat) (portB : Bool) (act : BramAct) :
    FabSt × List (Nat × BitVec 64) :=
  let w := pl.bramW b
  let width := bits w 1 0
  let o := nget f.bramOut b {}
  let o0 := nget pre.bramOut b {}
  let oreg := if portB then bit w 13 else bit w 12
  let o := if oreg then
      (if portB then { o with oregB := o0.doutB, sbeReg := o0.sbe, ueReg := o0.ue } else { o with oregA := o0.doutA })
    else o
  if !act.en then (f, aw)
  else
    let wd := bramWord b width act.addr
    let err := if bit w 3 then nget pre.bramErr wd 0 else 0
    let oldv := bramGet pre.bram b width act.addr
    let mode := if portB then bits w 11 10 else bits w 9 8
    let seen : BitVec 64 := if act.we ∧ mode = 1 then BitVec.ofNat 64 act.din else oldv
    let hold := act.we && mode == 2
    let reads := !(width == 3 && !portB)
    let o := if hold || !reads then o
      else if portB then { o with doutB := seen, sbe := err == 1, ue := err == 2 } else { o with doutA := seen }
    let f := { f with bramOut := nput f.bramOut b o {} }
    if act.we then
      let keep := if portB then nget aw wd 0 else 0
      let f := { f with bram := bramPut f.bram b width act.addr act.din keep, bramErr := nput f.bramErr wd 0 0 }
      (f, if portB then aw else nput aw wd (nget aw wd 0 ||| bramMask width act.addr) 0)
    else (f, aw)

/-! ### Crossing registers (R79, R81) -/

/-- The border wire j at place n of side sd. -/
def edgeNode (sd n j : Nat) : Node :=
  match sd with
  | 0 => (n, 0, 4 + (0 + j))
  | 1 => (159, n, 4 + (4 + j))
  | 2 => (n, 159, 4 + (8 + j))
  | _ => (0, n, 4 + (12 + j))

/-- One crossing edge of side sd: stage 2 takes stage 1, stage 1 the wires. -/
def State.crossStep (s : State) (c sd : Nat) (pre f : FabSt) : FabSt :=
  let keys := (List.range 160).flatMap fun n => (List.range 4).map fun j => (n, j)
  let window := !(pre.waitE1.isEmpty && pre.waitE2.isEmpty)
  let f := keys.foldl
    (fun (f : FabSt) (e : Nat × Nat) =>
      let k := 640 * sd + 4 * e.1 + e.2
      { f with cross2 := nput f.cross2 k (nget pre.cross1 k false) false,
               cross1 := nput f.cross1 k (s.sig c (edgeNode sd e.1 e.2)) false }) f
  { f with crossF2 := f.crossF2.filter (· != sd) ++ (if pre.crossF1.contains sd then [sd] else []),
           crossF1 := f.crossF1.filter (· != sd) ++ (if window then [sd] else []) }

/-- The wires of segment n of side sd: place and wire. -/
def segWires (n : Nat) : List (Nat × Nat) :=
  (List.range 16).flatMap fun i => (List.range 4).map fun j => (16 * n + i, j)

/-- Holds the values on a segment's wires as `v` gives them, as HOLD mode and FLIPMODE 0 do (R106, R110). -/
def CupSt.holdSeg (x : CupSt) (sd n : Nat) (v : Nat → Nat → Bool) : CupSt :=
  let hold := (segWires n).foldl
    (fun (h : List (Nat × Bool)) (e : Nat × Nat) => nput h (640 * sd + 4 * e.1 + e.2) (v e.1 e.2) false) x.hold
  { x with hold }

/-- A flip window reaches the receivers across side sd of cup c two crossing edges after it opened (R116): PASS
segments with FLIPMODE 0 keep the values they read before. -/
def State.windowReaches (s : State) (c sd : Nat) (pre : FabSt) : State :=
  if pre.crossF1.contains sd && !pre.crossF2.contains sd then
    match cupAcross c sd with
    | some (r, true) =>
      let back := (sd + 2) % 4
      ((List.range 10).filter fun n => s.segMode r back n == 1 && !s.segFlipClamp r back n).foldl
        (fun (s : State) n => s.modCup r fun x =>
          x.holdSeg back n fun p j => nget pre.cross2 (640 * sd + 4 * p + j) false) s
    | _ => s
  else s

/-! ### A rising edge (R43, R68, R73, R115) -/

/-- Macrocells of a cup that line n clocks: D and T flip-flops, and latches if `latch`.  A cell whose CLK_USE bit is
clear gates the line off (R53). -/
def lineMacs (pl : Plane) (n : Nat) (latch : Bool) : List (Nat × Nat × Nat) :=
  allCells.flatMap fun (x, y) =>
    ((List.range 4).filter fun m =>
      (if latch then mcMode pl x y m == 3 else mcMode pl x y m == 1 || mcMode pl x y m == 2) &&
        mcClk pl x y m == n && clkUse pl x y n).map fun m => (x, y, m)

/-- Every macrocell that line n clocks. -/
def lineRegs (pl : Plane) (n : Nat) : List (Nat × Nat × Nat) := lineMacs pl n false ++ lineMacs pl n true

/-- Registered macrocells of line n whose cell gates it off: their line does not run there (R53). -/
def gatedRegs (pl : Plane) (n : Nat) : List (Nat × Nat × Nat) :=
  allCells.flatMap fun (x, y) =>
    ((List.range 4).filter fun m => mcMode pl x y m != 0 && mcClk pl x y m == n && !clkUse pl x y n).map fun m => (x, y, m)

/-- The clock line of a math block, and whether it runs. -/
def mathLine (pl : Plane) (b : Nat) : Nat := bits (pl.at (mathFrame b + 2)) 14 13
def mathRuns (pl : Plane) (b : Nat) : Bool := bit (pl.at (mathFrame b + 2)) 15

/-- Macrocells take their INIT bits (R45). -/
def initMacs (pl : Plane) (l : List (Nat × Nat × Nat)) (f : FabSt) : FabSt :=
  l.foldl
    (fun (f : FabSt) (e : Nat × Nat × Nat) =>
      { f with macs := nput f.macs (4 * cellIndex e.1 e.2.1 + e.2.2) (mcInit pl e.1 e.2.1 e.2.2) false }) f

/-- The registers that line n clocks load INIT, math blocks 0 with B_INIT (R45, R73, R115). -/
def loadInit (pl : Plane) (n : Nat) (f : FabSt) : FabSt :=
  let f := initMacs pl (lineRegs pl n) f
  ((List.range 400).filter fun b => mathLine pl b == n).foldl
    (fun (f : FabSt) b => { f with math := nput f.math b (mathInit pl b) {} }) f

/-- A block's ports are stopped: a clear at flip runs (R117). -/
def CupSt.clearingBlock (x : CupSt) (b : Nat) : Bool := x.clearing.any fun e => e.1 == b

/-- The latches of a cup whose lines are high, transparent (R42, R43): what they show now. -/
def State.openLatches (s : State) (c : Nat) : List (Nat × Bool) :=
  (((List.range 4).filter fun n => s.lineHigh c n).flatMap fun n => lineMacs (s.cup c).active n true).map
    fun (a, b, m) => (4 * cellIndex a b + m, s.sigVal .now sigFuel c (a, b, m))

/-- Every latch whose line is high follows its D, throughout the high phase (R42, R43): after each edge, and after each
change of a plane or a border. -/
def State.followLatches (s : State) : State :=
  let l := (s.cups.map (·.1)).filterMap fun c => match s.openLatches c with
    | [] => none
    | vs => some (c, vs)
  l.foldl
    (fun (s : State) (e : Nat × List (Nat × Bool)) =>
      s.modCup e.1 fun x =>
        let (f, aw) := x.instant s.root
        let macs := e.2.foldl (fun (l : List (Nat × Bool)) (v : Nat × Bool) => nput l v.1 v.2 false) x.fab.macs
        { x with fab := { x.fab with macs }, old := some (s.root, f, aw) }) s

/-- A functional edge of line n of cup c: every register, block and crossing on the line acts on the state before the
instant (R43, R68, R73, R79). -/
def State.lineEdge (s : State) (c n : Nat) : State :=
  let x := s.cup c
  let pl := x.active
  let (pre, aw0) := x.instant s.root
  let f := x.fab
  -- macrocells
  let f := (lineMacs pl n false).foldl
    (fun (f : FabSt) (e : Nat × Nat × Nat) =>
      let (a, b, m) := e
      let k := 4 * cellIndex a b + m
      let rd (i : Nat) : Bool := s.cellInput .before c a b i
      let chain := chainAllowed a b && chIn pl a b && s.sig c (a, b + 1, 20)
      { f with macs := nput f.macs k (regNext pl a b m (nget pre.macs k false) rd chain) false }) f
  -- math blocks
  let f := ((List.range 400).filter fun b => mathRuns pl b && mathLine pl b == n).foldl
    (fun (f : FabSt) b =>
      let y := mathStep pl pre b (s.mathPins c b 0) (s.mathPins c b 1) (s.mathPins c b 2) (s.mathPins c b 3)
      { f with math := nput f.math b y {} }) f
  -- block RAM
  let blocks := (List.range 200).filter fun b =>
    bit (pl.bramW b) 2 && !pl.allTaps.contains b && !x.clearingBlock b
  let (f, aw) := blocks.foldl
    (fun (e : FabSt × List (Nat × BitVec 64)) b =>
      let w := pl.bramW b
      let pn := s.bramPins c b 0
      let pe := s.bramPins c b 1
      let ps := s.bramPins c b 2
      let pw := s.bramPins c b 3
      let e := if bits w 5 4 = n then bramPort pl pre e.1 e.2 b false (bramAct w false pn pe ps pw) else e
      if bits w 7 6 = n then bramPort pl pre e.1 e.2 b true (bramAct w true pn pe ps pw) else e) (f, aw0)
  -- crossings
  let f := ((dieSides (c % 4)).filter fun sd => pl.xclk sd == n).foldl (fun f sd => s.crossStep c sd pre f) f
  let s := s.setCup c { x with fab := f, old := some (s.root, pre, aw) }
  ((dieSides (c % 4)).filter fun sd => pl.xclk sd == n).foldl (fun s sd => s.windowReaches c sd pre) s

/-- E1 of line n (R115): registers load INIT, ports and block RAMs do not act, and the crossing registers of the line
act. -/
def State.edgeE1 (s : State) (c n : Nat) : State :=
  let x := s.cup c
  let pl := x.active
  let (pre, aw) := x.instant s.root
  let f := loadInit pl n x.fab
  let f := { f with waitE1 := f.waitE1.filter (fun k => k != n), waitE2 := f.waitE2 ++ [n] }
  let f := ((dieSides (c % 4)).filter fun sd => pl.xclk sd == n).foldl (fun f sd => s.crossStep c sd pre f) f
  let s := s.setCup c { x with fab := f, old := some (s.root, pre, aw) }
  ((dieSides (c % 4)).filter fun sd => pl.xclk sd == n).foldl (fun s sd => s.windowReaches c sd pre) s

end Sys2Proof.Machine
end

