-- ==== Sys2Proof/Machine/Urn.lean ====
section
/-! DEFINITION. The Urn (R366 to R377): requests and releases of power, the budget, samples and throttling, heat, and
the rails. -/

namespace Sys2Proof.Machine

/-! ### Clients -/

/-- A client's grant is firm: a quad, stack or tray section always, another by URN_CL.FIRM (R370). -/
def State.firm (s : State) (n : Nat) : Bool :=
  inRange 192 263 n || inRange 284 291 n || s.flag ⟨.urnCl, n, 0⟩ 31

/-- NEED of a client. -/
def State.need (s : State) (n : Nat) : Nat := s.fld ⟨.urnCl, n, 0⟩ 10 0

/-- The tenant a client belongs to: that of a cup or of a tenant core (R411). -/
def State.clientTenant (s : State) (n : Nat) : Option Nat :=
  if n < 192 then tenantOf (s.cupDom n) else if inRange 264 279 n then tenantOf (s.coreDom (n - 264)) else none

/-- Units that the clients of a tenant hold. -/
def State.tenantGrants (s : State) (t : Nat) : Nat :=
  (((List.range 292).filter fun n => s.clientTenant n == some t).map s.grant).sum

/-- A request fits the device's budget and its tenant's power (R369, R411). -/
def State.fits (s : State) (n u : Nat) : Bool :=
  decide (urnBase + s.granted + u ≤ s.fld ⟨.urnBudget, 0, 0⟩ 12 0) &&
  match s.clientTenant n with
  | some t => decide (s.tenantGrants t + u ≤ nget s.urn.tenantPower t 0)
  | none => true

/-! ### Throttle levels (R368, R376) -/

/-- The level in force: 4 for a soft grant under heat, else the power-throttle level. -/
def State.level (s : State) (n : Nat) : Nat :=
  if s.firm n || s.grant n == 0 then 0 else if s.urn.heated then 4 else nget s.urn.lvl n 0

/-- A client's level returns to 0, and none of its raises is left to undo (R377). -/
def State.calm (s : State) (n : Nat) : State :=
  { s with urn := { s.urn with lvl := erase s.urn.lvl n, order := s.urn.order.filter fun k => k != n } }

/-- Puts a client's level into force; a change reaches a cup as a status event (R376). -/
def State.relevel (s : State) (n : Nat) : State :=
  let old := s.throttle n
  let new := s.level n
  if old = new then s
  else
    let s := s.setFld ⟨.urnCls, n, 0⟩ 28 26 new
    if n < 192 then s.statusEvent n 6 (if old < new then 2 else 3) 0 else s

/-- Puts every client's level into force. -/
def State.relevelAll (s : State) : State := (List.range 292).foldl (fun (s : State) n => s.relevel n) s

/-! ### Requests and releases (R372, R373) -/

/-- A cluster writes a line back, in the line's domain: a request that no master waits for (R406). -/
def State.l2WriteBack (s : State) (l : L2Line) : State :=
  s.hbmReq { mid := 0x440 + l.cluster, tag := 0, dom := l.dom, addr := l.addr, len := 64, data := some l.bytes, since := s.trayCycle }

/-- A cluster writes back and invalidates its marked lines; each write-back carries the domain of its line (R406). -/
def State.l2Settle (s : State) (cl : Nat) : State :=
  let mine := s.l2.filter fun l => l.cluster == cl && l.due
  let s := { s with l2 := s.l2.filter fun l => !(l.cluster == cl && l.due) }
  (mine.filter (·.dirty)).foldl (fun (s : State) l => s.l2WriteBack l) s

/-- A tenant core that waits for its grant starts in machine mode at CPU_C_BOOT, once it and its cluster hold theirs
(R372, R407). -/
def State.startCore (s : State) (t : Nat) : State :=
  if s.flag ⟨.cpuStat, t, 0⟩ 28 && s.grant (264 + t) != 0 && s.grant (280 + t / 4) != 0 then
    let s := (s.l2Settle (t / 4)).setFields ⟨.cpuStat, t, 0⟩ [(31, 30, 1), (28, 28, 0)]
    s.modCore t fun _ => { pc := BitVec.ofNat 64 (s.pair ⟨.cpuBoot, t, 0⟩ ⟨.cpuBootHi, t, 0⟩) }
  else s

/-- What a grant starts: a cup's transition with its status event (R105, R121), lanes on their way out of LP2 (R230),
a core (R407). -/
def State.onGrant (s : State) (n : Nat) : State :=
  if n < 192 then
    let s := s.statusEvent n 6 (if s.firm n then 0 else 1) 0
    if s.flag ⟨.cupState, n, 0⟩ 10 then
      (s.setFlag ⟨.cupState, n, 0⟩ 10 false).modCup n fun x => { x with moving := true }
    else s
  else if n < 256 then
    (List.range 4).foldl (fun (s : State) j => s.setFlag ⟨.lnStat, 4 * (n - 192) + j, 0⟩ 29 false) s
  else if inRange 264 279 n then s.startCore (n - 264)
  else if inRange 280 283 n then (List.range 4).foldl (fun (s : State) j => s.startCore (4 * (n - 280) + j)) s
  else s

/-- Grants a request. -/
def State.giveUnits (s : State) (r : UrnReq) : State :=
  let s := { s with urn := { s.urn with pend := s.urn.pend.filter fun e => e.client != r.client } }
  ((s.setFld ⟨.urnCls, r.client, 0⟩ 10 0 (s.grant r.client + r.units)).relevel r.client).onGrant r.client

/-- One examination of the requests in order: `firmWaits` once an older firm request stays pending. -/
def State.examineList : List UrnReq → Bool → State → State
  | [], _, s => s
  | r :: rs, firmWaits, s =>
    let soft := !s.firm r.client
    if s.fits r.client r.units && !(soft && (firmWaits || s.throttling)) then
      State.examineList rs firmWaits (s.giveUnits r)
    else State.examineList rs (firmWaits || !soft) s

/-- Examines the pending requests, oldest first.  Those that arrive in the present tray cycle wait for its end, so that
all of one cycle are examined together (R373). -/
def State.examine (s : State) : State :=
  State.examineList (s.urn.pend.filter fun e => decide (e.cycle < s.trayCycle)) false s

/-- Examines every pending request, as start-up does once the requests of a step have arrived (R372). -/
def State.examineAll (s : State) : State := State.examineList s.urn.pend false s

/-- Places a request in the order of examination: by tray cycle of arrival, then by client (R373). -/
def placeReq (r : UrnReq) : List UrnReq → List UrnReq
  | [] => [r]
  | e :: es => if r.cycle < e.cycle ∨ (r.cycle = e.cycle ∧ r.client < e.client) then r :: e :: es else e :: placeReq r es

/-- A client asks for units; its own pending request is replaced (R121, R373). -/
def State.askUnits (s : State) (n u : Nat) : State :=
  let pend := placeReq { client := n, units := u, cycle := s.trayCycle } (s.urn.pend.filter fun e => e.client != n)
  { s with urn := { s.urn with pend } }

/-- A client withdraws its pending request. -/
def State.unask (s : State) (n : Nat) : State :=
  { s with urn := { s.urn with pend := s.urn.pend.filter fun e => e.client != n } }

/-- A client releases units of its grant, and pending requests are examined again (R372, R373). -/
def State.freeGrant (s : State) (n u : Nat) : State :=
  let s := s.setFld ⟨.urnCls, n, 0⟩ 10 0 (s.grant n - u)
  let s := if s.grant n = 0 then s.calm n else s
  (s.relevel n).examine

/-- A client releases all but k units. -/
def State.keepUnits (s : State) (n k : Nat) : State := if s.grant n ≤ k then s else s.freeGrant n (s.grant n - k)

/-- URN_REQUEST (R373). -/
def execUrnRequest (n : Fin 292) (u : Nat) (s : State) : Host.Outcome State Fault Refusal :=
  s.whenLive fun s => if u = 0 then s else s.askUnits n.val u

/-- URN_RELEASE (R372). -/
def execUrnRelease (n : Fin 292) (u : Nat) (s : State) : Host.Outcome State Fault Refusal :=
  s.whenLive fun s => s.freeGrant n.val u

/-- A write of URN_BUDGET (R374): a value out of range leaves it unchanged; pending requests are examined again. -/
def State.writeBudget (s : State) (v : Word) : State := (s.plainWrite ⟨.urnBudget, 0, 0⟩ v).examine

/-- URN_BUDGET_WRITE (R374). -/
def execUrnBudgetWrite (m : Nat) (v : Word) (s : State) : Host.Outcome State Fault Refusal :=
  s.writeCommand m ⟨.urnBudget, 0, 0⟩ v fun s => s.writeBudget v

/-- A write of URN_CL[n]: FIRM and NEED; FIRM reads 1 for quads, stacks and tray sections, and a change of FIRM applies
at once to a grant held (R371, R383). -/
def State.writeUrnCl (s : State) (n : Nat) (v : Word) : State :=
  let w := mergeWrite .urnCl (s.reg ⟨.urnCl, n, 0⟩) v
  let s := s.setReg ⟨.urnCl, n, 0⟩ (if inRange 192 263 n || inRange 284 291 n then putBits w 31 31 1 else w)
  let s := if s.firm n then s.calm n else s
  (s.relevel n).examine

/-! ### Samples and throttling (R367, R375, R377) -/

/-- The activity of a client since the last sample: of a cup the share of its registers' edges at which they toggled (log
entry 109), of another what its own counter shows. -/
def State.activityOf (s : State) (activity : List Nat) (n : Nat) : Nat :=
  if n < 192 then 255 * (s.cup n).toggles / (s.cup n).chances else activity.getD (n - 192) 0

/-- The power of a rail in 0.1 mW: mV by 0.1 A. -/
def railPower (rails : List RailReading) (n : Nat) : Nat := ((rails[n]?).map fun r => r.mv * r.deciamps).getD 0

/-- Measured power in units of 0.25 W (R367, R369): the sum over all rails. -/
def powerUnits (rails : List RailReading) : Nat := ((List.range 23).map (railPower rails)).sum / 2500

/-- The leaf rail that feeds a cup: that of its leaf's column. -/
def State.cupRail (s : State) (c : Nat) : Option Nat := (s.leafOfCup c).map fun p => p % 13

/-- The part of a rail's power, in units, that falls to a client of `act` in a total of `all`. -/
def powerShare (p act all : Nat) : Nat := p * act / (2500 * all)

/-- The power attributed to each client (R367): a leaf rail's to the cups of its column in proportion to their activity,
that of VCC_TRAY to the cores and clusters in proportion to theirs. -/
def State.attribution (s : State) (rails : List RailReading) (activity : List Nat) : List Nat :=
  let cups := (List.range 192).map fun c => (s.cupRail c, s.activityOf activity c)
  let column := (List.range 13).map fun x => ((cups.filter fun e => e.1 == some x).map (·.2)).sum
  let tray := ((List.range 20).map fun i => s.activityOf activity (264 + i)).sum
  cups.map (fun e => match e.1 with
    | some x => powerShare (railPower rails x) e.2 (column.getD x 0)
    | none => 0) ++
  (List.range 100).map fun i =>
    if inRange 72 91 i then powerShare (railPower rails 13) (s.activityOf activity (192 + i)) tray else 0

/-- URN_RAIL and the ACT fields show what a sample read, and the toggle counters start again. -/
def State.showSample (s : State) (rails : List RailReading) (activity : List Nat) : State :=
  let acts := (List.range 292).map fun n => (n, s.activityOf activity n)
  let s := ((List.range 23).zip rails).foldl
    (fun (s : State) (e : Nat × RailReading) => s.setReg ⟨.urnRail, e.1, 0⟩ (packBits [(31, 16, e.2.deciamps), (15, 0, e.2.mv)])) s
  let s := acts.foldl (fun (s : State) (e : Nat × Nat) => s.setFld ⟨.urnCls, e.1, 0⟩ 23 16 e.2) s
  { s with cups := s.cups.map fun (e : Nat × CupSt) => (e.1, { e.2 with toggles := 0, chances := 0 }) }

/-- Power attributed to a client at the last sample. -/
def State.attributed (s : State) (n : Nat) : Nat := s.urn.attributed.getD n 0

/-- The soft clients that hold a grant. -/
def State.softClients (s : State) : List Nat := (List.range 292).filter fun n => !s.firm n && s.grant n != 0

/-- Places a client in a list by excess of attributed power over its grant, largest first, then highest index. -/
def State.byExcess (s : State) (n : Nat) : List Nat → List Nat
  | [] => [n]
  | k :: ks =>
    if s.attributed k - s.grant k < s.attributed n - s.grant n ∨
        (s.attributed k - s.grant k = s.attributed n - s.grant n ∧ k < n) then n :: k :: ks
    else k :: s.byExcess n ks

/-- The order in which clients are throttled (R375). -/
def State.throttleOrder (s : State) : List Nat :=
  let soft := s.softClients
  ((soft.filter fun n => s.grant n < s.attributed n).foldl (fun l n => s.byExcess n l) []) ++
    (soft.filter fun n => s.attributed n ≤ s.grant n).reverse

/-- The clients chosen until half their attributed power covers an excess of `e` units; those at level 4 skipped. -/
def State.chooseThrottled (s : State) : List Nat → Nat → List Nat
  | [], _ => []
  | n :: ns, twice =>
    if twice = 0 then []
    else if 4 ≤ nget s.urn.lvl n 0 then s.chooseThrottled ns twice
    else n :: s.chooseThrottled ns (twice - s.attributed n)

/-- Raises a client by one level. -/
def State.raiseLevel (s : State) (n : Nat) : State :=
  let urn := { s.urn with
    lvl := nput s.urn.lvl n (nget s.urn.lvl n 0 + 1) 0, order := n :: s.urn.order }
  ({ s with urn }).relevel n

/-- Whether every soft client is at level 4. -/
def State.allFull (s : State) : Bool := s.softClients.all fun n => decide (4 ≤ s.level n)

/-- A sample above the budget, the second or later in a row. -/
def State.overBudget (s : State) (excess : Nat) : State :=
  if s.allFull then
    if s.flag ⟨.urnStat, 0, 0⟩ 31 then s
    else
      let s := s.setFlag ⟨.urnStat, 0, 0⟩ 31 true
      ({ s with urn := { s.urn with lastRaise := s.tick } }).raiseEvent 0x020 0 [0x01] []
  else (s.chooseThrottled s.throttleOrder (2 * excess)).foldl (fun (s : State) n => s.raiseLevel n) s

/-- A sample of measured power in units (R375, R377). -/
def State.sample (s : State) (power : Nat) (attr : List Nat) : State :=
  let budget := s.fld ⟨.urnBudget, 0, 0⟩ 12 0
  let above := decide (budget < power)
  let low := decide (power * 100 ≤ budget * 95)
  let since := if above then none
    else match s.urn.lowSince with
      | some t => if low || decide (t + msTicks 10 ≤ s.tick) then some t else none
      | none => if low then some s.tick else none
  let again := s.urn.prevAbove
  let s := s.setReg ⟨.urnPower, 0, 0⟩ (BitVec.ofNat 32 (min power 8191))
  let s := { s with urn := { s.urn with attributed := attr, prevAbove := above, lowSince := since, sampleAt := s.tick } }
  if above then (if again then s.overBudget (power - budget) else s) else s.setFlag ⟨.urnStat, 0, 0⟩ 31 false

/-- POWER_SAMPLE (R367, R375): every 100 µs the sensors of the rails are read, and the activity counters. -/
def execPowerSample (rails : List RailReading) (activity : List Nat) (s : State) : Host.Outcome State Fault Refusal :=
  s.whenLive fun s =>
    if s.urn.sampleAt + usTicks 100 ≤ s.tick then
      (s.showSample rails activity).sample (powerUnits rails) (s.attribution rails activity)
    else s

/-- OVERLOAD_REPEAT (R375): every 100 ms while OVERLOAD persists. -/
def execOverloadRepeat (s : State) : Host.Outcome State Fault Refusal :=
  s.whenLive fun s =>
    if s.flag ⟨.urnStat, 0, 0⟩ 31 ∧ s.urn.lastRaise + msTicks 100 ≤ s.tick then
      ({ s with urn := { s.urn with lastRaise := s.tick } }).raiseEvent 0x020 0 [0x01] []
    else s

/-- Undoes the newest raise (R377). -/
def State.lowerLevel (s : State) : State :=
  match s.urn.order with
  | n :: order =>
    let urn := { s.urn with lvl := nput s.urn.lvl n (nget s.urn.lvl n 0 - 1) 0, order, lastStep := s.tick }
    (({ s with urn }).relevel n).examine
  | [] => s

/-- UNTHROTTLE_STEP (R377): after 10 ms of samples at or below 95 % of the budget, one level every 1 ms. -/
def execUnthrottleStep (s : State) : Host.Outcome State Fault Refusal :=
  s.whenLive fun s =>
    match s.urn.lowSince with
    | some t =>
      if t + msTicks 10 ≤ s.tick ∧ s.urn.lastStep + msTicks 1 ≤ s.tick then s.lowerLevel else s
    | none => s

/-! ### Heat (R368) -/

/-- A sensor's reading in URN_TEMP. -/
def State.readTemp (s : State) (n : Nat) (z : Int) : State :=
  let k : RegKey := ⟨.urnTemp, n, 0⟩
  let s := s.setFld k 7 0 (toUnsigned 8 z)
  if signed 8 (s.fld k 15 8) < z then s.setFld k 15 8 (toUnsigned 8 z) else s

/-- The reading of every sensor, and what heat does to soft clients. -/
def State.sampleTemps (s : State) (cs : List Int) : State :=
  let s := ((List.range 60).zip cs).foldl (fun (s : State) e => s.readTemp e.1 e.2) s
  let hot := cs.any fun z => decide (125 < z)
  let cool := cs.all fun z => decide (z < 122)
  let since := if cool then some (s.urn.coolSince.getD s.tick) else none
  let spent := match since with
    | some t => decide (t + msTicks 1000 ≤ s.tick)
    | none => false
  let was := s.flag ⟨.urnStat, 0, 0⟩ 29
  let s := { s with urn := { s.urn with coolSince := since, heated := hot || (s.urn.heated && !spent), tempAt := s.tick } }
  let s := s.setFlag ⟨.urnStat, 0, 0⟩ 29 hot
  let s := if hot && !was then s.raiseEvent 0x021 0 [0x01] [] else s
  s.relevelAll.examine

/-- TEMP_SAMPLE (R368): every 1 ms. -/
def execTempSample (celsius : List Int) (s : State) : Host.Outcome State Fault Refusal :=
  s.whenLive fun s => if s.urn.tempAt + msTicks 1 ≤ s.tick then s.sampleTemps celsius else s

/-- THERMAL_TRIP (R368, R391): at 135 °C the island drives THERM_TRIP_N and the device enters the safe state. -/
def execThermalTrip (sensor : Fin 68) (celsius : Int) (s : State) : Host.Outcome State Fault Refusal :=
  .next (if 135 ≤ celsius ∧ s.phase ≠ .inReset ∧ s.pins.thermTrip = false then
    s.enterSafe 0x002 0x0503 [BitVec.ofNat 8 sensor.val, BitVec.ofInt 8 celsius] true
  else s)

/-! ### Rails (R366, R442) -/

/-- The set point of a leaf rail in mV. -/
def State.rail (s : State) (x : Nat) : Nat := nget s.urn.rails x 800

/-- Sets a leaf rail within 0.70 to 0.80 V over the PMBus. -/
def State.setRail (s : State) (x : Nat) (mv : Int) : State :=
  let v := max 700 (min 800 mv)
  ({ s with urn := { s.urn with rails := nput s.urn.rails x v.toNat 800 } }).log (.pmbus x v)

/-- One adjustment of leaf rails: at most 5 mV each; a regulator that does not answer is reported. -/
def State.adjustRails (s : State) (want : List (Option Int)) : State :=
  ((List.range 13).zip want).foldl
    (fun (s : State) (e : Nat × Option Int) =>
      match e.2 with
      | some z => s.setRail e.1 ((s.rail e.1 : Int) + max (-5) (min 5 z))
      | none => if s.serving then s.raiseEvent 0x012 0 [0x01] [BitVec.ofNat 8 e.1] else s) s

/-- AVS_ADJUST (R366): every 1 s. -/
def execAvsAdjust (want : List (Option Int)) (s : State) : Host.Outcome State Fault Refusal :=
  s.whenLive fun s =>
    if s.urn.trimAt + msTicks 1000 ≤ s.tick then
      ({ s with urn := { s.urn with trimAt := s.tick } }).adjustRails want
    else s

end Sys2Proof.Machine
end

