-- ==== Sys2Proof/Machine/Cup.lean ====
section
/-! DEFINITION. Cups (R106 to R128): states and the power behind them (R120, R121, R372), gating (R355, R356), borders
(R106 to R110), flips (R115 to R119), captures and readback (R122 to R124), the steep pass and the digest (R125, R126),
and a change of domain (R108). -/

namespace Sys2Proof.Machine

/-! ### Small readings -/

/-- CUP_STATE.STATE: 0 OFF, 1 DORMANT, 2 RUN. -/
def State.cupState (s : State) (c : Nat) : Nat := s.fld ⟨.cupState, c, 0⟩ 1 0

/-- CUP_STATE.TARGET. -/
def State.cupTarget (s : State) (c : Nat) : Nat := s.fld ⟨.cupState, c, 0⟩ 9 8

/-- CUP_STATE.HELD. -/
def State.held (s : State) (c : Nat) : Bool := s.flag ⟨.cupState, c, 0⟩ 11

/-- LOAD_STAT.SHADOW: 0 empty, 1 loading, 2 ready, 3 invalid. -/
def State.shadow (s : State) (c : Nat) : Nat := s.fld ⟨.cupLoadStat, c, 0⟩ 23 22

/-- URN_CLS.GATED. -/
def State.gated (s : State) (c : Nat) : Bool := s.flag ⟨.urnCls, c, 0⟩ 29

/-- A debug session is open for a domain (R356, R424). -/
def State.debugged (s : State) (d : Nat) : Bool := s.sess.any fun e => e.2.isOpen && e.2.dom == d

/-- A digest kept in twelve registers, least significant byte first (R128). -/
def State.digest (s : State) (n : RegName) (c : Nat) : BitVec 384 :=
  BitVec.ofNat 384 ((List.range 12).foldr (fun j acc => (s.reg ⟨n, c, j⟩).toNat + 2 ^ 32 * acc) 0)

/-- Stores a digest. -/
def State.setDigest (s : State) (n : RegName) (c : Nat) (d : BitVec 384) : State :=
  (List.range 12).foldl (fun (s : State) j => s.setReg ⟨n, c, j⟩ (BitVec.ofNat 32 (d.toNat / 2 ^ (32 * j)))) s

/-- The divider grants of the quadrant a cup is (R78). -/
def State.divGrants (s : State) (c : Nat) : Word :=
  match s.leafOfCup c with
  | some p => s.reg ⟨.leafDivgrant, p, c % 4⟩
  | none => 0

/-- Changes the configuration port's list of loads of a cup's leaf (R88). -/
def State.modLoads (s : State) (c : Nat) (f : List Nat → List Nat) : State :=
  match s.leafOfCup c with
  | some p => s.modLeaf p fun x => { x with loads := f x.loads }
  | none => s

/-- The DRIVE words of a cup's four sides. -/
def State.drives (s : State) (c : Nat) : List Word := (List.range 4).map fun sd => s.reg ⟨.cupBdrv, c, sd⟩

/-- Cups an SP_ARG mask of an entry names (R180). -/
def State.spCups (s : State) (e : Nat) : List Nat := (List.range 192).filter fun c => s.spNames e c

/-! ### Writes held from a final check to the tick (R186) -/

/-- The entries that are FINAL. -/
def State.finals (s : State) : List Nat := (List.range 256).filter fun e => s.fld ⟨.spCtl, e, 0⟩ 31 29 == 3

/-- A FINAL flip names a cup. -/
def State.finalFlip (s : State) (c : Nat) (e : Nat) : Bool := s.spAction e == 1 && s.spNames e c

/-- A FINAL border action is on a cup. -/
def State.finalBorder (s : State) (c : Nat) (e : Nat) : Bool := s.spAction e == 3 && bits ((s.spEnt e).arg 0) 7 0 == c

/-- The cup whose register a held write writes. -/
def writeCup : Instr → Option Nat
  | .cupStateReq _ c _ => some c.val
  | .cupBrdReqWrite _ c _ _ => some c.val
  | .cupBdrvWrite _ c _ _ => some c.val
  | _ => none

/-- Performs a write, or holds it while FINAL entries that `p` selects would lose a precondition: the command kept is
applied at tick EXEC + 1 of the last of them. -/
def State.holdOr (s : State) (p : Nat → Bool) (i : Instr) (act : State → State) : State :=
  match s.finals.filter fun e => p e && decide (s.tick ≤ s.spLocalTick e) with
  | [] => act s
  | l => { s with heldWrites := s.heldWrites ++ [((l.map s.spLocalTick).foldl max 0, i)] }

/-! ### States (R120, R121) -/

/-- A cup loses its state: registers, block RAM, clocks and grant (R120, R372).  The capture latches and CUP_CAP.VALID stay
(R123; log entry 113). -/
def State.cupOff (s : State) (c : Nat) : State :=
  let s := s.setFields ⟨.cupState, c, 0⟩ [(11, 11, 0), (10, 10, 0), (1, 0, 0)]
  let s := (s.setFlag ⟨.cupCap, c, 0⟩ 2 false).setFlag ⟨.urnCls, c, 0⟩ 29 false
  let s := s.modCup c fun x =>
    { x with fab := { waitE1 := x.fab.waitE1 ++ x.fab.waitE2.filter fun n => !x.fab.waitE1.contains n }, old := none,
             clearing := [], clocksOn := false, stopTick := none, moving := false, deferred := none, emulated := false,
             capWait := [], capHold := false, awake := false }
  ((s.unask c).keepUnits c 0).followLatches

/-- Asks for what a transition needs; PENDING until the grant. -/
def State.askMove (s : State) (c total : Nat) : State :=
  if s.grant c < total then (s.setFlag ⟨.cupState, c, 0⟩ 10 true).askUnits c (total - s.grant c)
  else s.modCup c fun x => { x with moving := true }

/-- Forgets a pending or deferred request of a cup: a new one replaces it. -/
def State.dropReq (s : State) (c : Nat) : State :=
  let s := (s.unask c).setFlag ⟨.cupState, c, 0⟩ 10 false
  let s := { s with urn := { s.urn with deferred := s.urn.deferred.filter fun e => e.1 != c } }
  s.modCup c fun x => { x with deferred := none, moving := false }

/-- Defers a request on client n while a lease that `p` selects is held (R378). -/
def State.deferOn (s : State) (n : Nat) (p : Lease → Bool) : State :=
  let deferred := s.urn.deferred.filter (fun e => e.1 != n) ++ [(n, s.tick)]
  let leases := s.leases.map fun (e : Nat × Lease) =>
    if p e.2 then (e.1, { e.2 with deferAt := some (e.2.deferAt.getD s.tick) }) else e
  let s := { s with urn := { s.urn with deferred }, leases }
  s.countUp ⟨.urnDefer, 0, 0⟩ 15 0

/-- The capture readback of a cup holds its lease. -/
def readbackLease (c : Nat) (l : Lease) : Bool := l.cls == .captureReadback && l.rs.contains (.cup c)

/-- A request for a state, TARGET t, of a cup that is present (R24, R121, R378, R424). -/
def State.stateReq (s : State) (c t : Nat) : State :=
  if s.cupGone c then s
  else
  let was := s.cupTarget c
  let st := s.cupState c
  let s := (s.dropReq c).setFld ⟨.cupState, c, 0⟩ 9 8 t
  match t, st with
  | 0, _ =>
    if s.leases.any fun e => readbackLease c e.2 then
      (s.deferOn c (readbackLease c)).modCup c fun x => { x with deferred := some 0 }
    else s
  | 1, 0 => s.askMove c 1
  | 1, 1 => if (s.cup c).emulated then s else s.keepUnits c 1
  | 1, _ =>
    if s.debugged (s.cupDom c) then
      (s.setFld ⟨.cupState, c, 0⟩ 1 0 1).modCup c fun x => { x with emulated := true }
    else s.modCup c fun x => { x with stopTick := some (x.stopTick.getD s.nextTick) }
  | _, 0 => s.askMove c 1
  | _, 1 => if (s.cup c).emulated then s.modCup c fun x => { x with moving := true }
      else s.askMove c (max 1 (s.need c))
  | _, _ => if was = 1 ∧ s.gated c = false then s.modCup c fun x => { x with stopTick := none } else s

/-- A request that would break the precondition of a FLIP (R183): it releases the grant of a cup in RUN, or takes a cup
to RUN that would hold no firm grant there. -/
def State.releases (s : State) (c t : Nat) : Bool :=
  if s.cupState c = 2 then t != 2 else t == 2 && !s.firm c

/-- A write of CUP_STATE_REQ by master m; the reserved value changes nothing (R11, R128, R186). -/
def State.writeStateReq (s : State) (m : Nat) (c : Fin 192) (v : Word) : State :=
  let t := bits v 1 0
  if t = 3 then s
  else s.holdOr (fun e => s.finalFlip c.val e && s.releases c.val t) (.cupStateReq m c v) fun s => s.stateReq c.val t

/-- CUP_STATE_REQ (R121). -/
def execCupStateReq (m : Nat) (c : Fin 192) (v : Word) (s : State) : Host.Outcome State Fault Refusal :=
  s.writeCommand m ⟨.cupStateReq, c.val, 0⟩ v fun s => s.writeStateReq m c v

/-- The fabric as a cup leaves OFF: registers at INIT, block RAMs zero, coefficients at B_INIT (R121).  What the outputs
of block RAMs and the crossing registers hold then the spec does not say: both are 0 (R68, R79; DESIGN CHOICE, log entry
86). -/
def powerOnFab (pl : Plane) (old : FabSt) : FabSt :=
  let f : FabSt := (List.range 4).foldl (fun f n => initMacs pl (gatedRegs pl n) (loadInit pl n f)) {}
  { f with waitE1 := old.waitE1 }

/-- A cup on its way out of OFF reaches DORMANT (R121): on to RUN where that is the target. -/
def State.toDormant (s : State) (c : Nat) : State :=
  let s := ((s.modCup c fun x => { x with fab := powerOnFab x.active x.fab, moving := false }).setFld
    ⟨.cupState, c, 0⟩ 1 0 1).followLatches
  if s.cupTarget c = 2 then s.askMove c (max 1 (s.need c)) else s

/-- CUP_OFF_TO_DORMANT_DONE (R121). -/
def execCupOffToDormantDone (c : Fin 192) (s : State) : Host.Outcome State Fault Refusal :=
  s.whenServing fun s =>
    if s.cupState c.val = 0 ∧ (s.cup c.val).moving = true ∧ 1 ≤ s.cupTarget c.val then s.toDormant c.val else s

/-- A cup on its way from DORMANT reaches RUN (R121): its lines run from the first edge after the next tick. -/
def State.toRun (s : State) (c : Nat) : State :=
  (s.setFld ⟨.cupState, c, 0⟩ 1 0 2).modCup c fun x =>
    { x with moving := false, emulated := false, clocksOn := true, stopTick := none, startRoot := 16 * s.nextTick,
             idleSince := s.tick }

/-- CUP_CLOCKS_START (R121). -/
def execCupClocksStart (c : Fin 192) (s : State) : Host.Outcome State Fault Refusal :=
  s.whenServing fun s =>
    if s.cupState c.val = 1 ∧ (s.cup c.val).moving = true ∧ s.cupTarget c.val = 2 then s.toRun c.val else s

/-- Every running line has given its last edge after the tick at which the cup stops. -/
def CupSt.stopped (x : CupSt) : Bool :=
  match x.stopTick with
  | some t => x.active.lines.all fun n => decide (16 * t < nget x.lastEdge n 0)
  | none => false

/-- CUP_CLOCKS_STOP (R121): all lines have given their last edge; all but 1 unit is released. -/
def execCupClocksStop (c : Fin 192) (s : State) : Host.Outcome State Fault Refusal :=
  s.whenServing fun s =>
    if s.cupState c.val = 2 ∧ s.cupTarget c.val = 1 ∧
        ((s.cup c.val).stopped = true ∨ s.held c.val = true) then
      let s := s.setFields ⟨.cupState, c.val, 0⟩ [(11, 11, 0), (1, 0, 1)]
      let s := s.setFlag ⟨.urnCls, c.val, 0⟩ 29 false
      (s.modCup c.val fun x => { x with clocksOn := false, stopTick := none, capHold := false }).keepUnits c.val 1
    else s

/-- CUP_TO_OFF_DONE (R121). -/
def execCupToOffDone (c : Fin 192) (s : State) : Host.Outcome State Fault Refusal :=
  s.whenServing fun s =>
    if s.cupTarget c.val = 0 ∧ (s.cup c.val).deferred = none ∧ (s.cupState c.val ≠ 0 ∨ s.grant c.val ≠ 0) then
      s.cupOff c.val
    else s

/-! ### Gating (R355, R356) -/

/-- A cup has port work pending. -/
def State.portWork (s : State) (c : Nat) : Bool :=
  let x := s.cup c
  (x.sin.any fun e => !e.2.pkts.isEmpty) || !x.rq.resp.isEmpty || !x.status.isEmpty || x.statusLost != 0 ||
  ((List.range 8).any fun n =>
    ((s.queue (.ingress (Fin.ofNat 192 c) (Fin.ofNat 8 n))).pkts.head?.any Pkt.closed)) ||
  (x.egFull.any fun n => decide ((s.queue (.egress (Fin.ofNat 192 c) (Fin.ofNat 8 n))).used < 512))

/-- CUP_GATE_STOP (R355): AWAKE and port work absent for 16 ticks; the lines stop after the first edge of each after the
next tick. -/
def execCupGateStop (c : Fin 192) (s : State) : Host.Outcome State Fault Refusal :=
  s.whenServing fun s =>
    let x := s.cup c.val
    if s.cupState c.val = 2 ∧ x.active.bound 11 = true ∧ x.clocksOn = true ∧ x.stopTick = none ∧ s.held c.val = false ∧
        s.gated c.val = false ∧ x.fab.waitE1 = [] ∧ x.capWait = [] ∧ s.debugged (s.cupDom c.val) = false ∧
        x.awake = false ∧ s.portWork c.val = false ∧ x.idleSince + 16 ≤ s.tick then
      (s.setFlag ⟨.urnCls, c.val, 0⟩ 29 true).modCup c.val fun x => { x with stopTick := some s.nextTick }
    else s

/-- Wakes a gated cup; edges fall after root cycle r.  One on its way to DORMANT stops again after the next tick (R121). -/
def State.ungate (s : State) (c r : Nat) : State :=
  if s.gated c then
    let stop := if s.cupTarget c = 1 then some s.nextTick else none
    (s.setFlag ⟨.urnCls, c, 0⟩ 29 false).modCup c fun x =>
      { x with stopTick := stop, startRoot := r, idleSince := s.tick }
  else s

/-- CUP_GATE_WAKE (R355): new work, or a session, restarts the lines after the next tick. -/
def execCupGateWake (c : Fin 192) (s : State) : Host.Outcome State Fault Refusal :=
  s.whenServing fun s =>
    if s.portWork c.val || (s.cup c.val).awake || s.debugged (s.cupDom c.val) then s.ungate c.val (16 * s.nextTick)
    else s

/-! ### Borders (R106 to R109) -/

/-- The neighbour across a segment is of the cup's own domain, and present. -/
def State.sameDomAcross (s : State) (c sd : Nat) : Bool :=
  match cupAcross c sd with
  | some (r, _) => s.cupDom r == s.cupDom c
  | none => false

/-- A side faces the outside, an absent leaf or one retired in service (R108). -/
def State.facesNone (s : State) (c sd : Nat) : Bool :=
  match cupAcross c sd with
  | some (r, _) => s.cupGone r
  | none => true

/-- The modes a write asks for, over the present ones: a reserved mode keeps its segment's. -/
def mergeModes (old new : Word) : Word :=
  (List.range 10).foldl
    (fun (w : Word) n => if bits new (2 * n + 1) (2 * n) = 3 then w else putBits w (2 * n + 1) (2 * n)
      (bits new (2 * n + 1) (2 * n))) (putBits old 29 20 (bits new 29 20))

/-- A BRD word asks for PASS or HOLD on some segment. -/
def asksOpen (w : Word) : Bool := (List.range 10).any fun n => inRange 1 2 (bits w (2 * n + 1) (2 * n))

/-- The modes that may stand on a side (R108): CLAMP0 alone where it faces the outside, an absent leaf, or a cup of another
domain. -/
def State.legalModes (s : State) (c sd : Nat) (w : Word) : Word :=
  if s.facesNone c sd || !s.sameDomAcross c sd then putBits w 19 0 0 else w

/-- R108 refuses a mode write whole. -/
def State.modesRefused (s : State) (c sd : Nat) (w : Word) : Bool :=
  !s.facesNone c sd && !s.sameDomAcross c sd && asksOpen w

/-- What the wires of a segment read now. -/
def State.segInput (s : State) (c sd p j : Nat) : Bool :=
  let (x, y) := match sd with
    | 0 => (p, 0)
    | 1 => (159, p)
    | 2 => (p, 159)
    | _ => (0, p)
  s.cellInput .before c x y (4 * sd + j)

/-- A segment keeps what it read as its modes change from `old` to `w`: it enters HOLD (R106), or enters PASS or takes
another FLIPMODE, which a flip window that is open may turn into HOLD (R110). -/
def keepsRead (old w : Word) (n : Nat) : Bool :=
  inRange 1 2 (bits w (2 * n + 1) (2 * n)) &&
    (bits w (2 * n + 1) (2 * n) != bits old (2 * n + 1) (2 * n) || bit w (20 + n) != bit old (20 + n))

/-- New applied modes of a side: segments keep what they read where R106 and R110 say so, and a change is reported in one
event (R107). -/
def State.applyModes (s : State) (c sd : Nat) (w : Word) : State :=
  let k : RegKey := ⟨.cupBrd, c, sd⟩
  let old := s.reg k
  let keep := (List.range 10).filter (keepsRead old w)
  let s1 := s.modCup c fun x => keep.foldl (fun (x : CupSt) n => x.holdSeg sd n fun p j => s.segInput c sd p j) x
  let s2 := s1.setReg k w
  (if bits w 19 0 = bits old 19 0 then s2 else s2.statusEvent c 5 sd 0).followLatches

/-- A write of CUP_BRD_REQ[side] (R107, R108). -/
def State.brdReq (s : State) (c sd : Nat) (v : Word) : State :=
  if s.inHold || s.modesRefused c sd v then s.setFlag ⟨.cupBdrv, c, sd⟩ 31 true
  else
    let base := ((s.cup c).brdPend.find? fun e => e.1 == sd).map (·.2)
    let w := s.legalModes c sd (mergeModes (base.getD (s.reg ⟨.cupBrd, c, sd⟩)) v)
    s.modCup c fun x => { x with brdPend := nset x.brdPend sd w }

/-- The write as its master makes it, held while it would break a FINAL entry (R186). -/
def State.writeBrdReq (s : State) (m : Nat) (c : Fin 192) (side : Fin 4) (v : Word) : State :=
  s.holdOr (fun e => s.finalFlip c.val e || s.finalBorder c.val e) (.cupBrdReqWrite m c side v)
    fun s => s.brdReq c.val side.val v

/-- CUP_BRD_REQ_WRITE (R107). -/
def execCupBrdReqWrite (m : Nat) (c : Fin 192) (side : Fin 4) (v : Word) (s : State) :
    Host.Outcome State Fault Refusal :=
  s.writeCommand m ⟨.cupBrdReq, c.val, side.val⟩ v fun s => s.writeBrdReq m c side v

/-- BORDER_APPLY (R107): accepted modes are applied. -/
def execBorderApply (c : Fin 192) (side : Fin 4) (s : State) : Host.Outcome State Fault Refusal :=
  s.whenLive fun s =>
    match look (s.cup c.val).brdPend side.val with
    | some w =>
      let s := s.modCup c.val fun x => { x with brdPend := erase x.brdPend side.val }
      s.applyModes c.val side.val (s.legalModes c.val side.val w)
    | none => s

/-- A BRD word with the segments of a list at CLAMP0. -/
def clampWord (l : List Nat) (w : Word) : Word := l.foldl (fun (w : Word) n => putBits w (2 * n + 1) (2 * n) 0) w

/-- The neighbour's segments that face segments l of side sd go to CLAMP0, in one change of that side's modes (R107). -/
def State.clampFacing (s : State) (c sd : Nat) (l : List Nat) : State :=
  match cupAcross c sd with
  | some (r, _) =>
    let back := (sd + 2) % 4
    let s := s.modCup r fun x =>
      { x with brdPend := x.brdPend.map fun e => if e.1 = back then (e.1, clampWord l e.2) else e }
    s.applyModes r back (clampWord l (s.reg ⟨.cupBrd, r, back⟩))
  | none => s

/-- Clears DRIVE bits of a side: the neighbour's facing segments go to CLAMP0 and the shadow plane is to be checked
again (R109). -/
def State.clearDrive (s : State) (c sd : Nat) (mask : Word) : State :=
  let k : RegKey := ⟨.cupBdrv, c, sd⟩
  let gone := (List.range 10).filter fun n => bit (s.reg k) n && bit mask n
  let s := s.setReg k (s.reg k &&& ~~~ (mask &&& 0x3FF))
  if gone.isEmpty then s
  else (s.clampFacing c sd gone).modCup c fun x => { x with recheck := true }

/-- A write of CUP_BDRV[side] (R108, R109). -/
def State.bdrvWrite (s : State) (c sd : Nat) (v : Word) : State :=
  let k : RegKey := ⟨.cupBdrv, c, sd⟩
  let s := if bit v 31 then s.setFlag k 31 false else s
  let old := bits (s.reg k) 9 0
  let new := bits v 9 0
  let sets := (List.range 10).any fun n => new.testBit n && !old.testBit n
  if s.inHold || sets && (s.facesNone c sd || !s.sameDomAcross c sd) then s.setFlag k 31 true
  else (s.clearDrive c sd (~~~ v)).setFld k 9 0 new

/-- The write as its master makes it (R186). -/
def State.writeBdrv (s : State) (m : Nat) (c : Fin 192) (side : Fin 4) (v : Word) : State :=
  let clears := (List.range 10).any fun n => s.flag ⟨.cupBdrv, c.val, side.val⟩ n && !bit v n
  s.holdOr (fun e => clears && s.finalFlip c.val e) (.cupBdrvWrite m c side v) fun s => s.bdrvWrite c.val side.val v

/-- CUP_BDRV_WRITE (R109). -/
def execCupBdrvWrite (m : Nat) (c : Fin 192) (side : Fin 4) (v : Word) (s : State) :
    Host.Outcome State Fault Refusal :=
  s.writeCommand m ⟨.cupBdrv, c.val, side.val⟩ v fun s => s.writeBdrv m c side v

/-- SHADOW_RECHECK (R127): checks 0110 and 0111 run again on the shadow plane with the values in force. -/
def execShadowRecheck (c : Fin 192) (s : State) : Host.Outcome State Fault Refusal :=
  s.whenLive fun s =>
    if (s.cup c.val).recheck then
      let bad := (resieve (s.cup c.val).shadow (c.val % 4) (s.divGrants c.val) (s.drives c.val)).isSome
      let s := s.modCup c.val fun x => { x with recheck := false }
      if bad && s.shadow c.val == 2 then s.setFld ⟨.cupLoadStat, c.val, 0⟩ 23 22 3 else s
    else s

/-- The Kettle's part in a change of a cup's domain: borders of both sides to CLAMP0, DRIVE bits of both sides cleared,
then CUP_OWNER (R108). -/
def State.changeOwner (s : State) (c d : Nat) : State :=
  let s := (List.range 4).foldl
    (fun (s : State) sd =>
      let s := (s.modCup c fun x => { x with brdPend := erase x.brdPend sd }).applyModes c sd
        (putBits (s.reg ⟨.cupBrd, c, sd⟩) 19 0 0)
      let s := s.clampFacing c sd (List.range 10)
      let s := s.clearDrive c sd 0x3FF
      match cupAcross c sd with
      | some (r, _) => s.clearDrive r ((sd + 2) % 4) 0x3FF
      | none => s) s
  s.setReg ⟨.cupOwner, c, 0⟩ (BitVec.ofNat 32 d)

/-! ### Captures (R122, R123) -/

/-- The two words that region 2 holds of a block (R124), as its plane lays them out: the W-side register at 31:0, then
the E-side; each is taken at the capture point of its port's line, `a` and `b` saying whose that is. -/
def captureOut (w : Word) (o : BramOut) (a b : Bool) (was : BitVec 64) : BitVec 64 :=
  if bits w 1 0 = 3 then (if !b then was else if bit w 13 then o.oregB else 0)
  else
    let lo := if a then (if bit w 12 then o.oregA.setWidth 32 else 0) else was.setWidth 32
    let hi := if b then (if bit w 13 then o.oregB.setWidth 32 else 0) else (was >>> 32).setWidth 32
    hi ++ lo

/-- The latches take the registers of lines that `p` selects, as the fabric stands. -/
def CupSt.captureLines (x : CupSt) (p : Nat → Bool) : CupSt :=
  let pl := x.active
  let f := x.fab
  let lines := (List.range 4).filter p
  let macs := lines.foldl
    (fun (l : List (Nat × Bool)) n => (lineRegs pl n).foldl
      (fun (l : List (Nat × Bool)) (e : Nat × Nat × Nat) =>
        let k := 4 * cellIndex e.1 e.2.1 + e.2.2
        nput l k (nget f.macs k false) false) l) x.capMacs
  let math := ((List.range 400).filter fun b => lines.contains (mathLine pl b)).foldl
    (fun (l : List (Nat × MathSt)) b => nput l b (nget f.math b {}) {}) x.capMath
  let out := ((List.range 200).filter fun b => !pl.allTaps.contains b).foldl
    (fun (l : List (Nat × BitVec 64)) b =>
      nput l b (captureOut (pl.bramW b) (nget f.bramOut b {}) (lines.contains (bits (pl.bramW b) 5 4))
        (lines.contains (bits (pl.bramW b) 7 6)) (nget l b 0)) 0) x.capOut
  { x with capMacs := macs, capMath := math, capOut := out }

/-- Every line has been captured. -/
def State.captureDone (s : State) (c : Nat) (hold : Bool) : State :=
  let s := s.setFields ⟨.cupCap, c, 0⟩ [(1, 1, b2n hold), (0, 0, 1)]
  let s := s.modCup c fun x => { x with capUnread := true, capWait := [], capHold := hold && s.cupState c == 2 }
  if hold && s.cupState c == 2 then s.setFlag ⟨.cupState, c, 0⟩ 11 true else s

/-- A CAPTURE of cup c at the present swap point, for the event's entry. -/
def State.capture (s : State) (c entry : Nat) (hold : Bool) : State :=
  let s := s.statusEvent c 4 0 entry
  if s.cupState c = 0 then s
  else
    let s := s.ungate c s.root
    let s := if (s.cup c).capUnread then s.setFlag ⟨.cupCap, c, 0⟩ 3 true else s
    let x := s.cup c
    let clear : CupSt := { x with capMacs := [], capMath := [], capOut := [] }
    if s.cupState c = 1 || s.held c || x.active.lines.isEmpty then
      let was := s.held c
      let s := (s.setCup c (clear.captureLines fun _ => true)).captureDone c hold
      s.setFlag ⟨.cupState, c, 0⟩ 11 (was || s.held c)
    else
      let lines := x.active.lines
      s.setCup c { (clear.captureLines fun n => !lines.contains n) with
        capWait := lines, capRoot := s.root,
        capHold := hold || (x.capHold && !x.capWait.isEmpty && x.capRoot == s.root) }

/-- A write of CUP_CAP: RELEASE resumes a held cup after the next tick; OVERWRITTEN clears (R122, R128). -/
def State.writeCap (s : State) (c : Nat) (v : Word) : State :=
  let s := if bit v 3 then s.setFlag ⟨.cupCap, c, 0⟩ 3 false else s
  if bit v 2 ∧ s.held c = true ∧ s.flag ⟨.cupCap, c, 0⟩ 2 = false then
    (s.setFlag ⟨.cupCap, c, 0⟩ 2 true).modCup c fun x => { x with startRoot := 16 * s.nextTick, capHold := false }
  else s

/-- CAPTURE_RELEASE (R122). -/
def execCaptureRelease (m : Nat) (c : Fin 192) (v : Word) (s : State) : Host.Outcome State Fault Refusal :=
  s.writeCommand m ⟨.cupCap, c.val, 0⟩ v fun s => s.writeCap c.val v

/-! ### Flips (R115 to R119) -/

/-- The words of a block count as unwritten (R69). -/
def unwrittenBlock (l : List (Nat × Nat)) (b : Nat) : List (Nat × Nat) :=
  (List.range 2048).foldl (fun l a => nput l (2048 * b + a) 2 0) l

/-- A port keeps its taps and its width from one plane to the next. -/
def samePort (old new : Plane) (w : Nat) : Bool :=
  old.bound w && new.bound w && old.portFirst w == new.portFirst w && old.portSlices w == new.portSlices w

/-- Blocks that the new plane clears at the flip, on a line that runs (R117). -/
def clearBlocks (new : Plane) : List Nat :=
  (List.range 200).filter fun b =>
    bit (new.bramW b) 14 && new.lineRuns (bits (new.bramW b) 5 4) && !new.allTaps.contains b

/-- The fabric at a swap point (R69, R115, R117, R118): registers whose line the new plane does not run, or gates off in
their cell, take INIT; blocks that become or stop being taps hold zeros; words of a block whose ECC the new plane turns
on count as unwritten; the DOUT of a block to be cleared reads 0; a port that has moved to other taps offers nothing
until its E2; and every running line is due its E1. -/
def swapFab (old new : Plane) (f : FabSt) : FabSt :=
  let f := ((List.range 4).filter fun n => !new.lineRuns n).foldl (fun f n => loadInit new n f) f
  let f := (List.range 4).foldl (fun f n => initMacs new (gatedRegs new n) f) f
  let same := ((List.range 11).map (· + 1)).filter (samePort old new)
  let taps := (List.range 200).filter fun b => old.allTaps.contains b != new.allTaps.contains b
  let eccOn := (List.range 200).filter fun b =>
    bit (new.bramW b) 3 && !bit (old.bramW b) 3 && !taps.contains b && !new.allTaps.contains b
  let keep (k : Nat) : Bool := !taps.contains (k / 2048)
  { f with bram := f.bram.filter (fun e => keep e.1),
           bramErr := eccOn.foldl unwrittenBlock (f.bramErr.filter (fun e => keep e.1)),
           bramOut := f.bramOut.filter (fun e => !taps.contains e.1 && !(clearBlocks new).contains e.1),
           waitE1 := new.lines, waitE2 := [],
           portD := f.portD.filter (fun e => same.any fun w =>
             decide (new.portFirst w ≤ e.1 ∧ e.1 < new.portFirst w + new.portSlices w)),
           portC := f.portC.filter (fun e => same.contains e.1) }

/-- PASS segments facing the cup keep what they read where FLIPMODE is HOLD, at sides without crossing registers
(R110, R116). -/
def State.freezeFacing (s : State) (c : Nat) : State :=
  (List.range 4).foldl
    (fun (s : State) sd =>
      match cupAcross c sd with
      | some (r, false) =>
        let back := (sd + 2) % 4
        ((List.range 10).filter fun n => s.segMode r back n == 1 && !s.segFlipClamp r back n).foldl
          (fun (s : State) n =>
            let s0 := s
            s.modCup r fun x => x.holdSeg back n fun p j => s0.segInput r back p j) s
      | _ => s) s

/-- A capture that waits for edges as the planes exchange: one of this swap point is made at once over the old plane
(R123), and lines that the new plane does not run are captured as they stand. -/
def State.captureAtSwap (s : State) (c : Nat) (new : Plane) : State :=
  let x := s.cup c
  if x.capWait.isEmpty then s
  else
    let now := if x.capRoot = s.root then x.capWait else x.capWait.filter fun n => !new.lineRuns n
    let left := x.capWait.filter fun n => !now.contains n
    let s := s.setCup c { (x.captureLines fun n => now.contains n) with capWait := left }
    if left.isEmpty then s.captureDone c x.capHold else s

/-- The planes of a cup exchange at the present root cycle (R115, R118, R119).  Blocks that the new plane clears stand
still from now until 256 edges of CLK_A have followed its E1 (R117); a clear still running from the flip before ends
unfinished, which the spec does not settle (DESIGN CHOICE, log entry 87).  AWAKE reads 0 without a status port (R105). -/
def State.flip (s : State) (c : Nat) (startup : Bool) : State :=
  let s := (s.captureAtSwap c (s.cup c).shadow).freezeFacing c |>.ungate c s.root
  let edig := s.digest .cupEdig c
  let x := s.cup c
  let new := x.shadow
  let y : CupSt := { x with
    bank := !x.bank, fab := swapFab x.active new x.fab, old := none, clearing := (clearBlocks new).map fun b => (b, 256),
    swapRoot := s.root, xdig := edig, passCut := true, awake := x.awake && new.bound 11,
    sin := x.sin.filter (fun e => new.bound (1 + e.1)), sout := x.sout.filter (fun e => new.bound (5 + e.1)),
    rq := if new.bound 9 then x.rq else {}, egHeld := if new.bound 10 then x.egHeld else none }
  let s := (s.setCup c y).dropWait fun w => (List.range 4).any fun n => w.owner == .sout c n && !new.bound (5 + n)
  let s := (s.setDigest .cupEdig c x.xdig).setDigest .cupSdig c edig
  (s.setFld ⟨.cupLoadStat, c, 0⟩ 23 22 (if startup then 0 else 2)).followLatches

/-! ### Readback (R124) -/

/-- Bytes of regions 0 to 3 of a cup: the capture latches, and the block contents as they stand. -/
def CupSt.regionBytes (x : CupSt) (r : Nat) : List Byte :=
  match r with
  | 0 => (List.range 8000).map fun i => BitVec.ofNat 8 (ofBools ((List.range 8).map fun j => nget x.capMacs (8 * i + j) false))
  | 1 => (List.range 400).flatMap fun b =>
      let m := nget x.capMath b {}
      let w1 := m.b16.toNat + 2 ^ 16 * b2n m.ce + 2 ^ 17 * b2n m.load + 2 ^ 18 * b2n m.loadB + 2 ^ 19 * b2n m.rst +
        2 ^ 20 * b2n m.neg
      leBytes 4 m.a.toNat ++ leBytes 4 w1 ++ leBytes 4 m.coef.toNat ++ leBytes 8 m.m.toNat ++ leBytes 8 m.p.toNat ++
        leBytes 4 0
  | 2 => (List.range 200).flatMap fun b => leBytes 8 (nget x.capOut b 0).toNat
  | _ => (List.range 200).flatMap fun b =>
      if x.active.allTaps.contains b then List.replicate 16384 0
      else (List.range 2048).flatMap fun a => leBytes 8 (nget x.fab.bram (2048 * b + a) 0).toNat

/-- Lengths of the regions in bytes. -/
def regionLen (r : Nat) : Nat := match r with
  | 0 => 8000
  | 1 => 12800
  | 2 => 1600
  | _ => 3276800

/-- The regions a mask selects, in order. -/
def regionList (mask : Nat) : List Nat := (List.range 4).filter fun r => mask.testBit r

/-- A domain may write an extent of HBM (R279). -/
def State.mayWrite (s : State) (d a len : Nat) : Bool :=
  (pieces a len).all fun p => (s.hbmRight d p.1 true).isSome && (s.hbmRight d (p.1 + p.2 - 1) true).isSome

/-- A domain may read an extent of HBM. -/
def State.mayRead (s : State) (d a len : Nat) : Bool :=
  (pieces a len).all fun p => (s.hbmRight d p.1 false).isSome && (s.hbmRight d (p.1 + p.2 - 1) false).isSome

/-- Ends a readback with STATUS and CODE. -/
def State.rbEnd (s : State) (c code : Nat) : State :=
  (s.modCup c fun x => { x with rbJob := none }).setFields ⟨.cupRbCmd, c, 0⟩
    [(31, 30, if code = 0 then 2 else 3), (7, 4, code)]

/-- A master of a domain: its own host function's, whose refusals carry the domain's latency. -/
def domMid (d : Nat) : Nat := match tenantOf d with
  | some n => 0x201 + n
  | none => 0x181

/-- A readback fails with DENIED or BUSY for its requester, at the latency of refusals from its start (R397, R415). -/
def State.rbFail (s : State) (c : Nat) (j : RbJob) (code : Nat) : State :=
  (s.modCup c fun x => { x with rbJob := none }).failSince j.since (domMid j.dom) ⟨.cupRbCmd, c, 0⟩ [(31, 30, 3), (7, 4, code)]

/-- The readback takes its lease, or fails with BUSY for the requester at the latency of refusals (R395, R397, R415). -/
def State.rbLease (s : State) (c : Nat) : State :=
  match (s.cup c).rbJob with
  | some j =>
    match s.leaseTry .captureReadback [.cup c] j.dom with
    | (s, true) => s.modCup c fun x => { x with rbJob := some { j with waiting := false } }
    | (s, false) => s.rbFail c j 2
  | none => s

/-- The steep pass of a cup's leaf has not yet run 10 ms since its last pause (R395). -/
def State.passYoung (s : State) (c : Nat) : Bool :=
  match s.leafOfCup c with
  | some p => (s.leased .steepPass (.leaf p)) && (match (s.leaf p).resumedAt with
      | some t => decide (s.tick < t + msTicks 10)
      | none => false)
  | none => false

/-- A write of CUP_RB_CMD (R124, R128): REGIONS is stored, and starts a readback unless one runs. -/
def State.writeRbCmd (s : State) (m c : Nat) (v : Word) : State :=
  let k : RegKey := ⟨.cupRbCmd, c, 0⟩
  let mask := bits v 3 0
  let s := s.setFld k 3 0 mask
  if s.fld k 31 30 = 1 ∨ mask = 0 then s
  else
    let d := (s.midDomain m).getD 0
    let a := s.pair ⟨.cupRbAddr, c, 0⟩ ⟨.cupRbAddrHi, c, 0⟩
    let len := ((regionList mask).map regionLen).sum
    if !s.mayWrite d a len then s.failKettle m k [(31, 30, 3), (7, 4, 1)]
    else if mask.testBit 3 && s.cupState c != 1 && !s.held c then s.setFields k [(31, 30, 3), (7, 4, 3)]
    else
      let young := s.passYoung c
      let s := (s.setFields k [(31, 30, 1), (7, 4, 0)]).modCup c fun x =>
        { x with rbJob := some { regions := mask, addr := a, dom := d, waiting := young, since := s.root } }
      if young then s else s.rbLease c

/-- READBACK_START (R124). -/
def execReadbackStart (m : Nat) (c : Fin 192) (v : Word) (s : State) : Host.Outcome State Fault Refusal :=
  s.writeCommand m ⟨.cupRbCmd, c.val, 0⟩ v fun s => s.writeRbCmd m c.val v

/-- The bytes of a readback reach HBM; its lease is still held.  A readback of any of regions 0 to 2 counts as having read
the latches (R123 does not say which does; DESIGN CHOICE, log entry 88). -/
def State.rbFinish (s : State) (c : Nat) (j : RbJob) : State :=
  let data := (regionList j.regions).flatMap fun r => (s.cup c).regionBytes r
  match s.hbmPut j.dom j.addr data with
  | (s, true) =>
    let s := s.rbEnd c 0
    if (regionList j.regions).any fun r => r < 3 then s.modCup c fun x => { x with capUnread := false } else s
  | (s, false) => s.rbFail c j 1

/-! ### The steep pass (R125, R126) -/

/-- The key of a word of the active plane in `cfgErr`. -/
def CupSt.errKey (x : CupSt) (w : Nat) : Nat := (if x.bank then 787600 else 0) + w

/-- How many bits of a word are set. -/
def popCount (w : Word) : Nat := ((List.range 32).filter fun i => w.getLsbD i).length

/-- An uncorrectable configuration word (R125). -/
def State.passUe (s : State) (c w : Nat) : State :=
  let s := (s.countUp ⟨.cupScrub, c, 0⟩ 15 8).modCup c fun x => { x with passUe := true }
  let s := s.raiseEvent (0x100 + c) 1 [s.cupDom c] ([BitVec.ofNat 8 c] ++ leBytes 3 w)
  if s.flag ⟨.cupScrub, c, 0⟩ 16 && s.cupState c == 2 then s.stateReq c 1 else s

/-- One configuration word read by the pass. -/
def State.passWord (s : State) (c w : Nat) (f : WordFault) : State :=
  let x := s.cup c
  let inj := nget x.cfgErr (x.errKey w) 0
  let n := popCount inj + (match f with
    | .none => 0
    | .single _ => 1
    | .double => 2)
  if n = 0 then s
  else if n = 1 then
    let s := s.countUp ⟨.cupScrub, c, 0⟩ 7 0
    if inj = 0 then s
    else
      (s.setCup c { (x.setActive (nput x.active w (x.active.at w ^^^ inj) 0)) with
        cfgErr := erase x.cfgErr (x.errKey w) }).followLatches
  else s.injected (inj != 0) fun s => s.passUe c w

/-- A step of the pass over a cup of a leaf that is present, under the pass's lease, which it takes where it does not hold
it (R394), and not while paused (R395). -/
def State.passStep (s : State) (c : Nat) (f : State → State) : State :=
  match s.leafOfCup c with
  | some p =>
    if s.cupGone c || (s.leaf p).pausedAt.isSome then s
    else if s.leased .steepPass (.leaf p) then f s
    else match s.leaseTry .steepPass [.leaf p] 0x00 with
      | (s, true) => f s
      | (s, false) => s
  | none => s

/-- STEEP_PASS_WORD (R125). -/
def execSteepPassWord (c : Fin 192) (w : Fin 787600) (f : WordFault) (s : State) :
    Host.Outcome State Fault Refusal :=
  s.whenServing fun s => s.passStep c.val fun s => s.passWord c.val w.val f

/-- The active plane with corrected values: single flipped bits undone. -/
def CupSt.correctedPlane (x : CupSt) : Plane :=
  let base := x.errKey 0
  (x.cfgErr.filter fun e => base ≤ e.1 && e.1 < base + 787600 && popCount e.2 == 1).foldl
    (fun (pl : Plane) e => nput pl (e.1 - base) (pl.at (e.1 - base) ^^^ e.2) 0) x.active

/-- The end of a cup's part of a pass (R126). -/
def State.passEnd (s : State) (c : Nat) : State :=
  let x := s.cup c
  let k : RegKey := ⟨.cupPdigStat, c, 0⟩
  let next := 4 * (c / 4) + (c + 1) % 4
  let s := (s.modCup c fun x => { x with passUe := false, passCut := false }).modCup next fun x =>
    { x with passUe := false, passCut := false }
  if x.passCut then s.setFlag k 1 true
  else
    let d := planeDigest x.correctedPlane
    let bad := d != s.digest .cupEdig c
    let s := (s.setDigest .cupPdig c d).setPair ⟨.cupPdigTick, c, 0⟩ ⟨.cupPdigTickHi, c, 0⟩ s.tick
    let s := s.setReg k (packBits [(3, 3, b2n x.passUe), (2, 2, b2n bad), (1, 1, 0), (0, 0, 1)])
    if bad || x.passUe then
      s.injected (!x.cfgErr.isEmpty) fun s =>
        s.raiseEvent (0x100 + c) 2 [s.cupDom c] [BitVec.ofNat 8 c, BitVec.ofNat 8 (b2n bad)]
    else s

/-- STEEP_PASS_CUP_END (R126). -/
def execSteepPassCupEnd (c : Fin 192) (s : State) : Host.Outcome State Fault Refusal :=
  s.whenServing fun s => s.passStep c.val fun s => s.passEnd c.val

/-- STEEP_PASS_PAUSE_TIMEOUT (R395): a pause lasts 50 ms at most; the pass resumes beside the readback. -/
def execSteepPassPauseTimeout (p : Fin 52) (s : State) : Host.Outcome State Fault Refusal :=
  s.whenServing fun s =>
    match (s.leaf p.val).pausedAt with
    | some t => if t + msTicks 50 ≤ s.tick then
        s.modLeaf p.val fun x => { x with pausedAt := none, resumedAt := some s.tick }
      else s
    | none => s

/-- STEEP_PASS_MIN_RUN_EXPIRY (R395): the pass has run 10 ms, and a waiting readback takes its lease. -/
def execSteepPassMinRunExpiry (p : Fin 52) (s : State) : Host.Outcome State Fault Refusal :=
  s.whenServing fun s =>
    match (s.leaf p.val).resumedAt with
    | some t =>
      if t + msTicks 10 ≤ s.tick then
        match (s.cupsOfLeaf p.val).find? fun c => (s.cup c).rbJob.any (·.waiting) with
        | some c => s.rbLease c
        | none => s
      else s
    | none => s

end Sys2Proof.Machine
end

