-- ==== Sys2Proof/Machine/Lane.lean ====
section
/-! DEFINITION. Lanes (R196 to R204, R226 to R233): which lanes and ports a quad's role uses, loss of signal and lock,
retrains and their budget, power states, eye scans and the margin monitor. -/

namespace Sys2Proof.Machine

/-- Port n of quad q exists. -/
def State.hasPort (s : State) (q n : Nat) : Bool := (s.portsOf q).any fun e => e.1 == n

/-! ### Streams a lane produces -/

/-- The classifier entries of an engine that receive from a port. -/
def State.portEntries (s : State) (q n : Nat) : List ClsEnt :=
  ((s.quad q).cls.map (·.2)).filter fun e => bit e.act 31 && bit e.act (25 + n)

/-- The streams of an endpoint. -/
def State.sourcedAt (s : State) (k p : Nat) : List Nat :=
  (s.streams.filter fun e => e.2.tree.any fun t => t.srcK == k && t.srcPort == p).map (·.1)

/-- The streams produced from a lane (R196, R232): of an Ethernet port those that its classifier entries name, the
streams of merge legs among them with `legs`; of a Selov lane those its own link brings. -/
def State.laneStreams (s : State) (l : Nat) (legs : Bool := false) : List Nat :=
  let q := s.engineOf (l / 4)
  let at_ := s.sourcedAt (quadRouter q).1 (quadRouter q).2
  match s.quadRole q with
  | 1 => match s.portOfLane l with
    | some (q, n) =>
      let named := ((s.portEntries q n).filter fun e => legs || !bit e.act 21).map fun e => bits e.act 13 0
      let dflt := if s.flag ⟨.clsDefault, q, 0⟩ 31 then [s.fld ⟨.clsDefault, q, 0⟩ 13 0] else []
      at_.filter (named ++ dflt).contains
    | none => []
  | 4 => at_.filter fun x => x == s.fld ⟨.rawCtl, l, 0⟩ 13 0
  | 3 => match s.linkOfLane l with
    | some n => at_.filter ((s.link n).rx.map (·.1)).contains
    | none => []
  | _ => []

/-! ### Ports that go down (R213, R232) -/

/-- A leg of a merge pair goes DOWN, with its event (R213). -/
def State.legDown (s : State) (q i : Nat) (b : Bool) : State :=
  let k : RegKey := ⟨.mrgStat, q, i⟩
  let n := if b then 30 else 31
  if s.flag k n then s
  else (s.setFlag k n true).raiseEvent (0x500 + q) 2 [0x01] (leBytes 2 i ++ [BitVec.ofNat 8 (b2n b)])

/-- The pairs of an engine that are enabled and name a stream. -/
def State.pairsOf (s : State) (q stream : Nat) : List Nat :=
  (List.range 512).filter fun i => s.flag ⟨.mrgCfg, q, i⟩ 31 && s.fld ⟨.mrgCfg, q, i⟩ 13 0 == stream

/-- Legs whose every port is down go DOWN at once (R213). -/
def State.legsOfPort (s : State) (q n : Nat) : State :=
  if s.portUp q n then s
  else ((s.portEntries q n).filter fun e => bit e.act 21).foldl
    (fun (s : State) e =>
      if (List.range 4).any fun i => bit e.act (25 + i) && s.portUp q i then s
      else (s.pairsOf q (bits e.act 13 0)).foldl (fun (s : State) i => s.legDown q i (bit e.act 20)) s) s

/-- What a change of a lane does to its port's merge legs. -/
def State.afterLane (s : State) (l : Nat) : State :=
  match s.portOfLane l with
  | some (q, n) => s.legsOfPort q n
  | none => s

/-! ### Loss of signal and of lock (R227, R231) -/

/-- A lane of a quad in ETH or RAW role retrains (R231); the link of a controller that goes down for want of lock trains
again the same way, and counts against the lane that lost it (R232; log entry 92). -/
def State.retrainRole (s : State) (l : Nat) : Bool :=
  s.quadRole (l / 4) == 1 || s.quadRole (l / 4) == 4 || s.quadRole (l / 4) == 2

/-- Received data counts: from step 7 until the device stops (R230). -/
def State.lanePowered (s : State) (l : Nat) : Bool :=
  s.quadRole (l / 4) != 0 && (s.laneState l == 0 || s.laneState l == 1)

/-- The streams whose entries send them on a link, in ascending order. -/
def State.linkOut (s : State) (n : Nat) : List Nat :=
  (s.regs.filter fun e => e.1.name == .casSlink && bit e.2 31 && bits e.2 28 24 == n).map (·.1.j)

/-- The streams that a link carries: those its entries name leave the device at its quad, those it brought have their
source there; their destinations beyond it go LOST (R156, R343). -/
def State.linkLost (s : State) (n : Nat) : State :=
  let (k, p) := quadRouter (s.linkQuad n)
  let s := (s.linkOut n).foldl (fun (s : State) x => match (s.stream x).dstAt k p with
    | some d => s.setDst x d 4
    | none => s) s
  let s := ((s.link n).rx.map (·.1)).foldl (fun (s : State) x => s.setDsts x 4 fun _ => true) s
  s.modLink n fun x => { x with failedAt := none }

/-- The other links of a link's bundle that are up: of its quad, to its far device through one far quad, lowest number first
(R343). -/
def State.bundle (s : State) (n : Nat) : List Nat :=
  s.upLinks.filter fun m => m != n && s.linkQuad m == s.linkQuad n && s.farId m == s.farId n &&
    (s.link m).farQuad == (s.link n).farQuad

/-- Moves stream x from link n to another of its bundle where that has the slots free; its destinations beyond are lost no
more (R343). -/
def State.rerouteOne (s : State) (n : Nat) (e : RerouteEntry) : State :=
  let q := s.linkQuad n
  let k : RegKey := ⟨.casSlink, q, e.1⟩
  let w := s.reg k
  if !(s.bundle n).contains e.2 then s
  else if bit w 31 && bits w 28 24 == n && decide (bits w 9 0 ≤ s.linkFree e.2) then
    let s := s.setFld k 28 24 e.2
    match (s.stream e.1).dstAt (quadRouter q).1 (quadRouter q).2 with
    | some d => if nget (s.stream e.1).dstState d 0 = 4 then s.setDst e.1 d (s.plainState e.1 d) else s
    | none => s
  else match look (s.link n).rx e.1 with
  | some part =>
    let s := (s.modLink n fun x => { x with rx := erase x.rx e.1 }).modLink e.2 fun x => { x with rx := nset x.rx e.1 part }
    (List.range (((s.stream e.1).tree.map (·.dsts.length)).getD 0)).foldl
      (fun (s : State) d => if nget (s.stream e.1).dstState d 0 = 4 then s.setDst e.1 d (s.plainState e.1 d) else s) s
  | none => s

/-- The master's moves for a link of its own: each stream to the lowest link of the bundle with enough free slots; the
far device hears of them with REROUTE (R337, R343). -/
def State.rerouteOwn (s : State) (n : Nat) : State :=
  let (s, moves) := (s.linkOut n).foldl
    (fun (e : State × List RerouteEntry) x =>
      match (e.1.bundle n).find? fun m => decide (e.1.fld ⟨.casSlink, e.1.linkQuad n, x⟩ 9 0 ≤ e.1.linkFree m) with
      | some m => (e.1.rerouteOne n (x, m), e.2 ++ [(x, m)])
      | none => e) (s, [])
  if moves = [] then s else s.casSend (some (s.farId n)) (.reroute n moves)

/-- What becomes of a failed link's streams (R156, R343): the master moves them at once; a member's wait 10 ms for a
REROUTE while another link of the bundle is up; the others are lost. -/
def State.linkDown (s : State) (n : Nat) : State :=
  if s.bundle n = [] then s.linkLost n
  else if s.casRole = 2 then (s.rerouteOwn n).linkLost n
  else s.modLink n fun x => { x with failedAt := some s.tick }

/-- Streams of failed links that no REROUTE has moved within 10 ms are lost (R343). -/
def State.linkExpire (s : State) : State :=
  (s.links.filter fun e => e.2.failedAt.any fun t => decide (t + msTicks 10 ≤ s.tick)).foldl
    (fun (s : State) e => s.linkLost e.1) s

/-- A link takes the lane-retrain lease of each of its lanes, or none. -/
def State.linkLease (s : State) (n : Nat) : State × Bool :=
  (s.linkLanes n).foldl
    (fun (e : State × Bool) l => if e.2 then e.1.leaseTry .laneRetrain [.lane l] 0x00 else e) (s, true)

/-- The lane leases of a link end. -/
def State.linkFreeLease (s : State) (n : Nat) : State :=
  (s.linkLanes n).foldl (fun (s : State) l => s.leaseDropOn .laneRetrain (.lane l)) s

/-- A retrain begun during, or within 10 ms after, a reference-loss stop does not count (R393). -/
def State.afterStop (s : State) : Bool :=
  decide (s.clk.mode ≠ .running ∧ s.clk.mode ≠ .coasting) || s.afterStopAt s.tick

/-- A link trains: under the lease of its lanes, or, where one refuses it, as soon as SELOV_RETRAIN can take it (R329).  A
retrain of a DOWN link counts against nothing, nor does one about a reference-loss stop (R329, R393). -/
def State.linkTrain (s : State) (n : Nat) : State :=
  let st := s.linkState n
  let free := s.afterStop || st == 3 || (st == 1 && (s.link n).uncounted && (s.link n).retrainAt.isNone)
  match s.linkLease n with
  | (t, ok) =>
    let t := if ok then t else t.linkFreeLease n
    (t.setFld ⟨.casLink, n, 0⟩ 31 29 1).modLink n fun x =>
      { x with due := !ok, retrainAt := if ok then some s.tick else none, uncounted := free }

/-- A Selov link goes DOWN while every lane has lost its signal, its streams with it, and trains again when energy
returns (R329, R343); the link states change (R337). -/
def State.linkSignal (s : State) (n : Nat) : State :=
  let st := s.linkState n
  let dark := (s.linkLanes n).all s.los
  if dark && (st == 1 || st == 2) then
    let s := (s.linkFreeLease n).setFld ⟨.casLink, n, 0⟩ 31 29 3
    ((s.modLink n fun x => { x with retrainAt := none, due := false }).linkDown n).casFlood
  else if !dark && st == 3 then (s.linkTrain n).casFlood
  else s

/-- What a change of a lane's signal does to its link. -/
def State.laneSignal (s : State) (l : Nat) : State :=
  match s.linkOfLane l with
  | some n => s.linkSignal n
  | none => s

/-- LOS (R227). -/
def execLos (q : Fin 64) (j : Fin 4) (s : State) : Host.Outcome State Fault Refusal :=
  s.whenServing fun s =>
    let l := 4 * q.val + j.val
    if s.lanePowered l && !s.los l then
      (((s.setFlag ⟨.lnStat, l, 0⟩ 28 true).raiseEvent (0x400 + l) 1 [0x01] []).afterLane l).laneSignal l
    else s

/-- LOS_CLEAR (R227). -/
def execLosClear (q : Fin 64) (j : Fin 4) (s : State) : Host.Outcome State Fault Refusal :=
  s.whenServing fun s => (s.setFlag ⟨.lnStat, 4 * q.val + j.val, 0⟩ 28 false).laneSignal (4 * q.val + j.val)

/-- LOL (R227, R231). -/
def execLol (q : Fin 64) (j : Fin 4) (s : State) : Host.Outcome State Fault Refusal :=
  s.whenServing fun s =>
    let l := 4 * q.val + j.val
    if s.lanePowered l && !s.lol l then
      let s := (s.modLane l fun x => { x with burst := 0 }).injected ((s.lane l).burst != 0) fun s =>
        (s.setFlag ⟨.lnStat, l, 0⟩ 27 true).raiseEvent (0x400 + l) 2 [0x01] []
      (if s.retrainRole l then s.modLane l fun x => { x with due := true } else s).afterLane l
    else s

/-- PCS_ALIGNMENT_LOSS (R231). -/
def execPcsAlignmentLoss (q : Fin 64) (n : Fin 4) (s : State) : Host.Outcome State Fault Refusal :=
  s.whenServing fun s =>
    if s.hasPort q.val n.val && (look (s.quad q.val).pcsLost n.val).isNone then
      (s.modQuad q.val fun x => { x with pcsLost := nset x.pcsLost n.val s.tick }).legsOfPort q.val n.val
    else s

/-- PCS_ALIGNMENT_LOSS_TIMEOUT (R231): more than 1 ms without alignment while LOS is clear. -/
def execPcsAlignmentLossTimeout (q : Fin 64) (n : Fin 4) (s : State) : Host.Outcome State Fault Refusal :=
  s.whenServing fun s =>
    match look (s.quad q.val).pcsLost n.val, (s.portsOf q.val).find? fun e => e.1 == n.val with
    | some t, some (_, ls) =>
      if t + msTicks 1 < s.tick then
        ls.foldl (fun (s : State) l => if s.los l then s else s.modLane l fun x => { x with due := true }) s
      else s
    | _, _ => s

/-! ### Retrains (R231 to R233, R393) -/

/-- A quad with no lane out of LP2, and none on its way out, releases its grant and withdraws its request (R230, R372). -/
def State.quadRest (s : State) (q : Nat) : State :=
  if (List.range 4).all fun j => decide (2 ≤ s.laneState (4 * q + j)) && (s.lane (4 * q + j)).wantLp.isNone
  then (s.unask (192 + q)).keepUnits (192 + q) 0 else s

/-- Forgets a lane's pending and deferred power request; the quad's request to the Urn is withdrawn once no lane waits
for it. -/
def State.dropLp (s : State) (l : Nat) : State :=
  let s := (s.modLane l fun x => { x with wantLp := none, deferredLp := none }).setFlag ⟨.lnStat, l, 0⟩ 29 false
  let s := if (List.range 4).any fun j => s.flag ⟨.lnStat, 4 * (l / 4) + j, 0⟩ 29 then s else s.unask (192 + l / 4)
  if (List.range 4).any fun j => (s.lane (4 * (l / 4) + j)).deferredLp.isSome then s
  else { s with urn := { s.urn with deferred := s.urn.deferred.filter fun e => e.1 != 192 + l / 4 } }

/-- Retrains that count and lie in the window of MNT_BUDGET[0]. -/
def State.laneCount (s : State) (l : Nat) : List Nat :=
  (s.lane l).counted.filter fun t => s.tick < t + msTicks (s.fld ⟨.mntBudget, 0, 0⟩ 27 0)

/-- A lane is retired: squelched, its port down, its streams LOST, its legs DOWN (R232). -/
def State.retireLane (s : State) (l first : Nat) : State :=
  let lost := s.laneStreams l
  let s := (s.dropLp l).setFld ⟨.lnStat, l, 0⟩ 31 30 3
  let s := s.leaseDropRes (fun r => r == .lane l)
  let s := (s.modLane l fun x => { x with retraining := false, due := false }).quadRest (l / 4)
  let s := s.retireEvent (0x400 + l) 3 l first [0x01]
  let s := lost.foldl (fun (s : State) n => s.setDsts n 4 fun _ => true) s
  s.afterLane l

/-- A retrain of a lane takes its link down, as the budget counts it: in PCIE role only that of a controller's first lane
does, for without another the link goes on narrower (R232; log entry 92). -/
def State.linkDowns (s : State) (l : Nat) : Bool := s.quadRole (l / 4) != 2 || l == 0 || l == 240

/-- A lane's retrain begins with its lease, and counts unless LOS is set; one beyond the budget retires the lane. -/
def State.beginRetrain (s : State) (l : Nat) : State :=
  match s.leaseTry .laneRetrain [.lane l] 0x00 with
  | (s, false) => s
  | (s, true) =>
    let past := s.laneCount l
    let counts := !s.los l && !s.afterStop && s.linkDowns l
    if counts && decide (s.fld ⟨.mntBudget, 0, 0⟩ 31 28 ≤ past.length) then s.retireLane l (past.headD s.tick)
    else
      (s.modLane l fun x => { x with retraining := true, due := false, uncounted := !counts,
                                     counted := if counts then x.counted ++ [s.tick] else x.counted }).afterLane l

/-- LANE_RETRAIN (R231). -/
def execLaneRetrain (q : Fin 64) (j : Fin 4) (s : State) : Host.Outcome State Fault Refusal :=
  s.whenServing fun s =>
    let l := 4 * q.val + j.val
    if (s.lane l).due && !(s.lane l).retraining && s.retrainRole l && s.laneState l != 3 then s.beginRetrain l else s

/-- Link training writes LN_TXEQ in ETH and PCIE roles (R202): taps that the spec leaves open, their sum at most 63. -/
def State.trainTxeq (s : State) (l : Nat) : State :=
  if s.quadRole (l / 4) = 1 ∨ s.quadRole (l / 4) = 2 then
    let n := Config.freeNat s.freeCtr
    let post := n % 64
    let main := n / 64 % (64 - post)
    let pre1 := n / 4096 % (64 - post - main)
    let pre2 := n / 262144 % (64 - post - main - pre1)
    s.draw.setReg ⟨.lnTxeq, l, 0⟩ (packBits [(29, 24, post), (23, 18, main), (17, 12, pre1), (11, 6, pre2)])
  else s

/-- A retrain ends: lock and alignment are back. -/
def State.endRetrain (s : State) (l : Nat) : State :=
  let s := s.trainTxeq l
  let s := (s.modLane l fun x => { x with retraining := false, uncounted := false }).leaseDropOn .laneRetrain (.lane l)
  let s := s.setFlag ⟨.lnStat, l, 0⟩ 27 false
  match s.portOfLane l with
  | some (q, n) =>
    match (s.portsOf q).find? fun e => e.1 == n with
    | some (_, ls) => if ls.any fun k => (s.lane k).retraining then s
        else s.modQuad q fun x => { x with pcsLost := erase x.pcsLost n }
    | none => s
  | none => s

/-! ### Power states (R230, R378) -/

/-- The leases of a lane that defer its power request. -/
def laneLease (l : Nat) (x : Lease) : Bool :=
  (x.cls == .eyeScan || x.cls == .laneRetrain) && x.rs.contains (.lane l)

/-- A lane takes a power state; a quad with every lane in LP2 releases its grant.  In ETH role, protocol training follows
the exit to L0: the port comes up when it is done, and it counts as no retrain (R230). -/
def State.setLp (s : State) (l t : Nat) : State :=
  let s := (s.setFlag ⟨.lnStat, l, 0⟩ 29 false).setFld ⟨.lnStat, l, 0⟩ 31 30 t
  let trains := t == 0 && s.quadRole (l / 4) == 1
  let s := (s.modLane l fun x => { x with
    wantLp := none, deferredLp := none, retraining := x.retraining || trains, uncounted := x.uncounted || trains }).afterLane l
  s.quadRest (l / 4)

/-- A lane is asked into power state t. -/
def State.askLp (s : State) (l t : Nat) : State :=
  let cur := s.laneState l
  let q := l / 4
  let s := s.dropLp l
  if s.quadRole q = 0 ∨ s.quadRole q = 2 ∨ s.quadRole q = 3 ∨ cur = 3 then s
  else if t = cur then s.quadRest q
  else if cur < t then
    (if s.leases.any fun e => laneLease l e.2 then
      (s.deferOn (192 + q) (laneLease l)).modLane l fun x => { x with deferredLp := some t }
    else s.setLp l t)
  else
    let s := s.modLane l fun x => { x with wantLp := some t }
    if cur = 2 ∧ s.grant (192 + q) = 0 then
      (s.setFlag ⟨.lnStat, l, 0⟩ 29 true).askUnits (192 + q) (max 1 (s.need (192 + q)))
    else s

/-- A write of LN_CTL: ADAPT_HOLD, and LP, which the link protocol keeps in PCIE and CASCADE roles (R203, R223,
R230). -/
def State.writeLnCtl (s : State) (l : Nat) (v : Word) : State :=
  let k : RegKey := ⟨.lnCtl, l, 0⟩
  let v := if s.quadRole (l / 4) = 2 ∨ s.quadRole (l / 4) = 3 then putBits v 1 0 (s.fld k 1 0) else v
  let s := s.plainWrite k v
  if bits v 1 0 = 3 then s else s.askLp l (bits v 1 0)

/-- LANE_POWER_REQUEST (R230). -/
def execLanePowerRequest (m : Nat) (q : Fin 64) (j : Fin 4) (v : Word) (s : State) :
    Host.Outcome State Fault Refusal :=
  s.writeCommand m ⟨.lnCtl, 4 * q.val + j.val, 0⟩ v fun s => s.writeLnCtl (4 * q.val + j.val) v

/-- LANE_POWER_EXIT_DONE (R230): a lane that may leave its state has reached the one asked for. -/
def execLanePowerExitDone (q : Fin 64) (j : Fin 4) (s : State) : Host.Outcome State Fault Refusal :=
  s.whenServing fun s =>
    let l := 4 * q.val + j.val
    match (s.lane l).wantLp with
    | some t =>
      if s.flag ⟨.lnStat, l, 0⟩ 29 = false ∧ (s.laneState l ≠ 2 ∨ s.grant (192 + q.val) ≠ 0) then s.setLp l t else s
    | none => s

/-- LANE_RETRAIN_DONE (R231): a power request that the retrain deferred is then carried out (R378). -/
def execLaneRetrainDone (q : Fin 64) (j : Fin 4) (s : State) : Host.Outcome State Fault Refusal :=
  s.whenServing fun s =>
    let l := 4 * q.val + j.val
    if (s.lane l).retraining then
      let s := s.endRetrain l
      match (s.lane l).deferredLp with
      | some t => (s.dropLp l).askLp l t
      | none => s
    else s

/-! ### Equalisers, eye scans and the margin monitor (R202, R228, R229) -/

/-- A write of LN_TXEQ (R202). -/
def State.writeTxeq (s : State) (l : Nat) (v : Word) : State :=
  let role := s.quadRole (l / 4)
  if role = 1 ∨ role = 2 ∨ 63 < bits v 29 24 + bits v 23 18 + bits v 17 12 + bits v 11 6 then s
  else s.plainWrite ⟨.lnTxeq, l, 0⟩ v

/-- LN_TXEQ_WRITE (R202). -/
def execLnTxeqWrite (m : Nat) (q : Fin 64) (j : Fin 4) (v : Word) (s : State) : Host.Outcome State Fault Refusal :=
  s.writeCommand m ⟨.lnTxeq, 4 * q.val + j.val, 0⟩ v fun s => s.writeTxeq (4 * q.val + j.val) v

/-- A write of LN_ESCAN: START takes the lane's eye-scan lease, or ends with BUSY (R228, R397); while a scan runs, the
other fields are stored for the next. -/
def State.writeEscan (s : State) (m l : Nat) (v : Word) : State :=
  let k : RegKey := ⟨.lnEscan, l, 0⟩
  let r : RegKey := ⟨.lnEscanRes, l, 0⟩
  if s.flag k 31 then s.plainWrite k v
  else
    let s := (s.plainWrite k v).setFlag k 31 false
    if bit v 31 then
      match s.leaseTry .eyeScan [.lane l] ((s.midDomain m).getD 0) with
      | (s, true) => ((s.setFlag k 31 true).setFields r [(31, 30, 1), (29, 29, 0), (28, 0, 0)]).modLane l fun x =>
          { x with dwell := bits v 27 24 }
      | (s, false) => s.setFields r [(31, 30, 0), (29, 29, 1)]
    else s

/-- EYE_SCAN_POINT (R228). -/
def execEyeScanPoint (m : Nat) (q : Fin 64) (j : Fin 4) (v : Word) (s : State) : Host.Outcome State Fault Refusal :=
  s.writeCommand m ⟨.lnEscan, 4 * q.val + j.val, 0⟩ v fun s => s.writeEscan m (4 * q.val + j.val) v

/-- A deferred power request of a lane is carried out once no lease defers it (R378). -/
def State.laneUndefer (s : State) (l : Nat) : State :=
  match (s.lane l).deferredLp with
  | some t => if s.leases.any fun e => laneLease l e.2 then s else (s.dropLp l).askLp l t
  | none => s

/-- EYE_SCAN_DONE (R228): the disagreements of the bits compared. -/
def execEyeScanDone (q : Fin 64) (j : Fin 4) (errors : Nat) (s : State) : Host.Outcome State Fault Refusal :=
  s.whenServing fun s =>
    let l := 4 * q.val + j.val
    if s.flag ⟨.lnEscan, l, 0⟩ 31 then
      let n := min errors (min (2 ^ 29 - 1) (2 ^ (16 + (s.lane l).dwell)))
      let s := (s.setFlag ⟨.lnEscan, l, 0⟩ 31 false).setFields ⟨.lnEscanRes, l, 0⟩ [(31, 30, 2), (28, 0, n)]
      (s.leaseDropOn .eyeScan (.lane l)).laneUndefer l
    else s

/-- One height measured: the alarm sets after 3 heights below THRESH and clears after 3 at or above it (R229). -/
def State.margin (s : State) (l h : Nat) : State :=
  let k : RegKey := ⟨.lnMargin, l, 0⟩
  let low := decide (h < s.fld k 15 8)
  let x := s.lane l
  let below := if low then min 3 (x.below + 1) else 0
  let above := if low then 0 else min 3 (x.above + 1)
  let was := s.flag k 31
  let now := if below = 3 then true else if above = 3 then false else was
  let s := ((s.modLane l fun x => { x with below, above }).setFld k 23 16 h).setFlag k 31 now
  if now && !was then s.raiseEvent (0x400 + l) 4 [0x01] [BitVec.ofNat 8 h] else s

/-- MARGIN_MEASURE (R229): every PERIOD ms; a measurement that cannot be leased is skipped. -/
def execMarginMeasure (q : Fin 64) (j : Fin 4) (height : Fin 256) (s : State) : Host.Outcome State Fault Refusal :=
  s.whenServing fun s =>
    let l := 4 * q.val + j.val
    let period := s.fld ⟨.lnMargin, l, 0⟩ 7 0
    if s.lanePowered l && period != 0 && decide ((s.lane l).measuredAt + msTicks period ≤ s.tick) then
      let t := s.tick
      let s := s.modLane l fun x => { x with measuredAt := t }
      match s.leaseTry .eyeScan [.lane l] 0x00 with
      | (s, true) => (s.margin l height.val).leaseDropOn .eyeScan (.lane l)
      | (s, false) => s
    else s

/-- ELASTIC_BUFFER_OVERRUN (R196): while the core coasts, a receive buffer overflows. -/
def execElasticBufferOverrun (q : Fin 64) (j : Fin 4) (s : State) : Host.Outcome State Fault Refusal :=
  s.whenServing fun s =>
    let l := 4 * q.val + j.val
    if s.clk.mode = .coasting ∧ s.lanePowered l = true then
      let s := s.countUp ⟨.lnStat, l, 0⟩ 23 16
      (s.laneStreams l true).foldl (fun (s : State) n => s.degrade n) s
    else s

end Sys2Proof.Machine
end

