-- ==== Sys2Proof/Machine/SwitchPoint.lean ====
section
/-! DEFINITION. The switch-point table (R179 to R191): staging, arming, the final check, cancellation and execution. -/

namespace Sys2Proof.Machine

/-! ### Staging (R181) -/

/-- State of an entry. -/
def State.spState (s : State) (e : Nat) : Nat := s.fld ⟨.spCtl, e, 0⟩ 31 29

/-- An entry's registers accept writes. -/
def State.spOpen (s : State) (e : Nat) : Bool := [0, 1, 4, 5].contains (s.spState e)

/-- The values now in an entry's registers. -/
def State.spNow (s : State) (e : Nat) : SpEnt :=
  let w := s.reg ⟨.spCtl, e, 0⟩
  { exec := s.pair ⟨.spTickLo, e, 0⟩ ⟨.spTickHi, e, 0⟩, casc := bit w 28, hold := bit w 27, group := bits w 23 16,
    action := bits w 3 0, args := (List.range 6).map fun i => s.reg ⟨.spArg, e, i⟩ }

/-- Sets STATE and CAUSE of an entry. -/
def State.spMark (s : State) (e st cause : Nat) : State := s.setFields ⟨.spCtl, e, 0⟩ [(31, 29, st), (15, 12, cause)]

/-- A write of SP_CTL of entry e: ACTION 1 to 4 stages it with the values then in its registers, 0 frees it, a reserved
one keeps ACTION and stages nothing.  CAUSE returns to 0 with a staging or a freeing (R181; log entry 118). -/
def State.writeSpCtl (s : State) (e : Nat) (v : Word) : State :=
  if s.spOpen e then
    let s := s.plainWrite ⟨.spCtl, e, 0⟩ v
    let a := bits v 3 0
    if a = 0 then { (s.spMark e 0 0) with spEnts := erase s.spEnts e, spLocal := erase s.spLocal e }
    else if a ≤ 4 then { (s.spMark e 1 0) with spEnts := nset s.spEnts e (s.spNow e), spLocal := erase s.spLocal e }
    else s
  else s

/-- A write of SP_TICK_LO, SP_TICK_HI or SP_ARG of an entry. -/
def State.writeSpReg (s : State) (k : RegKey) (v : Word) : State := if s.spOpen k.i then s.setReg k v else s

/-- The entry that SP_SEL names. -/
def State.spSel (s : State) : Nat := s.fld ⟨.spSel, 0, 0⟩ 7 0

/-- SP_STAGE (R181): ACTION 0000 is SP_FREE. -/
def execSpStage (m : Nat) (v : Word) (s : State) : Host.Outcome State Fault Refusal :=
  s.writeCommand m ⟨.spCtl, s.spSel, 0⟩ v fun s => s.writeSpCtl s.spSel v

/-- SP_FREE (R181): the write carries ACTION 0000. -/
def execSpFree (m : Nat) (v : Word) (s : State) : Host.Outcome State Fault Refusal :=
  s.writeCommand m ⟨.spCtl, s.spSel, 0⟩ (putBits v 3 0 0) fun s => s.writeSpCtl s.spSel (putBits v 3 0 0)

/-! ### Checks (R183, R184, R396) -/

/-- The cups a mask names. -/
def SpEnt.cups (x : SpEnt) : List Nat := (List.range 192).filter x.names

/-- Cup, side, modes and segments of a BORDER action. -/
def SpEnt.border (x : SpEnt) : Nat × Nat × Word × Nat :=
  (bits (x.arg 0) 7 0, bits (x.arg 0) 9 8, x.arg 1, bits (x.arg 2) 9 0)

/-- The side's word after a BORDER action, over its present word. -/
def borderWord (old modes : Word) (segs : Nat) : Word :=
  (List.range 10).foldl
    (fun (w : Word) n => if segs.testBit n then putBits w (2 * n + 1) (2 * n) (bits modes (2 * n + 1) (2 * n)) else w) old

/-- The cause that a BORDER action fails with, 0 where allowed: PASS or HOLD where no cup of the domain faces fails, which
R108 says of a register write only that it is ignored (R183; DESIGN CHOICE, log entry 100). -/
def State.borderCause (s : State) (x : SpEnt) : Nat :=
  let (c, sd, modes, segs) := x.border
  if 192 ≤ c then 5
  else if s.cupGone c then 6
  else
    let chosen := (List.range 10).filter fun n => segs.testBit n
    let mode (n : Nat) : Nat := bits modes (2 * n + 1) (2 * n)
    if chosen.any fun n => mode n == 3 then 5
    else if (chosen.any fun n => mode n != 0) && (s.facesNone c sd || !s.sameDomAcross c sd) then 5
    else 0

/-- The cause by which cup c fails a FLIP. -/
def State.flipCause (s : State) (c : Nat) (fin : Bool) : Nat :=
  if s.cupGone c then 6
  else if s.shadow c ≠ 2 then 1
  else if s.cupState c = 2 ∧ !(s.firm c && s.grant c != 0) then 3
  else if fin && planeDigest (s.cup c).shadow != s.digest .cupSdig c then 2
  else 0

/-- A maintenance lease excludes an action on a cup (R396). -/
def State.leaseBars (s : State) (action c : Nat) : Bool :=
  s.leased .captureReadback (.cup c) || (action == 1 && s.leased .shadowLoad (.cup c))

/-- The first cause in a list of causes that is not 0. -/
def firstCause (l : List Nat) : Nat := (l.find? (· != 0)).getD 0

/-- The precondition that an entry fails, by its cause; `others` are entries armed beside it. -/
def State.spCause (s : State) (x : SpEnt) (others : List SpEnt) (fin : Bool) : Nat :=
  match x.action with
  | 1 => firstCause (x.cups.map (fun c => s.flipCause c fin) ++ [if x.cups.any (s.leaseBars 1) then 4 else 0])
  | 2 => if others.any fun o => o.action == 2 && bits (o.arg 0) 3 0 == bits (x.arg 0) 3 0 then 5 else 0
  | 3 => s.borderCause x
  | _ => firstCause (x.cups.map (fun c => if s.cupGone c then 6 else 0) ++ [if x.cups.any (s.leaseBars 4) then 4 else 0])

/-- Two entries of one tick exclude each other (R184). -/
def spClash (x o : SpEnt) : Bool :=
  let share := x.cups.any o.names
  match x.action, o.action with
  | 1, 1 => share
  | 1, 4 => o.hold && share
  | 4, 1 => x.hold && share
  | 3, 3 => x.border.1 == o.border.1 && x.border.2.1 == o.border.2.1 &&
      ((List.range 10).any fun n => x.border.2.2.2.testBit n && o.border.2.2.2.testBit n)
  | _, _ => false

/-- The entries of a group in the states that `p` selects. -/
def State.spGroup (s : State) (g : Nat) (p : Nat → Bool) : List Nat :=
  (List.range 256).filter fun e => p (s.spState e) && (s.spEnt e).group == g

/-- The entries of a group that are armed. -/
def State.spArmedOf (s : State) (g : Nat) : List Nat := s.spGroup g fun st => st == 2 || st == 3

/-! ### Arming (R182) -/

/-- The local tick that an entry's EXEC names now: a cascade tick less the offset in force (R340). -/
def State.execTick (s : State) (x : SpEnt) : Int :=
  if x.casc then (x.exec : Int) - signed 64 (s.pair ⟨.tickCascOfs, 0, 0⟩ ⟨.tickCascOfsHi, 0, 0⟩) else x.exec

/-- Checks staged entries one after the other against those armed and those before them: the first that fails. -/
def State.armChecks (s : State) : List Nat → List SpEnt → Option (Nat × Nat)
  | [], _ => none
  | e :: es, others =>
    let x := s.spEnt e
    match s.spCause x others false with
    | 0 => if others.any fun o => s.execTick o == s.execTick x && spClash x o then some (e, 7)
        else s.armChecks es (x :: others)
    | c => some (e, c)

/-- Why a group of staged entries cannot be armed: the failing entry and its cause.  `want` is the EXEC a cascade PREPARE
carries (R344). -/
def State.armFault (s : State) (staged : List Nat) (want : Option Nat) : Option (Nat × Nat) :=
  match staged with
  | [] => none
  | e0 :: _ =>
    let b := s.spEnt e0
    match staged.find? fun e => (s.spEnt e).exec != b.exec || (s.spEnt e).casc != b.casc ||
        (match want with
          | some t => (s.spEnt e).exec != t || !(s.spEnt e).casc
          | none => false) with
    | some e => some (e, 13)
    | none =>
      if b.exec < (if b.casc then s.cascTick else s.tick) + 275000 then some (e0, 8)
      else s.armChecks staged (((List.range 256).filter s.spArmed).map s.spEnt)

/-- SP_STAT. -/
def State.spStat (s : State) (st code e : Nat) : State :=
  s.setReg ⟨.spStat, 0, 0⟩ (packBits [(31, 30, st), (27, 24, code), (7, 0, e)])

/-- Arms a group: the state, and the CODE and CAUSE that failed.  Entries armed now were not armed at an earlier loss of the
reference, and hold no COMMIT of an earlier round (R190, R345). -/
def State.armGroup (s : State) (g : Nat) (want : Option Nat) : State × Nat × Nat :=
  let staged := s.spGroup g fun st => st == 1
  if s.inHold then (s.spStat 3 4 0, 4, 0)
  else if staged.isEmpty then (s.spStat 3 2 0, 2, 0)
  else if !(s.spArmedOf g).isEmpty then (s.spStat 3 3 0, 3, 0)
  else match s.armFault staged want with
  | some (bad, cause) =>
    ((staged.foldl (fun (s : State) e => s.spMark e 1 (if e = bad then cause else 12)) s).spStat 3 1 bad, 1, cause)
  | none =>
    let s := ({ s with clk := { s.clk with lost := s.clk.lost.filter fun e => !staged.contains e } }).modGroup g fun x =>
      { x with commit := false }
    ((staged.foldl (fun (s : State) e => s.spMark e 2 0) s).spStat 2 0 0, 0, 0)

/-! ### Cancellation (R187, R190) -/

/-- A member's REPORT to its master (R346). -/
def State.casReport (s : State) (g cause : Nat) : State :=
  if s.casRole = 1 then s.casSend (some s.casMaster) (.report g cause) else s

/-- Marks every armed entry of a group CANCELLED: `bad` with its cause, the others with 1100, or all with the cause. -/
def State.spCancelMarks (s : State) (g cause : Nat) (bad : Option Nat) : State :=
  (s.spArmedOf g).foldl
    (fun (s : State) e => s.spMark e 5 (match bad with
      | some b => if e = b then cause else 12
      | none => cause)) s

/-- The tenants whose cups a group names. -/
def State.spTenants (s : State) (g : Nat) : List Nat :=
  (((s.spArmedOf g).flatMap fun e =>
    if s.spAction e = 1 ∨ s.spAction e = 4 then (s.spEnt e).cups.map s.cupDom
    else if s.spAction e = 3 then [s.cupDom (s.spEnt e).border.1] else []).filter (fun d => (tenantOf d).isSome)).dedup

/-- The group belongs to a cascade. -/
def State.spCasc (s : State) (g : Nat) : Bool := (s.spArmedOf g).any fun e => (s.spEnt e).casc

/-- Cancels a group with its event (R187). -/
def State.spCancel (s : State) (g cause : Nat) (bad : Option Nat) : State :=
  let doms := 0x01 :: s.spTenants g
  let casc := s.spCasc g
  let s := s.spCancelMarks g cause bad
  let s := s.raiseEvent 0x032 0 doms [BitVec.ofNat 8 g, BitVec.ofNat 8 (bad.getD 0), BitVec.ofNat 8 cause]
  if casc then s.casReport g cause else s

/-- The owner's CANCEL: a group ARMED, and not FINAL; a cascade's master hears of it (R346). -/
def State.spCancelCmd (s : State) (g : Nat) : State :=
  let l := s.spArmedOf g
  if l.isEmpty || l.any fun e => s.spState e == 3 then s.spStat 3 3 0
  else
    let s' := (s.spCancelMarks g 9 none).spStat 2 0 0
    if s.spCasc g then s'.casReport g 9 else s'

/-- A write of SP_CMD (R191, R467). -/
def State.writeSpCmd (s : State) (v : Word) : State :=
  s.goWrite ⟨.spCmd, 0, 0⟩ v fun s =>
    if bits v 11 8 = 1 then (s.armGroup (bits v 7 0) none).1 else s.spCancelCmd (bits v 7 0)

/-- The word of SP_CMD that starts an OP on a group. -/
def spCmdWord (op : Nat) (g : Fin 256) : Word := packBits [(31, 31, 1), (11, 8, op), (7, 0, g.val)]

/-- ARM (R182). -/
def execArm (m : Nat) (g : Fin 256) (s : State) : Host.Outcome State Fault Refusal :=
  s.writeCommand m ⟨.spCmd, 0, 0⟩ (spCmdWord 1 g) fun s => s.writeSpCmd (spCmdWord 1 g)

/-- CANCEL (R187). -/
def execCancel (m : Nat) (g : Fin 256) (s : State) : Host.Outcome State Fault Refusal :=
  s.writeCommand m ⟨.spCmd, 0, 0⟩ (spCmdWord 2 g) fun s => s.writeSpCmd (spCmdWord 2 g)

/-! ### The final check, COMMIT and execution (R186, R188, R190) -/

/-- The first entry of a group that fails the final check. -/
def State.finalFault (s : State) (g : Nat) : Option (Nat × Nat) :=
  (s.spArmedOf g).findSome? fun e =>
    let others := (((List.range 256).filter fun i => s.spArmed i && i != e)).map s.spEnt
    match s.spCause (s.spEnt e) others true with
    | 0 => none
    | c => some (e, c)

/-- The final check of a group: FINAL, its local ticks fixed, or cancelled. -/
def State.finalCheck (s : State) (g : Nat) : State :=
  match s.finalFault g with
  | some (e, c) => s.spCancel g c (some e)
  | none =>
    (s.spArmedOf g).foldl
      (fun (s : State) e => { (s.setFld ⟨.spCtl, e, 0⟩ 31 29 3) with spLocal := nset s.spLocal e (s.spLocalTick e) }) s

/-- The local tick of a group: that of its first armed entry. -/
def State.spGroupTick (s : State) (g : Nat) : Option Nat := (s.spArmedOf g).head?.map s.spLocalTick

/-- SP_FINAL_CHECK (R186): from EXEC − 250,000. -/
def execSpFinalCheck (g : Fin 256) (s : State) : Host.Outcome State Fault Refusal :=
  s.whenServing fun s =>
    match s.spGroupTick g.val with
    | some t =>
      if t ≤ s.tick + 250000 ∧ (s.spArmedOf g.val).all (fun e => s.spState e == 2) = true then s.finalCheck g.val else s
    | none => s

/-- SP_COMMIT_CHECK (R190): at EXEC − 25,000 a cascade group without COMMIT is cancelled, each entry with the group's cause
(R187; log entry 118). -/
def execSpCommitCheck (g : Fin 256) (s : State) : Host.Outcome State Fault Refusal :=
  s.whenServing fun s =>
    match s.spGroupTick g.val with
    | some t =>
      if t ≤ s.tick + 25000 ∧ s.spCasc g.val = true ∧ (s.group g.val).commit = false then s.spCancel g.val 10 none else s
    | none => s

/-- What one entry does at its tick.  A capture of a cup that flips at the same swap point comes first and is completed by
the flip, over the old plane (R123). -/
def State.spAct (s : State) (e : Nat) : State :=
  let x := s.spEnt e
  match x.action with
  | 1 => x.cups.foldl (fun (s : State) c => (s.flip c false).statusEvent c 3 0 e) s
  | 2 => s.applySwap (bits (x.arg 0) 3 0)
  | 3 =>
    let (c, sd, modes, segs) := x.border
    s.applyModes c sd (s.legalModes c sd (borderWord (s.reg ⟨.cupBrd, c, sd⟩) modes segs))
  | _ => x.cups.foldl (fun (s : State) c => s.capture c e x.hold) s

/-- Entries in the order their effects take: borders, then captures, flips and swap sets. -/
def State.spOrder (s : State) (l : List Nat) : List Nat :=
  l.filter (fun e => s.spAction e == 3) ++ l.filter (fun e => s.spAction e == 4) ++
    l.filter (fun e => s.spAction e == 1) ++ l.filter (fun e => s.spAction e == 2)

/-- An entry names a cup that has been retired. -/
def State.spGone (s : State) (e : Nat) : Bool :=
  ((s.spAction e == 1 || s.spAction e == 4) && (s.spEnt e).cups.any s.cupGone) ||
    s.spAction e == 3 && s.cupGone (s.spEnt e).border.1

/-- The FINAL groups whose tick is the present one. -/
def State.groupsNow (s : State) : List Nat :=
  (List.range 256).filter fun g =>
    s.spGroupTick g == some s.tick && (s.spArmedOf g).all fun e => s.spState e == 3

/-- A FINAL group at its tick that a retirement cancels, or the want of COMMIT (R188, R190, R345). -/
def State.spBar (s : State) (g : Nat) : State :=
  match (s.spArmedOf g).find? s.spGone with
  | some e => s.spCancel g 6 (some e)
  | none => if s.spCasc g && !(s.group g).commit then s.spCancel g 10 none else s

/-- Entries execute, and read EXECUTED. -/
def State.spRun (s : State) (l : List Nat) : State :=
  let s := (s.spOrder l).foldl (fun (s : State) e => s.spAct e) s
  l.foldl (fun (s : State) e => { (s.setFld ⟨.spCtl, e, 0⟩ 31 29 4) with spLocal := erase s.spLocal e }) s

/-- The swap point of the present tick: its groups execute together, each whole or cancelled (R188, R189). -/
def State.swapPoint (s : State) : State :=
  let s := s.groupsNow.foldl (fun (s : State) g => s.spBar g) s
  let gs := s.groupsNow
  let casc := gs.filter s.spCasc
  casc.foldl (fun (s : State) g => s.casReport g 0) (s.spRun (gs.flatMap s.spArmedOf))

/-- SP_EXECUTE (R188, R365): at root cycle 16T, with the root at its nominal rate.  Groups of one tick execute at one swap
point, so the command of the first carries out the others too (log entry 101). -/
def execSpExecute (g : Fin 256) (s : State) : Host.Outcome State Fault Refusal :=
  s.whenServing fun s =>
    if s.root = 16 * s.tick ∧ s.clk.mode = .running ∧ s.groupsNow.contains g.val = true then s.swapPoint else s

/-- A write of LEAF_DIVGRANT[j] of leaf p; a cleared bit makes the shadow plane of the quadrant's cup due another check
(R78, R127). -/
def State.divgrantWrite (s : State) (p j : Nat) (v : Word) : State :=
  let k : RegKey := ⟨.leafDivgrant, p, j⟩
  let cleared := bits (s.reg k &&& ~~~ v) 15 0 != 0
  let s := s.plainWrite k v
  if cleared then
    match (s.cupsOfLeaf p)[j]? with
    | some c => s.modCup c fun x => { x with recheck := true }
    | none => s
  else s

end Sys2Proof.Machine
end

