-- ==== Sys2Proof/Machine/Cascade.lean ====
section
/-! DEFINITION. Cascades of devices (R326 to R349): Selov links, claims and hold, admission, the deputy, management
messages, tick alignment, streams across devices, prepare and commit, and the digest census. -/

namespace Sys2Proof.Machine

/-! ### Members -/

/-- A device is in a list of 32 words. -/
def State.casIn (s : State) (n : RegName) (id : Nat) : Bool := s.flag ⟨n, 0, id / 32⟩ (id % 32)
def State.admitted (s : State) (id : Nat) : Bool := s.casIn .casAdmitted id
def State.setAdmitted (s : State) (id : Nat) (b : Bool) : State := s.setFlag ⟨.casAdmitted, 0, id / 32⟩ (id % 32) b

/-- The admitted members. -/
def State.members (s : State) : List Nat := (List.range 1024).filter s.admitted

/-- A message to every admitted member. -/
def State.casTell (s : State) (msg : CasOut) : State :=
  s.members.foldl (fun (s : State) id => s.casSend (some id) msg) s

/-- PDIG and VALID of every cup (R333, R347). -/
def State.casDigests (s : State) : List (BitVec 384 × Bool) :=
  (List.range 192).map fun c => (s.digest .cupPdig c, s.flag ⟨.cupPdigStat, c, 0⟩ 0)

/-- The epoch and master ID that a CASCADE record carries (R398). -/
def casData (epoch id : Nat) : List Byte := leBytes 4 epoch ++ leBytes 2 id

/-! ### Links (R327 to R329) -/

/-- A stream frame: its flit joins the open packet of its stream, and EOP injects the packet (R341, R342).  One too long,
without a tree from the link's quad, or for which the quad has no room, is discarded and counted at a port the spec does
not name (R150; log entry 91); want of room makes a coasting device declare DEGRADED (R363). -/
def State.linkStream (s : State) (n : Nat) (f : List Byte) : State :=
  let stream := numAt f 2 2 % 16384
  let flags := numAt f 1 1
  let len := if numAt f 4 1 = 0 then 256 else numAt f 4 1
  let data := slice f 12 len
  let pkt := (if flags % 2 = 1 then [] else nget (s.link n).rx stream []) ++ data
  let (k, p) := quadRouter (s.linkQuad n)
  if flags / 2 % 2 = 1 then
    let s := s.modLink n fun x => { x with rx := nset x.rx stream [] }
    let port := Config.freeNat s.freeCtr % 4
    if !s.quadRoom stream pkt.length then (s.draw.portCount (s.linkQuad n) port 3).coastDiscard stream
    else match s.draw.inject stream k p (.port (s.linkQuad n) port) pkt with
    | (s, true) => s
    | (s, false) => s.portCount (s.linkQuad n) port (if 9216 < pkt.length then 4 else 5)
  else s.modLink n fun x => { x with rx := nset x.rx stream pkt }

/-- A management frame: one for another device goes on towards it with one hop more, but no further than 16; one for this
device reaches its Kettle, as the command of its message says (R337; log entry 68). -/
def State.linkForward (s : State) (f : List Byte) : State :=
  let w := numAt f 12 4
  let dst := w / 2 ^ 10 % 1024
  let hops := w / 2 ^ 26 + 1
  if dst = s.casId ∨ 16 < hops then s
  else match s.casRoute dst with
  | some m => s.linkSend m 2 0 0 (numAt f 4 1) (leBytes 4 (w % 2 ^ 26 + 2 ^ 26 * hops) ++ slice f 16 252)
  | none => s

/-- A frame in order, or link control. -/
def State.linkTake (s : State) (n : Nat) (f : List Byte) : State :=
  let s := s.linkAck n (numAt f 8 2)
  let s := if numAt f 1 1 / 4 % 2 = 1 then s.linkReplay n else s
  let type := numAt f 0 1
  if type = 3 then s
  else
    let s := s.modLink n fun x => { x with rxSeq := (x.rxSeq + 1) % 65536 }
    (if type = 1 then s.linkStream n f else s.linkForward f).linkControl n

/-- SELOV_FRAME (R327, R328): a frame with a bad CRC, as one that an injected burst meets (R401), out of sequence or of the
reserved type is discarded, and the next frame sets NAK. -/
def execSelovFrame (n : Fin 32) (frame : List Byte) (s : State) : Host.Outcome State Fault Refusal :=
  s.whenServing fun s =>
    let type := numAt frame 0 1
    let burst := (s.linkLanes n.val).any fun l => (s.lane l).burst != 0
    if s.linkState n.val ≠ 2 ∨ frame.length ≠ 272 then s
    else if burst then
      let s := (s.linkLanes n.val).foldl (fun (s : State) l => s.modLane l fun x => { x with burst := 0 }) s
      (s.modLink n.val fun x => { x with nakDue := true }).linkControl n.val
    else if (crc32 (frame.take 268)).toNat = numAt frame 268 4 ∧ inRange 1 3 type = true ∧
        (type = 3 ∨ numAt frame 6 2 = (s.link n.val).rxSeq) then s.linkTake n.val frame
    else (s.modLink n.val fun x => { x with nakDue := true }).linkControl n.val

/-- ACK_TIMEOUT (R329): no acknowledgement for 100 µs. -/
def execAckTimeout (n : Fin 32) (s : State) : Host.Outcome State Fault Refusal :=
  s.whenServing fun s =>
    let x := s.link n.val
    if s.linkState n.val = 2 ∧ x.replay ≠ [] ∧ x.lastAck + usTicks 100 ≤ s.tick then
      s.modLink n.val fun x => { x with due := true }
    else s

/-- A link is retired (R329, R343, R393). -/
def State.retireLink (s : State) (n first : Nat) : State :=
  let s := (s.setFld ⟨.casLink, n, 0⟩ 31 29 4).linkFreeLease n
  let s := s.modLink n fun x => { x with retrainAt := none, due := false }
  ((s.retireEvent (0x540 + n) 4 n first [0x01]).linkDown n).casFlood

/-- SELOV_RETRAIN (R329): LOL on a lane, a frame replayed four times, or no acknowledgement; or a training that still
waits for its lease. -/
def execSelovRetrain (n : Fin 32) (s : State) : Host.Outcome State Fault Refusal :=
  s.whenServing fun s =>
    let x := s.link n.val
    let want := s.linkState n.val == 2 && (x.due || (s.linkLanes n.val).any s.lol)
    let waits := s.linkState n.val == 1 && x.due && x.retrainAt.isNone
    if !(want || waits) then s
    else match s.linkLease n.val with
    | (_, true) => (s.linkTrain n.val).casFlood
    | (t, false) => t.linkFreeLease n.val

/-- A failed retrain: counted unless LOS or a reference-loss stop exempts it.  It ends, with its lease, and starts again at
once under a new one; or the link is retired, its failures within WINDOW having reached the budget (R329, R393). -/
def State.linkFail (s : State) (n : Nat) : State :=
  let b := s.reg ⟨.mntBudget, 1, 0⟩
  let x := s.link n
  let fails := x.fails ++ (if x.uncounted then [] else [s.tick])
  let recent := fails.filter fun t => s.tick < t + msTicks (bits b 27 0)
  let s := (s.linkFreeLease n).modLink n fun x => { x with fails, uncounted := false }
  if !x.uncounted && decide (bits b 31 28 ≤ recent.length) then s.retireLink n (recent.headD s.tick) else s.linkTrain n

/-- SELOV_RETRAIN_FAIL (R329): not up 10 ms after the retrain began. -/
def execSelovRetrainFail (n : Fin 32) (s : State) : Host.Outcome State Fault Refusal :=
  s.whenServing fun s =>
    match (s.link n.val).retrainAt with
    | some t =>
      if s.linkState n.val = 1 ∧ t + msTicks 10 ≤ s.tick then
        (if (s.linkLanes n.val).all s.los then s.linkSignal n.val else s.linkFail n.val)
      else s
    | none => s

/-- SELOV_LINK_UP (R329): the link is up, and the frames not acknowledged are sent again. -/
def execSelovLinkUp (n : Fin 32) (far : FarEnd) (s : State) : Host.Outcome State Fault Refusal :=
  s.whenServing fun s =>
    if s.linkState n.val = 1 ∧ (s.link n.val).retrainAt.isSome = true then
      let s := s.linkFreeLease n.val
      let s := (s.linkLanes n.val).foldl (fun (s : State) l => s.setFlag ⟨.lnStat, l, 0⟩ 27 false) s
      let s := s.setFields ⟨.casLink, n.val, 0⟩ [(31, 29, 2), (19, 10, far.id.val)]
      let s := s.modLink n.val fun x =>
        { x with retrainAt := none, due := false, uncounted := false, lastAck := s.tick, farQuad := far.quad.val,
                 replay := x.replay.map fun e => { e with replays := 0 } }
      (s.linkResend n.val).casFlood
    else s

/-! ### Claims, hold and conflict (R332 to R335) -/

/-- Entry into cascade hold: cascade groups without COMMIT are cancelled, the event and the record (R334, R398). -/
def State.enterHold (s : State) : State :=
  if s.casHold then s
  else
    let s := s.setFlag ⟨.casStat, 0, 0⟩ 29 true
    let s := { s with cas := { s.cas with asked := false } }
    let s := (List.range 256).foldl
      (fun (s : State) g => if s.spCasc g && !(s.group g).commit then s.spCancel g 10 none else s) s
    s.raiseEvent 0x041 0 [0x01] (casData (s.reg ⟨.casEpoch, 0, 0⟩).toNat s.casMaster) (some 0x0C02)

/-- The epoch that the device recognises changes, with its record. -/
def State.setEpoch (s : State) (epoch id : Nat) : State :=
  let old := (s.reg ⟨.casEpoch, 0, 0⟩).toNat
  let s := (s.setReg ⟨.casEpoch, 0, 0⟩ (BitVec.ofNat 32 epoch)).setFld ⟨.casStat, 0, 0⟩ 19 10 id
  if old = epoch then s else s.record 0x040 0x01 0x0C01 (casData epoch id)

/-- CLAIM_SEND (R332): every 1 ms. -/
def execClaimSend (s : State) : Host.Outcome State Fault Refusal :=
  s.whenServing fun s =>
    let due := match s.cas.lastSent with
      | some t => decide (t + msTicks 1 ≤ s.tick)
      | none => true
    if s.cas.claimant && due then
      ({ s with cas := { s.cas with lastSent := some s.tick } }).casSend none (.claim s.cas.epoch s.casId)
    else s

/-- Another device than `id` has been heard to claim within n ms, or this one claims. -/
def State.otherClaim (s : State) (id n : Nat) : Bool :=
  s.cas.claimant || s.cas.claims.any fun e => e.1 != id && decide (s.tick < e.2 + msTicks n)

/-- A member in hold that hears its master asks to join, once in a hold, in 48 messages (R333, R337); one whose ID another
device carries stays out. -/
def State.casJoin (s : State) (id : Nat) : State :=
  if s.casHold && !s.casConflict && !s.cas.asked && !s.cas.claimant && !s.flag ⟨.casStat, 0, 0⟩ 26 then
    let ds := s.casDigests
    let epoch := (s.reg ⟨.casEpoch, 0, 0⟩).toNat
    (List.range 48).foldl
      (fun (s : State) i => s.casSend (some id) (.join epoch (4 * i) ((ds.drop (4 * i)).take 4)))
      { s with cas := { s.cas with asked := true } }
  else s

/-- CLAIM (R332, R334, R335): a second claimant within the 10 ms in which a master counts as heard is a conflict (log
entry 22). -/
def execClaim (n : Fin 32) (epoch : Word) (id : Fin 1024) (s : State) : Host.Outcome State Fault Refusal :=
  s.whenServing fun s =>
    if s.linkState n.val ≠ 2 ∨ s.casRole = 0 ∨ id.val = s.casId then s
    else
      let clash := s.otherClaim id.val 10
      let cas := { s.cas with
        claims := nset s.cas.claims id.val s.tick, maxEpoch := max s.cas.maxEpoch epoch.toNat }
      let s := { s with cas }
      if clash then
        if s.casConflict then s
        else
          let s := s.setFlag ⟨.casStat, 0, 0⟩ 27 true
          (s.raiseEvent 0x040 0 [0x01] (casData epoch.toNat id.val) (some 0x0C03)).enterHold
      else (s.casJoin id.val).setEpoch epoch.toNat id.val

/-- CLAIM_TIMEOUT (R334): a member has received no CLAIM for 10 ms. -/
def execClaimTimeout (s : State) : Host.Outcome State Fault Refusal :=
  s.whenServing fun s =>
    if s.casRole = 1 ∧ s.casHold = false ∧ s.cas.claims.all (fun e => decide (e.2 + msTicks 10 ≤ s.tick)) = true then
      s.enterHold
    else s

/-- A claimant claims anew, with a 32-bit epoch (R332). -/
def State.claimAnew (s : State) (e : Nat) : State :=
  let epoch := e % 2 ^ 32
  let cas := { s.cas with epoch, maxEpoch := max s.cas.maxEpoch epoch, claimant := true, lastSent := none }
  let s := ({ s with cas }).setFld ⟨.casStat, 0, 0⟩ 31 30 2
  let s := s.setFields ⟨.casStat, 0, 0⟩ [(29, 29, 0), (28, 28, 0), (24, 24, 1)]
  (s.setPair ⟨.tickCascOfs, 0, 0⟩ ⟨.tickCascOfsHi, 0, 0⟩ 0).setEpoch epoch s.casId

/-- CONFLICT_CLEAR (R332, R335): CLAIMs from one claimant alone for 100 ms; the claimant left claims with a new epoch. -/
def execConflictClear (s : State) : Host.Outcome State Fault Refusal :=
  s.whenServing fun s =>
    let heard := (s.cas.claims.filter fun e => decide (s.tick < e.2 + msTicks 100)).length + b2n s.cas.claimant
    if s.casConflict ∧ heard = 1 then
      let s := s.setFlag ⟨.casStat, 0, 0⟩ 27 false
      let s := { s with cas := { s.cas with asked := false } }
      if s.cas.claimant then s.claimAnew (s.cas.epoch + 1) else s
    else s

/-! ### The deputy (R336) -/

/-- No CLAIM has been heard for 50 ms, all of which the device has listened. -/
def State.silent (s : State) : Bool :=
  !s.cas.claimant && decide (s.cas.startAt + msTicks 50 ≤ s.tick) &&
    s.cas.claims.all fun e => decide (e.2 + msTicks 50 ≤ s.tick)

/-- The registered devices as the deputy knows them. -/
def State.registered (s : State) : List Nat :=
  (List.range 1024).filter fun i => bit (s.cas.registry.getD (i / 32) 0) (i % 32)

/-- DEPUTY_SILENCE_TIMEOUT (R336): the deputy asks every registered device, and asks again every 50 ms. -/
def execDeputySilenceTimeout (s : State) : Host.Outcome State Fault Refusal :=
  s.whenServing fun s =>
    let due := match s.cas.lastPoll with
      | some t => decide (t + msTicks 50 ≤ s.tick)
      | none => true
    if s.flag ⟨.casStat, 0, 0⟩ 23 ∧ s.casRole = 1 ∧ s.silent = true ∧ due = true then
      s.registered.foldl (fun (s : State) id => s.casSend (some id) .silenceQ)
        { s with cas := { s.cas with polled := [], lastPoll := some s.tick } }
    else s

/-- SILENCE_Q (R336). -/
def execSilenceQ (n : Fin 32) (id : Fin 1024) (s : State) : Host.Outcome State Fault Refusal :=
  s.whenServing fun s =>
    if s.linkState n.val = 2 ∧ s.casRole ≠ 0 then s.casSend (some id.val) (.silenceA id.val s.silent s.cas.maxEpoch) else s

/-- Takes over once more than half of the registered devices confirm the silence. -/
def State.takeover (s : State) : State :=
  let regs := s.registered
  let votes := s.cas.polled.filter fun e => regs.contains e.1
  if s.silent && decide (regs.length < 2 * votes.length) && votes.all (·.2) then
    let s := (List.range 32).foldl
      (fun (s : State) w => s.setReg ⟨.casMembers, 0, w⟩ (s.cas.registry.getD w 0)) s
    s.claimAnew (s.cas.maxEpoch + 1)
  else s

/-- SILENCE_A (R336). -/
def execSilenceA (id : Fin 1024) (silent : Bool) (epoch : Word) (s : State) : Host.Outcome State Fault Refusal :=
  s.whenServing fun s =>
    if s.flag ⟨.casStat, 0, 0⟩ 23 ∧ s.casRole = 1 ∧ s.cas.lastPoll.isSome = true then
      ({ s with cas := { s.cas with
        polled := nset s.cas.polled id.val silent, maxEpoch := max s.cas.maxEpoch epoch.toNat } }).takeover
    else s

/-! ### Admission (R333, R347) -/

/-- The two expected digests of a cup of a device; none where the list cannot be read. -/
def State.expected (s : State) (id c : Nat) : State × Option (BitVec 384 × BitVec 384) :=
  let base := s.pair ⟨.casExpect, 0, 0⟩ ⟨.casExpectHi, 0, 0⟩
  match s.hbmFetch 0x01 (base + 96 * (192 * id + c)) 96 with
  | (s, some b) => (s, some (BitVec.ofNat 384 (numAt b 0 48), BitVec.ofNat 384 (numAt b 48 48)))
  | (s, none) => (s, none)

/-- The expected digests of a device cannot be read yet (R256). -/
def State.expectWaits (s : State) (id : Nat) : Bool :=
  s.agentWaits highClass 0x01 (s.pair ⟨.casExpect, 0, 0⟩ ⟨.casExpectHi, 0, 0⟩ + 96 * 192 * id) (96 * 192)

/-- A cup's digest matches the expected list: a cup whose VALID is 0 is skipped, an all-zero entry is not checked. -/
def State.digestOk (s : State) (id c : Nat) (d : BitVec 384 × Bool) : State × Bool :=
  if !d.2 then (s, true)
  else match s.expected id c with
  | (s, some (a, b)) => (s, (a == 0 && b == 0) || d.1 == a || d.1 == b)
  | (s, none) => (s, false)

/-- The first cup of a list, beginning at cup c, whose digest does not match. -/
def State.mismatch (id : Nat) : Nat → List (BitVec 384 × Bool) → State → State × Option Nat
  | _, [], s => (s, none)
  | c, d :: ds, s =>
    match s.digestOk id c d with
    | (s, true) => State.mismatch id (c + 1) ds s
    | (s, false) => (s, some c)

/-- The master admits a device. -/
def State.admitDev (s : State) (id : Nat) : State :=
  let path := nget s.cas.joined id 32
  let cas := { s.cas with
    joined := erase s.cas.joined id, dups := s.cas.dups.filter (· != id), paths := if path < 32 then nset s.cas.paths id path else s.cas.paths }
  (({ s with cas }).setAdmitted id true).casSend (some id) (.admitted id s.cas.epoch)

/-- Another device carries this one's ID (R333): DUP_ID, and it stays out of membership. -/
def State.dupId (s : State) : State := (s.setFlag ⟨.casStat, 0, 0⟩ 26 true).enterHold

/-- Two devices carry one ID: neither is a member, and the ID stays marked until the owner admits it; the member that was
admitted learns it from a list without itself (R333, R334; log entry 97). -/
def State.casDouble (s : State) (id : Nat) : State :=
  let s := s.setAdmitted id false
  let list := (List.range 32).map fun i =>
    if i = id / 32 then putBits (s.reg ⟨.casMembers, 0, i⟩) (id % 32) (id % 32) 0 else s.reg ⟨.casMembers, 0, i⟩
  { s with cas := { s.cas with dups := s.cas.dups.filter (· != id) ++ [id] } }.casSend (some id) (.registry list)

/-- The owner lets the master admit a registered device by its digests alone (R333). -/
def State.autoAdmits (s : State) (id : Nat) : Bool :=
  s.flag ⟨.casCfg, 0, 0⟩ 0 && s.casIn .casMembers id && !s.cas.dups.contains id

/-- The master compares the digests of a device that asks to join, or waits for its owner. -/
def State.joinCheck (s : State) (id : Nat) (digests : List (BitVec 384 × Bool)) : State :=
  let auto := s.autoAdmits id
  if auto && s.expectWaits id then s.putOff (.join id digests)
  else match if auto then State.mismatch id 0 digests s else (s, some 0) with
  | (s, none) => s.admitDev id
  | (s, some _) => s.raiseEvent 0x044 0 [0x01] (leBytes 2 id)

/-- A comparison that waited for HBM is made, if the device still waits for its admission (R256). -/
def State.joinRetry (s : State) (id : Nat) (digests : List (BitVec 384 × Bool)) : State :=
  if s.casRole = 2 ∧ (look s.cas.joined id).isSome = true then s.joinCheck id digests else s

/-- JOIN (R333): at the master.  A member that hears a JOIN from its own ID learns so that another device carries it (log
entry 97). -/
def execJoin (n : Fin 32) (id : Fin 1024) (epoch : Word) (digests : List (BitVec 384 × Bool)) (s : State) :
    Host.Outcome State Fault Refusal :=
  s.whenServing fun s =>
    if s.linkState n.val ≠ 2 then s
    else if s.casRole ≠ 2 then (if s.casRole = 1 ∧ id.val = s.casId then s.dupId else s)
    else
      let s := { s with cas := { s.cas with maxEpoch := max s.cas.maxEpoch epoch.toNat } }
      let path := nget s.cas.paths id.val 32
      if id.val = s.casId then (s.setFlag ⟨.casStat, 0, 0⟩ 26 true).raiseEvent 0x044 1 [0x01] (leBytes 2 id.val)
      else if s.admitted id.val = true ∧ path ≠ n.val then (s.casDouble id.val).raiseEvent 0x044 1 [0x01] (leBytes 2 id.val)
      else
        { s with cas := { s.cas with joined := nset s.cas.joined id.val n.val } }.joinCheck id.val digests

/-- A link that is up joins an endpoint to its stream: it brings the stream there, or takes it from there. -/
def State.linkServes (s : State) (x : Nat) (e : Nat × Nat) : Bool :=
  s.upLinks.any fun n => quadRouter (s.linkQuad n) == e &&
    ((s.linkOut n).contains x || ((s.link n).rx.map (·.1)).contains x)

/-- Streams whose destinations a cascade link had lost resume where a link that is up carries them (R334, R156). -/
def State.casResume (s : State) : State :=
  s.streams.foldl
    (fun (s : State) (e : Nat × StreamSt) => match e.2.tree with
      | some t =>
        (List.range t.dsts.length).foldl
          (fun (s : State) d =>
            if nget (s.stream e.1).dstState d 0 = 4 ∧
                (s.linkServes e.1 (t.srcK, t.srcPort) ∨ s.linkServes e.1 (t.dsts.getD d (240, 0)))
            then s.setDst e.1 d (s.plainState e.1 d) else s) s
      | none => s) s

/-- ADMIT (R333, R334, R340): the device leaves hold.  With its alignment restart the tick is not aligned until the next
exchange of stamps has measured the error, when the whole offset is applied. -/
def execCasAdmitMsg (n : Fin 32) (epoch : Word) (restart : Bool) (s : State) : Host.Outcome State Fault Refusal :=
  s.whenServing fun s =>
    if s.casRole = 1 ∧ s.linkState n.val = 2 then
      let s := s.setFields ⟨.casStat, 0, 0⟩ [(29, 29, 0), (28, 28, 0), (26, 26, 0)]
      let s : State := if restart then { s with cas := { s.cas with realign := true } } else s
      let aligned := !restart && s.flag ⟨.casStat, 0, 0⟩ 24
      ((s.casTold (s.clk.mode == .coasting) aligned).setEpoch epoch.toNat s.casMaster).casResume
    else s

/-- REGISTRY (R333): the deputy keeps the list.  A list without a member itself, where the one before had it, withdraws its
admission, and so does any list without the deputy (R334; log entry 97). -/
def execRegistry (members : List Word) (s : State) : Host.Outcome State Fault Refusal :=
  s.whenServing fun s =>
    let was := s.registered.contains s.casId || s.flag ⟨.casStat, 0, 0⟩ 23
    let s : State := { s with cas := { s.cas with registry := members.take 32 } }
    if s.casRole = 1 ∧ was = true ∧ s.registered.contains s.casId = false then s.enterHold else s

/-- A write of CAS_MEMBERS[w]: at the master an unregistered device loses its admission, and the members, the deputy among
them, are told. -/
def State.writeMembers (s : State) (w : Nat) (v : Word) : State :=
  let s := s.plainWrite ⟨.casMembers, 0, w⟩ v
  if s.casRole = 2 then
    let s := s.setReg ⟨.casAdmitted, 0, w⟩ (s.reg ⟨.casAdmitted, 0, w⟩ &&& v)
    s.casSend none (.registry ((List.range 32).map fun i => s.reg ⟨.casMembers, 0, i⟩))
  else s

/-! ### Management (R337, R338, R348) -/

/-- LSA (R337): link states that are news go on to the other neighbours. -/
def execLsa (n : Fin 32) (id : Fin 1024) (links : List LinkReport) (s : State) : Host.Outcome State Fault Refusal :=
  s.whenServing fun s =>
    let codes := links.map fun l => linkCode l.far.val l.state.val
    if s.linkState n.val = 2 ∧ id.val ≠ s.casId ∧ nget s.cas.routes id.val [] ≠ codes then
      ({ s with cas := { s.cas with routes := nput s.cas.routes id.val codes [] } }).casRelay n.val id.val codes
    else s

/-- STATE (R348): at the master. -/
def execCasState (id : Fin 1024) (coast aligned : Bool) (s : State) : Host.Outcome State Fault Refusal :=
  s.whenServing fun s =>
    if s.casRole = 2 then
      { s with cas := { s.cas with states := nset s.cas.states id.val (2 * b2n coast + b2n aligned) } }
    else s

/-- MBOX (R338): a packet for the receive queue, with its source in FLAGS; one that finds no room is discarded. -/
def execMbox (src : Fin 1024) (bytes : List Byte) (s : State) : Host.Outcome State Fault Refusal :=
  s.whenServing fun s =>
    let x := s.queue .mailRx
    let slots := slotsOf bytes
    if s.casRole ≠ 0 ∧ s.flag ⟨.casCfg, 0, 0⟩ 2 = true ∧ 1 ≤ bytes.length ∧ bytes.length ≤ 240 ∧
        x.used + 1 + slots.length ≤ qCap .mailRx then
      let p : Pkt := { slots }
      let hdr := s.qHeader p (bytes.length % 32) src.val
      s.setQueue .mailRx (({ x with pkts := x.pkts ++ [{ p with header := some hdr }] } : QueueSt).settle)
    else s

/-! ### Tick alignment (R339, R340) -/

/-- A cascade group is FINAL, and offset steps wait. -/
def State.cascFinal (s : State) : Bool := (List.range 256).any fun e => s.spState e == 3 && (s.spEnt e).casc

/-- The round trip of an exchange of stamps, twice the link delay, in 0.5 ns (R339). -/
def syncTrip (x : SyncStamps) : Int := ((x.t2 : Int) - x.t1) + ((x.t4 : Int) - x.t3)

/-- The neighbour's cascade tick less this device's at the instant of t4, in sixteenths of a tick: its stamp t3 is one link
delay old, and each device adds its own offset (R339). -/
def syncError (x : SyncStamps) (farOfs ofs : Int) : Int :=
  2 * (x.t3 : Int) + syncTrip x + 16 * farOfs - (2 * (x.t4 : Int) + 16 * ofs)

/-- Sixteenths of a tick to the nearest tick, a half away from zero. -/
def nearTicks (z : Int) : Int := if 0 ≤ z then (z + 8) / 16 else -((-z + 8) / 16)

/-- The alignment of a member to a neighbour nearer the master, from the measured error: the whole offset at admission and
after a coast (R340, R348), else a step of 1 where the error exceeds half a tick, both deferred while a cascade group is
FINAL; ALIGNED is clear while the error exceeds 1 tick. -/
def State.align (s : State) (err ofs : Int) : State :=
  let put (s : State) (z : Int) : State := s.setPair ⟨.tickCascOfs, 0, 0⟩ ⟨.tickCascOfsHi, 0, 0⟩ (toUnsigned 64 z)
  if s.cas.realign && !s.cascFinal then
    (put { s with cas := { s.cas with realign := false } } (ofs + nearTicks err)).casTold false true
  else
    let s := if err.natAbs ≤ 8 ∨ s.cascFinal = true then s else put s (ofs + if 0 < err then 1 else -1)
    s.casTold (s.flag ⟨.casStat, 0, 0⟩ 25) (decide (err.natAbs ≤ 16))

/-- SYNC (R339, R340, R348): one exchange's stamps, with the neighbour's offset.  The next stamp goes out in link
control, the link delay is shown, and a member aligns to a neighbour one hop nearer the master. -/
def execSync (n : Fin 32) (stamps : SyncStamps) (farOfs : Int) (s : State) : Host.Outcome State Fault Refusal :=
  s.whenServing fun s =>
    if s.linkState n.val ≠ 2 then s
    else
      let s := (s.setReg ⟨.casLdly, n.val, 0⟩ (BitVec.ofNat 32 (toUnsigned 16 (syncTrip stamps / 2)))).linkControl n.val
      let nearer := decide (s.casHops (s.farId n.val) s.casMaster < s.casHops s.casId s.casMaster)
      if s.casRole = 1 ∧ s.casHold = false ∧ nearer = true ∧ s.clk.mode ≠ .coasting then
        let ofs := signed 64 (s.pair ⟨.tickCascOfs, 0, 0⟩ ⟨.tickCascOfsHi, 0, 0⟩)
        s.align (syncError stamps farOfs ofs) ofs
      else s

/-! ### Streams across devices (R341 to R343) -/

/-- Slots of a stream's tree at a port; none where it has no destination there. -/
def State.slotsAt (s : State) (stream k p : Nat) : Nat :=
  if ((s.stream stream).dstAt k p).isSome then ((s.stream stream).tree.map (·.slots.length)).getD 0 else 0

/-- A write of CAS_SLINK for the stream and quad that CAS_SSEL names. -/
def State.writeSlink (s : State) (v : Word) : State :=
  let q := s.fld ⟨.casSsel, 0, 0⟩ 21 16
  let x := s.fld ⟨.casSsel, 0, 0⟩ 13 0
  let k : RegKey := ⟨.casSlink, q, x⟩
  let old := s.reg k
  let n := bits v 28 24
  if bit v 31 then
    let mine := if bit old 31 && bits old 28 24 == n then bits old 9 0 else 0
    let count := (s.regs.filter fun e => e.1.name == .casSlink && e.1.i == q && bit e.2 31).length
    let (kr, p) := quadRouter q
    if (s.casLinks[n]?).all (fun l => l.1 != q) || decide (s.linkFree n + mine < bits v 9 0) ||
        s.slotsAt x kr p != bits v 9 0 || (!bit old 31 && decide (1024 ≤ count)) then
      s.setFlag ⟨.casSsel, 0, 0⟩ 31 true
    else s.plainWrite k v
  else s.plainWrite k v

/-- CAS_SLINK_WRITE (R341). -/
def execCasSlinkWrite (m : Nat) (v : Word) (s : State) : Host.Outcome State Fault Refusal :=
  s.writeCommand m ⟨.casSlink, s.fld ⟨.casSsel, 0, 0⟩ 21 16, s.fld ⟨.casSsel, 0, 0⟩ 13 0⟩ v fun s => s.writeSlink v

/-- A discarded flit or packet in TX_NOPACER of a port of a CASCADE quad, which the spec does not name (R341; log entry
2). -/
def State.casDiscard (s : State) (q : Nat) : State := s.draw.portCount q (Config.freeNat s.freeCtr % 4) 7

/-- A flit with an entry goes on over its link; one for which the link has no room is discarded (R342, R363). -/
def State.casEject (s : State) (e : Word) (stream : Nat) (sop eop : Bool) (payload : List Byte) : State :=
  let n := bits e 28 24
  if s.linkState n ≠ 1 ∧ s.linkState n ≠ 2 then s
  else if s.linkFull n then s.coastDiscard stream
  else s.linkSend n 1 (b2n sop + 2 * b2n eop) stream (payload.length % 256) payload

/-- CASCADE_FLIT_EJECT (R341, R342): a flit without an entry is discarded and counted; so is a packet with a damaged flit,
whose further flits go too (R138; log entry 91). -/
def execCascadeFlitEject (q : Fin 64) (stream : Fin 16384) (sop eop : Bool) (payload : RxPacket) (s : State) :
    Host.Outcome State Fault Refusal :=
  s.whenServing fun s =>
    let (k, p) := quadRouter q.val
    if s.quadRole q.val = 3 ∧ s.servedByEven q.val = false ∧ ((s.stream stream.val).dstAt k p).isSome = true ∧
        1 ≤ payload.bytes.length ∧ payload.bytes.length ≤ 256 then
      let unspoil (s : State) : State := s.modQuad q.val fun x => { x with spoilt := x.spoilt.erase stream.val }
      let s := if sop then unspoil s else s
      let e := s.reg ⟨.casSlink, q.val, stream.val⟩
      match payload.bad with
      | some r =>
        ((s.flitError r.val).modQuad q.val fun x => { x with spoilt := x.spoilt.erase stream.val ++ [stream.val] }).casDiscard
          q.val
      | none =>
        if (s.quad q.val).spoilt.contains stream.val then s
        else
          let s := if sop then s.streamArrive stream.val k p else s
          if bit e 31 then s.casEject e stream.val sop eop payload.bytes else s.casDiscard q.val
    else s

/-- REROUTE (R343): of a link that is retired or DOWN; the streams left on it are lost. -/
def execReroute (n : Fin 32) (moves : List RerouteEntry) (s : State) : Host.Outcome State Fault Refusal :=
  s.whenServing fun s =>
    if s.linkState n.val = 3 ∨ s.linkState n.val = 4 then
      (moves.foldl (fun (s : State) e => s.rerouteOne n.val e) s).linkLost n.val
    else s

/-! ### Prepare and commit (R344 to R346) -/

/-- CAS_GSTAT.STATE of a group. -/
def State.casGroupState (s : State) (g : Nat) : Nat := s.fld ⟨.casGstat, g, 0⟩ 31 30

/-- PREPARE (R344): a member arms its group and answers.  The spec gives REFUSE no CAUSE for hold, for no staged entry
and for a group already armed (log entry 2). -/
def execPrepare (g : Fin 256) (exec : Nat) (s : State) : Host.Outcome State Fault Refusal :=
  s.whenServing fun s =>
    let refuse (s : State) (cause : Nat) : State := s.casSend (some s.casMaster) (.refuse g.val cause)
    let open_ : Nat := Config.freeNat s.freeCtr % 16
    if s.casRole ≠ 1 then s
    else if s.casHold then refuse s.draw open_
    else if s.clk.mode = .coasting ∨ s.flag ⟨.casStat, 0, 0⟩ 24 = false then refuse s 11
    else match s.armGroup g.val (some exec) with
    | (s, 0, _) => (s.modGroup g.val fun _ => { exec }).casSend (some s.casMaster) (.ready g.val)
    | (s, 1, cause) => refuse s cause
    | (s, _, _) => refuse s.draw open_

/-- READY (R345): at the master, which counts it whatever it has decided (R346). -/
def execReady (id : Fin 1024) (g : Fin 256) (s : State) : Host.Outcome State Fault Refusal :=
  s.whenServing fun s =>
    if s.casRole = 2 ∧ s.casGroupState g.val ≠ 0 ∧ s.admitted id.val = true ∧ (s.group g.val).ready.contains id.val = false then
      s.modGroup g.val fun x => { x with ready := x.ready ++ [id.val] }
    else s

/-- The master aborts a group: ABORT to every member, and its own group cancelled. -/
def State.casAbort (s : State) (g : Nat) : State :=
  let s := (s.setFld ⟨.casGstat, g, 0⟩ 31 30 3).casTell (.abort g)
  if (s.spArmedOf g).isEmpty then s else s.spCancel g 10 none

/-- REFUSE (R345): the first aborts the group, and every one is counted (R346). -/
def execRefuse (id : Fin 1024) (g : Fin 256) (cause : Fin 16) (s : State) : Host.Outcome State Fault Refusal :=
  s.whenServing fun s =>
    if s.casRole = 2 ∧ s.casGroupState g.val ≠ 0 ∧ s.admitted id.val = true then
      let t := s.modGroup g.val fun x => { x with failed := (x.failed.filter (· != id.val)) ++ [id.val] }
      if s.casGroupState g.val = 1 then t.casAbort g.val else t
    else s

/-- COMMIT_DECISION (R345): at EXEC − 250,000 cascade ticks. -/
def execCommitDecision (g : Fin 256) (s : State) : Host.Outcome State Fault Refusal :=
  s.whenServing fun s =>
    let x := s.group g.val
    if s.casRole = 2 ∧ s.casGroupState g.val = 1 ∧ x.exec ≤ s.cascTick + 250000 then
      if !(s.spArmedOf g.val).isEmpty && s.members.all x.ready.contains then
        ((s.setFld ⟨.casGstat, g.val, 0⟩ 31 30 2).modGroup g.val fun x => { x with commit := true }).casTell (.commit g.val)
      else s.casAbort g.val
    else s

/-- COMMIT (R345): one that arrives after EXEC − 25,000 is ignored. -/
def execCommit (g : Fin 256) (s : State) : Host.Outcome State Fault Refusal :=
  s.whenServing fun s =>
    if s.casRole = 1 ∧ s.spCasc g.val = true ∧ s.cascTick + 25000 ≤ (s.group g.val).exec then
      s.modGroup g.val fun x => { x with commit := true }
    else s

/-- ABORT (R345). -/
def execAbort (g : Fin 256) (s : State) : Host.Outcome State Fault Refusal :=
  s.whenServing fun s => if s.casRole = 1 ∧ s.spCasc g.val = true then s.spCancel g.val 10 none else s

/-- REPORT (R346): a cancellation after COMMIT raises an event that names the member and the group. -/
def execReport (id : Fin 1024) (g : Fin 256) (cause : Fin 16) (s : State) : Host.Outcome State Fault Refusal :=
  s.whenServing fun s =>
    let x := s.group g.val
    if s.casRole ≠ 2 ∨ x.executed.contains id.val = true ∨ x.failed.contains id.val = true then s
    else if cause.val = 0 then s.modGroup g.val fun x => { x with executed := x.executed ++ [id.val] }
    else
      let s := s.modGroup g.val fun x => { x with failed := x.failed ++ [id.val] }
      if s.casGroupState g.val = 2 then
        s.raiseEvent 0x042 1 [0x01] (leBytes 2 id.val ++ [BitVec.ofNat 8 g.val, BitVec.ofNat 8 cause.val])
      else s

/-- REPORT_TIMEOUT (R346): 10 ms after EXEC, of a group committed or aborted. -/
def execReportTimeout (id : Fin 1024) (g : Fin 256) (s : State) : Host.Outcome State Fault Refusal :=
  s.whenServing fun s =>
    let x := s.group g.val
    if s.casRole = 2 ∧ 2 ≤ s.casGroupState g.val ∧ x.exec + msTicks 10 ≤ s.cascTick ∧ s.admitted id.val = true ∧
        (x.executed ++ x.failed ++ x.raised).contains id.val = false then
      (s.modGroup g.val fun x => { x with raised := x.raised ++ [id.val] }).raiseEvent 0x042 0 [0x01]
        (leBytes 2 id.val ++ [BitVec.ofNat 8 g.val])
    else s

/-! ### The census (R347) -/

/-- Starts a census round. -/
def State.startCensus (s : State) : State :=
  let round := s.cas.round + 1
  ({ s with cas := { s.cas with round, roundAt := s.tick, answered := [] } }).casTell (.censusQ round)

/-- CENSUS_ROUND (R347): once a second. -/
def execCensusRound (s : State) : Host.Outcome State Fault Refusal :=
  s.whenServing fun s =>
    if s.casRole = 2 ∧ s.flag ⟨.casCfg, 0, 0⟩ 1 = true ∧
        (s.cas.round = 0 ∨ s.cas.roundAt + msTicks 1000 ≤ s.tick) then s.startCensus
    else s

/-- CENSUS_Q (R347): the answer, in 48 messages. -/
def execCensusQ (round : Nat) (s : State) : Host.Outcome State Fault Refusal :=
  s.whenServing fun s =>
    if s.casRole = 1 then
      let ds := s.casDigests
      (List.range 48).foldl
        (fun (s : State) i => s.casSend (some s.casMaster) (.census round (4 * i) ((ds.drop (4 * i)).take 4))) s
    else s

/-- Shows a mismatch in CAS_CMIS unless one is recorded. -/
def State.showMismatch (s : State) (id c : Nat) : State :=
  if s.flag ⟨.casCmis, 0, 0⟩ 31 then s
  else s.setReg ⟨.casCmis, 0, 0⟩ (packBits [(31, 31, 1), (25, 16, id), (7, 0, c)])

/-- Compares the digests of one CENSUS message. -/
def State.censusCheck (id : Nat) : Nat → List (BitVec 384 × Bool) → State → State
  | _, [], s => s
  | c, d :: ds, s =>
    match s.digestOk id c d with
    | (s, true) => State.censusCheck id (c + 1) ds s
    | (s, false) => State.censusCheck id (c + 1) ds
        ((s.showMismatch id c).raiseEvent 0x043 0 [0x01] (leBytes 2 id ++ [BitVec.ofNat 8 c]))

/-- The master takes one CENSUS message, as soon as the expected digests can be read (R256, R347). -/
def State.censusTake (s : State) (id first : Nat) (digests : List (BitVec 384 × Bool)) : State :=
  if s.expectWaits id then s.putOff (.census id first digests) else State.censusCheck id first digests s

/-- CENSUS (R347): at the master. -/
def execCensus (id : Fin 1024) (first : Fin 192) (digests : List (BitVec 384 × Bool)) (s : State) :
    Host.Outcome State Fault Refusal :=
  s.whenServing fun s =>
    if s.casRole = 2 ∧ s.admitted id.val = true then
      let part := 64 * id.val + first.val / 4
      let s := { s with cas := { s.cas with answered := (s.cas.answered.filter (· != part)) ++ [part] } }
      s.censusTake id.val first.val (digests.take (min 4 (192 - first.val)))
    else s

/-- CENSUS_ANSWER_TIMEOUT (R347): a member that has not answered in full within 500 ms, shown once a round. -/
def execCensusAnswerTimeout (id : Fin 1024) (s : State) : Host.Outcome State Fault Refusal :=
  s.whenServing fun s =>
    let parts := s.cas.answered.filter fun k => k / 64 == id.val
    if s.casRole = 2 ∧ s.cas.round ≠ 0 ∧ s.cas.roundAt + msTicks 500 ≤ s.tick ∧ s.admitted id.val = true ∧
        parts.length < 48 ∧ parts.contains (64 * id.val + 63) = false then
      ({ s with cas := { s.cas with answered := s.cas.answered ++ [64 * id.val + 63] } }).showMismatch id.val 0xFF
    else s

/-! ### CAS_CMD (R329, R333 to R335, R344, R347, R349) -/

/-- The master's PREPARE: its own group first, then a PREPARE to every member; the CODE. -/
def State.casPrep (s : State) (g : Nat) : State × Nat :=
  let exec := s.pair ⟨.casPtick, 0, 0⟩ ⟨.casPtickHi, 0, 0⟩
  if s.casGroupState g = 1 then (s, 2)
  else if exec < s.cascTick + 275000 then (s, 4)
  else match s.armGroup g (some exec) with
  | (s, 0, _) =>
    (((s.setReg ⟨.casGstat, g, 0⟩ (packBits [(31, 30, 1)])).modGroup g fun _ => { exec }).casTell (.prepare g exec), 0)
  | (s, _, _) => (s, 3)

/-- A claimant resigns: it claims no longer and behaves as a member. -/
def State.resign (s : State) : State :=
  if s.cas.claimant then
    ((({ s with cas := { s.cas with claimant := false } }).setFld ⟨.casStat, 0, 0⟩ 31 30 1).setFlag
      ⟨.casStat, 0, 0⟩ 24 false).enterHold
  else s

/-- A retired link returns to service with a fresh budget. -/
def State.restoreLink (s : State) (n : Nat) : State :=
  if s.linkState n = 4 then ((s.modLink n fun x => { x with fails := [] }).linkTrain n).casFlood else s

/-- One OP of CAS_CMD with its argument, and its CODE. -/
def State.casRun (s : State) (op arg : Nat) : State × Nat :=
  let master := s.casRole == 2
  match op with
  | 1 => if !master then (s, 1) else if 256 ≤ arg then (s, 3) else s.casPrep arg
  | 2 => (s.resign, 0)
  | 3 => if !master then (s, 1) else if arg = s.casId then (s, 3) else (s.admitDev arg, 0)
  | 4 => (if s.casHold then s.setFlag ⟨.casStat, 0, 0⟩ 28 true else s, 0)
  | 5 => if s.casLinks.length ≤ arg then (s, 3) else (s.restoreLink arg, 0)
  | _ => if !master then (s, 1) else (s.startCensus, 0)

/-- A write of CAS_CMD (R349, R467). -/
def State.writeCasCmd (s : State) (v : Word) : State :=
  s.goWrite ⟨.casCmd, 0, 0⟩ v fun s =>
    match s.casRun (bits v 19 16) (bits v 9 0) with
    | (s, c) => s.setReg ⟨.casCmdstat, 0, 0⟩ (packBits [(31, 30, if c = 0 then 2 else 3), (27, 24, c)])

/-- The word of CAS_CMD that starts an OP. -/
def casWord (op arg : Nat) : Word := packBits [(31, 31, 1), (19, 16, op), (9, 0, arg)]

/-- A write of CAS_CMD by a master. -/
def State.casCommand (s : State) (m op arg : Nat) : Host.Outcome State Fault Refusal :=
  s.writeCommand m ⟨.casCmd, 0, 0⟩ (casWord op arg) fun s => s.writeCasCmd (casWord op arg)

/-- CAS_PREPARE (R344). -/
def execCasPrepare (m : Nat) (g : Fin 256) (s : State) : Host.Outcome State Fault Refusal := s.casCommand m 1 g.val

/-- RESIGN (R335). -/
def execResign (m : Nat) (s : State) : Host.Outcome State Fault Refusal := s.casCommand m 2 0

/-- CAS_ADMIT (R333). -/
def execCasAdmit (m : Nat) (id : Fin 1024) (s : State) : Host.Outcome State Fault Refusal := s.casCommand m 3 id.val

/-- OVERRIDE (R334). -/
def execOverride (m : Nat) (s : State) : Host.Outcome State Fault Refusal := s.casCommand m 4 0

/-- RESTORE (R329). -/
def execRestore (m : Nat) (n : Fin 1024) (s : State) : Host.Outcome State Fault Refusal := s.casCommand m 5 n.val

/-- CAS_CENSUS (R347). -/
def execCasCensus (m : Nat) (s : State) : Host.Outcome State Fault Refusal := s.casCommand m 6 0

end Sys2Proof.Machine
end

