-- ==== Sys2Proof/Machine/Rtp.lean ====
section
/-! DEFINITION. Real-time ports (R243 to R250): enabling, write ports, read ports, panic, and retirement. -/

namespace Sys2Proof.Machine

/-! ### A port's settings -/

def State.rtpEn (s : State) (x : Nat) : Bool := s.flag ⟨.rtpCfg, x, 0⟩ 31
def State.rtpReads (s : State) (x : Nat) : Bool := s.flag ⟨.rtpCfg, x, 0⟩ 30
def State.rtpDom (s : State) (x : Nat) : Nat := s.fld ⟨.rtpBind, x, 0⟩ 31 24
def State.rtpStream (s : State) (x : Nat) : Nat := s.fld ⟨.rtpBind, x, 0⟩ 13 0
def State.rtpBase (s : State) (x : Nat) : Nat := s.pair ⟨.rtpBase, x, 0⟩ ⟨.rtpBaseHi, x, 0⟩
def State.rtpSlots (s : State) (x : Nat) : Nat := s.fld ⟨.rtpRing, x, 0⟩ 19 0
def State.rtpRetired (s : State) (x : Nat) : Bool := s.flag ⟨.rtpStat, x, 0⟩ 30

/-- Bytes of a slot: SLOT lines, 0 for 256 (R244, R265). -/
def State.rtpSize (s : State) (x : Nat) : Nat :=
  let n := s.fld ⟨.rtpRing, x, 0⟩ 31 24
  64 * (if n = 0 then 256 else n)

/-- Bytes of a ring. -/
def State.rtpLen (s : State) (x : Nat) : Nat := s.rtpSlots x * s.rtpSize x

/-- The source write port of a read port: of the same stack. -/
def State.rtpSrc (s : State) (x : Nat) : Nat := x / 256 * 256 + s.fld ⟨.rtpCfg, x, 0⟩ 7 0

/-- The port whose ring a port uses. -/
def State.rtpRing (s : State) (x : Nat) : Nat := if s.rtpReads x then s.rtpSrc x else x

/-- Device time gone since tick t, in 2⁻³² ns, at the rate of TIME_MAP_ADJ (R172, R246). -/
def State.devSince (s : State) (t : Nat) : Nat :=
  (s.tick - t) * ((4 * 2 ^ 32 : Nat) + (s.reg ⟨.timeMapAdj, 0, 0⟩).toInt).toNat

/-- Addresses lo to hi meet a retired group. -/
def State.meetsRetired (s : State) (a len : Nat) : Bool :=
  let st := stackOf a
  (List.range 32).any fun h =>
    let (b, n) := s.groupOf st h
    let lo := st * stackBytes + b * pchBytes
    s.pchRetired (32 * st + h) && decide (lo < a + len ∧ a < lo + n * pchBytes)

/-! ### Panic (R248) -/

/-- Bytes in a port's buffer; a read port's packets stay there until slots have carried them (R148). -/
def State.rtpLevel (s : State) (x : Nat) : Nat :=
  let r := s.rtp x
  if s.rtpReads x then (r.ahead.map List.length).sum + s.bytesWaiting (s.rtpStream x)
  else (r.buf.map fun e => e.1.length).sum

/-- The panic threshold in bytes. -/
def State.rtpThreshold (s : State) (x : Nat) : Nat :=
  let p := s.fld ⟨.rtpCfg, x, 0⟩ 27 24
  4096 * (if p ≠ 0 then p else if s.rtpReads x then 4 else 12)

/-- Sets PANIC of a port by its buffer level. -/
def State.rtpPanic (s : State) (x : Nat) : State :=
  let on := s.rtpEn x && !s.rtpRetired x &&
    (if s.rtpReads x then (s.rtp x).sending.isSome && decide (s.rtpLevel x < s.rtpThreshold x)
     else decide (s.rtpThreshold x ≤ s.rtpLevel x))
  s.setFlag ⟨.rtpStat, x, 0⟩ 31 on

/-! ### Enabling (R243) -/

/-- The whole ring of port x lies in one range in which domain d holds a right, in the port's own stack. -/
def State.ringOk (s : State) (x d : Nat) (wr : Bool) : Bool :=
  let a := s.rtpBase x
  let len := s.rtpLen x
  decide (a % 64 = 0 ∧ 2 ≤ s.rtpSlots x ∧ stackOf a = x / 256) &&
  match s.hbmRight d a wr with
  | some r => s.rangeAt (a + len - 1) == some r
  | none => false

/-- The conditions of R243. -/
def State.rtpMay (s : State) (x : Nat) : Bool :=
  let d := s.rtpDom x
  s.fld ⟨.traySent, s.rtpStream x, 0⟩ 7 0 == d &&
  (if s.rtpReads x then
    let y := s.rtpSrc x
    s.rtpEn y && !s.rtpReads y && s.rtpDom y == d && s.ringOk y d false
  else s.ringOk x d true)

/-- Boundaries already past when a read port is enabled after RTP_START. -/
def State.rtpStartAt (s : State) (x : Nat) : RtpSt :=
  let start := s.pair ⟨.rtpStart, x, 0⟩ ⟨.rtpStartHi, x, 0⟩
  let period := s.pair ⟨.rtpPeriod, x, 0⟩ ⟨.rtpPeriodHi, x, 0⟩ * 2 ^ 16
  if s.rtpReads x = true ∧ start < s.tick ∧ period ≠ 0 then
    let gone := s.devSince start
    { boundary := gone / period + 1, bTick := s.tick, bPart := gone % period }
  else {}

/-- A write of RTP_CFG of port x: an enabled port takes PANIC and EN 0 alone. -/
def State.writeRtpCfg (s : State) (x : Nat) (v : Word) : State :=
  let k : RegKey := ⟨.rtpCfg, x, 0⟩
  if s.rtpEn x then
    let s := s.setFld k 27 24 (bits v 27 24)
    if bit v 31 then s.rtpPanic x
    else ((s.setFlag k 31 false).setFlag ⟨.rtpStat, x, 0⟩ 31 false).modRtp x fun _ => {}
  else
    let s := (s.plainWrite k v).setFlag k 31 false
    if bit v 31 then
      let ring := s.rtpRing x
      if s.rtpRetired x || !s.rtpMay x then s.setFlag ⟨.rtpStat, x, 0⟩ 29 true
      else if s.meetsRetired (s.rtpBase ring) (s.rtpLen ring) then
        let s := s.setFlag ⟨.rtpStat, x, 0⟩ 30 true
        if s.rtpReads x then s.setDsts (s.rtpStream x) 4 fun _ => true else s
      else (s.setFlag k 31 true).modRtp x fun _ => s.rtpStartAt x
    else s

/-- RTP_ENABLE (R243): a write of RTP_CFG of the port that the master's window selects. -/
def execRtpEnable (m : Nat) (st : Fin 8) (v : Word) (s : State) : Host.Outcome State Fault Refusal :=
  let x := 256 * st.val + s.fld ⟨.rtpSel, st.val, windowOf ((s.midDomain m).getD 0)⟩ 7 0
  s.writeCommand m ⟨.rtpCfg, x, 0⟩ v fun s => s.writeRtpCfg x v

/-- A write of another register of a port: ignored while EN is 1; DOMAIN is the owner's; binding again ends a
retirement (R243, R250, R265). -/
def State.writeRtpReg (s : State) (own : Bool) (k : RegKey) (v : Word) : State :=
  if s.rtpEn k.i then s
  else if k.name = .rtpBind then
    let v := if own then v else putBits v 31 24 (s.rtpDom k.i)
    (s.plainWrite k v).setFlag ⟨.rtpStat, k.i, 0⟩ 30 false
  else s.plainWrite k v

/-! ### Write ports (R244, R245) -/

/-- A slot of a ring touches a pseudo-channel in a training stage (R256), or a line that a held request is to (R240). -/
def State.slotHeld (s : State) (ring slot : Nat) : Bool :=
  let a := s.rtpBase ring + slot * s.rtpSize ring
  ((List.range (s.rtpSize ring / 64)).any fun i => s.pchBusy (s.pchOf (a + 64 * i))) ||
    s.hbmHeld.any fun h => decide (h.addr / 64 * 64 < a + s.rtpSize ring ∧ a < h.addr + h.len)

/-- The packet ends a frame. -/
def State.rtpEnds (s : State) (x : Nat) (data : List Byte) : Bool :=
  let o := s.fld ⟨.rtpCfg, x, 0⟩ 23 16
  decide (o < data.length) && (numAt data o 1).testBit (s.fld ⟨.rtpCfg, x, 0⟩ 14 12)

/-- A slot's contents (R244): header and packet, to the end of its last line; the spec gives the bytes past the packet
no value (log entry 2). -/
def State.slotImage (s : State) (x : Nat) (data : List Byte) (tick : Nat) : List Byte :=
  let r := s.rtp x
  let flags := (if s.rtpEnds x data then 1 else 0) + (if r.gap then 2 else 0)
  let pad := (64 - data.length % 64) % 64
  leBytes 8 tick ++ leBytes 4 r.seq ++ leBytes 2 data.length ++ [BitVec.ofNat 8 flags] ++ List.replicate 49 0 ++ data ++
    (List.range pad).map fun i => BitVec.ofNat 8 (Config.freeNat (s.freeCtr + i))

/-- The frame table after a packet: 16 frames, the newest last (R245; log entry 20). -/
def frameStore (fs : List FrameEnt) (slot seq tick : Nat) (ends : Bool) : List FrameEnt :=
  match fs.getLast? with
  | some f =>
    if f.ended then
      let l := fs ++ [{ num := f.num + 1, slot, seq, tick, ended := ends, count := 1 }]
      l.drop (l.length - 16)
    else fs.dropLast ++ [{ f with ended := ends, count := f.count + 1 }]
  | none => [{ num := 1, slot, seq, tick, ended := ends, count := 1 }]

/-- A packet is discarded and counted; the next slot shows GAP. -/
def State.rtpDrop (s : State) (x : Nat) : State :=
  (s.countUp ⟨.rtpStat, x, 0⟩ 23 16).modRtp x fun r => { r with gap := true }

/-- Stores a packet in the next slot through the infuser. -/
def State.rtpStore (s : State) (x : Nat) (data : List Byte) (tick : Nat) : State :=
  let r := s.rtp x
  let a := s.rtpBase x + r.slot * s.rtpSize x
  match ({ s with freeCtr := s.freeCtr + 64 }).ringWrite (s.rtpDom x) a (s.slotImage x data tick) with
  | (s, .ok _) =>
    let ends := s.rtpEnds x data
    let frames := frameStore r.frames r.slot r.seq tick ends
    let s := s.modRtp x fun r =>
      { r with slot := (r.slot + 1) % s.rtpSlots x, seq := (r.seq + 1) % 2 ^ 32, frames, gap := false }
    if ends then s.setReg ⟨.rtpFrame, x, 0⟩ (BitVec.ofNat 32 ((frames.getLast?.map (·.num)).getD 0)) else s
  | (s, .code .denied) => (s.setFlag ⟨.rtpStat, x, 0⟩ 29 true).rtpDrop x
  | (s, _) => s.rtpDrop x

/-- Stores the packets that wait, up to one whose slot is held. -/
def State.rtpFlush (x : Nat) : Nat → State → State
  | 0, s => s
  | fuel + 1, s =>
    match (s.rtp x).buf with
    | (d, t) :: rest =>
      if s.slotHeld x (s.rtp x).slot then s
      else State.rtpFlush x fuel ((s.modRtp x fun r => { r with buf := rest }).rtpStore x d t)
    | [] => s

/-- A packet arrives at a write port (R244, R248). -/
def State.rtpTake (s : State) (x : Nat) (data : List Byte) : State :=
  let room := s.rtpSize x - 64
  if room < data.length ∨ 65536 < s.rtpLevel x + data.length then s.rtpDrop x
  else
    let s := s.modRtp x fun r => { r with buf := r.buf ++ [(data, s.tick)] }
    (State.rtpFlush x (s.rtp x).buf.length s).rtpPanic x

/-- The destination of a stream at one of a stack's attachments (R150). -/
def State.dstAtStack (s : State) (st stream : Nat) : Option Nat :=
  (stackRouters st).find? fun k => ((s.stream stream).dstAt k 0).isSome

/-- RTP_WRITE_PACKET (R138, R155, R244): a packet with a damaged flit is discarded. -/
def execRtpWritePacket (st : Fin 8) (i : Fin 256) (data : RxPacket) (s : State) :
    Host.Outcome State Fault Refusal :=
  s.whenServing fun s =>
    let x := 256 * st.val + i.val
    let stream := s.rtpStream x
    match s.dstAtStack st.val stream with
    | some k =>
      if s.rtpEn x = true ∧ s.rtpReads x = false ∧ 1 ≤ data.bytes.length ∧ data.bytes.length ≤ 9216 then
        match data.bad with
        | some r => (s.flitError r.val).rtpDrop x
        | none =>
          let s := s.streamArrive stream k 0
          if s.rtpRetired x then s else (s.touchStack st.val).rtpTake x data.bytes
      else s
    | none => s

/-! ### Read ports (R246, R247) -/

/-- What a read port finds at a packet of its frame. -/
inductive Fetched where
  | pkt (bytes : List Byte)
  | held | denied | bad
  deriving DecidableEq, Repr

/-- Reads packet j of a frame: its slot's SEQ must be the frame's first plus j. -/
def State.rtpFetch (s : State) (x : Nat) (f : FrameEnt) (j : Nat) : State × Fetched :=
  let ring := s.rtpSrc x
  let slot := (f.slot + j) % (max 1 (s.rtpSlots ring))
  let a := s.rtpBase ring + slot * s.rtpSize ring
  if s.slotHeld ring slot then (s, .held)
  else match s.ringRead (s.rtpDom x) a 64 with
  | (s, .ok h) =>
    let len := numAt h 12 2
    if numAt h 8 4 ≠ (f.seq + j) % 2 ^ 32 then (s, .bad)
    else if len = 0 then (s, .pkt [])
    else match s.ringRead (s.rtpDom x) (a + 64) len with
    | (s, .ok b) => (s, .pkt b)
    | (s, .code .denied) => (s, .denied)
    | (s, _) => (s, .bad)
  | (s, .code .denied) => (s, .denied)
  | (s, _) => (s, .bad)

/-- Prefetches the frame being sent while its buffer has room. -/
def State.rtpPrefetch (x : Nat) : Nat → State → State
  | 0, s => s
  | fuel + 1, s =>
    let r := s.rtp x
    match r.sending with
    | some (f, j) =>
      let n := j + r.ahead.length
      if f.count ≤ n then s
      else match s.rtpFetch x f n with
      | (t, .pkt b) =>
        if 65536 < s.rtpLevel x + b.length then s
        else State.rtpPrefetch x fuel (t.modRtp x fun r => { r with ahead := r.ahead ++ [b] })
      | (t, .held) => t
      | (t, _) => t
    | none => s

/-- A frame is abandoned (R247, R363). -/
def State.rtpAbandon (s : State) (x : Nat) : State :=
  let s := s.modRtp x fun r => { r with sending := none, ahead := [] }
  (s.countUp ⟨.rtpStat, x, 0⟩ 23 16).coastDiscard (s.rtpStream x)

/-- Begins to send a frame. -/
def State.rtpBegin (s : State) (x : Nat) (f : FrameEnt) : State :=
  let s := s.modRtp x fun r => { r with sending := some (f, 0), ahead := [], last := some f }
  State.rtpPrefetch x (f.count + 1) (s.setReg ⟨.rtpFrame, x, 0⟩ (BitVec.ofNat 32 f.num))

/-- What a boundary chooses (R246). -/
def State.rtpChoose (s : State) (x : Nat) : State :=
  let s := if (s.rtp x).sending.isSome then s.rtpAbandon x else s
  let last := (s.rtp x).last
  let newer := (s.rtp (s.rtpSrc x)).frames.filter fun f => f.ended && decide (((last.map (·.num)).getD 0) < f.num)
  match newer.getLast? with
  | some f =>
    ((List.range (newer.length - 1)).foldl (fun (s : State) _ => s.countUp ⟨.rtpStat, x, 0⟩ 15 8) s).rtpBegin x f
  | none => match last with
    | some f => if s.flag ⟨.rtpCfg, x, 0⟩ 29 then (s.countUp ⟨.rtpStat, x, 0⟩ 7 0).rtpBegin x f else s
    | none => s

/-- RTP_BOUNDARY (R246): boundary 0 at RTP_START, the others PERIOD of device time apart. -/
def execRtpBoundary (st : Fin 8) (i : Fin 256) (s : State) : Host.Outcome State Fault Refusal :=
  s.whenServing fun s =>
    let x := 256 * st.val + i.val
    let r := s.rtp x
    let period := s.pair ⟨.rtpPeriod, x, 0⟩ ⟨.rtpPeriodHi, x, 0⟩ * 2 ^ 16
    let start := s.pair ⟨.rtpStart, x, 0⟩ ⟨.rtpStartHi, x, 0⟩
    let gone := r.bPart + s.devSince r.bTick
    let due := if r.boundary = 0 then decide (start ≤ s.tick) else decide (period ≤ gone)
    if s.rtpEn x = true ∧ s.rtpReads x = true ∧ s.rtpRetired x = false ∧ due = true then
      let part := if r.boundary = 0 then s.devSince start else gone - period
      ((s.modRtp x fun r => { r with boundary := r.boundary + 1, bTick := s.tick, bPart := part }).rtpChoose x).rtpPanic x
    else s

/-- Packet j leaves at the stream's source endpoint (R246, R150); without a tree from there it is discarded, which the
port counts in DROPPED (R150 names no counter; DESIGN CHOICE, log entry 91). -/
def State.rtpEmit (s : State) (x : Nat) (f : FrameEnt) (j : Nat) (pkt : List Byte) (rest : List (List Byte)) : State :=
  let stream := s.rtpStream x
  let s := s.modRtp x fun r => { r with ahead := rest, sending := if j + 1 < f.count then some (f, j + 1) else none }
  let src := ((s.stream stream).tree.map (·.srcK)).getD 240
  let (s, ok) := if (stackRouters (x / 256)).contains src then s.inject stream src 0 (.rtp x) pkt else (s, false)
  State.rtpPrefetch x (f.count + 1) (if ok then s else s.countUp ⟨.rtpStat, x, 0⟩ 23 16)

/-- The next packet of the frame being sent. -/
def State.rtpSend (s : State) (x : Nat) : State :=
  match (s.rtp x).sending with
  | some (f, j) =>
    match (s.rtp x).ahead with
    | pkt :: rest => s.rtpEmit x f j pkt rest
    | [] => match s.rtpFetch x f j with
      | (s, .pkt b) => s.rtpEmit x f j b []
      | (s, .held) => s
      | (s, .denied) => (s.setFlag ⟨.rtpStat, x, 0⟩ 29 true).rtpAbandon x
      | (s, .bad) => s.rtpAbandon x
  | none => s

/-- RTP_PACKET_SEND (R246, R247): packet j at j × INTERVAL of device time after the boundary, or once its data is there. -/
def execRtpPacketSend (st : Fin 8) (i : Fin 256) (s : State) : Host.Outcome State Fault Refusal :=
  s.whenServing fun s =>
    let x := 256 * st.val + i.val
    let r := s.rtp x
    match r.sending with
    | some (_, j) =>
      if s.rtpEn x = true ∧ s.rtpRetired x = false ∧
          j * (s.reg ⟨.rtpInterval, x, 0⟩).toNat * 2 ^ 16 ≤ r.bPart + s.devSince r.bTick then
        (s.rtpSend x).rtpPanic x
      else s
    | none => s

/-- A port stores or prefetches what its buffer waits for. -/
def State.rtpWork (s : State) (x : Nat) : State :=
  if s.rtpEn x && !s.rtpRetired x then
    (if s.rtpReads x then State.rtpPrefetch x (((s.rtp x).sending.map (·.1.count)).getD 0 + 1) s
     else State.rtpFlush x (s.rtp x).buf.length s).rtpPanic x
  else s

/-- The slot that a port stores or reads next, if it has such work. -/
def State.rtpNext (s : State) (x : Nat) : Option Nat :=
  let r := s.rtp x
  if !s.rtpEn x || s.rtpRetired x then none
  else if s.rtpReads x then r.sending.bind fun (f, j) =>
    if f.count ≤ j + r.ahead.length then none
    else some ((f.slot + j + r.ahead.length) % max 1 (s.rtpSlots (s.rtpSrc x)))
  else if r.buf = [] then none else some r.slot

/-- Where a port's next request stands among those of its stack, least first (R241): with no panic those that hit an open
row go first, then the older before the younger; a read port's age counts from its frame's boundary. -/
def State.rtpRank (s : State) (panic : Bool) (x slot : Nat) : Nat × Nat :=
  let r := s.rtp x
  let ring := s.rtpRing x
  let p := s.pchAddr (s.rtpBase ring + slot * s.rtpSize ring)
  let (b, row) := Config.bankRow p.2
  let hit := s.openRow p.1 (nget (nget s.banks p.1 []) b {}) == some row
  (b2n (!panic && !hit), if s.rtpReads x then r.bTick else (r.buf.head?.map (·.2)).getD 0)

/-- The port among those of a list whose request the engines serve next. -/
def State.rtpPick (s : State) (panic : Bool) (l : List Nat) : Option Nat :=
  (l.foldl
    (fun (best : Option (Nat × Nat × Nat)) x => match s.rtpNext x with
      | some slot =>
        if s.slotHeld (s.rtpRing x) slot then best
        else
          let k := s.rtpRank panic x slot
          match best with
          | some (_, k') => if k.1 < k'.1 ∨ (k.1 = k'.1 ∧ k.2 < k'.2) then some (x, k) else best
          | none => some (x, k)
      | none => best) none).map (·.1)

/-- Serves the ports of a list one request after another: a write port stores a packet, a read port prefetches what its
buffer has room for. -/
def State.rtpRun (panic : Bool) : Nat → List Nat → State → State
  | 0, _, s => s
  | fuel + 1, l, s =>
    match s.rtpPick panic l with
    | some x =>
      if s.rtpReads x then State.rtpRun panic fuel (l.erase x) (s.rtpWork x)
      else State.rtpRun panic fuel l ((State.rtpFlush x 1 s).rtpPanic x)
    | none => s

/-- Requests of the ports of a stack are served: those of ports in panic, or of the others (R241, R256). -/
def State.rtpServe (s : State) (st : Nat) (panic : Bool) : State :=
  let l := ((List.range 256).map fun i => 256 * st + i).filter fun x => s.rtpEn x && s.flag ⟨.rtpStat, x, 0⟩ 31 == panic
  State.rtpRun panic (l.map fun x => (s.rtp x).buf.length + 1).sum l s

/-- The engines of a stack serve what was held (R241, R249, R256): ports in panic, requests promoted by age, the other
ports, which are LIVE, and the requests of the other classes. -/
def State.serveHeld (s : State) (st : Nat) : State :=
  (((s.rtpServe st true).hbmServe st true).rtpServe st false).hbmServe st false

/-! ### Retirement (R250) -/

/-- A port whose ring lies in a retired group. -/
def State.retireRtp (s : State) (x tick : Nat) : State :=
  let s := (s.setFlag ⟨.rtpStat, x, 0⟩ 30 true).setFlag ⟨.rtpStat, x, 0⟩ 31 false
  let s := s.modRtp x fun r => { r with buf := [], sending := none, ahead := [] }
  let s := s.retireEvent (0x700 + x / 256) 6 x tick [s.rtpDom x]
  if s.rtpReads x then s.setDsts (s.rtpStream x) 4 fun _ => true else s

/-- Disables the ports of a domain and returns their registers to Reset (R250, R413). -/
def State.resetRtps (s : State) (d : Nat) : State :=
  let mine := (List.range 2048).filter fun x => s.rtpDom x == d
  let s := s.resetRegs fun k => mine.contains k.i && (match k.name with
    | .rtpCfg | .rtpBind | .rtpBase | .rtpBaseHi | .rtpRing | .rtpStart | .rtpStartHi | .rtpPeriod | .rtpPeriodHi
    | .rtpInterval | .rtpStat | .rtpFrame => true
    | _ => false)
  { s with rtps := s.rtps.filter fun e => !mine.contains e.1 }

end Sys2Proof.Machine
end

