-- ==== Sys2Proof/Machine/Stack.lean ====
section
/-! DEFINITION. Stack controllers (R237, R238, R249 to R262): the channel map, temperature and refresh, self-refresh,
training and retrains, drift tracking, retirement, the patrol scrub and way masks. -/

namespace Sys2Proof.Machine

/-! ### Channel groups (R237, R238) -/

/-- A key range overlaps a stack. -/
def State.stackRanged (s : State) (st : Nat) : Bool :=
  let per := stackBytes / 2 ^ 21
  (List.range 80).any fun r =>
    s.rangeState r != 0 && decide ((s.range r).base < (st + 1) * per ∧ st * per ≤ (s.range r).limit)

/-- Every group of a CG_START is legal, and bit 0 begins one. -/
def cgLegal (start : Word) : Bool :=
  bit start 0 && (List.range 32).all fun b =>
    !bit start b ||
      (let n := (((List.range 32).find? fun i => decide (b < i) && bit start i).getD 32) - b
       [1, 2, 4, 8, 16, 32].contains n && b % n == 0)

/-- A write of CG_START or CG_CFG (R238). -/
def State.writeCg (s : State) (st : Nat) (cfg : Bool) (v : Word) : State :=
  if s.stackRanged st || (!cfg && !cgLegal v) then s.setFlag ⟨.stkStat, st, 0⟩ 26 true
  else s.plainWrite ⟨if cfg then .stkCgCfg else .stkCgStart, st, 0⟩ v

/-- CG_WRITE (R238). -/
def execCgWrite (m : Nat) (st : Fin 8) (cfg : Bool) (v : Word) (s : State) : Host.Outcome State Fault Refusal :=
  s.writeCommand m ⟨if cfg then .stkCgCfg else .stkCgStart, st.val, 0⟩ v fun s => s.writeCg st.val cfg v

/-! ### Temperature (R251) -/

/-- The boundary in °C below refresh rate r (1 to 3). -/
def rateBound (r : Nat) : Int := if r = 1 then 85 else if r = 2 then 105 else 115

/-- One reading of a stack's temperature: the rate steps up at once, and down once the temperature has stayed 3 °C below
a boundary for 1 s. -/
def State.stackTemp (s : State) (st : Nat) (z : Int) : State :=
  let k : RegKey := ⟨.stkTemp, st, 0⟩
  let old := s.fld k 31 30
  let since := (List.range 3).filterMap fun i =>
    if z ≤ rateBound (i + 1) - 3 then some (i + 1, nget (s.stk st).coolSince (i + 1) s.tick) else none
  let holds (r : Nat) : Bool :=
    decide (rateBound r < z) || (decide (r ≤ old) && match look since r with
      | some t => decide (s.tick < t + msTicks 1000)
      | none => true)
  let rate := if holds 3 then 3 else if holds 2 then 2 else if holds 1 then 1 else 0
  let s := s.setFields k [(31, 30, rate), (7, 0, toUnsigned 8 z)]
  let s := if signed 8 (s.fld k 15 8) < z then s.setFld k 15 8 (toUnsigned 8 z) else s
  s.modStk st fun x => { x with coolSince := since }

/-- STACK_TEMP_SAMPLE (R251). -/
def execStackTempSample (st : Fin 8) (celsius : Int) (s : State) : Host.Outcome State Fault Refusal :=
  s.whenLive fun s => s.stackTemp st.val celsius

/-! ### Self-refresh (R252, R253, R378) -/

/-- The first condition of R252. -/
def State.srWanted (s : State) (st : Nat) : Bool :=
  let idle := s.fld ⟨.stkCtl, st, 0⟩ 23 16
  s.flag ⟨.stkCtl, st, 0⟩ 31 ||
    (idle != 0 && !s.stackRanged st && decide ((s.stk st).lastReq + msTicks idle ≤ s.tick))

/-- Forgets a deferred self-refresh request. -/
def State.dropSr (s : State) (st : Nat) : State :=
  let deferred := s.urn.deferred.filter fun e => e.1 != 256 + st
  ({ s with urn := { s.urn with deferred } }).modStk st fun x => { x with deferredSr := false }

/-- SELF_REFRESH_ENTRY (R252). -/
def execSelfRefreshEntry (st : Fin 8) (s : State) : Host.Outcome State Fault Refusal :=
  s.whenLive fun s => if !s.inSr st.val && s.srWanted st.val && s.srFree st.val then (s.dropSr st.val).enterSr st.val else s

/-- A write of STK[s]_CTL: SR_REQ 1 asks for self-refresh, deferred by a lease and blocked by R252; 0 asks for exit. -/
def State.writeStkCtl (s : State) (st : Nat) (v : Word) : State :=
  let s := (s.plainWrite ⟨.stkCtl, st, 0⟩ v).dropSr st
  if bit v 31 then
    if !s.inSr st && (s.leases.any fun e => stackLease st e.2) then
      (s.deferOn (256 + st) (stackLease st)).modStk st fun x => { x with deferredSr := true } else s
  else if s.inSr st then s.exitSr st else s

/-- SELF_REFRESH_EXIT (R253): a request, a stream flit for a write port, or SR_REQ 0. -/
def execSelfRefreshExit (st : Fin 8) (s : State) : Host.Outcome State Fault Refusal :=
  s.whenLive fun s => if s.inSr st.val then s.exitSr st.val else s

/-- The Kettle asks for a full retrain of a pseudo-channel (R253, R258). -/
def State.askRetrain (s : State) (x : Nat) : State :=
  s.modPch x fun p => { p with retrain := some (p.retrain.getD {}) }

/-- SELF_REFRESH_VERIFY (R253). -/
def execSelfRefreshVerify (st : Fin 8) (h : Fin 32) (pass : Bool) (s : State) : Host.Outcome State Fault Refusal :=
  s.whenLive fun s =>
    let x := 32 * st.val + h.val
    if (s.pch x).verify && !s.inSr st.val then
      let s := s.modPch x fun p => { p with verify := false }
      let moved := (signed 8 (s.fld ⟨.stkTemp, st.val, 0⟩ 7 0) - (s.stk st.val).srTemp).natAbs
      if pass && decide (moved ≤ 20) then s else s.askRetrain x
    else s

/-! ### Training (R255) -/

/-- The longest run of passing steps of a sweep, the first of equals: its first step and its length. -/
def longestRun (w : BitVec 256) : Nat × Nat :=
  ((List.range 256).foldl
    (fun (e : Nat × Nat × Nat) i =>
      let run := if w.getLsbD i then e.1 + 1 else 0
      (run, if e.2.2 < run then (i + 1 - run, run) else e.2)) (0, 0, 0)).2

/-- The centre of a sweep's window of at least 24 steps, rounded down; none without one (R255; log entry 95). -/
def windowCentre (w : BitVec 256) : Option Nat :=
  let run := longestRun w
  if 24 ≤ run.2 then some (run.1 + (run.2 - 1) / 2) else none

/-- The write and read centres of a lane, where both sweeps have a window. -/
def centres (r : TrainResult) (b : Nat) : Option (Nat × Nat) :=
  (r.lanes[b]?).bind fun e => (windowCentre e.1).bind fun wr => (windowCentre e.2).map fun rd => (wr, rd)

/-- The spare lanes that replace the data lanes without a window: (spare 36 or 37, data lane); none where they cannot. -/
def trainSpares (r : TrainResult) : Option (List (Nat × Nat)) :=
  let win (b : Nat) : Bool := (centres r b).isSome
  let bad := (List.range 36).filter fun b => !win b
  let spares := [36, 37].filter win
  if bad.length ≤ 2 ∧ bad.length ≤ spares.length then some (spares.zip bad) else none

/-- Writes the centres that a training found. -/
def State.writeCentres (s : State) (x : Nat) (r : TrainResult) : State :=
  let s := (List.range 38).foldl
    (fun (s : State) b => match centres r b with
      | some (wr, rd) => s.setReg ⟨.pchDly, x, b⟩ (packBits [(23, 16, rd), (15, 8, wr), (7, 0, rd)])
      | none => s) s
  s.setReg ⟨.pchLat, x, 0⟩ (packBits [(23, 16, r.cadly), (7, 0, r.lat)])

/-- A pseudo-channel's spares as PCH_STAT shows them. -/
def State.setSpares (s : State) (x : Nat) (l : List (Nat × Nat)) : State :=
  s.setFields ⟨.pchStat, x, 0⟩ [(31, 30, if l = [] then 0 else 2), (29, 29, 0), (23, 16, lookD l 37 0xFF),
    (15, 8, lookD l 36 0xFF)]

/-- The REPAIR record of HBM spare lanes (R398). -/
def State.repairRecord (s : State) (x : Nat) (l : List (Nat × Nat)) : State :=
  if l = [] then s
  else s.raiseEvent (0x600 + x) 5 [0x01]
    (leBytes 2 x ++ [BitVec.ofNat 8 (lookD l 36 0xFF), BitVec.ofNat 8 (lookD l 37 0xFF)]) (some 0x0402)

/-! ### Retirement (R259) -/

/-- The domains that a group's retirement is told: the owner, and the owners of overlapping ranges. -/
def State.groupDoms (s : State) (lo hi : Nat) : List Nat :=
  (0x01 :: ((List.range 80).filter fun r => s.rangeState r != 0 &&
    decide ((s.range r).base * 2 ^ 21 < hi ∧ lo < ((s.range r).limit + 1) * 2 ^ 21)).map fun r => (s.range r).owner).dedup

/-- RETRAIN_HELD of a stack shows that a full retrain waits. -/
def State.showHeld (s : State) (st : Nat) : State :=
  s.setFlag ⟨.stkStat, st, 0⟩ 27
    ((List.range 32).any fun h => (s.pch (32 * st + h)).retrain.any fun r => r.waitingSince.isSome)

/-- A pseudo-channel is retired, and its group with it; `tick` is that of the first counted retrain.  Requests held at the
controller for the group complete with RETIRED. -/
def State.retirePch (s : State) (x tick : Nat) : State :=
  let st := x / 32
  let (b, n) := s.groupOf st (x % 32)
  let lo := st * stackBytes + b * pchBytes
  let hi := lo + n * pchBytes
  let s := s.setFld ⟨.pchStat, x, 0⟩ 31 30 3
  let s := s.modPch x fun p => { p with retrain := none, verify := false }
  let s := s.leaseDropRes fun r => r == .pch x
  let s := s.dropCached (lo / 64) (hi / 64 - 1)
  let s := s.retireEvent (0x600 + x) 5 x tick (s.groupDoms lo hi)
  ((List.range 256).foldl
    (fun (s : State) i =>
      let y := 256 * st + i
      let ring := s.rtpRing y
      if s.rtpEn y && !s.rtpRetired y && decide (s.rtpBase ring < hi ∧ lo < s.rtpBase ring + s.rtpLen ring) then
        s.retireRtp y tick else s) (s.showHeld st)).hbmServe st false

/-- What a training leaves: centres with or without spares, or a retirement (R255, R256). -/
def State.trained (s : State) (x : Nat) (r : TrainResult) : State :=
  match trainSpares r with
  | some l => (((s.trainBanks x).writeCentres x r).setSpares x l).repairRecord x l
  | none =>
    let recent := (s.pch x).done.filter fun e => s.tick < e.1 + msTicks (s.fld ⟨.mntBudget, 2, 0⟩ 27 0)
    s.retirePch x ((recent.head?.map (·.2)).getD s.tick)

/-! ### Full retrains in service (R249, R256) -/

/-- The event of a full retrain that waits for panic. -/
def State.heldEvent (s : State) (x : Nat) : State :=
  s.raiseEvent (0x700 + x / 32) 1 [0x01] [BitVec.ofNat 8 (x % 32)]

/-- A stage of a retrain that panic holds back begins to wait. -/
def State.holdRetrain (s : State) (x : Nat) : State :=
  match (s.pch x).retrain with
  | some r =>
    if r.waitingSince.isSome then s
    else
      let r := { r with waitingSince := some s.tick, active := false, lastRaise := s.tick }
      ((s.modPch x fun p => { p with retrain := some r }).showHeld (x / 32)).heldEvent x
  | none => s

/-- The next stage of a retrain begins; the first one under its lease. -/
def State.startStage (s : State) (x : Nat) : State :=
  match (s.pch x).retrain with
  | some r =>
    let go (s : State) : State :=
      let r := { r with active := true, waitingSince := none, startedAt := if r.stage = 0 then s.tick else r.startedAt }
      ((s.modPch x fun p => { p with retrain := some r }).setFld ⟨.pchStat, x, 0⟩ 31 30 1).showHeld (x / 32)
    if s.leased .fullRetrain (.pch x) then go s
    else match s.leaseTry .fullRetrain [.pch x, .stack (x / 32)] 0x00 with
      | (s, true) => go s
      | (s, false) => s
  | none => s

/-- FULL_RETRAIN (R249, R256): one that has been asked for starts, unless panic holds it. -/
def execFullRetrain (st : Fin 8) (h : Fin 32) (s : State) : Host.Outcome State Fault Refusal :=
  s.whenServing fun s =>
    let x := 32 * st.val + h.val
    if (s.pch x).retrain.any (fun r => !r.active) && !s.pchRetired x then
      (if s.stackPanic st.val then s.holdRetrain x else s.startStage x)
    else s

/-- PANIC_YIELD_TIMEOUT (R249). -/
def execPanicYieldTimeout (st : Fin 8) (h : Fin 32) (s : State) : Host.Outcome State Fault Refusal :=
  s.whenServing fun s =>
    let x := 32 * st.val + h.val
    let y := s.fld ⟨.stkCtl, st.val, 0⟩ 7 0
    match (s.pch x).retrain.bind (·.waitingSince) with
    | some t => if y ≠ 0 ∧ t + msTicks y ≤ s.tick then s.startStage x else s
    | none => s

/-- RETRAIN_HELD_REPEAT (R249): every 100 ms. -/
def execRetrainHeldRepeat (st : Fin 8) (h : Fin 32) (s : State) : Host.Outcome State Fault Refusal :=
  s.whenServing fun s =>
    let x := 32 * st.val + h.val
    match (s.pch x).retrain with
    | some r =>
      if r.waitingSince.isSome = true ∧ r.lastRaise + msTicks 100 ≤ s.tick then
        (s.modPch x fun p => { p with retrain := some { r with lastRaise := s.tick } }).heldEvent x
      else s
    | none => s

/-- A deferred self-refresh request of a stack is carried out once no lease defers it (R378). -/
def State.stackUndefer (s : State) (st : Nat) : State :=
  if (s.stk st).deferredSr && !(s.leases.any fun e => stackLease st e.2) then
    let s := s.dropSr st
    if s.flag ⟨.stkCtl, st, 0⟩ 31 && !s.inSr st && s.srFree st then s.enterSr st else s
  else s

/-- The last stage of a retrain ends; it counts unless it began about a reference-loss stop (R393). -/
def State.retrainEnd (s : State) (x startedAt : Nat) (r : TrainResult) : State :=
  let counts := !s.afterStopAt startedAt
  let s := s.modPch x fun p => { p with retrain := none, done := if counts then p.done ++ [(s.tick, startedAt)] else p.done }
  let s := ((s.leaseDropOn .fullRetrain (.pch x)).setFld ⟨.pchStat, x, 0⟩ 31 30 0).trained x r
  (s.showHeld (x / 32)).stackUndefer (x / 32)

/-- The full retrain of a pseudo-channel stops at the end of the stage in progress: its lease has run out (R394), or a
request has been deferred by it for 50 ms (R379). -/
def State.retrainDue (s : State) (x : Nat) : Bool :=
  s.leases.any fun e => e.2.cls == .fullRetrain && e.2.rs.contains (.pch x) &&
    (decide (e.2.renewed + leaseTicks ≤ s.tick) || e.2.deferAt.any fun t => decide (t + msTicks 50 ≤ s.tick))

/-- A full retrain stops between stages, to start again later, and the deferred request is carried out. -/
def State.retrainYield (s : State) (x : Nat) : State :=
  let s := (s.leaseDropOn .fullRetrain (.pch x)).setFld ⟨.pchStat, x, 0⟩ 31 30 0
  s.stackUndefer (x / 32)

/-- RETRAIN_STAGE_DONE (R256, R379): held requests are served, then the next stage begins unless panic or a request
deferred too long holds it. -/
def execRetrainStageDone (st : Fin 8) (h : Fin 32) (r : TrainResult) (s : State) : Host.Outcome State Fault Refusal :=
  s.whenServing fun s =>
    let x := 32 * st.val + h.val
    match (s.pch x).retrain with
    | some t =>
      if t.active then
        if 3 ≤ t.stage then (s.retrainEnd x t.startedAt r).serveHeld st.val
        else
          let t' := { t with stage := t.stage + 1, active := false }
          let s := (s.modPch x fun p => { p with retrain := some t' }).serveHeld st.val
          if s.retrainDue x then s.retrainYield x
          else if s.stackPanic st.val then s.holdRetrain x else s.startStage x
      else s
    | none => s

/-! ### Drift tracking (R257, R258) -/

/-- A delay with its correction of −1, 0 or +1. -/
def driftBy (d : Nat) (z : Int) : Nat := (max 0 (min 255 ((d : Int) + max (-1) (min 1 z)))).toNat

/-- Writes the corrections of every lane. -/
def State.driftWrite (s : State) (x : Nat) (corr : List (Int × Int)) : State :=
  ((List.range 38).zip corr).foldl
    (fun (s : State) (e : Nat × Int × Int) =>
      let k : RegKey := ⟨.pchDly, x, e.1⟩
      s.setFields k [(15, 8, driftBy (s.fld k 15 8) e.2.2), (7, 0, driftBy (s.fld k 7 0) e.2.1)]) s

/-- A lane's RDLY differs from TRAINED_R by 16 steps or more. -/
def State.driftFar (s : State) (x : Nat) : Bool :=
  (List.range 38).any fun b =>
    let w := s.reg ⟨.pchDly, x, b⟩
    decide (16 ≤ ((bits w 7 0 : Int) - bits w 23 16).natAbs)

/-- Drift saturates: a full retrain is asked for, or the budget is exhausted and the pseudo-channel retired (R393). -/
def State.driftSat (s : State) (x : Nat) : State :=
  let b := s.reg ⟨.mntBudget, 2, 0⟩
  let recent := (s.pch x).done.filter fun e => s.tick < e.1 + msTicks (bits b 27 0)
  let s := s.setFlag ⟨.pchStat, x, 0⟩ 29 true
  if bits b 31 28 ≤ recent.length then s.retirePch x ((recent.head?.map (·.2)).getD s.tick) else s.askRetrain x

/-- DRIFT_TRACK (R257, R258): corrections under the drift-track lease. -/
def execDriftTrack (st : Fin 8) (h : Fin 32) (corr : List (Int × Int)) (narrow : Bool) (s : State) :
    Host.Outcome State Fault Refusal :=
  s.whenServing fun s =>
    let x := 32 * st.val + h.val
    if s.inSr st.val || s.pchRetired x || s.pchBusy x then s
    else match s.leaseTry .driftTrack [.pch x] 0x00 with
    | (s, true) =>
      let s := (s.driftWrite x corr).leaseDropOn .driftTrack (.pch x)
      if (s.driftFar x || narrow) && !s.flag ⟨.pchStat, x, 0⟩ 29 then s.driftSat x else s
    | (s, false) => s

/-! ### Patrol scrub (R249, R260) -/

/-- PATROL_SCRUB_STEP (R260): a dirty cached line is taken from the cache, and its cells are not read. -/
def execPatrolScrubStep (st : Fin 8) (line : Fin 603979776) (s : State) : Host.Outcome State Fault Refusal :=
  s.whenServing fun s =>
    let n := st.val * (stackBytes / 64) + line.val
    let x := s.pchOf (64 * n)
    if s.flag ⟨.stkScrub, st.val, 0⟩ 31 = false ∨ s.inSr st.val = true ∨ s.stackPanic st.val = true ∨
        s.pchRetired x = true ∨ s.agentWaits bulkClass 0x00 (64 * n) 64 = true then s
    else match s.leaseTry .patrolScrub [.pch x] 0x00 with
    | (s, true) =>
      (match (s.stk st.val).hit line.val with
        | some l => if l.dirty then s else s.untaggedRead n
        | none => s.untaggedRead n).leaseDropOn .patrolScrub (.pch x)
    | (s, false) => s

/-! ### The page policy (R242) -/

/-- A write of PCH_CTL: rows that the idle timer has closed stay closed. -/
def State.writePchCtl (s : State) (x : Nat) (v : Word) : State := (s.settleRows x).plainWrite ⟨.pchCtl, x, 0⟩ v

/-! ### Way masks (R262) -/

/-- A tenant's mask overlaps another tenant's or the Kettle's. -/
def State.maskClash (s : State) (st n mask : Nat) : Bool :=
  (List.range 66).any fun k => (k = 0 || (2 ≤ k && k != n)) && (s.fld ⟨.stkWaymask, st, k⟩ 15 0 &&& mask) != 0

/-- A write of STK[s]_WAYMASK[n]. -/
def State.writeWaymask (s : State) (st n : Nat) (v : Word) : State :=
  let k : RegKey := ⟨.stkWaymask, st, n⟩
  if n = 0 then s
  else if 2 ≤ n ∧ s.maskClash st n (bits v 15 0) = true then s.setFlag k 31 true
  else s.plainWrite k v

/-- WAYMASK_WRITE (R262). -/
def execWaymaskWrite (m : Nat) (st : Fin 8) (n : Fin 66) (v : Word) (s : State) : Host.Outcome State Fault Refusal :=
  s.writeCommand m ⟨.stkWaymask, st.val, n.val⟩ v fun s => s.writeWaymask st.val n.val v

end Sys2Proof.Machine
end

