-- ==== Sys2Proof/Machine/Leases.lean ====
section
/-! DEFINITION. The lease commands (R378, R379, R394, R395) and the end of a readback (R124). -/

namespace Sys2Proof.Machine

/-! ### Deferred requests (R378) -/

/-- A cup's deferred request for OFF is carried out once no readback holds it. -/
def State.cupUndefer (s : State) (c : Nat) : State :=
  match (s.cup c).deferred with
  | some t => if s.leases.any fun e => readbackLease c e.2 then s else s.stateReq c t
  | none => s

/-- The deferred request of a client is carried out if no lease defers it any more. -/
def State.undefer (s : State) (n : Nat) : State :=
  if n < 192 then s.cupUndefer n
  else if n < 256 then (List.range 4).foldl (fun (s : State) j => s.laneUndefer (4 * (n - 192) + j)) s
  else if n < 264 then s.stackUndefer (n - 256)
  else s

/-- The same for every client with a deferred request. -/
def State.undeferAll (s : State) : State := (s.urn.deferred.map (·.1)).foldl (fun (s : State) n => s.undefer n) s

/-! ### The end of an activity (R379) -/

/-- A lane retrain ends at once and counts against no budget; that of a link begins anew once it has its leases again
(R329). -/
def State.retrainAbort (s : State) (l : Nat) (x : Lease) : State :=
  let s := s.modLane l fun x => { x with counted := if x.uncounted then x.counted else x.counted.dropLast }
  match s.linkOfLane l with
  | some n => (s.haltActivity x).linkFreeLease n
  | none => if (s.lane l).retraining then s.endRetrain l else s.leaseDropOn .laneRetrain (.lane l)

/-- An activity stops and its lease ends: an eye scan ABORTED, a lane retrain uncounted, a full retrain between its
stages. -/
def State.stopActivity (s : State) (e : Nat) : State :=
  match look s.leases e with
  | some l =>
    match l.cls, l.rs with
    | .eyeScan, _ => (s.leaseDrop e).haltActivity l
    | .laneRetrain, .lane i :: _ => s.retrainAbort i l
    | .fullRetrain, .pch x :: _ => (s.haltActivity l).retrainYield x
    | _, _ => s.leaseDrop e
  | none => s

/-! ### Commands -/

/-- A readback comes too soon after the last pause of its leaf's steep pass, and waits (R395). -/
def State.readYoung (s : State) (cls : LeaseClass) (rs : List Resource) : Bool :=
  cls == .captureReadback && rs.any fun r => match r with
    | .cup c => s.passYoung c
    | _ => false

/-- LEASE_REQUEST (R394, R395). -/
def execLeaseRequest (cls : LeaseClass) (rs : List Resource) (dom : Nat) (s : State) :
    Host.Outcome State Fault Refusal :=
  s.whenServing fun s => if s.readYoung cls rs then s else (s.leaseTry cls rs dom).1

/-- LEASE_RENEW (R185, R379, R394): unless the renewal is barred. -/
def execLeaseRenew (e : Fin 512) (s : State) : Host.Outcome State Fault Refusal :=
  s.whenServing fun s =>
    match look s.leases e.val with
    | some l =>
      if s.renewBarred l then s
      else
        let l' := { l with renewed := s.tick, renewals := l.renewals + 1 }
        ({ s with leases := nset s.leases e.val l' }).logLease 2 l.cls l.rs l.dom
    | none => s

/-- LEASE_END (R378): the holder gives its lease up, and a request it deferred is carried out. -/
def execLeaseEnd (e : Fin 512) (s : State) : Host.Outcome State Fault Refusal :=
  s.whenServing fun s => (s.leaseDrop e.val).undeferAll

/-- An activity runs a step that it must finish before it stops: a readback, or a stage of a full retrain (R379). -/
def State.midStep (s : State) (l : Lease) : Bool :=
  match l.cls, l.rs with
  | .captureReadback, .cup c :: _ => (s.cup c).rbJob.any fun j => !j.waiting
  | .fullRetrain, .pch x :: _ => (s.pch x).retrain.any (·.active)
  | _, _ => false

/-- LEASE_EXPIRY (R379, R394): 10 ms after its grant or last renewal a lease ends, its activity with it; one in the middle
of a step ends with the step. -/
def execLeaseExpiry (e : Fin 512) (s : State) : Host.Outcome State Fault Refusal :=
  s.whenServing fun s =>
    match look s.leases e.val with
    | some l => if l.renewed + leaseTicks ≤ s.tick ∧ s.midStep l = false then (s.stopActivity e.val).undeferAll else s
    | none => s

/-- The leases that defer a client's request. -/
def State.deferring (s : State) (n : Nat) : List (Nat × Lease) :=
  s.leases.filter fun e =>
    if n < 192 then readbackLease n e.2
    else if n < 256 then (List.range 4).any fun j => laneLease (4 * (n - 192) + j) e.2
    else inRange 256 263 n && stackLease (n - 256) e.2

/-- DEFER_LIMIT_TIMEOUT (R379): 50 ms after a request was deferred, the activities that defer it stop at their next step
boundary, and the request is carried out. -/
def execDeferLimitTimeout (n : Fin 292) (s : State) : Host.Outcome State Fault Refusal :=
  s.whenServing fun s =>
    match s.urn.deferred.find? fun e => e.1 == n.val with
    | some (_, t) =>
      if t + msTicks 50 ≤ s.tick then
        (((s.deferring n.val).filter fun e => !s.midStep e.2).foldl (fun (s : State) e => s.stopActivity e.1) s).undefer n.val
      else s
    | none => s

/-- READBACK_DONE (R124, R378): the bytes reach HBM and the lease ends; a readback whose holder has given its lease up fails
with BUSY (log entry 60). -/
def execReadbackDone (c : Fin 192) (s : State) : Host.Outcome State Fault Refusal :=
  s.whenServing fun s =>
    match (s.cup c.val).rbJob with
    | some j =>
      if j.waiting || s.agentWaits bulkClass j.dom j.addr ((regionList j.regions).map regionLen).sum then s
      else if s.leased .captureReadback (.cup c.val) then
        ((s.rbFinish c.val j).leaseDropOn .captureReadback (.cup c.val)).cupUndefer c.val
      else s.rbFail c.val j 2
    | none => s

end Sys2Proof.Machine
end

