-- ==== Sys2Proof/Machine/Clock.lean ====
section
/-! DEFINITION. The root clock and its reference (R351, R352, R358 to R365): the monitor, a stop, a coast, and the
return. -/

namespace Sys2Proof.Machine

/-- XTAL_FAIL (R351): while the root runs, whatever the device does, the island goes to its internal oscillator.  The spec
gives no duration for the record's data (log entry 2). -/
def execXtalFail (s : State) : Host.Outcome State Fault Refusal :=
  .next (if (s.rootRuns = false ∧ s.clk.mode ≠ .holding) ∨ s.flag ⟨.clkStat, 0, 0⟩ 28 = true then s
    else (s.draw.setFlag ⟨.clkStat, 0, 0⟩ 28 true).raiseEvent 0x011 0 [0x01] (leBytes 4 (Config.freeNat s.freeCtr))
      (some 0x0703))

/-! ### The monitor (R358) -/

/-- A window's count is inside the limits. -/
def State.refInside (s : State) (n : Nat) : Bool :=
  if s.flag ⟨.clkStat, 0, 0⟩ 28 then inRange 208 304 n else inRange 240 272 n

/-- CLK_CTL.LOSS_MODE. -/
def State.lossMode (s : State) : Nat := s.fld ⟨.clkCtl, 0, 0⟩ 1 0

/-- A loss stops the device (R359, R365). -/
def State.lossStops (s : State) : Bool :=
  s.phase != .service || s.lossMode == 1 || (s.lossMode == 0 && s.casRole == 0)

/-- Every lease ends, its activity with it, and what they deferred is carried out (R378, R379). -/
def State.endLeases (s : State) : State :=
  ((s.leases.map (·.1)).foldl (fun (s : State) e => s.stopActivity e) s).undeferAll

/-- Lines of the cups in RUN stop after their next edge (R360). -/
def State.stopLines (s : State) : State :=
  (List.range 192).foldl
    (fun (s : State) c =>
      if s.cupState c = 2 ∧ (s.cup c).clocksOn = true ∧ (s.cup c).stopTick = none then
        s.modCup c fun x => { x with stopTick := some s.nextTick }
      else s) s

/-- The links of the PCI Express controllers go down with the squelch, and are to train again (R361). -/
def State.pcieDown (s : State) : State :=
  (List.range 256).foldl
    (fun (s : State) l =>
      if s.quadRole (l / 4) = 2 ∧ s.laneState l ≠ 3 then s.modLane l fun x => { x with due := true } else s) s

/-- The device stops (R360): squelched, its stacks in self-refresh without the work of R252, its lines stopping; the
root is gated off 20 µs later. -/
def State.stopRoot (s : State) : State :=
  let s := s.pcieDown
  let s := (List.range 8).foldl (fun (s : State) st => s.setFld ⟨.stkStat, st, 0⟩ 31 30 2) s.stopLines
  let s := s.setFld ⟨.clkStat, 0, 0⟩ 31 30 1
  { s with clk := { s.clk with mode := .holding }, pins := { s.pins with squelched := true } }

/-- The device coasts (R348, R362). -/
def State.coastRoot (s : State) : State :=
  let s := s.txSettle.setFld ⟨.clkStat, 0, 0⟩ 31 30 2
  let s := { s with clk := { s.clk with mode := .coasting } }
  (s.casTold true false).raiseEvent 0x010 2 [0x01] []

/-- A loss is counted, with its tick (R358). -/
def State.countLoss (s : State) : State :=
  let s := (s.countUp ⟨.clkStat, 0, 0⟩ 15 0).setFlag ⟨.clkStat, 0, 0⟩ 29 false
  let s := s.setPair ⟨.clkLossTick, 0, 0⟩ ⟨.clkLossTickHi, 0, 0⟩ s.tick
  { s with clk := { s.clk with lossAon := s.aon, refOk := false } }

/-- A loss clears VALID and LOCKED (R176), and PPS_OUT stays low while VALID is 0 (R177). -/
def State.loseTime (s : State) : State :=
  { (s.setFields ⟨.timeStat, 0, 0⟩ [(0, 0, 0), (1, 1, 0)]) with
    time := { s.time with servoGood := 0 }, pins := { s.pins with ppsOut := false } }

/-- A loss is declared (R358, R359): the groups then armed join those of a loss that has not ended (R190). -/
def State.refLoss (s : State) : State :=
  let s := s.countLoss.loseTime
  let armed := (List.range 256).filter fun e => s.spArmed e || s.clk.lost.contains e
  let s := ({ s with clk := { s.clk with lost := armed } }).endLeases
  if s.lossStops then s.stopRoot else s.coastRoot

/-- REF_WINDOW (R358, R361): the count of a window of 64 AON cycles.  A reference that returned to a coasting device and is
lost again is a loss of its own, with its own reaction (R176, R190, R359). -/
def execRefWindow (count : Fin 1024) (s : State) : Host.Outcome State Fault Refusal :=
  .next (if s.clk.mode = .off ∨ s.stoppedSafe = true then s
  else
    let s := s.setReg ⟨.clkRefcnt, 0, 0⟩ (BitVec.ofNat 32 count.val)
    if s.refInside count.val then
      let s := { s with clk := { s.clk with bad := 0, good := s.clk.good + 1 } }
      if s.clk.good = 16 ∧ s.clk.refOk = false then
        let s : State := { (s.setFlag ⟨.clkStat, 0, 0⟩ 29 true) with clk := { s.clk with refOk := true } }
        if s.clk.mode = .stopped ∨ s.clk.mode = .holding then
          { (s.setFld ⟨.clkStat, 0, 0⟩ 31 30 3) with clk := { s.clk with mode := .relocking } }
        else s
      else s
    else
      let s := { s with clk := { s.clk with bad := s.clk.bad + 1, good := 0 } }
      if s.clk.bad ≠ 2 then s
      else if s.clk.mode = .running ∨ s.clk.mode = .coasting ∧ s.clk.refOk = true then s.refLoss
      else
        let s := if s.clk.refOk then s.countLoss.loseTime else s
        if s.clk.mode = .relocking then
          { (s.setFld ⟨.clkStat, 0, 0⟩ 31 30 1) with clk := { s.clk with mode := .stopped } }
        else s)

/-! ### The return (R361, R364, R365) -/

/-- Groups that were armed at the loss are cancelled with CAUSE 1011 (R190). -/
def State.cancelLost (s : State) : State :=
  let lost := s.clk.lost
  let s := (List.range 256).foldl
    (fun (s : State) g => if (s.spArmedOf g).any lost.contains then s.spCancel g 11 none else s) s
  { s with clk := { s.clk with lost := [] } }

/-- The length of the loss in AON cycles goes to CLK_LOSS_DUR. -/
def State.lossDur (s : State) : Nat := min (s.aon - s.clk.lossAon) (2 ^ 32 - 1)

/-- Lines that the stop stopped run again from the first edge after the next tick; a gated cup and one on its way to
DORMANT stay so. -/
def State.resumeLines (s : State) : State :=
  (List.range 192).foldl
    (fun (s : State) c =>
      if s.cupState c = 2 ∧ (s.cup c).stopTick.isSome = true ∧ s.gated c = false ∧ s.cupTarget c ≠ 1 then
        s.modCup c fun x => { x with stopTick := none, startRoot := 16 * s.nextTick }
      else s) s

/-- Ethernet and PCI Express links train again, and these retrains are not counted (R361). -/
def State.linksTrain (s : State) : State :=
  (List.range 256).foldl
    (fun (s : State) l =>
      if (s.quadRole (l / 4) = 1 ∨ s.quadRole (l / 4) = 2) ∧ s.laneState l ≤ 1 ∧ (s.lane l).retraining = false
      then s.beginRetrain l else s) s

/-- A stopped device resumes (R361), or starts again from step 2 where step 7 had not been reached (R365).  ROOT_RELOCK
stands for the whole return, from the lock to the first edges of the cups. -/
def State.resumeRoot (s : State) : State :=
  let s := { s with clk := { s.clk with mode := .running, resumeTick := s.tick } }
  let s := s.setFld ⟨.clkStat, 0, 0⟩ 31 30 0
  let s := s.setReg ⟨.clkLossDur, 0, 0⟩ (BitVec.ofNat 32 s.lossDur)
  if s.phase = .service then
    let s := (List.range 8).foldl (fun (s : State) st => s.exitSr st) s
    let s := s.resumeLines.cancelLost
    let s := ({ s with pins := { s.pins with squelched := false } }).linksTrain
    s.raiseEvent 0x010 1 [0x01] (leBytes 4 s.lossDur) (some 0x0701)
  else { s with chipDue := decide (s.phase ≠ .inReset ∧ s.phase ≠ .counting ∧ s.stoppedSafe = false), chipWhy := 3 }

/-- A coasting device returns to its nominal rate (R348, R364). -/
def State.endCoast (s : State) : State :=
  let s := s.txSettle
  let s := { s with clk := { s.clk with mode := .running }, cas := { s.cas with realign := s.casRole == 1 } }
  let s := (s.setFld ⟨.clkStat, 0, 0⟩ 31 30 0).casTold false (s.casRole == 2 || s.flag ⟨.casStat, 0, 0⟩ 24)
  let s := s.setReg ⟨.clkLossDur, 0, 0⟩ (BitVec.ofNat 32 s.lossDur)
  s.cancelLost.record 0x010 0x01 0x0702 (leBytes 4 s.lossDur)

/-- ROOT_RELOCK (R361, R364): the root is locked to the returned reference. -/
def execRootRelock (s : State) : Host.Outcome State Fault Refusal :=
  .next (if s.stoppedSafe then s
  else match s.clk.mode with
    | .relocking => s.resumeRoot
    | .coasting => if s.clk.refOk then s.endCoast else s
    | _ => s)

end Sys2Proof.Machine
end

