-- ==== Sys2Proof/Machine/Time.lean ====
section
/-! DEFINITION. Ticks and device time (R166 to R178, R466): the passing of a root cycle, the second boundary, the servo
and the PPS pins. -/

namespace Sys2Proof.Machine

/-- RATE in 2⁻³² ns per tick (R172). -/
def State.rate (s : State) : Nat := ((4 * 2 ^ 32 : Nat) + s.time.adj).toNat

/-- A tick of the accumulator (R172). -/
def State.tickTime (s : State) : State := { s with time := { s.time with acc := s.time.acc + s.rate } }

/-- The tick at which a stopping device has gated its root off, 20 µs after the loss (R360). -/
def State.gateTick (s : State) : Nat := s.pair ⟨.clkLossTick, 0, 0⟩ ⟨.clkLossTickHi, 0, 0⟩ + usTicks 20

/-- Root cycles in one cycle of the always-on island: 160, and 96 at the 60 % of a coast (R350, R362). -/
def State.aonCycles (s : State) : Nat := if s.clk.mode = .coasting then 96 else 160

/-- One root cycle passes (R166, R350, R360, R362; log entry 10): with the root running, TICK advances at every sixteenth
cycle and the always-on island counts one cycle in 160, or 96; with it stopped, the island alone counts. -/
def State.rootCycle (s : State) : State :=
  if s.rootRuns || s.clk.mode == .holding then
    let s := { s with root := s.root + 1, aon := if (s.root + 1) % s.aonCycles = 0 then s.aon + 1 else s.aon }
    let s := if s.root % 16 = 0 then s.tickTime else s
    if s.clk.mode = .holding ∧ s.gateTick ≤ s.tick then { s with clk := { s.clk with mode := .stopped } } else s
  else if s.phase = .inReset then s
  else { s with aon := s.aon + 1 }

/-- The limit of ADJ (R172). -/
def adjLimit : Int := 17179869

/-- ADJ limited to its range (R191). -/
def clampAdj (z : Int) : Int := max (-adjLimit) (min adjLimit z)

/-- The source that disciplines device time (R173). -/
def State.timeSrc (s : State) : Nat := s.fld ⟨.timeCtl, 0, 0⟩ 1 0

/-- Latches the conversion map at a boundary (R174). -/
def State.latchMap (s : State) : State :=
  let sec := s.devSec
  let frac := (s.time.acc - sec * 1000000000 * 2 ^ 32) / 2 ^ 16
  let s := s.setPair ⟨.timeMapTick, 0, 0⟩ ⟨.timeMapTickHi, 0, 0⟩ s.tick
  let s := s.setPair ⟨.timeMapSec, 0, 0⟩ ⟨.timeMapSecHi, 0, 0⟩ (sec % 2 ^ 48)
  let s := s.setReg ⟨.timeMapFrac, 0, 0⟩ (BitVec.ofNat 32 (frac % 2 ^ 19))
  s.setReg ⟨.timeMapAdj, 0, 0⟩ (BitVec.ofNat 32 (toUnsigned 32 s.time.adj))

/-- STEPPED is set and source 0x030 raises its event (R175). -/
def State.stepped (s : State) : State := (s.setFlag ⟨.timeStat, 0, 0⟩ 3 true).raiseEvent 0x030 0 [0x01] []

/-- What is due at a second boundary: a set, or else a step; and a new ADJ (R174, R175).  A step that would take device
time below 0 takes it to 0 (DESIGN CHOICE, log entry 99). -/
def State.applySecond (s : State) : State :=
  let t := s.time
  let latch := t.pendSet.isSome || t.pendStep.isSome || t.pendAdj.isSome
  let s := match t.pendSet, t.pendStep with
    | some (sec, ns), _ =>
      (({ s with time := { s.time with acc := (sec * 1000000000 + ns) * 2 ^ 32 } }).setFlag
        ⟨.timeStat, 0, 0⟩ 0 true).stepped
    | none, some z =>
      ({ s with time := { s.time with acc := ((t.acc : Int) + z * 2 ^ 32).toNat } }).stepped
    | none, none => s
  let s := { s with time := { s.time with adj := t.pendAdj.getD t.adj, pendSet := none, pendStep := none, pendAdj := none } }
  let s := { s with time := { s.time with secDone := s.devSec } }
  if latch then s.latchMap else s

/-- A whole second stands at the tick of a boundary: device time after it stands within one tick of a second, or a time
that was valid has reached a second which no step moved it back over (R177, log entry 79). -/
def State.wholeSecond (old new : State) : Bool :=
  decide (new.time.acc % (1000000000 * 2 ^ 32) < old.rate) || old.timeValid && decide (old.devSec ≤ new.devSec)

/-- PPS_OUT rises at the boundary while OUT_EN and VALID are set (R177); `old` is the state before it. -/
def State.ppsRise (s old : State) : State :=
  if s.flag ⟨.ppsCfg, 0, 0⟩ 0 ∧ s.timeValid = true ∧ s.phase = .service ∧ old.wholeSecond s = true then
    { s with pins := { s.pins with ppsOut := true },
             time := { s.time with ppsFallAt := s.tick + msTicks (s.fld ⟨.ppsCfg, 0, 0⟩ 9 2) } }
  else s

/-- TIME_SECOND_BOUNDARY (R174, R175, R177): the first tick at or after a whole second of device time. -/
def execTimeSecondBoundary (s : State) : Host.Outcome State Fault Refusal :=
  s.whenLive fun s => if s.time.secDone < s.devSec then s.applySecond.ppsRise s else s

/-- A write of TIME_CTL: another SRC starts the count of its silence and of its good updates (log entry 79). -/
def State.writeTimeCtl (s : State) (v : Word) : State :=
  let t := s.plainWrite ⟨.timeCtl, 0, 0⟩ v
  if t.timeSrc = s.timeSrc then t
  else { (t.setFlag ⟨.timeStat, 0, 0⟩ 2 false) with time := { t.time with lastUpdate := t.tick, servoGood := 0 } }

/-- A write of TIME_ADJ: accepted in SRC 00 and 11, limited, and due at the next boundary (R173, R174, R191). -/
def State.writeAdj (s : State) (v : Word) : State :=
  if s.timeSrc = 0 ∨ s.timeSrc = 3 then
    let a := clampAdj v.toInt
    { (s.setReg ⟨.timeAdj, 0, 0⟩ (BitVec.ofNat 32 (toUnsigned 32 a))) with time := { s.time with pendAdj := some a } }
  else s

/-- TIME_ADJ_WRITE (R174). -/
def execTimeAdjWrite (m : Nat) (v : Word) (s : State) : Host.Outcome State Fault Refusal :=
  s.writeCommand m ⟨.timeAdj, 0, 0⟩ v fun s => s.writeAdj v

/-- A write of TIME_STEP: in owner mode it adds to the step due at the next boundary (R175, R191). -/
def State.writeStep (s : State) (v : Word) : State :=
  if s.timeSrc = 3 then { s with time := { s.time with pendStep := some (s.time.pendStep.getD 0 + v.toInt) } } else s

/-- TIME_STEP (R175). -/
def execTimeStep (m : Nat) (v : Word) (s : State) : Host.Outcome State Fault Refusal :=
  s.writeCommand m ⟨.timeStep, 0, 0⟩ v fun s => s.writeStep v

/-- A write of TIME_SET_SEC_HI requests a set of what the three registers hold then, unless TIME_SET_NS is out of range
(R175; log entry 117). -/
def State.writeSet (s : State) (v : Word) : State :=
  let s := s.plainWrite ⟨.timeSetSecHi, 0, 0⟩ v
  let ns := (s.reg ⟨.timeSetNs, 0, 0⟩).toNat
  if ns ≤ 999999999 then
    { s with time := { s.time with
      pendSet := some ((s.reg ⟨.timeSetSecLo, 0, 0⟩).toNat + 2 ^ 32 * s.fld ⟨.timeSetSecHi, 0, 0⟩ 15 0, ns) } }
  else s

/-- TIME_SET (R175). -/
def execTimeSet (m : Nat) (v : Word) (s : State) : Host.Outcome State Fault Refusal :=
  s.writeCommand m ⟨.timeSetSecHi, 0, 0⟩ v fun s => s.writeSet v

/-- One measurement of the servo (R174 to R176): the new ADJ, the first-lock step, LOCKED and VALID.  `offset` is
device time less the source's time (log entry 11). -/
def State.servo (s : State) (offset adj : Int) : State :=
  let a := clampAdj adj
  let good := if offset.natAbs ≤ 50 then s.time.servoGood + 1 else 0
  let first := !s.time.everLocked && decide (1000000 < offset.natAbs)
  let s := s.setReg ⟨.timeAdj, 0, 0⟩ (BitVec.ofNat 32 (toUnsigned 32 a))
  let s := s.setFlag ⟨.timeStat, 0, 0⟩ 2 false
  let s := { s with time := { s.time with
    pendAdj := some a, servoGood := good, lastUpdate := s.tick,
    pendStep := if first then some (-offset) else s.time.pendStep,
    everLocked := s.time.everLocked || decide (16 ≤ good) } }
  if 16 ≤ good then (s.setFlag ⟨.timeStat, 0, 0⟩ 1 true).setFlag ⟨.timeStat, 0, 0⟩ 0 true
  else if 1000 < offset.natAbs then s.setFlag ⟨.timeStat, 0, 0⟩ 1 false
  else s

/-- SERVO_UPDATE (R173, R176). -/
def execServoUpdate (offset adj : Int) (s : State) : Host.Outcome State Fault Refusal :=
  s.whenLive fun s => if s.timeSrc = 1 ∨ s.timeSrc = 2 then s.servo offset adj else s

/-- HOLDOVER (R176): the source has given no update for 3 s. -/
def execHoldover (s : State) : Host.Outcome State Fault Refusal :=
  s.whenLive fun s =>
    if (s.timeSrc = 1 ∨ s.timeSrc = 2) ∧ s.time.lastUpdate + msTicks 3000 ≤ s.tick ∧
        s.flag ⟨.timeStat, 0, 0⟩ 2 = false then
      (s.setFlag ⟨.timeStat, 0, 0⟩ 2 true).raiseEvent 0x031 0 [0x01] []
    else s

/-- PPS_OUT_FALL (R177): WIDTH ms after the rise, also where OUT_EN has been cleared meanwhile (DESIGN CHOICE, log
entry 99). -/
def execPpsOutFall (s : State) : Host.Outcome State Fault Refusal :=
  s.whenLive fun s =>
    if s.pins.ppsOut ∧ s.time.ppsFallAt ≤ s.tick then { s with pins := { s.pins with ppsOut := false } } else s

/-- Stamps an edge of PPS_IN (R178). -/
def State.stampPps (s : State) (frac : Nat) : State :=
  let s := s.setPair ⟨.ppsInStamp, 0, 0⟩ ⟨.ppsInStampHi, 0, 0⟩ s.tick
  let s := s.setReg ⟨.ppsInFrac, 0, 0⟩ (BitVec.ofNat 32 (frac % 8))
  { s with time := { s.time with ppsStamped := true } }

/-- The instant of the edge stamped last, in 0.5 ns. -/
def State.ppsLast (s : State) : Nat :=
  8 * s.pair ⟨.ppsInStamp, 0, 0⟩ ⟨.ppsInStampHi, 0, 0⟩ + s.fld ⟨.ppsInFrac, 0, 0⟩ 2 0

/-- PPS_IN_EDGE (R178): edges less than 0.5 s, 10⁹ steps of 0.5 ns, after the previous stamped edge are ignored. -/
def execPpsInEdge (frac : Fin 8) (s : State) : Host.Outcome State Fault Refusal :=
  s.whenLive fun s =>
    if s.flag ⟨.ppsCfg, 0, 0⟩ 1 = true ∧
        (s.time.ppsStamped = false ∨ s.ppsLast + 1000000000 ≤ 8 * s.tick + frac.val) then
      s.stampPps frac.val
    else s

end Sys2Proof.Machine
end

