-- ==== Sys2Proof/Machine/Ethernet.lean ====
section
/-! DEFINITION. Port engines (R205 to R219): reception and the classifier, the seamless merge, the management queue and
PTP, the pacers and transmission. -/

namespace Sys2Proof.Machine

/-! ### Frames -/

/-- Where the parts of a UDP frame lie: VID of a tag, version, destination address, UDP header, IP header. -/
structure UdpAt where
  vid : Option Nat
  v6 : Bool
  dst : Nat
  l3 : Nat
  l4 : Nat
  deriving DecidableEq, Repr

/-- The VID of an IEEE 802.1Q tag, the EtherType, and where what it names begins. -/
def etherAt (f : List Byte) : Option Nat × Nat × Nat :=
  if numAtBe f 12 2 = 0x8100 then (some (numAtBe f 14 2 % 4096), numAtBe f 16 2, 18) else (none, numAtBe f 12 2, 14)

/-- Steps over IPv6 extension headers to the UDP header; a non-first fragment has none (R207). -/
def v6Udp (f : List Byte) : Nat → Nat → Nat → Option Nat
  | 0, _, _ => none
  | fuel + 1, next, o =>
    if next = 17 then some o
    else if next = 0 ∨ next = 43 ∨ next = 60 then v6Udp f fuel (numAtBe f o 1) (o + 8 + 8 * numAtBe f (o + 1) 1)
    else if next = 44 ∧ numAtBe f (o + 2) 2 / 8 = 0 then v6Udp f fuel (numAtBe f o 1) (o + 8)
    else none

/-- The UDP packet in a frame (R207). -/
def udpAt (f : List Byte) : Option UdpAt :=
  let (vid, ty, l3) := etherAt f
  let ver := numAtBe f l3 1 / 16
  if ty = 0x0800 ∧ ver = 4 then
    let l4 := l3 + 4 * (numAtBe f l3 1 % 16)
    if numAtBe f (l3 + 9) 1 = 17 ∧ numAtBe f (l3 + 6) 2 % 2 ^ 13 = 0 ∧ l4 + 8 ≤ f.length then
      some { vid, v6 := false, dst := numAtBe f (l3 + 16) 4, l3, l4 }
    else none
  else if ty = 0x86DD ∧ ver = 6 then
    match v6Udp f 8 (numAtBe f (l3 + 6) 1) (l3 + 40) with
    | some l4 => if l4 + 8 ≤ f.length then some { vid, v6 := true, dst := numAtBe f (l3 + 24) 16, l3, l4 } else none
    | none => none
  else none

/-- UDP destination port. -/
def UdpAt.dport (u : UdpAt) (f : List Byte) : Nat := numAtBe f (u.l4 + 2) 2

/-- Where the PTP message of a frame begins (R215). -/
def ptpAt (f : List Byte) : Option Nat :=
  let (_, ty, l3) := etherAt f
  if ty = 0x88F7 then some l3
  else match udpAt f with
    | some u => if u.dport f = 319 ∨ u.dport f = 320 then some (u.l4 + 8) else none
    | none => none

/-- The domainNumber of a PTP message, byte 4 of its header, is the port's PTP_CFG.DOMAIN (R215). -/
def State.ptpDomain (s : State) (q n : Nat) (f : List Byte) : Bool :=
  (ptpAt f).any fun o => numAt f (o + 4) 1 == s.fld ⟨.ptpCfg, q, n⟩ 7 0

/-- PAUSE and PFC frames (R206): MAC control with opcode 0x0001 or 0x0101. -/
def macControl (f : List Byte) : Bool :=
  let (_, ty, o) := etherAt f
  ty == 0x8808 && (numAtBe f o 2 == 0x0001 || numAtBe f o 2 == 0x0101)

/-- Writes bytes into a frame. -/
def patch (f : List Byte) (off : Nat) (bs : List Byte) : List Byte := f.take off ++ bs ++ f.drop (off + bs.length)

/-- The one's-complement sum of 16-bit words. -/
def onesSum : List Byte → Nat
  | a :: b :: r => a.toNat * 256 + b.toNat + onesSum r
  | [a] => a.toNat * 256
  | [] => 0

/-- The Internet checksum of a sum. -/
def foldSum (n : Nat) : Nat :=
  let a := n % 65536 + n / 65536
  let b := a % 65536 + a / 65536
  65535 - (b % 65536 + b / 65536)

/-- The UDP checksum of a frame's packet, with the pseudo-header of its IP version. -/
def udpSum (f : List Byte) (u : UdpAt) : Nat :=
  let len := f.length - u.l4
  let addrs := if u.v6 then slice f (u.l3 + 8) 32 else slice f (u.l3 + 12) 8
  let body := patch (f.drop u.l4) 6 [0, 0]
  let c := foldSum (onesSum addrs + 17 + len + onesSum body)
  if c = 0 then 65535 else c

/-- The corrections after a template (R216). -/
def fixHeaders (f : List Byte) : List Byte :=
  match udpAt f with
  | some u =>
    let f := patch f (u.l4 + 4) (beBytes 2 (f.length - u.l4))
    if u.v6 then
      let f := patch f (u.l3 + 4) (beBytes 2 (f.length - u.l3 - 40))
      patch f (u.l4 + 6) (beBytes 2 (udpSum f u))
    else
      let f := patch f (u.l4 + 6) [0, 0]
      let f := patch (patch f (u.l3 + 2) (beBytes 2 (f.length - u.l3))) (u.l3 + 10) [0, 0]
      patch f (u.l3 + 10) (beBytes 2 (foldSum (onesSum (slice f u.l3 (u.l4 - u.l3)))))
  | none =>
    let (_, ty, l3) := etherAt f
    let ver := numAtBe f l3 1 / 16
    if ty = 0x0800 ∧ ver = 4 ∧ l3 + 20 ≤ f.length then
      let f := patch (patch f (l3 + 2) (beBytes 2 (f.length - l3))) (l3 + 10) [0, 0]
      patch f (l3 + 10) (beBytes 2 (foldSum (onesSum (slice f l3 (4 * (numAtBe f l3 1 % 16))))))
    else if ty = 0x86DD ∧ ver = 6 ∧ l3 + 40 ≤ f.length then patch f (l3 + 4) (beBytes 2 (f.length - l3 - 40))
    else f

/-! ### Reception (R206, R208 to R210) -/

/-- The 16-byte prefix (R208): tick, fraction, port, length with the FCS. -/
def rxPrefix (tick frac port len : Nat) : List Byte :=
  leBytes 8 tick ++ [BitVec.ofNat 8 (frac % 8), BitVec.ofNat 8 port] ++ leBytes 2 len ++ [0, 0, 0, 0]

/-- Bytes that wait in an engine's receive buffer (R210). -/
def State.rxHeld (s : State) (q : Nat) : Nat :=
  let (k, p) := quadRouter q
  s.bytesHeld fun w => w.k == k && w.p == p

/-- A packet an engine has built goes onto its stream, or is discarded and counted (R208, R210, R363). -/
def State.rxStream (s : State) (q n stream : Nat) (pkt : List Byte) : State :=
  let (k, p) := quadRouter q
  if pkt = [] then s
  else if 9216 < pkt.length then s.portCount q n 4
  else if s.isSource stream k p &&
      decide (65536 < s.bytesWaiting stream + pkt.length ∨ 4194304 < s.rxHeld q + pkt.length) then
    (s.portCount q n 3).coastDiscard stream
  else match s.inject stream k p (.port q n) pkt with
    | (t, true) => t
    | (t, false) => t.portCount q n 5

/-- A frame goes to the management queue with its prefix, or is discarded and counted (R214).  The spec gives the
engine no domain and no FLAGS (log entry 2). -/
def State.toMgmt (s : State) (q : Nat) (pkt : List Byte) : State :=
  let qr : QRef := .mgmtRx (Fin.ofNat 64 q)
  let slots := slotsOf pkt
  let x := s.queue qr
  if slots.length ≤ 511 ∧ x.used + 1 + slots.length ≤ qCap qr ∧ x.isOpen = false then
    let p : Pkt := { slots, dom := Config.freeNat s.freeCtr % 256, mid := 0 }
    let hdr := s.qHeader p (pkt.length % 32) (Config.freeNat (s.freeCtr + 1) % 2 ^ 16)
    s.draw.draw.setQueue qr (({ x with pkts := x.pkts ++ [{ p with header := some hdr }] } : QueueSt).settle)
  else s.countUp ⟨.mqStat, q, 0⟩ 21 12

/-- A classifier entry matches a packet (R207). -/
def ClsEnt.matches (e : ClsEnt) (f : List Byte) (u : UdpAt) (n : Nat) : Bool :=
  bit e.act 31 && bit e.act (25 + n) && bit e.act 30 == u.v6 && e.addr.toNat == u.dst &&
  bits e.key 31 16 == u.dport f && (!bit e.act 29 || u.vid == some (bits e.key 11 0))

/-- The lowest-numbered matching entry. -/
def State.classify (s : State) (q n : Nat) (f : List Byte) : Option (ClsEnt × UdpAt) :=
  match udpAt f with
  | some u => (((s.quad q).cls.map (·.2)).find? fun e => e.matches f u n).map fun e => (e, u)
  | none => none

/-! ### The seamless merge (R212, R213) -/

/-- The RTP sequence number of a UDP payload, extended with SEQ32; a payload too short to hold one shows a free value
(log entry 2). -/
def State.rtpSeq (s : State) (pay : List Byte) (seq32 : Bool) : Nat :=
  let ext := 12 + 4 * (numAtBe pay 0 1 % 16)
  let o := if numAtBe pay 0 1 / 16 % 2 = 1 then ext + 4 + 4 * numAtBe pay (ext + 2) 2 else ext
  let n := if seq32 then numAtBe pay o 2 * 65536 + numAtBe pay 2 2 else numAtBe pay 2 2
  let size := if seq32 then 32 else 16
  if pay.length < (if seq32 then o + 2 else 4) then Config.freeNat s.freeCtr % 2 ^ size else n

/-- What a pair does with a sequence number. -/
inductive Merged where
  | pass | dup | late
  deriving DecidableEq, Repr

/-- One sequence number of `size` bits at a pair, and the pair after it. -/
def MrgSt.take (x : MrgSt) (size seq : Nat) : Merged × MrgSt :=
  let m := 2 ^ size
  match x.hi with
  | none => (.pass, { x with hi := some seq, seen := [seq] })
  | some h =>
    let ahead := (seq + m - h) % m
    let behind := (h + m - seq) % m
    if 0 < ahead ∧ ahead < m / 2 then
      let seen := x.seen.filter fun k => decide ((seq + m - k) % m ≤ 8192)
      (.pass, { x with hi := some seq, seen := seen ++ [seq] })
    else if 8192 < behind then (.late, x)
    else if x.seen.contains seq then (.dup, x)
    else (.pass, { x with seen := x.seen ++ [seq] })

/-- A leg packet at pair i: the leg is heard, and the packet passes or is counted. -/
def State.mergePacket (s : State) (q n i : Nat) (b : Bool) (pay pkt : List Byte) : State :=
  let seq32 := s.flag ⟨.mrgCfg, q, i⟩ 30
  let seq := s.rtpSeq pay seq32
  let x := nget (s.quad q).mrg i {}
  let x := if b then { x with lastB := s.tick } else { x with lastA := s.tick }
  let (r, x) := x.take (if seq32 then 32 else 16) seq
  let s := s.draw.setFlag ⟨.mrgStat, q, i⟩ (if b then 30 else 31) false
  let s := s.modQuad q fun y => { y with mrg := nset y.mrg i x }
  match r with
  | .pass => s.rxStream q n (s.fld ⟨.mrgCfg, q, i⟩ 13 0) pkt
  | .dup => s.countUp ⟨.mrgStat, q, i⟩ 29 15
  | .late => s.countUp ⟨.mrgStat, q, i⟩ 14 0

/-- A leg packet goes to every enabled pair that names its stream. -/
def State.mergeIn (s : State) (q n : Nat) (act : Word) (pay pkt : List Byte) : State :=
  match s.pairsOf q (bits act 13 0) with
  | [] => s.portCount q n 2
  | l => l.foldl (fun (s : State) i => s.mergePacket q n i (bit act 20) pay pkt) s

/-- A write of MRG_CFG: a pair newly enabled, or given another stream, starts afresh, and a leg whose every port is down is
DOWN at once (R212, R213). -/
def State.writeMrgCfg (s : State) (q i : Nat) (v : Word) : State :=
  let was := s.reg ⟨.mrgCfg, q, i⟩
  let s := s.plainWrite ⟨.mrgCfg, q, i⟩ v
  let on := s.flag ⟨.mrgCfg, q, i⟩ 31
  if on && (!bit was 31 || bits was 13 0 != s.fld ⟨.mrgCfg, q, i⟩ 13 0) then
    let s := s.setFields ⟨.mrgStat, q, i⟩ [(31, 30, 0)]
    let s := s.modQuad q fun x => { x with mrg := nset x.mrg i { lastA := s.tick, lastB := s.tick } }
    (List.range 4).foldl (fun (s : State) n => if s.hasPort q n then s.legsOfPort q n else s) s
  else if on then s
  else s.modQuad q fun x => { x with mrg := erase x.mrg i }

/-- MERGE_LEG_SILENCE (R213). -/
def execMergeLegSilence (q : Fin 64) (i : Fin 512) (b : Bool) (s : State) : Host.Outcome State Fault Refusal :=
  s.whenServing fun s =>
    let x := nget (s.quad q.val).mrg i.val {}
    let last := if b then x.lastB else x.lastA
    if s.flag ⟨.mrgCfg, q.val, i.val⟩ 31 = true ∧
        last + usTicks (s.fld ⟨.mrgCfg, q.val, i.val⟩ 29 16) ≤ s.tick then s.legDown q.val i.val b
    else s

/-! ### A frame arrives -/

/-- A frame that no entry matches (R209). -/
def State.unmatched (s : State) (q n : Nat) (f pre : List Byte) : State :=
  let s := s.portCount q n 2
  let d := s.reg ⟨.clsDefault, q, 0⟩
  let s := if bit d 31 then s.rxStream q n (bits d 13 0) (pre ++ f) else s
  if bit d 30 then s.toMgmt q (pre ++ f) else s

/-- A frame the port accepts: the servo, the management queue, or the classifier (R207 to R209, R214, R215). -/
def State.accepted (s : State) (q n frac : Nat) (f : List Byte) : State :=
  let s := s.portCount q n 0
  let pre := rxPrefix s.tick frac n (f.length + 4)
  let servo := s.timeSrc == 1 && s.fld ⟨.timeCtl, 0, 0⟩ 7 2 == q && s.fld ⟨.timeCtl, 0, 0⟩ 9 8 == n
  let ptp := (ptpAt f).isSome
  if ptp && servo && s.ptpDomain q n f then s.modQuad q fun x => { x with arrivals := x.arrivals + 1 }
  else if ptp && servo then s
  else if ptp && s.flag ⟨.ptpCfg, q, n⟩ 31 then s.toMgmt q (pre ++ f)
  else match s.classify q n f with
    | some (e, u) =>
      let strip := bits e.act 24 23
      let body := f.drop (if strip = 1 then u.l3 else if strip = 2 then u.l4 + 8 else 0)
      let pkt := if bit e.act 22 then pre ++ body else body
      if bit e.act 21 then s.mergeIn q n e.act (f.drop (u.l4 + 8)) pkt else s.rxStream q n (bits e.act 13 0) pkt
    | none => s.unmatched q n f pre

/-- PORT_MAC, its first byte most significant (log entry 19). -/
def State.portMac (s : State) (q n : Nat) : Nat := s.pair ⟨.portMac, 4 * q + n, 0⟩ ⟨.portMacHi, 4 * q + n, 0⟩

/-- A frame at a port (R204, R206): errors, long frames and MAC control frames are discarded and counted; the spec
names no counter for the last (log entry 2). -/
def State.frameIn (s : State) (q n frac : Nat) (f : List Byte) (ok : Bool) : State :=
  if !ok then s.portCount q n 1
  else if 9600 < f.length + 4 then s.portCount q n 4
  else if macControl f then s.draw.portCount q n (1 + Config.freeNat s.freeCtr % 5)
  else if numAtBe f 0 1 % 2 = 1 ∨ numAtBe f 0 6 = s.portMac q n then s.accepted q n frac f
  else s

/-- A port runs FEC (R204): RS(544,514) from 50 Gbit/s per lane, RS(528,514) or none at 25GbE as PORT_CTL says, none at
10GbE. -/
def State.portFec (s : State) (q n : Nat) : Bool :=
  match s.quadConfig q with
  | 5 => false
  | 4 => s.flag ⟨.portCtl, 4 * q + n, 0⟩ 0
  | _ => true

/-- The lanes of a port on which an injected burst waits (R401). -/
def State.burstLanes (s : State) (q n : Nat) : List Nat :=
  (((s.portsOf q).find? fun e => e.1 == n).map (·.2)).getD [] |>.filter fun l => (s.lane l).burst != 0

/-- The burst falls in the frame being received: whether the port's FEC corrects it is free (R401; log entry 2). -/
def State.takeBurst (s : State) (q n : Nat) : State × Bool :=
  match s.burstLanes q n with
  | [] => (s, true)
  | ls => (ls.foldl (fun (s : State) l => s.modLane l fun x => { x with burst := 0 }) s.draw,
      s.portFec q n && Config.freeNat s.freeCtr % 2 == 0)

/-- ETH_FRAME_RECEIVE (R206). -/
def execEthFrameReceive (q : Fin 64) (f : RxFrame) (s : State) : Host.Outcome State Fault Refusal :=
  s.whenServing fun s =>
    if s.portUp q.val f.port.val then
      let b := s.takeBurst q.val f.port.val
      b.1.injected (!(s.burstLanes q.val f.port.val).isEmpty) fun s => s.frameIn q.val f.port.val f.frac.val f.bytes (f.fcsOk && (f.fecOk || !s.portFec q.val f.port.val) && b.2)
    else s

/-! ### Classifier registers (R211) -/

/-- A write of CLS_SEL loads the staging registers from the entry. -/
def State.writeClsSel (s : State) (q : Nat) (v : Word) : State :=
  let s := s.plainWrite ⟨.clsSel, q, 0⟩ v
  let e := nget (s.quad q).cls (s.fld ⟨.clsSel, q, 0⟩ 9 0) {}
  let s := (s.setReg ⟨.clsAct, q, 0⟩ e.act).setReg ⟨.clsKey, q, 0⟩ e.key
  (List.range 4).foldl
    (fun (s : State) i => s.setReg ⟨.clsAddr, q, i⟩ (BitVec.ofNat 32 (e.addr.toNat / 2 ^ (32 * i)))) s

/-- CLS_SEL_WRITE (R211); the odd engine of an 800GbE pair has no classifier (R205). -/
def execClsSelWrite (m : Nat) (q : Fin 64) (v : Word) (s : State) : Host.Outcome State Fault Refusal :=
  s.writeCommand m ⟨.clsSel, q.val, 0⟩ v fun s => s.writeClsSel q.val v

/-- A write of CLS_ACT commits the staging registers; clearing VALID removes the entry.  A leg whose every port is already
down is DOWN at once (R213). -/
def State.writeClsAct (s : State) (q : Nat) (v : Word) : State :=
  let s := s.plainWrite ⟨.clsAct, q, 0⟩ v
  let act := s.reg ⟨.clsAct, q, 0⟩
  let addr := BitVec.ofNat 128
    ((List.range 4).map fun i => (s.reg ⟨.clsAddr, q, i⟩).toNat * 2 ^ (32 * i)).sum
  let e : ClsEnt := { act, key := s.reg ⟨.clsKey, q, 0⟩, addr }
  let n := s.fld ⟨.clsSel, q, 0⟩ 9 0
  let s := s.modQuad q fun x => { x with cls := if bit act 31 then nset x.cls n e else erase x.cls n }
  (List.range 4).foldl (fun (s : State) n => if s.hasPort q n then s.legsOfPort q n else s) s

/-- CLS_ACT_WRITE (R211). -/
def execClsActWrite (m : Nat) (q : Fin 64) (v : Word) (s : State) : Host.Outcome State Fault Refusal :=
  s.writeCommand m ⟨.clsAct, q.val, 0⟩ v fun s => s.writeClsAct q.val v

/-! ### Pacers (R216 to R219) -/

def PacEnt.en (p : PacEnt) : Bool := bit p.cfg 31
def PacEnt.paced (p : PacEnt) : Bool := bit p.cfg 30
def PacEnt.cmax (p : PacEnt) : Nat := bits p.cfg 22 16

/-- A paced pacer is due: it holds a packet and a token. -/
def PacEnt.due (p : PacEnt) : Bool := p.en && p.paced && decide (1 ≤ p.tokens) && p.queue != []

/-- A pacer's stream names. -/
def PacEnt.names (p : PacEnt) (stream : Nat) : Bool :=
  bits p.streams 13 0 == stream || (bit p.streams 31 && bits p.streams 29 16 == stream)

/-- A write of PAC_CFG commits the entry; a bucket that is enabled starts full. -/
def State.writePacCfg (s : State) (q : Nat) (v : Word) : State :=
  let s := s.plainWrite ⟨.pacCfg, q, 0⟩ v
  let cfg := s.reg ⟨.pacCfg, q, 0⟩
  let trs := s.reg ⟨.pacTrs, q, 0⟩
  let k := s.fld ⟨.pacSel, q, 0⟩ 9 0
  if bit cfg 30 ∧ (trs = 0 ∨ bits cfg 22 16 = 0) then s
  else
    let old := nget (s.quad q).pac k {}
    let fresh := bit cfg 31 && !(old.en && old.paced)
    let new := { old with
      cfg, streams := s.reg ⟨.pacStreams, q, 0⟩, trs,
      tokens := if fresh then bits cfg 22 16 else min old.tokens (bits cfg 22 16),
      lastTok := if fresh then s.tick else old.lastTok, part := if fresh then 0 else old.part,
      since := if fresh then s.root else old.since }
    s.modQuad q fun x => { x with pac := nput x.pac k new {} }

/-- PAC_CFG_WRITE (R219). -/
def execPacCfgWrite (m : Nat) (q : Fin 64) (v : Word) (s : State) : Host.Outcome State Fault Refusal :=
  s.writeCommand m ⟨.pacCfg, q.val, 0⟩ v fun s => s.writePacCfg q.val v

/-- Bytes a pacer holds. -/
def PacEnt.used (p : PacEnt) : Nat := (p.queue.map fun e => e.2.length).sum

/-- A stream packet is queued in its pacer, or discarded and counted (R216, R218).  TX_NOPACER is a port's counter, and
the spec names no port for a packet without a pacer (log entry 2). -/
def State.pacEnqueue (s : State) (q stream : Nat) (data : List Byte) (bad : Bool := false) : State :=
  match (s.quad q).pac.find? fun e => e.2.en && e.2.names stream with
  | some (k, p) =>
    let all := ((s.quad q).pac.map fun e => e.2.used).sum
    if bad = true ∨ 65536 < p.used + data.length ∨ 8388608 < all + data.length then s.countUp ⟨.pacStat, q, k⟩ 15 0
    else
      let n := (s.quad q).pacSeq
      let p := { p with queue := p.queue ++ [(n, data)], since := if p.queue = [] then s.root else p.since }
      s.modQuad q fun x => { x with pac := nset x.pac k p, pacSeq := n + 1 }
  | none =>
    let ports := (s.portsOf q).map (·.1)
    s.draw.portCount q (ports.getD (Config.freeNat s.freeCtr % ports.length) 0) 7

/-- PACER_ENQUEUE (R138, R155, R216): a packet with a damaged flit is discarded. -/
def execPacerEnqueue (q : Fin 64) (stream : Fin 16384) (data : RxPacket) (s : State) :
    Host.Outcome State Fault Refusal :=
  s.whenServing fun s =>
    let (k, p) := quadRouter q.val
    if s.quadRole q.val = 1 ∧ s.servedByEven q.val = false ∧ ((s.stream stream.val).dstAt k p).isSome = true ∧
        1 ≤ data.bytes.length ∧ data.bytes.length ≤ 9216 then
      (match data.bad with
        | some r => s.flitError r.val
        | none => s.streamArrive stream.val k p).pacEnqueue q.val stream.val data.bytes data.bad.isSome
    else s

/-- Device time gone since a pacer's last token, in 2⁻³² ns, at the rate of TIME_MAP_ADJ (R172, R217). -/
def State.pacElapsed (s : State) (p : PacEnt) : Nat :=
  p.part + (s.tick - p.lastTok) * ((4 * 2 ^ 32 : Nat) + (s.reg ⟨.timeMapAdj, 0, 0⟩).toInt).toNat

/-- PACER_TOKEN (R217): TRS of device time is past. -/
def execPacerToken (q : Fin 64) (k : Fin 1024) (s : State) : Host.Outcome State Fault Refusal :=
  s.whenServing fun s =>
    let p := nget (s.quad q.val).pac k.val {}
    let gone := s.pacElapsed p
    let trs := p.trs.toNat * 2 ^ 16
    if p.en = true ∧ p.paced = true ∧ trs ≤ gone then
      let new := { p with
        tokens := min p.cmax (p.tokens + 1), lastTok := s.tick, part := gone - trs,
        since := if p.tokens = 0 then s.root else p.since }
      s.modQuad q.val fun x => { x with pac := nset x.pac k.val new }
    else s

/-- The bytes of a template (R216). -/
def State.template (s : State) (q k : Nat) : List Byte :=
  (List.range 16).flatMap fun i => wordBytes (s.reg ⟨.tmpl, q, 16 * k + i⟩)

/-- A packet as its pacer sends it. -/
def State.dress (s : State) (q : Nat) (p : PacEnt) (data : List Byte) : List Byte :=
  if bit p.cfg 29 then
    let h := bits p.cfg 28 23
    fixHeaders ((s.template q (bits p.cfg 9 0)).take h ++ data.drop h)
  else data

/-- A frame leaves a port. -/
def State.sendFrame (s : State) (q n : Nat) (f : List Byte) : State := (s.portCount q n 6).log (.frame q n f)

/-- The device time of a stamp: seconds and nanoseconds (R172, R215). -/
def State.stampTime (s : State) (frac : Nat) : Nat × Nat :=
  let ns := (s.time.acc + frac * s.rate / 8) / 2 ^ 32
  (ns / 1000000000, ns % 1000000000)

/-- A one-step Sync: originTimestamp and the UDP checksum (R215). -/
def State.oneStep (s : State) (frac : Nat) (f : List Byte) : List Byte :=
  match ptpAt f with
  | some o =>
    if numAtBe f o 1 % 16 = 0 then
      let (sec, ns) := s.stampTime frac
      let f := patch f (o + 34) (beBytes 6 sec ++ beBytes 4 ns)
      match udpAt f with
      | some u => patch f (u.l4 + 6) (beBytes 2 (udpSum f u))
      | none => f
    else f
  | none => f

/-- The transmit-stamp FIFO of 64 entries (R215). -/
def State.pushStamp (s : State) (q n frac cookie : Nat) : State :=
  if (s.quad q).stamps.length < 64 then
    s.modQuad q fun x => { x with stamps := x.stamps ++ [{ tick := s.tick, frac, port := n, cookie }] }
  else s.setFlag ⟨.txstampInfo, q, 0⟩ 30 true

/-- The head of the management transmit queue, once closed: descriptor and frame (R214). -/
def State.mgmtHead (s : State) (q : Nat) : Option (List Byte × List Byte) :=
  match (s.queue (.mgmtTx (Fin.ofNat 64 q))).pkts with
  | p :: _ => p.header.map fun h =>
      let b := slice (p.slots.flatMap slotBytes) 0 (h.toNat % 2 ^ 14)
      (slice b 0 16, b.drop 16)
  | [] => none

/-- Removes that head. -/
def State.mgmtNext (s : State) (q : Nat) : State :=
  let qr : QRef := .mgmtTx (Fin.ofNat 64 q)
  s.setQueue qr { s.queue qr with pkts := (s.queue qr).pkts.drop 1 }

/-- The due pacer of a port that is earliest due, ties to the lowest index (R218). -/
def State.dueOn (s : State) (q n : Nat) : Option (Nat × PacEnt) :=
  ((s.quad q).pac.filter fun e => e.2.due && bits e.2.cfg 11 10 == n).foldl
    (fun (m : Option (Nat × PacEnt)) e => match m with
      | some a => some (if e.2.since < a.2.since then e else a)
      | none => some e) none

/-- The unpaced pacer of a port whose head packet arrived first. -/
def State.readyOn (s : State) (q n : Nat) : Option (Nat × PacEnt) :=
  let head (p : PacEnt) : Nat := (p.queue.head?.map (·.1)).getD 0
  ((s.quad q).pac.filter fun e => e.2.en && !e.2.paced && e.2.queue != [] && bits e.2.cfg 11 10 == n).foldl
    (fun (m : Option (Nat × PacEnt)) e => match m with
      | some a => some (if head e.2 < head a.2 then e else a)
      | none => some e) none

/-- The head packet of a pacer leaves. -/
def State.pacSend (s : State) (q n k : Nat) (p : PacEnt) : State :=
  match p.queue with
  | (_, data) :: r =>
    let new := { p with queue := r, tokens := if p.paced then p.tokens - 1 else p.tokens, since := s.root }
    (s.modQuad q fun x => { x with pac := nset x.pac k new }).sendFrame q n (s.dress q p data)
  | [] => s

/-- What a free port sends: a management frame, a due paced packet, or an unpaced one (R214, R218). -/
def State.transmit (s : State) (q n frac : Nat) : State :=
  let paced := match s.dueOn q n with
    | some (k, p) => s.pacSend q n k p
    | none => match s.readyOn q n with
      | some (k, p) => s.pacSend q n k p
      | none => s
  match s.mgmtHead q with
  | some (d, f) =>
    if numAt d 0 1 = n then
      let f := if numAt d 1 1 % 2 = 1 then s.oneStep frac f else f
      let s := (s.mgmtNext q).sendFrame q n f
      if numAt d 1 1 / 2 % 2 = 1 then s.pushStamp q n frac (numAt d 2 2) else s
    else paced
  | none => paced

/-- A management frame for a port that the engine does not have is dropped. -/
def State.mgmtSkip (s : State) (q : Nat) : State :=
  match s.mgmtHead q with
  | some (d, _) => if s.hasPort q (numAt d 0 1) then s else s.mgmtNext q
  | none => s

/-- PACKET_TRANSMIT (R218); a port that is down sends nothing (R230, R232). -/
def execPacketTransmit (q : Fin 64) (n : Fin 4) (frac : Fin 8) (s : State) : Host.Outcome State Fault Refusal :=
  s.whenServing fun s => if s.portUp q.val n.val then (s.mgmtSkip q.val).transmit q.val n.val frac.val else s

/-- TXSTAMP_POP (R215): a read of the high word. -/
def execTxstampPop (m : Nat) (q : Fin 64) (s : State) : Host.Outcome State Fault Refusal :=
  s.readCommand m ⟨.txstampHi, q.val, 0⟩

end Sys2Proof.Machine
end

