-- ==== Sys2Proof/Machine/Image.lean ====
section
/-! DEFINITION. The store die (R294 to R297), the image container (R298 to R301), its authentication and decryption
(R305, R306, R309, R310), and loads of cups (R112 to R114). -/

namespace Sys2Proof.Machine

/-! ### The store die (R294 to R297) -/

/-- A byte of the store; one that nothing has written reads 0 (log entry 17). -/
def State.storeByte (s : State) (a : Nat) : Byte := nget s.nv.store a 0

/-- Bytes of the store. -/
def State.storeBytes (s : State) (a len : Nat) : List Byte := (List.range len).map fun i => s.storeByte (a + i)

/-- Writes bytes of the store. -/
def State.storePut (s : State) (a : Nat) (data : List Byte) : State :=
  let cells := ((List.range data.length).zip data).foldl
    (fun (l : List Host.Cell) (e : Nat × Byte) => nput l (a + e.1) e.2 0) s.nv.store
  { s with nv := { s.nv with store := cells } }

/-- A region of the store, coded as IMG_CMD.REGION does, with the library entry: 0 and 1 firmware, 2 primary, 3 golden,
4 library.  Its base and size. -/
def regionBase (r lib : Nat) : Nat :=
  match r with
  | 0 => 0
  | 1 => 0x01000000
  | 2 => 0x10000000
  | 3 => 0x60000000
  | _ => 0xB0000000 + lib * 0x640000

def regionSize (r : Nat) : Nat :=
  match r with
  | 0 | 1 => 0x01000000
  | 2 | 3 => 0x50000000
  | _ => 0x640000

/-- An entry of the library directory. -/
def NvSt.libEnt (nv : NvSt) (n : Nat) : LibEnt := nget nv.lib n {}

/-- The VALID mark of a region (R295). -/
def NvSt.valid (nv : NvSt) (r lib : Nat) : Bool :=
  match r with
  | 0 => nv.fwA
  | 1 => nv.fwB
  | 2 => nv.primary
  | 3 => nv.golden
  | _ => (nv.libEnt lib).valid

/-- Sets or clears the VALID mark of a region. -/
def State.setValid (s : State) (r lib : Nat) (b : Bool) : State :=
  let nv := s.nv
  let nv := match r with
    | 0 => { nv with fwA := b }
    | 1 => { nv with fwB := b }
    | 2 => { nv with primary := b }
    | 3 => { nv with golden := b }
    | _ => { nv with lib := nput nv.lib lib { nv.libEnt lib with valid := b } {} }
  { s with nv }

/-! ### The container (R298 to R300) -/

/-- A section entry. -/
structure Sec where
  idx : Nat
  off : Nat
  len : Nat
  kind : Nat
  flags : Nat
  target : Nat
  digest : BitVec 384
  deriving DecidableEq, Repr

/-- Section entry i of a header. -/
def secAt (h : List Byte) (i : Nat) : Sec :=
  let e := slice h (2752 + 64 * i) 64
  { idx := i, off := numAt e 0 4, len := numAt e 4 4, kind := numAt e 8 1, flags := numAt e 9 1, target := numAt e 10 2,
    digest := BitVec.ofNat 384 (numAt e 16 48) }

def imgKind (h : List Byte) : Nat := numAt h 8 1
def imgSlot (h : List Byte) : Nat := numAt h 9 1
def imgNsect (h : List Byte) : Nat := numAt h 10 1
def imgSvn (h : List Byte) : Nat := numAt h 12 4
def imgTotal (h : List Byte) : Nat := numAt h 16 8

/-- The sections used. -/
def secsOf (h : List Byte) : List Sec := (List.range (imgNsect h)).map (secAt h)

/-- ENC. -/
def Sec.enc (x : Sec) : Bool := x.flags % 2 == 1

/-- First byte, stored length and end. -/
def Sec.lo (x : Sec) : Nat := 4096 * x.off
def Sec.stored (x : Sec) : Nat := if x.enc then x.len + 16 * ceilDiv x.len 65536 else x.len
def Sec.hi (x : Sec) : Nat := x.lo + x.stored

/-- The sections of a kind. -/
def secsKind (h : List Byte) (k : Nat) : List Sec := (secsOf h).filter fun x => x.kind == k

/-- Bytes of a cup structure and of a cup's content. -/
def structBytes : Nat := 3150400
def contentBytes : Nat := 3276800

/-- The cups a STRUCT or CONTENT section covers. -/
def Sec.cups (x : Sec) : List Nat :=
  (List.range (x.len / (if x.kind = 1 then structBytes else contentBytes))).map fun i => x.target + i

/-- Two extents of a list overlap. -/
def overlaps : List (Nat × Nat) → Bool
  | [] => false
  | (a, b) :: r => (r.any fun e => decide (a < e.2 ∧ e.1 < b)) || overlaps r

/-- Section rules of every container (R299). -/
def secsPlaced (h : List Byte) : Bool :=
  inRange 1 16 (imgNsect h) && ((List.range 16).all fun i => decide (i < imgNsect h) || allZero (slice h (2752 + 64 * i) 64)) &&
  ((secsOf h).all fun x => decide (x.flags < 2 ∧ 1 ≤ x.off ∧ x.hi ≤ imgTotal h)) &&
  !overlaps ((secsOf h).map fun x => (x.lo, x.hi))

/-- A section that a full or golden image may hold. -/
def fullSec (x : Sec) : Bool :=
  match x.kind with
  | 1 => x.len % structBytes == 0 && decide (x.target + x.len / structBytes ≤ 192)
  | 2 => x.len % contentBytes == 0 && decide (x.target + x.len / contentBytes ≤ 192)
  | 3 => x.len == 9216 && x.target == 0
  | 4 => x.len == 4096 && x.target == 0
  | 5 => x.len == 9984 && x.target == 0
  | _ => false

/-- The sections of a full or golden image (R300). -/
def fullSecs (h : List Byte) : Bool :=
  let cov := (secsKind h 1).flatMap Sec.cups
  (secsOf h).all fullSec && (secsKind h 3).length == 1 && (secsKind h 4).length == 1 && (secsKind h 5).length == 1 &&
  decide (cov.dedup.length = cov.length) && ((secsKind h 2).flatMap Sec.cups).all cov.contains

/-- The sections of a cup image (R300, R309). -/
def cupSecs (h : List Byte) : Bool :=
  ((secsOf h).all fun x => inRange 1 3 x.kind && x.target == 0 &&
    x.len == (if x.kind = 1 then structBytes else if x.kind = 2 then contentBytes else 48)) &&
  (secsKind h 1).length == 1 && (secsKind h 3).length == 1 && decide ((secsKind h 2).length ≤ 1)

/-- The sections of a firmware container (R300). -/
def fwSecs (h : List Byte) : Bool :=
  (secsOf h).all (fun x => x.kind == 6 && x.target == 0 && decide (x.len ≤ 0x1000000 - 4096)) && (secsKind h 6).length == 1

/-- A container of a kind, within a region's size (R298 to R300, R309). -/
def containerOk (h : List Byte) (kind size : Nat) : Bool :=
  numAt h 0 4 == 0x32354B41 && numAt h 4 2 == 1 && numAt h 6 2 == 0x5248 && imgKind h == kind &&
  decide (4096 ≤ imgTotal h ∧ imgTotal h ≤ size) && secsPlaced h &&
  (match kind with
  | 3 => imgSlot h == 0xFF && allZero (slice h 64 1408) && allZero (slice h 1472 1280) && cupSecs h
  | 4 => imgSlot h == 0xFF && allZero (slice h 64 1408) && allZero (slice h 1472 1280) && fwSecs h
  | _ => fullSecs h)

/-! ### Authentication (R301, R305, R306, R309, R310) -/

/-- The two-level digest of a section's stored bytes (R301). -/
def secDigest (bs : List Byte) : BitVec 384 := sha384 ((chunks 65536 bs).flatMap fun c => digestBytes (sha384 c))

/-- The stored bytes of a section. -/
def secBytes (img : List Byte) (x : Sec) : List Byte := slice img x.lo x.stored

/-- The content key of an image (R306). -/
def imgCek (h : List Byte) : Option (BitVec 256) := keyUnwrap Config.kek (slice h 24 40)

/-- The plaintext of a section; none where its decryption fails (R306). -/
def secPlain (img : List Byte) (x : Sec) : Option (List Byte) :=
  let bs := secBytes img x
  if !x.enc then some bs
  else match imgCek img with
  | none => none
  | some key =>
    let ct := bs.take x.len
    ((List.range (ceilDiv x.len 65536)).foldl
      (fun (acc : Option (List Byte)) i => acc.bind fun out =>
        let iv := leBytes 4 x.idx ++ [0, 0, 0, 0] ++ leBytes 4 i
        match gcmOpen key iv [] ((ct.drop (65536 * i)).take 65536) (slice bs (x.len + 16 * i) 16) with
        | (p, true) => some (out ++ p)
        | _ => none) (some []))

/-- The plaintext of a section that passed. -/
def plainOf (img : List Byte) (x : Sec) : List Byte := (secPlain img x).getD []

/-- The first failure among sections, in entry order, as IMG_CAUSE gives it, with the section (R301, R306); `noKek` where
the key engine refuses every use of the KEK (R426). -/
def secFault (img : List Byte) (secs : List Sec) (noKek : Bool := false) : Option (Nat × Nat) :=
  secs.findSome? fun x =>
    if secDigest (secBytes img x) != x.digest then some (0x07, x.idx)
    else if noKek && x.enc || (secPlain img x).isNone then some (0x08, x.idx) else none

/-- The hash of the signer's public key. -/
def signerHash (h : List Byte) : BitVec 384 := sha384 (slice h 3776 97)

/-- SIG verifies under SIGNER. -/
def sigOk (h : List Byte) : Bool := Config.ecdsaOk (slice h 3776 97) (slice h 0 4000) (slice h 4000 96)

/-- A hash is that of an active owner key slot. -/
def NvSt.activeKey (nv : NvSt) (d : BitVec 384) : Bool := nv.slots.contains (.active d)

/-- The header checks of a full or golden image: the failing cause (R305). -/
def NvSt.headerFault (nv : NvSt) (h : List Byte) (kind : Nat) : Option Nat :=
  if !containerOk h kind (regionSize 2) then some 0x03
  else if nv.slots[imgSlot h]? ≠ some (.active (signerHash h)) then some 0x04
  else if !sigOk h then some 0x05
  else if imgSvn h < nv.minSvn then some 0x06
  else none

/-- The image-key hash registered for a tenant (R412). -/
def State.tenantKey (s : State) (t : Nat) : Option (BitVec 384) := (look s.tenantKeys t).map (·.1)

/-- The signer of a cup image is the one its domain trusts (R309). -/
def State.cupSigner (s : State) (dom : Nat) (h : List Byte) : Bool :=
  match tenantOf dom with
  | some t => s.tenantKey t == some (signerHash h)
  | none => s.nv.activeKey (signerHash h)

/-- The failing cause of a cup image of a domain, and its section: 0x03 malformed, else not authentic (R309). -/
def State.cupFault (s : State) (dom : Nat) (img : List Byte) (secs : List Sec) : Option (Nat × Nat) :=
  if !containerOk img 3 (regionSize 4) then some (0x03, 0xFF)
  else if !s.cupSigner dom img then some (0x04, 0xFF)
  else if !sigOk img then some (0x05, 0xFF)
  else secFault img secs s.plyngen

/-- The check of the mask ROM on a firmware copy (R310). -/
def fwFault (img : List Byte) (noKek : Bool := false) : Option Nat :=
  if !containerOk img 4 (regionSize 0) then some 0x03
  else if signerHash img != Config.plyngenFwHash then some 0x04
  else if !sigOk img then some 0x05
  else (secFault img (secsOf img) noKek).map (·.1)

/-- The container in a region: its bytes 0 to TOTAL − 1, at least the header. -/
def State.regionImage (s : State) (r lib : Nat) : List Byte :=
  let base := regionBase r lib
  let total := imgTotal (s.storeBytes base 4096)
  s.storeBytes base (max 4096 (min total (regionSize r)))

/-- What VERIFY finds in a region: the failing cause (R295, R305, R309, R310). -/
def State.verifyFault (s : State) (r lib : Nat) : Option Nat :=
  let img := s.regionImage r lib
  match r with
  | 0 | 1 => fwFault img s.plyngen
  | 2 | 3 =>
    match s.nv.headerFault img (r - 1) with
    | some c => some c
    | none => (secFault img (secsOf img) s.plyngen).map (·.1)
  | _ => (s.cupFault (s.nv.libEnt lib).dom img (secsOf img)).map (·.1)

/-! ### Loads of a shadow plane (R112 to R114) -/

/-- A LOAD_CMD that its register refuses (R309): library entry absent or of another domain. -/
def State.loadDenied (s : State) (c : Nat) (v : Word) : Bool :=
  !bit v 25 && bit v 31 && (decide (819 ≤ bits v 15 0) || (s.nv.libEnt (bits v 15 0)).dom != s.cupDom c)

/-- The bytes of the container a load names, with those of TOTAL: from the store, or from HBM in the requester's right. -/
def State.loadImage (s : State) (dom : Nat) (lib : Option Nat) (a : Nat) : State × Option (List Byte) :=
  match lib with
  | some n => (s, some (s.regionImage 4 n))
  | none =>
    match s.hbmFetch dom a 4096 with
    | (s, some h) =>
      let total := imgTotal h
      if inRange 4096 (regionSize 4) total then s.hbmFetch dom a total else (s, some h)
    | (s, none) => (s, none)

/-- Authenticates an image for a load: the job with its CODE (R309). -/
def State.authLoad (s : State) (dom : Nat) (withContent : Bool) (lib : Option Nat) (img : List Byte) : LoadJob :=
  let secs := (secsOf img).filter fun x => withContent || x.kind != 2
  match s.cupFault dom img secs with
  | some (0x03, _) => { code := 8, lib }
  | some _ => { code := 3, lib }
  | none =>
    if withContent && (secsKind img 2).isEmpty then { code := 8, lib }
    else
      let part (k : Nat) : List Byte := ((secs.find? fun x => x.kind == k).map (plainOf img)).getD []
      { code := 0, words := wordsOf (part 1), content := if withContent then some (wordsOf (part 2)) else none,
        digest := BitVec.ofNat 384 (numAt (part 3) 0 48), lib }

/-- The configuration port of a cup's leaf serves the cup's load: loads asked for before it are done (R88). -/
def State.loadServed (s : State) (c : Nat) : Bool :=
  match s.leafOfCup c with
  | some p => (s.leaf p).loads.head? == some c
  | none => false

/-- A load ends with CODE and, for a sieve rejection, CHECK and WORD; a failed load leaves SHADOW empty (R114). -/
def State.loadEnd (s : State) (c code check word : Nat) : State :=
  let s := (s.setFlag ⟨.cupLoadCmd, c, 0⟩ 31 false).setFields ⟨.cupLoadStat, c, 0⟩
    [(31, 28, code), (27, 24, check), (23, 22, if code = 2 then 2 else 0), (19, 0, word)]
  ((s.modCup c fun x => { x with loadJob := none }).modLoads c fun l => l.filter (· != c)).leaseDropOn .shadowLoad (.cup c)

/-- An image in HBM cannot be read yet (R256): its header, or what TOTAL of it says. -/
def State.imageWaits (s : State) (dom a : Nat) : Bool :=
  s.agentWaits bulkClass dom a 4096 ||
    match (s.hbmFetch dom a 4096).2 with
    | some h => inRange 4096 (regionSize 4) (imgTotal h) && s.agentWaits bulkClass dom a (imgTotal h)
    | none => false

/-- The image of a load is read and authenticated (R112, R309); one that cannot be read ends the load with CODE 0011. -/
def State.loadRead (s : State) (m c : Nat) (lib : Option Nat) (dom a since : Nat) : State :=
  match s.loadImage dom lib a with
  | (s, some img) =>
    let job := s.authLoad (s.cupDom c) (s.fld ⟨.cupLoadCmd, c, 0⟩ 27 26 == 1) lib img
    s.modCup c fun x => { x with loadJob := some { job with since } }
  | (s, none) => (s.loadEnd c 0 0 0).failSince since m ⟨.cupLoadStat, c, 0⟩ [(31, 28, 3)]

/-- An armed switch-point entry names the cup in a FLIP. -/
def State.flipArmed (s : State) (c : Nat) : Bool :=
  (List.range 256).any fun e => s.spArmed e && s.spAction e == 1 && s.spNames e c

/-- A write of CUP_LOAD_CMD that its register takes (R112, R114, R128): START begins a load; one refused with BUSY has stored
the other fields unless a load runs (log entry 115). -/
def State.writeLoadCmd (s : State) (m c : Nat) (v : Word) : State :=
  let k : RegKey := ⟨.cupLoadCmd, c, 0⟩
  let st : RegKey := ⟨.cupLoadStat, c, 0⟩
  if (s.cup c).loadJob.isSome then (if bit v 31 then s.setFld st 31 28 7 else s.plainWrite k v)
  else
    let s := (s.plainWrite k v).setFlag k 31 false
    if !bit v 31 then s
    else if s.inHold || s.flipArmed c then s.failKettle m st [(31, 28, 7)]
    else
      let dom := (s.midDomain m).getD 0
      let lib := if s.flag k 25 then none else some (s.fld k 15 0)
      let rs : List Resource := .cup c :: (lib.map Resource.libEntry).toList
      match s.leaseTry .shadowLoad rs dom with
      | (s, false) => s.failKettle m st [(31, 28, 7)]
      | (s, true) =>
        let s := (s.setFlag k 31 true).setFields st [(31, 28, 1), (27, 24, 0), (23, 22, 1), (19, 0, 0)]
        if lib.any fun n => !(s.nv.libEnt n).valid then s.loadEnd c 3 0 0
        else
          let a := s.pair ⟨.cupLoadSrc, c, 0⟩ ⟨.cupLoadSrcHi, c, 0⟩
          let s := s.modLoads c fun l => l ++ [c]
          if lib.isNone && s.imageWaits dom a then
            s.modCup c fun x => { x with loadJob := some { code := 0, unread := some (dom, a), since := s.root } }
          else s.loadRead m c lib dom a s.root

/-- CUP_LOAD (R112, R309). -/
def execCupLoad (m : Nat) (c : Fin 192) (v : Word) (s : State) : Host.Outcome State Fault Refusal :=
  let k : RegKey := ⟨.cupLoadCmd, c.val, 0⟩
  s.writeUnless m k v (s.loadDenied c.val v) fun s => s.writeLoadCmd m c.val v

/-- Content words of a cup, block b word i at 4096b + i. -/
def contentList (ws : List Word) : List (Nat × Word) := ((List.range ws.length).zip ws).filter fun e => e.2 != 0

/-- Writes content into the blocks; every word counts as written (R69, R70, R113). -/
def CupSt.putContent (x : CupSt) (ws : List Word) : CupSt :=
  let bram := (List.range (ws.length / 2)).foldl
    (fun (l : List (Nat × BitVec 64)) i =>
      nput l i (BitVec.ofNat 64 ((ws.getD (2 * i) 0).toNat + 2 ^ 32 * (ws.getD (2 * i + 1) 0).toNat)) 0) x.fab.bram
  { x with fab := { x.fab with bram, bramErr := [] } }

/-- Writes the content an image carries, if it carries any. -/
def CupSt.putContents (x : CupSt) : Option (List Word) → CupSt
  | some ws => x.putContent ws
  | none => x

/-- Writes a structure into the shadow plane; configuration bits that stood flipped there are written anew. -/
def CupSt.putShadow (x : CupSt) (ws : List Word) : CupSt :=
  let base := if x.bank then 0 else 787600
  { (x.setShadow (toPlane ws)) with
    cfgErr := x.cfgErr.filter fun e => decide (e.1 < base ∨ base + 787600 ≤ e.1) }

/-- The sieve over an image for a cup, with the grants and DRIVE bits in force (R127). -/
def State.sieveFor (s : State) (c : Nat) (ws : List Word) (content : Option (List Word)) : Option (Nat × Nat) :=
  sieve (toPlane ws) ws.length (content.map fun l => (l.length, contentList l)) (c % 4) (s.divGrants c) (s.drives c)

/-- Content meets a cup that is neither in DORMANT nor held in RUN (R113). -/
def State.contentBarred (s : State) (c : Nat) : Bool := !(s.cupState c == 1 || (s.cupState c == 2 && s.held c))

/-- Steps 2 to 5 of a load (R112): the sieve, the shadow plane and the content, the digest. -/
def State.loadFinish (s : State) (c : Nat) (j : LoadJob) : State :=
  if j.code ≠ 0 then s.loadEnd c j.code 0 0
  else match s.sieveFor c j.words j.content with
  | some (check, word) => s.loadEnd c 4 check word
  | none =>
    if j.content.isSome && s.contentBarred c then s.loadEnd c 6 0 0
    else
      let s := s.modCup c fun x => (x.putShadow j.words).putContents j.content
      let d := planeDigest (s.cup c).shadow
      let s := s.setDigest .cupSdig c d
      if d ≠ j.digest then s.loadEnd c 5 0 0
      else (s.modCup c fun x => { x with xdig := j.digest }).loadEnd c 2 0 0

/-- The rest of a load whose image has just been read, if it could be. -/
def State.loadTail (s : State) (c : Nat) : State :=
  match (s.cup c).loadJob with
  | some j => s.loadFinish c j
  | none => s

/-- LOAD_COMPLETE (R88, R112): a load whose lease has run out fails with BUSY (R394; log entry 60). -/
def execLoadComplete (c : Fin 192) (s : State) : Host.Outcome State Fault Refusal :=
  s.whenLive fun s =>
    match (s.cup c.val).loadJob with
    | some j =>
      if !s.leased .shadowLoad (.cup c.val) then s.loadEnd c.val 7 0 0
      else if s.loadServed c.val then
        match j.unread with
        | some (d, a) => if s.imageWaits d a then s else (s.loadRead (domMid d) c.val none d a j.since).loadTail c.val
        | none => s.loadFinish c.val j
      else s
    | none => s

end Sys2Proof.Machine
end

