-- ==== Sys2Proof/Machine/ImgCmd.lean ====
section
/-! DEFINITION. The IMG commands (R295, R307, R308, R310, R314, R324): their checks, the work of the Kettle, which
serves the windows' instances in turn, and their completion. -/

namespace Sys2Proof.Machine

/-- The master ID of JTAG. -/
def jtagMid : Nat := 0x181

/-- Why the Kettle does not serve a command; 0 code with its DETAIL where it can. -/
abbrev ImgCode := Nat × Nat

/-- The firmware copy that runs (R324). -/
def State.fwCopy (s : State) : Nat := s.fld ⟨.imgStat, 0, 0⟩ 25 25

/-- Only the mask ROM runs, both firmware copies having failed (R314). -/
def State.romOnly (s : State) : Bool := decide (s.phase = .halted) && s.fld ⟨.imgCause, 0, 0⟩ 31 24 == 1

/-- The region of a job is one its domain may name: its CODE, 0 where it may (R297, R324). -/
def State.regionCode (s : State) (dom : Nat) (j : ImgJob) : Nat :=
  if j.region = 4 then
    if 819 ≤ j.lib then (if (tenantOf dom).isSome then 1 else 3)
    else if (s.nv.libEnt j.lib).dom ≠ dom then 1 else 0
  else if (tenantOf dom).isSome then 1 else 0

/-- IMG_LEN and the extent in a region are in order (R324). -/
def lenOk (j : ImgJob) (off : Nat) : Bool :=
  decide (j.len ≠ 0 ∧ j.len % 64 = 0 ∧ off + j.len ≤ regionSize j.region)

/-- The state of an owner key slot. -/
def NvSt.slot (nv : NvSt) (n : Nat) : KeySlot := nv.slots.getD n .blank

/-- No owner key slot is active. -/
def NvSt.noActive (nv : NvSt) : Bool := nv.slots.all fun k => match k with
  | .active _ => false
  | _ => true

/-- Sets an owner key slot. -/
def State.setSlot (s : State) (n : Nat) (k : KeySlot) : State := { s with nv := { s.nv with slots := s.nv.slots.set n k } }

/-- The 4-byte name of an operation in its signed message (R308): "PROG", "RVKE", "RSVN". -/
def opName (op : Nat) : List Byte :=
  match op with
  | 6 => [0x50, 0x52, 0x4F, 0x47]
  | 7 => [0x52, 0x56, 0x4B, 0x45]
  | _ => [0x52, 0x53, 0x56, 0x4E]

/-- The signature of a key-slot change verifies under an active slot (R308). -/
def State.slotAuth (s : State) (op : Nat) (b : List Byte) : Bool :=
  match s.nv.slot (numAt b 49 1) with
  | .active h => Config.slotSigOk h (opName op ++ slice b 0 49 ++ digestBytes (sha384 Config.devicePub))
      (slice b 50 96)
  | _ => false

/-- A key-slot change by its parameter block: the state and its CODE (R308). -/
def State.slotOp (s : State) (m op : Nat) (b : List Byte) : State × Nat :=
  let n := numAt b 0 1
  let v := slice b 1 48
  let first := op == 6 && s.nv.noActive && m == jtagMid && decide (s.phase = .recovery)
  let bad := if op = 8 then decide (64 < numAt v 0 1) || !allZero (v.drop 1) || decide (numAt v 0 1 < s.nv.minSvn)
    else decide (3 < n) || (op == 7 && !allZero v)
  if bad then (s, 3)
  else if !first && !s.slotAuth op b then (s, 5)
  else match op, s.nv.slot n with
  | 6, .blank => (s.setSlot n (.active (BitVec.ofNat 384 (numAt v 0 48))), 0)
  | 7, .active h =>
    let t := s.setSlot n (.revoked h)
    if t.nv.noActive then (s, 6) else (t, 0)
  | 8, _ => ({ s with nv := { s.nv with minSvn := numAt v 0 1 } }, 0)
  | _, _ => (s, 6)

/-- The content key unwrapped from a WRAP parameter block (R307). -/
def wrapKey (b : List Byte) : Option (BitVec 256) :=
  let z := Config.ecdhX 0 (slice b 0 97)
  let w := digestBytes (sha384 (z ++ [0x41, 0x4B, 0x35, 0x32, 0x34, 0x38, 0x20, 0x57, 0x52, 0x41, 0x50]))
  keyUnwrap (BitVec.ofNat 256 (numAt w 0 32)) (slice b 97 40)

/-- The checks a command meets as the Kettle begins to serve it: the state, with the VALID mark of a region about to be
written cleared and its lease taken, and the CODE that stops it, 0 for none. -/
def State.imgBegin (s : State) (w : Nat) (j : ImgJob) : State × Nat × Nat :=
  let dom := windowDom w
  let tenant := (tenantOf dom).isSome
  let fail (c : Nat) : State × Nat × Nat := (s, c, 0)
  if s.romOnly && !((j.op == 1 || j.op == 3) && decide (j.region < 2)) then fail 1
  else match j.op with
  | 1 =>
    if s.regionCode dom j ≠ 0 then fail (s.regionCode dom j)
    else if !lenOk j j.dst then fail 3
    else if j.region < 2 && j.region == s.fwCopy && !s.romOnly then fail 1
    else if !j.srcj && !s.mayRead dom j.src j.len then fail 1
    else match s.leaseTry .storeWrite [.storeDie, if j.region = 4 then .libEntry j.lib else .region j.region] dom with
      | (s, true) => (s.setValid j.region j.lib false, 0, 0)
      | (s, false) => (s, 2, 0)
  | 2 =>
    if s.regionCode dom j ≠ 0 then fail (s.regionCode dom j)
    else if !lenOk j j.src then fail 3
    else if !s.nv.valid j.region j.lib then (s, 4, 2)
    else if !s.mayWrite dom j.dst j.len then fail 1
    else fail 0
  | 3 => fail (s.regionCode dom j)
  | 4 => if tenant then fail 1 else if s.inHold then fail 2 else if inRange 2 3 j.region then fail 0 else fail 3
  | 5 => if s.mayRead dom j.src 144 && s.mayWrite dom j.dst 40 then fail 0 else fail 1
  | 9 => if tenant then fail 1 else if j.mid = jtagMid ∧ s.phase = .recovery then fail 0 else fail 3
  | _ => if tenant then fail 1 else if s.mayRead dom j.src 146 then fail 0 else fail 1

/-- A command ends with CODE and DETAIL; a tenant's DENIED and BUSY wait for their latency from the write (R397,
R415). -/
def State.imgEnd (s : State) (w code detail : Nat) : State :=
  let j := look s.imgJobs w
  let s := { s with imgJobs := erase s.imgJobs w }
  let k : RegKey := ⟨.imgCmdstat, w, 0⟩
  let go : RegKey := ⟨.imgCmd, w, 0⟩
  let fs := [(31, 30, if code = 0 then 2 else 3), (27, 24, code), (23, 16, detail)]
  if w ≠ 0 ∧ (code = 1 ∨ code = 2) then
    s.holdUntil ((j.map (·.mid)).getD 0) 0 ((j.map (·.since)).getD s.root + kettleLatency)
      (.status [(k, fs), (go, [(31, 31, 0)])])
  else (s.setFields k fs).setFlag go 31 false

/-- The instance after w, in turn, whose command waits. -/
def State.imgNext (s : State) (w : Nat) : Option Nat :=
  ((s.imgJobs.find? fun e => decide (w < e.1)).or s.imgJobs.head?).map (·.1)

/-- The Kettle takes up waiting commands, after instance w, until one runs. -/
def State.imgServe : Nat → Nat → State → State
  | 0, _, s => s
  | fuel + 1, w, s =>
    if s.imgJobs.any fun e => e.2.started then s
    else match s.imgNext w with
    | none => s
    | some i => match look s.imgJobs i with
      | none => s
      | some j => match s.imgBegin i j with
        | (s, 0, _) => { s with imgJobs := nset s.imgJobs i { j with started := true } }
        | (s, c, d) => State.imgServe fuel i (s.imgEnd i c d)

/-- A write of IMG_CMD through window w (R324, R467). -/
def State.writeImgCmd (s : State) (m w : Nat) (v : Word) : State :=
  let k : RegKey := ⟨.imgCmd, w, 0⟩
  s.goWrite k (if m = jtagMid then v else putBits v 30 30 0) fun s =>
    let j : ImgJob :=
      { mid := m, op := s.fld k 3 0, region := s.fld k 11 8, lib := s.fld ⟨.imgLibsel, w, 0⟩ 9 0,
        src := s.pair ⟨.imgSrc, w, 0⟩ ⟨.imgSrcHi, w, 0⟩, dst := s.pair ⟨.imgDst, w, 0⟩ ⟨.imgDstHi, w, 0⟩,
        len := (s.reg ⟨.imgLen, w, 0⟩).toNat, srcj := s.flag k 30, since := s.root }
    let s := (s.setFlag k 31 true).setFields ⟨.imgCmdstat, w, 0⟩ [(31, 30, 1), (27, 24, 0), (23, 16, 0)]
    State.imgServe 65 64 { s with imgJobs := nset s.imgJobs w j }

/-- The window of a master. -/
def State.winOf (s : State) (m : Nat) : Nat := windowOf ((s.midDomain m).getD 0)

/-- A write of IMG_CMD that starts an OP. -/
def State.imgCommand (s : State) (m op : Nat) (v : Word) : Host.Outcome State Fault Refusal :=
  let w := s.winOf m
  s.writeCommand m ⟨.imgCmd, w, 0⟩ (putBits (putBits v 3 0 op) 31 31 1) fun s => s.writeImgCmd m w (putBits (putBits v 3 0 op) 31 31 1)

/-- STORE_WRITE (R295, R310, R324). -/
def execStoreWrite (m : Nat) (v : Word) (s : State) : Host.Outcome State Fault Refusal := s.imgCommand m 1 v

/-- STORE_READ (R324). -/
def execStoreRead (m : Nat) (v : Word) (s : State) : Host.Outcome State Fault Refusal := s.imgCommand m 2 v

/-- VERIFY (R295). -/
def execVerify (m : Nat) (v : Word) (s : State) : Host.Outcome State Fault Refusal := s.imgCommand m 3 v

/-- RELOAD (R317, R324). -/
def execReload (m : Nat) (v : Word) (s : State) : Host.Outcome State Fault Refusal := s.imgCommand m 4 v

/-- WRAP (R307). -/
def execWrap (m : Nat) (v : Word) (s : State) : Host.Outcome State Fault Refusal := s.imgCommand m 5 v

/-- PROG_SLOT (R308). -/
def execProgSlot (m : Nat) (v : Word) (s : State) : Host.Outcome State Fault Refusal := s.imgCommand m 6 v

/-- REVOKE (R308). -/
def execRevoke (m : Nat) (v : Word) (s : State) : Host.Outcome State Fault Refusal := s.imgCommand m 7 v

/-- RAISE_SVN (R308). -/
def execRaiseSvn (m : Nat) (v : Word) (s : State) : Host.Outcome State Fault Refusal := s.imgCommand m 8 v

/-! ### Completion -/

/-- The work of a command that is served: the state, its CODE and DETAIL (R295, R307, R308, R324). -/
def State.imgWork (s : State) (w : Nat) (j : ImgJob) : State × Nat × Nat :=
  let dom := windowDom w
  match j.op with
  | 1 =>
    let put (s : State) (b : List Byte) : State := s.storePut (regionBase j.region j.lib + j.dst) (slice b 0 j.len)
    let r := if !s.leased .storeWrite .storeDie then (s, 2, 0) else if j.srcj then (put s j.gathered, 0, 0)
      else match s.hbmFetch dom j.src j.len with
        | (s, some b) => (put s b, 0, 0)
        | (s, none) => (s, 1, 0)
    (r.1.leaseDropOn .storeWrite .storeDie, r.2)
  | 2 => match s.hbmPut dom j.dst (s.storeBytes (regionBase j.region j.lib + j.src) j.len) with
    | (s, true) => (s, 0, 0)
    | (s, false) => (s, 1, 0)
  | 3 => match s.verifyFault j.region j.lib with
    | none => (s.setValid j.region j.lib true, 0, 0)
    | some c => (s.setValid j.region j.lib false, 4, c)
  | 4 => ({ s with reloadRegion := some j.region, chipDue := true, chipWhy := 4 }, 0, 0)
  | 5 => match s.hbmFetch dom j.src 144 with
    | (s, some b) =>
      if !allZero (slice b 137 7) then (s, 3, 0)
      else if s.plyngen then (s, 5, 0)
      else match wrapKey b with
        | some key => match s.hbmPut dom j.dst (keyWrap Config.kek key) with
          | (s, true) => (s, 0, 0)
          | (s, false) => (s, 1, 0)
        | none => (s, 5, 0)
    | (s, none) => (s, 1, 0)
  | 9 => (s, 0, 0)
  | op => match s.hbmFetch dom j.src 146 with
    | (s, some b) =>
      match s.slotOp j.mid op b with
      | (s, c) => (s, c, 0)
    | (s, none) => (s, 1, 0)

/-- The command needs nothing more from outside: every byte that IMG_JDATA owes has arrived, and it is no RUN, which
the command of that name carries out. -/
def ImgJob.fed (j : ImgJob) : Bool :=
  j.op != 9 && (!(j.op == 1 && j.srcj) || decide (j.len ≤ j.gathered.length))

/-- A command's extents in HBM (R307, R308, R324). -/
def ImgJob.extents (j : ImgJob) : List (Nat × Nat) :=
  match j.op with
  | 1 => if j.srcj then [] else [(j.src, j.len)]
  | 2 => [(j.dst, j.len)]
  | 5 => [(j.src, 144), (j.dst, 40)]
  | 6 | 7 | 8 => [(j.src, 146)]
  | _ => []

/-- A command's accesses wait for a training stage (R256). -/
def State.imgWaits (s : State) (w : Nat) (j : ImgJob) : Bool :=
  (j.op == 1 && s.flag ⟨.cadStat, 0, 0⟩ 31 && !s.caddy.buf.isEmpty) ||
    j.extents.any fun e => s.agentWaits highClass (windowDom w) e.1 e.2

/-- IMG_COMMAND_DONE (R296, R324): the command being served ends, and the next instance is served. -/
def execImgCommandDone (w : Fin 65) (s : State) : Host.Outcome State Fault Refusal :=
  .next (match look s.imgJobs w.val with
    | some j =>
      if j.started && j.fed && !s.imgWaits w.val j then
        match s.imgWork w.val j with
        | (s, c, d) => State.imgServe 65 w.val (s.imgEnd w.val c d)
      else s
    | none => s)

/-- A write of IMG_JDATA: the next 4 bytes of a SRCJ write, from JTAG only (R314, R324). -/
def State.writeJdata (s : State) (m : Nat) (v : Word) : State :=
  if m = jtagMid then
    match look s.imgJobs 0 with
    | some j =>
      if j.started && j.op == 1 && j.srcj && !j.fed then
        { s with imgJobs := nset s.imgJobs 0 { j with gathered := j.gathered ++ wordBytes v } }
      else s
    | none => s
  else s

/-- IMG_JDATA_WRITE (R314). -/
def execImgJdataWrite (m : Nat) (v : Word) (s : State) : Host.Outcome State Fault Refusal :=
  s.writeCommand m ⟨.imgJdata, 0, 0⟩ v fun s => s.writeJdata m v

/-- A write of IMG_LIBENT for the entry IMG_LIBSEL names: a domain takes the entry and VALID clears (R297, R324). -/
def State.writeLibent (s : State) (w : Nat) (v : Word) : State :=
  let n := s.fld ⟨.imgLibsel, w, 0⟩ 9 0
  let d := bits v 7 0
  if n < 819 ∧ (d = 1 ∨ inRange 0x10 0x4F d) then { s with nv := { s.nv with lib := nput s.nv.lib n { dom := d } {} } }
  else s

/-- IMG_LIBENT_WRITE (R297). -/
def execImgLibentWrite (m : Nat) (v : Word) (s : State) : Host.Outcome State Fault Refusal :=
  let w := s.winOf m
  s.writeCommand m ⟨.imgLibent, w, 0⟩ v fun s => s.writeLibent w v

end Sys2Proof.Machine
end

