-- ==== Sys2Proof/Machine/Strainer.lean ====
section
/-! DEFINITION. The Strainer: events, event queues, interrupts, ERR_N and entry into the safe state (R384 to R391). -/

namespace Sys2Proof.Machine

/-- The window that shows a master its own event queue and records (R402). -/
def State.winOfMaster (s : State) (m : Nat) : Nat := windowOf ((s.midDomain m).getD 0x01)

/-- STRAINER_EVENT (R387): an event of a source that exists. -/
def execStrainerEvent (n : Fin 4096) (kind : Nat) (doms : List Nat) (bytes : List Byte) (s : State) :
    Host.Outcome State Fault Refusal :=
  .next (if sourceExists n.val ∧ (s.live || s.stoppedSafe) = true then s.raiseEvent n.val kind doms bytes else s)

/-- A write of STR_SRC[n] (R384, R387, R402): STICKY alone for sources 0x000 to 0x00F, and CADDY stays set at severity
11. -/
def State.writeSrc (s : State) (n : Nat) (v : Word) : State :=
  let k : RegKey := ⟨.strSrc, n, 0⟩
  if !sourceExists n then s
  else if n < 0x010 then (if bit v 31 then s.setFlag k 31 false else s)
  else s.plainWrite k (if s.fld k 30 29 = 3 then putBits v 27 27 1 else v)

/-! ### Event queues (R388, R389) -/

/-- A vector whose queue still holds an entry sends again. -/
def State.resendVector (s : State) (w vec : Nat) : State :=
  if (s.evq w).ents.any fun e => e.2 == vec then
    ((s.setFlag ⟨.strIrqack, w, 0⟩ vec true).sendMsix w vec).signalCores (windowDom w)
  else s

/-- A write of STR_IRQACK in window w: each vector written with 1 clears, and sends again if entries remain. -/
def State.writeIrqack (s : State) (w : Nat) (v : Word) : State :=
  (List.range (if w = 0 then 8 else 1)).foldl
    (fun (s : State) b => if bit v b then (s.setFlag ⟨.strIrqack, w, 0⟩ b false).resendVector w b else s) s

/-- STR_IRQACK_WRITE (R389). -/
def execStrIrqackWrite (m : Nat) (v : Word) (s : State) : Host.Outcome State Fault Refusal :=
  s.writeCommand m ⟨.strIrqack, s.winOfMaster m, 0⟩ v fun s => s.writeIrqack (s.winOfMaster m) v

/-- A write of STR_EVPOP in window w removes the head entry. -/
def State.writeEvpop (s : State) (w : Nat) (v : Word) : State :=
  if bit v 0 then s.modEvq w fun q => { q with ents := q.ents.drop 1 } else s

/-- STR_EVPOP (R388). -/
def execStrEvpop (m : Nat) (v : Word) (s : State) : Host.Outcome State Fault Refusal :=
  s.writeCommand m ⟨.strEvpop, s.winOfMaster m, 0⟩ v fun s => s.writeEvpop (s.winOfMaster m) v

/-! ### ERR_N (R390) -/

/-- A write of STR_ERRCTL: RELEASE clears both latches, then ASSERT sets the software latch. -/
def State.writeErrctl (s : State) (v : Word) : State :=
  let s := if bit v 0 then s.setFields ⟨.strStat, 0, 0⟩ [(28, 28, 0), (27, 27, 0)] else s
  if bit v 1 then s.setFlag ⟨.strStat, 0, 0⟩ 27 true else s

/-- ERR_ASSERT (R390). -/
def execErrAssert (m : Nat) (v : Word) (s : State) : Host.Outcome State Fault Refusal :=
  s.writeCommand m ⟨.strErrctl, 0, 0⟩ (putBits v 1 1 1) fun s => s.writeErrctl (putBits v 1 1 1)

/-- ERR_RELEASE (R390). -/
def execErrRelease (m : Nat) (v : Word) (s : State) : Host.Outcome State Fault Refusal :=
  s.writeCommand m ⟨.strErrctl, 0, 0⟩ (putBits v 0 0 1) fun s => s.writeErrctl (putBits v 0 0 1)

/-- ERR_PULSE_END (R390): the always-on island has counted the pulse out. -/
def execErrPulseEnd (s : State) : Host.Outcome State Fault Refusal :=
  .next (match s.str.pulseEnd with
    | some e => if e ≤ s.aon then { s with str := { s.str with pulseEnd := none } } else s
    | none => s)

/-! ### The safe state (R391) -/

/-- LOCKSTEP_MISMATCH (R391): the Kettle's pair runs from the end of step 1. -/
def execLockstepMismatch (s : State) : Host.Outcome State Fault Refusal :=
  .next (match s.phase with
    | .inReset | .counting | .sysrst | .safe _ => s
    | _ => s.enterSafe 0x001 0x0502 [] false)

/-- STRAINER_SELF_FAULT (R391): the registers are compared at tray cycles, so while the root runs. -/
def execStrainerSelfFault (s : State) : Host.Outcome State Fault Refusal :=
  .next (match s.phase with
    | .inReset | .counting | .safe _ => s
    | _ => if s.rootRuns then s.enterSafe 0x000 0x0501 [] false else s)

end Sys2Proof.Machine
end

