-- ==== Sys2Proof/Machine/Caddy.lean ====
section
/-! DEFINITION. The Caddy: commits, the ring, the droop flush and CAD_SEL (R398 to R402). -/

namespace Sys2Proof.Machine

/-- Records the partition holds (R399). -/
def ringSize : Nat := 1048576

/-- A HEALTH record. -/
def CadRec.isHealth (r : CadRec) : Bool := r.cause / 256 == 0x0A

/-- Puts a record at the head with the engine's next SEQ; a full ring loses its oldest. -/
def State.ringPut (s : State) (r : CadRec) : State :=
  let r' : CadRec := { r with seq := s.caddy.nextSeq }
  let s := { s with nv := { s.nv with ring := (r' :: s.nv.ring).take ringSize } }
  { s with caddy := { s.caddy with nextSeq := (s.caddy.nextSeq + 1) % 2 ^ 32 } }

/-- Commits a record: before the ring overwrites its newest HEALTH record, a copy goes to the head (R399). -/
def State.ringAdd (s : State) (r : CadRec) : State :=
  let ring := s.nv.ring
  match ring.getLast? with
  | some old =>
    if ringSize ≤ ring.length ∧ old.isHealth = true ∧ ring.dropLast.any CadRec.isHealth = false then
      (s.ringPut old).ringPut r
    else s.ringPut r
  | none => s.ringPut r

/-- A place in the buffer that frees takes the drop record first, then the record that waits longest (R400). -/
def State.refill (s : State) : State :=
  if 32 ≤ s.caddy.buf.length then s
  else if 0 < s.caddy.dropped then
    let r := s.mkRec 0x060 (Config.eventSev 0x060 0x08FF).toNat 0x01 0x08FF (leBytes 4 s.caddy.dropped)
    { s with caddy := { s.caddy with buf := s.caddy.buf ++ [r], dropped := 0 } }
  else match s.caddy.waiting with
    | w :: ws => { s with caddy := { s.caddy with buf := s.caddy.buf ++ [w], waiting := ws } }
    | [] => s

/-- Commits the oldest buffered record. -/
def State.commitOne (s : State) : State :=
  match s.caddy.buf with
  | r :: rest => ({ s with caddy := { s.caddy with buf := rest } }.ringAdd r).refill
  | [] => s

/-- Commits records until none is left: at most those buffered, those waiting and one drop record. -/
def State.flushCaddy (s : State) : State :=
  (List.range (s.caddy.buf.length + s.caddy.waiting.length + 1)).foldl (fun (s : State) _ => s.commitOne) s

/-- The Caddy write holds its own lease entry while it runs, if the Kettle runs and the entry is free (R394). -/
def State.caddyLease (s : State) (f : State → State) : State :=
  if s.live && (look s.leases 511).isNone then
    (f (s.leaseTry .caddyWrite [.storeDie] 0x00).1).leaseDropOn .caddyWrite .storeDie
  else f s

/-- CADDY_COMMIT (R400): once the head is found, or from the engine's count while PORST_N is low. -/
def execCaddyCommit (s : State) : Host.Outcome State Fault Refusal :=
  .next (if s.caddy.buf ≠ [] ∧ (s.flag ⟨.cadStat, 0, 0⟩ 31 || decide (s.phase = .inReset)) = true then
    s.caddyLease State.commitOne
  else s)

/-- The SEQ that follows the ring's head; the first record's is 0 (log entry 23). -/
def NvSt.seqNext (nv : NvSt) : Nat := ((nv.ring.head?.map fun r => (r.seq + 1) % 2 ^ 32)).getD 0

/-- CADDY_HEAD_FOUND (R399). -/
def execCaddyHeadFound (s : State) : Host.Outcome State Fault Refusal :=
  .next (if s.phase ≠ .inReset ∧ s.flag ⟨.cadStat, 0, 0⟩ 31 = false then
    let s := s.setFlag ⟨.cadStat, 0, 0⟩ 31 true
    { s with caddy := { s.caddy with nextSeq := s.nv.seqNext } }
  else s)

/-- DROOP_TRIP (R400): the engine flushes its buffer from VCC_AON. -/
def execDroopTrip (s : State) : Host.Outcome State Fault Refusal := .next s.flushCaddy

/-! ### Reading records (R402) -/

/-- The record that CAD_SEL value n selects in window w: a tenant counts its own domain's only. -/
def State.selRecord (s : State) (w n : Nat) : Option CadRec :=
  if w = 0 then s.nv.ring[n]? else (s.nv.ring.filter fun r => r.dom == windowDom w)[n]?

/-- A write of CAD_SEL in window w loads CAD_REC; with no such record VALID reads 0 and CAD_REC stays (log entry
23). -/
def State.writeCadSel (s : State) (w : Nat) (v : Word) : State :=
  let s := s.plainWrite ⟨.cadSel, w, 0⟩ v
  match s.selRecord w (s.fld ⟨.cadSel, w, 0⟩ 19 0) with
  | some r =>
    let b := recBytes r true
    (List.range 16).foldl (fun (s : State) j => s.setReg ⟨.cadRec, w, j⟩ (wordOf (slice b (4 * j) 4)))
      (s.setFields ⟨.cadSelstat, w, 0⟩ [(31, 30, 2)])
  | none => s.setFields ⟨.cadSelstat, w, 0⟩ [(31, 30, 0)]

/-- CAD_SEL_WRITE (R402). -/
def execCadSelWrite (m : Nat) (v : Word) (s : State) : Host.Outcome State Fault Refusal :=
  s.writeCommand m ⟨.cadSel, s.winOfMaster m, 0⟩ v fun s => s.writeCadSel (s.winOfMaster m) v

end Sys2Proof.Machine
end

