-- ==== Sys2Proof/Machine/Inject.lean ====
section
/-! DEFINITION. Fault injection (R401): STR_INJ acts in factory test mode under a Plyngen-keyed session only. -/

namespace Sys2Proof.Machine

/-- SEL and ARG of STR_INJ. -/
def injSel (v : Word) : Nat := bits v 23 16
def injArg (v : Word) : Nat := bits v 15 0

/-- The domain that owns what a source reports on; 0x01 for the rest (R385). -/
def State.sourceDom (s : State) (n : Nat) : Nat :=
  if inRange 0x100 0x1BF n then s.cupDom (n - 0x100)
  else if inRange 0x280 0x2BF n then s.fld ⟨.colCfg, n - 0x280, 0⟩ 7 0
  else if inRange 0x780 0x7CF n then (s.range (n - 0x780)).owner
  else if inRange 0x800 0x80F n then s.coreDom (n - 0x800)
  else 0x01

/-- KIND 0001: an event from source ARG. -/
def State.injEvent (s : State) (n : Nat) : State :=
  if sourceExists n then s.injected true fun s => s.raiseEvent n 0 [s.sourceDom n] [] else s

/-- KIND 0010: bit ARG[4:0] of word STR_INJ_WORD.WORD of the active plane of cup SEL stands flipped. -/
def State.injConfig (s : State) (c arg : Nat) : State :=
  let w := s.fld ⟨.strInjWord, 0, 0⟩ 19 0
  if c < 192 ∧ w < 787600 then
    let x := s.cup c
    let k := (if x.bank then 787600 else 0) + w
    let e := BitVec.ofNat 32 (2 ^ (arg % 32))
    (s.setCup c { (x.setActive (nput x.active w (x.active.at w ^^^ e) 0)) with
      cfgErr := nput x.cfgErr k (nget x.cfgErr k 0 ^^^ e) 0 }).followLatches
  else s

/-- KIND 0011: ARG byte errors, 1 to 5, in the next line stored in stack SEL. -/
def State.injBytes (s : State) (st n : Nat) : State :=
  if st < 8 ∧ 1 ≤ n ∧ n ≤ 5 then s.modStk st fun x => { x with injBytes := n } else s

/-- KIND 0100: a wrong tag with clean check bytes in that line. -/
def State.injTag (s : State) (st : Nat) : State :=
  if st < 8 then s.modStk st fun x => { x with injTag := true } else s

/-- KIND 0101: a flit error of ARG bits, 1 or 2, at router SEL: the next flit that crosses it takes the error. -/
def State.injFlit (s : State) (k n : Nat) : State :=
  if k < 240 ∧ (n = 1 ∨ n = 2) then { s with flitInj := nset s.flitInj k n } else s

/-- KIND 0110: an error burst of ARG symbols at the receiver of lane SEL. -/
def State.injBurst (s : State) (l n : Nat) : State :=
  if l < 256 then s.modLane l fun x => { x with burst := n } else s

/-- KIND 0111: the Strainer's duplicated registers compare unequal (R391). -/
def State.injCompare (s : State) : State := s.injected true fun s => s.enterSafe 0x000 0x0501 [] false

/-- What one GO does by KIND; reserved kinds do nothing. -/
def State.injectFault (s : State) (v : Word) : State :=
  match bits v 27 24 with
  | 1 => s.injEvent (injArg v)
  | 2 => s.injConfig (injSel v) (injArg v)
  | 3 => s.injBytes (injSel v) (injArg v)
  | 4 => s.injTag (injSel v)
  | 5 => s.injFlit (injSel v) (injArg v)
  | 6 => s.injBurst (injSel v) (injArg v)
  | 7 => s.injCompare
  | _ => s

/-- A write of STR_INJ; GO reads zero once the injection has acted. -/
def State.writeInj (s : State) (v : Word) : State :=
  if !s.injectOn then s
  else
    let s := s.plainWrite ⟨.strInj, 0, 0⟩ (putBits v 31 31 0)
    if bit v 31 then s.injectFault v else s

/-- A write of STR_INJ_WORD. -/
def State.writeInjWord (s : State) (v : Word) : State :=
  if s.injectOn then s.plainWrite ⟨.strInjWord, 0, 0⟩ v else s

/-- A write of STR_INJ with GO and a KIND. -/
def injWord (kind : Nat) (v : Word) : Word := putBits (putBits v 31 31 1) 27 24 kind

/-- INJECT_EVENT (R401). -/
def execInjectEvent (m : Nat) (v : Word) (s : State) : Host.Outcome State Fault Refusal :=
  s.writeCommand m ⟨.strInj, 0, 0⟩ (injWord 1 v) fun s => s.writeInj (injWord 1 v)

/-- INJECT_CONFIG_BIT (R401). -/
def execInjectConfigBit (m : Nat) (v : Word) (s : State) : Host.Outcome State Fault Refusal :=
  s.writeCommand m ⟨.strInj, 0, 0⟩ (injWord 2 v) fun s => s.writeInj (injWord 2 v)

/-- INJECT_LINE_BYTES (R401). -/
def execInjectLineBytes (m : Nat) (v : Word) (s : State) : Host.Outcome State Fault Refusal :=
  s.writeCommand m ⟨.strInj, 0, 0⟩ (injWord 3 v) fun s => s.writeInj (injWord 3 v)

/-- INJECT_WRONG_TAG (R401). -/
def execInjectWrongTag (m : Nat) (v : Word) (s : State) : Host.Outcome State Fault Refusal :=
  s.writeCommand m ⟨.strInj, 0, 0⟩ (injWord 4 v) fun s => s.writeInj (injWord 4 v)

/-- INJECT_FLIT_ERROR (R401). -/
def execInjectFlitError (m : Nat) (v : Word) (s : State) : Host.Outcome State Fault Refusal :=
  s.writeCommand m ⟨.strInj, 0, 0⟩ (injWord 5 v) fun s => s.writeInj (injWord 5 v)

/-- INJECT_LANE_BURST (R401). -/
def execInjectLaneBurst (m : Nat) (v : Word) (s : State) : Host.Outcome State Fault Refusal :=
  s.writeCommand m ⟨.strInj, 0, 0⟩ (injWord 6 v) fun s => s.writeInj (injWord 6 v)

/-- INJECT_COMPARE_MISMATCH (R401). -/
def execInjectCompareMismatch (m : Nat) (v : Word) (s : State) : Host.Outcome State Fault Refusal :=
  s.writeCommand m ⟨.strInj, 0, 0⟩ (injWord 7 v) fun s => s.writeInj (injWord 7 v)

end Sys2Proof.Machine
end

