-- ==== Sys2Proof/Machine/Leaf.lean ====
section
/-! DEFINITION. Leaf dies in service: dividers (R76, R78), Colrek groups (R85, R86), and retirement (R24, R81). -/

namespace Sys2Proof.Machine

/-! ### Dividers (R76, R78) -/

/-- A cup of the leaf in RUN selects divider n on a running line of its active plane. -/
def State.dividerUsed (s : State) (p n : Nat) : Bool :=
  (s.cupsOfLeaf p).any fun c =>
    s.cupState c == 2 && (s.cup c).active.lines.any fun l => (s.cup c).active.lineDiv l == n

/-- A write of LEAF_DIV[n] of leaf p (R78, R89). -/
def State.writeDiv (s : State) (p n : Nat) (v : Word) : State :=
  if s.dividerUsed p n then s.setFlag ⟨.leafStatus, p, 0⟩ 8 true
  else
    let s := s.plainWrite ⟨.leafDiv, p, n⟩ v
    if inRange 4 255 (bits v 7 0) then s.modLeaf p fun x => { x with divPend := nset x.divPend n (bits v 7 0 + 1) } else s

/-- LEAF_DIV_WRITE (R78). -/
def execLeafDivWrite (m : Nat) (p : Fin 52) (n : Fin 16) (v : Word) (s : State) : Host.Outcome State Fault Refusal :=
  s.writeCommand m ⟨.leafDiv, p.val, n.val⟩ v fun s => s.writeDiv p.val n.val v

/-- DIVIDER_CHANGE_EFFECT (R78): at a root cycle that is a multiple of the new value. -/
def execDividerChangeEffect (p : Fin 52) (n : Fin 16) (s : State) : Host.Outcome State Fault Refusal :=
  s.whenLive fun s =>
    match look (s.leaf p.val).divPend n.val with
    | some d =>
      if s.root % d = 0 then
        s.modLeaf p.val fun x => { x with divNow := nput x.divNow n.val d 5, divPend := erase x.divPend n.val }
      else s
    | none => s

/-! ### Retirement (R24, R81, R84) -/

/-- A cup whose die is retired: OFF, its state lost, its loads, readbacks and held accesses ended, its event raised. -/
def State.retireCup (s : State) (c : Nat) : State :=
  let s := s.leaseDropRes (fun r => r == .cup c)
  let s := (s.setFld ⟨.cupState, c, 0⟩ 9 8 0).cupOff c
  let s := { s with urn := { s.urn with deferred := s.urn.deferred.filter fun e => e.1 != c } }
  let s := (s.modCup c fun x => { x with loadJob := none, rbJob := none, brdPend := [] }).modLoads c
    fun l => l.filter (· != c)
  let s := { s with heldWrites := s.heldWrites.filter fun e => writeCup e.2 != some c }
  let held := s.stalls.filter fun e => qCup e.q == some c
  let s := held.foldl (fun (s : State) e => s.respond e.mid e.tag .retired)
    { s with stalls := s.stalls.filter fun e => qCup e.q != some c }
  s.raiseEvent (0x100 + c) 3 [s.cupDom c] [BitVec.ofNat 8 c]

/-- Segments that face a cup take CLAMP0 (R81). -/
def State.clampAround (s : State) (c : Nat) : State :=
  (List.range 4).foldl
    (fun (s : State) sd => s.clampFacing c sd (List.range 10)) s

/-- A leaf die is retired in service; `tick` is that of the first retrain counted (R398). -/
def State.retireLeaf (s : State) (p tick : Nat) : State :=
  let cups := s.cupsOfLeaf p
  let s := match (List.range 48).find? fun n => s.fld ⟨.trayLmap, n, 0⟩ 5 0 == p with
    | some n => s.setFlag ⟨.trayLmap, n, 0⟩ 8 true
    | none => s
  let s := s.setFld ⟨.trayPhealth, p, 0⟩ 1 0 3
  let s := s.retireEvent (0x200 + p) 1 p tick [0x01]
  let s := cups.foldl (fun (s : State) c => s.clampAround c) s
  let s := cups.foldl (fun (s : State) c => s.retireCup c) s
  let s := cups.foldl (fun (s : State) c => match s.cupRouter c with
    | some k => s.producerRetired k 0
    | none => s) s
  let s := s.leaseDropRes (fun r => r == .leaf p)
  ({ s with nv := { s.nv with retiredEver := s.nv.retiredEver ++ (if s.nv.retiredEver.contains p then [] else [p]) } }).healthRecord

/-! ### Colrek groups (R85, R86) -/

/-- STATE of a group: 0 trained, 1 retraining, 2 repaired, 3 retired. -/
def State.crkState (s : State) (p g : Nat) : Nat := s.fld ⟨.leafCrkGstat, p, g⟩ 1 0

/-- What the receiver of a die-crossing group has on the wires that the group may carry: the second crossing stages of
the leaf's own cups for a group towards the tray, and what the tray has of the facing cups' for one towards the leaf. -/
def State.crossNow (s : State) (p g : Nat) : List (Nat × Bool) :=
  let sd := g % 16 / 4
  (s.cupsOfLeaf p).flatMap fun c =>
    match cupAcross c sd with
    | some (r, true) =>
      let (src, side) := if g < 16 then (c, sd) else (r, (sd + 2) % 4)
      ((List.range 640).map fun i =>
        let key := 640 * side + i
        (2560 * (c % 4) + key,
          if g < 16 then nget (s.cup src).fab.cross2 key false else s.crossSent (s.cup src).fab src side key)).filter (·.2)
    | _ => []

/-- What the receiver of a cup-port group has on the wires of the taps that the group may carry (R85). -/
def State.portNow (s : State) (p g : Nat) : List (Nat × Bool) :=
  let toLeaf := decide (104 ≤ g)
  let m := (g - (if toLeaf then 104 else 32)) / 18
  ((s.cupsOfLeaf p).filter fun c => c % 4 == m).flatMap fun c =>
    let pl := (s.cup c).active
    pl.allTaps.flatMap fun b => (List.range 4).flatMap fun sd =>
      (List.range (if sd = 0 ∨ sd = 2 then 16 else 32)).map fun i =>
        (32768 * c + tapWire b sd i,
          if toLeaf then tapPin pl (s.cup c).fab b sd i else (s.bramPins c b sd).testBit i)

/-- A group begins to retrain; what it carries is held. -/
def State.crkBegin (s : State) (p g : Nat) : State :=
  if s.crkState p g = 0 ∨ s.crkState p g = 2 then
    let held := if g < 32 then s.crossNow p g else if g < 176 then s.portNow p g else []
    (s.setFld ⟨.leafCrkGstat, p, g⟩ 1 0 1).modLeaf p fun x =>
      { x with crcAt := erase x.crcAt g, gapStart := nset x.gapStart g s.tick, gapHeld := nput x.gapHeld g held [] }
  else s

/-- COLREK_CRC_MISMATCH (R86): the second within 1 ms retrains. -/
def execColrekCrcMismatch (p : Fin 52) (g : Fin 178) (s : State) : Host.Outcome State Fault Refusal :=
  s.whenServing fun s =>
    match look (s.leaf p.val).crcAt g.val with
    | some t =>
      if s.tick < t + msTicks 1 then s.crkBegin p.val g.val
      else s.modLeaf p.val fun x => { x with crcAt := nset x.crcAt g.val s.tick }
    | none => s.modLeaf p.val fun x => { x with crcAt := nset x.crcAt g.val s.tick }

/-- COLREK_LOCK_LOSS (R86). -/
def execColrekLockLoss (p : Fin 52) (g : Fin 178) (s : State) : Host.Outcome State Fault Refusal :=
  s.whenServing fun s => s.crkBegin p.val g.val

/-- The cups that a group's retrain affects: those on the receiving side of its edge or quadrant (R85, R86; log entry
112). -/
def State.crkCups (s : State) (p g : Nat) : List Nat :=
  let own := s.cupsOfLeaf p
  let onSide (sd : Nat) : List Nat := own.filter fun c => (dieSides (c % 4)).contains sd
  if g < 16 then (onSide (g / 4)).filterMap fun c => (cupAcross c (g / 4)).map (·.1)
  else if g < 32 then onSide (g % 16 / 4)
  else if g < 104 then own.filter fun c => c % 4 == (g - 32) / 18
  else if g < 176 then own.filter fun c => c % 4 == (g - 104) / 18
  else []

/-- A retrain ends: the crossing gap of each affected cup is recorded with its start and end ticks. -/
def State.crkEnd (s : State) (p g st : Nat) : State :=
  let start := nget (s.leaf p).gapStart g s.tick
  let s := (s.crkCups p g).foldl
    (fun (s : State) c => s.raiseEvent (0x100 + c) 4 [s.cupDom c]
      ([BitVec.ofNat 8 c] ++ leBytes 8 start ++ leBytes 8 s.tick)) s
  ((s.setFld ⟨.leafCrkGstat, p, g⟩ 1 0 st).modLeaf p fun x =>
    { x with gapStart := erase x.gapStart g, gapHeld := erase x.gapHeld g }).followLatches

/-- A group that spares cannot mend is retired, and its leaf die with it. -/
def State.crkRetire (s : State) (p g : Nat) : State :=
  let first := (nget (s.leaf p).retrains g []).headD s.tick
  let s := (s.crkEnd p g 3).retireEvent (0x200 + p) 2 (g + 256 * p) first [0x01]
  s.retireLeaf p first

/-- The per-lane test of a group over budget: spares replace up to 2 lanes in all, or the group is retired. -/
def State.crkRepair (s : State) (p g : Nat) (failing : List Nat) (holds : Bool) : State :=
  let k : RegKey := ⟨.leafCrkGstat, p, g⟩
  let used := nget (s.leaf p).spared g 0
  if used + failing.length ≤ 2 ∧ holds = true then
    let put (w : State × Nat) (l : Nat) : State × Nat :=
      (if w.2 = 0 then w.1.setFld k 23 16 l else w.1.setFld k 31 24 l, w.2 + 1)
    let s := (failing.foldl put (s, used)).1
    let s := s.modLeaf p fun x =>
      { x with spared := nput x.spared g (used + failing.length) 0, retrains := nput x.retrains g [] [] }
    s.raiseEvent (0x200 + p) 5 [0x01]
      (leBytes 2 (g + 256 * p) ++ [BitVec.ofNat 8 (failing.getD 0 0xFF), BitVec.ofNat 8 (failing.getD 1 0xFF)]) (some 0x0401)
  else s.crkRetire p g

/-- COLREK_RETRAIN (R86): 3 retrains in any 1 s; a fourth runs the per-lane test.  One that began about a reference-loss
stop does not count (R393). -/
def execColrekRetrain (p : Fin 52) (g : Fin 178) (failing : List (Fin 32)) (holds : Bool) (s : State) :
    Host.Outcome State Fault Refusal :=
  s.whenServing fun s =>
    if s.crkState p.val g.val = 1 ∧ s.afterStopAt (nget (s.leaf p.val).gapStart g.val s.tick) = false then
      let past := (nget (s.leaf p.val).retrains g.val []).filter fun t => s.tick < t + msTicks 1000
      let s := s.modLeaf p.val fun x => { x with retrains := nput x.retrains g.val (past ++ [s.tick]) [] }
      if past.length < 3 then s else s.crkRepair p.val g.val (failing.dedup.map (·.val)) holds
    else s

/-- COLREK_RETRAIN_DONE (R86). -/
def execColrekRetrainDone (p : Fin 52) (g : Fin 178) (s : State) : Host.Outcome State Fault Refusal :=
  s.whenServing fun s =>
    if s.crkState p.val g.val = 1 then
      s.crkEnd p.val g.val (if nget (s.leaf p.val).spared g.val 0 = 0 then 0 else 2)
    else s

end Sys2Proof.Machine
end

