-- ==== Sys2Proof/Machine/Ports.lean ====
section
/-! DEFINITION. Stream ports of cups (R95, R96, R142) and the end of a clear at flip (R117).  The handshakes at clock
edges stand in Machine/CupPort.lean. -/

namespace Sys2Proof.Machine

/-- The register of stream-in port n, or of stream-out port n. -/
def bindKey (c n : Nat) (out : Bool) : RegKey := ⟨if out then .cupSout else .cupSin, c, n⟩

/-- A tenant's write names a stream of another domain (R142). -/
def State.bindDenied (s : State) (m : Nat) (v : Word) : Bool :=
  match s.midDomain m with
  | some d => (tenantOf d).isSome && s.fld ⟨.traySent, bits v 13 0, 0⟩ 7 0 != d
  | none => true

/-- STREAM_PORT_BIND_WRITE (R142). -/
def execStreamPortBindWrite (m : Nat) (c : Fin 192) (out : Bool) (n : Fin 4) (v : Word) (s : State) :
    Host.Outcome State Fault Refusal :=
  let k := bindKey c.val n.val out
  s.writeUnless m k v (s.bindDenied m v) fun s => s.plainWrite k v

/-- Bytes a stream-in port's buffer holds. -/
def SinSt.used (x : SinSt) : Nat := (x.pkts.map List.length).sum

/-- A stream-in port discards a packet, and shows a gap before the next (R96). -/
def State.sinDrop (s : State) (c n : Nat) : State :=
  (s.countUp ⟨.cupSin, c, n⟩ 29 14).modCup c fun x =>
    { x with sin := nput x.sin n { nget x.sin n {} with gap := true } {} }

/-- A stream-in port takes a packet of its stream: stored if it fits whole in 32 KiB, else discarded and counted (R96). -/
def State.sinTake (s : State) (c n : Nat) (data : List Byte) : State :=
  let x := s.cup c
  let p := nget x.sin n {}
  if s.cupState c = 2 ∧ x.active.bound (1 + n) = true ∧ s.flag ⟨.cupSin, c, n⟩ 31 = true ∧
      p.used + data.length ≤ 32768 then
    s.setCup c { x with sin := nput x.sin n { p with pkts := p.pkts ++ [data] } {} }
  else s.sinDrop c n

/-- STREAM_IN_PACKET (R96, R138, R150, R155): a packet with a damaged flit is discarded. -/
def execStreamInPacket (c : Fin 192) (n : Fin 4) (stream : Fin 16384) (data : RxPacket) (s : State) :
    Host.Outcome State Fault Refusal :=
  s.whenServing fun s =>
    match s.cupRouter c.val with
    | some k =>
      if s.fld ⟨.cupSin, c.val, n.val⟩ 13 0 = stream.val ∧ s.ownStream c.val stream.val = true ∧
          ((s.stream stream.val).dstAt k 0).isSome = true ∧ s.cupGone c.val = false then
        match data.bad with
        | some r => (s.flitError r.val).sinDrop c.val n.val
        | none => (s.streamArrive stream.val k 0).sinTake c.val n.val data.bytes
      else s
    | none => s

/-- A stream-out port holds a packet's EOP beat: the packet goes onto its stream, or is discarded and counted (R96,
R147, R150).  It discards nothing for want of slots, since READY holds its beats back, so it never declares DEGRADED
(R363). -/
def State.soutSend (s : State) (c n : Nat) (data : List Byte) : State :=
  let k : RegKey := ⟨.cupSout, c, n⟩
  let stream := s.fld k 13 0
  match s.cupRouter c with
  | some r =>
    if s.flag k 31 && s.ownStream c stream then
      match s.inject stream r 0 (.sout c n) data with
      | (t, true) => t
      | (t, false) => t.countUp k 29 14
    else s.countUp k 29 14
  | none => s

/-- Bytes that stream-out port n holds: its open packet, and what waits for slots (R96, R148). -/
def State.soutUsed (s : State) (c n : Nat) : Nat :=
  (nget (s.cup c).sout n []).length + s.bytesHeld fun w => w.owner == .sout c n

/-- Stream-out port n has room for so many bytes (R96); a disabled port discards and always has. -/
def State.soutRoom (s : State) (c n len : Nat) : Bool :=
  !s.flag ⟨.cupSout, c, n⟩ 31 || decide (s.soutUsed c n + len ≤ 32768)

/-- STREAM_OUT_PACKET (R96): a packet whose beats the buffer has no room for is not accepted. -/
def execStreamOutPacket (c : Fin 192) (n : Fin 4) (data : List Byte) (s : State) :
    Host.Outcome State Fault Refusal :=
  s.whenServing fun s =>
    if s.portActs c.val (5 + n.val) && s.soutRoom c.val n.val data.length then s.soutSend c.val n.val data else s

/-- A clear at flip ends: the block holds zeros, which count as written. -/
def State.clearBlock (s : State) (c b : Nat) : State :=
  s.modCup c fun x =>
    let keep (k : Nat) : Bool := k / 2048 != b
    let bram := x.fab.bram.filter (fun e => keep e.1)
    let bramErr := x.fab.bramErr.filter (fun e => keep e.1)
    { x with clearing := erase x.clearing b, fab := { x.fab with bram, bramErr } }

/-- CLEAR_AT_FLIP_DONE (R117): after 256 edges of the block's CLK_A line. -/
def execClearAtFlipDone (c : Fin 192) (blk : Fin 200) (s : State) : Host.Outcome State Fault Refusal :=
  s.whenServing fun s => if look (s.cup c.val).clearing blk.val = some 0 then s.clearBlock c.val blk.val else s

end Sys2Proof.Machine
end

