-- ==== Sys2Proof/Machine/Raw.lean ====
section
/-! DEFINITION. RAW role (R224 to R226): received words into stream packets, transmit underruns, and slips. -/

namespace Sys2Proof.Machine

/-- A receive packet of lane l (R225): the prefix, whose byte 9 is the lane and whose frame length the spec does not give
for words (log entry 2), and the words. -/
def State.rawPacket (s : State) (l t0 frac : Nat) (data : List Byte) : List Byte :=
  leBytes 8 t0 ++ [BitVec.ofNat 8 frac, BitVec.ofNat 8 l] ++ leBytes 2 (Config.freeNat s.freeCtr) ++ [0, 0, 0, 0] ++ data

/-- A receive packet goes onto the lane's stream.  One longer than R147 allows, without a tree, or for which the buffer has
no room, is discarded and counted in RX_TOOLONG, RX_NOTREE or RX_OVERRUN of the counters that bear the lane's number in
its quad (R150; the spec names no counter of RAW role: DESIGN CHOICE, log entry 91); want of room makes a coasting device
declare DEGRADED (R363). -/
def State.rawEmit (s : State) (l t0 frac : Nat) (data : List Byte) : State :=
  let stream := s.fld ⟨.rawCtl, l, 0⟩ 13 0
  let (k, p) := quadRouter (l / 4)
  let pkt := s.rawPacket l t0 frac data
  if !s.quadRoom stream pkt.length then (s.draw.portCount (l / 4) (l % 4) 3).coastDiscard stream
  else match s.draw.inject stream k p (.port (l / 4) (l % 4)) pkt with
  | (t, true) => t
  | (t, false) => t.portCount (l / 4) (l % 4) (if 9216 < pkt.length then 4 else 5)

/-- RAW_RX_PACKET (R225): PKT words have been received. -/
def execRawRxPacket (q : Fin 64) (j : Fin 4) (t0 : Nat) (frac : Fin 8) (data : List Byte) (s : State) :
    Host.Outcome State Fault Refusal :=
  s.whenServing fun s =>
    let l := 4 * q.val + j.val
    if s.quadRole q.val = 4 ∧ s.flag ⟨.rawCtl, l, 0⟩ 30 = true ∧ s.laneState l = 0 ∧ s.los l = false ∧ t0 ≤ s.tick ∧
        data.length = s.fld ⟨.rawCtl, l, 0⟩ 28 16 * s.rawBytes q.val then
      s.rawEmit l t0 frac.val data
    else s

/-- RAW_TX_UNDERRUN (R225): the buffer is empty at a word time; RAW_IDLE leaves in each 32-bit half of a word. -/
def execRawTxUnderrun (q : Fin 64) (j : Fin 4) (s : State) : Host.Outcome State Fault Refusal :=
  s.whenServing fun s =>
    let l := 4 * q.val + j.val
    if s.quadRole q.val = 4 ∧ s.flag ⟨.rawCtl, l, 0⟩ 29 = true ∧ s.laneState l = 0 ∧ s.txWaiting l = 0 then
      (s.countUp ⟨.lnStat, l, 0⟩ 15 8).log (.raw l ((List.replicate (s.rawBytes q.val / 4) (wordBytes (s.reg ⟨.rawIdle, l, 0⟩))).flatten))
    else s

/-- A write of RAW_CTL: while SLIP reads 1 it is ignored (R226). -/
def State.writeRawCtl (s : State) (l : Nat) (v : Word) : State :=
  if s.flag ⟨.rawCtl, l, 0⟩ 31 then s else s.plainWrite ⟨.rawCtl, l, 0⟩ v

/-- SLIP (R226): a write of RAW_CTL. -/
def execSlip (m : Nat) (q : Fin 64) (j : Fin 4) (v : Word) (s : State) : Host.Outcome State Fault Refusal :=
  s.writeCommand m ⟨.rawCtl, 4 * q.val + j.val, 0⟩ v fun s => s.writeRawCtl (4 * q.val + j.val) v

/-- SLIP_DONE (R226): the receive word boundary lies one bit later. -/
def execSlipDone (q : Fin 64) (j : Fin 4) (s : State) : Host.Outcome State Fault Refusal :=
  s.whenServing fun s =>
    let l := 4 * q.val + j.val
    if s.flag ⟨.rawCtl, l, 0⟩ 31 then
      (s.setFlag ⟨.rawCtl, l, 0⟩ 31 false).modLane l fun x =>
        { x with slips := (x.slips + 1) % (8 * s.rawBytes q.val) }
    else s

end Sys2Proof.Machine
end

