-- ==== Sys2Proof/Machine/Hce.lean ====
section
/-! DEFINITION. The hash and cipher engine (R318 to R323, R325): jobs, chunks, the two service modes, and contexts. -/

namespace Sys2Proof.Machine

/-! ### Descriptors (R319) -/

/-- Operands of a descriptor. -/
def hceOp (d : List Byte) : Nat := numAt d 0 1
def hceKlen (d : List Byte) : Nat := numAt d 1 1
def hceLen (d : List Byte) : Nat := numAt d 4 4

/-- A descriptor is in order: a listed OP, the KLEN it takes, and zeros in its other bytes. -/
def hceOk (d : List Byte) : Bool :=
  (match hceOp d with
    | 0x03 | 0x04 => inRange 1 64 (hceKlen d)
    | 0x01 | 0x02 | 0x10 | 0x11 | 0x12 => hceKlen d == 0
    | _ => false) && allZero (slice d 2 2) && allZero (slice d 44 20)

/-- Chunks of a job: 65,536 bytes each, at least one (R320). -/
def hceChunks (d : List Byte) : Nat := max 1 (ceilDiv (hceLen d) 65536)

/-- Reads HBM for a job, or gives the CODE that ends it: 1 DENIED, 2 where the bytes cannot be had. -/
def State.hceRead (s : State) (dom a len : Nat) : State × Except Nat (List Byte) :=
  (pieces a len).foldl
    (fun (e : State × Except Nat (List Byte)) p =>
      match e.2 with
      | .ok acc =>
        match e.1.hbmRead dom p.1 p.2 0 true with
        | (s, .ok b) => (s, .ok (acc ++ b))
        | (s, .code .denied) => (s, .error 1)
        | (s, _) => (s, .error 2)
      | .error _ => e) (s, .ok [])

/-- Writes HBM for a job: its CODE, 0 where all is written. -/
def State.hceWrite (s : State) (dom a : Nat) (data : List Byte) : State × Nat :=
  (pieces a data.length).foldl
    (fun (e : State × Nat) p =>
      if e.2 = 0 then
        match e.1.hbmWrite dom p.1 (slice data (p.1 - a) p.2) true with
        | (s, .ok _) => (s, 0)
        | (s, .code .denied) => (s, 1)
        | (s, _) => (s, 2)
      else e) (s, 0)

/-- The bytes that a job writes at DST, and whether its tag matches, from its key block, additional data and message;
`tag` is what stands at SRC + LEN (R319). -/
def hceResult (d key aad msg tag : List Byte) : List Byte × Bool :=
  let aes := BitVec.ofNat 256 (numAt key 0 32)
  let iv := slice key 32 16
  match hceOp d with
  | 0x01 => (leBytes 32 (sha256 msg).toNat, true)
  | 0x02 => (digestBytes (sha384 msg), true)
  | 0x03 => (hmac false (key.take (hceKlen d)) msg, true)
  | 0x04 => (hmac true (key.take (hceKlen d)) msg, true)
  | 0x10 => (aesCtr aes iv msg, true)
  | 0x11 => let r := gcmSeal aes iv aad msg
    (r.1 ++ r.2, true)
  | _ => gcmOpen aes iv aad msg tag

/-- The work of a job under its domain, done as its last chunk ends: the state and its CODE. -/
def State.hceRun (s : State) (dom : Nat) (d : List Byte) : State × Nat :=
  let op := hceOp d
  let klen := if op = 0x03 ∨ op = 0x04 then hceKlen d else if 0x10 ≤ op then 48 else 0
  match s.hceRead dom (numAt d 24 8) klen with
  | (s, .error c) => (s, c)
  | (s, .ok key) =>
    match s.hceRead dom (numAt d 32 8) (if 0x11 ≤ op then numAt d 40 4 else 0) with
    | (s, .error c) => (s, c)
    | (s, .ok aad) =>
      match s.hceRead dom (numAt d 8 8) (hceLen d + if op = 0x12 then 16 else 0) with
      | (s, .error c) => (s, c)
      | (s, .ok src) =>
        let r := hceResult d key aad (src.take (hceLen d)) (src.drop (hceLen d))
        match s.hceWrite dom (numAt d 16 8) r.1 with
        | (s, 0) => (s, if r.2 then 0 else 3)
        | (s, c) => (s, c)

/-! ### Contexts and service (R320 to R322) -/

/-- The domain of a context; context 0 is the Kettle's. -/
def State.hceDom (s : State) (i : Nat) : Nat := if i = 0 then 0x00 else s.fld ⟨.hceCtx, i, 0⟩ 7 0

/-- A job ends with CODE; a tenant's DENIED waits for its latency (R415). -/
def State.hceEnd (s : State) (i code : Nat) : State :=
  let d := ((look s.hceJobs i).map (·.dom)).getD (s.hceDom i)
  let s := { s with hceJobs := erase s.hceJobs i }
  let k : RegKey := ⟨.hceStat, i, 0⟩
  let go : RegKey := ⟨.hceCmd, i, 0⟩
  let fs := [(31, 30, if code = 0 then 2 else 3), (27, 24, code)]
  if code = 1 ∧ (tenantOf d).isSome = true then
    s.hold (domMid d) 0 kettleLatency (.status [(k, fs), (go, [(31, 31, 0)])])
  else (s.setFields k fs).setFlag go 31 false

/-- MODE in force: a written one waits for its slot (R322). -/
def State.hceFixed (s : State) : Bool :=
  match s.hceMode with
  | some b => !b
  | none => s.flag ⟨.hceCtl, 0, 0⟩ 0

/-- The present slot (R322). -/
def State.hceSlotNow (s : State) : Nat := s.tick / 16384

/-- A context has a job that waits for a pipeline; one whose descriptor is still to be read does not. -/
def State.hceReady (s : State) (i : Nat) : Bool :=
  (look s.hceJobs i).any (fun j => !j.finished && !j.desc.isEmpty) && !(s.hcePipe.any fun e => e.2 % 8 == i)

/-- A job's accesses at its end: address and length of its key block, additional data, message and result (R319). -/
def hceExtents (d : List Byte) : List (Nat × Nat) :=
  let op := hceOp d
  let tag := if op = 0x11 then 16 else 0
  [(numAt d 24 8, if op = 0x03 ∨ op = 0x04 then hceKlen d else if 0x10 ≤ op then 48 else 0),
   (numAt d 32 8, if 0x11 ≤ op then numAt d 40 4 else 0),
   (numAt d 8 8, hceLen d + if op = 0x12 then 16 else 0),
   (numAt d 16 8, if op < 0x10 then (if op = 0x02 ∨ op = 0x04 then 48 else 32) else hceLen d + tag)]

/-- A job's last chunk waits for a training stage (R256). -/
def State.hceWaits (s : State) (j : HceJob) : Bool :=
  !j.stop && j.left ≤ 1 && (hceExtents j.desc).any fun e => s.agentWaits bulkClass j.dom e.1 e.2

/-- Chunks a domain has left in the round (R321). -/
def State.hceAllowance (s : State) (d : Nat) : Nat := nget s.hceLeft (slotOf d) 0

/-- A new round: each domain with a ready context has its weight (R321). -/
def State.hceRound (s : State) : State :=
  let doms := (((List.range 8).filter s.hceReady).map s.hceDom).dedup
  let left := doms.foldl
    (fun (l : List (Nat × Nat)) d => nput l (slotOf d) (s.fld ⟨.hceWrr, slotOf d, 0⟩ 3 0) 0) []
  { s with hceLeft := left }

/-- The next ready context of the round after the one served last, if a domain has chunks left. -/
def State.hcePick (s : State) : Option Nat :=
  ((List.range 8).map fun k => (s.hceLast + 1 + k) % 8).find? fun i => s.hceReady i && s.hceAllowance (s.hceDom i) != 0

/-- A pipeline begins a chunk of a context. -/
def State.hceBegin (s : State) (pipe i : Nat) : State := { s with hcePipe := nset s.hcePipe pipe i }

/-- A free pipeline serves the round (R321). -/
def State.hceServeRound (s : State) (pipe : Nat) : State :=
  let s := if s.hcePick.isSome then s else s.hceRound
  match s.hcePick with
  | some i =>
    let d := slotOf (s.hceDom i)
    ({ s with hceLast := i, hceLeft := nput s.hceLeft d (nget s.hceLeft d 0 - 1) 0 }).hceBegin pipe i
  | none => s

/-- A free pipeline takes its next context; with MODE 1, pipelines 1 to 7 only as a slot begins, and
none in a slot that 0xFF leaves idle. -/
def State.hceServe (s : State) (pipe : Nat) (slotBegins : Bool) : State :=
  if (look s.hcePipe pipe).isSome then s
  else if pipe = 0 ∧ s.hceReady 0 = true then s.hceBegin 0 0
  else if s.hceFixed then
    if pipe = 0 ∨ slotBegins = false then s
    else
      let d := s.fld ⟨.hceSlot, s.hceSlotNow % 16, 0⟩ 7 0
      match (List.range 8).find? fun i => 1 ≤ i && d != 0xFF && s.hceDom i == d && s.hceReady i with
      | some i => s.hceBegin pipe i
      | none => s
  else s.hceServeRound pipe

/-- Every free pipeline takes its next context. -/
def State.hceServeAll (s : State) (slotBegins : Bool) : State :=
  (List.range 8).foldl (fun (s : State) p => s.hceServe p slotBegins) s

/-- A chunk of a context is done: the job ends, or waits for its next chunk; `late` where its end shows only at the
end of the slot (R320, R322, R323). -/
def State.hceChunk (s : State) (i : Nat) (late : Bool) : State :=
  match look s.hceJobs i with
  | none => s
  | some j =>
    let fin (s : State) (code : Nat) : State :=
      if late then { s with hceJobs := nset s.hceJobs i { j with left := 0, code, finished := true } } else s.hceEnd i code
    if j.finished || s.hceWaits j then s
    else if j.stop then fin s 5
    else if 1 < j.left then { s with hceJobs := nset s.hceJobs i { j with left := j.left - 1 } }
    else match s.hceRun j.dom j.desc with
      | (s, c) => fin s c

/-! ### Commands -/

/-- A context's job reads its descriptor and begins (R319). -/
def State.hceLoad (s : State) (i d : Nat) : State :=
  match s.hceRead d (s.pair ⟨.hceDesc, i, 0⟩ ⟨.hceDescHi, i, 0⟩) 64 with
  | (s, .error c) => s.hceEnd i c
  | (s, .ok b) =>
    if hceOk b then
      ({ s with hceJobs := nset s.hceJobs i { desc := b, dom := d, left := hceChunks b } }).hceServeAll false
    else s.hceEnd i 4

/-- The descriptor of a context cannot be read yet (R256). -/
def State.hceLater (s : State) (i d : Nat) : Bool :=
  s.agentWaits bulkClass d (s.pair ⟨.hceDesc, i, 0⟩ ⟨.hceDescHi, i, 0⟩) 64

/-- A descriptor that could not be read is read once it can be. -/
def State.hceRetry (s : State) (i : Nat) : State :=
  match look s.hceJobs i with
  | some j =>
    if !j.desc.isEmpty then s
    else if j.stop then s.hceEnd i 5
    else if s.hceLater i j.dom then s.putOff (.descriptor i)
    else s.hceLoad i j.dom
  | none => s

/-- A write of HCE_C[i]_CMD (R319, R325, R467): GO starts a job of a context that has been given out. -/
def State.writeHceCmd (s : State) (m i : Nat) (v : Word) : State :=
  if (i = 0 && m != 0x180) || (i != 0 && !s.flag ⟨.hceCtx, i, 0⟩ 31) then s
  else s.goWrite ⟨.hceCmd, i, 0⟩ v fun s =>
    let d := s.hceDom i
    let s := (s.setFlag ⟨.hceCmd, i, 0⟩ 31 true).setFields ⟨.hceStat, i, 0⟩ [(31, 30, 1), (27, 24, 0)]
    if s.hceLater i d then
      { s with hceJobs := nset s.hceJobs i { desc := [], dom := d, left := 1 } }.putOff (.descriptor i)
    else s.hceLoad i d

/-- HCE_JOB_START (R319). -/
def execHceJobStart (m : Nat) (i : Fin 8) (v : Word) (s : State) : Host.Outcome State Fault Refusal :=
  s.writeCommand m ⟨.hceCmd, i.val, 0⟩ v fun s => s.writeHceCmd m i.val v

/-- HCE_CHUNK_DONE (R320 to R322): a pipeline ends its chunk, unless a training stage holds the job's accesses (R256); with MODE 1, pipelines 1 to 7 stay taken to the end of the
slot. -/
def execHceChunkDone (pipe : Fin 8) (s : State) : Host.Outcome State Fault Refusal :=
  s.whenLive fun s =>
    match look s.hcePipe pipe.val with
    | some i =>
      if (look s.hceJobs (i % 8)).any fun j => !j.finished && s.hceWaits j then s
      else if s.hceFixed && pipe.val != 0 then
        if i < 8 then ({ s with hcePipe := nset s.hcePipe pipe.val (i + 8) }).hceChunk i true else s
      else (({ s with hcePipe := erase s.hcePipe pipe.val }).hceChunk (i % 8) false).hceServeAll false
    | none => s

/-- The end of a slot with MODE 1: chunks end, and the jobs they finished show it (R322). -/
def State.hceSlotEnd (s : State) : State :=
  let busy := s.hcePipe.filter fun e => e.1 != 0
  let s := busy.foldl (fun (s : State) e => if e.2 < 8 then s.hceChunk e.2 true else s) s
  let s := { s with hcePipe := s.hcePipe.filter fun e => e.1 == 0 }
  (s.hceJobs.filter fun e => e.2.finished).foldl (fun (s : State) e => s.hceEnd e.1 e.2.code) s

/-- HCE_SLOT_BOUNDARY (R322): a slot ends and the next begins; a written MODE takes effect at a slot that is a multiple
of 16. -/
def execHceSlotBoundary (s : State) : Host.Outcome State Fault Refusal :=
  s.whenLive fun s =>
    if s.hceSlotNo < s.hceSlotNow then
      let s := if s.hceFixed then s.hceSlotEnd else s
      let s := { s with hceSlotNo := s.hceSlotNow, hceMode := if s.hceSlotNow % 16 = 0 then none else s.hceMode }
      s.hceServeAll true
    else s

/-- Stops the job of a context: at once between chunks, else at the end of the chunk (R323). -/
def State.hceStop (s : State) (i : Nat) : State :=
  match look s.hceJobs i with
  | some j =>
    if s.hceReady i || j.desc.isEmpty then s.hceEnd i 5 else { s with hceJobs := nset s.hceJobs i { j with stop := true } }
  | none => s

/-- A write of HCE_CTX[i] (R323, R325): DOMAIN is writable only while EN is 0. -/
def State.writeHceCtx (s : State) (i : Nat) (v : Word) : State :=
  let k : RegKey := ⟨.hceCtx, i, 0⟩
  if i = 0 then s
  else if s.flag k 31 then (if bit v 31 then s else (s.setFlag k 31 false).hceStop i)
  else s.plainWrite k v

/-- HCE_CTX_WRITE (R323). -/
def execHceCtxWrite (m : Nat) (i : Fin 8) (v : Word) (s : State) : Host.Outcome State Fault Refusal :=
  s.writeCommand m ⟨.hceCtx, i.val, 0⟩ v fun s => s.writeHceCtx i.val v

/-- A TENANT reset ends a domain's jobs and returns its contexts to their Reset values (R12, R323). -/
def State.hceDrop (s : State) (d : Nat) : State :=
  ((List.range 8).filter fun i => 1 ≤ i && s.flag ⟨.hceCtx, i, 0⟩ 31 && s.fld ⟨.hceCtx, i, 0⟩ 7 0 == d).foldl
    (fun (s : State) i => (s.setFlag ⟨.hceCtx, i, 0⟩ 31 false).hceStop i |>.setReg ⟨.hceCtx, i, 0⟩
      (resetVal ⟨.hceCtx, i, 0⟩)) s

/-- A write of HCE_CTL: the new MODE waits for its slot (R322). -/
def State.writeHceCtl (s : State) (v : Word) : State :=
  let now := s.hceFixed
  let s := s.plainWrite ⟨.hceCtl, 0, 0⟩ v
  { s with hceMode := if bit v 0 = now then none else some (bit v 0) }

end Sys2Proof.Machine
end

