-- ==== Sys2Proof/Machine/Cpu.lean ====
section
/-! DEFINITION. Tenant cores (R357, R404 to R407, R430): pins and the split of the L2, start and reset, sleep and
interrupts. -/

namespace Sys2Proof.Machine

/-! ### The L2 of a cluster (R406) -/

/-- Invalidates every line of a domain without write-back (R413). -/
def State.l2Drop (s : State) (d : Nat) : State := { s with l2 := s.l2.filter fun l => l.dom != d }

/-- The set of a line: 4 MiB of 64-byte lines in 16 ways. -/
def l2Set (addr : Nat) : Nat := addr / 64 % 4096

/-- Makes room for a line of a domain in its own ways: which line goes is open (log entry 2). -/
def State.l2Room (s : State) (cl d addr : Nat) : State :=
  let mine := s.l2.filter fun l => l.isOf cl d && l2Set l.addr == l2Set addr
  if mine.length < (s.l2Ways cl d).length then s
  else match mine[Config.freeNat s.freeCtr % mine.length]? with
  | some v =>
    let s := { s.draw with l2 := s.l2.filter fun l => !(l.isOf cl d && l.addr == v.addr) }
    if v.dirty then s.l2WriteBack v else s
  | none => s

/-- The bytes of the line at an address for a domain, read into the L2 where it misses. -/
def State.l2Get (s : State) (cl d addr : Nat) : State × Option (List Byte) :=
  let a := addr / 64 * 64
  match s.l2.find? fun l => l.isOf cl d && l.addr == a with
  | some l => (s, some l.bytes)
  | none =>
    match s.hbmRead d a 64 0 true with
    | (s, .ok b) =>
      let s := s.l2Room cl d a
      ({ s with l2 := { cluster := cl, dom := d, addr := a, bytes := b, dirty := false } :: s.l2 }, some b)
    | (s, _) => (s, none)

/-- Writes bytes within one line through the L2. -/
def State.l2Put (s : State) (cl d addr : Nat) (data : List Byte) : State × Bool :=
  match s.hbmRight d addr true, s.l2Get cl d addr with
  | some _, (s, some b) =>
    let o := addr % 64
    let new := slice (b.take o ++ data ++ b.drop (o + data.length)) 0 64
    let put (l : L2Line) : L2Line := if l.isOf cl d && l.addr == addr - o then { l with bytes := new, dirty := true } else l
    ({ s with l2 := s.l2.map put }, true)
  | _, _ => (s, false)

/-! ### Pins (R405, R406) -/

/-- CPU_C[t]_CTL.RUN. -/
def State.coreRuns (s : State) (t : Nat) : Bool := s.flag ⟨.cpuCtl, t, 0⟩ 31

/-- Pins a core; lines of domains whose ways change leave the L2. -/
def State.pinCore (s : State) (t d : Nat) : State := (s.pinSplit t d).l2Settle (t / 4)

/-- A write of CPU_PIN[t] (R405). -/
def State.writePin (s : State) (t : Nat) (v : Word) : State :=
  let k : RegKey := ⟨.cpuPin, t, 0⟩
  let d := bits v 7 0
  let s := if bit v 31 then s.setFlag k 31 false else s
  if s.coreRuns t || !s.domainExists d then s.setFlag k 31 true else s.pinCore t d

/-- CPU_PIN_WRITE (R405). -/
def execCpuPinWrite (m : Nat) (t : Fin 16) (v : Word) (s : State) : Host.Outcome State Fault Refusal :=
  s.writeCommand m ⟨.cpuPin, t.val, 0⟩ v fun s => s.writePin t.val v

/-! ### Start and reset (R372, R407) -/

/-- A client asks for its NEED unless it holds a grant or has asked. -/
def State.askNeed (s : State) (n : Nat) : State :=
  if s.grant n ≠ 0 ∨ s.urn.pend.any (fun e => e.client == n) = true then s else s.askUnits n (max 1 (s.need n))

/-- A core leaves reset: it asks for its grant and its cluster's, and starts once both are held. -/
def State.runCore (s : State) (t : Nat) : State :=
  let s := (s.setFlag ⟨.cpuCtl, t, 0⟩ 31 true).setFlag ⟨.cpuStat, t, 0⟩ 28 true
  ((s.askNeed (280 + t / 4)).askNeed (264 + t)).startCore t

/-- A core goes to reset and releases its grant; the last of its cluster releases the cluster's. -/
def State.stopCore (s : State) (t : Nat) : State :=
  let s := (s.setFlag ⟨.cpuCtl, t, 0⟩ 31 false).setFields ⟨.cpuStat, t, 0⟩ [(31, 28, 0)]
  let drop (e : Nat × SessSt) : Nat × SessSt := (e.1, { e.2 with halted := e.2.halted.erase t })
  let s := { s with cores := nput s.cores t {} {}, sess := s.sess.map drop }
  let s := (s.unask (264 + t)).keepUnits (264 + t) 0
  if (List.range 4).any fun j => s.coreRuns (4 * (t / 4) + j) then s
  else (s.unask (280 + t / 4)).keepUnits (280 + t / 4) 0

/-- A write of CPU_C[t]_CTL. -/
def State.writeCpuCtl (s : State) (t : Nat) (v : Word) : State :=
  let s := s.setFlag ⟨.cpuCtl, t, 0⟩ 30 (bit v 30)
  if bit v 31 then (if s.coreRuns t then s else s.runCore t) else if s.coreRuns t then s.stopCore t else s

/-- CORE_RUN (R407). -/
def execCoreRun (m : Nat) (t : Fin 16) (v : Word) (s : State) : Host.Outcome State Fault Refusal :=
  s.writeCommand m ⟨.cpuCtl, t.val, 0⟩ (putBits v 31 31 1) fun s => s.writeCpuCtl t.val (putBits v 31 31 1)

/-- CORE_RESET (R407). -/
def execCoreReset (m : Nat) (t : Fin 16) (v : Word) (s : State) : Host.Outcome State Fault Refusal :=
  s.writeCommand m ⟨.cpuCtl, t.val, 0⟩ (putBits v 31 31 0) fun s => s.writeCpuCtl t.val (putBits v 31 31 0)

/-! ### Interrupts and sleep (R357, R407, R424) -/

/-- CPU_C[t]_STAT.STATE: 0 reset, 1 running, 2 WFI, 3 halted. -/
def State.coreState (s : State) (t : Nat) : Nat := s.fld ⟨.cpuStat, t, 0⟩ 31 30

/-- The external interrupt of a core: EVIE is set, the domain's queue holds an entry and its vector has signalled. -/
def State.coreExt (s : State) (t : Nat) : Bool :=
  let w := windowOf (s.coreDom t)
  s.flag ⟨.cpuCtl, t, 0⟩ 30 && !(s.evq w).ents.isEmpty &&
    (s.evq w).ents.any fun e => s.flag ⟨.strIrqack, w, 0⟩ e.2

/-- An interrupt of the core is pending. -/
def State.coreIrqs (s : State) (t : Nat) : Bool := (s.core t).mtip || s.flag ⟨.cpuMsip, t, 0⟩ 0 || s.coreExt t

/-- A write of CPU_C[t]_MSIP. -/
def State.writeMsip (s : State) (t : Nat) (v : Word) : State :=
  let s := s.plainWrite ⟨.cpuMsip, t, 0⟩ v
  if bit v 0 && s.coreState t != 0 then s.log (.coreIrq t 3) else s

/-- MSIP_WRITE (R407). -/
def execMsipWrite (m : Nat) (t : Fin 16) (v : Word) (s : State) : Host.Outcome State Fault Refusal :=
  s.writeCommand m ⟨.cpuMsip, t.val, 0⟩ v fun s => s.writeMsip t.val v

/-- MTIMECMP of a core. -/
def State.timeCmp (s : State) (t : Nat) : Nat := s.pair ⟨.cpuMtimecmp, t, 0⟩ ⟨.cpuMtimecmpHi, t, 0⟩

/-- A write of half of CPU_C[t]_MTIMECMP: the timer interrupt follows the comparison. -/
def State.writeTimeCmp (s : State) (k : RegKey) (v : Word) : State :=
  let s := s.plainWrite k v
  if s.tick < s.timeCmp k.i then s.modCore k.i fun x => { x with mtip := false } else s

/-- MACHINE_TIMER (R407): mtime, which is TICK, has reached the compare value. -/
def execMachineTimer (t : Fin 16) (s : State) : Host.Outcome State Fault Refusal :=
  s.whenServing fun s =>
    if s.coreState t.val ≠ 0 ∧ s.timeCmp t.val ≤ s.tick ∧ (s.core t.val).mtip = false then
      (s.modCore t.val fun x => { x with mtip := true }).log (.coreIrq t.val 7)
    else s

/-- WFI (R357, R422, R424), which leaves the pc after it: a core with an interrupt pending goes on; otherwise its clock stops, or under a session the wait
is emulated. -/
def execWfi (t : Fin 16) (s : State) : Host.Outcome State Fault Refusal :=
  s.whenServing fun s =>
    if s.coreState t.val = 1 then
      let s := s.modCore t.val fun c => { c with pc := c.pc + 4 }
      if s.coreIrqs t.val then s
      else s.setFields ⟨.cpuStat, t.val, 0⟩ [(31, 30, 2), (29, 29, b2n (s.debugged (s.coreDom t.val)))]
    else s

/-- CORE_INTERRUPT (R357): a core in WFI with an interrupt pending runs again. -/
def execCoreInterrupt (t : Fin 16) (s : State) : Host.Outcome State Fault Refusal :=
  s.whenServing fun s =>
    if s.coreState t.val = 2 ∧ s.coreIrqs t.val = true then
      s.setFields ⟨.cpuStat, t.val, 0⟩ [(31, 30, 1), (29, 29, 0)]
    else s

end Sys2Proof.Machine
end

