-- ==== Sys2Proof/Machine/Session.lean ====
section
/-! DEFINITION. Debug sessions (R417 to R421, R424, R426, R428): authentication, opening and closing. -/

namespace Sys2Proof.Machine

/-- The register window of session window w for master m: 0 to 7 the owner's, 8 + n tenant n's (R417, R431). -/
def State.dbgWin (s : State) (m w : Nat) : Nat :=
  match (s.midDomain m).bind tenantOf with
  | some n => 8 + n
  | none => w

/-- The transport a master's session record names (R428): JTAG, PCIE[0], PCIE[1]. -/
def transport (m : Nat) : Option Nat :=
  if m = 0x181 then some 0 else if inRange 0x200 0x240 m then some 1 else if inRange 0x280 0x2C0 m then some 2 else none

/-- The session that a window shows. -/
def State.sessAt (s : State) (win : Nat) : Option Nat := (s.sess.find? fun e => e.2.win == win).map (·.1)

/-- The window belongs to a session that another master opened: one opened through it, or session `win` itself, which a
tenant's window may have opened (R417). -/
def State.dbgBound (s : State) (m win : Nat) : Bool :=
  s.sess.any fun e => e.2.isOpen && (e.2.win == win || e.1 == win) && e.2.mid != m

/-- An access by the session's master restarts its idle time (R421). -/
def State.touchSession (s : State) (m win : Nat) : State :=
  { s with sess := s.sess.map fun e => if e.2.win = win ∧ e.2.mid = m then (e.1, { e.2 with lastAccess := s.tick }) else e }

/-- Ends a debug command: STATUS and CODE, and GO reads 0. -/
def State.dbgEnd (s : State) (win code : Nat) : State :=
  (s.setFields ⟨.dbgStat, win, 0⟩ [(31, 30, if code = 0 then 2 else 3), (27, 24, code)]).setFlag ⟨.dbgCtl, win, 0⟩ 31 false

/-- Refuses a debug command with DENIED or BUSY: a tenant learns it at the Kettle's latency (R414, R415). -/
def State.dbgRefuse (s : State) (m win code : Nat) : State :=
  if s.isTenant m then
    ((s.setFields ⟨.dbgStat, win, 0⟩ [(31, 30, 1)]).setFlag ⟨.dbgCtl, win, 0⟩ 31 true).hold m 0 kettleLatency
      (.status [(⟨.dbgStat, win, 0⟩, [(31, 30, 3), (27, 24, code)]), (⟨.dbgCtl, win, 0⟩, [(31, 31, 0)])])
  else s.dbgEnd win code

/-- A debug record of class 0x09 with its event (R428), told to a domain. -/
def State.dbgRecord (s : State) (detail i m dom : Nat) (leaf : List Byte) : State :=
  s.raiseEvent 0x070 detail [dom]
    ([BitVec.ofNat 8 i, BitVec.ofNat 8 ((transport m).getD 0)] ++ leBytes 2 m ++ slice leaf 0 20) (some (0x0900 + detail))

/-! ### Certificates (R418, R419) -/

/-- A certificate of a domain in order, but for its signature: `inter` for an intermediate. -/
def State.certOk (s : State) (c : List Byte) (dom : Nat) (inter : Bool) : Bool :=
  let dev := slice c 24 48
  slice c 0 5 == [0x44, 0x42, 0x47, 0x43, 0x01] && numAt c 5 1 == dom && numAt c 6 1 == b2n inter && numAt c 7 1 == 0 &&
  (allZero dev || dev == digestBytes (sha384 Config.devicePub)) && allZero (slice c 169 7) &&
  (!s.timeValid || decide (numAt c 8 8 ≤ s.devSec ∧ s.devSec ≤ numAt c 16 8))

/-- A certificate's signature verifies under a key. -/
def certSigned (c key : List Byte) : Bool := Config.ecdsaOk key (slice c 0 176) (slice c 176 96)

/-- A public key is a domain's authority key (R419). -/
def State.authority (s : State) (dom : Nat) (key : List Byte) : Bool :=
  let h := sha384 key
  match tenantOf dom with
  | some n => (look s.tenantKeys n).any fun e => e.2 == h
  | none => if dom = 0x00 then h == Config.plyngenDbgHash else s.nv.activeKey h

/-- The chain of a HELLO names the domain and verifies. -/
def State.chainOk (s : State) (dom : Nat) (hello : List Byte) : Bool :=
  let root := slice hello 97 97
  let inter := slice hello 194 272
  let leaf := slice hello 466 272
  s.authority dom root && s.certOk leaf dom false &&
  (if allZero inter then certSigned leaf root
  else s.certOk inter dom true && certSigned inter root && certSigned leaf (slice inter 72 97))

/-! ### Opening (R417, R420, R426) -/

/-- The bytes of DBG_MSG. -/
def State.dbgMsg (s : State) (win len : Nat) : List Byte :=
  slice ((List.range (ceilDiv len 4)).flatMap fun w => wordBytes (s.reg ⟨.dbgMsg, win, w⟩)) 0 len

/-- Puts bytes in DBG_MSG. -/
def State.putDbgMsg (s : State) (win : Nat) (b : List Byte) : State :=
  (List.range (ceilDiv b.length 4)).foldl
    (fun (s : State) w => s.setReg ⟨.dbgMsg, win, w⟩ (wordOf (slice b (4 * w) 4))) s

/-- The session that a HELLO through a window would be: the owner's window's own, or for a tenant the first free one; none
while the window has an open session (R417; log entry 107). -/
def State.sessFor (s : State) (win : Nat) : Option Nat :=
  if s.sess.any fun e => e.2.win == win && (e.2.isOpen || e.2.ended) then none
  else if win < 8 then (if s.sess.all fun e => e.1 != win || e.2.win == win then some win else none)
  else (s.sessAt win).or ((List.range 8).find? fun i => (look s.sess i).isNone)

/-- A master may open a session for a domain through a window. -/
def State.mayOpen (s : State) (m win dom : Nat) : Bool :=
  s.live && (transport m).isSome && (win < 8 || dom == 0x10 + (win - 8)) && !s.debugged dom &&
  (if dom = 0x00 then m == 0x181 && s.factoryWaits else s.domainExists dom)

/-- Fails an authentication: DENIED at 50 ms, with its record (R415, R420), which is the master's own domain's, for no field
of a tenant window changes with what another domain tries (R416). -/
def State.authFail (s : State) (m win : Nat) (leaf : List Byte) : State :=
  let i := (s.sessFor win).getD 0
  let s := { s with sess := s.sess.filter fun e => e.2.win != win || e.2.isOpen }
  let s := s.dbgRecord 3 i m ((s.midDomain m).getD 0x01) leaf
  ((s.setFields ⟨.dbgStat, win, 0⟩ [(31, 28, if (s.sessAt win).isSome then 6 else 4)]).setFlag ⟨.dbgCtl, win, 0⟩ 31 true).hold
    m 0 authLatency
    (.status [(⟨.dbgStat, win, 0⟩, [(31, 30, 3), (27, 24, 1)]), (⟨.dbgCtl, win, 0⟩, [(31, 31, 0)])])

/-- The strings of R420, in ASCII: "AK5248 DBG". -/
def dbgName : List Byte := [0x41, 0x4B, 0x35, 0x32, 0x34, 0x38, 0x20, 0x44, 0x42, 0x47]

/-- HELLO (R420): a chain that verifies is answered with a CHALLENGE; after a Plyngen-keyed session the device identity
key signs nothing (R426). -/
def State.dbgHello (s : State) (m win : Nat) : State :=
  let dom := s.fld ⟨.dbgCtl, win, 0⟩ 23 16
  let hello := s.dbgMsg win 738
  let leaf := digestBytes (sha384 (slice hello 466 272))
  match s.sessFor win with
  | some i =>
    if s.mayOpen m win dom && !s.plyngen && s.chainOk dom hello then
      let n := s.freeCtr
      let qk := slice (Config.ephemeralPub n) 0 97
      let nk := slice (Config.nonce n) 0 32
      let h1 := sha384 (hello ++ qk ++ nk)
      let z := Config.ecdhX (n + 1) (slice hello 0 97)
      let ks := BitVec.ofNat 256 (numAt (digestBytes (sha384 (z ++ nk ++ dbgName))) 0 32)
      let msg := qk ++ nk ++ slice (Config.deviceSign 0 (digestBytes h1)) 0 96
      let x : SessSt := { auth := true, win, mid := m, dom, h1, ks, leafKey := slice hello (466 + 72) 97, leafHash := leaf,
                          lastAccess := s.tick }
      let s := { s.draw with sess := nset s.sess i x }
      (((s.putDbgMsg win msg).log (.challenge i msg)).setFld ⟨.dbgStat, win, 0⟩ 29 28 1).dbgEnd win 0
    else s.authFail m win leaf
  | none => s.authFail m win leaf

/-- PROOF's checks. -/
def State.proofOk (s : State) (x : SessSt) : Bool :=
  let h2 := digestBytes (sha384 (digestBytes x.h1 ++ dbgName))
  let b := s.dbgMsg x.win 112
  Config.ecdsaOk x.leafKey h2 (slice b 0 96) && slice (hmac true (leBytes 32 x.ks.toNat) h2) 0 16 == slice b 96 16

/-- Sets EMUL of the cores of a domain that wait (R424). -/
def State.emulCores (s : State) (d : Nat) (on : Bool) : State :=
  ((List.range 16).filter fun t => s.coreDom t == d && s.coreState t == 2).foldl
    (fun (s : State) t => s.setFlag ⟨.cpuStat, t, 0⟩ 29 on) s

/-- A session opens: its sleep emulation begins, and a Plyngen-keyed one removes every range and bars the device's own
keys until PORST; with it factory test mode is active (R314, R424, R426). -/
def State.dbgOpen (s : State) (i : Nat) (x : SessSt) : State :=
  let s := { s with sess := nset s.sess i { x with auth := false, isOpen := true, lastAccess := s.tick } }
  let s := s.setFields ⟨.dbgStat, x.win, 0⟩ [(29, 28, 2), (15, 8, x.dom)]
  let s := (s.emulCores x.dom true).dbgRecord 1 i x.mid x.dom x.leafHash
  let s := s.dbgRecord 4 i x.mid x.dom x.leafHash
  if x.dom = 0x00 then
    { (List.range 80).foldl (fun (s : State) r => s.removeRange r) s with plyngen := true, phase := .factory }
  else s

/-- PROOF (R420). -/
def State.dbgProof (s : State) (m win : Nat) : State :=
  match s.sess.find? fun e => e.2.win == win && e.2.auth && e.2.mid == m with
  | some (i, x) =>
    if s.proofOk x && s.mayOpen m win x.dom then (s.dbgOpen i x).dbgEnd win 0
    else s.authFail m win x.leafHash
  | none => s.authFail m win []

/-! ### Closing (R421) -/

/-- A halted core goes on (R423). -/
def State.goCore (s : State) (t : Nat) : State :=
  if t < 16 ∧ s.coreState t = 3 then s.setFields ⟨.cpuStat, t, 0⟩ [(31, 30, 1)] else s

/-- The sleep of a domain is emulated no longer: its cups in DORMANT stop, and keep 1 unit. -/
def State.endEmulation (s : State) (d : Nat) : State :=
  ((List.range 192).filter fun c => s.cupDom c == d && (s.cup c).emulated).foldl
    (fun (s : State) c => (s.modCup c fun x => { x with emulated := false, clocksOn := false }).keepUnits c 1)
    (s.emulCores d false)

/-- A session closes: the cores it halted resume and the cups it held are released; factory test mode ends with its session. -/
def State.closeSession (s : State) (i : Nat) : State :=
  match look s.sess i with
  | some x =>
    let s := x.halted.foldl (fun (s : State) t => s.goCore t) s
    let s := x.held.foldl (fun (s : State) c => s.writeCap c 4) s
    let s := ({ s with sess := erase s.sess i }).setFields ⟨.dbgStat, x.win, 0⟩ [(29, 28, 0), (15, 8, 0)]
    let s : State := if s.phase = .factory ∧ x.dom = 0x00 then { s with phase := .halted } else s
    if x.isOpen || x.ended then
      ((s.endEmulation x.dom).dbgRecord 2 i x.mid x.dom x.leafHash).dbgRecord 5 i x.mid x.dom x.leafHash
    else s
  | none => s

/-- Closes every session of a domain (R413, R421). -/
def State.closeSessions (s : State) (d : Nat) : State :=
  ((s.sess.filter fun e => e.2.dom == d).map (·.1)).foldl (fun (s : State) i => s.closeSession i) s

/-- CLOSE (R421). -/
def State.dbgCloseOp (s : State) (m win : Nat) : State :=
  match s.sess.find? fun e => e.2.win == win && e.2.mid == m with
  | some (i, _) => (s.closeSession i).dbgEnd win 0
  | none => s.dbgRefuse m win 1

/-- SESSION_IDLE_TIMEOUT (R421): 10 s without an access by its master. -/
def execSessionIdleTimeout (i : Fin 8) (s : State) : Host.Outcome State Fault Refusal :=
  s.whenLive fun s =>
    let x := s.session i.val
    if x.isOpen ∧ x.lastAccess + msTicks 10000 ≤ s.tick then s.closeSession i.val else s

end Sys2Proof.Machine
end

