-- ==== Sys2Proof/Machine/Tenant.lean ====
section
/-! DEFINITION. The owner token (R408 to R410), and creation and teardown of tenants (R411 to R413). -/

namespace Sys2Proof.Machine

/-! ### The owner token -/

/-- When a physical function takes the token, every owner vector whose bit is set and whose queue holds an entry for it
sends (R389). -/
def State.sendPending (s : State) : State :=
  (List.range 8).foldl
    (fun (s : State) b => if s.flag ⟨.strIrqack, 0, 0⟩ b && (s.evq 0).ents.any (fun e => e.2 == b) then s.sendMsix 0 b
      else s) s

/-- A host master asks for the token: it takes a free one, and its lease begins (R409, R410). -/
def State.takeToken (s : State) (m : Nat) : State :=
  if holderCode m ≠ 0 ∧ s.holder = 0 then
    ({ s.setFld ⟨.devToken, 0, 0⟩ 31 30 (holderCode m) with beat := s.tick }).sendPending
  else s

/-- A write of DEV_TOKEN by a master: LAPSED clears, RELEASE by the holder frees the token, then ACQUIRE takes a free one
(log entry 24). -/
def State.writeToken (s : State) (m : Nat) (v : Word) : State :=
  let s := if bit v 28 then s.setFlag ⟨.devToken, 0, 0⟩ 28 false else s
  let s := if bit v 1 && holderCode m != 0 && s.holder == holderCode m then s.setFld ⟨.devToken, 0, 0⟩ 31 30 0 else s
  if bit v 0 then s.takeToken m else s

/-- ACQUIRE (R409): of the host masters whose ACQUIREs arrive together the one with the lowest MID comes first. -/
def execAcquire (ms : List Nat) (s : State) : Host.Outcome State Fault Refusal :=
  .next (([0x181, 0x200, 0x280].filter fun m => ms.contains m && s.reaches m ⟨.devToken, 0, 0⟩).foldl
    (fun (s : State) m => s.writeNow m ⟨.devToken, 0, 0⟩ 1 fun s => s.writeToken m 1) s)

/-- TOKEN_RELEASE (R409). -/
def execTokenRelease (m : Nat) (s : State) : Host.Outcome State Fault Refusal :=
  s.writeCommand m ⟨.devToken, 0, 0⟩ 2 fun s => s.writeToken m 2

/-- A write of DEV_HEARTBEAT: the holder's restarts the lease, any other's is ignored (R410). -/
def State.writeHeartbeat (s : State) (m : Nat) : State :=
  if holderCode m ≠ 0 ∧ s.holder = holderCode m then { s with beat := s.tick } else s

/-- DEV_HEARTBEAT (R410). -/
def execDevHeartbeat (m : Nat) (s : State) : Host.Outcome State Fault Refusal :=
  s.writeCommand m ⟨.devHeartbeat, 0, 0⟩ 0 fun s => s.writeHeartbeat m

/-- TOKEN_LAPSE (R410): LEASE ms have passed without a heartbeat. -/
def execTokenLapse (s : State) : Host.Outcome State Fault Refusal :=
  s.whenLive fun s =>
    if s.holder ≠ 0 ∧ s.beat + msTicks (s.fld ⟨.devTokenCfg, 0, 0⟩ 15 0) ≤ s.tick then
      (s.setFields ⟨.devToken, 0, 0⟩ [(31, 30, 0), (28, 28, 1)]).raiseEvent 0x006 0 [] []
        (some (0x0800 + (Config.eventSev 0x006 0).toNat))
    else s

/-! ### Tenant records and range entries (R303, R412) -/

/-- A range entry: index, base, limit, owner, rights words. -/
structure RngEnt where
  idx : Nat
  base : Nat
  limit : Nat
  owner : Nat
  rights : List Word
  deriving DecidableEq, Repr

/-- A range entry is PRESENT. -/
def rngPresent (e : List Byte) : Bool := numAt e 9 1 % 2 == 1

/-- Reads an entry whose index is given. -/
def rngEntOf (idx : Nat) (e : List Byte) : RngEnt :=
  { idx, base := numAt e 0 4, limit := numAt e 4 4, owner := numAt e 8 1, rights := wordsOf (slice e 16 20) }

/-- The bytes of an entry that must be 0 are, `ix` saying whether byte 10 is the index. -/
def rngZeros (e : List Byte) (ix : Bool) : Bool :=
  numAt e 9 1 / 2 == 0 && (ix || numAt e 10 1 == 0) && allZero (slice e 11 5) && allZero (slice e 33 15)

/-- A tenant record: MAX_STREAMS, MAX_SLOTS, POWER, CORES (R303). -/
structure TenRec where
  streams : Nat
  slots : Nat
  power : Nat
  cores : List Nat
  deriving DecidableEq, Repr

/-- A tenant record's PRESENT. -/
def tenPresent (b : List Byte) : Bool := numAt b 0 1 % 2 == 1

/-- A tenant record's bytes that must be 0 are. -/
def tenZeros (b : List Byte) : Bool := numAt b 0 1 / 2 == 0 && numAt b 1 1 == 0 && allZero (slice b 10 6)

/-- Reads a tenant record. -/
def tenRecOf (b : List Byte) : TenRec :=
  { streams := numAt b 2 2, slots := numAt b 4 2, power := numAt b 6 2,
    cores := (List.range 16).filter fun t => (numAt b 8 2).testBit t }

/-! ### Creation (R412) -/

/-- A cup changes domain: its borders and DRIVE bits go, and its queues, port buffers and status events (R103, R108). -/
def State.newDomain (s : State) (c d : Nat) : State :=
  let mine (w : WaitPkt) : Bool := (List.range 4).any fun n => w.owner == .sout c n
  (((s.changeOwner c d).emptyQueues c).dropWait mine).modCup c fun x =>
    { x with sin := [], sout := [], rq := {}, status := [], statusLost := 0 }

/-- A cup changes domain while OFF: its planes and grants of the old domain go too (R53, R141). -/
def State.giveCup (s : State) (c d : Nat) : State :=
  let s := (s.newDomain c d).endGrants fun w => bits w 23 16 == c
  let s := (s.leaseDropOn .shadowLoad (.cup c)).modLoads c fun l => l.filter (· != c)
  let s := s.modCup c fun x => { x with plane0 := [], plane1 := [], cfgErr := [], loadJob := none, recheck := false }
  s.setFields ⟨.cupLoadStat, c, 0⟩ [(23, 22, 0)]

/-- TENANT_POWER of a tenant. -/
def State.setPower (s : State) (n p : Nat) : State :=
  { s with urn := { s.urn with tenantPower := nput s.urn.tenantPower n p 0 } }

/-- Steps 3 to 6 of a creation, and the tenant's bit in DEV_TEXIST. -/
def State.enrol (s : State) (n : Nat) (r : TenRec) (img dbg : BitVec 384) : State :=
  let s := s.setFields ⟨.traySbudget, n, 0⟩ [(31, 16, r.slots), (15, 0, r.streams)]
  let s := r.cores.foldl (fun (s : State) t => s.pinCore t (0x10 + n)) (s.setPower n r.power)
  let s := { s with tenantKeys := nset s.tenantKeys n (img, dbg) }
  let s := if s.pciePresent 0 || s.pciePresent 1 then { s with vfs := s.vfs.filter (· != n) ++ [n] } else s
  s.setFlag ⟨.devTexist, 0, n / 32⟩ (n % 32) true

/-- Creates and fills the ranges of a descriptor, one after the other; none where one breaks R277 or gets no lease. -/
def State.fillRanges (s : State) (es : List RngEnt) : Option State :=
  es.foldl
    (fun (acc : Option State) e => acc.bind fun s =>
      if s.rangeState e.idx ≠ 0 ∨ s.rangeCode e.idx e.base e.limit e.owner ≠ 0 then none
      else match s.tryFill e.idx e.base e.limit e.owner e.rights 0x01 with
        | (s, 0) => some (s.fillDone e.idx)
        | _ => none) (some s)

/-- The cups, range entries and record of a descriptor. -/
def descCups (b : List Byte) : List Nat := (List.range 192).filter fun c => (numAt b (112 + c / 8) 1).testBit (c % 8)
def descRanges (b : List Byte) : List (List Byte) :=
  ((List.range 16).map fun i => slice b (144 + 48 * i) 48).filter rngPresent

/-- The code that refuses a descriptor for tenant n, 0 where the checks pass; with several faults the first of the table
counts (log entry 25). -/
def State.descCode (s : State) (n : Nat) (b : List Byte) : Nat :=
  let r := tenRecOf b
  let es := (descRanges b).map fun e => rngEntOf (numAt e 10 1) e
  let there := s.setFlag ⟨.devTexist, 0, n / 32⟩ (n % 32) true
  if s.tenantExists n then 1
  else if (descCups b).any fun c => s.cupGone c || s.cupState c != 0 || s.cupDom c != 0x01 then 2
  else if r.cores.any fun t => s.coreDom t != 0x01 || s.coreRuns t then 3
  else if es.any fun e => !inRange 16 79 e.idx || e.owner != 0x10 + n || s.rangeState e.idx != 0 ||
      there.rangeCode e.idx e.base e.limit e.owner != 0 then 4
  else if !tenPresent b || !tenZeros b || !allZero (slice b 136 8) || (descRanges b).any fun e => !rngZeros e true then 6
  else 0

/-- Creates tenant n from its descriptor: the state and the CODE. -/
def State.createTenant (s : State) (n : Nat) (b : List Byte) : State × Nat :=
  match s.descCode n b with
  | 0 =>
    let es := (descRanges b).map fun e => rngEntOf (numAt e 10 1) e
    let s1 := (descCups b).foldl (fun (s : State) c => s.giveCup c (0x10 + n)) s
    let s2 := s1.setFlag ⟨.devTexist, 0, n / 32⟩ (n % 32) true
    match s2.fillRanges es with
    | some s3 => (s3.enrol n (tenRecOf b) (BitVec.ofNat 384 (numAt b 16 48)) (BitVec.ofNat 384 (numAt b 64 48)), 0)
    | none => (s, 4)
  | c => (s, c)

/-- Ends a DEV_TCMD: STATUS and CODE. -/
def State.tcmdEnd (s : State) (code : Nat) : State :=
  s.setFields ⟨.devTstat, 0, 0⟩ [(31, 30, if code = 0 then 2 else 3), (27, 24, code)]

/-- CREATE: the descriptor is read in the owner's right; where it cannot be, the CODE is free (log entry 2). -/
def State.tcmdCreate (s : State) (n : Nat) : State :=
  match s.hbmFetch 0x01 (s.pair ⟨.devTdesc, 0, 0⟩ ⟨.devTdescHi, 0, 0⟩) 912 with
  | (s, some b) => (s.createTenant n b).1.tcmdEnd (s.createTenant n b).2
  | (s, none) => s.draw.tcmdEnd (1 + Config.freeNat s.freeCtr % 15)

/-! ### Teardown (R413) -/

/-- A master of a domain's own: its cups, cores, sessions and virtual functions. -/
def State.ownMid (s : State) (d m : Nat) : Bool := s.midDomain m == some d

/-- Drops what masters that `p` selects have outstanding: requests, responses, held accesses and refusals. -/
def State.dropIssue (s : State) (p : Nat → Bool) : State :=
  { s with
    outstanding := s.outstanding.filter (fun e => !p e.mid), responses := s.responses.filter (fun e => !p e.mid),
    fences := s.fences.filter (fun e => !p e.1), heldReqs := s.heldReqs.filter (fun e => !p e.1),
    refusals := s.refusals.filter (fun e => !p e.mid), stalls := s.stalls.filter (fun e => !p e.mid),
    hbmHeld := s.hbmHeld.filter (fun e => !p e.mid),
    cols := s.cols.map fun e => (e.1, { e.2 with waiting := e.2.waiting.filter fun w => !p w.1,
                                                 queued := e.2.queued.filter fun w => !p w.1 }),
    latches := s.latches.filter (fun e => !p e.1) }

/-- Step 2: the domain issues no more. -/
def State.stopIssue (s : State) (d : Nat) : State :=
  let cores := (List.range 16).filter fun t => s.coreDom t == d
  let s := (s.dropIssue (s.ownMid d)).l2Drop d
  let s := cores.foldl (fun (s : State) t => s.stopCore t) s
  let s := cores.foldl
    (fun (s : State) t => s.pinCore t 0x01 |>.resetRegs fun k => blkOf k.name == .cpu && k.i == t) s
  let s := (s.hceDrop d).resetRegs fun k => blkOf k.name == .hce && k.i != 0 &&
    s.flag ⟨.hceCtx, k.i, 0⟩ 31 && s.fld ⟨.hceCtx, k.i, 0⟩ 7 0 == d &&
    (k.name == .hceDesc || k.name == .hceDescHi || k.name == .hceCmd || k.name == .hceStat)
  { s with vfs := s.vfs.filter fun n => 0x10 + n != d }

/-- Step 3: armed groups that name a cup of the domain are cancelled, and leases on its resources end. -/
def State.stopPlans (s : State) (d : Nat) : State :=
  let groups := (List.range 256).filter fun g => (s.spTenants g).contains d
  let s := groups.foldl (fun (s : State) g => s.spCancel g 9 none) s
  s.leaseDropRes fun r => match r with
    | .cup c => s.cupDom c == d
    | .libEntry n => (nget s.nv.lib n {}).dom == d
    | _ => false

/-- Step 4: the domain's cups are OFF, zeroed and the owner's, and nothing that waited for them is left. -/
def State.takeCups (s : State) (d : Nat) : State :=
  ((List.range 192).filter fun c => s.cupDom c == d).foldl
    (fun (s : State) c =>
      let s := s.cupOff c
      let s : State := { s with
        heldWrites := s.heldWrites.filter fun e => writeCup e.2 != some c
        urn := { s.urn with deferred := s.urn.deferred.filter fun e => e.1 != c } }
      ((s.giveCup c 0x01).setCup c {}).resetRegs fun k => blkOf k.name == .cup && k.i == c) s

/-- Step 5: streams, real-time ports, queue grants and collectors. -/
def State.stopTray (s : State) (d : Nat) : State :=
  let mine := (s.regs.filter fun e => e.1.name == .traySent && bits e.2 7 0 == d).map (·.1.i)
  let s := mine.foldl (fun (s : State) n => (((s.setTree n none).streamFlow n).modStream n fun _ => {}).setFld ⟨.traySent, n, 0⟩ 7 0 1) s
  let s := (s.resetRtps d).endGrants fun w => bits w 7 0 == d
  let cols := (List.range 64).filter fun n => s.fld ⟨.colCfg, n, 0⟩ 7 0 == d
  let s := cols.foldl (fun (s : State) n => s.colReset n) s
  { s with regs := s.regs.filter fun e => !(e.1.name == .colSrc && bits e.2 23 16 == d) }

/-- Step 6: the domain's ranges, and its slot in every mask. -/
def State.stopRanges (s : State) (d : Nat) : State :=
  let s := ((List.range 80).filter fun r => s.rangeState r != 0 && (s.range r).owner == d).foldl
    (fun (s : State) r => s.removeRange r) s
  let b := 2 * (slotOf d % 16)
  (List.range 80).foldl (fun (s : State) r => s.setFld ⟨.infRngRights, r, slotOf d / 16⟩ (b + 1) b 0) s

/-- The registers of a tenant's own window. -/
def tenantRegs (n : Nat) (k : RegKey) : Bool :=
  let w := n + 1
  match k.name with
  | .strEvstat | .strEvpop | .strIrqack | .cadSel | .cadSelstat | .cadRec | .imgCmd | .imgCmdstat | .imgSrc | .imgSrcHi
  | .imgDst | .imgDstHi | .imgLen | .imgLibsel => k.i == w
  | .traySsel | .infRsel | .rtpSel => k.j == w
  | .dbgCtl | .dbgStat | .dbgInsn | .dbgData0 | .dbgData0Hi | .dbgData1 | .dbgData1Hi | .dbgMsg => k.i == 8 + n
  | .traySbudget => k.i == n
  | _ => false

/-- Step 7: the event queue, the registers and DEV_TEXIST. -/
def State.forget (s : State) (n : Nat) : State :=
  let s := (s.modEvq (n + 1) fun _ => {}).resetRegs (tenantRegs n)
  let ran := (look s.imgJobs (n + 1)).any (·.started)
  let s : State := { s with imgJobs := erase s.imgJobs (n + 1), tenantKeys := erase s.tenantKeys n }
  let s := if ran then State.imgServe 65 (n + 1) s else s
  (s.setPower n 0).setFlag ⟨.devTexist, 0, n / 32⟩ (n % 32) false

/-- TEARDOWN of tenant n (R413). -/
def State.tcmdTeardown (s : State) (n : Nat) : State :=
  let d := 0x10 + n
  if s.tenantExists n then
    ((((((((s.closeSessions d).stopIssue d).stopPlans d).takeCups d).stopTray d).stopRanges d).forget n)).tcmdEnd 0
  else s.tcmdEnd 8

/-- The descriptor of a CREATE cannot be read yet (R256). -/
def State.tcmdWaits (s : State) : Bool :=
  s.agentWaits highClass 0x01 (s.pair ⟨.devTdesc, 0, 0⟩ ⟨.devTdescHi, 0, 0⟩) 912

/-- CREATE of tenant n, GO reading 1 until its descriptor can be read. -/
def State.tcmdBegin (s : State) (n : Nat) : State :=
  if s.tcmdWaits then
    ((s.setFlag ⟨.devTcmd, 0, 0⟩ 31 true).setFields ⟨.devTstat, 0, 0⟩ [(31, 30, 1), (27, 24, 0)]).putOff (.create n)
  else (s.setFlag ⟨.devTcmd, 0, 0⟩ 31 false).tcmdCreate n

/-- A write of DEV_TCMD (R412, R413, R467). -/
def State.writeTcmd (s : State) (v : Word) : State :=
  s.goWrite ⟨.devTcmd, 0, 0⟩ v fun s =>
    if bits v 9 8 = 1 then s.tcmdBegin (bits v 5 0) else s.tcmdTeardown (bits v 5 0)

/-- The word of DEV_TCMD that starts an OP on a tenant. -/
def tcmdWord (op n : Nat) : Word := packBits [(31, 31, 1), (9, 8, op), (5, 0, n)]

/-- A change of domain of cups would break the precondition of an entry: a FLIP of one of them, or a BORDER between one of
them and another cup (R108, R183). -/
def State.domainBreaks (s : State) (cups : List Nat) (e : Nat) : Bool :=
  let x := s.spEnt e
  match x.action with
  | 1 => cups.any x.names
  | 3 => cups.any fun c => c == x.border.1 || (cupAcross x.border.1 x.border.2.1).any fun r => r.1 == c
  | _ => false

/-- A write of DEV_TCMD by master m: a CREATE that would break a FINAL entry is held (R186). -/
def State.putTcmd (s : State) (m : Nat) (v : Word) : State :=
  if bit v 31 && bits v 9 8 == 1 then
    let cups := ((s.hbmFetch 0x01 (s.pair ⟨.devTdesc, 0, 0⟩ ⟨.devTdescHi, 0, 0⟩) 912).2.map descCups).getD []
    s.holdOr (s.domainBreaks cups) (.tenantCreate m (Fin.ofNat 64 (bits v 5 0))) fun s => s.writeTcmd v
  else s.writeTcmd v

/-- TENANT_CREATE (R412). -/
def execTenantCreate (m : Nat) (n : Fin 64) (s : State) : Host.Outcome State Fault Refusal :=
  s.writeCommand m ⟨.devTcmd, 0, 0⟩ (tcmdWord 1 n.val) fun s => s.putTcmd m (tcmdWord 1 n.val)

/-- TEARDOWN (R413). -/
def execTeardown (m : Nat) (n : Fin 64) (s : State) : Host.Outcome State Fault Refusal :=
  s.writeCommand m ⟨.devTcmd, 0, 0⟩ (tcmdWord 2 n.val) fun s => s.writeTcmd (tcmdWord 2 n.val)

end Sys2Proof.Machine
end

