-- ==== Sys2Proof/Machine/RegFile.lean ====
section
/-! DEFINITION. Register space: what a write of each register does, dispatched to the operations of its chapter, and
reads and writes of register space as a target answers them (R8 to R11, R30 to R32, R140, R436 to R438). -/

namespace Sys2Proof.Machine

/-! ### Writes held from a final check (R186) -/

/-- A FINAL flip names cup n, in RUN or on its way there, whose firm grant a write takes away. -/
def State.firmHeld (s : State) (n : Nat) (v : Word) (e : Nat) : Bool :=
  decide (n < 192) && s.finalFlip n e && (s.cupState n == 2 || s.cupTarget n == 2) && s.flag ⟨.urnCl, n, 0⟩ 31 && !bit v 31

/-- A FINAL flip names the quadrant's cup, whose divider grants a write takes away. -/
def State.divHeld (s : State) (p j : Nat) (v : Word) (e : Nat) : Bool :=
  bits (s.reg ⟨.leafDivgrant, p, j⟩ &&& ~~~ v) 15 0 != 0 && ((s.cupsOfLeaf p)[j]?).any fun c => s.finalFlip c e

/-- A write of URN_CL[n] by master m. -/
def State.putUrnCl (s : State) (m n : Nat) (v : Word) : State :=
  s.holdOr (s.firmHeld n v) (.registerWrite m (0xF000020100 + 4 * n) 4 v) fun s => s.writeUrnCl n v

/-- A write of LEAF_DIVGRANT[j] of leaf p by master m. -/
def State.putDivgrant (s : State) (m p j : Nat) (v : Word) : State :=
  s.holdOr (s.divHeld p j v) (.registerWrite m (0xF000D00080 + 0x1000 * p + 4 * j) 4 v) fun s => s.divgrantWrite p j v

/-- Makes a held write again, which a FINAL entry of a later tick may hold on (R186). -/
def State.applyHeld (s : State) : Instr → State
  | .cupStateReq m c v => s.writeStateReq m c v
  | .cupBdrvWrite m c sd v => s.writeBdrv m c sd v
  | .cupBrdReqWrite m c sd v => s.writeBrdReq m c sd v
  | .tenantCreate m n => s.putTcmd m (tcmdWord 1 n.val)
  | .registerWrite m a _ v =>
    match s.ownerAt (a - 0xF000000000) with
    | some k => match k.name with
      | .urnCl => s.putUrnCl m k.i v
      | .leafDivgrant => s.putDivgrant m k.i k.j v
      | _ => s
    | none => s
  | _ => s

/-- SP_HELD_WRITES_APPLY (R186): writes held to tick EXEC are applied at EXEC + 1. -/
def execSpHeldWritesApply (s : State) : Host.Outcome State Fault Refusal :=
  s.whenLive fun s =>
    let due := s.heldWrites.filter fun e => e.1 < s.tick
    due.foldl (fun (s : State) e => s.applyHeld e.2) { s with heldWrites := s.heldWrites.filter fun e => s.tick ≤ e.1 }

/-! ### Writes by block -/

/-- DEV, CLK and URN. -/
def State.writeDev (s : State) (m : Nat) (k : RegKey) (v : Word) : State :=
  match k.name with
  | .devToken => s.writeToken m v
  | .devHeartbeat => s.writeHeartbeat m
  | .devTcmd => s.putTcmd m v
  | .urnBudget => s.writeBudget v
  | .urnCl => s.putUrnCl m k.i v
  | _ => s.plainWrite k v

/-- STR, CAD and MNT; the last budget is read-only. -/
def State.writeStr (s : State) (w : Nat) (k : RegKey) (v : Word) : State :=
  match k.name with
  | .strErrctl => s.writeErrctl v
  | .strEvpop => s.writeEvpop w v
  | .strIrqack => s.writeIrqack w v
  | .strInj => s.writeInj v
  | .strInjWord => s.writeInjWord v
  | .strSrc => s.writeSrc k.i v
  | .cadSel => s.writeCadSel w v
  | .mntBudget => if k.i = 3 then s else s.plainWrite k v
  | _ => s.plainWrite k v

/-- TICK. -/
def State.writeTick (s : State) (k : RegKey) (v : Word) : State :=
  match k.name with
  | .timeCtl => s.writeTimeCtl v
  | .timeAdj => s.writeAdj v
  | .timeStep => s.writeStep v
  | .timeSetSecHi => s.writeSet v
  | .spCtl => s.writeSpCtl k.i v
  | .spTickLo | .spTickHi | .spArg => s.writeSpReg k v
  | .spCmd => s.writeSpCmd v
  | _ => s.plainWrite k v

/-- IMG and HCE: context 0 is hidden. -/
def State.writeImg (s : State) (m w : Nat) (k : RegKey) (v : Word) : State :=
  match k.name with
  | .imgCmd => s.writeImgCmd m w v
  | .imgJdata => s.writeJdata m v
  | .imgLibent => s.writeLibent w v
  | .hceCtl => s.writeHceCtl v
  | .hceCtx => s.writeHceCtx k.i v
  | .hceCmd => s.writeHceCmd m k.i v
  | .hceDesc | .hceDescHi => if k.i = 0 then s else s.plainWrite k v
  | _ => s.plainWrite k v

/-- CAS and INF; range 0 is hidden. -/
def State.writeInf (s : State) (m w : Nat) (k : RegKey) (v : Word) : State :=
  match k.name with
  | .casCmd => s.writeCasCmd v
  | .casSlink => s.writeSlink v
  | .casMembers => s.writeMembers k.j v
  | .infRngCtl | .infRngBase | .infRngLimit => if k.i = 0 then s else s.plainWrite k v
  | .infRngRights => s.writeRights (w == 0) k.i k.j v
  | .infRngCmd => s.writeRngCmd m v
  | .infBktCfg => s.writeBucket k.i v
  | _ => s.plainWrite k v

/-- CUP and LEAF. -/
def State.writeCup (s : State) (m : Nat) (k : RegKey) (v : Word) : State :=
  let c : Fin 192 := Fin.ofNat 192 k.i
  match k.name with
  | .cupStateReq => s.writeStateReq m c v
  | .cupLoadCmd => s.writeLoadCmd m k.i v
  | .cupBrdReq => s.writeBrdReq m c (Fin.ofNat 4 k.j) v
  | .cupBdrv => s.writeBdrv m c (Fin.ofNat 4 k.j) v
  | .cupCap => s.writeCap k.i v
  | .cupRbCmd => s.writeRbCmd m k.i v
  | .leafDiv => s.writeDiv k.i k.j v
  | .leafDivgrant => s.putDivgrant m k.i k.j v
  | _ => s.plainWrite k v

/-- TRAY and its collectors. -/
def State.writeTray (s : State) (w : Nat) (k : RegKey) (v : Word) : State :=
  match k.name with
  | .rsvCmd => s.writeRsvCmd v
  | .traySent => s.writeStreamDomain w k.i v
  | .trayQg => s.writeQueueGrant v
  | .colCfg => s.writeColCfg k.i v
  | .colVec => s.writeVec k.i k.j v
  | .colExpect => s.writeExpect k.i k.j v
  | .colPop => s.writePop k.i v
  | _ => s.plainWrite k v

/-- QUAD: the registers of an engine that another quad's serves ignore writes (R205). -/
def State.writeQuad (s : State) (m : Nat) (k : RegKey) (v : Word) : State :=
  match k.name with
  | .lnCtl => s.writeLnCtl k.i v
  | .lnTxeq => s.writeTxeq k.i v
  | .lnEscan => s.writeEscan m k.i v
  | .rawCtl => s.writeRawCtl k.i v
  | .clsSel => if s.ethByEven k.i then s else s.writeClsSel k.i v
  | .clsAct => if s.ethByEven k.i then s else s.writeClsAct k.i v
  | .pacCfg => if s.ethByEven k.i then s else s.writePacCfg k.i v
  | .mrgCfg => if s.ethByEven k.i then s else s.writeMrgCfg k.i k.j v
  | .clsKey | .clsAddr | .clsDefault | .pacSel | .pacStreams | .pacTrs | .mrgSel =>
    if s.ethByEven k.i then s else s.plainWrite k v
  | _ => s.plainWrite k v

/-- STK, its pseudo-channels and real-time ports, and CPU; BOOT holds while the core runs. -/
def State.writeStk (s : State) (w : Nat) (k : RegKey) (v : Word) : State :=
  match k.name with
  | .stkCtl => s.writeStkCtl k.i v
  | .stkCgStart => s.writeCg k.i false v
  | .stkCgCfg => s.writeCg k.i true v
  | .stkWaymask => s.writeWaymask k.i k.j v
  | .pchCtl => s.writePchCtl k.i v
  | .rtpCfg => s.writeRtpCfg k.i v
  | .rtpBind | .rtpBase | .rtpBaseHi | .rtpRing | .rtpStart | .rtpStartHi | .rtpPeriod | .rtpPeriodHi | .rtpInterval
  | .rtpStat =>
    s.writeRtpReg (w == 0) k v
  | .cpuCtl => s.writeCpuCtl k.i v
  | .cpuMsip => s.writeMsip k.i v
  | .cpuMtimecmp | .cpuMtimecmpHi => s.writeTimeCmp k v
  | .cpuPin => s.writePin k.i v
  | .cpuBoot | .cpuBootHi => if s.coreRuns k.i then s else s.plainWrite k v
  | _ => s.plainWrite k v

/-- DBG but for DBG_CTL: DBG_INSN is kept though it reads zero. -/
def State.writeDbg (s : State) (k : RegKey) (v : Word) : State :=
  match k.name with
  | .dbgCtl => s
  | .dbgInsn => s.setReg k v
  | _ => s.plainWrite k v

/-- A write of a register that its window lets pass: by the acting master m, through window w. -/
def State.putReg (s : State) (m w : Nat) (k : RegKey) (v : Word) : State :=
  match blkOf k.name with
  | .dev | .clk | .urn => s.writeDev m k v
  | .str | .cad | .mnt => s.writeStr w k v
  | .tick => s.writeTick k v
  | .img | .hce => s.writeImg m w k v
  | .cas | .inf => s.writeInf m w k v
  | .cup | .leaf => s.writeCup m k v
  | .tray | .col => s.writeTray w k v
  | .lane | .port => s.writeQuad m k v
  | .stk | .pch | .cpu => s.writeStk w k v
  | .dbg => s.writeDbg k v
  | .rtr | .pcie => s

/-! ### What the register itself refuses -/

/-- The tenant whose window is w. -/
def winTenant (w : Nat) : Nat := w - 1

/-- The master that acts for an access through window w: the owner's masters act in a tenant's window as its function. -/
def State.acting (s : State) (m w : Nat) : Nat :=
  if w = 0 ∨ s.midDomain m = some (windowDom w) then m else domMid (windowDom w)

/-- A DBG register whose window belongs to another master's session (R417). -/
def State.boundKey (s : State) (m : Nat) (k : RegKey) : Bool := blkOf k.name == .dbg && s.dbgBound m k.i

/-- A write that the register refuses for its value (R142, R293, R309). -/
def State.valueDenied (s : State) (m : Nat) (k : RegKey) (v : Word) : Bool :=
  match k.name with
  | .cupSin | .cupSout => s.bindDenied m v
  | .cupLoadCmd => s.loadDenied k.i v
  | .infRngCmd => s.rngDenied m v
  | _ => false

/-- Whether window w lets master m read register k (R31, R140, R436). -/
def State.mayReadReg (s : State) (m w : Nat) (k : RegKey) : Bool :=
  !s.boundKey m k && !(s.midDomain m).any (fun d => s.colBars d k) &&
    (w == 0 || s.tenantExists (winTenant w) && s.tenantSees (winTenant w) k)

/-- The owner token that a write of register k needs is not master m's (R408). -/
def State.tokenBars (s : State) (m : Nat) (k : RegKey) : Bool :=
  s.lacksToken m && k.name != .devToken && blkOf k.name != .dbg

/-- Whether window w lets master m write register k (R408, R436, R465): a tenant's RIGHTS only for the tenant itself, since
the owner sets its own slot by the range's domain alone (R280). -/
def State.mayWriteReg (s : State) (m w : Nat) (k : RegKey) : Bool :=
  s.mayReadReg m w k && !s.tokenBars m k &&
  (w == 0 || tenantWrites k && (k.name != .infRngRights ||
    (s.range k.i).owner == windowDom w && s.midDomain m == some (windowDom w)))

/-- A master may use window w at all (R140). -/
def State.mayUseWin (s : State) (m w : Nat) : Bool :=
  match s.midDomain m with
  | some d => d == 0x00 || d == 0x01 || (w != 0 && d == windowDom w)
  | none => false

/-! ### The target's answers -/

/-- A write of a register through window w: the state and the response code. -/
def State.regPut (s : State) (put : State → Nat → Nat → RegKey → Word → State) (m w : Nat) (k : RegKey) (v : Word) :
    State × Code :=
  if !s.mayReadReg m w k || s.tokenBars m k then (s, .denied)
  else if s.keyGone k then (s, .retired)
  else if !s.mayWriteReg m w k then (s, .denied)
  else
    let a := s.acting m w
    if s.valueDenied a k v then (s, .denied)
    else
      let s := if blkOf k.name == .dbg then s.touchSession m k.i else s
      (put s (if blkOf k.name == .dbg then m else a) w k v, .ok)

/-- A read of a register through window w: the state, the code and the word. -/
def State.regGet (s : State) (m w : Nat) (k : RegKey) : State × Code × Word :=
  if !s.mayReadReg m w k then (s, .denied, 0)
  else if s.keyGone k then (s, .retired, 0)
  else
    let v := s.readValue m w k
    let s := if blkOf k.name == .dbg then s.touchSession m k.i else s
    (s.readEffect m w k, .ok, v)

/-- An offset of the owner window lies in the block of a cup that answers RETIRED (R22, R24), to a misaligned access too
(log entry 111). -/
def State.goneAt (s : State) (o : Nat) : Bool :=
  decide (0x0100000 ≤ o ∧ o < 0x0D00000) && s.cupGone ((o - 0x0100000) / 0x10000)

/-- An offset of window w lies in the block of a cup of its tenant's that answers RETIRED. -/
def State.goneIn (s : State) (w o : Nat) : Bool :=
  decide (o < 0x0C00000) && s.tenantExists (winTenant w) && s.cupDom (o / 0x10000) == windowDom w && s.cupGone (o / 0x10000)

/-- A write to register space, w 0 the owner window, at offset o of a window (R8, R10, R438). -/
def State.spaceWrite (s : State) (put : State → Nat → Nat → RegKey → Word → State) (m w o : Nat) (data : List Byte) :
    State × Code :=
  if !s.mayUseWin m w then (s, .denied)
  else
    let good := o % 4 = 0 ∧ data.length = 4
    if w = 0 then
      match if good then s.ownerAt o else none with
      | some k => s.regPut put m 0 k (wordOf data)
      | none => (s, if s.lacksToken m then .denied else if s.goneAt o then .retired else .ok)
    else
      match if good then s.tenantAt (winTenant w) o else none with
      | some k => s.regPut put m w k (wordOf data)
      | none => (s, if good ∧ s.goneIn w o = true then .retired else .denied)

/-- A read of register space (R8, R10, R438). -/
def State.spaceRead (s : State) (m w o len : Nat) : State × Code × List Byte :=
  if !s.mayUseWin m w then (s, .denied, [])
  else
    let good := o % 4 = 0 ∧ len = 4
    if w = 0 then
      match if good then s.ownerAt o else none with
      | some k => match s.regGet m 0 k with
        | (s, .ok, v) => (s, .ok, wordBytes v)
        | (s, c, _) => (s, c, [])
      | none => if s.goneAt o then (s, .retired, []) else (s, .ok, List.replicate len 0)
    else
      match if good then s.tenantAt (winTenant w) o else none with
      | some k => match s.regGet m w k with
        | (s, .ok, v) => (s, .ok, wordBytes v)
        | (s, c, _) => (s, c, [])
      | none => (s, if good ∧ s.goneIn w o = true then .retired else .denied, [])

end Sys2Proof.Machine
end

