-- ==== Sys2Proof/Machine/Debug.lean ====
section
/-! DEFINITION. Debug commands (R420 to R427, R431): DBG_CTL, halting and feeding cores, captures and recovery. -/

namespace Sys2Proof.Machine

/-! ### Cores under debug (R422, R423) -/

/-- A session may command a core: one of its domain, or the Kettle in a session scoped to 0x00 (R426). -/
def State.dbgCore (s : State) (x : SessSt) (t : Nat) : Bool :=
  if t = 16 then x.dom == 0x00 else decide (t < 16) && s.coreDom t == x.dom && x.dom != 0x00

/-- The core is halted by the session. -/
def SessSt.halts (x : SessSt) (t : Nat) : Bool := x.halted.contains t

/-- The master ID of a core's own requests (R133): the Kettle's is 0x180. -/
def coreMid (t : Nat) : Nat := if t = 16 then 0x180 else 0x100 + t

/-- HALT at an instruction boundary, the core's outstanding requests complete: a core in reset fails with CODE 0100. -/
def State.dbgHalt (s : State) (i win t : Nat) : State :=
  if t < 16 ∧ s.coreState t = 0 then s.dbgEnd win 4
  else
    let s := if t < 16 then s.setFields ⟨.cpuStat, t, 0⟩ [(31, 29, 6)] else s
    (s.modSession i fun x => { x with halted := x.halted.filter (· != t) ++ [t] }).dbgEnd win 0

/-- RESUME. -/
def State.dbgResume (s : State) (i win t : Nat) : State :=
  if (s.session i).halts t then
    ((s.goCore t).modSession i fun x => { x with halted := x.halted.filter (· != t) }).dbgEnd win 0
  else s.dbgEnd win 4

/-- The instructions EXEC refuses: control transfers, compressed forms, WFI, ECALL, EBREAK, MRET and SRET. -/
def execBarred (w : Word) : Bool :=
  bits w 1 0 != 3 || bits w 6 0 == 0x6F || bits w 6 0 == 0x67 || bits w 6 0 == 0x63 || w == 0x10500073 ||
  w == 0x00000073 || w == 0x00100073 || w == 0x30200073 || w == 0x10200073

/-- The causes of the RISC-V set for refused fetches, loads and stores (log entry 6). -/
def causeFetch : Nat := 1
def causeLoad : Nat := 5
def causeStore : Nat := 7

/-- A read of master mid on the tray; none where it is refused or fails. -/
def State.busRead (s : State) (mid d a n : Nat) : State × Option (List Byte) :=
  match s.target a with
  | .hbm => match s.hbmRead d a n 0 true with
    | (s, .ok b) => (s, some b)
    | (s, _) => (s, none)
  | .owner o => match s.spaceRead mid 0 o n with
    | (s, .ok, b) => (s, some b)
    | (s, _, _) => (s, none)
  | .tenant k o => match s.spaceRead mid (k + 1) o n with
    | (s, .ok, b) => (s, some b)
    | (s, _, _) => (s, none)
  | _ => (s, none)

/-- A write of master mid on the tray. -/
def State.busWrite (s : State) (mid d a : Nat) (data : List Byte) : State × Bool :=
  match s.target a with
  | .hbm => match s.hbmWrite d a data true with
    | (s, .ok _) => (s, true)
    | (s, _) => (s, false)
  | .owner o => match s.spaceWrite State.putReg mid 0 o data with
    | (s, c) => (s, c == .ok)
  | .tenant k o => match s.spaceWrite State.putReg mid (k + 1) o data with
    | (s, c) => (s, c == .ok)
  | _ => (s, false)

/-- A read by the Kettle (R403): its private SRAM and ROM, or the tray under `mid`. -/
def State.kettleRead (s : State) (mid a n : Nat) : State × Option (List Byte) :=
  match Config.kettleMap a with
  | some (.inl i) => (s, some ((List.range n).map fun k => nget s.kettleRam ((i.val + k) % 4194304) 0))
  | some (.inr i) => (s, some ((List.range n).map fun k => Config.kettleRom (i + k)))
  | none => s.busRead mid 0x00 a n

/-- A write by the Kettle; the ROM takes none. -/
def State.kettleWrite (s : State) (mid a : Nat) (data : List Byte) : State × Bool :=
  match Config.kettleMap a with
  | some (.inl i) =>
    let put (l : List Host.Cell) (k : Nat) : List Host.Cell := nput l ((i.val + k) % 4194304) (data.getD k 0) 0
    ({ s with kettleRam := (List.range data.length).foldl put s.kettleRam }, true)
  | some (.inr _) => (s, false)
  | none => s.busWrite mid 0x00 a data

/-- An access of a tenant core goes to its cluster's L2: it is to HBM (R406). -/
def l2Access (t a : Nat) : Bool := decide (a < 0x4800000000 ∧ t < 16)

/-- A core's own read: HBM through its cluster's L2, line by line, anything else on the tray. -/
def State.coreRead (s : State) (t d a n : Nat) : State × Option (List Byte) :=
  if l2Access t a then
    (lineParts a n).foldl
      (fun (e : State × Option (List Byte)) p => match e.2 with
        | some acc =>
          if (e.1.hbmRight d (64 * p.1) false).isNone then (e.1, none)
          else match e.1.l2Get (t / 4) d (64 * p.1) with
            | (s, some b) => (s, some (acc ++ slice b p.2.1 p.2.2.1))
            | (s, none) => (s, none)
        | none => e) (s, some [])
  else if t = 16 then s.kettleRead (coreMid t) a n
  else s.busRead (coreMid t) d a n

/-- A core's own write. -/
def State.coreWrite (s : State) (t d a : Nat) (data : List Byte) : State × Bool :=
  if l2Access t a then
    (lineParts a data.length).foldl
      (fun (e : State × Bool) p =>
        if e.2 then e.1.l2Put (t / 4) d (64 * p.1 + p.2.1) (slice data p.2.2.2 p.2.2.1) else e) (s, true)
  else if t = 16 then s.kettleWrite (coreMid t) a data
  else s.busWrite (coreMid t) d a data

/-- An access of a class waits for a training stage (R256): not one that the core's L2 holds. -/
def State.coreWaits (s : State) (cls : Nat) (t d a n : Nat) : Bool :=
  a < 0x4800000000 && (lineParts a n).any fun p =>
    !(t < 16 && s.l2.any fun l => l.isOf (t / 4) d && l.addr == 64 * p.1) && s.agentWaits cls d (64 * p.1) 64

/-- The memory access of an instruction: the state with the loaded value, or the cause of the fault. -/
def State.rvMem (s : State) (rd : State → Nat → Nat → State × Option (List Byte))
    (wr : State → Nat → List Byte → State × Bool) (acc : Option (Nat × Nat × List Byte)) : State × Except Nat Nat :=
  match acc with
  | none => (s, .ok 0)
  | some (a, n, data) =>
    let r := if n = 0 then (s, some []) else rd s a n
    match r with
    | (s, none) => (s, .error causeLoad)
    | (s, some b) =>
      if data.isEmpty then (s, .ok (ofLe b))
      else match wr s a data with
        | (s, true) => (s, .ok (ofLe b))
        | (s, false) => (s, .error causeStore)

/-- DBG_DATA0 and DBG_DATA1 of a window as 64-bit words. -/
def State.dbgData (s : State) (win : Nat) : BitVec 64 × BitVec 64 :=
  (BitVec.ofNat 64 (s.pair ⟨.dbgData0, win, 0⟩ ⟨.dbgData0Hi, win, 0⟩),
   BitVec.ofNat 64 (s.pair ⟨.dbgData1, win, 0⟩ ⟨.dbgData1Hi, win, 0⟩))

/-- EXEC: the instruction in DBG_INSN at machine privilege, CSRs 0x7B1 to 0x7B3 being dpc and the data registers; an
exception has no effect but CODE 0011 and CAUSE. -/
def State.dbgExec (s : State) (i win t : Nat) : State :=
  let x := s.session i
  let insn := s.reg ⟨.dbgInsn, win, 0⟩
  if !x.halts t then s.dbgEnd win 4
  else if execBarred insn then s.dbgEnd win 5
  else
    let c := s.core t
    let d := s.dbgData win
    let csr := nset (nset (nset c.csr 0x7B1 c.pc) 0x7B2 d.1) 0x7B3 d.2
    let mid := 0x190 + i
    let fail (s : State) (cause : Nat) : State := (s.setFld ⟨.dbgStat, win, 0⟩ 23 16 cause).dbgEnd win 3
    let kettle := x.dom == 0x00
    match s.rvMem (fun s a n => if kettle then s.kettleRead mid a n else s.busRead mid x.dom a n)
        (fun s a b => if kettle then s.kettleWrite mid a b else s.busWrite mid x.dom a b)
        (Config.rvAccess insn c.x c.f csr c.pc 3) with
    | (_, .error e) => fail s e
    | (s', .ok v) =>
      match Config.rvStep insn c.x c.f csr c.pc 3 (BitVec.ofNat 64 v) with
      | (_, _, _, _, _, some e) => fail s e
      | (xs, fs, cs, _, _, none) =>
        let s := s'.modCore t fun c =>
          { c with x := xs, f := fs, pc := nget cs 0x7B1 c.pc, csr := cs.filter fun e => !inRange 0x7B1 0x7B3 e.1 }
        let s := s.setPair ⟨.dbgData0, win, 0⟩ ⟨.dbgData0Hi, win, 0⟩ (nget cs 0x7B2 d.1).toNat
        (s.setPair ⟨.dbgData1, win, 0⟩ ⟨.dbgData1Hi, win, 0⟩ (nget cs 0x7B3 d.2).toNat).dbgEnd win 0

/-- A trap is taken. -/
def CoreSt.trap (c : CoreSt) (cause : Nat) : CoreSt :=
  let r := Config.rvTrap c.csr c.pc c.priv cause
  { c with csr := r.1, pc := r.2.1, priv := r.2.2 }

/-- The bytes of the instruction at a core's pc, none where the fetch is refused; n numbers the use. -/
def State.coreFetch (s : State) (n t d : Nat) : State × Option (List Byte) :=
  let c := s.core t
  match Config.rvFetch n c.csr c.pc c.priv with
  | some a => s.coreRead t d a 4
  | none => (s, none)

/-- One instruction of core t at its pc, as the core executes it (log entry 6). -/
def State.coreStep (s : State) (t d : Nat) : State :=
  let c := s.core t
  match s.draw.coreFetch s.freeCtr t d with
  | (s, none) => s.modCore t fun c => c.trap causeFetch
  | (s, some b) =>
    let insn := wordOf b
    match s.rvMem (fun s a n => s.coreRead t d a n) (fun s a b => s.coreWrite t d a b)
        (Config.rvAccess insn c.x c.f c.csr c.pc c.priv) with
    | (s, .error e) => s.modCore t fun c => c.trap e
    | (s, .ok v) =>
      match Config.rvStep insn c.x c.f c.csr c.pc c.priv (BitVec.ofNat 64 v) with
      | (_, _, _, _, _, some e) => s.modCore t fun c => c.trap e
      | (xs, fs, cs, pc, priv, none) => s.modCore t fun c => { c with x := xs, f := fs, csr := cs, pc, priv }

/-- A core's next instruction, or the access it makes, waits for a training stage. -/
def State.stepWaits (s : State) (t d : Nat) : Bool :=
  let c := s.core t
  let fetch := match Config.rvFetch s.freeCtr c.csr c.pc c.priv with
    | some a => s.coreWaits normClass t d a 4
    | none => false
  fetch || match (s.draw.coreFetch s.freeCtr t d).2 with
    | some b => match Config.rvAccess (wordOf b) c.x c.f c.csr c.pc c.priv with
      | some (a, n, data) => s.coreWaits normClass t d a (max n data.length)
      | none => false
    | none => false

/-- The access of a fed instruction waits for a training stage. -/
def State.execWaits (s : State) (win t d : Nat) : Bool :=
  let c := s.core t
  let dd := s.dbgData win
  match Config.rvAccess (s.reg ⟨.dbgInsn, win, 0⟩) c.x c.f (nset (nset (nset c.csr 0x7B1 c.pc) 0x7B2 dd.1) 0x7B3 dd.2) c.pc 3 with
  | some (a, n, data) => s.coreWaits highClass 17 d a (max n data.length)
  | none => false

/-- STEP. -/
def State.dbgStep (s : State) (i win t : Nat) : State :=
  let x := s.session i
  if x.halts t then (s.coreStep t x.dom).dbgEnd win 0 else s.dbgEnd win 4

/-! ### CAPTURE (R425) -/

/-- The cups of a CAPTURE's mask. -/
def captureCups (b : List Byte) : List Nat := (List.range 192).filter fun c => (numAt b (c / 8) 1).testBit (c % 8)

/-- An armed entry names one of the cups at a tick, in its mask or as a border's cup, or a readback holds its lease. -/
def State.captureBusy (s : State) (cups : List Nat) (t : Nat) : Bool :=
  ((List.range 256).any fun e => s.spArmed e && s.spLocalTick e == t &&
    (match s.spAction e with
      | 1 | 4 => (s.spCups e).any cups.contains
      | 3 => cups.contains (s.spEnt e).border.1
      | _ => false)) ||
  cups.any fun c => s.leased .captureReadback (.cup c)

/-- CAPTURE: a capture at a tick at least 2,500 ahead, accepted at once (log entry 26). -/
def State.dbgCapture (s : State) (m i win : Nat) : State :=
  let x := s.session i
  let b := s.dbgMsg win 40
  let cups := captureCups b
  let t := numAt b 32 8
  let mode := numAt b 24 1
  if t < s.tick + 2500 ∨ 1 < mode ∨ cups.any (fun c => s.cupDom c != x.dom) = true then s.dbgRefuse m win 1
  else if s.captureBusy cups t then s.dbgRefuse m win 2
  else (s.modSession i fun x => { x with captures := x.captures ++ [(cups, mode == 1, t)] }).dbgEnd win 0

/-- DEBUG_CAPTURE_TICK (R425): the tick of a session's captures, those that it has now reached. -/
def execDebugCaptureTick (i : Fin 8) (s : State) : Host.Outcome State Fault Refusal :=
  s.whenServing fun s =>
    let due := (s.session i.val).captures.filter fun e => s.root == 16 * e.2.2
    due.foldl (fun (s : State) (e : List Nat × Bool × Nat) =>
      let s := s.modSession i.val fun x =>
        { x with captures := x.captures.erase e, held := if e.2.1 then x.held.filter (fun c => !e.1.contains c) ++ e.1 else x.held }
      e.1.foldl (fun (s : State) c => s.draw.capture c (Config.freeNat s.freeCtr % 256) e.2.1) s) s

/-! ### RECOVER (R427) -/

/-- The SEQ of the halt record that was written last. -/
def NvSt.haltSeq (nv : NvSt) : Option Nat := (nv.ring.find? fun r => r.cause == 0x0601).map (·.seq)

/-- A recovery's parameter block names this boot and halt and is signed by an active slot. -/
def State.recoverOk (s : State) (b : List Byte) : Bool :=
  numAt b 0 1 == 0 && numAt b 1 4 == s.nv.boot % 2 ^ 32 && s.nv.haltSeq == some (numAt b 5 4) && allZero (slice b 9 40) &&
  (match s.nv.slot (numAt b 49 1) with
  | .active h => Config.slotSigOk h
      ([0x52, 0x43, 0x56, 0x52] ++ slice b 0 49 ++ digestBytes (sha384 Config.devicePub)) (slice b 50 96)
  | _ => false)

/-- RECOVER: in integrity halt, over JTAG with no session, a valid block makes a CHIP reset due; any other case is
DENIED at 50 ms. -/
def State.dbgRecover (s : State) (m win : Nat) : State :=
  if m = jtagMid ∧ s.phase = .integrity ∧ s.sessAt win = none ∧ s.recoverOk (s.dbgMsg win 146) = true then
    ({ s with chipDue := true, chipWhy := 5 }).dbgEnd win 0
  else
    ((s.setFields ⟨.dbgStat, win, 0⟩ [(31, 30, 1)]).setFlag ⟨.dbgCtl, win, 0⟩ 31 true).hold m 0 authLatency
      (.status [(⟨.dbgStat, win, 0⟩, [(31, 30, 3), (27, 24, 1)]), (⟨.dbgCtl, win, 0⟩, [(31, 31, 0)])])

/-! ### DBG_CTL (R431) -/

/-- An OP runs on, GO reading 1, until the core's requests are complete or a training stage ends (R256, R422). -/
def State.dbgPutOff (s : State) (win : Nat) : State :=
  ((s.setFields ⟨.dbgStat, win, 0⟩ [(31, 30, 1)]).setFlag ⟨.dbgCtl, win, 0⟩ 31 true).putOff (.core win)

/-- What an OP does in an open session i. -/
def State.sessOp (s : State) (m i win op t : Nat) : State :=
  let x := s.session i
  if op = 8 then s.dbgCapture m i win
  else if !s.dbgCore x t then s.dbgRefuse m win 1
  else match op with
  | 4 => if t < 17 && s.outstanding.any (fun e => e.mid == coreMid t) then s.dbgPutOff win else s.dbgHalt i win t
  | 5 => s.dbgResume i win t
  | 6 => if x.halts t && s.stepWaits t x.dom then s.dbgPutOff win else s.dbgStep i win t
  | _ =>
    if x.halts t && !execBarred (s.reg ⟨.dbgInsn, win, 0⟩) && s.execWaits win t x.dom then s.dbgPutOff win
    else s.dbgExec i win t

/-- A write of DBG_CTL in window `win` by master m (R431, R467). -/
def State.writeDbgCtl (s : State) (m win : Nat) (v : Word) : State :=
  let k : RegKey := ⟨.dbgCtl, win, 0⟩
  s.goWrite k v fun s =>
    let s := s.setFields ⟨.dbgStat, win, 0⟩ [(27, 24, 0), (23, 16, 0)]
    match bits v 27 24 with
    | 1 => s.dbgHello m win
    | 2 => s.dbgProof m win
    | 3 => s.dbgCloseOp m win
    | 9 => s.dbgRecover m win
    | op => match s.sess.find? fun e => e.2.win == win && e.2.isOpen && e.2.mid == m with
      | some (i, _) => s.sessOp m i win op (s.fld k 4 0)
      | none => s.dbgRefuse m win 1

/-- An OP that was put off is tried again; one whose session has closed is gone. -/
def State.dbgRetry (s : State) (win : Nat) : State :=
  let k : RegKey := ⟨.dbgCtl, win, 0⟩
  match s.sess.find? fun e => e.2.win == win && e.2.isOpen with
  | some (i, x) => if s.flag k 31 then s.sessOp x.mid i win (s.fld k 27 24) (s.fld k 4 0) else s
  | none => s

/-- Work that waits for HBM is tried again, in order (R256). -/
def State.tryLater (s : State) : State :=
  s.later.foldl
    (fun (s : State) (l : Later) => match l with
      | .descriptor i => s.hceRetry i
      | .create n => if s.flag ⟨.devTcmd, 0, 0⟩ 31 then s.tcmdBegin n else s
      | .core win => s.dbgRetry win
      | .join id ds => s.joinRetry id ds
      | .census id first ds => s.censusTake id first ds) { s with later := [] }

/-- A write of any register. -/
def State.writeReg (s : State) (m w : Nat) (k : RegKey) (v : Word) : State :=
  if k.name = .dbgCtl then s.writeDbgCtl m k.i v else s.putReg m w k v

/-- Session window `win` refuses master m: it belongs to another master's session, or to the tenants alone (R417, R435). -/
def State.dbgBars (s : State) (m win : Nat) : Bool := s.dbgBound m win || (win == 8 && !s.isTenant m)

/-- A register write that a FENCE of its master held back, at its register (R144). -/
def State.putKey (s : State) (m : Nat) (k : RegKey) (v : Word) : State :=
  let dbg := blkOf k.name == .dbg
  if s.writeVerdict m k = .pass ∧ s.keyGone k = false ∧ (s.valueDenied m k v || (dbg && s.dbgBars m k.i)) = true then
    s.denyAccess m
  else s.regWrite m k fun s =>
    (if dbg then s.touchSession m k.i else s).writeReg m (windowOf ((s.midDomain m).getD 0)) k v

/-- A write of DBG_CTL with an OP, through session window w: the owner's masters have 0 to 7, a tenant's its own; the
window of another master's session refuses it (R417). -/
def State.dbgCommand (s : State) (m w op : Nat) (v : Word) : Host.Outcome State Fault Refusal :=
  let win := s.dbgWin m w
  let v := putBits (putBits v 31 31 1) 27 24 op
  s.writeUnless m ⟨.dbgCtl, win, 0⟩ v (s.dbgBars m win) fun s => (s.touchSession m win).writeDbgCtl m win v

/-- HELLO (R420). -/
def execHello (m : Nat) (w : Fin 9) (v : Word) (s : State) : Host.Outcome State Fault Refusal := s.dbgCommand m w.val 1 v

/-- PROOF (R420). -/
def execProof (m : Nat) (w : Fin 9) (v : Word) (s : State) : Host.Outcome State Fault Refusal := s.dbgCommand m w.val 2 v

/-- DBG_CLOSE (R421). -/
def execDbgClose (m : Nat) (w : Fin 9) (v : Word) (s : State) : Host.Outcome State Fault Refusal :=
  s.dbgCommand m w.val 3 v

/-- HALT (R422). -/
def execHalt (m : Nat) (w : Fin 9) (v : Word) (s : State) : Host.Outcome State Fault Refusal := s.dbgCommand m w.val 4 v

/-- RESUME (R423). -/
def execResume (m : Nat) (w : Fin 9) (v : Word) (s : State) : Host.Outcome State Fault Refusal := s.dbgCommand m w.val 5 v

/-- STEP (R423). -/
def execStep (m : Nat) (w : Fin 9) (v : Word) (s : State) : Host.Outcome State Fault Refusal := s.dbgCommand m w.val 6 v

/-- EXEC (R423). -/
def execExec (m : Nat) (w : Fin 9) (v : Word) (s : State) : Host.Outcome State Fault Refusal := s.dbgCommand m w.val 7 v

/-- DBG_CAPTURE (R425). -/
def execDbgCapture (m : Nat) (w : Fin 9) (v : Word) (s : State) : Host.Outcome State Fault Refusal :=
  s.dbgCommand m w.val 8 v

/-- RECOVER (R427). -/
def execRecover (m : Nat) (w : Fin 9) (v : Word) (s : State) : Host.Outcome State Fault Refusal := s.dbgCommand m w.val 9 v

end Sys2Proof.Machine
end

