-- ==== Sys2Proof/Machine/Access.lean ====
section
/-! DEFINITION. Tray requests (R133 to R144): READ, WRITE and FENCE, the answers of their targets, responses reaching
their masters, timeouts and the latency of refusals (R415), and register accesses as commands state them (R8 to R10,
R464, R465). -/

namespace Sys2Proof.Machine

/-! ### A request at its target -/

/-- 1 to 4,096 bytes that cross no 4 KiB boundary (R135). -/
def legalExtent (a len : Nat) : Bool := decide (1 ≤ len ∧ len ≤ 4096 ∧ a % 4096 + len ≤ 4096)

/-- What register an address names, in register space. -/
def State.keyAt (s : State) (a : Nat) : Option RegKey :=
  if a % 4 ≠ 0 then none
  else match s.target a with
  | .owner o => s.ownerAt o
  | .tenant n o => s.tenantAt n o
  | _ => none

/-- A request of master m to an address is taken at all: the blocks answer, or JTAG asks a register that still does
(R292, R312, R314, R315, R391, R402). -/
def State.takes (s : State) (m a : Nat) : Bool :=
  (s.midDomain m).isSome &&
  match s.keyAt a with
  | some k => s.reaches m k
  | none => s.live

/-- A queue aperture lets the request through to the queue (R31, R32, R140, R141, R408); the mailbox only while it is
enabled. -/
def State.apertureOk (s : State) (m : Nat) (q : QRef) (win : Nat) (wr : Bool) : Bool :=
  match s.midDomain m with
  | some d => s.domQueue d q win && !(wr && s.lacksToken m) && s.queueRight m q wr
  | none => false

/-- A cup's queues that answer RETIRED. -/
def State.queueGone (s : State) (q : QRef) : Bool := (qCup q).any s.cupGone

/-- A collector's aperture lets the request through: it is one of the master's own window (R159), 32 bytes aligned. -/
def State.signalOk (s : State) (m win a len : Nat) : Bool :=
  len == 32 && a % 32 == 0 && !s.lacksToken m && (s.midDomain m).any fun d => windowOf d == win

/-- Answers a refusable request, `win` saying whether it came to a tenant window: DENIED at its latency, any other code at
once. -/
def State.finish (s : State) (win : Bool) (m tag : Nat) (c : Code) (b : List Byte := []) : State :=
  if c = .denied then s.denyIn win m tag else s.respond m tag c b

/-- A line of a legal request to HBM suffers an error that SECDED cannot correct, where the cache slice holds it (R264). -/
def State.secdedAt (s : State) (a len i : Nat) : State :=
  match s.target a with
  | .hbm => if legalExtent a len && decide (i ≤ (a + len - 1) / 64 - a / 64) then s.spoilCached (a / 64 + i) else s
  | _ => s

/-- A READ at its target (R8, R104, R135, R140).  A malformed aperture access is DENIED even where the queue's cup is gone,
since R104 refuses it before the queue is asked (R22, R104; log entry 85). -/
def State.readAt (s : State) (m tag a len : Nat) : State :=
  let win := s.uniformAt a
  if !legalExtent a len then s.denyIn win m tag
  else match s.target a with
  | .hbm => match s.midDomain m with
    | some d => s.hbmReadReq m tag d a len
    | none => s.denyTray m tag
  | .owner o => match s.spaceRead m 0 o len with
    | (s, c, b) => s.finish win m tag c b
  | .tenant n o => match s.spaceRead m (n + 1) o len with
    | (s, c, b) => s.finish win m tag c b
  | .queue q .rd w =>
    if (len = 32 ∨ len = 64) ∧ a % len = 0 ∧ s.apertureOk m q w false = true then
      if s.queueGone q then s.respond m tag .retired else s.qAccess m tag q (.rd (len / 32))
    else s.denyIn win m tag
  | _ => s.denyIn win m tag

/-- A WRITE at its target (R8, R104, R135, R140, R159); malformed aperture accesses as in `readAt`. -/
def State.writeAt (s : State) (m tag a : Nat) (data : List Byte) : State :=
  let win := s.uniformAt a
  let len := data.length
  if !legalExtent a len then s.denyIn win m tag
  else match s.target a with
  | .hbm => match s.midDomain m with
    | some d => if s.lacksToken m then s.denyTray m tag else s.hbmWriteReq m tag d a data
    | none => s.denyTray m tag
  | .owner o => match s.spaceWrite State.writeReg m 0 o data with
    | (s, c) => s.finish win m tag c
  | .tenant n o => match s.spaceWrite State.writeReg m (n + 1) o data with
    | (s, c) => s.finish win m tag c
  | .queue q op w =>
    if (len = 32 ∨ len = 64) ∧ a % len = 0 ∧ s.apertureOk m q w true = true then
      match qWriteAccess op data with
      | some acc =>
        if s.queueGone q then s.respond m tag .retired
        else s.qAccess m tag q acc
      | none => s.denyIn win m tag
    else s.denyIn win m tag
  | .signal n msg w =>
    if s.signalOk m w a len then s.colSend m tag n (if msg then some data else none) else s.denyIn win m tag
  | _ => s.denyIn win m tag

/-- The code with which a target would refuse a write for its rights or its existence, none where it would take it. -/
def State.writeBar (s : State) (m a : Nat) (data : List Byte) : Option Code :=
  let len := data.length
  if !legalExtent a len then some .denied
  else match s.target a with
  | .hbm => match s.midDomain m with
    | some d => if s.lacksToken m || !s.mayWrite d a len then some .denied else none
    | none => some .denied
  | .owner o => match (s.spaceWrite (fun s _ _ _ _ => s) m 0 o data).2 with
    | .ok => none
    | c => some c
  | .tenant n o => match (s.spaceWrite (fun s _ _ _ _ => s) m (n + 1) o data).2 with
    | .ok => none
    | c => some c
  | .queue q op w =>
    if (len = 32 ∨ len = 64) ∧ a % len = 0 ∧ s.apertureOk m q w true = true ∧ (qWriteAccess op data).isSome = true then
      if s.queueGone q then some .retired else none
    else some .denied
  | .signal n _ w => if s.signalOk m w a len && (s.colWould m n).isSome then none else some .denied
  | _ => some .denied

/-- Write data that an error damaged: the target discards the write (R138), and tells of the damage only a master whose
rights reach it (R142). -/
def State.writeDamaged (s : State) (m tag a : Nat) (data : List Byte) : State :=
  match s.writeBar m a data with
  | some c => s.finish (s.uniformAt a) m tag c
  | none => s.respond m tag .uncorrectable

/-- A router discards the flit whose header is damaged, with the rest of its request or response (R138, R434). -/
def State.headerError (s : State) (k : Nat) : State :=
  if k < 240 then (s.countUp ⟨.rtrErr, k, 0⟩ 15 0).raiseEvent (0x300 + k) 0 [] [] else s

/-- The errors that a request or a response meets on its way over the routers of a list: an injected one that waits there
is spent, and one of two bits damages the header, which crosses first (R138, R401); otherwise the error is the one given. -/
def State.wayError (s : State) (l : List Nat) (err : FlitErr) : State × FlitErr × Bool :=
  match s.flitInj.find? fun e => l.contains e.1 with
  | some (k, n) => ({ s with flitInj := erase s.flitInj k }, if n = 2 then .header k else err, n == 2)
  | none => (s, err, false)

/-- The routers that a request of master m to an address crosses (R131). -/
def State.wayOut (s : State) (m a : Nat) : List Nat := routersOn (s.masterRouter m) (s.place m (s.endpoint m a)).1

/-- No answer to a request can come any more (R138). -/
def State.loseRequest (s : State) (m tag : Nat) : State :=
  { s with outstanding := s.outstanding.map fun o => if o.mid = m ∧ o.tag = tag then { o with lost := true } else o }

/-- Answers an access under tag 0, `win` saying whether it came to a tenant window. -/
def State.finish0 (s : State) (win : Bool) (m : Nat) (c : Code) (b : List Byte := []) : State :=
  if c = .denied then s.denyAccessIn win m else s.answer m c b

/-- A write of `size` bytes, the first of a word's, to register space (R8, R10). -/
def State.putWord (s : State) (m addr size : Nat) (v : Word) : State :=
  let data := slice (wordBytes v) 0 size
  match s.target addr with
  | .owner o => match s.spaceWrite State.writeReg m 0 o data with
    | (s, c) => s.finish0 false m c
  | .tenant n o => match s.spaceWrite State.writeReg m (n + 1) o data with
    | (s, c) => s.finish0 true m c
  | _ => s.denyAccessIn (s.uniformAt addr) m

/-- A read of a register by its address. -/
def State.getWord (s : State) (m addr : Nat) : State :=
  match s.target addr with
  | .owner o => match s.spaceRead m 0 o 4 with
    | (s, c, b) => s.finish0 false m c b
  | .tenant n o => match s.spaceRead m (n + 1) o 4 with
    | (s, c, b) => s.finish0 true m c b
  | _ => s.denyAccessIn (s.uniformAt addr) m

/-- Carries out a request that its interface held or has just taken. -/
def State.perform (s : State) (m tag : Nat) : Req → State
  | .read a len err =>
    let (s, err, inj) := s.wayError (s.wayOut m a) err
    match err with
    | .header k => s.injected inj fun s => (s.loseRequest m tag).headerError k
    | .cache i => (s.secdedAt a len i).readAt m tag a len
    | _ => s.readAt m tag a len
  | .write a data err =>
    let (s, err, inj) := s.wayError (s.wayOut m a) err
    match err with
    | .header k => s.injected inj fun s => (s.loseRequest m tag).headerError k
    | .data k => (s.flitError k).writeDamaged m tag a data
    | .cache i => (s.secdedAt a data.length i).writeAt m tag a data
    | .clean => s.writeAt m tag a data
  | .fence => s
  | .queue q acc => s.qAccess m tag q acc
  | .signal n => s.colSend m tag n none
  | .message n b => s.colSend m tag n (some b)
  | .refused _ a _ => s.denyIn (s.uniformAt a) m tag
  | .put k v => s.putKey m k v
  | .get k => s.regRead m k
  | .putAt a size v => s.putWord m a size v
  | .getAt a => s.getWord m a

/-- The kind of a request. -/
def Req.op : Req → ReqOp
  | .read .. => .read
  | .write .. => .write
  | .fence => .fence
  | .queue _ (.rd _) => .read
  | .queue _ _ => .write
  | .signal _ => .write
  | .message _ _ => .write
  | .refused op _ _ => op
  | .put _ _ | .putAt _ _ _ => .write
  | .get _ | .getAt _ => .read

/-- An access that a command states without a TAG: no response flit answers it. -/
def Req.untagged : Req → Bool
  | .put _ _ | .get _ | .putAt _ _ _ | .getAt _ => true
  | _ => false

/-- A tag that the master has outstanding cannot be issued again. -/
def State.tagBusy (s : State) (m tag : Nat) : Bool :=
  (s.outstanding.any fun o => o.mid == m && o.tag == tag) || (s.heldReqs.any fun h => h.1 == m && h.2.1 == tag) ||
  s.fences.any fun f => f.1 == m && f.2 == tag

/-- A READ as its master makes it (R135, R138): taken unless its tag is outstanding. -/
def State.issueRead (s : State) (m tag addr len : Nat) (err : FlitErr) : State :=
  if s.takes m addr && !s.tagBusy m tag then
    s.request m tag .read (.read addr len err) fun s => s.perform m tag (.read addr len err)
  else s

/-- A WRITE as its master makes it. -/
def State.issueWrite (s : State) (m tag addr : Nat) (data : List Byte) (err : FlitErr) : State :=
  if s.takes m addr && !s.tagBusy m tag then
    s.request m tag .write (.write addr data err) fun s => s.perform m tag (.write addr data err)
  else s

/-- READ (R135). -/
def execRead (m tag addr len : Nat) (err : FlitErr) (s : State) : Host.Outcome State Fault Refusal :=
  .next (s.issueRead m tag addr len err)

/-- WRITE (R135). -/
def execWrite (m tag addr : Nat) (data : List Byte) (err : FlitErr) (s : State) : Host.Outcome State Fault Refusal :=
  .next (s.issueWrite m tag addr data err)

/-- DBGACC (R465): the JTAG master's access to any tray address. -/
def execDbgacc (tag addr len : Nat) (wr : Option (List Byte)) (s : State) : Host.Outcome State Fault Refusal :=
  .next (match wr with
  | some data => s.issueWrite 0x181 tag addr data .clean
  | none => s.issueRead 0x181 tag addr len .clean)

/-! ### FENCE (R144) -/

/-- The interface takes a FENCE, behind any FENCE it already holds. -/
def State.putFence (s : State) (m tag : Nat) : State := { s with fences := s.fences ++ [(m, tag)] }

/-- FENCE (R144). -/
def execFence (m tag : Nat) (s : State) : Host.Outcome State Fault Refusal :=
  .next (if s.live && (s.midDomain m).isSome && !s.tagBusy m tag then
    if s.fenced m then s.holdReq m tag .fence else s.putFence m tag
  else s)

/-- Requests held behind a FENCE are issued in order, up to the next FENCE. -/
def State.issueHeld : List (Nat × Nat × Req) → State → State
  | [], s => s
  | (m, tag, r) :: rest, s =>
    if s.fenced m then { s with heldReqs := s.heldReqs ++ (m, tag, r) :: rest }
    else match r with
    | .fence => State.issueHeld rest (s.putFence m tag)
    | r => State.issueHeld rest
        ((if r.untagged then s else s.issue m tag r.op (s.reqSpan m r).1 (s.reqSpan m r).2).perform m tag r)

/-- A response arrives at its master's interface; a cup's waits in its request port (R98). -/
def State.arrive (s : State) (r : Resp) : State :=
  let s := s.log (.response r)
  if r.mid < 192 ∧ (s.cup r.mid).rq.tags.contains r.tag = true then
    s.modCup r.mid fun x => { x with rq := { x.rq with resp := x.rq.resp ++ [r] } }
  else s

/-- FENCE_COMPLETE (R144): every earlier write of the master has returned its response. -/
def execFenceComplete (m : Nat) (s : State) : Host.Outcome State Fault Refusal :=
  s.whenLive fun s =>
    match s.fences.find? fun f => f.1 == m with
    | some f =>
      if s.outstanding.any fun o => o.mid == m && o.op == .write then s
      else
        let mine := s.heldReqs.filter fun h => h.1 == m
        let s := { s with fences := s.fences.filter (fun g => g.1 != m), heldReqs := s.heldReqs.filter fun h => h.1 != m }
        State.issueHeld mine (s.arrive { mid := m, tag := f.2, code := .ok })
    | none => s

/-! ### Responses (R136, R138, R142, R222) -/

/-- The completion status of a host's read (R222): 0 successful, 1 Unsupported Request, 4 Completer Abort, 8 successful
and poisoned. -/
def completionStatus : Code → Nat
  | .ok => 0
  | .denied => 1
  | .uncorrectable => 8
  | .retired | .empty => 4

/-- The last flit of a response reaches its master: a cup's goes to its request port, a host's read completes its TLP
with the bytes of all its flits, and poisoned where one of them was damaged (R136, R138, R222). -/
def State.deliver (s : State) (o : Outstanding) (r : Resp) : State :=
  let s := { s with outstanding := s.outstanding.filter fun x => !(x.mid == o.mid && x.tag == o.tag) }
  let s := s.arrive r
  let code := if o.bad then .uncorrectable else r.code
  match hostFn o.mid, o.op with
  | some (n, f), .read =>
    s.log (.completion n f o.tag (completionStatus code) (if code = .ok then o.got ++ r.bytes else []))
  | _, _ => s

/-- A flit of a response that is not its last reaches its master. -/
def State.deliverPart (s : State) (o : Outstanding) (r : Resp) : State :=
  let s := { s with outstanding := s.outstanding.map fun (x : Outstanding) =>
    if x.mid = o.mid ∧ x.tag = o.tag then { x with got := x.got ++ r.bytes, bad := x.bad || r.code != Code.ok } else x }
  s.arrive { r with last := false }

/-- No earlier request of the same master to the same endpoint is still to be answered, so the answer to o may arrive
(R98, R143). -/
def State.respTurn (s : State) (o : Outstanding) : Bool :=
  (s.outstanding.takeWhile fun x => !(x.mid == o.mid && x.tag == o.tag)).all fun x =>
    x.mid != o.mid || x.dst != o.dst || x.lost

/-- What the arrival of a flit of response r to request o does: a READ's data comes 256 bytes a flit (R136), and damaged
data carries UNCORRECTABLE (R138). -/
def State.takeFlit (s : State) (o : Outstanding) (r : Resp) (damaged : Bool) : State :=
  let hurt := damaged && o.op == .read && r.code == .ok
  let flit : Resp := { r with bytes := if hurt then [] else r.bytes.take 256, code := if hurt then .uncorrectable else r.code }
  let s := { s with responses := s.responses.erase r }
  if r.bytes.length ≤ 256 then s.deliver o flit
  else ({ s with responses := { r with bytes := r.bytes.drop 256 } :: s.responses }).deliverPart o flit

/-- RESPONSE_FLIT (R136, R138, R143): a response to a request no longer outstanding is discarded; one to a request that
another of its master's to the same endpoint precedes waits; a header error loses the whole response. -/
def execResponseFlit (m tag : Nat) (err : FlitErr) (s : State) : Host.Outcome State Fault Refusal :=
  s.whenLive fun s =>
    match s.responses.find? fun r => r.mid == m && r.tag == tag with
    | some r =>
      match s.outstanding.find? fun o => o.mid == m && o.tag == tag with
      | some o =>
        if !s.respTurn o then s
        else
          let (s, err, inj) := s.wayError (routersOn (s.place o.mid o.dst).1 (s.masterRouter o.mid)) err
          match err with
          | .header k => s.injected inj fun s =>
              ({ s with responses := s.responses.erase r }.loseRequest m tag).headerError k
          | .data k => (s.flitError k).takeFlit o r true
          | .clean | .cache _ => s.takeFlit o r false
      | none =>
        let s := { s with responses := s.responses.erase r }
        match err with
        | .header k => s.headerError k
        | _ => s
    | none => s

/-- TAG for what is left at its target of a request that has timed out: no request of the master can have it, so its
response is discarded whenever it arrives (R138). -/
def lateTag (tag : Nat) : Nat := 1025 + tag

/-- What is left of a timed-out request anywhere stands under `lateTag`. -/
def State.orphan (s : State) (m tag : Nat) : State :=
  let re (m' t : Nat) : Nat := if m' = m ∧ t = tag then lateTag tag else t
  { s with
    responses := s.responses.filter fun r => !(r.mid == m && r.tag == tag)
    stalls := s.stalls.map fun x => { x with tag := re x.mid x.tag }
    hbmHeld := s.hbmHeld.map fun x => { x with tag := re x.mid x.tag }
    refusals := s.refusals.map fun x => { x with tag := re x.mid x.tag }
    cols := s.cols.map fun e => (e.1, { e.2 with
      waiting := e.2.waiting.map fun w => (w.1, re w.1 w.2.1, w.2.2)
      queued := e.2.queued.map fun w => (w.1, re w.1 w.2.1, w.2.2) }) }

/-- REQUEST_TIMEOUT (R138): 2 ms. -/
def execRequestTimeout (m tag : Nat) (s : State) : Host.Outcome State Fault Refusal :=
  s.whenLive fun s =>
    match s.outstanding.find? fun o => o.mid == m && o.tag == tag with
    | some o =>
      if o.issued + 500000 ≤ s.tick then (s.orphan m tag).deliver o { mid := m, tag, code := .uncorrectable } else s
    | none => s

/-- What a held refusal releases: a request's DENIED joins the responses, and a command's status is set. -/
def State.release (s : State) (h : HeldRefusal) : State :=
  match h.eff with
  | .deny =>
    if s.outstanding.any fun o => o.mid == h.mid && o.tag == h.tag then s.respond h.mid h.tag .denied
    else s.answer h.mid .denied
  | .status l => l.foldl (fun (s : State) e => s.setFields e.1 e.2) s

/-- REFUSAL_LATENCY_EXPIRY (R415): the oldest refusal held for the request has reached its latency. -/
def execRefusalLatencyExpiry (m tag : Nat) (s : State) : Host.Outcome State Fault Refusal :=
  .next (if s.live ∨ s.stoppedSafe = true then
    match s.refusals.find? fun h => h.mid == m && h.tag == tag && decide (h.due ≤ s.root) with
    | some h => ({ s with refusals := s.refusals.erase h }).release h
    | none => s
  else s)

/-! ### Register accesses without a tag (R8 to R10, R464) -/

/-- A register access by its address, held behind a FENCE of its master (R144). -/
def State.wordCommand (s : State) (m addr : Nat) (r : Req) : Host.Outcome State Fault Refusal :=
  .next (if s.takes m addr then (if s.fenced m then s.holdReq m noTag r else s.perform m noTag r) else s)

/-- REGISTER_WRITE (R10): `size` bytes of which the word is the first four. -/
def execRegisterWrite (m addr size : Nat) (v : Word) (s : State) : Host.Outcome State Fault Refusal :=
  s.wordCommand m addr (.putAt addr size v)

/-- LOW_WORD_READ (R9): reading the low word latches the high word. -/
def execLowWordRead (m addr : Nat) (s : State) : Host.Outcome State Fault Refusal := s.wordCommand m addr (.getAt addr)

/-- RC_FIELD_READ (R464): the read clears the register's RC fields. -/
def execRcFieldRead (m addr : Nat) (s : State) : Host.Outcome State Fault Refusal := s.wordCommand m addr (.getAt addr)

/-! ### Time with no command waiting -/

/-- What the device's own blocks have left to do after a command, within the microseconds that the rules allow them: the
clusters write back the lines of a changed split (R406), the Kettle closes the sessions that a BLOCK reset of DBG ended
(R421), carries out the deferred requests whose leases have ended (R378) and floods link states that a reset changed (R337),
and the Urn examines what waits (R373; log entry 104). -/
def State.followUp (s : State) : State :=
  let s := (List.range 4).foldl (fun (s : State) cl => s.l2Settle cl) s
  let s := ((s.sess.filter fun e => e.2.ended).map (·.1)).foldl (fun (s : State) i => s.closeSession i) s
  let s := s.undeferAll.examine
  if s.serving then s.casFlood else s

/-- One root cycle with no command waiting (log entry 10): what was left to do, the completion that each collector accepts
at a new tray cycle (R160), the latches that follow their inputs (R43), the flits that leave at their slots (R148), and
the streams of a failed link that no REROUTE has moved within 10 ms, which are lost
(R343). -/
def State.idle (s : State) : State :=
  if s.rootCycle.live then s.rootCycle.followUp.followLatches.streamCycle.colCycle.linkExpire.tryLater else s.rootCycle

end Sys2Proof.Machine
end

