-- ==== Sys2Proof/Machine/CupPort.lean ====
section
/-! DEFINITION. The cup ports at clock edges (R92 to R98, R104, R105), and a rising edge of a cup's clock line (R43, R76,
R78, R94, R115, R117, R121, R122, R355, R376).  A port's outputs are registers that change at its edges only; what an
output shows while the port offers nothing is free (log entries 2 and 30). -/

namespace Sys2Proof.Machine

/-! ### Pins and outputs -/

/-- The number on the input pins of a side of tap i of port w, as the tray receives it: wires of a group that retrains
are held (R86). -/
def State.tapIn (s : State) (c w i sd : Nat) : Nat :=
  let b := (s.cup c).active.portFirst w + i
  let v := s.bramPins c b sd
  ofBools ((List.range (if sd = 0 ∨ sd = 2 then 16 else 32)).map fun j =>
    (s.portGap c false (tapWire b sd j)).getD (v.testBit j))

/-- The data on the input pins of a port's slices, in bytes from slice 0 (R92). -/
def State.portData (s : State) (c w : Nat) : List Byte :=
  (List.range ((s.cup c).active.portSlices w)).flatMap fun i =>
    leBytes 8 (s.tapIn c w i 3 + 2 ^ 32 * s.tapIn c w i 1)

/-- A port's width in bytes. -/
def State.portWidth (s : State) (c w : Nat) : Nat := 8 * (s.cup c).active.portSlices w

/-- The control outputs of a port before this edge. -/
def State.ctlBefore (s : State) (c w : Nat) : Nat := nget (s.fabPre c).portC w 0

/-- Sets a port's outputs: its controls, and data in bytes from slice 0 (R92). -/
def State.setPort (s : State) (c w ctl : Nat) (data : List Byte) : State :=
  s.modCup c fun x =>
    let portD := (List.range (x.active.portSlices w)).foldl
      (fun (l : List (Nat × BitVec 64)) i =>
        nput l (x.active.portFirst w + i) (BitVec.ofNat 64 (numAt data (8 * i) 8)) 0) x.fab.portD
    { x with fab := { x.fab with portC := nput x.fab.portC w ctl 0, portD } }

/-- Bytes that nothing fixes (log entry 2). -/
def State.freeBytes (s : State) (n : Nat) : List Byte := leBytes n (Config.freeNat s.freeCtr)

/-- A port offers nothing: `fixed` are the controls that still mean something, `open_` the mask of those that do not. -/
def State.idlePort (s : State) (c w fixed open_ : Nat) : State :=
  (s.setPort c w (fixed ||| (Config.freeNat (s.freeCtr + 1) &&& open_)) (s.freeBytes (s.portWidth c w))).draw.draw

/-! ### Stream ports (R95, R96) -/

/-- The beat a stream-in port offers next: controls and data. -/
def State.sinOffer (s : State) (c n : Nat) : State :=
  let w := 1 + n
  let width := s.portWidth c w
  let x := nget (s.cup c).sin n {}
  match x.pkts with
  | p :: _ =>
    let last := decide (p.length ≤ width)
    s.setPort c w
      (1 + (if x.started then 0 else 2) + (if last then 4 else 0) + 8 * min width p.length +
        (if x.gap && !x.started then 2 ^ 11 else 0)) (slice p 0 (min width p.length))
  | [] => s.idlePort c w 0 0xFFE

/-- The fabric takes the beat offered. -/
def SinSt.take (x : SinSt) (width : Nat) (gapShown : Bool) : SinSt :=
  match x.pkts with
  | p :: ps =>
    let rest := p.drop width
    { pkts := if rest = [] then ps else rest :: ps, started := !rest.isEmpty, gap := x.gap && !gapShown }
  | [] => x

/-- An edge of stream-in port n. -/
def State.sinEdge (s : State) (c n : Nat) : State :=
  let w := 1 + n
  let ctl := s.ctlBefore c w
  let s := if ctl.testBit 0 && (s.tapIn c w 0 0).testBit 0 then
      let width := s.portWidth c w
      s.modCup c fun x => { x with sin := nput x.sin n ((nget x.sin n {}).take width (ctl.testBit 11)) {} }
    else s
  s.sinOffer c n

/-- A discarded packet or beat of a stream-out port. -/
def State.soutDrop (s : State) (c n : Nat) : State :=
  (s.countUp ⟨.cupSout, c, n⟩ 29 14).modCup c fun x => { x with sout := erase x.sout n }

/-- Bytes of a beat: the full width, or BYTES with EOP; a count outside 1 to the width is free (log entry 2). -/
def State.beatLen (s : State) (width count : Nat) (eop : Bool) : Nat :=
  if !eop then width
  else if inRange 1 width count then count
  else 1 + Config.freeNat s.freeCtr % width

/-- A beat accepted by stream-out port n; a disabled port discards every packet (R96). -/
def State.soutBeat (s : State) (c n : Nat) (sop eop : Bool) (bytes : List Byte) : State :=
  let was := look (s.cup c).sout n
  let s := if sop && was.isSome then s.soutDrop c n else s
  match if sop then some [] else was with
  | none => s.soutDrop c n
  | some p =>
    let p := p ++ bytes
    if 9216 < p.length then s.soutDrop c n
    else if eop then (s.modCup c fun x => { x with sout := erase x.sout n }).soutSend c n p
    else s.modCup c fun x => { x with sout := nset x.sout n p }

/-- An edge of stream-out port n: READY is 0 while the buffer has no room for a beat (R96). -/
def State.soutEdge (s : State) (c n : Nat) : State :=
  let w := 5 + n
  let pins := s.tapIn c w 0 0
  let width := s.portWidth c w
  let s := if (s.ctlBefore c w).testBit 0 && pins.testBit 0 then
      let eop := pins.testBit 2
      let k := s.beatLen width (pins / 8 % 256) eop
      let data := slice (s.portData c w) 0 k
      let s := if eop && !inRange 1 width (pins / 8 % 256) then s.draw else s
      s.soutBeat c n (pins.testBit 1) eop data
    else s
  s.idlePort c w (b2n (s.soutRoom c n width)) 0

/-! ### The request port (R97, R98) -/

/-- The port has room for the response to a read (R98). -/
def ReqPortSt.fits (x : ReqPortSt) (op len : Nat) : Bool :=
  op != 0 || decide ((x.room.map (·.2)).sum + len ≤ 65536)

/-- A header may be taken: no other request stands in the port, its TAG is free, and a read has its room. -/
def ReqPortSt.takes (x : ReqPortSt) (op tag len : Nat) : Bool :=
  x.cur.isNone && x.held.isNone && !x.tags.contains tag && x.fits op len

/-- OP of a cup's request header (R97). -/
def cupOp (op : Nat) : ReqOp := if op = 0 then .read else if op = 1 then .write else if op = 2 then .fence else .reserved op

/-- The request port has taken a whole request (R98): reserved OPs and requests across a 4 KiB boundary are DENIED. -/
def State.cupIssue (s : State) (c op addr tag len : Nat) (data : List Byte) : State :=
  let s := s.modCup c fun x =>
    { x with rq := { x.rq with tags := x.rq.tags ++ [tag],
                               room := if op = 0 then x.rq.room ++ [(tag, len)] else x.rq.room } }
  if op = 2 then
    (if s.fenced c then s.holdReq c tag .fence else s.putFence c tag)
  else if 2 < op ∨ legalExtent addr len = false then
    s.request c tag (cupOp op) (.refused (cupOp op) addr len) fun s => s.denyIn (s.uniformAt addr) c tag
  else if op = 0 then s.request c tag .read (.read addr len .clean) fun s => s.perform c tag (.read addr len .clean)
  else s.request c tag .write (.write addr data .clean) fun s => s.perform c tag (.write addr data .clean)

/-- CUP_REQUEST (R98): a header the port takes, with its data. -/
def execCupRequest (c : Fin 192) (op : Fin 16) (addr : Nat) (tag : Fin 64) (len : Nat) (data : List Byte) (s : State) :
    Host.Outcome State Fault Refusal :=
  s.whenServing fun s =>
    if s.portActs c.val 9 && (s.cup c.val).rq.takes op.val tag.val len then
      s.cupIssue c.val op.val addr tag.val len data
    else s

/-- The fabric takes the response beat offered; the last one frees the tag. -/
def ReqPortSt.takeResp (x : ReqPortSt) (width : Nat) : ReqPortSt :=
  match x.resp with
  | r :: rs =>
    let rest := r.bytes.drop width
    if rest = [] ∧ r.last = true then
      { x with resp := rs, tags := x.tags.filter (· != r.tag), room := x.room.filter fun e => e.1 != r.tag }
    else { x with resp := if rest = [] then rs else { r with bytes := rest } :: rs }
  | [] => x

/-- CODE of a response flit (R139). -/
def codeNum : Code → Nat
  | .ok => 0
  | .denied => 1
  | .uncorrectable => 2
  | .retired => 3
  | .empty => 4

/-- OP, TAG, ADDR and length of the header that the fabric presents. -/
def State.rqHeader (s : State) (c : Nat) : Nat × Nat × Nat × Nat :=
  let h := numAt (s.portData c 9) 0 8
  (h % 16, h / 16 % 64, h / 2 ^ 16 % 2 ^ 40, s.tapIn c 9 0 0 / 4 % 4096 + 1)

/-- A header that the port has taken goes on: a WRITE's data beats follow, any other request is whole (R98).  RQ_LAST adds
nothing to what OP and RQ_LEN say and is not read; a reserved OP is taken as a header alone (log entry 106). -/
def State.rqStart (s : State) (c : Nat) (h : Nat × Nat × Nat × Nat) : State :=
  let (op, tag, addr, len) := h
  if op = 1 then s.modCup c fun y => { y with rq := { y.rq with cur := some (addr, tag, len, []) } }
  else s.cupIssue c op addr tag len []

/-- A header that was transferred and had to wait for its TAG or for room goes on once it can. -/
def State.rqResume (s : State) (c : Nat) : State :=
  match (s.cup c).rq.held with
  | some (op, tag, addr, len) =>
    if { (s.cup c).rq with held := none }.takes op tag len then
      (s.modCup c fun y => { y with rq := { y.rq with held := none } }).rqStart c (op, tag, addr, len)
    else s
  | none => s

/-- A beat accepted by the request port: a header, or data of a write. -/
def State.rqBeat (s : State) (c : Nat) : State :=
  let x := (s.cup c).rq
  match x.cur with
  | some (addr, tag, len, got) =>
    let got := got ++ s.portData c 9
    if len ≤ got.length then
      (s.modCup c fun y => { y with rq := { y.rq with cur := none } }).cupIssue c 1 addr tag len (slice got 0 len)
    else s.modCup c fun y => { y with rq := { y.rq with cur := some (addr, tag, len, got) } }
  | none =>
    let (op, tag, addr, len) := s.rqHeader c
    if x.takes op tag len then s.rqStart c (op, tag, addr, len)
    else s.modCup c fun y => { y with rq := { y.rq with held := some (op, tag, addr, len) } }

/-- RQ_READY for the next edge (log entry 30): data of a write always; a header once the one presented can be taken, so
not at the edge that has just taken the last beat of a request, when the next header is not there yet; nothing while a
header waits in the port. -/
def State.rqReady (s : State) (c : Nat) (beat : Bool) : Bool :=
  let x := (s.cup c).rq
  x.cur.isSome ||
    (let (op, tag, _, len) := s.rqHeader c
     !beat && (s.tapIn c 9 0 0).testBit 0 && x.takes op tag len)

/-- An edge of the request port. -/
def State.rqEdge (s : State) (c : Nat) : State :=
  let ctl := s.ctlBefore c 9
  let width := s.portWidth c 9
  let taken := ctl.testBit 16 && (s.tapIn c 9 0 2).testBit 0
  let s := if taken then s.modCup c fun x => { x with rq := x.rq.takeResp width } else s
  let beat := ctl.testBit 0 && (s.tapIn c 9 0 0).testBit 0
  let s := if beat then s.rqBeat c else s.rqResume c
  let ready := b2n (s.rqReady c beat)
  match (s.cup c).rq.resp with
  | r :: _ =>
    let last := r.last && decide (r.bytes.length ≤ width)
    s.setPort c 9 (ready + 2 ^ 16 * (1 + 2 * codeNum r.code + 32 * (r.tag % 64) + (if last then 2 ^ 11 else 0)))
      (slice r.bytes 0 width)
  | [] => s.idlePort c 9 ready (0xFFE * 2 ^ 16)

/-! ### The queue port (R104) -/

/-- An egress access that the fabric presents: its queue and the access. -/
def State.egAccess (s : State) (c : Nat) : Nat × Option QAccess :=
  let pins := s.tapIn c 10 0 0
  let d := numAt (s.portData c 10) 0 32
  (pins / 2 % 8, match pins / 16 % 4 with
    | 0 => some (.dat [BitVec.ofNat 256 d])
    | 1 => some .opn
    | 2 => some (.cls (d % 64) (d / 2 ^ 16 % 2 ^ 16))
    | _ => none)

/-- The queue has no room for an access. -/
def State.egBlocked (s : State) (c n : Nat) (a : QAccess) : Bool :=
  (s.qProduce (.egress (Fin.ofNat 192 c) (Fin.ofNat 8 n)) (s.cupDom c) c a).2 == .full

/-- EG_READY for the queue that EG_Q names (R101, R104; log entry 30): the queue would take the access presented, or, at
an edge that has just taken one, when the next is not there yet, it has a free slot; 0 while an access waits in the port. -/
def State.egReady (s : State) (c : Nat) (beat : Bool) : Bool :=
  let (n, a) := s.egAccess c
  (s.cup c).egHeld.isNone &&
  (if beat then decide ((s.queue (.egress (Fin.ofNat 192 c) (Fin.ofNat 8 n))).used < 512)
   else match a with
    | some a => !s.egBlocked c n a
    | none => true)

/-- An egress access that was transferred: it waits in the port where its queue has no room (R94). -/
def State.egBeat (s : State) (c n : Nat) (a : QAccess) : State :=
  if s.egBlocked c n a then s.modCup c fun x => { x with egHeld := some (n, a) }
  else (s.modCup c fun x => { x with egHeld := none }).fabProduce c (Fin.ofNat 8 n) a

/-- IN_READY: queues with a written header at their head. -/
def State.inReady (s : State) (c : Nat) : Nat :=
  ofBools ((List.range 8).map fun n =>
    let q := s.queue (.ingress (Fin.ofNat 192 c) (Fin.ofNat 8 n))
    q.cur.isNone && q.pkts.head?.any Pkt.closed)

/-- An edge of the queue port: an egress access, a take and a drop; then the slot of the queue IN_Q names is shown. -/
def State.queueEdge (s : State) (c : Nat) : State :=
  let ctl := s.ctlBefore c 10
  let pn := s.tapIn c 10 0 0
  let ps := s.tapIn c 10 0 2
  let (q, acc) := s.egAccess c
  let beat := ctl.testBit 0 && pn.testBit 0
  let s := match (s.cup c).egHeld, acc with
    | some (n, a), _ => s.egBeat c n a
    | none, some a => if beat then s.egBeat c q a else s
    | none, none => s
  let s := if ctl.testBit 16 && ps.testBit 0 then s.fabTake c (Fin.ofNat 8 (s.cup c).inShown) else s
  let inQ := ps / 2 % 8
  let s := if ps.testBit 4 then s.fabDrop c (Fin.ofNat 8 inQ) else s
  let s := s.modCup c fun x => { x with inShown := inQ }
  let fixed := b2n (s.egReady c beat) + 2 ^ 18 * s.inReady c
  match (s.queue (.ingress (Fin.ofNat 192 c) (Fin.ofNat 8 inQ))).take1 with
  | some (w, head, _) => s.setPort c 10 (fixed + 2 ^ 16 + (if head then 2 ^ 17 else 0)) (slotBytes w)
  | none => s.idlePort c 10 fixed (2 ^ 17)

/-! ### The status port (R105, R355) -/

/-- The head event is taken; one overflow event follows as soon as space returns (R105). -/
def CupSt.takeEvent (x : CupSt) (tick : Nat) : CupSt :=
  let rest := x.status.drop 1
  if x.statusLost = 0 then { x with status := rest }
  else
    let ev : StatusEvent := BitVec.ofNat 64 (7 + min x.statusLost 16383 * 256 + tick % 2 ^ 32 * 2 ^ 32)
    { x with status := rest ++ [ev], statusLost := 0 }

/-- An edge of the status port: TAKE, and AWAKE sampled. -/
def State.statusEdge (s : State) (c : Nat) : State :=
  let pins := s.tapIn c 11 0 0
  let tick := s.tick
  let s := if (s.ctlBefore c 11).testBit 0 && pins.testBit 0 then s.modCup c fun x => x.takeEvent tick else s
  let s := s.modCup c fun x => { x with awake := pins.testBit 1 }
  match (s.cup c).status with
  | e :: _ => s.setPort c 11 1 (leBytes 8 e.toNat)
  | [] => s.idlePort c 11 0 0

/-! ### An edge -/

/-- An edge of the port of binding word w. -/
def State.portEdge (s : State) (c w : Nat) : State :=
  if w ≤ 4 then s.sinEdge c (w - 1)
  else if w ≤ 8 then s.soutEdge c (w - 5)
  else if w = 9 then s.rqEdge c
  else if w = 10 then s.queueEdge c
  else s.statusEdge c

/-- The ports of the active plane on line n. -/
def Plane.portsOn (pl : Plane) (n : Nat) : List Nat :=
  ((List.range 11).map (· + 1)).filter fun w => pl.bound w && pl.portClk w == n

/-- The root makes edges, or still does while a stop lets each line give its last (R360). -/
def State.edgesFall (s : State) : Bool :=
  decide (s.phase = .service) && (s.rootRuns || decide (s.clk.mode = .holding))

/-- A held cup that RELEASE lets go on (R122). -/
def State.releasing (s : State) (c : Nat) : Bool := s.held c && s.flag ⟨.cupCap, c, 0⟩ 2

/-- An edge of line n of cup c falls at the present root cycle. -/
def State.edgeFalls (s : State) (c n : Nat) : Bool :=
  let x := s.cup c
  let last := nget x.lastEdge n 0
  s.edgesFall && s.cupState c == 2 && x.clocksOn && x.active.lineRuns n && s.linePeriod c n != 0 &&
  s.root % s.linePeriod c n == 0 && decide (last < s.root ∧ x.startRoot < s.root ∧ x.swapRoot < s.root) &&
  (match x.stopTick with
    | some t => decide (last ≤ 16 * t)
    | none => true) &&
  (!s.held c || s.releasing c) && (!x.capHold || x.capWait.contains n)

/-- A line's capture point (R122): its registers go to the latches as they stand after the edge. -/
def State.captureEdge (s : State) (c n : Nat) : State :=
  let x := s.cup c
  if x.capWait.contains n ∧ x.capRoot < s.root then
    let left := x.capWait.filter fun k => k != n
    let s := s.setCup c { (x.captureLines fun k => k == n) with capWait := left }
    if left.isEmpty then s.captureDone c x.capHold else s
  else s

/-- Edges left of clears at flip count down on CLK_A of their block (R117). -/
def CupSt.countClears (x : CupSt) (n : Nat) : CupSt :=
  { x with clearing := x.clearing.map fun e => if bits (x.active.bramW e.1) 5 4 = n then (e.1, e.2 - 1) else e }

/-- A functional edge: registers and blocks, then the ports on the line (R94, R115). -/
def State.funcEdge (s : State) (c n : Nat) : State :=
  let s := s.lineEdge c n
  let s := s.modCup c fun x =>
    let fab := { x.fab with waitE2 := x.fab.waitE2.filter fun k => k != n }
    ({ x with fab }).countClears n
  ((s.cup c).active.portsOn n).foldl (fun (s : State) w => s.portEdge c w) s

/-- The macrocell registers of line n count an edge that has brought them here from `old`, and those that toggled. -/
def CupSt.countToggles (x old : CupSt) (n : Nat) : CupSt :=
  let regs := lineMacs x.active n false
  let toggled := regs.filter fun (a, b, m) =>
    nget x.fab.macs (4 * cellIndex a b + m) false != nget old.fab.macs (4 * cellIndex a b + m) false
  { x with toggles := x.toggles + toggled.length, chances := x.chances + regs.length }

/-- The edge of line n of cup c. -/
def State.clockEdge (s : State) (c n : Nat) : State :=
  let busy := s.portWork c
  let old := s.cup c
  let s := if s.releasing c then
      (s.setFlag ⟨.cupState, c, 0⟩ 11 false).setFlag ⟨.cupCap, c, 0⟩ 2 false
    else s
  let s := if (s.cup c).fab.waitE1.contains n then s.edgeE1 c n else s.funcEdge c n
  let root := s.root
  let s := (s.modCup c fun x => { x.countToggles old n with lastEdge := nset x.lastEdge n root }).followLatches.captureEdge c n
  if busy || s.portWork c || (s.cup c).awake then
    let t := s.tick
    s.modCup c fun x => { x with idleSince := t }
  else s

/-- FABRIC_CLOCK_EDGE (R43). -/
def execFabricClockEdge (c : Fin 192) (n : Fin 4) (s : State) : Host.Outcome State Fault Refusal :=
  .next (if s.edgeFalls c.val n.val then s.clockEdge c.val n.val else s)

end Sys2Proof.Machine
end

