-- ==== Sys2Proof/Machine/Pcie.lean ====
section
/-! DEFINITION. The PCI Express controllers (R220 to R223): inbound memory TLPs, PERST_N and Function Level Reset. -/

namespace Sys2Proof.Machine

/-- The master ID of function f of controller n: 0 the physical one, v virtual function v (R133). -/
def fnMid (n f : Nat) : Nat := (if n = 0 then 0x200 else 0x280) + f

/-- The function is there: the physical one, or a virtual one that its tenant's creation enabled (R412). -/
def State.fnOn (s : State) (f : Nat) : Bool := f == 0 || s.vfs.contains (f - 1)

/-- The tray address of a BAR offset (R221): none outside the BAR. -/
def barAddr (f off : Nat) (bar2 : Bool) : Option Nat :=
  if bar2 then (if off < 2 ^ 39 then some off else none)
  else if f = 0 then (if off < 0x10000000 then some (0xF000000000 + off) else none)
  else if off < 0x1000000 then some (0xF100000000 + (f - 1) * 0x1000000 + off) else none

/-- Takes a TLP as one tray request (R222); a BAR2 offset above HBM is refused (R221). -/
def State.tlp (s : State) (m tag a : Nat) (bar2 : Bool) (len : Nat) (wr : Option (List Byte)) : State :=
  if s.tagBusy m tag then s
  else
    let high := bar2 && decide (0x4800000000 ≤ a)
    let r : Req := match wr with
      | some data => if high then .refused .write a data.length else .write a data .clean
      | none => if high then .refused .read a len else .read a len .clean
    s.request m tag r.op r fun s => s.perform m tag r

/-- The sizes R222 allows: 512 bytes of write payload, a read of 4,096 bytes. -/
def tlpSize (len : Nat) : Option (List Byte) → Nat × Nat
  | some d => (d.length, 512)
  | none => (len, 4096)

/-- PCIE_TLP (R221, R222): a TLP that is too long, crosses a 4 KiB boundary or lies outside its BAR reaches no function; a function that
is not enabled answers a read with Unsupported Request. -/
def execPcieTlp (n : Fin 2) (f : Fin 65) (tag : Nat) (bar2 : Bool) (off len : Nat) (wr : Option (List Byte)) (s : State) :
    Host.Outcome State Fault Refusal :=
  s.whenServing fun s =>
    let (size, most) := tlpSize len wr
    if s.pciePresent n.val && s.perstHigh n.val && decide (size ≤ most) && legalExtent off size then
      if !s.fnOn f.val then
        (match wr with
        | some _ => s
        | none => s.log (.completion n.val f.val tag 1 []))
      else match barAddr f.val off bar2 with
        | some a => s.tlp (fnMid n.val f.val) tag a bar2 len wr
        | none => s
    else s

/-- A configuration request's answer: Configuration Request Retry Status, or the word asked for. -/
inductive ConfigReply where
  | retry
  | word (v : Word)
  deriving DecidableEq, Repr

/-- What a controller answers to a configuration read of word j of its physical function (R221, R312): Retry Status until
step 7 of start-up, then the word.  The table has no row for a configuration request (log entry 94). -/
def State.configReply (s : State) (n j : Nat) : ConfigReply :=
  if s.phase = .service then .word (s.readReg (fnMid n 0) 0 ⟨.pcieCfg, n, j⟩) else .retry

/-- A controller's link trains again, without counting against its lanes (R223, R361). -/
def State.trainPcie (s : State) (n : Nat) : State :=
  ((s.pcieLanes n).filter fun l => s.laneState l != 3).foldl
    (fun (s : State) l => s.modLane l fun x => { x with retraining := true, uncounted := true, due := false }) s

/-- A master of controller n. -/
def ofCtl (n m : Nat) : Bool := inRange (fnMid n 0) (fnMid n 64) m

/-- Sets the level of a controller's PERST_N. -/
def State.setPerst (s : State) (n : Nat) (b : Bool) : State :=
  { s with pins := if n = 0 then { s.pins with perst0N := b } else { s.pins with perst1N := b } }

/-- PERST (R223): the controller alone resets, and its outstanding requests are forgotten. -/
def execPerst (n : Fin 2) (s : State) : Host.Outcome State Fault Refusal :=
  .next (((s.setPerst n.val false).blockReset (0x560 + n.val)).dropIssue (ofCtl n.val))

/-- PERST_RELEASE (R223): the link trains. -/
def execPerstRelease (n : Fin 2) (s : State) : Host.Outcome State Fault Refusal :=
  .next ((s.setPerst n.val true).trainPcie n.val)

/-- FUNCTION_LEVEL_RESET (R223): the virtual function's outstanding requests are discarded. -/
def execFunctionLevelReset (n : Fin 2) (v : Fin 64) (s : State) : Host.Outcome State Fault Refusal :=
  .next (s.dropIssue fun m => m == fnMid n.val (v.val + 1))

end Sys2Proof.Machine
end

