-- ==== Sys2Proof/Machine/Serial.lean ====
section
/-! DEFINITION. The TAP (R455) and the I2C target (R453). -/

namespace Sys2Proof.Machine

/-- The IDCODE value (R455). -/
def idcode : Word :=
  BitVec.ofNat 32 (Config.stepping.toNat % 16 * 2 ^ 28 + 0x5248 * 2 ^ 12 + 0x6C3 * 2 + 1)

/-- The IDCODE, where the instruction in force selects it. -/
def State.tapId (s : State) : Option Word := if s.tap = 0x01 then some idcode else none

/-- The TAP takes an instruction, with what its data register then gives out (R455). -/
def State.tapLoad (s : State) (code : Byte) : State :=
  let s : State := { s with pins := { s.pins with ir := code } }
  s.log (.tap s.tap s.tapId)

/-- JTAG_INSTRUCTION (R455). -/
def execJtagInstruction (code : Byte) (s : State) : Host.Outcome State Fault Refusal := .next (s.tapLoad code)

/-- TAP_RESET (R452, R455): TRST_N low or a TAP reset selects IDCODE; the next instruction is loaded with TRST_N high again. -/
def execTapReset (s : State) : Host.Outcome State Fault Refusal := .next (s.tapLoad 0x01)

/-- The Kettle runs, which serves the I2C target (R391, R453): no session has halted it (R426). -/
def State.kettleRuns (s : State) : Bool :=
  s.rootRuns && !(s.sess.any fun e => e.2.halted.contains 16) && match s.phase with
    | .inReset | .counting | .safe _ | .sysrst => false
    | _ => true

/-- I2C_OFFSET_WRITE (R453): four bytes set the offset, and a byte after them is answered with NACK. -/
def execI2cOffsetWrite (bytes : List Byte) (s : State) : Host.Outcome State Fault Refusal :=
  .next (if s.kettleRuns then
    { s with pins := { s.pins with
      i2cOff := if 4 ≤ bytes.length then numAt bytes 0 4 else s.pins.i2cOff, i2cNack := decide (4 < bytes.length) } }
  else { s with pins := { s.pins with i2cNack := true } })

/-- The blocks the target reads. -/
def i2cBlock : Blk → Bool
  | .dev | .clk | .urn | .str | .cad | .tick | .img => true
  | _ => false

/-- The word at an owner-window offset, as the target returns it: no field clears and no latch is taken. -/
def State.i2cWord (s : State) (o : Nat) : Word :=
  if o % 4 = 0 then
    match s.ownerAt o with
    | some k => if i2cBlock (blkOf k.name) then s.readReg 0x3FF 0 k else 0
    | none => 0
  else 0

/-- I2C_READ (R453). -/
def execI2cRead (s : State) : Host.Outcome State Fault Refusal :=
  .next (if s.kettleRuns then
    ({ s with pins := { s.pins with i2cNack := false } }).log (.i2c (wordBytes (s.i2cWord s.pins.i2cOff)))
  else { s with pins := { s.pins with i2cNack := true } })

end Sys2Proof.Machine
end

