-- ==== Sys2Proof/Machine/BootPlan.lean ====
section
/-! DEFINITION. What start-up checks in an image before anything of it is applied: the lane plan (R198 to R201, R220,
R224), the border plan (R302), the tenant map (R303), the DEVICE section (R304), and the cups' sections (R301, R306,
R311, R315). -/

namespace Sys2Proof.Machine

/-! ### The lane plan -/

/-- The four words of quad q's entry. -/
def planEntry (h : List Byte) (q : Nat) : List Word := wordsOf (slice h (64 + 16 * q) 16)

/-- Word j of an entry. -/
def entWord (e : List Word) (j : Nat) : Word := e.getD j 0

/-- A role with its CONFIG is in the tables of R198. -/
def roleOk (role cfg : Nat) : Bool :=
  match role with
  | 0 => cfg == 0
  | 1 => decide (cfg ≤ 6)
  | 2 => decide (cfg ≤ 4)
  | 3 => decide (cfg ≤ 3)
  | 4 => decide (cfg ≤ 1)
  | _ => false

/-- A rate word of CASCADE or RAW role: reserved bits, the limits of R201 in kBd, and in RAW role those of the word width
(R224). -/
def rateOk (role cfg : Nat) (w : Word) : Bool :=
  let baud := bits w 26 0
  bits w 30 27 == 0 &&
  (if bit w 31 then inRange 10000000 56000000 baud else inRange 1250000 28050000 baud) &&
  (role != 4 || cfg != 0 || decide (baud * (if bit w 31 then 2 else 1) ≤ 56000000))

/-- The reference of a quad (R198, R200): in its range in every role. -/
def qrefOk (role f : Nat) : Bool :=
  match role with
  | 1 => f == 156250 || f == 161133
  | 2 => f == 100000
  | _ => inRange 50000 350000 f

/-- One entry by itself (R198, R200). -/
def entryOk (e : List Word) : Bool :=
  let w := entWord e 0
  let role := bits w 2 0
  let cfg := bits w 7 4
  let pllb := bits w 15 12
  let rated := role == 3 || role == 4
  bits w 31 24 == 0 && bits w 11 8 == 0 && !bit w 3 && roleOk role cfg && (role == 4 || pllb == 0) &&
  (if rated then rateOk role cfg (entWord e 1) else entWord e 1 == 0) &&
  (if pllb = 0 then entWord e 2 == 0 else rateOk role cfg (entWord e 2)) &&
  bits (entWord e 3) 31 19 == 0 && qrefOk role (bits (entWord e 3) 18 0)

/-- An 800GbE or 8-lane cascade quad and its pair agree (R200). -/
def pairOk (h : List Byte) (q : Nat) : Bool :=
  let of (q : Nat) : Nat × Nat := (bits (entWord (planEntry h q) 0) 2 0, bits (entWord (planEntry h q) 0) 7 4)
  let wide (r : Nat × Nat) : Bool := r == (1, 6) || r == (3, 3)
  !wide (of q) || of q == of (if q % 2 = 0 then q + 1 else q - 1)

/-- The quads in PCIE role among a controller's four are its first, as many as the width needs, all with one CONFIG (R200,
R220). -/
def pcieOk (h : List Byte) (base : Nat) : Bool :=
  let w (q : Nat) : Word := entWord (planEntry h q) 0
  let mine := (List.range 4).filter fun i => bits (w (base + i)) 2 0 == 2
  match mine with
  | [] => true
  | i :: _ =>
    let cfg := bits (w (base + i)) 7 4
    mine == List.range (ceilDiv (2 ^ cfg) 4) && mine.all fun k => bits (w (base + k)) 7 4 == cfg

/-- The cascade links a quad's entry makes (R199). -/
def linksOf (q : Nat) (e : List Word) : Nat :=
  let w := entWord e 0
  if bits w 2 0 ≠ 3 then 0
  else match bits w 7 4 with
    | 0 => 1
    | 1 => 2
    | 2 => 4
    | _ => if q % 2 = 0 then 1 else 0

/-- The lane plan of a header is accepted (R200). -/
def lanePlanOk (h : List Byte) : Bool :=
  (List.range 64).all (fun q => entryOk (planEntry h q) && pairOk h q) && pcieOk h 0 && pcieOk h 60 &&
  (List.range 64).all (fun q => decide (q < 4 ∨ 60 ≤ q) || bits (entWord (planEntry h q) 0) 2 0 != 2) &&
  decide (((List.range 64).map fun q => linksOf q (planEntry h q)).sum ≤ 32)

/-! ### The border plan and the tenant map -/

/-- The four bits of side sd of cup c (R302). -/
def borderNib (h : List Byte) (c sd : Nat) : Nat := numAt h (1088 + 2 * c) 2 / 2 ^ (4 * sd) % 16

/-- CUP_OWNER and CUP_STATE of a cup (R298). -/
def mapOwner (h : List Byte) (c : Nat) : Nat := numAt h (1472 + c) 1
def mapState (h : List Byte) (c : Nat) : Nat := numAt h (1664 + c / 4) 1 / 2 ^ (2 * (c % 4)) % 4

/-- The plan of a side is valid (R302). -/
def borderSideOk (h : List Byte) (c sd : Nat) : Bool :=
  let b := borderNib h c sd
  b % 4 != 3 && match cupAcross c sd with
    | some (r, _) => mapOwner h c == mapOwner h r || !(inRange 1 2 (b % 4) || decide (8 ≤ b))
    | none => true

/-- The border plan is valid. -/
def borderPlanOk (h : List Byte) : Bool := (List.range 192).all fun c => (List.range 4).all fun sd => borderSideOk h c sd

/-- A tenant record of the header. -/
def mapRecord (h : List Byte) (n : Nat) : List Byte := slice h (1728 + 16 * n) 16

/-- Tenants that the map declares. -/
def mapTenants (h : List Byte) : List Nat := (List.range 64).filter fun n => tenPresent (mapRecord h n)

/-- The range entries of TMAP_EXT that are PRESENT. -/
def mapRanges (ext : List Byte) : List RngEnt :=
  ((List.range 80).filter fun r => rngPresent (slice ext (6144 + 48 * r) 48)).map fun r =>
    rngEntOf r (slice ext (6144 + 48 * r) 48)

/-- Two extents of the list overlap. -/
def rangesMeet (es : List RngEnt) : Bool := overlaps (es.map fun e => (e.base, e.limit + 1))

/-- The tenant domains that the map declares exist (R283). -/
def State.declare (s : State) (ns : List Nat) : State :=
  ns.foldl (fun (s : State) n => s.setFlag ⟨.devTexist, 0, n / 32⟩ (n % 32) true) s

/-- The Kettle creates its own range (R276, R303). -/
def State.kettleRange (s : State) : State :=
  let (b, l) := Config.kettleRange
  if s.rangeState 0 = 0 ∧ s.rangeCode 0 b l 0x00 = 0 then (s.fillRange 0 b l 0x00 []).fillDone 0 else s

/-- The part of the tenant map in the header is valid (R303); a reserved CUP_STATE is not (log entry 27). -/
def tenantMapOk (h : List Byte) : Bool :=
  let ns := mapTenants h
  let cores := ns.flatMap fun n => (tenRecOf (mapRecord h n)).cores
  (List.range 192).all (fun c => mapState h c != 3 &&
    (mapOwner h c == 0x01 || ns.any fun n => mapOwner h c == 0x10 + n)) && decide cores.Nodup

/-- The key ranges of TMAP_EXT are valid, beside the Kettle's own range (R277, R303). -/
def State.mapRangesOk (s : State) (h ext : List Byte) : Bool :=
  let es := mapRanges ext
  let there := s.kettleRange.declare (mapTenants h)
  es.all (fun e => e.idx != 0 && there.rangeCode e.idx e.base e.limit e.owner == 0) && !rangesMeet es

/-! ### The DEVICE section (R304) -/

/-- DIV[n] and DIVGRANT[m] of logical leaf k. -/
def devDiv (d : List Byte) (k n : Nat) : Nat := numAt d (32 * k + n) 1
def devGrant (d : List Byte) (k m : Nat) : Nat := numAt d (32 * k + 16 + 2 * m) 2

/-- CG_START, CG_CFG and AGE of stack st, by j. -/
def devStack (d : List Byte) (st j : Nat) : Word := wordOf (slice d (1536 + 16 * st + 4 * j) 4)

/-- The way mask of slot n in stack st, and the budget. -/
def devMask (d : List Byte) (st n : Nat) : Nat := numAt d (1664 + 132 * st + 2 * n) 2
def devBudget (d : List Byte) : Nat := numAt d 2720 4

/-- The section is valid: no value is reserved or out of range for its register; slot 0's mask is the fixed one (log entry
27). -/
def deviceOk (d : List Byte) : Bool :=
  (List.range 48).all (fun k => (List.range 16).all (fun n => decide (4 ≤ devDiv d k n)) &&
    allZero (slice d (32 * k + 24) 8)) &&
  (List.range 8).all (fun st => cgLegal (devStack d st 0) && decide ((devStack d st 1).toNat ≤ 2) &&
    bits (devStack d st 2) 31 24 == 0 && devStack d st 3 == 0 && devMask d st 0 == 0x8000) &&
  inRange 1 6400 (devBudget d) && allZero (slice d 2724 1372)

/-! ### The cups' sections -/

/-- What an image gives a cup: its structure, its content, its declared digest, and the section its structure is in. -/
structure CupImage where
  cup : Nat
  sec : Nat
  words : List Word
  content : Option (List Word)
  digest : BitVec 384
  deriving DecidableEq, Repr

/-- The content of cup c. -/
def contentOf (img : List Byte) (c : Nat) : Option (List Word) :=
  ((secsKind img 2).find? fun x => x.cups.contains c).map fun x =>
    wordsOf (slice (plainOf img x) ((c - x.target) * contentBytes) contentBytes)

/-- The plaintext of the one section of a kind. -/
def soleSec (img : List Byte) (k : Nat) : List Byte := ((secsKind img k).head?.map (plainOf img)).getD []

/-- What the image gives the cups that the sparing map has, in entry order (R300, R311). -/
def State.cupImages (s : State) (img : List Byte) : List CupImage :=
  (secsKind img 1).flatMap fun x =>
    (x.cups.filter fun c => (s.leafOfCup c).isSome).map fun c =>
      { cup := c, sec := x.idx, words := wordsOf (slice (plainOf img x) ((c - x.target) * structBytes) structBytes),
        content := contentOf img c, digest := BitVec.ofNat 384 (numAt (soleSec img 3) (48 * c) 48) }

/-- The DRIVE word of a side that the border plan gives (R302, R108). -/
def State.planDrive (s : State) (h : List Byte) (c sd : Nat) : Word :=
  if 8 ≤ borderNib h c sd ∧ s.facesNone c sd = false then 0x3FF else 0

/-- Why a cup's part of an image is rejected: the sieve, with the grants of DEVICE and the DRIVE bits of the border plan
(log entry 27), or the plane digest. -/
def State.cupCause (s : State) (img dev : List Byte) (x : CupImage) : Option Nat :=
  let g : Word := BitVec.ofNat 32 (devGrant dev (x.cup / 4) (x.cup % 4))
  let drive := (List.range 4).map fun sd => s.planDrive img x.cup sd
  if (sieve (toPlane x.words) x.words.length (x.content.map fun l => (l.length, contentList l)) (x.cup % 4) g
      drive).isSome then some 0x0C
  else if planeDigest (toPlane x.words) != x.digest then some 0x0D
  else none

/-- The cause, section and cup of IMG_CAUSE. -/
abbrev LoadFault := Nat × Nat × Nat

/-- The entry of the one section of a kind, as IMG_CAUSE.SECTION names it. -/
def soleEntry (img : List Byte) (k : Nat) : Nat := ((secsKind img k).head?.map (·.idx)).getD 0xFF

/-- What step 5 finds wrong with an image (R315, R316), with the section that fails (R324); section digests and decryption
come first, in entry order (log entry 27). -/
def State.imageFault (s : State) (img : List Byte) : Option LoadFault :=
  match secFault img (secsOf img) s.plyngen with
  | some (cause, sec) => some (cause, sec, 0xFF)
  | none =>
    let dev := soleSec img 4
    if !borderPlanOk img || !tenantMapOk img then some (0x0A, 0xFF, 0xFF)
    else if !s.mapRangesOk img (soleSec img 5) then some (0x0A, soleEntry img 5, 0xFF)
    else if !deviceOk dev then some (0x0B, soleEntry img 4, 0xFF)
    else (s.cupImages img).findSome? fun x => (s.cupCause img dev x).map fun c => (c, x.sec, x.cup)

end Sys2Proof.Machine
end

