-- ==== Sys2Proof/Machine/Startup.lean ====
section
/-! DEFINITION. Reset and start-up: PORST, SYSRST_N, CHIP reset, and steps 1 to 7 with their failures (R82, R87, R311 to
R317, R331, R445, R454).  The steps run as one command, which advances TICK to the tick at which each step completes (log
entry 28). -/

namespace Sys2Proof.Machine

/-! ### Time within start-up -/

/-- Root cycles pass up to cycle r: TICK, device time and the island's count go with them (R166, R172, R350). -/
def State.pass (s : State) (r : Nat) : State :=
  if r ≤ s.root then s
  else
    let time := { s.time with acc := s.time.acc + s.rate * (r / 16 - s.root / 16) }
    { s with root := r, aon := s.aon + (r / 160 - s.root / 160), time }

/-- The first tick at or after the next boundary of a whole second of device time (R174). -/
def State.secondTick (s : State) : Nat :=
  s.tick + ceilDiv ((s.time.secDone + 1) * 1000000000 * 2 ^ 32 - s.time.acc) s.rate

/-- Root cycles pass within a command: what is due at the next second boundary takes effect on the way (R174, R175). -/
def State.advance (s : State) (r : Nat) : State :=
  if (s.time.pendAdj.isSome || s.time.pendStep.isSome || s.time.pendSet.isSome) && decide (16 * s.secondTick ≤ r) then
    ((s.pass (16 * s.secondTick)).applySecond).pass r
  else s.pass r

/-- Step n is in progress. -/
def State.atStep (s : State) (n : Nat) : State := s.setFld ⟨.imgStat, 0, 0⟩ 22 20 n

/-- The time at which step n completes passes; IMG_STEPT[n] records its tick (R312). -/
def State.stepEnds (s : State) (env : StartEnv) (n : Nat) : State :=
  let s := s.advance (16 * env.stepTick.getD (n - 3) 0)
  s.setReg ⟨.imgStep, 0, n⟩ (loWord s.tick)

/-- The tick at which step n completed. -/
def State.stepTick (s : State) (n : Nat) : Nat :=
  s.tick - (s.tick + 2 ^ 32 - (s.reg ⟨.imgStep, 0, n⟩).toNat % 2 ^ 32) % 2 ^ 32

/-! ### Step 2 -/

/-- Rails at the values of their manufacture, those of regulators that do not answer at 0.80 V, and the power of stacks and
tray sections (R366, R372). -/
def State.stepTwo (s : State) (deaf : List Nat) : State :=
  let s := (List.range 13).foldl
    (fun (s : State) x => if deaf.contains x then s else s.setRail x (Config.railStart x : Nat)) s
  let s := { s with urn := { s.urn with trimAt := s.tick, deaf } }
  ((List.range 8 ++ (List.range 8).map (· + 28)).foldl (fun (s : State) k => s.askUnits (256 + k) (s.need (256 + k))) s).examineAll

/-- The RESET record, with the source of the image in use before it (R398; log entry 28), and the boot count. -/
def State.resetRecord (s : State) (detail source : Nat) : State :=
  let s := { s with nv := { s.nv with boot := s.nv.boot + 1 } }
  s.raiseEvent 0x005 0 [0x01] [BitVec.ofNat 8 (s.fld ⟨.imgStat, 0, 0⟩ 31 29), BitVec.ofNat 8 source]
    (some (0x0100 + detail))

/-! ### Step 3 -/

/-- The firmware copy that runs: of those that pass the mask ROM's check, the one with the higher SVN, copy A where they
are equal (R310). -/
def State.firmware (s : State) : Option Nat :=
  let svn (r : Nat) : Nat := imgSvn (s.regionImage r 0)
  let order := if svn 0 < svn 1 then [1, 0] else [0, 1]
  order.find? fun r => s.nv.valid r 0 && (fwFault (s.regionImage r 0) s.plyngen).isNone

/-! ### Step 4: the lane plan -/

/-- The symbol rate of a role's lanes in units of 1/16 kBd: an Ethernet port's by its CONFIG (R201), PCI Express's at its
start 2.5 GT/s, the others' by the plan. -/
def roleBaud16 (w rate : Word) : Nat :=
  16 * match bits w 2 0 with
  | 1 => (match bits w 7 4 with
    | 3 => 26562500
    | 4 => 25781250
    | 5 => 10312500
    | _ => 53125000)
  | 2 => 2500000
  | _ => bits rate 26 0

/-- QREF in units of 1/16 kHz: 161,133 kHz of an ETH quad stands for 161,132.8125 kHz (R200). -/
def qref16 (w : Word) (khz : Nat) : Nat := if bits w 2 0 = 1 ∧ khz = 161133 then 2578125 else 16 * khz

/-- N and F that make the symbol rate from QREF: QREF × (N + F / 2²⁴), to the nearest F (R193; log entry 93). -/
def pllSet (rate ref : Nat) : Nat × Nat :=
  let x := (rate * 2 ^ 25 + ref) / (2 * ref)
  (x / 2 ^ 24, x % 2 ^ 24)

/-- The PLLs of an entry: PLL A, and PLL B where a lane runs from it. -/
def entryPlls (e : List Word) : (Nat × Nat) × (Nat × Nat) :=
  let w := entWord e 0
  let ref := qref16 w (bits (entWord e 3) 18 0)
  (if bits w 2 0 = 0 then (0, 0) else pllSet (roleBaud16 w (entWord e 1)) ref,
   if bits w 15 12 = 0 then (0, 0) else pllSet (roleBaud16 w (entWord e 2)) ref)

/-- Puts one quad's entry in force (R193, R197, R202, R230, R326, R372); the lanes of a PCI Express controller begin to
train (R312). -/
def State.applyQuad (s : State) (q : Nat) (e : List Word) : State :=
  let w := entWord e 0
  let s := (s.setReg ⟨.quadCfg, q, 0⟩ w).modQuad q fun x =>
    { x with plan := e.drop 1, pllA := (entryPlls e).1, pllB := (entryPlls e).2 }
  let role := bits w 2 0
  let stat := if role = 0 then 0 else packBits [(2, 2, 1), (1, 1, b2n (bits w 15 12 != 0)), (0, 0, 1)]
  let s := s.setReg ⟨.quadStat, q, 0⟩ stat
  let used := usedLanes w
  let s := (List.range 4).foldl
    (fun (s : State) j =>
      let l := 4 * q + j
      if used.contains j then
        (((s.setFld ⟨.lnStat, l, 0⟩ 31 30 0).setFld ⟨.lnCtl, l, 0⟩ 1 0 0).trainTxeq l).modLane l fun x =>
          { x with retraining := role == 2, uncounted := role == 2 }
      else s.setFld ⟨.lnStat, l, 0⟩ 31 30 2) s
  if used.isEmpty then (s.unask (192 + q)).keepUnits (192 + q) 0
  else if s.grant (192 + q) = 0 then s.askUnits (192 + q) (max 1 (s.need (192 + q)))
  else s

/-- The role the device has in a cascade (R331 to R333). -/
def State.casStart (s : State) : State :=
  let st := s.pins.latched
  let s := { s with cas := { s.cas with startAt := s.tick } }
  let s := s.setFields ⟨.casStat, 0, 0⟩ [(31, 30, 0), (29, 29, 0), (9, 0, st.cascId), (23, 23, b2n st.deputyEn)]
  let s := (List.range 32).foldl
    (fun (s : State) n => s.setFld ⟨.casLink, n, 0⟩ 31 29 (if n < s.casLinks.length then 1 else 0)) s
  if st.masterEn then s.claimAnew (max 1 s.cas.maxEpoch)
  else if s.casLinks = [] then s
  else s.setFields ⟨.casStat, 0, 0⟩ [(31, 30, 1), (29, 29, 1)]

/-- Puts a lane plan in force. -/
def State.applyPlan (s : State) (h : List Byte) : State :=
  ((List.range 64).foldl (fun (s : State) q => s.applyQuad q (planEntry h q)) s).examineAll.casStart

/-! ### Step 4: the self-test, Colrek training and the sparing map (R82, R84, R87) -/

/-- The failed leaves, and why: 1 the Caddy's record, 2 the self-test, 3 Colrek training. -/
def failCause (marks : List Nat) (env : StartEnv) (p : Nat) : Nat :=
  if marks.contains p then 1
  else if env.selfTestFail.contains p then 2
  else if env.colrekFail.contains p then 3
  else 0

/-- The physical leaves that the columns of a row take (R82). -/
def rowMap (failed : Nat → Bool) (r : Nat) : List Nat :=
  ((List.range 13).map (fun x => 13 * r + x)).filter fun p => !failed p

/-- The map: the physical leaf of logical leaf n, 0x3F when absent. -/
def sparingMap (failed : Nat → Bool) (n : Nat) : Nat := (rowMap failed (n / 12)).getD (n % 12) 0x3F

/-- TRAY_PHEALTH of leaf p under a map. -/
def healthWord (failed : Nat → Bool) (cause p : Nat) : Word :=
  let n := ((List.range 48).find? fun n => sparingMap failed n == p).getD 0xFF
  packBits [(15, 8, n), (7, 4, cause), (1, 0, if failed p then 2 else if n = 0xFF then 1 else 0)]

/-- Colrek training replaces lanes by spares (R87): the group's register. -/
def State.spareGroup (s : State) (e : Nat × Nat × Nat × Nat) : State :=
  let (p, g, a, b) := e
  let s := s.setFields ⟨.leafCrkGstat, p, g⟩ [(31, 24, b), (23, 16, a), (1, 0, 2)]
  s.modLeaf p fun x => { x with spared := nput x.spared g (if b = 0xFF then 1 else 2) 0 }

/-- A record of a source's event, written as the event occurs; the event itself waits for step 7 (R313). -/
def State.recordOf (s : State) (n kind cause : Nat) (bytes : List Byte) : State :=
  s.addRecord (s.mkRec n (Config.eventSev n kind).toNat 0x01 cause bytes)

/-- Delivers an event whose record has been written. -/
def State.late (s : State) (f : State → State) : State := { f s with caddy := s.caddy }

/-- DATA of a RETIRE record. -/
def retireData (idx tick : Nat) : List Byte := leBytes 2 idx ++ leBytes 8 tick

/-- DATA of a REPAIR record. -/
def repairData (idx a b : Nat) : List Byte := leBytes 2 idx ++ [BitVec.ofNat 8 a, BitVec.ofNat 8 b]

/-- A repair that names a group there is. -/
def repairThere (e : Nat × Nat × Nat × Nat) : Bool := decide (e.1 < 52 ∧ e.2.1 < 178)

/-- The self-test and Colrek training run, leaves that fail are marked, and the map is built. -/
def State.buildMap (s : State) (env : StartEnv) : State :=
  let marks := s.nv.failed ++ s.nv.retiredEver.filter fun p => !s.nv.failed.contains p
  let failed (p : Nat) : Bool := failCause marks env p != 0
  let fresh := (List.range 52).filter fun p => decide (2 ≤ failCause marks env p)
  let s := (env.colrekRepair.filter repairThere).foldl
    (fun (s : State) e => (s.spareGroup e).recordOf (0x200 + e.1) 5 0x0401
      (repairData (e.2.1 + 256 * e.1) e.2.2.1 e.2.2.2)) s
  let s := fresh.foldl (fun (s : State) p => s.recordOf (0x200 + p) 3 0x0301 (retireData p s.tick)) s
  let s := (List.range 48).foldl
    (fun (s : State) n => s.setReg ⟨.trayLmap, n, 0⟩ (BitVec.ofNat 32 (sparingMap failed n))) s
  let s := (List.range 52).foldl
    (fun (s : State) p => s.setReg ⟨.trayPhealth, p, 0⟩ (healthWord failed (failCause marks env p) p)) s
  let now := marks ++ fresh
  if now = s.nv.failed then s
  else ({ s with nv := { s.nv with failed := now } }).healthRecord

/-! ### Step 5 -/

/-- A pseudo-channel trains (R255): its centres and spares, or its retirement with its record; events wait (R313). -/
def State.bootTrain (s : State) (env : StartEnv) (x : Nat) : State :=
  match look env.train x with
  | some r =>
    (match trainSpares r with
    | some l =>
      let s := (s.writeCentres x r).setSpares x l
      if l = [] then s
      else s.recordOf (0x600 + x) 5 0x0402 (repairData x (lookD l 36 0xFF) (lookD l 37 0xFF))
    | none => (s.setFld ⟨.pchStat, x, 0⟩ 31 30 3).recordOf (0x600 + x) 3 0x0305 (retireData x s.tick))
  | none => (s.setFld ⟨.pchStat, x, 0⟩ 31 30 3).recordOf (0x600 + x) 3 0x0305 (retireData x s.tick)

/-- Applies the DEVICE section through the sparing map (R89, R304, R311). -/
def State.applyDevice (s : State) (d : List Byte) : State :=
  let s := (List.range 48).foldl
    (fun (s : State) k =>
      let p := s.fld ⟨.trayLmap, k, 0⟩ 5 0
      if p < 52 then
        let s := (List.range 16).foldl
          (fun (s : State) n => (s.setReg ⟨.leafDiv, p, n⟩ (BitVec.ofNat 32 (devDiv d k n))).modLeaf p fun x =>
            { x with divNow := nput x.divNow n (devDiv d k n + 1) 5 }) s
        (List.range 4).foldl
          (fun (s : State) m => s.setReg ⟨.leafDivgrant, p, m⟩ (BitVec.ofNat 32 (devGrant d k m))) s
      else s) s
  (List.range 8).foldl
    (fun (s : State) st =>
      let s := (s.setReg ⟨.stkCgStart, st, 0⟩ (devStack d st 0)).setReg ⟨.stkCgCfg, st, 0⟩ (devStack d st 1)
      let s := s.setReg ⟨.stkAge, st, 0⟩ (devStack d st 2)
      (List.range 66).foldl (fun (s : State) n => s.writeWaymask st n (BitVec.ofNat 32 (devMask d st n))) s) s

/-- Carries out what a cup's last request may now do. -/
def State.settleCup (s : State) (c : Nat) : State :=
  let s := (if s.cupTarget c = 0 then s.cupOff c else s).examineAll
  let s := (if s.cupState c = 0 ∧ (s.cup c).moving = true then s.toDormant c else s).examineAll
  if s.cupState c = 1 ∧ (s.cup c).moving = true ∧ s.cupTarget c = 2 then s.toRun c else s

/-- Loads what the image gives a cup: the shadow plane and its digest, and content into a cup on its way to DORMANT. -/
def State.bootCup (s : State) (x : CupImage) : State :=
  let s := s.modCup x.cup fun y => { y.putShadow x.words with xdig := x.digest }
  let s := s.setDigest .cupSdig x.cup x.digest
  match x.content with
  | some ws => ((s.stateReq x.cup 1).settleCup x.cup).modCup x.cup fun y => y.putContent ws
  | none => s

/-- Step 5 (R259, R283, R311): the declared domains, training, the ranges, DEVICE, the cups, the budget. -/
def State.stepFive (s : State) (env : StartEnv) (img : List Byte) : State :=
  let s := (s.kettleRange).declare (mapTenants img)
  let s := (List.range 256).foldl (fun (s : State) x => s.bootTrain env x) s
  let s := s.applyDevice (soleSec img 4)
  let s := (mapRanges (soleSec img 5)).foldl
    (fun (s : State) e => (s.fillRange e.idx e.base e.limit e.owner e.rights).fillDone e.idx) s
  let s := (s.cupImages img).foldl (fun (s : State) x => s.bootCup x) s
  let b := devBudget (soleSec img 4)
  ({ s with urn := { s.urn with budget := b } }).setFld ⟨.urnBudget, 0, 0⟩ 12 0 b

/-! ### Step 6 -/

/-- All present cups flip at one tick; a cup that no section covers takes the all-zero plane and its digest (R300,
R311). -/
def State.bootFlip (s : State) (env : StartEnv) (img : List Byte) : State :=
  let covered := (s.cupImages img).map (·.cup)
  let s := s.advance (16 * max env.flipTick s.nextTick)
  ((List.range 192).filter fun c => (s.leafOfCup c).isSome).foldl
    (fun (s : State) c =>
      let s := if covered.contains c then s else s.modCup c fun x => { x with xdig := planeDigest [] }
      s.flip c true) s

/-- The creation of the map's tenants completes (R412); their cups keep the planes just loaded. -/
def State.bootTenants (s : State) (img : List Byte) : State :=
  let ext := soleSec img 5
  (mapTenants img).foldl
    (fun (s : State) n =>
      let mine := (List.range 192).filter fun c => (s.leafOfCup c).isSome && mapOwner img c == 0x10 + n
      let s := mine.foldl (fun (s : State) c => s.newDomain c (0x10 + n)) s
      s.enrol n (tenRecOf (mapRecord img n)) (BitVec.ofNat 384 (numAt ext (96 * n) 48))
        (BitVec.ofNat 384 (numAt ext (96 * n + 48) 48))) s

/-- The border plan is applied (R107, R302). -/
def State.applyBorders (s : State) (img : List Byte) : State :=
  ((List.range 192).filter fun c => (s.leafOfCup c).isSome).foldl
    (fun (s : State) c => (List.range 4).foldl
      (fun (s : State) sd =>
        let b := borderNib img c sd
        let modes := packBits ((List.range 10).map fun n => (2 * n + 1, 2 * n, b % 4))
        let w := putBits modes 29 20 (if b / 4 % 2 = 1 then 0x3FF else 0)
        let s := s.applyModes c sd (s.legalModes c sd w)
        s.setFld ⟨.cupBdrv, c, sd⟩ 9 0 (s.planDrive img c sd).toNat) s) s

/-- Cups move to their CUP_STATE, in ascending order (R311). -/
def State.startCups (s : State) (img : List Byte) : State :=
  ((List.range 192).filter fun c => (s.leafOfCup c).isSome).foldl
    (fun (s : State) c => (s.stateReq c (mapState img c)).settleCup c) s

/-- Step 6. -/
def State.stepSix (s : State) (env : StartEnv) (img : List Byte) : State :=
  (((s.bootFlip env img).bootTenants img).applyBorders img).startCups img

/-! ### Step 7 -/

/-- The events of start-up's retirements and repairs are delivered (R313). -/
def State.lateEvents (s : State) : State :=
  let t4 := s.stepTick 4
  let t5 := s.stepTick 5
  let s := (List.range 52).foldl
    (fun (s : State) p =>
      if 2 ≤ s.fld ⟨.trayPhealth, p, 0⟩ 7 4 then s.late fun s => s.retireEvent (0x200 + p) 1 p t4 [0x01] else s) s
  let mended := (s.regs.filter fun e => e.1.name == .leafCrkGstat && bits e.2 1 0 == 2).map fun e => (e.1.i, e.1.j, e.2)
  let s := mended.foldl
    (fun (s : State) (e : Nat × Nat × Word) => s.late fun s => s.raiseEvent (0x200 + e.1) 5 [0x01]
      (repairData (e.2.1 + 256 * e.1) (bits e.2.2 23 16) (bits e.2.2 31 24)) (some 0x0401)) s
  (List.range 256).foldl
    (fun (s : State) x =>
      let w := s.reg ⟨.pchStat, x, 0⟩
      match bits w 31 30 with
      | 2 => s.late fun s => s.raiseEvent (0x600 + x) 5 [0x01] (repairData x (bits w 15 8) (bits w 23 16)) (some 0x0402)
      | 3 =>
        let (b, n) := s.groupOf (x / 32) (x % 32)
        let lo := x / 32 * stackBytes + b * pchBytes
        s.late fun s => s.retireEvent (0x600 + x) 5 x t5 (s.groupDoms lo (lo + n * pchBytes))
      | _ => s) s

/-- Step 7: user I/O is released (R311). -/
def State.ioRelease (s : State) (source : Nat) (fell : Option LoadFault) : State :=
  let s := { s with phase := .service, pins := { s.pins with squelched := false } }
  let s := s.setFields ⟨.imgStat, 0, 0⟩ [(27, 26, source), (24, 24, b2n fell.isSome), (23, 23, 1), (22, 20, 7)]
  let s := s.lateEvents
  let s := (s.urn.deaf.filter fun x => decide (x < 13)).foldl
    (fun (s : State) x => s.raiseEvent 0x012 0 [0x01] [BitVec.ofNat 8 x]) s
  match fell with
  | some (cause, sec, cup) =>
    s.late fun s => s.raiseEvent 0x004 1 [0x01] [BitVec.ofNat 8 sec, BitVec.ofNat 8 cup, 1] (some (0x0200 + cause))
  | none => s

/-! ### The whole load -/

/-- The header part of step 4: the region's mark, the header, the lane plan (R200, R305, R315). -/
def State.headerCause (s : State) (region : Nat) : Option Nat :=
  if !s.nv.valid region 0 then some 0x02
  else
    let img := s.regionImage region 0
    match s.nv.headerFault img (region - 1) with
    | some c => some c
    | none => if lanePlanOk img then none else some 0x09

/-- The header part of step 4 and steps 5 to 7, from a full image region; `mapped` says that the sparing map of this
start-up stands.  The state, and the failure if the load fails. -/
def State.loadRegion (s : State) (env : StartEnv) (region source : Nat) (mapped : Bool) (fell : Option LoadFault) :
    State × Option LoadFault :=
  match s.headerCause region with
  | some c => (s, some (c, 0xFF, 0xFF))
  | none =>
    let img := s.regionImage region 0
    let s := s.applyPlan img
    let s := if mapped then s.stepEnds env 4
      else
        let s := s.advance (16 * env.stepTick.getD 1 0)
        (s.buildMap env).stepEnds env 4
    let s := s.atStep 5
    match s.imageFault img with
    | some f => (s, some f)
    | none =>
      let s := s.advance (16 * env.stepTick.getD 2 0)
      let s := (((s.stepFive env img).stepEnds env 5).atStep 6).stepSix env img
      let s := ((s.stepEnds env 6).atStep 7).stepEnds env 7
      (s.ioRelease source fell, none)

/-- Step 3: the firmware copy that starts, or none (R310). -/
def State.stepThree (s : State) (env : StartEnv) : State × Bool :=
  match (s.atStep 3).firmware with
  | some r => ((((s.atStep 3).setFld ⟨.imgStat, 0, 0⟩ 25 25 r).stepEnds env 3).atStep 4, true)
  | none => (s.atStep 3, false)

/-- The Caddy's LOAD record of a failure, and IMG_CAUSE (R316, R398). -/
def State.loadFailed (s : State) (f : LoadFault) (falls : Bool) : State :=
  let s := s.setReg ⟨.imgCause, 0, 0⟩ (packBits [(31, 24, f.1), (23, 16, f.2.1), (15, 8, f.2.2)])
  s.recordOf 0x004 1 (0x0200 + f.1) [BitVec.ofNat 8 f.2.1, BitVec.ofNat 8 f.2.2, BitVec.ofNat 8 (b2n falls)]

/-- A load that ends in a start-up halt (R315). -/
def State.startHalt (s : State) (f : LoadFault) : State := { s.loadFailed f false with phase := .halted }

/-- A failure that step 4's map has preceded. -/
def pastMap (f : LoadFault) : Bool := decide (f.1 = 0x07 ∨ f.1 = 0x08 ∨ 0x0A ≤ f.1)

/-- Steps 3 to 7 from a region; a failure of the primary image after a CHIP reset falls back to the golden one (R315). -/
def State.boot (s : State) (env : StartEnv) (region : Nat) (chip : Bool) : State :=
  let attempt (s : State) (r : Nat) (mapped : Bool) (fell : Option LoadFault) : State × Option LoadFault :=
    match s.stepThree env with
    | (s, true) => s.loadRegion env r (r - 2) mapped fell
    | (s, false) => (s, some (0x01, 0xFF, 0xFF))
  match attempt s region false none with
  | (s, none) => s
  | (s, some f) =>
    if chip ∧ region = 2 then
      match attempt ((s.loadFailed f true).setFlag ⟨.imgStat, 0, 0⟩ 24 true) 3 (pastMap f) (some f) with
      | (s, none) => s
      | (s, some g) => s.startHalt g
    else s.startHalt f

/-- Steps 2 to 7 by boot mode (R314).  Factory test mode has no session yet, so it begins as a reserved value's failure does;
with TEST_MODE high it stands after step 3, where the session may open (`State.factoryWaits`, `State.dbgOpen`). -/
def State.fromStepTwo (s : State) (env : StartEnv) (detail source region : Nat) (chip : Bool) : State :=
  let s := ((s.atStep 2).resetRecord detail source).stepTwo env.deafRails
  match s.fld ⟨.imgStat, 0, 0⟩ 31 29 with
  | 0 => s.boot env region chip
  | 1 =>
    (match s.stepThree env with
    | (s, true) =>
      let s := s.advance (16 * env.stepTick.getD 1 0)
      { (s.buildMap env).stepEnds env 4 with phase := .recovery }
    | (s, false) => s.startHalt (0x01, 0xFF, 0xFF))
  | 2 =>
    if s.flag ⟨.imgStat, 0, 0⟩ 28 then
      (match s.stepThree env with
      | (s, true) => s.startHalt (0x0E, 0xFF, 0xFF)
      | (s, false) => s.startHalt (0x01, 0xFF, 0xFF))
    else s.startHalt (0x0E, 0xFF, 0xFF)
  | _ => s.startHalt (0x0E, 0xFF, 0xFF)

/-! ### PORST and step 1 -/

/-- PORST (R445): everything is reset; what the device keeps without power stays, and the Caddy engine's buffer, which it
commits while PORST_N is low (R446; log entry 29). -/
def execPorst (s : State) : Host.Outcome State Fault Refusal :=
  .next { State.reset with
    pending := s.pending, freeCtr := s.freeCtr, sent := s.sent, nv := s.nv,
    pins := { straps := s.pins.straps, sysrstN := s.pins.sysrstN, perst0N := s.pins.perst0N,
              perst1N := s.pins.perst1N, errExtLow := s.pins.errExtLow },
    caddy := s.caddy }

/-- PORST_RELEASE (R311): PORST_N rises and the island begins to count. -/
def execPorstRelease (s : State) : Host.Outcome State Fault Refusal :=
  .next (if s.phase = .inReset then { s with phase := .counting, aon := 0, pins := { s.pins with porstN := true } }
  else s)

/-- The straps are latched and appear in DEV_CASC, CAS_STAT and IMG_STAT (R454). -/
def State.latchStraps (s : State) : State :=
  let st := s.pins.straps
  let s := { s with pins := { s.pins with latched := st } }
  let s := s.setReg ⟨.devCasc, 0, 0⟩ (BitVec.ofNat 32 (st.cascId % 1024))
  let s := s.setFields ⟨.casStat, 0, 0⟩ [(23, 23, b2n st.deputyEn), (9, 0, st.cascId)]
  s.setFields ⟨.imgStat, 0, 0⟩ [(31, 29, st.bootMode), (28, 28, b2n st.testMode)]

/-- AON_START_COUNT_DONE (R311, R350, R445, R454): after 131,072 AON cycles the straps are latched, the root PLL locks with TICK
0, and start-up runs; with SYSRST_N low step 2 waits for its rise. -/
def execAonStartCountDone (env : StartEnv) (s : State) : Host.Outcome State Fault Refusal :=
  .next (if s.phase = .counting ∧ 131072 ≤ s.aon then
    let s := ({ s with pins := { s.pins with straps := env.straps } }).latchStraps
    let s : State := { s with root := 0, clk := { s.clk with mode := .running } }
    if s.pins.sysrstN then s.fromStepTwo env 1 3 2 false
    else { s with phase := .sysrst, chipDue := true, chipWhy := 2 }
  else s)

/-! ### CHIP reset (R317, R466) -/

/-- What a register reads after a CHIP reset: its Reset value, but for what PORST alone resets and what straps and TICK give
(R167, R314, R324, R382, R454, R466). -/
def chipWord (k : RegKey) (w : Word) : Word :=
  match k.name with
  | .imgStat => putBits (resetVal k) 31 28 (bits w 31 28)
  | .casStat => putBits (putBits (resetVal k) 23 23 (bits w 23 23)) 9 0 (bits w 9 0)
  | .timeStat => putBits (resetVal k) 0 0 (bits w 0 0)
  | .stkTemp | .urnTemp => putBits (resetVal k) 15 8 (bits w 15 8)
  | .clkStat => putBits (putBits (resetVal k) 28 28 (bits w 28 28)) 15 0 (bits w 15 0)
  | .imgCause => putBits (resetVal k) 31 24 (bits w 31 24)
  | .devCasc | .timeAdj | .timeMapTick | .timeMapTickHi | .timeMapSec | .timeMapSecHi | .timeMapFrac
  | .timeMapAdj | .ppsInStamp | .ppsInStampHi | .ppsInFrac => w
  | _ => resetVal k

/-- The register file after a CHIP reset. -/
def chipRegs (l : List (RegKey × Word)) : List (RegKey × Word) :=
  (l.map fun e => (e.1, chipWord e.1 e.2)).filter fun e => e.2 != resetVal e.1

/-- What a CHIP reset leaves before step 2; the servo's first lock is to come again (log entry 117). -/
def State.chipClear (s : State) : State :=
  { State.reset with
    pending := s.pending, freeCtr := s.freeCtr, sent := s.sent, root := s.root, aon := s.aon,
    clk := { s.clk with lost := [] },
    time := { acc := s.time.acc, secDone := s.time.secDone, adj := s.time.adj, pendAdj := s.time.pendAdj, ppsStamped := s.time.ppsStamped },
    pins := { porstN := true, sysrstN := s.pins.sysrstN, perst0N := s.pins.perst0N, perst1N := s.pins.perst1N,
              errExtLow := s.pins.errExtLow, thermTrip := s.pins.thermTrip, straps := s.pins.straps,
              latched := s.pins.latched, ir := s.pins.ir },
    regs := chipRegs s.regs, hbm := s.hbm, nv := s.nv,
    caddy := { nextSeq := s.caddy.nextSeq }, phase := .halted,
    pchs := (List.range 256).map fun x => (x, { leakBase := s.tick - s.tick % msTicks 1000 }),
    plyngen := s.plyngen }

/-- SYSRST (R445): a CHIP reset begins, and the device serves nothing until it is done, unless PORST_N is low or the state is
one that ignores SYSRST_N.  In step 1, which has yet to reach step 2, the low level alone is seen. -/
def execSysrst (s : State) : Host.Outcome State Fault Refusal :=
  .next (match s.phase with
  | .inReset | .integrity | .safe true => s
  | .counting => { s with pins := { s.pins with sysrstN := false } }
  | _ =>
    { s with phase := .sysrst, chipDue := true, chipWhy := 2, reloadRegion := none,
             pins := { s.pins with sysrstN := false, squelched := true } })

/-- A CHIP reset that is due may take place: integrity halt ends by the recovery command alone, the safe state by SYSRST_N
alone, and after a thermal trip by neither (R392). -/
def State.chipReady (s : State) : Bool :=
  s.chipDue && s.rootRuns && match s.phase with
    | .inReset | .counting | .safe _ => false
    | .integrity => s.chipWhy == 5
    | _ => true

/-- CHIP_RESET (R317, R365, R387, R445): once the records before it have committed, and SYSRST_N is high, the device starts
again at step 2.  The region that RELOAD named stays that of this start-up until it has reached step 7. -/
def execChipReset (env : StartEnv) (s : State) : Host.Outcome State Fault Refusal :=
  .next (if s.chipReady then
    let s := s.flushCaddy
    let t := ({ s.chipClear with pins := { s.chipClear.pins with sysrstN := true } }).fromStepTwo env s.chipWhy
      (s.fld ⟨.imgStat, 0, 0⟩ 27 26) (s.reloadRegion.getD 2) true
    if t.phase = .service then t else { t with reloadRegion := s.reloadRegion }
  else s)

/-! ### RUN (R314) -/

/-- The load that RUN asks for: from the primary image, with the map that recovery mode built.  The command ends done, or
failed with the cause of a load that fails (log entry 28). -/
def State.runLoad (s : State) (env : StartEnv) : State :=
  match s.loadRegion env 2 2 true none with
  | (s, none) => s.imgEnd 0 0 0
  | (s, some f) => (s.imgEnd 0 4 f.1).startHalt f

/-- RUN (R314): the write of IMG_CMD, and the load once the Kettle serves it. -/
def execRun (m : Nat) (v : Word) (env : StartEnv) (s : State) : Host.Outcome State Fault Refusal :=
  match s.imgCommand m 9 v with
  | .next t =>
    .next (match look t.imgJobs 0 with
    | some j => if j.started && j.op == 9 && decide (t.phase = .recovery) then t.runLoad env else t
    | none => t)
  | o => o

end Sys2Proof.Machine
end

