-- ==== Sys2Proof/Machine/Dispatch.lean ====
section
/-! DEFINITION. The dispatch: one arm per command, each one direct call of its meaning. -/

namespace Sys2Proof.Machine

/-- The effect of a command on everything but the queue. -/
def exec (i : Instr) (s : State) : Host.Outcome State Fault Refusal :=
  match i with
  | .registerWrite m addr size v => Sys2Proof.Machine.execRegisterWrite m addr size v s
  | .lowWordRead m addr => Sys2Proof.Machine.execLowWordRead m addr s
  | .rcFieldRead m addr => Sys2Proof.Machine.execRcFieldRead m addr s
  | .read m tag addr len err => Sys2Proof.Machine.execRead m tag addr len err s
  | .write m tag addr data err => Sys2Proof.Machine.execWrite m tag addr data err s
  | .fence m tag => Sys2Proof.Machine.execFence m tag s
  | .fenceComplete m => Sys2Proof.Machine.execFenceComplete m s
  | .responseFlit m tag err => Sys2Proof.Machine.execResponseFlit m tag err s
  | .requestTimeout m tag => Sys2Proof.Machine.execRequestTimeout m tag s
  | .refusalLatencyExpiry m tag => Sys2Proof.Machine.execRefusalLatencyExpiry m tag s
  | .leafDivWrite m p n v => Sys2Proof.Machine.execLeafDivWrite m p n v s
  | .dividerChangeEffect p n => Sys2Proof.Machine.execDividerChangeEffect p n s
  | .colrekCrcMismatch p g => Sys2Proof.Machine.execColrekCrcMismatch p g s
  | .colrekLockLoss p g => Sys2Proof.Machine.execColrekLockLoss p g s
  | .colrekRetrain p g failing holds => Sys2Proof.Machine.execColrekRetrain p g failing holds s
  | .colrekRetrainDone p g => Sys2Proof.Machine.execColrekRetrainDone p g s
  | .cupStateReq m c v => Sys2Proof.Machine.execCupStateReq m c v s
  | .cupOffToDormantDone c => Sys2Proof.Machine.execCupOffToDormantDone c s
  | .cupClocksStart c => Sys2Proof.Machine.execCupClocksStart c s
  | .cupClocksStop c => Sys2Proof.Machine.execCupClocksStop c s
  | .cupToOffDone c => Sys2Proof.Machine.execCupToOffDone c s
  | .cupLoad m c v => Sys2Proof.Machine.execCupLoad m c v s
  | .loadComplete c => Sys2Proof.Machine.execLoadComplete c s
  | .shadowRecheck c => Sys2Proof.Machine.execShadowRecheck c s
  | .cupBrdReqWrite m c side v => Sys2Proof.Machine.execCupBrdReqWrite m c side v s
  | .cupBdrvWrite m c side v => Sys2Proof.Machine.execCupBdrvWrite m c side v s
  | .borderApply c side => Sys2Proof.Machine.execBorderApply c side s
  | .captureRelease m c v => Sys2Proof.Machine.execCaptureRelease m c v s
  | .readbackStart m c v => Sys2Proof.Machine.execReadbackStart m c v s
  | .readbackDone c => Sys2Proof.Machine.execReadbackDone c s
  | .streamPortBindWrite m c out n v => Sys2Proof.Machine.execStreamPortBindWrite m c out n v s
  | .streamInPacket c n stream data => Sys2Proof.Machine.execStreamInPacket c n stream data s
  | .streamOutPacket c n data => Sys2Proof.Machine.execStreamOutPacket c n data s
  | .cupRequest c op addr tag len data => Sys2Proof.Machine.execCupRequest c op addr tag len data s
  | .qOpen m tag q => Sys2Proof.Machine.execQOpen m tag q s
  | .qData m tag q bytes => Sys2Proof.Machine.execQData m tag q bytes s
  | .qClose m tag q lastBytes flags => Sys2Proof.Machine.execQClose m tag q lastBytes flags s
  | .egressRead m tag q slots => Sys2Proof.Machine.execEgressRead m tag q slots s
  | .drop m tag q => Sys2Proof.Machine.execDrop m tag q s
  | .inTake c n => Sys2Proof.Machine.execInTake c n s
  | .queueWriteTimeout m tag => Sys2Proof.Machine.execQueueWriteTimeout m tag s
  | .queueReadTimeout m tag => Sys2Proof.Machine.execQueueReadTimeout m tag s
  | .queueStallResume m tag => Sys2Proof.Machine.execQueueStallResume m tag s
  | .clearAtFlipDone c blk => Sys2Proof.Machine.execClearAtFlipDone c blk s
  | .steepPassCupEnd c => Sys2Proof.Machine.execSteepPassCupEnd c s
  | .steepPassWord c w f => Sys2Proof.Machine.execSteepPassWord c w f s
  | .reserve m set => Sys2Proof.Machine.execReserve m set s
  | .prepareTree m set => Sys2Proof.Machine.execPrepareTree m set s
  | .release m set => Sys2Proof.Machine.execRelease m set s
  | .prepareRelease m set => Sys2Proof.Machine.execPrepareRelease m set s
  | .applySet m set => Sys2Proof.Machine.execApplySet m set s
  | .discardSet m set => Sys2Proof.Machine.execDiscardSet m set s
  | .streamTreeSwitch stream => Sys2Proof.Machine.execStreamTreeSwitch stream s
  | .streamDomainWrite m v => Sys2Proof.Machine.execStreamDomainWrite m v s
  | .streamSilenceTimeout stream d => Sys2Proof.Machine.execStreamSilenceTimeout stream d s
  | .queueGrantWrite m v => Sys2Proof.Machine.execQueueGrantWrite m v s
  | .signal m tag n => Sys2Proof.Machine.execSignal m tag n s
  | .message m tag n bytes => Sys2Proof.Machine.execMessage m tag n bytes s
  | .pop m n v => Sys2Proof.Machine.execPop m n v s
  | .collectorVecClear m n w v => Sys2Proof.Machine.execCollectorVecClear m n w v s
  | .timeSecondBoundary => Sys2Proof.Machine.execTimeSecondBoundary s
  | .timeAdjWrite m v => Sys2Proof.Machine.execTimeAdjWrite m v s
  | .timeStep m v => Sys2Proof.Machine.execTimeStep m v s
  | .timeSet m v => Sys2Proof.Machine.execTimeSet m v s
  | .servoUpdate offset adj => Sys2Proof.Machine.execServoUpdate offset adj s
  | .holdover => Sys2Proof.Machine.execHoldover s
  | .ppsOutFall => Sys2Proof.Machine.execPpsOutFall s
  | .ppsInEdge frac => Sys2Proof.Machine.execPpsInEdge frac s
  | .spStage m v => Sys2Proof.Machine.execSpStage m v s
  | .spFree m v => Sys2Proof.Machine.execSpFree m v s
  | .arm m g => Sys2Proof.Machine.execArm m g s
  | .cancel m g => Sys2Proof.Machine.execCancel m g s
  | .spFinalCheck g => Sys2Proof.Machine.execSpFinalCheck g s
  | .spCommitCheck g => Sys2Proof.Machine.execSpCommitCheck g s
  | .spExecute g => Sys2Proof.Machine.execSpExecute g s
  | .spHeldWritesApply => Sys2Proof.Machine.execSpHeldWritesApply s
  | .lnTxeqWrite m q j v => Sys2Proof.Machine.execLnTxeqWrite m q j v s
  | .eyeScanPoint m q j v => Sys2Proof.Machine.execEyeScanPoint m q j v s
  | .eyeScanDone q j errors => Sys2Proof.Machine.execEyeScanDone q j errors s
  | .marginMeasure q j height => Sys2Proof.Machine.execMarginMeasure q j height s
  | .los q j => Sys2Proof.Machine.execLos q j s
  | .lol q j => Sys2Proof.Machine.execLol q j s
  | .pcsAlignmentLossTimeout q n => Sys2Proof.Machine.execPcsAlignmentLossTimeout q n s
  | .laneRetrain q j => Sys2Proof.Machine.execLaneRetrain q j s
  | .laneRetrainDone q j => Sys2Proof.Machine.execLaneRetrainDone q j s
  | .lanePowerRequest m q j v => Sys2Proof.Machine.execLanePowerRequest m q j v s
  | .lanePowerExitDone q j => Sys2Proof.Machine.execLanePowerExitDone q j s
  | .degradedClear stream => Sys2Proof.Machine.execDegradedClear stream s
  | .ethFrameReceive q f => Sys2Proof.Machine.execEthFrameReceive q f s
  | .mergeLegSilence q x b => Sys2Proof.Machine.execMergeLegSilence q x b s
  | .clsSelWrite m q v => Sys2Proof.Machine.execClsSelWrite m q v s
  | .clsActWrite m q v => Sys2Proof.Machine.execClsActWrite m q v s
  | .pacCfgWrite m q v => Sys2Proof.Machine.execPacCfgWrite m q v s
  | .pacerEnqueue q stream data => Sys2Proof.Machine.execPacerEnqueue q stream data s
  | .pacerToken q k => Sys2Proof.Machine.execPacerToken q k s
  | .packetTransmit q n frac => Sys2Proof.Machine.execPacketTransmit q n frac s
  | .txstampPop m q => Sys2Proof.Machine.execTxstampPop m q s
  | .rawRxPacket q j t0 frac data => Sys2Proof.Machine.execRawRxPacket q j t0 frac data s
  | .rawTxUnderrun q j => Sys2Proof.Machine.execRawTxUnderrun q j s
  | .slip m q j v => Sys2Proof.Machine.execSlip m q j v s
  | .slipDone q j => Sys2Proof.Machine.execSlipDone q j s
  | .pcieTlp n f tag bar2 off len wr => Sys2Proof.Machine.execPcieTlp n f tag bar2 off len wr s
  | .perst n => Sys2Proof.Machine.execPerst n s
  | .functionLevelReset n v => Sys2Proof.Machine.execFunctionLevelReset n v s
  | .cgWrite m st cfg v => Sys2Proof.Machine.execCgWrite m st cfg v s
  | .rtpEnable m st v => Sys2Proof.Machine.execRtpEnable m st v s
  | .rtpWritePacket st x data => Sys2Proof.Machine.execRtpWritePacket st x data s
  | .rtpBoundary st x => Sys2Proof.Machine.execRtpBoundary st x s
  | .rtpPacketSend st x => Sys2Proof.Machine.execRtpPacketSend st x s
  | .stackTempSample st celsius => Sys2Proof.Machine.execStackTempSample st celsius s
  | .selfRefreshEntry st => Sys2Proof.Machine.execSelfRefreshEntry st s
  | .selfRefreshExit st => Sys2Proof.Machine.execSelfRefreshExit st s
  | .selfRefreshVerify st h pass => Sys2Proof.Machine.execSelfRefreshVerify st h pass s
  | .fullRetrain st h => Sys2Proof.Machine.execFullRetrain st h s
  | .retrainStageDone st h r => Sys2Proof.Machine.execRetrainStageDone st h r s
  | .panicYieldTimeout st h => Sys2Proof.Machine.execPanicYieldTimeout st h s
  | .retrainHeldRepeat st h => Sys2Proof.Machine.execRetrainHeldRepeat st h s
  | .driftTrack st h corr narrow => Sys2Proof.Machine.execDriftTrack st h corr narrow s
  | .patrolScrubStep st line => Sys2Proof.Machine.execPatrolScrubStep st line s
  | .waymaskWrite m st n v => Sys2Proof.Machine.execWaymaskWrite m st n v s
  | .lineRead addr dom tagged damage => Sys2Proof.Machine.execLineRead addr dom tagged damage s
  | .create m => Sys2Proof.Machine.execCreate m s
  | .setOwner m => Sys2Proof.Machine.execSetOwner m s
  | .remove m => Sys2Proof.Machine.execRemove m s
  | .rekey m => Sys2Proof.Machine.execRekey m s
  | .rangeFillDone r => Sys2Proof.Machine.execRangeFillDone r s
  | .rekeySweepStep r => Sys2Proof.Machine.execRekeySweepStep r s
  | .sweepRateCheck r growth linesPerPct => Sys2Proof.Machine.execSweepRateCheck r growth linesPerPct s
  | .bucketLeak st h => Sys2Proof.Machine.execBucketLeak st h s
  | .infBktCfgWrite m st v => Sys2Proof.Machine.execInfBktCfgWrite m st v s
  | .porst => Sys2Proof.Machine.execPorst s
  | .porstRelease => Sys2Proof.Machine.execPorstRelease s
  | .aonStartCountDone env => Sys2Proof.Machine.execAonStartCountDone env s
  | .sysrst => Sys2Proof.Machine.execSysrst s
  | .chipReset env => Sys2Proof.Machine.execChipReset env s
  | .storeWrite m v => Sys2Proof.Machine.execStoreWrite m v s
  | .storeRead m v => Sys2Proof.Machine.execStoreRead m v s
  | .verify m v => Sys2Proof.Machine.execVerify m v s
  | .reload m v => Sys2Proof.Machine.execReload m v s
  | .wrap m v => Sys2Proof.Machine.execWrap m v s
  | .progSlot m v => Sys2Proof.Machine.execProgSlot m v s
  | .revoke m v => Sys2Proof.Machine.execRevoke m v s
  | .raiseSvn m v => Sys2Proof.Machine.execRaiseSvn m v s
  | .run m v env => Sys2Proof.Machine.execRun m v env s
  | .imgJdataWrite m v => Sys2Proof.Machine.execImgJdataWrite m v s
  | .imgLibentWrite m v => Sys2Proof.Machine.execImgLibentWrite m v s
  | .hceJobStart m x v => Sys2Proof.Machine.execHceJobStart m x v s
  | .hceChunkDone pipe => Sys2Proof.Machine.execHceChunkDone pipe s
  | .hceSlotBoundary => Sys2Proof.Machine.execHceSlotBoundary s
  | .hceCtxWrite m x v => Sys2Proof.Machine.execHceCtxWrite m x v s
  | .selovFrame n frame => Sys2Proof.Machine.execSelovFrame n frame s
  | .ackTimeout n => Sys2Proof.Machine.execAckTimeout n s
  | .selovRetrain n => Sys2Proof.Machine.execSelovRetrain n s
  | .selovRetrainFail n => Sys2Proof.Machine.execSelovRetrainFail n s
  | .claimSend => Sys2Proof.Machine.execClaimSend s
  | .claim n epoch id => Sys2Proof.Machine.execClaim n epoch id s
  | .claimTimeout => Sys2Proof.Machine.execClaimTimeout s
  | .conflictClear => Sys2Proof.Machine.execConflictClear s
  | .deputySilenceTimeout => Sys2Proof.Machine.execDeputySilenceTimeout s
  | .join n id epoch digests => Sys2Proof.Machine.execJoin n id epoch digests s
  | .casAdmitMsg n epoch ofs => Sys2Proof.Machine.execCasAdmitMsg n epoch ofs s
  | .registry members => Sys2Proof.Machine.execRegistry members s
  | .lsa n id links => Sys2Proof.Machine.execLsa n id links s
  | .silenceQ n id => Sys2Proof.Machine.execSilenceQ n id s
  | .silenceA id silent epoch => Sys2Proof.Machine.execSilenceA id silent epoch s
  | .prepare g exec => Sys2Proof.Machine.execPrepare g exec s
  | .ready id g => Sys2Proof.Machine.execReady id g s
  | .refuse id g cause => Sys2Proof.Machine.execRefuse id g cause s
  | .commitDecision g => Sys2Proof.Machine.execCommitDecision g s
  | .commit g => Sys2Proof.Machine.execCommit g s
  | .abort g => Sys2Proof.Machine.execAbort g s
  | .report id g cause => Sys2Proof.Machine.execReport id g cause s
  | .reportTimeout id g => Sys2Proof.Machine.execReportTimeout id g s
  | .censusRound => Sys2Proof.Machine.execCensusRound s
  | .censusQ round => Sys2Proof.Machine.execCensusQ round s
  | .census id first digests => Sys2Proof.Machine.execCensus id first digests s
  | .censusAnswerTimeout id => Sys2Proof.Machine.execCensusAnswerTimeout id s
  | .reroute n moves => Sys2Proof.Machine.execReroute n moves s
  | .casState id coast aligned => Sys2Proof.Machine.execCasState id coast aligned s
  | .mbox src bytes => Sys2Proof.Machine.execMbox src bytes s
  | .sync n stamps farOfs => Sys2Proof.Machine.execSync n stamps farOfs s
  | .casPrepare m g => Sys2Proof.Machine.execCasPrepare m g s
  | .resign m => Sys2Proof.Machine.execResign m s
  | .casAdmit m id => Sys2Proof.Machine.execCasAdmit m id s
  | .override m => Sys2Proof.Machine.execOverride m s
  | .restore m n => Sys2Proof.Machine.execRestore m n s
  | .casCensus m => Sys2Proof.Machine.execCasCensus m s
  | .casSlinkWrite m v => Sys2Proof.Machine.execCasSlinkWrite m v s
  | .cascadeFlitEject q stream sop eop payload => Sys2Proof.Machine.execCascadeFlitEject q stream sop eop payload s
  | .xtalFail => Sys2Proof.Machine.execXtalFail s
  | .refWindow count => Sys2Proof.Machine.execRefWindow count s
  | .rootRelock => Sys2Proof.Machine.execRootRelock s
  | .avsAdjust want => Sys2Proof.Machine.execAvsAdjust want s
  | .powerSample power attributed => Sys2Proof.Machine.execPowerSample power attributed s
  | .overloadRepeat => Sys2Proof.Machine.execOverloadRepeat s
  | .unthrottleStep => Sys2Proof.Machine.execUnthrottleStep s
  | .tempSample celsius => Sys2Proof.Machine.execTempSample celsius s
  | .thermalTrip sensor celsius => Sys2Proof.Machine.execThermalTrip sensor celsius s
  | .urnRequest n u => Sys2Proof.Machine.execUrnRequest n u s
  | .urnRelease n u => Sys2Proof.Machine.execUrnRelease n u s
  | .urnBudgetWrite m v => Sys2Proof.Machine.execUrnBudgetWrite m v s
  | .cupGateStop c => Sys2Proof.Machine.execCupGateStop c s
  | .cupGateWake c => Sys2Proof.Machine.execCupGateWake c s
  | .wfi t => Sys2Proof.Machine.execWfi t s
  | .coreInterrupt t => Sys2Proof.Machine.execCoreInterrupt t s
  | .deferLimitTimeout n => Sys2Proof.Machine.execDeferLimitTimeout n s
  | .strainerEvent n kind doms bytes => Sys2Proof.Machine.execStrainerEvent n kind doms bytes s
  | .strIrqackWrite m v => Sys2Proof.Machine.execStrIrqackWrite m v s
  | .strEvpop m v => Sys2Proof.Machine.execStrEvpop m v s
  | .errAssert m v => Sys2Proof.Machine.execErrAssert m v s
  | .errRelease m v => Sys2Proof.Machine.execErrRelease m v s
  | .errPulseEnd => Sys2Proof.Machine.execErrPulseEnd s
  | .lockstepMismatch => Sys2Proof.Machine.execLockstepMismatch s
  | .strainerSelfFault => Sys2Proof.Machine.execStrainerSelfFault s
  | .leaseRequest cls rs dom => Sys2Proof.Machine.execLeaseRequest cls rs dom s
  | .leaseRenew e => Sys2Proof.Machine.execLeaseRenew e s
  | .leaseEnd e => Sys2Proof.Machine.execLeaseEnd e s
  | .leaseExpiry e => Sys2Proof.Machine.execLeaseExpiry e s
  | .caddyCommit => Sys2Proof.Machine.execCaddyCommit s
  | .caddyHeadFound => Sys2Proof.Machine.execCaddyHeadFound s
  | .droopTrip => Sys2Proof.Machine.execDroopTrip s
  | .cadSelWrite m v => Sys2Proof.Machine.execCadSelWrite m v s
  | .injectEvent m v => Sys2Proof.Machine.execInjectEvent m v s
  | .injectConfigBit m v => Sys2Proof.Machine.execInjectConfigBit m v s
  | .injectLineBytes m v => Sys2Proof.Machine.execInjectLineBytes m v s
  | .injectWrongTag m v => Sys2Proof.Machine.execInjectWrongTag m v s
  | .injectFlitError m v => Sys2Proof.Machine.execInjectFlitError m v s
  | .injectLaneBurst m v => Sys2Proof.Machine.execInjectLaneBurst m v s
  | .injectCompareMismatch m v => Sys2Proof.Machine.execInjectCompareMismatch m v s
  | .acquire ms => Sys2Proof.Machine.execAcquire ms s
  | .tokenRelease m => Sys2Proof.Machine.execTokenRelease m s
  | .devHeartbeat m => Sys2Proof.Machine.execDevHeartbeat m s
  | .tokenLapse => Sys2Proof.Machine.execTokenLapse s
  | .tenantCreate m n => Sys2Proof.Machine.execTenantCreate m n s
  | .teardown m n => Sys2Proof.Machine.execTeardown m n s
  | .cpuPinWrite m t v => Sys2Proof.Machine.execCpuPinWrite m t v s
  | .coreRun m t v => Sys2Proof.Machine.execCoreRun m t v s
  | .coreReset m t v => Sys2Proof.Machine.execCoreReset m t v s
  | .msipWrite m t v => Sys2Proof.Machine.execMsipWrite m t v s
  | .machineTimer t => Sys2Proof.Machine.execMachineTimer t s
  | .hello m w v => Sys2Proof.Machine.execHello m w v s
  | .proof m w v => Sys2Proof.Machine.execProof m w v s
  | .dbgClose m w v => Sys2Proof.Machine.execDbgClose m w v s
  | .sessionIdleTimeout x => Sys2Proof.Machine.execSessionIdleTimeout x s
  | .halt m w v => Sys2Proof.Machine.execHalt m w v s
  | .resume m w v => Sys2Proof.Machine.execResume m w v s
  | .step m w v => Sys2Proof.Machine.execStep m w v s
  | .exec m w v => Sys2Proof.Machine.execExec m w v s
  | .dbgCapture m w v => Sys2Proof.Machine.execDbgCapture m w v s
  | .recover m w v => Sys2Proof.Machine.execRecover m w v s
  | .dbgacc tag addr len wr => Sys2Proof.Machine.execDbgacc tag addr len wr s
  | .jtagInstruction code => Sys2Proof.Machine.execJtagInstruction code s
  | .i2cOffsetWrite bytes => Sys2Proof.Machine.execI2cOffsetWrite bytes s
  | .i2cRead => Sys2Proof.Machine.execI2cRead s
  | .fabricClockEdge c n => Sys2Proof.Machine.execFabricClockEdge c n s
  | .losClear q j => Sys2Proof.Machine.execLosClear q j s
  | .pcsAlignmentLoss q n => Sys2Proof.Machine.execPcsAlignmentLoss q n s
  | .selovLinkUp n far => Sys2Proof.Machine.execSelovLinkUp n far s
  | .perstRelease n => Sys2Proof.Machine.execPerstRelease n s
  | .debugCaptureTick x => Sys2Proof.Machine.execDebugCaptureTick x s
  | .steepPassPauseTimeout p => Sys2Proof.Machine.execSteepPassPauseTimeout p s
  | .steepPassMinRunExpiry p => Sys2Proof.Machine.execSteepPassMinRunExpiry p s
  | .imgCommandDone w => Sys2Proof.Machine.execImgCommandDone w s
  | .elasticBufferOverrun q j => Sys2Proof.Machine.execElasticBufferOverrun q j s
  | .tapReset => Sys2Proof.Machine.execTapReset s

end Sys2Proof.Machine
end

