-- ==== Sys2Proof/Machine/Step.lean ====
section
/-! DEFINITION. One step of the device: the command at the front of the queue, or, with none waiting, one root cycle of
time (log entry 10). -/

namespace Sys2Proof.Machine

/-- The state with a command at the front of its queue. -/
def State.push (s : State) (i : Instr) : State := { s with pending := i :: s.pending }

/-- Takes the command at the front of the queue and runs it with the queue's rest; an empty queue lets one root cycle
pass. -/
def step (s : State) : Host.Outcome State Fault Refusal :=
  match s.pending with
  | i :: rest => exec i { s with pending := rest }
  | [] => .next s.idle

/-- The state with the command that a word spells at the front of its queue. -/
def State.withFetchWord (s : State) (nbits w : Nat) : State :=
  match decodeTableWord nbits w with
  | some i => s.push i
  | none => s

end Sys2Proof.Machine
end

