-- ==== Sys2Proof/Safety.lean ====
section
/-! DEFINITION. What a safe state and a safe step are: every sparse list of the device in its one canonical form, so that
equal memories and equal register files are equal data; and a step that goes on. -/

namespace Sys2Proof.Machine

/-- A sparse list in canonical form: keys rise under `lt`, and no key is listed at its default. -/
abbrev Sparse {κ α : Type} [DecidableEq α] (lt : κ → κ → Bool) (dflt : κ → α) (m : List (κ × α)) : Prop :=
  m.Pairwise (fun a b => lt a.1 b.1 = true) ∧ ∀ e ∈ m, e.2 ≠ dflt e.1

/-- The canonical form of the stored bytes of HBM (R266): addresses rise, and none holds what an unlisted one reads as. -/
abbrev Memory.wf (m : List Host.Cell) : Prop := Sparse natLt hbmDefault m

/-- The canonical form of the store die (R294) and of the Kettle's SRAM (R403). -/
abbrev Store.wf (m : List Host.Cell) : Prop := Sparse natLt (fun _ => (0 : Byte)) m

/-- The canonical form of the register file: a register at its Reset value is not listed. -/
abbrev RegFile.wf (m : List (RegKey × Word)) : Prop := Sparse keyLt resetVal m

/-- The canonical state: HBM, the store die, the Kettle's SRAM and the register file are each in canonical form. -/
abbrev State.Canonical (s : State) : Prop :=
  Memory.wf s.hbm ∧ Store.wf s.nv.store ∧ Store.wf s.kettleRam ∧ RegFile.wf s.regs

/-- No two leases are held that the conflict matrix excludes (R395), in a table whose entries stand in order. -/
abbrev State.MatrixHolds (s : State) : Prop :=
  s.leases.Pairwise fun a b => a.1 < b.1 ∧
    ∀ x ∈ [s.meet a.2 b.2.cls b.2.rs, s.meet b.2 a.2.cls a.2.rs], x ≠ .busy ∧ x ≠ .takeOver

/-- A segment at CLAMP0, of every border whose side `p` selects. -/
abbrev State.Clamped (s : State) (p : Nat → Nat → Prop) : Prop :=
  ∀ c, c < 192 → ∀ sd, sd < 4 → p c sd → ∀ n, n < 10 → s.segMode c sd n = 0

/-- A register that says whose a cup is, where it stands, or what its borders let through. -/
def borderName (n : RegName) : Bool := n == .cupBrd || n == .cupOwner || n == .trayLmap

/-- No open segment faces another domain, the outside or an absent leaf (R108).  Two things that the device keeps with it:
before step 2 no segment is open at all, and no refusal that is held writes these registers. -/
abbrev State.BordersClosed (s : State) : Prop :=
  s.Clamped (fun c sd => s.facesNone c sd = true ∨ s.sameDomAcross c sd = false) ∧
    (s.phase = .inReset ∨ s.phase = .counting → s.Clamped fun _ _ => True) ∧
    ∀ r ∈ s.refusals, ∀ l, r.eff = .status l → ∀ e ∈ l, borderName e.1.name = false

/-- An outcome that goes on. -/
def goesOn (o : Host.Outcome State Fault Refusal) : Prop := ∃ t, o = .next t

/-- Master m's write of register k is taken and performed: the register answers, m may write it and has no FENCE pending,
and its cup, if it is a cup's, is there (R10, R22, R136, R144, R408, R438). -/
abbrev State.accepts (s : State) (m : Nat) (k : RegKey) : Prop :=
  s.reaches m k = true ∧ s.writeVerdict m k = .pass ∧ s.keyGone k = false ∧ s.fenced m = false

/-- The registers whose write does more than merge its fields: those with a command of their own, those that a value, a
phase or a session guards, and the read-only blocks. -/
def ownWrite : RegName → Bool
  | .devToken | .devHeartbeat | .devTcmd | .urnBudget | .urnCl | .strErrctl | .strEvpop | .strIrqack | .strInj | .strInjWord
  | .strSrc | .cadSel | .mntBudget | .timeCtl | .timeAdj | .timeStep | .timeSetSecHi | .spCtl | .spTickLo | .spTickHi | .spArg
  | .spCmd | .imgCmd | .imgJdata | .imgLibent | .hceCtl | .hceCtx | .hceCmd | .hceDesc | .hceDescHi | .casCmd | .casSlink
  | .casMembers | .infRngCtl | .infRngBase | .infRngLimit | .infRngRights | .infRngCmd | .infBktCfg | .cupStateReq
  | .cupLoadCmd | .cupBrdReq | .cupBdrv | .cupCap | .cupRbCmd | .cupSin | .cupSout | .leafDiv | .leafDivgrant | .rsvCmd
  | .traySent | .trayQg | .colCfg | .colVec | .colExpect | .colPop | .lnCtl | .lnTxeq | .lnEscan | .rawCtl | .clsSel | .clsAct
  | .clsKey | .clsAddr | .clsDefault | .pacSel | .pacCfg | .pacStreams | .pacTrs | .mrgSel | .mrgCfg | .stkCtl | .stkCgStart
  | .stkCgCfg | .stkWaymask | .pchCtl | .rtpCfg | .rtpBind | .rtpBase | .rtpBaseHi | .rtpRing | .rtpStart | .rtpStartHi
  | .rtpPeriod | .rtpPeriodHi | .rtpInterval | .rtpStat | .cpuCtl | .cpuMsip | .cpuMtimecmp | .cpuMtimecmpHi | .cpuPin
  | .cpuBoot | .cpuBootHi => true
  | n => blkOf n == .dbg || blkOf n == .rtr || blkOf n == .pcie

/-- No injected flit error waits at a router of a way (R401). -/
abbrev State.clearWay (s : State) (l : List Nat) : Prop := (s.flitInj.find? fun e => l.contains e.1) = none

/-- Master m's interface can issue a request under a tag: the tag is free and no FENCE of the master waits (R138, R144). -/
abbrev State.mayIssue (s : State) (m tag : Nat) : Prop :=
  s.tagBusy m tag = false ∧ s.fenced m = false

/-- Master m may make an access to queue q by the tray at once: it may issue, its rights reach the queue's aperture, the
queue's cup is there and not the master itself, and no earlier access of the master waits at the queue (R140 to R144). -/
abbrev State.mayAccess (s : State) (m tag : Nat) (q : QRef) (wr : Bool) : Prop :=
  s.live = true ∧ s.mayIssue m tag ∧ s.queueRight m q wr = true ∧ (qCup q).any s.cupGone = false ∧
    qCup q ≠ some m ∧ s.qBehind m q = false ∧ inRange 0x400 0x443 m = false

/-- Every queue but one is as before. -/
def State.keepsQueues (s t : State) (q : QRef) : Prop := ∀ q', queueKey q' ≠ queueKey q → t.queue q' = s.queue q'

/-- Every register but those listed reads as before. -/
def State.keepsRegs (s t : State) (ks : List RegKey) : Prop := ∀ k, k ∉ ks → t.reg k = s.reg k

/-- Every stored byte of HBM reads as before. -/
def State.keepsHbm (s t : State) : Prop := ∀ a, t.cell a = s.cell a

/-- The answer that master m gets under tag 0 to a register access that was performed. -/
def okTo (m : Nat) : Out := .response { mid := m, tag := 0, code := .ok }

/-- The image command that master m's write of IMG_CMD with word v starts through window w (R324); a reserved
REGION leaves the one written before (R11). -/
def State.imgJobOf (s : State) (m w op : Nat) (v : Word) : ImgJob :=
  { mid := m, op, region := if bits v 11 8 ≤ 4 then bits v 11 8 else s.fld ⟨.imgCmd, w, 0⟩ 11 8,
    lib := s.fld ⟨.imgLibsel, w, 0⟩ 9 0,
    src := s.pair ⟨.imgSrc, w, 0⟩ ⟨.imgSrcHi, w, 0⟩, dst := s.pair ⟨.imgDst, w, 0⟩ ⟨.imgDstHi, w, 0⟩,
    len := (s.reg ⟨.imgLen, w, 0⟩).toNat, srcj := m == jtagMid && bit v 30, since := s.root }

/-- Master m may start an image command through window w and the Kettle serves no other (R324). -/
abbrev State.kettleFree (s : State) (m w : Nat) : Prop :=
  s.winOf m = w ∧ s.accepts m ⟨.imgCmd, w, 0⟩ ∧ s.flag ⟨.imgCmd, w, 0⟩ 31 = false ∧ s.imgJobs = [] ∧ s.romOnly = false

/-- From s to t the Kettle has taken up job j of window w: IMG_CMD.GO is set and IMG_CMDSTAT says so (R324). -/
def State.startsJob (s t : State) (w : Nat) (j : ImgJob) : Prop :=
  t.imgJobs = [(w, { j with started := true })] ∧ t.flag ⟨.imgCmd, w, 0⟩ 31 = true ∧
    t.fld ⟨.imgCmdstat, w, 0⟩ 31 30 = 1 ∧ s.keepsRegs t [⟨.imgCmd, w, 0⟩, ⟨.imgCmdstat, w, 0⟩]

/-- In t the command of window w has ended with CODE and DETAIL, and no other waits (R324). -/
def State.jobEnded (t : State) (w code detail : Nat) : Prop :=
  t.imgJobs = [] ∧ t.flag ⟨.imgCmd, w, 0⟩ 31 = false ∧
    t.fld ⟨.imgCmdstat, w, 0⟩ 31 30 = (if code = 0 then 2 else 3) ∧ t.fld ⟨.imgCmdstat, w, 0⟩ 27 24 = code ∧
    t.fld ⟨.imgCmdstat, w, 0⟩ 23 16 = detail

/-- Master m's write of DBG_CTL through session window w is taken as a command: the register answers, no other master's
session has the window, and no command runs there (R417, R431). -/
abbrev State.mayCommand (s : State) (m w : Nat) : Prop :=
  s.accepts m ⟨.dbgCtl, s.dbgWin m w, 0⟩ ∧ s.dbgBound m (s.dbgWin m w) = false ∧ (w ≠ 8 ∨ s.isTenant m = true) ∧
    s.flag ⟨.dbgCtl, s.dbgWin m w, 0⟩ 31 = false

/-- Master m commands its open session i through window w (R417, R431). -/
abbrev State.commands (s : State) (m w i : Nat) : Prop :=
  s.mayCommand m w ∧
    (s.sess.find? fun e => e.2.win == s.dbgWin m w && e.2.isOpen && e.2.mid == m).map (·.1) = some i

/-- In t the debug command of a window has ended with CODE (R431). -/
def State.dbgEnded (t : State) (win code : Nat) : Prop :=
  t.flag ⟨.dbgCtl, win, 0⟩ 31 = false ∧ t.fld ⟨.dbgStat, win, 0⟩ 31 30 = (if code = 0 then 2 else 3) ∧
    t.fld ⟨.dbgStat, win, 0⟩ 27 24 = code

/-- In t the debug command of a window runs still: its refusal waits for the latency of R415. -/
def State.dbgRuns (t : State) (win : Nat) : Prop :=
  t.flag ⟨.dbgCtl, win, 0⟩ 31 = true ∧ t.fld ⟨.dbgStat, win, 0⟩ 31 30 = 1

end Sys2Proof.Machine
end

