-- ==== Sys2Proof/Certificates/Slice0/Obligations.lean ====
section
/-! DEFINITION. The statements for the provers, one per family of commands and kind of state; each docstring names the
commands and the rules it formalises.  A clause that rests on a free value says what holds whatever the value is. -/

open Sys2Proof Sys2Proof.Machine

/-! ### The block -/

/-- A step runs the command at the front of the queue on the state with the queue's rest. -/
def Obligations.StepRunsTheFrontCommand : Prop :=
  ∀ (c : Instr) (s : State), step (s.push c) = exec c s

/-- The model's own reading of an empty queue (log entry 10) over R166, R350, R362 and R469: with the root running one
root cycle passes, TICK rises at every sixteenth, device time by RATE with it (R172), and the always-on island counts
one cycle in 160, or in 96 while the device coasts; then, in a device whose blocks answer, what the rules leave to be
done within microseconds is done (log entry 104), latches follow their inputs (R43), flits leave at their slots (R148),
each collector may accept a completion (R160), streams of a failed link may be lost (R343), and what waited for a
training stage is tried again (log entry 120); none of this moves time or touches the queue. -/
def Obligations.EmptyQueuePassesOneRootCycle : Prop :=
  ∀ s : State, s.pending = [] → s.rootRuns = true →
    let u : State := { s with
      root := s.root + 1
      time := { s.time with acc := if (s.root + 1) % 16 = 0 then s.time.acc + s.rate else s.time.acc }
      aon := if (s.root + 1) % (if s.clk.mode = .coasting then 96 else 160) = 0 then s.aon + 1 else s.aon }
    let v := u.followUp.followLatches.streamCycle.colCycle.linkExpire.tryLater
    step s = .next (if s.live then v else u) ∧
      u.tick = (if (s.root + 1) % 16 = 0 then s.tick + 1 else s.tick) ∧
      v.root = u.root ∧ v.time.acc = u.time.acc ∧ v.aon = u.aon ∧ v.pending = []

/-- No command ends in a fault or a refusal, in any state. -/
def Obligations.EveryCommandGoesOn : Prop :=
 ∀ (c : Instr) (s : State), goesOn (exec c s)

/-- The effect of a command leaves the queue as it is. -/
def Obligations.CommandsLeaveTheQueue : Prop :=
  ∀ (c : Instr) (s t : State), exec c s = .next t → t.pending = s.pending

/-- The state after reset meets the invariants that every step keeps: it is canonical, its lease table holds no two
leases that the conflict matrix excludes, and its borders are closed. -/
def Obligations.ResetMeetsTheInvariants : Prop :=
  State.reset.Canonical ∧ State.reset.MatrixHolds ∧ State.reset.BordersClosed

/-- Every step keeps HBM, the store die, the Kettle's SRAM and the register file in canonical form. -/
def Obligations.EveryStepKeepsTheCanonicalForm : Prop :=
  ∀ s t : State, s.Canonical → step s = .next t → t.Canonical

/-- Every step keeps the conflict matrix (R394, R395): no two leases of the table are of classes, and on resources, of
which the matrix says that the second waits for the first or ends it. -/
def Obligations.LeaseTableKeepsTheMatrix : Prop :=
  ∀ s t : State, s.MatrixHolds → step s = .next t → t.MatrixHolds

/-- Every step keeps the borders between domains closed (R108): a segment that faces a cup of another domain, the
outside of the array, or an absent leaf or one retired in service, stands at CLAMP0; with it go that before step 2 every
segment does, and that no refusal that is held writes a border, an owner or the leaf map. -/
def Obligations.BordersBetweenDomainsStayClosed : Prop :=
  ∀ s t : State, s.BordersClosed → step s = .next t → t.BordersClosed

/-- What reset leaves, by the Reset columns and rules of the spec (R12, R128, R165, R191, R234, R265, R293, R382, R383,
R402, R429): the queue is empty, and these registers and parts hold the spec's values; that CUP_OWNER's domain is the
owner's, 0x01, is the model's choice (log entry 1), for the spec gives CUP_OWNER no Reset value. -/
def Obligations.ResetHoldsTheSpecsValues : Prop :=
  State.reset.pending = [] ∧ State.reset.phase = .inReset ∧
  State.reset.reg ⟨.clkRefcnt, 0, 0⟩ = 0x100 ∧ State.reset.reg ⟨.devTokenCfg, 0, 0⟩ = 0x7D0 ∧
  State.reset.flag ⟨.strStat, 0, 0⟩ 30 = true ∧ State.reset.fld ⟨.strErrcfg, 0, 0⟩ 9 0 = 1 ∧
  State.reset.fld ⟨.ppsCfg, 0, 0⟩ 9 2 = 10 ∧
  (∀ c : Fin 192, State.reset.cupDom c.val = 0x01 ∧ State.reset.fld ⟨.cupState, c.val, 0⟩ 1 0 = 0) ∧
  (∀ p n, State.reset.fld ⟨.leafDiv, p, n⟩ 7 0 = 4) ∧
  (∀ l, State.reset.fld ⟨.lnCtl, l, 0⟩ 1 0 = 2 ∧ State.reset.fld ⟨.lnTxeq, l, 0⟩ 23 18 = 0x3F) ∧
  (∀ k, k < 192 → State.reset.fld ⟨.urnCl, k, 0⟩ 10 0 = 16 ∧ State.reset.flag ⟨.urnCl, k, 0⟩ 31 = true) ∧
  (∀ t, State.reset.flag ⟨.cpuCtl, t, 0⟩ 31 = false ∧ State.reset.coreDom t = 0x01) ∧
  (∀ st, State.reset.fld ⟨.stkScrub, st, 0⟩ 15 8 = 24 ∧ State.reset.reg ⟨.stkWaymask, st, 1⟩ = 0x7FFF)

/-! ### Ticks and device time -/

/-- TIME_ADJ_WRITE, TIME_STEP and TIME_SET (R173 to R175, R191): what each makes due at the next second boundary; a set
is of what its registers hold as TIME_SET_SEC_HI is written, which is the model's choice (log entry 117).
TIME_SECOND_BOUNDARY (R174, R175): at a boundary the pending ADJ is in force; a set puts device time at its value, and
else a step adds to it; nothing stays due. A step that would pass below 0 leaves 0, which is the model's choice (log
entry 99). SERVO_UPDATE, HOLDOVER and PPS_OUT_FALL (R173, R176, R177): an update's ADJ is limited and due at the next
second boundary, the first large offset makes a step due, against the sign of the offset as device time less the
source's (the model's choice, log entry 11), and the sixteenth good update locks; three seconds without an update are a
holdover; and PPS_OUT falls at its time. -/
def Obligations.DeviceTimeFollowsWritesAndItsSource : Prop :=
  (∀ s m v, s.accepts m ⟨.timeAdj, 0, 0⟩ → s.timeSrc = 0 ∨ s.timeSrc = 3 →
    ∃ t, exec (.timeAdjWrite m v) s = .next t ∧
      t = { s with regs := t.regs, sent := okTo m :: s.sent,
                   time := { s.time with pendAdj := some (max (-17179869) (min 17179869 v.toInt)) } } ∧
      t.reg ⟨.timeAdj, 0, 0⟩ = BitVec.ofInt 32 (max (-17179869) (min 17179869 v.toInt)) ∧
      s.keepsRegs t [⟨.timeAdj, 0, 0⟩]) ∧
  (∀ s m v, s.accepts m ⟨.timeAdj, 0, 0⟩ → s.timeSrc = 1 ∨ s.timeSrc = 2 →
    exec (.timeAdjWrite m v) s = .next { s with sent := okTo m :: s.sent }) ∧
  (∀ s m v, s.accepts m ⟨.timeStep, 0, 0⟩ → s.timeSrc = 3 →
    exec (.timeStep m v) s = .next
      { s with sent := okTo m :: s.sent, time := { s.time with pendStep := some (s.time.pendStep.getD 0 + v.toInt) } }) ∧
  (∀ s m v, s.accepts m ⟨.timeStep, 0, 0⟩ → s.timeSrc ≠ 3 →
    exec (.timeStep m v) s = .next { s with sent := okTo m :: s.sent }) ∧
  (∀ s m v, s.accepts m ⟨.timeSetSecHi, 0, 0⟩ → (s.reg ⟨.timeSetNs, 0, 0⟩).toNat ≤ 999999999 →
    ∃ t, exec (.timeSet m v) s = .next t ∧
      t = { s with regs := t.regs, sent := okTo m :: s.sent,
                   time := { s.time with pendSet := some ((s.reg ⟨.timeSetSecLo, 0, 0⟩).toNat + 2 ^ 32 * bits v 15 0,
                     (s.reg ⟨.timeSetNs, 0, 0⟩).toNat) } } ∧
      s.keepsRegs t [⟨.timeSetSecHi, 0, 0⟩]) ∧
  (∀ s m v, s.accepts m ⟨.timeSetSecHi, 0, 0⟩ → 999999999 < (s.reg ⟨.timeSetNs, 0, 0⟩).toNat →
    ∃ t, exec (.timeSet m v) s = .next t ∧ t = { s with regs := t.regs, sent := okTo m :: s.sent } ∧
      s.keepsRegs t [⟨.timeSetSecHi, 0, 0⟩]) ∧
  (∀ s : State, s.live = true → s.time.secDone < s.devSec →
      ∃ t, exec .timeSecondBoundary s = .next t ∧
        t.time.adj = s.time.pendAdj.getD s.time.adj ∧
        t.time.pendAdj = none ∧ t.time.pendStep = none ∧ t.time.pendSet = none ∧
        (∀ sec ns, s.time.pendSet = some (sec, ns) → t.time.acc = (sec * 1000000000 + ns) * 2 ^ 32) ∧
        (∀ z, s.time.pendSet = none → s.time.pendStep = some z →
          t.time.acc = ((s.time.acc : Int) + z * 2 ^ 32).toNat) ∧
        (s.time.pendSet = none → s.time.pendStep = none → t.time.acc = s.time.acc) ∧
        s.keepsHbm t) ∧
  (∀ s offset adj, s.live = true → s.timeSrc = 1 ∨ s.timeSrc = 2 →
    ∃ t, exec (.servoUpdate offset adj) s = .next t ∧
      t.time.pendAdj = some (max (-17179869) (min 17179869 adj)) ∧ t.time.lastUpdate = s.tick ∧
      (s.time.everLocked = false → 1000000 < offset.natAbs → t.time.pendStep = some (-offset)) ∧
      (s.time.everLocked = true → t.time.pendStep = s.time.pendStep) ∧
      (15 ≤ s.time.servoGood → offset.natAbs ≤ 50 →
        t.flag ⟨.timeStat, 0, 0⟩ 1 = true ∧ t.flag ⟨.timeStat, 0, 0⟩ 0 = true ∧ t.time.everLocked = true) ∧
      t = { s with regs := t.regs, time := t.time } ∧
      s.keepsRegs t [⟨.timeAdj, 0, 0⟩, ⟨.timeStat, 0, 0⟩]) ∧
  (∀ s : State, s.live = true → s.timeSrc = 1 ∨ s.timeSrc = 2 → s.time.lastUpdate + 750000000 ≤ s.tick →
      s.flag ⟨.timeStat, 0, 0⟩ 2 = false →
    exec .holdover s = .next ((s.setFlag ⟨.timeStat, 0, 0⟩ 2 true).raiseEvent 0x031 0 [0x01] [])) ∧
  (∀ s : State, s.live = true → s.pins.ppsOut = true → s.time.ppsFallAt ≤ s.tick →
    exec .ppsOutFall s = .next { s with pins := { s.pins with ppsOut := false } })

/-- PPS_IN_EDGE (R178): with IN_EN set an edge is stamped with its tick and sub-tick fraction, unless the edge stamped
before it lies less than 0.5 s back; with IN_EN clear none is. -/
def Obligations.PpsEdgesAreStamped : Prop :=
  (∀ (s : State) (frac : Fin 8), s.live = true → s.flag ⟨.ppsCfg, 0, 0⟩ 1 = true →
      s.time.ppsStamped = false ∨
        8 * s.pair ⟨.ppsInStamp, 0, 0⟩ ⟨.ppsInStampHi, 0, 0⟩ + bits (s.reg ⟨.ppsInFrac, 0, 0⟩) 2 0 + 1000000000 ≤
          8 * s.tick + frac.val →
    ∃ t, exec (.ppsInEdge frac) s = .next t ∧
      t = { s with regs := t.regs, time := { s.time with ppsStamped := true } } ∧
      t.pair ⟨.ppsInStamp, 0, 0⟩ ⟨.ppsInStampHi, 0, 0⟩ = s.tick % 2 ^ 64 ∧
      t.reg ⟨.ppsInFrac, 0, 0⟩ = BitVec.ofNat 32 frac.val ∧
      s.keepsRegs t [⟨.ppsInStamp, 0, 0⟩, ⟨.ppsInStampHi, 0, 0⟩, ⟨.ppsInFrac, 0, 0⟩]) ∧
  (∀ (s : State) (frac : Fin 8), s.live = true → s.flag ⟨.ppsCfg, 0, 0⟩ 1 = true → s.time.ppsStamped = true →
      8 * s.tick + frac.val <
        8 * s.pair ⟨.ppsInStamp, 0, 0⟩ ⟨.ppsInStampHi, 0, 0⟩ + bits (s.reg ⟨.ppsInFrac, 0, 0⟩) 2 0 + 1000000000 →
    exec (.ppsInEdge frac) s = .next s) ∧
  (∀ (s : State) (frac : Fin 8), s.flag ⟨.ppsCfg, 0, 0⟩ 1 = false → exec (.ppsInEdge frac) s = .next s)

/-! ### The tray: requests, responses, register accesses -/

/-- READ, WRITE and DBGACC (R135, R138, R142): a request that the target's block takes is recorded as outstanding, with
what its header carries (R134), and carried out at its target; one that crosses a 4 KiB boundary or has no legal length
is DENIED, at the uniform latency for a tenant or in a tenant window, with no effect; write data with an uncorrectable
error is counted at the router that detects it and discarded, and answered UNCORRECTABLE where the master's rights reach
the target; a request whose header is damaged is lost, and the router raises its event. A READ of DEV_ID over JTAG
answers OK with the register's four bytes, least significant first, and changes nothing but the request's record and its
response (R8, R135, R136, R434). -/
def Obligations.RequestsAreIssuedAndCarriedOut : Prop :=
  (∀ s m tag a len, s.takes m a = true → s.mayIssue m tag → s.clearWay (s.wayOut m a) →
    exec (.read m tag a len .clean) s = .next ((s.issue m tag .read a len).readAt m tag a len)) ∧
  (∀ s m tag a d, s.takes m a = true → s.mayIssue m tag → s.clearWay (s.wayOut m a) →
    exec (.write m tag a d .clean) s = .next ((s.issue m tag .write a d.length).writeAt m tag a d)) ∧
  (∀ s tag a len, s.takes 0x181 a = true → s.mayIssue 0x181 tag → s.clearWay (s.wayOut 0x181 a) →
    exec (.dbgacc tag a len none) s = .next ((s.issue 0x181 tag .read a len).readAt 0x181 tag a len)) ∧
  (∀ s tag a d, s.takes 0x181 a = true → s.mayIssue 0x181 tag → s.clearWay (s.wayOut 0x181 a) →
    exec (.dbgacc tag a d.length (some d)) s =
      .next ((s.issue 0x181 tag .write a d.length).writeAt 0x181 tag a d)) ∧
  (∀ s m tag a len k, s.takes m a = true → s.mayIssue m tag → s.clearWay (s.wayOut m a) →
    exec (.read m tag a len (.header k)) s = .next
      ((s.issue m tag .read a len).injected false fun s => (s.loseRequest m tag).headerError k)) ∧
  (∀ s m tag a d k, s.takes m a = true → s.mayIssue m tag → s.clearWay (s.wayOut m a) →
    exec (.write m tag a d (.header k)) s = .next
      ((s.issue m tag .write a d.length).injected false fun s => (s.loseRequest m tag).headerError k)) ∧
  (∀ (s : State) m tag, ∀ o ∈ (s.loseRequest m tag).outstanding, o.mid = m → o.tag = tag → o.lost = true) ∧
  (∀ s m tag a len, s.takes m a = true → s.mayIssue m tag → s.clearWay (s.wayOut m a) → legalExtent a len = false →
      inRange 0x400 0x443 m = false →
    exec (.read m tag a len .clean) s = .next
      (if s.uniformAt a || s.isTenant m then
        { s with outstanding := s.outstanding ++ [s.outgoing m tag .read a len],
                 refusals := s.refusals ++ [{ mid := m, tag, due := s.root + 8000, eff := .deny }] }
      else { s with outstanding := s.outstanding ++ [s.outgoing m tag .read a len],
                    responses := s.responses ++ [{ mid := m, tag, code := .denied }] })) ∧
  (∀ s m tag a d k, s.takes m a = true → s.mayIssue m tag → s.clearWay (s.wayOut m a) →
      inRange 0x400 0x443 m = false →
    let u := (s.issue m tag .write a d.length).flitError k
    u.writeBar m a d = none →
    exec (.write m tag a d (.data k)) s = .next
      { u with responses := u.responses ++ [{ mid := m, tag, code := .uncorrectable }] }) ∧
  (∀ s m tag a d k, s.takes m a = true → s.mayIssue m tag → s.clearWay (s.wayOut m a) → s.isTenant m = false →
      inRange 0x400 0x443 m = false →
    let u := (s.issue m tag .write a d.length).flitError k
    u.writeBar m a d = some .denied → u.uniformAt a = false →
    exec (.write m tag a d (.data k)) s = .next
      { u with responses := u.responses ++ [{ mid := m, tag, code := .denied }] }) ∧
  (∀ (s : State) k, k < 240 → s.fld ⟨.rtrErr, k, 0⟩ 15 0 < 65535 →
    (s.flitError k).fld ⟨.rtrErr, k, 0⟩ 15 0 = s.fld ⟨.rtrErr, k, 0⟩ 15 0 + 1 ∧
    s.keepsRegs (s.flitError k) [⟨.rtrErr, k, 0⟩] ∧ s.flitError k = { s with regs := (s.flitError k).regs }) ∧
  (∀ (s : State) (tag : Nat), s.reaches 0x181 ⟨.devId, 0, 0⟩ = true → s.mayIssue 0x181 tag →
      s.latched 0x181 ⟨.devId, 0, 0⟩ = none → s.clearWay (s.wayOut 0x181 0xF000000000) →
      exec (.read 0x181 tag 0xF000000000 4 .clean) s = .next
        { s with outstanding := s.outstanding ++ [s.outgoing 0x181 tag .read 0xF000000000 4],
                 responses := s.responses ++
                   [{ mid := 0x181, tag, code := .ok, bytes := wordBytes (s.reg ⟨.devId, 0, 0⟩) }] })

/-- REGISTER_WRITE (R8, R10, R11, R464): an aligned 32-bit write by a master that may write the register is that
register's own write (`State.writeReg`, which the statements of its command describe), and for every register without a
command of its own changes that register alone, field by field. LOW_WORD_READ and RC_FIELD_READ (R9, R464): a read of
any register in the owner window answers its word, or the word latched for the master, uses that latch up, or else
latches the high word that belongs to it, and clears its RC fields; so for TICK and for CAD_STAT. -/
def Obligations.RegisterAccessesMergeLatchAndClear : Prop :=
  (∀ s m o k v, s.target (0xF000000000 + o) = .owner o → s.ownerAt o = some k → o % 4 = 0 →
    s.reaches m k = true → (s.midDomain m).isSome = true → s.mayUseWin m 0 = true → s.mayWriteReg m 0 k = true →
    s.keyGone k = false → s.fenced m = false → s.valueDenied m k v = false → blkOf k.name ≠ .dbg →
    exec (.registerWrite m (0xF000000000 + o) 4 v) s = .next ((s.writeReg m 0 k v).answer m .ok) ∧
    (ownWrite k.name = false →
      exec (.registerWrite m (0xF000000000 + o) 4 v) s = .next ((s.plainWrite k v).answer m .ok))) ∧
  (∀ (n : RegName) (old new : Word) (i : Nat),
    (∀ f ∈ fieldsOf n, f.acc = .rw ∨ f.acc = .w1c ∨ f.acc = .w1s → ¬(f.lo ≤ i ∧ i ≤ f.hi)) →
    bit (mergeWrite n old new) i = bit old i) ∧
  (∀ (n : RegName) (old new : Word), ∀ f ∈ fieldsOf n, f.acc = .rw →
    bits (mergeWrite n old new) f.hi f.lo =
      if f.ok (bits new f.hi f.lo) then bits new f.hi f.lo else bits old f.hi f.lo) ∧
  (∀ (n : RegName) (old new : Word), ∀ f ∈ fieldsOf n, f.acc = .w1c →
    bit (mergeWrite n old new) f.lo = (bit old f.lo && !bit new f.lo)) ∧
  (∀ (n : RegName) (old new : Word), ∀ f ∈ fieldsOf n, f.acc = .w1s →
    bit (mergeWrite n old new) f.lo = (bit old f.lo || bit new f.lo)) ∧
  (∀ s m, s.reaches m ⟨.tickLo, 0, 0⟩ = true → s.mayReadReg m 0 ⟨.tickLo, 0, 0⟩ = true → s.mayUseWin m 0 = true →
      (s.midDomain m).isSome = true → s.fenced m = false → s.latched m ⟨.tickLo, 0, 0⟩ = none →
    ∃ t, exec (.lowWordRead m 0xF000050000) s = .next t ∧
      t = { s with latches := t.latches, sent := t.sent } ∧
      t.sent = .response { mid := m, tag := 0, code := .ok, bytes := wordBytes (loWord s.tick) } :: s.sent ∧
      t.latched m ⟨.tickHi, 0, 0⟩ = some (hiWord s.tick)) ∧
  (∀ s m, s.reaches m ⟨.cadStat, 0, 0⟩ = true → s.mayReadReg m 0 ⟨.cadStat, 0, 0⟩ = true → s.mayUseWin m 0 = true →
      (s.midDomain m).isSome = true → s.fenced m = false → s.latched m ⟨.cadStat, 0, 0⟩ = none →
    ∃ t, exec (.rcFieldRead m 0xF000040000) s = .next t ∧
      t = { s with regs := t.regs, sent := t.sent } ∧
      t.sent = .response { mid := m, tag := 0, code := .ok, bytes := wordBytes (s.readReg m 0 ⟨.cadStat, 0, 0⟩) } :: s.sent ∧
      t.fld ⟨.cadStat, 0, 0⟩ 15 0 = 0 ∧ s.keepsRegs t [⟨.cadStat, 0, 0⟩]) ∧
  (∀ s m o k, s.target (0xF000000000 + o) = .owner o → s.ownerAt o = some k → o % 4 = 0 → s.reaches m k = true →
      (s.midDomain m).isSome = true → s.mayUseWin m 0 = true → s.mayReadReg m 0 k = true → s.keyGone k = false →
      s.fenced m = false → blkOf k.name ≠ .dbg → k.name ≠ .txstampHi → k.name ≠ .lnStat →
    ∃ t, exec (.lowWordRead m (0xF000000000 + o)) s = .next t ∧ exec (.rcFieldRead m (0xF000000000 + o)) s = .next t ∧
      t.sent = .response { mid := m, tag := 0, code := .ok,
                           bytes := wordBytes ((s.latched m k).getD (s.readReg m 0 k)) } :: s.sent ∧
      t.latched m k = none ∧
      (s.latched m k = none → ∀ h ∈ highKeys k, t.latched m h = some (s.readReg m 0 h)) ∧
      (∀ f ∈ fieldsOf k.name, f.acc = .rc → bits (t.reg k) f.hi f.lo = 0) ∧ s.keepsRegs t [k] ∧
      t = { s with regs := t.regs, latches := t.latches, sent := t.sent })

/-- FENCE and FENCE_COMPLETE (R143, R144): a FENCE waits in its master's interface; it completes OK once no WRITE of the
master is outstanding, and not before. RESPONSE_FLIT, REQUEST_TIMEOUT and REFUSAL_LATENCY_EXPIRY (R136, R138, R143,
R415): a response whose turn it is completes its request with its last flit, a READ's data coming 256 bytes a flit; one
that an earlier request to the same endpoint precedes waits; one to no request is discarded; a request outstanding for 2
ms completes UNCORRECTABLE, and nothing on its way answers it any more; a held refusal appears at its latency and not
before. -/
def Obligations.FencesResponsesAndTimeouts : Prop :=
  (∀ s m tag, s.live = true → (s.midDomain m).isSome = true → s.mayIssue m tag →
    exec (.fence m tag) s = .next { s with fences := s.fences ++ [(m, tag)] }) ∧
  (∀ s m, s.live = true → (s.outstanding.any fun o => o.mid == m && o.op == .write) = true →
    exec (.fenceComplete m) s = .next s) ∧
  (∀ s m f, s.live = true → s.fences.find? (fun e => e.1 == m) = some f →
      (s.outstanding.any fun o => o.mid == m && o.op == .write) = false →
      s.heldReqs.filter (fun h => h.1 == m) = [] →
    exec (.fenceComplete m) s = .next
      ({ s with fences := s.fences.filter (fun g => g.1 != m),
                heldReqs := s.heldReqs.filter (fun h => h.1 != m) }.arrive { mid := m, tag := f.2, code := .ok })) ∧
  (∀ s m tag r o, s.live = true → s.responses.find? (fun r => r.mid == m && r.tag == tag) = some r →
      s.outstanding.find? (fun o => o.mid == m && o.tag == tag) = some o → s.respTurn o = true →
      s.clearWay (routersOn (s.place o.mid o.dst).1 (s.masterRouter o.mid)) → r.bytes.length ≤ 256 →
    exec (.responseFlit m tag .clean) s = .next ({ s with responses := s.responses.erase r }.deliver o r)) ∧
  (∀ s m tag r o, s.live = true → s.responses.find? (fun r => r.mid == m && r.tag == tag) = some r →
      s.outstanding.find? (fun o => o.mid == m && o.tag == tag) = some o → s.respTurn o = true →
      s.clearWay (routersOn (s.place o.mid o.dst).1 (s.masterRouter o.mid)) → 256 < r.bytes.length →
    exec (.responseFlit m tag .clean) s = .next
      ({ s with responses := { r with bytes := r.bytes.drop 256 } :: s.responses.erase r }.deliverPart o
        { r with bytes := r.bytes.take 256 })) ∧
  (∀ s m tag r o err, s.live = true → s.responses.find? (fun r => r.mid == m && r.tag == tag) = some r →
      s.outstanding.find? (fun o => o.mid == m && o.tag == tag) = some o → s.respTurn o = false →
    exec (.responseFlit m tag err) s = .next s) ∧
  (∀ s o r, hostFn o.mid = none → ¬r.mid < 192 → State.deliver s o r =
    { s with sent := .response r :: s.sent,
             outstanding := s.outstanding.filter fun x => !(x.mid == o.mid && x.tag == o.tag) }) ∧
  (∀ s m tag r, s.live = true → s.responses.find? (fun r => r.mid == m && r.tag == tag) = some r →
      s.outstanding.find? (fun o => o.mid == m && o.tag == tag) = none →
    exec (.responseFlit m tag .clean) s = .next { s with responses := s.responses.erase r }) ∧
  (∀ s m tag o, s.live = true → s.outstanding.find? (fun o => o.mid == m && o.tag == tag) = some o →
      o.issued + 500000 ≤ s.tick →
    exec (.requestTimeout m tag) s = .next ((s.orphan m tag).deliver o { mid := m, tag, code := .uncorrectable })) ∧
  (∀ (s : State) (m tag : Nat), (s.orphan m tag).responses.find? (fun r => r.mid == m && r.tag == tag) = none ∧
    (s.orphan m tag).findStall m tag = none) ∧
  (∀ s m tag h, s.live = true ∨ s.stoppedSafe = true →
      s.refusals.find? (fun h => h.mid == m && h.tag == tag && decide (h.due ≤ s.root)) = some h →
      h.eff = .deny → (s.outstanding.any fun o => o.mid == h.mid && o.tag == h.tag) = true →
      inRange 0x400 0x443 h.mid = false →
    exec (.refusalLatencyExpiry m tag) s = .next
      { s with refusals := s.refusals.erase h,
               responses := s.responses ++ [{ mid := h.mid, tag := h.tag, code := .denied }] }) ∧
  (∀ s m tag, s.live = true → (∀ h ∈ s.refusals, h.mid = m → h.tag = tag → s.root < h.due) →
    exec (.refusalLatencyExpiry m tag) s = .next s)

/-! ### Packet queues -/

/-- OPEN, DATA and CLOSE by a tray master (R100, R101, R104): a new packet of the master's domain at the tail; the slots
behind its data; the header slot with LENGTH, FLAGS, DOMAIN and TICK. Each answers OK and changes no other queue. -/
def Obligations.QueueProducerBuildsAPacket : Prop :=
  (∀ s m tag q, s.mayAccess m tag q true → qWritten q = true → (s.queue q).isOpen = false →
      (s.queue q).used < qCap q →
    ∃ t, exec (.qOpen m tag q) s = .next t ∧
      t.queue q = { s.queue q with pkts := (s.queue q).pkts ++ [{ dom := s.qDom m, mid := m }] } ∧
      s.keepsQueues t q ∧
      t = { s with queues := t.queues,
                   outstanding := s.outstanding ++ [s.outgoing m tag .write (s.queueAddr m q .opn) 32],
                   responses := s.responses ++ [{ mid := m, tag, code := .ok }] }) ∧
  (∀ s m tag q bytes l p, s.mayAccess m tag q true → qWritten q = true → bytes.length = 32 ∨ bytes.length = 64 →
      (s.queue q).pkts = l ++ [p] → p.header = none → p.slots.length + 2 ≤ 511 → (s.queue q).used + 2 ≤ qCap q →
    ∃ t, exec (.qData m tag q bytes) s = .next t ∧
      t.queue q = { s.queue q with pkts := l ++ [{ p with slots := p.slots ++ slotsOf bytes }] } ∧
      s.keepsQueues t q ∧
      t = { s with queues := t.queues,
                   outstanding := s.outstanding ++ [s.outgoing m tag .write (s.queueAddr m q (.dat (slotsOf bytes))) bytes.length],
                   responses := s.responses ++ [{ mid := m, tag, code := .ok }] }) ∧
  (∀ s m tag q l p, ∀ (last : Fin 256) (flags : Fin 65536), s.mayAccess m tag q true → qWritten q = true →
      q ≠ .mailTx → (s.queue q).pkts = l ++ [p] → p.header = none → p.slots ≠ [] → p.trunc = false →
      last.val ≤ 32 → (s.queue q).dropping = false → p.slots.length ≤ 511 →
    ∃ t, exec (.qClose m tag q last flags) s = .next t ∧
      t.queue q = { s.queue q with pkts := l ++ [{ p with header := some (BitVec.ofNat 256
        ((32 * p.slots.length - 32 + (if last.val = 0 then 32 else last.val)) + flags.val * 2 ^ 16 +
          p.dom % 256 * 2 ^ 32 + s.tick % 2 ^ 64 * 2 ^ 64)) }] } ∧
      s.keepsQueues t q ∧
      t = { s with queues := t.queues,
                   outstanding := s.outstanding ++ [s.outgoing m tag .write (s.queueAddr m q (.cls last.val flags.val)) 32],
                   responses := s.responses ++ [{ mid := m, tag, code := .ok }] })

/-- EGRESS_READ, DROP and IN_TAKE (R102, R104): one slot of the head packet is consumed and answered; a DROP discards
the rest of the packet whose header was taken; the fabric takes the slot shown at its ingress queue.
QUEUE_WRITE_TIMEOUT, QUEUE_READ_TIMEOUT and QUEUE_STALL_RESUME (R101, R102): an access held for QUEUE_TIMEOUT completes
DENIED or EMPTY with nothing written or consumed; one that can go on does. -/
def Obligations.QueueConsumersTakeDropAndWait : Prop :=
  (∀ s m tag q a y h, s.mayAccess m tag q false → qWritten q = false → (s.queue q).take1 = some (a, h, y) →
    ∃ t, exec (.egressRead m tag q 1) s = .next t ∧ t.queue q = y ∧ s.keepsQueues t q ∧
      t = { s with queues := t.queues,
                   outstanding := s.outstanding ++ [s.outgoing m tag .read (s.queueAddr m q (.rd 1)) 32],
                   responses := s.responses ++ [{ mid := m, tag, code := .ok, bytes := slotBytes a }] }) ∧
  (∀ (p : Pkt) ps h, p.header = some h → p.slots ≠ [] →
    ({ pkts := p :: ps } : QueueSt).take1 = some (h, true, { cur := some p.slots, pkts := ps })) ∧
  (∀ (x : QueueSt) a b r, x.cur = some (a :: b :: r) → x.take1 = some (a, false, { x with cur := some (b :: r) })) ∧
  (∀ s m tag q, s.mayAccess m tag q true → qWritten q = false → (s.queue q).cur.isSome = true →
    ∃ t, exec (.drop m tag q) s = .next t ∧ t.queue q = { s.queue q with cur := none } ∧ s.keepsQueues t q ∧
      t = { s with queues := t.queues,
                   outstanding := s.outstanding ++ [s.outgoing m tag .write (s.queueAddr m q .drp) 32],
                   responses := s.responses ++ [{ mid := m, tag, code := .ok }] }) ∧
  (∀ (s : State) (c : Fin 192) (n : Fin 8) a h y, s.serving = true → s.portActs c.val 10 = true →
      (s.queue (.ingress c n)).take1 = some (a, h, y) →
    ∃ t, exec (.inTake c n) s = .next t ∧ t.queue (.ingress c n) = y ∧ s.keepsQueues t (.ingress c n) ∧
      t = { s with queues := t.queues }) ∧
  (∀ s m tag x, s.live = true → s.findStall m tag = some x → (∀ n, x.acc ≠ .rd n) →
      x.since + s.qTimeout x.q ≤ s.tick → inRange 0x400 0x443 m = false →
    exec (.queueWriteTimeout m tag) s = .next
      { s with stalls := s.stalls.filter (fun e => !(e.mid == m && e.tag == tag)),
               responses := s.responses ++ [{ mid := m, tag, code := .denied }] }) ∧
  (∀ s m tag x n, s.live = true → s.findStall m tag = some x → x.acc = .rd n →
      x.since + s.qTimeout x.q ≤ s.tick → inRange 0x400 0x443 m = false →
    exec (.queueReadTimeout m tag) s = .next
      { s with stalls := s.stalls.filter (fun e => !(e.mid == m && e.tag == tag)),
               responses := s.responses ++ [{ mid := m, tag, code := .empty }] }) ∧
  (∀ s m tag x n l y, s.live = true → s.findStall m tag = some x → s.stallBarred x = false → s.stallFirst x = true →
      x.acc = .rd n → (s.queue x.q).takeN n = some (l, y) → inRange 0x400 0x443 m = false →
    ∃ t, exec (.queueStallResume m tag) s = .next t ∧ t.queue x.q = y ∧ s.keepsQueues t x.q ∧
      t = { s with queues := t.queues, stalls := s.stalls.filter (fun e => !(e.mid == m && e.tag == tag)),
                   responses := s.responses ++ [{ mid := m, tag, code := .ok, bytes := l.flatMap slotBytes }] })

/-! ### Collectors and stream ports -/

/-- SIGNAL and MESSAGE (R159 to R161, R170): a request of a source that collector n names is pending at it; a message of
a source without a credit waits at that source; a request that no entry names is refused. A collector accepts one
pending request in a tray cycle, of the lowest index: it sets the source's bit of the completion vector, answers OK, and
puts a message, with its source's index and TICK, behind those held where the collector has a queue. That the acceptance
falls at the start of a tray cycle is the model's choice (log entry 84), and so is what orders the messages of one TICK
beside the index (log entry 105). POP and COLLECTOR_VEC_CLEAR (R161 to R163): POP removes the head message; a clear
takes away the bits written 1, but for one that a completion of the same tray cycle set. -/
def Obligations.CollectorsTakeCompletions : Prop :=
  (∀ s m tag, ∀ n : Fin 64, ∀ d i, s.live = true → s.mayIssue m tag → s.midDomain m = some d →
      s.colIndex n.val m d = some i → s.lacksToken m = false → ((tenantOf d).any fun t => !s.tenantExists t) = false →
      ((s.col n.val).waiting.any fun e => e.1 == m) = false →
    ∃ t, exec (.signal m tag n) s = .next t ∧
      (t.col n.val).queued = (s.col n.val).queued ++ [(m, tag, none)] ∧ (t.col n.val).msgs = (s.col n.val).msgs ∧
      (∀ n', n' ≠ n.val → t.col n' = s.col n') ∧
      t = { s with cols := t.cols,
                   outstanding := s.outstanding ++ [s.outgoing m tag .write (s.signalAddr m n.val false) 32] }) ∧
  (∀ s m tag, ∀ n : Fin 64, ∀ bytes d i, s.live = true → s.mayIssue m tag → bytes.length = 32 →
      s.midDomain m = some d → s.colIndex n.val m d = some i → s.lacksToken m = false →
      ((tenantOf d).any fun t => !s.tenantExists t) = false →
      ((s.col n.val).waiting.any fun e => e.1 == m) = false → s.noCredit m n.val = false →
    ∃ t, exec (.message m tag n bytes) s = .next t ∧
      (t.col n.val).queued = (s.col n.val).queued ++ [(m, tag, some bytes)] ∧
      (t.col n.val).msgs = (s.col n.val).msgs ∧ (∀ n', n' ≠ n.val → t.col n' = s.col n') ∧
      t = { s with cols := t.cols,
                   outstanding := s.outstanding ++ [s.outgoing m tag .write (s.signalAddr m n.val true) 32] }) ∧
  (∀ s m tag, ∀ n : Fin 64, ∀ bytes, s.live = true → s.mayIssue m tag → bytes.length = 32 →
      s.noCredit m n.val = true →
    ∃ t, exec (.message m tag n bytes) s = .next t ∧
      (t.col n.val).waiting = (s.col n.val).waiting ++ [(m, tag, some bytes)] ∧
      (t.col n.val).queued = (s.col n.val).queued ∧ t.responses = s.responses) ∧
  (∀ s m tag, ∀ n : Fin 64, ∀ d, s.live = true → s.mayIssue m tag → s.midDomain m = some d →
      s.colIndex n.val m d = none → ((s.col n.val).waiting.any fun e => e.1 == m) = false → s.isTenant m = false →
      inRange 0x400 0x443 m = false →
    exec (.signal m tag n) s =
      .next { s with outstanding := s.outstanding ++ [s.outgoing m tag .write (s.signalAddr m n.val false) 32],
                     responses := s.responses ++ [{ mid := m, tag, code := .denied }] }) ∧
  (∀ (s : State) n e, s.colNext n = some e →
    e ∈ (s.col n).queued ∧ ∀ x ∈ (s.col n).queued, (s.colWould e.1 n).getD 256 ≤ (s.colWould x.1 n).getD 256) ∧
  (∀ (s : State) n m tag msg i, s.colNext n = some (m, tag, msg) → s.colWould m n = some i → i < 256 →
      s.pair ⟨.colNotify, n, 0⟩ ⟨.colNotifyHi, n, 0⟩ = 0 → inRange 0x400 0x443 m = false →
    (s.colServe n).flag ⟨.colVec, n, i / 32⟩ (i % 32) = true ∧
    ((s.colServe n).col n).queued = (s.col n).queued.erase (m, tag, msg) ∧
    (∀ bytes, msg = some bytes → s.flag ⟨.colCfg, n, 0⟩ 30 = true →
      ((s.colServe n).col n).msgs =
        insertMsg (s.col n).msgs { idx := i, src := originOf m, tick := s.tick, bytes }) ∧
    (msg = none ∨ s.flag ⟨.colCfg, n, 0⟩ 30 = false → ((s.colServe n).col n).msgs = (s.col n).msgs) ∧
    (∀ n', n' ≠ n → (s.colServe n).col n' = s.col n') ∧ s.keepsRegs (s.colServe n) [⟨.colVec, n, i / 32⟩] ∧
    s.colServe n = { s with regs := (s.colServe n).regs, cols := (s.colServe n).cols,
                            responses := s.responses ++ [{ mid := m, tag, code := .ok }] }) ∧
  (∀ s : State, s.root % 4 ≠ 0 → s.colCycle = s) ∧
  (∀ s m v, ∀ n : Fin 64, s.accepts m ⟨.colPop, n.val, 0⟩ → bit v 0 = true → (s.col n.val).waiting = [] →
      (s.col n.val).msgs ≠ [] →
    ∃ t, exec (.pop m n v) s = .next t ∧ (t.col n.val).msgs = (s.col n.val).msgs.drop 1 ∧
      t = { s with cols := t.cols, sent := okTo m :: s.sent }) ∧
  (∀ s m v, ∀ n : Fin 64, ∀ w : Fin 8, s.accepts m ⟨.colVec, n.val, w.val⟩ →
    ∃ t, exec (.collectorVecClear m n w v) s = .next t ∧
      t.reg ⟨.colVec, n.val, w.val⟩ = s.reg ⟨.colVec, n.val, w.val⟩ &&& ~~~ (v &&& ~~~ s.colFresh n.val w.val) ∧
      s.keepsRegs t [⟨.colVec, n.val, w.val⟩] ∧ t = { s with regs := t.regs, sent := okTo m :: s.sent })

/-- STREAM_PORT_BIND_WRITE (R96, R142): an accepted write binds the port; a tenant's write that names a stream of
another domain is held to DENIED and changes no register. STREAM_IN_PACKET, STREAM_OUT_PACKET and CLEAR_AT_FLIP_DONE
(R96, R117, R138, R148, R150): a packet that fits is kept whole by the stream-in port of a running cup; a damaged one is
discarded and counted, and the router that found the damage counts it too; a stream-out port's packet waits for the
slots of its stream, behind those of its buffer, and is discarded and counted where no tree of the stream starts at the
cup; a block whose clear ends holds zeros that count as written. CUP_REQUEST (R98): a READ or WRITE that the port takes
is the cup's tray request of that kind under its tag; a FENCE waits at the port's interface; a reserved OP, or a request
across a 4 KiB boundary, is sent with its own address and length and DENIED. That a reserved OP is taken as a header
alone is the model's choice (log entry 106). -/
def Obligations.CupPortsCarryStreamsAndRequests : Prop :=
  (∀ s m v, ∀ c : Fin 192, ∀ out, ∀ n : Fin 4, s.accepts m (bindKey c.val n.val out) → s.bindDenied m v = false →
    ∃ t, exec (.streamPortBindWrite m c out n v) s = .next t ∧
      t.fld (bindKey c.val n.val out) 13 0 = bits v 13 0 ∧
      t.flag (bindKey c.val n.val out) 31 = bit v 31 ∧
      s.keepsRegs t [bindKey c.val n.val out] ∧ t = { s with regs := t.regs, sent := okTo m :: s.sent }) ∧
  (∀ s m v d, ∀ c : Fin 192, ∀ out, ∀ n : Fin 4, s.accepts m (bindKey c.val n.val out) → s.midDomain m = some d →
      (tenantOf d).isSome = true → s.fld ⟨.traySent, bits v 13 0, 0⟩ 7 0 ≠ d →
    exec (.streamPortBindWrite m c out n v) s = .next (s.hold m 0 8000 .deny)) ∧
  (∀ (s : State) (c : Fin 192) (n : Fin 4) (stream : Fin 16384) data k, s.serving = true →
      s.cupRouter c.val = some k → s.fld ⟨.cupSin, c.val, n.val⟩ 13 0 = stream.val →
      s.ownStream c.val stream.val = true → ((s.stream stream.val).dstAt k 0).isSome = true → s.cupGone c.val = false →
      (s.streamArrive stream.val k 0).cupState c.val = 2 → (s.streamArrive stream.val k 0).cup c.val = s.cup c.val →
      (s.cup c.val).active.bound (1 + n.val) = true →
      (s.streamArrive stream.val k 0).flag ⟨.cupSin, c.val, n.val⟩ 31 = true →
      (nget (s.cup c.val).sin n.val {}).used + data.length ≤ 32768 →
    ∃ t, exec (.streamInPacket c n stream ⟨data, none⟩) s = .next t ∧
      (nget (t.cup c.val).sin n.val {}).pkts = (nget (s.cup c.val).sin n.val {}).pkts ++ [data]) ∧
  (∀ (s : State) (c : Fin 192) (n : Fin 4) (stream : Fin 16384) data k (r : Fin 240), s.serving = true →
      s.cupRouter c.val = some k → s.fld ⟨.cupSin, c.val, n.val⟩ 13 0 = stream.val →
      s.ownStream c.val stream.val = true → ((s.stream stream.val).dstAt k 0).isSome = true → s.cupGone c.val = false →
    ∃ t, exec (.streamInPacket c n stream ⟨data, some r⟩) s = .next t ∧
      t.fld ⟨.cupSin, c.val, n.val⟩ 29 14 = min (s.fld ⟨.cupSin, c.val, n.val⟩ 29 14 + 1) 65535 ∧
      t.fld ⟨.rtrErr, r.val, 0⟩ 15 0 = min (s.fld ⟨.rtrErr, r.val, 0⟩ 15 0 + 1) 65535 ∧
      (nget (t.cup c.val).sin n.val {}).pkts = (nget (s.cup c.val).sin n.val {}).pkts ∧
      (nget (t.cup c.val).sin n.val {}).gap = true ∧ (∀ d, d ≠ c.val → t.cup d = s.cup d) ∧
      s.keepsRegs t [⟨.cupSin, c.val, n.val⟩, ⟨.rtrErr, r.val, 0⟩] ∧
      t = { s with regs := t.regs, cups := t.cups }) ∧
  (∀ (s : State) (c : Fin 192) (n : Fin 4) data r tr, s.serving = true → s.portActs c.val (5 + n.val) = true →
      s.cupRouter c.val = some r → s.flag ⟨.cupSout, c.val, n.val⟩ 31 = true →
      s.ownStream c.val (s.fld ⟨.cupSout, c.val, n.val⟩ 13 0) = true → s.soutRoom c.val n.val data.length = true →
      1 ≤ data.length → data.length ≤ 9216 →
      (s.stream (s.fld ⟨.cupSout, c.val, n.val⟩ 13 0)).tree = some tr → tr.srcK = r → tr.srcPort = 0 → tr.be = false →
      (s.stream (s.fld ⟨.cupSout, c.val, n.val⟩ 13 0)).prep = none →
      (∀ w ∈ (s.stream (s.fld ⟨.cupSout, c.val, n.val⟩ 13 0)).wait, w.k = r ∧ w.p = 0) →
    exec (.streamOutPacket c n data) s =
      .next (s.modStream (s.fld ⟨.cupSout, c.val, n.val⟩ 13 0) fun x =>
        { x with wait := x.wait ++ [{ owner := .sout c.val n.val, k := r, p := 0, bytes := data }] })) ∧
  (∀ (s : State) (c : Fin 192) (n : Fin 4) data r, s.serving = true → s.portActs c.val (5 + n.val) = true →
      s.cupRouter c.val = some r → s.flag ⟨.cupSout, c.val, n.val⟩ 31 = true →
      s.soutRoom c.val n.val data.length = true →
      s.isSource (s.fld ⟨.cupSout, c.val, n.val⟩ 13 0) r 0 = false →
    ∃ t, exec (.streamOutPacket c n data) s = .next t ∧
      t.fld ⟨.cupSout, c.val, n.val⟩ 29 14 = min (s.fld ⟨.cupSout, c.val, n.val⟩ 29 14 + 1) 65535 ∧
      s.keepsRegs t [⟨.cupSout, c.val, n.val⟩] ∧ t = { s with regs := t.regs }) ∧
  (∀ (s : State) (c : Fin 192) (b : Fin 200), s.serving = true → look (s.cup c.val).clearing b.val = some 0 →
    ∃ t, exec (.clearAtFlipDone c b) s = .next t ∧
      (∀ a, a < 2048 → nget (t.cup c.val).fab.bram (2048 * b.val + a) 0 = 0 ∧
        nget (t.cup c.val).fab.bramErr (2048 * b.val + a) 0 = 0) ∧
      look (t.cup c.val).clearing b.val = none ∧
      (∀ d, d ≠ c.val → t.cup d = s.cup d) ∧ t = { s with cups := t.cups }) ∧
  (∀ (s : State) (c : Fin 192) addr (tag : Fin 64) len data, s.serving = true → s.portActs c.val 9 = true →
      (s.cup c.val).rq.takes 0 tag.val len = true → legalExtent addr len = true → s.takes c.val addr = true →
      s.tagBusy c.val tag.val = false →
    exec (.cupRequest c 0 addr tag len data) s = exec (.read c.val tag.val addr len .clean)
      (s.modCup c.val fun x =>
        { x with rq := { x.rq with tags := x.rq.tags ++ [tag.val], room := x.rq.room ++ [(tag.val, len)] } })) ∧
  (∀ (s : State) (c : Fin 192) addr (tag : Fin 64) len data, s.serving = true → s.portActs c.val 9 = true →
      (s.cup c.val).rq.takes 1 tag.val len = true → legalExtent addr len = true → s.takes c.val addr = true →
      s.tagBusy c.val tag.val = false →
    exec (.cupRequest c 1 addr tag len data) s = exec (.write c.val tag.val addr data .clean)
      (s.modCup c.val fun x => { x with rq := { x.rq with tags := x.rq.tags ++ [tag.val] } })) ∧
  (∀ (s : State) (c : Fin 192) addr (tag : Fin 64) len data, s.serving = true → s.portActs c.val 9 = true →
      (s.cup c.val).rq.takes 2 tag.val len = true → s.fenced c.val = false →
    ∃ t, exec (.cupRequest c 2 addr tag len data) s = .next t ∧
      (t.cup c.val).rq.tags = (s.cup c.val).rq.tags ++ [tag.val] ∧ t.fences = s.fences ++ [(c.val, tag.val)] ∧
      t = { s with cups := t.cups, fences := t.fences }) ∧
  (∀ (s : State) (c : Fin 192) (op : Fin 16) addr (tag : Fin 64) len data, s.serving = true →
      s.portActs c.val 9 = true → (s.cup c.val).rq.takes op.val tag.val len = true → s.fenced c.val = false →
      2 < op.val ∨ op.val ≠ 2 ∧ legalExtent addr len = false →
    ∃ u : State, exec (.cupRequest c op addr tag len data) s = .next (u.denyIn (s.uniformAt addr) c.val tag.val) ∧
      (u.cup c.val).rq.tags = (s.cup c.val).rq.tags ++ [tag.val] ∧
      u = { s with cups := u.cups,
                   outstanding := s.outstanding ++ [s.outgoing c.val tag.val (cupOp op.val) addr len] }) ∧
  (∀ (s : State) (c : Fin 192) (op : Fin 16) addr (tag : Fin 64) len data,
      (s.cup c.val).rq.takes op.val tag.val len = false → exec (.cupRequest c op addr tag len data) s = .next s)

/-! ### Leaf dies -/

/-- LEAF_DIV_WRITE and DIVIDER_CHANGE_EFFECT (R78, R89): a new value is accepted for a divider that no running line
selects, and takes effect at a root cycle that is a multiple of it; a divider in use refuses it and sets the status bit.
COLREK_CRC_MISMATCH, COLREK_LOCK_LOSS, COLREK_RETRAIN and COLREK_RETRAIN_DONE (R86): a second mismatch within 1 ms or a
loss of lock starts a retrain; the first three retrains in 1 s are counted, but for one that began within 10 ms after a
reference-loss stop (R393); the end of a retrain gives the group back. -/
def Obligations.LeafDividersAndColrekGroups : Prop :=
  (∀ s m v, ∀ p : Fin 52, ∀ n : Fin 16, s.accepts m ⟨.leafDiv, p.val, n.val⟩ → s.dividerUsed p.val n.val = false →
      4 ≤ bits v 7 0 →
    ∃ t, exec (.leafDivWrite m p n v) s = .next t ∧ t.fld ⟨.leafDiv, p.val, n.val⟩ 7 0 = bits v 7 0 ∧
      look (t.leaf p.val).divPend n.val = some (bits v 7 0 + 1) ∧ (t.leaf p.val).divNow = (s.leaf p.val).divNow ∧
      s.keepsRegs t [⟨.leafDiv, p.val, n.val⟩] ∧
      t = { s with regs := t.regs, leaves := t.leaves, sent := okTo m :: s.sent }) ∧
  (∀ s m v, ∀ p : Fin 52, ∀ n : Fin 16, s.accepts m ⟨.leafDiv, p.val, n.val⟩ → s.dividerUsed p.val n.val = true →
    ∃ t, exec (.leafDivWrite m p n v) s = .next t ∧ t.flag ⟨.leafStatus, p.val, 0⟩ 8 = true ∧
      s.keepsRegs t [⟨.leafStatus, p.val, 0⟩] ∧ t = { s with regs := t.regs, sent := okTo m :: s.sent }) ∧
  (∀ (s : State) (p : Fin 52) (n : Fin 16) d, s.live = true → look (s.leaf p.val).divPend n.val = some d →
      s.root % d = 0 →
    ∃ t, exec (.dividerChangeEffect p n) s = .next t ∧ nget (t.leaf p.val).divNow n.val 5 = d ∧
      look (t.leaf p.val).divPend n.val = none ∧ t = { s with leaves := t.leaves }) ∧
  (∀ (s : State) (p : Fin 52) (g : Fin 178), s.serving = true → look (s.leaf p.val).crcAt g.val = none →
    ∃ t, exec (.colrekCrcMismatch p g) s = .next t ∧ look (t.leaf p.val).crcAt g.val = some s.tick ∧
      t = { s with leaves := t.leaves }) ∧
  (∀ (s : State) (p : Fin 52) (g : Fin 178) t0, s.serving = true → look (s.leaf p.val).crcAt g.val = some t0 →
      s.tick < t0 + 250000 → s.crkState p.val g.val = 0 →
    ∃ t, exec (.colrekCrcMismatch p g) s = .next t ∧ t.crkState p.val g.val = 1) ∧
  (∀ (s : State) (p : Fin 52) (g : Fin 178), s.serving = true → s.crkState p.val g.val = 0 ∨ s.crkState p.val g.val = 2 →
    ∃ t, exec (.colrekLockLoss p g) s = .next t ∧ t.crkState p.val g.val = 1 ∧
      look (t.leaf p.val).gapStart g.val = some s.tick ∧
      s.keepsRegs t [⟨.leafCrkGstat, p.val, g.val⟩] ∧ t = { s with regs := t.regs, leaves := t.leaves }) ∧
  (∀ (s : State) (p : Fin 52) (g : Fin 178) failing holds, s.serving = true → s.crkState p.val g.val = 1 →
      s.afterStopAt (nget (s.leaf p.val).gapStart g.val s.tick) = false →
      ((nget (s.leaf p.val).retrains g.val []).filter fun t => s.tick < t + 250000000).length < 3 →
    ∃ t, exec (.colrekRetrain p g failing holds) s = .next t ∧
      nget (t.leaf p.val).retrains g.val [] =
        ((nget (s.leaf p.val).retrains g.val []).filter fun t => s.tick < t + 250000000) ++ [s.tick] ∧
      t = { s with leaves := t.leaves }) ∧
  (∀ (s : State) (p : Fin 52) (g : Fin 178) failing holds, s.serving = true →
      s.afterStopAt (nget (s.leaf p.val).gapStart g.val s.tick) = true →
    exec (.colrekRetrain p g failing holds) s = .next s) ∧
  (∀ (s : State) (p : Fin 52) (g : Fin 178), s.serving = true → s.crkState p.val g.val = 1 →
      nget (s.leaf p.val).spared g.val 0 = 0 →
    ∃ t, exec (.colrekRetrainDone p g) s = .next t ∧ t.crkState p.val g.val = 0 ∧
      look (t.leaf p.val).gapStart g.val = none ∧ s.keepsHbm t)

/-! ### Streams -/

/-- RESERVE, PREPARE, RELEASE and PREPARE_RELEASE (R151 to R154): an engine command on a descriptor in order that finds
its slots gives the stream its tree, its prepared change or its release, and says so in TRAY_RSV_STAT; packets that wait
as their stream is released are discarded and counted (R150); a write while GO reads 1 changes nothing (R467).
APPLY_SET, DISCARD_SET and STREAM_TREE_SWITCH (R148, R154): a set that no armed entry names is applied, so that each
member's change waits for its next SOP, or discarded; the first SOP after the point of application puts the change into
effect, and not before the packet whose flits are leaving has left; the packet at the head of a producer's buffer leaves
by one flit in each slot of its stream, and is out with its last. -/
def Obligations.ReservationsAreTakenAndSwapped : Prop :=
  (∀ (s : State) m (set : Fin 16) n slots, s.accepts m ⟨.rsvCmd, 0, 0⟩ →
      s.flag ⟨.rsvCmd, 0, 0⟩ 31 = false → s.inHold = false →
      s.fld ⟨.rsvStream, 0, 0⟩ 13 0 = n → (s.stream n).tree = none →
      s.descriptorCode s.stagedTree (s.fld ⟨.rsvSlots, 0, 0⟩ 9 0) = 0 →
      s.overSlots n (s.fld ⟨.rsvSlots, 0, 0⟩ 9 0) = false →
      s.allocate s.stagedTree (s.fld ⟨.rsvSlots, 0, 0⟩ 25 16) (s.fld ⟨.rsvSlots, 0, 0⟩ 9 0) = .ok slots →
    ∃ t, exec (.reserve m set) s = .next t ∧
      (t.stream n).tree = some { s.stagedTree with slots := slots } ∧
      (∀ d, d < s.stagedTree.dsts.length → nget (t.stream n).dstState d 0 = 1) ∧
      (∀ n', n' ≠ n → t.stream n' = s.stream n') ∧
      t.fld ⟨.rsvStat, 0, 0⟩ 31 30 = 2 ∧ t.fld ⟨.rsvStat, 0, 0⟩ 9 0 = slots.length % 1024 ∧
      s.keepsRegs t [⟨.rsvCmd, 0, 0⟩, ⟨.rsvStat, 0, 0⟩] ∧
      t = { s with regs := t.regs, streams := t.streams, cups := t.cups, sent := okTo m :: s.sent }) ∧
  (∀ (s : State) m (set : Fin 16) n slots, s.accepts m ⟨.rsvCmd, 0, 0⟩ →
      s.flag ⟨.rsvCmd, 0, 0⟩ 31 = false → s.inHold = false →
      s.fld ⟨.rsvStream, 0, 0⟩ 13 0 = n → (s.stream n).tree ≠ none → (s.stream n).prep = none →
      s.setArmed set.val = false →
      s.descriptorCode s.stagedTree (s.fld ⟨.rsvSlots, 0, 0⟩ 9 0) = 0 →
      s.overSlots n (s.fld ⟨.rsvSlots, 0, 0⟩ 9 0) = false →
      s.allocate s.stagedTree (s.fld ⟨.rsvSlots, 0, 0⟩ 25 16) (s.fld ⟨.rsvSlots, 0, 0⟩ 9 0) = .ok slots →
    ∃ t, exec (.prepareTree m set) s = .next t ∧
      t.stream n = { s.stream n with prep := some { set := set.val, tree := some { s.stagedTree with slots := slots } } } ∧
      (∀ n', n' ≠ n → t.stream n' = s.stream n') ∧ t.fld ⟨.rsvStat, 0, 0⟩ 31 30 = 2 ∧
      s.keepsRegs t [⟨.rsvCmd, 0, 0⟩, ⟨.rsvStat, 0, 0⟩] ∧
      t = { s with regs := t.regs, streams := t.streams, sent := okTo m :: s.sent }) ∧
  (∀ (s : State) m (set : Fin 16) n, s.accepts m ⟨.rsvCmd, 0, 0⟩ →
      s.flag ⟨.rsvCmd, 0, 0⟩ 31 = false → s.inHold = false →
      s.fld ⟨.rsvStream, 0, 0⟩ 13 0 = n → (s.stream n).tree ≠ none →
      ((s.stream n).prep.any fun p => s.setArmed p.set) = false →
    ∃ t, exec (.release m set) s = .next t ∧ (t.stream n).tree = none ∧ (t.stream n).prep = none ∧
      (t.stream n).wait = [] ∧ (∀ n', n' ≠ n → t.stream n' = s.stream n') ∧ t.fld ⟨.rsvStat, 0, 0⟩ 31 30 = 2 ∧
      ((s.stream n).wait = [] → s.keepsRegs t [⟨.rsvCmd, 0, 0⟩, ⟨.rsvStat, 0, 0⟩]) ∧
      (∀ c i p, i < 4 → (s.stream n).wait = [p] → p.owner = .sout c i →
        t.fld ⟨.cupSout, c, i⟩ 29 14 = min (s.fld ⟨.cupSout, c, i⟩ 29 14 + 1) 65535) ∧
      t = { s with regs := t.regs, streams := t.streams, cups := t.cups, sent := okTo m :: s.sent }) ∧
  (∀ (s : State) m (set : Fin 16) n, s.accepts m ⟨.rsvCmd, 0, 0⟩ →
      s.flag ⟨.rsvCmd, 0, 0⟩ 31 = false → s.inHold = false →
      s.fld ⟨.rsvStream, 0, 0⟩ 13 0 = n → (s.stream n).tree ≠ none → (s.stream n).prep = none →
      s.setArmed set.val = false →
    ∃ t, exec (.prepareRelease m set) s = .next t ∧
      t.stream n = { s.stream n with prep := some { set := set.val, tree := none } } ∧
      (∀ n', n' ≠ n → t.stream n' = s.stream n') ∧ t.fld ⟨.rsvStat, 0, 0⟩ 31 30 = 2 ∧
      s.keepsRegs t [⟨.rsvCmd, 0, 0⟩, ⟨.rsvStat, 0, 0⟩] ∧
      t = { s with regs := t.regs, streams := t.streams, sent := okTo m :: s.sent }) ∧
  (∀ (s : State) m (set : Fin 16), s.accepts m ⟨.rsvCmd, 0, 0⟩ → s.flag ⟨.rsvCmd, 0, 0⟩ 31 = true →
    ∀ i ∈ [Instr.reserve m set, .prepareTree m set, .release m set, .prepareRelease m set, .applySet m set,
      .discardSet m set], exec i s = .next { s with sent := okTo m :: s.sent }) ∧
  (∀ (s : State) m (set : Fin 16), s.accepts m ⟨.rsvCmd, 0, 0⟩ →
      s.flag ⟨.rsvCmd, 0, 0⟩ 31 = false → s.inHold = false → s.setArmed set.val = false →
    ∃ t, exec (.applySet m set) s = .next t ∧
      (∀ n p, (s.stream n).prep = some p → p.set = set.val →
        t.stream n = { s.stream n with prep := some { p with applied := true } }) ∧
      (∀ n, n ∉ s.setMembers set.val → t.stream n = s.stream n) ∧ t.fld ⟨.rsvStat, 0, 0⟩ 31 30 = 2 ∧
      s.keepsRegs t [⟨.rsvCmd, 0, 0⟩, ⟨.rsvStat, 0, 0⟩] ∧
      t = { s with regs := t.regs, streams := t.streams, sent := okTo m :: s.sent }) ∧
  (∀ (s : State) m (set : Fin 16), s.accepts m ⟨.rsvCmd, 0, 0⟩ →
      s.flag ⟨.rsvCmd, 0, 0⟩ 31 = false → s.inHold = false → s.setArmed set.val = false →
    ∃ t, exec (.discardSet m set) s = .next t ∧
      (∀ n p, (s.stream n).prep = some p → p.set = set.val →
        t.stream n = { s.stream n with prep := none }) ∧
      (∀ n, n ∉ s.setMembers set.val → t.stream n = s.stream n) ∧ t.fld ⟨.rsvStat, 0, 0⟩ 31 30 = 2 ∧
      s.keepsRegs t [⟨.rsvCmd, 0, 0⟩, ⟨.rsvStat, 0, 0⟩] ∧
      t = { s with regs := t.regs, streams := t.streams, sent := okTo m :: s.sent }) ∧
  (∀ (s : State) (n : Fin 16384) p, s.serving = true → (s.stream n.val).prep = some p → p.applied = true →
      (s.stream n.val).wait = [] →
    ∃ t, exec (.streamTreeSwitch n) s = .next t ∧ (t.stream n.val).tree = p.tree ∧ (t.stream n.val).prep = none ∧
      (t.stream n.val).srcSop = (if p.tree.isSome then some s.tick else none) ∧
      (∀ n', n' ≠ n.val → t.stream n' = s.stream n') ∧ t = { s with streams := t.streams, cups := t.cups }) ∧
  (∀ (s : State) (n : Fin 16384), (s.stream n.val).wait ≠ [] → exec (.streamTreeSwitch n) s = .next s) ∧
  (∀ (s : State) n w rest tr, (s.stream n).wait = w :: rest → w.gone ≠ 0 → (s.stream n).tree = some tr →
      tr.srcK = w.k → tr.srcPort = w.p → tr.be = false → s.streamFlow n = s) ∧
  (∀ (s : State) n w rest p tr, (s.stream n).wait = w :: rest → w.gone = 0 → (s.stream n).prep = some p →
      p.applied = true → p.tree = some tr → tr.srcK = w.k → tr.srcPort = w.p → tr.be = false →
    ((s.streamFlow n).stream n).tree = some tr ∧ ((s.streamFlow n).stream n).prep = none ∧
      ((s.streamFlow n).stream n).wait = w :: rest ∧ (s.streamFlow n).regs = s.regs) ∧
  (∀ (s : State) n w rest tr, (s.stream n).wait = w :: rest → s.clearWay tr.routers →
    (w.gone + 1 < flitCount w.bytes.length →
      ((s.leaveFlit n tr).stream n).wait = { w with gone := w.gone + 1 } :: rest ∧
      s.leaveFlit n tr = { s with streams := (s.leaveFlit n tr).streams }) ∧
    (flitCount w.bytes.length ≤ w.gone + 1 → s.rawSinks n tr = [] →
      ((s.leaveFlit n tr).stream n).wait = rest ∧
      s.leaveFlit n tr = { s with streams := (s.leaveFlit n tr).streams,
                                  sent := .streamPacket n w.bytes w.bad :: s.sent }) ∧
    (w.gone = 0 → ((s.leaveFlit n tr).stream n).srcSop = some s.tick))

/-- STREAM_DOMAIN_WRITE, STREAM_SILENCE_TIMEOUT, DEGRADED_CLEAR and QUEUE_GRANT_WRITE (R141, R149, R155, R196, R363): an
idle stream takes an existing domain; a destination that hears nothing for the silence time goes SILENT; 1 ms after the
last discard the DEGRADED destinations return to their plain state; a grant entry takes the fields written. -/
def Obligations.StreamDomainsStatesAndGrants : Prop :=
  (∀ (s : State) m v n, s.accepts m ⟨.traySent, n, 0⟩ → s.fld ⟨.traySsel, 0, windowOf ((s.midDomain m).getD 0)⟩ 13 0 = n →
      (s.stream n).tree = none → s.fld ⟨.traySent, n, 0⟩ 7 0 ≠ bits v 7 0 → s.domainExists (bits v 7 0) = true →
      (∀ i ∈ tenantOf (bits v 7 0), (s.regs.filter fun e => e.1.name == .traySent && bits e.2 7 0 == bits v 7 0).length + 1
        ≤ s.fld ⟨.traySbudget, i, 0⟩ 15 0) →
    ∃ t, exec (.streamDomainWrite m v) s = .next t ∧ t.fld ⟨.traySent, n, 0⟩ 7 0 = bits v 7 0 ∧
      s.keepsRegs t [⟨.traySent, n, 0⟩] ∧ t = { s with regs := t.regs, sent := okTo m :: s.sent }) ∧
  (∀ (s : State) m v n, s.accepts m ⟨.traySent, n, 0⟩ → s.fld ⟨.traySsel, 0, windowOf ((s.midDomain m).getD 0)⟩ 13 0 = n →
      (s.stream n).tree = none → s.fld ⟨.traySent, n, 0⟩ 7 0 ≠ bits v 7 0 → s.domainExists (bits v 7 0) = false →
    ∃ t, exec (.streamDomainWrite m v) s = .next t ∧
      t.flag ⟨.traySsel, 0, windowOf ((s.midDomain m).getD 0)⟩ 31 = true ∧
      s.keepsRegs t [⟨.traySsel, 0, windowOf ((s.midDomain m).getD 0)⟩] ∧
      t = { s with regs := t.regs, sent := okTo m :: s.sent }) ∧
  (∀ (s : State) (n : Fin 16384) (d : Fin 64) tr t0, s.serving = true → (s.stream n.val).tree = some tr →
      look (s.stream n.val).lastSop d.val = some t0 → nget (s.stream n.val).dstState d.val 0 = 2 → s.silenceTicks ≠ 0 →
      t0 + s.silenceTicks ≤ s.tick →
    ∃ t, exec (.streamSilenceTimeout n d) s = .next t ∧
      t.stream n.val = { s.stream n.val with dstState := nput (s.stream n.val).dstState d.val 3 0 } ∧
      (∀ n', n' ≠ n.val → t.stream n' = s.stream n') ∧ t = { s with streams := t.streams, cups := t.cups }) ∧
  (∀ (s : State) (n : Fin 16384) tr t0, s.serving = true → (s.stream n.val).tree = some tr →
      (s.stream n.val).degradedAt = some t0 → t0 + 250000 ≤ s.tick →
    ∃ t, exec (.degradedClear n) s = .next t ∧ (t.stream n.val).degradedAt = none ∧
      (∀ d, d < tr.dsts.length → nget (t.stream n.val).dstState d 0 =
        (if nget (s.stream n.val).dstState d 0 = 5 then s.plainState n.val d
          else nget (s.stream n.val).dstState d 0)) ∧
      (∀ n', n' ≠ n.val → t.stream n' = s.stream n') ∧ t = { s with streams := t.streams, cups := t.cups }) ∧
  (∀ (s : State) m v e, s.fld ⟨.trayQgsel, 0, 0⟩ 7 0 = e → s.accepts m ⟨.trayQg, e, 0⟩ → bits v 23 16 ≤ 191 →
      inRange 0x10 0x4F (bits v 7 0) = true → s.flag ⟨.trayQg, e, 0⟩ 31 = false →
    ∃ t, exec (.queueGrantWrite m v) s = .next t ∧ t.flag ⟨.trayQg, e, 0⟩ 31 = bit v 31 ∧
      t.flag ⟨.trayQg, e, 0⟩ 30 = bit v 30 ∧ t.fld ⟨.trayQg, e, 0⟩ 26 24 = bits v 26 24 ∧
      t.fld ⟨.trayQg, e, 0⟩ 23 16 = bits v 23 16 ∧ t.fld ⟨.trayQg, e, 0⟩ 7 0 = bits v 7 0 ∧
      s.keepsRegs t [⟨.trayQg, e, 0⟩] ∧ t = { s with regs := t.regs, sent := okTo m :: s.sent })

/-! ### The switch-point table -/

/-- SP_STAGE and SP_FREE (R181): a write of SP_CTL of an entry that accepts writes stages it with the values then in its
registers, or frees it; an ARMED or FINAL entry ignores the write. ARM and CANCEL (R182, R187): the staged entries of a
group are armed together or not at all, the failing one with its cause and the others with 1100, and armed entries hold
no COMMIT of an earlier round (R345); the owner's CANCEL ends a group that is ARMED and not FINAL, and a member of a
cascade reports it to its master (R346). A write while SP_CMD.GO reads 1 is ignored whole (R467). That CANCEL gives
every entry CAUSE 1001 and raises no event is the model's choice (log entries 49 and 118). -/
def Obligations.GroupsAreStagedArmedAndCancelled : Prop :=
  (∀ (s : State) m v, s.accepts m ⟨.spCtl, s.spSel, 0⟩ → s.spOpen s.spSel = true → 1 ≤ bits v 3 0 → bits v 3 0 ≤ 4 →
    ∃ t, exec (.spStage m v) s = .next t ∧ t.spState s.spSel = 1 ∧ t.fld ⟨.spCtl, s.spSel, 0⟩ 15 12 = 0 ∧
      t.spEnt s.spSel =
        { exec := s.pair ⟨.spTickLo, s.spSel, 0⟩ ⟨.spTickHi, s.spSel, 0⟩, casc := bit v 28, hold := bit v 27,
          group := bits v 23 16, action := bits v 3 0,
          args := (List.range 6).map fun i => s.reg ⟨.spArg, s.spSel, i⟩ } ∧
      s.keepsRegs t [⟨.spCtl, s.spSel, 0⟩] ∧ (∀ e, e ≠ s.spSel → t.spEnt e = s.spEnt e) ∧
      t = { s with regs := t.regs, spEnts := t.spEnts, spLocal := erase s.spLocal s.spSel, sent := okTo m :: s.sent }) ∧
  (∀ (s : State) m v, s.accepts m ⟨.spCtl, s.spSel, 0⟩ → s.spOpen s.spSel = true →
    ∃ t, exec (.spFree m v) s = .next t ∧ t.spState s.spSel = 0 ∧ t.spEnt s.spSel = {} ∧
      s.keepsRegs t [⟨.spCtl, s.spSel, 0⟩] ∧ (∀ e, e ≠ s.spSel → t.spEnt e = s.spEnt e) ∧
      t = { s with regs := t.regs, spEnts := t.spEnts, spLocal := erase s.spLocal s.spSel, sent := okTo m :: s.sent }) ∧
  (∀ (s : State) m v, s.accepts m ⟨.spCtl, s.spSel, 0⟩ → s.spState s.spSel = 2 ∨ s.spState s.spSel = 3 →
    exec (.spStage m v) s = .next { s with sent := okTo m :: s.sent } ∧
    exec (.spFree m v) s = .next { s with sent := okTo m :: s.sent }) ∧
  (∀ (s : State) m (g : Fin 256), s.accepts m ⟨.spCmd, 0, 0⟩ → s.flag ⟨.spCmd, 0, 0⟩ 31 = false → s.inHold = false →
      s.spGroup g.val (fun st => st == 1) ≠ [] → s.spArmedOf g.val = [] →
      s.armFault (s.spGroup g.val fun st => st == 1) none = none →
    ∃ t, exec (.arm m g) s = .next t ∧
      (∀ e ∈ s.spGroup g.val (fun st => st == 1), t.spState e = 2 ∧ t.fld ⟨.spCtl, e, 0⟩ 15 12 = 0) ∧
      t.fld ⟨.spStat, 0, 0⟩ 31 30 = 2 ∧
      (∀ k, k.name ≠ .spCtl → k ≠ ⟨.spCmd, 0, 0⟩ → k ≠ ⟨.spStat, 0, 0⟩ → t.reg k = s.reg k) ∧
      (∀ e, e ∉ s.spGroup g.val (fun st => st == 1) → t.reg ⟨.spCtl, e, 0⟩ = s.reg ⟨.spCtl, e, 0⟩) ∧
      (t.group g.val) = { s.group g.val with commit := false } ∧ (∀ g', g' ≠ g.val → t.group g' = s.group g') ∧
      t = { s with regs := t.regs, sent := okTo m :: s.sent, cas := { s.cas with groups := t.cas.groups },
                   clk := { s.clk with lost := s.clk.lost.filter fun e => !(s.spGroup g.val fun st => st == 1).contains e } }) ∧
  (∀ (s : State) m (g : Fin 256) bad cause, s.accepts m ⟨.spCmd, 0, 0⟩ → s.flag ⟨.spCmd, 0, 0⟩ 31 = false →
      s.inHold = false →
      s.spGroup g.val (fun st => st == 1) ≠ [] → s.spArmedOf g.val = [] →
      s.armFault (s.spGroup g.val fun st => st == 1) none = some (bad, cause) →
    ∃ t, exec (.arm m g) s = .next t ∧
      (∀ e ∈ s.spGroup g.val (fun st => st == 1), t.spState e = 1 ∧
        t.fld ⟨.spCtl, e, 0⟩ 15 12 = (if e = bad then cause else 12) % 16) ∧
      t.fld ⟨.spStat, 0, 0⟩ 31 30 = 3 ∧ t.fld ⟨.spStat, 0, 0⟩ 27 24 = 1 ∧
      (∀ k, k.name ≠ .spCtl → k ≠ ⟨.spCmd, 0, 0⟩ → k ≠ ⟨.spStat, 0, 0⟩ → t.reg k = s.reg k) ∧
      t = { s with regs := t.regs, sent := okTo m :: s.sent }) ∧
  (∀ (s : State) m (g : Fin 256), s.accepts m ⟨.spCmd, 0, 0⟩ → s.flag ⟨.spCmd, 0, 0⟩ 31 = true →
    exec (.arm m g) s = .next { s with sent := okTo m :: s.sent } ∧
    exec (.cancel m g) s = .next { s with sent := okTo m :: s.sent }) ∧
  (∀ (s : State) m (g : Fin 256), s.accepts m ⟨.spCmd, 0, 0⟩ → s.flag ⟨.spCmd, 0, 0⟩ 31 = false →
      s.spArmedOf g.val ≠ [] →
      (∀ e ∈ s.spArmedOf g.val, s.spState e = 2) →
    ∃ t, exec (.cancel m g) s = .next t ∧
      (∀ e ∈ s.spArmedOf g.val, t.spState e = 5 ∧ t.fld ⟨.spCtl, e, 0⟩ 15 12 = 9) ∧
      t.fld ⟨.spStat, 0, 0⟩ 31 30 = 2 ∧
      (∀ k, k.name ≠ .spCtl → k ≠ ⟨.spCmd, 0, 0⟩ → k ≠ ⟨.spStat, 0, 0⟩ → t.reg k = s.reg k) ∧
      t = { s with regs := t.regs, links := t.links, sent := t.sent } ∧
      (s.spCasc g.val = false → t.links = s.links ∧ t.sent = okTo m :: s.sent) ∧
      (s.spCasc g.val = true → s.casRole = 1 → .cas (some s.casMaster) (.report g.val 9) ∈ t.sent))

/-- SP_FINAL_CHECK and SP_COMMIT_CHECK (R186, R190): from EXEC − 250,000 a group whose entries pass becomes FINAL with
its local ticks fixed; a cascade group without COMMIT at EXEC − 25,000 is cancelled with cause 1010. SP_EXECUTE and
SP_HELD_WRITES_APPLY (R186, R188, R189): at root cycle 16·T the FINAL groups of the tick execute and every entry becomes
DONE; a STREAM_SWAP applies its set, a FLIP exchanges the planes of the cup it names; a group that names a retired cup
is cancelled; writes of every kind held to EXEC are applied after it, those of later ticks stay held. That one
SP_EXECUTE carries out all the groups of its tick is the model's choice (log entry 101). -/
def Obligations.GroupsBecomeFinalAndExecute : Prop :=
  (∀ (s : State) (g : Fin 256) T, s.serving = true → s.spGroupTick g.val = some T → T ≤ s.tick + 250000 →
      (∀ e ∈ s.spArmedOf g.val, s.spState e = 2) → s.finalFault g.val = none →
    ∃ t, exec (.spFinalCheck g) s = .next t ∧
      (∀ e ∈ s.spArmedOf g.val, t.spState e = 3 ∧ look t.spLocal e = some (s.spLocalTick e)) ∧
      (∀ e, e ∉ s.spArmedOf g.val → t.reg ⟨.spCtl, e, 0⟩ = s.reg ⟨.spCtl, e, 0⟩ ∧ look t.spLocal e = look s.spLocal e) ∧
      (∀ k, k.name ≠ .spCtl → t.reg k = s.reg k) ∧ t = { s with regs := t.regs, spLocal := t.spLocal }) ∧
  (∀ (s : State) (g : Fin 256) T, s.serving = true → s.spGroupTick g.val = some T → T ≤ s.tick + 25000 →
      s.spCasc g.val = true → (s.group g.val).commit = false → s.fld ⟨.strSrc, 0x032, 0⟩ 21 20 ≠ 1 →
    ∃ t, exec (.spCommitCheck g) s = .next t ∧
      (∀ e ∈ s.spArmedOf g.val, t.spState e = 5 ∧ t.fld ⟨.spCtl, e, 0⟩ 15 12 = 10) ∧
      (∀ e, e ∉ s.spArmedOf g.val → t.reg ⟨.spCtl, e, 0⟩ = s.reg ⟨.spCtl, e, 0⟩) ∧
      t.cups = s.cups ∧ t.streams = s.streams ∧ s.keepsHbm t) ∧
  (∀ (s : State) (g : Fin 256), s.serving = true → s.root = 16 * s.tick → s.clk.mode = .running →
      g.val ∈ s.groupsNow →
      (∀ g' ∈ s.groupsNow, ((s.spArmedOf g').any s.spGone) = false ∧ (s.spCasc g' = true → (s.group g').commit = true)) →
    ∃ t, exec (.spExecute g) s = .next t ∧
      (∀ g' ∈ s.groupsNow, ∀ e ∈ s.spArmedOf g', t.spState e = 4 ∧ look t.spLocal e = none) ∧ s.keepsHbm t) ∧
  (∀ (s : State) (g : Fin 256) e, s.serving = true → s.spArmedOf g.val = [e] → s.spLocalTick e = s.tick →
      s.root = 16 * s.tick → s.clk.mode = .running → s.spState e = 3 → s.spAction e = 2 → s.spCasc g.val = false →
      s.groupsNow = [g.val] →
    ∃ t, exec (.spExecute g) s = .next t ∧
      (∀ n p, (s.stream n).prep = some p → p.set = bits ((s.spEnt e).arg 0) 3 0 →
        t.stream n = { s.stream n with prep := some { p with applied := true } }) ∧
      s.keepsRegs t [⟨.spCtl, e, 0⟩] ∧
      t = { s with regs := t.regs, streams := t.streams, spLocal := erase s.spLocal e }) ∧
  (∀ (s : State) (g : Fin 256) e c, s.serving = true → s.spArmedOf g.val = [e] → s.spLocalTick e = s.tick →
      s.root = 16 * s.tick → s.clk.mode = .running → s.spState e = 3 → s.spAction e = 1 → (s.spEnt e).cups = [c] →
      s.spCasc g.val = false → s.cupGone c = false → s.groupsNow = [g.val] →
    ∃ t, exec (.spExecute g) s = .next t ∧ (t.cup c).bank = !(s.cup c).bank ∧ (t.cup c).active = (s.cup c).shadow ∧
      (t.cup c).shadow = (s.cup c).active ∧ (t.cup c).swapRoot = s.root ∧
      (t.cup c).clearing = ((clearBlocks (s.cup c).shadow).map fun b => (b, 256)) ∧ t.shadow c = 2 ∧
      s.keepsHbm t) ∧
  (∀ (s : State) (g : Fin 256) e, s.serving = true → s.spArmedOf g.val = [e] → s.spLocalTick e = s.tick →
      s.root = 16 * s.tick → s.clk.mode = .running → s.spState e = 3 → s.spGone e = true → s.groupsNow = [g.val] →
      s.fld ⟨.strSrc, 0x032, 0⟩ 21 20 ≠ 1 →
    ∃ t, exec (.spExecute g) s = .next t ∧ t.spState e = 5 ∧ t.fld ⟨.spCtl, e, 0⟩ 15 12 = 6 ∧ t.cups = s.cups ∧
      t.streams = s.streams) ∧
  (∀ (s : State), s.live = true → (∀ e ∈ s.heldWrites, s.tick ≤ e.1) → exec .spHeldWritesApply s = .next s) ∧
  (∀ (s : State) T m (c : Fin 192) v, s.live = true → s.heldWrites = [(T, .cupStateReq m c v)] → T < s.tick →
      s.finals = [] → bits v 1 0 ≠ 3 →
    exec .spHeldWritesApply s = .next ({ s with heldWrites := [] }.stateReq c.val (bits v 1 0))) ∧
  (∀ (s : State) T m (c : Fin 192) (sd : Fin 4) v, s.live = true → s.heldWrites = [(T, .cupBdrvWrite m c sd v)] →
      T < s.tick → s.finals = [] →
    exec .spHeldWritesApply s = .next ({ s with heldWrites := [] }.bdrvWrite c.val sd.val v)) ∧
  (∀ (s : State) T m (c : Fin 192) (sd : Fin 4) v, s.live = true → s.heldWrites = [(T, .cupBrdReqWrite m c sd v)] →
      T < s.tick → s.finals = [] →
    exec .spHeldWritesApply s = .next ({ s with heldWrites := [] }.brdReq c.val sd.val v)) ∧
  (∀ (s : State) T m n, s.live = true → s.heldWrites = [(T, .tenantCreate m n)] → T < s.tick → s.finals = [] →
    exec .spHeldWritesApply s = .next ({ s with heldWrites := [] }.writeTcmd (tcmdWord 1 n.val))) ∧
  (∀ (s : State) T m n v, s.live = true → n < 292 →
      s.heldWrites = [(T, .registerWrite m (0xF000020100 + 4 * n) 4 v)] → T < s.tick → s.finals = [] →
    exec .spHeldWritesApply s = .next ({ s with heldWrites := [] }.writeUrnCl n v)) ∧
  (∀ (s : State) T m p j v, s.live = true → p < 52 → j < 4 →
      s.heldWrites = [(T, .registerWrite m (0xF000D00080 + 0x1000 * p + 4 * j) 4 v)] → T < s.tick → s.finals = [] →
    exec .spHeldWritesApply s = .next ({ s with heldWrites := [] }.divgrantWrite p j v)) ∧
  (∀ (s : State) T i w, s.live = true → s.heldWrites = [(T, i), w] → T < s.tick → s.tick ≤ w.1 →
    exec .spHeldWritesApply s = .next ({ s with heldWrites := [w] }.applyHeld i))

/-! ### Cups -/

/-- CUP_STATE_REQ, CUP_OFF_TO_DORMANT_DONE, CUP_CLOCKS_START, CUP_CLOCKS_STOP and CUP_TO_OFF_DONE (R120, R121, R128): a
request sets TARGET; a cup in OFF asks the Urn for its first unit, whose grant comes in a later tray cycle (R373), and
reaches DORMANT, then RUN with its lines; a stopped cup keeps one unit, and a cup on its way to OFF keeps nothing. -/
def Obligations.CupStatesFollowRequestsAndPower : Prop :=
  (∀ (s : State) m (c : Fin 192) v, s.accepts m ⟨.cupStateReq, c.val, 0⟩ → bits v 1 0 ≠ 3 →
      (∀ e ∈ s.finals, s.finalFlip c.val e = false) →
    ∃ t, exec (.cupStateReq m c v) s = .next t ∧ t.cupTarget c.val = bits v 1 0 ∧
      (s.urn.pend = [] → s.keepsHbm t)) ∧
  (∀ (s : State) m (c : Fin 192) v, s.accepts m ⟨.cupStateReq, c.val, 0⟩ → bits v 1 0 = 1 ∨ bits v 1 0 = 2 →
      (∀ e ∈ s.finals, s.finalFlip c.val e = false) → s.cupState c.val = 0 → s.grant c.val = 0 → s.urn.pend = [] →
    ∃ t, exec (.cupStateReq m c v) s = .next t ∧ t.grant c.val = 0 ∧ t.flag ⟨.cupState, c.val, 0⟩ 10 = true ∧
      t.urn.pend = [{ client := c.val, units := 1, cycle := s.trayCycle }]) ∧
  (∀ (s : State) (c : Fin 192) u k, s.urn.pend = [{ client := c.val, units := u, cycle := k }] →
      s.fits c.val u = true → s.firm c.val = true → s.flag ⟨.cupState, c.val, 0⟩ 10 = true → s.grant c.val + u < 2048 →
    (s.trayCycle ≤ k → s.examine = s) ∧
    (k < s.trayCycle → s.examine.grant c.val = s.grant c.val + u ∧ (s.examine.cup c.val).moving = true ∧
      s.examine.flag ⟨.cupState, c.val, 0⟩ 10 = false ∧ s.examine.urn.pend = [])) ∧
  (∀ (s : State) m (c : Fin 192) v, s.accepts m ⟨.cupStateReq, c.val, 0⟩ → bits v 1 0 = 3 →
    exec (.cupStateReq m c v) s = .next { s with sent := okTo m :: s.sent }) ∧
  (∀ (s : State) (c : Fin 192), s.serving = true → s.cupState c.val = 0 → (s.cup c.val).moving = true →
      1 ≤ s.cupTarget c.val →
    ∃ t, exec (.cupOffToDormantDone c) s = .next t ∧ t.cupState c.val = 1 ∧
      (t.cup c.val).fab = powerOnFab (s.cup c.val).active (s.cup c.val).fab ∧
      (s.cupTarget c.val ≠ 2 → (t.cup c.val).moving = false ∧ s.keepsRegs t [⟨.cupState, c.val, 0⟩] ∧
        t = { s with regs := t.regs, cups := t.cups })) ∧
  (∀ (s : State) (c : Fin 192), s.serving = true → s.cupState c.val = 1 → (s.cup c.val).moving = true →
      s.cupTarget c.val = 2 →
    ∃ t, exec (.cupClocksStart c) s = .next t ∧ t.cupState c.val = 2 ∧ (t.cup c.val).clocksOn = true ∧
      (t.cup c.val).startRoot = 16 * s.nextTick ∧ (t.cup c.val).fab = (s.cup c.val).fab ∧
      s.keepsRegs t [⟨.cupState, c.val, 0⟩] ∧ t = { s with regs := t.regs, cups := t.cups }) ∧
  (∀ (s : State) (c : Fin 192), s.serving = true → s.cupState c.val = 2 → s.cupTarget c.val = 1 →
      (s.cup c.val).stopped = true ∨ s.held c.val = true → s.urn.pend = [] →
    ∃ t, exec (.cupClocksStop c) s = .next t ∧ t.cupState c.val = 1 ∧ (t.cup c.val).clocksOn = false ∧
      t.grant c.val = min (s.grant c.val) 1 ∧ (t.cup c.val).fab = (s.cup c.val).fab ∧
      s.keepsRegs t [⟨.cupState, c.val, 0⟩, ⟨.urnCls, c.val, 0⟩] ∧
      t = { s with regs := t.regs, cups := t.cups, urn := t.urn }) ∧
  (∀ (s : State) (c : Fin 192), s.serving = true → s.cupTarget c.val = 0 → (s.cup c.val).deferred = none →
      s.cupState c.val ≠ 0 ∨ s.grant c.val ≠ 0 → s.urn.pend = [] →
    ∃ t, exec (.cupToOffDone c) s = .next t ∧ t.cupState c.val = 0 ∧ t.grant c.val = 0 ∧
      (t.cup c.val).clocksOn = false ∧ (t.cup c.val).fab.macs = [] ∧ (t.cup c.val).fab.bram = [] ∧
      (t.cup c.val).active = (s.cup c.val).active ∧ (t.cup c.val).shadow = (s.cup c.val).shadow ∧
      s.keepsRegs t [⟨.cupState, c.val, 0⟩, ⟨.cupCap, c.val, 0⟩, ⟨.urnCls, c.val, 0⟩] ∧
      t = { s with regs := t.regs, cups := t.cups, urn := t.urn })

/-- CUP_BRD_REQ_WRITE, BORDER_APPLY, CUP_BDRV_WRITE and SHADOW_RECHECK (R106 to R109, R127): modes are accepted and
later applied, none that would open a border between domains: of the modes that may stand, those of segments that face a
cup of another domain, the outside or an absent leaf are CLAMP0, and a write that asks to open a segment towards another
domain is refused whole; a cleared DRIVE bit clamps the facing segment and makes the shadow plane due another check. -/
def Obligations.BordersStayInsideADomain : Prop :=
  (∀ (s : State) c sd w n, n < 10 → s.facesNone c sd = true ∨ s.sameDomAcross c sd = false →
    bits (s.legalModes c sd w) (2 * n + 1) (2 * n) = 0) ∧
  (∀ (s : State) c sd w, s.facesNone c sd = false → s.sameDomAcross c sd = true → s.legalModes c sd w = w) ∧
  (∀ (s : State) c sd v, s.modesRefused c sd v = true ↔
    s.facesNone c sd = false ∧ s.sameDomAcross c sd = false ∧
      ∃ n, n < 10 ∧ (bits v (2 * n + 1) (2 * n) = 1 ∨ bits v (2 * n + 1) (2 * n) = 2)) ∧
  (∀ (s : State) m (c : Fin 192) (sd : Fin 4) v, s.accepts m ⟨.cupBrdReq, c.val, sd.val⟩ → s.finals = [] →
      s.inHold = false → s.modesRefused c.val sd.val v = false →
    ∃ t, exec (.cupBrdReqWrite m c sd v) s = .next t ∧
      look (t.cup c.val).brdPend sd.val = some (s.legalModes c.val sd.val
        (mergeModes ((look (s.cup c.val).brdPend sd.val).getD (s.reg ⟨.cupBrd, c.val, sd.val⟩)) v)) ∧
      (∀ c', c' ≠ c.val → t.cup c' = s.cup c') ∧ t = { s with cups := t.cups, sent := okTo m :: s.sent }) ∧
  (∀ (s : State) m (c : Fin 192) (sd : Fin 4) v, s.accepts m ⟨.cupBrdReq, c.val, sd.val⟩ → s.finals = [] →
      s.modesRefused c.val sd.val v = true →
    ∃ t, exec (.cupBrdReqWrite m c sd v) s = .next t ∧ t.flag ⟨.cupBdrv, c.val, sd.val⟩ 31 = true ∧
      s.keepsRegs t [⟨.cupBdrv, c.val, sd.val⟩] ∧ t = { s with regs := t.regs, sent := okTo m :: s.sent }) ∧
  (∀ (s : State) (c : Fin 192) (sd : Fin 4) w, s.live = true → look (s.cup c.val).brdPend sd.val = some w →
    ∃ t, exec (.borderApply c sd) s = .next t ∧ t.reg ⟨.cupBrd, c.val, sd.val⟩ = s.legalModes c.val sd.val w ∧
      look (t.cup c.val).brdPend sd.val = none ∧ s.keepsRegs t [⟨.cupBrd, c.val, sd.val⟩] ∧
      t = { s with regs := t.regs, cups := t.cups }) ∧
  (∀ (s : State) m (c : Fin 192) (sd : Fin 4) v r die, s.accepts m ⟨.cupBdrv, c.val, sd.val⟩ → s.finals = [] →
      s.inHold = false → cupAcross c.val sd.val = some (r, die) → s.cupGone r = false → s.cupDom r = s.cupDom c.val →
    ∃ t, exec (.cupBdrvWrite m c sd v) s = .next t ∧ t.fld ⟨.cupBdrv, c.val, sd.val⟩ 9 0 = bits v 9 0 ∧
      (∀ n, n < 10 → s.flag ⟨.cupBdrv, c.val, sd.val⟩ n = true → bit v n = false →
        t.segMode r ((sd.val + 2) % 4) n = 0 ∧ (t.cup c.val).recheck = true) ∧
      s.keepsRegs t [⟨.cupBdrv, c.val, sd.val⟩, ⟨.cupBrd, r, (sd.val + 2) % 4⟩] ∧
      t = { s with regs := t.regs, cups := t.cups, sent := okTo m :: s.sent }) ∧
  (∀ (s : State) (c : Fin 192), s.live = true → (s.cup c.val).recheck = true → s.shadow c.val = 2 →
    ∃ t, exec (.shadowRecheck c) s = .next t ∧ (t.cup c.val).recheck = false ∧
      t.shadow c.val = (if (resieve (s.cup c.val).shadow (c.val % 4) (s.divGrants c.val) (s.drives c.val)).isSome
        then 3 else 2) ∧
      s.keepsRegs t [⟨.cupLoadStat, c.val, 0⟩] ∧ t = { s with regs := t.regs, cups := t.cups })

/-- CUP_GATE_STOP and CUP_GATE_WAKE (R355, R356): a cup whose AWAKE and port work are absent for 16 ticks is gated and
its lines stop after the next tick; new work starts them again after the next tick, and those of a cup on its way to
DORMANT stop with the tick after it. CAPTURE_RELEASE, READBACK_START and READBACK_DONE (R122, R124, R395): RELEASE
restarts a held cup after the next tick; a readback that may write its extent and gets its lease runs, writes HBM, and
ends its lease. -/
def Obligations.CupsAreGatedCapturedAndReadBack : Prop :=
  (∀ (s : State) (c : Fin 192), s.serving = true → s.cupState c.val = 2 → (s.cup c.val).active.bound 11 = true →
      (s.cup c.val).clocksOn = true → (s.cup c.val).stopTick = none → s.held c.val = false → s.gated c.val = false →
      (s.cup c.val).fab.waitE1 = [] → (s.cup c.val).capWait = [] → s.debugged (s.cupDom c.val) = false →
      (s.cup c.val).awake = false → s.portWork c.val = false → (s.cup c.val).idleSince + 16 ≤ s.tick →
    ∃ t, exec (.cupGateStop c) s = .next t ∧ t.gated c.val = true ∧
      t.cup c.val = { s.cup c.val with stopTick := some s.nextTick } ∧
      s.keepsRegs t [⟨.urnCls, c.val, 0⟩] ∧ t = { s with regs := t.regs, cups := t.cups }) ∧
  (∀ (s : State) (c : Fin 192), s.serving = true → s.gated c.val = true →
      s.portWork c.val = true ∨ (s.cup c.val).awake = true ∨ s.debugged (s.cupDom c.val) = true →
    ∃ t, exec (.cupGateWake c) s = .next t ∧ t.gated c.val = false ∧
      t.cup c.val = { s.cup c.val with
        stopTick := if s.cupTarget c.val = 1 then some s.nextTick else none, startRoot := 16 * s.nextTick,
        idleSince := s.tick } ∧
      s.keepsRegs t [⟨.urnCls, c.val, 0⟩] ∧ t = { s with regs := t.regs, cups := t.cups }) ∧
  (∀ (s : State) m (c : Fin 192) v, s.accepts m ⟨.cupCap, c.val, 0⟩ → bit v 2 = true → s.held c.val = true →
      s.flag ⟨.cupCap, c.val, 0⟩ 2 = false →
    ∃ t, exec (.captureRelease m c v) s = .next t ∧ t.flag ⟨.cupCap, c.val, 0⟩ 2 = true ∧
      t.flag ⟨.cupCap, c.val, 0⟩ 3 = (s.flag ⟨.cupCap, c.val, 0⟩ 3 && !bit v 3) ∧
      t.cup c.val = { s.cup c.val with startRoot := 16 * s.nextTick, capHold := false } ∧
      s.keepsRegs t [⟨.cupCap, c.val, 0⟩] ∧ t = { s with regs := t.regs, cups := t.cups, sent := okTo m :: s.sent }) ∧
  (∀ (s : State) m (c : Fin 192) v d, s.accepts m ⟨.cupRbCmd, c.val, 0⟩ → s.fld ⟨.cupRbCmd, c.val, 0⟩ 31 30 ≠ 1 →
      bits v 3 0 ≠ 0 → s.midDomain m = some d →
      s.mayWrite d (s.pair ⟨.cupRbAddr, c.val, 0⟩ ⟨.cupRbAddrHi, c.val, 0⟩)
        ((regionList (bits v 3 0)).map regionLen).sum = true →
      bit v 3 = false ∨ s.cupState c.val = 1 ∨ s.held c.val = true → s.passYoung c.val = false →
      s.leaseOk .captureReadback [.cup c.val] = true →
    ∃ t, exec (.readbackStart m c v) s = .next t ∧ t.fld ⟨.cupRbCmd, c.val, 0⟩ 31 30 = 1 ∧
      t.fld ⟨.cupRbCmd, c.val, 0⟩ 3 0 = bits v 3 0 ∧
      (t.cup c.val).rbJob = some
        { regions := bits v 3 0, addr := s.pair ⟨.cupRbAddr, c.val, 0⟩ ⟨.cupRbAddrHi, c.val, 0⟩, dom := d,
          since := s.root } ∧
      t.leased .captureReadback (.cup c.val) = true ∧ s.keepsRegs t [⟨.cupRbCmd, c.val, 0⟩] ∧ s.keepsHbm t) ∧
  (∀ (s s' : State) (c : Fin 192) j, s.serving = true → (s.cup c.val).rbJob = some j → j.waiting = false →
      s.leased .captureReadback (.cup c.val) = true →
      s.agentWaits bulkClass j.dom j.addr ((regionList j.regions).map regionLen).sum = false →
      s.hbmPut j.dom j.addr ((regionList j.regions).flatMap fun r => (s.cup c.val).regionBytes r) = (s', true) →
    ∃ t, exec (.readbackDone c) s = .next t ∧ (t.cup c.val).rbJob = none ∧
      t.leased .captureReadback (.cup c.val) = false ∧ t.fld ⟨.cupRbCmd, c.val, 0⟩ 31 30 = 2 ∧
      ((s.cup c.val).deferred = none → s'.keepsHbm t)) ∧
  (∀ (s : State) (c : Fin 192) j, s.serving = true → (s.cup c.val).rbJob = some j → j.waiting = false →
      s.agentWaits bulkClass j.dom j.addr ((regionList j.regions).map regionLen).sum = true →
    exec (.readbackDone c) s = .next s)

/-- The steep pass (R125, R126, R394, R395): a step of the pass takes its lease where it does not hold it, and does
nothing where it gets none or is paused; a single-bit word is counted and corrected, the digest of the active plane is
stored at the end of a cup's part, a pause ends after 50 ms, and a readback that waited for the pass's 10 ms gets its
lease. -/
def Obligations.TheSteepPassChecksConfiguration : Prop :=
  (∀ (s : State) (c : Fin 192) p (f : State → State), s.leafOfCup c.val = some p → s.cupGone c.val = false →
      (s.leaf p).pausedAt = none → s.leased .steepPass (.leaf p) = true → s.passStep c.val f = f s) ∧
  (∀ (s : State) (c : Fin 192) p (f : State → State), s.leafOfCup c.val = some p → s.cupGone c.val = false →
      (s.leaf p).pausedAt = none → s.leased .steepPass (.leaf p) = false →
    (s.leaseOk .steepPass [.leaf p] = true → s.passStep c.val f = f (s.leaseTry .steepPass [.leaf p] 0x00).1 ∧
      (s.leaseTry .steepPass [.leaf p] 0x00).1.leased .steepPass (.leaf p) = true) ∧
    (s.leaseOk .steepPass [.leaf p] = false → s.passStep c.val f = s.logLease 4 .steepPass [.leaf p] 0x00)) ∧
  (∀ (s : State) (c : Fin 192) p (f : State → State), s.leafOfCup c.val = some p →
      s.cupGone c.val = true ∨ (s.leaf p).pausedAt.isSome = true → s.passStep c.val f = s) ∧
  (∀ (s : State) (c : Fin 192) (w : Fin 787600) p, s.serving = true → s.leafOfCup c.val = some p →
      s.cupGone c.val = false → (s.leaf p).pausedAt = none → s.leased .steepPass (.leaf p) = true →
      nget (s.cup c.val).cfgErr ((s.cup c.val).errKey w.val) 0 = 0 →
    exec (.steepPassWord c w .none) s = .next s ∧
    ∀ b, ∃ t, exec (.steepPassWord c w (.single b)) s = .next t ∧
      t.fld ⟨.cupScrub, c.val, 0⟩ 7 0 = min 255 (s.fld ⟨.cupScrub, c.val, 0⟩ 7 0 + 1) ∧
      s.keepsRegs t [⟨.cupScrub, c.val, 0⟩] ∧ t = { s with regs := t.regs }) ∧
  (∀ (s : State) (c : Fin 192) (w : Fin 787600) p, s.serving = true → s.leafOfCup c.val = some p →
      s.cupGone c.val = false → (s.leaf p).pausedAt = none → s.leased .steepPass (.leaf p) = true →
      popCount (nget (s.cup c.val).cfgErr ((s.cup c.val).errKey w.val) 0) = 1 →
    ∃ t, exec (.steepPassWord c w .none) s = .next t ∧
      (t.cup c.val).active.at w.val = (s.cup c.val).active.at w.val ^^^
        nget (s.cup c.val).cfgErr ((s.cup c.val).errKey w.val) 0 ∧
      nget (t.cup c.val).cfgErr ((s.cup c.val).errKey w.val) 0 = 0 ∧
      t.fld ⟨.cupScrub, c.val, 0⟩ 7 0 = min 255 (s.fld ⟨.cupScrub, c.val, 0⟩ 7 0 + 1) ∧
      s.keepsRegs t [⟨.cupScrub, c.val, 0⟩] ∧ t = { s with regs := t.regs, cups := t.cups }) ∧
  (∀ (s : State) (c : Fin 192) p, s.serving = true → s.leafOfCup c.val = some p → s.cupGone c.val = false →
      (s.leaf p).pausedAt = none → s.leased .steepPass (.leaf p) = true → (s.cup c.val).passCut = true →
    ∃ t, exec (.steepPassCupEnd c) s = .next t ∧ t.flag ⟨.cupPdigStat, c.val, 0⟩ 1 = true ∧
      (t.cup c.val).passCut = false ∧ s.keepsRegs t [⟨.cupPdigStat, c.val, 0⟩] ∧
      t = { s with regs := t.regs, cups := t.cups }) ∧
  (∀ (s : State) (c : Fin 192) p, s.serving = true → s.leafOfCup c.val = some p → s.cupGone c.val = false →
      (s.leaf p).pausedAt = none → s.leased .steepPass (.leaf p) = true → (s.cup c.val).passCut = false →
      (s.cup c.val).passUe = false → planeDigest (s.cup c.val).correctedPlane = s.digest .cupEdig c.val →
    ∃ t, exec (.steepPassCupEnd c) s = .next t ∧
      t.digest .cupPdig c.val = planeDigest (s.cup c.val).correctedPlane ∧
      t.pair ⟨.cupPdigTick, c.val, 0⟩ ⟨.cupPdigTickHi, c.val, 0⟩ = s.tick % 2 ^ 64 ∧
      t.reg ⟨.cupPdigStat, c.val, 0⟩ = 1 ∧ t = { s with regs := t.regs, cups := t.cups }) ∧
  (∀ (s : State) (p : Fin 52) t0, s.serving = true → (s.leaf p.val).pausedAt = some t0 → t0 + 12500000 ≤ s.tick →
    ∃ t, exec (.steepPassPauseTimeout p) s = .next t ∧
      t.leaf p.val = { s.leaf p.val with pausedAt := none, resumedAt := some s.tick } ∧
      (∀ p', p' ≠ p.val → t.leaf p' = s.leaf p') ∧ t = { s with leaves := t.leaves }) ∧
  (∀ (s : State) (p : Fin 52) t0 c j, s.serving = true → (s.leaf p.val).resumedAt = some t0 →
      t0 + 2500000 ≤ s.tick → ((s.cupsOfLeaf p.val).find? fun c => (s.cup c).rbJob.any (·.waiting)) = some c →
      (s.cup c).rbJob = some j → s.leaseOk .captureReadback [.cup c] = true →
    ∃ t, exec (.steepPassMinRunExpiry p) s = .next t ∧ (t.cup c).rbJob = some { j with waiting := false } ∧
      t.leased .captureReadback (.cup c) = true ∧ t.regs = s.regs ∧ s.keepsHbm t)

/-! ### Images -/

/-- CUP_LOAD and LOAD_COMPLETE (R112, R114, R127, R309): a load of a library entry takes its lease and is authenticated;
its end fills the shadow plane, or leaves it empty with the code that stopped it. The active plane never changes. The
loads of a leaf end in the order in which they were asked for (R88), one whose image a training stage holds once it can
be read (R256), and one whose lease has run out ends with BUSY, which is the model's choice (log entry 60). -/
def Obligations.LoadsFillTheShadowPlane : Prop :=
  (∀ (s : State) m (c : Fin 192) v, s.accepts m ⟨.cupLoadCmd, c.val, 0⟩ → s.loadDenied c.val v = false →
      (s.cup c.val).loadJob = none → bit v 31 = true → bit v 25 = false → s.inHold = false → s.flipArmed c.val = false →
      (s.nv.libEnt (bits v 15 0)).valid = true → s.leaseOk .shadowLoad [.cup c.val, .libEntry (bits v 15 0)] = true →
    ∃ t, exec (.cupLoad m c v) s = .next t ∧
      (t.cup c.val).loadJob = some { s.authLoad (s.cupDom c.val)
        ((if bits v 27 26 ≤ 1 then bits v 27 26 else s.fld ⟨.cupLoadCmd, c.val, 0⟩ 27 26) == 1) (some (bits v 15 0))
        (s.regionImage 4 (bits v 15 0)) with since := s.root } ∧
      t.shadow c.val = 1 ∧ t.fld ⟨.cupLoadStat, c.val, 0⟩ 31 28 = 1 ∧ t.leased .shadowLoad (.cup c.val) = true ∧
      (t.cup c.val).active = (s.cup c.val).active ∧
      s.keepsRegs t [⟨.cupLoadCmd, c.val, 0⟩, ⟨.cupLoadStat, c.val, 0⟩] ∧ s.keepsHbm t) ∧
  (∀ (s : State) m (c : Fin 192) v, s.accepts m ⟨.cupLoadCmd, c.val, 0⟩ → s.loadDenied c.val v = true →
    exec (.cupLoad m c v) s = .next (s.denyAccess m)) ∧
  (∀ (s : State) m (c : Fin 192) v, s.accepts m ⟨.cupLoadCmd, c.val, 0⟩ → s.loadDenied c.val v = false →
      (s.cup c.val).loadJob ≠ none → bit v 31 = true →
    ∃ t, exec (.cupLoad m c v) s = .next t ∧ t.fld ⟨.cupLoadStat, c.val, 0⟩ 31 28 = 7 ∧
      s.keepsRegs t [⟨.cupLoadStat, c.val, 0⟩] ∧ t = { s with regs := t.regs, sent := okTo m :: s.sent }) ∧
  (∀ (s : State) (c : Fin 192) j, s.live = true → (s.cup c.val).loadJob = some j → s.loadServed c.val = true →
      s.leased .shadowLoad (.cup c.val) = true → j.unread = none →
      j.code = 0 → j.content = none →
      s.sieveFor c.val j.words none = none → planeDigest (toPlane j.words) = j.digest →
    ∃ t, exec (.loadComplete c) s = .next t ∧ (t.cup c.val).shadow = toPlane j.words ∧
      (t.cup c.val).active = (s.cup c.val).active ∧ t.digest .cupSdig c.val = j.digest ∧ t.shadow c.val = 2 ∧
      t.fld ⟨.cupLoadStat, c.val, 0⟩ 31 28 = 2 ∧ (t.cup c.val).loadJob = none ∧
      t.leased .shadowLoad (.cup c.val) = false ∧ s.keepsHbm t) ∧
  (∀ (s : State) (c : Fin 192) j check word, s.live = true → (s.cup c.val).loadJob = some j → s.loadServed c.val = true →
      s.leased .shadowLoad (.cup c.val) = true → j.unread = none →
      j.code = 0 → s.sieveFor c.val j.words j.content = some (check, word) → check < 16 → word < 2 ^ 20 →
    ∃ t, exec (.loadComplete c) s = .next t ∧ t.fld ⟨.cupLoadStat, c.val, 0⟩ 31 28 = 4 ∧
      t.fld ⟨.cupLoadStat, c.val, 0⟩ 27 24 = check ∧ t.fld ⟨.cupLoadStat, c.val, 0⟩ 19 0 = word ∧
      t.shadow c.val = 0 ∧ t.cup c.val = { s.cup c.val with loadJob := none } ∧ s.keepsHbm t) ∧
  (∀ (s : State) (c : Fin 192) j, s.live = true → (s.cup c.val).loadJob = some j → s.loadServed c.val = true →
      s.leased .shadowLoad (.cup c.val) = true → j.unread = none →
      j.code ≠ 0 → j.code < 16 → j.code ≠ 2 →
    ∃ t, exec (.loadComplete c) s = .next t ∧ t.fld ⟨.cupLoadStat, c.val, 0⟩ 31 28 = j.code ∧ t.shadow c.val = 0 ∧
      t.cup c.val = { s.cup c.val with loadJob := none } ∧ s.keepsHbm t) ∧
  (∀ (s : State) (c : Fin 192) j d a, s.live = true → (s.cup c.val).loadJob = some j → s.loadServed c.val = true →
      s.leased .shadowLoad (.cup c.val) = true → j.unread = some (d, a) →
    (s.imageWaits d a = true → exec (.loadComplete c) s = .next s) ∧
    (s.imageWaits d a = false →
      exec (.loadComplete c) s = .next ((s.loadRead (domMid d) c.val none d a j.since).loadTail c.val))) ∧
  (∀ (s : State) (c : Fin 192) j, s.live = true → (s.cup c.val).loadJob = some j →
      s.leased .shadowLoad (.cup c.val) = false →
    ∃ t, exec (.loadComplete c) s = .next t ∧ t.fld ⟨.cupLoadStat, c.val, 0⟩ 31 28 = 7 ∧ t.shadow c.val = 0 ∧
      t.cup c.val = { s.cup c.val with loadJob := none } ∧ s.keepsHbm t) ∧
  (∀ (s : State) (c : Fin 192) p, s.leafOfCup c.val = some p → (s.leaf p).loads.head? ≠ some c.val →
      s.leased .shadowLoad (.cup c.val) = true →
    exec (.loadComplete c) s = .next s)

/-- The image commands (R295, R307, R308, R324): a command whose checks pass is taken up by the Kettle; STORE_WRITE
clears the region's VALID mark and takes the store lease as it begins. -/
def Obligations.ImageCommandsAreTakenUp : Prop :=
  (∀ (s : State) m w v, s.kettleFree m w → s.regionCode (windowDom w) (s.imgJobOf m w 1 v) = 0 →
      lenOk (s.imgJobOf m w 1 v) (s.imgJobOf m w 1 v).dst = true →
      ((s.imgJobOf m w 1 v).region < 2 → (s.imgJobOf m w 1 v).region ≠ s.fwCopy) →
      (s.imgJobOf m w 1 v).srcj = true ∨
        s.mayRead (windowDom w) (s.imgJobOf m w 1 v).src (s.imgJobOf m w 1 v).len = true →
      s.leaseOk .storeWrite [.storeDie, if (s.imgJobOf m w 1 v).region = 4 then .libEntry (s.imgJobOf m w 1 v).lib
        else .region (s.imgJobOf m w 1 v).region] = true →
    ∃ t, exec (.storeWrite m v) s = .next t ∧ s.startsJob t w (s.imgJobOf m w 1 v) ∧
      t.nv.valid (s.imgJobOf m w 1 v).region (s.imgJobOf m w 1 v).lib = false ∧ t.leased .storeWrite .storeDie = true ∧
      t.nv.store = s.nv.store) ∧
  (∀ (s : State) m w v, s.kettleFree m w → s.regionCode (windowDom w) (s.imgJobOf m w 2 v) = 0 →
      lenOk (s.imgJobOf m w 2 v) (s.imgJobOf m w 2 v).src = true →
      s.nv.valid (s.imgJobOf m w 2 v).region (s.imgJobOf m w 2 v).lib = true →
      s.mayWrite (windowDom w) (s.imgJobOf m w 2 v).dst (s.imgJobOf m w 2 v).len = true →
    ∃ t, exec (.storeRead m v) s = .next t ∧ s.startsJob t w (s.imgJobOf m w 2 v) ∧
      t = { s with regs := t.regs, imgJobs := t.imgJobs, sent := okTo m :: s.sent }) ∧
  (∀ (s : State) m w v, s.kettleFree m w → s.regionCode (windowDom w) (s.imgJobOf m w 3 v) = 0 →
    ∃ t, exec (.verify m v) s = .next t ∧ s.startsJob t w (s.imgJobOf m w 3 v) ∧
      t = { s with regs := t.regs, imgJobs := t.imgJobs, sent := okTo m :: s.sent }) ∧
  (∀ (s : State) m v, s.kettleFree m 0 → s.inHold = false → inRange 2 3 (s.imgJobOf m 0 4 v).region = true →
    ∃ t, exec (.reload m v) s = .next t ∧ s.startsJob t 0 (s.imgJobOf m 0 4 v) ∧
      t = { s with regs := t.regs, imgJobs := t.imgJobs, sent := okTo m :: s.sent }) ∧
  (∀ (s : State) m w v, s.kettleFree m w → s.mayRead (windowDom w) (s.imgJobOf m w 5 v).src 144 = true →
      s.mayWrite (windowDom w) (s.imgJobOf m w 5 v).dst 40 = true →
    ∃ t, exec (.wrap m v) s = .next t ∧ s.startsJob t w (s.imgJobOf m w 5 v) ∧
      t = { s with regs := t.regs, imgJobs := t.imgJobs, sent := okTo m :: s.sent }) ∧
  (∀ (s : State) m v, s.kettleFree m 0 → s.mayRead 0x01 (s.imgJobOf m 0 6 v).src 146 = true →
    (∃ t, exec (.progSlot m v) s = .next t ∧ s.startsJob t 0 (s.imgJobOf m 0 6 v) ∧
      t = { s with regs := t.regs, imgJobs := t.imgJobs, sent := okTo m :: s.sent }) ∧
    (∃ t, exec (.revoke m v) s = .next t ∧ s.startsJob t 0 (s.imgJobOf m 0 7 v) ∧
      t = { s with regs := t.regs, imgJobs := t.imgJobs, sent := okTo m :: s.sent }) ∧
    (∃ t, exec (.raiseSvn m v) s = .next t ∧ s.startsJob t 0 (s.imgJobOf m 0 8 v) ∧
      t = { s with regs := t.regs, imgJobs := t.imgJobs, sent := okTo m :: s.sent }))

/-- IMG_COMMAND_DONE, IMG_JDATA_WRITE and IMG_LIBENT_WRITE (R295, R297, R314, R324): VERIFY sets or clears VALID by what
the checks find, RELOAD makes a CHIP reset due with its region, a write from JTAG reaches the store; each ends with its
status. A write of the store pauses while records of the Caddy wait to be written (R395), and one whose lease has run
out ends with BUSY, which is the model's choice (log entry 60). A library entry takes its new domain and loses VALID. -/
def Obligations.ImageCommandsEnd : Prop :=
  (∀ (s : State) (w : Fin 65) j, s.imgJobs = [(w.val, j)] → j.started = true → j.op = 3 →
    ∃ t, exec (.imgCommandDone w) s = .next t ∧
      t.jobEnded w.val (if (s.verifyFault j.region j.lib).isNone then 0 else 4)
        ((s.verifyFault j.region j.lib).getD 0 % 256) ∧
      t.nv.valid j.region j.lib = (s.verifyFault j.region j.lib).isNone ∧
      t.nv.store = s.nv.store ∧ s.keepsRegs t [⟨.imgCmd, w.val, 0⟩, ⟨.imgCmdstat, w.val, 0⟩] ∧
      t = { s with regs := t.regs, nv := t.nv, imgJobs := [] }) ∧
  (∀ (s : State) (w : Fin 65) j, s.imgJobs = [(w.val, j)] → j.started = true → j.op = 4 →
    ∃ t, exec (.imgCommandDone w) s = .next t ∧ t.jobEnded w.val 0 0 ∧ t.reloadRegion = some j.region ∧
      t.chipDue = true ∧ t.chipWhy = 4 ∧ s.keepsRegs t [⟨.imgCmd, w.val, 0⟩, ⟨.imgCmdstat, w.val, 0⟩]) ∧
  (∀ (s : State) (w : Fin 65) j, s.imgJobs = [(w.val, j)] → j.started = true → j.op = 1 → j.srcj = true →
      j.len ≤ j.gathered.length → s.imgWaits w.val j = false → s.leased .storeWrite .storeDie = true →
    ∃ t, exec (.imgCommandDone w) s = .next t ∧ t.jobEnded w.val 0 0 ∧ t.leased .storeWrite .storeDie = false ∧
      (∀ i, i < j.len → t.storeByte (regionBase j.region j.lib + j.dst + i) = j.gathered.getD i 0) ∧
      (∀ a, a < regionBase j.region j.lib + j.dst ∨ regionBase j.region j.lib + j.dst + j.len ≤ a →
        t.storeByte a = s.storeByte a) ∧ s.keepsHbm t) ∧
  (∀ (s : State) j, s.imgJobs = [(0, j)] → j.started = true → j.op = 1 → j.fed = true → s.imgWaits 0 j = false →
      s.leased .storeWrite .storeDie = false →
    ∃ t, exec (.imgCommandDone 0) s = .next t ∧ t.jobEnded 0 2 0 ∧ t.nv.store = s.nv.store ∧ s.keepsHbm t) ∧
  (∀ (s : State) (w : Fin 65) j, look s.imgJobs w.val = some j → s.imgWaits w.val j = true →
    exec (.imgCommandDone w) s = .next s) ∧
  (∀ (s : State) v j, s.accepts jtagMid ⟨.imgJdata, 0, 0⟩ → look s.imgJobs 0 = some j → j.started = true → j.op = 1 →
      j.srcj = true → j.gathered.length < j.len →
    ∃ t, exec (.imgJdataWrite jtagMid v) s = .next t ∧
      look t.imgJobs 0 = some { j with gathered := j.gathered ++ wordBytes v } ∧
      t = { s with imgJobs := t.imgJobs, sent := okTo jtagMid :: s.sent }) ∧
  (∀ (s : State) m w v, s.winOf m = w → s.accepts m ⟨.imgLibent, w, 0⟩ → s.fld ⟨.imgLibsel, w, 0⟩ 9 0 < 819 →
      bits v 7 0 = 1 ∨ inRange 0x10 0x4F (bits v 7 0) = true →
    ∃ t, exec (.imgLibentWrite m v) s = .next t ∧
      t.nv.libEnt (s.fld ⟨.imgLibsel, w, 0⟩ 9 0) = { dom := bits v 7 0, valid := false } ∧
      (∀ n, n ≠ s.fld ⟨.imgLibsel, w, 0⟩ 9 0 → t.nv.libEnt n = s.nv.libEnt n) ∧
      t = { s with nv := { s.nv with lib := t.nv.lib }, sent := okTo m :: s.sent })

/-! ### Leases and the cup's ports -/

/-- The lease commands (R378, R379, R394, R395): a request that the table and the matrix admit is entered and logged,
one they do not is logged as refused, and a readback that comes too soon after the last pause of the steep pass waits; a
lease is renewed unless barred, and ends by its holder, after 10 ms, or 50 ms after a request it defers, in each case
not in the middle of a step that its activity must finish. That LEASE_REQUEST stands for the request of any activity is
the model's choice (log entry 60). -/
def Obligations.LeasesAreGrantedRenewedAndEnded : Prop :=
  (∀ (s : State) cls rs dom e, s.serving = true → s.readYoung cls rs = false → s.leaseOk cls rs = true →
      s.freeLease cls = some e →
    ∃ t, exec (.leaseRequest cls rs dom) s = .next t ∧
      look t.leases e = some
        { cls := cls, rs := rs, dom := dom, started := s.tick, renewed := s.tick, deferAt := s.deferTick cls rs } ∧
      t.leaseLog.head? = some { event := 1, cls := cls, res := rs.headD .storeDie, dom := dom, tick := s.tick } ∧
      s.keepsHbm t) ∧
  (∀ (s : State) cls rs dom, s.serving = true → s.readYoung cls rs = true →
    exec (.leaseRequest cls rs dom) s = .next s) ∧
  (∀ (s : State) cls rs dom, s.serving = true → s.readYoung cls rs = false → s.leaseOk cls rs = false →
    exec (.leaseRequest cls rs dom) s = .next (s.logLease 4 cls rs dom)) ∧
  (∀ (s : State) (e : Fin 512) l, s.serving = true → look s.leases e.val = some l → s.renewBarred l = false →
    exec (.leaseRenew e) s = .next
      ({ s with leases := nset s.leases e.val { l with renewed := s.tick, renewals := l.renewals + 1 } }.logLease 2
        l.cls l.rs l.dom)) ∧
  (∀ (s : State) (e : Fin 512) l, s.serving = true → look s.leases e.val = some l → s.renewBarred l = true →
    exec (.leaseRenew e) s = .next s) ∧
  (∀ (s : State) (e : Fin 512) l, s.serving = true → look s.leases e.val = some l → s.urn.deferred = [] →
    ∃ t, exec (.leaseEnd e) s = .next t ∧ t.leases = erase s.leases e.val ∧
      t.leaseLog.head? = some { event := 3, cls := l.cls, res := l.rs.headD .storeDie, dom := l.dom, tick := s.tick } ∧
      t = { s with leases := t.leases, leaseLog := t.leaseLog, leaves := t.leaves }) ∧
  (∀ (s : State) (e : Fin 512) l, s.serving = true → look s.leases e.val = some l → l.renewed + 2500000 ≤ s.tick →
      s.midStep l = false → l.cls ≠ .eyeScan → l.cls ≠ .laneRetrain → l.cls ≠ .fullRetrain → s.urn.deferred = [] →
    ∃ t, exec (.leaseExpiry e) s = .next t ∧ t.leases = erase s.leases e.val ∧
      t = { s with leases := t.leases, leaseLog := t.leaseLog, leaves := t.leaves }) ∧
  (∀ (s : State) (e : Fin 512) l, s.serving = true → look s.leases e.val = some l → s.midStep l = true →
    exec (.leaseExpiry e) s = .next s) ∧
  (∀ (s : State) (e : Fin 512) l i rs, s.serving = true → look s.leases e.val = some l → l.cls = .eyeScan →
      l.rs = .lane i :: rs → l.renewed + 2500000 ≤ s.tick → s.urn.deferred = [] →
    ∃ t, exec (.leaseExpiry e) s = .next t ∧ t.leases = erase s.leases e.val ∧ t.fld ⟨.lnEscanRes, i, 0⟩ 31 30 = 3 ∧
      t.flag ⟨.lnEscan, i, 0⟩ 31 = false ∧ s.keepsRegs t [⟨.lnEscanRes, i, 0⟩, ⟨.lnEscan, i, 0⟩]) ∧
  (∀ (s : State) (c : Fin 192) t0 e l, s.serving = true → s.urn.deferred = [(c.val, t0)] → t0 + 12500000 ≤ s.tick →
      (s.cup c.val).deferred = some 0 → s.leases = [(e, l)] → readbackLease c.val l = true →
      s.midStep l = true → exec (.deferLimitTimeout ⟨c.val, Nat.lt_trans c.isLt (by decide)⟩) s = .next s) ∧
  (∀ (s : State) (c : Fin 192) t0 e l, s.serving = true → s.urn.deferred = [(c.val, t0)] → t0 + 12500000 ≤ s.tick →
      (s.cup c.val).deferred = some 0 → s.cupGone c.val = false → s.leases = [(e, l)] → readbackLease c.val l = true →
      s.midStep l = false →
    ∃ t, exec (.deferLimitTimeout ⟨c.val, Nat.lt_trans c.isLt (by decide)⟩) s = .next t ∧ t.leases = [] ∧
      t.cupTarget c.val = 0 ∧ (t.cup c.val).deferred = none ∧ t.urn.deferred = []) ∧
  (∀ (s : State) (c : Fin 192) t0, s.serving = true → s.urn.deferred = [(c.val, t0)] → t0 + 12500000 ≤ s.tick →
      (s.cup c.val).deferred = some 0 → s.cupGone c.val = false → (s.leases.any fun e => readbackLease c.val e.2) = false →
    ∃ t, exec (.deferLimitTimeout ⟨c.val, Nat.lt_trans c.isLt (by decide)⟩) s = .next t ∧ t.cupTarget c.val = 0 ∧
      (t.cup c.val).deferred = none ∧ t.urn.deferred = [])

/-- FABRIC_CLOCK_EDGE (R42, R43, R68, R73, R94, R96, R98, R104, R105, R115): at E1 the line's registers load INIT; at a
functional edge the D and T flip-flops, the math blocks and the block-RAM ports of the line take their next values from
the state before the edge, and the ports of the line act; a latch whose line is high shows its D, with RST, SET and CE.
Either way the edge's root cycle is kept. A stream-in port gives up the beat that is taken, a stream-out port keeps the
beat it accepts, the request and queue ports keep what they have accepted and cannot yet pass on, and the status port
gives up the event that is taken. What a port's control outputs show while it offers nothing is open (log entries 2 and
30). -/
def Obligations.ClockEdgesMoveTheFabric : Prop :=
  (∀ (s : State) (c : Fin 192) (n : Fin 4) x y m, s.edgeFalls c.val n.val = true →
      (s.cup c.val).fab.waitE1.contains n.val = true → (x, y, m) ∈ lineRegs (s.cup c.val).active n.val →
    ∃ t, exec (.fabricClockEdge c n) s = .next t ∧
      nget (t.cup c.val).fab.macs (4 * cellIndex x y + m) false = mcInit (s.cup c.val).active x y m ∧
      (t.cup c.val).fab.waitE1.contains n.val = false ∧ nget (t.cup c.val).lastEdge n.val 0 = s.root ∧
      s.keepsHbm t) ∧
  (∀ (s : State) (c : Fin 192) (n : Fin 4), s.edgeFalls c.val n.val = true → s.held c.val = false →
      (s.cup c.val).fab.waitE1.contains n.val = false → (s.cup c.val).active.portsOn n.val = [] →
    ∃ t, exec (.fabricClockEdge c n) s = .next t ∧ nget (t.cup c.val).lastEdge n.val 0 = s.root ∧ s.keepsHbm t ∧
      (∀ x y m, (x, y, m) ∈ lineMacs (s.cup c.val).active n.val false →
        nget (t.cup c.val).fab.macs (4 * cellIndex x y + m) false =
          regNext (s.cup c.val).active x y m (nget (s.fabPre c.val).macs (4 * cellIndex x y + m) false)
            (fun i => s.cellInput .before c.val x y i)
            (chainAllowed x y && chIn (s.cup c.val).active x y && s.sig c.val (x, y + 1, 20))) ∧
      (∀ b, b < 400 → nget (t.cup c.val).fab.math b {} =
        if mathRuns (s.cup c.val).active b && mathLine (s.cup c.val).active b == n.val then
          mathStep (s.cup c.val).active (s.fabPre c.val) b (s.mathPins c.val b 0) (s.mathPins c.val b 1)
            (s.mathPins c.val b 2) (s.mathPins c.val b 3)
        else nget (s.cup c.val).fab.math b {}) ∧
      (∀ b a, b < 200 → a < 2048 → ∀ act e,
        act = (bit ((s.cup c.val).active.bramW b) 2 && !(s.cup c.val).active.allTaps.contains b &&
          !(s.cup c.val).clearingBlock b) →
        e = (let w := (s.cup c.val).active.bramW b
          let port (bb : Bool) (e : FabSt × List (Nat × BitVec 64)) : FabSt × List (Nat × BitVec 64) :=
            if act && (if bb then bits w 7 6 else bits w 5 4) == n.val then
              bramPort (s.cup c.val).active (s.fabPre c.val) e.1 e.2 b bb
                (bramAct w bb (s.bramPins c.val b 0) (s.bramPins c.val b 1) (s.bramPins c.val b 2) (s.bramPins c.val b 3))
            else e
          port true (port false ((s.cup c.val).fab, ((s.cup c.val).instant s.root).2))) →
        nget (t.cup c.val).fab.bram (2048 * b + a) 0 = nget e.1.bram (2048 * b + a) 0 ∧
        nget (t.cup c.val).fab.bramErr (2048 * b + a) 0 = nget e.1.bramErr (2048 * b + a) 0 ∧
        nget (t.cup c.val).fab.bramOut b {} = nget e.1.bramOut b {})) ∧
  (∀ (s : State) c k x y m, s.lineHigh c k = true → k < 4 → (x, y, m) ∈ lineMacs (s.cup c).active k true →
    nget (s.followLatches.cup c).fab.macs (4 * cellIndex x y + m) false = s.sigVal .now sigFuel c (x, y, m)) ∧
  (∀ (s : State) c j, (∀ k a b i, s.lineHigh c k = true → (a, b, i) ∈ lineMacs (s.cup c).active k true →
      4 * cellIndex a b + i ≠ j) →
    nget (s.followLatches.cup c).fab.macs j false = nget (s.cup c).fab.macs j false) ∧
  (∀ (s : State) (c : Fin 192) (n : Fin 4), s.edgeFalls c.val n.val = true → s.held c.val = false →
      (s.cup c.val).fab.waitE1.contains n.val = false → (s.cup c.val).capWait = [] →
    ∃ t u, exec (.fabricClockEdge c n) s = .next t ∧
      u = ((s.cup c.val).active.portsOn n.val).foldl (fun (s : State) w => s.portEdge c.val w)
        ((s.lineEdge c.val n.val).modCup c.val fun x =>
          ({ x with fab := { x.fab with waitE2 := x.fab.waitE2.filter fun k => k != n.val } }).countClears n.val) ∧
      (t.cup c.val).sin = (u.cup c.val).sin ∧ (t.cup c.val).sout = (u.cup c.val).sout ∧
      (t.cup c.val).rq = (u.cup c.val).rq ∧ (t.cup c.val).egHeld = (u.cup c.val).egHeld ∧
      (t.cup c.val).status = (u.cup c.val).status ∧ (t.cup c.val).fab.portC = (u.cup c.val).fab.portC ∧
      (t.cup c.val).fab.portD = (u.cup c.val).fab.portD ∧ t.queues = u.queues) ∧
  (∀ (s : State) c k, k < 4 →
    nget ((s.portEdge c (1 + k)).cup c).sin k {} =
      (if (s.ctlBefore c (1 + k)).testBit 0 && (s.tapIn c (1 + k) 0 0).testBit 0 then
        (nget (s.cup c).sin k {}).take (s.portWidth c (1 + k)) ((s.ctlBefore c (1 + k)).testBit 11)
      else nget (s.cup c).sin k {}) ∧
    (nget ((s.portEdge c (1 + k)).cup c).fab.portC (1 + k) 0).testBit 0 =
      !(nget ((s.portEdge c (1 + k)).cup c).sin k {}).pkts.isEmpty) ∧
  (∀ (s : State) c k p, k < 4 → (s.ctlBefore c (5 + k)).testBit 0 = true → (s.tapIn c (5 + k) 0 0).testBit 0 = true →
      (s.tapIn c (5 + k) 0 0).testBit 1 = false → (s.tapIn c (5 + k) 0 0).testBit 2 = false →
      look (s.cup c).sout k = some p →
      (p ++ slice (s.portData c (5 + k)) 0 (s.portWidth c (5 + k))).length ≤ 9216 →
    look ((s.portEdge c (5 + k)).cup c).sout k = some (p ++ slice (s.portData c (5 + k)) 0 (s.portWidth c (5 + k)))) ∧
  (∀ (s : State) c op tag addr len, (s.ctlBefore c 9).testBit 0 = true → (s.tapIn c 9 0 0).testBit 0 = true →
      ((s.ctlBefore c 9).testBit 16 && (s.tapIn c 9 0 2).testBit 0) = false → (s.cup c).rq.cur = none →
      s.rqHeader c = (op, tag, addr, len) → (s.cup c).rq.takes op tag len = false →
    ((s.portEdge c 9).cup c).rq.held = some (op, tag, addr, len) ∧ (s.portEdge c 9).outstanding = s.outstanding) ∧
  (∀ (s : State) c n a, (s.ctlBefore c 10).testBit 0 = true → (s.tapIn c 10 0 0).testBit 0 = true →
      (s.cup c).egHeld = none → s.egAccess c = (n, some a) → s.egBlocked c n a = true →
    ((s.portEdge c 10).cup c).egHeld = some (n, a)) ∧
  (∀ (s : State) c,
    ((s.portEdge c 11).cup c).status =
      (if (s.ctlBefore c 11).testBit 0 && (s.tapIn c 11 0 0).testBit 0 then ((s.cup c).takeEvent s.tick).status
      else (s.cup c).status) ∧
    ((s.portEdge c 11).cup c).awake = (s.tapIn c 11 0 0).testBit 1)

/-! ### Lanes -/

/-- LOS, LOS_CLEAR, LOL, PCS_ALIGNMENT_LOSS, PCS_ALIGNMENT_LOSS_TIMEOUT, LANE_RETRAIN and LANE_RETRAIN_DONE (R227, R231,
R232): loss of signal and lock show in LN_STAT, a lost lock or lost alignment makes a retrain due, and a retrain takes
its lease, counts unless LOS is set or the reference was lost about it (R231, R393), and ends with lock back, LN_TXEQ as
link training left it in ETH and PCIE role (R202). The event of a loss must not select a BLOCK reset. That a lane in
PCIE role retrains, and counts for a controller's first lane alone, is the model's choice (log entry 92).
LANE_POWER_REQUEST, LANE_POWER_EXIT_DONE and LN_TXEQ_WRITE (R202, R230): a request for a deeper state is carried out at
once where no lease defers it, one for a shallower state waits for its exit; coefficients whose sum is at most 63 are
taken where the role leaves them to the owner. The last lane of a quad to reach LP2 frees the quad's grant (R372), and
in ETH role an exit to L0 is followed by protocol training. What a free grant lets other clients begin is not said here.
EYE_SCAN_POINT, EYE_SCAN_DONE, MARGIN_MEASURE and ELASTIC_BUFFER_OVERRUN (R196, R228, R229): a scan takes its lease and
ends with the errors counted; a measurement stores its height, with the alarm after three low ones; an overrun in coast
is counted and degrades the lane's streams. -/
def Obligations.LanesSignalRetrainAndAreMeasured : Prop :=
  (∀ (s : State) (q : Fin 64) (j : Fin 4), s.serving = true → s.lanePowered (4 * q.val + j.val) = true →
      s.los (4 * q.val + j.val) = false → s.fld ⟨.strSrc, 0x400 + (4 * q.val + j.val), 0⟩ 21 20 ≠ 1 →
    ∃ t, exec (.los q j) s = .next t ∧ t.los (4 * q.val + j.val) = true ∧
      t.flag ⟨.strSrc, 0x400 + (4 * q.val + j.val), 0⟩ 31 = true ∧ s.keepsHbm t) ∧
  (∀ (s : State) (q : Fin 64) (j : Fin 4), s.serving = true →
    ∃ t, exec (.losClear q j) s = .next t ∧ t.los (4 * q.val + j.val) = false ∧ s.keepsHbm t) ∧
  (∀ (s : State) (q : Fin 64) (j : Fin 4), s.serving = true → s.lanePowered (4 * q.val + j.val) = true →
      s.lol (4 * q.val + j.val) = false → s.fld ⟨.strSrc, 0x400 + (4 * q.val + j.val), 0⟩ 21 20 ≠ 1 →
      s.fld ⟨.strSrc, 0x500 + s.engineOf q.val, 0⟩ 21 20 ≠ 1 →
    ∃ t, exec (.lol q j) s = .next t ∧ t.lol (4 * q.val + j.val) = true ∧
      t.flag ⟨.strSrc, 0x400 + (4 * q.val + j.val), 0⟩ 31 = true ∧
      (s.retrainRole (4 * q.val + j.val) = true → (t.lane (4 * q.val + j.val)).due = true) ∧ s.keepsHbm t) ∧
  (∀ (s : State) (q : Fin 64) (n : Fin 4), s.serving = true → s.hasPort q.val n.val = true →
      look (s.quad q.val).pcsLost n.val = none → s.fld ⟨.strSrc, 0x500 + q.val, 0⟩ 21 20 ≠ 1 →
    ∃ t, exec (.pcsAlignmentLoss q n) s = .next t ∧ look (t.quad q.val).pcsLost n.val = some s.tick ∧
      t.lanes = s.lanes ∧ s.keepsHbm t) ∧
  (∀ (s : State) (q : Fin 64) (n : Fin 4) t0 ls, s.serving = true → look (s.quad q.val).pcsLost n.val = some t0 →
      ((s.portsOf q.val).find? fun e => e.1 == n.val) = some (n.val, ls) → t0 + 250000 < s.tick →
    ∃ t, exec (.pcsAlignmentLossTimeout q n) s = .next t ∧
      (∀ l ∈ ls, s.los l = false → (t.lane l).due = true) ∧
      (∀ l, l ∉ ls ∨ s.los l = true → t.lane l = s.lane l) ∧ t = { s with lanes := t.lanes }) ∧
  (∀ (s : State) (q : Fin 64) (j : Fin 4), s.serving = true → (s.lane (4 * q.val + j.val)).due = true →
      (s.lane (4 * q.val + j.val)).retraining = false → s.retrainRole (4 * q.val + j.val) = true →
      s.laneState (4 * q.val + j.val) ≠ 3 → s.leaseOk .laneRetrain [.lane (4 * q.val + j.val)] = true →
      s.los (4 * q.val + j.val) = false → s.afterStop = false → s.linkDowns (4 * q.val + j.val) = true →
      (s.laneCount (4 * q.val + j.val)).length < s.fld ⟨.mntBudget, 0, 0⟩ 31 28 →
    ∃ t, exec (.laneRetrain q j) s = .next t ∧ (t.lane (4 * q.val + j.val)).retraining = true ∧
      (t.lane (4 * q.val + j.val)).due = false ∧
      (t.lane (4 * q.val + j.val)).counted = s.laneCount (4 * q.val + j.val) ++ [s.tick] ∧
      t.leased .laneRetrain (.lane (4 * q.val + j.val)) = true ∧ s.keepsHbm t) ∧
  (∀ (s : State) (q : Fin 64) (j : Fin 4), s.serving = true → (s.lane (4 * q.val + j.val)).due = true →
      (s.lane (4 * q.val + j.val)).retraining = false → s.retrainRole (4 * q.val + j.val) = true →
      s.laneState (4 * q.val + j.val) ≠ 3 → s.leaseOk .laneRetrain [.lane (4 * q.val + j.val)] = true →
      s.los (4 * q.val + j.val) = false → s.afterStop = false → s.linkDowns (4 * q.val + j.val) = true →
      s.fld ⟨.mntBudget, 0, 0⟩ 31 28 ≤ (s.laneCount (4 * q.val + j.val)).length →
      s.fld ⟨.strSrc, 0x400 + (4 * q.val + j.val), 0⟩ 21 20 ≠ 1 →
    ∃ t, exec (.laneRetrain q j) s = .next t ∧ t.laneState (4 * q.val + j.val) = 3 ∧ s.keepsHbm t) ∧
  (∀ (s : State) (q : Fin 64) (j : Fin 4), s.serving = true → (s.lane (4 * q.val + j.val)).due = true →
      (s.lane (4 * q.val + j.val)).retraining = false → s.retrainRole (4 * q.val + j.val) = true →
      s.laneState (4 * q.val + j.val) ≠ 3 → s.leaseOk .laneRetrain [.lane (4 * q.val + j.val)] = true →
      s.los (4 * q.val + j.val) = true ∨ s.afterStop = true ∨ s.linkDowns (4 * q.val + j.val) = false →
    ∃ t, exec (.laneRetrain q j) s = .next t ∧ (t.lane (4 * q.val + j.val)).retraining = true ∧
      (t.lane (4 * q.val + j.val)).due = false ∧
      (t.lane (4 * q.val + j.val)).counted = (s.lane (4 * q.val + j.val)).counted ∧
      t.laneState (4 * q.val + j.val) = s.laneState (4 * q.val + j.val) ∧
      t.leased .laneRetrain (.lane (4 * q.val + j.val)) = true ∧ s.keepsHbm t) ∧
  (∀ (s : State) (q : Fin 64) (j : Fin 4), s.serving = true → (s.lane (4 * q.val + j.val)).retraining = true →
      (s.lane (4 * q.val + j.val)).deferredLp = none →
    ∃ t, exec (.laneRetrainDone q j) s = .next t ∧ (t.lane (4 * q.val + j.val)).retraining = false ∧
      t.lol (4 * q.val + j.val) = false ∧ t.leased .laneRetrain (.lane (4 * q.val + j.val)) = false ∧
      s.keepsRegs t [⟨.lnStat, 4 * q.val + j.val, 0⟩, ⟨.lnTxeq, 4 * q.val + j.val, 0⟩] ∧
      (s.quadRole q.val ≠ 1 → s.quadRole q.val ≠ 2 →
        t.reg ⟨.lnTxeq, 4 * q.val + j.val, 0⟩ = s.reg ⟨.lnTxeq, 4 * q.val + j.val, 0⟩) ∧
      (s.quadRole q.val = 1 ∨ s.quadRole q.val = 2 →
        t.fld ⟨.lnTxeq, 4 * q.val + j.val, 0⟩ 29 24 + t.fld ⟨.lnTxeq, 4 * q.val + j.val, 0⟩ 23 18 +
          t.fld ⟨.lnTxeq, 4 * q.val + j.val, 0⟩ 17 12 + t.fld ⟨.lnTxeq, 4 * q.val + j.val, 0⟩ 11 6 ≤ 63) ∧
      t = { s with regs := t.regs, freeCtr := t.freeCtr, lanes := t.lanes, quads := t.quads, leases := t.leases, leaseLog := t.leaseLog,
                   leaves := t.leaves }) ∧
  (∀ (s : State) m (q : Fin 64) (j : Fin 4) v, s.accepts m ⟨.lnCtl, 4 * q.val + j.val, 0⟩ →
      s.quadRole q.val = 1 ∨ s.quadRole q.val = 4 → bits v 1 0 ≠ 3 → s.laneState (4 * q.val + j.val) < bits v 1 0 →
      (s.leases.any fun e => laneLease (4 * q.val + j.val) e.2) = false →
    ∃ t, exec (.lanePowerRequest m q j v) s = .next t ∧ t.laneState (4 * q.val + j.val) = bits v 1 0 ∧
      t.fld ⟨.lnCtl, 4 * q.val + j.val, 0⟩ 1 0 = bits v 1 0 ∧
      (s.urn.pend = [] → s.keepsHbm t ∧
        (bits v 1 0 = 2 → (∀ i : Fin 4, i ≠ j → 2 ≤ s.laneState (4 * q.val + i.val) ∧
          (s.lane (4 * q.val + i.val)).wantLp = none) → t.grant (192 + q.val) = 0))) ∧
  (∀ (s : State) m (q : Fin 64) (j : Fin 4) v, s.accepts m ⟨.lnCtl, 4 * q.val + j.val, 0⟩ →
      s.quadRole q.val = 1 ∨ s.quadRole q.val = 4 → s.laneState (4 * q.val + j.val) = 1 → bits v 1 0 = 0 →
    ∃ t, exec (.lanePowerRequest m q j v) s = .next t ∧ (t.lane (4 * q.val + j.val)).wantLp = some 0 ∧
      t.laneState (4 * q.val + j.val) = 1 ∧ s.keepsHbm t) ∧
  (∀ (s : State) (q : Fin 64) (j : Fin 4) lp, s.serving = true → (s.lane (4 * q.val + j.val)).wantLp = some lp →
      lp < 3 → s.flag ⟨.lnStat, 4 * q.val + j.val, 0⟩ 29 = false →
      s.laneState (4 * q.val + j.val) ≠ 2 ∨ s.grant (192 + q.val) ≠ 0 →
    ∃ t, exec (.lanePowerExitDone q j) s = .next t ∧ t.laneState (4 * q.val + j.val) = lp ∧
      (t.lane (4 * q.val + j.val)).wantLp = none ∧
      (lp = 0 → s.quadRole q.val = 1 → (t.lane (4 * q.val + j.val)).retraining = true) ∧
      (s.urn.pend = [] → s.keepsHbm t)) ∧
  (∀ (s : State) m (q : Fin 64) (j : Fin 4) v, s.accepts m ⟨.lnTxeq, 4 * q.val + j.val, 0⟩ →
      s.quadRole q.val ≠ 1 → s.quadRole q.val ≠ 2 →
      bits v 29 24 + bits v 23 18 + bits v 17 12 + bits v 11 6 ≤ 63 →
    ∃ t, exec (.lnTxeqWrite m q j v) s = .next t ∧
      t.fld ⟨.lnTxeq, 4 * q.val + j.val, 0⟩ 29 6 = bits v 29 6 ∧
      s.keepsRegs t [⟨.lnTxeq, 4 * q.val + j.val, 0⟩] ∧ t = { s with regs := t.regs, sent := okTo m :: s.sent }) ∧
  (∀ (s : State) m (q : Fin 64) (j : Fin 4) v, s.accepts m ⟨.lnTxeq, 4 * q.val + j.val, 0⟩ →
      s.quadRole q.val = 1 ∨ s.quadRole q.val = 2 ∨ 63 < bits v 29 24 + bits v 23 18 + bits v 17 12 + bits v 11 6 →
    exec (.lnTxeqWrite m q j v) s = .next { s with sent := okTo m :: s.sent }) ∧
  (∀ (s : State) m (q : Fin 64) (j : Fin 4) v, s.accepts m ⟨.lnEscan, 4 * q.val + j.val, 0⟩ →
      s.flag ⟨.lnEscan, 4 * q.val + j.val, 0⟩ 31 = false → bit v 31 = true →
      s.leaseOk .eyeScan [.lane (4 * q.val + j.val)] = true →
    ∃ t, exec (.eyeScanPoint m q j v) s = .next t ∧ t.flag ⟨.lnEscan, 4 * q.val + j.val, 0⟩ 31 = true ∧
      t.fld ⟨.lnEscanRes, 4 * q.val + j.val, 0⟩ 31 30 = 1 ∧ t.leased .eyeScan (.lane (4 * q.val + j.val)) = true ∧
      s.keepsRegs t [⟨.lnEscan, 4 * q.val + j.val, 0⟩, ⟨.lnEscanRes, 4 * q.val + j.val, 0⟩] ∧
      t.lane (4 * q.val + j.val) = { s.lane (4 * q.val + j.val) with dwell := bits v 27 24 } ∧
      (∀ l, l ≠ 4 * q.val + j.val → t.lane l = s.lane l) ∧
      t = { s with regs := t.regs, lanes := t.lanes, leases := t.leases, leaseLog := t.leaseLog,
                   sent := okTo m :: s.sent }) ∧
  (∀ (s : State) m (q : Fin 64) (j : Fin 4) v, s.accepts m ⟨.lnEscan, 4 * q.val + j.val, 0⟩ →
      s.flag ⟨.lnEscan, 4 * q.val + j.val, 0⟩ 31 = false → bit v 31 = true →
      s.leaseOk .eyeScan [.lane (4 * q.val + j.val)] = false →
    ∃ t, exec (.eyeScanPoint m q j v) s = .next t ∧ t.flag ⟨.lnEscan, 4 * q.val + j.val, 0⟩ 31 = false ∧
      t.flag ⟨.lnEscanRes, 4 * q.val + j.val, 0⟩ 29 = true ∧ t.leases = s.leases) ∧
  (∀ (s : State) (q : Fin 64) (j : Fin 4) errors, s.serving = true →
      s.flag ⟨.lnEscan, 4 * q.val + j.val, 0⟩ 31 = true → (s.lane (4 * q.val + j.val)).deferredLp = none →
    ∃ t, exec (.eyeScanDone q j errors) s = .next t ∧ t.flag ⟨.lnEscan, 4 * q.val + j.val, 0⟩ 31 = false ∧
      t.fld ⟨.lnEscanRes, 4 * q.val + j.val, 0⟩ 31 30 = 2 ∧
      t.fld ⟨.lnEscanRes, 4 * q.val + j.val, 0⟩ 28 0 =
        min errors (min (2 ^ 29 - 1) (2 ^ (16 + (s.lane (4 * q.val + j.val)).dwell))) ∧
      t.leased .eyeScan (.lane (4 * q.val + j.val)) = false ∧
      s.keepsRegs t [⟨.lnEscan, 4 * q.val + j.val, 0⟩, ⟨.lnEscanRes, 4 * q.val + j.val, 0⟩]) ∧
  (∀ (s : State) (q : Fin 64) (j : Fin 4) (h : Fin 256), s.serving = true →
      s.lanePowered (4 * q.val + j.val) = true → s.fld ⟨.lnMargin, 4 * q.val + j.val, 0⟩ 7 0 ≠ 0 →
      (s.lane (4 * q.val + j.val)).measuredAt + 250000 * s.fld ⟨.lnMargin, 4 * q.val + j.val, 0⟩ 7 0 ≤ s.tick →
      s.leaseOk .eyeScan [.lane (4 * q.val + j.val)] = true → s.flag ⟨.lnMargin, 4 * q.val + j.val, 0⟩ 31 = false →
      s.fld ⟨.lnMargin, 4 * q.val + j.val, 0⟩ 15 8 ≤ h.val ∨ (s.lane (4 * q.val + j.val)).below < 2 →
    ∃ t, exec (.marginMeasure q j h) s = .next t ∧ t.fld ⟨.lnMargin, 4 * q.val + j.val, 0⟩ 23 16 = h.val ∧
      t.flag ⟨.lnMargin, 4 * q.val + j.val, 0⟩ 31 = false ∧
      (t.lane (4 * q.val + j.val)).below = (if h.val < s.fld ⟨.lnMargin, 4 * q.val + j.val, 0⟩ 15 8
        then min 3 ((s.lane (4 * q.val + j.val)).below + 1) else 0) ∧
      s.keepsRegs t [⟨.lnMargin, 4 * q.val + j.val, 0⟩]) ∧
  (∀ (s : State) (q : Fin 64) (j : Fin 4) (h : Fin 256), s.serving = true →
      s.lanePowered (4 * q.val + j.val) = true → s.fld ⟨.lnMargin, 4 * q.val + j.val, 0⟩ 7 0 ≠ 0 →
      (s.lane (4 * q.val + j.val)).measuredAt + 250000 * s.fld ⟨.lnMargin, 4 * q.val + j.val, 0⟩ 7 0 ≤ s.tick →
      s.leaseOk .eyeScan [.lane (4 * q.val + j.val)] = true →
      h.val < s.fld ⟨.lnMargin, 4 * q.val + j.val, 0⟩ 15 8 → 2 ≤ (s.lane (4 * q.val + j.val)).below →
      s.fld ⟨.strSrc, 0x400 + (4 * q.val + j.val), 0⟩ 21 20 ≠ 1 →
    ∃ t, exec (.marginMeasure q j h) s = .next t ∧ t.flag ⟨.lnMargin, 4 * q.val + j.val, 0⟩ 31 = true ∧
      s.keepsHbm t) ∧
  (∀ (s : State) (q : Fin 64) (j : Fin 4), s.serving = true → s.clk.mode = .coasting →
      s.lanePowered (4 * q.val + j.val) = true →
    ∃ t, exec (.elasticBufferOverrun q j) s = .next t ∧
      t.fld ⟨.lnStat, 4 * q.val + j.val, 0⟩ 23 16 = min 255 (s.fld ⟨.lnStat, 4 * q.val + j.val, 0⟩ 23 16 + 1) ∧
      (∀ n ∈ s.laneStreams (4 * q.val + j.val) true, (t.stream n).degradedAt = some s.tick) ∧
      s.keepsRegs t [⟨.lnStat, 4 * q.val + j.val, 0⟩] ∧
      t = { s with regs := t.regs, streams := t.streams, cups := t.cups })

/-! ### Ethernet ports -/

/-- ETH_FRAME_RECEIVE, CLS_SEL_WRITE, CLS_ACT_WRITE and MERGE_LEG_SILENCE (R206 to R211, R213): a frame with a bad
check, or a codeword that the port's FEC cannot correct, and a frame over 9,600 bytes are discarded under their own
counters; a frame that no entry matches goes with its prefix to the default stream, in whose buffer it waits for the
slots held, or leaves at once on a best-effort tree; the select register loads the staging registers from its entry and
the action register commits them; a silent merge leg is marked. That PORT_MAC is compared first byte most significant,
and that a best-effort packet's latency is none, are the model's choices (log entries 19 and 56). -/
def Obligations.FramesAreCountedClassifiedAndForwarded : Prop :=
  (∀ (s : State) (q : Fin 64) f, s.serving = true → s.portUp q.val f.port.val = true →
      s.burstLanes q.val f.port.val = [] → f.fcsOk = false ∨ (f.fecOk = false ∧ s.portFec q.val f.port.val = true) →
    ∃ t, exec (.ethFrameReceive q f) s = .next t ∧
      t.pair ⟨.portCnt, 4 * q.val + f.port.val, 1⟩ ⟨.portCntHi, 4 * q.val + f.port.val, 1⟩ =
        (s.pair ⟨.portCnt, 4 * q.val + f.port.val, 1⟩ ⟨.portCntHi, 4 * q.val + f.port.val, 1⟩ + 1) % 2 ^ 64 ∧
      s.keepsRegs t [⟨.portCnt, 4 * q.val + f.port.val, 1⟩, ⟨.portCntHi, 4 * q.val + f.port.val, 1⟩] ∧
      t = { s with regs := t.regs }) ∧
  (∀ (s : State) (q : Fin 64) f, s.serving = true → s.portUp q.val f.port.val = true →
      s.burstLanes q.val f.port.val = [] → f.fcsOk = true →
      f.fecOk = true ∨ s.portFec q.val f.port.val = false → 9600 < f.bytes.length + 4 →
    ∃ t, exec (.ethFrameReceive q f) s = .next t ∧
      t.pair ⟨.portCnt, 4 * q.val + f.port.val, 4⟩ ⟨.portCntHi, 4 * q.val + f.port.val, 4⟩ =
        (s.pair ⟨.portCnt, 4 * q.val + f.port.val, 4⟩ ⟨.portCntHi, 4 * q.val + f.port.val, 4⟩ + 1) % 2 ^ 64 ∧
      s.keepsRegs t [⟨.portCnt, 4 * q.val + f.port.val, 4⟩, ⟨.portCntHi, 4 * q.val + f.port.val, 4⟩] ∧
      t = { s with regs := t.regs }) ∧
  (∀ (s : State) (q : Fin 64) f n tr, s.serving = true → s.portUp q.val f.port.val = true →
      s.burstLanes q.val f.port.val = [] → f.fcsOk = true →
      f.fecOk = true ∨ s.portFec q.val f.port.val = false → f.bytes.length ≤ 9200 →
      macControl f.bytes = false →
      numAtBe f.bytes 0 1 % 2 = 1 ∨ numAtBe f.bytes 0 6 = s.portMac q.val f.port.val → ptpAt f.bytes = none →
      s.classify q.val f.port.val f.bytes = none → s.flag ⟨.clsDefault, q.val, 0⟩ 31 = true →
      s.flag ⟨.clsDefault, q.val, 0⟩ 30 = false → s.fld ⟨.clsDefault, q.val, 0⟩ 13 0 = n →
      (s.stream n).tree = some tr → (s.stream n).prep = none → (tr.srcK, tr.srcPort) = quadRouter q.val →
      tr.be = false → (∀ w, (s.stream n).wait.head? = some w → (w.k, w.p) = quadRouter q.val) →
      s.bytesWaiting n + (f.bytes.length + 16) ≤ 65536 → s.rxHeld q.val + (f.bytes.length + 16) ≤ 4194304 →
    ∃ t, exec (.ethFrameReceive q f) s = .next t ∧
      t.stream n = { s.stream n with wait := (s.stream n).wait ++
        [{ owner := .port q.val f.port.val, k := tr.srcK, p := tr.srcPort, bytes := rxPrefix s.tick f.frac.val f.port.val (f.bytes.length + 4) ++ f.bytes }] } ∧
      (∀ i : Fin 8, t.pair ⟨.portCnt, 4 * q.val + f.port.val, i.val⟩ ⟨.portCntHi, 4 * q.val + f.port.val, i.val⟩ =
        (s.pair ⟨.portCnt, 4 * q.val + f.port.val, i.val⟩ ⟨.portCntHi, 4 * q.val + f.port.val, i.val⟩ +
          if i.val = 0 ∨ i.val = 2 then 1 else 0) % 2 ^ 64) ∧
      (∀ n', n' ≠ n → t.stream n' = s.stream n') ∧
      t = { s with regs := t.regs, streams := t.streams }) ∧
  (∀ (s : State) (q : Fin 64) f n tr, s.serving = true → s.portUp q.val f.port.val = true →
      s.burstLanes q.val f.port.val = [] → f.fcsOk = true →
      f.fecOk = true ∨ s.portFec q.val f.port.val = false → f.bytes.length ≤ 9200 →
      macControl f.bytes = false →
      numAtBe f.bytes 0 1 % 2 = 1 ∨ numAtBe f.bytes 0 6 = s.portMac q.val f.port.val → ptpAt f.bytes = none →
      s.classify q.val f.port.val f.bytes = none → s.flag ⟨.clsDefault, q.val, 0⟩ 31 = true →
      s.flag ⟨.clsDefault, q.val, 0⟩ 30 = false → s.fld ⟨.clsDefault, q.val, 0⟩ 13 0 = n →
      (s.stream n).tree = some tr → (s.stream n).prep = none → (tr.srcK, tr.srcPort) = quadRouter q.val →
      tr.be = true → (s.stream n).wait = [] → s.rxHeld q.val + (f.bytes.length + 16) ≤ 4194304 →
      s.rawSinks n tr = [] → (∀ e ∈ s.flitInj, e.1 ∉ tr.routers) →
    ∃ t, exec (.ethFrameReceive q f) s = .next t ∧
      t.sent = .streamPacket n (rxPrefix s.tick f.frac.val f.port.val (f.bytes.length + 4) ++ f.bytes) false :: s.sent ∧
      t.stream n = { s.stream n with srcSop := some s.tick } ∧
      (∀ i : Fin 8, t.pair ⟨.portCnt, 4 * q.val + f.port.val, i.val⟩ ⟨.portCntHi, 4 * q.val + f.port.val, i.val⟩ =
        (s.pair ⟨.portCnt, 4 * q.val + f.port.val, i.val⟩ ⟨.portCntHi, 4 * q.val + f.port.val, i.val⟩ +
          if i.val = 0 ∨ i.val = 2 then 1 else 0) % 2 ^ 64) ∧
      (∀ n', n' ≠ n → t.stream n' = s.stream n') ∧
      t = { s with regs := t.regs, sent := t.sent, streams := t.streams }) ∧
  (∀ (s : State) m (q : Fin 64) v, s.accepts m ⟨.clsSel, q.val, 0⟩ →
    ∃ t, exec (.clsSelWrite m q v) s = .next t ∧
      t.fld ⟨.clsSel, q.val, 0⟩ 9 0 = bits v 9 0 ∧
      (∀ e, nget (s.quad q.val).cls (bits v 9 0) {} = e →
        t.reg ⟨.clsAct, q.val, 0⟩ = e.act ∧ t.reg ⟨.clsKey, q.val, 0⟩ = e.key ∧
        ∀ i : Fin 4, (t.reg ⟨.clsAddr, q.val, i.val⟩).toNat = e.addr.toNat / 2 ^ (32 * i.val) % 2 ^ 32) ∧
      s.keepsRegs t [⟨.clsSel, q.val, 0⟩, ⟨.clsAct, q.val, 0⟩, ⟨.clsKey, q.val, 0⟩, ⟨.clsAddr, q.val, 0⟩,
        ⟨.clsAddr, q.val, 1⟩, ⟨.clsAddr, q.val, 2⟩, ⟨.clsAddr, q.val, 3⟩] ∧
      t = { s with regs := t.regs, sent := okTo m :: s.sent }) ∧
  (∀ (s : State) m (q : Fin 64) v, s.accepts m ⟨.clsAct, q.val, 0⟩ → s.fld ⟨.strSrc, 0x500 + q.val, 0⟩ 21 20 ≠ 1 →
    ∃ t, exec (.clsActWrite m q v) s = .next t ∧ t.flag ⟨.clsAct, q.val, 0⟩ 31 = bit v 31 ∧
      (bit v 31 = true → ∃ e, look (t.quad q.val).cls (s.fld ⟨.clsSel, q.val, 0⟩ 9 0) = some e ∧
        e.act = t.reg ⟨.clsAct, q.val, 0⟩ ∧ e.key = s.reg ⟨.clsKey, q.val, 0⟩ ∧
        ∀ i : Fin 4, e.addr.toNat / 2 ^ (32 * i.val) % 2 ^ 32 = (s.reg ⟨.clsAddr, q.val, i.val⟩).toNat) ∧
      (bit v 31 = false → look (t.quad q.val).cls (s.fld ⟨.clsSel, q.val, 0⟩ 9 0) = none) ∧
      (∀ n, n ≠ s.fld ⟨.clsSel, q.val, 0⟩ 9 0 → look (t.quad q.val).cls n = look (s.quad q.val).cls n) ∧
      s.keepsHbm t ∧
      ((∀ n, n < 4 → s.hasPort q.val n = true → s.portUp q.val n = true) →
        s.keepsRegs t [⟨.clsAct, q.val, 0⟩] ∧
        t = { s with regs := t.regs, quads := t.quads, sent := okTo m :: s.sent })) ∧
  (∀ (s : State) (q : Fin 64) (i : Fin 512) b, s.serving = true → s.flag ⟨.mrgCfg, q.val, i.val⟩ 31 = true →
      (if b then (nget (s.quad q.val).mrg i.val {}).lastB else (nget (s.quad q.val).mrg i.val {}).lastA) +
        usTicks (s.fld ⟨.mrgCfg, q.val, i.val⟩ 29 16) ≤ s.tick →
      s.fld ⟨.strSrc, 0x500 + q.val, 0⟩ 21 20 ≠ 1 →
    ∃ t, exec (.mergeLegSilence q i b) s = .next t ∧
      t.flag ⟨.mrgStat, q.val, i.val⟩ (if b then 30 else 31) = true ∧ s.keepsHbm t)

/-- PAC_CFG_WRITE, PACER_ENQUEUE, PACER_TOKEN, PACKET_TRANSMIT and TXSTAMP_POP (R215 to R219): an entry is committed,
paced with a full bucket or unpaced, with a template or without, but a paced one with TRS or CMAX 0 is not; a stream
packet joins its pacer's queue, or is counted where the queue is full or a flit was damaged; a token is added once TRS
has passed; a port sends a due pacer's head and takes its token; the stamp FIFO gives its head and drops it. -/
def Obligations.PacersAndStampsKeepTheirQueues : Prop :=
  (∀ (s : State) m (q : Fin 64) v k, s.accepts m ⟨.pacCfg, q.val, 0⟩ → s.fld ⟨.pacSel, q.val, 0⟩ 9 0 = k →
      bit v 31 = true → bit v 30 = true → bits v 22 16 ≠ 0 → s.reg ⟨.pacTrs, q.val, 0⟩ ≠ 0 →
      look (s.quad q.val).pac k = none →
    ∃ t, exec (.pacCfgWrite m q v) s = .next t ∧
      (∃ p, look (t.quad q.val).pac k = some p ∧ p.cfg = t.reg ⟨.pacCfg, q.val, 0⟩ ∧
        p.streams = s.reg ⟨.pacStreams, q.val, 0⟩ ∧ p.trs = s.reg ⟨.pacTrs, q.val, 0⟩ ∧ p.queue = [] ∧
        p.tokens = bits p.cfg 22 16 ∧ p.lastTok = s.tick) ∧
      s.keepsRegs t [⟨.pacCfg, q.val, 0⟩] ∧ t = { s with regs := t.regs, quads := t.quads, sent := okTo m :: s.sent }) ∧
  (∀ (s : State) m (q : Fin 64) v k old fresh, s.accepts m ⟨.pacCfg, q.val, 0⟩ → s.fld ⟨.pacSel, q.val, 0⟩ 9 0 = k →
      (bit v 30 = true → bits v 22 16 ≠ 0 ∧ s.reg ⟨.pacTrs, q.val, 0⟩ ≠ 0) → nget (s.quad q.val).pac k {} = old →
      fresh = (bit v 31 && !(old.en && old.paced)) →
    ∃ t, exec (.pacCfgWrite m q v) s = .next t ∧
      nget (t.quad q.val).pac k {} =
        { cfg := t.reg ⟨.pacCfg, q.val, 0⟩, streams := s.reg ⟨.pacStreams, q.val, 0⟩, trs := s.reg ⟨.pacTrs, q.val, 0⟩,
          tokens := if fresh then bits v 22 16 else min old.tokens (bits v 22 16),
          lastTok := if fresh then s.tick else old.lastTok, part := if fresh then 0 else old.part,
          since := if fresh then s.root else old.since, queue := old.queue } ∧
      (∀ i ∈ [(31, 31), (30, 30), (29, 29), (28, 23), (22, 16), (11, 10), (9, 0)],
        t.fld ⟨.pacCfg, q.val, 0⟩ i.1 i.2 = bits v i.1 i.2) ∧
      (∀ i, i ≠ k → nget (t.quad q.val).pac i {} = nget (s.quad q.val).pac i {}) ∧
      s.keepsRegs t [⟨.pacCfg, q.val, 0⟩] ∧ t = { s with regs := t.regs, quads := t.quads, sent := okTo m :: s.sent }) ∧
  (∀ (s : State) m (q : Fin 64) v, s.accepts m ⟨.pacCfg, q.val, 0⟩ → bit v 30 = true →
      s.reg ⟨.pacTrs, q.val, 0⟩ = 0 ∨ bits v 22 16 = 0 →
    ∃ t, exec (.pacCfgWrite m q v) s = .next t ∧ t.quads = s.quads ∧ s.keepsRegs t [⟨.pacCfg, q.val, 0⟩]) ∧
  (∀ (s : State) (q : Fin 64) (n : Fin 16384) data k p, s.serving = true → s.quadRole q.val = 1 →
      s.servedByEven q.val = false →
      ((s.stream n.val).dstAt (quadRouter q.val).1 (quadRouter q.val).2).isSome = true →
      1 ≤ data.length → data.length ≤ 9216 → (s.quad q.val).pac = [(k, p)] → p.en = true → p.names n.val = true →
      p.used + data.length ≤ 65536 →
    ∃ t, exec (.pacerEnqueue q n ⟨data, none⟩) s = .next t ∧
      (nget (t.quad q.val).pac k {}).queue = p.queue ++ [((s.quad q.val).pacSeq, data)] ∧
      (nget (t.quad q.val).pac k {}).tokens = p.tokens ∧
      t = { s with quads := t.quads, streams := t.streams, cups := t.cups }) ∧
  (∀ (s : State) (q : Fin 64) (n : Fin 16384) data k p, s.serving = true → s.quadRole q.val = 1 →
      s.servedByEven q.val = false →
      ((s.stream n.val).dstAt (quadRouter q.val).1 (quadRouter q.val).2).isSome = true →
      1 ≤ data.length → data.length ≤ 9216 → (s.quad q.val).pac = [(k, p)] → p.en = true → p.names n.val = true →
      65536 < p.used + data.length →
    ∃ t, exec (.pacerEnqueue q n ⟨data, none⟩) s = .next t ∧ (t.quad q.val).pac = [(k, p)] ∧
      t.fld ⟨.pacStat, q.val, k⟩ 15 0 = min 65535 (s.fld ⟨.pacStat, q.val, k⟩ 15 0 + 1) ∧
      s.keepsRegs t [⟨.pacStat, q.val, k⟩]) ∧
  (∀ (s : State) (q : Fin 64) (n : Fin 16384) data k p (r : Fin 240), s.serving = true → s.quadRole q.val = 1 →
      s.servedByEven q.val = false →
      ((s.stream n.val).dstAt (quadRouter q.val).1 (quadRouter q.val).2).isSome = true →
      1 ≤ data.length → data.length ≤ 9216 → (s.quad q.val).pac = [(k, p)] → p.en = true → p.names n.val = true →
    ∃ t, exec (.pacerEnqueue q n ⟨data, some r⟩) s = .next t ∧
      t.fld ⟨.pacStat, q.val, k⟩ 15 0 = min 65535 (s.fld ⟨.pacStat, q.val, k⟩ 15 0 + 1) ∧
      t.fld ⟨.rtrErr, r.val, 0⟩ 15 0 = min 65535 (s.fld ⟨.rtrErr, r.val, 0⟩ 15 0 + 1) ∧
      s.keepsRegs t [⟨.pacStat, q.val, k⟩, ⟨.rtrErr, r.val, 0⟩] ∧ t = { s with regs := t.regs }) ∧
  (∀ (s : State) (q : Fin 64) (k : Fin 1024) p, s.serving = true → look (s.quad q.val).pac k.val = some p →
      p.en = true → p.paced = true → p.trs.toNat * 2 ^ 16 ≤ s.pacElapsed p →
    ∃ t, exec (.pacerToken q k) s = .next t ∧
      (nget (t.quad q.val).pac k.val {}).tokens = min p.cmax (p.tokens + 1) ∧
      (nget (t.quad q.val).pac k.val {}).queue = p.queue ∧
      (nget (t.quad q.val).pac k.val {}).part = s.pacElapsed p - p.trs.toNat * 2 ^ 16 ∧
      t = { s with quads := t.quads }) ∧
  (∀ (s : State) (q : Fin 64) (n : Fin 4) (frac : Fin 8) k p i data rest, s.serving = true →
      s.portUp q.val n.val = true → (s.queue (.mgmtTx q)).pkts = [] → (s.quad q.val).pac = [(k, p)] →
      p.due = true ∨ (p.en = true ∧ p.paced = false) → bits p.cfg 11 10 = n.val → p.queue = (i, data) :: rest →
    ∃ t, exec (.packetTransmit q n frac) s = .next t ∧ t.sent = .frame q.val n.val (s.dress q.val p data) :: s.sent ∧
      (bit p.cfg 29 = false → s.dress q.val p data = data) ∧
      (bit p.cfg 29 = true → s.dress q.val p data = fixHeaders
        ((s.template q.val (bits p.cfg 9 0)).take (bits p.cfg 28 23) ++ data.drop (bits p.cfg 28 23))) ∧
      (nget (t.quad q.val).pac k {}).queue = rest ∧
      (nget (t.quad q.val).pac k {}).tokens = (if p.paced then p.tokens - 1 else p.tokens) ∧
      t.pair ⟨.portCnt, 4 * q.val + n.val, 6⟩ ⟨.portCntHi, 4 * q.val + n.val, 6⟩ =
        (s.pair ⟨.portCnt, 4 * q.val + n.val, 6⟩ ⟨.portCntHi, 4 * q.val + n.val, 6⟩ + 1) % 2 ^ 64 ∧
      s.keepsRegs t [⟨.portCnt, 4 * q.val + n.val, 6⟩, ⟨.portCntHi, 4 * q.val + n.val, 6⟩] ∧
      t = { s with regs := t.regs, sent := t.sent, quads := t.quads }) ∧
  (∀ (s : State) m (q : Fin 64) x l, s.reaches m ⟨.txstampHi, q.val, 0⟩ = true →
      s.readVerdict m ⟨.txstampHi, q.val, 0⟩ = .pass → s.fenced m = false → s.latched m ⟨.txstampHi, q.val, 0⟩ = none →
      (s.quad q.val).stamps = x :: l →
    ∃ t, exec (.txstampPop m q) s = .next t ∧ (t.quad q.val).stamps = l ∧
      t.sent = .response { mid := m, tag := 0, code := .ok, bytes := wordBytes (hiWord x.tick) } :: s.sent ∧
      t = { s with quads := t.quads, sent := t.sent })

/-! ### RAW lanes, PCI Express, the TAP and I2C -/

/-- RAW_RX_PACKET, RAW_TX_UNDERRUN, SLIP and SLIP_DONE (R224 to R226): PKT received words of a lane that receives leave
as one packet in the buffer of the lane's stream, which leaves at the slots held, with the prefix that names the lane
(the length in the prefix is free: log entry 2); a lane whose transmit buffer has run empty sends its idle word and
counts, one whose buffer holds words does neither; a slip moves the word boundary by one bit, and until it is done a
write of the lane's control register is ignored. That a packet without a tree counts in RX_NOTREE is the model's choice
(log entry 91). -/
def Obligations.RawLanesPacketiseCountAndSlip : Prop :=
  (∀ (s : State) (q : Fin 64) (j : Fin 4) t0 (frac : Fin 8) data n tr, s.serving = true → s.quadRole q.val = 4 →
      s.flag ⟨.rawCtl, 4 * q.val + j.val, 0⟩ 30 = true → s.laneState (4 * q.val + j.val) = 0 →
      s.los (4 * q.val + j.val) = false → t0 ≤ s.tick →
      data.length = s.fld ⟨.rawCtl, 4 * q.val + j.val, 0⟩ 28 16 * s.rawBytes q.val → data.length + 16 ≤ 9216 →
      s.fld ⟨.rawCtl, 4 * q.val + j.val, 0⟩ 13 0 = n → (s.stream n).tree = some tr → (s.stream n).prep = none →
      (tr.srcK, tr.srcPort) = quadRouter q.val → tr.be = false → (s.stream n).wait = [] →
    ∃ t len, exec (.rawRxPacket q j t0 frac data) s = .next t ∧
      t.stream n = { s.stream n with
        wait := [{ owner := .port q.val j.val, k := tr.srcK, p := tr.srcPort, bytes := leBytes 8 t0 ++ [BitVec.ofNat 8 frac.val, BitVec.ofNat 8 (4 * q.val + j.val)] ++ leBytes 2 len ++ [0, 0, 0, 0] ++ data }] } ∧
      (∀ n', n' ≠ n → t.stream n' = s.stream n') ∧
      t = { s with streams := t.streams, freeCtr := s.freeCtr + 1 }) ∧
  (∀ (s : State) (q : Fin 64) (j : Fin 4) t0 (frac : Fin 8) data n, s.serving = true → s.quadRole q.val = 4 →
      s.flag ⟨.rawCtl, 4 * q.val + j.val, 0⟩ 30 = true → s.laneState (4 * q.val + j.val) = 0 →
      s.los (4 * q.val + j.val) = false → t0 ≤ s.tick →
      data.length = s.fld ⟨.rawCtl, 4 * q.val + j.val, 0⟩ 28 16 * s.rawBytes q.val → data.length + 16 ≤ 9216 →
      s.fld ⟨.rawCtl, 4 * q.val + j.val, 0⟩ 13 0 = n → (s.stream n).tree = none → (s.stream n).prep = none →
      (s.stream n).wait = [] →
    ∃ t, exec (.rawRxPacket q j t0 frac data) s = .next t ∧
      t.pair ⟨.portCnt, 4 * q.val + j.val, 5⟩ ⟨.portCntHi, 4 * q.val + j.val, 5⟩ =
        (s.pair ⟨.portCnt, 4 * q.val + j.val, 5⟩ ⟨.portCntHi, 4 * q.val + j.val, 5⟩ + 1) % 2 ^ 64 ∧
      t = { s with regs := t.regs, freeCtr := s.freeCtr + 1 }) ∧
  (∀ (s : State) (q : Fin 64) (j : Fin 4) t0 (frac : Fin 8) data,
      s.quadRole q.val ≠ 4 ∨ s.flag ⟨.rawCtl, 4 * q.val + j.val, 0⟩ 30 = false ∨ s.laneState (4 * q.val + j.val) ≠ 0 ∨
        s.los (4 * q.val + j.val) = true →
    exec (.rawRxPacket q j t0 frac data) s = .next s) ∧
  (∀ (s : State) (q : Fin 64) (j : Fin 4), s.serving = true → s.quadRole q.val = 4 →
      s.flag ⟨.rawCtl, 4 * q.val + j.val, 0⟩ 29 = true → s.laneState (4 * q.val + j.val) = 0 →
      s.txWaiting (4 * q.val + j.val) = 0 →
    ∃ t, exec (.rawTxUnderrun q j) s = .next t ∧
      t.sent = .raw (4 * q.val + j.val)
        ((List.replicate (s.rawBytes q.val / 4) (wordBytes (s.reg ⟨.rawIdle, 4 * q.val + j.val, 0⟩))).flatten) :: s.sent ∧
      t.fld ⟨.lnStat, 4 * q.val + j.val, 0⟩ 15 8 = min 255 (s.fld ⟨.lnStat, 4 * q.val + j.val, 0⟩ 15 8 + 1) ∧
      s.keepsRegs t [⟨.lnStat, 4 * q.val + j.val, 0⟩] ∧ t = { s with regs := t.regs, sent := t.sent }) ∧
  (∀ (s : State) (q : Fin 64) (j : Fin 4), s.txWaiting (4 * q.val + j.val) ≠ 0 →
    exec (.rawTxUnderrun q j) s = .next s) ∧
  (∀ (s : State) m (q : Fin 64) (j : Fin 4) v, s.accepts m ⟨.rawCtl, 4 * q.val + j.val, 0⟩ →
      s.flag ⟨.rawCtl, 4 * q.val + j.val, 0⟩ 31 = false →
    ∃ t, exec (.slip m q j v) s = .next t ∧ t.flag ⟨.rawCtl, 4 * q.val + j.val, 0⟩ 31 = bit v 31 ∧
      t.fld ⟨.rawCtl, 4 * q.val + j.val, 0⟩ 30 16 = bits v 30 16 ∧
      t.fld ⟨.rawCtl, 4 * q.val + j.val, 0⟩ 13 0 = bits v 13 0 ∧
      s.keepsRegs t [⟨.rawCtl, 4 * q.val + j.val, 0⟩] ∧ t = { s with regs := t.regs, sent := okTo m :: s.sent }) ∧
  (∀ (s : State) m (q : Fin 64) (j : Fin 4) v, s.accepts m ⟨.rawCtl, 4 * q.val + j.val, 0⟩ →
      s.flag ⟨.rawCtl, 4 * q.val + j.val, 0⟩ 31 = true →
    exec (.slip m q j v) s = .next { s with sent := okTo m :: s.sent }) ∧
  (∀ (s : State) (q : Fin 64) (j : Fin 4), s.serving = true → s.flag ⟨.rawCtl, 4 * q.val + j.val, 0⟩ 31 = true →
    ∃ t, exec (.slipDone q j) s = .next t ∧ t.flag ⟨.rawCtl, 4 * q.val + j.val, 0⟩ 31 = false ∧
      t.lane (4 * q.val + j.val) = { s.lane (4 * q.val + j.val) with
        slips := ((s.lane (4 * q.val + j.val)).slips + 1) % (8 * s.rawBytes q.val) } ∧
      (∀ l, l ≠ 4 * q.val + j.val → t.lane l = s.lane l) ∧
      s.keepsRegs t [⟨.rawCtl, 4 * q.val + j.val, 0⟩] ∧ t = { s with regs := t.regs, lanes := t.lanes }) ∧
  (∀ (s : State) (q : Fin 64) (j : Fin 4), s.flag ⟨.rawCtl, 4 * q.val + j.val, 0⟩ 31 = false →
    exec (.slipDone q j) s = .next s)

/-- PCIE_TLP, PERST, PERST_RELEASE and FUNCTION_LEVEL_RESET (R221 to R223, R412): a TLP to an enabled function is one
tray request of its master at its BAR's tray address; a read of a function that is not enabled answers Unsupported
Request; a write of more than 512 bytes is none; a reset of a controller, or of a virtual function, forgets the
outstanding requests of its masters and of no other; a controller out of reset trains its link. That its lanes show that
training as they show a retrain is the model's choice (log entry 92). -/
def Obligations.TlpsBecomeTrayRequestsUntilReset : Prop :=
  (∀ (s : State) (n : Fin 2) (f : Fin 65) tag bar2 off len a, s.serving = true → s.pciePresent n.val = true →
      s.perstHigh n.val = true → legalExtent off len = true → s.fnOn f.val = true → barAddr f.val off bar2 = some a →
      bar2 = false ∨ a < 0x4800000000 → s.mayIssue (fnMid n.val f.val) tag →
      s.clearWay (s.wayOut (fnMid n.val f.val) a) →
    exec (.pcieTlp n f tag bar2 off len none) s = .next
      ((s.issue (fnMid n.val f.val) tag .read a len).readAt (fnMid n.val f.val) tag a len)) ∧
  (∀ (s : State) (n : Fin 2) (f : Fin 65) tag bar2 off data a, s.serving = true → s.pciePresent n.val = true →
      s.perstHigh n.val = true → legalExtent off data.length = true → data.length ≤ 512 → s.fnOn f.val = true →
      barAddr f.val off bar2 = some a → bar2 = false ∨ a < 0x4800000000 → s.mayIssue (fnMid n.val f.val) tag →
      s.clearWay (s.wayOut (fnMid n.val f.val) a) →
    exec (.pcieTlp n f tag bar2 off data.length (some data)) s = .next
      ((s.issue (fnMid n.val f.val) tag .write a data.length).writeAt (fnMid n.val f.val) tag a data)) ∧
  (∀ (s : State) (n : Fin 2) (f : Fin 65) tag off len, s.serving = true → s.pciePresent n.val = true →
      s.perstHigh n.val = true → legalExtent off len = true → s.fnOn f.val = true → 0x4800000000 ≤ off →
      off < 2 ^ 39 → s.mayIssue (fnMid n.val f.val) tag → s.isTenant (fnMid n.val f.val) = false →
    exec (.pcieTlp n f tag true off len none) s = .next
      { s with outstanding := s.outstanding ++ [s.outgoing (fnMid n.val f.val) tag .read off len],
               responses := s.responses ++ [{ mid := fnMid n.val f.val, tag, code := .denied }] }) ∧
  (∀ (s : State) (n : Fin 2) (f : Fin 65) tag bar2 off len, s.serving = true → s.pciePresent n.val = true →
      s.perstHigh n.val = true → legalExtent off len = true → s.fnOn f.val = false →
    exec (.pcieTlp n f tag bar2 off len none) s = .next
      { s with sent := .completion n.val f.val tag 1 [] :: s.sent }) ∧
  (∀ (s : State) (n : Fin 2) (f : Fin 65) tag bar2 off len data, 512 < data.length →
    exec (.pcieTlp n f tag bar2 off len (some data)) s = .next s) ∧
  (∀ (s : State) (n : Fin 2), ∃ t, exec (.perst n) s = .next t ∧ t.perstHigh n.val = false ∧
      t.perstHigh (1 - n.val) = s.perstHigh (1 - n.val) ∧
      (∀ o, o ∈ t.outstanding ↔ o ∈ s.outstanding ∧ ofCtl n.val o.mid = false) ∧
      (∀ o, o ∈ t.responses ↔ o ∈ s.responses ∧ ofCtl n.val o.mid = false) ∧
      (∀ k, blkOf k.name ≠ .pcie → t.reg k = s.reg k) ∧ s.keepsHbm t ∧
      t = { s with regs := t.regs, pins := t.pins, outstanding := t.outstanding, responses := t.responses,
                   fences := t.fences, heldReqs := t.heldReqs, refusals := t.refusals, stalls := t.stalls,
                   hbmHeld := t.hbmHeld, cols := t.cols, latches := t.latches }) ∧
  (∀ (s : State) (n : Fin 2), ∃ t, exec (.perstRelease n) s = .next t ∧ t.perstHigh n.val = true ∧
      t.perstHigh (1 - n.val) = s.perstHigh (1 - n.val) ∧
      (∀ l, l ∈ s.pcieLanes n.val → s.laneState l ≠ 3 →
        t.lane l = { s.lane l with retraining := true, uncounted := true, due := false }) ∧
      (∀ l, l ∉ s.pcieLanes n.val ∨ s.laneState l = 3 → t.lane l = s.lane l) ∧
      t = { s with pins := t.pins, lanes := t.lanes }) ∧
  (∀ (s : State) (n : Fin 2) (v : Fin 64), ∃ t, exec (.functionLevelReset n v) s = .next t ∧
      (∀ o, o ∈ t.outstanding ↔ o ∈ s.outstanding ∧ o.mid ≠ fnMid n.val (v.val + 1)) ∧
      (∀ o, o ∈ t.responses ↔ o ∈ s.responses ∧ o.mid ≠ fnMid n.val (v.val + 1)) ∧
      t = { s with outstanding := t.outstanding, responses := t.responses, fences := t.fences,
                   heldReqs := t.heldReqs, refusals := t.refusals, stalls := t.stalls, hbmHeld := t.hbmHeld,
                   cols := t.cols, latches := t.latches })

/-- JTAG_INSTRUCTION and TAP_RESET (R455): a listed instruction is in force where its mode allows it and any other
behaves as BYPASS; a reset selects IDCODE, which gives out the device's identification and stepping; HIGHZ takes this
device's drive off ERR_N. What EXTEST and CLAMP drive is not said, and which lands HIGHZ reaches is the model's choice
(log entry 108). -/
def Obligations.TheTapSelectsItsInstructions : Prop :=
  (∀ (s : State) code, code = 0x01 ∨ code = 0x02 ∨ code = 0x20 →
    ∃ t, exec (.jtagInstruction code) s = .next t ∧ t.tap = code ∧
      t = { s with pins := { s.pins with ir := code },
                   sent := .tap code (if code = 0x01 then some idcode else none) :: s.sent }) ∧
  (∀ (s : State) (code : Byte), 3 ≤ code.toNat → code.toNat ≤ 7 → s.phase = .recovery ∨ s.phase = .factory →
    ∃ t, exec (.jtagInstruction code) s = .next t ∧ t.tap = code ∧
      t = { s with pins := { s.pins with ir := code },
                   sent := .tap code (if code = 0x01 then some idcode else none) :: s.sent }) ∧
  (∀ (s : State) code, code ≠ 0x01 → code ≠ 0x02 → code ≠ 0x20 →
      code.toNat < 3 ∨ 7 < code.toNat ∨ (s.phase ≠ .recovery ∧ s.phase ≠ .factory) →
    ∃ t, exec (.jtagInstruction code) s = .next t ∧ t.tap = 0xFF ∧
      t = { s with pins := { s.pins with ir := code }, sent := .tap 0xFF none :: s.sent }) ∧
  (∀ s : State, ∃ t, exec .tapReset s = .next t ∧ t.tap = 0x01 ∧
      t = { s with pins := { s.pins with ir := 0x01 }, sent := .tap 0x01 (some idcode) :: s.sent }) ∧
  bits idcode 31 28 = Config.stepping.toNat % 16 ∧ bits idcode 27 12 = 0x5248 ∧ bits idcode 11 1 = 0x6C3 ∧
  bit idcode 0 = true ∧
  (∀ (s : State), s.phase = .recovery ∨ s.phase = .factory →
    ∃ t, exec (.jtagInstruction 0x07) s = .next t ∧ t.errPin = s.pins.errExtLow)

/-- I2C_OFFSET_WRITE and I2C_READ (R453): four bytes set an owner-window offset, and a read returns that register, each
least significant byte first, and 0 for an offset outside the seven blocks that the target reads; a byte written after
the offset is answered with NACK; a read clears no field and takes no latch; and while the Kettle is stopped, before
step 2 or by a session or with the root, either is answered with NACK. The owner token plays no part. -/
def Obligations.TheI2cTargetReadsTheOwnerWindow : Prop :=
  (∀ (s : State) (b : List Byte), s.kettleRuns = true → b.length = 4 →
    exec (.i2cOffsetWrite b) s = .next { s with pins := { s.pins with i2cOff := numAt b 0 4, i2cNack := false } }) ∧
  (∀ (s : State) (b : List Byte), s.kettleRuns = true → 4 < b.length →
    exec (.i2cOffsetWrite b) s = .next { s with pins := { s.pins with i2cOff := numAt b 0 4, i2cNack := true } }) ∧
  (∀ (s : State) k, s.kettleRuns = true → s.pins.i2cOff % 4 = 0 → s.ownerAt s.pins.i2cOff = some k →
      blkOf k.name ∈ [Blk.dev, .clk, .urn, .str, .cad, .tick, .img] →
    exec .i2cRead s = .next { s with pins := { s.pins with i2cNack := false }, sent := .i2c (wordBytes (s.readReg 0x3FF 0 k)) :: s.sent }) ∧
  (∀ s : State, s.kettleRuns = true → s.pins.i2cOff % 4 ≠ 0 ∨ s.ownerAt s.pins.i2cOff = none →
    exec .i2cRead s = .next { s with pins := { s.pins with i2cNack := false }, sent := .i2c [0, 0, 0, 0] :: s.sent }) ∧
  (∀ (s : State) k, s.kettleRuns = true → s.pins.i2cOff % 4 = 0 → s.ownerAt s.pins.i2cOff = some k →
      blkOf k.name ∉ [Blk.dev, .clk, .urn, .str, .cad, .tick, .img] →
    exec .i2cRead s = .next { s with pins := { s.pins with i2cNack := false }, sent := .i2c [0, 0, 0, 0] :: s.sent }) ∧
  (∀ (s : State) (b : List Byte), s.kettleRuns = false →
    exec (.i2cOffsetWrite b) s = .next { s with pins := { s.pins with i2cNack := true } } ∧
      exec .i2cRead s = .next { s with pins := { s.pins with i2cNack := true } }) ∧
  (∀ s : State, s.phase = .inReset ∨ s.phase = .counting ∨ s.rootRuns = false ∨ (∃ e ∈ s.sess, 16 ∈ e.2.halted) →
    s.kettleRuns = false) ∧
  (∀ s : State, s.rootRuns = true → (∀ e ∈ s.sess, 16 ∉ e.2.halted) →
      s.phase = .service ∨ s.phase = .recovery ∨ s.phase = .factory ∨ s.phase = .halted ∨ s.phase = .integrity →
    s.kettleRuns = true)

/-! ### Stacks -/

/-- CG_WRITE, STACK_TEMP_SAMPLE, SELF_REFRESH_ENTRY, SELF_REFRESH_EXIT, SELF_REFRESH_VERIFY and WAYMASK_WRITE (R238,
R251 to R253, R262): the channel map and way masks take what their checks pass and flag what they do not; a reading sets
the temperature and its refresh rate; a stack enters self-refresh with its delays saved and leaves it with them restored
and every pseudo-channel due its verification. -/
def Obligations.StackControllersMapRefreshAndMask : Prop :=
  (∀ (s : State) m (st : Fin 8) v, s.accepts m ⟨.stkCgStart, st.val, 0⟩ → s.stackRanged st.val = false →
      cgLegal v = true →
    ∃ t, exec (.cgWrite m st false v) s = .next t ∧ t.reg ⟨.stkCgStart, st.val, 0⟩ = v ∧
      s.keepsRegs t [⟨.stkCgStart, st.val, 0⟩] ∧ t = { s with regs := t.regs, sent := okTo m :: s.sent }) ∧
  (∀ (s : State) m (st : Fin 8) cfg v, s.accepts m ⟨if cfg then .stkCgCfg else .stkCgStart, st.val, 0⟩ →
      s.stackRanged st.val = true ∨ cfg = false ∧ cgLegal v = false →
    ∃ t, exec (.cgWrite m st cfg v) s = .next t ∧ t.flag ⟨.stkStat, st.val, 0⟩ 26 = true ∧
      s.keepsRegs t [⟨.stkStat, st.val, 0⟩] ∧ t = { s with regs := t.regs, sent := okTo m :: s.sent }) ∧
  (∀ (s : State) m (st : Fin 8) v, s.accepts m ⟨.stkCgCfg, st.val, 0⟩ → s.stackRanged st.val = false →
    ∃ t, exec (.cgWrite m st true v) s = .next t ∧
      t.fld ⟨.stkCgCfg, st.val, 0⟩ 1 0 = (if bits v 1 0 ≤ 2 then bits v 1 0 else s.fld ⟨.stkCgCfg, st.val, 0⟩ 1 0) ∧
      s.keepsRegs t [⟨.stkCgCfg, st.val, 0⟩] ∧ t = { s with regs := t.regs, sent := okTo m :: s.sent }) ∧
  (∀ (s : State) (st : Fin 8) z, s.live = true →
    ∃ t, exec (.stackTempSample st z) s = .next t ∧
      (-128 ≤ z → z ≤ 127 → signed 8 (t.fld ⟨.stkTemp, st.val, 0⟩ 7 0) = z ∧
        signed 8 (t.fld ⟨.stkTemp, st.val, 0⟩ 15 8) = max z (signed 8 (s.fld ⟨.stkTemp, st.val, 0⟩ 15 8))) ∧
      (115 < z → t.fld ⟨.stkTemp, st.val, 0⟩ 31 30 = 3) ∧
      (105 < z → 2 ≤ t.fld ⟨.stkTemp, st.val, 0⟩ 31 30) ∧ (85 < z → 1 ≤ t.fld ⟨.stkTemp, st.val, 0⟩ 31 30) ∧
      (z ≤ 85 → s.fld ⟨.stkTemp, st.val, 0⟩ 31 30 = 0 → t.fld ⟨.stkTemp, st.val, 0⟩ 31 30 = 0) ∧
      (∀ since, z ≤ 82 → s.fld ⟨.stkTemp, st.val, 0⟩ 31 30 = 1 → look (s.stk st.val).coolSince 1 = some since →
        t.fld ⟨.stkTemp, st.val, 0⟩ 31 30 = if s.tick < since + 250000000 then 1 else 0) ∧
      s.keepsRegs t [⟨.stkTemp, st.val, 0⟩] ∧ t = { s with regs := t.regs, stks := t.stks }) ∧
  (∀ (s : State) (st : Fin 8), s.live = true → s.inSr st.val = false → s.flag ⟨.stkCtl, st.val, 0⟩ 31 = true →
      s.srFree st.val = true → (∀ e ∈ (s.stk st.val).cache, e.2.dirty = false ∧ e.2.poison = false) →
    ∃ t, exec (.selfRefreshEntry st) s = .next t ∧ t.inSr st.val = true ∧ (t.stk st.val).cache = [] ∧
      (∀ i, i < 1216 → look (t.stk st.val).saved i = some (s.reg ⟨.pchDly, 32 * st.val + i / 38, i % 38⟩)) ∧
      s.keepsRegs t [⟨.stkStat, st.val, 0⟩] ∧ t = { s with regs := t.regs, stks := t.stks, urn := t.urn }) ∧
  (∀ (s : State) (st : Fin 8), s.live = true → s.inSr st.val = false → s.flag ⟨.stkCtl, st.val, 0⟩ 31 = true →
      s.srFree st.val = true →
    ∃ t, exec (.selfRefreshEntry st) s = .next t ∧ t.inSr st.val = true ∧ (t.stk st.val).cache = []) ∧
  (∀ (s : State) (st : Fin 8), s.inSr st.val = false →
      s.flag ⟨.stkCtl, st.val, 0⟩ 31 = true → s.srFree st.val = false → exec (.selfRefreshEntry st) s = .next s) ∧
  (∀ (s : State) (st : Fin 8) (f : Nat → Word), s.live = true → s.inSr st.val = true →
      (s.stk st.val).saved = ((List.range 1216).map fun i => (i, f i)) →
    ∃ t, exec (.selfRefreshExit st) s = .next t ∧ t.inSr st.val = false ∧
      (∀ i, i < 1216 → t.reg ⟨.pchDly, 32 * st.val + i / 38, i % 38⟩ = f i) ∧
      (∀ h, h < 32 → s.pchRetired (32 * st.val + h) = false → (t.pch (32 * st.val + h)).verify = true) ∧
      s.keepsRegs t (⟨.stkStat, st.val, 0⟩ ::
        (List.range 1216).map fun i => ⟨.pchDly, 32 * st.val + i / 38, i % 38⟩) ∧
      t = { s with regs := t.regs, stks := t.stks, pchs := t.pchs }) ∧
  (∀ (s : State) (st : Fin 8), s.live = true → s.inSr st.val = true →
    ∃ t, exec (.selfRefreshExit st) s = .next t ∧ t.inSr st.val = false ∧
      (∀ h, h < 32 → s.pchRetired (32 * st.val + h) = false → (t.pch (32 * st.val + h)).verify = true) ∧
      ((s.stk st.val).saved = [] → s.keepsRegs t [⟨.stkStat, st.val, 0⟩]) ∧ (t.stk st.val).saved = [] ∧
      t = { s with regs := t.regs, stks := t.stks, pchs := t.pchs }) ∧
  (∀ (s : State) (st : Fin 8) (h : Fin 32) pass, s.live = true → (s.pch (32 * st.val + h.val)).verify = true →
      s.inSr st.val = false →
    ∃ t, exec (.selfRefreshVerify st h pass) s = .next t ∧ (t.pch (32 * st.val + h.val)).verify = false ∧
      (t.pch (32 * st.val + h.val)).retrain =
        (if pass = true ∧ (signed 8 (s.fld ⟨.stkTemp, st.val, 0⟩ 7 0) - (s.stk st.val).srTemp).natAbs ≤ 20
          then (s.pch (32 * st.val + h.val)).retrain
          else some ((s.pch (32 * st.val + h.val)).retrain.getD {})) ∧
      (∀ y, y ≠ 32 * st.val + h.val → t.pch y = s.pch y) ∧ t = { s with pchs := t.pchs }) ∧
  (∀ (s : State) m (st : Fin 8) (n : Fin 66) v, s.accepts m ⟨.stkWaymask, st.val, n.val⟩ →
      n.val = 1 ∨ 2 ≤ n.val ∧ s.maskClash st.val n.val (bits v 15 0) = false →
    ∃ t, exec (.waymaskWrite m st n v) s = .next t ∧ t.fld ⟨.stkWaymask, st.val, n.val⟩ 15 0 = bits v 15 0 ∧
      s.keepsRegs t [⟨.stkWaymask, st.val, n.val⟩] ∧ t = { s with regs := t.regs, sent := okTo m :: s.sent }) ∧
  (∀ (s : State) m (st : Fin 8) v, s.accepts m ⟨.stkWaymask, st.val, 0⟩ →
    exec (.waymaskWrite m st 0 v) s = .next { s with sent := okTo m :: s.sent }) ∧
  (∀ (s : State) m (st : Fin 8) (n : Fin 66) v, s.accepts m ⟨.stkWaymask, st.val, n.val⟩ → 2 ≤ n.val →
      s.maskClash st.val n.val (bits v 15 0) = true →
    ∃ t, exec (.waymaskWrite m st n v) s = .next t ∧ t.flag ⟨.stkWaymask, st.val, n.val⟩ 31 = true ∧
      t.fld ⟨.stkWaymask, st.val, n.val⟩ 15 0 = s.fld ⟨.stkWaymask, st.val, n.val⟩ 15 0 ∧
      s.keepsRegs t [⟨.stkWaymask, st.val, n.val⟩] ∧ t = { s with regs := t.regs, sent := okTo m :: s.sent })

/-- FULL_RETRAIN, PANIC_YIELD_TIMEOUT, RETRAIN_HELD_REPEAT, RETRAIN_STAGE_DONE, DRIFT_TRACK and PATROL_SCRUB_STEP (R249,
R256, R257, R260) and the service of held requests (R240, R241): a retrain starts under its lease unless panic holds it,
goes on after PANIC_YIELD, and runs stage by stage until its centres are written; the request served next has the least
rank; a drift track moves each delay by at most one; a scrub of a line that the cache holds dirty reads no cell. A
retrain begun about a reference-loss stop is not counted (R393). The order among requests is read from R240 and R241
(log entry 102), and the scrub waits as other accesses do (log entry 120). -/
def Obligations.RetrainsRunStageByStage : Prop :=
  (∀ (s : State) (st : Fin 8) (h : Fin 32) r e, s.serving = true →
      (s.pch (32 * st.val + h.val)).retrain = some r → r.active = false →
      s.pchRetired (32 * st.val + h.val) = false → s.stackPanic st.val = false →
      s.leaseOk .fullRetrain [.pch (32 * st.val + h.val), .stack st.val] = true → s.leases = [] →
      s.freeLease .fullRetrain = some e →
    ∃ t, exec (.fullRetrain st h) s = .next t ∧
      (t.pch (32 * st.val + h.val)).retrain = some { r with
        active := true, waitingSince := none, startedAt := if r.stage = 0 then s.tick else r.startedAt } ∧
      t.fld ⟨.pchStat, 32 * st.val + h.val, 0⟩ 31 30 = 1 ∧
      t.leased .fullRetrain (.pch (32 * st.val + h.val)) = true ∧
      s.keepsRegs t [⟨.pchStat, 32 * st.val + h.val, 0⟩, ⟨.stkStat, st.val, 0⟩] ∧
      t = { s with regs := t.regs, pchs := t.pchs, leases := t.leases, leaseLog := t.leaseLog }) ∧
  (∀ (s : State) (st : Fin 8) (h : Fin 32) r, s.serving = true →
      (s.pch (32 * st.val + h.val)).retrain = some r → r.active = false → r.waitingSince = none →
      s.pchRetired (32 * st.val + h.val) = false → s.stackPanic st.val = true →
      s.fld ⟨.strSrc, 0x700 + st.val, 0⟩ 21 20 ≠ 1 →
    ∃ t, exec (.fullRetrain st h) s = .next t ∧
      (t.pch (32 * st.val + h.val)).retrain = some { r with waitingSince := some s.tick, lastRaise := s.tick } ∧
      t.flag ⟨.stkStat, st.val, 0⟩ 27 = true ∧ s.keepsHbm t) ∧
  (∀ (s : State) (st : Fin 8) (h : Fin 32) r t0, s.serving = true →
      (s.pch (32 * st.val + h.val)).retrain = some r → r.waitingSince = some t0 →
      s.fld ⟨.stkCtl, st.val, 0⟩ 7 0 ≠ 0 → t0 + 250000 * s.fld ⟨.stkCtl, st.val, 0⟩ 7 0 ≤ s.tick →
      s.leased .fullRetrain (.pch (32 * st.val + h.val)) = true →
    ∃ t, exec (.panicYieldTimeout st h) s = .next t ∧
      (t.pch (32 * st.val + h.val)).retrain = some { r with
        active := true, waitingSince := none, startedAt := if r.stage = 0 then s.tick else r.startedAt } ∧
      s.keepsRegs t [⟨.pchStat, 32 * st.val + h.val, 0⟩, ⟨.stkStat, st.val, 0⟩] ∧
      t = { s with regs := t.regs, pchs := t.pchs }) ∧
  (∀ (s : State) (st : Fin 8) (h : Fin 32) r, s.serving = true →
      (s.pch (32 * st.val + h.val)).retrain = some r → r.waitingSince.isSome = true →
      r.lastRaise + 25000000 ≤ s.tick →
    ∃ t, exec (.retrainHeldRepeat st h) s = .next t ∧
      (t.pch (32 * st.val + h.val)).retrain = some { r with lastRaise := s.tick } ∧ s.keepsHbm t) ∧
  (∀ (s : State) (st : Fin 8) (h : Fin 32) r res, s.serving = true →
      (s.pch (32 * st.val + h.val)).retrain = some r → r.active = true → r.stage < 3 →
      (∀ i, i < 256 → s.rtpEn (256 * st.val + i) = false) →
      s.retrainDue (32 * st.val + h.val) = false → s.stackPanic st.val = false →
      s.leased .fullRetrain (.pch (32 * st.val + h.val)) = true → s.hbmHeld = [] →
    ∃ t, exec (.retrainStageDone st h res) s = .next t ∧
      (t.pch (32 * st.val + h.val)).retrain = some { r with
        stage := r.stage + 1, waitingSince := none } ∧
      s.keepsRegs t [⟨.pchStat, 32 * st.val + h.val, 0⟩, ⟨.stkStat, st.val, 0⟩] ∧
      t = { s with regs := t.regs, pchs := t.pchs }) ∧
  (∀ (s : State) (st : Fin 8) (h : Fin 32) r res, s.serving = true →
      (s.pch (32 * st.val + h.val)).retrain = some r → r.active = true → 3 ≤ r.stage →
      (∀ i, i < 256 → s.rtpEn (256 * st.val + i) = false) → trainSpares res = some [] →
      (s.stk st.val).deferredSr = false → s.hbmHeld = [] →
    ∃ t, exec (.retrainStageDone st h res) s = .next t ∧ (t.pch (32 * st.val + h.val)).retrain = none ∧
      (t.pch (32 * st.val + h.val)).done = (s.pch (32 * st.val + h.val)).done ++
        (if s.afterStopAt r.startedAt then [] else [(s.tick, r.startedAt)]) ∧
      t.fld ⟨.pchStat, 32 * st.val + h.val, 0⟩ 31 30 = 0 ∧
      (∀ b w d, b < 38 → centres res b = some (w, d) →
        t.fld ⟨.pchDly, 32 * st.val + h.val, b⟩ 23 16 = d ∧ t.fld ⟨.pchDly, 32 * st.val + h.val, b⟩ 15 8 = w ∧
        t.fld ⟨.pchDly, 32 * st.val + h.val, b⟩ 7 0 = d) ∧
      t.leased .fullRetrain (.pch (32 * st.val + h.val)) = false ∧ s.keepsHbm t) ∧
  (∀ (s : State) (st : Fin 8) (h : Fin 32) corr e, s.serving = true → s.inSr st.val = false →
      s.pchRetired (32 * st.val + h.val) = false → s.pchBusy (32 * st.val + h.val) = false →
      s.leaseOk .driftTrack [.pch (32 * st.val + h.val)] = true → s.leases = [] →
      s.freeLease .driftTrack = some e → s.flag ⟨.pchStat, 32 * st.val + h.val, 0⟩ 29 = true →
    ∃ t, exec (.driftTrack st h corr true) s = .next t ∧
      (∀ b r w, b < 38 → corr[b]? = some (r, w) →
        t.fld ⟨.pchDly, 32 * st.val + h.val, b⟩ 7 0 = driftBy (s.fld ⟨.pchDly, 32 * st.val + h.val, b⟩ 7 0) r ∧
        t.fld ⟨.pchDly, 32 * st.val + h.val, b⟩ 15 8 = driftBy (s.fld ⟨.pchDly, 32 * st.val + h.val, b⟩ 15 8) w ∧
        t.fld ⟨.pchDly, 32 * st.val + h.val, b⟩ 23 16 = s.fld ⟨.pchDly, 32 * st.val + h.val, b⟩ 23 16) ∧
      (∀ k, k.name ≠ .pchDly ∨ k.i ≠ 32 * st.val + h.val → t.reg k = s.reg k) ∧ t.leases = [] ∧
      t = { s with regs := t.regs, leaseLog := t.leaseLog }) ∧
  (∀ (s : State) st p h, s.hbmPick st p = some h → h ∈ s.hbmHeld ∧
      ∀ older h' younger, s.hbmHeld = older ++ h' :: younger → s.hbmServable st p older h' = true →
        s.hbmRank h ≤ s.hbmRank h') ∧
  (∀ (d : Nat) (z : Int), d < 256 → (driftBy d z : Int) - d ≤ 1 ∧ (d : Int) - driftBy d z ≤ 1 ∧ driftBy d z < 256) ∧
  (∀ (s : State) (st : Fin 8) (line : Fin 603979776) l e, s.serving = true →
      s.flag ⟨.stkScrub, st.val, 0⟩ 31 = true → s.inSr st.val = false → s.stackPanic st.val = false →
      s.pchRetired (s.pchOf (64 * (st.val * (stackBytes / 64) + line.val))) = false →
      s.agentWaits bulkClass 0x00 (64 * (st.val * (stackBytes / 64) + line.val)) 64 = false →
      s.leaseOk .patrolScrub [.pch (s.pchOf (64 * (st.val * (stackBytes / 64) + line.val)))] = true →
      s.leases = [] → s.freeLease .patrolScrub = some e → (s.stk st.val).hit line.val = some l → l.dirty = true →
    ∃ t, exec (.patrolScrubStep st line) s = .next t ∧ t.leases = [] ∧ t = { s with leaseLog := t.leaseLog }) ∧
  (∀ (s : State) (st : Fin 8) (line : Fin 603979776) e, s.serving = true →
      s.flag ⟨.stkScrub, st.val, 0⟩ 31 = true → s.inSr st.val = false → s.stackPanic st.val = false →
      s.pchRetired (s.pchOf (64 * (st.val * (stackBytes / 64) + line.val))) = false →
      s.agentWaits bulkClass 0x00 (64 * (st.val * (stackBytes / 64) + line.val)) 64 = false →
      s.leaseOk .patrolScrub [.pch (s.pchOf (64 * (st.val * (stackBytes / 64) + line.val)))] = true →
      s.leases = [] → s.freeLease .patrolScrub = some e → (s.stk st.val).hit line.val = none →
      nearPoison (s.stored (st.val * (stackBytes / 64) + line.val)) = true →
    ∃ t, exec (.patrolScrubStep st line) s = .next t ∧ t.leases = [] ∧
      t.fld ⟨.stkScrub, st.val, 0⟩ 7 0 = min 255 (s.fld ⟨.stkScrub, st.val, 0⟩ 7 0 + 1) ∧
      s.keepsRegs t [⟨.stkScrub, st.val, 0⟩] ∧
      t = { s with regs := t.regs, banks := t.banks, leaseLog := t.leaseLog })

/-! ### Real-time ports and ranges -/

/-- RTP_ENABLE, RTP_WRITE_PACKET, RTP_BOUNDARY and RTP_PACKET_SEND (R243 to R246): a port that meets its conditions is
enabled and one that does not says so; a packet goes into the next slot of its ring, or is discarded and counted; a
boundary begins the newest complete frame, and its packets go onto the port's stream, whose slots carry them. The first
frame's number, the bytes that fill a slot, and that a packet without a tree counts in DROPPED are the model's choices
(log entries 20, 45 and 91). -/
def Obligations.RealTimePortsStoreAndSendFrames : Prop :=
  (∀ (s : State) m (st : Fin 8) v x,
      256 * st.val + s.fld ⟨.rtpSel, st.val, windowOf ((s.midDomain m).getD 0)⟩ 7 0 = x →
      s.accepts m ⟨.rtpCfg, x, 0⟩ → s.rtpEn x = false → bit v 31 = true → bit v 30 = false → s.rtpRetired x = false →
      s.fld ⟨.traySent, s.rtpStream x, 0⟩ 7 0 = s.rtpDom x → s.ringOk x (s.rtpDom x) true = true →
      s.meetsRetired (s.rtpBase x) (s.rtpLen x) = false →
    ∃ t, exec (.rtpEnable m st v) s = .next t ∧ t.rtpEn x = true ∧ t.rtpReads x = false ∧ t.rtp x = {} ∧
      s.keepsRegs t [⟨.rtpCfg, x, 0⟩] ∧ t = { s with regs := t.regs, rtps := t.rtps, sent := okTo m :: s.sent }) ∧
  (∀ (s : State) m (st : Fin 8) v x y,
      256 * st.val + s.fld ⟨.rtpSel, st.val, windowOf ((s.midDomain m).getD 0)⟩ 7 0 = x →
      s.accepts m ⟨.rtpCfg, x, 0⟩ → s.rtpEn x = false → bit v 31 = true → bit v 30 = true → s.rtpRetired x = false →
      y = x / 256 * 256 + bits v 7 0 → s.rtpEn y = true → s.rtpReads y = false → s.rtpDom y = s.rtpDom x →
      s.fld ⟨.traySent, s.rtpStream x, 0⟩ 7 0 = s.rtpDom x → s.ringOk y (s.rtpDom x) false = true →
      s.meetsRetired (s.rtpBase y) (s.rtpLen y) = false →
    ∃ t, exec (.rtpEnable m st v) s = .next t ∧ t.rtpEn x = true ∧ t.rtpReads x = true ∧ t.rtpSrc x = y ∧
      (s.tick ≤ s.pair ⟨.rtpStart, x, 0⟩ ⟨.rtpStartHi, x, 0⟩ → t.rtp x = {}) ∧
      s.keepsRegs t [⟨.rtpCfg, x, 0⟩] ∧ t = { s with regs := t.regs, rtps := t.rtps, sent := okTo m :: s.sent }) ∧
  (∀ (s : State) m (st : Fin 8) v x y,
      256 * st.val + s.fld ⟨.rtpSel, st.val, windowOf ((s.midDomain m).getD 0)⟩ 7 0 = x →
      s.accepts m ⟨.rtpCfg, x, 0⟩ → s.rtpEn x = false → bit v 31 = true → bit v 30 = true → s.rtpRetired x = false →
      y = x / 256 * 256 + bits v 7 0 → s.rtpEn y = true → s.rtpReads y = false → s.rtpDom y = s.rtpDom x →
      s.fld ⟨.traySent, s.rtpStream x, 0⟩ 7 0 = s.rtpDom x → s.ringOk y (s.rtpDom x) false = true →
      s.meetsRetired (s.rtpBase y) (s.rtpLen y) = true →
    ∃ t, exec (.rtpEnable m st v) s = .next t ∧ t.rtpEn x = false ∧ t.rtpRetired x = true ∧
      (∀ tr d, (s.stream (s.rtpStream x)).tree = some tr → d < tr.dsts.length →
        nget (t.stream (s.rtpStream x)).dstState d 0 = 4) ∧
      s.keepsRegs t [⟨.rtpCfg, x, 0⟩, ⟨.rtpStat, x, 0⟩] ∧
      t = { s with regs := t.regs, streams := t.streams, cups := t.cups, sent := okTo m :: s.sent }) ∧
  (∀ (s : State) m (st : Fin 8) v x,
      256 * st.val + s.fld ⟨.rtpSel, st.val, windowOf ((s.midDomain m).getD 0)⟩ 7 0 = x →
      s.accepts m ⟨.rtpCfg, x, 0⟩ → s.rtpEn x = false → bit v 31 = false →
    ∃ t, exec (.rtpEnable m st v) s = .next t ∧ t.rtpEn x = false ∧ t.rtpReads x = bit v 30 ∧
      t.fld ⟨.rtpCfg, x, 0⟩ 27 24 = bits v 27 24 ∧ t.fld ⟨.rtpCfg, x, 0⟩ 7 0 = bits v 7 0 ∧
      s.keepsRegs t [⟨.rtpCfg, x, 0⟩] ∧ t = { s with regs := t.regs, sent := okTo m :: s.sent }) ∧
  (∀ (s : State) m (st : Fin 8) v x,
      256 * st.val + s.fld ⟨.rtpSel, st.val, windowOf ((s.midDomain m).getD 0)⟩ 7 0 = x →
      s.accepts m ⟨.rtpCfg, x, 0⟩ → s.rtpEn x = true → bit v 31 = true →
    ∃ t, exec (.rtpEnable m st v) s = .next t ∧
      t.reg ⟨.rtpCfg, x, 0⟩ = putBits (s.reg ⟨.rtpCfg, x, 0⟩) 27 24 (bits v 27 24) ∧
      (s.rtpReads x = false → t.flag ⟨.rtpStat, x, 0⟩ 31 =
        (!s.rtpRetired x && decide (t.rtpThreshold x ≤ s.rtpLevel x))) ∧
      s.keepsRegs t [⟨.rtpCfg, x, 0⟩, ⟨.rtpStat, x, 0⟩] ∧ t = { s with regs := t.regs, sent := okTo m :: s.sent }) ∧
  (∀ (s : State) m (st : Fin 8) v x,
      256 * st.val + s.fld ⟨.rtpSel, st.val, windowOf ((s.midDomain m).getD 0)⟩ 7 0 = x →
      s.accepts m ⟨.rtpCfg, x, 0⟩ → s.rtpEn x = false → bit v 31 = true →
      s.fld ⟨.traySent, s.rtpStream x, 0⟩ 7 0 ≠ s.rtpDom x →
    ∃ t, exec (.rtpEnable m st v) s = .next t ∧ t.rtpEn x = false ∧ t.flag ⟨.rtpStat, x, 0⟩ 29 = true ∧
      s.keepsRegs t [⟨.rtpCfg, x, 0⟩, ⟨.rtpStat, x, 0⟩] ∧ t = { s with regs := t.regs, sent := okTo m :: s.sent }) ∧
  (∀ (s : State) m (st : Fin 8) v x,
      256 * st.val + s.fld ⟨.rtpSel, st.val, windowOf ((s.midDomain m).getD 0)⟩ 7 0 = x →
      s.accepts m ⟨.rtpCfg, x, 0⟩ → s.rtpEn x = true → bit v 31 = false →
    ∃ t, exec (.rtpEnable m st v) s = .next t ∧ t.rtpEn x = false ∧ t.flag ⟨.rtpStat, x, 0⟩ 31 = false ∧
      t.rtp x = {} ∧ s.keepsRegs t [⟨.rtpCfg, x, 0⟩, ⟨.rtpStat, x, 0⟩] ∧
      t = { s with regs := t.regs, rtps := t.rtps, sent := okTo m :: s.sent }) ∧
  (∀ (s : State) (st : Fin 8) (i : Fin 256) data x k r a0, 256 * st.val + i.val = x → s.serving = true →
      s.dstAtStack st.val (s.rtpStream x) = some k → s.rtpEn x = true → s.rtpReads x = false →
      s.rtpRetired x = false → 1 ≤ data.length → data.length ≤ 9216 → data.length + 64 ≤ s.rtpSize x →
      (s.rtp x).buf = [] → s.slotHeld x (s.rtp x).slot = false → s.rtpBase x % 64 = 0 →
      a0 = s.rtpBase x + (s.rtp x).slot * s.rtpSize x →
      (∀ a, a0 ≤ a → a < a0 + s.rtpSize x → s.hbmRight (s.rtpDom x) a true = some r ∧ s.groupRetired a = false) →
      s.rangeState r = 2 → (s.range r).wcnt + 256 < rekeyAt →
    ∃ t, exec (.rtpWritePacket st i ⟨data, none⟩) s = .next t ∧ (t.rtp x).slot = ((s.rtp x).slot + 1) % s.rtpSlots x ∧
      (t.rtp x).seq = ((s.rtp x).seq + 1) % 2 ^ 32 ∧ (t.rtp x).buf = [] ∧ (t.rtp x).gap = false ∧
      ((s.stk (stackOf a0)).wayOf (a0 / 64 % (stackBytes / 64)) = none → (s.stk (stackOf a0)).injBytes = 0 →
        (s.stk (stackOf a0)).injTag = false →
        (∀ l, 0 < l → l < s.rtpSize x / 64 → s.lineCell (a0 / 64 + l) ≠ s.lineCell (a0 / 64)) →
        ∀ b ct, b < 72 → ct = xts aesEnc (s.range r).k1 (s.range r).k2 (unitNo (s.range r).gen (a0 / 64))
            (leBytes 8 s.tick ++ leBytes 4 (s.rtp x).seq ++ leBytes 2 data.length ++
              [BitVec.ofNat 8 ((if s.rtpEnds x data then 1 else 0) + (if (s.rtp x).gap then 2 else 0))] ++
              List.replicate 49 0) →
          t.cell (72 * s.lineCell (a0 / 64) + b) =
            (codeword ct (lineTag (s.range r).k2 (unitNo (s.range r).gen (a0 / 64)) ct)).getD b 0) ∧
      (∀ a, (∀ l, l < s.rtpSize x / 64 → a / 72 ≠ s.lineCell (a0 / 64 + l)) → t.cell a = s.cell a)) ∧
  (∀ (s : State) (st : Fin 8) (i : Fin 256) data x k, 256 * st.val + i.val = x → s.serving = true →
      s.dstAtStack st.val (s.rtpStream x) = some k → s.rtpEn x = true → s.rtpReads x = false →
      s.rtpRetired x = false → 1 ≤ data.length → data.length ≤ 9216 → data.length + 64 ≤ s.rtpSize x →
      (s.rtp x).buf = [] → s.slotHeld x (s.rtp x).slot = true →
    ∃ t, exec (.rtpWritePacket st i ⟨data, none⟩) s = .next t ∧ t.rtp x = { s.rtp x with buf := [(data, s.tick)] } ∧
      s.keepsHbm t) ∧
  (∀ (s : State) (st : Fin 8) (i : Fin 256) data x k, 256 * st.val + i.val = x → s.serving = true →
      s.dstAtStack st.val (s.rtpStream x) = some k → s.rtpEn x = true → s.rtpReads x = false →
      s.rtpRetired x = false → 1 ≤ data.length → data.length ≤ 9216 → s.rtpSize x < data.length + 64 →
    ∃ t, exec (.rtpWritePacket st i ⟨data, none⟩) s = .next t ∧ (t.rtp x).gap = true ∧ (t.rtp x).slot = (s.rtp x).slot ∧
      (t.rtp x).buf = (s.rtp x).buf ∧
      t.fld ⟨.rtpStat, x, 0⟩ 23 16 = min 255 (s.fld ⟨.rtpStat, x, 0⟩ 23 16 + 1) ∧ s.keepsHbm t) ∧
  (∀ (s : State) (st : Fin 8) (i : Fin 256) data x k (k' : Fin 240), 256 * st.val + i.val = x → s.serving = true →
      s.dstAtStack st.val (s.rtpStream x) = some k → s.rtpEn x = true → s.rtpReads x = false →
      1 ≤ data.length → data.length ≤ 9216 →
    ∃ t, exec (.rtpWritePacket st i ⟨data, some k'⟩) s = .next t ∧ t.rtp x = { s.rtp x with gap := true } ∧
      t.fld ⟨.rtpStat, x, 0⟩ 23 16 = min 255 (s.fld ⟨.rtpStat, x, 0⟩ 23 16 + 1) ∧
      t.fld ⟨.rtrErr, k'.val, 0⟩ 15 0 = min 65535 (s.fld ⟨.rtrErr, k'.val, 0⟩ 15 0 + 1) ∧
      s.keepsRegs t [⟨.rtpStat, x, 0⟩, ⟨.rtrErr, k'.val, 0⟩] ∧ t = { s with regs := t.regs, rtps := t.rtps }) ∧
  (∀ (s : State) (st : Fin 8) (i : Fin 256) data bad, s.rtpEn (256 * st.val + i.val) = false ∨
      s.rtpReads (256 * st.val + i.val) = true → exec (.rtpWritePacket st i ⟨data, bad⟩) s = .next s) ∧
  (∀ (s : State) (st : Fin 8) (i : Fin 256) x f, 256 * st.val + i.val = x → s.serving = true → s.rtpEn x = true →
      s.rtpReads x = true → s.rtpRetired x = false → (s.rtp x).boundary ≠ 0 →
      s.pair ⟨.rtpPeriod, x, 0⟩ ⟨.rtpPeriodHi, x, 0⟩ * 2 ^ 16 ≤ (s.rtp x).bPart + s.devSince (s.rtp x).bTick →
      s.fld ⟨.strSrc, 0x700 + st.val, 0⟩ 21 20 ≠ 1 →
      (s.rtp x).sending = none → (s.rtp x).last = none → s.rtpSrc x ≠ x → (s.rtp (s.rtpSrc x)).frames = [f] →
      f.ended = true → 0 < f.num → f.num < 2 ^ 32 →
    ∃ t, exec (.rtpBoundary st i) s = .next t ∧ (t.rtp x).boundary = (s.rtp x).boundary + 1 ∧
      (t.rtp x).bTick = s.tick ∧
      (t.rtp x).bPart = (s.rtp x).bPart + s.devSince (s.rtp x).bTick -
        s.pair ⟨.rtpPeriod, x, 0⟩ ⟨.rtpPeriodHi, x, 0⟩ * 2 ^ 16 ∧
      (t.rtp x).sending = some (f, 0) ∧ (t.rtp x).last = some f ∧
      (t.reg ⟨.rtpFrame, x, 0⟩).toNat = f.num) ∧
  (∀ (s : State) (st : Fin 8) (i : Fin 256) x, 256 * st.val + i.val = x → s.serving = true → s.rtpEn x = true →
      s.rtpReads x = true → s.rtpRetired x = false →
      (if (s.rtp x).boundary = 0 then s.pair ⟨.rtpStart, x, 0⟩ ⟨.rtpStartHi, x, 0⟩ ≤ s.tick
        else s.pair ⟨.rtpPeriod, x, 0⟩ ⟨.rtpPeriodHi, x, 0⟩ * 2 ^ 16 ≤ (s.rtp x).bPart + s.devSince (s.rtp x).bTick) →
      (s.rtp x).sending = none → (s.rtp x).last = none → (s.rtp (s.rtpSrc x)).frames = [] →
    ∃ t, exec (.rtpBoundary st i) s = .next t ∧
      t.rtp x = { s.rtp x with
        boundary := (s.rtp x).boundary + 1, bTick := s.tick,
        bPart := if (s.rtp x).boundary = 0 then s.devSince (s.pair ⟨.rtpStart, x, 0⟩ ⟨.rtpStartHi, x, 0⟩)
          else (s.rtp x).bPart + s.devSince (s.rtp x).bTick -
            s.pair ⟨.rtpPeriod, x, 0⟩ ⟨.rtpPeriodHi, x, 0⟩ * 2 ^ 16 } ∧
      (∀ y, y ≠ x → t.rtp y = s.rtp y) ∧ t.flag ⟨.rtpStat, x, 0⟩ 31 = false ∧ s.keepsRegs t [⟨.rtpStat, x, 0⟩] ∧
      t = { s with regs := t.regs, rtps := t.rtps }) ∧
  (∀ (s : State) (st : Fin 8) (i : Fin 256) x, 256 * st.val + i.val = x →
      (if (s.rtp x).boundary = 0 then s.tick < s.pair ⟨.rtpStart, x, 0⟩ ⟨.rtpStartHi, x, 0⟩
        else (s.rtp x).bPart + s.devSince (s.rtp x).bTick <
          s.pair ⟨.rtpPeriod, x, 0⟩ ⟨.rtpPeriodHi, x, 0⟩ * 2 ^ 16) →
    exec (.rtpBoundary st i) s = .next s) ∧
  (∀ (s : State) (st : Fin 8) (i : Fin 256) x f j pkt tr, 256 * st.val + i.val = x → s.serving = true →
      s.rtpEn x = true → s.rtpReads x = true → s.rtpRetired x = false → (s.rtp x).sending = some (f, j) →
      j * (s.reg ⟨.rtpInterval, x, 0⟩).toNat * 2 ^ 16 ≤ (s.rtp x).bPart + s.devSince (s.rtp x).bTick →
      f.count = j + 1 → (s.rtp x).ahead = [pkt] → 1 ≤ pkt.length → pkt.length ≤ 9216 →
      (s.stream (s.rtpStream x)).tree = some tr → (s.stream (s.rtpStream x)).prep = none → tr.srcPort = 0 →
      (stackRouters st.val).contains tr.srcK = true → tr.be = false → (s.stream (s.rtpStream x)).wait = [] →
    ∃ t, exec (.rtpPacketSend st i) s = .next t ∧
      t.stream (s.rtpStream x) = { s.stream (s.rtpStream x) with
        wait := [{ owner := .rtp x, k := tr.srcK, p := 0, bytes := pkt }] } ∧
      (∀ n, n ≠ s.rtpStream x → t.stream n = s.stream n) ∧ (t.rtp x).sending = none ∧ (t.rtp x).ahead = [] ∧ t.flag ⟨.rtpStat, x, 0⟩ 31 = false ∧
      s.keepsRegs t [⟨.rtpStat, x, 0⟩] ∧
      t = { s with regs := t.regs, rtps := t.rtps, streams := t.streams }) ∧
  (∀ (s : State) (st : Fin 8) (i : Fin 256) x f j pkt, 256 * st.val + i.val = x → s.serving = true →
      s.rtpEn x = true → s.rtpReads x = true → s.rtpRetired x = false → (s.rtp x).sending = some (f, j) →
      j * (s.reg ⟨.rtpInterval, x, 0⟩).toNat * 2 ^ 16 ≤ (s.rtp x).bPart + s.devSince (s.rtp x).bTick →
      f.count = j + 1 → (s.rtp x).ahead = [pkt] → (s.stream (s.rtpStream x)).tree = none →
      (s.stream (s.rtpStream x)).prep = none →
    ∃ t, exec (.rtpPacketSend st i) s = .next t ∧ (t.rtp x).sending = none ∧ (t.rtp x).ahead = [] ∧
      t.fld ⟨.rtpStat, x, 0⟩ 23 16 = min 255 (s.fld ⟨.rtpStat, x, 0⟩ 23 16 + 1) ∧
      s.keepsRegs t [⟨.rtpStat, x, 0⟩] ∧ t = { s with regs := t.regs, rtps := t.rtps }) ∧
  (∀ (s : State) (st : Fin 8) (i : Fin 256) x f j, 256 * st.val + i.val = x → (s.rtp x).sending = some (f, j) →
      (s.rtp x).bPart + s.devSince (s.rtp x).bTick < j * (s.reg ⟨.rtpInterval, x, 0⟩).toNat * 2 ^ 16 →
    exec (.rtpPacketSend st i) s = .next s)

/-- CREATE, SET_OWNER, REMOVE, REKEY and RANGE_FILL_DONE (R277, R278, R282, R287): a range whose descriptor is in order
takes its extent, its owner, new keys and no rights, every line of it reads as the poison pattern, and no other stored
byte changes; a removed range is free; a re-keyed one sweeps from its first line. A fill that has lost its lease takes
it again before it ends (log entry 60). -/
def Obligations.RangesAreCreatedMovedRemovedAndRekeyed : Prop :=
  (∀ (s : State) m r e, s.rngSel m = r → r ≠ 0 → s.accepts m ⟨.infRngCmd, r, 0⟩ →
      s.rngDenied m (packBits [(31, 31, 1), (3, 0, 1)]) = false → s.inHold = false →
      s.flag ⟨.infRngCmd, r, 0⟩ 31 = false → s.rangeState r = 0 →
      s.rangeCode r (s.fld ⟨.infRngBase, r, 0⟩ 18 0) (s.fld ⟨.infRngLimit, r, 0⟩ 18 0)
        (s.fld ⟨.infRngCtl, r, 0⟩ 7 0) = 0 →
      s.leases = [] → s.freeLease .rekeySweep = some e →
    ∃ t, exec (.create m) s = .next t ∧ t.rangeState r = 1 ∧ t.fld ⟨.infRngStat, r, 0⟩ 31 30 = 2 ∧
      t.fld ⟨.infRngStat, r, 0⟩ 27 24 = 0 ∧ (t.range r).base = s.fld ⟨.infRngBase, r, 0⟩ 18 0 ∧
      (t.range r).limit = s.fld ⟨.infRngLimit, r, 0⟩ 18 0 ∧ (t.range r).owner = s.fld ⟨.infRngCtl, r, 0⟩ 7 0 ∧
      (t.range r).gen = 0 ∧ (t.range r).wcnt = 0 ∧ (∀ w, w < 5 → t.reg ⟨.infRngRights, r, w⟩ = 0) ∧
      keysOk ((t.range r).k1, (t.range r).k2) = true ∧
      (∀ a, (t.rangeLines r).1 ≤ s.cellLine (a / 72) → s.cellLine (a / 72) ≤ (t.rangeLines r).2 →
        t.cell a = poisonByte (a % 72)) ∧
      (∀ a, s.cellLine (a / 72) < (t.rangeLines r).1 ∨ (t.rangeLines r).2 < s.cellLine (a / 72) →
        t.cell a = s.cell a) ∧
      (∀ r', r' ≠ r → t.range r' = s.range r') ∧
      (s.inSr (s.fld ⟨.infRngBase, r, 0⟩ 18 0 * 2 ^ 21 / stackBytes) = false → s.keepsRegs t
        ([⟨.infRngCmd, r, 0⟩, ⟨.infRngStat, r, 0⟩, ⟨.infRngBase, r, 0⟩, ⟨.infRngLimit, r, 0⟩, ⟨.infRngCtl, r, 0⟩] ++
          (List.range 5).map fun w => ⟨.infRngRights, r, w⟩)) ∧
      t = { s with regs := t.regs, ranges := t.ranges, stks := t.stks, pchs := t.pchs, hbm := t.hbm,
                   leases := t.leases, leaseLog := t.leaseLog, freeCtr := t.freeCtr, sent := okTo m :: s.sent }) ∧
  (∀ (s : State) m r c, s.rngSel m = r → r ≠ 0 → s.accepts m ⟨.infRngCmd, r, 0⟩ →
      s.rngDenied m (packBits [(31, 31, 1), (3, 0, 1)]) = false → s.inHold = false →
      s.flag ⟨.infRngCmd, r, 0⟩ 31 = false → s.rangeState r = 0 →
      s.rangeCode r (s.fld ⟨.infRngBase, r, 0⟩ 18 0) (s.fld ⟨.infRngLimit, r, 0⟩ 18 0)
        (s.fld ⟨.infRngCtl, r, 0⟩ 7 0) = c → c ≠ 0 →
    ∃ t, exec (.create m) s = .next t ∧ t.rangeState r = 0 ∧ t.fld ⟨.infRngStat, r, 0⟩ 31 30 = 3 ∧
      t.fld ⟨.infRngStat, r, 0⟩ 27 24 = c ∧ s.keepsRegs t [⟨.infRngCmd, r, 0⟩, ⟨.infRngStat, r, 0⟩] ∧
      t = { s with regs := t.regs, sent := okTo m :: s.sent }) ∧
  (∀ (s : State) m r e, s.rngSel m = r → r ≠ 0 → s.accepts m ⟨.infRngCmd, r, 0⟩ →
      s.rngDenied m (packBits [(31, 31, 1), (3, 0, 4)]) = false → s.inHold = false →
      s.flag ⟨.infRngCmd, r, 0⟩ 31 = false → s.rangeState r = 2 →
      s.ownerFits r (s.fld ⟨.infRngCtl, r, 0⟩ 7 0) = true →
      s.leases = [] → s.freeLease .rekeySweep = some e →
    ∃ t, exec (.setOwner m) s = .next t ∧ t.rangeState r = 1 ∧ t.fld ⟨.infRngStat, r, 0⟩ 31 30 = 2 ∧
      (t.range r).base = (s.range r).base ∧ (t.range r).limit = (s.range r).limit ∧
      (t.range r).owner = s.fld ⟨.infRngCtl, r, 0⟩ 7 0 ∧ (∀ w, w < 5 → t.reg ⟨.infRngRights, r, w⟩ = 0) ∧
      keysOk ((t.range r).k1, (t.range r).k2) = true ∧
      (∀ a, (s.rangeLines r).1 ≤ s.cellLine (a / 72) → s.cellLine (a / 72) ≤ (s.rangeLines r).2 →
        t.cell a = poisonByte (a % 72)) ∧
      (∀ a, s.cellLine (a / 72) < (s.rangeLines r).1 ∨ (s.rangeLines r).2 < s.cellLine (a / 72) →
        t.cell a = s.cell a) ∧
      (∀ r', r' ≠ r → t.range r' = s.range r')) ∧
  (∀ (s : State) m r, s.rngSel m = r → r ≠ 0 → s.accepts m ⟨.infRngCmd, r, 0⟩ →
      s.rngDenied m (packBits [(31, 31, 1), (3, 0, 2)]) = false → s.inHold = false →
      s.flag ⟨.infRngCmd, r, 0⟩ 31 = false → s.rangeState r ≠ 0 →
    ∃ t, exec (.remove m) s = .next t ∧ t.rangeState r = 0 ∧ t.range r = {} ∧
      t.fld ⟨.infRngStat, r, 0⟩ 31 30 = 2 ∧ (∀ w, w < 5 → t.reg ⟨.infRngRights, r, w⟩ = 0) ∧ s.keepsHbm t ∧
      (∀ r', r' ≠ r → t.range r' = s.range r')) ∧
  (∀ (s : State) m r e, s.rngSel m = r → r ≠ 0 → s.accepts m ⟨.infRngCmd, r, 0⟩ →
      s.rngDenied m (packBits [(31, 31, 1), (3, 0, 3)]) = false → s.inHold = false →
      s.flag ⟨.infRngCmd, r, 0⟩ 31 = false → s.rangeState r = 2 →
      s.leases = [] → s.freeLease .rekeySweep = some e →
    ∃ t, exec (.rekey m) s = .next t ∧ t.rangeState r = 3 ∧ (t.range r).ptr = (s.rangeLines r).1 ∧
      (t.range r).gen = (s.range r).gen ∧ (t.range r).k1 = (s.range r).k1 ∧ (t.range r).k2 = (s.range r).k2 ∧
      keysOk ((t.range r).n1, (t.range r).n2) = true ∧ t.leased .rekeySweep (.range r) = true ∧
      t.leased .rekeySweep (.stack ((s.range r).base * 2 ^ 21 / stackBytes)) = true ∧
      t.fld ⟨.infRngStat, r, 0⟩ 31 30 = 2 ∧ s.keepsHbm t ∧ (∀ r', r' ≠ r → t.range r' = s.range r')) ∧
  (∀ (s : State) m r, s.rngSel m = r → s.accepts m ⟨.infRngCmd, r, 0⟩ →
      s.rngDenied m (packBits [(31, 31, 1), (3, 0, 3)]) = false → s.flag ⟨.infRngCmd, r, 0⟩ 31 = true →
    exec (.rekey m) s = .next { s with sent := okTo m :: s.sent }) ∧
  (∀ (s : State) (r : Fin 80), s.live = true → s.rangeState r.val = 1 →
      s.leased .rekeySweep (.range r.val) = false →
      s.leaseOk .rekeySweep (sweepLease ((s.range r.val).base * 2 ^ 21 / stackBytes) r.val) = false →
    ∃ t, exec (.rangeFillDone r) s = .next t ∧ t = { s with leaseLog := t.leaseLog }) ∧
  (∀ (s : State) (r : Fin 80), s.live = true → s.rangeState r.val = 1 →
      s.leased .rekeySweep (.range r.val) = true ∨
        s.leaseOk .rekeySweep (sweepLease ((s.range r.val).base * 2 ^ 21 / stackBytes) r.val) = true →
    ∃ t, exec (.rangeFillDone r) s = .next t ∧ t.rangeState r.val = 2 ∧
      t.leased .rekeySweep (.range r.val) = false ∧ s.keepsRegs t [⟨.infRngStat, r.val, 0⟩] ∧
      t = { s with regs := t.regs, leases := t.leases, leaseLog := t.leaseLog })

/-- REKEY_SWEEP_STEP, SWEEP_RATE_CHECK, BUCKET_LEAK, INF_BKT_CFG_WRITE and LINE_READ (R270, R271, R273, R288 to R290): a
step stores one cached line again under the new keys, and the last one makes them the range's; the share rises to the
least that suffices; a bucket leaks one; a read of a poisoned line answers UNCORRECTABLE and counts, and a read of a
clean line answers its plaintext or, where the tag is wrong, halts the device; under the predictor a read counts its
bank's hit or conflict and leaves the row open or closes it (R242). What the cells suffer is the command's operand, and
the rate's rounding is read from R290 (log entries 16 and 43). -/
def Obligations.SweepsBucketsAndLineReads : Prop :=
  (∀ (s : State) (r : Fin 80) n l w, s.live = true → s.rangeState r.val = 3 → (s.range r.val).ptr = n →
      s.stackPanic (stackOf (64 * n)) = false → s.leased .rekeySweep (.range r.val) = true →
      s.agentWaits bulkClass 0x00 (64 * n) 64 = false →
      s.inSr (stackOf (64 * n)) = false →
      s.groupRetired (64 * n) = false → n < (s.rangeLines r.val).2 →
      (s.stk (stackOf (64 * n))).wayOf (n % (stackBytes / 64)) = some w →
      (s.stk (stackOf (64 * n))).hit (n % (stackBytes / 64)) = some l → l.poison = false → l.bad = false →
      (s.stk (stackOf (64 * n))).injBytes = 0 → (s.stk (stackOf (64 * n))).injTag = false →
    ∃ t, exec (.rekeySweepStep r) s = .next t ∧
      t.range r.val = { s.range r.val with ptr := n + 1, wnew := (s.range r.val).wnew + 1 } ∧
      (∀ ct, ct = xts aesEnc (s.range r.val).n1 (s.range r.val).n2 (unitNo ((s.range r.val).gen + 1) n) l.bytes →
        ∀ b, b < 72 → t.cell (72 * s.lineCell n + b) =
          (codeword ct (lineTag (s.range r.val).n2 (unitNo ((s.range r.val).gen + 1) n) ct)).getD b 0) ∧
      (∀ a, a / 72 ≠ s.lineCell n → t.cell a = s.cell a) ∧
      t = { s with ranges := t.ranges, stks := t.stks, banks := t.banks, hbm := t.hbm }) ∧
  (∀ (s : State) (r : Fin 80) n, s.live = true → s.rangeState r.val = 3 → (s.range r.val).ptr = n →
      s.stackPanic (stackOf (64 * n)) = false → s.leased .rekeySweep (.range r.val) = true →
      s.agentWaits bulkClass 0x00 (64 * n) 64 = false →
      s.inSr (stackOf (64 * n)) = false →
      s.groupRetired (64 * n) = true → n = (s.rangeLines r.val).2 →
      (s.stk (stackOf (64 * n))).hit (n % (stackBytes / 64)) = none →
    ∃ t, exec (.rekeySweepStep r) s = .next t ∧ t.rangeState r.val = 2 ∧
      (t.range r.val).gen = (s.range r.val).gen + 1 ∧ (t.range r.val).k1 = (s.range r.val).n1 ∧
      (t.range r.val).k2 = (s.range r.val).n2 ∧ (t.range r.val).wcnt = (s.range r.val).wnew ∧
      t.leased .rekeySweep (.range r.val) = false ∧ s.keepsHbm t ∧
      s.keepsRegs t [⟨.infRngStat, r.val, 0⟩]) ∧
  (∀ (s : State) (r : Fin 80), s.rangeState r.val ≠ 3 ∨ s.stackPanic (stackOf (64 * (s.range r.val).ptr)) = true ∨
      s.agentWaits bulkClass 0x00 (64 * (s.range r.val).ptr) 64 = true →
    exec (.rekeySweepStep r) s = .next s) ∧
  (∀ (s : State) (r : Fin 80) growth lines, s.live = true → s.rangeState r.val = 3 →
    ∃ p, exec (.sweepRateCheck r growth lines) s = .next (s.modRange r.val fun x => { x with share := p }) ∧
      (s.range r.val).share ≤ p ∧ p ≤ max (s.range r.val).share (s.fld ⟨.infSweep, 0, 0⟩ 15 8) ∧
      ∀ p', (s.range r.val).share ≤ p' → p' ≤ s.fld ⟨.infSweep, 0, 0⟩ 15 8 →
        ((s.rangeLines r.val).2 + 1 - (s.range r.val).ptr) * growth ≤ (2 ^ 40 - (s.range r.val).wcnt) * p' * lines →
        p ≤ p' ∧
        ((s.rangeLines r.val).2 + 1 - (s.range r.val).ptr) * growth ≤ (2 ^ 40 - (s.range r.val).wcnt) * p * lines) ∧
  (∀ (s : State) (st : Fin 8) (h : Fin 32), s.live = true →
      (s.pch (32 * st.val + h.val)).leakBase + 250000 * s.fld ⟨.infBktCfg, st.val, 0⟩ 15 0 ≤ s.tick →
    ∃ t, exec (.bucketLeak st h) s = .next t ∧
      t.fld ⟨.infPchStat, 32 * st.val + h.val, 0⟩ 15 0 = s.fld ⟨.infPchStat, 32 * st.val + h.val, 0⟩ 15 0 - 1 ∧
      s.keepsRegs t [⟨.infPchStat, 32 * st.val + h.val, 0⟩] ∧ t = { s with regs := t.regs, pchs := t.pchs }) ∧
  (∀ (s : State) m (st : Fin 8) v, s.accepts m ⟨.infBktCfg, st.val, 0⟩ →
    ∃ t, exec (.infBktCfgWrite m st v) s = .next t ∧
      t.fld ⟨.infBktCfg, st.val, 0⟩ 31 16 =
        (if bits v 31 16 = 0 then s.fld ⟨.infBktCfg, st.val, 0⟩ 31 16 else bits v 31 16) ∧
      t.fld ⟨.infBktCfg, st.val, 0⟩ 15 0 =
        (if bits v 15 0 = 0 then s.fld ⟨.infBktCfg, st.val, 0⟩ 15 0 else bits v 15 0) ∧
      (∀ h, h < 32 → (t.pch (32 * st.val + h)).leakBase = s.tick) ∧
      s.keepsRegs t [⟨.infBktCfg, st.val, 0⟩] ∧
      t = { s with regs := t.regs, pchs := t.pchs, sent := okTo m :: s.sent }) ∧
  (∀ (s : State) addr dom r, s.serving = true → addr < 8 * stackBytes → s.rangeAt addr = some r →
      s.rangeState r = 2 ∨ s.rangeState r = 3 → nearPoison (s.stored (addr / 64)) = true →
      s.fld ⟨.strSrc, 0x600 + s.pchOf (64 * (addr / 64)), 0⟩ 21 20 ≠ 1 →
    ∃ t, exec (.lineRead addr dom true {}) s = .next t ∧
      t.sent.head? = some (.line (64 * (addr / 64)) .uncorrectable []) ∧
      t.fld ⟨.infPchStat, s.pchOf (64 * (addr / 64)), 0⟩ 30 16 =
        min 32767 (s.fld ⟨.infPchStat, s.pchOf (64 * (addr / 64)), 0⟩ 30 16 + 1) ∧ s.keepsHbm t) ∧
  (∀ (s : State) addr dom r damage line, s.serving = true → addr < 8 * stackBytes → s.rangeAt addr = some r →
      s.rangeState r = 2 ∨ s.rangeState r = 3 →
      line = addErr (s.stored (addr / 64)) (damage.cells.map fun (e : Fin 72 × Byte) => (e.1.val, e.2)) →
      nearPoison line = false → rsDecode line = .bad →
      s.fld ⟨.strSrc, 0x600 + s.pchOf (64 * (addr / 64)), 0⟩ 21 20 ≠ 1 →
    ∃ t, exec (.lineRead addr dom true damage) s = .next t ∧
      t.sent.head? = some (.line (64 * (addr / 64)) .uncorrectable []) ∧
      t.fld ⟨.infPchStat, s.pchOf (64 * (addr / 64)), 0⟩ 30 16 =
        min 32767 (s.fld ⟨.infPchStat, s.pchOf (64 * (addr / 64)), 0⟩ 30 16 + 1) ∧
      (∀ b, b < 72 → t.cell (72 * s.lineCell (addr / 64) + b) = line.getD b 0) ∧
      (∀ a, a / 72 ≠ s.lineCell (addr / 64) → t.cell a = s.cell a)) ∧
  (∀ (s : State) addr dom r g k1 k2, s.serving = true → addr < 8 * stackBytes → s.rangeAt addr = some r →
      s.rangeState r = 2 ∨ s.rangeState r = 3 → s.lineKeys r (addr / 64) = (g, k1, k2) →
      nearPoison (s.stored (addr / 64)) = false → rsDecode (s.stored (addr / 64)) = .clean →
      allZero ((s.stored (addr / 64)).take 68) = false →
    ∃ t, exec (.lineRead addr dom true {}) s = .next t ∧
      (lineTag k2 (unitNo g (addr / 64)) ((s.stored (addr / 64)).take 64) = numAt (s.stored (addr / 64)) 64 4 →
        t.sent = .line (64 * (addr / 64)) .ok (xts aesDec k1 k2 (unitNo g (addr / 64))
          ((s.stored (addr / 64)).take 64)) :: s.sent ∧ s.keepsHbm t) ∧
      (lineTag k2 (unitNo g (addr / 64)) ((s.stored (addr / 64)).take 64) ≠ numAt (s.stored (addr / 64)) 64 4 →
        t.phase = .integrity ∧ t.pins.squelched = true)) ∧
  (∀ (s : State) addr dom, s.serving = true → addr < 8 * stackBytes → nearPoison (s.stored (addr / 64)) = true →
    ∃ t, exec (.lineRead addr dom false {}) s = .next t ∧
      t.fld ⟨.stkScrub, stackOf addr, 0⟩ 7 0 = min 255 (s.fld ⟨.stkScrub, stackOf addr, 0⟩ 7 0 + 1) ∧ s.keepsHbm t) ∧
  (∀ (s : State) addr dom x a b r e, s.serving = true → addr < 8 * stackBytes →
      s.pchAddr (64 * (addr / 64)) = (x, a) → Config.bankRow a = (b, r) → nget (nget s.banks x []) b {} = e →
      s.flag ⟨.pchCtl, x, 0⟩ 31 = true → s.hbmHeld = [] → nearPoison (s.stored (addr / 64)) = true →
    ∃ t, exec (.lineRead addr dom false {}) s = .next t ∧
      (nget (nget t.banks x []) b {}).ctr =
        (if e.row = none then e.ctr else if e.row = some r then min 3 (e.ctr + 1) else e.ctr - 1) ∧
      (nget (nget t.banks x []) b {}).row = (if 2 ≤ (nget (nget t.banks x []) b {}).ctr then some r else none) ∧
      (∀ b', b' ≠ b → nget (nget t.banks x []) b' {} = nget (nget s.banks x []) b' {}) ∧
      (∀ y, y ≠ x → nget t.banks y [] = nget s.banks y []))

/-! ### Reset, start-up and the hash engine -/

/-- PORST, PORST_RELEASE, SYSRST, AON_START_COUNT_DONE, CHIP_RESET and RUN (R311, R314, R317, R445, R454): PORST resets
everything but what the device keeps without power; the count of the island latches the straps and start-up runs as the
boot mode says; a CHIP reset that is ready keeps HBM and the fuses and forgets every cup, and one that the safe state,
the integrity halt or an earlier step forbids waits (R392); RUN leaves recovery mode. That start-up runs within one
command is the model's choice (log entry 28), so are the values that a PORST puts in place of what power-on leaves open
(log entries 15, 57) and what the Caddy's engine keeps (log entry 29), and factory test mode's wait for its session (log
entry 37). -/
def Obligations.ResetsAndStartUpFollowTheBootMode : Prop :=
  (∀ s : State, exec .porst s = .next { State.reset with
      pending := s.pending, freeCtr := s.freeCtr, sent := s.sent, nv := s.nv, caddy := s.caddy,
      pins := { straps := s.pins.straps, sysrstN := s.pins.sysrstN, perst0N := s.pins.perst0N,
                perst1N := s.pins.perst1N, errExtLow := s.pins.errExtLow } }) ∧
  (∀ s : State, s.phase = .inReset → exec .porstRelease s = .next
      { s with phase := .counting, aon := 0, pins := { s.pins with porstN := true } }) ∧
  (∀ s : State, s.phase ≠ .inReset → s.phase ≠ .counting → s.phase ≠ .integrity → s.phase ≠ .safe true →
    exec .sysrst s = .next { s with
      phase := .sysrst, chipDue := true, chipWhy := 2, reloadRegion := none,
      pins := { s.pins with sysrstN := false, squelched := true } }) ∧
  (∀ s : State, s.phase = .counting → exec .sysrst s = .next { s with pins := { s.pins with sysrstN := false } }) ∧
  (∀ s : State, s.phase = .inReset ∨ s.phase = .integrity ∨ s.phase = .safe true → exec .sysrst s = .next s) ∧
  (∀ (s : State) env, s.phase = .counting → 131072 ≤ s.aon → s.pins.sysrstN = false →
    ∃ t, exec (.aonStartCountDone env) s = .next t ∧ t.phase = .sysrst ∧ t.chipDue = true ∧ t.chipWhy = 2 ∧
      t.pins.latched = env.straps ∧ (t.reg ⟨.devCasc, 0, 0⟩).toNat = env.straps.cascId % 1024 ∧ t.root = 0 ∧
      t.clk.mode = .running ∧ t.nv = s.nv) ∧
  (∀ (s : State) env, s.phase = .counting → 131072 ≤ s.aon → s.pins.sysrstN = true → env.straps.bootMode = 1 →
    ∃ t, exec (.aonStartCountDone env) s = .next t ∧ t.pins.latched = env.straps ∧
      (t.reg ⟨.devCasc, 0, 0⟩).toNat = env.straps.cascId % 1024 ∧ t.fld ⟨.imgStat, 0, 0⟩ 31 29 = 1 ∧
      t.nv.boot = s.nv.boot + 1 ∧ t.clk.mode = .running ∧ (s.urn.pend = [] → s.keepsHbm t) ∧
      (s.firmware = none → t.phase = .halted ∧ t.reg ⟨.imgCause, 0, 0⟩ = 0x01FFFF00) ∧
      (s.firmware ≠ none → t.phase = .recovery)) ∧
  (∀ (s : State) env, s.phase = .counting → 131072 ≤ s.aon → s.pins.sysrstN = true → 1 < env.straps.bootMode →
      env.straps.bootMode < 8 →
    ∃ t, exec (.aonStartCountDone env) s = .next t ∧ t.phase = .halted ∧
      t.reg ⟨.imgCause, 0, 0⟩ =
        (if env.straps.bootMode = 2 ∧ env.straps.testMode = true ∧ s.firmware = none then 0x01FFFF00 else 0x0EFFFF00)) ∧
  (∀ (s : State) env, s.phase = .counting → 131072 ≤ s.aon → s.pins.sysrstN = true → env.straps.bootMode = 0 →
    ∃ t, exec (.aonStartCountDone env) s = .next t ∧
      (t.phase = .service ∧ t.pins.squelched = false ∧ t.flag ⟨.imgStat, 0, 0⟩ 23 = true ∨
        t.phase = .halted ∧ t.fld ⟨.imgCause, 0, 0⟩ 31 24 ≠ 0)) ∧
  (∀ (s : State) env, s.chipReady = false → exec (.chipReset env) s = .next s) ∧
  (∀ s : State, (∃ b, s.phase = .safe b) ∨ s.phase = .integrity ∧ s.chipWhy ≠ 5 ∨ s.phase = .counting ∨ s.phase = .inReset →
    s.chipReady = false) ∧
  (∀ (s : State) env, s.chipReady = true → s.fld ⟨.imgStat, 0, 0⟩ 31 29 = 0 →
    ∃ t, exec (.chipReset env) s = .next t ∧ t.pins.sysrstN = true ∧
      (t.phase = .service ∧ t.reloadRegion = none ∨
        t.phase = .halted ∧ t.fld ⟨.imgCause, 0, 0⟩ 31 24 ≠ 0 ∧ t.reloadRegion = s.reloadRegion)) ∧
  (∀ (s : State) env, s.chipReady = true → s.fld ⟨.imgStat, 0, 0⟩ 31 29 = 1 →
    ∃ t, exec (.chipReset env) s = .next t ∧ t.pins.sysrstN = true ∧ t.reloadRegion = s.reloadRegion ∧
      (t.phase = .recovery ∨ t.phase = .halted ∧ t.reg ⟨.imgCause, 0, 0⟩ = 0x01FFFF00) ∧
      t.nv.boot = s.nv.boot + 1 ∧ t.nv.minSvn = s.nv.minSvn ∧ t.nv.slots = s.nv.slots ∧ s.root ≤ t.root ∧
      (∀ c, t.cup c = {}) ∧ t.leases = [] ∧ t.outstanding = [] ∧ t.later = [] ∧ t.hceJobs = [] ∧ s.keepsHbm t) ∧
  (∀ (s : State) m v env, s.kettleFree m 0 → m = jtagMid → s.phase = .recovery → s.headerCause 2 = some 2 →
    ∃ t, exec (.run m v env) s = .next t ∧ t.phase = .halted ∧ t.reg ⟨.imgCause, 0, 0⟩ = 0x02FFFF00 ∧
      t.jobEnded 0 4 2 ∧ s.keepsHbm t) ∧
  (∀ (s : State) m v env, s.kettleFree m 0 → m = jtagMid → s.phase = .recovery →
    ∃ t, exec (.run m v env) s = .next t ∧
      (t.phase = .service ∧ t.pins.squelched = false ∧ t.fld ⟨.imgStat, 0, 0⟩ 27 26 = 2 ∧
          t.flag ⟨.imgStat, 0, 0⟩ 23 = true ∨
        t.phase = .halted ∧ t.fld ⟨.imgCause, 0, 0⟩ 31 24 ≠ 0))

/-- HCE_JOB_START, HCE_CHUNK_DONE, HCE_SLOT_BOUNDARY and HCE_CTX_WRITE (R319 to R323): a descriptor that the engine
reads and that is in order becomes the context's job, another ends with CODE 4; one whose read a training stage holds is
read later (R256); a chunk leaves one less; a slot begins; a context that is given back ends its waiting job. That a
job's accesses are made as its descriptor is read and as its last chunk ends is the model's choice (log entries 35, 59,
120), so is the order of free pipelines (log entry 76). -/
def Obligations.HashEngineJobsRunInChunks : Prop :=
  (∀ (s : State) m (i : Fin 8) v a r l, s.accepts m ⟨.hceCmd, i.val, 0⟩ → s.flag ⟨.hceCmd, i.val, 0⟩ 31 = false →
      bit v 31 = true → i.val ≠ 0 → s.flag ⟨.hceCtx, i.val, 0⟩ 31 = true →
      s.pair ⟨.hceDesc, i.val, 0⟩ ⟨.hceDescHi, i.val, 0⟩ = a → a % 64 = 0 →
      s.hceLater i.val (s.hceDom i.val) = false → s.hbmRight (s.hceDom i.val) a false = some r →
      s.groupRetired a = false → (s.stk (stackOf a)).hit (a / 64 % (stackBytes / 64)) = some l → l.poison = false →
      l.bad = false → l.bytes.length = 64 →
    ∃ t, exec (.hceJobStart m i v) s = .next t ∧
      (hceOk l.bytes = true →
        look t.hceJobs i.val = some { desc := l.bytes, dom := s.hceDom i.val, left := hceChunks l.bytes } ∧
        t.flag ⟨.hceCmd, i.val, 0⟩ 31 = true ∧ t.fld ⟨.hceStat, i.val, 0⟩ 31 30 = 1) ∧
      (hceOk l.bytes = false → t.flag ⟨.hceCmd, i.val, 0⟩ 31 = false ∧ t.fld ⟨.hceStat, i.val, 0⟩ 31 30 = 3 ∧
        t.fld ⟨.hceStat, i.val, 0⟩ 27 24 = 4 ∧ t.hcePipe = s.hcePipe) ∧ s.keepsHbm t) ∧
  (∀ (s : State) m (i : Fin 8) v, s.accepts m ⟨.hceCmd, i.val, 0⟩ →
      s.flag ⟨.hceCmd, i.val, 0⟩ 31 = true ∨ bit v 31 = false ∨ i.val ≠ 0 ∧ s.flag ⟨.hceCtx, i.val, 0⟩ 31 = false →
    exec (.hceJobStart m i v) s = .next { s with sent := okTo m :: s.sent }) ∧
  (∀ (s : State) m (i : Fin 8) v, s.accepts m ⟨.hceCmd, i.val, 0⟩ → s.flag ⟨.hceCmd, i.val, 0⟩ 31 = false →
      bit v 31 = true → i.val ≠ 0 → s.flag ⟨.hceCtx, i.val, 0⟩ 31 = true →
      s.hceLater i.val (s.hceDom i.val) = true →
    ∃ t, exec (.hceJobStart m i v) s = .next t ∧ t.later = s.later ++ [.descriptor i.val] ∧
      look t.hceJobs i.val = some { desc := [], dom := s.hceDom i.val, left := 1 } ∧
      t.flag ⟨.hceCmd, i.val, 0⟩ 31 = true ∧ t.fld ⟨.hceStat, i.val, 0⟩ 31 30 = 1 ∧
      s.keepsRegs t [⟨.hceCmd, i.val, 0⟩, ⟨.hceStat, i.val, 0⟩] ∧
      t = { s with regs := t.regs, sent := okTo m :: s.sent, hceJobs := t.hceJobs, later := t.later }) ∧
  (∀ (s : State) (p i : Fin 8) j, s.live = true → look s.hcePipe p.val = some i.val →
      look s.hceJobs i.val = some j → j.finished = false → s.hceWaits j = true →
    exec (.hceChunkDone p) s = .next s) ∧
  (∀ (s : State) (p i : Fin 8) j c, s.live = true → look s.hcePipe p.val = some i.val → s.hceFixed = false →
      look s.hceJobs i.val = some j → j.finished = false → s.hceWaits j = false → j.stop = false → j.left ≤ 1 →
      (({ s with hcePipe := erase s.hcePipe p.val }).hceRun j.dom j.desc).2 = c → c ≠ 1 ∨ tenantOf j.dom = none →
    ∃ t, exec (.hceChunkDone p) s = .next t ∧ look t.hceJobs i.val = none ∧
      t.fld ⟨.hceStat, i.val, 0⟩ 31 30 = (if c = 0 then 2 else 3) ∧ t.fld ⟨.hceStat, i.val, 0⟩ 27 24 = c ∧
      t.flag ⟨.hceCmd, i.val, 0⟩ 31 = false) ∧
  (∀ (s : State) (p i : Fin 8) j, s.live = true → look s.hcePipe p.val = some i.val → s.hceFixed = false →
      look s.hceJobs i.val = some j → j.finished = false → j.stop = false → 1 < j.left →
    ∃ t, exec (.hceChunkDone p) s = .next t ∧ look t.hceJobs i.val = some { j with left := j.left - 1 } ∧
      t = { s with hceJobs := t.hceJobs, hcePipe := t.hcePipe, hceLast := t.hceLast, hceLeft := t.hceLeft }) ∧
  (∀ (s : State) (p i : Fin 8) j, s.live = true → look s.hcePipe p.val = some i.val → s.hceFixed = false →
      look s.hceJobs i.val = some j → j.finished = false → j.stop = true →
    ∃ t, exec (.hceChunkDone p) s = .next t ∧ look t.hceJobs i.val = none ∧
      t.fld ⟨.hceStat, i.val, 0⟩ 31 30 = 3 ∧ t.fld ⟨.hceStat, i.val, 0⟩ 27 24 = 5 ∧
      t.flag ⟨.hceCmd, i.val, 0⟩ 31 = false ∧ s.keepsRegs t [⟨.hceStat, i.val, 0⟩, ⟨.hceCmd, i.val, 0⟩] ∧
      s.keepsHbm t) ∧
  (∀ s : State, s.live = true → s.hceSlotNo < s.hceSlotNow → s.hceJobs = [] → s.hceFixed = false →
    ∃ t, exec .hceSlotBoundary s = .next t ∧ t.hceSlotNo = s.tick / 16384 ∧
      t.hceMode = (if s.tick / 16384 % 16 = 0 then none else s.hceMode) ∧
      t = { s with hceSlotNo := t.hceSlotNo, hceMode := t.hceMode, hceLeft := t.hceLeft }) ∧
  (∀ (s : State) m (i : Fin 8) v, s.accepts m ⟨.hceCtx, i.val, 0⟩ → i.val ≠ 0 →
      s.flag ⟨.hceCtx, i.val, 0⟩ 31 = false →
    ∃ t, exec (.hceCtxWrite m i v) s = .next t ∧ t.flag ⟨.hceCtx, i.val, 0⟩ 31 = bit v 31 ∧
      t.fld ⟨.hceCtx, i.val, 0⟩ 7 0 =
        (if bits v 7 0 ≤ 0x01 ∨ 0x10 ≤ bits v 7 0 ∧ bits v 7 0 ≤ 0x4F then bits v 7 0
          else s.fld ⟨.hceCtx, i.val, 0⟩ 7 0) ∧ s.keepsRegs t [⟨.hceCtx, i.val, 0⟩] ∧
      t = { s with regs := t.regs, sent := okTo m :: s.sent }) ∧
  (∀ (s : State) m (i : Fin 8) v, s.accepts m ⟨.hceCtx, i.val, 0⟩ → s.flag ⟨.hceCtx, i.val, 0⟩ 31 = true →
      bit v 31 = true → exec (.hceCtxWrite m i v) s = .next { s with sent := okTo m :: s.sent }) ∧
  (∀ (s : State) m (i : Fin 8) v, s.accepts m ⟨.hceCtx, i.val, 0⟩ → i.val ≠ 0 →
      s.flag ⟨.hceCtx, i.val, 0⟩ 31 = true → bit v 31 = false → s.hceReady i.val = true →
    ∃ t, exec (.hceCtxWrite m i v) s = .next t ∧ t.flag ⟨.hceCtx, i.val, 0⟩ 31 = false ∧
      look t.hceJobs i.val = none ∧ t.fld ⟨.hceStat, i.val, 0⟩ 31 30 = 3 ∧ t.fld ⟨.hceStat, i.val, 0⟩ 27 24 = 5 ∧
      s.keepsRegs t [⟨.hceCtx, i.val, 0⟩, ⟨.hceStat, i.val, 0⟩, ⟨.hceCmd, i.val, 0⟩] ∧ s.keepsHbm t)

/-! ### The root clock, power and heat -/

/-- XTAL_FAIL, REF_WINDOW and ROOT_RELOCK (R176, R351, R358 to R364): two windows outside the limits in a row are a
loss, which stops the device or lets it coast by LOSS_MODE, with its tick recorded and device time no longer valid;
sixteen inside bring the reference back, and the lock that follows lets the device run again. That the whole return, the
stacks' too, is one step is the model's choice (log entry 92), and so are what a stop leaves running (log entry 57),
what PPS_OUT does as VALID falls (log entry 79), and what the leases that end carry out at once (log entries 60, 104).
-/
def Obligations.ReferenceLossStopsOrCoastsTheRoot : Prop :=
  (∀ s : State, s.rootRuns = true ∨ s.clk.mode = .holding → s.flag ⟨.clkStat, 0, 0⟩ 28 = false →
    ∃ t, exec .xtalFail s = .next t ∧ t.flag ⟨.clkStat, 0, 0⟩ 28 = true ∧ t.clk = s.clk ∧ s.keepsHbm t) ∧
  (∀ (s : State) (n : Fin 1024), s.clk.mode = .running → s.stoppedSafe = false → s.flag ⟨.clkStat, 0, 0⟩ 28 = false →
      240 ≤ n.val → n.val ≤ 272 → s.clk.refOk = true →
    ∃ t, exec (.refWindow n) s = .next t ∧ (t.reg ⟨.clkRefcnt, 0, 0⟩).toNat = n.val ∧
      t.clk = { s.clk with bad := 0, good := s.clk.good + 1 } ∧ s.keepsRegs t [⟨.clkRefcnt, 0, 0⟩] ∧
      t = { s with regs := t.regs, clk := t.clk }) ∧
  (∀ (s : State) (n : Fin 1024), s.clk.mode ≠ .off → s.stoppedSafe = false → s.flag ⟨.clkStat, 0, 0⟩ 28 = false →
      n.val < 240 ∨ 272 < n.val → s.clk.bad = 0 →
    ∃ t, exec (.refWindow n) s = .next t ∧ t.clk = { s.clk with bad := 1, good := 0 } ∧
      s.keepsRegs t [⟨.clkRefcnt, 0, 0⟩] ∧ t = { s with regs := t.regs, clk := t.clk }) ∧
  (∀ (s : State) (n : Fin 1024), s.clk.mode = .running ∨ s.clk.mode = .coasting ∧ s.clk.refOk = true →
      s.stoppedSafe = false → s.flag ⟨.clkStat, 0, 0⟩ 28 = false →
      n.val < 240 ∨ 272 < n.val → s.clk.bad = 1 → s.lossStops = true →
    ∃ t, exec (.refWindow n) s = .next t ∧ t.clk.mode = .holding ∧ t.clk.lossAon = s.aon ∧
      t.fld ⟨.clkStat, 0, 0⟩ 31 30 = 1 ∧ t.flag ⟨.clkStat, 0, 0⟩ 29 = false ∧
      t.fld ⟨.clkStat, 0, 0⟩ 15 0 = min 65535 (s.fld ⟨.clkStat, 0, 0⟩ 15 0 + 1) ∧
      t.pair ⟨.clkLossTick, 0, 0⟩ ⟨.clkLossTickHi, 0, 0⟩ = s.tick % 2 ^ 64 ∧ t.pins.squelched = true ∧
      (∀ st, st < 8 → t.inSr st = true) ∧ t.timeValid = false ∧ t.flag ⟨.timeStat, 0, 0⟩ 1 = false ∧
      t.pins.ppsOut = false ∧ t.leases = [] ∧
      (s.urn.pend = [] → (∀ st, (s.stk st).deferredSr = false) → s.keepsHbm t)) ∧
  (∀ (s : State) (n : Fin 1024), s.clk.mode = .running ∨ s.clk.mode = .coasting ∧ s.clk.refOk = true →
      s.stoppedSafe = false → s.flag ⟨.clkStat, 0, 0⟩ 28 = false →
      n.val < 240 ∨ 272 < n.val → s.clk.bad = 1 → s.lossStops = false → s.fld ⟨.strSrc, 0x010, 0⟩ 21 20 ≠ 1 →
    ∃ t, exec (.refWindow n) s = .next t ∧ t.clk.mode = .coasting ∧ t.fld ⟨.clkStat, 0, 0⟩ 31 30 = 2 ∧
      t.flag ⟨.casStat, 0, 0⟩ 25 = true ∧
      t.pair ⟨.clkLossTick, 0, 0⟩ ⟨.clkLossTickHi, 0, 0⟩ = s.tick % 2 ^ 64 ∧
      t.pins.squelched = s.pins.squelched ∧ t.timeValid = false ∧ t.flag ⟨.timeStat, 0, 0⟩ 1 = false ∧
      t.pins.ppsOut = false ∧ t.leases = [] ∧
      (s.urn.pend = [] → (∀ st, (s.stk st).deferredSr = false) → s.keepsHbm t)) ∧
  (∀ (s : State) (n : Fin 1024), s.clk.mode = .stopped → s.stoppedSafe = false → s.flag ⟨.clkStat, 0, 0⟩ 28 = false →
      240 ≤ n.val → n.val ≤ 272 → s.clk.good = 15 → s.clk.refOk = false →
    ∃ t, exec (.refWindow n) s = .next t ∧ t.clk.mode = .relocking ∧ t.clk.refOk = true ∧ t.flag ⟨.clkStat, 0, 0⟩ 29 = true ∧
      t.fld ⟨.clkStat, 0, 0⟩ 31 30 = 3 ∧ s.keepsRegs t [⟨.clkRefcnt, 0, 0⟩, ⟨.clkStat, 0, 0⟩] ∧
      t = { s with regs := t.regs, clk := t.clk }) ∧
  (∀ s : State, s.stoppedSafe = false → s.clk.mode = .relocking → s.phase = .service →
    ∃ t, exec .rootRelock s = .next t ∧ t.clk.mode = .running ∧ t.fld ⟨.clkStat, 0, 0⟩ 31 30 = 0 ∧
      t.pins.squelched = false ∧ (∀ st, st < 8 → t.inSr st = false) ∧ s.keepsHbm t) ∧
  (∀ s : State, s.stoppedSafe = false → s.clk.mode = .relocking → s.phase ≠ .service →
    ∃ t, exec .rootRelock s = .next t ∧ t.clk.mode = .running ∧
      t.chipDue = decide (s.phase ≠ .inReset ∧ s.phase ≠ .counting) ∧ t.chipWhy = 3 ∧
      t.reloadRegion = s.reloadRegion ∧ t.phase = s.phase ∧ s.keepsHbm t) ∧
  (∀ s : State, s.stoppedSafe = false → s.clk.mode = .coasting → s.clk.refOk = true →
    ∃ t, exec .rootRelock s = .next t ∧ t.clk.mode = .running ∧ t.fld ⟨.clkStat, 0, 0⟩ 31 30 = 0 ∧
      t.flag ⟨.casStat, 0, 0⟩ 25 = false ∧
      (t.reg ⟨.clkLossDur, 0, 0⟩).toNat = min (s.aon - s.clk.lossAon) (2 ^ 32 - 1) ∧ s.keepsHbm t)

/-- URN_REQUEST, URN_RELEASE, URN_BUDGET_WRITE and AVS_ADJUST (R366, R369, R372 to R374): a request takes its place by
the tray cycle of its arrival and its client's index; examined from the next cycle on, one that fits the budget and its
tenant's power is granted and one that does not stays pending; a release gives units back; a budget in range is taken;
each rail moves by at most 5 mV and stays between 700 and 800 mV. That all requests of one tray cycle are examined
together after it is the model's choice (log entry 104). -/
def Obligations.UrnGrantsReleasesAndRegulates : Prop :=
  (∀ (s : State) (n : Fin 292) u, s.live = true → u ≠ 0 →
    exec (.urnRequest n u) s = .next { s with urn := { s.urn with
      pend := placeReq { client := n.val, units := u, cycle := s.trayCycle }
        (s.urn.pend.filter fun e => e.client != n.val) } }) ∧
  (∀ r l, l.Pairwise (fun a b : UrnReq => a.cycle < b.cycle ∨ a.cycle = b.cycle ∧ a.client ≤ b.client) →
    (placeReq r l).Pairwise (fun a b => a.cycle < b.cycle ∨ a.cycle = b.cycle ∧ a.client ≤ b.client) ∧
      List.Perm (placeReq r l) (r :: l)) ∧
  (∀ (s : State) r, s.urn.pend = [r] → r.cycle < s.trayCycle → s.fits r.client r.units = true →
      s.firm r.client = true ∨ s.throttling = false → s.grant r.client + r.units < 2048 →
    s.examine.grant r.client = s.grant r.client + r.units ∧ s.examine.urn.pend = [] ∧
      (∀ k, k ≠ r.client → s.examine.grant k = s.grant k)) ∧
  (∀ (s : State) r, s.urn.pend = [r] →
      s.trayCycle ≤ r.cycle ∨ s.fits r.client r.units = false ∨ s.firm r.client = false ∧ s.throttling = true →
    s.examine = s) ∧
  (∀ (s : State) a b, s.urn.pend = [a, b] → a.cycle < s.trayCycle → b.cycle < s.trayCycle →
      s.firm a.client = true → s.fits a.client a.units = false → s.firm b.client = false → s.examine = s) ∧
  (∀ (s : State) (n : Fin 292) u, s.live = true → s.urn.pend = [] →
    ∃ t, exec (.urnRelease n u) s = .next t ∧ t.grant n.val = s.grant n.val - u ∧ t.urn.pend = [] ∧
      (∀ k, k ≠ n.val → t.grant k = s.grant k) ∧ s.keepsRegs t [⟨.urnCls, n.val, 0⟩] ∧
      t = { s with regs := t.regs, urn := t.urn, cups := t.cups }) ∧
  (∀ (s : State) m v, s.accepts m ⟨.urnBudget, 0, 0⟩ → s.urn.pend = [] →
    ∃ t, exec (.urnBudgetWrite m v) s = .next t ∧
      (inRange 1 6400 (bits v 12 0) = true → t.fld ⟨.urnBudget, 0, 0⟩ 12 0 = bits v 12 0) ∧
      (inRange 1 6400 (bits v 12 0) = false →
        t.fld ⟨.urnBudget, 0, 0⟩ 12 0 = s.fld ⟨.urnBudget, 0, 0⟩ 12 0) ∧
      s.keepsRegs t [⟨.urnBudget, 0, 0⟩] ∧ t = { s with regs := t.regs, sent := okTo m :: s.sent }) ∧
  (∀ (s : State) want, s.live = true → s.urn.trimAt + 250000000 ≤ s.tick → (∀ z ∈ want, z ≠ none) →
    ∃ t, exec (.avsAdjust want) s = .next t ∧
      (∀ x z, x < 13 → want[x]? = some (some z) →
        t.rail x = (max 700 (min 800 ((s.rail x : Int) + max (-5) (min 5 z)))).toNat) ∧
      (∀ x, 13 ≤ x ∨ want.length ≤ x → t.rail x = s.rail x) ∧ t.urn.trimAt = s.tick ∧
      t = { s with urn := t.urn, sent := t.sent }) ∧
  (∀ (s : State) want, s.tick < s.urn.trimAt + 250000000 → exec (.avsAdjust want) s = .next s)

/-- POWER_SAMPLE, OVERLOAD_REPEAT, UNTHROTTLE_STEP, TEMP_SAMPLE and THERMAL_TRIP (R367, R368, R375 to R377, R391): a
second sample above the budget throttles a soft client by one level, samples at or below 95 % lower it again, heat above
125 °C marks the device hot, and 135 °C puts it into the safe state. Rounding of power and its shares and what an
activity counter counts are the model's choice (log entry 109). -/
def Obligations.PowerAndHeatThrottleTheDevice : Prop :=
  (∀ (s : State) rails act, s.live = true → s.urn.sampleAt + 25000 ≤ s.tick →
      powerUnits rails ≤ s.fld ⟨.urnBudget, 0, 0⟩ 12 0 →
    ∃ t, exec (.powerSample rails act) s = .next t ∧ (t.reg ⟨.urnPower, 0, 0⟩).toNat = powerUnits rails ∧
      (∀ (i : Nat) r, i < 23 → rails[i]? = some r →
        t.fld ⟨.urnRail, i, 0⟩ 31 16 = r.deciamps % 65536 ∧ t.fld ⟨.urnRail, i, 0⟩ 15 0 = r.mv % 65536) ∧
      (∀ n, n < 292 → t.fld ⟨.urnCls, n, 0⟩ 23 16 = s.activityOf act n % 256) ∧
      (∀ c, (t.cup c).toggles = 0 ∧ (t.cup c).chances = 0) ∧ (∀ k, t.grant k = s.grant k) ∧
      t.flag ⟨.urnStat, 0, 0⟩ 31 = false ∧ t.urn.attributed = s.attribution rails act ∧ t.urn.prevAbove = false ∧
      t.urn.lvl = s.urn.lvl ∧
      s.keepsRegs t ([⟨.urnPower, 0, 0⟩, ⟨.urnStat, 0, 0⟩] ++ (List.range 23).map (fun i => ⟨.urnRail, i, 0⟩) ++
        (List.range 292).map (fun i => ⟨.urnCls, i, 0⟩)) ∧
      t = { s with regs := t.regs, urn := t.urn, cups := t.cups }) ∧
  (∀ rails, powerUnits rails =
    ((List.range 23).map (fun i => ((rails[i]?).map fun r => r.mv * r.deciamps).getD 0)).sum / 2500) ∧
  (∀ (s : State) rails act, s.live = true → s.urn.sampleAt + 25000 ≤ s.tick →
      s.fld ⟨.urnBudget, 0, 0⟩ 12 0 < powerUnits rails → s.urn.prevAbove = false →
    ∃ t, exec (.powerSample rails act) s = .next t ∧ t.urn.prevAbove = true ∧ t.urn.lvl = s.urn.lvl ∧
      t.flag ⟨.urnStat, 0, 0⟩ 31 = s.flag ⟨.urnStat, 0, 0⟩ 31 ∧ (∀ k, t.grant k = s.grant k) ∧
      t = { s with regs := t.regs, urn := t.urn, cups := t.cups }) ∧
  (∀ (s : State) rails act n, s.live = true → s.urn.sampleAt + 25000 ≤ s.tick →
      s.fld ⟨.urnBudget, 0, 0⟩ 12 0 < powerUnits rails → s.urn.prevAbove = true →
      s.softClients = [n] → nget s.urn.lvl n 0 < 4 → s.urn.heated = false →
    ∃ t, exec (.powerSample rails act) s = .next t ∧ nget t.urn.lvl n 0 = nget s.urn.lvl n 0 + 1 ∧
      t.throttle n = nget s.urn.lvl n 0 + 1 ∧ t.urn.order = n :: s.urn.order ∧ (∀ k, t.grant k = s.grant k) ∧
      t = { s with regs := t.regs, urn := t.urn, cups := t.cups }) ∧
  (∀ (s : State) rails act, s.tick < s.urn.sampleAt + 25000 → exec (.powerSample rails act) s = .next s) ∧
  (∀ (s : State) cs, s.tick < s.urn.tempAt + 250000 → exec (.tempSample cs) s = .next s) ∧
  (∀ s : State, s.live = true → s.flag ⟨.urnStat, 0, 0⟩ 31 = true → s.urn.lastRaise + 25000000 ≤ s.tick →
      s.fld ⟨.strSrc, 0x020, 0⟩ 21 20 ≠ 1 →
    ∃ t, exec .overloadRepeat s = .next t ∧ t.urn = { s.urn with lastRaise := s.tick } ∧ s.keepsHbm t) ∧
  (∀ (s : State) t0 n rest k, s.live = true → s.urn.lowSince = some t0 → t0 + 2500000 ≤ s.tick →
      s.urn.lastStep + 250000 ≤ s.tick → s.urn.order = n :: rest → nget s.urn.lvl n 0 = k + 1 → s.urn.pend = [] →
    ∃ t, exec .unthrottleStep s = .next t ∧ nget t.urn.lvl n 0 = k ∧ t.urn.order = rest ∧ t.urn.lastStep = s.tick ∧
      (∀ i, i ≠ n → nget t.urn.lvl i 0 = nget s.urn.lvl i 0) ∧ s.keepsRegs t [⟨.urnCls, n, 0⟩] ∧
      t = { s with regs := t.regs, urn := t.urn, cups := t.cups }) ∧
  (∀ (s : State) cs, s.live = true → s.urn.tempAt + 250000 ≤ s.tick → (∃ z ∈ cs, 125 < z) → s.fld ⟨.strSrc, 0x021, 0⟩ 21 20 ≠ 1 →
    ∃ t, exec (.tempSample cs) s = .next t ∧ t.flag ⟨.urnStat, 0, 0⟩ 29 = true ∧ t.urn.heated = true ∧
      (s.urn.pend = [] → s.keepsHbm t)) ∧
  (∀ (s : State) cs t0, s.live = true → s.urn.tempAt + 250000 ≤ s.tick → (∀ z ∈ cs, -128 ≤ z ∧ z < 122) → s.urn.coolSince = some t0 →
      t0 + 250000000 ≤ s.tick →
    ∃ t, exec (.tempSample cs) s = .next t ∧ t.flag ⟨.urnStat, 0, 0⟩ 29 = false ∧ t.urn.heated = false ∧
      (∀ i z, i < 60 → cs[i]? = some z → signed 8 (t.fld ⟨.urnTemp, i, 0⟩ 7 0) = z) ∧
      (s.urn.pend = [] → s.keepsHbm t)) ∧
  (∀ (s : State) (x : Fin 68) z, 135 ≤ z → s.phase ≠ .inReset → s.pins.thermTrip = false →
    ∃ t, exec (.thermalTrip x z) s = .next t ∧ t.phase = .safe true ∧ t.pins.thermTrip = true ∧
      t.pins.squelched = true ∧ (∀ st, st < 8 → t.inSr st = true) ∧ t.leases = [] ∧ s.keepsHbm t) ∧
  (∀ (s : State) (x : Fin 68) z, z < 135 → exec (.thermalTrip x z) s = .next s)

/-! ### Tenant cores, the Strainer, the Caddy and fault injection -/

/-- WFI, CORE_INTERRUPT, CPU_PIN_WRITE, CORE_RUN, CORE_RESET, MSIP_WRITE and MACHINE_TIMER (R357, R405, R407): a core
sleeps with no interrupt pending and wakes with one; it is pinned while in reset; it starts at its boot address once it
and its cluster hold power, and reset clears it and gives its power back; the software and timer interrupts reach it.
That WFI with an interrupt pending goes on is the model's choice (log entry 73), and so is its length of 4 bytes (log
entry 6). -/
def Obligations.CoresArePinnedRunAndInterrupted : Prop :=
  (∀ (s : State) (t : Fin 16), s.serving = true → s.coreState t.val = 1 → s.coreIrqs t.val = false →
    ∃ u, exec (.wfi t) s = .next u ∧ u.coreState t.val = 2 ∧
      u.flag ⟨.cpuStat, t.val, 0⟩ 29 = s.debugged (s.coreDom t.val) ∧
      u.core t.val = { s.core t.val with pc := (s.core t.val).pc + 4 } ∧ s.keepsRegs u [⟨.cpuStat, t.val, 0⟩] ∧
      u = { s with regs := u.regs, cores := u.cores }) ∧
  (∀ (s : State) (t : Fin 16), s.serving = true → s.coreState t.val = 1 → s.coreIrqs t.val = true →
    ∃ u, exec (.wfi t) s = .next u ∧ u.core t.val = { s.core t.val with pc := (s.core t.val).pc + 4 } ∧
      (∀ k, k ≠ t.val → u.core k = s.core k) ∧ u = { s with cores := u.cores }) ∧
  (∀ (s : State) (t : Fin 16), s.serving = true → s.coreState t.val ≠ 1 → exec (.wfi t) s = .next s) ∧
  (∀ (s : State) (t : Fin 16), s.serving = true → s.coreState t.val = 2 → s.coreIrqs t.val = true →
    ∃ u, exec (.coreInterrupt t) s = .next u ∧ u.coreState t.val = 1 ∧ u.flag ⟨.cpuStat, t.val, 0⟩ 29 = false ∧
      s.keepsRegs u [⟨.cpuStat, t.val, 0⟩] ∧ u = { s with regs := u.regs }) ∧
  (∀ (s : State) m (t : Fin 16) v, s.accepts m ⟨.cpuPin, t.val, 0⟩ → s.coreRuns t.val = false →
      s.domainExists (bits v 7 0) = true → s.l2 = [] →
    ∃ u, exec (.cpuPinWrite m t v) s = .next u ∧ u.coreDom t.val = bits v 7 0 ∧
      s.keepsRegs u [⟨.cpuPin, t.val, 0⟩] ∧ u = { s with regs := u.regs, sent := okTo m :: s.sent }) ∧
  (∀ (s : State) m (t : Fin 16) v, s.accepts m ⟨.cpuPin, t.val, 0⟩ →
      s.coreRuns t.val = true ∨ s.domainExists (bits v 7 0) = false →
    ∃ u, exec (.cpuPinWrite m t v) s = .next u ∧ u.coreDom t.val = s.coreDom t.val ∧
      u.flag ⟨.cpuPin, t.val, 0⟩ 31 = true ∧ s.keepsRegs u [⟨.cpuPin, t.val, 0⟩] ∧
      u = { s with regs := u.regs, sent := okTo m :: s.sent }) ∧
  (∀ (s : State) m (t : Fin 16) v, s.accepts m ⟨.cpuCtl, t.val, 0⟩ → s.coreRuns t.val = false →
      s.grant (264 + t.val) ≠ 0 → s.grant (280 + t.val / 4) ≠ 0 →
      (∀ l ∈ s.l2, l.cluster = t.val / 4 → l.due = false) →
    ∃ u, exec (.coreRun m t v) s = .next u ∧ u.coreRuns t.val = true ∧ u.coreState t.val = 1 ∧
      u.flag ⟨.cpuStat, t.val, 0⟩ 28 = false ∧ u.flag ⟨.cpuCtl, t.val, 0⟩ 30 = bit v 30 ∧
      (u.core t.val).pc.toNat = s.pair ⟨.cpuBoot, t.val, 0⟩ ⟨.cpuBootHi, t.val, 0⟩ ∧
      s.keepsRegs u [⟨.cpuCtl, t.val, 0⟩, ⟨.cpuStat, t.val, 0⟩] ∧
      u = { s with regs := u.regs, cores := u.cores, sent := okTo m :: s.sent }) ∧
  (∀ (s : State) m (t : Fin 16) v, s.accepts m ⟨.cpuCtl, t.val, 0⟩ → s.coreRuns t.val = false →
      s.grant (264 + t.val) = 0 → s.grant (280 + t.val / 4) = 0 → s.urn.pend = [] →
    ∃ u, exec (.coreRun m t v) s = .next u ∧ u.coreRuns t.val = true ∧ u.coreState t.val = s.coreState t.val ∧
      u.flag ⟨.cpuStat, t.val, 0⟩ 28 = true ∧ u.urn.pend.map (·.client) = [264 + t.val, 280 + t.val / 4] ∧
      s.keepsRegs u [⟨.cpuCtl, t.val, 0⟩, ⟨.cpuStat, t.val, 0⟩] ∧
      u = { s with regs := u.regs, urn := u.urn, sent := okTo m :: s.sent }) ∧
  (∀ (s : State) m (t : Fin 16) v, s.accepts m ⟨.cpuCtl, t.val, 0⟩ → s.coreRuns t.val = true → s.urn.pend = [] →
    ∃ u, exec (.coreReset m t v) s = .next u ∧ u.coreRuns t.val = false ∧ u.coreState t.val = 0 ∧
      u.core t.val = {} ∧ u.grant (264 + t.val) = 0 ∧ s.keepsHbm u) ∧
  (∀ (s : State) m (t : Fin 16) v, s.accepts m ⟨.cpuMsip, t.val, 0⟩ → bit v 0 = true → s.coreState t.val ≠ 0 →
    ∃ u, exec (.msipWrite m t v) s = .next u ∧ u.flag ⟨.cpuMsip, t.val, 0⟩ 0 = true ∧
      u.sent = okTo m :: .coreIrq t.val 3 :: s.sent ∧ s.keepsRegs u [⟨.cpuMsip, t.val, 0⟩] ∧
      u = { s with regs := u.regs, sent := u.sent }) ∧
  (∀ (s : State) m (t : Fin 16) v, s.accepts m ⟨.cpuMsip, t.val, 0⟩ → bit v 0 = false →
    ∃ u, exec (.msipWrite m t v) s = .next u ∧ u.flag ⟨.cpuMsip, t.val, 0⟩ 0 = false ∧
      s.keepsRegs u [⟨.cpuMsip, t.val, 0⟩] ∧ u = { s with regs := u.regs, sent := okTo m :: s.sent }) ∧
  (∀ (s : State) (t : Fin 16), s.serving = true → s.coreState t.val ≠ 0 → s.timeCmp t.val ≤ s.tick →
      (s.core t.val).mtip = false →
    ∃ u, exec (.machineTimer t) s = .next u ∧ (u.core t.val).mtip = true ∧ u.sent = .coreIrq t.val 7 :: s.sent ∧
      u = { s with cores := u.cores, sent := u.sent })

/-- STRAINER_EVENT, STR_IRQACK_WRITE, STR_EVPOP, ERR_ASSERT, ERR_RELEASE, ERR_PULSE_END, LOCKSTEP_MISMATCH and
STRAINER_SELF_FAULT (R386 to R391): an event sets its source's sticky bit, counts, and joins the owner's queue where its
reaction says so; vectors are acknowledged and entries popped; the latches of ERR_N are set and released; the two faults
put the device into the safe state. The severity of an event is Config's (log entry 4); the order of the effects of the
safe state, and that they come at once, are the model's choice (log entry 78). CADDY_COMMIT, CADDY_HEAD_FOUND,
DROOP_TRIP and CAD_SEL_WRITE (R398 to R402): the oldest buffered record is committed at the ring's head with the next
SEQ; the head found at start gives the SEQ that follows it; a droop empties the buffer into the ring; a selected
record's words are read through CAD_REC. SEQ in an empty ring, the lease of a commit and the place of the drop record
are the model's choice (log entries 23, 38, 75). -/
def Obligations.StrainerAndCaddyRecordEvents : Prop :=
  (∀ (s : State) (n : Fin 4096) kind doms bs, sourceExists n.val = true → s.live = true →
    ∃ t, exec (.strainerEvent n kind doms bs) s = .next t ∧ t.flag ⟨.strSrc, n.val, 0⟩ 31 = true ∧
      t.fld ⟨.strSrc, n.val, 0⟩ 15 0 = min 65535 (s.fld ⟨.strSrc, n.val, 0⟩ 15 0 + 1) ∧
      (s.flag ⟨.strSrc, n.val, 0⟩ 25 = true → (s.evq 0).ents.length < 1024 →
        (t.evq 0).ents.length = (s.evq 0).ents.length + 1) ∧
      (s.flag ⟨.strSrc, n.val, 0⟩ 25 = false → t.evq 0 = s.evq 0) ∧ t.phase = s.phase ∧ s.keepsHbm t) ∧
  (∀ (s : State) m v, s.winOfMaster m = 0 → s.accepts m ⟨.strIrqack, 0, 0⟩ → (s.evq 0).ents = [] →
    ∃ t, exec (.strIrqackWrite m v) s = .next t ∧
      (∀ b, b < 8 → t.flag ⟨.strIrqack, 0, 0⟩ b = (s.flag ⟨.strIrqack, 0, 0⟩ b && !bit v b)) ∧
      s.keepsRegs t [⟨.strIrqack, 0, 0⟩] ∧ t = { s with regs := t.regs, sent := okTo m :: s.sent }) ∧
  (∀ (s : State) m v w, s.winOfMaster m = w → s.accepts m ⟨.strEvpop, w, 0⟩ → bit v 0 = true →
    ∃ t, exec (.strEvpop m v) s = .next t ∧ t.evq w = { s.evq w with ents := (s.evq w).ents.drop 1 } ∧
      (∀ w', w' ≠ w → t.evq w' = s.evq w') ∧ t = { s with str := t.str, sent := okTo m :: s.sent }) ∧
  (∀ (s : State) m v, s.accepts m ⟨.strErrctl, 0, 0⟩ →
    ∃ t, exec (.errAssert m v) s = .next t ∧ t.flag ⟨.strStat, 0, 0⟩ 27 = true ∧
      t.flag ⟨.strStat, 0, 0⟩ 28 = (s.flag ⟨.strStat, 0, 0⟩ 28 && !bit v 0) ∧ s.keepsRegs t [⟨.strStat, 0, 0⟩] ∧
      t = { s with regs := t.regs, sent := okTo m :: s.sent }) ∧
  (∀ (s : State) m v, s.accepts m ⟨.strErrctl, 0, 0⟩ →
    ∃ t, exec (.errRelease m v) s = .next t ∧ t.flag ⟨.strStat, 0, 0⟩ 27 = bit v 1 ∧
      t.flag ⟨.strStat, 0, 0⟩ 28 = false ∧ s.keepsRegs t [⟨.strStat, 0, 0⟩] ∧
      t = { s with regs := t.regs, sent := okTo m :: s.sent }) ∧
  (∀ (s : State) e, s.str.pulseEnd = some e → exec .errPulseEnd s = .next
      (if e ≤ s.aon then { s with str := { s.str with pulseEnd := none } } else s)) ∧
  (∀ s : State, s.live = true → ∃ t u, exec .lockstepMismatch s = .next t ∧ exec .strainerSelfFault s = .next u ∧
      t.phase = .safe false ∧ u.phase = .safe false ∧ t.pins.squelched = true ∧ u.pins.squelched = true ∧
      (∀ st, st < 8 → t.inSr st = true ∧ u.inSr st = true) ∧ t.leases = [] ∧ u.leases = [] ∧
      t.pins.thermTrip = s.pins.thermTrip ∧ s.keepsHbm t ∧ s.keepsHbm u) ∧
  (∀ (s : State) r rest, s.caddy.buf = r :: rest → s.flag ⟨.cadStat, 0, 0⟩ 31 = true ∨ s.phase = .inReset →
      s.nv.ring.length < ringSize → s.leases = [] →
    ∃ t, exec .caddyCommit s = .next t ∧ t.nv.ring = { r with seq := s.caddy.nextSeq } :: s.nv.ring ∧
      t.caddy.nextSeq = (s.caddy.nextSeq + 1) % 2 ^ 32 ∧ t.leases = [] ∧
      (s.caddy.dropped = 0 → s.caddy.waiting = [] → t.caddy.buf = rest) ∧
      t = { s with nv := { s.nv with ring := t.nv.ring }, caddy := t.caddy, leaseLog := t.leaseLog }) ∧
  (∀ (s : State) r rest, s.phase ≠ .inReset → s.flag ⟨.cadStat, 0, 0⟩ 31 = false → s.nv.ring = r :: rest →
    ∃ t, exec .caddyHeadFound s = .next t ∧ t.flag ⟨.cadStat, 0, 0⟩ 31 = true ∧
      t.caddy = { s.caddy with nextSeq := (r.seq + 1) % 2 ^ 32 } ∧ s.keepsRegs t [⟨.cadStat, 0, 0⟩] ∧
      t = { s with regs := t.regs, caddy := t.caddy }) ∧
  (∀ s : State, ∃ t, exec .droopTrip s = .next t ∧ t.caddy.buf = [] ∧
      (s.caddy.waiting = [] → s.caddy.dropped = 0 → s.nv.ring.length + s.caddy.buf.length ≤ ringSize →
        t.nv.ring.length = s.nv.ring.length + s.caddy.buf.length ∧
        (t.nv.ring.drop s.caddy.buf.length) = s.nv.ring) ∧
      t = { s with nv := { s.nv with ring := t.nv.ring }, caddy := t.caddy }) ∧
  (∀ (s : State) m v w r, s.winOfMaster m = w → s.accepts m ⟨.cadSel, w, 0⟩ →
      s.selRecord w (bits v 19 0) = some r →
    ∃ t, exec (.cadSelWrite m v) s = .next t ∧ t.fld ⟨.cadSelstat, w, 0⟩ 31 30 = 2 ∧
      (∀ j, j < 16 → t.reg ⟨.cadRec, w, j⟩ = wordOf (slice (recBytes r true) (4 * j) 4)) ∧
      (∀ k, k ≠ ⟨.cadSel, w, 0⟩ → k ≠ ⟨.cadSelstat, w, 0⟩ → k.name ≠ .cadRec ∨ k.i ≠ w → t.reg k = s.reg k) ∧
      t = { s with regs := t.regs, sent := okTo m :: s.sent }) ∧
  (∀ (s : State) m v w, s.winOfMaster m = w → s.accepts m ⟨.cadSel, w, 0⟩ → s.selRecord w (bits v 19 0) = none →
    ∃ t, exec (.cadSelWrite m v) s = .next t ∧ t.fld ⟨.cadSelstat, w, 0⟩ 31 30 = 0 ∧
      s.keepsRegs t [⟨.cadSel, w, 0⟩, ⟨.cadSelstat, w, 0⟩] ∧ t = { s with regs := t.regs, sent := okTo m :: s.sent })

/-- The injections (R401): outside factory test mode under a Plyngen-keyed session each does nothing; there each plants
the error that its KIND names at its SEL and ARG. That GO reads 0 afterwards is the model's choice (log entry 62). -/
def Obligations.InjectionsPlantTheirErrors : Prop :=
  (∀ (s : State) m v, s.accepts m ⟨.strInj, 0, 0⟩ → s.injectOn = false →
    ∀ c ∈ [Instr.injectEvent m v, .injectConfigBit m v, .injectLineBytes m v, .injectWrongTag m v,
        .injectFlitError m v, .injectLaneBurst m v, .injectCompareMismatch m v],
      exec c s = .next { s with sent := okTo m :: s.sent }) ∧
  (∀ (s : State) m v, s.accepts m ⟨.strInj, 0, 0⟩ → s.injectOn = true → sourceExists (injArg v) = true →
    ∃ t, exec (.injectEvent m v) s = .next t ∧ t.flag ⟨.strSrc, injArg v, 0⟩ 31 = true ∧
      t.fld ⟨.strSrc, injArg v, 0⟩ 15 0 = min 65535 (s.fld ⟨.strSrc, injArg v, 0⟩ 15 0 + 1) ∧ s.keepsHbm t) ∧
  (∀ (s : State) m v w, s.accepts m ⟨.strInj, 0, 0⟩ → s.injectOn = true → s.fld ⟨.strInjWord, 0, 0⟩ 19 0 = w →
      injSel v < 192 → w < 787600 →
    ∃ t, exec (.injectConfigBit m v) s = .next t ∧
      (∀ k, k = (if (s.cup (injSel v)).bank then 787600 + w else w) →
        nget (t.cup (injSel v)).cfgErr k 0 =
          nget (s.cup (injSel v)).cfgErr k 0 ^^^ BitVec.ofNat 32 (2 ^ (injArg v % 32))) ∧
      (t.cup (injSel v)).active.at w = (s.cup (injSel v)).active.at w ^^^ BitVec.ofNat 32 (2 ^ (injArg v % 32)) ∧
      (∀ c, c ≠ injSel v → t.cup c = { s.cup c with fab := (t.cup c).fab, old := (t.cup c).old }) ∧ s.keepsRegs t [⟨.strInj, 0, 0⟩] ∧
      t = { s with regs := t.regs, cups := t.cups, sent := okTo m :: s.sent }) ∧
  (∀ (s : State) m v, s.accepts m ⟨.strInj, 0, 0⟩ → s.injectOn = true → injSel v < 8 → 1 ≤ injArg v → injArg v ≤ 5 →
    ∃ t, exec (.injectLineBytes m v) s = .next t ∧
      t.stk (injSel v) = { s.stk (injSel v) with injBytes := injArg v } ∧
      (∀ x, x ≠ injSel v → t.stk x = s.stk x) ∧ s.keepsRegs t [⟨.strInj, 0, 0⟩] ∧
      t = { s with regs := t.regs, stks := t.stks, sent := okTo m :: s.sent }) ∧
  (∀ (s : State) m v, s.accepts m ⟨.strInj, 0, 0⟩ → s.injectOn = true → injSel v < 8 →
    ∃ t, exec (.injectWrongTag m v) s = .next t ∧ t.stk (injSel v) = { s.stk (injSel v) with injTag := true } ∧
      (∀ x, x ≠ injSel v → t.stk x = s.stk x) ∧ s.keepsRegs t [⟨.strInj, 0, 0⟩] ∧
      t = { s with regs := t.regs, stks := t.stks, sent := okTo m :: s.sent }) ∧
  (∀ (s : State) m v, s.accepts m ⟨.strInj, 0, 0⟩ → s.injectOn = true → injSel v < 240 →
      injArg v = 1 ∨ injArg v = 2 →
    ∃ t, exec (.injectFlitError m v) s = .next t ∧ look t.flitInj (injSel v) = some (injArg v) ∧
      (∀ k, k ≠ injSel v → look t.flitInj k = look s.flitInj k) ∧ s.keepsRegs t [⟨.strInj, 0, 0⟩] ∧
      t = { s with regs := t.regs, flitInj := t.flitInj, sent := okTo m :: s.sent }) ∧
  (∀ (s : State) m v, s.accepts m ⟨.strInj, 0, 0⟩ → s.injectOn = true →
    ∃ t, exec (.injectLaneBurst m v) s = .next t ∧ t.lane (injSel v) = { s.lane (injSel v) with burst := injArg v } ∧
      (∀ l, l ≠ injSel v → t.lane l = s.lane l) ∧ s.keepsRegs t [⟨.strInj, 0, 0⟩] ∧
      t = { s with regs := t.regs, lanes := t.lanes, sent := okTo m :: s.sent }) ∧
  (∀ (s : State) m v, s.accepts m ⟨.strInj, 0, 0⟩ → s.injectOn = true →
    ∃ t, exec (.injectCompareMismatch m v) s = .next t ∧ t.phase = .safe false ∧ t.pins.squelched = true ∧
      (∀ st, st < 8 → t.inSr st = true) ∧ s.keepsHbm t)

/-! ### Cascades -/

/-- SELOV_FRAME, ACK_TIMEOUT, SELOV_RETRAIN, SELOV_RETRAIN_FAIL, SELOV_LINK_UP, RESTORE and LSA (R327 to R329, R337): a
frame in order is taken and acknowledged, one that is bad or out of order sets NAK; a link with no acknowledgement for
100 µs retrains under its lanes' leases, fails 10 ms later, is retired beyond its budget, comes up, and is restored;
link states that change are flooded. The first SEQ, the frames of link control, what becomes of a frame at a full replay
buffer and the payload's layout are the model's choice (log entries 21, 68, 119). -/
def Obligations.LinksAcknowledgeRetrainAndRetire : Prop :=
  (∀ (s : State) (n : Fin 32) (f : List Byte), s.serving = true → s.linkState n.val = 2 → f.length = 272 →
      (∀ l ∈ s.linkLanes n.val, (s.lane l).burst = 0) →
      (crc32 (f.take 268)).toNat = numAt f 268 4 → numAt f 0 1 = 2 → numAt f 6 2 = (s.link n.val).rxSeq →
      numAt f 1 1 / 4 % 2 = 0 → (s.link n.val).replay = [] → numAt f 12 4 / 2 ^ 10 % 1024 = s.casId →
    ∃ t, exec (.selovFrame n f) s = .next t ∧
      t.link n.val = { s.link n.val with rxSeq := ((s.link n.val).rxSeq + 1) % 65536, nakDue := false } ∧
      (∀ k, k ≠ n.val → t.link k = s.link k) ∧
      t.sent = .selov n.val (frameBytes 3 (if (s.link n.val).nakDue then 4 else 0) 0 8 0 (numAt f 6 2) (leBytes 8 (s.root / 2))) :: s.sent ∧
      t = { s with links := t.links, sent := t.sent }) ∧
  (∀ (s : State) (n : Fin 32) (f : List Byte) m w h, s.serving = true → s.linkState n.val = 2 → f.length = 272 →
      (∀ l ∈ s.linkLanes n.val, (s.lane l).burst = 0) →
      (crc32 (f.take 268)).toNat = numAt f 268 4 → numAt f 0 1 = 2 → numAt f 6 2 = (s.link n.val).rxSeq →
      numAt f 1 1 / 4 % 2 = 0 → (s.link n.val).replay = [] → numAt f 12 4 = w → w / 2 ^ 10 % 1024 ≠ s.casId →
      w / 2 ^ 26 + 1 = h → h ≤ 16 → s.casRoute (w / 2 ^ 10 % 1024) = some m → m ≠ n.val →
      (s.link m).replay.length < 8192 →
    ∃ t, exec (.selovFrame n f) s = .next t ∧
      t.sent = .selov n.val (frameBytes 3 (if (s.link n.val).nakDue then 4 else 0) 0 8 0 (numAt f 6 2)
          (leBytes 8 (s.root / 2))) ::
        .selov m (frameBytes 2 (if (s.link m).nakDue then 4 else 0) 0 (numAt f 4 1) (s.link m).txSeq (s.link m).ack
          (leBytes 4 (w % 2 ^ 26 + 2 ^ 26 * h) ++ slice f 16 252)) :: s.sent ∧
      (t.link m).txSeq = ((s.link m).txSeq + 1) % 65536 ∧ (t.link m).replay.length = (s.link m).replay.length + 1 ∧
      (∀ k, k ≠ n.val → k ≠ m → t.link k = s.link k) ∧ t = { s with links := t.links, sent := t.sent }) ∧
  (∀ (s : State) (n : Fin 32) (f : List Byte), s.serving = true → s.linkState n.val = 2 → f.length = 272 →
      (∀ l ∈ s.linkLanes n.val, (s.lane l).burst = 0) →
      (crc32 (f.take 268)).toNat = numAt f 268 4 → numAt f 0 1 = 1 → numAt f 6 2 = (s.link n.val).rxSeq →
      numAt f 1 1 / 4 % 2 = 0 → numAt f 1 1 / 2 % 2 = 0 → (s.link n.val).replay = [] →
    ∃ t, exec (.selovFrame n f) s = .next t ∧
      nget (t.link n.val).rx (numAt f 2 2 % 16384) [] =
        (if numAt f 1 1 % 2 = 1 then [] else nget (s.link n.val).rx (numAt f 2 2 % 16384) []) ++
          slice f 12 (if numAt f 4 1 = 0 then 256 else numAt f 4 1) ∧
      (t.link n.val).rxSeq = ((s.link n.val).rxSeq + 1) % 65536 ∧ (∀ k, k ≠ n.val → t.link k = s.link k) ∧
      t = { s with links := t.links, sent := t.sent }) ∧
  (∀ (s : State) (n : Fin 32) (f : List Byte) i, s.serving = true → s.linkState n.val = 2 → f.length = 272 →
      (∀ l ∈ s.linkLanes n.val, (s.lane l).burst = 0) →
      (crc32 (f.take 268)).toNat = numAt f 268 4 → numAt f 0 1 = 3 → numAt f 1 1 / 4 % 2 = 0 →
      (s.link n.val).replay.findIdx? (fun e => e.seq == numAt f 8 2) = some i →
    ∃ t, exec (.selovFrame n f) s = .next t ∧
      t.link n.val = { s.link n.val with replay := (s.link n.val).replay.drop (i + 1), lastAck := s.tick } ∧
      (∀ k, k ≠ n.val → t.link k = s.link k) ∧ t = { s with links := t.links }) ∧
  (∀ (s : State) (n : Fin 32) (f : List Byte), s.serving = true → s.linkState n.val = 2 → f.length = 272 →
      (∀ l ∈ s.linkLanes n.val, (s.lane l).burst = 0) →
      (crc32 (f.take 268)).toNat = numAt f 268 4 → numAt f 0 1 = 3 → numAt f 1 1 / 4 % 2 = 1 →
      (s.link n.val).replay.findIdx? (fun e => e.seq == numAt f 8 2) = none →
    ∃ t, exec (.selovFrame n f) s = .next t ∧
      t.link n.val = { s.link n.val with
        replay := (s.link n.val).replay.map fun e => { e with replays := e.replays + 1 }
        due := (s.link n.val).due || (s.link n.val).replay.any fun e => decide (3 ≤ e.replays) } ∧
      t.sent = ((s.link n.val).replay.map fun e => Out.selov n.val e.bytes).reverse ++ s.sent ∧
      (∀ k, k ≠ n.val → t.link k = s.link k) ∧ t = { s with links := t.links, sent := t.sent }) ∧
  (∀ (s : State) (n : Fin 32) (f : List Byte), s.serving = true → s.linkState n.val = 2 → f.length = 272 →
      (∀ l ∈ s.linkLanes n.val, (s.lane l).burst = 0) →
      (crc32 (f.take 268)).toNat ≠ numAt f 268 4 ∨ numAt f 0 1 = 0 ∨ 3 < numAt f 0 1 ∨
        (numAt f 0 1 ≠ 3 ∧ numAt f 6 2 ≠ (s.link n.val).rxSeq) →
    ∃ t, exec (.selovFrame n f) s = .next t ∧ t.link n.val = { s.link n.val with nakDue := false } ∧
      (∀ k, k ≠ n.val → t.link k = s.link k) ∧
      t.sent = .selov n.val (frameBytes 3 4 0 8 0 (s.link n.val).ack (leBytes 8 (s.root / 2))) :: s.sent ∧
      t = { s with links := t.links, sent := t.sent }) ∧
  (∀ (s : State) (n : Fin 32) (f : List Byte), s.serving = true → s.linkState n.val = 2 → f.length = 272 →
      (∃ l ∈ s.linkLanes n.val, (s.lane l).burst ≠ 0) →
    ∃ t, exec (.selovFrame n f) s = .next t ∧ t.link n.val = { s.link n.val with nakDue := false } ∧
      (∀ k, k ≠ n.val → t.link k = s.link k) ∧ (∀ l ∈ s.linkLanes n.val, t.lane l = { s.lane l with burst := 0 }) ∧
      t.sent = .selov n.val (frameBytes 3 4 0 8 0 (s.link n.val).ack (leBytes 8 (s.root / 2))) :: s.sent ∧
      t = { s with links := t.links, lanes := t.lanes, sent := t.sent }) ∧
  (∀ (s : State) (n : Fin 32), s.serving = true → s.linkState n.val = 2 → (s.link n.val).replay ≠ [] →
    ∃ t, exec (.ackTimeout n) s = .next t ∧
      t.link n.val = { s.link n.val with
        due := (s.link n.val).due || decide ((s.link n.val).lastAck + 25000 ≤ s.tick) } ∧
      (∀ k, k ≠ n.val → t.link k = s.link k) ∧ t = { s with links := t.links }) ∧
  (∀ (s : State) (n : Fin 32), s.serving = true →
      s.linkState n.val = 2 ∧ ((s.link n.val).due = true ∨ (s.linkLanes n.val).any s.lol = true) ∨
        s.linkState n.val = 1 ∧ (s.link n.val).due = true ∧ (s.link n.val).retrainAt = none →
      (s.linkLease n.val).2 = true →
    ∃ t, exec (.selovRetrain n) s = .next t ∧ t.linkState n.val = 1 ∧ (t.link n.val).due = false ∧
      (t.link n.val).retrainAt = some s.tick ∧ (t.link n.val).replay = (s.link n.val).replay ∧
      t.leases = (s.linkLease n.val).1.leases ∧ s.keepsHbm t) ∧
  (∀ (s : State) (n : Fin 32), (s.linkLease n.val).2 = false →
    ∃ t, exec (.selovRetrain n) s = .next t ∧ (∀ k, t.linkState k = s.linkState k) ∧ t.links = s.links ∧
      t.sent = s.sent ∧ s.keepsHbm t) ∧
  (∀ (s : State) (n : Fin 32) t0, s.serving = true → s.linkState n.val = 1 → (s.link n.val).retrainAt = some t0 →
      t0 + 2500000 ≤ s.tick → (s.linkLanes n.val).all s.los = false → (s.link n.val).uncounted = true →
    ∃ t, exec (.selovRetrainFail n) s = .next t ∧ t.linkState n.val = 1 ∧ (t.link n.val).fails = (s.link n.val).fails ∧
      ((t.link n.val).retrainAt = some s.tick ∧ (t.link n.val).due = false ∨
        (t.link n.val).retrainAt = none ∧ (t.link n.val).due = true) ∧
      (∀ k, k ≠ n.val → t.link k = s.link k) ∧ s.keepsHbm t) ∧
  (∀ (s : State) (n : Fin 32) t0 b, s.serving = true → s.linkState n.val = 1 → (s.link n.val).retrainAt = some t0 →
      t0 + 2500000 ≤ s.tick → (s.linkLanes n.val).all s.los = false → (s.link n.val).uncounted = false →
      s.reg ⟨.mntBudget, 1, 0⟩ = b → s.fld ⟨.strSrc, 0x540 + n.val, 0⟩ 21 20 ≠ 1 →
    ∃ t, exec (.selovRetrainFail n) s = .next t ∧
      (t.linkState n.val = 4 ↔ bits b 31 28 ≤
        (((s.link n.val).fails ++ [s.tick]).filter fun x => s.tick < x + 250000 * bits b 27 0).length) ∧
      (t.linkState n.val ≠ 4 → t.linkState n.val = 1 ∧
        ((t.link n.val).retrainAt = some s.tick ∧ (t.link n.val).due = false ∨
          (t.link n.val).retrainAt = none ∧ (t.link n.val).due = true))) ∧
  (∀ (s : State) (n : Fin 32) (far : FarEnd), s.serving = true → s.linkState n.val = 1 →
      (s.link n.val).retrainAt.isSome = true → s.leases = [] →
    ∃ t, exec (.selovLinkUp n far) s = .next t ∧ t.linkState n.val = 2 ∧ t.fld ⟨.casLink, n.val, 0⟩ 19 10 = far.id.val ∧
      (t.link n.val).farQuad = far.quad.val ∧
      (t.link n.val).retrainAt = none ∧ (t.link n.val).lastAck = s.tick ∧
      (∃ o, t.sent = o ++ ((s.link n.val).replay.map fun e => Out.selov n.val e.bytes).reverse ++ s.sent) ∧
      (∀ l ∈ s.linkLanes n.val, t.flag ⟨.lnStat, l, 0⟩ 27 = false) ∧
      (∀ k, k.name ≠ .lnStat → k ≠ ⟨.casLink, n.val, 0⟩ → t.reg k = s.reg k) ∧
      t = { s with regs := t.regs, links := t.links, cas := t.cas, sent := t.sent }) ∧
  (∀ (s : State) m (n : Fin 1024), s.accepts m ⟨.casCmd, 0, 0⟩ → s.flag ⟨.casCmd, 0, 0⟩ 31 = false → s.linkState n.val = 4 → n.val < s.casLinks.length →
      (s.linkLease n.val).2 = true →
    ∃ t, exec (.restore m n) s = .next t ∧ t.linkState n.val = 1 ∧ (t.link n.val).fails = [] ∧
      (t.link n.val).retrainAt = some s.tick ∧ t.fld ⟨.casCmdstat, 0, 0⟩ 31 30 = 2 ∧
      t.leases = (s.linkLease n.val).1.leases ∧ s.keepsHbm t ∧
      (s.leases = [] → s.keepsRegs t [⟨.casCmd, 0, 0⟩, ⟨.casCmdstat, 0, 0⟩, ⟨.casLink, n.val, 0⟩] ∧
        t = { s with regs := t.regs, links := t.links, leases := t.leases, leaseLog := t.leaseLog,
                     cas := { s.cas with routes := t.cas.routes }, sent := t.sent })) ∧
  (∀ (s : State) m (n : Fin 1024), s.accepts m ⟨.casCmd, 0, 0⟩ → s.flag ⟨.casCmd, 0, 0⟩ 31 = false → s.linkState n.val = 4 → n.val < s.casLinks.length →
      (s.linkLease n.val).2 = false →
    ∃ t, exec (.restore m n) s = .next t ∧ t.linkState n.val = 1 ∧ (t.link n.val).fails = [] ∧
      (t.link n.val).due = true ∧ (t.link n.val).retrainAt = none ∧ t.fld ⟨.casCmdstat, 0, 0⟩ 31 30 = 2 ∧
      s.keepsHbm t) ∧
  (∀ (s : State) m (n : Fin 1024), s.accepts m ⟨.casCmd, 0, 0⟩ → s.flag ⟨.casCmd, 0, 0⟩ 31 = false → s.casLinks.length ≤ n.val →
    ∃ t, exec (.restore m n) s = .next t ∧ t.fld ⟨.casCmdstat, 0, 0⟩ 31 30 = 3 ∧ t.fld ⟨.casCmdstat, 0, 0⟩ 27 24 = 3 ∧
      s.keepsRegs t [⟨.casCmd, 0, 0⟩, ⟨.casCmdstat, 0, 0⟩] ∧ t = { s with regs := t.regs, sent := okTo m :: s.sent }) ∧
  (∀ (s : State) (n : Fin 32) (id : Fin 1024) (l : List LinkReport) codes, s.serving = true → s.linkState n.val = 2 →
      id.val ≠ s.casId → codes = l.map (fun r => linkCode r.far.val r.state.val) → nget s.cas.routes id.val [] ≠ codes →
    ∃ t, exec (.lsa n id l) s = .next t ∧ nget t.cas.routes id.val [] = codes ∧
      (∀ k, k ≠ id.val → nget t.cas.routes k [] = nget s.cas.routes k []) ∧
      t = { s with cas := { s.cas with routes := t.cas.routes }, links := t.links, sent := t.sent } ∧
      (s.upLinks = [n.val] → t.links = s.links ∧ t.sent = s.sent)) ∧
  (∀ (s : State) (n : Fin 32) (id : Fin 1024) (l : List LinkReport),
      nget s.cas.routes id.val [] = l.map (fun r => linkCode r.far.val r.state.val) →
    exec (.lsa n id l) s = .next s) ∧
  (∀ s : State, nget s.cas.routes s.casId [] ≠ s.casStates →
    nget s.casFlood.cas.routes s.casId [] = s.casStates ∧ .cas none (.lsa s.casStates) ∈ s.casFlood.sent)

/-- CASCADE_FLIT_EJECT, CAS_SLINK_WRITE, REROUTE and SYNC (R339 to R343): a flit ejected at a quad's port leaves in a
numbered frame on the link its entry names; an entry is checked against its link's slots; the streams of a link that is
DOWN or retired move to another link of its bundle; and a member follows its neighbour's tick by at most one tick. The
port that counts a discarded flit, the sign of the error and the whole offset after an alignment restart are the model's
choice (log entries 2, 91, 98, 119). -/
def Obligations.StreamsCrossCascadeLinks : Prop :=
  (∀ (s : State) (q : Fin 64) (st : Fin 16384) sop eop (p : List Byte) n, s.serving = true → s.quadRole q.val = 3 →
      s.servedByEven q.val = false → 1 ≤ p.length → p.length ≤ 256 →
      sop = true ∨ (s.quad q.val).spoilt.contains st.val = false →
      ((s.stream st.val).dstAt (quadRouter q.val).1 (quadRouter q.val).2).isSome = true →
      s.flag ⟨.casSlink, q.val, st.val⟩ 31 = true → s.fld ⟨.casSlink, q.val, st.val⟩ 28 24 = n →
      s.linkState n = 1 ∨ s.linkState n = 2 → (s.link n).replay.length < 8192 →
    ∃ t f, exec (.cascadeFlitEject q st sop eop { bytes := p }) s = .next t ∧
      f = frameBytes 1 (b2n sop + 2 * b2n eop + if (s.link n).nakDue then 4 else 0) st.val (p.length % 256)
        (s.link n).txSeq (s.link n).ack p ∧
      (t.link n).txSeq = ((s.link n).txSeq + 1) % 65536 ∧
      (t.link n).replay = (s.link n).replay ++ [{ seq := (s.link n).txSeq, bytes := f }] ∧
      t.sent = (if s.linkState n = 2 then .selov n f :: s.sent else s.sent) ∧
      (∀ k, k ≠ n → t.link k = s.link k) ∧
      (sop = false → t.streams = s.streams ∧ t.cups = s.cups ∧ t.quads = s.quads) ∧
      (∀ k, t.quad k = { s.quad k with spoilt := (t.quad k).spoilt }) ∧
      t = { s with links := t.links, sent := t.sent, streams := t.streams, cups := t.cups, quads := t.quads }) ∧
  (∀ (s : State) (q : Fin 64) (st : Fin 16384) eop (p : List Byte) n,
      s.flag ⟨.casSlink, q.val, st.val⟩ 31 = true → s.fld ⟨.casSlink, q.val, st.val⟩ 28 24 = n →
      (s.linkState n ≠ 1 ∧ s.linkState n ≠ 2) ∨ 8192 ≤ (s.link n).replay.length → s.clk.mode ≠ .coasting →
    exec (.cascadeFlitEject q st false eop { bytes := p }) s = .next s) ∧
  (∀ (s : State) (q : Fin 64) (st : Fin 16384) eop (p : List Byte), s.serving = true → s.quadRole q.val = 3 →
      s.servedByEven q.val = false → 1 ≤ p.length → p.length ≤ 256 → (s.quad q.val).spoilt.contains st.val = false →
      ((s.stream st.val).dstAt (quadRouter q.val).1 (quadRouter q.val).2).isSome = true →
      s.flag ⟨.casSlink, q.val, st.val⟩ 31 = false →
    ∃ t i, exec (.cascadeFlitEject q st false eop { bytes := p }) s = .next t ∧ 4 * q.val ≤ i ∧ i < 4 * q.val + 4 ∧
      t.pair ⟨.portCnt, i, 7⟩ ⟨.portCntHi, i, 7⟩ = (s.pair ⟨.portCnt, i, 7⟩ ⟨.portCntHi, i, 7⟩ + 1) % 2 ^ 64 ∧
      s.keepsRegs t [⟨.portCnt, i, 7⟩, ⟨.portCntHi, i, 7⟩] ∧
      t = { s with regs := t.regs, freeCtr := s.freeCtr + 1 }) ∧
  (∀ (s : State) (q : Fin 64) (st : Fin 16384) eop (p : List Byte) (r : Fin 240), s.serving = true →
      s.quadRole q.val = 3 → s.servedByEven q.val = false → 1 ≤ p.length → p.length ≤ 256 →
      ((s.stream st.val).dstAt (quadRouter q.val).1 (quadRouter q.val).2).isSome = true →
    ∃ t i, exec (.cascadeFlitEject q st false eop { bytes := p, bad := some r }) s = .next t ∧
      4 * q.val ≤ i ∧ i < 4 * q.val + 4 ∧ (t.quad q.val).spoilt.contains st.val = true ∧
      t.fld ⟨.rtrErr, r.val, 0⟩ 15 0 = min 65535 (s.fld ⟨.rtrErr, r.val, 0⟩ 15 0 + 1) ∧
      t.pair ⟨.portCnt, i, 7⟩ ⟨.portCntHi, i, 7⟩ = (s.pair ⟨.portCnt, i, 7⟩ ⟨.portCntHi, i, 7⟩ + 1) % 2 ^ 64 ∧
      s.keepsRegs t [⟨.rtrErr, r.val, 0⟩, ⟨.portCnt, i, 7⟩, ⟨.portCntHi, i, 7⟩] ∧
      t = { s with regs := t.regs, quads := t.quads, freeCtr := s.freeCtr + 1 }) ∧
  (∀ (s : State) (q : Fin 64) (st : Fin 16384) eop (p : List Byte), (s.quad q.val).spoilt.contains st.val = true →
    exec (.cascadeFlitEject q st false eop { bytes := p }) s = .next s) ∧
  (∀ (s : State) m v k, k = ⟨.casSlink, s.fld ⟨.casSsel, 0, 0⟩ 21 16, s.fld ⟨.casSsel, 0, 0⟩ 13 0⟩ → s.accepts m k →
      bit v 31 = false →
    ∃ t, exec (.casSlinkWrite m v) s = .next t ∧ t.flag k 31 = false ∧ s.keepsRegs t [k] ∧
      t = { s with regs := t.regs, sent := okTo m :: s.sent }) ∧
  (∀ (s : State) m v k l, k = ⟨.casSlink, s.fld ⟨.casSsel, 0, 0⟩ 21 16, s.fld ⟨.casSsel, 0, 0⟩ 13 0⟩ → s.accepts m k →
      bit v 31 = true → s.flag k 31 = false → s.casLinks[bits v 28 24]? = some l → l.1 = k.i →
      bits v 9 0 ≤ s.linkFree (bits v 28 24) → s.slotsAt k.j (quadRouter k.i).1 (quadRouter k.i).2 = bits v 9 0 →
      (s.regs.filter fun e => e.1.name == .casSlink && e.1.i == k.i && bit e.2 31).length < 1024 →
    ∃ t, exec (.casSlinkWrite m v) s = .next t ∧ t.flag k 31 = true ∧ t.fld k 28 24 = bits v 28 24 ∧
      t.fld k 9 0 = bits v 9 0 ∧ s.keepsRegs t [k] ∧ t = { s with regs := t.regs, sent := okTo m :: s.sent }) ∧
  (∀ (s : State) m v k, k = ⟨.casSlink, s.fld ⟨.casSsel, 0, 0⟩ 21 16, s.fld ⟨.casSsel, 0, 0⟩ 13 0⟩ → s.accepts m k →
      bit v 31 = true → s.flag k 31 = false → s.linkFree (bits v 28 24) < bits v 9 0 →
    ∃ t, exec (.casSlinkWrite m v) s = .next t ∧ t.flag k 31 = false ∧ t.flag ⟨.casSsel, 0, 0⟩ 31 = true ∧
      s.keepsRegs t [⟨.casSsel, 0, 0⟩] ∧ t = { s with regs := t.regs, sent := okTo m :: s.sent }) ∧
  (∀ (s : State) (n : Fin 32) (e : RerouteEntry) k, s.serving = true →
      s.linkState n.val = 3 ∨ s.linkState n.val = 4 → k = ⟨.casSlink, s.linkQuad n.val, e.1⟩ →
      s.flag k 31 = true → s.fld k 28 24 = n.val → (s.bundle n.val).contains e.2 = true → e.2 < 32 →
      s.fld k 9 0 ≤ s.linkFree e.2 →
    ∃ t, exec (.reroute n [e]) s = .next t ∧ t.fld k 28 24 = e.2 ∧ t.fld k 9 0 = s.fld k 9 0 ∧ t.flag k 31 = true ∧
      s.keepsHbm t) ∧
  (∀ (s : State) (n : Fin 32) x ofs, s.serving = true → s.linkState n.val = 2 → s.casRole ≠ 1 →
    ∃ t, exec (.sync n x ofs) s = .next t ∧
      (t.reg ⟨.casLdly, n.val, 0⟩).toNat = toUnsigned 16 (syncTrip x / 2) ∧
      t.link n.val = { s.link n.val with nakDue := false } ∧ (∀ k, k ≠ n.val → t.link k = s.link k) ∧
      t.sent = .selov n.val (frameBytes 3 (if (s.link n.val).nakDue then 4 else 0) 0 8 0 (s.link n.val).ack
        (leBytes 8 (s.root / 2))) :: s.sent ∧
      s.keepsRegs t [⟨.casLdly, n.val, 0⟩] ∧ t = { s with regs := t.regs, links := t.links, sent := t.sent }) ∧
  (∀ (s : State) (n : Fin 32) x ofs e, s.serving = true → s.linkState n.val = 2 → s.casRole = 1 →
      s.casHold = false → s.clk.mode ≠ .coasting → s.cas.realign = false →
      s.casHops (s.farId n.val) s.casMaster < s.casHops s.casId s.casMaster →
      e = syncError x ofs (signed 64 (s.pair ⟨.tickCascOfs, 0, 0⟩ ⟨.tickCascOfsHi, 0, 0⟩)) →
    ∃ t, exec (.sync n x ofs) s = .next t ∧ t.flag ⟨.casStat, 0, 0⟩ 24 = decide (e.natAbs ≤ 16) ∧
      (t.reg ⟨.casLdly, n.val, 0⟩).toNat = toUnsigned 16 (syncTrip x / 2) ∧
      signed 64 (t.pair ⟨.tickCascOfs, 0, 0⟩ ⟨.tickCascOfsHi, 0, 0⟩) =
        signed 64 ((s.pair ⟨.tickCascOfs, 0, 0⟩ ⟨.tickCascOfsHi, 0, 0⟩ +
          (if e.natAbs ≤ 8 ∨ s.cascFinal = true then 0 else if 0 < e then 1 else 2 ^ 64 - 1)) % 2 ^ 64) ∧
      s.keepsRegs t [⟨.casLdly, n.val, 0⟩, ⟨.casStat, 0, 0⟩, ⟨.tickCascOfs, 0, 0⟩, ⟨.tickCascOfsHi, 0, 0⟩] ∧
      t = { s with regs := t.regs, links := t.links, sent := t.sent }) ∧
  (∀ (s : State) (n : Fin 32) x ofs own, s.serving = true → s.linkState n.val = 2 → s.casRole = 1 →
      s.casHold = false → s.clk.mode ≠ .coasting → s.cas.realign = true →
      s.cascFinal = false → s.casHops (s.farId n.val) s.casMaster < s.casHops s.casId s.casMaster →
      own = signed 64 (s.pair ⟨.tickCascOfs, 0, 0⟩ ⟨.tickCascOfsHi, 0, 0⟩) →
    ∃ t, exec (.sync n x ofs) s = .next t ∧ t.cas.realign = false ∧ t.flag ⟨.casStat, 0, 0⟩ 25 = false ∧
      t.flag ⟨.casStat, 0, 0⟩ 24 = true ∧
      t.pair ⟨.tickCascOfs, 0, 0⟩ ⟨.tickCascOfsHi, 0, 0⟩ =
        toUnsigned 64 (own + nearTicks (syncError x ofs own)) ∧ s.keepsHbm t)

/-- CLAIM_SEND, CLAIM, CLAIM_TIMEOUT, CONFLICT_CLEAR, RESIGN, OVERRIDE, DEPUTY_SILENCE_TIMEOUT, SILENCE_Q and SILENCE_A
(R332 to R336): a claimant claims every 1 ms; a member follows the one claim it hears, asks to join from hold, and
enters hold after 10 ms of silence; two claims are a conflict; and a deputy takes over on a majority that heard nothing.
The period in which two claims meet is the model's choice (log entry 22). -/
def Obligations.MastersClaimAndDeputiesTakeOver : Prop :=
  (∀ (s : State) t0, s.serving = true → s.cas.claimant = true → s.cas.lastSent = some t0 → t0 + 250000 ≤ s.tick →
    ∃ L o, exec .claimSend s = .next { s with
      cas := { s.cas with lastSent := some s.tick }, links := L,
      sent := o ++ .cas none (.claim s.cas.epoch s.casId) :: s.sent }) ∧
  (∀ (s : State) (n : Fin 32) (ep : Word) (id : Fin 1024), s.serving = true → s.linkState n.val = 2 → s.casRole ≠ 0 →
      id.val ≠ s.casId → s.cas.claimant = false → (∀ e ∈ s.cas.claims, e.1 = id.val) →
      s.reg ⟨.casEpoch, 0, 0⟩ = ep → s.casMaster = id.val →
    ∃ t, exec (.claim n ep id) s = .next t ∧ t.cas.claims = nset s.cas.claims id.val s.tick ∧
      t.cas.maxEpoch = max s.cas.maxEpoch ep.toNat ∧
      t.cas.asked = (s.cas.asked || (s.casHold && !s.casConflict && !s.flag ⟨.casStat, 0, 0⟩ 26)) ∧
      (if s.casHold = true ∧ s.casConflict = false ∧ s.flag ⟨.casStat, 0, 0⟩ 26 = false ∧ s.cas.asked = false then
        ∀ i, i < 48 → .cas (some id.val) (.join ep.toNat (4 * i) ((s.casDigests.drop (4 * i)).take 4)) ∈ t.sent
        else t.sent = s.sent ∧ t.links = s.links) ∧
      s.keepsRegs t [] ∧ t = { s with regs := t.regs, cas := t.cas, links := t.links, sent := t.sent }) ∧
  (∀ (s : State) (n : Fin 32) (ep : Word) (id : Fin 1024), s.serving = true → s.linkState n.val = 2 → s.casRole ≠ 0 →
      id.val ≠ s.casId → s.cas.claimant = false → (∀ e ∈ s.cas.claims, e.1 = id.val) →
    ∃ t, exec (.claim n ep id) s = .next t ∧ t.reg ⟨.casEpoch, 0, 0⟩ = ep ∧ t.casMaster = id.val ∧
      t.casHold = s.casHold ∧ t.casConflict = s.casConflict ∧ s.keepsHbm t) ∧
  (∀ (s : State) (n : Fin 32) (ep : Word) (id : Fin 1024), s.serving = true → s.linkState n.val = 2 → s.casRole ≠ 0 →
      id.val ≠ s.casId → s.cas.claimant = true ∨ (∃ e ∈ s.cas.claims, e.1 ≠ id.val ∧ s.tick < e.2 + 2500000) →
      s.fld ⟨.strSrc, 0x040, 0⟩ 21 20 ≠ 1 → s.fld ⟨.strSrc, 0x041, 0⟩ 21 20 ≠ 1 →
    ∃ t, exec (.claim n ep id) s = .next t ∧ t.casConflict = true ∧ (s.casConflict = false → t.casHold = true) ∧
      t.casMaster = s.casMaster ∧ t.reg ⟨.casEpoch, 0, 0⟩ = s.reg ⟨.casEpoch, 0, 0⟩ ∧ s.keepsHbm t) ∧
  (∀ s : State, s.serving = true → s.casRole = 1 → s.casHold = false → (∀ e ∈ s.cas.claims, e.2 + 2500000 ≤ s.tick) →
      s.fld ⟨.strSrc, 0x041, 0⟩ 21 20 ≠ 1 →
    ∃ t, exec .claimTimeout s = .next t ∧ t.casHold = true ∧ t.cas.asked = false ∧ t.casRole = 1 ∧ s.keepsHbm t) ∧
  (∀ (s : State) e, s.serving = true → s.casConflict = true → s.cas.claims = [e] → s.tick < e.2 + 25000000 →
      s.cas.claimant = false →
    ∃ t, exec .conflictClear s = .next t ∧ t.casConflict = false ∧ t.cas = { s.cas with asked := false } ∧
      s.keepsRegs t [⟨.casStat, 0, 0⟩] ∧ t = { s with regs := t.regs, cas := t.cas }) ∧
  (∀ s : State, s.serving = true → s.casConflict = true → (∀ e ∈ s.cas.claims, e.2 + 25000000 ≤ s.tick) →
      s.cas.claimant = true →
    ∃ t, exec .conflictClear s = .next t ∧ t.casConflict = false ∧ t.casHold = false ∧ t.casRole = 2 ∧
      t.cas.epoch = (s.cas.epoch + 1) % 2 ^ 32 ∧ t.cas.claimant = true ∧
      (t.reg ⟨.casEpoch, 0, 0⟩).toNat = (s.cas.epoch + 1) % 2 ^ 32 ∧ s.keepsHbm t) ∧
  (∀ (s : State) m, s.accepts m ⟨.casCmd, 0, 0⟩ → s.flag ⟨.casCmd, 0, 0⟩ 31 = false → s.cas.claimant = true →
      s.fld ⟨.strSrc, 0x041, 0⟩ 21 20 ≠ 1 →
    ∃ t, exec (.resign m) s = .next t ∧ t.cas.claimant = false ∧ t.casRole = 1 ∧ t.casHold = true ∧ s.keepsHbm t) ∧
  (∀ (s : State) m, s.accepts m ⟨.casCmd, 0, 0⟩ → s.flag ⟨.casCmd, 0, 0⟩ 31 = false → s.casHold = true →
    ∃ t, exec (.override m) s = .next t ∧ t.flag ⟨.casStat, 0, 0⟩ 28 = true ∧ t.inHold = false ∧ t.casHold = true ∧
      t.fld ⟨.casCmdstat, 0, 0⟩ 31 30 = 2 ∧
      s.keepsRegs t [⟨.casCmd, 0, 0⟩, ⟨.casCmdstat, 0, 0⟩, ⟨.casStat, 0, 0⟩] ∧
      t = { s with regs := t.regs, sent := okTo m :: s.sent }) ∧
  (∀ s : State, s.serving = true → s.flag ⟨.casStat, 0, 0⟩ 23 = true → s.casRole = 1 → s.cas.claimant = false →
      s.cas.startAt + 12500000 ≤ s.tick →
      (∀ e ∈ s.cas.claims, e.2 + 12500000 ≤ s.tick) → (∀ x, s.cas.lastPoll = some x → x + 12500000 ≤ s.tick) →
    ∃ t, exec .deputySilenceTimeout s = .next t ∧ (∀ id ∈ s.registered, .cas (some id) .silenceQ ∈ t.sent) ∧
      t = { s with cas := { s.cas with polled := [], lastPoll := some s.tick }, links := t.links, sent := t.sent }) ∧
  (∀ (s : State) (n : Fin 32) (id : Fin 1024), s.serving = true → s.linkState n.val = 2 → s.casRole ≠ 0 →
    ∃ L o, exec (.silenceQ n id) s = .next { s with
      links := L, sent := o ++ .cas (some id.val) (.silenceA id.val s.silent s.cas.maxEpoch) :: s.sent }) ∧
  (∀ (s : State) (id : Fin 1024) ep p, s.serving = true → s.flag ⟨.casStat, 0, 0⟩ 23 = true → s.casRole = 1 →
      s.cas.lastPoll.isSome = true → p = nset s.cas.polled id.val false → id.val ∈ s.registered →
    exec (.silenceA id false ep) s = .next { s with
      cas := { s.cas with polled := p, maxEpoch := max s.cas.maxEpoch ep.toNat } }) ∧
  (∀ (s : State) (id : Fin 1024) ep p, s.serving = true → s.flag ⟨.casStat, 0, 0⟩ 23 = true → s.casRole = 1 →
      s.cas.lastPoll.isSome = true → p = nset s.cas.polled id.val true → s.silent = true →
      s.registered.length < 2 * (p.filter fun e => s.registered.contains e.1).length →
      (∀ e ∈ p, e.1 ∈ s.registered → e.2 = true) →
    ∃ t, exec (.silenceA id true ep) s = .next t ∧ t.casRole = 2 ∧ t.casHold = false ∧ t.cas.claimant = true ∧
      t.cas.epoch = (max s.cas.maxEpoch ep.toNat + 1) % 2 ^ 32 ∧
      (∀ w, w < 32 → t.reg ⟨.casMembers, 0, w⟩ = s.cas.registry.getD w 0) ∧ s.keepsHbm t)

/-- JOIN, ADMIT, REGISTRY, CAS_ADMIT, STATE and MBOX (R333, R334, R338, R340, R348): the master admits a registered
device whose digests agree, refuses a second device of one cascade ID, and waits for its owner otherwise; an admitted
member leaves hold and, with an alignment restart, is to take the whole offset; and a packet for the host arrives with
its source in FLAGS. What becomes of an ID that two devices carry, and how a member learns that its admission is
withdrawn, are the model's choice (log entry 97); so are the mailbox queues' timeout and the packet that finds no room
(log entries 14, 44). CENSUS_ROUND, CAS_CENSUS, CENSUS_Q, CENSUS and CENSUS_ANSWER_TIMEOUT (R347): the master asks every
member once a second or on command; a member answers with 48 messages; a digest that differs from the expected list
shows in CAS_CMIS; and a member that has not answered in full within 500 ms shows there as cup 0xFF. That it shows once
a round, and that a comparison waits for a training stage, are the model's choice (log entries 97, 120). -/
def Obligations.MembersJoinAndAnswerTheCensus : Prop :=
  (∀ (s : State) (n : Fin 32) (id : Fin 1024) ep ds, s.serving = true → s.casRole = 2 → s.linkState n.val = 2 →
      id.val = s.casId → s.fld ⟨.strSrc, 0x044, 0⟩ 21 20 ≠ 1 →
    ∃ t, exec (.join n id ep ds) s = .next t ∧ t.flag ⟨.casStat, 0, 0⟩ 26 = true ∧
      t.flag ⟨.strSrc, 0x044, 0⟩ 31 = true ∧ t.cas.joined = s.cas.joined ∧ s.keepsHbm t) ∧
  (∀ (s : State) (n : Fin 32) (id : Fin 1024) ep ds, s.serving = true → s.casRole = 1 → s.linkState n.val = 2 →
      id.val = s.casId → s.fld ⟨.strSrc, 0x041, 0⟩ 21 20 ≠ 1 →
    ∃ t, exec (.join n id ep ds) s = .next t ∧ t.flag ⟨.casStat, 0, 0⟩ 26 = true ∧ t.casHold = true ∧ s.keepsHbm t) ∧
  (∀ (s : State) (n : Fin 32) (id : Fin 1024) ep ds, s.serving = true → s.casRole = 2 → s.linkState n.val = 2 →
      id.val ≠ s.casId → s.admitted id.val = true → nget s.cas.paths id.val 32 ≠ n.val →
      s.fld ⟨.strSrc, 0x044, 0⟩ 21 20 ≠ 1 →
    ∃ t ms, exec (.join n id ep ds) s = .next t ∧ t.admitted id.val = false ∧ t.flag ⟨.strSrc, 0x044, 0⟩ 31 = true ∧
      t.cas.joined = s.cas.joined ∧ t.cas.dups.contains id.val = true ∧ .cas (some id.val) (.registry ms) ∈ t.sent ∧
      bit (ms.getD (id.val / 32) 0) (id.val % 32) = false ∧ s.keepsHbm t) ∧
  (∀ (s : State) (n : Fin 32) (id : Fin 1024) ep ds, s.serving = true → s.casRole = 2 → s.linkState n.val = 2 →
      id.val ≠ s.casId → s.admitted id.val = false →
      s.flag ⟨.casCfg, 0, 0⟩ 0 = false ∨ s.casIn .casMembers id.val = false ∨ s.cas.dups.contains id.val = true →
      s.fld ⟨.strSrc, 0x044, 0⟩ 21 20 ≠ 1 →
    ∃ t, exec (.join n id ep ds) s = .next t ∧ t.admitted id.val = false ∧ t.flag ⟨.strSrc, 0x044, 0⟩ 31 = true ∧
      look t.cas.joined id.val = some n.val ∧ s.keepsHbm t) ∧
  (∀ (s : State) (n : Fin 32) (id : Fin 1024) ep ds, s.serving = true → s.casRole = 2 → s.linkState n.val = 2 →
      id.val ≠ s.casId → s.admitted id.val = false → s.flag ⟨.casCfg, 0, 0⟩ 0 = true →
      s.casIn .casMembers id.val = true → s.cas.dups.contains id.val = false → s.expectWaits id.val = true →
    exec (.join n id ep ds) s = .next { s with
      cas := { s.cas with maxEpoch := max s.cas.maxEpoch ep.toNat, joined := nset s.cas.joined id.val n.val }
      later := s.later ++ [.join id.val ds] }) ∧
  (∀ (s : State) (n : Fin 32) (id : Fin 1024) (ep : Word) ds u c, s.serving = true → s.casRole = 2 →
      s.linkState n.val = 2 → id.val ≠ s.casId → s.admitted id.val = false → s.flag ⟨.casCfg, 0, 0⟩ 0 = true →
      s.casIn .casMembers id.val = true → s.cas.dups.contains id.val = false → s.expectWaits id.val = false →
      u = { s with cas := { s.cas with
        maxEpoch := max s.cas.maxEpoch ep.toNat, joined := nset s.cas.joined id.val n.val } } →
      (State.mismatch id.val 0 ds u).2 = some c → s.fld ⟨.strSrc, 0x044, 0⟩ 21 20 ≠ 1 →
    ∃ t, exec (.join n id ep ds) s = .next t ∧ t.admitted id.val = false ∧ t.flag ⟨.strSrc, 0x044, 0⟩ 31 = true ∧
      look t.cas.joined id.val = some n.val) ∧
  (∀ (s : State) (n : Fin 32) (id : Fin 1024) ep ds, s.serving = true → s.casRole = 2 → s.linkState n.val = 2 →
      id.val ≠ s.casId → s.admitted id.val = false → s.flag ⟨.casCfg, 0, 0⟩ 0 = true →
      s.casIn .casMembers id.val = true → s.cas.dups.contains id.val = false → s.expectWaits id.val = false →
      (∀ d ∈ ds, d.2 = false) →
    ∃ t, exec (.join n id ep ds) s = .next t ∧ t.admitted id.val = true ∧ look t.cas.joined id.val = none ∧
      look t.cas.paths id.val = some n.val ∧
      (∃ o, t.sent = o ++ .cas (some id.val) (.admitted id.val s.cas.epoch) :: s.sent) ∧
      s.keepsRegs t [⟨.casAdmitted, 0, id.val / 32⟩] ∧
      t = { s with regs := t.regs, cas := t.cas, links := t.links, sent := t.sent }) ∧
  (∀ (s : State) (n : Fin 32) (ep : Word) restart, s.serving = true → s.casRole = 1 → s.linkState n.val = 2 →
    ∃ t, exec (.casAdmitMsg n ep restart) s = .next t ∧ t.casHold = false ∧ t.inHold = false ∧
      t.flag ⟨.casStat, 0, 0⟩ 26 = false ∧ t.flag ⟨.casStat, 0, 0⟩ 25 = decide (s.clk.mode = .coasting) ∧
      t.flag ⟨.casStat, 0, 0⟩ 24 = (!restart && s.flag ⟨.casStat, 0, 0⟩ 24) ∧
      t.cas.realign = (restart || s.cas.realign) ∧
      t.pair ⟨.tickCascOfs, 0, 0⟩ ⟨.tickCascOfsHi, 0, 0⟩ = s.pair ⟨.tickCascOfs, 0, 0⟩ ⟨.tickCascOfsHi, 0, 0⟩ ∧ t.reg ⟨.casEpoch, 0, 0⟩ = ep ∧
      t.casMaster = s.casMaster ∧ s.keepsHbm t) ∧
  (∀ (s : State) ms, s.serving = true →
      s.casRole ≠ 1 ∨ bit ((ms.take 32).getD (s.casId / 32) 0) (s.casId % 32) = true ∨
        bit (s.cas.registry.getD (s.casId / 32) 0) (s.casId % 32) = false ∧ s.flag ⟨.casStat, 0, 0⟩ 23 = false →
    exec (.registry ms) s = .next { s with cas := { s.cas with registry := ms.take 32 } }) ∧
  (∀ (s : State) ms, s.serving = true → s.casRole = 1 →
      bit (s.cas.registry.getD (s.casId / 32) 0) (s.casId % 32) = true ∨ s.flag ⟨.casStat, 0, 0⟩ 23 = true →
      bit ((ms.take 32).getD (s.casId / 32) 0) (s.casId % 32) = false → s.fld ⟨.strSrc, 0x041, 0⟩ 21 20 ≠ 1 →
    ∃ t, exec (.registry ms) s = .next t ∧ t.casHold = true ∧ t.cas.registry = ms.take 32 ∧ s.keepsHbm t) ∧
  (∀ (s : State) m (id : Fin 1024), s.accepts m ⟨.casCmd, 0, 0⟩ → s.flag ⟨.casCmd, 0, 0⟩ 31 = false → s.casRole = 2 → id.val ≠ s.casId →
    ∃ t, exec (.casAdmit m id) s = .next t ∧ t.admitted id.val = true ∧ look t.cas.joined id.val = none ∧
      t.fld ⟨.casCmdstat, 0, 0⟩ 31 30 = 2 ∧
      (∃ o, t.sent = okTo m :: (o ++ .cas (some id.val) (.admitted id.val s.cas.epoch) :: s.sent)) ∧
      s.keepsRegs t [⟨.casCmd, 0, 0⟩, ⟨.casCmdstat, 0, 0⟩, ⟨.casAdmitted, 0, id.val / 32⟩] ∧
      t = { s with regs := t.regs, cas := t.cas, links := t.links, sent := t.sent }) ∧
  (∀ (s : State) m (id : Fin 1024), s.accepts m ⟨.casCmd, 0, 0⟩ → s.flag ⟨.casCmd, 0, 0⟩ 31 = false → s.casRole ≠ 2 →
    ∃ t, exec (.casAdmit m id) s = .next t ∧ t.fld ⟨.casCmdstat, 0, 0⟩ 31 30 = 3 ∧
      t.fld ⟨.casCmdstat, 0, 0⟩ 27 24 = 1 ∧ s.keepsRegs t [⟨.casCmd, 0, 0⟩, ⟨.casCmdstat, 0, 0⟩] ∧
      t = { s with regs := t.regs, sent := okTo m :: s.sent }) ∧
  (∀ (s : State) (id : Fin 1024) c a, s.serving = true → s.casRole = 2 →
    exec (.casState id c a) s = .next { s with
      cas := { s.cas with states := nset s.cas.states id.val (2 * b2n c + b2n a) } }) ∧
  (∀ (s : State) (src : Fin 1024) bs, s.serving = true → s.casRole ≠ 0 → s.flag ⟨.casCfg, 0, 0⟩ 2 = true →
      1 ≤ bs.length → bs.length ≤ 240 → (s.queue .mailRx).used + 1 + (slotsOf bs).length ≤ qCap .mailRx →
      (s.queue .mailRx).dropping = false →
    ∃ t p h, exec (.mbox src bs) s = .next t ∧
      t.queue .mailRx = { s.queue .mailRx with pkts := (s.queue .mailRx).pkts ++ [p] } ∧ p.header = some h ∧
      p.slots = slotsOf bs ∧ h.toNat / 2 ^ 16 % 2 ^ 16 = src.val ∧ h.toNat % 2 ^ 14 = bs.length ∧
      t = { s with queues := t.queues }) ∧
  (∀ (s : State) (src : Fin 1024) bs, s.serving = true →
      qCap .mailRx < (s.queue .mailRx).used + 1 + (slotsOf bs).length →
    exec (.mbox src bs) s = .next s) ∧
  (∀ s : State, s.serving = true → s.casRole = 2 → s.flag ⟨.casCfg, 0, 0⟩ 1 = true →
      s.cas.round = 0 ∨ s.cas.roundAt + 250000000 ≤ s.tick →
    ∃ t, exec .censusRound s = .next t ∧
      t.cas = { s.cas with round := s.cas.round + 1, roundAt := s.tick, answered := [] } ∧
      (∀ i ∈ s.members, .cas (some i) (.censusQ (s.cas.round + 1)) ∈ t.sent) ∧ t = { s with cas := t.cas, links := t.links, sent := t.sent }) ∧
  (∀ (s : State) m, s.accepts m ⟨.casCmd, 0, 0⟩ → s.flag ⟨.casCmd, 0, 0⟩ 31 = false → s.casRole = 2 →
    ∃ t, exec (.casCensus m) s = .next t ∧
      t.cas = { s.cas with round := s.cas.round + 1, roundAt := s.tick, answered := [] } ∧
      (∀ i ∈ s.members, .cas (some i) (.censusQ (s.cas.round + 1)) ∈ t.sent) ∧ t.fld ⟨.casCmdstat, 0, 0⟩ 31 30 = 2 ∧
      s.keepsRegs t [⟨.casCmd, 0, 0⟩, ⟨.casCmdstat, 0, 0⟩] ∧ t = { s with regs := t.regs, cas := t.cas, links := t.links, sent := t.sent }) ∧
  (∀ (s : State) r, s.serving = true → s.casRole = 1 →
    ∃ t, exec (.censusQ r) s = .next t ∧
      (∀ i, i < 48 → .cas (some s.casMaster) (.census r (4 * i) ((s.casDigests.drop (4 * i)).take 4)) ∈ t.sent) ∧
      t = { s with links := t.links, sent := t.sent }) ∧
  (∀ (s : State) (id : Fin 1024) (first : Fin 192) ds p, s.serving = true → s.casRole = 2 → s.admitted id.val = true →
      (∀ d ∈ ds, d.2 = false) → s.expectWaits id.val = false → p = 64 * id.val + first.val / 4 →
    exec (.census id first ds) s = .next { s with
      cas := { s.cas with answered := (s.cas.answered.filter (· != p)) ++ [p] } }) ∧
  (∀ (s : State) (id : Fin 1024) (first : Fin 192) d p, s.serving = true → s.casRole = 2 → s.admitted id.val = true →
      s.expectWaits id.val = true → p = 64 * id.val + first.val / 4 →
    exec (.census id first [d]) s = .next { s with
      cas := { s.cas with answered := (s.cas.answered.filter (· != p)) ++ [p] }
      later := s.later ++ [.census id.val first.val [d]] }) ∧
  (∀ (s s1 u : State) (id : Fin 1024) (first : Fin 192) d p, s.serving = true → s.casRole = 2 →
      s.admitted id.val = true → p = 64 * id.val + first.val / 4 →
      s1 = { s with cas := { s.cas with answered := (s.cas.answered.filter (· != p)) ++ [p] } } →
      s.expectWaits id.val = false → s1.digestOk id.val first.val d = (u, false) → u.flag ⟨.casCmis, 0, 0⟩ 31 = false →
      u.fld ⟨.strSrc, 0x043, 0⟩ 21 20 ≠ 1 →
    ∃ t, exec (.census id first [d]) s = .next t ∧ t.flag ⟨.casCmis, 0, 0⟩ 31 = true ∧
      t.fld ⟨.casCmis, 0, 0⟩ 25 16 = id.val ∧ t.fld ⟨.casCmis, 0, 0⟩ 7 0 = first.val ∧
      t.flag ⟨.strSrc, 0x043, 0⟩ 31 = true ∧ u.keepsHbm t) ∧
  (∀ (s : State) (id : Fin 1024) ps, s.serving = true → s.casRole = 2 → s.cas.round ≠ 0 →
      s.cas.roundAt + 125000000 ≤ s.tick → s.admitted id.val = true →
      ps = s.cas.answered.filter (fun k => k / 64 == id.val) → ps.length < 48 → 64 * id.val + 63 ∉ ps →
      s.flag ⟨.casCmis, 0, 0⟩ 31 = false →
    ∃ t, exec (.censusAnswerTimeout id) s = .next t ∧ t.flag ⟨.casCmis, 0, 0⟩ 31 = true ∧
      t.fld ⟨.casCmis, 0, 0⟩ 25 16 = id.val ∧ t.fld ⟨.casCmis, 0, 0⟩ 7 0 = 0xFF ∧
      t.cas.answered = s.cas.answered ++ [64 * id.val + 63] ∧ s.keepsRegs t [⟨.casCmis, 0, 0⟩] ∧
      t = { s with regs := t.regs, cas := t.cas })

/-- PREPARE, CAS_PREPARE, READY, REFUSE, COMMIT_DECISION, COMMIT, ABORT, REPORT and REPORT_TIMEOUT (R344 to R346): a
member arms its group or refuses; the master commits when every member is ready and aborts otherwise; COMMIT counts
until EXEC − 25,000; ABORT cancels with cause 1010; and failures after COMMIT raise an event. REFUSE's cause in hold is
free (log entry 2), and the cause of every entry of a cancelled group is the model's choice (log entry 118). -/
def Obligations.GroupsAreCommittedAcrossTheCascade : Prop :=
  (∀ (s : State) (g : Fin 256) ex, s.serving = true → s.casRole = 1 → s.casHold = true →
    ∃ c L o, c < 16 ∧ exec (.prepare g ex) s = .next { s with
      freeCtr := s.freeCtr + 1, links := L, sent := o ++ .cas (some s.casMaster) (.refuse g.val c) :: s.sent }) ∧
  (∀ (s : State) (g : Fin 256) ex, s.serving = true → s.casRole = 1 → s.casHold = false →
      s.clk.mode = .coasting ∨ s.flag ⟨.casStat, 0, 0⟩ 24 = false →
    ∃ L o, exec (.prepare g ex) s = .next { s with
      links := L, sent := o ++ .cas (some s.casMaster) (.refuse g.val 11) :: s.sent }) ∧
  (∀ (s : State) (g : Fin 256) ex, s.serving = true → s.casRole = 1 → s.casHold = false → s.clk.mode ≠ .coasting →
      s.flag ⟨.casStat, 0, 0⟩ 24 = true → s.spGroup g.val (fun st => st == 1) ≠ [] → s.spArmedOf g.val = [] →
      s.armFault (s.spGroup g.val fun st => st == 1) (some ex) = none →
    ∃ t, exec (.prepare g ex) s = .next t ∧ (∀ e ∈ s.spGroup g.val (fun st => st == 1), t.spState e = 2) ∧
      t.group g.val = { exec := ex } ∧ (∀ g', g' ≠ g.val → t.group g' = s.group g') ∧
      (∃ o, t.sent = o ++ .cas (some s.casMaster) (.ready g.val) :: s.sent) ∧
      t = { s with clk := { s.clk with lost := t.clk.lost }, regs := t.regs, cas := t.cas, links := t.links, sent := t.sent }) ∧
  (∀ (s : State) (g : Fin 256) ex bad cause, s.serving = true → s.casRole = 1 → s.casHold = false →
      s.clk.mode ≠ .coasting → s.flag ⟨.casStat, 0, 0⟩ 24 = true → s.spGroup g.val (fun st => st == 1) ≠ [] →
      s.spArmedOf g.val = [] → s.armFault (s.spGroup g.val fun st => st == 1) (some ex) = some (bad, cause) →
    ∃ t, exec (.prepare g ex) s = .next t ∧ (∀ e ∈ s.spGroup g.val (fun st => st == 1), t.spState e = 1) ∧
      (∃ o, t.sent = o ++ .cas (some s.casMaster) (.refuse g.val cause) :: s.sent) ∧
      t = { s with regs := t.regs, links := t.links, sent := t.sent }) ∧
  (∀ (s s1 : State) m (g : Fin 256) ex, s.accepts m ⟨.casCmd, 0, 0⟩ → s.flag ⟨.casCmd, 0, 0⟩ 31 = false → s.casRole = 2 → s.casGroupState g.val ≠ 1 →
      s.pair ⟨.casPtick, 0, 0⟩ ⟨.casPtickHi, 0, 0⟩ = ex → s.cascTick + 275000 ≤ ex → s.inHold = false →
      s1 = (s.plainWrite ⟨.casCmd, 0, 0⟩ (casWord 1 g.val)).setFlag ⟨.casCmd, 0, 0⟩ 31 false →
      s1.spGroup g.val (fun st => st == 1) ≠ [] → s1.spArmedOf g.val = [] →
      s1.armFault (s1.spGroup g.val fun st => st == 1) (some ex) = none →
    ∃ t, exec (.casPrepare m g) s = .next t ∧ t.casGroupState g.val = 1 ∧ t.group g.val = { exec := ex } ∧
      (∀ e ∈ s1.spGroup g.val (fun st => st == 1), t.spState e = 2) ∧
      (∀ id ∈ s.members, .cas (some id) (.prepare g.val ex) ∈ t.sent) ∧ t.fld ⟨.casCmdstat, 0, 0⟩ 31 30 = 2 ∧
      t = { s with clk := { s.clk with lost := t.clk.lost }, regs := t.regs, cas := t.cas, links := t.links, sent := t.sent }) ∧
  (∀ (s : State) m (g : Fin 256), s.accepts m ⟨.casCmd, 0, 0⟩ → s.flag ⟨.casCmd, 0, 0⟩ 31 = false → s.casRole = 2 → s.casGroupState g.val ≠ 1 →
      s.pair ⟨.casPtick, 0, 0⟩ ⟨.casPtickHi, 0, 0⟩ < s.cascTick + 275000 →
    ∃ t, exec (.casPrepare m g) s = .next t ∧ t.fld ⟨.casCmdstat, 0, 0⟩ 31 30 = 3 ∧
      t.fld ⟨.casCmdstat, 0, 0⟩ 27 24 = 4 ∧ s.keepsRegs t [⟨.casCmd, 0, 0⟩, ⟨.casCmdstat, 0, 0⟩] ∧
      t = { s with regs := t.regs, sent := okTo m :: s.sent }) ∧
  (∀ (s : State) (id : Fin 1024) (g : Fin 256), s.serving = true → s.casRole = 2 → s.casGroupState g.val ≠ 0 →
      s.admitted id.val = true →
    ∃ t, exec (.ready id g) s = .next t ∧ id.val ∈ (t.group g.val).ready ∧
      (∀ i ∈ (s.group g.val).ready, i ∈ (t.group g.val).ready) ∧ (∀ g', g' ≠ g.val → t.group g' = s.group g') ∧
      t = { s with cas := { s.cas with groups := t.cas.groups } }) ∧
  (∀ (s : State) (id : Fin 1024) (g : Fin 256) (c : Fin 16), s.serving = true → s.casRole = 2 →
      s.casGroupState g.val = 1 → s.admitted id.val = true → s.spArmedOf g.val = [] →
    ∃ t, exec (.refuse id g c) s = .next t ∧ t.casGroupState g.val = 3 ∧ id.val ∈ (t.group g.val).failed ∧
      (∀ i ∈ s.members, .cas (some i) (.abort g.val) ∈ t.sent) ∧ s.keepsRegs t [⟨.casGstat, g.val, 0⟩] ∧
      t = { s with regs := t.regs, cas := t.cas, links := t.links, sent := t.sent }) ∧
  (∀ (s : State) (id : Fin 1024) (g : Fin 256) (c : Fin 16), s.serving = true → s.casRole = 2 →
      2 ≤ s.casGroupState g.val → s.admitted id.val = true →
    ∃ t, exec (.refuse id g c) s = .next t ∧
      t.group g.val = { s.group g.val with
        failed := ((s.group g.val).failed.filter (· != id.val)) ++ [id.val] } ∧
      (∀ g', g' ≠ g.val → t.group g' = s.group g') ∧ t = { s with cas := { s.cas with groups := t.cas.groups } }) ∧
  (∀ (s : State) (g : Fin 256), s.serving = true → s.casRole = 2 → s.casGroupState g.val = 1 →
      (s.group g.val).exec ≤ s.cascTick + 250000 → s.spArmedOf g.val ≠ [] →
      (∀ i ∈ s.members, i ∈ (s.group g.val).ready) →
    ∃ t, exec (.commitDecision g) s = .next t ∧ t.casGroupState g.val = 2 ∧
      t.group g.val = { s.group g.val with commit := true } ∧
      (∀ i ∈ s.members, .cas (some i) (.commit g.val) ∈ t.sent) ∧ s.keepsRegs t [⟨.casGstat, g.val, 0⟩] ∧
      t = { s with regs := t.regs, cas := t.cas, links := t.links, sent := t.sent }) ∧
  (∀ (s : State) (g : Fin 256), s.serving = true → s.casRole = 2 → s.casGroupState g.val = 1 →
      (s.group g.val).exec ≤ s.cascTick + 250000 → (∃ i ∈ s.members, i ∉ (s.group g.val).ready) →
    ∃ t, exec (.commitDecision g) s = .next t ∧ t.casGroupState g.val = 3 ∧ (t.group g.val).commit = (s.group g.val).commit ∧
      (∀ i ∈ s.members, .cas (some i) (.abort g.val) ∈ t.sent) ∧ s.keepsHbm t) ∧
  (∀ (s : State) (g : Fin 256), s.serving = true → s.casRole = 1 → s.spCasc g.val = true →
    ∃ t, exec (.commit g) s = .next t ∧
      t.group g.val = { s.group g.val with
        commit := (s.group g.val).commit || decide (s.cascTick + 25000 ≤ (s.group g.val).exec) } ∧
      (∀ g', g' ≠ g.val → t.group g' = s.group g') ∧ t = { s with cas := { s.cas with groups := t.cas.groups } }) ∧
  (∀ (s : State) (g : Fin 256), s.serving = true → s.casRole = 1 → s.spCasc g.val = true →
      s.fld ⟨.strSrc, 0x032, 0⟩ 21 20 ≠ 1 →
    ∃ t, exec (.abort g) s = .next t ∧
      (∀ e ∈ s.spArmedOf g.val, t.spState e = 5 ∧ t.fld ⟨.spCtl, e, 0⟩ 15 12 = 10) ∧
      .cas (some s.casMaster) (.report g.val 10) ∈ t.sent ∧ t.flag ⟨.strSrc, 0x032, 0⟩ 31 = true ∧ s.keepsHbm t) ∧
  (∀ (s : State) (id : Fin 1024) (g : Fin 256) (c : Fin 16), s.serving = true → s.casRole = 2 →
      id.val ∉ (s.group g.val).executed → id.val ∉ (s.group g.val).failed →
      s.fld ⟨.strSrc, 0x042, 0⟩ 21 20 ≠ 1 →
    ∃ t, exec (.report id g c) s = .next t ∧
      (c.val = 0 → t.group g.val = { s.group g.val with executed := (s.group g.val).executed ++ [id.val] }) ∧
      (c.val ≠ 0 → t.group g.val = { s.group g.val with failed := (s.group g.val).failed ++ [id.val] }) ∧
      (c.val ≠ 0 → s.casGroupState g.val = 2 → t.flag ⟨.strSrc, 0x042, 0⟩ 31 = true) ∧
      (c.val = 0 → t = { s with cas := { s.cas with groups := t.cas.groups } }) ∧ s.keepsHbm t) ∧
  (∀ (s : State) (id : Fin 1024) (g : Fin 256) x, s.serving = true → s.casRole = 2 → 2 ≤ s.casGroupState g.val →
      s.fld ⟨.strSrc, 0x042, 0⟩ 21 20 ≠ 1 → x = s.group g.val → x.exec + 2500000 ≤ s.cascTick → s.admitted id.val = true →
      id.val ∉ x.executed → id.val ∉ x.failed → id.val ∉ x.raised →
    ∃ t, exec (.reportTimeout id g) s = .next t ∧ t.group g.val = { x with raised := x.raised ++ [id.val] } ∧
      t.flag ⟨.strSrc, 0x042, 0⟩ 31 = true ∧ s.keepsHbm t)

/-! ### The owner token, tenants and debug sessions -/

/-- ACQUIRE, TOKEN_RELEASE, DEV_HEARTBEAT and TOKEN_LAPSE (R409, R410): the first host master to ask takes a free token,
no one takes a held one; the holder releases it and restarts its lease; and a lease without a heartbeat lapses. What
becomes of ACQUIREs that arrive together, and that LAPSED shows the lapse, is the model's choice (log 24). TENANT_CREATE
and TEARDOWN (R412, R413): a descriptor that passes its checks gives the tenant its cups, budget, cores and existence; a
tenant that exists is not created again; teardown ends its existence and returns its cups and cores to the owner; and a
tenant that does not exist is not torn down. Which CODE counts where a descriptor has several faults, the state teardown
leaves the cups' registers in, and that a CREATE whose descriptor waits for a training stage runs on are the model's
choice (logs 25, 35, 120). -/
def Obligations.TokenAndTenantsPassBetweenDomains : Prop :=
  (∀ (s : State) ms m, m ∈ ms → holderCode m ≠ 0 → s.holder = 0 → s.accepts m ⟨.devToken, 0, 0⟩ →
      (∀ k, k < m → k ∈ ms → holderCode k = 0 ∨ s.reaches k ⟨.devToken, 0, 0⟩ = false) →
    ∃ t, exec (.acquire ms) s = .next t ∧ t.holder = holderCode m ∧ t.beat = s.tick ∧ s.keepsHbm t) ∧
  (∀ (s : State) ms, s.holder ≠ 0 →
    ∃ t, exec (.acquire ms) s = .next t ∧ t.holder = s.holder ∧ t.beat = s.beat ∧ s.keepsRegs t []) ∧
  (∀ (s : State) m, s.accepts m ⟨.devToken, 0, 0⟩ → holderCode m ≠ 0 → s.holder = holderCode m →
    ∃ t, exec (.tokenRelease m) s = .next t ∧ t.holder = 0 ∧ s.keepsRegs t [⟨.devToken, 0, 0⟩] ∧
      t = { s with regs := t.regs, sent := okTo m :: s.sent }) ∧
  (∀ (s : State) m, s.accepts m ⟨.devToken, 0, 0⟩ → s.holder ≠ holderCode m →
    exec (.tokenRelease m) s = .next { s with sent := okTo m :: s.sent }) ∧
  (∀ (s : State) m, s.accepts m ⟨.devHeartbeat, 0, 0⟩ →
    exec (.devHeartbeat m) s = .next { s with
      beat := if holderCode m ≠ 0 ∧ s.holder = holderCode m then s.tick else s.beat, sent := okTo m :: s.sent }) ∧
  (∀ s : State, s.live = true → s.holder ≠ 0 → s.beat + 250000 * s.fld ⟨.devTokenCfg, 0, 0⟩ 15 0 ≤ s.tick →
    ∃ t, exec .tokenLapse s = .next t ∧ t.holder = 0 ∧ t.flag ⟨.devToken, 0, 0⟩ 28 = true ∧
      t.flag ⟨.strSrc, 0x006, 0⟩ 31 = true ∧ s.keepsHbm t) ∧
  (∀ s : State, s.tick < s.beat + 250000 * s.fld ⟨.devTokenCfg, 0, 0⟩ 15 0 → exec .tokenLapse s = .next s) ∧
  (∀ (s s0 s1 u : State) m (n : Fin 64) b, s.accepts m ⟨.devTcmd, 0, 0⟩ → s.finals = [] →
      s.flag ⟨.devTcmd, 0, 0⟩ 31 = false →
      s0 = (s.plainWrite ⟨.devTcmd, 0, 0⟩ (tcmdWord 1 n.val)).setFlag ⟨.devTcmd, 0, 0⟩ 31 false →
      s0.tcmdWaits = false → s1 = s0.setFlag ⟨.devTcmd, 0, 0⟩ 31 false →
      s1.hbmFetch 0x01 (s1.pair ⟨.devTdesc, 0, 0⟩ ⟨.devTdescHi, 0, 0⟩) 912 = (u, some b) → u.descCode n.val b = 0 →
      descRanges b = [] →
    ∃ t, exec (.tenantCreate m n) s = .next t ∧ t.tenantExists n.val = true ∧
      (∀ c ∈ descCups b, t.cupDom c = 0x10 + n.val) ∧ (∀ k ∈ (tenRecOf b).cores, t.coreDom k = 0x10 + n.val) ∧
      t.fld ⟨.traySbudget, n.val, 0⟩ 15 0 = numAt b 2 2 ∧ t.fld ⟨.traySbudget, n.val, 0⟩ 31 16 = numAt b 4 2 ∧
      t.fld ⟨.devTstat, 0, 0⟩ 31 30 = 2) ∧
  (∀ (s s0 s1 u : State) m (n : Fin 64) b, s.accepts m ⟨.devTcmd, 0, 0⟩ → s.finals = [] →
      s.flag ⟨.devTcmd, 0, 0⟩ 31 = false →
      s0 = (s.plainWrite ⟨.devTcmd, 0, 0⟩ (tcmdWord 1 n.val)).setFlag ⟨.devTcmd, 0, 0⟩ 31 false →
      s0.tcmdWaits = false → s1 = s0.setFlag ⟨.devTcmd, 0, 0⟩ 31 false →
      s1.hbmFetch 0x01 (s1.pair ⟨.devTdesc, 0, 0⟩ ⟨.devTdescHi, 0, 0⟩) 912 = (u, some b) → u.descCode n.val b ≠ 0 →
    ∃ t, exec (.tenantCreate m n) s = .next t ∧ t.fld ⟨.devTstat, 0, 0⟩ 31 30 = 3 ∧
      t.fld ⟨.devTstat, 0, 0⟩ 27 24 = u.descCode n.val b ∧ u.keepsRegs t [⟨.devTstat, 0, 0⟩] ∧
      t = { u with regs := t.regs, sent := okTo m :: u.sent }) ∧
  (∀ (s s0 : State) m (n : Fin 64), s.accepts m ⟨.devTcmd, 0, 0⟩ → s.finals = [] → s.flag ⟨.devTcmd, 0, 0⟩ 31 = false →
      s0 = (s.plainWrite ⟨.devTcmd, 0, 0⟩ (tcmdWord 1 n.val)).setFlag ⟨.devTcmd, 0, 0⟩ 31 false → s0.tcmdWaits = true →
    ∃ t, exec (.tenantCreate m n) s = .next t ∧ t.flag ⟨.devTcmd, 0, 0⟩ 31 = true ∧ t.fld ⟨.devTstat, 0, 0⟩ 31 30 = 1 ∧
      s.keepsRegs t [⟨.devTcmd, 0, 0⟩, ⟨.devTstat, 0, 0⟩] ∧
      t = { s with regs := t.regs, later := s.later ++ [.create n.val], sent := okTo m :: s.sent }) ∧
  (∀ (s : State) m (n : Fin 64), s.accepts m ⟨.devTcmd, 0, 0⟩ → s.finals = [] → s.flag ⟨.devTcmd, 0, 0⟩ 31 = true →
    exec (.tenantCreate m n) s = .next { s with sent := okTo m :: s.sent } ∧
      exec (.teardown m n) s = .next { s with sent := okTo m :: s.sent }) ∧
  (∀ (s : State) (n : Fin 64) b, s.tenantExists n.val = true → s.descCode n.val b = 1) ∧
  (∀ (s : State) m (n : Fin 64), s.accepts m ⟨.devTcmd, 0, 0⟩ → s.flag ⟨.devTcmd, 0, 0⟩ 31 = false →
      s.tenantExists n.val = true →
    ∃ t, exec (.teardown m n) s = .next t ∧ t.tenantExists n.val = false ∧
      (∀ c, c < 192 → s.cupDom c = 0x10 + n.val → t.cupDom c = 0x01 ∧ t.cupState c = 0) ∧
      (∀ k, k < 16 → s.coreDom k = 0x10 + n.val → t.coreDom k = 0x01 ∧ t.coreState k = 0) ∧
      t.fld ⟨.devTstat, 0, 0⟩ 31 30 = 2) ∧
  (∀ (s : State) m (n : Fin 64), s.accepts m ⟨.devTcmd, 0, 0⟩ → s.flag ⟨.devTcmd, 0, 0⟩ 31 = false →
      s.tenantExists n.val = false →
    ∃ t, exec (.teardown m n) s = .next t ∧ t.fld ⟨.devTstat, 0, 0⟩ 31 30 = 3 ∧ t.fld ⟨.devTstat, 0, 0⟩ 27 24 = 8 ∧
      s.keepsRegs t [⟨.devTcmd, 0, 0⟩, ⟨.devTstat, 0, 0⟩] ∧ t = { s with regs := t.regs, sent := okTo m :: s.sent })

/-- HELLO, PROOF, DBG_CLOSE, SESSION_IDLE_TIMEOUT and RECOVER (R417 to R421, R426, R427): a chain that verifies is
answered with a challenge, a proof that verifies opens the session, and any other is DENIED at 50 ms, a HELLO through a
window whose session is open with them; a session closes on command or after 10 s without an access, its halted cores
resuming; and a valid recovery block makes a CHIP reset due. The session a HELLO names, what becomes of one through a
window with an open session, and whose record a failure is are the model's choice (logs 61, 76, 107). -/
def Obligations.SessionsOpenCloseAndRecover : Prop :=
  (∀ (s : State) m (w : Fin 9) v win dom i, s.mayCommand m w.val → win = s.dbgWin m w.val → bits v 23 16 = dom →
      s.mayOpen m win dom = true → s.plyngen = false → s.sessFor win = some i →
    ∃ t, exec (.hello m w v) s = .next t ∧
      (s.chainOk dom (s.dbgMsg win 738) = true → t.dbgEnded win 0 ∧ t.fld ⟨.dbgStat, win, 0⟩ 29 28 = 1 ∧
        (t.session i).auth = true ∧ (t.session i).isOpen = false ∧ (t.session i).mid = m ∧ (t.session i).dom = dom ∧
        (t.session i).win = win ∧ t.freeCtr = s.freeCtr + 1) ∧
      (s.chainOk dom (s.dbgMsg win 738) = false → s.fld ⟨.strSrc, 0x070, 0⟩ 21 20 ≠ 1 → t.dbgRuns win ∧
        t.refusals.length = s.refusals.length + 1 ∧ (t.session i).isOpen = false ∧ t.freeCtr = s.freeCtr) ∧
      s.keepsHbm t) ∧
  (∀ (s : State) m (w : Fin 9) v win j x, s.mayCommand m w.val → win = s.dbgWin m w.val → look s.sess j = some x →
      x.win = win → x.isOpen = true → s.fld ⟨.strSrc, 0x070, 0⟩ 21 20 ≠ 1 →
    ∃ t, exec (.hello m w v) s = .next t ∧ t.dbgRuns win ∧ t.refusals.length = s.refusals.length + 1 ∧
      (look t.sess j).isSome = true ∧ (t.session j).isOpen = true ∧ (t.session j).halted = x.halted ∧
      (t.session j).dom = x.dom ∧ s.keepsHbm t) ∧
  (∀ (s : State) m (w : Fin 9) v win i x, s.mayCommand m w.val → win = s.dbgWin m w.val →
      (s.sess.find? fun e => e.2.win == win && e.2.auth && e.2.mid == m) = some (i, x) → x.dom ≠ 0x00 →
      s.mayOpen m win x.dom = true → s.fld ⟨.strSrc, 0x070, 0⟩ 21 20 ≠ 1 →
    ∃ t, exec (.proof m w v) s = .next t ∧
      (s.proofOk x = true → t.dbgEnded win 0 ∧ t.fld ⟨.dbgStat, win, 0⟩ 29 28 = 2 ∧
        t.fld ⟨.dbgStat, win, 0⟩ 15 8 = x.dom % 256 ∧
        t.session i = { x with auth := false, isOpen := true, lastAccess := s.tick } ∧ t.plyngen = s.plyngen) ∧
      (s.proofOk x = false → t.dbgRuns win ∧ t.refusals.length = s.refusals.length + 1) ∧
      t.flag ⟨.strSrc, 0x070, 0⟩ 31 = true ∧ s.keepsHbm t) ∧
  (∀ (s : State) m (w : Fin 9) v win i x, s.mayCommand m w.val → win = s.dbgWin m w.val →
      (s.sess.find? fun e => e.2.win == win && e.2.mid == m) = some (i, x) → look s.sess i = some x → x.held = [] →
      s.fld ⟨.strSrc, 0x070, 0⟩ 21 20 ≠ 1 →
    ∃ t, exec (.dbgClose m w v) s = .next t ∧ look t.sess i = none ∧ (∀ k, k ≠ i → (look t.sess k).isSome = (look s.sess k).isSome) ∧
      (∀ k ∈ x.halted, k < 16 → s.coreState k = 3 → t.coreState k = 1) ∧ t.dbgEnded win 0 ∧
      (s.urn.pend = [] → s.keepsHbm t)) ∧
  (∀ (s : State) (i : Fin 8) x, s.live = true → look s.sess i.val = some x → x.isOpen = true →
      x.lastAccess + 2500000000 ≤ s.tick → s.fld ⟨.strSrc, 0x070, 0⟩ 21 20 ≠ 1 →
    ∃ t, exec (.sessionIdleTimeout i) s = .next t ∧ t.sess = erase s.sess i.val ∧
      t.flag ⟨.strSrc, 0x070, 0⟩ 31 = true ∧ (∀ k ∈ x.halted, k < 16 → s.coreState k = 3 → t.coreState k = 1) ∧
      (s.phase = .factory → x.dom = 0x00 → t.phase = .halted) ∧
      (s.urn.pend = [] → x.held = [] → s.keepsHbm t)) ∧
  (∀ (s : State) (i : Fin 8), (s.session i.val).isOpen = false ∨ s.tick < (s.session i.val).lastAccess + 2500000000 →
    exec (.sessionIdleTimeout i) s = .next s) ∧
  (∀ (s : State) (w : Fin 9) v, s.mayCommand 0x181 w.val → s.phase = .integrity → s.sessAt (s.dbgWin 0x181 w.val) = none →
    ∃ t, exec (.recover 0x181 w v) s = .next t ∧
      (s.recoverOk (s.dbgMsg (s.dbgWin 0x181 w.val) 146) = true → t.dbgEnded (s.dbgWin 0x181 w.val) 0 ∧
        t.chipDue = true ∧ t.chipWhy = 5) ∧
      (s.recoverOk (s.dbgMsg (s.dbgWin 0x181 w.val) 146) = false → t.dbgRuns (s.dbgWin 0x181 w.val) ∧
        t.chipDue = s.chipDue) ∧ t.phase = .integrity ∧
      s.keepsRegs t [⟨.dbgCtl, s.dbgWin 0x181 w.val, 0⟩, ⟨.dbgStat, s.dbgWin 0x181 w.val, 0⟩])

/-- HALT, RESUME, STEP, EXEC, DBG_CAPTURE and DEBUG_CAPTURE_TICK (R422 to R425): a session halts a core of its domain
that is not in reset once its requests are complete, resumes it, steps it by the instruction at its pc, halted still,
and feeds it an instruction, none but a halted one; it captures its cups at a tick at least 2,500 ahead. What an
instruction does to a core is Config's (log 6); several captures that wait, and that a capture's command ends at its
acceptance, are the model's choice (log 26), as is that an OP which waits for a training stage runs on (log 120). -/
def Obligations.SessionsHaltFeedAndCapture : Prop :=
  (∀ (s : State) m (w : Fin 9) v win i (c : Fin 16), s.commands m w.val i → win = s.dbgWin m w.val → bits v 4 0 = c.val →
      s.dbgCore (s.session i) c.val = true → s.coreState c.val ≠ 0 → (∀ e ∈ s.outstanding, e.mid ≠ 0x100 + c.val) →
    ∃ t, exec (.halt m w v) s = .next t ∧ t.dbgEnded win 0 ∧ t.coreState c.val = 3 ∧ c.val ∈ (t.session i).halted ∧
      s.keepsRegs t [⟨.dbgCtl, win, 0⟩, ⟨.dbgStat, win, 0⟩, ⟨.cpuStat, c.val, 0⟩] ∧
      t = { s with regs := t.regs, sess := t.sess, sent := okTo m :: s.sent }) ∧
  (∀ (s : State) m (w : Fin 9) v win i (c : Fin 16), s.commands m w.val i → win = s.dbgWin m w.val → bits v 4 0 = c.val →
      s.dbgCore (s.session i) c.val = true → (∃ e ∈ s.outstanding, e.mid = 0x100 + c.val) →
    ∃ t, exec (.halt m w v) s = .next t ∧ t.dbgRuns win ∧ t.later = s.later ++ [.core win] ∧
      (t.session i).halted = (s.session i).halted ∧ s.keepsRegs t [⟨.dbgCtl, win, 0⟩, ⟨.dbgStat, win, 0⟩] ∧
      t = { s with regs := t.regs, sess := t.sess, later := t.later, sent := okTo m :: s.sent }) ∧
  (∀ (s : State) m (w : Fin 9) v win i (c : Fin 16), s.commands m w.val i → win = s.dbgWin m w.val → bits v 4 0 = c.val →
      s.dbgCore (s.session i) c.val = true → s.coreState c.val = 0 → (∀ e ∈ s.outstanding, e.mid ≠ 0x100 + c.val) →
    ∃ t, exec (.halt m w v) s = .next t ∧ t.dbgEnded win 4 ∧ (t.session i).halted = (s.session i).halted ∧
      s.keepsRegs t [⟨.dbgCtl, win, 0⟩, ⟨.dbgStat, win, 0⟩] ∧
      t = { s with regs := t.regs, sess := t.sess, sent := okTo m :: s.sent }) ∧
  (∀ (s : State) m (w : Fin 9) v win i (c : Fin 16), s.commands m w.val i → win = s.dbgWin m w.val → bits v 4 0 = c.val →
      s.dbgCore (s.session i) c.val = true → c.val ∈ (s.session i).halted → s.coreState c.val = 3 →
    ∃ t, exec (.resume m w v) s = .next t ∧ t.dbgEnded win 0 ∧ t.coreState c.val = 1 ∧ c.val ∉ (t.session i).halted ∧
      s.keepsRegs t [⟨.dbgCtl, win, 0⟩, ⟨.dbgStat, win, 0⟩, ⟨.cpuStat, c.val, 0⟩] ∧
      t = { s with regs := t.regs, sess := t.sess, sent := okTo m :: s.sent }) ∧
  (∀ (s : State) m (w : Fin 9) v win i (c : Fin 16), s.commands m w.val i → win = s.dbgWin m w.val → bits v 4 0 = c.val →
      s.dbgCore (s.session i) c.val = true → c.val ∉ (s.session i).halted →
    ∃ t u r, exec (.resume m w v) s = .next t ∧ exec (.step m w v) s = .next u ∧ exec (.exec m w v) s = .next r ∧
      t.dbgEnded win 4 ∧ u.dbgEnded win 4 ∧ r.dbgEnded win 4 ∧ t.cores = s.cores ∧ u.cores = s.cores ∧
      r.cores = s.cores ∧ s.keepsRegs t [⟨.dbgCtl, win, 0⟩, ⟨.dbgStat, win, 0⟩]) ∧
  (∀ (s : State) m (w : Fin 9) v win i (c : Fin 16), s.commands m w.val i → win = s.dbgWin m w.val → bits v 4 0 = c.val →
      s.dbgCore (s.session i) c.val = true → c.val ∈ (s.session i).halted →
      s.stepWaits c.val (s.session i).dom = true →
    ∃ t, exec (.step m w v) s = .next t ∧ t.dbgRuns win ∧ t.later = s.later ++ [.core win] ∧ t.cores = s.cores) ∧
  (∀ (s s1 : State) m (w : Fin 9) v win i (c : Fin 16) d k, s.commands m w.val i → win = s.dbgWin m w.val →
      bits v 4 0 = c.val → s.dbgCore (s.session i) c.val = true → c.val ∈ (s.session i).halted → k = s.core c.val →
      d = (s.session i).dom → s1 = (((s.touchSession m win).plainWrite ⟨.dbgCtl, win, 0⟩
        (putBits (putBits v 31 31 1) 27 24 6)).setFlag ⟨.dbgCtl, win, 0⟩ 31 false).setFields ⟨.dbgStat, win, 0⟩
        [(27, 24, 0), (23, 16, 0)] → s1.stepWaits c.val d = false →
    ∃ t, exec (.step m w v) s = .next t ∧ t.dbgEnded win 0 ∧
      (Config.rvFetch s.freeCtr k.csr k.pc k.priv = none →
        t.core c.val = k.trap causeFetch ∧ t.coreState c.val = s.coreState c.val ∧ c.val ∈ (t.session i).halted) ∧
      (∀ a u, Config.rvFetch s.freeCtr k.csr k.pc k.priv = some a → s1.draw.coreRead c.val d a 4 = (u, none) →
        t.core c.val = (u.core c.val).trap causeFetch ∧ t.coreState c.val = u.coreState c.val ∧
          t.session i = u.session i) ∧
      (∀ a u b, Config.rvFetch s.freeCtr k.csr k.pc k.priv = some a → s1.draw.coreRead c.val d a 4 = (u, some b) →
        Config.rvAccess (wordOf b) k.x k.f k.csr k.pc k.priv = none →
        t.coreState c.val = u.coreState c.val ∧ t.session i = u.session i ∧
        (∀ xs fs cs pc pr, Config.rvStep (wordOf b) k.x k.f k.csr k.pc k.priv 0 = (xs, fs, cs, pc, pr, none) →
          t.core c.val = { u.core c.val with x := xs, f := fs, csr := cs, pc := pc, priv := pr }) ∧
        (∀ xs fs cs pc pr e, Config.rvStep (wordOf b) k.x k.f k.csr k.pc k.priv 0 = (xs, fs, cs, pc, pr, some e) →
          t.core c.val = (u.core c.val).trap e)) ∧
      (∀ a u b acc r e, Config.rvFetch s.freeCtr k.csr k.pc k.priv = some a → s1.draw.coreRead c.val d a 4 = (u, some b) →
        Config.rvAccess (wordOf b) k.x k.f k.csr k.pc k.priv = some acc →
        u.rvMem (fun s a n => s.coreRead c.val d a n) (fun s a b => s.coreWrite c.val d a b) (some acc) = (r, .error e) →
        t.core c.val = (r.core c.val).trap e ∧ t.session i = r.session i) ∧
      (∀ a u b acc r x xs fs cs pc pr, Config.rvFetch s.freeCtr k.csr k.pc k.priv = some a →
        s1.draw.coreRead c.val d a 4 = (u, some b) →
        Config.rvAccess (wordOf b) k.x k.f k.csr k.pc k.priv = some acc →
        u.rvMem (fun s a n => s.coreRead c.val d a n) (fun s a b => s.coreWrite c.val d a b) (some acc) = (r, .ok x) →
        Config.rvStep (wordOf b) k.x k.f k.csr k.pc k.priv (BitVec.ofNat 64 x) = (xs, fs, cs, pc, pr, none) →
        t.core c.val = { r.core c.val with x := xs, f := fs, csr := cs, pc := pc, priv := pr } ∧
          t.session i = r.session i)) ∧
  (∀ (s : State) m (w : Fin 9) v win i (c : Fin 16) insn k, s.commands m w.val i → win = s.dbgWin m w.val →
      bits v 4 0 = c.val → s.dbgCore (s.session i) c.val = true → c.val ∈ (s.session i).halted →
      s.reg ⟨.dbgInsn, win, 0⟩ = insn → k = s.core c.val → k.csr = [] →
      s.execWaits win c.val (s.session i).dom = false →
    ∃ t, exec (.exec m w v) s = .next t ∧ t.flag ⟨.dbgCtl, win, 0⟩ 31 = false ∧
      (execBarred insn = true → t.dbgEnded win 5 ∧ t.cores = s.cores) ∧
      (∀ csr xs fs cs pc pr, execBarred insn = false →
        csr = nset (nset (nset [] 0x7B1 k.pc) 0x7B2 (s.dbgData win).1) 0x7B3 (s.dbgData win).2 →
        Config.rvAccess insn k.x k.f csr k.pc 3 = none →
        Config.rvStep insn k.x k.f csr k.pc 3 0 = (xs, fs, cs, pc, pr, none) →
        t.dbgEnded win 0 ∧ (t.core c.val).x = xs ∧ (t.core c.val).f = fs ∧ (t.core c.val).pc = nget cs 0x7B1 k.pc ∧
          t.dbgData win = (nget cs 0x7B2 (s.dbgData win).1, nget cs 0x7B3 (s.dbgData win).2))) ∧
  (∀ (s : State) m (w : Fin 9) v win i cups tk, s.commands m w.val i → win = s.dbgWin m w.val →
      cups = captureCups (s.dbgMsg win 40) → tk = numAt (s.dbgMsg win 40) 32 8 → s.tick + 2500 ≤ tk →
      numAt (s.dbgMsg win 40) 24 1 ≤ 1 → (∀ c ∈ cups, s.cupDom c = (s.session i).dom) → s.captureBusy cups tk = false →
    ∃ t, exec (.dbgCapture m w v) s = .next t ∧ t.dbgEnded win 0 ∧
      (t.session i).captures = (s.session i).captures ++ [(cups, numAt (s.dbgMsg win 40) 24 1 == 1, tk)] ∧
      s.keepsRegs t [⟨.dbgCtl, win, 0⟩, ⟨.dbgStat, win, 0⟩] ∧
      t = { s with regs := t.regs, sess := t.sess, sent := okTo m :: s.sent }) ∧
  (∀ (s : State) (i : Fin 8) (cups : List Nat) hold, s.serving = true →
      (s.session i.val).captures = [(cups, hold, s.tick)] → s.root = 16 * s.tick →
    ∃ t, exec (.debugCaptureTick i) s = .next t ∧ (t.session i.val).captures = [] ∧
      (t.session i.val).held = (if hold then (s.session i.val).held.filter (fun c => !cups.contains c) ++ cups
        else (s.session i.val).held) ∧ t.freeCtr = s.freeCtr + cups.length ∧ s.keepsHbm t) ∧
  (∀ (s : State) (i : Fin 8), s.serving = true → (∀ e ∈ (s.session i.val).captures, s.root ≠ 16 * e.2.2) →
    exec (.debugCaptureTick i) s = .next s)
end

