-- ==== Sys2Proof/Laws/Sparse.lean ====
section
/-! SUPPORT. Sparse lists: a read after a write, and the canonical form that every write keeps. -/

namespace Sys2Proof.Machine

variable {κ α : Type} [DecidableEq κ]

/-- What a write leaves readable at its own key. -/
theorem look_insertAt_self (lt : κ → κ → Bool) (m : List (κ × α)) (k : κ) (v : α) :
    look (insertAt lt m k v) k = some v := by
  induction m with
  | nil => simp [insertAt, look]
  | cons e r ih =>
    obtain ⟨k', v'⟩ := e
    by_cases h : k = k'
    · simp [insertAt, look, h]
    · by_cases h2 : lt k k' = true
      · simp [insertAt, look, h, h2]
      · simp [insertAt, look, h, h2, ih]

/-- A write leaves every other key as it was. -/
theorem look_insertAt_ne (lt : κ → κ → Bool) (m : List (κ × α)) (k j : κ) (v : α) (hj : j ≠ k) :
    look (insertAt lt m k v) j = look m j := by
  induction m with
  | nil => simp [insertAt, look, hj]
  | cons e r ih =>
    obtain ⟨k', v'⟩ := e
    by_cases h : k = k'
    · subst h; simp [insertAt, look, hj]
    · by_cases h2 : lt k k' = true
      · simp [insertAt, look, h, h2, hj]
      · simp [insertAt, look, h, h2, ih]

/-- An erased key is not listed. -/
theorem look_erase_self (m : List (κ × α)) (k : κ) : look (erase m k) k = none := by
  induction m with
  | nil => rfl
  | cons e r ih =>
    obtain ⟨k', v'⟩ := e
    by_cases h : k' = k
    · simpa [erase, h] using ih
    · have h' : ¬k = k' := fun e => h e.symm
      simpa [erase, h, look, h'] using ih

/-- Erasing a key leaves every other key as it was. -/
theorem look_erase_ne (m : List (κ × α)) (k j : κ) (hj : j ≠ k) : look (erase m k) j = look m j := by
  induction m with
  | nil => rfl
  | cons e r ih =>
    obtain ⟨k', v'⟩ := e
    by_cases h : k' = k
    · subst h
      simpa [erase, look, hj] using ih
    · by_cases h2 : j = k'
      · simp [erase, h, look, h2]
      · simpa [erase, h, look, h2] using ih

variable [DecidableEq α]

/-- A read of the key just written gives the value written. -/
theorem lookD_putD_self (lt : κ → κ → Bool) (m : List (κ × α)) (k : κ) (v d : α) :
    lookD (putD lt m k v d) k d = v := by
  unfold putD lookD
  split
  · rename_i h; rw [look_erase_self]; exact h.symm
  · rw [look_insertAt_self]; rfl

/-- A write leaves the value of every other key as it was. -/
theorem lookD_putD_ne (lt : κ → κ → Bool) (m : List (κ × α)) (k j : κ) (v d d' : α) (hj : j ≠ k) :
    lookD (putD lt m k v d) j d' = lookD m j d' := by
  unfold putD lookD
  split
  · rw [look_erase_ne m k j hj]
  · rw [look_insertAt_ne lt m k j v hj]

omit [DecidableEq α] in
/-- The keys of a list after an insertion. -/
theorem mem_insertAt {lt : κ → κ → Bool} {m : List (κ × α)} {k : κ} {v : α} {e : κ × α}
    (he : e ∈ insertAt lt m k v) : e = (k, v) ∨ e ∈ m := by
  induction m with
  | nil => simpa [insertAt] using he
  | cons f r ih =>
    obtain ⟨k', v'⟩ := f
    unfold insertAt at he
    split at he
    · rcases List.mem_cons.mp he with h | h
      · exact .inl h
      · exact .inr (List.mem_cons_of_mem _ h)
    · split at he
      · rcases List.mem_cons.mp he with h | h
        · exact .inl h
        · exact .inr h
      · rcases List.mem_cons.mp he with h | h
        · exact .inr (by rw [h]; exact List.mem_cons_self)
        · rcases ih h with h | h
          · exact .inl h
          · exact .inr (List.mem_cons_of_mem _ h)

/-- An order that places every two keys. -/
structure KeyOrder (lt : κ → κ → Bool) : Prop where
  trans : ∀ {a b c}, lt a b = true → lt b c = true → lt a c = true
  total : ∀ {a b}, a ≠ b → lt a b = false → lt b a = true

omit [DecidableEq α] in
/-- Insertion keeps keys rising. -/
theorem pairwise_insertAt {lt : κ → κ → Bool} (o : KeyOrder lt) {m : List (κ × α)} (k : κ) (v : α)
    (h : m.Pairwise (fun a b => lt a.1 b.1 = true)) :
    (insertAt lt m k v).Pairwise (fun a b => lt a.1 b.1 = true) := by
  induction m with
  | nil => simp [insertAt]
  | cons f r ih =>
    obtain ⟨k', v'⟩ := f
    have h1 := List.pairwise_cons.mp h
    unfold insertAt
    split
    · rename_i e
      subst e
      exact List.pairwise_cons.mpr ⟨h1.1, h1.2⟩
    · rename_i e
      split
      · rename_i l
        refine List.pairwise_cons.mpr ⟨?_, h⟩
        intro a ha
        rcases List.mem_cons.mp ha with g | g
        · rw [g]; exact l
        · exact o.trans l (h1.1 a g)
      · rename_i l
        refine List.pairwise_cons.mpr ⟨?_, ih h1.2⟩
        intro a ha
        rcases mem_insertAt ha with g | g
        · rw [g]; exact o.total e (by simpa using l)
        · exact h1.1 a g

omit [DecidableEq κ] in
/-- Every part of a canonical list is canonical. -/
theorem Sparse.filter {lt : κ → κ → Bool} {d : κ → α} {m : List (κ × α)} (h : Sparse lt d m) (p : κ × α → Bool) :
    Sparse lt d (m.filter p) :=
  ⟨h.1.filter p, fun e he => h.2 e (List.mem_filter.mp he).1⟩

/-- A write keeps the canonical form: what equals the default leaves the list. -/
theorem Sparse.putD {lt : κ → κ → Bool} (o : KeyOrder lt) {d : κ → α} {m : List (κ × α)} (h : Sparse lt d m) (k : κ)
    (v : α) : Sparse lt d (Machine.putD lt m k v (d k)) := by
  unfold Machine.putD
  split
  · exact h.filter _
  · rename_i hv
    refine ⟨pairwise_insertAt o k v h.1, fun e he => ?_⟩
    rcases mem_insertAt he with g | g
    · rw [g]; exact hv
    · exact h.2 e g

omit [DecidableEq κ] in
/-- The empty list is canonical. -/
theorem Sparse.nil {lt : κ → κ → Bool} {d : κ → α} : Sparse lt d [] := ⟨List.Pairwise.nil, by simp⟩

/-- Number keys are ordered. -/
theorem natLt_order : KeyOrder natLt where
  trans h1 h2 := by simp only [natLt, decide_eq_true_eq] at *; omega
  total h1 h2 := by simp only [natLt, decide_eq_true_eq, decide_eq_false_iff_not] at *; omega

/-- A register name is known by its place. -/
theorem RegName.ctorIdx_inj {a b : RegName} (h : a.ctorIdx = b.ctorIdx) : a = b := by
  have ha := RegName.ofNat_ctorIdx a
  have hb := RegName.ofNat_ctorIdx b
  rw [← ha, ← hb, h]

/-- Register keys are ordered. -/
theorem keyLt_order : KeyOrder keyLt where
  trans h1 h2 := by simp only [keyLt, decide_eq_true_eq] at *; omega
  total := by
    intro a b h1 h2
    simp only [keyLt, decide_eq_true_eq, decide_eq_false_iff_not] at *
    have : ¬(a.name.ctorIdx = b.name.ctorIdx ∧ a.i = b.i ∧ a.j = b.j) := by
      rintro ⟨e1, e2, e3⟩
      apply h1
      obtain ⟨an, ai, aj⟩ := a
      obtain ⟨bn, bi, bj⟩ := b
      simp only at e1 e2 e3
      rw [RegName.ctorIdx_inj e1, e2, e3]
    omega

end Sys2Proof.Machine
end

