-- ==== Sys2Proof/Laws/State.lean ====
section
/-! SUPPORT. What each update of the state leaves as it was: one lemma per field per update. -/

namespace Sys2Proof.Machine

variable (s : State)

@[simp] theorem State.setReg_pending (k : RegKey) (w : Word) : (s.setReg k w).pending = s.pending := rfl
@[simp] theorem State.setReg_freeCtr (k : RegKey) (w : Word) : (s.setReg k w).freeCtr = s.freeCtr := rfl
@[simp] theorem State.setReg_sent (k : RegKey) (w : Word) : (s.setReg k w).sent = s.sent := rfl
@[simp] theorem State.setReg_phase (k : RegKey) (w : Word) : (s.setReg k w).phase = s.phase := rfl
@[simp] theorem State.setReg_root (k : RegKey) (w : Word) : (s.setReg k w).root = s.root := rfl
@[simp] theorem State.setReg_aon (k : RegKey) (w : Word) : (s.setReg k w).aon = s.aon := rfl
@[simp] theorem State.setReg_clk (k : RegKey) (w : Word) : (s.setReg k w).clk = s.clk := rfl
@[simp] theorem State.setReg_time (k : RegKey) (w : Word) : (s.setReg k w).time = s.time := rfl
@[simp] theorem State.setReg_pins (k : RegKey) (w : Word) : (s.setReg k w).pins = s.pins := rfl
@[simp] theorem State.setReg_latches (k : RegKey) (w : Word) : (s.setReg k w).latches = s.latches := rfl
@[simp] theorem State.setReg_outstanding (k : RegKey) (w : Word) : (s.setReg k w).outstanding = s.outstanding := rfl
@[simp] theorem State.setReg_responses (k : RegKey) (w : Word) : (s.setReg k w).responses = s.responses := rfl
@[simp] theorem State.setReg_fences (k : RegKey) (w : Word) : (s.setReg k w).fences = s.fences := rfl
@[simp] theorem State.setReg_heldReqs (k : RegKey) (w : Word) : (s.setReg k w).heldReqs = s.heldReqs := rfl
@[simp] theorem State.setReg_refusals (k : RegKey) (w : Word) : (s.setReg k w).refusals = s.refusals := rfl
@[simp] theorem State.setReg_stalls (k : RegKey) (w : Word) : (s.setReg k w).stalls = s.stalls := rfl
@[simp] theorem State.setReg_queues (k : RegKey) (w : Word) : (s.setReg k w).queues = s.queues := rfl
@[simp] theorem State.setReg_cups (k : RegKey) (w : Word) : (s.setReg k w).cups = s.cups := rfl
@[simp] theorem State.setReg_leaves (k : RegKey) (w : Word) : (s.setReg k w).leaves = s.leaves := rfl
@[simp] theorem State.setReg_streams (k : RegKey) (w : Word) : (s.setReg k w).streams = s.streams := rfl
@[simp] theorem State.setReg_cols (k : RegKey) (w : Word) : (s.setReg k w).cols = s.cols := rfl
@[simp] theorem State.setReg_quads (k : RegKey) (w : Word) : (s.setReg k w).quads = s.quads := rfl
@[simp] theorem State.setReg_lanes (k : RegKey) (w : Word) : (s.setReg k w).lanes = s.lanes := rfl
@[simp] theorem State.setReg_flitInj (k : RegKey) (w : Word) : (s.setReg k w).flitInj = s.flitInj := rfl
@[simp] theorem State.setReg_stks (k : RegKey) (w : Word) : (s.setReg k w).stks = s.stks := rfl
@[simp] theorem State.setReg_pchs (k : RegKey) (w : Word) : (s.setReg k w).pchs = s.pchs := rfl
@[simp] theorem State.setReg_banks (k : RegKey) (w : Word) : (s.setReg k w).banks = s.banks := rfl
@[simp] theorem State.setReg_rtps (k : RegKey) (w : Word) : (s.setReg k w).rtps = s.rtps := rfl
@[simp] theorem State.setReg_hbmHeld (k : RegKey) (w : Word) : (s.setReg k w).hbmHeld = s.hbmHeld := rfl
@[simp] theorem State.setReg_hbm (k : RegKey) (w : Word) : (s.setReg k w).hbm = s.hbm := rfl
@[simp] theorem State.setReg_ranges (k : RegKey) (w : Word) : (s.setReg k w).ranges = s.ranges := rfl
@[simp] theorem State.setReg_nv (k : RegKey) (w : Word) : (s.setReg k w).nv = s.nv := rfl
@[simp] theorem State.setReg_caddy (k : RegKey) (w : Word) : (s.setReg k w).caddy = s.caddy := rfl
@[simp] theorem State.setReg_imgJobs (k : RegKey) (w : Word) : (s.setReg k w).imgJobs = s.imgJobs := rfl
@[simp] theorem State.setReg_hceJobs (k : RegKey) (w : Word) : (s.setReg k w).hceJobs = s.hceJobs := rfl
@[simp] theorem State.setReg_hcePipe (k : RegKey) (w : Word) : (s.setReg k w).hcePipe = s.hcePipe := rfl
@[simp] theorem State.setReg_hceLeft (k : RegKey) (w : Word) : (s.setReg k w).hceLeft = s.hceLeft := rfl
@[simp] theorem State.setReg_hceLast (k : RegKey) (w : Word) : (s.setReg k w).hceLast = s.hceLast := rfl
@[simp] theorem State.setReg_hceSlotNo (k : RegKey) (w : Word) : (s.setReg k w).hceSlotNo = s.hceSlotNo := rfl
@[simp] theorem State.setReg_hceMode (k : RegKey) (w : Word) : (s.setReg k w).hceMode = s.hceMode := rfl
@[simp] theorem State.setReg_links (k : RegKey) (w : Word) : (s.setReg k w).links = s.links := rfl
@[simp] theorem State.setReg_cas (k : RegKey) (w : Word) : (s.setReg k w).cas = s.cas := rfl
@[simp] theorem State.setReg_urn (k : RegKey) (w : Word) : (s.setReg k w).urn = s.urn := rfl
@[simp] theorem State.setReg_str (k : RegKey) (w : Word) : (s.setReg k w).str = s.str := rfl
@[simp] theorem State.setReg_leases (k : RegKey) (w : Word) : (s.setReg k w).leases = s.leases := rfl
@[simp] theorem State.setReg_leaseLog (k : RegKey) (w : Word) : (s.setReg k w).leaseLog = s.leaseLog := rfl
@[simp] theorem State.setReg_cores (k : RegKey) (w : Word) : (s.setReg k w).cores = s.cores := rfl
@[simp] theorem State.setReg_l2 (k : RegKey) (w : Word) : (s.setReg k w).l2 = s.l2 := rfl
@[simp] theorem State.setReg_kettleRam (k : RegKey) (w : Word) : (s.setReg k w).kettleRam = s.kettleRam := rfl
@[simp] theorem State.setReg_sess (k : RegKey) (w : Word) : (s.setReg k w).sess = s.sess := rfl
@[simp] theorem State.setReg_beat (k : RegKey) (w : Word) : (s.setReg k w).beat = s.beat := rfl
@[simp] theorem State.setReg_later (k : RegKey) (w : Word) : (s.setReg k w).later = s.later := rfl
@[simp] theorem State.setReg_heldWrites (k : RegKey) (w : Word) : (s.setReg k w).heldWrites = s.heldWrites := rfl
@[simp] theorem State.setReg_spEnts (k : RegKey) (w : Word) : (s.setReg k w).spEnts = s.spEnts := rfl
@[simp] theorem State.setReg_spLocal (k : RegKey) (w : Word) : (s.setReg k w).spLocal = s.spLocal := rfl
@[simp] theorem State.setReg_tenantKeys (k : RegKey) (w : Word) : (s.setReg k w).tenantKeys = s.tenantKeys := rfl
@[simp] theorem State.setReg_vfs (k : RegKey) (w : Word) : (s.setReg k w).vfs = s.vfs := rfl
@[simp] theorem State.setReg_plyngen (k : RegKey) (w : Word) : (s.setReg k w).plyngen = s.plyngen := rfl
@[simp] theorem State.setReg_chipDue (k : RegKey) (w : Word) : (s.setReg k w).chipDue = s.chipDue := rfl
@[simp] theorem State.setReg_chipWhy (k : RegKey) (w : Word) : (s.setReg k w).chipWhy = s.chipWhy := rfl
@[simp] theorem State.setReg_reloadRegion (k : RegKey) (w : Word) : (s.setReg k w).reloadRegion = s.reloadRegion := rfl
@[simp] theorem State.setFld_pending (k : RegKey) (hi lo v : Nat) : (s.setFld k hi lo v).pending = s.pending := rfl
@[simp] theorem State.setFld_freeCtr (k : RegKey) (hi lo v : Nat) : (s.setFld k hi lo v).freeCtr = s.freeCtr := rfl
@[simp] theorem State.setFld_sent (k : RegKey) (hi lo v : Nat) : (s.setFld k hi lo v).sent = s.sent := rfl
@[simp] theorem State.setFld_phase (k : RegKey) (hi lo v : Nat) : (s.setFld k hi lo v).phase = s.phase := rfl
@[simp] theorem State.setFld_root (k : RegKey) (hi lo v : Nat) : (s.setFld k hi lo v).root = s.root := rfl
@[simp] theorem State.setFld_aon (k : RegKey) (hi lo v : Nat) : (s.setFld k hi lo v).aon = s.aon := rfl
@[simp] theorem State.setFld_clk (k : RegKey) (hi lo v : Nat) : (s.setFld k hi lo v).clk = s.clk := rfl
@[simp] theorem State.setFld_time (k : RegKey) (hi lo v : Nat) : (s.setFld k hi lo v).time = s.time := rfl
@[simp] theorem State.setFld_pins (k : RegKey) (hi lo v : Nat) : (s.setFld k hi lo v).pins = s.pins := rfl
@[simp] theorem State.setFld_latches (k : RegKey) (hi lo v : Nat) : (s.setFld k hi lo v).latches = s.latches := rfl
@[simp] theorem State.setFld_outstanding (k : RegKey) (hi lo v : Nat) : (s.setFld k hi lo v).outstanding = s.outstanding := rfl
@[simp] theorem State.setFld_responses (k : RegKey) (hi lo v : Nat) : (s.setFld k hi lo v).responses = s.responses := rfl
@[simp] theorem State.setFld_fences (k : RegKey) (hi lo v : Nat) : (s.setFld k hi lo v).fences = s.fences := rfl
@[simp] theorem State.setFld_heldReqs (k : RegKey) (hi lo v : Nat) : (s.setFld k hi lo v).heldReqs = s.heldReqs := rfl
@[simp] theorem State.setFld_refusals (k : RegKey) (hi lo v : Nat) : (s.setFld k hi lo v).refusals = s.refusals := rfl
@[simp] theorem State.setFld_stalls (k : RegKey) (hi lo v : Nat) : (s.setFld k hi lo v).stalls = s.stalls := rfl
@[simp] theorem State.setFld_queues (k : RegKey) (hi lo v : Nat) : (s.setFld k hi lo v).queues = s.queues := rfl
@[simp] theorem State.setFld_cups (k : RegKey) (hi lo v : Nat) : (s.setFld k hi lo v).cups = s.cups := rfl
@[simp] theorem State.setFld_leaves (k : RegKey) (hi lo v : Nat) : (s.setFld k hi lo v).leaves = s.leaves := rfl
@[simp] theorem State.setFld_streams (k : RegKey) (hi lo v : Nat) : (s.setFld k hi lo v).streams = s.streams := rfl
@[simp] theorem State.setFld_cols (k : RegKey) (hi lo v : Nat) : (s.setFld k hi lo v).cols = s.cols := rfl
@[simp] theorem State.setFld_quads (k : RegKey) (hi lo v : Nat) : (s.setFld k hi lo v).quads = s.quads := rfl
@[simp] theorem State.setFld_lanes (k : RegKey) (hi lo v : Nat) : (s.setFld k hi lo v).lanes = s.lanes := rfl
@[simp] theorem State.setFld_flitInj (k : RegKey) (hi lo v : Nat) : (s.setFld k hi lo v).flitInj = s.flitInj := rfl
@[simp] theorem State.setFld_stks (k : RegKey) (hi lo v : Nat) : (s.setFld k hi lo v).stks = s.stks := rfl
@[simp] theorem State.setFld_pchs (k : RegKey) (hi lo v : Nat) : (s.setFld k hi lo v).pchs = s.pchs := rfl
@[simp] theorem State.setFld_banks (k : RegKey) (hi lo v : Nat) : (s.setFld k hi lo v).banks = s.banks := rfl
@[simp] theorem State.setFld_rtps (k : RegKey) (hi lo v : Nat) : (s.setFld k hi lo v).rtps = s.rtps := rfl
@[simp] theorem State.setFld_hbmHeld (k : RegKey) (hi lo v : Nat) : (s.setFld k hi lo v).hbmHeld = s.hbmHeld := rfl
@[simp] theorem State.setFld_hbm (k : RegKey) (hi lo v : Nat) : (s.setFld k hi lo v).hbm = s.hbm := rfl
@[simp] theorem State.setFld_ranges (k : RegKey) (hi lo v : Nat) : (s.setFld k hi lo v).ranges = s.ranges := rfl
@[simp] theorem State.setFld_nv (k : RegKey) (hi lo v : Nat) : (s.setFld k hi lo v).nv = s.nv := rfl
@[simp] theorem State.setFld_caddy (k : RegKey) (hi lo v : Nat) : (s.setFld k hi lo v).caddy = s.caddy := rfl
@[simp] theorem State.setFld_imgJobs (k : RegKey) (hi lo v : Nat) : (s.setFld k hi lo v).imgJobs = s.imgJobs := rfl
@[simp] theorem State.setFld_hceJobs (k : RegKey) (hi lo v : Nat) : (s.setFld k hi lo v).hceJobs = s.hceJobs := rfl
@[simp] theorem State.setFld_hcePipe (k : RegKey) (hi lo v : Nat) : (s.setFld k hi lo v).hcePipe = s.hcePipe := rfl
@[simp] theorem State.setFld_hceLeft (k : RegKey) (hi lo v : Nat) : (s.setFld k hi lo v).hceLeft = s.hceLeft := rfl
@[simp] theorem State.setFld_hceLast (k : RegKey) (hi lo v : Nat) : (s.setFld k hi lo v).hceLast = s.hceLast := rfl
@[simp] theorem State.setFld_hceSlotNo (k : RegKey) (hi lo v : Nat) : (s.setFld k hi lo v).hceSlotNo = s.hceSlotNo := rfl
@[simp] theorem State.setFld_hceMode (k : RegKey) (hi lo v : Nat) : (s.setFld k hi lo v).hceMode = s.hceMode := rfl
@[simp] theorem State.setFld_links (k : RegKey) (hi lo v : Nat) : (s.setFld k hi lo v).links = s.links := rfl
@[simp] theorem State.setFld_cas (k : RegKey) (hi lo v : Nat) : (s.setFld k hi lo v).cas = s.cas := rfl
@[simp] theorem State.setFld_urn (k : RegKey) (hi lo v : Nat) : (s.setFld k hi lo v).urn = s.urn := rfl
@[simp] theorem State.setFld_str (k : RegKey) (hi lo v : Nat) : (s.setFld k hi lo v).str = s.str := rfl
@[simp] theorem State.setFld_leases (k : RegKey) (hi lo v : Nat) : (s.setFld k hi lo v).leases = s.leases := rfl
@[simp] theorem State.setFld_leaseLog (k : RegKey) (hi lo v : Nat) : (s.setFld k hi lo v).leaseLog = s.leaseLog := rfl
@[simp] theorem State.setFld_cores (k : RegKey) (hi lo v : Nat) : (s.setFld k hi lo v).cores = s.cores := rfl
@[simp] theorem State.setFld_l2 (k : RegKey) (hi lo v : Nat) : (s.setFld k hi lo v).l2 = s.l2 := rfl
@[simp] theorem State.setFld_kettleRam (k : RegKey) (hi lo v : Nat) : (s.setFld k hi lo v).kettleRam = s.kettleRam := rfl
@[simp] theorem State.setFld_sess (k : RegKey) (hi lo v : Nat) : (s.setFld k hi lo v).sess = s.sess := rfl
@[simp] theorem State.setFld_beat (k : RegKey) (hi lo v : Nat) : (s.setFld k hi lo v).beat = s.beat := rfl
@[simp] theorem State.setFld_later (k : RegKey) (hi lo v : Nat) : (s.setFld k hi lo v).later = s.later := rfl
@[simp] theorem State.setFld_heldWrites (k : RegKey) (hi lo v : Nat) : (s.setFld k hi lo v).heldWrites = s.heldWrites := rfl
@[simp] theorem State.setFld_spEnts (k : RegKey) (hi lo v : Nat) : (s.setFld k hi lo v).spEnts = s.spEnts := rfl
@[simp] theorem State.setFld_spLocal (k : RegKey) (hi lo v : Nat) : (s.setFld k hi lo v).spLocal = s.spLocal := rfl
@[simp] theorem State.setFld_tenantKeys (k : RegKey) (hi lo v : Nat) : (s.setFld k hi lo v).tenantKeys = s.tenantKeys := rfl
@[simp] theorem State.setFld_vfs (k : RegKey) (hi lo v : Nat) : (s.setFld k hi lo v).vfs = s.vfs := rfl
@[simp] theorem State.setFld_plyngen (k : RegKey) (hi lo v : Nat) : (s.setFld k hi lo v).plyngen = s.plyngen := rfl
@[simp] theorem State.setFld_chipDue (k : RegKey) (hi lo v : Nat) : (s.setFld k hi lo v).chipDue = s.chipDue := rfl
@[simp] theorem State.setFld_chipWhy (k : RegKey) (hi lo v : Nat) : (s.setFld k hi lo v).chipWhy = s.chipWhy := rfl
@[simp] theorem State.setFld_reloadRegion (k : RegKey) (hi lo v : Nat) : (s.setFld k hi lo v).reloadRegion = s.reloadRegion := rfl
@[simp] theorem State.setFlag_pending (k : RegKey) (n : Nat) (b : Bool) : (s.setFlag k n b).pending = s.pending := rfl
@[simp] theorem State.setFlag_freeCtr (k : RegKey) (n : Nat) (b : Bool) : (s.setFlag k n b).freeCtr = s.freeCtr := rfl
@[simp] theorem State.setFlag_sent (k : RegKey) (n : Nat) (b : Bool) : (s.setFlag k n b).sent = s.sent := rfl
@[simp] theorem State.setFlag_phase (k : RegKey) (n : Nat) (b : Bool) : (s.setFlag k n b).phase = s.phase := rfl
@[simp] theorem State.setFlag_root (k : RegKey) (n : Nat) (b : Bool) : (s.setFlag k n b).root = s.root := rfl
@[simp] theorem State.setFlag_aon (k : RegKey) (n : Nat) (b : Bool) : (s.setFlag k n b).aon = s.aon := rfl
@[simp] theorem State.setFlag_clk (k : RegKey) (n : Nat) (b : Bool) : (s.setFlag k n b).clk = s.clk := rfl
@[simp] theorem State.setFlag_time (k : RegKey) (n : Nat) (b : Bool) : (s.setFlag k n b).time = s.time := rfl
@[simp] theorem State.setFlag_pins (k : RegKey) (n : Nat) (b : Bool) : (s.setFlag k n b).pins = s.pins := rfl
@[simp] theorem State.setFlag_latches (k : RegKey) (n : Nat) (b : Bool) : (s.setFlag k n b).latches = s.latches := rfl
@[simp] theorem State.setFlag_outstanding (k : RegKey) (n : Nat) (b : Bool) : (s.setFlag k n b).outstanding = s.outstanding := rfl
@[simp] theorem State.setFlag_responses (k : RegKey) (n : Nat) (b : Bool) : (s.setFlag k n b).responses = s.responses := rfl
@[simp] theorem State.setFlag_fences (k : RegKey) (n : Nat) (b : Bool) : (s.setFlag k n b).fences = s.fences := rfl
@[simp] theorem State.setFlag_heldReqs (k : RegKey) (n : Nat) (b : Bool) : (s.setFlag k n b).heldReqs = s.heldReqs := rfl
@[simp] theorem State.setFlag_refusals (k : RegKey) (n : Nat) (b : Bool) : (s.setFlag k n b).refusals = s.refusals := rfl
@[simp] theorem State.setFlag_stalls (k : RegKey) (n : Nat) (b : Bool) : (s.setFlag k n b).stalls = s.stalls := rfl
@[simp] theorem State.setFlag_queues (k : RegKey) (n : Nat) (b : Bool) : (s.setFlag k n b).queues = s.queues := rfl
@[simp] theorem State.setFlag_cups (k : RegKey) (n : Nat) (b : Bool) : (s.setFlag k n b).cups = s.cups := rfl
@[simp] theorem State.setFlag_leaves (k : RegKey) (n : Nat) (b : Bool) : (s.setFlag k n b).leaves = s.leaves := rfl
@[simp] theorem State.setFlag_streams (k : RegKey) (n : Nat) (b : Bool) : (s.setFlag k n b).streams = s.streams := rfl
@[simp] theorem State.setFlag_cols (k : RegKey) (n : Nat) (b : Bool) : (s.setFlag k n b).cols = s.cols := rfl
@[simp] theorem State.setFlag_quads (k : RegKey) (n : Nat) (b : Bool) : (s.setFlag k n b).quads = s.quads := rfl
@[simp] theorem State.setFlag_lanes (k : RegKey) (n : Nat) (b : Bool) : (s.setFlag k n b).lanes = s.lanes := rfl
@[simp] theorem State.setFlag_flitInj (k : RegKey) (n : Nat) (b : Bool) : (s.setFlag k n b).flitInj = s.flitInj := rfl
@[simp] theorem State.setFlag_stks (k : RegKey) (n : Nat) (b : Bool) : (s.setFlag k n b).stks = s.stks := rfl
@[simp] theorem State.setFlag_pchs (k : RegKey) (n : Nat) (b : Bool) : (s.setFlag k n b).pchs = s.pchs := rfl
@[simp] theorem State.setFlag_banks (k : RegKey) (n : Nat) (b : Bool) : (s.setFlag k n b).banks = s.banks := rfl
@[simp] theorem State.setFlag_rtps (k : RegKey) (n : Nat) (b : Bool) : (s.setFlag k n b).rtps = s.rtps := rfl
@[simp] theorem State.setFlag_hbmHeld (k : RegKey) (n : Nat) (b : Bool) : (s.setFlag k n b).hbmHeld = s.hbmHeld := rfl
@[simp] theorem State.setFlag_hbm (k : RegKey) (n : Nat) (b : Bool) : (s.setFlag k n b).hbm = s.hbm := rfl
@[simp] theorem State.setFlag_ranges (k : RegKey) (n : Nat) (b : Bool) : (s.setFlag k n b).ranges = s.ranges := rfl
@[simp] theorem State.setFlag_nv (k : RegKey) (n : Nat) (b : Bool) : (s.setFlag k n b).nv = s.nv := rfl
@[simp] theorem State.setFlag_caddy (k : RegKey) (n : Nat) (b : Bool) : (s.setFlag k n b).caddy = s.caddy := rfl
@[simp] theorem State.setFlag_imgJobs (k : RegKey) (n : Nat) (b : Bool) : (s.setFlag k n b).imgJobs = s.imgJobs := rfl
@[simp] theorem State.setFlag_hceJobs (k : RegKey) (n : Nat) (b : Bool) : (s.setFlag k n b).hceJobs = s.hceJobs := rfl
@[simp] theorem State.setFlag_hcePipe (k : RegKey) (n : Nat) (b : Bool) : (s.setFlag k n b).hcePipe = s.hcePipe := rfl
@[simp] theorem State.setFlag_hceLeft (k : RegKey) (n : Nat) (b : Bool) : (s.setFlag k n b).hceLeft = s.hceLeft := rfl
@[simp] theorem State.setFlag_hceLast (k : RegKey) (n : Nat) (b : Bool) : (s.setFlag k n b).hceLast = s.hceLast := rfl
@[simp] theorem State.setFlag_hceSlotNo (k : RegKey) (n : Nat) (b : Bool) : (s.setFlag k n b).hceSlotNo = s.hceSlotNo := rfl
@[simp] theorem State.setFlag_hceMode (k : RegKey) (n : Nat) (b : Bool) : (s.setFlag k n b).hceMode = s.hceMode := rfl
@[simp] theorem State.setFlag_links (k : RegKey) (n : Nat) (b : Bool) : (s.setFlag k n b).links = s.links := rfl
@[simp] theorem State.setFlag_cas (k : RegKey) (n : Nat) (b : Bool) : (s.setFlag k n b).cas = s.cas := rfl
@[simp] theorem State.setFlag_urn (k : RegKey) (n : Nat) (b : Bool) : (s.setFlag k n b).urn = s.urn := rfl
@[simp] theorem State.setFlag_str (k : RegKey) (n : Nat) (b : Bool) : (s.setFlag k n b).str = s.str := rfl
@[simp] theorem State.setFlag_leases (k : RegKey) (n : Nat) (b : Bool) : (s.setFlag k n b).leases = s.leases := rfl
@[simp] theorem State.setFlag_leaseLog (k : RegKey) (n : Nat) (b : Bool) : (s.setFlag k n b).leaseLog = s.leaseLog := rfl
@[simp] theorem State.setFlag_cores (k : RegKey) (n : Nat) (b : Bool) : (s.setFlag k n b).cores = s.cores := rfl
@[simp] theorem State.setFlag_l2 (k : RegKey) (n : Nat) (b : Bool) : (s.setFlag k n b).l2 = s.l2 := rfl
@[simp] theorem State.setFlag_kettleRam (k : RegKey) (n : Nat) (b : Bool) : (s.setFlag k n b).kettleRam = s.kettleRam := rfl
@[simp] theorem State.setFlag_sess (k : RegKey) (n : Nat) (b : Bool) : (s.setFlag k n b).sess = s.sess := rfl
@[simp] theorem State.setFlag_beat (k : RegKey) (n : Nat) (b : Bool) : (s.setFlag k n b).beat = s.beat := rfl
@[simp] theorem State.setFlag_later (k : RegKey) (n : Nat) (b : Bool) : (s.setFlag k n b).later = s.later := rfl
@[simp] theorem State.setFlag_heldWrites (k : RegKey) (n : Nat) (b : Bool) : (s.setFlag k n b).heldWrites = s.heldWrites := rfl
@[simp] theorem State.setFlag_spEnts (k : RegKey) (n : Nat) (b : Bool) : (s.setFlag k n b).spEnts = s.spEnts := rfl
@[simp] theorem State.setFlag_spLocal (k : RegKey) (n : Nat) (b : Bool) : (s.setFlag k n b).spLocal = s.spLocal := rfl
@[simp] theorem State.setFlag_tenantKeys (k : RegKey) (n : Nat) (b : Bool) : (s.setFlag k n b).tenantKeys = s.tenantKeys := rfl
@[simp] theorem State.setFlag_vfs (k : RegKey) (n : Nat) (b : Bool) : (s.setFlag k n b).vfs = s.vfs := rfl
@[simp] theorem State.setFlag_plyngen (k : RegKey) (n : Nat) (b : Bool) : (s.setFlag k n b).plyngen = s.plyngen := rfl
@[simp] theorem State.setFlag_chipDue (k : RegKey) (n : Nat) (b : Bool) : (s.setFlag k n b).chipDue = s.chipDue := rfl
@[simp] theorem State.setFlag_chipWhy (k : RegKey) (n : Nat) (b : Bool) : (s.setFlag k n b).chipWhy = s.chipWhy := rfl
@[simp] theorem State.setFlag_reloadRegion (k : RegKey) (n : Nat) (b : Bool) : (s.setFlag k n b).reloadRegion = s.reloadRegion := rfl
@[simp] theorem State.countUp_pending (k : RegKey) (hi lo : Nat) : (s.countUp k hi lo).pending = s.pending := rfl
@[simp] theorem State.countUp_freeCtr (k : RegKey) (hi lo : Nat) : (s.countUp k hi lo).freeCtr = s.freeCtr := rfl
@[simp] theorem State.countUp_sent (k : RegKey) (hi lo : Nat) : (s.countUp k hi lo).sent = s.sent := rfl
@[simp] theorem State.countUp_phase (k : RegKey) (hi lo : Nat) : (s.countUp k hi lo).phase = s.phase := rfl
@[simp] theorem State.countUp_root (k : RegKey) (hi lo : Nat) : (s.countUp k hi lo).root = s.root := rfl
@[simp] theorem State.countUp_aon (k : RegKey) (hi lo : Nat) : (s.countUp k hi lo).aon = s.aon := rfl
@[simp] theorem State.countUp_clk (k : RegKey) (hi lo : Nat) : (s.countUp k hi lo).clk = s.clk := rfl
@[simp] theorem State.countUp_time (k : RegKey) (hi lo : Nat) : (s.countUp k hi lo).time = s.time := rfl
@[simp] theorem State.countUp_pins (k : RegKey) (hi lo : Nat) : (s.countUp k hi lo).pins = s.pins := rfl
@[simp] theorem State.countUp_latches (k : RegKey) (hi lo : Nat) : (s.countUp k hi lo).latches = s.latches := rfl
@[simp] theorem State.countUp_outstanding (k : RegKey) (hi lo : Nat) : (s.countUp k hi lo).outstanding = s.outstanding := rfl
@[simp] theorem State.countUp_responses (k : RegKey) (hi lo : Nat) : (s.countUp k hi lo).responses = s.responses := rfl
@[simp] theorem State.countUp_fences (k : RegKey) (hi lo : Nat) : (s.countUp k hi lo).fences = s.fences := rfl
@[simp] theorem State.countUp_heldReqs (k : RegKey) (hi lo : Nat) : (s.countUp k hi lo).heldReqs = s.heldReqs := rfl
@[simp] theorem State.countUp_refusals (k : RegKey) (hi lo : Nat) : (s.countUp k hi lo).refusals = s.refusals := rfl
@[simp] theorem State.countUp_stalls (k : RegKey) (hi lo : Nat) : (s.countUp k hi lo).stalls = s.stalls := rfl
@[simp] theorem State.countUp_queues (k : RegKey) (hi lo : Nat) : (s.countUp k hi lo).queues = s.queues := rfl
@[simp] theorem State.countUp_cups (k : RegKey) (hi lo : Nat) : (s.countUp k hi lo).cups = s.cups := rfl
@[simp] theorem State.countUp_leaves (k : RegKey) (hi lo : Nat) : (s.countUp k hi lo).leaves = s.leaves := rfl
@[simp] theorem State.countUp_streams (k : RegKey) (hi lo : Nat) : (s.countUp k hi lo).streams = s.streams := rfl
@[simp] theorem State.countUp_cols (k : RegKey) (hi lo : Nat) : (s.countUp k hi lo).cols = s.cols := rfl
@[simp] theorem State.countUp_quads (k : RegKey) (hi lo : Nat) : (s.countUp k hi lo).quads = s.quads := rfl
@[simp] theorem State.countUp_lanes (k : RegKey) (hi lo : Nat) : (s.countUp k hi lo).lanes = s.lanes := rfl
@[simp] theorem State.countUp_flitInj (k : RegKey) (hi lo : Nat) : (s.countUp k hi lo).flitInj = s.flitInj := rfl
@[simp] theorem State.countUp_stks (k : RegKey) (hi lo : Nat) : (s.countUp k hi lo).stks = s.stks := rfl
@[simp] theorem State.countUp_pchs (k : RegKey) (hi lo : Nat) : (s.countUp k hi lo).pchs = s.pchs := rfl
@[simp] theorem State.countUp_banks (k : RegKey) (hi lo : Nat) : (s.countUp k hi lo).banks = s.banks := rfl
@[simp] theorem State.countUp_rtps (k : RegKey) (hi lo : Nat) : (s.countUp k hi lo).rtps = s.rtps := rfl
@[simp] theorem State.countUp_hbmHeld (k : RegKey) (hi lo : Nat) : (s.countUp k hi lo).hbmHeld = s.hbmHeld := rfl
@[simp] theorem State.countUp_hbm (k : RegKey) (hi lo : Nat) : (s.countUp k hi lo).hbm = s.hbm := rfl
@[simp] theorem State.countUp_ranges (k : RegKey) (hi lo : Nat) : (s.countUp k hi lo).ranges = s.ranges := rfl
@[simp] theorem State.countUp_nv (k : RegKey) (hi lo : Nat) : (s.countUp k hi lo).nv = s.nv := rfl
@[simp] theorem State.countUp_caddy (k : RegKey) (hi lo : Nat) : (s.countUp k hi lo).caddy = s.caddy := rfl
@[simp] theorem State.countUp_imgJobs (k : RegKey) (hi lo : Nat) : (s.countUp k hi lo).imgJobs = s.imgJobs := rfl
@[simp] theorem State.countUp_hceJobs (k : RegKey) (hi lo : Nat) : (s.countUp k hi lo).hceJobs = s.hceJobs := rfl
@[simp] theorem State.countUp_hcePipe (k : RegKey) (hi lo : Nat) : (s.countUp k hi lo).hcePipe = s.hcePipe := rfl
@[simp] theorem State.countUp_hceLeft (k : RegKey) (hi lo : Nat) : (s.countUp k hi lo).hceLeft = s.hceLeft := rfl
@[simp] theorem State.countUp_hceLast (k : RegKey) (hi lo : Nat) : (s.countUp k hi lo).hceLast = s.hceLast := rfl
@[simp] theorem State.countUp_hceSlotNo (k : RegKey) (hi lo : Nat) : (s.countUp k hi lo).hceSlotNo = s.hceSlotNo := rfl
@[simp] theorem State.countUp_hceMode (k : RegKey) (hi lo : Nat) : (s.countUp k hi lo).hceMode = s.hceMode := rfl
@[simp] theorem State.countUp_links (k : RegKey) (hi lo : Nat) : (s.countUp k hi lo).links = s.links := rfl
@[simp] theorem State.countUp_cas (k : RegKey) (hi lo : Nat) : (s.countUp k hi lo).cas = s.cas := rfl
@[simp] theorem State.countUp_urn (k : RegKey) (hi lo : Nat) : (s.countUp k hi lo).urn = s.urn := rfl
@[simp] theorem State.countUp_str (k : RegKey) (hi lo : Nat) : (s.countUp k hi lo).str = s.str := rfl
@[simp] theorem State.countUp_leases (k : RegKey) (hi lo : Nat) : (s.countUp k hi lo).leases = s.leases := rfl
@[simp] theorem State.countUp_leaseLog (k : RegKey) (hi lo : Nat) : (s.countUp k hi lo).leaseLog = s.leaseLog := rfl
@[simp] theorem State.countUp_cores (k : RegKey) (hi lo : Nat) : (s.countUp k hi lo).cores = s.cores := rfl
@[simp] theorem State.countUp_l2 (k : RegKey) (hi lo : Nat) : (s.countUp k hi lo).l2 = s.l2 := rfl
@[simp] theorem State.countUp_kettleRam (k : RegKey) (hi lo : Nat) : (s.countUp k hi lo).kettleRam = s.kettleRam := rfl
@[simp] theorem State.countUp_sess (k : RegKey) (hi lo : Nat) : (s.countUp k hi lo).sess = s.sess := rfl
@[simp] theorem State.countUp_beat (k : RegKey) (hi lo : Nat) : (s.countUp k hi lo).beat = s.beat := rfl
@[simp] theorem State.countUp_later (k : RegKey) (hi lo : Nat) : (s.countUp k hi lo).later = s.later := rfl
@[simp] theorem State.countUp_heldWrites (k : RegKey) (hi lo : Nat) : (s.countUp k hi lo).heldWrites = s.heldWrites := rfl
@[simp] theorem State.countUp_spEnts (k : RegKey) (hi lo : Nat) : (s.countUp k hi lo).spEnts = s.spEnts := rfl
@[simp] theorem State.countUp_spLocal (k : RegKey) (hi lo : Nat) : (s.countUp k hi lo).spLocal = s.spLocal := rfl
@[simp] theorem State.countUp_tenantKeys (k : RegKey) (hi lo : Nat) : (s.countUp k hi lo).tenantKeys = s.tenantKeys := rfl
@[simp] theorem State.countUp_vfs (k : RegKey) (hi lo : Nat) : (s.countUp k hi lo).vfs = s.vfs := rfl
@[simp] theorem State.countUp_plyngen (k : RegKey) (hi lo : Nat) : (s.countUp k hi lo).plyngen = s.plyngen := rfl
@[simp] theorem State.countUp_chipDue (k : RegKey) (hi lo : Nat) : (s.countUp k hi lo).chipDue = s.chipDue := rfl
@[simp] theorem State.countUp_chipWhy (k : RegKey) (hi lo : Nat) : (s.countUp k hi lo).chipWhy = s.chipWhy := rfl
@[simp] theorem State.countUp_reloadRegion (k : RegKey) (hi lo : Nat) : (s.countUp k hi lo).reloadRegion = s.reloadRegion := rfl
@[simp] theorem State.plainWrite_pending (k : RegKey) (w : Word) : (s.plainWrite k w).pending = s.pending := rfl
@[simp] theorem State.plainWrite_freeCtr (k : RegKey) (w : Word) : (s.plainWrite k w).freeCtr = s.freeCtr := rfl
@[simp] theorem State.plainWrite_sent (k : RegKey) (w : Word) : (s.plainWrite k w).sent = s.sent := rfl
@[simp] theorem State.plainWrite_phase (k : RegKey) (w : Word) : (s.plainWrite k w).phase = s.phase := rfl
@[simp] theorem State.plainWrite_root (k : RegKey) (w : Word) : (s.plainWrite k w).root = s.root := rfl
@[simp] theorem State.plainWrite_aon (k : RegKey) (w : Word) : (s.plainWrite k w).aon = s.aon := rfl
@[simp] theorem State.plainWrite_clk (k : RegKey) (w : Word) : (s.plainWrite k w).clk = s.clk := rfl
@[simp] theorem State.plainWrite_time (k : RegKey) (w : Word) : (s.plainWrite k w).time = s.time := rfl
@[simp] theorem State.plainWrite_pins (k : RegKey) (w : Word) : (s.plainWrite k w).pins = s.pins := rfl
@[simp] theorem State.plainWrite_latches (k : RegKey) (w : Word) : (s.plainWrite k w).latches = s.latches := rfl
@[simp] theorem State.plainWrite_outstanding (k : RegKey) (w : Word) : (s.plainWrite k w).outstanding = s.outstanding := rfl
@[simp] theorem State.plainWrite_responses (k : RegKey) (w : Word) : (s.plainWrite k w).responses = s.responses := rfl
@[simp] theorem State.plainWrite_fences (k : RegKey) (w : Word) : (s.plainWrite k w).fences = s.fences := rfl
@[simp] theorem State.plainWrite_heldReqs (k : RegKey) (w : Word) : (s.plainWrite k w).heldReqs = s.heldReqs := rfl
@[simp] theorem State.plainWrite_refusals (k : RegKey) (w : Word) : (s.plainWrite k w).refusals = s.refusals := rfl
@[simp] theorem State.plainWrite_stalls (k : RegKey) (w : Word) : (s.plainWrite k w).stalls = s.stalls := rfl
@[simp] theorem State.plainWrite_queues (k : RegKey) (w : Word) : (s.plainWrite k w).queues = s.queues := rfl
@[simp] theorem State.plainWrite_cups (k : RegKey) (w : Word) : (s.plainWrite k w).cups = s.cups := rfl
@[simp] theorem State.plainWrite_leaves (k : RegKey) (w : Word) : (s.plainWrite k w).leaves = s.leaves := rfl
@[simp] theorem State.plainWrite_streams (k : RegKey) (w : Word) : (s.plainWrite k w).streams = s.streams := rfl
@[simp] theorem State.plainWrite_cols (k : RegKey) (w : Word) : (s.plainWrite k w).cols = s.cols := rfl
@[simp] theorem State.plainWrite_quads (k : RegKey) (w : Word) : (s.plainWrite k w).quads = s.quads := rfl
@[simp] theorem State.plainWrite_lanes (k : RegKey) (w : Word) : (s.plainWrite k w).lanes = s.lanes := rfl
@[simp] theorem State.plainWrite_flitInj (k : RegKey) (w : Word) : (s.plainWrite k w).flitInj = s.flitInj := rfl
@[simp] theorem State.plainWrite_stks (k : RegKey) (w : Word) : (s.plainWrite k w).stks = s.stks := rfl
@[simp] theorem State.plainWrite_pchs (k : RegKey) (w : Word) : (s.plainWrite k w).pchs = s.pchs := rfl
@[simp] theorem State.plainWrite_banks (k : RegKey) (w : Word) : (s.plainWrite k w).banks = s.banks := rfl
@[simp] theorem State.plainWrite_rtps (k : RegKey) (w : Word) : (s.plainWrite k w).rtps = s.rtps := rfl
@[simp] theorem State.plainWrite_hbmHeld (k : RegKey) (w : Word) : (s.plainWrite k w).hbmHeld = s.hbmHeld := rfl
@[simp] theorem State.plainWrite_hbm (k : RegKey) (w : Word) : (s.plainWrite k w).hbm = s.hbm := rfl
@[simp] theorem State.plainWrite_ranges (k : RegKey) (w : Word) : (s.plainWrite k w).ranges = s.ranges := rfl
@[simp] theorem State.plainWrite_nv (k : RegKey) (w : Word) : (s.plainWrite k w).nv = s.nv := rfl
@[simp] theorem State.plainWrite_caddy (k : RegKey) (w : Word) : (s.plainWrite k w).caddy = s.caddy := rfl
@[simp] theorem State.plainWrite_imgJobs (k : RegKey) (w : Word) : (s.plainWrite k w).imgJobs = s.imgJobs := rfl
@[simp] theorem State.plainWrite_hceJobs (k : RegKey) (w : Word) : (s.plainWrite k w).hceJobs = s.hceJobs := rfl
@[simp] theorem State.plainWrite_hcePipe (k : RegKey) (w : Word) : (s.plainWrite k w).hcePipe = s.hcePipe := rfl
@[simp] theorem State.plainWrite_hceLeft (k : RegKey) (w : Word) : (s.plainWrite k w).hceLeft = s.hceLeft := rfl
@[simp] theorem State.plainWrite_hceLast (k : RegKey) (w : Word) : (s.plainWrite k w).hceLast = s.hceLast := rfl
@[simp] theorem State.plainWrite_hceSlotNo (k : RegKey) (w : Word) : (s.plainWrite k w).hceSlotNo = s.hceSlotNo := rfl
@[simp] theorem State.plainWrite_hceMode (k : RegKey) (w : Word) : (s.plainWrite k w).hceMode = s.hceMode := rfl
@[simp] theorem State.plainWrite_links (k : RegKey) (w : Word) : (s.plainWrite k w).links = s.links := rfl
@[simp] theorem State.plainWrite_cas (k : RegKey) (w : Word) : (s.plainWrite k w).cas = s.cas := rfl
@[simp] theorem State.plainWrite_urn (k : RegKey) (w : Word) : (s.plainWrite k w).urn = s.urn := rfl
@[simp] theorem State.plainWrite_str (k : RegKey) (w : Word) : (s.plainWrite k w).str = s.str := rfl
@[simp] theorem State.plainWrite_leases (k : RegKey) (w : Word) : (s.plainWrite k w).leases = s.leases := rfl
@[simp] theorem State.plainWrite_leaseLog (k : RegKey) (w : Word) : (s.plainWrite k w).leaseLog = s.leaseLog := rfl
@[simp] theorem State.plainWrite_cores (k : RegKey) (w : Word) : (s.plainWrite k w).cores = s.cores := rfl
@[simp] theorem State.plainWrite_l2 (k : RegKey) (w : Word) : (s.plainWrite k w).l2 = s.l2 := rfl
@[simp] theorem State.plainWrite_kettleRam (k : RegKey) (w : Word) : (s.plainWrite k w).kettleRam = s.kettleRam := rfl
@[simp] theorem State.plainWrite_sess (k : RegKey) (w : Word) : (s.plainWrite k w).sess = s.sess := rfl
@[simp] theorem State.plainWrite_beat (k : RegKey) (w : Word) : (s.plainWrite k w).beat = s.beat := rfl
@[simp] theorem State.plainWrite_later (k : RegKey) (w : Word) : (s.plainWrite k w).later = s.later := rfl
@[simp] theorem State.plainWrite_heldWrites (k : RegKey) (w : Word) : (s.plainWrite k w).heldWrites = s.heldWrites := rfl
@[simp] theorem State.plainWrite_spEnts (k : RegKey) (w : Word) : (s.plainWrite k w).spEnts = s.spEnts := rfl
@[simp] theorem State.plainWrite_spLocal (k : RegKey) (w : Word) : (s.plainWrite k w).spLocal = s.spLocal := rfl
@[simp] theorem State.plainWrite_tenantKeys (k : RegKey) (w : Word) : (s.plainWrite k w).tenantKeys = s.tenantKeys := rfl
@[simp] theorem State.plainWrite_vfs (k : RegKey) (w : Word) : (s.plainWrite k w).vfs = s.vfs := rfl
@[simp] theorem State.plainWrite_plyngen (k : RegKey) (w : Word) : (s.plainWrite k w).plyngen = s.plyngen := rfl
@[simp] theorem State.plainWrite_chipDue (k : RegKey) (w : Word) : (s.plainWrite k w).chipDue = s.chipDue := rfl
@[simp] theorem State.plainWrite_chipWhy (k : RegKey) (w : Word) : (s.plainWrite k w).chipWhy = s.chipWhy := rfl
@[simp] theorem State.plainWrite_reloadRegion (k : RegKey) (w : Word) : (s.plainWrite k w).reloadRegion = s.reloadRegion := rfl
@[simp] theorem State.setPair_pending (lo hi : RegKey) (n : Nat) : (s.setPair lo hi n).pending = s.pending := rfl
@[simp] theorem State.setPair_freeCtr (lo hi : RegKey) (n : Nat) : (s.setPair lo hi n).freeCtr = s.freeCtr := rfl
@[simp] theorem State.setPair_sent (lo hi : RegKey) (n : Nat) : (s.setPair lo hi n).sent = s.sent := rfl
@[simp] theorem State.setPair_phase (lo hi : RegKey) (n : Nat) : (s.setPair lo hi n).phase = s.phase := rfl
@[simp] theorem State.setPair_root (lo hi : RegKey) (n : Nat) : (s.setPair lo hi n).root = s.root := rfl
@[simp] theorem State.setPair_aon (lo hi : RegKey) (n : Nat) : (s.setPair lo hi n).aon = s.aon := rfl
@[simp] theorem State.setPair_clk (lo hi : RegKey) (n : Nat) : (s.setPair lo hi n).clk = s.clk := rfl
@[simp] theorem State.setPair_time (lo hi : RegKey) (n : Nat) : (s.setPair lo hi n).time = s.time := rfl
@[simp] theorem State.setPair_pins (lo hi : RegKey) (n : Nat) : (s.setPair lo hi n).pins = s.pins := rfl
@[simp] theorem State.setPair_latches (lo hi : RegKey) (n : Nat) : (s.setPair lo hi n).latches = s.latches := rfl
@[simp] theorem State.setPair_outstanding (lo hi : RegKey) (n : Nat) : (s.setPair lo hi n).outstanding = s.outstanding := rfl
@[simp] theorem State.setPair_responses (lo hi : RegKey) (n : Nat) : (s.setPair lo hi n).responses = s.responses := rfl
@[simp] theorem State.setPair_fences (lo hi : RegKey) (n : Nat) : (s.setPair lo hi n).fences = s.fences := rfl
@[simp] theorem State.setPair_heldReqs (lo hi : RegKey) (n : Nat) : (s.setPair lo hi n).heldReqs = s.heldReqs := rfl
@[simp] theorem State.setPair_refusals (lo hi : RegKey) (n : Nat) : (s.setPair lo hi n).refusals = s.refusals := rfl
@[simp] theorem State.setPair_stalls (lo hi : RegKey) (n : Nat) : (s.setPair lo hi n).stalls = s.stalls := rfl
@[simp] theorem State.setPair_queues (lo hi : RegKey) (n : Nat) : (s.setPair lo hi n).queues = s.queues := rfl
@[simp] theorem State.setPair_cups (lo hi : RegKey) (n : Nat) : (s.setPair lo hi n).cups = s.cups := rfl
@[simp] theorem State.setPair_leaves (lo hi : RegKey) (n : Nat) : (s.setPair lo hi n).leaves = s.leaves := rfl
@[simp] theorem State.setPair_streams (lo hi : RegKey) (n : Nat) : (s.setPair lo hi n).streams = s.streams := rfl
@[simp] theorem State.setPair_cols (lo hi : RegKey) (n : Nat) : (s.setPair lo hi n).cols = s.cols := rfl
@[simp] theorem State.setPair_quads (lo hi : RegKey) (n : Nat) : (s.setPair lo hi n).quads = s.quads := rfl
@[simp] theorem State.setPair_lanes (lo hi : RegKey) (n : Nat) : (s.setPair lo hi n).lanes = s.lanes := rfl
@[simp] theorem State.setPair_flitInj (lo hi : RegKey) (n : Nat) : (s.setPair lo hi n).flitInj = s.flitInj := rfl
@[simp] theorem State.setPair_stks (lo hi : RegKey) (n : Nat) : (s.setPair lo hi n).stks = s.stks := rfl
@[simp] theorem State.setPair_pchs (lo hi : RegKey) (n : Nat) : (s.setPair lo hi n).pchs = s.pchs := rfl
@[simp] theorem State.setPair_banks (lo hi : RegKey) (n : Nat) : (s.setPair lo hi n).banks = s.banks := rfl
@[simp] theorem State.setPair_rtps (lo hi : RegKey) (n : Nat) : (s.setPair lo hi n).rtps = s.rtps := rfl
@[simp] theorem State.setPair_hbmHeld (lo hi : RegKey) (n : Nat) : (s.setPair lo hi n).hbmHeld = s.hbmHeld := rfl
@[simp] theorem State.setPair_hbm (lo hi : RegKey) (n : Nat) : (s.setPair lo hi n).hbm = s.hbm := rfl
@[simp] theorem State.setPair_ranges (lo hi : RegKey) (n : Nat) : (s.setPair lo hi n).ranges = s.ranges := rfl
@[simp] theorem State.setPair_nv (lo hi : RegKey) (n : Nat) : (s.setPair lo hi n).nv = s.nv := rfl
@[simp] theorem State.setPair_caddy (lo hi : RegKey) (n : Nat) : (s.setPair lo hi n).caddy = s.caddy := rfl
@[simp] theorem State.setPair_imgJobs (lo hi : RegKey) (n : Nat) : (s.setPair lo hi n).imgJobs = s.imgJobs := rfl
@[simp] theorem State.setPair_hceJobs (lo hi : RegKey) (n : Nat) : (s.setPair lo hi n).hceJobs = s.hceJobs := rfl
@[simp] theorem State.setPair_hcePipe (lo hi : RegKey) (n : Nat) : (s.setPair lo hi n).hcePipe = s.hcePipe := rfl
@[simp] theorem State.setPair_hceLeft (lo hi : RegKey) (n : Nat) : (s.setPair lo hi n).hceLeft = s.hceLeft := rfl
@[simp] theorem State.setPair_hceLast (lo hi : RegKey) (n : Nat) : (s.setPair lo hi n).hceLast = s.hceLast := rfl
@[simp] theorem State.setPair_hceSlotNo (lo hi : RegKey) (n : Nat) : (s.setPair lo hi n).hceSlotNo = s.hceSlotNo := rfl
@[simp] theorem State.setPair_hceMode (lo hi : RegKey) (n : Nat) : (s.setPair lo hi n).hceMode = s.hceMode := rfl
@[simp] theorem State.setPair_links (lo hi : RegKey) (n : Nat) : (s.setPair lo hi n).links = s.links := rfl
@[simp] theorem State.setPair_cas (lo hi : RegKey) (n : Nat) : (s.setPair lo hi n).cas = s.cas := rfl
@[simp] theorem State.setPair_urn (lo hi : RegKey) (n : Nat) : (s.setPair lo hi n).urn = s.urn := rfl
@[simp] theorem State.setPair_str (lo hi : RegKey) (n : Nat) : (s.setPair lo hi n).str = s.str := rfl
@[simp] theorem State.setPair_leases (lo hi : RegKey) (n : Nat) : (s.setPair lo hi n).leases = s.leases := rfl
@[simp] theorem State.setPair_leaseLog (lo hi : RegKey) (n : Nat) : (s.setPair lo hi n).leaseLog = s.leaseLog := rfl
@[simp] theorem State.setPair_cores (lo hi : RegKey) (n : Nat) : (s.setPair lo hi n).cores = s.cores := rfl
@[simp] theorem State.setPair_l2 (lo hi : RegKey) (n : Nat) : (s.setPair lo hi n).l2 = s.l2 := rfl
@[simp] theorem State.setPair_kettleRam (lo hi : RegKey) (n : Nat) : (s.setPair lo hi n).kettleRam = s.kettleRam := rfl
@[simp] theorem State.setPair_sess (lo hi : RegKey) (n : Nat) : (s.setPair lo hi n).sess = s.sess := rfl
@[simp] theorem State.setPair_beat (lo hi : RegKey) (n : Nat) : (s.setPair lo hi n).beat = s.beat := rfl
@[simp] theorem State.setPair_later (lo hi : RegKey) (n : Nat) : (s.setPair lo hi n).later = s.later := rfl
@[simp] theorem State.setPair_heldWrites (lo hi : RegKey) (n : Nat) : (s.setPair lo hi n).heldWrites = s.heldWrites := rfl
@[simp] theorem State.setPair_spEnts (lo hi : RegKey) (n : Nat) : (s.setPair lo hi n).spEnts = s.spEnts := rfl
@[simp] theorem State.setPair_spLocal (lo hi : RegKey) (n : Nat) : (s.setPair lo hi n).spLocal = s.spLocal := rfl
@[simp] theorem State.setPair_tenantKeys (lo hi : RegKey) (n : Nat) : (s.setPair lo hi n).tenantKeys = s.tenantKeys := rfl
@[simp] theorem State.setPair_vfs (lo hi : RegKey) (n : Nat) : (s.setPair lo hi n).vfs = s.vfs := rfl
@[simp] theorem State.setPair_plyngen (lo hi : RegKey) (n : Nat) : (s.setPair lo hi n).plyngen = s.plyngen := rfl
@[simp] theorem State.setPair_chipDue (lo hi : RegKey) (n : Nat) : (s.setPair lo hi n).chipDue = s.chipDue := rfl
@[simp] theorem State.setPair_chipWhy (lo hi : RegKey) (n : Nat) : (s.setPair lo hi n).chipWhy = s.chipWhy := rfl
@[simp] theorem State.setPair_reloadRegion (lo hi : RegKey) (n : Nat) : (s.setPair lo hi n).reloadRegion = s.reloadRegion := rfl
@[simp] theorem State.setFields_pending (k : RegKey) (fs : List (Nat × Nat × Nat)) : (s.setFields k fs).pending = s.pending := rfl
@[simp] theorem State.setFields_freeCtr (k : RegKey) (fs : List (Nat × Nat × Nat)) : (s.setFields k fs).freeCtr = s.freeCtr := rfl
@[simp] theorem State.setFields_sent (k : RegKey) (fs : List (Nat × Nat × Nat)) : (s.setFields k fs).sent = s.sent := rfl
@[simp] theorem State.setFields_phase (k : RegKey) (fs : List (Nat × Nat × Nat)) : (s.setFields k fs).phase = s.phase := rfl
@[simp] theorem State.setFields_root (k : RegKey) (fs : List (Nat × Nat × Nat)) : (s.setFields k fs).root = s.root := rfl
@[simp] theorem State.setFields_aon (k : RegKey) (fs : List (Nat × Nat × Nat)) : (s.setFields k fs).aon = s.aon := rfl
@[simp] theorem State.setFields_clk (k : RegKey) (fs : List (Nat × Nat × Nat)) : (s.setFields k fs).clk = s.clk := rfl
@[simp] theorem State.setFields_time (k : RegKey) (fs : List (Nat × Nat × Nat)) : (s.setFields k fs).time = s.time := rfl
@[simp] theorem State.setFields_pins (k : RegKey) (fs : List (Nat × Nat × Nat)) : (s.setFields k fs).pins = s.pins := rfl
@[simp] theorem State.setFields_latches (k : RegKey) (fs : List (Nat × Nat × Nat)) : (s.setFields k fs).latches = s.latches := rfl
@[simp] theorem State.setFields_outstanding (k : RegKey) (fs : List (Nat × Nat × Nat)) : (s.setFields k fs).outstanding = s.outstanding := rfl
@[simp] theorem State.setFields_responses (k : RegKey) (fs : List (Nat × Nat × Nat)) : (s.setFields k fs).responses = s.responses := rfl
@[simp] theorem State.setFields_fences (k : RegKey) (fs : List (Nat × Nat × Nat)) : (s.setFields k fs).fences = s.fences := rfl
@[simp] theorem State.setFields_heldReqs (k : RegKey) (fs : List (Nat × Nat × Nat)) : (s.setFields k fs).heldReqs = s.heldReqs := rfl
@[simp] theorem State.setFields_refusals (k : RegKey) (fs : List (Nat × Nat × Nat)) : (s.setFields k fs).refusals = s.refusals := rfl
@[simp] theorem State.setFields_stalls (k : RegKey) (fs : List (Nat × Nat × Nat)) : (s.setFields k fs).stalls = s.stalls := rfl
@[simp] theorem State.setFields_queues (k : RegKey) (fs : List (Nat × Nat × Nat)) : (s.setFields k fs).queues = s.queues := rfl
@[simp] theorem State.setFields_cups (k : RegKey) (fs : List (Nat × Nat × Nat)) : (s.setFields k fs).cups = s.cups := rfl
@[simp] theorem State.setFields_leaves (k : RegKey) (fs : List (Nat × Nat × Nat)) : (s.setFields k fs).leaves = s.leaves := rfl
@[simp] theorem State.setFields_streams (k : RegKey) (fs : List (Nat × Nat × Nat)) : (s.setFields k fs).streams = s.streams := rfl
@[simp] theorem State.setFields_cols (k : RegKey) (fs : List (Nat × Nat × Nat)) : (s.setFields k fs).cols = s.cols := rfl
@[simp] theorem State.setFields_quads (k : RegKey) (fs : List (Nat × Nat × Nat)) : (s.setFields k fs).quads = s.quads := rfl
@[simp] theorem State.setFields_lanes (k : RegKey) (fs : List (Nat × Nat × Nat)) : (s.setFields k fs).lanes = s.lanes := rfl
@[simp] theorem State.setFields_flitInj (k : RegKey) (fs : List (Nat × Nat × Nat)) : (s.setFields k fs).flitInj = s.flitInj := rfl
@[simp] theorem State.setFields_stks (k : RegKey) (fs : List (Nat × Nat × Nat)) : (s.setFields k fs).stks = s.stks := rfl
@[simp] theorem State.setFields_pchs (k : RegKey) (fs : List (Nat × Nat × Nat)) : (s.setFields k fs).pchs = s.pchs := rfl
@[simp] theorem State.setFields_banks (k : RegKey) (fs : List (Nat × Nat × Nat)) : (s.setFields k fs).banks = s.banks := rfl
@[simp] theorem State.setFields_rtps (k : RegKey) (fs : List (Nat × Nat × Nat)) : (s.setFields k fs).rtps = s.rtps := rfl
@[simp] theorem State.setFields_hbmHeld (k : RegKey) (fs : List (Nat × Nat × Nat)) : (s.setFields k fs).hbmHeld = s.hbmHeld := rfl
@[simp] theorem State.setFields_hbm (k : RegKey) (fs : List (Nat × Nat × Nat)) : (s.setFields k fs).hbm = s.hbm := rfl
@[simp] theorem State.setFields_ranges (k : RegKey) (fs : List (Nat × Nat × Nat)) : (s.setFields k fs).ranges = s.ranges := rfl
@[simp] theorem State.setFields_nv (k : RegKey) (fs : List (Nat × Nat × Nat)) : (s.setFields k fs).nv = s.nv := rfl
@[simp] theorem State.setFields_caddy (k : RegKey) (fs : List (Nat × Nat × Nat)) : (s.setFields k fs).caddy = s.caddy := rfl
@[simp] theorem State.setFields_imgJobs (k : RegKey) (fs : List (Nat × Nat × Nat)) : (s.setFields k fs).imgJobs = s.imgJobs := rfl
@[simp] theorem State.setFields_hceJobs (k : RegKey) (fs : List (Nat × Nat × Nat)) : (s.setFields k fs).hceJobs = s.hceJobs := rfl
@[simp] theorem State.setFields_hcePipe (k : RegKey) (fs : List (Nat × Nat × Nat)) : (s.setFields k fs).hcePipe = s.hcePipe := rfl
@[simp] theorem State.setFields_hceLeft (k : RegKey) (fs : List (Nat × Nat × Nat)) : (s.setFields k fs).hceLeft = s.hceLeft := rfl
@[simp] theorem State.setFields_hceLast (k : RegKey) (fs : List (Nat × Nat × Nat)) : (s.setFields k fs).hceLast = s.hceLast := rfl
@[simp] theorem State.setFields_hceSlotNo (k : RegKey) (fs : List (Nat × Nat × Nat)) : (s.setFields k fs).hceSlotNo = s.hceSlotNo := rfl
@[simp] theorem State.setFields_hceMode (k : RegKey) (fs : List (Nat × Nat × Nat)) : (s.setFields k fs).hceMode = s.hceMode := rfl
@[simp] theorem State.setFields_links (k : RegKey) (fs : List (Nat × Nat × Nat)) : (s.setFields k fs).links = s.links := rfl
@[simp] theorem State.setFields_cas (k : RegKey) (fs : List (Nat × Nat × Nat)) : (s.setFields k fs).cas = s.cas := rfl
@[simp] theorem State.setFields_urn (k : RegKey) (fs : List (Nat × Nat × Nat)) : (s.setFields k fs).urn = s.urn := rfl
@[simp] theorem State.setFields_str (k : RegKey) (fs : List (Nat × Nat × Nat)) : (s.setFields k fs).str = s.str := rfl
@[simp] theorem State.setFields_leases (k : RegKey) (fs : List (Nat × Nat × Nat)) : (s.setFields k fs).leases = s.leases := rfl
@[simp] theorem State.setFields_leaseLog (k : RegKey) (fs : List (Nat × Nat × Nat)) : (s.setFields k fs).leaseLog = s.leaseLog := rfl
@[simp] theorem State.setFields_cores (k : RegKey) (fs : List (Nat × Nat × Nat)) : (s.setFields k fs).cores = s.cores := rfl
@[simp] theorem State.setFields_l2 (k : RegKey) (fs : List (Nat × Nat × Nat)) : (s.setFields k fs).l2 = s.l2 := rfl
@[simp] theorem State.setFields_kettleRam (k : RegKey) (fs : List (Nat × Nat × Nat)) : (s.setFields k fs).kettleRam = s.kettleRam := rfl
@[simp] theorem State.setFields_sess (k : RegKey) (fs : List (Nat × Nat × Nat)) : (s.setFields k fs).sess = s.sess := rfl
@[simp] theorem State.setFields_beat (k : RegKey) (fs : List (Nat × Nat × Nat)) : (s.setFields k fs).beat = s.beat := rfl
@[simp] theorem State.setFields_later (k : RegKey) (fs : List (Nat × Nat × Nat)) : (s.setFields k fs).later = s.later := rfl
@[simp] theorem State.setFields_heldWrites (k : RegKey) (fs : List (Nat × Nat × Nat)) : (s.setFields k fs).heldWrites = s.heldWrites := rfl
@[simp] theorem State.setFields_spEnts (k : RegKey) (fs : List (Nat × Nat × Nat)) : (s.setFields k fs).spEnts = s.spEnts := rfl
@[simp] theorem State.setFields_spLocal (k : RegKey) (fs : List (Nat × Nat × Nat)) : (s.setFields k fs).spLocal = s.spLocal := rfl
@[simp] theorem State.setFields_tenantKeys (k : RegKey) (fs : List (Nat × Nat × Nat)) : (s.setFields k fs).tenantKeys = s.tenantKeys := rfl
@[simp] theorem State.setFields_vfs (k : RegKey) (fs : List (Nat × Nat × Nat)) : (s.setFields k fs).vfs = s.vfs := rfl
@[simp] theorem State.setFields_plyngen (k : RegKey) (fs : List (Nat × Nat × Nat)) : (s.setFields k fs).plyngen = s.plyngen := rfl
@[simp] theorem State.setFields_chipDue (k : RegKey) (fs : List (Nat × Nat × Nat)) : (s.setFields k fs).chipDue = s.chipDue := rfl
@[simp] theorem State.setFields_chipWhy (k : RegKey) (fs : List (Nat × Nat × Nat)) : (s.setFields k fs).chipWhy = s.chipWhy := rfl
@[simp] theorem State.setFields_reloadRegion (k : RegKey) (fs : List (Nat × Nat × Nat)) : (s.setFields k fs).reloadRegion = s.reloadRegion := rfl
@[simp] theorem State.resetRegs_pending (p : RegKey → Bool) : (s.resetRegs p).pending = s.pending := rfl
@[simp] theorem State.resetRegs_freeCtr (p : RegKey → Bool) : (s.resetRegs p).freeCtr = s.freeCtr := rfl
@[simp] theorem State.resetRegs_sent (p : RegKey → Bool) : (s.resetRegs p).sent = s.sent := rfl
@[simp] theorem State.resetRegs_phase (p : RegKey → Bool) : (s.resetRegs p).phase = s.phase := rfl
@[simp] theorem State.resetRegs_root (p : RegKey → Bool) : (s.resetRegs p).root = s.root := rfl
@[simp] theorem State.resetRegs_aon (p : RegKey → Bool) : (s.resetRegs p).aon = s.aon := rfl
@[simp] theorem State.resetRegs_clk (p : RegKey → Bool) : (s.resetRegs p).clk = s.clk := rfl
@[simp] theorem State.resetRegs_time (p : RegKey → Bool) : (s.resetRegs p).time = s.time := rfl
@[simp] theorem State.resetRegs_pins (p : RegKey → Bool) : (s.resetRegs p).pins = s.pins := rfl
@[simp] theorem State.resetRegs_latches (p : RegKey → Bool) : (s.resetRegs p).latches = s.latches := rfl
@[simp] theorem State.resetRegs_outstanding (p : RegKey → Bool) : (s.resetRegs p).outstanding = s.outstanding := rfl
@[simp] theorem State.resetRegs_responses (p : RegKey → Bool) : (s.resetRegs p).responses = s.responses := rfl
@[simp] theorem State.resetRegs_fences (p : RegKey → Bool) : (s.resetRegs p).fences = s.fences := rfl
@[simp] theorem State.resetRegs_heldReqs (p : RegKey → Bool) : (s.resetRegs p).heldReqs = s.heldReqs := rfl
@[simp] theorem State.resetRegs_refusals (p : RegKey → Bool) : (s.resetRegs p).refusals = s.refusals := rfl
@[simp] theorem State.resetRegs_stalls (p : RegKey → Bool) : (s.resetRegs p).stalls = s.stalls := rfl
@[simp] theorem State.resetRegs_queues (p : RegKey → Bool) : (s.resetRegs p).queues = s.queues := rfl
@[simp] theorem State.resetRegs_cups (p : RegKey → Bool) : (s.resetRegs p).cups = s.cups := rfl
@[simp] theorem State.resetRegs_leaves (p : RegKey → Bool) : (s.resetRegs p).leaves = s.leaves := rfl
@[simp] theorem State.resetRegs_streams (p : RegKey → Bool) : (s.resetRegs p).streams = s.streams := rfl
@[simp] theorem State.resetRegs_cols (p : RegKey → Bool) : (s.resetRegs p).cols = s.cols := rfl
@[simp] theorem State.resetRegs_quads (p : RegKey → Bool) : (s.resetRegs p).quads = s.quads := rfl
@[simp] theorem State.resetRegs_lanes (p : RegKey → Bool) : (s.resetRegs p).lanes = s.lanes := rfl
@[simp] theorem State.resetRegs_flitInj (p : RegKey → Bool) : (s.resetRegs p).flitInj = s.flitInj := rfl
@[simp] theorem State.resetRegs_stks (p : RegKey → Bool) : (s.resetRegs p).stks = s.stks := rfl
@[simp] theorem State.resetRegs_pchs (p : RegKey → Bool) : (s.resetRegs p).pchs = s.pchs := rfl
@[simp] theorem State.resetRegs_banks (p : RegKey → Bool) : (s.resetRegs p).banks = s.banks := rfl
@[simp] theorem State.resetRegs_rtps (p : RegKey → Bool) : (s.resetRegs p).rtps = s.rtps := rfl
@[simp] theorem State.resetRegs_hbmHeld (p : RegKey → Bool) : (s.resetRegs p).hbmHeld = s.hbmHeld := rfl
@[simp] theorem State.resetRegs_hbm (p : RegKey → Bool) : (s.resetRegs p).hbm = s.hbm := rfl
@[simp] theorem State.resetRegs_ranges (p : RegKey → Bool) : (s.resetRegs p).ranges = s.ranges := rfl
@[simp] theorem State.resetRegs_nv (p : RegKey → Bool) : (s.resetRegs p).nv = s.nv := rfl
@[simp] theorem State.resetRegs_caddy (p : RegKey → Bool) : (s.resetRegs p).caddy = s.caddy := rfl
@[simp] theorem State.resetRegs_imgJobs (p : RegKey → Bool) : (s.resetRegs p).imgJobs = s.imgJobs := rfl
@[simp] theorem State.resetRegs_hceJobs (p : RegKey → Bool) : (s.resetRegs p).hceJobs = s.hceJobs := rfl
@[simp] theorem State.resetRegs_hcePipe (p : RegKey → Bool) : (s.resetRegs p).hcePipe = s.hcePipe := rfl
@[simp] theorem State.resetRegs_hceLeft (p : RegKey → Bool) : (s.resetRegs p).hceLeft = s.hceLeft := rfl
@[simp] theorem State.resetRegs_hceLast (p : RegKey → Bool) : (s.resetRegs p).hceLast = s.hceLast := rfl
@[simp] theorem State.resetRegs_hceSlotNo (p : RegKey → Bool) : (s.resetRegs p).hceSlotNo = s.hceSlotNo := rfl
@[simp] theorem State.resetRegs_hceMode (p : RegKey → Bool) : (s.resetRegs p).hceMode = s.hceMode := rfl
@[simp] theorem State.resetRegs_links (p : RegKey → Bool) : (s.resetRegs p).links = s.links := rfl
@[simp] theorem State.resetRegs_cas (p : RegKey → Bool) : (s.resetRegs p).cas = s.cas := rfl
@[simp] theorem State.resetRegs_urn (p : RegKey → Bool) : (s.resetRegs p).urn = s.urn := rfl
@[simp] theorem State.resetRegs_str (p : RegKey → Bool) : (s.resetRegs p).str = s.str := rfl
@[simp] theorem State.resetRegs_leases (p : RegKey → Bool) : (s.resetRegs p).leases = s.leases := rfl
@[simp] theorem State.resetRegs_leaseLog (p : RegKey → Bool) : (s.resetRegs p).leaseLog = s.leaseLog := rfl
@[simp] theorem State.resetRegs_cores (p : RegKey → Bool) : (s.resetRegs p).cores = s.cores := rfl
@[simp] theorem State.resetRegs_l2 (p : RegKey → Bool) : (s.resetRegs p).l2 = s.l2 := rfl
@[simp] theorem State.resetRegs_kettleRam (p : RegKey → Bool) : (s.resetRegs p).kettleRam = s.kettleRam := rfl
@[simp] theorem State.resetRegs_sess (p : RegKey → Bool) : (s.resetRegs p).sess = s.sess := rfl
@[simp] theorem State.resetRegs_beat (p : RegKey → Bool) : (s.resetRegs p).beat = s.beat := rfl
@[simp] theorem State.resetRegs_later (p : RegKey → Bool) : (s.resetRegs p).later = s.later := rfl
@[simp] theorem State.resetRegs_heldWrites (p : RegKey → Bool) : (s.resetRegs p).heldWrites = s.heldWrites := rfl
@[simp] theorem State.resetRegs_spEnts (p : RegKey → Bool) : (s.resetRegs p).spEnts = s.spEnts := rfl
@[simp] theorem State.resetRegs_spLocal (p : RegKey → Bool) : (s.resetRegs p).spLocal = s.spLocal := rfl
@[simp] theorem State.resetRegs_tenantKeys (p : RegKey → Bool) : (s.resetRegs p).tenantKeys = s.tenantKeys := rfl
@[simp] theorem State.resetRegs_vfs (p : RegKey → Bool) : (s.resetRegs p).vfs = s.vfs := rfl
@[simp] theorem State.resetRegs_plyngen (p : RegKey → Bool) : (s.resetRegs p).plyngen = s.plyngen := rfl
@[simp] theorem State.resetRegs_chipDue (p : RegKey → Bool) : (s.resetRegs p).chipDue = s.chipDue := rfl
@[simp] theorem State.resetRegs_chipWhy (p : RegKey → Bool) : (s.resetRegs p).chipWhy = s.chipWhy := rfl
@[simp] theorem State.resetRegs_reloadRegion (p : RegKey → Bool) : (s.resetRegs p).reloadRegion = s.reloadRegion := rfl
@[simp] theorem State.setCup_pending (c : Nat) (x : CupSt) : (s.setCup c x).pending = s.pending := rfl
@[simp] theorem State.setCup_freeCtr (c : Nat) (x : CupSt) : (s.setCup c x).freeCtr = s.freeCtr := rfl
@[simp] theorem State.setCup_sent (c : Nat) (x : CupSt) : (s.setCup c x).sent = s.sent := rfl
@[simp] theorem State.setCup_phase (c : Nat) (x : CupSt) : (s.setCup c x).phase = s.phase := rfl
@[simp] theorem State.setCup_root (c : Nat) (x : CupSt) : (s.setCup c x).root = s.root := rfl
@[simp] theorem State.setCup_aon (c : Nat) (x : CupSt) : (s.setCup c x).aon = s.aon := rfl
@[simp] theorem State.setCup_clk (c : Nat) (x : CupSt) : (s.setCup c x).clk = s.clk := rfl
@[simp] theorem State.setCup_time (c : Nat) (x : CupSt) : (s.setCup c x).time = s.time := rfl
@[simp] theorem State.setCup_pins (c : Nat) (x : CupSt) : (s.setCup c x).pins = s.pins := rfl
@[simp] theorem State.setCup_regs (c : Nat) (x : CupSt) : (s.setCup c x).regs = s.regs := rfl
@[simp] theorem State.setCup_latches (c : Nat) (x : CupSt) : (s.setCup c x).latches = s.latches := rfl
@[simp] theorem State.setCup_outstanding (c : Nat) (x : CupSt) : (s.setCup c x).outstanding = s.outstanding := rfl
@[simp] theorem State.setCup_responses (c : Nat) (x : CupSt) : (s.setCup c x).responses = s.responses := rfl
@[simp] theorem State.setCup_fences (c : Nat) (x : CupSt) : (s.setCup c x).fences = s.fences := rfl
@[simp] theorem State.setCup_heldReqs (c : Nat) (x : CupSt) : (s.setCup c x).heldReqs = s.heldReqs := rfl
@[simp] theorem State.setCup_refusals (c : Nat) (x : CupSt) : (s.setCup c x).refusals = s.refusals := rfl
@[simp] theorem State.setCup_stalls (c : Nat) (x : CupSt) : (s.setCup c x).stalls = s.stalls := rfl
@[simp] theorem State.setCup_queues (c : Nat) (x : CupSt) : (s.setCup c x).queues = s.queues := rfl
@[simp] theorem State.setCup_leaves (c : Nat) (x : CupSt) : (s.setCup c x).leaves = s.leaves := rfl
@[simp] theorem State.setCup_streams (c : Nat) (x : CupSt) : (s.setCup c x).streams = s.streams := rfl
@[simp] theorem State.setCup_cols (c : Nat) (x : CupSt) : (s.setCup c x).cols = s.cols := rfl
@[simp] theorem State.setCup_quads (c : Nat) (x : CupSt) : (s.setCup c x).quads = s.quads := rfl
@[simp] theorem State.setCup_lanes (c : Nat) (x : CupSt) : (s.setCup c x).lanes = s.lanes := rfl
@[simp] theorem State.setCup_flitInj (c : Nat) (x : CupSt) : (s.setCup c x).flitInj = s.flitInj := rfl
@[simp] theorem State.setCup_stks (c : Nat) (x : CupSt) : (s.setCup c x).stks = s.stks := rfl
@[simp] theorem State.setCup_pchs (c : Nat) (x : CupSt) : (s.setCup c x).pchs = s.pchs := rfl
@[simp] theorem State.setCup_banks (c : Nat) (x : CupSt) : (s.setCup c x).banks = s.banks := rfl
@[simp] theorem State.setCup_rtps (c : Nat) (x : CupSt) : (s.setCup c x).rtps = s.rtps := rfl
@[simp] theorem State.setCup_hbmHeld (c : Nat) (x : CupSt) : (s.setCup c x).hbmHeld = s.hbmHeld := rfl
@[simp] theorem State.setCup_hbm (c : Nat) (x : CupSt) : (s.setCup c x).hbm = s.hbm := rfl
@[simp] theorem State.setCup_ranges (c : Nat) (x : CupSt) : (s.setCup c x).ranges = s.ranges := rfl
@[simp] theorem State.setCup_nv (c : Nat) (x : CupSt) : (s.setCup c x).nv = s.nv := rfl
@[simp] theorem State.setCup_caddy (c : Nat) (x : CupSt) : (s.setCup c x).caddy = s.caddy := rfl
@[simp] theorem State.setCup_imgJobs (c : Nat) (x : CupSt) : (s.setCup c x).imgJobs = s.imgJobs := rfl
@[simp] theorem State.setCup_hceJobs (c : Nat) (x : CupSt) : (s.setCup c x).hceJobs = s.hceJobs := rfl
@[simp] theorem State.setCup_hcePipe (c : Nat) (x : CupSt) : (s.setCup c x).hcePipe = s.hcePipe := rfl
@[simp] theorem State.setCup_hceLeft (c : Nat) (x : CupSt) : (s.setCup c x).hceLeft = s.hceLeft := rfl
@[simp] theorem State.setCup_hceLast (c : Nat) (x : CupSt) : (s.setCup c x).hceLast = s.hceLast := rfl
@[simp] theorem State.setCup_hceSlotNo (c : Nat) (x : CupSt) : (s.setCup c x).hceSlotNo = s.hceSlotNo := rfl
@[simp] theorem State.setCup_hceMode (c : Nat) (x : CupSt) : (s.setCup c x).hceMode = s.hceMode := rfl
@[simp] theorem State.setCup_links (c : Nat) (x : CupSt) : (s.setCup c x).links = s.links := rfl
@[simp] theorem State.setCup_cas (c : Nat) (x : CupSt) : (s.setCup c x).cas = s.cas := rfl
@[simp] theorem State.setCup_urn (c : Nat) (x : CupSt) : (s.setCup c x).urn = s.urn := rfl
@[simp] theorem State.setCup_str (c : Nat) (x : CupSt) : (s.setCup c x).str = s.str := rfl
@[simp] theorem State.setCup_leases (c : Nat) (x : CupSt) : (s.setCup c x).leases = s.leases := rfl
@[simp] theorem State.setCup_leaseLog (c : Nat) (x : CupSt) : (s.setCup c x).leaseLog = s.leaseLog := rfl
@[simp] theorem State.setCup_cores (c : Nat) (x : CupSt) : (s.setCup c x).cores = s.cores := rfl
@[simp] theorem State.setCup_l2 (c : Nat) (x : CupSt) : (s.setCup c x).l2 = s.l2 := rfl
@[simp] theorem State.setCup_kettleRam (c : Nat) (x : CupSt) : (s.setCup c x).kettleRam = s.kettleRam := rfl
@[simp] theorem State.setCup_sess (c : Nat) (x : CupSt) : (s.setCup c x).sess = s.sess := rfl
@[simp] theorem State.setCup_beat (c : Nat) (x : CupSt) : (s.setCup c x).beat = s.beat := rfl
@[simp] theorem State.setCup_later (c : Nat) (x : CupSt) : (s.setCup c x).later = s.later := rfl
@[simp] theorem State.setCup_heldWrites (c : Nat) (x : CupSt) : (s.setCup c x).heldWrites = s.heldWrites := rfl
@[simp] theorem State.setCup_spEnts (c : Nat) (x : CupSt) : (s.setCup c x).spEnts = s.spEnts := rfl
@[simp] theorem State.setCup_spLocal (c : Nat) (x : CupSt) : (s.setCup c x).spLocal = s.spLocal := rfl
@[simp] theorem State.setCup_tenantKeys (c : Nat) (x : CupSt) : (s.setCup c x).tenantKeys = s.tenantKeys := rfl
@[simp] theorem State.setCup_vfs (c : Nat) (x : CupSt) : (s.setCup c x).vfs = s.vfs := rfl
@[simp] theorem State.setCup_plyngen (c : Nat) (x : CupSt) : (s.setCup c x).plyngen = s.plyngen := rfl
@[simp] theorem State.setCup_chipDue (c : Nat) (x : CupSt) : (s.setCup c x).chipDue = s.chipDue := rfl
@[simp] theorem State.setCup_chipWhy (c : Nat) (x : CupSt) : (s.setCup c x).chipWhy = s.chipWhy := rfl
@[simp] theorem State.setCup_reloadRegion (c : Nat) (x : CupSt) : (s.setCup c x).reloadRegion = s.reloadRegion := rfl
@[simp] theorem State.modCup_pending (c : Nat) (f : CupSt → CupSt) : (s.modCup c f).pending = s.pending := rfl
@[simp] theorem State.modCup_freeCtr (c : Nat) (f : CupSt → CupSt) : (s.modCup c f).freeCtr = s.freeCtr := rfl
@[simp] theorem State.modCup_sent (c : Nat) (f : CupSt → CupSt) : (s.modCup c f).sent = s.sent := rfl
@[simp] theorem State.modCup_phase (c : Nat) (f : CupSt → CupSt) : (s.modCup c f).phase = s.phase := rfl
@[simp] theorem State.modCup_root (c : Nat) (f : CupSt → CupSt) : (s.modCup c f).root = s.root := rfl
@[simp] theorem State.modCup_aon (c : Nat) (f : CupSt → CupSt) : (s.modCup c f).aon = s.aon := rfl
@[simp] theorem State.modCup_clk (c : Nat) (f : CupSt → CupSt) : (s.modCup c f).clk = s.clk := rfl
@[simp] theorem State.modCup_time (c : Nat) (f : CupSt → CupSt) : (s.modCup c f).time = s.time := rfl
@[simp] theorem State.modCup_pins (c : Nat) (f : CupSt → CupSt) : (s.modCup c f).pins = s.pins := rfl
@[simp] theorem State.modCup_regs (c : Nat) (f : CupSt → CupSt) : (s.modCup c f).regs = s.regs := rfl
@[simp] theorem State.modCup_latches (c : Nat) (f : CupSt → CupSt) : (s.modCup c f).latches = s.latches := rfl
@[simp] theorem State.modCup_outstanding (c : Nat) (f : CupSt → CupSt) : (s.modCup c f).outstanding = s.outstanding := rfl
@[simp] theorem State.modCup_responses (c : Nat) (f : CupSt → CupSt) : (s.modCup c f).responses = s.responses := rfl
@[simp] theorem State.modCup_fences (c : Nat) (f : CupSt → CupSt) : (s.modCup c f).fences = s.fences := rfl
@[simp] theorem State.modCup_heldReqs (c : Nat) (f : CupSt → CupSt) : (s.modCup c f).heldReqs = s.heldReqs := rfl
@[simp] theorem State.modCup_refusals (c : Nat) (f : CupSt → CupSt) : (s.modCup c f).refusals = s.refusals := rfl
@[simp] theorem State.modCup_stalls (c : Nat) (f : CupSt → CupSt) : (s.modCup c f).stalls = s.stalls := rfl
@[simp] theorem State.modCup_queues (c : Nat) (f : CupSt → CupSt) : (s.modCup c f).queues = s.queues := rfl
@[simp] theorem State.modCup_leaves (c : Nat) (f : CupSt → CupSt) : (s.modCup c f).leaves = s.leaves := rfl
@[simp] theorem State.modCup_streams (c : Nat) (f : CupSt → CupSt) : (s.modCup c f).streams = s.streams := rfl
@[simp] theorem State.modCup_cols (c : Nat) (f : CupSt → CupSt) : (s.modCup c f).cols = s.cols := rfl
@[simp] theorem State.modCup_quads (c : Nat) (f : CupSt → CupSt) : (s.modCup c f).quads = s.quads := rfl
@[simp] theorem State.modCup_lanes (c : Nat) (f : CupSt → CupSt) : (s.modCup c f).lanes = s.lanes := rfl
@[simp] theorem State.modCup_flitInj (c : Nat) (f : CupSt → CupSt) : (s.modCup c f).flitInj = s.flitInj := rfl
@[simp] theorem State.modCup_stks (c : Nat) (f : CupSt → CupSt) : (s.modCup c f).stks = s.stks := rfl
@[simp] theorem State.modCup_pchs (c : Nat) (f : CupSt → CupSt) : (s.modCup c f).pchs = s.pchs := rfl
@[simp] theorem State.modCup_banks (c : Nat) (f : CupSt → CupSt) : (s.modCup c f).banks = s.banks := rfl
@[simp] theorem State.modCup_rtps (c : Nat) (f : CupSt → CupSt) : (s.modCup c f).rtps = s.rtps := rfl
@[simp] theorem State.modCup_hbmHeld (c : Nat) (f : CupSt → CupSt) : (s.modCup c f).hbmHeld = s.hbmHeld := rfl
@[simp] theorem State.modCup_hbm (c : Nat) (f : CupSt → CupSt) : (s.modCup c f).hbm = s.hbm := rfl
@[simp] theorem State.modCup_ranges (c : Nat) (f : CupSt → CupSt) : (s.modCup c f).ranges = s.ranges := rfl
@[simp] theorem State.modCup_nv (c : Nat) (f : CupSt → CupSt) : (s.modCup c f).nv = s.nv := rfl
@[simp] theorem State.modCup_caddy (c : Nat) (f : CupSt → CupSt) : (s.modCup c f).caddy = s.caddy := rfl
@[simp] theorem State.modCup_imgJobs (c : Nat) (f : CupSt → CupSt) : (s.modCup c f).imgJobs = s.imgJobs := rfl
@[simp] theorem State.modCup_hceJobs (c : Nat) (f : CupSt → CupSt) : (s.modCup c f).hceJobs = s.hceJobs := rfl
@[simp] theorem State.modCup_hcePipe (c : Nat) (f : CupSt → CupSt) : (s.modCup c f).hcePipe = s.hcePipe := rfl
@[simp] theorem State.modCup_hceLeft (c : Nat) (f : CupSt → CupSt) : (s.modCup c f).hceLeft = s.hceLeft := rfl
@[simp] theorem State.modCup_hceLast (c : Nat) (f : CupSt → CupSt) : (s.modCup c f).hceLast = s.hceLast := rfl
@[simp] theorem State.modCup_hceSlotNo (c : Nat) (f : CupSt → CupSt) : (s.modCup c f).hceSlotNo = s.hceSlotNo := rfl
@[simp] theorem State.modCup_hceMode (c : Nat) (f : CupSt → CupSt) : (s.modCup c f).hceMode = s.hceMode := rfl
@[simp] theorem State.modCup_links (c : Nat) (f : CupSt → CupSt) : (s.modCup c f).links = s.links := rfl
@[simp] theorem State.modCup_cas (c : Nat) (f : CupSt → CupSt) : (s.modCup c f).cas = s.cas := rfl
@[simp] theorem State.modCup_urn (c : Nat) (f : CupSt → CupSt) : (s.modCup c f).urn = s.urn := rfl
@[simp] theorem State.modCup_str (c : Nat) (f : CupSt → CupSt) : (s.modCup c f).str = s.str := rfl
@[simp] theorem State.modCup_leases (c : Nat) (f : CupSt → CupSt) : (s.modCup c f).leases = s.leases := rfl
@[simp] theorem State.modCup_leaseLog (c : Nat) (f : CupSt → CupSt) : (s.modCup c f).leaseLog = s.leaseLog := rfl
@[simp] theorem State.modCup_cores (c : Nat) (f : CupSt → CupSt) : (s.modCup c f).cores = s.cores := rfl
@[simp] theorem State.modCup_l2 (c : Nat) (f : CupSt → CupSt) : (s.modCup c f).l2 = s.l2 := rfl
@[simp] theorem State.modCup_kettleRam (c : Nat) (f : CupSt → CupSt) : (s.modCup c f).kettleRam = s.kettleRam := rfl
@[simp] theorem State.modCup_sess (c : Nat) (f : CupSt → CupSt) : (s.modCup c f).sess = s.sess := rfl
@[simp] theorem State.modCup_beat (c : Nat) (f : CupSt → CupSt) : (s.modCup c f).beat = s.beat := rfl
@[simp] theorem State.modCup_later (c : Nat) (f : CupSt → CupSt) : (s.modCup c f).later = s.later := rfl
@[simp] theorem State.modCup_heldWrites (c : Nat) (f : CupSt → CupSt) : (s.modCup c f).heldWrites = s.heldWrites := rfl
@[simp] theorem State.modCup_spEnts (c : Nat) (f : CupSt → CupSt) : (s.modCup c f).spEnts = s.spEnts := rfl
@[simp] theorem State.modCup_spLocal (c : Nat) (f : CupSt → CupSt) : (s.modCup c f).spLocal = s.spLocal := rfl
@[simp] theorem State.modCup_tenantKeys (c : Nat) (f : CupSt → CupSt) : (s.modCup c f).tenantKeys = s.tenantKeys := rfl
@[simp] theorem State.modCup_vfs (c : Nat) (f : CupSt → CupSt) : (s.modCup c f).vfs = s.vfs := rfl
@[simp] theorem State.modCup_plyngen (c : Nat) (f : CupSt → CupSt) : (s.modCup c f).plyngen = s.plyngen := rfl
@[simp] theorem State.modCup_chipDue (c : Nat) (f : CupSt → CupSt) : (s.modCup c f).chipDue = s.chipDue := rfl
@[simp] theorem State.modCup_chipWhy (c : Nat) (f : CupSt → CupSt) : (s.modCup c f).chipWhy = s.chipWhy := rfl
@[simp] theorem State.modCup_reloadRegion (c : Nat) (f : CupSt → CupSt) : (s.modCup c f).reloadRegion = s.reloadRegion := rfl
@[simp] theorem State.modLeaf_pending (i : Nat) (f : LeafSt → LeafSt) : (s.modLeaf i f).pending = s.pending := rfl
@[simp] theorem State.modLeaf_freeCtr (i : Nat) (f : LeafSt → LeafSt) : (s.modLeaf i f).freeCtr = s.freeCtr := rfl
@[simp] theorem State.modLeaf_sent (i : Nat) (f : LeafSt → LeafSt) : (s.modLeaf i f).sent = s.sent := rfl
@[simp] theorem State.modLeaf_phase (i : Nat) (f : LeafSt → LeafSt) : (s.modLeaf i f).phase = s.phase := rfl
@[simp] theorem State.modLeaf_root (i : Nat) (f : LeafSt → LeafSt) : (s.modLeaf i f).root = s.root := rfl
@[simp] theorem State.modLeaf_aon (i : Nat) (f : LeafSt → LeafSt) : (s.modLeaf i f).aon = s.aon := rfl
@[simp] theorem State.modLeaf_clk (i : Nat) (f : LeafSt → LeafSt) : (s.modLeaf i f).clk = s.clk := rfl
@[simp] theorem State.modLeaf_time (i : Nat) (f : LeafSt → LeafSt) : (s.modLeaf i f).time = s.time := rfl
@[simp] theorem State.modLeaf_pins (i : Nat) (f : LeafSt → LeafSt) : (s.modLeaf i f).pins = s.pins := rfl
@[simp] theorem State.modLeaf_regs (i : Nat) (f : LeafSt → LeafSt) : (s.modLeaf i f).regs = s.regs := rfl
@[simp] theorem State.modLeaf_latches (i : Nat) (f : LeafSt → LeafSt) : (s.modLeaf i f).latches = s.latches := rfl
@[simp] theorem State.modLeaf_outstanding (i : Nat) (f : LeafSt → LeafSt) : (s.modLeaf i f).outstanding = s.outstanding := rfl
@[simp] theorem State.modLeaf_responses (i : Nat) (f : LeafSt → LeafSt) : (s.modLeaf i f).responses = s.responses := rfl
@[simp] theorem State.modLeaf_fences (i : Nat) (f : LeafSt → LeafSt) : (s.modLeaf i f).fences = s.fences := rfl
@[simp] theorem State.modLeaf_heldReqs (i : Nat) (f : LeafSt → LeafSt) : (s.modLeaf i f).heldReqs = s.heldReqs := rfl
@[simp] theorem State.modLeaf_refusals (i : Nat) (f : LeafSt → LeafSt) : (s.modLeaf i f).refusals = s.refusals := rfl
@[simp] theorem State.modLeaf_stalls (i : Nat) (f : LeafSt → LeafSt) : (s.modLeaf i f).stalls = s.stalls := rfl
@[simp] theorem State.modLeaf_queues (i : Nat) (f : LeafSt → LeafSt) : (s.modLeaf i f).queues = s.queues := rfl
@[simp] theorem State.modLeaf_cups (i : Nat) (f : LeafSt → LeafSt) : (s.modLeaf i f).cups = s.cups := rfl
@[simp] theorem State.modLeaf_streams (i : Nat) (f : LeafSt → LeafSt) : (s.modLeaf i f).streams = s.streams := rfl
@[simp] theorem State.modLeaf_cols (i : Nat) (f : LeafSt → LeafSt) : (s.modLeaf i f).cols = s.cols := rfl
@[simp] theorem State.modLeaf_quads (i : Nat) (f : LeafSt → LeafSt) : (s.modLeaf i f).quads = s.quads := rfl
@[simp] theorem State.modLeaf_lanes (i : Nat) (f : LeafSt → LeafSt) : (s.modLeaf i f).lanes = s.lanes := rfl
@[simp] theorem State.modLeaf_flitInj (i : Nat) (f : LeafSt → LeafSt) : (s.modLeaf i f).flitInj = s.flitInj := rfl
@[simp] theorem State.modLeaf_stks (i : Nat) (f : LeafSt → LeafSt) : (s.modLeaf i f).stks = s.stks := rfl
@[simp] theorem State.modLeaf_pchs (i : Nat) (f : LeafSt → LeafSt) : (s.modLeaf i f).pchs = s.pchs := rfl
@[simp] theorem State.modLeaf_banks (i : Nat) (f : LeafSt → LeafSt) : (s.modLeaf i f).banks = s.banks := rfl
@[simp] theorem State.modLeaf_rtps (i : Nat) (f : LeafSt → LeafSt) : (s.modLeaf i f).rtps = s.rtps := rfl
@[simp] theorem State.modLeaf_hbmHeld (i : Nat) (f : LeafSt → LeafSt) : (s.modLeaf i f).hbmHeld = s.hbmHeld := rfl
@[simp] theorem State.modLeaf_hbm (i : Nat) (f : LeafSt → LeafSt) : (s.modLeaf i f).hbm = s.hbm := rfl
@[simp] theorem State.modLeaf_ranges (i : Nat) (f : LeafSt → LeafSt) : (s.modLeaf i f).ranges = s.ranges := rfl
@[simp] theorem State.modLeaf_nv (i : Nat) (f : LeafSt → LeafSt) : (s.modLeaf i f).nv = s.nv := rfl
@[simp] theorem State.modLeaf_caddy (i : Nat) (f : LeafSt → LeafSt) : (s.modLeaf i f).caddy = s.caddy := rfl
@[simp] theorem State.modLeaf_imgJobs (i : Nat) (f : LeafSt → LeafSt) : (s.modLeaf i f).imgJobs = s.imgJobs := rfl
@[simp] theorem State.modLeaf_hceJobs (i : Nat) (f : LeafSt → LeafSt) : (s.modLeaf i f).hceJobs = s.hceJobs := rfl
@[simp] theorem State.modLeaf_hcePipe (i : Nat) (f : LeafSt → LeafSt) : (s.modLeaf i f).hcePipe = s.hcePipe := rfl
@[simp] theorem State.modLeaf_hceLeft (i : Nat) (f : LeafSt → LeafSt) : (s.modLeaf i f).hceLeft = s.hceLeft := rfl
@[simp] theorem State.modLeaf_hceLast (i : Nat) (f : LeafSt → LeafSt) : (s.modLeaf i f).hceLast = s.hceLast := rfl
@[simp] theorem State.modLeaf_hceSlotNo (i : Nat) (f : LeafSt → LeafSt) : (s.modLeaf i f).hceSlotNo = s.hceSlotNo := rfl
@[simp] theorem State.modLeaf_hceMode (i : Nat) (f : LeafSt → LeafSt) : (s.modLeaf i f).hceMode = s.hceMode := rfl
@[simp] theorem State.modLeaf_links (i : Nat) (f : LeafSt → LeafSt) : (s.modLeaf i f).links = s.links := rfl
@[simp] theorem State.modLeaf_cas (i : Nat) (f : LeafSt → LeafSt) : (s.modLeaf i f).cas = s.cas := rfl
@[simp] theorem State.modLeaf_urn (i : Nat) (f : LeafSt → LeafSt) : (s.modLeaf i f).urn = s.urn := rfl
@[simp] theorem State.modLeaf_str (i : Nat) (f : LeafSt → LeafSt) : (s.modLeaf i f).str = s.str := rfl
@[simp] theorem State.modLeaf_leases (i : Nat) (f : LeafSt → LeafSt) : (s.modLeaf i f).leases = s.leases := rfl
@[simp] theorem State.modLeaf_leaseLog (i : Nat) (f : LeafSt → LeafSt) : (s.modLeaf i f).leaseLog = s.leaseLog := rfl
@[simp] theorem State.modLeaf_cores (i : Nat) (f : LeafSt → LeafSt) : (s.modLeaf i f).cores = s.cores := rfl
@[simp] theorem State.modLeaf_l2 (i : Nat) (f : LeafSt → LeafSt) : (s.modLeaf i f).l2 = s.l2 := rfl
@[simp] theorem State.modLeaf_kettleRam (i : Nat) (f : LeafSt → LeafSt) : (s.modLeaf i f).kettleRam = s.kettleRam := rfl
@[simp] theorem State.modLeaf_sess (i : Nat) (f : LeafSt → LeafSt) : (s.modLeaf i f).sess = s.sess := rfl
@[simp] theorem State.modLeaf_beat (i : Nat) (f : LeafSt → LeafSt) : (s.modLeaf i f).beat = s.beat := rfl
@[simp] theorem State.modLeaf_later (i : Nat) (f : LeafSt → LeafSt) : (s.modLeaf i f).later = s.later := rfl
@[simp] theorem State.modLeaf_heldWrites (i : Nat) (f : LeafSt → LeafSt) : (s.modLeaf i f).heldWrites = s.heldWrites := rfl
@[simp] theorem State.modLeaf_spEnts (i : Nat) (f : LeafSt → LeafSt) : (s.modLeaf i f).spEnts = s.spEnts := rfl
@[simp] theorem State.modLeaf_spLocal (i : Nat) (f : LeafSt → LeafSt) : (s.modLeaf i f).spLocal = s.spLocal := rfl
@[simp] theorem State.modLeaf_tenantKeys (i : Nat) (f : LeafSt → LeafSt) : (s.modLeaf i f).tenantKeys = s.tenantKeys := rfl
@[simp] theorem State.modLeaf_vfs (i : Nat) (f : LeafSt → LeafSt) : (s.modLeaf i f).vfs = s.vfs := rfl
@[simp] theorem State.modLeaf_plyngen (i : Nat) (f : LeafSt → LeafSt) : (s.modLeaf i f).plyngen = s.plyngen := rfl
@[simp] theorem State.modLeaf_chipDue (i : Nat) (f : LeafSt → LeafSt) : (s.modLeaf i f).chipDue = s.chipDue := rfl
@[simp] theorem State.modLeaf_chipWhy (i : Nat) (f : LeafSt → LeafSt) : (s.modLeaf i f).chipWhy = s.chipWhy := rfl
@[simp] theorem State.modLeaf_reloadRegion (i : Nat) (f : LeafSt → LeafSt) : (s.modLeaf i f).reloadRegion = s.reloadRegion := rfl
@[simp] theorem State.modStream_pending (i : Nat) (f : StreamSt → StreamSt) : (s.modStream i f).pending = s.pending := rfl
@[simp] theorem State.modStream_freeCtr (i : Nat) (f : StreamSt → StreamSt) : (s.modStream i f).freeCtr = s.freeCtr := rfl
@[simp] theorem State.modStream_sent (i : Nat) (f : StreamSt → StreamSt) : (s.modStream i f).sent = s.sent := rfl
@[simp] theorem State.modStream_phase (i : Nat) (f : StreamSt → StreamSt) : (s.modStream i f).phase = s.phase := rfl
@[simp] theorem State.modStream_root (i : Nat) (f : StreamSt → StreamSt) : (s.modStream i f).root = s.root := rfl
@[simp] theorem State.modStream_aon (i : Nat) (f : StreamSt → StreamSt) : (s.modStream i f).aon = s.aon := rfl
@[simp] theorem State.modStream_clk (i : Nat) (f : StreamSt → StreamSt) : (s.modStream i f).clk = s.clk := rfl
@[simp] theorem State.modStream_time (i : Nat) (f : StreamSt → StreamSt) : (s.modStream i f).time = s.time := rfl
@[simp] theorem State.modStream_pins (i : Nat) (f : StreamSt → StreamSt) : (s.modStream i f).pins = s.pins := rfl
@[simp] theorem State.modStream_regs (i : Nat) (f : StreamSt → StreamSt) : (s.modStream i f).regs = s.regs := rfl
@[simp] theorem State.modStream_latches (i : Nat) (f : StreamSt → StreamSt) : (s.modStream i f).latches = s.latches := rfl
@[simp] theorem State.modStream_outstanding (i : Nat) (f : StreamSt → StreamSt) : (s.modStream i f).outstanding = s.outstanding := rfl
@[simp] theorem State.modStream_responses (i : Nat) (f : StreamSt → StreamSt) : (s.modStream i f).responses = s.responses := rfl
@[simp] theorem State.modStream_fences (i : Nat) (f : StreamSt → StreamSt) : (s.modStream i f).fences = s.fences := rfl
@[simp] theorem State.modStream_heldReqs (i : Nat) (f : StreamSt → StreamSt) : (s.modStream i f).heldReqs = s.heldReqs := rfl
@[simp] theorem State.modStream_refusals (i : Nat) (f : StreamSt → StreamSt) : (s.modStream i f).refusals = s.refusals := rfl
@[simp] theorem State.modStream_stalls (i : Nat) (f : StreamSt → StreamSt) : (s.modStream i f).stalls = s.stalls := rfl
@[simp] theorem State.modStream_queues (i : Nat) (f : StreamSt → StreamSt) : (s.modStream i f).queues = s.queues := rfl
@[simp] theorem State.modStream_cups (i : Nat) (f : StreamSt → StreamSt) : (s.modStream i f).cups = s.cups := rfl
@[simp] theorem State.modStream_leaves (i : Nat) (f : StreamSt → StreamSt) : (s.modStream i f).leaves = s.leaves := rfl
@[simp] theorem State.modStream_cols (i : Nat) (f : StreamSt → StreamSt) : (s.modStream i f).cols = s.cols := rfl
@[simp] theorem State.modStream_quads (i : Nat) (f : StreamSt → StreamSt) : (s.modStream i f).quads = s.quads := rfl
@[simp] theorem State.modStream_lanes (i : Nat) (f : StreamSt → StreamSt) : (s.modStream i f).lanes = s.lanes := rfl
@[simp] theorem State.modStream_flitInj (i : Nat) (f : StreamSt → StreamSt) : (s.modStream i f).flitInj = s.flitInj := rfl
@[simp] theorem State.modStream_stks (i : Nat) (f : StreamSt → StreamSt) : (s.modStream i f).stks = s.stks := rfl
@[simp] theorem State.modStream_pchs (i : Nat) (f : StreamSt → StreamSt) : (s.modStream i f).pchs = s.pchs := rfl
@[simp] theorem State.modStream_banks (i : Nat) (f : StreamSt → StreamSt) : (s.modStream i f).banks = s.banks := rfl
@[simp] theorem State.modStream_rtps (i : Nat) (f : StreamSt → StreamSt) : (s.modStream i f).rtps = s.rtps := rfl
@[simp] theorem State.modStream_hbmHeld (i : Nat) (f : StreamSt → StreamSt) : (s.modStream i f).hbmHeld = s.hbmHeld := rfl
@[simp] theorem State.modStream_hbm (i : Nat) (f : StreamSt → StreamSt) : (s.modStream i f).hbm = s.hbm := rfl
@[simp] theorem State.modStream_ranges (i : Nat) (f : StreamSt → StreamSt) : (s.modStream i f).ranges = s.ranges := rfl
@[simp] theorem State.modStream_nv (i : Nat) (f : StreamSt → StreamSt) : (s.modStream i f).nv = s.nv := rfl
@[simp] theorem State.modStream_caddy (i : Nat) (f : StreamSt → StreamSt) : (s.modStream i f).caddy = s.caddy := rfl
@[simp] theorem State.modStream_imgJobs (i : Nat) (f : StreamSt → StreamSt) : (s.modStream i f).imgJobs = s.imgJobs := rfl
@[simp] theorem State.modStream_hceJobs (i : Nat) (f : StreamSt → StreamSt) : (s.modStream i f).hceJobs = s.hceJobs := rfl
@[simp] theorem State.modStream_hcePipe (i : Nat) (f : StreamSt → StreamSt) : (s.modStream i f).hcePipe = s.hcePipe := rfl
@[simp] theorem State.modStream_hceLeft (i : Nat) (f : StreamSt → StreamSt) : (s.modStream i f).hceLeft = s.hceLeft := rfl
@[simp] theorem State.modStream_hceLast (i : Nat) (f : StreamSt → StreamSt) : (s.modStream i f).hceLast = s.hceLast := rfl
@[simp] theorem State.modStream_hceSlotNo (i : Nat) (f : StreamSt → StreamSt) : (s.modStream i f).hceSlotNo = s.hceSlotNo := rfl
@[simp] theorem State.modStream_hceMode (i : Nat) (f : StreamSt → StreamSt) : (s.modStream i f).hceMode = s.hceMode := rfl
@[simp] theorem State.modStream_links (i : Nat) (f : StreamSt → StreamSt) : (s.modStream i f).links = s.links := rfl
@[simp] theorem State.modStream_cas (i : Nat) (f : StreamSt → StreamSt) : (s.modStream i f).cas = s.cas := rfl
@[simp] theorem State.modStream_urn (i : Nat) (f : StreamSt → StreamSt) : (s.modStream i f).urn = s.urn := rfl
@[simp] theorem State.modStream_str (i : Nat) (f : StreamSt → StreamSt) : (s.modStream i f).str = s.str := rfl
@[simp] theorem State.modStream_leases (i : Nat) (f : StreamSt → StreamSt) : (s.modStream i f).leases = s.leases := rfl
@[simp] theorem State.modStream_leaseLog (i : Nat) (f : StreamSt → StreamSt) : (s.modStream i f).leaseLog = s.leaseLog := rfl
@[simp] theorem State.modStream_cores (i : Nat) (f : StreamSt → StreamSt) : (s.modStream i f).cores = s.cores := rfl
@[simp] theorem State.modStream_l2 (i : Nat) (f : StreamSt → StreamSt) : (s.modStream i f).l2 = s.l2 := rfl
@[simp] theorem State.modStream_kettleRam (i : Nat) (f : StreamSt → StreamSt) : (s.modStream i f).kettleRam = s.kettleRam := rfl
@[simp] theorem State.modStream_sess (i : Nat) (f : StreamSt → StreamSt) : (s.modStream i f).sess = s.sess := rfl
@[simp] theorem State.modStream_beat (i : Nat) (f : StreamSt → StreamSt) : (s.modStream i f).beat = s.beat := rfl
@[simp] theorem State.modStream_later (i : Nat) (f : StreamSt → StreamSt) : (s.modStream i f).later = s.later := rfl
@[simp] theorem State.modStream_heldWrites (i : Nat) (f : StreamSt → StreamSt) : (s.modStream i f).heldWrites = s.heldWrites := rfl
@[simp] theorem State.modStream_spEnts (i : Nat) (f : StreamSt → StreamSt) : (s.modStream i f).spEnts = s.spEnts := rfl
@[simp] theorem State.modStream_spLocal (i : Nat) (f : StreamSt → StreamSt) : (s.modStream i f).spLocal = s.spLocal := rfl
@[simp] theorem State.modStream_tenantKeys (i : Nat) (f : StreamSt → StreamSt) : (s.modStream i f).tenantKeys = s.tenantKeys := rfl
@[simp] theorem State.modStream_vfs (i : Nat) (f : StreamSt → StreamSt) : (s.modStream i f).vfs = s.vfs := rfl
@[simp] theorem State.modStream_plyngen (i : Nat) (f : StreamSt → StreamSt) : (s.modStream i f).plyngen = s.plyngen := rfl
@[simp] theorem State.modStream_chipDue (i : Nat) (f : StreamSt → StreamSt) : (s.modStream i f).chipDue = s.chipDue := rfl
@[simp] theorem State.modStream_chipWhy (i : Nat) (f : StreamSt → StreamSt) : (s.modStream i f).chipWhy = s.chipWhy := rfl
@[simp] theorem State.modStream_reloadRegion (i : Nat) (f : StreamSt → StreamSt) : (s.modStream i f).reloadRegion = s.reloadRegion := rfl
@[simp] theorem State.modCol_pending (i : Nat) (f : ColSt → ColSt) : (s.modCol i f).pending = s.pending := rfl
@[simp] theorem State.modCol_freeCtr (i : Nat) (f : ColSt → ColSt) : (s.modCol i f).freeCtr = s.freeCtr := rfl
@[simp] theorem State.modCol_sent (i : Nat) (f : ColSt → ColSt) : (s.modCol i f).sent = s.sent := rfl
@[simp] theorem State.modCol_phase (i : Nat) (f : ColSt → ColSt) : (s.modCol i f).phase = s.phase := rfl
@[simp] theorem State.modCol_root (i : Nat) (f : ColSt → ColSt) : (s.modCol i f).root = s.root := rfl
@[simp] theorem State.modCol_aon (i : Nat) (f : ColSt → ColSt) : (s.modCol i f).aon = s.aon := rfl
@[simp] theorem State.modCol_clk (i : Nat) (f : ColSt → ColSt) : (s.modCol i f).clk = s.clk := rfl
@[simp] theorem State.modCol_time (i : Nat) (f : ColSt → ColSt) : (s.modCol i f).time = s.time := rfl
@[simp] theorem State.modCol_pins (i : Nat) (f : ColSt → ColSt) : (s.modCol i f).pins = s.pins := rfl
@[simp] theorem State.modCol_regs (i : Nat) (f : ColSt → ColSt) : (s.modCol i f).regs = s.regs := rfl
@[simp] theorem State.modCol_latches (i : Nat) (f : ColSt → ColSt) : (s.modCol i f).latches = s.latches := rfl
@[simp] theorem State.modCol_outstanding (i : Nat) (f : ColSt → ColSt) : (s.modCol i f).outstanding = s.outstanding := rfl
@[simp] theorem State.modCol_responses (i : Nat) (f : ColSt → ColSt) : (s.modCol i f).responses = s.responses := rfl
@[simp] theorem State.modCol_fences (i : Nat) (f : ColSt → ColSt) : (s.modCol i f).fences = s.fences := rfl
@[simp] theorem State.modCol_heldReqs (i : Nat) (f : ColSt → ColSt) : (s.modCol i f).heldReqs = s.heldReqs := rfl
@[simp] theorem State.modCol_refusals (i : Nat) (f : ColSt → ColSt) : (s.modCol i f).refusals = s.refusals := rfl
@[simp] theorem State.modCol_stalls (i : Nat) (f : ColSt → ColSt) : (s.modCol i f).stalls = s.stalls := rfl
@[simp] theorem State.modCol_queues (i : Nat) (f : ColSt → ColSt) : (s.modCol i f).queues = s.queues := rfl
@[simp] theorem State.modCol_cups (i : Nat) (f : ColSt → ColSt) : (s.modCol i f).cups = s.cups := rfl
@[simp] theorem State.modCol_leaves (i : Nat) (f : ColSt → ColSt) : (s.modCol i f).leaves = s.leaves := rfl
@[simp] theorem State.modCol_streams (i : Nat) (f : ColSt → ColSt) : (s.modCol i f).streams = s.streams := rfl
@[simp] theorem State.modCol_quads (i : Nat) (f : ColSt → ColSt) : (s.modCol i f).quads = s.quads := rfl
@[simp] theorem State.modCol_lanes (i : Nat) (f : ColSt → ColSt) : (s.modCol i f).lanes = s.lanes := rfl
@[simp] theorem State.modCol_flitInj (i : Nat) (f : ColSt → ColSt) : (s.modCol i f).flitInj = s.flitInj := rfl
@[simp] theorem State.modCol_stks (i : Nat) (f : ColSt → ColSt) : (s.modCol i f).stks = s.stks := rfl
@[simp] theorem State.modCol_pchs (i : Nat) (f : ColSt → ColSt) : (s.modCol i f).pchs = s.pchs := rfl
@[simp] theorem State.modCol_banks (i : Nat) (f : ColSt → ColSt) : (s.modCol i f).banks = s.banks := rfl
@[simp] theorem State.modCol_rtps (i : Nat) (f : ColSt → ColSt) : (s.modCol i f).rtps = s.rtps := rfl
@[simp] theorem State.modCol_hbmHeld (i : Nat) (f : ColSt → ColSt) : (s.modCol i f).hbmHeld = s.hbmHeld := rfl
@[simp] theorem State.modCol_hbm (i : Nat) (f : ColSt → ColSt) : (s.modCol i f).hbm = s.hbm := rfl
@[simp] theorem State.modCol_ranges (i : Nat) (f : ColSt → ColSt) : (s.modCol i f).ranges = s.ranges := rfl
@[simp] theorem State.modCol_nv (i : Nat) (f : ColSt → ColSt) : (s.modCol i f).nv = s.nv := rfl
@[simp] theorem State.modCol_caddy (i : Nat) (f : ColSt → ColSt) : (s.modCol i f).caddy = s.caddy := rfl
@[simp] theorem State.modCol_imgJobs (i : Nat) (f : ColSt → ColSt) : (s.modCol i f).imgJobs = s.imgJobs := rfl
@[simp] theorem State.modCol_hceJobs (i : Nat) (f : ColSt → ColSt) : (s.modCol i f).hceJobs = s.hceJobs := rfl
@[simp] theorem State.modCol_hcePipe (i : Nat) (f : ColSt → ColSt) : (s.modCol i f).hcePipe = s.hcePipe := rfl
@[simp] theorem State.modCol_hceLeft (i : Nat) (f : ColSt → ColSt) : (s.modCol i f).hceLeft = s.hceLeft := rfl
@[simp] theorem State.modCol_hceLast (i : Nat) (f : ColSt → ColSt) : (s.modCol i f).hceLast = s.hceLast := rfl
@[simp] theorem State.modCol_hceSlotNo (i : Nat) (f : ColSt → ColSt) : (s.modCol i f).hceSlotNo = s.hceSlotNo := rfl
@[simp] theorem State.modCol_hceMode (i : Nat) (f : ColSt → ColSt) : (s.modCol i f).hceMode = s.hceMode := rfl
@[simp] theorem State.modCol_links (i : Nat) (f : ColSt → ColSt) : (s.modCol i f).links = s.links := rfl
@[simp] theorem State.modCol_cas (i : Nat) (f : ColSt → ColSt) : (s.modCol i f).cas = s.cas := rfl
@[simp] theorem State.modCol_urn (i : Nat) (f : ColSt → ColSt) : (s.modCol i f).urn = s.urn := rfl
@[simp] theorem State.modCol_str (i : Nat) (f : ColSt → ColSt) : (s.modCol i f).str = s.str := rfl
@[simp] theorem State.modCol_leases (i : Nat) (f : ColSt → ColSt) : (s.modCol i f).leases = s.leases := rfl
@[simp] theorem State.modCol_leaseLog (i : Nat) (f : ColSt → ColSt) : (s.modCol i f).leaseLog = s.leaseLog := rfl
@[simp] theorem State.modCol_cores (i : Nat) (f : ColSt → ColSt) : (s.modCol i f).cores = s.cores := rfl
@[simp] theorem State.modCol_l2 (i : Nat) (f : ColSt → ColSt) : (s.modCol i f).l2 = s.l2 := rfl
@[simp] theorem State.modCol_kettleRam (i : Nat) (f : ColSt → ColSt) : (s.modCol i f).kettleRam = s.kettleRam := rfl
@[simp] theorem State.modCol_sess (i : Nat) (f : ColSt → ColSt) : (s.modCol i f).sess = s.sess := rfl
@[simp] theorem State.modCol_beat (i : Nat) (f : ColSt → ColSt) : (s.modCol i f).beat = s.beat := rfl
@[simp] theorem State.modCol_later (i : Nat) (f : ColSt → ColSt) : (s.modCol i f).later = s.later := rfl
@[simp] theorem State.modCol_heldWrites (i : Nat) (f : ColSt → ColSt) : (s.modCol i f).heldWrites = s.heldWrites := rfl
@[simp] theorem State.modCol_spEnts (i : Nat) (f : ColSt → ColSt) : (s.modCol i f).spEnts = s.spEnts := rfl
@[simp] theorem State.modCol_spLocal (i : Nat) (f : ColSt → ColSt) : (s.modCol i f).spLocal = s.spLocal := rfl
@[simp] theorem State.modCol_tenantKeys (i : Nat) (f : ColSt → ColSt) : (s.modCol i f).tenantKeys = s.tenantKeys := rfl
@[simp] theorem State.modCol_vfs (i : Nat) (f : ColSt → ColSt) : (s.modCol i f).vfs = s.vfs := rfl
@[simp] theorem State.modCol_plyngen (i : Nat) (f : ColSt → ColSt) : (s.modCol i f).plyngen = s.plyngen := rfl
@[simp] theorem State.modCol_chipDue (i : Nat) (f : ColSt → ColSt) : (s.modCol i f).chipDue = s.chipDue := rfl
@[simp] theorem State.modCol_chipWhy (i : Nat) (f : ColSt → ColSt) : (s.modCol i f).chipWhy = s.chipWhy := rfl
@[simp] theorem State.modCol_reloadRegion (i : Nat) (f : ColSt → ColSt) : (s.modCol i f).reloadRegion = s.reloadRegion := rfl
@[simp] theorem State.modQuad_pending (i : Nat) (f : QuadSt → QuadSt) : (s.modQuad i f).pending = s.pending := rfl
@[simp] theorem State.modQuad_freeCtr (i : Nat) (f : QuadSt → QuadSt) : (s.modQuad i f).freeCtr = s.freeCtr := rfl
@[simp] theorem State.modQuad_sent (i : Nat) (f : QuadSt → QuadSt) : (s.modQuad i f).sent = s.sent := rfl
@[simp] theorem State.modQuad_phase (i : Nat) (f : QuadSt → QuadSt) : (s.modQuad i f).phase = s.phase := rfl
@[simp] theorem State.modQuad_root (i : Nat) (f : QuadSt → QuadSt) : (s.modQuad i f).root = s.root := rfl
@[simp] theorem State.modQuad_aon (i : Nat) (f : QuadSt → QuadSt) : (s.modQuad i f).aon = s.aon := rfl
@[simp] theorem State.modQuad_clk (i : Nat) (f : QuadSt → QuadSt) : (s.modQuad i f).clk = s.clk := rfl
@[simp] theorem State.modQuad_time (i : Nat) (f : QuadSt → QuadSt) : (s.modQuad i f).time = s.time := rfl
@[simp] theorem State.modQuad_pins (i : Nat) (f : QuadSt → QuadSt) : (s.modQuad i f).pins = s.pins := rfl
@[simp] theorem State.modQuad_regs (i : Nat) (f : QuadSt → QuadSt) : (s.modQuad i f).regs = s.regs := rfl
@[simp] theorem State.modQuad_latches (i : Nat) (f : QuadSt → QuadSt) : (s.modQuad i f).latches = s.latches := rfl
@[simp] theorem State.modQuad_outstanding (i : Nat) (f : QuadSt → QuadSt) : (s.modQuad i f).outstanding = s.outstanding := rfl
@[simp] theorem State.modQuad_responses (i : Nat) (f : QuadSt → QuadSt) : (s.modQuad i f).responses = s.responses := rfl
@[simp] theorem State.modQuad_fences (i : Nat) (f : QuadSt → QuadSt) : (s.modQuad i f).fences = s.fences := rfl
@[simp] theorem State.modQuad_heldReqs (i : Nat) (f : QuadSt → QuadSt) : (s.modQuad i f).heldReqs = s.heldReqs := rfl
@[simp] theorem State.modQuad_refusals (i : Nat) (f : QuadSt → QuadSt) : (s.modQuad i f).refusals = s.refusals := rfl
@[simp] theorem State.modQuad_stalls (i : Nat) (f : QuadSt → QuadSt) : (s.modQuad i f).stalls = s.stalls := rfl
@[simp] theorem State.modQuad_queues (i : Nat) (f : QuadSt → QuadSt) : (s.modQuad i f).queues = s.queues := rfl
@[simp] theorem State.modQuad_cups (i : Nat) (f : QuadSt → QuadSt) : (s.modQuad i f).cups = s.cups := rfl
@[simp] theorem State.modQuad_leaves (i : Nat) (f : QuadSt → QuadSt) : (s.modQuad i f).leaves = s.leaves := rfl
@[simp] theorem State.modQuad_streams (i : Nat) (f : QuadSt → QuadSt) : (s.modQuad i f).streams = s.streams := rfl
@[simp] theorem State.modQuad_cols (i : Nat) (f : QuadSt → QuadSt) : (s.modQuad i f).cols = s.cols := rfl
@[simp] theorem State.modQuad_lanes (i : Nat) (f : QuadSt → QuadSt) : (s.modQuad i f).lanes = s.lanes := rfl
@[simp] theorem State.modQuad_flitInj (i : Nat) (f : QuadSt → QuadSt) : (s.modQuad i f).flitInj = s.flitInj := rfl
@[simp] theorem State.modQuad_stks (i : Nat) (f : QuadSt → QuadSt) : (s.modQuad i f).stks = s.stks := rfl
@[simp] theorem State.modQuad_pchs (i : Nat) (f : QuadSt → QuadSt) : (s.modQuad i f).pchs = s.pchs := rfl
@[simp] theorem State.modQuad_banks (i : Nat) (f : QuadSt → QuadSt) : (s.modQuad i f).banks = s.banks := rfl
@[simp] theorem State.modQuad_rtps (i : Nat) (f : QuadSt → QuadSt) : (s.modQuad i f).rtps = s.rtps := rfl
@[simp] theorem State.modQuad_hbmHeld (i : Nat) (f : QuadSt → QuadSt) : (s.modQuad i f).hbmHeld = s.hbmHeld := rfl
@[simp] theorem State.modQuad_hbm (i : Nat) (f : QuadSt → QuadSt) : (s.modQuad i f).hbm = s.hbm := rfl
@[simp] theorem State.modQuad_ranges (i : Nat) (f : QuadSt → QuadSt) : (s.modQuad i f).ranges = s.ranges := rfl
@[simp] theorem State.modQuad_nv (i : Nat) (f : QuadSt → QuadSt) : (s.modQuad i f).nv = s.nv := rfl
@[simp] theorem State.modQuad_caddy (i : Nat) (f : QuadSt → QuadSt) : (s.modQuad i f).caddy = s.caddy := rfl
@[simp] theorem State.modQuad_imgJobs (i : Nat) (f : QuadSt → QuadSt) : (s.modQuad i f).imgJobs = s.imgJobs := rfl
@[simp] theorem State.modQuad_hceJobs (i : Nat) (f : QuadSt → QuadSt) : (s.modQuad i f).hceJobs = s.hceJobs := rfl
@[simp] theorem State.modQuad_hcePipe (i : Nat) (f : QuadSt → QuadSt) : (s.modQuad i f).hcePipe = s.hcePipe := rfl
@[simp] theorem State.modQuad_hceLeft (i : Nat) (f : QuadSt → QuadSt) : (s.modQuad i f).hceLeft = s.hceLeft := rfl
@[simp] theorem State.modQuad_hceLast (i : Nat) (f : QuadSt → QuadSt) : (s.modQuad i f).hceLast = s.hceLast := rfl
@[simp] theorem State.modQuad_hceSlotNo (i : Nat) (f : QuadSt → QuadSt) : (s.modQuad i f).hceSlotNo = s.hceSlotNo := rfl
@[simp] theorem State.modQuad_hceMode (i : Nat) (f : QuadSt → QuadSt) : (s.modQuad i f).hceMode = s.hceMode := rfl
@[simp] theorem State.modQuad_links (i : Nat) (f : QuadSt → QuadSt) : (s.modQuad i f).links = s.links := rfl
@[simp] theorem State.modQuad_cas (i : Nat) (f : QuadSt → QuadSt) : (s.modQuad i f).cas = s.cas := rfl
@[simp] theorem State.modQuad_urn (i : Nat) (f : QuadSt → QuadSt) : (s.modQuad i f).urn = s.urn := rfl
@[simp] theorem State.modQuad_str (i : Nat) (f : QuadSt → QuadSt) : (s.modQuad i f).str = s.str := rfl
@[simp] theorem State.modQuad_leases (i : Nat) (f : QuadSt → QuadSt) : (s.modQuad i f).leases = s.leases := rfl
@[simp] theorem State.modQuad_leaseLog (i : Nat) (f : QuadSt → QuadSt) : (s.modQuad i f).leaseLog = s.leaseLog := rfl
@[simp] theorem State.modQuad_cores (i : Nat) (f : QuadSt → QuadSt) : (s.modQuad i f).cores = s.cores := rfl
@[simp] theorem State.modQuad_l2 (i : Nat) (f : QuadSt → QuadSt) : (s.modQuad i f).l2 = s.l2 := rfl
@[simp] theorem State.modQuad_kettleRam (i : Nat) (f : QuadSt → QuadSt) : (s.modQuad i f).kettleRam = s.kettleRam := rfl
@[simp] theorem State.modQuad_sess (i : Nat) (f : QuadSt → QuadSt) : (s.modQuad i f).sess = s.sess := rfl
@[simp] theorem State.modQuad_beat (i : Nat) (f : QuadSt → QuadSt) : (s.modQuad i f).beat = s.beat := rfl
@[simp] theorem State.modQuad_later (i : Nat) (f : QuadSt → QuadSt) : (s.modQuad i f).later = s.later := rfl
@[simp] theorem State.modQuad_heldWrites (i : Nat) (f : QuadSt → QuadSt) : (s.modQuad i f).heldWrites = s.heldWrites := rfl
@[simp] theorem State.modQuad_spEnts (i : Nat) (f : QuadSt → QuadSt) : (s.modQuad i f).spEnts = s.spEnts := rfl
@[simp] theorem State.modQuad_spLocal (i : Nat) (f : QuadSt → QuadSt) : (s.modQuad i f).spLocal = s.spLocal := rfl
@[simp] theorem State.modQuad_tenantKeys (i : Nat) (f : QuadSt → QuadSt) : (s.modQuad i f).tenantKeys = s.tenantKeys := rfl
@[simp] theorem State.modQuad_vfs (i : Nat) (f : QuadSt → QuadSt) : (s.modQuad i f).vfs = s.vfs := rfl
@[simp] theorem State.modQuad_plyngen (i : Nat) (f : QuadSt → QuadSt) : (s.modQuad i f).plyngen = s.plyngen := rfl
@[simp] theorem State.modQuad_chipDue (i : Nat) (f : QuadSt → QuadSt) : (s.modQuad i f).chipDue = s.chipDue := rfl
@[simp] theorem State.modQuad_chipWhy (i : Nat) (f : QuadSt → QuadSt) : (s.modQuad i f).chipWhy = s.chipWhy := rfl
@[simp] theorem State.modQuad_reloadRegion (i : Nat) (f : QuadSt → QuadSt) : (s.modQuad i f).reloadRegion = s.reloadRegion := rfl
@[simp] theorem State.modLane_pending (i : Nat) (f : LaneSt → LaneSt) : (s.modLane i f).pending = s.pending := rfl
@[simp] theorem State.modLane_freeCtr (i : Nat) (f : LaneSt → LaneSt) : (s.modLane i f).freeCtr = s.freeCtr := rfl
@[simp] theorem State.modLane_sent (i : Nat) (f : LaneSt → LaneSt) : (s.modLane i f).sent = s.sent := rfl
@[simp] theorem State.modLane_phase (i : Nat) (f : LaneSt → LaneSt) : (s.modLane i f).phase = s.phase := rfl
@[simp] theorem State.modLane_root (i : Nat) (f : LaneSt → LaneSt) : (s.modLane i f).root = s.root := rfl
@[simp] theorem State.modLane_aon (i : Nat) (f : LaneSt → LaneSt) : (s.modLane i f).aon = s.aon := rfl
@[simp] theorem State.modLane_clk (i : Nat) (f : LaneSt → LaneSt) : (s.modLane i f).clk = s.clk := rfl
@[simp] theorem State.modLane_time (i : Nat) (f : LaneSt → LaneSt) : (s.modLane i f).time = s.time := rfl
@[simp] theorem State.modLane_pins (i : Nat) (f : LaneSt → LaneSt) : (s.modLane i f).pins = s.pins := rfl
@[simp] theorem State.modLane_regs (i : Nat) (f : LaneSt → LaneSt) : (s.modLane i f).regs = s.regs := rfl
@[simp] theorem State.modLane_latches (i : Nat) (f : LaneSt → LaneSt) : (s.modLane i f).latches = s.latches := rfl
@[simp] theorem State.modLane_outstanding (i : Nat) (f : LaneSt → LaneSt) : (s.modLane i f).outstanding = s.outstanding := rfl
@[simp] theorem State.modLane_responses (i : Nat) (f : LaneSt → LaneSt) : (s.modLane i f).responses = s.responses := rfl
@[simp] theorem State.modLane_fences (i : Nat) (f : LaneSt → LaneSt) : (s.modLane i f).fences = s.fences := rfl
@[simp] theorem State.modLane_heldReqs (i : Nat) (f : LaneSt → LaneSt) : (s.modLane i f).heldReqs = s.heldReqs := rfl
@[simp] theorem State.modLane_refusals (i : Nat) (f : LaneSt → LaneSt) : (s.modLane i f).refusals = s.refusals := rfl
@[simp] theorem State.modLane_stalls (i : Nat) (f : LaneSt → LaneSt) : (s.modLane i f).stalls = s.stalls := rfl
@[simp] theorem State.modLane_queues (i : Nat) (f : LaneSt → LaneSt) : (s.modLane i f).queues = s.queues := rfl
@[simp] theorem State.modLane_cups (i : Nat) (f : LaneSt → LaneSt) : (s.modLane i f).cups = s.cups := rfl
@[simp] theorem State.modLane_leaves (i : Nat) (f : LaneSt → LaneSt) : (s.modLane i f).leaves = s.leaves := rfl
@[simp] theorem State.modLane_streams (i : Nat) (f : LaneSt → LaneSt) : (s.modLane i f).streams = s.streams := rfl
@[simp] theorem State.modLane_cols (i : Nat) (f : LaneSt → LaneSt) : (s.modLane i f).cols = s.cols := rfl
@[simp] theorem State.modLane_quads (i : Nat) (f : LaneSt → LaneSt) : (s.modLane i f).quads = s.quads := rfl
@[simp] theorem State.modLane_flitInj (i : Nat) (f : LaneSt → LaneSt) : (s.modLane i f).flitInj = s.flitInj := rfl
@[simp] theorem State.modLane_stks (i : Nat) (f : LaneSt → LaneSt) : (s.modLane i f).stks = s.stks := rfl
@[simp] theorem State.modLane_pchs (i : Nat) (f : LaneSt → LaneSt) : (s.modLane i f).pchs = s.pchs := rfl
@[simp] theorem State.modLane_banks (i : Nat) (f : LaneSt → LaneSt) : (s.modLane i f).banks = s.banks := rfl
@[simp] theorem State.modLane_rtps (i : Nat) (f : LaneSt → LaneSt) : (s.modLane i f).rtps = s.rtps := rfl
@[simp] theorem State.modLane_hbmHeld (i : Nat) (f : LaneSt → LaneSt) : (s.modLane i f).hbmHeld = s.hbmHeld := rfl
@[simp] theorem State.modLane_hbm (i : Nat) (f : LaneSt → LaneSt) : (s.modLane i f).hbm = s.hbm := rfl
@[simp] theorem State.modLane_ranges (i : Nat) (f : LaneSt → LaneSt) : (s.modLane i f).ranges = s.ranges := rfl
@[simp] theorem State.modLane_nv (i : Nat) (f : LaneSt → LaneSt) : (s.modLane i f).nv = s.nv := rfl
@[simp] theorem State.modLane_caddy (i : Nat) (f : LaneSt → LaneSt) : (s.modLane i f).caddy = s.caddy := rfl
@[simp] theorem State.modLane_imgJobs (i : Nat) (f : LaneSt → LaneSt) : (s.modLane i f).imgJobs = s.imgJobs := rfl
@[simp] theorem State.modLane_hceJobs (i : Nat) (f : LaneSt → LaneSt) : (s.modLane i f).hceJobs = s.hceJobs := rfl
@[simp] theorem State.modLane_hcePipe (i : Nat) (f : LaneSt → LaneSt) : (s.modLane i f).hcePipe = s.hcePipe := rfl
@[simp] theorem State.modLane_hceLeft (i : Nat) (f : LaneSt → LaneSt) : (s.modLane i f).hceLeft = s.hceLeft := rfl
@[simp] theorem State.modLane_hceLast (i : Nat) (f : LaneSt → LaneSt) : (s.modLane i f).hceLast = s.hceLast := rfl
@[simp] theorem State.modLane_hceSlotNo (i : Nat) (f : LaneSt → LaneSt) : (s.modLane i f).hceSlotNo = s.hceSlotNo := rfl
@[simp] theorem State.modLane_hceMode (i : Nat) (f : LaneSt → LaneSt) : (s.modLane i f).hceMode = s.hceMode := rfl
@[simp] theorem State.modLane_links (i : Nat) (f : LaneSt → LaneSt) : (s.modLane i f).links = s.links := rfl
@[simp] theorem State.modLane_cas (i : Nat) (f : LaneSt → LaneSt) : (s.modLane i f).cas = s.cas := rfl
@[simp] theorem State.modLane_urn (i : Nat) (f : LaneSt → LaneSt) : (s.modLane i f).urn = s.urn := rfl
@[simp] theorem State.modLane_str (i : Nat) (f : LaneSt → LaneSt) : (s.modLane i f).str = s.str := rfl
@[simp] theorem State.modLane_leases (i : Nat) (f : LaneSt → LaneSt) : (s.modLane i f).leases = s.leases := rfl
@[simp] theorem State.modLane_leaseLog (i : Nat) (f : LaneSt → LaneSt) : (s.modLane i f).leaseLog = s.leaseLog := rfl
@[simp] theorem State.modLane_cores (i : Nat) (f : LaneSt → LaneSt) : (s.modLane i f).cores = s.cores := rfl
@[simp] theorem State.modLane_l2 (i : Nat) (f : LaneSt → LaneSt) : (s.modLane i f).l2 = s.l2 := rfl
@[simp] theorem State.modLane_kettleRam (i : Nat) (f : LaneSt → LaneSt) : (s.modLane i f).kettleRam = s.kettleRam := rfl
@[simp] theorem State.modLane_sess (i : Nat) (f : LaneSt → LaneSt) : (s.modLane i f).sess = s.sess := rfl
@[simp] theorem State.modLane_beat (i : Nat) (f : LaneSt → LaneSt) : (s.modLane i f).beat = s.beat := rfl
@[simp] theorem State.modLane_later (i : Nat) (f : LaneSt → LaneSt) : (s.modLane i f).later = s.later := rfl
@[simp] theorem State.modLane_heldWrites (i : Nat) (f : LaneSt → LaneSt) : (s.modLane i f).heldWrites = s.heldWrites := rfl
@[simp] theorem State.modLane_spEnts (i : Nat) (f : LaneSt → LaneSt) : (s.modLane i f).spEnts = s.spEnts := rfl
@[simp] theorem State.modLane_spLocal (i : Nat) (f : LaneSt → LaneSt) : (s.modLane i f).spLocal = s.spLocal := rfl
@[simp] theorem State.modLane_tenantKeys (i : Nat) (f : LaneSt → LaneSt) : (s.modLane i f).tenantKeys = s.tenantKeys := rfl
@[simp] theorem State.modLane_vfs (i : Nat) (f : LaneSt → LaneSt) : (s.modLane i f).vfs = s.vfs := rfl
@[simp] theorem State.modLane_plyngen (i : Nat) (f : LaneSt → LaneSt) : (s.modLane i f).plyngen = s.plyngen := rfl
@[simp] theorem State.modLane_chipDue (i : Nat) (f : LaneSt → LaneSt) : (s.modLane i f).chipDue = s.chipDue := rfl
@[simp] theorem State.modLane_chipWhy (i : Nat) (f : LaneSt → LaneSt) : (s.modLane i f).chipWhy = s.chipWhy := rfl
@[simp] theorem State.modLane_reloadRegion (i : Nat) (f : LaneSt → LaneSt) : (s.modLane i f).reloadRegion = s.reloadRegion := rfl
@[simp] theorem State.modStk_pending (i : Nat) (f : StackSt → StackSt) : (s.modStk i f).pending = s.pending := rfl
@[simp] theorem State.modStk_freeCtr (i : Nat) (f : StackSt → StackSt) : (s.modStk i f).freeCtr = s.freeCtr := rfl
@[simp] theorem State.modStk_sent (i : Nat) (f : StackSt → StackSt) : (s.modStk i f).sent = s.sent := rfl
@[simp] theorem State.modStk_phase (i : Nat) (f : StackSt → StackSt) : (s.modStk i f).phase = s.phase := rfl
@[simp] theorem State.modStk_root (i : Nat) (f : StackSt → StackSt) : (s.modStk i f).root = s.root := rfl
@[simp] theorem State.modStk_aon (i : Nat) (f : StackSt → StackSt) : (s.modStk i f).aon = s.aon := rfl
@[simp] theorem State.modStk_clk (i : Nat) (f : StackSt → StackSt) : (s.modStk i f).clk = s.clk := rfl
@[simp] theorem State.modStk_time (i : Nat) (f : StackSt → StackSt) : (s.modStk i f).time = s.time := rfl
@[simp] theorem State.modStk_pins (i : Nat) (f : StackSt → StackSt) : (s.modStk i f).pins = s.pins := rfl
@[simp] theorem State.modStk_regs (i : Nat) (f : StackSt → StackSt) : (s.modStk i f).regs = s.regs := rfl
@[simp] theorem State.modStk_latches (i : Nat) (f : StackSt → StackSt) : (s.modStk i f).latches = s.latches := rfl
@[simp] theorem State.modStk_outstanding (i : Nat) (f : StackSt → StackSt) : (s.modStk i f).outstanding = s.outstanding := rfl
@[simp] theorem State.modStk_responses (i : Nat) (f : StackSt → StackSt) : (s.modStk i f).responses = s.responses := rfl
@[simp] theorem State.modStk_fences (i : Nat) (f : StackSt → StackSt) : (s.modStk i f).fences = s.fences := rfl
@[simp] theorem State.modStk_heldReqs (i : Nat) (f : StackSt → StackSt) : (s.modStk i f).heldReqs = s.heldReqs := rfl
@[simp] theorem State.modStk_refusals (i : Nat) (f : StackSt → StackSt) : (s.modStk i f).refusals = s.refusals := rfl
@[simp] theorem State.modStk_stalls (i : Nat) (f : StackSt → StackSt) : (s.modStk i f).stalls = s.stalls := rfl
@[simp] theorem State.modStk_queues (i : Nat) (f : StackSt → StackSt) : (s.modStk i f).queues = s.queues := rfl
@[simp] theorem State.modStk_cups (i : Nat) (f : StackSt → StackSt) : (s.modStk i f).cups = s.cups := rfl
@[simp] theorem State.modStk_leaves (i : Nat) (f : StackSt → StackSt) : (s.modStk i f).leaves = s.leaves := rfl
@[simp] theorem State.modStk_streams (i : Nat) (f : StackSt → StackSt) : (s.modStk i f).streams = s.streams := rfl
@[simp] theorem State.modStk_cols (i : Nat) (f : StackSt → StackSt) : (s.modStk i f).cols = s.cols := rfl
@[simp] theorem State.modStk_quads (i : Nat) (f : StackSt → StackSt) : (s.modStk i f).quads = s.quads := rfl
@[simp] theorem State.modStk_lanes (i : Nat) (f : StackSt → StackSt) : (s.modStk i f).lanes = s.lanes := rfl
@[simp] theorem State.modStk_flitInj (i : Nat) (f : StackSt → StackSt) : (s.modStk i f).flitInj = s.flitInj := rfl
@[simp] theorem State.modStk_pchs (i : Nat) (f : StackSt → StackSt) : (s.modStk i f).pchs = s.pchs := rfl
@[simp] theorem State.modStk_banks (i : Nat) (f : StackSt → StackSt) : (s.modStk i f).banks = s.banks := rfl
@[simp] theorem State.modStk_rtps (i : Nat) (f : StackSt → StackSt) : (s.modStk i f).rtps = s.rtps := rfl
@[simp] theorem State.modStk_hbmHeld (i : Nat) (f : StackSt → StackSt) : (s.modStk i f).hbmHeld = s.hbmHeld := rfl
@[simp] theorem State.modStk_hbm (i : Nat) (f : StackSt → StackSt) : (s.modStk i f).hbm = s.hbm := rfl
@[simp] theorem State.modStk_ranges (i : Nat) (f : StackSt → StackSt) : (s.modStk i f).ranges = s.ranges := rfl
@[simp] theorem State.modStk_nv (i : Nat) (f : StackSt → StackSt) : (s.modStk i f).nv = s.nv := rfl
@[simp] theorem State.modStk_caddy (i : Nat) (f : StackSt → StackSt) : (s.modStk i f).caddy = s.caddy := rfl
@[simp] theorem State.modStk_imgJobs (i : Nat) (f : StackSt → StackSt) : (s.modStk i f).imgJobs = s.imgJobs := rfl
@[simp] theorem State.modStk_hceJobs (i : Nat) (f : StackSt → StackSt) : (s.modStk i f).hceJobs = s.hceJobs := rfl
@[simp] theorem State.modStk_hcePipe (i : Nat) (f : StackSt → StackSt) : (s.modStk i f).hcePipe = s.hcePipe := rfl
@[simp] theorem State.modStk_hceLeft (i : Nat) (f : StackSt → StackSt) : (s.modStk i f).hceLeft = s.hceLeft := rfl
@[simp] theorem State.modStk_hceLast (i : Nat) (f : StackSt → StackSt) : (s.modStk i f).hceLast = s.hceLast := rfl
@[simp] theorem State.modStk_hceSlotNo (i : Nat) (f : StackSt → StackSt) : (s.modStk i f).hceSlotNo = s.hceSlotNo := rfl
@[simp] theorem State.modStk_hceMode (i : Nat) (f : StackSt → StackSt) : (s.modStk i f).hceMode = s.hceMode := rfl
@[simp] theorem State.modStk_links (i : Nat) (f : StackSt → StackSt) : (s.modStk i f).links = s.links := rfl
@[simp] theorem State.modStk_cas (i : Nat) (f : StackSt → StackSt) : (s.modStk i f).cas = s.cas := rfl
@[simp] theorem State.modStk_urn (i : Nat) (f : StackSt → StackSt) : (s.modStk i f).urn = s.urn := rfl
@[simp] theorem State.modStk_str (i : Nat) (f : StackSt → StackSt) : (s.modStk i f).str = s.str := rfl
@[simp] theorem State.modStk_leases (i : Nat) (f : StackSt → StackSt) : (s.modStk i f).leases = s.leases := rfl
@[simp] theorem State.modStk_leaseLog (i : Nat) (f : StackSt → StackSt) : (s.modStk i f).leaseLog = s.leaseLog := rfl
@[simp] theorem State.modStk_cores (i : Nat) (f : StackSt → StackSt) : (s.modStk i f).cores = s.cores := rfl
@[simp] theorem State.modStk_l2 (i : Nat) (f : StackSt → StackSt) : (s.modStk i f).l2 = s.l2 := rfl
@[simp] theorem State.modStk_kettleRam (i : Nat) (f : StackSt → StackSt) : (s.modStk i f).kettleRam = s.kettleRam := rfl
@[simp] theorem State.modStk_sess (i : Nat) (f : StackSt → StackSt) : (s.modStk i f).sess = s.sess := rfl
@[simp] theorem State.modStk_beat (i : Nat) (f : StackSt → StackSt) : (s.modStk i f).beat = s.beat := rfl
@[simp] theorem State.modStk_later (i : Nat) (f : StackSt → StackSt) : (s.modStk i f).later = s.later := rfl
@[simp] theorem State.modStk_heldWrites (i : Nat) (f : StackSt → StackSt) : (s.modStk i f).heldWrites = s.heldWrites := rfl
@[simp] theorem State.modStk_spEnts (i : Nat) (f : StackSt → StackSt) : (s.modStk i f).spEnts = s.spEnts := rfl
@[simp] theorem State.modStk_spLocal (i : Nat) (f : StackSt → StackSt) : (s.modStk i f).spLocal = s.spLocal := rfl
@[simp] theorem State.modStk_tenantKeys (i : Nat) (f : StackSt → StackSt) : (s.modStk i f).tenantKeys = s.tenantKeys := rfl
@[simp] theorem State.modStk_vfs (i : Nat) (f : StackSt → StackSt) : (s.modStk i f).vfs = s.vfs := rfl
@[simp] theorem State.modStk_plyngen (i : Nat) (f : StackSt → StackSt) : (s.modStk i f).plyngen = s.plyngen := rfl
@[simp] theorem State.modStk_chipDue (i : Nat) (f : StackSt → StackSt) : (s.modStk i f).chipDue = s.chipDue := rfl
@[simp] theorem State.modStk_chipWhy (i : Nat) (f : StackSt → StackSt) : (s.modStk i f).chipWhy = s.chipWhy := rfl
@[simp] theorem State.modStk_reloadRegion (i : Nat) (f : StackSt → StackSt) : (s.modStk i f).reloadRegion = s.reloadRegion := rfl
@[simp] theorem State.modPch_pending (i : Nat) (f : PchSt → PchSt) : (s.modPch i f).pending = s.pending := rfl
@[simp] theorem State.modPch_freeCtr (i : Nat) (f : PchSt → PchSt) : (s.modPch i f).freeCtr = s.freeCtr := rfl
@[simp] theorem State.modPch_sent (i : Nat) (f : PchSt → PchSt) : (s.modPch i f).sent = s.sent := rfl
@[simp] theorem State.modPch_phase (i : Nat) (f : PchSt → PchSt) : (s.modPch i f).phase = s.phase := rfl
@[simp] theorem State.modPch_root (i : Nat) (f : PchSt → PchSt) : (s.modPch i f).root = s.root := rfl
@[simp] theorem State.modPch_aon (i : Nat) (f : PchSt → PchSt) : (s.modPch i f).aon = s.aon := rfl
@[simp] theorem State.modPch_clk (i : Nat) (f : PchSt → PchSt) : (s.modPch i f).clk = s.clk := rfl
@[simp] theorem State.modPch_time (i : Nat) (f : PchSt → PchSt) : (s.modPch i f).time = s.time := rfl
@[simp] theorem State.modPch_pins (i : Nat) (f : PchSt → PchSt) : (s.modPch i f).pins = s.pins := rfl
@[simp] theorem State.modPch_regs (i : Nat) (f : PchSt → PchSt) : (s.modPch i f).regs = s.regs := rfl
@[simp] theorem State.modPch_latches (i : Nat) (f : PchSt → PchSt) : (s.modPch i f).latches = s.latches := rfl
@[simp] theorem State.modPch_outstanding (i : Nat) (f : PchSt → PchSt) : (s.modPch i f).outstanding = s.outstanding := rfl
@[simp] theorem State.modPch_responses (i : Nat) (f : PchSt → PchSt) : (s.modPch i f).responses = s.responses := rfl
@[simp] theorem State.modPch_fences (i : Nat) (f : PchSt → PchSt) : (s.modPch i f).fences = s.fences := rfl
@[simp] theorem State.modPch_heldReqs (i : Nat) (f : PchSt → PchSt) : (s.modPch i f).heldReqs = s.heldReqs := rfl
@[simp] theorem State.modPch_refusals (i : Nat) (f : PchSt → PchSt) : (s.modPch i f).refusals = s.refusals := rfl
@[simp] theorem State.modPch_stalls (i : Nat) (f : PchSt → PchSt) : (s.modPch i f).stalls = s.stalls := rfl
@[simp] theorem State.modPch_queues (i : Nat) (f : PchSt → PchSt) : (s.modPch i f).queues = s.queues := rfl
@[simp] theorem State.modPch_cups (i : Nat) (f : PchSt → PchSt) : (s.modPch i f).cups = s.cups := rfl
@[simp] theorem State.modPch_leaves (i : Nat) (f : PchSt → PchSt) : (s.modPch i f).leaves = s.leaves := rfl
@[simp] theorem State.modPch_streams (i : Nat) (f : PchSt → PchSt) : (s.modPch i f).streams = s.streams := rfl
@[simp] theorem State.modPch_cols (i : Nat) (f : PchSt → PchSt) : (s.modPch i f).cols = s.cols := rfl
@[simp] theorem State.modPch_quads (i : Nat) (f : PchSt → PchSt) : (s.modPch i f).quads = s.quads := rfl
@[simp] theorem State.modPch_lanes (i : Nat) (f : PchSt → PchSt) : (s.modPch i f).lanes = s.lanes := rfl
@[simp] theorem State.modPch_flitInj (i : Nat) (f : PchSt → PchSt) : (s.modPch i f).flitInj = s.flitInj := rfl
@[simp] theorem State.modPch_stks (i : Nat) (f : PchSt → PchSt) : (s.modPch i f).stks = s.stks := rfl
@[simp] theorem State.modPch_banks (i : Nat) (f : PchSt → PchSt) : (s.modPch i f).banks = s.banks := rfl
@[simp] theorem State.modPch_rtps (i : Nat) (f : PchSt → PchSt) : (s.modPch i f).rtps = s.rtps := rfl
@[simp] theorem State.modPch_hbmHeld (i : Nat) (f : PchSt → PchSt) : (s.modPch i f).hbmHeld = s.hbmHeld := rfl
@[simp] theorem State.modPch_hbm (i : Nat) (f : PchSt → PchSt) : (s.modPch i f).hbm = s.hbm := rfl
@[simp] theorem State.modPch_ranges (i : Nat) (f : PchSt → PchSt) : (s.modPch i f).ranges = s.ranges := rfl
@[simp] theorem State.modPch_nv (i : Nat) (f : PchSt → PchSt) : (s.modPch i f).nv = s.nv := rfl
@[simp] theorem State.modPch_caddy (i : Nat) (f : PchSt → PchSt) : (s.modPch i f).caddy = s.caddy := rfl
@[simp] theorem State.modPch_imgJobs (i : Nat) (f : PchSt → PchSt) : (s.modPch i f).imgJobs = s.imgJobs := rfl
@[simp] theorem State.modPch_hceJobs (i : Nat) (f : PchSt → PchSt) : (s.modPch i f).hceJobs = s.hceJobs := rfl
@[simp] theorem State.modPch_hcePipe (i : Nat) (f : PchSt → PchSt) : (s.modPch i f).hcePipe = s.hcePipe := rfl
@[simp] theorem State.modPch_hceLeft (i : Nat) (f : PchSt → PchSt) : (s.modPch i f).hceLeft = s.hceLeft := rfl
@[simp] theorem State.modPch_hceLast (i : Nat) (f : PchSt → PchSt) : (s.modPch i f).hceLast = s.hceLast := rfl
@[simp] theorem State.modPch_hceSlotNo (i : Nat) (f : PchSt → PchSt) : (s.modPch i f).hceSlotNo = s.hceSlotNo := rfl
@[simp] theorem State.modPch_hceMode (i : Nat) (f : PchSt → PchSt) : (s.modPch i f).hceMode = s.hceMode := rfl
@[simp] theorem State.modPch_links (i : Nat) (f : PchSt → PchSt) : (s.modPch i f).links = s.links := rfl
@[simp] theorem State.modPch_cas (i : Nat) (f : PchSt → PchSt) : (s.modPch i f).cas = s.cas := rfl
@[simp] theorem State.modPch_urn (i : Nat) (f : PchSt → PchSt) : (s.modPch i f).urn = s.urn := rfl
@[simp] theorem State.modPch_str (i : Nat) (f : PchSt → PchSt) : (s.modPch i f).str = s.str := rfl
@[simp] theorem State.modPch_leases (i : Nat) (f : PchSt → PchSt) : (s.modPch i f).leases = s.leases := rfl
@[simp] theorem State.modPch_leaseLog (i : Nat) (f : PchSt → PchSt) : (s.modPch i f).leaseLog = s.leaseLog := rfl
@[simp] theorem State.modPch_cores (i : Nat) (f : PchSt → PchSt) : (s.modPch i f).cores = s.cores := rfl
@[simp] theorem State.modPch_l2 (i : Nat) (f : PchSt → PchSt) : (s.modPch i f).l2 = s.l2 := rfl
@[simp] theorem State.modPch_kettleRam (i : Nat) (f : PchSt → PchSt) : (s.modPch i f).kettleRam = s.kettleRam := rfl
@[simp] theorem State.modPch_sess (i : Nat) (f : PchSt → PchSt) : (s.modPch i f).sess = s.sess := rfl
@[simp] theorem State.modPch_beat (i : Nat) (f : PchSt → PchSt) : (s.modPch i f).beat = s.beat := rfl
@[simp] theorem State.modPch_later (i : Nat) (f : PchSt → PchSt) : (s.modPch i f).later = s.later := rfl
@[simp] theorem State.modPch_heldWrites (i : Nat) (f : PchSt → PchSt) : (s.modPch i f).heldWrites = s.heldWrites := rfl
@[simp] theorem State.modPch_spEnts (i : Nat) (f : PchSt → PchSt) : (s.modPch i f).spEnts = s.spEnts := rfl
@[simp] theorem State.modPch_spLocal (i : Nat) (f : PchSt → PchSt) : (s.modPch i f).spLocal = s.spLocal := rfl
@[simp] theorem State.modPch_tenantKeys (i : Nat) (f : PchSt → PchSt) : (s.modPch i f).tenantKeys = s.tenantKeys := rfl
@[simp] theorem State.modPch_vfs (i : Nat) (f : PchSt → PchSt) : (s.modPch i f).vfs = s.vfs := rfl
@[simp] theorem State.modPch_plyngen (i : Nat) (f : PchSt → PchSt) : (s.modPch i f).plyngen = s.plyngen := rfl
@[simp] theorem State.modPch_chipDue (i : Nat) (f : PchSt → PchSt) : (s.modPch i f).chipDue = s.chipDue := rfl
@[simp] theorem State.modPch_chipWhy (i : Nat) (f : PchSt → PchSt) : (s.modPch i f).chipWhy = s.chipWhy := rfl
@[simp] theorem State.modPch_reloadRegion (i : Nat) (f : PchSt → PchSt) : (s.modPch i f).reloadRegion = s.reloadRegion := rfl
@[simp] theorem State.modRtp_pending (i : Nat) (f : RtpSt → RtpSt) : (s.modRtp i f).pending = s.pending := rfl
@[simp] theorem State.modRtp_freeCtr (i : Nat) (f : RtpSt → RtpSt) : (s.modRtp i f).freeCtr = s.freeCtr := rfl
@[simp] theorem State.modRtp_sent (i : Nat) (f : RtpSt → RtpSt) : (s.modRtp i f).sent = s.sent := rfl
@[simp] theorem State.modRtp_phase (i : Nat) (f : RtpSt → RtpSt) : (s.modRtp i f).phase = s.phase := rfl
@[simp] theorem State.modRtp_root (i : Nat) (f : RtpSt → RtpSt) : (s.modRtp i f).root = s.root := rfl
@[simp] theorem State.modRtp_aon (i : Nat) (f : RtpSt → RtpSt) : (s.modRtp i f).aon = s.aon := rfl
@[simp] theorem State.modRtp_clk (i : Nat) (f : RtpSt → RtpSt) : (s.modRtp i f).clk = s.clk := rfl
@[simp] theorem State.modRtp_time (i : Nat) (f : RtpSt → RtpSt) : (s.modRtp i f).time = s.time := rfl
@[simp] theorem State.modRtp_pins (i : Nat) (f : RtpSt → RtpSt) : (s.modRtp i f).pins = s.pins := rfl
@[simp] theorem State.modRtp_regs (i : Nat) (f : RtpSt → RtpSt) : (s.modRtp i f).regs = s.regs := rfl
@[simp] theorem State.modRtp_latches (i : Nat) (f : RtpSt → RtpSt) : (s.modRtp i f).latches = s.latches := rfl
@[simp] theorem State.modRtp_outstanding (i : Nat) (f : RtpSt → RtpSt) : (s.modRtp i f).outstanding = s.outstanding := rfl
@[simp] theorem State.modRtp_responses (i : Nat) (f : RtpSt → RtpSt) : (s.modRtp i f).responses = s.responses := rfl
@[simp] theorem State.modRtp_fences (i : Nat) (f : RtpSt → RtpSt) : (s.modRtp i f).fences = s.fences := rfl
@[simp] theorem State.modRtp_heldReqs (i : Nat) (f : RtpSt → RtpSt) : (s.modRtp i f).heldReqs = s.heldReqs := rfl
@[simp] theorem State.modRtp_refusals (i : Nat) (f : RtpSt → RtpSt) : (s.modRtp i f).refusals = s.refusals := rfl
@[simp] theorem State.modRtp_stalls (i : Nat) (f : RtpSt → RtpSt) : (s.modRtp i f).stalls = s.stalls := rfl
@[simp] theorem State.modRtp_queues (i : Nat) (f : RtpSt → RtpSt) : (s.modRtp i f).queues = s.queues := rfl
@[simp] theorem State.modRtp_cups (i : Nat) (f : RtpSt → RtpSt) : (s.modRtp i f).cups = s.cups := rfl
@[simp] theorem State.modRtp_leaves (i : Nat) (f : RtpSt → RtpSt) : (s.modRtp i f).leaves = s.leaves := rfl
@[simp] theorem State.modRtp_streams (i : Nat) (f : RtpSt → RtpSt) : (s.modRtp i f).streams = s.streams := rfl
@[simp] theorem State.modRtp_cols (i : Nat) (f : RtpSt → RtpSt) : (s.modRtp i f).cols = s.cols := rfl
@[simp] theorem State.modRtp_quads (i : Nat) (f : RtpSt → RtpSt) : (s.modRtp i f).quads = s.quads := rfl
@[simp] theorem State.modRtp_lanes (i : Nat) (f : RtpSt → RtpSt) : (s.modRtp i f).lanes = s.lanes := rfl
@[simp] theorem State.modRtp_flitInj (i : Nat) (f : RtpSt → RtpSt) : (s.modRtp i f).flitInj = s.flitInj := rfl
@[simp] theorem State.modRtp_stks (i : Nat) (f : RtpSt → RtpSt) : (s.modRtp i f).stks = s.stks := rfl
@[simp] theorem State.modRtp_pchs (i : Nat) (f : RtpSt → RtpSt) : (s.modRtp i f).pchs = s.pchs := rfl
@[simp] theorem State.modRtp_banks (i : Nat) (f : RtpSt → RtpSt) : (s.modRtp i f).banks = s.banks := rfl
@[simp] theorem State.modRtp_hbmHeld (i : Nat) (f : RtpSt → RtpSt) : (s.modRtp i f).hbmHeld = s.hbmHeld := rfl
@[simp] theorem State.modRtp_hbm (i : Nat) (f : RtpSt → RtpSt) : (s.modRtp i f).hbm = s.hbm := rfl
@[simp] theorem State.modRtp_ranges (i : Nat) (f : RtpSt → RtpSt) : (s.modRtp i f).ranges = s.ranges := rfl
@[simp] theorem State.modRtp_nv (i : Nat) (f : RtpSt → RtpSt) : (s.modRtp i f).nv = s.nv := rfl
@[simp] theorem State.modRtp_caddy (i : Nat) (f : RtpSt → RtpSt) : (s.modRtp i f).caddy = s.caddy := rfl
@[simp] theorem State.modRtp_imgJobs (i : Nat) (f : RtpSt → RtpSt) : (s.modRtp i f).imgJobs = s.imgJobs := rfl
@[simp] theorem State.modRtp_hceJobs (i : Nat) (f : RtpSt → RtpSt) : (s.modRtp i f).hceJobs = s.hceJobs := rfl
@[simp] theorem State.modRtp_hcePipe (i : Nat) (f : RtpSt → RtpSt) : (s.modRtp i f).hcePipe = s.hcePipe := rfl
@[simp] theorem State.modRtp_hceLeft (i : Nat) (f : RtpSt → RtpSt) : (s.modRtp i f).hceLeft = s.hceLeft := rfl
@[simp] theorem State.modRtp_hceLast (i : Nat) (f : RtpSt → RtpSt) : (s.modRtp i f).hceLast = s.hceLast := rfl
@[simp] theorem State.modRtp_hceSlotNo (i : Nat) (f : RtpSt → RtpSt) : (s.modRtp i f).hceSlotNo = s.hceSlotNo := rfl
@[simp] theorem State.modRtp_hceMode (i : Nat) (f : RtpSt → RtpSt) : (s.modRtp i f).hceMode = s.hceMode := rfl
@[simp] theorem State.modRtp_links (i : Nat) (f : RtpSt → RtpSt) : (s.modRtp i f).links = s.links := rfl
@[simp] theorem State.modRtp_cas (i : Nat) (f : RtpSt → RtpSt) : (s.modRtp i f).cas = s.cas := rfl
@[simp] theorem State.modRtp_urn (i : Nat) (f : RtpSt → RtpSt) : (s.modRtp i f).urn = s.urn := rfl
@[simp] theorem State.modRtp_str (i : Nat) (f : RtpSt → RtpSt) : (s.modRtp i f).str = s.str := rfl
@[simp] theorem State.modRtp_leases (i : Nat) (f : RtpSt → RtpSt) : (s.modRtp i f).leases = s.leases := rfl
@[simp] theorem State.modRtp_leaseLog (i : Nat) (f : RtpSt → RtpSt) : (s.modRtp i f).leaseLog = s.leaseLog := rfl
@[simp] theorem State.modRtp_cores (i : Nat) (f : RtpSt → RtpSt) : (s.modRtp i f).cores = s.cores := rfl
@[simp] theorem State.modRtp_l2 (i : Nat) (f : RtpSt → RtpSt) : (s.modRtp i f).l2 = s.l2 := rfl
@[simp] theorem State.modRtp_kettleRam (i : Nat) (f : RtpSt → RtpSt) : (s.modRtp i f).kettleRam = s.kettleRam := rfl
@[simp] theorem State.modRtp_sess (i : Nat) (f : RtpSt → RtpSt) : (s.modRtp i f).sess = s.sess := rfl
@[simp] theorem State.modRtp_beat (i : Nat) (f : RtpSt → RtpSt) : (s.modRtp i f).beat = s.beat := rfl
@[simp] theorem State.modRtp_later (i : Nat) (f : RtpSt → RtpSt) : (s.modRtp i f).later = s.later := rfl
@[simp] theorem State.modRtp_heldWrites (i : Nat) (f : RtpSt → RtpSt) : (s.modRtp i f).heldWrites = s.heldWrites := rfl
@[simp] theorem State.modRtp_spEnts (i : Nat) (f : RtpSt → RtpSt) : (s.modRtp i f).spEnts = s.spEnts := rfl
@[simp] theorem State.modRtp_spLocal (i : Nat) (f : RtpSt → RtpSt) : (s.modRtp i f).spLocal = s.spLocal := rfl
@[simp] theorem State.modRtp_tenantKeys (i : Nat) (f : RtpSt → RtpSt) : (s.modRtp i f).tenantKeys = s.tenantKeys := rfl
@[simp] theorem State.modRtp_vfs (i : Nat) (f : RtpSt → RtpSt) : (s.modRtp i f).vfs = s.vfs := rfl
@[simp] theorem State.modRtp_plyngen (i : Nat) (f : RtpSt → RtpSt) : (s.modRtp i f).plyngen = s.plyngen := rfl
@[simp] theorem State.modRtp_chipDue (i : Nat) (f : RtpSt → RtpSt) : (s.modRtp i f).chipDue = s.chipDue := rfl
@[simp] theorem State.modRtp_chipWhy (i : Nat) (f : RtpSt → RtpSt) : (s.modRtp i f).chipWhy = s.chipWhy := rfl
@[simp] theorem State.modRtp_reloadRegion (i : Nat) (f : RtpSt → RtpSt) : (s.modRtp i f).reloadRegion = s.reloadRegion := rfl
@[simp] theorem State.modRange_pending (i : Nat) (f : RangeSt → RangeSt) : (s.modRange i f).pending = s.pending := rfl
@[simp] theorem State.modRange_freeCtr (i : Nat) (f : RangeSt → RangeSt) : (s.modRange i f).freeCtr = s.freeCtr := rfl
@[simp] theorem State.modRange_sent (i : Nat) (f : RangeSt → RangeSt) : (s.modRange i f).sent = s.sent := rfl
@[simp] theorem State.modRange_phase (i : Nat) (f : RangeSt → RangeSt) : (s.modRange i f).phase = s.phase := rfl
@[simp] theorem State.modRange_root (i : Nat) (f : RangeSt → RangeSt) : (s.modRange i f).root = s.root := rfl
@[simp] theorem State.modRange_aon (i : Nat) (f : RangeSt → RangeSt) : (s.modRange i f).aon = s.aon := rfl
@[simp] theorem State.modRange_clk (i : Nat) (f : RangeSt → RangeSt) : (s.modRange i f).clk = s.clk := rfl
@[simp] theorem State.modRange_time (i : Nat) (f : RangeSt → RangeSt) : (s.modRange i f).time = s.time := rfl
@[simp] theorem State.modRange_pins (i : Nat) (f : RangeSt → RangeSt) : (s.modRange i f).pins = s.pins := rfl
@[simp] theorem State.modRange_regs (i : Nat) (f : RangeSt → RangeSt) : (s.modRange i f).regs = s.regs := rfl
@[simp] theorem State.modRange_latches (i : Nat) (f : RangeSt → RangeSt) : (s.modRange i f).latches = s.latches := rfl
@[simp] theorem State.modRange_outstanding (i : Nat) (f : RangeSt → RangeSt) : (s.modRange i f).outstanding = s.outstanding := rfl
@[simp] theorem State.modRange_responses (i : Nat) (f : RangeSt → RangeSt) : (s.modRange i f).responses = s.responses := rfl
@[simp] theorem State.modRange_fences (i : Nat) (f : RangeSt → RangeSt) : (s.modRange i f).fences = s.fences := rfl
@[simp] theorem State.modRange_heldReqs (i : Nat) (f : RangeSt → RangeSt) : (s.modRange i f).heldReqs = s.heldReqs := rfl
@[simp] theorem State.modRange_refusals (i : Nat) (f : RangeSt → RangeSt) : (s.modRange i f).refusals = s.refusals := rfl
@[simp] theorem State.modRange_stalls (i : Nat) (f : RangeSt → RangeSt) : (s.modRange i f).stalls = s.stalls := rfl
@[simp] theorem State.modRange_queues (i : Nat) (f : RangeSt → RangeSt) : (s.modRange i f).queues = s.queues := rfl
@[simp] theorem State.modRange_cups (i : Nat) (f : RangeSt → RangeSt) : (s.modRange i f).cups = s.cups := rfl
@[simp] theorem State.modRange_leaves (i : Nat) (f : RangeSt → RangeSt) : (s.modRange i f).leaves = s.leaves := rfl
@[simp] theorem State.modRange_streams (i : Nat) (f : RangeSt → RangeSt) : (s.modRange i f).streams = s.streams := rfl
@[simp] theorem State.modRange_cols (i : Nat) (f : RangeSt → RangeSt) : (s.modRange i f).cols = s.cols := rfl
@[simp] theorem State.modRange_quads (i : Nat) (f : RangeSt → RangeSt) : (s.modRange i f).quads = s.quads := rfl
@[simp] theorem State.modRange_lanes (i : Nat) (f : RangeSt → RangeSt) : (s.modRange i f).lanes = s.lanes := rfl
@[simp] theorem State.modRange_flitInj (i : Nat) (f : RangeSt → RangeSt) : (s.modRange i f).flitInj = s.flitInj := rfl
@[simp] theorem State.modRange_stks (i : Nat) (f : RangeSt → RangeSt) : (s.modRange i f).stks = s.stks := rfl
@[simp] theorem State.modRange_pchs (i : Nat) (f : RangeSt → RangeSt) : (s.modRange i f).pchs = s.pchs := rfl
@[simp] theorem State.modRange_banks (i : Nat) (f : RangeSt → RangeSt) : (s.modRange i f).banks = s.banks := rfl
@[simp] theorem State.modRange_rtps (i : Nat) (f : RangeSt → RangeSt) : (s.modRange i f).rtps = s.rtps := rfl
@[simp] theorem State.modRange_hbmHeld (i : Nat) (f : RangeSt → RangeSt) : (s.modRange i f).hbmHeld = s.hbmHeld := rfl
@[simp] theorem State.modRange_hbm (i : Nat) (f : RangeSt → RangeSt) : (s.modRange i f).hbm = s.hbm := rfl
@[simp] theorem State.modRange_nv (i : Nat) (f : RangeSt → RangeSt) : (s.modRange i f).nv = s.nv := rfl
@[simp] theorem State.modRange_caddy (i : Nat) (f : RangeSt → RangeSt) : (s.modRange i f).caddy = s.caddy := rfl
@[simp] theorem State.modRange_imgJobs (i : Nat) (f : RangeSt → RangeSt) : (s.modRange i f).imgJobs = s.imgJobs := rfl
@[simp] theorem State.modRange_hceJobs (i : Nat) (f : RangeSt → RangeSt) : (s.modRange i f).hceJobs = s.hceJobs := rfl
@[simp] theorem State.modRange_hcePipe (i : Nat) (f : RangeSt → RangeSt) : (s.modRange i f).hcePipe = s.hcePipe := rfl
@[simp] theorem State.modRange_hceLeft (i : Nat) (f : RangeSt → RangeSt) : (s.modRange i f).hceLeft = s.hceLeft := rfl
@[simp] theorem State.modRange_hceLast (i : Nat) (f : RangeSt → RangeSt) : (s.modRange i f).hceLast = s.hceLast := rfl
@[simp] theorem State.modRange_hceSlotNo (i : Nat) (f : RangeSt → RangeSt) : (s.modRange i f).hceSlotNo = s.hceSlotNo := rfl
@[simp] theorem State.modRange_hceMode (i : Nat) (f : RangeSt → RangeSt) : (s.modRange i f).hceMode = s.hceMode := rfl
@[simp] theorem State.modRange_links (i : Nat) (f : RangeSt → RangeSt) : (s.modRange i f).links = s.links := rfl
@[simp] theorem State.modRange_cas (i : Nat) (f : RangeSt → RangeSt) : (s.modRange i f).cas = s.cas := rfl
@[simp] theorem State.modRange_urn (i : Nat) (f : RangeSt → RangeSt) : (s.modRange i f).urn = s.urn := rfl
@[simp] theorem State.modRange_str (i : Nat) (f : RangeSt → RangeSt) : (s.modRange i f).str = s.str := rfl
@[simp] theorem State.modRange_leases (i : Nat) (f : RangeSt → RangeSt) : (s.modRange i f).leases = s.leases := rfl
@[simp] theorem State.modRange_leaseLog (i : Nat) (f : RangeSt → RangeSt) : (s.modRange i f).leaseLog = s.leaseLog := rfl
@[simp] theorem State.modRange_cores (i : Nat) (f : RangeSt → RangeSt) : (s.modRange i f).cores = s.cores := rfl
@[simp] theorem State.modRange_l2 (i : Nat) (f : RangeSt → RangeSt) : (s.modRange i f).l2 = s.l2 := rfl
@[simp] theorem State.modRange_kettleRam (i : Nat) (f : RangeSt → RangeSt) : (s.modRange i f).kettleRam = s.kettleRam := rfl
@[simp] theorem State.modRange_sess (i : Nat) (f : RangeSt → RangeSt) : (s.modRange i f).sess = s.sess := rfl
@[simp] theorem State.modRange_beat (i : Nat) (f : RangeSt → RangeSt) : (s.modRange i f).beat = s.beat := rfl
@[simp] theorem State.modRange_later (i : Nat) (f : RangeSt → RangeSt) : (s.modRange i f).later = s.later := rfl
@[simp] theorem State.modRange_heldWrites (i : Nat) (f : RangeSt → RangeSt) : (s.modRange i f).heldWrites = s.heldWrites := rfl
@[simp] theorem State.modRange_spEnts (i : Nat) (f : RangeSt → RangeSt) : (s.modRange i f).spEnts = s.spEnts := rfl
@[simp] theorem State.modRange_spLocal (i : Nat) (f : RangeSt → RangeSt) : (s.modRange i f).spLocal = s.spLocal := rfl
@[simp] theorem State.modRange_tenantKeys (i : Nat) (f : RangeSt → RangeSt) : (s.modRange i f).tenantKeys = s.tenantKeys := rfl
@[simp] theorem State.modRange_vfs (i : Nat) (f : RangeSt → RangeSt) : (s.modRange i f).vfs = s.vfs := rfl
@[simp] theorem State.modRange_plyngen (i : Nat) (f : RangeSt → RangeSt) : (s.modRange i f).plyngen = s.plyngen := rfl
@[simp] theorem State.modRange_chipDue (i : Nat) (f : RangeSt → RangeSt) : (s.modRange i f).chipDue = s.chipDue := rfl
@[simp] theorem State.modRange_chipWhy (i : Nat) (f : RangeSt → RangeSt) : (s.modRange i f).chipWhy = s.chipWhy := rfl
@[simp] theorem State.modRange_reloadRegion (i : Nat) (f : RangeSt → RangeSt) : (s.modRange i f).reloadRegion = s.reloadRegion := rfl
@[simp] theorem State.modLink_pending (i : Nat) (f : LinkSt → LinkSt) : (s.modLink i f).pending = s.pending := rfl
@[simp] theorem State.modLink_freeCtr (i : Nat) (f : LinkSt → LinkSt) : (s.modLink i f).freeCtr = s.freeCtr := rfl
@[simp] theorem State.modLink_sent (i : Nat) (f : LinkSt → LinkSt) : (s.modLink i f).sent = s.sent := rfl
@[simp] theorem State.modLink_phase (i : Nat) (f : LinkSt → LinkSt) : (s.modLink i f).phase = s.phase := rfl
@[simp] theorem State.modLink_root (i : Nat) (f : LinkSt → LinkSt) : (s.modLink i f).root = s.root := rfl
@[simp] theorem State.modLink_aon (i : Nat) (f : LinkSt → LinkSt) : (s.modLink i f).aon = s.aon := rfl
@[simp] theorem State.modLink_clk (i : Nat) (f : LinkSt → LinkSt) : (s.modLink i f).clk = s.clk := rfl
@[simp] theorem State.modLink_time (i : Nat) (f : LinkSt → LinkSt) : (s.modLink i f).time = s.time := rfl
@[simp] theorem State.modLink_pins (i : Nat) (f : LinkSt → LinkSt) : (s.modLink i f).pins = s.pins := rfl
@[simp] theorem State.modLink_regs (i : Nat) (f : LinkSt → LinkSt) : (s.modLink i f).regs = s.regs := rfl
@[simp] theorem State.modLink_latches (i : Nat) (f : LinkSt → LinkSt) : (s.modLink i f).latches = s.latches := rfl
@[simp] theorem State.modLink_outstanding (i : Nat) (f : LinkSt → LinkSt) : (s.modLink i f).outstanding = s.outstanding := rfl
@[simp] theorem State.modLink_responses (i : Nat) (f : LinkSt → LinkSt) : (s.modLink i f).responses = s.responses := rfl
@[simp] theorem State.modLink_fences (i : Nat) (f : LinkSt → LinkSt) : (s.modLink i f).fences = s.fences := rfl
@[simp] theorem State.modLink_heldReqs (i : Nat) (f : LinkSt → LinkSt) : (s.modLink i f).heldReqs = s.heldReqs := rfl
@[simp] theorem State.modLink_refusals (i : Nat) (f : LinkSt → LinkSt) : (s.modLink i f).refusals = s.refusals := rfl
@[simp] theorem State.modLink_stalls (i : Nat) (f : LinkSt → LinkSt) : (s.modLink i f).stalls = s.stalls := rfl
@[simp] theorem State.modLink_queues (i : Nat) (f : LinkSt → LinkSt) : (s.modLink i f).queues = s.queues := rfl
@[simp] theorem State.modLink_cups (i : Nat) (f : LinkSt → LinkSt) : (s.modLink i f).cups = s.cups := rfl
@[simp] theorem State.modLink_leaves (i : Nat) (f : LinkSt → LinkSt) : (s.modLink i f).leaves = s.leaves := rfl
@[simp] theorem State.modLink_streams (i : Nat) (f : LinkSt → LinkSt) : (s.modLink i f).streams = s.streams := rfl
@[simp] theorem State.modLink_cols (i : Nat) (f : LinkSt → LinkSt) : (s.modLink i f).cols = s.cols := rfl
@[simp] theorem State.modLink_quads (i : Nat) (f : LinkSt → LinkSt) : (s.modLink i f).quads = s.quads := rfl
@[simp] theorem State.modLink_lanes (i : Nat) (f : LinkSt → LinkSt) : (s.modLink i f).lanes = s.lanes := rfl
@[simp] theorem State.modLink_flitInj (i : Nat) (f : LinkSt → LinkSt) : (s.modLink i f).flitInj = s.flitInj := rfl
@[simp] theorem State.modLink_stks (i : Nat) (f : LinkSt → LinkSt) : (s.modLink i f).stks = s.stks := rfl
@[simp] theorem State.modLink_pchs (i : Nat) (f : LinkSt → LinkSt) : (s.modLink i f).pchs = s.pchs := rfl
@[simp] theorem State.modLink_banks (i : Nat) (f : LinkSt → LinkSt) : (s.modLink i f).banks = s.banks := rfl
@[simp] theorem State.modLink_rtps (i : Nat) (f : LinkSt → LinkSt) : (s.modLink i f).rtps = s.rtps := rfl
@[simp] theorem State.modLink_hbmHeld (i : Nat) (f : LinkSt → LinkSt) : (s.modLink i f).hbmHeld = s.hbmHeld := rfl
@[simp] theorem State.modLink_hbm (i : Nat) (f : LinkSt → LinkSt) : (s.modLink i f).hbm = s.hbm := rfl
@[simp] theorem State.modLink_ranges (i : Nat) (f : LinkSt → LinkSt) : (s.modLink i f).ranges = s.ranges := rfl
@[simp] theorem State.modLink_nv (i : Nat) (f : LinkSt → LinkSt) : (s.modLink i f).nv = s.nv := rfl
@[simp] theorem State.modLink_caddy (i : Nat) (f : LinkSt → LinkSt) : (s.modLink i f).caddy = s.caddy := rfl
@[simp] theorem State.modLink_imgJobs (i : Nat) (f : LinkSt → LinkSt) : (s.modLink i f).imgJobs = s.imgJobs := rfl
@[simp] theorem State.modLink_hceJobs (i : Nat) (f : LinkSt → LinkSt) : (s.modLink i f).hceJobs = s.hceJobs := rfl
@[simp] theorem State.modLink_hcePipe (i : Nat) (f : LinkSt → LinkSt) : (s.modLink i f).hcePipe = s.hcePipe := rfl
@[simp] theorem State.modLink_hceLeft (i : Nat) (f : LinkSt → LinkSt) : (s.modLink i f).hceLeft = s.hceLeft := rfl
@[simp] theorem State.modLink_hceLast (i : Nat) (f : LinkSt → LinkSt) : (s.modLink i f).hceLast = s.hceLast := rfl
@[simp] theorem State.modLink_hceSlotNo (i : Nat) (f : LinkSt → LinkSt) : (s.modLink i f).hceSlotNo = s.hceSlotNo := rfl
@[simp] theorem State.modLink_hceMode (i : Nat) (f : LinkSt → LinkSt) : (s.modLink i f).hceMode = s.hceMode := rfl
@[simp] theorem State.modLink_cas (i : Nat) (f : LinkSt → LinkSt) : (s.modLink i f).cas = s.cas := rfl
@[simp] theorem State.modLink_urn (i : Nat) (f : LinkSt → LinkSt) : (s.modLink i f).urn = s.urn := rfl
@[simp] theorem State.modLink_str (i : Nat) (f : LinkSt → LinkSt) : (s.modLink i f).str = s.str := rfl
@[simp] theorem State.modLink_leases (i : Nat) (f : LinkSt → LinkSt) : (s.modLink i f).leases = s.leases := rfl
@[simp] theorem State.modLink_leaseLog (i : Nat) (f : LinkSt → LinkSt) : (s.modLink i f).leaseLog = s.leaseLog := rfl
@[simp] theorem State.modLink_cores (i : Nat) (f : LinkSt → LinkSt) : (s.modLink i f).cores = s.cores := rfl
@[simp] theorem State.modLink_l2 (i : Nat) (f : LinkSt → LinkSt) : (s.modLink i f).l2 = s.l2 := rfl
@[simp] theorem State.modLink_kettleRam (i : Nat) (f : LinkSt → LinkSt) : (s.modLink i f).kettleRam = s.kettleRam := rfl
@[simp] theorem State.modLink_sess (i : Nat) (f : LinkSt → LinkSt) : (s.modLink i f).sess = s.sess := rfl
@[simp] theorem State.modLink_beat (i : Nat) (f : LinkSt → LinkSt) : (s.modLink i f).beat = s.beat := rfl
@[simp] theorem State.modLink_later (i : Nat) (f : LinkSt → LinkSt) : (s.modLink i f).later = s.later := rfl
@[simp] theorem State.modLink_heldWrites (i : Nat) (f : LinkSt → LinkSt) : (s.modLink i f).heldWrites = s.heldWrites := rfl
@[simp] theorem State.modLink_spEnts (i : Nat) (f : LinkSt → LinkSt) : (s.modLink i f).spEnts = s.spEnts := rfl
@[simp] theorem State.modLink_spLocal (i : Nat) (f : LinkSt → LinkSt) : (s.modLink i f).spLocal = s.spLocal := rfl
@[simp] theorem State.modLink_tenantKeys (i : Nat) (f : LinkSt → LinkSt) : (s.modLink i f).tenantKeys = s.tenantKeys := rfl
@[simp] theorem State.modLink_vfs (i : Nat) (f : LinkSt → LinkSt) : (s.modLink i f).vfs = s.vfs := rfl
@[simp] theorem State.modLink_plyngen (i : Nat) (f : LinkSt → LinkSt) : (s.modLink i f).plyngen = s.plyngen := rfl
@[simp] theorem State.modLink_chipDue (i : Nat) (f : LinkSt → LinkSt) : (s.modLink i f).chipDue = s.chipDue := rfl
@[simp] theorem State.modLink_chipWhy (i : Nat) (f : LinkSt → LinkSt) : (s.modLink i f).chipWhy = s.chipWhy := rfl
@[simp] theorem State.modLink_reloadRegion (i : Nat) (f : LinkSt → LinkSt) : (s.modLink i f).reloadRegion = s.reloadRegion := rfl
@[simp] theorem State.modCore_pending (i : Nat) (f : CoreSt → CoreSt) : (s.modCore i f).pending = s.pending := rfl
@[simp] theorem State.modCore_freeCtr (i : Nat) (f : CoreSt → CoreSt) : (s.modCore i f).freeCtr = s.freeCtr := rfl
@[simp] theorem State.modCore_sent (i : Nat) (f : CoreSt → CoreSt) : (s.modCore i f).sent = s.sent := rfl
@[simp] theorem State.modCore_phase (i : Nat) (f : CoreSt → CoreSt) : (s.modCore i f).phase = s.phase := rfl
@[simp] theorem State.modCore_root (i : Nat) (f : CoreSt → CoreSt) : (s.modCore i f).root = s.root := rfl
@[simp] theorem State.modCore_aon (i : Nat) (f : CoreSt → CoreSt) : (s.modCore i f).aon = s.aon := rfl
@[simp] theorem State.modCore_clk (i : Nat) (f : CoreSt → CoreSt) : (s.modCore i f).clk = s.clk := rfl
@[simp] theorem State.modCore_time (i : Nat) (f : CoreSt → CoreSt) : (s.modCore i f).time = s.time := rfl
@[simp] theorem State.modCore_pins (i : Nat) (f : CoreSt → CoreSt) : (s.modCore i f).pins = s.pins := rfl
@[simp] theorem State.modCore_regs (i : Nat) (f : CoreSt → CoreSt) : (s.modCore i f).regs = s.regs := rfl
@[simp] theorem State.modCore_latches (i : Nat) (f : CoreSt → CoreSt) : (s.modCore i f).latches = s.latches := rfl
@[simp] theorem State.modCore_outstanding (i : Nat) (f : CoreSt → CoreSt) : (s.modCore i f).outstanding = s.outstanding := rfl
@[simp] theorem State.modCore_responses (i : Nat) (f : CoreSt → CoreSt) : (s.modCore i f).responses = s.responses := rfl
@[simp] theorem State.modCore_fences (i : Nat) (f : CoreSt → CoreSt) : (s.modCore i f).fences = s.fences := rfl
@[simp] theorem State.modCore_heldReqs (i : Nat) (f : CoreSt → CoreSt) : (s.modCore i f).heldReqs = s.heldReqs := rfl
@[simp] theorem State.modCore_refusals (i : Nat) (f : CoreSt → CoreSt) : (s.modCore i f).refusals = s.refusals := rfl
@[simp] theorem State.modCore_stalls (i : Nat) (f : CoreSt → CoreSt) : (s.modCore i f).stalls = s.stalls := rfl
@[simp] theorem State.modCore_queues (i : Nat) (f : CoreSt → CoreSt) : (s.modCore i f).queues = s.queues := rfl
@[simp] theorem State.modCore_cups (i : Nat) (f : CoreSt → CoreSt) : (s.modCore i f).cups = s.cups := rfl
@[simp] theorem State.modCore_leaves (i : Nat) (f : CoreSt → CoreSt) : (s.modCore i f).leaves = s.leaves := rfl
@[simp] theorem State.modCore_streams (i : Nat) (f : CoreSt → CoreSt) : (s.modCore i f).streams = s.streams := rfl
@[simp] theorem State.modCore_cols (i : Nat) (f : CoreSt → CoreSt) : (s.modCore i f).cols = s.cols := rfl
@[simp] theorem State.modCore_quads (i : Nat) (f : CoreSt → CoreSt) : (s.modCore i f).quads = s.quads := rfl
@[simp] theorem State.modCore_lanes (i : Nat) (f : CoreSt → CoreSt) : (s.modCore i f).lanes = s.lanes := rfl
@[simp] theorem State.modCore_flitInj (i : Nat) (f : CoreSt → CoreSt) : (s.modCore i f).flitInj = s.flitInj := rfl
@[simp] theorem State.modCore_stks (i : Nat) (f : CoreSt → CoreSt) : (s.modCore i f).stks = s.stks := rfl
@[simp] theorem State.modCore_pchs (i : Nat) (f : CoreSt → CoreSt) : (s.modCore i f).pchs = s.pchs := rfl
@[simp] theorem State.modCore_banks (i : Nat) (f : CoreSt → CoreSt) : (s.modCore i f).banks = s.banks := rfl
@[simp] theorem State.modCore_rtps (i : Nat) (f : CoreSt → CoreSt) : (s.modCore i f).rtps = s.rtps := rfl
@[simp] theorem State.modCore_hbmHeld (i : Nat) (f : CoreSt → CoreSt) : (s.modCore i f).hbmHeld = s.hbmHeld := rfl
@[simp] theorem State.modCore_hbm (i : Nat) (f : CoreSt → CoreSt) : (s.modCore i f).hbm = s.hbm := rfl
@[simp] theorem State.modCore_ranges (i : Nat) (f : CoreSt → CoreSt) : (s.modCore i f).ranges = s.ranges := rfl
@[simp] theorem State.modCore_nv (i : Nat) (f : CoreSt → CoreSt) : (s.modCore i f).nv = s.nv := rfl
@[simp] theorem State.modCore_caddy (i : Nat) (f : CoreSt → CoreSt) : (s.modCore i f).caddy = s.caddy := rfl
@[simp] theorem State.modCore_imgJobs (i : Nat) (f : CoreSt → CoreSt) : (s.modCore i f).imgJobs = s.imgJobs := rfl
@[simp] theorem State.modCore_hceJobs (i : Nat) (f : CoreSt → CoreSt) : (s.modCore i f).hceJobs = s.hceJobs := rfl
@[simp] theorem State.modCore_hcePipe (i : Nat) (f : CoreSt → CoreSt) : (s.modCore i f).hcePipe = s.hcePipe := rfl
@[simp] theorem State.modCore_hceLeft (i : Nat) (f : CoreSt → CoreSt) : (s.modCore i f).hceLeft = s.hceLeft := rfl
@[simp] theorem State.modCore_hceLast (i : Nat) (f : CoreSt → CoreSt) : (s.modCore i f).hceLast = s.hceLast := rfl
@[simp] theorem State.modCore_hceSlotNo (i : Nat) (f : CoreSt → CoreSt) : (s.modCore i f).hceSlotNo = s.hceSlotNo := rfl
@[simp] theorem State.modCore_hceMode (i : Nat) (f : CoreSt → CoreSt) : (s.modCore i f).hceMode = s.hceMode := rfl
@[simp] theorem State.modCore_links (i : Nat) (f : CoreSt → CoreSt) : (s.modCore i f).links = s.links := rfl
@[simp] theorem State.modCore_cas (i : Nat) (f : CoreSt → CoreSt) : (s.modCore i f).cas = s.cas := rfl
@[simp] theorem State.modCore_urn (i : Nat) (f : CoreSt → CoreSt) : (s.modCore i f).urn = s.urn := rfl
@[simp] theorem State.modCore_str (i : Nat) (f : CoreSt → CoreSt) : (s.modCore i f).str = s.str := rfl
@[simp] theorem State.modCore_leases (i : Nat) (f : CoreSt → CoreSt) : (s.modCore i f).leases = s.leases := rfl
@[simp] theorem State.modCore_leaseLog (i : Nat) (f : CoreSt → CoreSt) : (s.modCore i f).leaseLog = s.leaseLog := rfl
@[simp] theorem State.modCore_l2 (i : Nat) (f : CoreSt → CoreSt) : (s.modCore i f).l2 = s.l2 := rfl
@[simp] theorem State.modCore_kettleRam (i : Nat) (f : CoreSt → CoreSt) : (s.modCore i f).kettleRam = s.kettleRam := rfl
@[simp] theorem State.modCore_sess (i : Nat) (f : CoreSt → CoreSt) : (s.modCore i f).sess = s.sess := rfl
@[simp] theorem State.modCore_beat (i : Nat) (f : CoreSt → CoreSt) : (s.modCore i f).beat = s.beat := rfl
@[simp] theorem State.modCore_later (i : Nat) (f : CoreSt → CoreSt) : (s.modCore i f).later = s.later := rfl
@[simp] theorem State.modCore_heldWrites (i : Nat) (f : CoreSt → CoreSt) : (s.modCore i f).heldWrites = s.heldWrites := rfl
@[simp] theorem State.modCore_spEnts (i : Nat) (f : CoreSt → CoreSt) : (s.modCore i f).spEnts = s.spEnts := rfl
@[simp] theorem State.modCore_spLocal (i : Nat) (f : CoreSt → CoreSt) : (s.modCore i f).spLocal = s.spLocal := rfl
@[simp] theorem State.modCore_tenantKeys (i : Nat) (f : CoreSt → CoreSt) : (s.modCore i f).tenantKeys = s.tenantKeys := rfl
@[simp] theorem State.modCore_vfs (i : Nat) (f : CoreSt → CoreSt) : (s.modCore i f).vfs = s.vfs := rfl
@[simp] theorem State.modCore_plyngen (i : Nat) (f : CoreSt → CoreSt) : (s.modCore i f).plyngen = s.plyngen := rfl
@[simp] theorem State.modCore_chipDue (i : Nat) (f : CoreSt → CoreSt) : (s.modCore i f).chipDue = s.chipDue := rfl
@[simp] theorem State.modCore_chipWhy (i : Nat) (f : CoreSt → CoreSt) : (s.modCore i f).chipWhy = s.chipWhy := rfl
@[simp] theorem State.modCore_reloadRegion (i : Nat) (f : CoreSt → CoreSt) : (s.modCore i f).reloadRegion = s.reloadRegion := rfl
@[simp] theorem State.modSession_pending (i : Nat) (f : SessSt → SessSt) : (s.modSession i f).pending = s.pending := rfl
@[simp] theorem State.modSession_freeCtr (i : Nat) (f : SessSt → SessSt) : (s.modSession i f).freeCtr = s.freeCtr := rfl
@[simp] theorem State.modSession_sent (i : Nat) (f : SessSt → SessSt) : (s.modSession i f).sent = s.sent := rfl
@[simp] theorem State.modSession_phase (i : Nat) (f : SessSt → SessSt) : (s.modSession i f).phase = s.phase := rfl
@[simp] theorem State.modSession_root (i : Nat) (f : SessSt → SessSt) : (s.modSession i f).root = s.root := rfl
@[simp] theorem State.modSession_aon (i : Nat) (f : SessSt → SessSt) : (s.modSession i f).aon = s.aon := rfl
@[simp] theorem State.modSession_clk (i : Nat) (f : SessSt → SessSt) : (s.modSession i f).clk = s.clk := rfl
@[simp] theorem State.modSession_time (i : Nat) (f : SessSt → SessSt) : (s.modSession i f).time = s.time := rfl
@[simp] theorem State.modSession_pins (i : Nat) (f : SessSt → SessSt) : (s.modSession i f).pins = s.pins := rfl
@[simp] theorem State.modSession_regs (i : Nat) (f : SessSt → SessSt) : (s.modSession i f).regs = s.regs := rfl
@[simp] theorem State.modSession_latches (i : Nat) (f : SessSt → SessSt) : (s.modSession i f).latches = s.latches := rfl
@[simp] theorem State.modSession_outstanding (i : Nat) (f : SessSt → SessSt) : (s.modSession i f).outstanding = s.outstanding := rfl
@[simp] theorem State.modSession_responses (i : Nat) (f : SessSt → SessSt) : (s.modSession i f).responses = s.responses := rfl
@[simp] theorem State.modSession_fences (i : Nat) (f : SessSt → SessSt) : (s.modSession i f).fences = s.fences := rfl
@[simp] theorem State.modSession_heldReqs (i : Nat) (f : SessSt → SessSt) : (s.modSession i f).heldReqs = s.heldReqs := rfl
@[simp] theorem State.modSession_refusals (i : Nat) (f : SessSt → SessSt) : (s.modSession i f).refusals = s.refusals := rfl
@[simp] theorem State.modSession_stalls (i : Nat) (f : SessSt → SessSt) : (s.modSession i f).stalls = s.stalls := rfl
@[simp] theorem State.modSession_queues (i : Nat) (f : SessSt → SessSt) : (s.modSession i f).queues = s.queues := rfl
@[simp] theorem State.modSession_cups (i : Nat) (f : SessSt → SessSt) : (s.modSession i f).cups = s.cups := rfl
@[simp] theorem State.modSession_leaves (i : Nat) (f : SessSt → SessSt) : (s.modSession i f).leaves = s.leaves := rfl
@[simp] theorem State.modSession_streams (i : Nat) (f : SessSt → SessSt) : (s.modSession i f).streams = s.streams := rfl
@[simp] theorem State.modSession_cols (i : Nat) (f : SessSt → SessSt) : (s.modSession i f).cols = s.cols := rfl
@[simp] theorem State.modSession_quads (i : Nat) (f : SessSt → SessSt) : (s.modSession i f).quads = s.quads := rfl
@[simp] theorem State.modSession_lanes (i : Nat) (f : SessSt → SessSt) : (s.modSession i f).lanes = s.lanes := rfl
@[simp] theorem State.modSession_flitInj (i : Nat) (f : SessSt → SessSt) : (s.modSession i f).flitInj = s.flitInj := rfl
@[simp] theorem State.modSession_stks (i : Nat) (f : SessSt → SessSt) : (s.modSession i f).stks = s.stks := rfl
@[simp] theorem State.modSession_pchs (i : Nat) (f : SessSt → SessSt) : (s.modSession i f).pchs = s.pchs := rfl
@[simp] theorem State.modSession_banks (i : Nat) (f : SessSt → SessSt) : (s.modSession i f).banks = s.banks := rfl
@[simp] theorem State.modSession_rtps (i : Nat) (f : SessSt → SessSt) : (s.modSession i f).rtps = s.rtps := rfl
@[simp] theorem State.modSession_hbmHeld (i : Nat) (f : SessSt → SessSt) : (s.modSession i f).hbmHeld = s.hbmHeld := rfl
@[simp] theorem State.modSession_hbm (i : Nat) (f : SessSt → SessSt) : (s.modSession i f).hbm = s.hbm := rfl
@[simp] theorem State.modSession_ranges (i : Nat) (f : SessSt → SessSt) : (s.modSession i f).ranges = s.ranges := rfl
@[simp] theorem State.modSession_nv (i : Nat) (f : SessSt → SessSt) : (s.modSession i f).nv = s.nv := rfl
@[simp] theorem State.modSession_caddy (i : Nat) (f : SessSt → SessSt) : (s.modSession i f).caddy = s.caddy := rfl
@[simp] theorem State.modSession_imgJobs (i : Nat) (f : SessSt → SessSt) : (s.modSession i f).imgJobs = s.imgJobs := rfl
@[simp] theorem State.modSession_hceJobs (i : Nat) (f : SessSt → SessSt) : (s.modSession i f).hceJobs = s.hceJobs := rfl
@[simp] theorem State.modSession_hcePipe (i : Nat) (f : SessSt → SessSt) : (s.modSession i f).hcePipe = s.hcePipe := rfl
@[simp] theorem State.modSession_hceLeft (i : Nat) (f : SessSt → SessSt) : (s.modSession i f).hceLeft = s.hceLeft := rfl
@[simp] theorem State.modSession_hceLast (i : Nat) (f : SessSt → SessSt) : (s.modSession i f).hceLast = s.hceLast := rfl
@[simp] theorem State.modSession_hceSlotNo (i : Nat) (f : SessSt → SessSt) : (s.modSession i f).hceSlotNo = s.hceSlotNo := rfl
@[simp] theorem State.modSession_hceMode (i : Nat) (f : SessSt → SessSt) : (s.modSession i f).hceMode = s.hceMode := rfl
@[simp] theorem State.modSession_links (i : Nat) (f : SessSt → SessSt) : (s.modSession i f).links = s.links := rfl
@[simp] theorem State.modSession_cas (i : Nat) (f : SessSt → SessSt) : (s.modSession i f).cas = s.cas := rfl
@[simp] theorem State.modSession_urn (i : Nat) (f : SessSt → SessSt) : (s.modSession i f).urn = s.urn := rfl
@[simp] theorem State.modSession_str (i : Nat) (f : SessSt → SessSt) : (s.modSession i f).str = s.str := rfl
@[simp] theorem State.modSession_leases (i : Nat) (f : SessSt → SessSt) : (s.modSession i f).leases = s.leases := rfl
@[simp] theorem State.modSession_leaseLog (i : Nat) (f : SessSt → SessSt) : (s.modSession i f).leaseLog = s.leaseLog := rfl
@[simp] theorem State.modSession_cores (i : Nat) (f : SessSt → SessSt) : (s.modSession i f).cores = s.cores := rfl
@[simp] theorem State.modSession_l2 (i : Nat) (f : SessSt → SessSt) : (s.modSession i f).l2 = s.l2 := rfl
@[simp] theorem State.modSession_kettleRam (i : Nat) (f : SessSt → SessSt) : (s.modSession i f).kettleRam = s.kettleRam := rfl
@[simp] theorem State.modSession_beat (i : Nat) (f : SessSt → SessSt) : (s.modSession i f).beat = s.beat := rfl
@[simp] theorem State.modSession_later (i : Nat) (f : SessSt → SessSt) : (s.modSession i f).later = s.later := rfl
@[simp] theorem State.modSession_heldWrites (i : Nat) (f : SessSt → SessSt) : (s.modSession i f).heldWrites = s.heldWrites := rfl
@[simp] theorem State.modSession_spEnts (i : Nat) (f : SessSt → SessSt) : (s.modSession i f).spEnts = s.spEnts := rfl
@[simp] theorem State.modSession_spLocal (i : Nat) (f : SessSt → SessSt) : (s.modSession i f).spLocal = s.spLocal := rfl
@[simp] theorem State.modSession_tenantKeys (i : Nat) (f : SessSt → SessSt) : (s.modSession i f).tenantKeys = s.tenantKeys := rfl
@[simp] theorem State.modSession_vfs (i : Nat) (f : SessSt → SessSt) : (s.modSession i f).vfs = s.vfs := rfl
@[simp] theorem State.modSession_plyngen (i : Nat) (f : SessSt → SessSt) : (s.modSession i f).plyngen = s.plyngen := rfl
@[simp] theorem State.modSession_chipDue (i : Nat) (f : SessSt → SessSt) : (s.modSession i f).chipDue = s.chipDue := rfl
@[simp] theorem State.modSession_chipWhy (i : Nat) (f : SessSt → SessSt) : (s.modSession i f).chipWhy = s.chipWhy := rfl
@[simp] theorem State.modSession_reloadRegion (i : Nat) (f : SessSt → SessSt) : (s.modSession i f).reloadRegion = s.reloadRegion := rfl
@[simp] theorem State.modGroup_pending (i : Nat) (f : CasGroup → CasGroup) : (s.modGroup i f).pending = s.pending := rfl
@[simp] theorem State.modGroup_freeCtr (i : Nat) (f : CasGroup → CasGroup) : (s.modGroup i f).freeCtr = s.freeCtr := rfl
@[simp] theorem State.modGroup_sent (i : Nat) (f : CasGroup → CasGroup) : (s.modGroup i f).sent = s.sent := rfl
@[simp] theorem State.modGroup_phase (i : Nat) (f : CasGroup → CasGroup) : (s.modGroup i f).phase = s.phase := rfl
@[simp] theorem State.modGroup_root (i : Nat) (f : CasGroup → CasGroup) : (s.modGroup i f).root = s.root := rfl
@[simp] theorem State.modGroup_aon (i : Nat) (f : CasGroup → CasGroup) : (s.modGroup i f).aon = s.aon := rfl
@[simp] theorem State.modGroup_clk (i : Nat) (f : CasGroup → CasGroup) : (s.modGroup i f).clk = s.clk := rfl
@[simp] theorem State.modGroup_time (i : Nat) (f : CasGroup → CasGroup) : (s.modGroup i f).time = s.time := rfl
@[simp] theorem State.modGroup_pins (i : Nat) (f : CasGroup → CasGroup) : (s.modGroup i f).pins = s.pins := rfl
@[simp] theorem State.modGroup_regs (i : Nat) (f : CasGroup → CasGroup) : (s.modGroup i f).regs = s.regs := rfl
@[simp] theorem State.modGroup_latches (i : Nat) (f : CasGroup → CasGroup) : (s.modGroup i f).latches = s.latches := rfl
@[simp] theorem State.modGroup_outstanding (i : Nat) (f : CasGroup → CasGroup) : (s.modGroup i f).outstanding = s.outstanding := rfl
@[simp] theorem State.modGroup_responses (i : Nat) (f : CasGroup → CasGroup) : (s.modGroup i f).responses = s.responses := rfl
@[simp] theorem State.modGroup_fences (i : Nat) (f : CasGroup → CasGroup) : (s.modGroup i f).fences = s.fences := rfl
@[simp] theorem State.modGroup_heldReqs (i : Nat) (f : CasGroup → CasGroup) : (s.modGroup i f).heldReqs = s.heldReqs := rfl
@[simp] theorem State.modGroup_refusals (i : Nat) (f : CasGroup → CasGroup) : (s.modGroup i f).refusals = s.refusals := rfl
@[simp] theorem State.modGroup_stalls (i : Nat) (f : CasGroup → CasGroup) : (s.modGroup i f).stalls = s.stalls := rfl
@[simp] theorem State.modGroup_queues (i : Nat) (f : CasGroup → CasGroup) : (s.modGroup i f).queues = s.queues := rfl
@[simp] theorem State.modGroup_cups (i : Nat) (f : CasGroup → CasGroup) : (s.modGroup i f).cups = s.cups := rfl
@[simp] theorem State.modGroup_leaves (i : Nat) (f : CasGroup → CasGroup) : (s.modGroup i f).leaves = s.leaves := rfl
@[simp] theorem State.modGroup_streams (i : Nat) (f : CasGroup → CasGroup) : (s.modGroup i f).streams = s.streams := rfl
@[simp] theorem State.modGroup_cols (i : Nat) (f : CasGroup → CasGroup) : (s.modGroup i f).cols = s.cols := rfl
@[simp] theorem State.modGroup_quads (i : Nat) (f : CasGroup → CasGroup) : (s.modGroup i f).quads = s.quads := rfl
@[simp] theorem State.modGroup_lanes (i : Nat) (f : CasGroup → CasGroup) : (s.modGroup i f).lanes = s.lanes := rfl
@[simp] theorem State.modGroup_flitInj (i : Nat) (f : CasGroup → CasGroup) : (s.modGroup i f).flitInj = s.flitInj := rfl
@[simp] theorem State.modGroup_stks (i : Nat) (f : CasGroup → CasGroup) : (s.modGroup i f).stks = s.stks := rfl
@[simp] theorem State.modGroup_pchs (i : Nat) (f : CasGroup → CasGroup) : (s.modGroup i f).pchs = s.pchs := rfl
@[simp] theorem State.modGroup_banks (i : Nat) (f : CasGroup → CasGroup) : (s.modGroup i f).banks = s.banks := rfl
@[simp] theorem State.modGroup_rtps (i : Nat) (f : CasGroup → CasGroup) : (s.modGroup i f).rtps = s.rtps := rfl
@[simp] theorem State.modGroup_hbmHeld (i : Nat) (f : CasGroup → CasGroup) : (s.modGroup i f).hbmHeld = s.hbmHeld := rfl
@[simp] theorem State.modGroup_hbm (i : Nat) (f : CasGroup → CasGroup) : (s.modGroup i f).hbm = s.hbm := rfl
@[simp] theorem State.modGroup_ranges (i : Nat) (f : CasGroup → CasGroup) : (s.modGroup i f).ranges = s.ranges := rfl
@[simp] theorem State.modGroup_nv (i : Nat) (f : CasGroup → CasGroup) : (s.modGroup i f).nv = s.nv := rfl
@[simp] theorem State.modGroup_caddy (i : Nat) (f : CasGroup → CasGroup) : (s.modGroup i f).caddy = s.caddy := rfl
@[simp] theorem State.modGroup_imgJobs (i : Nat) (f : CasGroup → CasGroup) : (s.modGroup i f).imgJobs = s.imgJobs := rfl
@[simp] theorem State.modGroup_hceJobs (i : Nat) (f : CasGroup → CasGroup) : (s.modGroup i f).hceJobs = s.hceJobs := rfl
@[simp] theorem State.modGroup_hcePipe (i : Nat) (f : CasGroup → CasGroup) : (s.modGroup i f).hcePipe = s.hcePipe := rfl
@[simp] theorem State.modGroup_hceLeft (i : Nat) (f : CasGroup → CasGroup) : (s.modGroup i f).hceLeft = s.hceLeft := rfl
@[simp] theorem State.modGroup_hceLast (i : Nat) (f : CasGroup → CasGroup) : (s.modGroup i f).hceLast = s.hceLast := rfl
@[simp] theorem State.modGroup_hceSlotNo (i : Nat) (f : CasGroup → CasGroup) : (s.modGroup i f).hceSlotNo = s.hceSlotNo := rfl
@[simp] theorem State.modGroup_hceMode (i : Nat) (f : CasGroup → CasGroup) : (s.modGroup i f).hceMode = s.hceMode := rfl
@[simp] theorem State.modGroup_links (i : Nat) (f : CasGroup → CasGroup) : (s.modGroup i f).links = s.links := rfl
@[simp] theorem State.modGroup_urn (i : Nat) (f : CasGroup → CasGroup) : (s.modGroup i f).urn = s.urn := rfl
@[simp] theorem State.modGroup_str (i : Nat) (f : CasGroup → CasGroup) : (s.modGroup i f).str = s.str := rfl
@[simp] theorem State.modGroup_leases (i : Nat) (f : CasGroup → CasGroup) : (s.modGroup i f).leases = s.leases := rfl
@[simp] theorem State.modGroup_leaseLog (i : Nat) (f : CasGroup → CasGroup) : (s.modGroup i f).leaseLog = s.leaseLog := rfl
@[simp] theorem State.modGroup_cores (i : Nat) (f : CasGroup → CasGroup) : (s.modGroup i f).cores = s.cores := rfl
@[simp] theorem State.modGroup_l2 (i : Nat) (f : CasGroup → CasGroup) : (s.modGroup i f).l2 = s.l2 := rfl
@[simp] theorem State.modGroup_kettleRam (i : Nat) (f : CasGroup → CasGroup) : (s.modGroup i f).kettleRam = s.kettleRam := rfl
@[simp] theorem State.modGroup_sess (i : Nat) (f : CasGroup → CasGroup) : (s.modGroup i f).sess = s.sess := rfl
@[simp] theorem State.modGroup_beat (i : Nat) (f : CasGroup → CasGroup) : (s.modGroup i f).beat = s.beat := rfl
@[simp] theorem State.modGroup_later (i : Nat) (f : CasGroup → CasGroup) : (s.modGroup i f).later = s.later := rfl
@[simp] theorem State.modGroup_heldWrites (i : Nat) (f : CasGroup → CasGroup) : (s.modGroup i f).heldWrites = s.heldWrites := rfl
@[simp] theorem State.modGroup_spEnts (i : Nat) (f : CasGroup → CasGroup) : (s.modGroup i f).spEnts = s.spEnts := rfl
@[simp] theorem State.modGroup_spLocal (i : Nat) (f : CasGroup → CasGroup) : (s.modGroup i f).spLocal = s.spLocal := rfl
@[simp] theorem State.modGroup_tenantKeys (i : Nat) (f : CasGroup → CasGroup) : (s.modGroup i f).tenantKeys = s.tenantKeys := rfl
@[simp] theorem State.modGroup_vfs (i : Nat) (f : CasGroup → CasGroup) : (s.modGroup i f).vfs = s.vfs := rfl
@[simp] theorem State.modGroup_plyngen (i : Nat) (f : CasGroup → CasGroup) : (s.modGroup i f).plyngen = s.plyngen := rfl
@[simp] theorem State.modGroup_chipDue (i : Nat) (f : CasGroup → CasGroup) : (s.modGroup i f).chipDue = s.chipDue := rfl
@[simp] theorem State.modGroup_chipWhy (i : Nat) (f : CasGroup → CasGroup) : (s.modGroup i f).chipWhy = s.chipWhy := rfl
@[simp] theorem State.modGroup_reloadRegion (i : Nat) (f : CasGroup → CasGroup) : (s.modGroup i f).reloadRegion = s.reloadRegion := rfl
@[simp] theorem State.modEvq_pending (i : Nat) (f : EvQueue → EvQueue) : (s.modEvq i f).pending = s.pending := rfl
@[simp] theorem State.modEvq_freeCtr (i : Nat) (f : EvQueue → EvQueue) : (s.modEvq i f).freeCtr = s.freeCtr := rfl
@[simp] theorem State.modEvq_sent (i : Nat) (f : EvQueue → EvQueue) : (s.modEvq i f).sent = s.sent := rfl
@[simp] theorem State.modEvq_phase (i : Nat) (f : EvQueue → EvQueue) : (s.modEvq i f).phase = s.phase := rfl
@[simp] theorem State.modEvq_root (i : Nat) (f : EvQueue → EvQueue) : (s.modEvq i f).root = s.root := rfl
@[simp] theorem State.modEvq_aon (i : Nat) (f : EvQueue → EvQueue) : (s.modEvq i f).aon = s.aon := rfl
@[simp] theorem State.modEvq_clk (i : Nat) (f : EvQueue → EvQueue) : (s.modEvq i f).clk = s.clk := rfl
@[simp] theorem State.modEvq_time (i : Nat) (f : EvQueue → EvQueue) : (s.modEvq i f).time = s.time := rfl
@[simp] theorem State.modEvq_pins (i : Nat) (f : EvQueue → EvQueue) : (s.modEvq i f).pins = s.pins := rfl
@[simp] theorem State.modEvq_regs (i : Nat) (f : EvQueue → EvQueue) : (s.modEvq i f).regs = s.regs := rfl
@[simp] theorem State.modEvq_latches (i : Nat) (f : EvQueue → EvQueue) : (s.modEvq i f).latches = s.latches := rfl
@[simp] theorem State.modEvq_outstanding (i : Nat) (f : EvQueue → EvQueue) : (s.modEvq i f).outstanding = s.outstanding := rfl
@[simp] theorem State.modEvq_responses (i : Nat) (f : EvQueue → EvQueue) : (s.modEvq i f).responses = s.responses := rfl
@[simp] theorem State.modEvq_fences (i : Nat) (f : EvQueue → EvQueue) : (s.modEvq i f).fences = s.fences := rfl
@[simp] theorem State.modEvq_heldReqs (i : Nat) (f : EvQueue → EvQueue) : (s.modEvq i f).heldReqs = s.heldReqs := rfl
@[simp] theorem State.modEvq_refusals (i : Nat) (f : EvQueue → EvQueue) : (s.modEvq i f).refusals = s.refusals := rfl
@[simp] theorem State.modEvq_stalls (i : Nat) (f : EvQueue → EvQueue) : (s.modEvq i f).stalls = s.stalls := rfl
@[simp] theorem State.modEvq_queues (i : Nat) (f : EvQueue → EvQueue) : (s.modEvq i f).queues = s.queues := rfl
@[simp] theorem State.modEvq_cups (i : Nat) (f : EvQueue → EvQueue) : (s.modEvq i f).cups = s.cups := rfl
@[simp] theorem State.modEvq_leaves (i : Nat) (f : EvQueue → EvQueue) : (s.modEvq i f).leaves = s.leaves := rfl
@[simp] theorem State.modEvq_streams (i : Nat) (f : EvQueue → EvQueue) : (s.modEvq i f).streams = s.streams := rfl
@[simp] theorem State.modEvq_cols (i : Nat) (f : EvQueue → EvQueue) : (s.modEvq i f).cols = s.cols := rfl
@[simp] theorem State.modEvq_quads (i : Nat) (f : EvQueue → EvQueue) : (s.modEvq i f).quads = s.quads := rfl
@[simp] theorem State.modEvq_lanes (i : Nat) (f : EvQueue → EvQueue) : (s.modEvq i f).lanes = s.lanes := rfl
@[simp] theorem State.modEvq_flitInj (i : Nat) (f : EvQueue → EvQueue) : (s.modEvq i f).flitInj = s.flitInj := rfl
@[simp] theorem State.modEvq_stks (i : Nat) (f : EvQueue → EvQueue) : (s.modEvq i f).stks = s.stks := rfl
@[simp] theorem State.modEvq_pchs (i : Nat) (f : EvQueue → EvQueue) : (s.modEvq i f).pchs = s.pchs := rfl
@[simp] theorem State.modEvq_banks (i : Nat) (f : EvQueue → EvQueue) : (s.modEvq i f).banks = s.banks := rfl
@[simp] theorem State.modEvq_rtps (i : Nat) (f : EvQueue → EvQueue) : (s.modEvq i f).rtps = s.rtps := rfl
@[simp] theorem State.modEvq_hbmHeld (i : Nat) (f : EvQueue → EvQueue) : (s.modEvq i f).hbmHeld = s.hbmHeld := rfl
@[simp] theorem State.modEvq_hbm (i : Nat) (f : EvQueue → EvQueue) : (s.modEvq i f).hbm = s.hbm := rfl
@[simp] theorem State.modEvq_ranges (i : Nat) (f : EvQueue → EvQueue) : (s.modEvq i f).ranges = s.ranges := rfl
@[simp] theorem State.modEvq_nv (i : Nat) (f : EvQueue → EvQueue) : (s.modEvq i f).nv = s.nv := rfl
@[simp] theorem State.modEvq_caddy (i : Nat) (f : EvQueue → EvQueue) : (s.modEvq i f).caddy = s.caddy := rfl
@[simp] theorem State.modEvq_imgJobs (i : Nat) (f : EvQueue → EvQueue) : (s.modEvq i f).imgJobs = s.imgJobs := rfl
@[simp] theorem State.modEvq_hceJobs (i : Nat) (f : EvQueue → EvQueue) : (s.modEvq i f).hceJobs = s.hceJobs := rfl
@[simp] theorem State.modEvq_hcePipe (i : Nat) (f : EvQueue → EvQueue) : (s.modEvq i f).hcePipe = s.hcePipe := rfl
@[simp] theorem State.modEvq_hceLeft (i : Nat) (f : EvQueue → EvQueue) : (s.modEvq i f).hceLeft = s.hceLeft := rfl
@[simp] theorem State.modEvq_hceLast (i : Nat) (f : EvQueue → EvQueue) : (s.modEvq i f).hceLast = s.hceLast := rfl
@[simp] theorem State.modEvq_hceSlotNo (i : Nat) (f : EvQueue → EvQueue) : (s.modEvq i f).hceSlotNo = s.hceSlotNo := rfl
@[simp] theorem State.modEvq_hceMode (i : Nat) (f : EvQueue → EvQueue) : (s.modEvq i f).hceMode = s.hceMode := rfl
@[simp] theorem State.modEvq_links (i : Nat) (f : EvQueue → EvQueue) : (s.modEvq i f).links = s.links := rfl
@[simp] theorem State.modEvq_cas (i : Nat) (f : EvQueue → EvQueue) : (s.modEvq i f).cas = s.cas := rfl
@[simp] theorem State.modEvq_urn (i : Nat) (f : EvQueue → EvQueue) : (s.modEvq i f).urn = s.urn := rfl
@[simp] theorem State.modEvq_leases (i : Nat) (f : EvQueue → EvQueue) : (s.modEvq i f).leases = s.leases := rfl
@[simp] theorem State.modEvq_leaseLog (i : Nat) (f : EvQueue → EvQueue) : (s.modEvq i f).leaseLog = s.leaseLog := rfl
@[simp] theorem State.modEvq_cores (i : Nat) (f : EvQueue → EvQueue) : (s.modEvq i f).cores = s.cores := rfl
@[simp] theorem State.modEvq_l2 (i : Nat) (f : EvQueue → EvQueue) : (s.modEvq i f).l2 = s.l2 := rfl
@[simp] theorem State.modEvq_kettleRam (i : Nat) (f : EvQueue → EvQueue) : (s.modEvq i f).kettleRam = s.kettleRam := rfl
@[simp] theorem State.modEvq_sess (i : Nat) (f : EvQueue → EvQueue) : (s.modEvq i f).sess = s.sess := rfl
@[simp] theorem State.modEvq_beat (i : Nat) (f : EvQueue → EvQueue) : (s.modEvq i f).beat = s.beat := rfl
@[simp] theorem State.modEvq_later (i : Nat) (f : EvQueue → EvQueue) : (s.modEvq i f).later = s.later := rfl
@[simp] theorem State.modEvq_heldWrites (i : Nat) (f : EvQueue → EvQueue) : (s.modEvq i f).heldWrites = s.heldWrites := rfl
@[simp] theorem State.modEvq_spEnts (i : Nat) (f : EvQueue → EvQueue) : (s.modEvq i f).spEnts = s.spEnts := rfl
@[simp] theorem State.modEvq_spLocal (i : Nat) (f : EvQueue → EvQueue) : (s.modEvq i f).spLocal = s.spLocal := rfl
@[simp] theorem State.modEvq_tenantKeys (i : Nat) (f : EvQueue → EvQueue) : (s.modEvq i f).tenantKeys = s.tenantKeys := rfl
@[simp] theorem State.modEvq_vfs (i : Nat) (f : EvQueue → EvQueue) : (s.modEvq i f).vfs = s.vfs := rfl
@[simp] theorem State.modEvq_plyngen (i : Nat) (f : EvQueue → EvQueue) : (s.modEvq i f).plyngen = s.plyngen := rfl
@[simp] theorem State.modEvq_chipDue (i : Nat) (f : EvQueue → EvQueue) : (s.modEvq i f).chipDue = s.chipDue := rfl
@[simp] theorem State.modEvq_chipWhy (i : Nat) (f : EvQueue → EvQueue) : (s.modEvq i f).chipWhy = s.chipWhy := rfl
@[simp] theorem State.modEvq_reloadRegion (i : Nat) (f : EvQueue → EvQueue) : (s.modEvq i f).reloadRegion = s.reloadRegion := rfl
@[simp] theorem State.setQueue_pending (q : QRef) (x : QueueSt) : (s.setQueue q x).pending = s.pending := rfl
@[simp] theorem State.setQueue_freeCtr (q : QRef) (x : QueueSt) : (s.setQueue q x).freeCtr = s.freeCtr := rfl
@[simp] theorem State.setQueue_sent (q : QRef) (x : QueueSt) : (s.setQueue q x).sent = s.sent := rfl
@[simp] theorem State.setQueue_phase (q : QRef) (x : QueueSt) : (s.setQueue q x).phase = s.phase := rfl
@[simp] theorem State.setQueue_root (q : QRef) (x : QueueSt) : (s.setQueue q x).root = s.root := rfl
@[simp] theorem State.setQueue_aon (q : QRef) (x : QueueSt) : (s.setQueue q x).aon = s.aon := rfl
@[simp] theorem State.setQueue_clk (q : QRef) (x : QueueSt) : (s.setQueue q x).clk = s.clk := rfl
@[simp] theorem State.setQueue_time (q : QRef) (x : QueueSt) : (s.setQueue q x).time = s.time := rfl
@[simp] theorem State.setQueue_pins (q : QRef) (x : QueueSt) : (s.setQueue q x).pins = s.pins := rfl
@[simp] theorem State.setQueue_regs (q : QRef) (x : QueueSt) : (s.setQueue q x).regs = s.regs := rfl
@[simp] theorem State.setQueue_latches (q : QRef) (x : QueueSt) : (s.setQueue q x).latches = s.latches := rfl
@[simp] theorem State.setQueue_outstanding (q : QRef) (x : QueueSt) : (s.setQueue q x).outstanding = s.outstanding := rfl
@[simp] theorem State.setQueue_responses (q : QRef) (x : QueueSt) : (s.setQueue q x).responses = s.responses := rfl
@[simp] theorem State.setQueue_fences (q : QRef) (x : QueueSt) : (s.setQueue q x).fences = s.fences := rfl
@[simp] theorem State.setQueue_heldReqs (q : QRef) (x : QueueSt) : (s.setQueue q x).heldReqs = s.heldReqs := rfl
@[simp] theorem State.setQueue_refusals (q : QRef) (x : QueueSt) : (s.setQueue q x).refusals = s.refusals := rfl
@[simp] theorem State.setQueue_stalls (q : QRef) (x : QueueSt) : (s.setQueue q x).stalls = s.stalls := rfl
@[simp] theorem State.setQueue_cups (q : QRef) (x : QueueSt) : (s.setQueue q x).cups = s.cups := rfl
@[simp] theorem State.setQueue_leaves (q : QRef) (x : QueueSt) : (s.setQueue q x).leaves = s.leaves := rfl
@[simp] theorem State.setQueue_streams (q : QRef) (x : QueueSt) : (s.setQueue q x).streams = s.streams := rfl
@[simp] theorem State.setQueue_cols (q : QRef) (x : QueueSt) : (s.setQueue q x).cols = s.cols := rfl
@[simp] theorem State.setQueue_quads (q : QRef) (x : QueueSt) : (s.setQueue q x).quads = s.quads := rfl
@[simp] theorem State.setQueue_lanes (q : QRef) (x : QueueSt) : (s.setQueue q x).lanes = s.lanes := rfl
@[simp] theorem State.setQueue_flitInj (q : QRef) (x : QueueSt) : (s.setQueue q x).flitInj = s.flitInj := rfl
@[simp] theorem State.setQueue_stks (q : QRef) (x : QueueSt) : (s.setQueue q x).stks = s.stks := rfl
@[simp] theorem State.setQueue_pchs (q : QRef) (x : QueueSt) : (s.setQueue q x).pchs = s.pchs := rfl
@[simp] theorem State.setQueue_banks (q : QRef) (x : QueueSt) : (s.setQueue q x).banks = s.banks := rfl
@[simp] theorem State.setQueue_rtps (q : QRef) (x : QueueSt) : (s.setQueue q x).rtps = s.rtps := rfl
@[simp] theorem State.setQueue_hbmHeld (q : QRef) (x : QueueSt) : (s.setQueue q x).hbmHeld = s.hbmHeld := rfl
@[simp] theorem State.setQueue_hbm (q : QRef) (x : QueueSt) : (s.setQueue q x).hbm = s.hbm := rfl
@[simp] theorem State.setQueue_ranges (q : QRef) (x : QueueSt) : (s.setQueue q x).ranges = s.ranges := rfl
@[simp] theorem State.setQueue_nv (q : QRef) (x : QueueSt) : (s.setQueue q x).nv = s.nv := rfl
@[simp] theorem State.setQueue_caddy (q : QRef) (x : QueueSt) : (s.setQueue q x).caddy = s.caddy := rfl
@[simp] theorem State.setQueue_imgJobs (q : QRef) (x : QueueSt) : (s.setQueue q x).imgJobs = s.imgJobs := rfl
@[simp] theorem State.setQueue_hceJobs (q : QRef) (x : QueueSt) : (s.setQueue q x).hceJobs = s.hceJobs := rfl
@[simp] theorem State.setQueue_hcePipe (q : QRef) (x : QueueSt) : (s.setQueue q x).hcePipe = s.hcePipe := rfl
@[simp] theorem State.setQueue_hceLeft (q : QRef) (x : QueueSt) : (s.setQueue q x).hceLeft = s.hceLeft := rfl
@[simp] theorem State.setQueue_hceLast (q : QRef) (x : QueueSt) : (s.setQueue q x).hceLast = s.hceLast := rfl
@[simp] theorem State.setQueue_hceSlotNo (q : QRef) (x : QueueSt) : (s.setQueue q x).hceSlotNo = s.hceSlotNo := rfl
@[simp] theorem State.setQueue_hceMode (q : QRef) (x : QueueSt) : (s.setQueue q x).hceMode = s.hceMode := rfl
@[simp] theorem State.setQueue_links (q : QRef) (x : QueueSt) : (s.setQueue q x).links = s.links := rfl
@[simp] theorem State.setQueue_cas (q : QRef) (x : QueueSt) : (s.setQueue q x).cas = s.cas := rfl
@[simp] theorem State.setQueue_urn (q : QRef) (x : QueueSt) : (s.setQueue q x).urn = s.urn := rfl
@[simp] theorem State.setQueue_str (q : QRef) (x : QueueSt) : (s.setQueue q x).str = s.str := rfl
@[simp] theorem State.setQueue_leases (q : QRef) (x : QueueSt) : (s.setQueue q x).leases = s.leases := rfl
@[simp] theorem State.setQueue_leaseLog (q : QRef) (x : QueueSt) : (s.setQueue q x).leaseLog = s.leaseLog := rfl
@[simp] theorem State.setQueue_cores (q : QRef) (x : QueueSt) : (s.setQueue q x).cores = s.cores := rfl
@[simp] theorem State.setQueue_l2 (q : QRef) (x : QueueSt) : (s.setQueue q x).l2 = s.l2 := rfl
@[simp] theorem State.setQueue_kettleRam (q : QRef) (x : QueueSt) : (s.setQueue q x).kettleRam = s.kettleRam := rfl
@[simp] theorem State.setQueue_sess (q : QRef) (x : QueueSt) : (s.setQueue q x).sess = s.sess := rfl
@[simp] theorem State.setQueue_beat (q : QRef) (x : QueueSt) : (s.setQueue q x).beat = s.beat := rfl
@[simp] theorem State.setQueue_later (q : QRef) (x : QueueSt) : (s.setQueue q x).later = s.later := rfl
@[simp] theorem State.setQueue_heldWrites (q : QRef) (x : QueueSt) : (s.setQueue q x).heldWrites = s.heldWrites := rfl
@[simp] theorem State.setQueue_spEnts (q : QRef) (x : QueueSt) : (s.setQueue q x).spEnts = s.spEnts := rfl
@[simp] theorem State.setQueue_spLocal (q : QRef) (x : QueueSt) : (s.setQueue q x).spLocal = s.spLocal := rfl
@[simp] theorem State.setQueue_tenantKeys (q : QRef) (x : QueueSt) : (s.setQueue q x).tenantKeys = s.tenantKeys := rfl
@[simp] theorem State.setQueue_vfs (q : QRef) (x : QueueSt) : (s.setQueue q x).vfs = s.vfs := rfl
@[simp] theorem State.setQueue_plyngen (q : QRef) (x : QueueSt) : (s.setQueue q x).plyngen = s.plyngen := rfl
@[simp] theorem State.setQueue_chipDue (q : QRef) (x : QueueSt) : (s.setQueue q x).chipDue = s.chipDue := rfl
@[simp] theorem State.setQueue_chipWhy (q : QRef) (x : QueueSt) : (s.setQueue q x).chipWhy = s.chipWhy := rfl
@[simp] theorem State.setQueue_reloadRegion (q : QRef) (x : QueueSt) : (s.setQueue q x).reloadRegion = s.reloadRegion := rfl
@[simp] theorem State.log_pending (o : Out) : (s.log o).pending = s.pending := rfl
@[simp] theorem State.log_freeCtr (o : Out) : (s.log o).freeCtr = s.freeCtr := rfl
@[simp] theorem State.log_phase (o : Out) : (s.log o).phase = s.phase := rfl
@[simp] theorem State.log_root (o : Out) : (s.log o).root = s.root := rfl
@[simp] theorem State.log_aon (o : Out) : (s.log o).aon = s.aon := rfl
@[simp] theorem State.log_clk (o : Out) : (s.log o).clk = s.clk := rfl
@[simp] theorem State.log_time (o : Out) : (s.log o).time = s.time := rfl
@[simp] theorem State.log_pins (o : Out) : (s.log o).pins = s.pins := rfl
@[simp] theorem State.log_regs (o : Out) : (s.log o).regs = s.regs := rfl
@[simp] theorem State.log_latches (o : Out) : (s.log o).latches = s.latches := rfl
@[simp] theorem State.log_outstanding (o : Out) : (s.log o).outstanding = s.outstanding := rfl
@[simp] theorem State.log_responses (o : Out) : (s.log o).responses = s.responses := rfl
@[simp] theorem State.log_fences (o : Out) : (s.log o).fences = s.fences := rfl
@[simp] theorem State.log_heldReqs (o : Out) : (s.log o).heldReqs = s.heldReqs := rfl
@[simp] theorem State.log_refusals (o : Out) : (s.log o).refusals = s.refusals := rfl
@[simp] theorem State.log_stalls (o : Out) : (s.log o).stalls = s.stalls := rfl
@[simp] theorem State.log_queues (o : Out) : (s.log o).queues = s.queues := rfl
@[simp] theorem State.log_cups (o : Out) : (s.log o).cups = s.cups := rfl
@[simp] theorem State.log_leaves (o : Out) : (s.log o).leaves = s.leaves := rfl
@[simp] theorem State.log_streams (o : Out) : (s.log o).streams = s.streams := rfl
@[simp] theorem State.log_cols (o : Out) : (s.log o).cols = s.cols := rfl
@[simp] theorem State.log_quads (o : Out) : (s.log o).quads = s.quads := rfl
@[simp] theorem State.log_lanes (o : Out) : (s.log o).lanes = s.lanes := rfl
@[simp] theorem State.log_flitInj (o : Out) : (s.log o).flitInj = s.flitInj := rfl
@[simp] theorem State.log_stks (o : Out) : (s.log o).stks = s.stks := rfl
@[simp] theorem State.log_pchs (o : Out) : (s.log o).pchs = s.pchs := rfl
@[simp] theorem State.log_banks (o : Out) : (s.log o).banks = s.banks := rfl
@[simp] theorem State.log_rtps (o : Out) : (s.log o).rtps = s.rtps := rfl
@[simp] theorem State.log_hbmHeld (o : Out) : (s.log o).hbmHeld = s.hbmHeld := rfl
@[simp] theorem State.log_hbm (o : Out) : (s.log o).hbm = s.hbm := rfl
@[simp] theorem State.log_ranges (o : Out) : (s.log o).ranges = s.ranges := rfl
@[simp] theorem State.log_nv (o : Out) : (s.log o).nv = s.nv := rfl
@[simp] theorem State.log_caddy (o : Out) : (s.log o).caddy = s.caddy := rfl
@[simp] theorem State.log_imgJobs (o : Out) : (s.log o).imgJobs = s.imgJobs := rfl
@[simp] theorem State.log_hceJobs (o : Out) : (s.log o).hceJobs = s.hceJobs := rfl
@[simp] theorem State.log_hcePipe (o : Out) : (s.log o).hcePipe = s.hcePipe := rfl
@[simp] theorem State.log_hceLeft (o : Out) : (s.log o).hceLeft = s.hceLeft := rfl
@[simp] theorem State.log_hceLast (o : Out) : (s.log o).hceLast = s.hceLast := rfl
@[simp] theorem State.log_hceSlotNo (o : Out) : (s.log o).hceSlotNo = s.hceSlotNo := rfl
@[simp] theorem State.log_hceMode (o : Out) : (s.log o).hceMode = s.hceMode := rfl
@[simp] theorem State.log_links (o : Out) : (s.log o).links = s.links := rfl
@[simp] theorem State.log_cas (o : Out) : (s.log o).cas = s.cas := rfl
@[simp] theorem State.log_urn (o : Out) : (s.log o).urn = s.urn := rfl
@[simp] theorem State.log_str (o : Out) : (s.log o).str = s.str := rfl
@[simp] theorem State.log_leases (o : Out) : (s.log o).leases = s.leases := rfl
@[simp] theorem State.log_leaseLog (o : Out) : (s.log o).leaseLog = s.leaseLog := rfl
@[simp] theorem State.log_cores (o : Out) : (s.log o).cores = s.cores := rfl
@[simp] theorem State.log_l2 (o : Out) : (s.log o).l2 = s.l2 := rfl
@[simp] theorem State.log_kettleRam (o : Out) : (s.log o).kettleRam = s.kettleRam := rfl
@[simp] theorem State.log_sess (o : Out) : (s.log o).sess = s.sess := rfl
@[simp] theorem State.log_beat (o : Out) : (s.log o).beat = s.beat := rfl
@[simp] theorem State.log_later (o : Out) : (s.log o).later = s.later := rfl
@[simp] theorem State.log_heldWrites (o : Out) : (s.log o).heldWrites = s.heldWrites := rfl
@[simp] theorem State.log_spEnts (o : Out) : (s.log o).spEnts = s.spEnts := rfl
@[simp] theorem State.log_spLocal (o : Out) : (s.log o).spLocal = s.spLocal := rfl
@[simp] theorem State.log_tenantKeys (o : Out) : (s.log o).tenantKeys = s.tenantKeys := rfl
@[simp] theorem State.log_vfs (o : Out) : (s.log o).vfs = s.vfs := rfl
@[simp] theorem State.log_plyngen (o : Out) : (s.log o).plyngen = s.plyngen := rfl
@[simp] theorem State.log_chipDue (o : Out) : (s.log o).chipDue = s.chipDue := rfl
@[simp] theorem State.log_chipWhy (o : Out) : (s.log o).chipWhy = s.chipWhy := rfl
@[simp] theorem State.log_reloadRegion (o : Out) : (s.log o).reloadRegion = s.reloadRegion := rfl
@[simp] theorem State.draw_pending : (s.draw).pending = s.pending := rfl
@[simp] theorem State.draw_sent : (s.draw).sent = s.sent := rfl
@[simp] theorem State.draw_phase : (s.draw).phase = s.phase := rfl
@[simp] theorem State.draw_root : (s.draw).root = s.root := rfl
@[simp] theorem State.draw_aon : (s.draw).aon = s.aon := rfl
@[simp] theorem State.draw_clk : (s.draw).clk = s.clk := rfl
@[simp] theorem State.draw_time : (s.draw).time = s.time := rfl
@[simp] theorem State.draw_pins : (s.draw).pins = s.pins := rfl
@[simp] theorem State.draw_regs : (s.draw).regs = s.regs := rfl
@[simp] theorem State.draw_latches : (s.draw).latches = s.latches := rfl
@[simp] theorem State.draw_outstanding : (s.draw).outstanding = s.outstanding := rfl
@[simp] theorem State.draw_responses : (s.draw).responses = s.responses := rfl
@[simp] theorem State.draw_fences : (s.draw).fences = s.fences := rfl
@[simp] theorem State.draw_heldReqs : (s.draw).heldReqs = s.heldReqs := rfl
@[simp] theorem State.draw_refusals : (s.draw).refusals = s.refusals := rfl
@[simp] theorem State.draw_stalls : (s.draw).stalls = s.stalls := rfl
@[simp] theorem State.draw_queues : (s.draw).queues = s.queues := rfl
@[simp] theorem State.draw_cups : (s.draw).cups = s.cups := rfl
@[simp] theorem State.draw_leaves : (s.draw).leaves = s.leaves := rfl
@[simp] theorem State.draw_streams : (s.draw).streams = s.streams := rfl
@[simp] theorem State.draw_cols : (s.draw).cols = s.cols := rfl
@[simp] theorem State.draw_quads : (s.draw).quads = s.quads := rfl
@[simp] theorem State.draw_lanes : (s.draw).lanes = s.lanes := rfl
@[simp] theorem State.draw_flitInj : (s.draw).flitInj = s.flitInj := rfl
@[simp] theorem State.draw_stks : (s.draw).stks = s.stks := rfl
@[simp] theorem State.draw_pchs : (s.draw).pchs = s.pchs := rfl
@[simp] theorem State.draw_banks : (s.draw).banks = s.banks := rfl
@[simp] theorem State.draw_rtps : (s.draw).rtps = s.rtps := rfl
@[simp] theorem State.draw_hbmHeld : (s.draw).hbmHeld = s.hbmHeld := rfl
@[simp] theorem State.draw_hbm : (s.draw).hbm = s.hbm := rfl
@[simp] theorem State.draw_ranges : (s.draw).ranges = s.ranges := rfl
@[simp] theorem State.draw_nv : (s.draw).nv = s.nv := rfl
@[simp] theorem State.draw_caddy : (s.draw).caddy = s.caddy := rfl
@[simp] theorem State.draw_imgJobs : (s.draw).imgJobs = s.imgJobs := rfl
@[simp] theorem State.draw_hceJobs : (s.draw).hceJobs = s.hceJobs := rfl
@[simp] theorem State.draw_hcePipe : (s.draw).hcePipe = s.hcePipe := rfl
@[simp] theorem State.draw_hceLeft : (s.draw).hceLeft = s.hceLeft := rfl
@[simp] theorem State.draw_hceLast : (s.draw).hceLast = s.hceLast := rfl
@[simp] theorem State.draw_hceSlotNo : (s.draw).hceSlotNo = s.hceSlotNo := rfl
@[simp] theorem State.draw_hceMode : (s.draw).hceMode = s.hceMode := rfl
@[simp] theorem State.draw_links : (s.draw).links = s.links := rfl
@[simp] theorem State.draw_cas : (s.draw).cas = s.cas := rfl
@[simp] theorem State.draw_urn : (s.draw).urn = s.urn := rfl
@[simp] theorem State.draw_str : (s.draw).str = s.str := rfl
@[simp] theorem State.draw_leases : (s.draw).leases = s.leases := rfl
@[simp] theorem State.draw_leaseLog : (s.draw).leaseLog = s.leaseLog := rfl
@[simp] theorem State.draw_cores : (s.draw).cores = s.cores := rfl
@[simp] theorem State.draw_l2 : (s.draw).l2 = s.l2 := rfl
@[simp] theorem State.draw_kettleRam : (s.draw).kettleRam = s.kettleRam := rfl
@[simp] theorem State.draw_sess : (s.draw).sess = s.sess := rfl
@[simp] theorem State.draw_beat : (s.draw).beat = s.beat := rfl
@[simp] theorem State.draw_later : (s.draw).later = s.later := rfl
@[simp] theorem State.draw_heldWrites : (s.draw).heldWrites = s.heldWrites := rfl
@[simp] theorem State.draw_spEnts : (s.draw).spEnts = s.spEnts := rfl
@[simp] theorem State.draw_spLocal : (s.draw).spLocal = s.spLocal := rfl
@[simp] theorem State.draw_tenantKeys : (s.draw).tenantKeys = s.tenantKeys := rfl
@[simp] theorem State.draw_vfs : (s.draw).vfs = s.vfs := rfl
@[simp] theorem State.draw_plyngen : (s.draw).plyngen = s.plyngen := rfl
@[simp] theorem State.draw_chipDue : (s.draw).chipDue = s.chipDue := rfl
@[simp] theorem State.draw_chipWhy : (s.draw).chipWhy = s.chipWhy := rfl
@[simp] theorem State.draw_reloadRegion : (s.draw).reloadRegion = s.reloadRegion := rfl
@[simp] theorem State.issue_pending (m tag : Nat) (op : ReqOp) (addr len : Nat) : (s.issue m tag op addr len).pending = s.pending := rfl
@[simp] theorem State.issue_freeCtr (m tag : Nat) (op : ReqOp) (addr len : Nat) : (s.issue m tag op addr len).freeCtr = s.freeCtr := rfl
@[simp] theorem State.issue_sent (m tag : Nat) (op : ReqOp) (addr len : Nat) : (s.issue m tag op addr len).sent = s.sent := rfl
@[simp] theorem State.issue_phase (m tag : Nat) (op : ReqOp) (addr len : Nat) : (s.issue m tag op addr len).phase = s.phase := rfl
@[simp] theorem State.issue_root (m tag : Nat) (op : ReqOp) (addr len : Nat) : (s.issue m tag op addr len).root = s.root := rfl
@[simp] theorem State.issue_aon (m tag : Nat) (op : ReqOp) (addr len : Nat) : (s.issue m tag op addr len).aon = s.aon := rfl
@[simp] theorem State.issue_clk (m tag : Nat) (op : ReqOp) (addr len : Nat) : (s.issue m tag op addr len).clk = s.clk := rfl
@[simp] theorem State.issue_time (m tag : Nat) (op : ReqOp) (addr len : Nat) : (s.issue m tag op addr len).time = s.time := rfl
@[simp] theorem State.issue_pins (m tag : Nat) (op : ReqOp) (addr len : Nat) : (s.issue m tag op addr len).pins = s.pins := rfl
@[simp] theorem State.issue_regs (m tag : Nat) (op : ReqOp) (addr len : Nat) : (s.issue m tag op addr len).regs = s.regs := rfl
@[simp] theorem State.issue_latches (m tag : Nat) (op : ReqOp) (addr len : Nat) : (s.issue m tag op addr len).latches = s.latches := rfl
@[simp] theorem State.issue_responses (m tag : Nat) (op : ReqOp) (addr len : Nat) : (s.issue m tag op addr len).responses = s.responses := rfl
@[simp] theorem State.issue_fences (m tag : Nat) (op : ReqOp) (addr len : Nat) : (s.issue m tag op addr len).fences = s.fences := rfl
@[simp] theorem State.issue_heldReqs (m tag : Nat) (op : ReqOp) (addr len : Nat) : (s.issue m tag op addr len).heldReqs = s.heldReqs := rfl
@[simp] theorem State.issue_refusals (m tag : Nat) (op : ReqOp) (addr len : Nat) : (s.issue m tag op addr len).refusals = s.refusals := rfl
@[simp] theorem State.issue_stalls (m tag : Nat) (op : ReqOp) (addr len : Nat) : (s.issue m tag op addr len).stalls = s.stalls := rfl
@[simp] theorem State.issue_queues (m tag : Nat) (op : ReqOp) (addr len : Nat) : (s.issue m tag op addr len).queues = s.queues := rfl
@[simp] theorem State.issue_cups (m tag : Nat) (op : ReqOp) (addr len : Nat) : (s.issue m tag op addr len).cups = s.cups := rfl
@[simp] theorem State.issue_leaves (m tag : Nat) (op : ReqOp) (addr len : Nat) : (s.issue m tag op addr len).leaves = s.leaves := rfl
@[simp] theorem State.issue_streams (m tag : Nat) (op : ReqOp) (addr len : Nat) : (s.issue m tag op addr len).streams = s.streams := rfl
@[simp] theorem State.issue_cols (m tag : Nat) (op : ReqOp) (addr len : Nat) : (s.issue m tag op addr len).cols = s.cols := rfl
@[simp] theorem State.issue_quads (m tag : Nat) (op : ReqOp) (addr len : Nat) : (s.issue m tag op addr len).quads = s.quads := rfl
@[simp] theorem State.issue_lanes (m tag : Nat) (op : ReqOp) (addr len : Nat) : (s.issue m tag op addr len).lanes = s.lanes := rfl
@[simp] theorem State.issue_flitInj (m tag : Nat) (op : ReqOp) (addr len : Nat) : (s.issue m tag op addr len).flitInj = s.flitInj := rfl
@[simp] theorem State.issue_stks (m tag : Nat) (op : ReqOp) (addr len : Nat) : (s.issue m tag op addr len).stks = s.stks := rfl
@[simp] theorem State.issue_pchs (m tag : Nat) (op : ReqOp) (addr len : Nat) : (s.issue m tag op addr len).pchs = s.pchs := rfl
@[simp] theorem State.issue_banks (m tag : Nat) (op : ReqOp) (addr len : Nat) : (s.issue m tag op addr len).banks = s.banks := rfl
@[simp] theorem State.issue_rtps (m tag : Nat) (op : ReqOp) (addr len : Nat) : (s.issue m tag op addr len).rtps = s.rtps := rfl
@[simp] theorem State.issue_hbmHeld (m tag : Nat) (op : ReqOp) (addr len : Nat) : (s.issue m tag op addr len).hbmHeld = s.hbmHeld := rfl
@[simp] theorem State.issue_hbm (m tag : Nat) (op : ReqOp) (addr len : Nat) : (s.issue m tag op addr len).hbm = s.hbm := rfl
@[simp] theorem State.issue_ranges (m tag : Nat) (op : ReqOp) (addr len : Nat) : (s.issue m tag op addr len).ranges = s.ranges := rfl
@[simp] theorem State.issue_nv (m tag : Nat) (op : ReqOp) (addr len : Nat) : (s.issue m tag op addr len).nv = s.nv := rfl
@[simp] theorem State.issue_caddy (m tag : Nat) (op : ReqOp) (addr len : Nat) : (s.issue m tag op addr len).caddy = s.caddy := rfl
@[simp] theorem State.issue_imgJobs (m tag : Nat) (op : ReqOp) (addr len : Nat) : (s.issue m tag op addr len).imgJobs = s.imgJobs := rfl
@[simp] theorem State.issue_hceJobs (m tag : Nat) (op : ReqOp) (addr len : Nat) : (s.issue m tag op addr len).hceJobs = s.hceJobs := rfl
@[simp] theorem State.issue_hcePipe (m tag : Nat) (op : ReqOp) (addr len : Nat) : (s.issue m tag op addr len).hcePipe = s.hcePipe := rfl
@[simp] theorem State.issue_hceLeft (m tag : Nat) (op : ReqOp) (addr len : Nat) : (s.issue m tag op addr len).hceLeft = s.hceLeft := rfl
@[simp] theorem State.issue_hceLast (m tag : Nat) (op : ReqOp) (addr len : Nat) : (s.issue m tag op addr len).hceLast = s.hceLast := rfl
@[simp] theorem State.issue_hceSlotNo (m tag : Nat) (op : ReqOp) (addr len : Nat) : (s.issue m tag op addr len).hceSlotNo = s.hceSlotNo := rfl
@[simp] theorem State.issue_hceMode (m tag : Nat) (op : ReqOp) (addr len : Nat) : (s.issue m tag op addr len).hceMode = s.hceMode := rfl
@[simp] theorem State.issue_links (m tag : Nat) (op : ReqOp) (addr len : Nat) : (s.issue m tag op addr len).links = s.links := rfl
@[simp] theorem State.issue_cas (m tag : Nat) (op : ReqOp) (addr len : Nat) : (s.issue m tag op addr len).cas = s.cas := rfl
@[simp] theorem State.issue_urn (m tag : Nat) (op : ReqOp) (addr len : Nat) : (s.issue m tag op addr len).urn = s.urn := rfl
@[simp] theorem State.issue_str (m tag : Nat) (op : ReqOp) (addr len : Nat) : (s.issue m tag op addr len).str = s.str := rfl
@[simp] theorem State.issue_leases (m tag : Nat) (op : ReqOp) (addr len : Nat) : (s.issue m tag op addr len).leases = s.leases := rfl
@[simp] theorem State.issue_leaseLog (m tag : Nat) (op : ReqOp) (addr len : Nat) : (s.issue m tag op addr len).leaseLog = s.leaseLog := rfl
@[simp] theorem State.issue_cores (m tag : Nat) (op : ReqOp) (addr len : Nat) : (s.issue m tag op addr len).cores = s.cores := rfl
@[simp] theorem State.issue_l2 (m tag : Nat) (op : ReqOp) (addr len : Nat) : (s.issue m tag op addr len).l2 = s.l2 := rfl
@[simp] theorem State.issue_kettleRam (m tag : Nat) (op : ReqOp) (addr len : Nat) : (s.issue m tag op addr len).kettleRam = s.kettleRam := rfl
@[simp] theorem State.issue_sess (m tag : Nat) (op : ReqOp) (addr len : Nat) : (s.issue m tag op addr len).sess = s.sess := rfl
@[simp] theorem State.issue_beat (m tag : Nat) (op : ReqOp) (addr len : Nat) : (s.issue m tag op addr len).beat = s.beat := rfl
@[simp] theorem State.issue_later (m tag : Nat) (op : ReqOp) (addr len : Nat) : (s.issue m tag op addr len).later = s.later := rfl
@[simp] theorem State.issue_heldWrites (m tag : Nat) (op : ReqOp) (addr len : Nat) : (s.issue m tag op addr len).heldWrites = s.heldWrites := rfl
@[simp] theorem State.issue_spEnts (m tag : Nat) (op : ReqOp) (addr len : Nat) : (s.issue m tag op addr len).spEnts = s.spEnts := rfl
@[simp] theorem State.issue_spLocal (m tag : Nat) (op : ReqOp) (addr len : Nat) : (s.issue m tag op addr len).spLocal = s.spLocal := rfl
@[simp] theorem State.issue_tenantKeys (m tag : Nat) (op : ReqOp) (addr len : Nat) : (s.issue m tag op addr len).tenantKeys = s.tenantKeys := rfl
@[simp] theorem State.issue_vfs (m tag : Nat) (op : ReqOp) (addr len : Nat) : (s.issue m tag op addr len).vfs = s.vfs := rfl
@[simp] theorem State.issue_plyngen (m tag : Nat) (op : ReqOp) (addr len : Nat) : (s.issue m tag op addr len).plyngen = s.plyngen := rfl
@[simp] theorem State.issue_chipDue (m tag : Nat) (op : ReqOp) (addr len : Nat) : (s.issue m tag op addr len).chipDue = s.chipDue := rfl
@[simp] theorem State.issue_chipWhy (m tag : Nat) (op : ReqOp) (addr len : Nat) : (s.issue m tag op addr len).chipWhy = s.chipWhy := rfl
@[simp] theorem State.issue_reloadRegion (m tag : Nat) (op : ReqOp) (addr len : Nat) : (s.issue m tag op addr len).reloadRegion = s.reloadRegion := rfl
@[simp] theorem State.hold_pending (m tag latency : Nat) (eff : HeldEff) : (s.hold m tag latency eff).pending = s.pending := rfl
@[simp] theorem State.hold_freeCtr (m tag latency : Nat) (eff : HeldEff) : (s.hold m tag latency eff).freeCtr = s.freeCtr := rfl
@[simp] theorem State.hold_sent (m tag latency : Nat) (eff : HeldEff) : (s.hold m tag latency eff).sent = s.sent := rfl
@[simp] theorem State.hold_phase (m tag latency : Nat) (eff : HeldEff) : (s.hold m tag latency eff).phase = s.phase := rfl
@[simp] theorem State.hold_root (m tag latency : Nat) (eff : HeldEff) : (s.hold m tag latency eff).root = s.root := rfl
@[simp] theorem State.hold_aon (m tag latency : Nat) (eff : HeldEff) : (s.hold m tag latency eff).aon = s.aon := rfl
@[simp] theorem State.hold_clk (m tag latency : Nat) (eff : HeldEff) : (s.hold m tag latency eff).clk = s.clk := rfl
@[simp] theorem State.hold_time (m tag latency : Nat) (eff : HeldEff) : (s.hold m tag latency eff).time = s.time := rfl
@[simp] theorem State.hold_pins (m tag latency : Nat) (eff : HeldEff) : (s.hold m tag latency eff).pins = s.pins := rfl
@[simp] theorem State.hold_regs (m tag latency : Nat) (eff : HeldEff) : (s.hold m tag latency eff).regs = s.regs := rfl
@[simp] theorem State.hold_latches (m tag latency : Nat) (eff : HeldEff) : (s.hold m tag latency eff).latches = s.latches := rfl
@[simp] theorem State.hold_outstanding (m tag latency : Nat) (eff : HeldEff) : (s.hold m tag latency eff).outstanding = s.outstanding := rfl
@[simp] theorem State.hold_responses (m tag latency : Nat) (eff : HeldEff) : (s.hold m tag latency eff).responses = s.responses := rfl
@[simp] theorem State.hold_fences (m tag latency : Nat) (eff : HeldEff) : (s.hold m tag latency eff).fences = s.fences := rfl
@[simp] theorem State.hold_heldReqs (m tag latency : Nat) (eff : HeldEff) : (s.hold m tag latency eff).heldReqs = s.heldReqs := rfl
@[simp] theorem State.hold_stalls (m tag latency : Nat) (eff : HeldEff) : (s.hold m tag latency eff).stalls = s.stalls := rfl
@[simp] theorem State.hold_queues (m tag latency : Nat) (eff : HeldEff) : (s.hold m tag latency eff).queues = s.queues := rfl
@[simp] theorem State.hold_cups (m tag latency : Nat) (eff : HeldEff) : (s.hold m tag latency eff).cups = s.cups := rfl
@[simp] theorem State.hold_leaves (m tag latency : Nat) (eff : HeldEff) : (s.hold m tag latency eff).leaves = s.leaves := rfl
@[simp] theorem State.hold_streams (m tag latency : Nat) (eff : HeldEff) : (s.hold m tag latency eff).streams = s.streams := rfl
@[simp] theorem State.hold_cols (m tag latency : Nat) (eff : HeldEff) : (s.hold m tag latency eff).cols = s.cols := rfl
@[simp] theorem State.hold_quads (m tag latency : Nat) (eff : HeldEff) : (s.hold m tag latency eff).quads = s.quads := rfl
@[simp] theorem State.hold_lanes (m tag latency : Nat) (eff : HeldEff) : (s.hold m tag latency eff).lanes = s.lanes := rfl
@[simp] theorem State.hold_flitInj (m tag latency : Nat) (eff : HeldEff) : (s.hold m tag latency eff).flitInj = s.flitInj := rfl
@[simp] theorem State.hold_stks (m tag latency : Nat) (eff : HeldEff) : (s.hold m tag latency eff).stks = s.stks := rfl
@[simp] theorem State.hold_pchs (m tag latency : Nat) (eff : HeldEff) : (s.hold m tag latency eff).pchs = s.pchs := rfl
@[simp] theorem State.hold_banks (m tag latency : Nat) (eff : HeldEff) : (s.hold m tag latency eff).banks = s.banks := rfl
@[simp] theorem State.hold_rtps (m tag latency : Nat) (eff : HeldEff) : (s.hold m tag latency eff).rtps = s.rtps := rfl
@[simp] theorem State.hold_hbmHeld (m tag latency : Nat) (eff : HeldEff) : (s.hold m tag latency eff).hbmHeld = s.hbmHeld := rfl
@[simp] theorem State.hold_hbm (m tag latency : Nat) (eff : HeldEff) : (s.hold m tag latency eff).hbm = s.hbm := rfl
@[simp] theorem State.hold_ranges (m tag latency : Nat) (eff : HeldEff) : (s.hold m tag latency eff).ranges = s.ranges := rfl
@[simp] theorem State.hold_nv (m tag latency : Nat) (eff : HeldEff) : (s.hold m tag latency eff).nv = s.nv := rfl
@[simp] theorem State.hold_caddy (m tag latency : Nat) (eff : HeldEff) : (s.hold m tag latency eff).caddy = s.caddy := rfl
@[simp] theorem State.hold_imgJobs (m tag latency : Nat) (eff : HeldEff) : (s.hold m tag latency eff).imgJobs = s.imgJobs := rfl
@[simp] theorem State.hold_hceJobs (m tag latency : Nat) (eff : HeldEff) : (s.hold m tag latency eff).hceJobs = s.hceJobs := rfl
@[simp] theorem State.hold_hcePipe (m tag latency : Nat) (eff : HeldEff) : (s.hold m tag latency eff).hcePipe = s.hcePipe := rfl
@[simp] theorem State.hold_hceLeft (m tag latency : Nat) (eff : HeldEff) : (s.hold m tag latency eff).hceLeft = s.hceLeft := rfl
@[simp] theorem State.hold_hceLast (m tag latency : Nat) (eff : HeldEff) : (s.hold m tag latency eff).hceLast = s.hceLast := rfl
@[simp] theorem State.hold_hceSlotNo (m tag latency : Nat) (eff : HeldEff) : (s.hold m tag latency eff).hceSlotNo = s.hceSlotNo := rfl
@[simp] theorem State.hold_hceMode (m tag latency : Nat) (eff : HeldEff) : (s.hold m tag latency eff).hceMode = s.hceMode := rfl
@[simp] theorem State.hold_links (m tag latency : Nat) (eff : HeldEff) : (s.hold m tag latency eff).links = s.links := rfl
@[simp] theorem State.hold_cas (m tag latency : Nat) (eff : HeldEff) : (s.hold m tag latency eff).cas = s.cas := rfl
@[simp] theorem State.hold_urn (m tag latency : Nat) (eff : HeldEff) : (s.hold m tag latency eff).urn = s.urn := rfl
@[simp] theorem State.hold_str (m tag latency : Nat) (eff : HeldEff) : (s.hold m tag latency eff).str = s.str := rfl
@[simp] theorem State.hold_leases (m tag latency : Nat) (eff : HeldEff) : (s.hold m tag latency eff).leases = s.leases := rfl
@[simp] theorem State.hold_leaseLog (m tag latency : Nat) (eff : HeldEff) : (s.hold m tag latency eff).leaseLog = s.leaseLog := rfl
@[simp] theorem State.hold_cores (m tag latency : Nat) (eff : HeldEff) : (s.hold m tag latency eff).cores = s.cores := rfl
@[simp] theorem State.hold_l2 (m tag latency : Nat) (eff : HeldEff) : (s.hold m tag latency eff).l2 = s.l2 := rfl
@[simp] theorem State.hold_kettleRam (m tag latency : Nat) (eff : HeldEff) : (s.hold m tag latency eff).kettleRam = s.kettleRam := rfl
@[simp] theorem State.hold_sess (m tag latency : Nat) (eff : HeldEff) : (s.hold m tag latency eff).sess = s.sess := rfl
@[simp] theorem State.hold_beat (m tag latency : Nat) (eff : HeldEff) : (s.hold m tag latency eff).beat = s.beat := rfl
@[simp] theorem State.hold_later (m tag latency : Nat) (eff : HeldEff) : (s.hold m tag latency eff).later = s.later := rfl
@[simp] theorem State.hold_heldWrites (m tag latency : Nat) (eff : HeldEff) : (s.hold m tag latency eff).heldWrites = s.heldWrites := rfl
@[simp] theorem State.hold_spEnts (m tag latency : Nat) (eff : HeldEff) : (s.hold m tag latency eff).spEnts = s.spEnts := rfl
@[simp] theorem State.hold_spLocal (m tag latency : Nat) (eff : HeldEff) : (s.hold m tag latency eff).spLocal = s.spLocal := rfl
@[simp] theorem State.hold_tenantKeys (m tag latency : Nat) (eff : HeldEff) : (s.hold m tag latency eff).tenantKeys = s.tenantKeys := rfl
@[simp] theorem State.hold_vfs (m tag latency : Nat) (eff : HeldEff) : (s.hold m tag latency eff).vfs = s.vfs := rfl
@[simp] theorem State.hold_plyngen (m tag latency : Nat) (eff : HeldEff) : (s.hold m tag latency eff).plyngen = s.plyngen := rfl
@[simp] theorem State.hold_chipDue (m tag latency : Nat) (eff : HeldEff) : (s.hold m tag latency eff).chipDue = s.chipDue := rfl
@[simp] theorem State.hold_chipWhy (m tag latency : Nat) (eff : HeldEff) : (s.hold m tag latency eff).chipWhy = s.chipWhy := rfl
@[simp] theorem State.hold_reloadRegion (m tag latency : Nat) (eff : HeldEff) : (s.hold m tag latency eff).reloadRegion = s.reloadRegion := rfl
@[simp] theorem State.answer_pending (m : Nat) (code : Code) (bytes : List Byte) : (s.answer m code bytes).pending = s.pending := rfl
@[simp] theorem State.answer_freeCtr (m : Nat) (code : Code) (bytes : List Byte) : (s.answer m code bytes).freeCtr = s.freeCtr := rfl
@[simp] theorem State.answer_phase (m : Nat) (code : Code) (bytes : List Byte) : (s.answer m code bytes).phase = s.phase := rfl
@[simp] theorem State.answer_root (m : Nat) (code : Code) (bytes : List Byte) : (s.answer m code bytes).root = s.root := rfl
@[simp] theorem State.answer_aon (m : Nat) (code : Code) (bytes : List Byte) : (s.answer m code bytes).aon = s.aon := rfl
@[simp] theorem State.answer_clk (m : Nat) (code : Code) (bytes : List Byte) : (s.answer m code bytes).clk = s.clk := rfl
@[simp] theorem State.answer_time (m : Nat) (code : Code) (bytes : List Byte) : (s.answer m code bytes).time = s.time := rfl
@[simp] theorem State.answer_pins (m : Nat) (code : Code) (bytes : List Byte) : (s.answer m code bytes).pins = s.pins := rfl
@[simp] theorem State.answer_regs (m : Nat) (code : Code) (bytes : List Byte) : (s.answer m code bytes).regs = s.regs := rfl
@[simp] theorem State.answer_latches (m : Nat) (code : Code) (bytes : List Byte) : (s.answer m code bytes).latches = s.latches := rfl
@[simp] theorem State.answer_outstanding (m : Nat) (code : Code) (bytes : List Byte) : (s.answer m code bytes).outstanding = s.outstanding := rfl
@[simp] theorem State.answer_responses (m : Nat) (code : Code) (bytes : List Byte) : (s.answer m code bytes).responses = s.responses := rfl
@[simp] theorem State.answer_fences (m : Nat) (code : Code) (bytes : List Byte) : (s.answer m code bytes).fences = s.fences := rfl
@[simp] theorem State.answer_heldReqs (m : Nat) (code : Code) (bytes : List Byte) : (s.answer m code bytes).heldReqs = s.heldReqs := rfl
@[simp] theorem State.answer_refusals (m : Nat) (code : Code) (bytes : List Byte) : (s.answer m code bytes).refusals = s.refusals := rfl
@[simp] theorem State.answer_stalls (m : Nat) (code : Code) (bytes : List Byte) : (s.answer m code bytes).stalls = s.stalls := rfl
@[simp] theorem State.answer_queues (m : Nat) (code : Code) (bytes : List Byte) : (s.answer m code bytes).queues = s.queues := rfl
@[simp] theorem State.answer_cups (m : Nat) (code : Code) (bytes : List Byte) : (s.answer m code bytes).cups = s.cups := rfl
@[simp] theorem State.answer_leaves (m : Nat) (code : Code) (bytes : List Byte) : (s.answer m code bytes).leaves = s.leaves := rfl
@[simp] theorem State.answer_streams (m : Nat) (code : Code) (bytes : List Byte) : (s.answer m code bytes).streams = s.streams := rfl
@[simp] theorem State.answer_cols (m : Nat) (code : Code) (bytes : List Byte) : (s.answer m code bytes).cols = s.cols := rfl
@[simp] theorem State.answer_quads (m : Nat) (code : Code) (bytes : List Byte) : (s.answer m code bytes).quads = s.quads := rfl
@[simp] theorem State.answer_lanes (m : Nat) (code : Code) (bytes : List Byte) : (s.answer m code bytes).lanes = s.lanes := rfl
@[simp] theorem State.answer_flitInj (m : Nat) (code : Code) (bytes : List Byte) : (s.answer m code bytes).flitInj = s.flitInj := rfl
@[simp] theorem State.answer_stks (m : Nat) (code : Code) (bytes : List Byte) : (s.answer m code bytes).stks = s.stks := rfl
@[simp] theorem State.answer_pchs (m : Nat) (code : Code) (bytes : List Byte) : (s.answer m code bytes).pchs = s.pchs := rfl
@[simp] theorem State.answer_banks (m : Nat) (code : Code) (bytes : List Byte) : (s.answer m code bytes).banks = s.banks := rfl
@[simp] theorem State.answer_rtps (m : Nat) (code : Code) (bytes : List Byte) : (s.answer m code bytes).rtps = s.rtps := rfl
@[simp] theorem State.answer_hbmHeld (m : Nat) (code : Code) (bytes : List Byte) : (s.answer m code bytes).hbmHeld = s.hbmHeld := rfl
@[simp] theorem State.answer_hbm (m : Nat) (code : Code) (bytes : List Byte) : (s.answer m code bytes).hbm = s.hbm := rfl
@[simp] theorem State.answer_ranges (m : Nat) (code : Code) (bytes : List Byte) : (s.answer m code bytes).ranges = s.ranges := rfl
@[simp] theorem State.answer_nv (m : Nat) (code : Code) (bytes : List Byte) : (s.answer m code bytes).nv = s.nv := rfl
@[simp] theorem State.answer_caddy (m : Nat) (code : Code) (bytes : List Byte) : (s.answer m code bytes).caddy = s.caddy := rfl
@[simp] theorem State.answer_imgJobs (m : Nat) (code : Code) (bytes : List Byte) : (s.answer m code bytes).imgJobs = s.imgJobs := rfl
@[simp] theorem State.answer_hceJobs (m : Nat) (code : Code) (bytes : List Byte) : (s.answer m code bytes).hceJobs = s.hceJobs := rfl
@[simp] theorem State.answer_hcePipe (m : Nat) (code : Code) (bytes : List Byte) : (s.answer m code bytes).hcePipe = s.hcePipe := rfl
@[simp] theorem State.answer_hceLeft (m : Nat) (code : Code) (bytes : List Byte) : (s.answer m code bytes).hceLeft = s.hceLeft := rfl
@[simp] theorem State.answer_hceLast (m : Nat) (code : Code) (bytes : List Byte) : (s.answer m code bytes).hceLast = s.hceLast := rfl
@[simp] theorem State.answer_hceSlotNo (m : Nat) (code : Code) (bytes : List Byte) : (s.answer m code bytes).hceSlotNo = s.hceSlotNo := rfl
@[simp] theorem State.answer_hceMode (m : Nat) (code : Code) (bytes : List Byte) : (s.answer m code bytes).hceMode = s.hceMode := rfl
@[simp] theorem State.answer_links (m : Nat) (code : Code) (bytes : List Byte) : (s.answer m code bytes).links = s.links := rfl
@[simp] theorem State.answer_cas (m : Nat) (code : Code) (bytes : List Byte) : (s.answer m code bytes).cas = s.cas := rfl
@[simp] theorem State.answer_urn (m : Nat) (code : Code) (bytes : List Byte) : (s.answer m code bytes).urn = s.urn := rfl
@[simp] theorem State.answer_str (m : Nat) (code : Code) (bytes : List Byte) : (s.answer m code bytes).str = s.str := rfl
@[simp] theorem State.answer_leases (m : Nat) (code : Code) (bytes : List Byte) : (s.answer m code bytes).leases = s.leases := rfl
@[simp] theorem State.answer_leaseLog (m : Nat) (code : Code) (bytes : List Byte) : (s.answer m code bytes).leaseLog = s.leaseLog := rfl
@[simp] theorem State.answer_cores (m : Nat) (code : Code) (bytes : List Byte) : (s.answer m code bytes).cores = s.cores := rfl
@[simp] theorem State.answer_l2 (m : Nat) (code : Code) (bytes : List Byte) : (s.answer m code bytes).l2 = s.l2 := rfl
@[simp] theorem State.answer_kettleRam (m : Nat) (code : Code) (bytes : List Byte) : (s.answer m code bytes).kettleRam = s.kettleRam := rfl
@[simp] theorem State.answer_sess (m : Nat) (code : Code) (bytes : List Byte) : (s.answer m code bytes).sess = s.sess := rfl
@[simp] theorem State.answer_beat (m : Nat) (code : Code) (bytes : List Byte) : (s.answer m code bytes).beat = s.beat := rfl
@[simp] theorem State.answer_later (m : Nat) (code : Code) (bytes : List Byte) : (s.answer m code bytes).later = s.later := rfl
@[simp] theorem State.answer_heldWrites (m : Nat) (code : Code) (bytes : List Byte) : (s.answer m code bytes).heldWrites = s.heldWrites := rfl
@[simp] theorem State.answer_spEnts (m : Nat) (code : Code) (bytes : List Byte) : (s.answer m code bytes).spEnts = s.spEnts := rfl
@[simp] theorem State.answer_spLocal (m : Nat) (code : Code) (bytes : List Byte) : (s.answer m code bytes).spLocal = s.spLocal := rfl
@[simp] theorem State.answer_tenantKeys (m : Nat) (code : Code) (bytes : List Byte) : (s.answer m code bytes).tenantKeys = s.tenantKeys := rfl
@[simp] theorem State.answer_vfs (m : Nat) (code : Code) (bytes : List Byte) : (s.answer m code bytes).vfs = s.vfs := rfl
@[simp] theorem State.answer_plyngen (m : Nat) (code : Code) (bytes : List Byte) : (s.answer m code bytes).plyngen = s.plyngen := rfl
@[simp] theorem State.answer_chipDue (m : Nat) (code : Code) (bytes : List Byte) : (s.answer m code bytes).chipDue = s.chipDue := rfl
@[simp] theorem State.answer_chipWhy (m : Nat) (code : Code) (bytes : List Byte) : (s.answer m code bytes).chipWhy = s.chipWhy := rfl
@[simp] theorem State.answer_reloadRegion (m : Nat) (code : Code) (bytes : List Byte) : (s.answer m code bytes).reloadRegion = s.reloadRegion := rfl
@[simp] theorem State.setCell_pending (k : Nat) (b : Byte) : (s.setCell k b).pending = s.pending := rfl
@[simp] theorem State.setCell_freeCtr (k : Nat) (b : Byte) : (s.setCell k b).freeCtr = s.freeCtr := rfl
@[simp] theorem State.setCell_sent (k : Nat) (b : Byte) : (s.setCell k b).sent = s.sent := rfl
@[simp] theorem State.setCell_phase (k : Nat) (b : Byte) : (s.setCell k b).phase = s.phase := rfl
@[simp] theorem State.setCell_root (k : Nat) (b : Byte) : (s.setCell k b).root = s.root := rfl
@[simp] theorem State.setCell_aon (k : Nat) (b : Byte) : (s.setCell k b).aon = s.aon := rfl
@[simp] theorem State.setCell_clk (k : Nat) (b : Byte) : (s.setCell k b).clk = s.clk := rfl
@[simp] theorem State.setCell_time (k : Nat) (b : Byte) : (s.setCell k b).time = s.time := rfl
@[simp] theorem State.setCell_pins (k : Nat) (b : Byte) : (s.setCell k b).pins = s.pins := rfl
@[simp] theorem State.setCell_regs (k : Nat) (b : Byte) : (s.setCell k b).regs = s.regs := rfl
@[simp] theorem State.setCell_latches (k : Nat) (b : Byte) : (s.setCell k b).latches = s.latches := rfl
@[simp] theorem State.setCell_outstanding (k : Nat) (b : Byte) : (s.setCell k b).outstanding = s.outstanding := rfl
@[simp] theorem State.setCell_responses (k : Nat) (b : Byte) : (s.setCell k b).responses = s.responses := rfl
@[simp] theorem State.setCell_fences (k : Nat) (b : Byte) : (s.setCell k b).fences = s.fences := rfl
@[simp] theorem State.setCell_heldReqs (k : Nat) (b : Byte) : (s.setCell k b).heldReqs = s.heldReqs := rfl
@[simp] theorem State.setCell_refusals (k : Nat) (b : Byte) : (s.setCell k b).refusals = s.refusals := rfl
@[simp] theorem State.setCell_stalls (k : Nat) (b : Byte) : (s.setCell k b).stalls = s.stalls := rfl
@[simp] theorem State.setCell_queues (k : Nat) (b : Byte) : (s.setCell k b).queues = s.queues := rfl
@[simp] theorem State.setCell_cups (k : Nat) (b : Byte) : (s.setCell k b).cups = s.cups := rfl
@[simp] theorem State.setCell_leaves (k : Nat) (b : Byte) : (s.setCell k b).leaves = s.leaves := rfl
@[simp] theorem State.setCell_streams (k : Nat) (b : Byte) : (s.setCell k b).streams = s.streams := rfl
@[simp] theorem State.setCell_cols (k : Nat) (b : Byte) : (s.setCell k b).cols = s.cols := rfl
@[simp] theorem State.setCell_quads (k : Nat) (b : Byte) : (s.setCell k b).quads = s.quads := rfl
@[simp] theorem State.setCell_lanes (k : Nat) (b : Byte) : (s.setCell k b).lanes = s.lanes := rfl
@[simp] theorem State.setCell_flitInj (k : Nat) (b : Byte) : (s.setCell k b).flitInj = s.flitInj := rfl
@[simp] theorem State.setCell_stks (k : Nat) (b : Byte) : (s.setCell k b).stks = s.stks := rfl
@[simp] theorem State.setCell_pchs (k : Nat) (b : Byte) : (s.setCell k b).pchs = s.pchs := rfl
@[simp] theorem State.setCell_banks (k : Nat) (b : Byte) : (s.setCell k b).banks = s.banks := rfl
@[simp] theorem State.setCell_rtps (k : Nat) (b : Byte) : (s.setCell k b).rtps = s.rtps := rfl
@[simp] theorem State.setCell_hbmHeld (k : Nat) (b : Byte) : (s.setCell k b).hbmHeld = s.hbmHeld := rfl
@[simp] theorem State.setCell_ranges (k : Nat) (b : Byte) : (s.setCell k b).ranges = s.ranges := rfl
@[simp] theorem State.setCell_nv (k : Nat) (b : Byte) : (s.setCell k b).nv = s.nv := rfl
@[simp] theorem State.setCell_caddy (k : Nat) (b : Byte) : (s.setCell k b).caddy = s.caddy := rfl
@[simp] theorem State.setCell_imgJobs (k : Nat) (b : Byte) : (s.setCell k b).imgJobs = s.imgJobs := rfl
@[simp] theorem State.setCell_hceJobs (k : Nat) (b : Byte) : (s.setCell k b).hceJobs = s.hceJobs := rfl
@[simp] theorem State.setCell_hcePipe (k : Nat) (b : Byte) : (s.setCell k b).hcePipe = s.hcePipe := rfl
@[simp] theorem State.setCell_hceLeft (k : Nat) (b : Byte) : (s.setCell k b).hceLeft = s.hceLeft := rfl
@[simp] theorem State.setCell_hceLast (k : Nat) (b : Byte) : (s.setCell k b).hceLast = s.hceLast := rfl
@[simp] theorem State.setCell_hceSlotNo (k : Nat) (b : Byte) : (s.setCell k b).hceSlotNo = s.hceSlotNo := rfl
@[simp] theorem State.setCell_hceMode (k : Nat) (b : Byte) : (s.setCell k b).hceMode = s.hceMode := rfl
@[simp] theorem State.setCell_links (k : Nat) (b : Byte) : (s.setCell k b).links = s.links := rfl
@[simp] theorem State.setCell_cas (k : Nat) (b : Byte) : (s.setCell k b).cas = s.cas := rfl
@[simp] theorem State.setCell_urn (k : Nat) (b : Byte) : (s.setCell k b).urn = s.urn := rfl
@[simp] theorem State.setCell_str (k : Nat) (b : Byte) : (s.setCell k b).str = s.str := rfl
@[simp] theorem State.setCell_leases (k : Nat) (b : Byte) : (s.setCell k b).leases = s.leases := rfl
@[simp] theorem State.setCell_leaseLog (k : Nat) (b : Byte) : (s.setCell k b).leaseLog = s.leaseLog := rfl
@[simp] theorem State.setCell_cores (k : Nat) (b : Byte) : (s.setCell k b).cores = s.cores := rfl
@[simp] theorem State.setCell_l2 (k : Nat) (b : Byte) : (s.setCell k b).l2 = s.l2 := rfl
@[simp] theorem State.setCell_kettleRam (k : Nat) (b : Byte) : (s.setCell k b).kettleRam = s.kettleRam := rfl
@[simp] theorem State.setCell_sess (k : Nat) (b : Byte) : (s.setCell k b).sess = s.sess := rfl
@[simp] theorem State.setCell_beat (k : Nat) (b : Byte) : (s.setCell k b).beat = s.beat := rfl
@[simp] theorem State.setCell_later (k : Nat) (b : Byte) : (s.setCell k b).later = s.later := rfl
@[simp] theorem State.setCell_heldWrites (k : Nat) (b : Byte) : (s.setCell k b).heldWrites = s.heldWrites := rfl
@[simp] theorem State.setCell_spEnts (k : Nat) (b : Byte) : (s.setCell k b).spEnts = s.spEnts := rfl
@[simp] theorem State.setCell_spLocal (k : Nat) (b : Byte) : (s.setCell k b).spLocal = s.spLocal := rfl
@[simp] theorem State.setCell_tenantKeys (k : Nat) (b : Byte) : (s.setCell k b).tenantKeys = s.tenantKeys := rfl
@[simp] theorem State.setCell_vfs (k : Nat) (b : Byte) : (s.setCell k b).vfs = s.vfs := rfl
@[simp] theorem State.setCell_plyngen (k : Nat) (b : Byte) : (s.setCell k b).plyngen = s.plyngen := rfl
@[simp] theorem State.setCell_chipDue (k : Nat) (b : Byte) : (s.setCell k b).chipDue = s.chipDue := rfl
@[simp] theorem State.setCell_chipWhy (k : Nat) (b : Byte) : (s.setCell k b).chipWhy = s.chipWhy := rfl
@[simp] theorem State.setCell_reloadRegion (k : Nat) (b : Byte) : (s.setCell k b).reloadRegion = s.reloadRegion := rfl
@[simp] theorem State.poisonLines_pending (lo hi : Nat) : (s.poisonLines lo hi).pending = s.pending := rfl
@[simp] theorem State.poisonLines_freeCtr (lo hi : Nat) : (s.poisonLines lo hi).freeCtr = s.freeCtr := rfl
@[simp] theorem State.poisonLines_sent (lo hi : Nat) : (s.poisonLines lo hi).sent = s.sent := rfl
@[simp] theorem State.poisonLines_phase (lo hi : Nat) : (s.poisonLines lo hi).phase = s.phase := rfl
@[simp] theorem State.poisonLines_root (lo hi : Nat) : (s.poisonLines lo hi).root = s.root := rfl
@[simp] theorem State.poisonLines_aon (lo hi : Nat) : (s.poisonLines lo hi).aon = s.aon := rfl
@[simp] theorem State.poisonLines_clk (lo hi : Nat) : (s.poisonLines lo hi).clk = s.clk := rfl
@[simp] theorem State.poisonLines_time (lo hi : Nat) : (s.poisonLines lo hi).time = s.time := rfl
@[simp] theorem State.poisonLines_pins (lo hi : Nat) : (s.poisonLines lo hi).pins = s.pins := rfl
@[simp] theorem State.poisonLines_regs (lo hi : Nat) : (s.poisonLines lo hi).regs = s.regs := rfl
@[simp] theorem State.poisonLines_latches (lo hi : Nat) : (s.poisonLines lo hi).latches = s.latches := rfl
@[simp] theorem State.poisonLines_outstanding (lo hi : Nat) : (s.poisonLines lo hi).outstanding = s.outstanding := rfl
@[simp] theorem State.poisonLines_responses (lo hi : Nat) : (s.poisonLines lo hi).responses = s.responses := rfl
@[simp] theorem State.poisonLines_fences (lo hi : Nat) : (s.poisonLines lo hi).fences = s.fences := rfl
@[simp] theorem State.poisonLines_heldReqs (lo hi : Nat) : (s.poisonLines lo hi).heldReqs = s.heldReqs := rfl
@[simp] theorem State.poisonLines_refusals (lo hi : Nat) : (s.poisonLines lo hi).refusals = s.refusals := rfl
@[simp] theorem State.poisonLines_stalls (lo hi : Nat) : (s.poisonLines lo hi).stalls = s.stalls := rfl
@[simp] theorem State.poisonLines_queues (lo hi : Nat) : (s.poisonLines lo hi).queues = s.queues := rfl
@[simp] theorem State.poisonLines_cups (lo hi : Nat) : (s.poisonLines lo hi).cups = s.cups := rfl
@[simp] theorem State.poisonLines_leaves (lo hi : Nat) : (s.poisonLines lo hi).leaves = s.leaves := rfl
@[simp] theorem State.poisonLines_streams (lo hi : Nat) : (s.poisonLines lo hi).streams = s.streams := rfl
@[simp] theorem State.poisonLines_cols (lo hi : Nat) : (s.poisonLines lo hi).cols = s.cols := rfl
@[simp] theorem State.poisonLines_quads (lo hi : Nat) : (s.poisonLines lo hi).quads = s.quads := rfl
@[simp] theorem State.poisonLines_lanes (lo hi : Nat) : (s.poisonLines lo hi).lanes = s.lanes := rfl
@[simp] theorem State.poisonLines_flitInj (lo hi : Nat) : (s.poisonLines lo hi).flitInj = s.flitInj := rfl
@[simp] theorem State.poisonLines_stks (lo hi : Nat) : (s.poisonLines lo hi).stks = s.stks := rfl
@[simp] theorem State.poisonLines_pchs (lo hi : Nat) : (s.poisonLines lo hi).pchs = s.pchs := rfl
@[simp] theorem State.poisonLines_banks (lo hi : Nat) : (s.poisonLines lo hi).banks = s.banks := rfl
@[simp] theorem State.poisonLines_rtps (lo hi : Nat) : (s.poisonLines lo hi).rtps = s.rtps := rfl
@[simp] theorem State.poisonLines_hbmHeld (lo hi : Nat) : (s.poisonLines lo hi).hbmHeld = s.hbmHeld := rfl
@[simp] theorem State.poisonLines_ranges (lo hi : Nat) : (s.poisonLines lo hi).ranges = s.ranges := rfl
@[simp] theorem State.poisonLines_nv (lo hi : Nat) : (s.poisonLines lo hi).nv = s.nv := rfl
@[simp] theorem State.poisonLines_caddy (lo hi : Nat) : (s.poisonLines lo hi).caddy = s.caddy := rfl
@[simp] theorem State.poisonLines_imgJobs (lo hi : Nat) : (s.poisonLines lo hi).imgJobs = s.imgJobs := rfl
@[simp] theorem State.poisonLines_hceJobs (lo hi : Nat) : (s.poisonLines lo hi).hceJobs = s.hceJobs := rfl
@[simp] theorem State.poisonLines_hcePipe (lo hi : Nat) : (s.poisonLines lo hi).hcePipe = s.hcePipe := rfl
@[simp] theorem State.poisonLines_hceLeft (lo hi : Nat) : (s.poisonLines lo hi).hceLeft = s.hceLeft := rfl
@[simp] theorem State.poisonLines_hceLast (lo hi : Nat) : (s.poisonLines lo hi).hceLast = s.hceLast := rfl
@[simp] theorem State.poisonLines_hceSlotNo (lo hi : Nat) : (s.poisonLines lo hi).hceSlotNo = s.hceSlotNo := rfl
@[simp] theorem State.poisonLines_hceMode (lo hi : Nat) : (s.poisonLines lo hi).hceMode = s.hceMode := rfl
@[simp] theorem State.poisonLines_links (lo hi : Nat) : (s.poisonLines lo hi).links = s.links := rfl
@[simp] theorem State.poisonLines_cas (lo hi : Nat) : (s.poisonLines lo hi).cas = s.cas := rfl
@[simp] theorem State.poisonLines_urn (lo hi : Nat) : (s.poisonLines lo hi).urn = s.urn := rfl
@[simp] theorem State.poisonLines_str (lo hi : Nat) : (s.poisonLines lo hi).str = s.str := rfl
@[simp] theorem State.poisonLines_leases (lo hi : Nat) : (s.poisonLines lo hi).leases = s.leases := rfl
@[simp] theorem State.poisonLines_leaseLog (lo hi : Nat) : (s.poisonLines lo hi).leaseLog = s.leaseLog := rfl
@[simp] theorem State.poisonLines_cores (lo hi : Nat) : (s.poisonLines lo hi).cores = s.cores := rfl
@[simp] theorem State.poisonLines_l2 (lo hi : Nat) : (s.poisonLines lo hi).l2 = s.l2 := rfl
@[simp] theorem State.poisonLines_kettleRam (lo hi : Nat) : (s.poisonLines lo hi).kettleRam = s.kettleRam := rfl
@[simp] theorem State.poisonLines_sess (lo hi : Nat) : (s.poisonLines lo hi).sess = s.sess := rfl
@[simp] theorem State.poisonLines_beat (lo hi : Nat) : (s.poisonLines lo hi).beat = s.beat := rfl
@[simp] theorem State.poisonLines_later (lo hi : Nat) : (s.poisonLines lo hi).later = s.later := rfl
@[simp] theorem State.poisonLines_heldWrites (lo hi : Nat) : (s.poisonLines lo hi).heldWrites = s.heldWrites := rfl
@[simp] theorem State.poisonLines_spEnts (lo hi : Nat) : (s.poisonLines lo hi).spEnts = s.spEnts := rfl
@[simp] theorem State.poisonLines_spLocal (lo hi : Nat) : (s.poisonLines lo hi).spLocal = s.spLocal := rfl
@[simp] theorem State.poisonLines_tenantKeys (lo hi : Nat) : (s.poisonLines lo hi).tenantKeys = s.tenantKeys := rfl
@[simp] theorem State.poisonLines_vfs (lo hi : Nat) : (s.poisonLines lo hi).vfs = s.vfs := rfl
@[simp] theorem State.poisonLines_plyngen (lo hi : Nat) : (s.poisonLines lo hi).plyngen = s.plyngen := rfl
@[simp] theorem State.poisonLines_chipDue (lo hi : Nat) : (s.poisonLines lo hi).chipDue = s.chipDue := rfl
@[simp] theorem State.poisonLines_chipWhy (lo hi : Nat) : (s.poisonLines lo hi).chipWhy = s.chipWhy := rfl
@[simp] theorem State.poisonLines_reloadRegion (lo hi : Nat) : (s.poisonLines lo hi).reloadRegion = s.reloadRegion := rfl
@[simp] theorem State.storePut_pending (a : Nat) (data : List Byte) : (s.storePut a data).pending = s.pending := rfl
@[simp] theorem State.storePut_freeCtr (a : Nat) (data : List Byte) : (s.storePut a data).freeCtr = s.freeCtr := rfl
@[simp] theorem State.storePut_sent (a : Nat) (data : List Byte) : (s.storePut a data).sent = s.sent := rfl
@[simp] theorem State.storePut_phase (a : Nat) (data : List Byte) : (s.storePut a data).phase = s.phase := rfl
@[simp] theorem State.storePut_root (a : Nat) (data : List Byte) : (s.storePut a data).root = s.root := rfl
@[simp] theorem State.storePut_aon (a : Nat) (data : List Byte) : (s.storePut a data).aon = s.aon := rfl
@[simp] theorem State.storePut_clk (a : Nat) (data : List Byte) : (s.storePut a data).clk = s.clk := rfl
@[simp] theorem State.storePut_time (a : Nat) (data : List Byte) : (s.storePut a data).time = s.time := rfl
@[simp] theorem State.storePut_pins (a : Nat) (data : List Byte) : (s.storePut a data).pins = s.pins := rfl
@[simp] theorem State.storePut_regs (a : Nat) (data : List Byte) : (s.storePut a data).regs = s.regs := rfl
@[simp] theorem State.storePut_latches (a : Nat) (data : List Byte) : (s.storePut a data).latches = s.latches := rfl
@[simp] theorem State.storePut_outstanding (a : Nat) (data : List Byte) : (s.storePut a data).outstanding = s.outstanding := rfl
@[simp] theorem State.storePut_responses (a : Nat) (data : List Byte) : (s.storePut a data).responses = s.responses := rfl
@[simp] theorem State.storePut_fences (a : Nat) (data : List Byte) : (s.storePut a data).fences = s.fences := rfl
@[simp] theorem State.storePut_heldReqs (a : Nat) (data : List Byte) : (s.storePut a data).heldReqs = s.heldReqs := rfl
@[simp] theorem State.storePut_refusals (a : Nat) (data : List Byte) : (s.storePut a data).refusals = s.refusals := rfl
@[simp] theorem State.storePut_stalls (a : Nat) (data : List Byte) : (s.storePut a data).stalls = s.stalls := rfl
@[simp] theorem State.storePut_queues (a : Nat) (data : List Byte) : (s.storePut a data).queues = s.queues := rfl
@[simp] theorem State.storePut_cups (a : Nat) (data : List Byte) : (s.storePut a data).cups = s.cups := rfl
@[simp] theorem State.storePut_leaves (a : Nat) (data : List Byte) : (s.storePut a data).leaves = s.leaves := rfl
@[simp] theorem State.storePut_streams (a : Nat) (data : List Byte) : (s.storePut a data).streams = s.streams := rfl
@[simp] theorem State.storePut_cols (a : Nat) (data : List Byte) : (s.storePut a data).cols = s.cols := rfl
@[simp] theorem State.storePut_quads (a : Nat) (data : List Byte) : (s.storePut a data).quads = s.quads := rfl
@[simp] theorem State.storePut_lanes (a : Nat) (data : List Byte) : (s.storePut a data).lanes = s.lanes := rfl
@[simp] theorem State.storePut_flitInj (a : Nat) (data : List Byte) : (s.storePut a data).flitInj = s.flitInj := rfl
@[simp] theorem State.storePut_stks (a : Nat) (data : List Byte) : (s.storePut a data).stks = s.stks := rfl
@[simp] theorem State.storePut_pchs (a : Nat) (data : List Byte) : (s.storePut a data).pchs = s.pchs := rfl
@[simp] theorem State.storePut_banks (a : Nat) (data : List Byte) : (s.storePut a data).banks = s.banks := rfl
@[simp] theorem State.storePut_rtps (a : Nat) (data : List Byte) : (s.storePut a data).rtps = s.rtps := rfl
@[simp] theorem State.storePut_hbmHeld (a : Nat) (data : List Byte) : (s.storePut a data).hbmHeld = s.hbmHeld := rfl
@[simp] theorem State.storePut_hbm (a : Nat) (data : List Byte) : (s.storePut a data).hbm = s.hbm := rfl
@[simp] theorem State.storePut_ranges (a : Nat) (data : List Byte) : (s.storePut a data).ranges = s.ranges := rfl
@[simp] theorem State.storePut_caddy (a : Nat) (data : List Byte) : (s.storePut a data).caddy = s.caddy := rfl
@[simp] theorem State.storePut_imgJobs (a : Nat) (data : List Byte) : (s.storePut a data).imgJobs = s.imgJobs := rfl
@[simp] theorem State.storePut_hceJobs (a : Nat) (data : List Byte) : (s.storePut a data).hceJobs = s.hceJobs := rfl
@[simp] theorem State.storePut_hcePipe (a : Nat) (data : List Byte) : (s.storePut a data).hcePipe = s.hcePipe := rfl
@[simp] theorem State.storePut_hceLeft (a : Nat) (data : List Byte) : (s.storePut a data).hceLeft = s.hceLeft := rfl
@[simp] theorem State.storePut_hceLast (a : Nat) (data : List Byte) : (s.storePut a data).hceLast = s.hceLast := rfl
@[simp] theorem State.storePut_hceSlotNo (a : Nat) (data : List Byte) : (s.storePut a data).hceSlotNo = s.hceSlotNo := rfl
@[simp] theorem State.storePut_hceMode (a : Nat) (data : List Byte) : (s.storePut a data).hceMode = s.hceMode := rfl
@[simp] theorem State.storePut_links (a : Nat) (data : List Byte) : (s.storePut a data).links = s.links := rfl
@[simp] theorem State.storePut_cas (a : Nat) (data : List Byte) : (s.storePut a data).cas = s.cas := rfl
@[simp] theorem State.storePut_urn (a : Nat) (data : List Byte) : (s.storePut a data).urn = s.urn := rfl
@[simp] theorem State.storePut_str (a : Nat) (data : List Byte) : (s.storePut a data).str = s.str := rfl
@[simp] theorem State.storePut_leases (a : Nat) (data : List Byte) : (s.storePut a data).leases = s.leases := rfl
@[simp] theorem State.storePut_leaseLog (a : Nat) (data : List Byte) : (s.storePut a data).leaseLog = s.leaseLog := rfl
@[simp] theorem State.storePut_cores (a : Nat) (data : List Byte) : (s.storePut a data).cores = s.cores := rfl
@[simp] theorem State.storePut_l2 (a : Nat) (data : List Byte) : (s.storePut a data).l2 = s.l2 := rfl
@[simp] theorem State.storePut_kettleRam (a : Nat) (data : List Byte) : (s.storePut a data).kettleRam = s.kettleRam := rfl
@[simp] theorem State.storePut_sess (a : Nat) (data : List Byte) : (s.storePut a data).sess = s.sess := rfl
@[simp] theorem State.storePut_beat (a : Nat) (data : List Byte) : (s.storePut a data).beat = s.beat := rfl
@[simp] theorem State.storePut_later (a : Nat) (data : List Byte) : (s.storePut a data).later = s.later := rfl
@[simp] theorem State.storePut_heldWrites (a : Nat) (data : List Byte) : (s.storePut a data).heldWrites = s.heldWrites := rfl
@[simp] theorem State.storePut_spEnts (a : Nat) (data : List Byte) : (s.storePut a data).spEnts = s.spEnts := rfl
@[simp] theorem State.storePut_spLocal (a : Nat) (data : List Byte) : (s.storePut a data).spLocal = s.spLocal := rfl
@[simp] theorem State.storePut_tenantKeys (a : Nat) (data : List Byte) : (s.storePut a data).tenantKeys = s.tenantKeys := rfl
@[simp] theorem State.storePut_vfs (a : Nat) (data : List Byte) : (s.storePut a data).vfs = s.vfs := rfl
@[simp] theorem State.storePut_plyngen (a : Nat) (data : List Byte) : (s.storePut a data).plyngen = s.plyngen := rfl
@[simp] theorem State.storePut_chipDue (a : Nat) (data : List Byte) : (s.storePut a data).chipDue = s.chipDue := rfl
@[simp] theorem State.storePut_chipWhy (a : Nat) (data : List Byte) : (s.storePut a data).chipWhy = s.chipWhy := rfl
@[simp] theorem State.storePut_reloadRegion (a : Nat) (data : List Byte) : (s.storePut a data).reloadRegion = s.reloadRegion := rfl
@[simp] theorem State.push_freeCtr (i : Instr) : (s.push i).freeCtr = s.freeCtr := rfl
@[simp] theorem State.push_sent (i : Instr) : (s.push i).sent = s.sent := rfl
@[simp] theorem State.push_phase (i : Instr) : (s.push i).phase = s.phase := rfl
@[simp] theorem State.push_root (i : Instr) : (s.push i).root = s.root := rfl
@[simp] theorem State.push_aon (i : Instr) : (s.push i).aon = s.aon := rfl
@[simp] theorem State.push_clk (i : Instr) : (s.push i).clk = s.clk := rfl
@[simp] theorem State.push_time (i : Instr) : (s.push i).time = s.time := rfl
@[simp] theorem State.push_pins (i : Instr) : (s.push i).pins = s.pins := rfl
@[simp] theorem State.push_regs (i : Instr) : (s.push i).regs = s.regs := rfl
@[simp] theorem State.push_latches (i : Instr) : (s.push i).latches = s.latches := rfl
@[simp] theorem State.push_outstanding (i : Instr) : (s.push i).outstanding = s.outstanding := rfl
@[simp] theorem State.push_responses (i : Instr) : (s.push i).responses = s.responses := rfl
@[simp] theorem State.push_fences (i : Instr) : (s.push i).fences = s.fences := rfl
@[simp] theorem State.push_heldReqs (i : Instr) : (s.push i).heldReqs = s.heldReqs := rfl
@[simp] theorem State.push_refusals (i : Instr) : (s.push i).refusals = s.refusals := rfl
@[simp] theorem State.push_stalls (i : Instr) : (s.push i).stalls = s.stalls := rfl
@[simp] theorem State.push_queues (i : Instr) : (s.push i).queues = s.queues := rfl
@[simp] theorem State.push_cups (i : Instr) : (s.push i).cups = s.cups := rfl
@[simp] theorem State.push_leaves (i : Instr) : (s.push i).leaves = s.leaves := rfl
@[simp] theorem State.push_streams (i : Instr) : (s.push i).streams = s.streams := rfl
@[simp] theorem State.push_cols (i : Instr) : (s.push i).cols = s.cols := rfl
@[simp] theorem State.push_quads (i : Instr) : (s.push i).quads = s.quads := rfl
@[simp] theorem State.push_lanes (i : Instr) : (s.push i).lanes = s.lanes := rfl
@[simp] theorem State.push_flitInj (i : Instr) : (s.push i).flitInj = s.flitInj := rfl
@[simp] theorem State.push_stks (i : Instr) : (s.push i).stks = s.stks := rfl
@[simp] theorem State.push_pchs (i : Instr) : (s.push i).pchs = s.pchs := rfl
@[simp] theorem State.push_banks (i : Instr) : (s.push i).banks = s.banks := rfl
@[simp] theorem State.push_rtps (i : Instr) : (s.push i).rtps = s.rtps := rfl
@[simp] theorem State.push_hbmHeld (i : Instr) : (s.push i).hbmHeld = s.hbmHeld := rfl
@[simp] theorem State.push_hbm (i : Instr) : (s.push i).hbm = s.hbm := rfl
@[simp] theorem State.push_ranges (i : Instr) : (s.push i).ranges = s.ranges := rfl
@[simp] theorem State.push_nv (i : Instr) : (s.push i).nv = s.nv := rfl
@[simp] theorem State.push_caddy (i : Instr) : (s.push i).caddy = s.caddy := rfl
@[simp] theorem State.push_imgJobs (i : Instr) : (s.push i).imgJobs = s.imgJobs := rfl
@[simp] theorem State.push_hceJobs (i : Instr) : (s.push i).hceJobs = s.hceJobs := rfl
@[simp] theorem State.push_hcePipe (i : Instr) : (s.push i).hcePipe = s.hcePipe := rfl
@[simp] theorem State.push_hceLeft (i : Instr) : (s.push i).hceLeft = s.hceLeft := rfl
@[simp] theorem State.push_hceLast (i : Instr) : (s.push i).hceLast = s.hceLast := rfl
@[simp] theorem State.push_hceSlotNo (i : Instr) : (s.push i).hceSlotNo = s.hceSlotNo := rfl
@[simp] theorem State.push_hceMode (i : Instr) : (s.push i).hceMode = s.hceMode := rfl
@[simp] theorem State.push_links (i : Instr) : (s.push i).links = s.links := rfl
@[simp] theorem State.push_cas (i : Instr) : (s.push i).cas = s.cas := rfl
@[simp] theorem State.push_urn (i : Instr) : (s.push i).urn = s.urn := rfl
@[simp] theorem State.push_str (i : Instr) : (s.push i).str = s.str := rfl
@[simp] theorem State.push_leases (i : Instr) : (s.push i).leases = s.leases := rfl
@[simp] theorem State.push_leaseLog (i : Instr) : (s.push i).leaseLog = s.leaseLog := rfl
@[simp] theorem State.push_cores (i : Instr) : (s.push i).cores = s.cores := rfl
@[simp] theorem State.push_l2 (i : Instr) : (s.push i).l2 = s.l2 := rfl
@[simp] theorem State.push_kettleRam (i : Instr) : (s.push i).kettleRam = s.kettleRam := rfl
@[simp] theorem State.push_sess (i : Instr) : (s.push i).sess = s.sess := rfl
@[simp] theorem State.push_beat (i : Instr) : (s.push i).beat = s.beat := rfl
@[simp] theorem State.push_later (i : Instr) : (s.push i).later = s.later := rfl
@[simp] theorem State.push_heldWrites (i : Instr) : (s.push i).heldWrites = s.heldWrites := rfl
@[simp] theorem State.push_spEnts (i : Instr) : (s.push i).spEnts = s.spEnts := rfl
@[simp] theorem State.push_spLocal (i : Instr) : (s.push i).spLocal = s.spLocal := rfl
@[simp] theorem State.push_tenantKeys (i : Instr) : (s.push i).tenantKeys = s.tenantKeys := rfl
@[simp] theorem State.push_vfs (i : Instr) : (s.push i).vfs = s.vfs := rfl
@[simp] theorem State.push_plyngen (i : Instr) : (s.push i).plyngen = s.plyngen := rfl
@[simp] theorem State.push_chipDue (i : Instr) : (s.push i).chipDue = s.chipDue := rfl
@[simp] theorem State.push_chipWhy (i : Instr) : (s.push i).chipWhy = s.chipWhy := rfl
@[simp] theorem State.push_reloadRegion (i : Instr) : (s.push i).reloadRegion = s.reloadRegion := rfl

end Sys2Proof.Machine
end

