-- ==== Sys2Proof/Laws/Regs.lean ====
section
/-! SUPPORT. The register file: what a write leaves readable, and fields of words. -/

namespace Sys2Proof.Machine

/-! ### Registers -/

/-- A register reads what was written to it. -/
@[simp] theorem State.reg_setReg_self (s : State) (k : RegKey) (w : Word) : (s.setReg k w).reg k = w :=
  lookD_putD_self keyLt s.regs k w (resetVal k)

/-- A write of one register leaves every other. -/
theorem State.reg_setReg_ne (s : State) {k j : RegKey} (w : Word) (h : j ≠ k) : (s.setReg k w).reg j = s.reg j :=
  lookD_putD_ne keyLt s.regs k j w (resetVal k) (resetVal j) h

/-- A write of one register, read at any. -/
theorem State.reg_setReg (s : State) (k j : RegKey) (w : Word) :
    (s.setReg k w).reg j = if j = k then w else s.reg j := by
  split
  · rename_i h; subst h; exact s.reg_setReg_self j w
  · rename_i h; exact s.reg_setReg_ne w h

/-- A field write, read at any register. -/
theorem State.reg_setFld (s : State) (k j : RegKey) (hi lo v : Nat) :
    (s.setFld k hi lo v).reg j = if j = k then putBits (s.reg k) hi lo v else s.reg j := s.reg_setReg k j _

/-- A bit write, read at any register. -/
theorem State.reg_setFlag (s : State) (k j : RegKey) (n : Nat) (b : Bool) :
    (s.setFlag k n b).reg j = if j = k then putBits (s.reg k) n n (if b then 1 else 0) else s.reg j := s.reg_setReg k j _

/-- A plain write, read at any register. -/
theorem State.reg_plainWrite (s : State) (k j : RegKey) (v : Word) :
    (s.plainWrite k v).reg j = if j = k then mergeWrite k.name (s.reg k) v else s.reg j := s.reg_setReg k j _

/-- The registers depend on the register file alone. -/
theorem State.reg_congr {s t : State} (h : t.regs = s.regs) (k : RegKey) : t.reg k = s.reg k := by
  unfold State.reg; rw [h]

/-- The stored bytes depend on the memory alone. -/
theorem State.cell_congr {s t : State} (h : t.hbm = s.hbm) (a : Nat) : t.cell a = s.cell a := by
  unfold State.cell; rw [h]

/-- An update that leaves the memory leaves every byte. -/
theorem State.keepsHbm_of_eq {s t : State} (h : t.hbm = s.hbm) : s.keepsHbm t := fun a => State.cell_congr h a

/-! ### Fields -/

/-- A bit of a word whose field was written. -/
theorem getLsbD_putBits (w : Word) (hi lo v i : Nat) :
    (putBits w hi lo v).getLsbD i =
      if i < 32 ∧ lo ≤ i ∧ i < lo + (hi + 1 - lo) then v.testBit (i - lo) else w.getLsbD i := by
  unfold putBits fieldMask
  simp only [BitVec.getLsbD_or, BitVec.getLsbD_and, BitVec.getLsbD_not, BitVec.getLsbD_ofNat, Nat.testBit_shiftLeft,
    Nat.testBit_two_pow_sub_one]
  by_cases h32 : i < 32
  · by_cases hl : lo ≤ i
    · by_cases hh : i < lo + (hi + 1 - lo)
      · have : i - lo < hi + 1 - lo := by omega
        simp [h32, hl, hh, this]
      · have : ¬ i - lo < hi + 1 - lo := by omega
        simp [h32, hl, hh, this]
    · simp [h32, hl]
  · have := BitVec.getLsbD_of_ge w i (by omega)
    simp [h32, this]

/-- A bit reads what its write gave. -/
@[simp] theorem bit_putBits_self (w : Word) (n : Nat) (b : Bool) (h : n < 32) :
    bit (putBits w n n (if b then 1 else 0)) n = b := by
  unfold bit
  rw [getLsbD_putBits]
  have : n < n + (n + 1 - n) := by omega
  cases b <;> simp [h]

/-- A field write leaves the bits outside the field. -/
theorem bit_putBits_ne (w : Word) (hi lo v n : Nat) (h : n < lo ∨ hi < n) : bit (putBits w hi lo v) n = bit w n := by
  unfold bit
  rw [getLsbD_putBits, if_neg (by omega)]

/-- A bit of a field value. -/
theorem testBit_bits (w : Word) (hi lo i : Nat) :
    (bits w hi lo).testBit i = (decide (i < hi + 1 - lo) && w.getLsbD (lo + i)) := by
  unfold bits
  rw [Nat.testBit_mod_two_pow, Nat.testBit_shiftRight]
  rfl

/-- A field reads what its write gave, cut to its width. -/
theorem bits_putBits_self (w : Word) (hi lo v : Nat) (h : hi < 32) :
    bits (putBits w hi lo v) hi lo = v % 2 ^ (hi + 1 - lo) := by
  apply Nat.eq_of_testBit_eq
  intro i
  rw [testBit_bits, getLsbD_putBits, Nat.testBit_mod_two_pow]
  by_cases hi' : i < hi + 1 - lo
  · rw [if_pos (by omega)]
    simp [hi']
  · simp [hi']

/-- A field write leaves every field that does not meet it. -/
theorem bits_putBits_ne (w : Word) (hi lo v hi' lo' : Nat) (h : hi' < lo ∨ hi < lo') :
    bits (putBits w hi lo v) hi' lo' = bits w hi' lo' := by
  apply Nat.eq_of_testBit_eq
  intro i
  rw [testBit_bits, testBit_bits, getLsbD_putBits]
  by_cases hi2 : i < hi' + 1 - lo'
  · rw [if_neg (by omega)]
  · simp [hi2]

/-- The flag of a bit just written. -/
@[simp] theorem State.flag_setFlag_self (s : State) (k : RegKey) (n : Nat) (b : Bool) (h : n < 32) :
    (s.setFlag k n b).flag k n = b := by
  unfold State.flag State.setFlag State.setFld
  rw [State.reg_setReg_self]
  exact bit_putBits_self _ n b h

/-- The field just written. -/
theorem State.fld_setFld_self (s : State) (k : RegKey) (hi lo v : Nat) (h : hi < 32) :
    (s.setFld k hi lo v).fld k hi lo = v % 2 ^ (hi + 1 - lo) := by
  unfold State.fld State.setFld
  rw [State.reg_setReg_self]
  exact bits_putBits_self _ hi lo v h

end Sys2Proof.Machine
end

