-- ==== Sys2Proof/Laws/Digest.lean ====
section
/-! SUPPORT. Registers written in a row, and digests kept in twelve registers: a stored digest reads back. -/

namespace Sys2Proof.Machine

/-- Writes of registers in a row leave every other register. -/
theorem State.reg_foldl_setReg_ne {ι : Type} (l : List ι) (f : ι → RegKey) (g : ι → Word) (k : RegKey) (s : State)
    (h : ∀ j ∈ l, k ≠ f j) : (l.foldl (fun (s : State) j => s.setReg (f j) (g j)) s).reg k = s.reg k := by
  induction l generalizing s with
  | nil => rfl
  | cons a l ih =>
    rw [List.foldl_cons, ih _ fun j hj => h j (List.mem_cons_of_mem _ hj)]
    exact State.reg_setReg_ne _ _ (h a List.mem_cons_self)

/-- Writes of distinct registers in a row give each its word. -/
theorem State.reg_foldl_setReg_mem {ι : Type} (l : List ι) (f : ι → RegKey) (g : ι → Word) (s : State) (j : ι)
    (hj : j ∈ l) (hn : l.Nodup) (hf : ∀ a b, f a = f b → a = b) :
    (l.foldl (fun (s : State) j => s.setReg (f j) (g j)) s).reg (f j) = g j := by
  induction l generalizing s with
  | nil => cases hj
  | cons a l ih =>
    rw [List.nodup_cons] at hn
    rw [List.foldl_cons]
    by_cases e : j = a
    · subst e
      rw [State.reg_foldl_setReg_ne l f g (f j) _ fun i hi he => hn.1 (by rw [hf _ _ he]; exact hi)]
      exact State.reg_setReg_self _ _ _
    · exact ih _ ((List.mem_cons.mp hj).resolve_left e) hn.2

/-- Writes of registers in a row change the register file alone. -/
theorem State.foldl_setReg_eq {ι : Type} (l : List ι) (f : ι → RegKey) (g : ι → Word) (s : State) :
    l.foldl (fun (s : State) j => s.setReg (f j) (g j)) s =
      { s with regs := (l.foldl (fun (s : State) j => s.setReg (f j) (g j)) s).regs } := by
  induction l generalizing s with
  | nil => rfl
  | cons a l ih => rw [List.foldl_cons, ih]; rfl

/-- The words of a stored digest. -/
theorem State.reg_setDigest (s : State) (n : RegName) (c j : Nat) (d : BitVec 384) (h : j < 12) :
    (s.setDigest n c d).reg ⟨n, c, j⟩ = BitVec.ofNat 32 (d.toNat / 2 ^ (32 * j)) :=
  State.reg_foldl_setReg_mem _ (fun j => ⟨n, c, j⟩) (fun j => BitVec.ofNat 32 (d.toNat / 2 ^ (32 * j))) s j
    (List.mem_range.mpr h) List.nodup_range (fun a b e => by cases e; rfl)

/-- A stored digest leaves the other registers. -/
theorem State.reg_setDigest_ne (s : State) (n : RegName) (c : Nat) (d : BitVec 384) (k : RegKey)
    (h : k.name ≠ n ∨ k.i ≠ c) : (s.setDigest n c d).reg k = s.reg k := by
  refine State.reg_foldl_setReg_ne _ _ _ _ _ fun j _ e => ?_
  subst e
  simp at h

/-- A stored digest changes the register file alone. -/
theorem State.setDigest_eq (s : State) (n : RegName) (c : Nat) (d : BitVec 384) :
    s.setDigest n c d = { s with regs := (s.setDigest n c d).regs } := State.foldl_setReg_eq _ _ _ _

/-- The number that words make, lowest first. -/
theorem foldr_words (x l m : Nat) :
    (List.range' m l).foldr (fun j acc => (BitVec.ofNat 32 (x / 2 ^ (32 * j))).toNat + 2 ^ 32 * acc) 0 =
      x / 2 ^ (32 * m) % 2 ^ (32 * l) := by
  induction l generalizing m with
  | zero => simp [Nat.mod_one]
  | succ l ih =>
    rw [List.range'_succ, List.foldr_cons, ih, BitVec.toNat_ofNat]
    have h1 : x / 2 ^ (32 * (m + 1)) = x / 2 ^ (32 * m) / 2 ^ 32 := by
      rw [Nat.div_div_eq_div_mul, ← Nat.pow_add]; congr 2
    have h2 : 2 ^ (32 * (l + 1)) = 2 ^ 32 * 2 ^ (32 * l) := by rw [← Nat.pow_add]; congr 1; omega
    rw [h1, h2, Nat.mod_mul]

/-- A stored digest reads back. -/
theorem State.digest_setDigest (s : State) (n : RegName) (c : Nat) (d : BitVec 384) :
    (s.setDigest n c d).digest n c = d := by
  have e : (List.range 12).foldr (fun j acc => ((s.setDigest n c d).reg ⟨n, c, j⟩).toNat + 2 ^ 32 * acc) 0 =
      (List.range 12).foldr (fun j acc => (BitVec.ofNat 32 (d.toNat / 2 ^ (32 * j))).toNat + 2 ^ 32 * acc) 0 := by
    refine List.foldr_ext _ _ _ fun j hj acc => ?_
    rw [State.reg_setDigest s n c j d (List.mem_range.mp hj)]
  unfold State.digest
  rw [e, List.range_eq_range', foldr_words, Nat.mul_zero, Nat.pow_zero, Nat.div_one]
  apply BitVec.eq_of_toNat_eq
  have hd : d.toNat < 2 ^ (32 * 12) := d.isLt
  rw [BitVec.toNat_ofNat, Nat.mod_eq_of_lt hd]
  exact Nat.mod_eq_of_lt d.isLt

/-- A digest depends on its registers alone. -/
theorem State.digest_congr {s t : State} {n : RegName} {c : Nat} (h : ∀ j, t.reg ⟨n, c, j⟩ = s.reg ⟨n, c, j⟩) :
    t.digest n c = s.digest n c := by
  unfold State.digest; simp only [h]

end Sys2Proof.Machine
end

