-- ==== Sys2Proof/Laws/Events.lean ====
section
/-! SUPPORT. What raising an event can change, said once: registers of STR and CAD_STAT, outputs, the event queues, the
Caddy buffer and the status buffers of cups; and behind that, only where the source's reaction is BLOCK, what a BLOCK reset
of its block changes. -/

namespace Sys2Proof.Machine

/-- What an event may change, its reaction apart. -/
structure EventFrame (s t : State) : Prop where
  rest : t = { s with regs := t.regs, sent := t.sent, cups := t.cups, str := t.str, caddy := t.caddy, chipDue := t.chipDue,
                      chipWhy := t.chipWhy, reloadRegion := t.reloadRegion }
  cup : ∀ c, ∃ l k, t.cup c = { s.cup c with status := l, statusLost := k }
  reg : ∀ k, blkOf k.name ≠ .str → k ≠ ⟨.cadStat, 0, 0⟩ → t.reg k = s.reg k
  sent : ∃ l, t.sent = l ++ s.sent

variable {s t u : State}

theorem EventFrame.refl (s : State) : EventFrame s s where
  rest := rfl
  cup _ := ⟨_, _, rfl⟩
  reg _ _ _ := rfl
  sent := ⟨[], rfl⟩

theorem EventFrame.trans (h : EventFrame s t) (g : EventFrame t u) : EventFrame s u where
  rest := by
    have e := g.rest
    rw [h.rest] at e
    exact e
  cup c := by
    obtain ⟨l, k, a⟩ := h.cup c
    obtain ⟨l', k', b⟩ := g.cup c
    exact ⟨l', k', by rw [b, a]⟩
  reg k a b := (g.reg k a b).trans (h.reg k a b)
  sent := by
    obtain ⟨l, a⟩ := h.sent
    obtain ⟨l', b⟩ := g.sent
    exact ⟨l' ++ l, by rw [b, a, List.append_assoc]⟩

/-- A fold of steps that each keep the frame keeps it. -/
theorem EventFrame.foldl {α : Type} (f : State → α → State) (h : ∀ s a, EventFrame s (f s a)) (l : List α) (s : State) :
    EventFrame s (l.foldl f s) := by
  induction l generalizing s with
  | nil => exact .refl s
  | cons a r ih => exact (h s a).trans (ih (f s a))

/-- A register of the Strainer or CAD_STAT. -/
theorem EventFrame.setReg (s : State) (k : RegKey) (w : Word)
    (hk : blkOf k.name = .str ∨ k = ⟨.cadStat, 0, 0⟩) : EventFrame s (s.setReg k w) where
  rest := rfl
  cup _ := ⟨_, _, rfl⟩
  reg j a b := by
    apply s.reg_setReg_ne
    intro e
    subst e
    rcases hk with g | g
    · exact a g
    · exact b g
  sent := ⟨[], rfl⟩

theorem EventFrame.setFlag (s : State) (k : RegKey) (i : Nat) (b : Bool)
    (hk : blkOf k.name = .str ∨ k = ⟨.cadStat, 0, 0⟩) : EventFrame s (s.setFlag k i b) := .setReg s k _ hk

theorem EventFrame.countUp (s : State) (k : RegKey) (hi lo : Nat)
    (hk : blkOf k.name = .str ∨ k = ⟨.cadStat, 0, 0⟩) : EventFrame s (s.countUp k hi lo) := .setReg s k _ hk

/-- An output. -/
theorem EventFrame.log (s : State) (o : Out) : EventFrame s (s.log o) where
  rest := rfl
  cup _ := ⟨_, _, rfl⟩
  reg _ _ _ := rfl
  sent := ⟨[o], rfl⟩

/-- A change of the Strainer's queues or the Caddy. -/
theorem EventFrame.parts (s : State) (x : StrSt) (y : CaddySt) : EventFrame s { s with str := x, caddy := y } where
  rest := rfl
  cup _ := ⟨_, _, rfl⟩
  reg _ _ _ := rfl
  sent := ⟨[], rfl⟩

/-- A CHIP reaction that is due (R387). -/
theorem EventFrame.chip (s : State) : EventFrame s { s with chipDue := true, chipWhy := 3, reloadRegion := none } where
  rest := rfl
  cup _ := ⟨_, _, rfl⟩
  reg _ _ _ := rfl
  sent := ⟨[], rfl⟩

theorem sendMsix_frame (s : State) (w v : Nat) : EventFrame s (s.sendMsix w v) := by
  unfold State.sendMsix
  repeat' split
  all_goals first | exact .log s _ | exact .refl s

theorem signalCores_frame (s : State) (d : Nat) : EventFrame s (s.signalCores d) := by
  apply EventFrame.foldl
  intro s a
  split
  · exact .log s _
  · exact .refl s

theorem enqueueEvent_frame (s : State) (w cap v : Nat) (r : CadRec) :
    EventFrame s (s.enqueueEvent w cap v r) := by
  unfold State.enqueueEvent
  dsimp only
  split
  · have h : EventFrame s (s.modEvq w fun q => q.insert v r) := .parts s _ s.caddy
    split
    · exact h
    · exact ((h.trans (.setFlag _ _ _ _ (.inl rfl))).trans (sendMsix_frame _ _ _)).trans (signalCores_frame _ _)
  · exact .countUp s _ _ _ (.inl rfl)

theorem errPulse_frame (s : State) : EventFrame s s.errPulse := by
  unfold State.errPulse
  have h : EventFrame s { s with str := { s.str with pulseEnd := some (s.aon + s.pulseLen) } } :=
    .parts s _ s.caddy
  dsimp only
  split
  · exact h.trans (.setFlag _ _ _ _ (.inl rfl))
  · exact h

theorem addRecord_frame (s : State) (r : CadRec) : EventFrame s (s.addRecord r) := by
  unfold State.addRecord
  repeat' split
  · exact .parts s s.str _
  · exact (EventFrame.parts s s.str _).trans (.countUp _ _ _ _ (.inr rfl))
  · exact .parts s s.str _

/-- A cup reads what was put. -/
theorem State.cup_setCup (s : State) (c d : Nat) (x : CupSt) : (s.setCup c x).cup d = if d = c then x else s.cup d := by
  unfold State.setCup State.cup nget nput
  split
  · rename_i h; subst h; exact lookD_putD_self natLt _ _ _ _
  · rename_i h; exact lookD_putD_ne natLt _ _ _ _ _ _ h

theorem setStatus_frame (s : State) (c : Nat) (l : List StatusEvent) (k : Nat) :
    EventFrame s (s.setCup c { s.cup c with status := l, statusLost := k }) where
  rest := rfl
  cup d := by
    rw [State.cup_setCup]
    split
    · rename_i h; subst h; exact ⟨l, k, rfl⟩
    · exact ⟨_, _, rfl⟩
  reg _ _ _ := rfl
  sent := ⟨[], rfl⟩

theorem statusEvent_frame (s : State) (c kind detail obj : Nat) :
    EventFrame s (s.statusEvent c kind detail obj) := by
  unfold State.statusEvent
  dsimp only
  split <;> exact setStatus_frame s c _ _

/-- A register that a reset does not select. -/
theorem State.reg_resetRegs_other (s : State) (p : RegKey → Bool) (k : RegKey) (h : p k = false) :
    (s.resetRegs p).reg k = s.reg k := by
  unfold State.reg State.resetRegs lookD
  dsimp only
  congr 1
  generalize s.regs = l
  induction l with
  | nil => rfl
  | cons e r ih =>
    obtain ⟨k', v⟩ := e
    by_cases hk : k = k'
    · subst hk; simp [look, h]
    · by_cases hp : p k' = true
      · simp [look, hp, hk, ih]
      · simp [look, hp, hk, ih]

/-- A list mapped value by value, with what then equals the default left out, read at a key. -/
theorem lookD_map_filter {κ α : Type} [DecidableEq κ] [DecidableEq α] (f : κ → α → α) (d : κ → α) (m : List (κ × α)) (k : κ)
    (hd : f k (d k) = d k) (hm : (m.map (·.1)).Nodup) :
    lookD ((m.map fun e => (e.1, f e.1 e.2)).filter fun e => e.2 != d e.1) k (d k) = f k (lookD m k (d k)) := by
  unfold lookD
  induction m with
  | nil => simp [look, hd]
  | cons e r ih =>
    obtain ⟨k', v⟩ := e
    have hm' := List.nodup_cons.mp (by simpa using hm : (k' :: r.map (·.1)).Nodup)
    have gone (l : List (κ × α)) (h : k' ∉ l.map (·.1)) : look l k' = none := by
      induction l with
      | nil => rfl
      | cons a l il =>
        obtain ⟨j, w⟩ := a
        simp only [List.map_cons, List.mem_cons, not_or] at h
        simp [look, h.1, il h.2]
    by_cases hv : f k' v = d k'
    · by_cases hk : k = k'
      · subst hk
        have hn : look ((r.map fun e => (e.1, f e.1 e.2)).filter fun e => e.2 != d e.1) k = none :=
          gone _ fun h => hm'.1 (by
            obtain ⟨a, ha, hb⟩ := List.mem_map.mp h
            obtain ⟨c, hc, he⟩ := List.mem_map.mp (List.mem_filter.mp ha).1
            exact List.mem_map.mpr ⟨c, hc, by rw [← hb, ← he]⟩)
        simp [look, hv, hn]
      · simpa [look, hv, hk] using ih hm'.2
    · by_cases hk : k = k'
      · subst hk; simp [look, hv]
      · simpa [look, hv, hk] using ih hm'.2

/-- A BLOCK reset leaves a register at its Reset value there. -/
theorem blockWord_resetVal (k : RegKey) : blockWord k (resetVal k) = resetVal k := by
  unfold blockWord
  rw [← BitVec.and_or_distrib_left, BitVec.or_not_self, BitVec.and_allOnes]

/-- A register after a BLOCK reset of those that p selects, in a canonical register file (R12). -/
theorem State.reg_blockRegs (s : State) (p : RegKey → Bool) (k : RegKey) (hw : RegFile.wf s.regs) :
    (s.blockRegs p).reg k = if p k = true then blockWord k (s.reg k) else s.reg k := by
  have hn : (s.regs.map (·.1)).Nodup := by
    refine List.Pairwise.map (R := fun a b : RegKey × Word => keyLt a.1 b.1 = true) (·.1) (fun a b h e => ?_) hw.1
    rw [e] at h
    simp [keyLt] at h
  have h := lookD_map_filter (fun k w => if p k = true then blockWord k w else w) resetVal s.regs k
    (by split <;> simp [blockWord_resetVal]) hn
  have e : (fun e : RegKey × Word => if p e.1 = true then (e.1, blockWord e.1 e.2) else e) =
      fun e => (e.1, if p e.1 = true then blockWord e.1 e.2 else e.2) := by
    funext e; split <;> rfl
  unfold State.reg State.blockRegs
  dsimp only
  rw [e, h]

/-- A BLOCK reset keeps the register file canonical. -/
theorem RegFile.wf.blockRegs {s : State} (h : RegFile.wf s.regs) (p : RegKey → Bool) : RegFile.wf (s.blockRegs p).regs := by
  refine ⟨?_, fun e he => by simpa using (List.mem_filter.mp he).2⟩
  refine (List.Pairwise.map (R := fun a b : RegKey × Word => keyLt a.1 b.1 = true) _ (fun a b h => ?_) h.1).filter _
  split <;> split <;> exact h

/-- What a BLOCK reset may change, whichever its block. -/
def BlockRest (s t : State) : Prop :=
  t = { s with regs := t.regs, cups := t.cups, queues := t.queues, leaves := t.leaves, cols := t.cols, lanes := t.lanes,
               quads := t.quads, links := t.links, rtps := t.rtps, pchs := t.pchs, cores := t.cores, urn := t.urn,
               time := t.time, spEnts := t.spEnts, spLocal := t.spLocal, cas := t.cas, imgJobs := t.imgJobs,
               hceJobs := t.hceJobs, hcePipe := t.hcePipe, hceLeft := t.hceLeft, hceMode := t.hceMode, l2 := t.l2,
               sess := t.sess, leases := t.leases, leaseLog := t.leaseLog, caddy := t.caddy,
               responses := t.responses, refusals := t.refusals,
               pins := { s.pins with ppsOut := t.pins.ppsOut } }

theorem BlockRest.refl (s : State) : BlockRest s s := rfl

theorem BlockRest.trans (h : BlockRest s t) (g : BlockRest t u) : BlockRest s u := by
  unfold BlockRest at *
  rw [h] at g
  exact g

theorem BlockRest.ite {c : Prop} [Decidable c] (h : BlockRest s t) (g : BlockRest s u) :
    BlockRest s (if c then t else u) := by split <;> assumption

/-- A fold of steps that each keep it keeps it. -/
theorem BlockRest.foldl {α : Type} (f : State → α → State) (h : ∀ s a, BlockRest s (f s a)) (l : List α) (s : State) :
    BlockRest s (l.foldl f s) := by
  induction l generalizing s with
  | nil => exact .refl s
  | cons a r ih => exact (h s a).trans (ih (f s a))

theorem denyTray_rest (s : State) (m tag : Nat) : BlockRest s (s.denyTray m tag) := by
  unfold State.denyTray State.denyIn
  split
  · rfl
  · unfold State.respond
    repeat' split
    all_goals rfl

theorem colForget_rest (s : State) (n : Nat) : BlockRest s (s.colForget n) := by
  unfold State.colForget
  dsimp only
  exact BlockRest.trans (t := { s with cols := erase s.cols n }) rfl
    (BlockRest.foldl _ (fun s e => denyTray_rest s _ _) _ _)

theorem portForget_rest (s : State) (q : Nat) : BlockRest s (s.portForget q) := by
  have h : BlockRest s ((List.range 4).foldl (fun (s : State) j => s.lanePort (4 * q + j)) s) := by
    refine BlockRest.foldl _ (fun s j => ?_) _ _
    unfold State.lanePort
    exact BlockRest.ite rfl rfl
  unfold State.portForget
  generalize (List.range 4).foldl (fun (s : State) j => s.lanePort (4 * q + j)) s = u at h ⊢
  exact h.trans rfl

theorem coreForget_rest (s : State) (t : Nat) : BlockRest s (s.coreForget t) := by
  unfold State.coreForget
  exact BlockRest.ite rfl rfl

theorem blockStore_rest (s : State) (n : Nat) : BlockRest s (s.blockStore n) := by
  unfold State.blockStore
  repeat' with_reducible apply BlockRest.ite
  all_goals first
    | with_reducible exact colForget_rest _ _
    | with_reducible exact portForget_rest _ _
    | with_reducible exact coreForget_rest _ _
    | rfl

theorem blockReset_rest (s : State) (n : Nat) : BlockRest s (s.blockReset n) := by
  unfold State.blockReset
  dsimp only
  have h0 : BlockRest s (if inRange 0x800 0x80F n = true then s.pinSplit (n - 0x800) 0x01 else s) := by split <;> rfl
  generalize (if inRange 0x800 0x80F n = true then s.pinSplit (n - 0x800) 0x01 else s) = v at h0 ⊢
  have hu : BlockRest s (if inRange 0x020 0x02F n = true then v.urnReset else v) := by
    split
    · exact h0.trans rfl
    · exact h0
  generalize (if inRange 0x020 0x02F n = true then v.urnReset else v) = u at hu ⊢
  have h := (hu.trans (t := u) (u := u.blockRegs (blockResets n)) rfl).trans (blockStore_rest _ n)
  split
  · exact h.trans rfl
  · exact h

/-- Everything an event of source n can change: the frame, then a BLOCK reset of the source's block where that is its
reaction, and the Caddy record and a CHIP reaction of the event after it (R387, R398). -/
theorem raiseEvent_frame (s : State) (n kind : Nat) (doms : List Nat) (bytes : List Byte) (own : Option Nat) :
    (EventFrame s (s.raiseEvent n kind doms bytes own)) ∨
      s.fld ⟨.strSrc, n, 0⟩ 21 20 = 1 ∧ ∃ u, EventFrame s u ∧ EventFrame (u.blockReset n) (s.raiseEvent n kind doms bytes own) := by
  unfold State.raiseEvent State.fld
  dsimp only
  generalize s.mkRec n _ _ _ _ = r
  generalize s.reg _ = cfg
  have h1 : EventFrame s ((s.setFlag ⟨.strSrc, n, 0⟩ 31 true).countUp ⟨.strSrc, n, 0⟩ 15 0) :=
    (EventFrame.setFlag s _ _ _ (.inl rfl)).trans (.countUp _ _ _ _ (.inl rfl))
  generalize (s.setFlag ⟨.strSrc, n, 0⟩ 31 true).countUp ⟨.strSrc, n, 0⟩ 15 0 = s1 at h1 ⊢
  have h2 := h1.trans (EventFrame.foldl (fun (s : State) (d : Nat) => match tenantOf d with
      | some t => if s.tenantExists t then s.enqueueEvent (t + 1) 64 0 { r with dom := d } else s
      | none => s) (by
        intro s a
        repeat' split
        · exact enqueueEvent_frame s _ _ _ _
        · exact .refl s
        · exact .refl s) doms s1)
  generalize List.foldl _ s1 doms = s2 at h2 ⊢
  have h3 : EventFrame s (if bit cfg 25 = true then s2.enqueueEvent 0 1024 (bits cfg 24 22) r else s2) := by
    split
    · exact h2.trans (enqueueEvent_frame _ _ _ _ _)
    · exact h2
  generalize (if bit cfg 25 = true then s2.enqueueEvent 0 1024 (bits cfg 24 22) r else s2) = s3 at h3 ⊢
  have h4 : EventFrame s (if bit cfg 28 = true then s3.log (.nmi n) else s3) := by
    split
    · exact h3.trans (.log _ _)
    · exact h3
  generalize (if bit cfg 28 = true then s3.log (.nmi n) else s3) = s4 at h4 ⊢
  have h5 : EventFrame s (if bit cfg 26 = true then s4.errPulse else s4) := by
    split
    · exact h4.trans (errPulse_frame _)
    · exact h4
  generalize (if bit cfg 26 = true then s4.errPulse else s4) = s5 at h5 ⊢
  have h6 : EventFrame s (if inRange 0x100 0x1BF n = true then
      s5.statusEvent (n - 0x100) 1 (Config.eventSev n kind).toNat n else s5) := by
    split
    · exact h5.trans (statusEvent_frame _ _ _ _ _)
    · exact h5
  generalize (if inRange 0x100 0x1BF n = true then
      s5.statusEvent (n - 0x100) 1 (Config.eventSev n kind).toNat n else s5) = s6 at h6 ⊢
  have tail (v : State) : EventFrame v
      (if ((if (bit cfg 27 || bits cfg 21 20 == 2 || own.isSome) = true then v.addRecord r else v).stoppedSafe ||
          bits cfg 21 20 != 2 ||
          (if (bit cfg 27 || bits cfg 21 20 == 2 || own.isSome) = true then v.addRecord r else v).chipDue) = true then
        (if (bit cfg 27 || bits cfg 21 20 == 2 || own.isSome) = true then v.addRecord r else v)
      else { (if (bit cfg 27 || bits cfg 21 20 == 2 || own.isSome) = true then v.addRecord r else v) with
        chipDue := true, chipWhy := 3, reloadRegion := none }) := by
    have g : EventFrame v (if (bit cfg 27 || bits cfg 21 20 == 2 || own.isSome) = true then v.addRecord r else v) := by
      split
      · exact addRecord_frame _ _
      · exact .refl _
    generalize (if (bit cfg 27 || bits cfg 21 20 == 2 || own.isSome) = true then v.addRecord r else v) = w at g ⊢
    split
    · exact g
    · exact g.trans (.chip w)
  by_cases hb : (!s6.stoppedSafe && bits cfg 21 20 == 1) = true
  · rw [if_pos hb]
    refine .inr ⟨?_, s6, h6, tail _⟩
    simp only [Bool.and_eq_true, beq_iff_eq] at hb
    exact hb.2
  · rw [if_neg hb]
    exact .inl (h6.trans (tail s6))

end Sys2Proof.Machine
end

