-- ==== Sys2Proof/Laws/Link.lean ====
section
/-! SUPPORT. What sending over Cascade links can do: it changes the links' frames and what the device has sent, and nothing
else. -/

namespace Sys2Proof.Machine

/-- State t is s with other link records and with more outputs at the front. -/
def LinkFrame (s t : State) : Prop := ∃ L o, t = { s with links := L, sent := o ++ s.sent }

theorem LinkFrame.refl (s : State) : LinkFrame s s := ⟨s.links, [], rfl⟩

theorem LinkFrame.trans {s t u : State} (h : LinkFrame s t) (k : LinkFrame t u) : LinkFrame s u := by
  obtain ⟨L, o, rfl⟩ := h
  obtain ⟨M, p, rfl⟩ := k
  exact ⟨M, p ++ o, by simp⟩

theorem LinkFrame.foldl {α : Type} {f : State → α → State} (h : ∀ s a, LinkFrame s (f s a)) (l : List α) (s : State) :
    LinkFrame s (l.foldl f s) := by
  induction l generalizing s with
  | nil => exact .refl s
  | cons a l ih => exact (h s a).trans (ih (f s a))

theorem log_linkFrame (s : State) (o : Out) : LinkFrame s (s.log o) := ⟨s.links, [o], rfl⟩

theorem modLink_linkFrame (s : State) (n : Nat) (f : LinkSt → LinkSt) : LinkFrame s (s.modLink n f) := ⟨_, [], rfl⟩

/-- An output that is shown only where `c` holds. -/
theorem ite_log_linkFrame (s : State) (c : Prop) [Decidable c] (o : Out) :
    LinkFrame s (if c then s.log o else s) := by
  split
  · exact log_linkFrame s o
  · exact .refl s

theorem linkSend_frame (s : State) (n type flags stream len : Nat) (b : List Byte) :
    LinkFrame s (s.linkSend n type flags stream len b) := by
  unfold State.linkSend
  by_cases h : s.linkFull n = true
  · simp only [h, if_true]; exact .refl s
  · simp only [h]; exact (modLink_linkFrame s n _).trans (ite_log_linkFrame _ _ _)

theorem casPost_frame (s : State) (dst : Nat) (msg : CasOut) : LinkFrame s (s.casPost dst msg) := by
  unfold State.casPost
  split
  · exact linkSend_frame s _ _ _ _ _ _
  · exact .refl s

/-- A management message is told as the Kettle's and leaves in frames; nothing else changes (R337). -/
theorem casSend_frame (s : State) (dest : Option Nat) (msg : CasOut) :
    ∃ L o, s.casSend dest msg = { s with links := L, sent := o ++ .cas dest msg :: s.sent } := by
  have h : LinkFrame (s.log (.cas dest msg)) (s.casSend dest msg) := by
    unfold State.casSend
    split
    · exact casPost_frame _ _ msg
    · exact .foldl (fun s id => casPost_frame s id msg) _ _
  obtain ⟨L, o, h⟩ := h
  exact ⟨L, o, h⟩

theorem linkResend_frame (s : State) (n : Nat) : LinkFrame s (s.linkResend n) :=
  .foldl (fun s _ => log_linkFrame s _) _ s

theorem linkReplay_frame (s : State) (n : Nat) : LinkFrame s (s.linkReplay n) :=
  (linkResend_frame s n).trans (modLink_linkFrame _ n _)

/-- A report reaches the master as a message, or no one. -/
theorem casReport_frame (s : State) (g cause : Nat) : LinkFrame s (s.casReport g cause) := by
  unfold State.casReport
  split
  · obtain ⟨L, o, h⟩ := casSend_frame s (some s.casMaster) (.report g cause)
    exact ⟨L, o ++ [.cas (some s.casMaster) (.report g cause)], by simp [h]⟩
  · exact .refl s

end Sys2Proof.Machine
end

