-- ==== Sys2Proof/Laws/Memory.lean ====
section
/-! SUPPORT. HBM, the store die, the Kettle's SRAM and the register file: a read after a write, and that every operation that writes one of
them keeps its canonical form.  No other operation writes them, so an invariant proof needs these lemmas and no unfolding
of a list. -/

namespace Sys2Proof.Machine

/-! ### A read after a write -/

/-- A stored byte reads what was written to it. -/
theorem State.cell_setCell_self (s : State) (k : Nat) (b : Byte) : (s.setCell k b).cell k = b :=
  lookD_putD_self natLt s.hbm k b (hbmDefault k)

/-- A write of one stored byte leaves every other. -/
theorem State.cell_setCell_ne (s : State) {k j : Nat} (b : Byte) (h : j ≠ k) : (s.setCell k b).cell j = s.cell j :=
  lookD_putD_ne natLt s.hbm k j b (hbmDefault k) (hbmDefault j) h

/-- A filtered list, read at a key that the filter keeps. -/
theorem look_filter_keep {κ α : Type} [DecidableEq κ] (p : κ → Bool) (m : List (κ × α)) (k : κ) (h : p k = true) :
    look (m.filter fun e => p e.1) k = look m k := by
  induction m with
  | nil => rfl
  | cons e r ih =>
    obtain ⟨k', v⟩ := e
    by_cases hp : p k' = true
    · by_cases hk : k = k'
      · simp [hp, look, hk]
      · simpa [List.filter_cons, hp, look, hk] using ih
    · have hk : k ≠ k' := fun e => hp (e ▸ h)
      simpa [List.filter_cons, hp, look, hk] using ih

/-- A filtered list, read at a key that the filter drops. -/
theorem look_filter_drop {κ α : Type} [DecidableEq κ] (p : κ → Bool) (m : List (κ × α)) (k : κ) (h : p k = false) :
    look (m.filter fun e => p e.1) k = none := by
  induction m with
  | nil => rfl
  | cons e r ih =>
    obtain ⟨k', v⟩ := e
    by_cases hp : p k' = true
    · have hk : k ≠ k' := fun e => by rw [e, hp] at h; cases h
      simpa [List.filter_cons, hp, look, hk] using ih
    · simpa [List.filter_cons, hp] using ih

/-- A register after a reset of those that `p` selects (R12). -/
theorem State.reg_resetRegs (s : State) (p : RegKey → Bool) (k : RegKey) :
    (s.resetRegs p).reg k = if p k = true then resetVal k else s.reg k := by
  unfold State.reg lookD
  simp only [State.resetRegs]
  split
  · rename_i h
    rw [look_filter_drop (fun k => !p k) s.regs k (by simp [h])]; rfl
  · rename_i h
    rw [look_filter_keep (fun k => !p k) s.regs k (by simpa using h)]

/-- A byte of lines that are poisoned reads as a byte of the poison pattern, and any other as before (R269). -/
theorem State.cell_poisonLines (s : State) (lo hi a : Nat) :
    (s.poisonLines lo hi).cell a =
      if lo ≤ s.cellLine (a / 72) ∧ s.cellLine (a / 72) ≤ hi then hbmDefault a else s.cell a := by
  unfold State.cell nget lookD
  simp only [State.poisonLines]
  split
  · rename_i h
    rw [look_filter_drop (fun k => decide (s.cellLine (k / 72) < lo ∨ hi < s.cellLine (k / 72))) s.hbm a
      (by simp; omega)]; rfl
  · rename_i h
    rw [look_filter_keep (fun k => decide (s.cellLine (k / 72) < lo ∨ hi < s.cellLine (k / 72))) s.hbm a
      (by simp; omega)]

/-! ### The canonical form -/

/-- Only the four stores decide whether a state is canonical. -/
theorem State.Canonical.congr {s t : State} (h : s.Canonical) (h1 : t.hbm = s.hbm) (h2 : t.nv.store = s.nv.store)
    (h3 : t.regs = s.regs) (h4 : t.kettleRam = s.kettleRam) : t.Canonical := by
  unfold State.Canonical at *; rw [h1, h2, h3, h4]; exact h

/-- Each store on its own. -/
theorem State.Canonical.of_parts {s t : State} (h : s.Canonical) (h1 : Memory.wf t.hbm) (h2 : t.nv.store = s.nv.store)
    (h3 : t.regs = s.regs) (h4 : t.kettleRam = s.kettleRam) : t.Canonical :=
  ⟨h1, h2 ▸ h.2.1, h4 ▸ h.2.2.1, h3 ▸ h.2.2.2⟩

/-- The write of a stored byte keeps the canonical form. -/
theorem State.Canonical.setCell {s : State} (h : s.Canonical) (k : Nat) (b : Byte) : (s.setCell k b).Canonical :=
  ⟨Sparse.putD natLt_order h.1 k b, h.2.1, h.2.2⟩

/-- A fold of updates that each keep the canonical form keeps it. -/
theorem State.Canonical.foldl {β : Type} {f : State → β → State} (hf : ∀ s b, s.Canonical → (f s b).Canonical)
    (l : List β) : ∀ {s : State}, s.Canonical → (l.foldl f s).Canonical := by
  induction l with
  | nil => exact fun h => h
  | cons b r ih => exact fun h => ih (hf _ b h)

/-- The write of the 72 cells of a place keeps the canonical form. -/
theorem State.Canonical.fillCells {s : State} (h : s.Canonical) (c : Nat) (line : List Byte) :
    (s.fillCells c line).Canonical :=
  State.Canonical.foldl (fun _ _ h => h.setCell _ _) _ h

/-- The store of a line keeps the canonical form. -/
theorem State.Canonical.store {s : State} (h : s.Canonical) (n : Nat) (line : List Byte) :
    (s.store n line).Canonical :=
  State.Canonical.foldl (fun _ _ h => h.setCell _ _) _ h

/-- Poisoning lines keeps the canonical form. -/
theorem State.Canonical.poisonLines {s : State} (h : s.Canonical) (lo hi : Nat) : (s.poisonLines lo hi).Canonical :=
  ⟨h.1.filter _, h.2.1, h.2.2⟩

/-- A number-keyed write of a fixed default keeps the canonical form of a byte store. -/
theorem Store.wf.put {m : List Host.Cell} (h : Store.wf m) (k : Nat) (b : Byte) : Store.wf (nput m k b 0) :=
  Sparse.putD natLt_order h k b

/-- Writing bytes of the store die keeps the canonical form. -/
theorem State.Canonical.storePut {s : State} (h : s.Canonical) (a : Nat) (data : List Byte) :
    (s.storePut a data).Canonical := by
  refine ⟨h.1, ?_, h.2.2⟩
  have key : ∀ (l : List (Nat × Byte)) (m : List Host.Cell), Store.wf m →
      Store.wf (l.foldl (fun (l : List Host.Cell) (e : Nat × Byte) => nput l (a + e.1) e.2 0) m) := by
    intro l
    induction l with
    | nil => exact fun m hm => hm
    | cons e r ih => exact fun m hm => ih _ (Store.wf.put hm _ _)
  exact key _ _ h.2.1

/-- The Kettle's own writes to its SRAM keep the canonical form. -/
theorem State.Canonical.kettleWrite {s : State} (h : s.Canonical) (mid a : Nat) (data : List Byte)
    (hb : (s.busWrite mid 0x00 a data).1.Canonical) : (s.kettleWrite mid a data).1.Canonical := by
  unfold State.kettleWrite
  split
  · rename_i i _
    refine ⟨h.1, h.2.1, ?_, h.2.2.2⟩
    have key : ∀ (l : List Nat) (m : List Host.Cell), Store.wf m →
        Store.wf (l.foldl (fun (l : List Host.Cell) k => nput l ((i.val + k) % 4194304) (data.getD k 0) 0) m) := by
      intro l
      induction l with
      | nil => exact fun m hm => hm
      | cons e r ih => exact fun m hm => ih _ (Store.wf.put hm _ _)
    exact key _ _ h.2.2.1
  · exact h
  · exact hb

/-- The write of a register keeps the canonical form. -/
theorem State.Canonical.setReg {s : State} (h : s.Canonical) (k : RegKey) (w : Word) : (s.setReg k w).Canonical :=
  ⟨h.1, h.2.1, h.2.2.1, Sparse.putD keyLt_order h.2.2.2 k w⟩

theorem State.Canonical.setFld {s : State} (h : s.Canonical) (k : RegKey) (hi lo v : Nat) :
    (s.setFld k hi lo v).Canonical := h.setReg _ _

theorem State.Canonical.setFlag {s : State} (h : s.Canonical) (k : RegKey) (n : Nat) (b : Bool) :
    (s.setFlag k n b).Canonical := h.setReg _ _

theorem State.Canonical.setFields {s : State} (h : s.Canonical) (k : RegKey) (fs : List (Nat × Nat × Nat)) :
    (s.setFields k fs).Canonical := h.setReg _ _

theorem State.Canonical.plainWrite {s : State} (h : s.Canonical) (k : RegKey) (v : Word) :
    (s.plainWrite k v).Canonical := h.setReg _ _

theorem State.Canonical.setPair {s : State} (h : s.Canonical) (lo hi : RegKey) (v : Nat) :
    (s.setPair lo hi v).Canonical := (h.setReg _ _).setReg _ _

/-- A BLOCK reset of registers keeps the canonical form. -/
theorem State.Canonical.blockRegs {s : State} (h : s.Canonical) (p : RegKey → Bool) : (s.blockRegs p).Canonical :=
  ⟨h.1, h.2.1, h.2.2.1, h.2.2.2.blockRegs p⟩

/-- A reset of registers keeps the canonical form. -/
theorem State.Canonical.resetRegs {s : State} (h : s.Canonical) (p : RegKey → Bool) : (s.resetRegs p).Canonical :=
  ⟨h.1, h.2.1, h.2.2.1, h.2.2.2.filter _⟩

/-- The register file that a CHIP reset leaves is canonical. -/
theorem RegFile.wf.chipRegs {m : List (RegKey × Word)} (h : RegFile.wf m) : RegFile.wf (chipRegs m) := by
  refine ⟨?_, fun e he => ?_⟩
  · exact (List.Pairwise.map (R := fun a b : RegKey × Word => keyLt a.1 b.1 = true)
      (S := fun a b : RegKey × Word => keyLt a.1 b.1 = true)
      (fun e : RegKey × Word => (e.1, chipWord e.1 e.2)) (fun _ _ h => h) h.1).filter _
  · simpa using (List.mem_filter.mp he).2

/-- A CHIP reset keeps the canonical form. -/
theorem State.Canonical.chipClear {s : State} (h : s.Canonical) : s.chipClear.Canonical :=
  ⟨h.1, h.2.1, Sparse.nil, RegFile.wf.chipRegs h.2.2.2⟩

/-- The memory of the state after reset is in its canonical form: it lists nothing. -/
theorem Memory.wf_reset : Memory.wf State.reset.hbm := Sparse.nil

end Sys2Proof.Machine
end

