-- ==== Sys2Proof/Laws/Ops.lean ====
section
/-! SUPPORT. The shared operations of commands: what an accepted, a refused and an unanswered register write do, and what
the guards of the core side do. -/

namespace Sys2Proof.Machine

/-- An accepted register write is performed and answered OK. -/
theorem writeCommand_accepts {s : State} {m : Nat} {k : RegKey} (h : s.accepts m k) (v : Word)
    (act : State → State) : s.writeCommand m k v act = .next ((act s).answer m .ok) := by
  obtain ⟨h1, h2, h3, h4⟩ := h
  simp [State.writeCommand, State.writeNow, State.regWrite, h1, h2, h3, h4]

/-- A write of a register that does not answer does nothing. -/
theorem writeCommand_unreached {s : State} {m : Nat} {k : RegKey} (h : s.reaches m k = false) (v : Word)
    (act : State → State) : s.writeCommand m k v act = .next s := by
  simp [State.writeCommand, State.writeNow, h]

/-- A write of a master whose FENCE is pending is held (R144). -/
theorem writeCommand_fenced {s : State} {m : Nat} {k : RegKey} (h : s.reaches m k = true) (hf : s.fenced m = true)
    (v : Word) (act : State → State) : s.writeCommand m k v act = .next (s.holdReq m noTag (.put k v)) := by
  simp [State.writeCommand, State.writeNow, h, hf]

/-- A write that the master may not make is refused and performs nothing, where the register’s cup is not gone (R142,
R438). -/
theorem writeCommand_denied {s : State} {m : Nat} {k : RegKey} (h : s.reaches m k = true)
    (hf : s.fenced m = false) (hv : s.writeVerdict m k = .denied) (hg : s.keyGone k = false) (v : Word)
    (act : State → State) : s.writeCommand m k v act = .next (s.denyAccess m) := by
  simp [State.writeCommand, State.writeNow, State.regWrite, h, hf, hv, hg]

/-- A write to a register of a retired cup answers RETIRED (R22, R24). -/
theorem writeCommand_retired {s : State} {m : Nat} {k : RegKey} (h : s.reaches m k = true)
    (hf : s.fenced m = false) (hv : s.writeVerdict m k = .pass) (hg : s.keyGone k = true) (v : Word)
    (act : State → State) : s.writeCommand m k v act = .next (s.answer m .retired) := by
  simp [State.writeCommand, State.writeNow, State.regWrite, h, hf, hv, hg]

/-- A write that its register takes is performed and answered OK. -/
theorem writeUnless_accepts {s : State} {m : Nat} {k : RegKey} (h : s.accepts m k) (v : Word) (act : State → State) :
    s.writeUnless m k v false act = .next ((act s).answer m .ok) := by
  simpa [State.writeUnless, State.writeCommand] using writeCommand_accepts h v act

/-- A write whose value its register refuses is refused and performs nothing (R142, R293, R309). -/
theorem writeUnless_barred {s : State} {m : Nat} {k : RegKey} (h : s.accepts m k) (v : Word) (act : State → State) :
    s.writeUnless m k v true act = .next (s.denyAccess m) := by
  obtain ⟨h1, h2, h3, h4⟩ := h
  simp [State.writeUnless, h1, h2, h3, h4]

/-- A command of the core side acts while the core side runs. -/
theorem whenLive_live {s : State} (h : s.live = true) (f : State → State) : s.whenLive f = .next (f s) := by
  simp [State.whenLive, h]

/-- It does nothing otherwise. -/
theorem whenLive_dead {s : State} (h : s.live = false) (f : State → State) : s.whenLive f = .next s := by
  simp [State.whenLive, h]

/-- A command of service acts in service. -/
theorem whenServing_serving {s : State} (h : s.serving = true) (f : State → State) : s.whenServing f = .next (f s) := by
  simp [State.whenServing, h]

/-- It does nothing otherwise. -/
theorem whenServing_idle {s : State} (h : s.serving = false) (f : State → State) : s.whenServing f = .next s := by
  simp [State.whenServing, h]

/-- A device in service is live. -/
theorem live_of_serving {s : State} (h : s.serving = true) : s.live = true := by
  unfold State.serving at h
  unfold State.live
  simp only [Bool.and_eq_true, decide_eq_true_eq] at h
  simp [h.1, h.2]

end Sys2Proof.Machine
end

