-- ==== Sys2Proof/Laws/Read.lean ====
section
/-! SUPPORT. What the readers of a state read of a state written out field by field, so that a record update is read
 through without unfolding; and what an event leaves as it was, field by field. -/

namespace Sys2Proof.Machine

section

variable (a0 : List Instr)
  (a1 : Nat)
  (a2 : List Out)
  (a3 : Phase)
  (a4 : Nat)
  (a5 : Nat)
  (a6 : ClkSt)
  (a7 : TimeSt)
  (a8 : PinSt)
  (a9 : List (RegKey × Word))
  (a10 : List (Nat × RegKey × Word))
  (a11 : List Outstanding)
  (a12 : List Resp)
  (a13 : List (Nat × Nat))
  (a14 : List (Nat × Nat × Req))
  (a15 : List HeldRefusal)
  (a16 : List Stall)
  (a17 : List (Nat × QueueSt))
  (a18 : List (Nat × CupSt))
  (a19 : List (Nat × LeafSt))
  (a20 : List (Nat × StreamSt))
  (a21 : List (Nat × ColSt))
  (a22 : List (Nat × QuadSt))
  (a23 : List (Nat × LaneSt))
  (a24 : List (Nat × Nat))
  (a25 : List (Nat × StackSt))
  (a26 : List (Nat × PchSt))
  (a27 : List (Nat × List (Nat × BankSt)))
  (a28 : List (Nat × RtpSt))
  (a29 : List HbmReq)
  (a30 : List Host.Cell)
  (a31 : List (Nat × RangeSt))
  (a32 : NvSt)
  (a33 : CaddySt)
  (a34 : List (Nat × ImgJob))
  (a35 : List (Nat × HceJob))
  (a36 : List (Nat × Nat))
  (a37 : List (Nat × Nat))
  (a38 : Nat)
  (a39 : Nat)
  (a40 : Option Bool)
  (a41 : List (Nat × LinkSt))
  (a42 : CasSt)
  (a43 : UrnSt)
  (a44 : StrSt)
  (a45 : List (Nat × Lease))
  (a46 : List LeaseLog)
  (a47 : List (Nat × CoreSt))
  (a48 : List L2Line)
  (a49 : List Host.Cell)
  (a50 : List (Nat × SessSt))
  (a51 : Nat)
  (a52 : List Later)
  (a53 : List (Nat × Instr))
  (a54 : List (Nat × SpEnt))
  (a55 : List (Nat × Nat))
  (a56 : List (Nat × BitVec 384 × BitVec 384))
  (a57 : List Nat)
  (a58 : Bool)
  (a59 : Bool)
  (a60 : Nat)
  (a61 : Option Nat)

/-- A register. -/
@[simp] theorem State.reg_mk (k : RegKey) : State.reg (State.mk a0 a1 a2 a3 a4 a5 a6 a7 a8 a9 a10 a11 a12 a13 a14 a15 a16 a17 a18 a19 a20 a21 a22 a23 a24 a25 a26 a27 a28 a29 a30 a31 a32 a33 a34 a35 a36 a37 a38 a39 a40 a41 a42 a43 a44 a45 a46 a47 a48 a49 a50 a51 a52 a53 a54 a55 a56 a57 a58 a59 a60 a61) k = lookD a9 k (resetVal k) := rfl

/-- A stored byte. -/
@[simp] theorem State.cell_mk (k : Nat) : State.cell (State.mk a0 a1 a2 a3 a4 a5 a6 a7 a8 a9 a10 a11 a12 a13 a14 a15 a16 a17 a18 a19 a20 a21 a22 a23 a24 a25 a26 a27 a28 a29 a30 a31 a32 a33 a34 a35 a36 a37 a38 a39 a40 a41 a42 a43 a44 a45 a46 a47 a48 a49 a50 a51 a52 a53 a54 a55 a56 a57 a58 a59 a60 a61) k = nget a30 k (hbmDefault k) := rfl

/-- TICK. -/
@[simp] theorem State.tick_mk : State.tick (State.mk a0 a1 a2 a3 a4 a5 a6 a7 a8 a9 a10 a11 a12 a13 a14 a15 a16 a17 a18 a19 a20 a21 a22 a23 a24 a25 a26 a27 a28 a29 a30 a31 a32 a33 a34 a35 a36 a37 a38 a39 a40 a41 a42 a43 a44 a45 a46 a47 a48 a49 a50 a51 a52 a53 a54 a55 a56 a57 a58 a59 a60 a61) = a4 / 16 := rfl

/-- An element of cups. -/
@[simp] theorem State.cup_mk (i : Nat) : State.cup (State.mk a0 a1 a2 a3 a4 a5 a6 a7 a8 a9 a10 a11 a12 a13 a14 a15 a16 a17 a18 a19 a20 a21 a22 a23 a24 a25 a26 a27 a28 a29 a30 a31 a32 a33 a34 a35 a36 a37 a38 a39 a40 a41 a42 a43 a44 a45 a46 a47 a48 a49 a50 a51 a52 a53 a54 a55 a56 a57 a58 a59 a60 a61) i = nget a18 i {} := rfl

/-- An element of leaves. -/
@[simp] theorem State.leaf_mk (i : Nat) : State.leaf (State.mk a0 a1 a2 a3 a4 a5 a6 a7 a8 a9 a10 a11 a12 a13 a14 a15 a16 a17 a18 a19 a20 a21 a22 a23 a24 a25 a26 a27 a28 a29 a30 a31 a32 a33 a34 a35 a36 a37 a38 a39 a40 a41 a42 a43 a44 a45 a46 a47 a48 a49 a50 a51 a52 a53 a54 a55 a56 a57 a58 a59 a60 a61) i = nget a19 i {} := rfl

/-- An element of streams. -/
@[simp] theorem State.stream_mk (i : Nat) : State.stream (State.mk a0 a1 a2 a3 a4 a5 a6 a7 a8 a9 a10 a11 a12 a13 a14 a15 a16 a17 a18 a19 a20 a21 a22 a23 a24 a25 a26 a27 a28 a29 a30 a31 a32 a33 a34 a35 a36 a37 a38 a39 a40 a41 a42 a43 a44 a45 a46 a47 a48 a49 a50 a51 a52 a53 a54 a55 a56 a57 a58 a59 a60 a61) i = nget a20 i {} := rfl

/-- An element of cols. -/
@[simp] theorem State.col_mk (i : Nat) : State.col (State.mk a0 a1 a2 a3 a4 a5 a6 a7 a8 a9 a10 a11 a12 a13 a14 a15 a16 a17 a18 a19 a20 a21 a22 a23 a24 a25 a26 a27 a28 a29 a30 a31 a32 a33 a34 a35 a36 a37 a38 a39 a40 a41 a42 a43 a44 a45 a46 a47 a48 a49 a50 a51 a52 a53 a54 a55 a56 a57 a58 a59 a60 a61) i = nget a21 i {} := rfl

/-- An element of quads. -/
@[simp] theorem State.quad_mk (i : Nat) : State.quad (State.mk a0 a1 a2 a3 a4 a5 a6 a7 a8 a9 a10 a11 a12 a13 a14 a15 a16 a17 a18 a19 a20 a21 a22 a23 a24 a25 a26 a27 a28 a29 a30 a31 a32 a33 a34 a35 a36 a37 a38 a39 a40 a41 a42 a43 a44 a45 a46 a47 a48 a49 a50 a51 a52 a53 a54 a55 a56 a57 a58 a59 a60 a61) i = nget a22 i {} := rfl

/-- An element of lanes. -/
@[simp] theorem State.lane_mk (i : Nat) : State.lane (State.mk a0 a1 a2 a3 a4 a5 a6 a7 a8 a9 a10 a11 a12 a13 a14 a15 a16 a17 a18 a19 a20 a21 a22 a23 a24 a25 a26 a27 a28 a29 a30 a31 a32 a33 a34 a35 a36 a37 a38 a39 a40 a41 a42 a43 a44 a45 a46 a47 a48 a49 a50 a51 a52 a53 a54 a55 a56 a57 a58 a59 a60 a61) i = nget a23 i {} := rfl

/-- An element of stks. -/
@[simp] theorem State.stk_mk (i : Nat) : State.stk (State.mk a0 a1 a2 a3 a4 a5 a6 a7 a8 a9 a10 a11 a12 a13 a14 a15 a16 a17 a18 a19 a20 a21 a22 a23 a24 a25 a26 a27 a28 a29 a30 a31 a32 a33 a34 a35 a36 a37 a38 a39 a40 a41 a42 a43 a44 a45 a46 a47 a48 a49 a50 a51 a52 a53 a54 a55 a56 a57 a58 a59 a60 a61) i = nget a25 i {} := rfl

/-- An element of pchs. -/
@[simp] theorem State.pch_mk (i : Nat) : State.pch (State.mk a0 a1 a2 a3 a4 a5 a6 a7 a8 a9 a10 a11 a12 a13 a14 a15 a16 a17 a18 a19 a20 a21 a22 a23 a24 a25 a26 a27 a28 a29 a30 a31 a32 a33 a34 a35 a36 a37 a38 a39 a40 a41 a42 a43 a44 a45 a46 a47 a48 a49 a50 a51 a52 a53 a54 a55 a56 a57 a58 a59 a60 a61) i = nget a26 i {} := rfl

/-- An element of rtps. -/
@[simp] theorem State.rtp_mk (i : Nat) : State.rtp (State.mk a0 a1 a2 a3 a4 a5 a6 a7 a8 a9 a10 a11 a12 a13 a14 a15 a16 a17 a18 a19 a20 a21 a22 a23 a24 a25 a26 a27 a28 a29 a30 a31 a32 a33 a34 a35 a36 a37 a38 a39 a40 a41 a42 a43 a44 a45 a46 a47 a48 a49 a50 a51 a52 a53 a54 a55 a56 a57 a58 a59 a60 a61) i = nget a28 i {} := rfl

/-- An element of ranges. -/
@[simp] theorem State.range_mk (i : Nat) : State.range (State.mk a0 a1 a2 a3 a4 a5 a6 a7 a8 a9 a10 a11 a12 a13 a14 a15 a16 a17 a18 a19 a20 a21 a22 a23 a24 a25 a26 a27 a28 a29 a30 a31 a32 a33 a34 a35 a36 a37 a38 a39 a40 a41 a42 a43 a44 a45 a46 a47 a48 a49 a50 a51 a52 a53 a54 a55 a56 a57 a58 a59 a60 a61) i = nget a31 i {} := rfl

/-- An element of links. -/
@[simp] theorem State.link_mk (i : Nat) : State.link (State.mk a0 a1 a2 a3 a4 a5 a6 a7 a8 a9 a10 a11 a12 a13 a14 a15 a16 a17 a18 a19 a20 a21 a22 a23 a24 a25 a26 a27 a28 a29 a30 a31 a32 a33 a34 a35 a36 a37 a38 a39 a40 a41 a42 a43 a44 a45 a46 a47 a48 a49 a50 a51 a52 a53 a54 a55 a56 a57 a58 a59 a60 a61) i = nget a41 i {} := rfl

/-- An element of cores. -/
@[simp] theorem State.core_mk (i : Nat) : State.core (State.mk a0 a1 a2 a3 a4 a5 a6 a7 a8 a9 a10 a11 a12 a13 a14 a15 a16 a17 a18 a19 a20 a21 a22 a23 a24 a25 a26 a27 a28 a29 a30 a31 a32 a33 a34 a35 a36 a37 a38 a39 a40 a41 a42 a43 a44 a45 a46 a47 a48 a49 a50 a51 a52 a53 a54 a55 a56 a57 a58 a59 a60 a61) i = nget a47 i {} := rfl

/-- An element of sess. -/
@[simp] theorem State.session_mk (i : Nat) : State.session (State.mk a0 a1 a2 a3 a4 a5 a6 a7 a8 a9 a10 a11 a12 a13 a14 a15 a16 a17 a18 a19 a20 a21 a22 a23 a24 a25 a26 a27 a28 a29 a30 a31 a32 a33 a34 a35 a36 a37 a38 a39 a40 a41 a42 a43 a44 a45 a46 a47 a48 a49 a50 a51 a52 a53 a54 a55 a56 a57 a58 a59 a60 a61) i = nget a50 i {} := rfl

/-- An element of spEnts. -/
@[simp] theorem State.spEnt_mk (i : Nat) : State.spEnt (State.mk a0 a1 a2 a3 a4 a5 a6 a7 a8 a9 a10 a11 a12 a13 a14 a15 a16 a17 a18 a19 a20 a21 a22 a23 a24 a25 a26 a27 a28 a29 a30 a31 a32 a33 a34 a35 a36 a37 a38 a39 a40 a41 a42 a43 a44 a45 a46 a47 a48 a49 a50 a51 a52 a53 a54 a55 a56 a57 a58 a59 a60 a61) i = nget a54 i {} := rfl

end

/-- The register file read back. -/
@[simp] theorem State.lookD_regs (s : State) (k : RegKey) : lookD s.regs k (resetVal k) = s.reg k := rfl

/-- The memory read back. -/
@[simp] theorem State.nget_hbm (s : State) (k : Nat) : nget s.hbm k (hbmDefault k) = s.cell k := rfl

/-- An element of cups read back. -/
@[simp] theorem State.nget_cups (s : State) (i : Nat) : nget s.cups i {} = s.cup i := rfl

/-- An element of leaves read back. -/
@[simp] theorem State.nget_leaves (s : State) (i : Nat) : nget s.leaves i {} = s.leaf i := rfl

/-- An element of streams read back. -/
@[simp] theorem State.nget_streams (s : State) (i : Nat) : nget s.streams i {} = s.stream i := rfl

/-- An element of cols read back. -/
@[simp] theorem State.nget_cols (s : State) (i : Nat) : nget s.cols i {} = s.col i := rfl

/-- An element of quads read back. -/
@[simp] theorem State.nget_quads (s : State) (i : Nat) : nget s.quads i {} = s.quad i := rfl

/-- An element of lanes read back. -/
@[simp] theorem State.nget_lanes (s : State) (i : Nat) : nget s.lanes i {} = s.lane i := rfl

/-- An element of stks read back. -/
@[simp] theorem State.nget_stks (s : State) (i : Nat) : nget s.stks i {} = s.stk i := rfl

/-- An element of pchs read back. -/
@[simp] theorem State.nget_pchs (s : State) (i : Nat) : nget s.pchs i {} = s.pch i := rfl

/-- An element of rtps read back. -/
@[simp] theorem State.nget_rtps (s : State) (i : Nat) : nget s.rtps i {} = s.rtp i := rfl

/-- An element of ranges read back. -/
@[simp] theorem State.nget_ranges (s : State) (i : Nat) : nget s.ranges i {} = s.range i := rfl

/-- An element of links read back. -/
@[simp] theorem State.nget_links (s : State) (i : Nat) : nget s.links i {} = s.link i := rfl

/-- An element of cores read back. -/
@[simp] theorem State.nget_cores (s : State) (i : Nat) : nget s.cores i {} = s.core i := rfl

/-- An element of sess read back. -/
@[simp] theorem State.nget_sess (s : State) (i : Nat) : nget s.sess i {} = s.session i := rfl

/-- An element of spEnts read back. -/
@[simp] theorem State.nget_spEnts (s : State) (i : Nat) : nget s.spEnts i {} = s.spEnt i := rfl

/-- A part of the state that neither an event nor a BLOCK reset changes. -/
theorem EventFrame.field {α : Type} (f : State → α) (n : Nat) {s t : State}
    (hf : ∀ u v : State, EventFrame u v → f v = f u) (hb : ∀ u : State, f (u.blockReset n) = f u)
    (h : EventFrame s t ∨ s.fld ⟨.strSrc, n, 0⟩ 21 20 = 1 ∧ ∃ u, EventFrame s u ∧ EventFrame (u.blockReset n) t) :
    f t = f s := by
  obtain h | ⟨-, u, hu, ht⟩ := h
  · exact hf _ _ h
  · exact (hf _ _ ht).trans ((hb _).trans (hf _ _ hu))

variable (s : State) (n kind : Nat) (doms : List Nat) (bytes : List Byte) (own : Option Nat)

@[simp] theorem State.blockReset_pending : (s.blockReset n).pending = s.pending := by
  rw [show s.blockReset n = _ from blockReset_rest s n]
@[simp] theorem State.raiseEvent_pending : (s.raiseEvent n kind doms bytes own).pending = s.pending :=
  EventFrame.field State.pending n (fun _ _ h => by rw [h.rest]) (fun u => u.blockReset_pending n) (raiseEvent_frame s n kind doms bytes own)
@[simp] theorem State.blockReset_freeCtr : (s.blockReset n).freeCtr = s.freeCtr := by
  rw [show s.blockReset n = _ from blockReset_rest s n]
@[simp] theorem State.raiseEvent_freeCtr : (s.raiseEvent n kind doms bytes own).freeCtr = s.freeCtr :=
  EventFrame.field State.freeCtr n (fun _ _ h => by rw [h.rest]) (fun u => u.blockReset_freeCtr n) (raiseEvent_frame s n kind doms bytes own)
@[simp] theorem State.blockReset_phase : (s.blockReset n).phase = s.phase := by
  rw [show s.blockReset n = _ from blockReset_rest s n]
@[simp] theorem State.raiseEvent_phase : (s.raiseEvent n kind doms bytes own).phase = s.phase :=
  EventFrame.field State.phase n (fun _ _ h => by rw [h.rest]) (fun u => u.blockReset_phase n) (raiseEvent_frame s n kind doms bytes own)
@[simp] theorem State.blockReset_root : (s.blockReset n).root = s.root := by
  rw [show s.blockReset n = _ from blockReset_rest s n]
@[simp] theorem State.raiseEvent_root : (s.raiseEvent n kind doms bytes own).root = s.root :=
  EventFrame.field State.root n (fun _ _ h => by rw [h.rest]) (fun u => u.blockReset_root n) (raiseEvent_frame s n kind doms bytes own)
@[simp] theorem State.blockReset_aon : (s.blockReset n).aon = s.aon := by
  rw [show s.blockReset n = _ from blockReset_rest s n]
@[simp] theorem State.raiseEvent_aon : (s.raiseEvent n kind doms bytes own).aon = s.aon :=
  EventFrame.field State.aon n (fun _ _ h => by rw [h.rest]) (fun u => u.blockReset_aon n) (raiseEvent_frame s n kind doms bytes own)
@[simp] theorem State.blockReset_clk : (s.blockReset n).clk = s.clk := by
  rw [show s.blockReset n = _ from blockReset_rest s n]
@[simp] theorem State.raiseEvent_clk : (s.raiseEvent n kind doms bytes own).clk = s.clk :=
  EventFrame.field State.clk n (fun _ _ h => by rw [h.rest]) (fun u => u.blockReset_clk n) (raiseEvent_frame s n kind doms bytes own)
@[simp] theorem State.blockReset_latches : (s.blockReset n).latches = s.latches := by
  rw [show s.blockReset n = _ from blockReset_rest s n]
@[simp] theorem State.raiseEvent_latches : (s.raiseEvent n kind doms bytes own).latches = s.latches :=
  EventFrame.field State.latches n (fun _ _ h => by rw [h.rest]) (fun u => u.blockReset_latches n) (raiseEvent_frame s n kind doms bytes own)
@[simp] theorem State.blockReset_outstanding : (s.blockReset n).outstanding = s.outstanding := by
  rw [show s.blockReset n = _ from blockReset_rest s n]
@[simp] theorem State.raiseEvent_outstanding : (s.raiseEvent n kind doms bytes own).outstanding = s.outstanding :=
  EventFrame.field State.outstanding n (fun _ _ h => by rw [h.rest]) (fun u => u.blockReset_outstanding n) (raiseEvent_frame s n kind doms bytes own)
@[simp] theorem State.blockReset_fences : (s.blockReset n).fences = s.fences := by
  rw [show s.blockReset n = _ from blockReset_rest s n]
@[simp] theorem State.raiseEvent_fences : (s.raiseEvent n kind doms bytes own).fences = s.fences :=
  EventFrame.field State.fences n (fun _ _ h => by rw [h.rest]) (fun u => u.blockReset_fences n) (raiseEvent_frame s n kind doms bytes own)
@[simp] theorem State.blockReset_heldReqs : (s.blockReset n).heldReqs = s.heldReqs := by
  rw [show s.blockReset n = _ from blockReset_rest s n]
@[simp] theorem State.raiseEvent_heldReqs : (s.raiseEvent n kind doms bytes own).heldReqs = s.heldReqs :=
  EventFrame.field State.heldReqs n (fun _ _ h => by rw [h.rest]) (fun u => u.blockReset_heldReqs n) (raiseEvent_frame s n kind doms bytes own)
@[simp] theorem State.blockReset_stalls : (s.blockReset n).stalls = s.stalls := by
  rw [show s.blockReset n = _ from blockReset_rest s n]
@[simp] theorem State.raiseEvent_stalls : (s.raiseEvent n kind doms bytes own).stalls = s.stalls :=
  EventFrame.field State.stalls n (fun _ _ h => by rw [h.rest]) (fun u => u.blockReset_stalls n) (raiseEvent_frame s n kind doms bytes own)
@[simp] theorem State.blockReset_streams : (s.blockReset n).streams = s.streams := by
  rw [show s.blockReset n = _ from blockReset_rest s n]
@[simp] theorem State.raiseEvent_streams : (s.raiseEvent n kind doms bytes own).streams = s.streams :=
  EventFrame.field State.streams n (fun _ _ h => by rw [h.rest]) (fun u => u.blockReset_streams n) (raiseEvent_frame s n kind doms bytes own)
@[simp] theorem State.blockReset_flitInj : (s.blockReset n).flitInj = s.flitInj := by
  rw [show s.blockReset n = _ from blockReset_rest s n]
@[simp] theorem State.raiseEvent_flitInj : (s.raiseEvent n kind doms bytes own).flitInj = s.flitInj :=
  EventFrame.field State.flitInj n (fun _ _ h => by rw [h.rest]) (fun u => u.blockReset_flitInj n) (raiseEvent_frame s n kind doms bytes own)
@[simp] theorem State.blockReset_stks : (s.blockReset n).stks = s.stks := by
  rw [show s.blockReset n = _ from blockReset_rest s n]
@[simp] theorem State.raiseEvent_stks : (s.raiseEvent n kind doms bytes own).stks = s.stks :=
  EventFrame.field State.stks n (fun _ _ h => by rw [h.rest]) (fun u => u.blockReset_stks n) (raiseEvent_frame s n kind doms bytes own)
@[simp] theorem State.blockReset_banks : (s.blockReset n).banks = s.banks := by
  rw [show s.blockReset n = _ from blockReset_rest s n]
@[simp] theorem State.raiseEvent_banks : (s.raiseEvent n kind doms bytes own).banks = s.banks :=
  EventFrame.field State.banks n (fun _ _ h => by rw [h.rest]) (fun u => u.blockReset_banks n) (raiseEvent_frame s n kind doms bytes own)
@[simp] theorem State.blockReset_hbmHeld : (s.blockReset n).hbmHeld = s.hbmHeld := by
  rw [show s.blockReset n = _ from blockReset_rest s n]
@[simp] theorem State.raiseEvent_hbmHeld : (s.raiseEvent n kind doms bytes own).hbmHeld = s.hbmHeld :=
  EventFrame.field State.hbmHeld n (fun _ _ h => by rw [h.rest]) (fun u => u.blockReset_hbmHeld n) (raiseEvent_frame s n kind doms bytes own)
@[simp] theorem State.blockReset_hbm : (s.blockReset n).hbm = s.hbm := by
  rw [show s.blockReset n = _ from blockReset_rest s n]
@[simp] theorem State.raiseEvent_hbm : (s.raiseEvent n kind doms bytes own).hbm = s.hbm :=
  EventFrame.field State.hbm n (fun _ _ h => by rw [h.rest]) (fun u => u.blockReset_hbm n) (raiseEvent_frame s n kind doms bytes own)
@[simp] theorem State.blockReset_ranges : (s.blockReset n).ranges = s.ranges := by
  rw [show s.blockReset n = _ from blockReset_rest s n]
@[simp] theorem State.raiseEvent_ranges : (s.raiseEvent n kind doms bytes own).ranges = s.ranges :=
  EventFrame.field State.ranges n (fun _ _ h => by rw [h.rest]) (fun u => u.blockReset_ranges n) (raiseEvent_frame s n kind doms bytes own)
@[simp] theorem State.blockReset_nv : (s.blockReset n).nv = s.nv := by
  rw [show s.blockReset n = _ from blockReset_rest s n]
@[simp] theorem State.raiseEvent_nv : (s.raiseEvent n kind doms bytes own).nv = s.nv :=
  EventFrame.field State.nv n (fun _ _ h => by rw [h.rest]) (fun u => u.blockReset_nv n) (raiseEvent_frame s n kind doms bytes own)
@[simp] theorem State.blockReset_hceLast : (s.blockReset n).hceLast = s.hceLast := by
  rw [show s.blockReset n = _ from blockReset_rest s n]
@[simp] theorem State.raiseEvent_hceLast : (s.raiseEvent n kind doms bytes own).hceLast = s.hceLast :=
  EventFrame.field State.hceLast n (fun _ _ h => by rw [h.rest]) (fun u => u.blockReset_hceLast n) (raiseEvent_frame s n kind doms bytes own)
@[simp] theorem State.blockReset_hceSlotNo : (s.blockReset n).hceSlotNo = s.hceSlotNo := by
  rw [show s.blockReset n = _ from blockReset_rest s n]
@[simp] theorem State.raiseEvent_hceSlotNo : (s.raiseEvent n kind doms bytes own).hceSlotNo = s.hceSlotNo :=
  EventFrame.field State.hceSlotNo n (fun _ _ h => by rw [h.rest]) (fun u => u.blockReset_hceSlotNo n) (raiseEvent_frame s n kind doms bytes own)
@[simp] theorem State.blockReset_kettleRam : (s.blockReset n).kettleRam = s.kettleRam := by
  rw [show s.blockReset n = _ from blockReset_rest s n]
@[simp] theorem State.raiseEvent_kettleRam : (s.raiseEvent n kind doms bytes own).kettleRam = s.kettleRam :=
  EventFrame.field State.kettleRam n (fun _ _ h => by rw [h.rest]) (fun u => u.blockReset_kettleRam n) (raiseEvent_frame s n kind doms bytes own)
@[simp] theorem State.blockReset_beat : (s.blockReset n).beat = s.beat := by
  rw [show s.blockReset n = _ from blockReset_rest s n]
@[simp] theorem State.raiseEvent_beat : (s.raiseEvent n kind doms bytes own).beat = s.beat :=
  EventFrame.field State.beat n (fun _ _ h => by rw [h.rest]) (fun u => u.blockReset_beat n) (raiseEvent_frame s n kind doms bytes own)
@[simp] theorem State.blockReset_later : (s.blockReset n).later = s.later := by
  rw [show s.blockReset n = _ from blockReset_rest s n]
@[simp] theorem State.raiseEvent_later : (s.raiseEvent n kind doms bytes own).later = s.later :=
  EventFrame.field State.later n (fun _ _ h => by rw [h.rest]) (fun u => u.blockReset_later n) (raiseEvent_frame s n kind doms bytes own)
@[simp] theorem State.blockReset_heldWrites : (s.blockReset n).heldWrites = s.heldWrites := by
  rw [show s.blockReset n = _ from blockReset_rest s n]
@[simp] theorem State.raiseEvent_heldWrites : (s.raiseEvent n kind doms bytes own).heldWrites = s.heldWrites :=
  EventFrame.field State.heldWrites n (fun _ _ h => by rw [h.rest]) (fun u => u.blockReset_heldWrites n) (raiseEvent_frame s n kind doms bytes own)
@[simp] theorem State.blockReset_tenantKeys : (s.blockReset n).tenantKeys = s.tenantKeys := by
  rw [show s.blockReset n = _ from blockReset_rest s n]
@[simp] theorem State.raiseEvent_tenantKeys : (s.raiseEvent n kind doms bytes own).tenantKeys = s.tenantKeys :=
  EventFrame.field State.tenantKeys n (fun _ _ h => by rw [h.rest]) (fun u => u.blockReset_tenantKeys n) (raiseEvent_frame s n kind doms bytes own)
@[simp] theorem State.blockReset_vfs : (s.blockReset n).vfs = s.vfs := by
  rw [show s.blockReset n = _ from blockReset_rest s n]
@[simp] theorem State.raiseEvent_vfs : (s.raiseEvent n kind doms bytes own).vfs = s.vfs :=
  EventFrame.field State.vfs n (fun _ _ h => by rw [h.rest]) (fun u => u.blockReset_vfs n) (raiseEvent_frame s n kind doms bytes own)
@[simp] theorem State.blockReset_plyngen : (s.blockReset n).plyngen = s.plyngen := by
  rw [show s.blockReset n = _ from blockReset_rest s n]
@[simp] theorem State.raiseEvent_plyngen : (s.raiseEvent n kind doms bytes own).plyngen = s.plyngen :=
  EventFrame.field State.plyngen n (fun _ _ h => by rw [h.rest]) (fun u => u.blockReset_plyngen n) (raiseEvent_frame s n kind doms bytes own)
@[simp] theorem State.raiseEvent_cell (a : Nat) : (s.raiseEvent n kind doms bytes own).cell a = s.cell a :=
  State.cell_congr (by simp) a

end Sys2Proof.Machine
end

