-- ==== Sys2Proof/Laws/Sieve.lean ====
section
/-! SUPPORT. The plane of zero words passes the sieve, and what it reads. -/

namespace Sys2Proof.Machine

/-- Every word of the empty plane is zero. -/
theorem at_nil (i : Nat) : Plane.at [] i = 0#32 := rfl

theorem bits_zero (hi lo : Nat) : bits 0#32 hi lo = 0 := by simp [bits]

theorem bit_zero (n : Nat) : bit 0#32 n = false := by simp [bit]

theorem firstOf_nil : firstOf [] = none := rfl

/-- The settings of the empty plane are zero. -/
theorem setting_nil (w : Nat) : Plane.setting [] w = 0#32 := rfl

theorem taps_nil (w : Nat) : Plane.taps [] w = [] := by
  simp [Plane.taps, Plane.bound, setting_nil, bit_zero]

theorem allTaps_nil : Plane.allTaps [] = [] := by
  simp [Plane.allTaps, taps_nil]

theorem mcMode_nil (x y m : Nat) : mcMode [] x y m = 0 := by
  simp [mcMode, mcCtl, at_nil, bits_zero]

theorem outSel_nil (x y j : Nat) : outSel [] x y j = 0 := by
  simp [outSel, at_nil, bits_zero]

theorem chIn_nil (x y : Nat) : chIn [] x y = false := by simp [chIn, at_nil, bit_zero]

theorem chOut_nil (x y : Nat) : chOut [] x y = false := by simp [chOut, at_nil, bit_zero]

theorem orTakes_nil (x y m k : Nat) : orTakes [] x y m k = false := by simp [orTakes, at_nil, bit_zero]

theorem badCell_nil (x y : Nat) : badCell [] x y = [] := by
  simp [badCell, mcMode_nil, outSel_nil, chIn_nil, at_nil, bits_zero, selOk]

theorem stageNodes_nil (x y m : Nat) : stageNodes [] x y m = [] := by
  simp [stageNodes, orTakes_nil, chIn_nil]

theorem nodeDeps_nil (n : Node) : nodeDeps [] n = [] := by
  obtain ⟨x, y, k⟩ := n
  simp [nodeDeps, mcMode_nil, stageNodes_nil, outSel_nil, chOut_nil, inRange]

theorem onLoop_nil (n : Node) : onLoop [] n = false := by
  unfold onLoop
  rw [nodeDeps_nil]
  generalize reachFuel = f
  cases f <;> rfl

theorem lineRuns_nil (n : Nat) : Plane.lineRuns [] n = false := by
  simp [Plane.lineRuns, setting_nil, bit_zero]

theorem badBram_nil (n : Nat) : badBram [] n = [] := by
  simp [badBram, at_nil, bits_zero, bit_zero]

theorem badMath_nil (n : Nat) : badMath [] n = [] := by
  simp [badMath, at_nil, bits_zero, bit_zero]

theorem lines_nil : Plane.lines [] = [] := by
  simp [Plane.lines, lineRuns_nil]

theorem badClocks_nil (m : Nat) (g : Word) : badClocks [] m g = [] := by
  simp [badClocks, setting_nil, bits_zero, lines_nil]

theorem badDrive_nil (drive : List Word) : badDrive [] drive = [] := by
  simp only [badDrive, List.flatMap_eq_nil_iff]
  intro p _ sd _
  split
  · simp [outSel_nil]
  · rfl

theorem badBindings_nil : badBindings [] = [] := by
  simp [badBindings, setting_nil, bit_zero]

theorem badReserved_nil : badReserved [] = [] := by
  simp [badReserved, setting_nil]

theorem checkOf_nil (n : Nat) : checkOf n [] = none := rfl

theorem cells_nil (l : List (Nat × Nat)) : (l.flatMap fun p => badCell [] p.1 p.2) = [] := by
  rw [List.flatMap_eq_nil_iff]; intro p _; exact badCell_nil _ _

theorem brams_nil (l : List Nat) : (l.flatMap fun b => badBram [] b) = [] := by
  rw [List.flatMap_eq_nil_iff]; intro b _; exact badBram_nil _

theorem maths_nil (l : List Nat) : (l.flatMap fun b => badMath [] b) = [] := by
  rw [List.flatMap_eq_nil_iff]; intro b _; exact badMath_nil _

theorem loopCell_nil : loopCell [] = none := by
  unfold loopCell
  rw [List.find?_eq_none]
  intro p _
  simp [onLoop_nil]

/-- The plane of zero words passes every check, whatever the grants and DRIVE bits. -/
theorem sieve_nil (n m : Nat) (g : Word) (drive : List Word) (h : badLength n none = false) :
    sieve [] n none m g drive = none := by
  unfold sieve
  rw [h, cells_nil, loopCell_nil, brams_nil, maths_nil, badClocks_nil, badDrive_nil, badBindings_nil, badReserved_nil]
  simp only [checkOf_nil, Option.map_none, Option.none_or, Option.any_none, Bool.false_eq_true, if_false]

/-- The plane of zero words passes the checks that run again. -/
theorem resieve_nil (m : Nat) (g : Word) (drive : List Word) : resieve [] m g drive = none := by
  unfold resieve
  rw [badClocks_nil, badDrive_nil]
  rfl

/-- Words that are all zero make the empty plane. -/
theorem toPlane_replicate (n : Nat) : toPlane (List.replicate n 0) = [] := by
  unfold toPlane
  rw [List.filter_eq_nil_iff]
  intro e he
  have := List.eq_of_mem_replicate (List.of_mem_zip he).2
  simp [this]

end Sys2Proof.Machine
end

