-- ==== Sys2Proof/WellFormed.lean ====
section
/-! DEFINITION. Which commands can be sent at all: operands within the widths the spec gives their carriers.  The
meanings are total and do not depend on these checks; an ill-formed command is one that no sender can form. -/

namespace Sys2Proof.WellFormed

/-- A master ID has 10 bits (R133, R134). -/
def midOk (m : Nat) : Bool := decide (m < 1024)

/-- A TAG is 0 to 1,023 (R134). -/
def tagOk (t : Nat) : Bool := decide (t < 1024)

/-- A tray address has 40 bits (R134). -/
def addrOk (a : Nat) : Bool := decide (a < 2 ^ 40)

/-- LEN holds a length of 1 to 4,096 bytes (R134). -/
def lenOk (n : Nat) : Bool := decide (1 ≤ n ∧ n ≤ 4096)

/-- A TICK has 64 bits (R166). -/
def tickOk (t : Nat) : Bool := decide (t < 2 ^ 64)

/-- A DATA access carries 32 or 64 bytes (R104). -/
def slotsOk (b : List Byte) : Bool := b.length == 32 || b.length == 64

/-- A message of a collector is 32 bytes (R159). -/
def messageOk (b : List Byte) : Bool := b.length == 32

/-- A stream packet is 1 to 9,216 bytes (R147). -/
def packetOk (b : List Byte) : Bool := decide (1 ≤ b.length ∧ b.length ≤ 9216)

/-- A frame of a Selov link is 272 bytes (R327). -/
def selovOk (b : List Byte) : Bool := b.length == 272

/-- A digest list gives one entry for each of 192 cups (R333). -/
def digestsOk (l : List (BitVec 384 × Bool)) : Bool := l.length == 192

/-- A CENSUS message carries 4 cups (R337). -/
def censusOk (l : List (BitVec 384 × Bool)) : Bool := l.length == 4

/-- A member list has 32 words (R349). -/
def membersOk (l : List Word) : Bool := l.length == 32

/-- An offset or event error fits 64 bits, signed (R191). -/
def offsetOk (z : Int) : Bool := decide (-(2 ^ 63) ≤ z ∧ z < 2 ^ 63)

/-- The step and flip ticks of a start-up: five steps, 3 to 7 (R311). -/
def envOk (e : StartEnv) : Bool :=
  e.stepTick.length == 5 && e.stepTick.all tickOk && tickOk e.flipTick && e.train.all fun t => t.2.lanes.length == 38

/-- A domain ID has 8 bits (R15). -/
def domOk (d : Nat) : Bool := decide (d < 256)

/-- A resource index exists (R13, R394). -/
def resourceOk : Resource → Bool
  | .leaf p => decide (p < 52)
  | .cup c => decide (c < 192)
  | .stack s => decide (s < 8)
  | .pch x => decide (x < 256)
  | .lane l => decide (l < 256)
  | .libEntry n => decide (n < 819)
  | .region r => decide (r < 5)
  | .storeDie => true
  | .range r => decide (r < 80)

end Sys2Proof.WellFormed

namespace Sys2Proof

open WellFormed in
/-- A well-formed command. -/
def Instr.wf : Instr → Bool
  | .registerWrite m addr size _ => midOk m && addrOk addr && WellFormed.lenOk size
  | .lowWordRead m addr | .rcFieldRead m addr => midOk m && addrOk addr
  | .read m tag addr len _ => midOk m && tagOk tag && addrOk addr && WellFormed.lenOk len
  | .write m tag addr data _ => midOk m && tagOk tag && addrOk addr && WellFormed.lenOk data.length
  | .fence m tag | .requestTimeout m tag | .refusalLatencyExpiry m tag | .queueWriteTimeout m tag
  | .queueReadTimeout m tag | .queueStallResume m tag => midOk m && tagOk tag
  | .fenceComplete m => midOk m
  | .responseFlit m tag _ => midOk m && tagOk tag
  | .leafDivWrite m _ _ _ => midOk m
  | .dividerChangeEffect _ _ | .colrekCrcMismatch _ _ | .colrekLockLoss _ _ | .colrekRetrainDone _ _ => true
  | .colrekRetrain _ _ _ _ => true
  | .cupStateReq m _ _ | .cupLoad m _ _ | .captureRelease m _ _ | .readbackStart m _ _ => midOk m
  | .cupOffToDormantDone _ | .cupClocksStart _ | .cupClocksStop _ | .cupToOffDone _ | .loadComplete _
  | .shadowRecheck _ | .readbackDone _ | .steepPassCupEnd _ | .cupGateStop _ | .cupGateWake _ => true
  | .cupBrdReqWrite m _ _ _ | .cupBdrvWrite m _ _ _ => midOk m
  | .borderApply _ _ => true
  | .streamPortBindWrite m _ _ _ _ => midOk m
  | .streamInPacket _ _ _ data => packetOk data.bytes
  | .streamOutPacket _ _ data => decide (1 ≤ data.length)
  | .cupRequest _ _ addr _ len _ => addrOk addr && WellFormed.lenOk len
  | .qOpen m tag _ => midOk m && tagOk tag
  | .qData m tag _ bytes => midOk m && tagOk tag && slotsOk bytes
  | .qClose m tag _ _ _ => midOk m && tagOk tag
  | .egressRead m tag _ slots => midOk m && tagOk tag && decide (1 ≤ slots.val)
  | .drop m tag _ => midOk m && tagOk tag
  | .inTake _ _ => true
  | .clearAtFlipDone _ _ => true
  | .steepPassWord _ _ _ => true
  | .reserve m _ | .prepareTree m _ | .release m _ | .prepareRelease m _ | .applySet m _ | .discardSet m _ => midOk m
  | .streamTreeSwitch _ | .degradedClear _ => true
  | .streamDomainWrite m _ | .queueGrantWrite m _ | .timeAdjWrite m _ | .timeStep m _ | .timeSet m _ | .spStage m _
  | .spFree m _ => midOk m
  | .streamSilenceTimeout _ _ => true
  | .signal m tag _ => midOk m && tagOk tag
  | .message m tag _ bytes => midOk m && tagOk tag && messageOk bytes
  | .pop m _ _ => midOk m
  | .collectorVecClear m _ _ _ => midOk m
  | .timeSecondBoundary | .holdover | .ppsOutFall | .spHeldWritesApply => true
  | .servoUpdate offset adj => offsetOk offset && offsetOk adj
  | .ppsInEdge _ => true
  | .arm m _ | .cancel m _ | .casPrepare m _ => midOk m
  | .spFinalCheck _ | .spCommitCheck _ | .spExecute _ | .commitDecision _ | .commit _ | .abort _ => true
  | .lnTxeqWrite m _ _ _ | .eyeScanPoint m _ _ _ | .lanePowerRequest m _ _ _ | .slip m _ _ _ => midOk m
  | .eyeScanDone _ _ _ => true
  | .marginMeasure _ _ _ => true
  | .los _ _ | .lol _ _ | .pcsAlignmentLossTimeout _ _ | .laneRetrain _ _ | .laneRetrainDone _ _
  | .lanePowerExitDone _ _ | .rawTxUnderrun _ _ | .slipDone _ _ | .losClear _ _ | .pcsAlignmentLoss _ _
  | .elasticBufferOverrun _ _ => true
  | .ethFrameReceive _ f => decide (14 ≤ f.bytes.length)
  | .mergeLegSilence _ _ _ => true
  | .clsSelWrite m _ _ | .clsActWrite m _ _ | .pacCfgWrite m _ _ => midOk m
  | .pacerEnqueue _ _ data => packetOk data.bytes
  | .pacerToken _ _ => true
  | .packetTransmit _ _ _ => true
  | .txstampPop m _ => midOk m
  | .rawRxPacket _ _ t0 _ data => tickOk t0 && decide (1 ≤ data.length)
  | .pcieTlp _ _ tag _ _ len wr =>
      tagOk tag && WellFormed.lenOk len && (match wr with
        | some d => d.length == len && decide (len ≤ 512)
        | none => true)
  | .perst _ | .perstRelease _ => true
  | .functionLevelReset _ _ => true
  | .cgWrite m _ _ _ => midOk m
  | .rtpEnable m _ _ | .infBktCfgWrite m _ _ => midOk m
  | .rtpWritePacket _ _ data => packetOk data.bytes
  | .rtpBoundary _ _ | .rtpPacketSend _ _ => true
  | .stackTempSample _ _ => true
  | .selfRefreshEntry _ | .selfRefreshExit _ => true
  | .selfRefreshVerify _ _ _ => true
  | .fullRetrain _ _ | .panicYieldTimeout _ _ | .retrainHeldRepeat _ _ | .bucketLeak _ _ => true
  | .retrainStageDone _ _ r => r.lanes.length == 38
  | .driftTrack _ _ corr _ => corr.length == 38
  | .patrolScrubStep _ _ => true
  | .waymaskWrite m _ _ _ => midOk m
  | .lineRead addr dom _ _ => addrOk addr && domOk dom
  | .create m | .setOwner m | .remove m | .rekey m | .resign m | .override m | .casCensus m | .tokenRelease m
  | .devHeartbeat m => midOk m
  | .rangeFillDone _ | .rekeySweepStep _ => true
  | .sweepRateCheck _ _ _ => true
  | .porst | .porstRelease | .sysrst | .hceSlotBoundary | .claimSend | .claimTimeout | .conflictClear
  | .deputySilenceTimeout | .censusRound | .xtalFail | .rootRelock | .overloadRepeat | .unthrottleStep | .errPulseEnd
  | .lockstepMismatch | .strainerSelfFault | .caddyCommit | .caddyHeadFound | .droopTrip | .tokenLapse | .i2cRead
  | .tapReset => true
  | .aonStartCountDone env | .chipReset env => envOk env
  | .storeWrite m _ | .storeRead m _ | .verify m _ | .reload m _ | .wrap m _ | .progSlot m _ | .revoke m _
  | .raiseSvn m _ | .imgJdataWrite m _ | .imgLibentWrite m _ | .casSlinkWrite m _ | .urnBudgetWrite m _
  | .strIrqackWrite m _ | .strEvpop m _ | .errAssert m _ | .errRelease m _ | .cadSelWrite m _ | .injectEvent m _
  | .injectConfigBit m _ | .injectLineBytes m _ | .injectWrongTag m _ | .injectFlitError m _ | .injectLaneBurst m _
  | .injectCompareMismatch m _ => midOk m
  | .run m _ env => midOk m && envOk env
  | .hceJobStart m _ _ | .hceCtxWrite m _ _ => midOk m
  | .hceChunkDone _ => true
  | .selovFrame _ frame => selovOk frame
  | .ackTimeout _ | .selovRetrain _ | .selovRetrainFail _ => true
  | .claim _ _ _ => true
  | .join _ _ _ digests => digestsOk digests
  | .casAdmitMsg _ _ _ => true
  | .registry members => membersOk members
  | .lsa _ _ links => decide (links.length ≤ 32)
  | .silenceQ _ _ => true
  | .silenceA _ _ _ => true
  | .prepare _ t => tickOk t
  | .ready _ _ | .reportTimeout _ _ => true
  | .refuse _ _ _ | .report _ _ _ => true
  | .censusQ _ => true
  | .census _ _ digests => censusOk digests
  | .censusAnswerTimeout _ => true
  | .reroute _ moves => decide (moves.length ≤ 1024) && moves.all fun e => decide (e.1 < 16384 ∧ e.2 < 32)
  | .casState _ _ _ => true
  | .mbox _ bytes => decide (1 ≤ bytes.length ∧ bytes.length ≤ 240)
  | .sync _ x ofs => tickOk x.t1 && tickOk x.t2 && tickOk x.t3 && tickOk x.t4 && offsetOk ofs
  | .casAdmit m _ => midOk m
  | .restore m _ => midOk m
  | .cascadeFlitEject _ _ _ _ payload => decide (payload.bytes.length ≤ 256)
  | .refWindow _ => true
  | .avsAdjust want => want.length == 13
  | .powerSample rails activity => rails.length == 23 && activity.length == 100 &&
    (rails.all fun r => decide (r.mv < 2 ^ 16 ∧ r.deciamps < 2 ^ 16)) && activity.all fun a => decide (a < 256)
  | .tempSample celsius => celsius.length == 68
  | .thermalTrip _ _ => true
  | .urnRequest _ u | .urnRelease _ u => decide (u ≤ 2047)
  | .wfi _ | .coreInterrupt _ | .machineTimer _ => true
  | .deferLimitTimeout _ => true
  | .strainerEvent _ _ doms bytes => doms.all domOk && decide (bytes.length ≤ 24)
  | .leaseRequest _ rs dom => rs.all resourceOk && domOk dom
  | .leaseRenew _ | .leaseEnd _ | .leaseExpiry _ => true
  | .acquire ms => ms.all midOk
  | .tenantCreate m _ | .teardown m _ => midOk m
  | .cpuPinWrite m _ _ | .coreRun m _ _ | .coreReset m _ _ | .msipWrite m _ _ => midOk m
  | .hello m _ _ | .proof m _ _ | .dbgClose m _ _ | .halt m _ _ | .resume m _ _ | .step m _ _ | .exec m _ _
  | .dbgCapture m _ _ | .recover m _ _ => midOk m
  | .sessionIdleTimeout _ | .debugCaptureTick _ => true
  | .dbgacc tag addr len wr =>
      tagOk tag && addrOk addr && WellFormed.lenOk len && (match wr with
        | some d => d.length == len
        | none => true)
  | .jtagInstruction _ => true
  | .i2cOffsetWrite bytes => decide (1 ≤ bytes.length)
  | .fabricClockEdge _ _ => true
  | .selovLinkUp _ _ => true
  | .steepPassPauseTimeout _ | .steepPassMinRunExpiry _ => true
  | .imgCommandDone _ => true

end Sys2Proof
end

