-- ==== Sys2Proof/Tests/Slice0.lean ====
section
/-! SUPPORT. Small tests, each on one step of a small state, and for every statement with hypotheses a state and operands
that meet them.  The expected values are the spec's or worked out from it by hand. -/

set_option Elab.async false

namespace Sys2Proof.Tests

open Sys2Proof.Machine

/-! ### Ill-formed commands are refused, one for each check of WellFormed -/

theorem test_illFormed_mid : Instr.wf (.fenceComplete 1024) = false ∧ Instr.wf (.fenceComplete 1023) = true := by
  decide +kernel

theorem test_illFormed_tag : Instr.wf (.fence 0x181 1024) = false ∧ Instr.wf (.fence 0x181 1023) = true := by
  decide +kernel

theorem test_illFormed_address :
    Instr.wf (.lowWordRead 0x181 (2 ^ 40)) = false ∧ Instr.wf (.lowWordRead 0x181 (2 ^ 40 - 4)) = true := by decide +kernel

theorem test_illFormed_length : Instr.wf (.read 0x181 0 0 0 .clean) = false ∧ Instr.wf (.read 0x181 0 0 4097 .clean) = false ∧
    Instr.wf (.read 0x181 0 0 4096 .clean) = true := by decide +kernel

theorem test_illFormed_tick :
    Instr.wf (.prepare 0 (2 ^ 64)) = false ∧ Instr.wf (.prepare 0 (2 ^ 64 - 1)) = true := by decide +kernel

theorem test_illFormed_slots : Instr.wf (.qData 0x200 0 (.ingress 0 0) (List.replicate 33 0)) = false ∧
    Instr.wf (.qData 0x200 0 (.ingress 0 0) (List.replicate 64 0)) = true := by decide +kernel

theorem test_illFormed_message : Instr.wf (.message 0x200 0 0 (List.replicate 31 0)) = false ∧
    Instr.wf (.message 0x200 0 0 (List.replicate 32 0)) = true := by decide +kernel

theorem test_illFormed_packet : Instr.wf (.streamInPacket 0 0 0 ⟨[], none⟩) = false ∧
    Instr.wf (.streamInPacket 0 0 0 ⟨(List.replicate 9217 0), none⟩) = false ∧
    Instr.wf (.streamInPacket 0 0 0 ⟨(List.replicate 9216 0), none⟩) = true := by
  refine ⟨rfl, ?_, ?_⟩ <;> simp only [Instr.wf, WellFormed.packetOk, List.length_replicate] <;> decide

theorem test_illFormed_selov :
    Instr.wf (.selovFrame 0 (List.replicate 271 0)) = false ∧ Instr.wf (.selovFrame 0 (List.replicate 272 0)) = true := by
  decide +kernel

theorem test_illFormed_digests : Instr.wf (.join 0 0 0 [(0, false)]) = false ∧
    Instr.wf (.join 0 0 0 (List.replicate 192 (0, false))) = true := by decide +kernel

theorem test_illFormed_census : Instr.wf (.census 0 0 [(0, false)]) = false ∧
    Instr.wf (.census 0 0 (List.replicate 4 (0, false))) = true := by decide +kernel

theorem test_illFormed_members :
    Instr.wf (.registry [0]) = false ∧ Instr.wf (.registry (List.replicate 32 0)) = true := by decide +kernel

theorem test_illFormed_offset : Instr.wf (.servoUpdate (2 ^ 63) 0) = false ∧ Instr.wf (.servoUpdate (-(2 ^ 63)) 0) = true := by
  decide +kernel

theorem test_illFormed_domain :
    Instr.wf (.lineRead 0 256 0 {}) = false ∧ Instr.wf (.lineRead 0 255 0 {}) = true := by decide +kernel

theorem test_illFormed_resource : Instr.wf (.leaseRequest .steepPass [.leaf 52] 0) = false ∧
    Instr.wf (.leaseRequest .shadowLoad [.cup 192] 0) = false ∧
    Instr.wf (.leaseRequest .shadowLoad [.cup 191, .libEntry 818] 0) = true := by decide +kernel

/-- A start-up with its five steps. -/
def someEnv (n : Nat) : StartEnv := 
  { selfTestFail := [], colrekFail := [], colrekRepair := [], train := [], stepTick := List.replicate n 0, flipTick := 0 }

theorem test_illFormed_start : Instr.wf (.chipReset (someEnv 4)) = false ∧
    Instr.wf (.chipReset (someEnv 5)) = true := by decide +kernel

/-! ### Small states -/

/-- A device in service at TICK n, the owner token with host 1. -/
def atTick (n : Nat) : State :=
  { State.reset with
    phase := .service, clk := { State.reset.clk with mode := .running }, root := 16 * n
    regs := putD keyLt State.reset.regs ⟨.devToken, 0, 0⟩ (0x40000000 : Word) 0 }

/-- Registers set over a state. -/
def withRegs (s : State) (l : List (RegKey × Word)) : State :=
  l.foldl (fun (s : State) e => s.setReg e.1 e.2) s

/-- The state that an outcome goes on to. -/
def after (o : Host.Outcome State Fault Refusal) : State :=
  match o with
  | .next t => t
  | .fault _ => State.reset
  | .refused _ => State.reset

/-- A register listed with a value, whatever its Reset value. -/
def pin (s : State) (k : RegKey) (w : Word) : State := { s with regs := insertAt keyLt s.regs k w }

/-! ### The block -/

theorem witness_idle : let s := { atTick 0 with root := 15, pending := [] }
    s.pending = [] ∧ s.rootRuns = true ∧ (after (step s)).root = 16 ∧ (after (step s)).tick = 1 ∧
    (after (step { s with root := 159 })).aon = 1 := by decide +kernel

theorem witness_front : let s := atTick 9
    (after (step (s.push (.registry [])))).pending = s.pending ∧ s.Canonical ∧
    (after (step (s.push (.registry [])))).Canonical := by decide +kernel

/-- Two leases that the matrix lets stand together, and an open border between two cups of the owner's. -/
def bordered : State := { withRegs (atTick 9) [(⟨.cupBrd, 0, 1⟩, 0x3FF00001)] with
  leases := [(0, ⟨.fullRetrain, [.pch 0, .stack 0], 0, 9, 9, 0, none⟩), (511, ⟨.caddyWrite, [.storeDie], 0, 9, 9, 0, none⟩)] }

theorem witness_matrix : bordered.MatrixHolds ∧ bordered.segMode 0 1 0 = 1 ∧ (after (step bordered)).MatrixHolds ∧
    bordered.facesNone 0 1 = false ∧ bordered.sameDomAcross 0 1 = true := by decide +kernel

theorem witness_borders : bordered.BordersClosed := by
  refine ⟨by decide +kernel, fun h => absurd h (by decide +kernel), fun r h => ?_⟩
  rw [show bordered.refusals = [] from by decide +kernel] at h
  cases h

/-! ### Ticks and device time -/

/-- Device time by a source, past second 3. -/
def timed (src : Nat) : State :=
  { (atTick 1000000000).setReg ⟨.timeCtl, 0, 0⟩ (BitVec.ofNat 32 src) with
    time := { State.reset.time with acc := 3000000001 * 2 ^ 32, secDone := 2 } }

theorem witness_timeWrites : let s := timed 3
    let u := timed 1
    s.accepts 0x200 ⟨.timeAdj, 0, 0⟩ ∧ s.timeSrc = 3 ∧ u.accepts 0x200 ⟨.timeAdj, 0, 0⟩ ∧ u.timeSrc = 1 ∧
    s.accepts 0x200 ⟨.timeStep, 0, 0⟩ ∧ s.accepts 0x200 ⟨.timeSetSecHi, 0, 0⟩ ∧
    (s.reg ⟨.timeSetNs, 0, 0⟩).toNat ≤ 999999999 ∧ u.accepts 0x200 ⟨.timeStep, 0, 0⟩ ∧
    (s.setReg ⟨.timeSetNs, 0, 0⟩ 1000000000).accepts 0x200 ⟨.timeSetSecHi, 0, 0⟩ ∧
    999999999 < ((s.setReg ⟨.timeSetNs, 0, 0⟩ 1000000000).reg ⟨.timeSetNs, 0, 0⟩).toNat ∧
    (after (exec (.timeAdjWrite 0x200 0x7FFFFFFF) s)).time.pendAdj = some 17179869 ∧
    (after (exec (.timeStep 0x200 0xFFFFFFFF) s)).time.pendStep = some (-1) := by decide +kernel

theorem witness_secondBoundary :
    let s := { timed 3 with time := { (timed 3).time with pendAdj := some (-7) } }
    let u := { s with time := { s.time with pendStep := some (-5) } }
    s.live = true ∧ s.time.secDone < s.devSec ∧ u.live = true ∧ u.time.secDone < u.devSec ∧
    u.time.pendSet = none ∧ u.time.pendStep = some (-5) ∧
    (after (exec .timeSecondBoundary s)).time.adj = -7 ∧
    (after (exec .timeSecondBoundary s)).time.acc = 3000000001 * 2 ^ 32 := by decide +kernel

theorem witness_servo :
    let s := { timed 1 with time := { (timed 1).time with servoGood := 15 } }
    s.live = true ∧ s.timeSrc = 1 ∧ s.time.everLocked = false ∧ s.time.lastUpdate + 750000000 ≤ s.tick ∧
    s.flag ⟨.timeStat, 0, 0⟩ 2 = false ∧ (after (exec (.servoUpdate 50 0) s)).time.everLocked = true ∧
    (after (exec (.servoUpdate (-1000001) 0) s)).time.pendStep = some 1000001 := by decide +kernel

theorem witness_ppsEarly :
    let s := { withRegs (atTick 1000000000) [(⟨.ppsCfg, 0, 0⟩, 2), (⟨.ppsInStamp, 0, 0⟩, 875000001)] with
      time := { State.reset.time with ppsStamped := true } }
    s.live = true ∧ s.flag ⟨.ppsCfg, 0, 0⟩ 1 = true ∧ s.time.ppsStamped = true ∧
    s.tick < s.pair ⟨.ppsInStamp, 0, 0⟩ ⟨.ppsInStampHi, 0, 0⟩ + 125000000 ∧
    (atTick 9).flag ⟨.ppsCfg, 0, 0⟩ 1 = false := by decide +kernel

theorem witness_pps :
    let s := withRegs (atTick 1000000000) [(⟨.ppsCfg, 0, 0⟩, 2)]
    let u := { s with pins := { s.pins with ppsOut := true } }
    s.live = true ∧ u.pins.ppsOut = true ∧ u.time.ppsFallAt ≤ u.tick ∧ s.flag ⟨.ppsCfg, 0, 0⟩ 1 = true ∧
    s.time.ppsStamped = false ∧ (after (exec .ppsOutFall u)).pins.ppsOut = false ∧
    (after (exec (.ppsInEdge 7) s)).pair ⟨.ppsInStamp, 0, 0⟩ ⟨.ppsInStampHi, 0, 0⟩ = 1000000000 := by decide +kernel

/-! ### The tray: requests, responses, register accesses -/

theorem witness_requests : let s := atTick 1000000
    s.takes 0x200 0xF000000000 = true ∧ s.mayIssue 0x200 3 ∧ s.takes 0x181 0xF000000000 = true ∧ s.mayIssue 0x181 3 ∧
    s.isTenant 0x200 = false ∧ s.takes 0x200 0xFFC = true ∧ legalExtent 0xFFC 8 = false ∧ inRange 0x400 0x443 0x200 = false ∧
    s.clearWay (s.wayOut 0x200 0xFFC) ∧ s.fld ⟨.rtrErr, 7, 0⟩ 15 0 < 65535 ∧
    (let u := (s.issue 0x200 4 .write 0xF000080010 4).flitError 7; s.takes 0x200 0xF000080010 = true ∧ u.writeBar 0x200 0xF000080010 [1, 2, 3, 4] = none) ∧
    (let u := (s.issue 0x200 4 .write 0xFFC 8).flitError 7; s.takes 0x200 0xFFC = true ∧ u.writeBar 0x200 0xFFC [0, 0, 0, 0, 0, 0, 0, 0] = some .denied ∧
        u.uniformAt 0xFFC = false) ∧
    (after (exec (.write 0x200 4 0xF000080010 [1, 2, 3, 4] (.data 7)) s)).responses.length = 1 ∧
    (after (exec (.read 0x200 3 0xFFC 8 .clean) s)).responses.length = 1 := by decide +kernel

theorem witness_readDevId : let s := atTick 1000000
    s.reaches 0x181 ⟨.devId, 0, 0⟩ = true ∧ s.mayIssue 0x181 3 ∧ s.clearWay (s.wayOut 0x181 0xF000000000) ∧ s.latched 0x181 ⟨.devId, 0, 0⟩ = none := by
  decide +kernel

theorem witness_plainWrite : let s := atTick 1000000
    let k : RegKey := ⟨.mntSel, 0, 0⟩
    s.target (0xF000000000 + 0x80010) = .owner 0x80010 ∧ s.ownerAt 0x80010 = some k ∧ s.reaches 0x200 k = true ∧
    (s.midDomain 0x200).isSome = true ∧ s.mayUseWin 0x200 0 = true ∧ s.mayWriteReg 0x200 0 k = true ∧
    s.keyGone k = false ∧ s.fenced 0x200 = false ∧ s.valueDenied 0x200 k 0xFFFFFFFF = false ∧ blkOf k.name ≠ .dbg ∧
    ownWrite k.name = false ∧
    (after (exec (.registerWrite 0x200 0xF000080010 4 0xFFFFFFFF) s)).reg k = 0x1FF := by decide +kernel

theorem witness_readLatches : let s := atTick 1000000
    s.reaches 0x200 ⟨.tickLo, 0, 0⟩ = true ∧ s.mayReadReg 0x200 0 ⟨.tickLo, 0, 0⟩ = true ∧ s.mayUseWin 0x200 0 = true ∧
    (s.midDomain 0x200).isSome = true ∧ s.latched 0x200 ⟨.tickLo, 0, 0⟩ = none ∧
    s.reaches 0x200 ⟨.cadStat, 0, 0⟩ = true ∧ s.mayReadReg 0x200 0 ⟨.cadStat, 0, 0⟩ = true ∧
    s.latched 0x200 ⟨.cadStat, 0, 0⟩ = none ∧
    (after (exec (.lowWordRead 0x200 0xF000050000) s)).sent.length = 1 ∧
    (after (exec (.rcFieldRead 0x200 0xF000040000) (s.setReg ⟨.cadStat, 0, 0⟩ 0x80000007))).reg ⟨.cadStat, 0, 0⟩ =
      0x80000000 := by decide +kernel

/-- A write of master 0x200 is outstanding under tag 3, and a FENCE under tag 4 waits. -/
def fencing : State :=
  { atTick 1000000 with outstanding := [{ mid := 0x200, tag := 3, op := .write, issued := 500000 }], fences := [(0x200, 4)] }

theorem witness_anyRead : let s := atTick 1000000
    let k : RegKey := ⟨.clkLossTick, 0, 0⟩
    s.target (0xF000000000 + 0x10010) = .owner 0x10010 ∧ s.ownerAt 0x10010 = some k ∧ s.reaches 0x181 k = true ∧
    (s.midDomain 0x181).isSome = true ∧ s.mayUseWin 0x181 0 = true ∧ s.mayReadReg 0x181 0 k = true ∧ s.keyGone k = false ∧
    s.fenced 0x181 = false ∧ blkOf k.name = .clk ∧ s.latched 0x181 k = none ∧
    highKeys k = [⟨.clkLossTickHi, 0, 0⟩] := by decide +kernel

theorem witness_fence : let s := fencing
    let u := { s with outstanding := [] }
    s.live = true ∧ (s.midDomain 0x280).isSome = true ∧ s.mayIssue 0x280 4 ∧
    (s.outstanding.any fun o => o.mid == 0x200 && o.op == .write) = true ∧
    u.fences.find? (fun e => e.1 == 0x200) = some (0x200, 4) ∧
    (u.outstanding.any fun o => o.mid == 0x200 && o.op == .write) = false ∧
    u.heldReqs.filter (fun h => h.1 == 0x200) = [] ∧ ¬0x200 < 192 ∧
    (after (exec (.fenceComplete 0x200) u)).fences = [] := by decide +kernel

theorem witness_responses :
    let o : Outstanding := { mid := 0x181, tag := 3, op := .write, issued := 500000 }
    let r : Resp := { mid := 0x181, tag := 3, code := .ok }
    let s := { atTick 1000000 with outstanding := [o], responses := [r] }
    let u := { atTick 1000000 with responses := [r] }
    s.live = true ∧ s.responses.find? (fun r => r.mid == 0x181 && r.tag == 3) = some r ∧
    s.outstanding.find? (fun o => o.mid == 0x181 && o.tag == 3) = some o ∧ hostFn o.mid = none ∧ ¬r.mid < 192 ∧ s.respTurn o = true ∧ r.bytes.length ≤ 256 ∧
    s.clearWay (routersOn (s.place o.mid o.dst).1 (s.masterRouter o.mid)) ∧
    u.outstanding.find? (fun o => o.mid == 0x181 && o.tag == 3) = none ∧ o.issued + 500000 ≤ s.tick ∧
    (after (exec (.responseFlit 0x181 3 .clean) s)).outstanding = [] ∧
    (after (exec (.requestTimeout 0x181 3) s)).outstanding = [] := by decide +kernel

/-- Two reads of one master to one endpoint, the second answered first and with more than 256 bytes. -/
def twoReads : State :=
  { atTick 1000000 with
    outstanding := [{ mid := 0x181, tag := 3, op := .read, issued := 500000 },
      { mid := 0x181, tag := 4, op := .read, issued := 500001, dst := .block 1 },
      { mid := 0x181, tag := 5, op := .read, issued := 500002 }],
    responses := [{ mid := 0x181, tag := 5, code := .ok, bytes := [1] },
      { mid := 0x181, tag := 4, code := .ok, bytes := List.replicate 300 7 }] }

theorem witness_responseOrder : let s := twoReads
    s.live = true ∧ (s.outstanding.find? fun o => o.mid == 0x181 && o.tag == 5).any (fun o => s.respTurn o) = false ∧
    (s.outstanding.find? fun o => o.mid == 0x181 && o.tag == 4).any (fun o => s.respTurn o) = true ∧
    (s.responses.find? fun r => r.mid == 0x181 && r.tag == 4).any (fun r => decide (256 < r.bytes.length)) = true ∧
    (after (exec (.responseFlit 0x181 5 .clean) s)) = s ∧
    (after (exec (.responseFlit 0x181 4 .clean) s)).responses.map (·.bytes.length) = [44, 1] := by decide +kernel

theorem witness_refusal :
    let h : HeldRefusal := { mid := 0x201, tag := 3, due := 16000000, eff := .deny }
    let s := { atTick 1000000 with refusals := [h], outstanding := [{ mid := 0x201, tag := 3, op := .write, issued := 500000 }] }
    s.live = true ∧ s.refusals.find? (fun h => h.mid == 0x201 && h.tag == 3 && decide (h.due ≤ s.root)) = some h ∧ h.eff = .deny ∧
    (s.outstanding.any fun o => o.mid == h.mid && o.tag == h.tag) = true ∧ inRange 0x400 0x443 h.mid = false ∧
    (∀ h ∈ s.refusals, h.mid = 0x201 → h.tag = 3 → ({ s with root := 15999999 } : State).root < h.due) ∧
    (after (exec (.refusalLatencyExpiry 0x201 3) s)).refusals = [] := by decide +kernel

/-! ### Packet queues -/

/-- A packet of one slot, closed. -/
def onePkt : Pkt := { header := some 1, slots := [7], dom := 1, mid := 0x200 }

theorem witness_open : let s := withRegs (atTick 1000000) [(⟨.trayLmap, 47, 0⟩, 0)]
    let q : QRef := .ingress 191 7
    s.mayAccess 0x200 3 q true ∧ qWritten q = true ∧ (s.queue q).isOpen = false ∧ (s.queue q).used < qCap q ∧
    ((after (exec (.qOpen 0x200 3 q) s)).queue q).pkts = [{ dom := 1, mid := 0x200 }] := by decide +kernel

theorem witness_data :
    let q : QRef := .ingress 191 7
    let s := { withRegs (atTick 1000000) [(⟨.trayLmap, 47, 0⟩, 0)] with
      queues := [(queueKey q, { pkts := [onePkt, { slots := [7], dom := 1, mid := 0x200 }] })] }
    s.mayAccess 0x200 3 q true ∧ qWritten q = true ∧ (List.replicate 64 (9 : Byte)).length = 64 ∧
    (s.queue q).pkts = [onePkt] ++ [{ slots := [7], dom := 1, mid := 0x200 }] ∧ (s.queue q).used + 2 ≤ qCap q ∧
    (s.queue q).dropping = false ∧ q ≠ .mailTx ∧
    (after (exec (.qData 0x200 3 q (List.replicate 64 9)) s)).responses.length = 1 ∧
    (after (exec (.qClose 0x200 3 q 32 65535) s)).responses.length = 1 := by decide +kernel

/-- An egress queue with one closed packet, its header taken or not. -/
def egressing (taken : Bool) : State :=
  { withRegs (atTick 1000000) [(⟨.trayLmap, 0, 0⟩, 0)] with
    queues := [(queueKey (.egress 0 0), if taken then { cur := some [7, 8] } else { pkts := [onePkt] })] }

theorem witness_consume :
    let q : QRef := .egress 0 0
    let s := egressing false
    let u := egressing true
    s.mayAccess 0x200 3 q false ∧ qWritten q = false ∧
    (s.queue q).take1 = some (1, true, { cur := some [7] }) ∧ u.mayAccess 0x200 3 q true ∧
    (u.queue q).cur.isSome = true ∧ onePkt.header = some 1 ∧ onePkt.slots ≠ [] ∧
    (u.queue q).cur = some (7 :: 8 :: []) ∧
    (after (exec (.drop 0x200 3 q) u)).queue q = {} := by decide +kernel

theorem witness_inTake :
    let s := { (withRegs (atTick 1000000) [(⟨.trayLmap, 0, 0⟩, 0), (⟨.cupState, 0, 0⟩, 0x202)]).modCup 0
        fun x => { x with plane0 := [(settingsIndex 10, 0x80000000)] } with
      queues := [(queueKey (.ingress 0 7), { pkts := [onePkt] })] }
    s.serving = true ∧ s.portActs 0 10 = true ∧
    (s.queue (.ingress 0 7)).take1 = some (1, true, { cur := some [7] }) ∧
    (after (exec (.inTake 0 7) s)).queue (.ingress 0 7) = { cur := some [7] } := by decide +kernel

/-- A write of master 0x200 held at a transmit queue of quad 62, and a read of it held at a receive queue of quad 63. -/
def stallW : Stall := { mid := 0x200, tag := 3, q := .mgmtTx 62, acc := .opn, since := 0 }
def stallR : Stall := { mid := 0x200, tag := 4, q := .mgmtRx 63, acc := .rd 1, since := 0 }
def stalled : State :=
  { atTick 1000000 with stalls := [stallW, stallR], queues := [(queueKey (.mgmtRx 63), { pkts := [onePkt] })] }

theorem witness_stalls : let s := stalled
    s.live = true ∧ s.findStall 0x200 3 = some stallW ∧ (∀ n, stallW.acc ≠ .rd n) ∧
    stallW.since + s.qTimeout stallW.q ≤ s.tick ∧ inRange 0x400 0x443 0x200 = false ∧
    s.findStall 0x200 4 = some stallR ∧ stallR.acc = .rd 1 ∧ stallR.since + s.qTimeout stallR.q ≤ s.tick ∧
    s.stallFirst stallR = true ∧ s.stallBarred stallR = false ∧
    (s.queue stallR.q).takeN 1 = some ([1], { cur := some [7] }) ∧
    (after (exec (.queueStallResume 0x200 4) s)).stalls.length = 1 := by
  refine ⟨by decide +kernel, by decide +kernel, fun n => ?_, ?_⟩
  · intro h; cases h
  · decide +kernel

/-! ### Collectors and stream ports -/

/-- Collector 63 accepts master 0x200 of domain 1 under index 255, with a queue. -/
def collecting (l : List (RegKey × Word)) : State :=
  withRegs (atTick 1000000) ([(⟨.colCfg, 63, 0⟩, 0xC0000001), (⟨.colSrc, 63, 255⟩, packBits [(31, 31, 1), (23, 16, 1), (9, 0, 0x200)])] ++ l)

theorem witness_signal : let s := collecting []
    s.live = true ∧ s.mayIssue 0x200 3 ∧ s.midDomain 0x200 = some 1 ∧ s.colIndex 63 0x200 1 = some 255 ∧
    s.lacksToken 0x200 = false ∧ ((tenantOf 1).any fun t => !s.tenantExists t) = false ∧
    ((s.col 63).waiting.any fun e => e.1 == 0x200) = false ∧ s.noCredit 0x200 63 = false ∧
    ((after (exec (.signal 0x200 3 63) s)).col 63).queued = [(0x200, 3, none)] := by decide +kernel

/-- Collector 63 with a message of index 255 pending: its acceptance. -/
theorem witness_colServe :
    let s := (collecting []).modCol 63 fun x => { x with queued := [(0x181, 1, none), (0x200, 3, some (List.replicate 32 7))] }
    s.colNext 63 = some (0x200, 3, some (List.replicate 32 7)) ∧ s.colWould 0x200 63 = some 255 ∧
    s.flag ⟨.colCfg, 63, 0⟩ 30 = true ∧ s.pair ⟨.colNotify, 63, 0⟩ ⟨.colNotifyHi, 63, 0⟩ = 0 ∧
    inRange 0x400 0x443 0x200 = false ∧ (s.colServe 63).reg ⟨.colVec, 63, 7⟩ = 0x80000000 ∧
    ((s.colServe 63).col 63).msgs.map (·.idx) = [255] := by decide +kernel

theorem witness_signalDenied : let s := collecting []
    s.live = true ∧ s.mayIssue 0x188 3 ∧ s.midDomain 0x188 = some 0 ∧ s.colIndex 63 0x188 0 = none ∧
    s.isTenant 0x188 = false ∧ inRange 0x400 0x443 0x188 = false ∧
    (s.col 63).waiting = [] ∧ { s with root := 1 }.root % 4 ≠ 0 := by decide +kernel

theorem witness_message :
    let s := (collecting []).modCol 63 fun x => { x with msgs := [{ idx := 255, src := 0x560, tick := 5, bytes := List.replicate 32 7 }] }
    s.live = true ∧ s.mayIssue 0x200 3 ∧ (List.replicate 32 (7 : Byte)).length = 32 ∧ s.noCredit 0x200 63 = true ∧
    s.accepts 0x200 ⟨.colPop, 63, 0⟩ ∧ (s.col 63).waiting = [] ∧ (s.col 63).msgs ≠ [] ∧
    (after (exec (.pop 0x200 63 1) s)).noCredit 0x200 63 = false ∧
    ((after (exec (.message 0x200 3 63 (List.replicate 32 7)) s)).col 63).waiting.length = 1 := by decide +kernel

theorem witness_vecClear : let s := collecting [(⟨.colVec, 63, 7⟩, 0x80000001)]
    s.accepts 0x200 ⟨.colVec, 63, 7⟩ ∧
    (after (exec (.collectorVecClear 0x200 63 7 0x80000000) s)).reg ⟨.colVec, 63, 7⟩ = 1 := by decide +kernel

theorem witness_bind :
    let s := withRegs (atTick 1000000) [(⟨.trayLmap, 47, 0⟩, 0), (⟨.devTexist, 0, 0⟩, 1), (⟨.cupOwner, 191, 0⟩, 0x10)]
    s.accepts 0x200 (bindKey 191 3 true) ∧ s.bindDenied 0x200 0x80003FFF = false ∧ s.accepts 191 (bindKey 191 3 true) ∧
    s.midDomain 191 = some 0x10 ∧ (tenantOf 0x10).isSome = true ∧ s.fld ⟨.traySent, bits 0x80000005 13 0, 0⟩ 7 0 ≠ 0x10 ∧
    (after (exec (.streamPortBindWrite 0x200 191 true 3 0x80003FFF) s)).reg ⟨.cupSout, 191, 3⟩ = 0x80003FFF := by
  decide +kernel

/-- Stream 5 reaches the running cup 0 at its stream-in port 0; stream 6 leaves it at port 0. -/
def porting : State :=
  let s := withRegs (atTick 1000000) [(⟨.trayLmap, 0, 0⟩, 0), (⟨.cupState, 0, 0⟩, 0x202), (⟨.cupSin, 0, 0⟩, 0x80000005),
    (⟨.cupSout, 0, 0⟩, 0x80000006)]
  let s := s.modCup 0 fun x => { x with plane0 := [(settingsIndex 1, 0x80000000), (settingsIndex 5, 0x80000000)],
                                        clearing := [(199, 0)] }
  { s with streams := [(5, { tree := some { srcK := 2, srcPort := 0, via := none, dsts := [(0, 0)], slots := [7], be := false },
                             dstState := [(0, 2)], lastSop := [(0, 999000)] }),
                       (6, { tree := some { srcK := 0, srcPort := 0, via := none, dsts := [(2, 0)], slots := [8], be := false } })] }

theorem witness_streamPorts : let s := porting
    let d := List.replicate 9 (1 : Byte)
    s.serving = true ∧ s.cupRouter 0 = some 0 ∧ s.ownStream 0 5 = true ∧ s.ownStream 0 6 = true ∧ s.soutRoom 0 0 9 = true ∧ s.fld ⟨.cupSin, 0, 0⟩ 13 0 = 5 ∧ ((s.stream 5).dstAt 0 0).isSome = true ∧
    s.cupGone 0 = false ∧ (s.streamArrive 5 0 0).cupState 0 = 2 ∧ (s.streamArrive 5 0 0).cup 0 = s.cup 0 ∧
    (s.cup 0).active.bound 1 = true ∧ (s.streamArrive 5 0 0).flag ⟨.cupSin, 0, 0⟩ 31 = true ∧
    (nget (s.cup 0).sin 0 {}).used + d.length ≤ 32768 ∧ s.portActs 0 5 = true ∧ s.flag ⟨.cupSout, 0, 0⟩ 31 = true ∧
    ((s.stream (s.fld ⟨.cupSout, 0, 0⟩ 13 0)).tree.any fun t => t.srcK == 0 && t.srcPort == 0 && !t.be) = true ∧
    (s.stream (s.fld ⟨.cupSout, 0, 0⟩ 13 0)).prep = none ∧ (s.stream (s.fld ⟨.cupSout, 0, 0⟩ 13 0)).wait = [] ∧
    { s with streams := [] }.isSource 6 0 0 = false ∧
    (after (exec (.streamInPacket 0 0 5 ⟨d, some 239⟩) s)).fld ⟨.rtrErr, 239, 0⟩ 15 0 = 1 ∧
    (after (exec (.streamInPacket 0 0 5 ⟨d, some 239⟩) s)).fld ⟨.cupSin, 0, 0⟩ 29 14 = 1 := by decide +kernel

theorem witness_clearAtFlip : let s := porting
    s.serving = true ∧ look (s.cup 0).clearing 199 = some 0 ∧
    look ((after (exec (.clearAtFlipDone 0 199) s)).cup 0).clearing 199 = none := by decide +kernel

/-! ### Leaf dies -/

theorem witness_leafDiv :
    let s := withRegs (atTick 1000000) [(⟨.trayLmap, 0, 0⟩, 51), (⟨.cupState, 0, 0⟩, 0x202)]
    let u := s.modCup 0 fun x => { x with plane0 := [(settingsIndex 0, 0x0100000F)] }
    s.accepts 0x200 ⟨.leafDiv, 51, 15⟩ ∧ s.dividerUsed 51 15 = false ∧ 4 ≤ bits 255 7 0 ∧
    u.accepts 0x200 ⟨.leafDiv, 51, 15⟩ ∧ u.dividerUsed 51 15 = true ∧
    look ((after (exec (.leafDivWrite 0x200 51 15 255) s)).leaf 51).divPend 15 = some 256 ∧
    (after (exec (.leafDivWrite 0x200 51 15 255) u)).flag ⟨.leafStatus, 51, 0⟩ 8 = true := by decide +kernel

theorem witness_dividerChange :
    let s := { (atTick 1000000).modLeaf 51 fun x => { x with divPend := [(15, 256)] } with root := 256 * 62500 }
    s.live = true ∧ look (s.leaf 51).divPend 15 = some 256 ∧ s.root % 256 = 0 ∧
    nget ((after (exec (.dividerChangeEffect 51 15) s)).leaf 51).divNow 15 5 = 256 := by decide +kernel

theorem witness_colrek :
    let s := atTick 1000000
    let u := s.modLeaf 51 fun x => { x with crcAt := [(177, 750001)], retrains := [(177, [4, 5])] }
    let r := (s.setFld ⟨.leafCrkGstat, 51, 177⟩ 1 0 1).modLeaf 51 fun x => { x with retrains := [(177, [4, 5])] }
    s.serving = true ∧ look (s.leaf 51).crcAt 177 = none ∧ look (u.leaf 51).crcAt 177 = some 750001 ∧
    u.tick < 750001 + 250000 ∧ u.crkState 51 177 = 0 ∧ r.crkState 51 177 = 1 ∧
    ((nget (r.leaf 51).retrains 177 []).filter fun t => r.tick < t + 250000000).length < 3 ∧
    nget (r.leaf 51).spared 177 0 = 0 ∧
    (after (exec (.colrekCrcMismatch 51 177) u)).crkState 51 177 = 1 ∧
    (after (exec (.colrekRetrainDone 51 177) r)).crkState 51 177 = 0 := by decide +kernel

/-! ### Streams -/

/-- Stream 5 staged from the cup at router 0 to the cup at router 2, two slots. -/
def stagedStream : State :=
  withRegs (atTick 1000000) [(⟨.trayLmap, 0, 0⟩, 0), (⟨.trayLmap, 1, 0⟩, 1), (⟨.rsvStream, 0, 0⟩, 5),
    (⟨.rsvSlots, 0, 0⟩, 2), (⟨.rsvDst, 0, 0⟩, 0x80000002)]

/-- The same with the stream's tree in force. -/
def heldStream : State := stagedStream.modStream 5 fun x =>
  { x with tree := some { srcK := 0, srcPort := 0, via := none, dsts := [(2, 0)], slots := [7], be := false },
           dstState := [(0, 2)], lastSop := [(0, 999000)] }

/-- The same with a release prepared in set 3. -/
def swapStream : State := heldStream.modStream 5 fun x => { x with prep := some { set := 3, tree := none } }

theorem witness_reserve : let s := stagedStream
    s.accepts 0x200 ⟨.rsvCmd, 0, 0⟩ ∧ s.flag ⟨.rsvCmd, 0, 0⟩ 31 = false ∧ s.inHold = false ∧ s.fld ⟨.rsvStream, 0, 0⟩ 13 0 = 5 ∧ (s.stream 5).tree = none ∧
    s.descriptorCode s.stagedTree (s.fld ⟨.rsvSlots, 0, 0⟩ 9 0) = 0 ∧
    s.overSlots 5 (s.fld ⟨.rsvSlots, 0, 0⟩ 9 0) = false ∧
    (s.allocate s.stagedTree (s.fld ⟨.rsvSlots, 0, 0⟩ 25 16) (s.fld ⟨.rsvSlots, 0, 0⟩ 9 0)).toOption = some [0, 512] ∧
    ((after (exec (.reserve 0x200 0) s)).stream 5).tree.map (·.slots) = some [0, 512] := by decide +kernel

theorem witness_prepareTree : let s := heldStream
    s.accepts 0x200 ⟨.rsvCmd, 0, 0⟩ ∧ s.flag ⟨.rsvCmd, 0, 0⟩ 31 = false ∧ s.inHold = false ∧ s.fld ⟨.rsvStream, 0, 0⟩ 13 0 = 5 ∧ (s.stream 5).tree ≠ none ∧
    (s.stream 5).prep = none ∧ s.setArmed 3 = false ∧ s.descriptorCode s.stagedTree (s.fld ⟨.rsvSlots, 0, 0⟩ 9 0) = 0 ∧
    s.overSlots 5 (s.fld ⟨.rsvSlots, 0, 0⟩ 9 0) = false ∧
    (s.allocate s.stagedTree (s.fld ⟨.rsvSlots, 0, 0⟩ 25 16) (s.fld ⟨.rsvSlots, 0, 0⟩ 9 0)).toOption = some [0, 512] ∧
    ((after (exec (.prepareTree 0x200 3) s)).stream 5).prep.map (·.set) = some 3 := by decide +kernel

theorem witness_release : let s := swapStream
    s.accepts 0x200 ⟨.rsvCmd, 0, 0⟩ ∧ s.flag ⟨.rsvCmd, 0, 0⟩ 31 = false ∧ s.inHold = false ∧ s.fld ⟨.rsvStream, 0, 0⟩ 13 0 = 5 ∧ (s.stream 5).tree ≠ none ∧
    ((s.stream 5).prep.any fun p => s.setArmed p.set) = false ∧
    ((after (exec (.release 0x200 0) s)).stream 5).tree = none := by decide +kernel

theorem witness_prepareRelease : let s := heldStream
    s.accepts 0x200 ⟨.rsvCmd, 0, 0⟩ ∧ s.flag ⟨.rsvCmd, 0, 0⟩ 31 = false ∧ s.inHold = false ∧ s.fld ⟨.rsvStream, 0, 0⟩ 13 0 = 5 ∧ (s.stream 5).tree ≠ none ∧
    (s.stream 5).prep = none ∧ s.setArmed 15 = false ∧
    ((after (exec (.prepareRelease 0x200 15) s)).stream 5).prep = some { set := 15, tree := none } := by decide +kernel

theorem witness_swapSets : let s := swapStream
    s.accepts 0x200 ⟨.rsvCmd, 0, 0⟩ ∧ s.flag ⟨.rsvCmd, 0, 0⟩ 31 = false ∧ s.inHold = false ∧ s.setArmed 3 = false ∧
    (s.stream 5).prep = some { set := 3, tree := none } ∧
    ((after (exec (.applySet 0x200 3) s)).stream 5).prep = some { set := 3, tree := none, applied := true } ∧
    ((after (exec (.discardSet 0x200 3) s)).stream 5).prep = none := by decide +kernel

theorem witness_streamTreeSwitch : let s := after (exec (.applySet 0x200 3) swapStream)
    s.serving = true ∧ (s.stream 5).prep = some { set := 3, tree := none, applied := true } ∧ (s.stream 5).wait = [] ∧
    ((after (exec (.streamTreeSwitch 5) s)).stream 5).tree = none := by decide +kernel

/-- A packet of two flits of stream 5 waits at its source, router 0. -/
def waitingStream (gone : Nat) : State := heldStream.modStream 5 fun x =>
  { x with wait := [{ owner := .sout 0 0, k := 0, p := 0, bytes := List.replicate 300 7, gone }] }

theorem witness_flits : let s := waitingStream 0
    let tr : Tree := { srcK := 0, srcPort := 0, via := none, dsts := [(2, 0)], slots := [7], be := false }
    let u := s.modStream 5 fun x => { x with prep := some { set := 3, tree := some { tr with slots := [9] }, applied := true } }
    (s.stream 5).wait.length = 1 ∧ (s.stream 5).wait ≠ [] ∧ (s.stream 5).tree = some tr ∧ s.clearWay tr.routers ∧
    0 + 1 < flitCount 300 ∧ flitCount 300 ≤ 1 + 1 ∧ s.rawSinks 5 tr = [] ∧
    ((s.leaveFlit 5 tr).stream 5).wait.map (·.gone) = [1] ∧
    (((waitingStream 1).leaveFlit 5 tr).stream 5).wait = [] ∧ (waitingStream 1).streamFlow 5 = waitingStream 1 ∧
    ((u.streamFlow 5).stream 5).tree = some { tr with slots := [9] } ∧
    (after (exec (.release 0x200 0) s)).fld ⟨.cupSout, 0, 0⟩ 29 14 = 1 ∧
    (pin s ⟨.rsvCmd, 0, 0⟩ 0x80000000).flag ⟨.rsvCmd, 0, 0⟩ 31 = true := by decide +kernel

theorem witness_streamDomainWrite : let s := withRegs (atTick 9) [(⟨.traySsel, 0, 0⟩, 5), (⟨.traySent, 5, 0⟩, 0x10)]
    s.accepts 0x200 ⟨.traySent, 5, 0⟩ ∧ s.fld ⟨.traySsel, 0, windowOf ((s.midDomain 0x200).getD 0)⟩ 13 0 = 5 ∧
    (s.stream 5).tree = none ∧ s.fld ⟨.traySent, 5, 0⟩ 7 0 ≠ bits 0x01 7 0 ∧
    s.domainExists (bits 0x01 7 0) = true ∧ tenantOf (bits 0x01 7 0) = none ∧
    (after (exec (.streamDomainWrite 0x200 0x01) s)).fld ⟨.traySent, 5, 0⟩ 7 0 = 1 := by decide +kernel

theorem witness_streamDomainRefused : let s := withRegs (atTick 9) [(⟨.traySsel, 0, 0⟩, 5)]
    s.accepts 0x200 ⟨.traySent, 5, 0⟩ ∧ s.fld ⟨.traySsel, 0, windowOf ((s.midDomain 0x200).getD 0)⟩ 13 0 = 5 ∧
    (s.stream 5).tree = none ∧ s.fld ⟨.traySent, 5, 0⟩ 7 0 ≠ bits 0x11 7 0 ∧ s.domainExists (bits 0x11 7 0) = false ∧
    (after (exec (.streamDomainWrite 0x200 0x11) s)).flag ⟨.traySsel, 0, 0⟩ 31 = true := by decide +kernel

theorem witness_streamSilence : let s := withRegs heldStream [(⟨.trayScfg, 0, 0⟩, 1)]
    s.serving = true ∧ (s.stream 5).tree.isSome = true ∧ look (s.stream 5).lastSop 0 = some 999000 ∧
    nget (s.stream 5).dstState 0 0 = 2 ∧ s.silenceTicks ≠ 0 ∧ 999000 + s.silenceTicks ≤ s.tick ∧
    nget ((after (exec (.streamSilenceTimeout 5 0) s)).stream 5).dstState 0 0 = 3 := by decide +kernel

theorem witness_degradedClear : let s := heldStream.modStream 5 fun x => { x with degradedAt := some 750000, dstState := [(0, 5)] }
    s.serving = true ∧ (s.stream 5).tree.isSome = true ∧ (s.stream 5).degradedAt = some 750000 ∧
    750000 + 250000 ≤ s.tick ∧ nget ((after (exec (.degradedClear 5) s)).stream 5).dstState 0 0 = 2 := by decide +kernel

theorem witness_queueGrant : let s := withRegs (atTick 9) [(⟨.trayQgsel, 0, 0⟩, 255)]
    s.fld ⟨.trayQgsel, 0, 0⟩ 7 0 = 255 ∧ s.accepts 0x200 ⟨.trayQg, 255, 0⟩ ∧ bits 0xC7BF004F 23 16 ≤ 191 ∧
    inRange 0x10 0x4F (bits 0xC7BF004F 7 0) = true ∧ s.flag ⟨.trayQg, 255, 0⟩ 31 = false ∧
    (after (exec (.queueGrantWrite 0x200 0xC7BF004F) s)).reg ⟨.trayQg, 255, 0⟩ = 0xC7BF004F := by decide +kernel

/-! ### The switch-point table -/

/-- Entry 4 staged in group 9: STREAM_SWAP of set 3 at tick 2,000,000. -/
def stagedEntry : State :=
  { withRegs swapStream [(⟨.spSel, 0, 0⟩, 4), (⟨.spCtl, 4, 0⟩, 0x20090002)] with
    spEnts := [(4, { exec := 2000000, group := 9, action := 2, args := [3, 0, 0, 0, 0, 0] })] }

/-- The same armed. -/
def armedEntry : State := stagedEntry.setReg ⟨.spCtl, 4, 0⟩ 0x40090002

/-- FINAL, at the tick; `act` and `args` say what the entry does. -/
def finalEntry (act : Nat) (args : List Word) : State :=
  { withRegs swapStream [(⟨.spCtl, 4, 0⟩, 0x60090002)] with
    root := 32000000, spEnts := [(4, { exec := 2000000, group := 9, action := act, args })] }

theorem witness_spStage : let s := stagedEntry
    s.accepts 0x200 ⟨.spCtl, s.spSel, 0⟩ ∧ s.spOpen s.spSel = true ∧ 1 ≤ bits 0x18FF0004 3 0 ∧ bits 0x18FF0004 3 0 ≤ 4 ∧
    (after (exec (.spStage 0x200 0x18FF0004) s)).spEnt 4 =
      { exec := 0, casc := true, hold := true, group := 255, action := 4, args := [0, 0, 0, 0, 0, 0] } ∧
    (after (exec (.spFree 0x200 0) s)).spState 4 = 0 := by decide +kernel

theorem witness_spStageIgnored : let s := armedEntry
    s.accepts 0x200 ⟨.spCtl, s.spSel, 0⟩ ∧ (s.spState s.spSel = 2 ∨ s.spState s.spSel = 3) := by decide +kernel

theorem witness_arm : let s := stagedEntry
    s.accepts 0x200 ⟨.spCmd, 0, 0⟩ ∧ s.flag ⟨.spCmd, 0, 0⟩ 31 = false ∧ s.inHold = false ∧ s.spGroup 9 (fun st => st == 1) = [4] ∧ s.spArmedOf 9 = [] ∧
    s.armFault (s.spGroup 9 fun st => st == 1) none = none ∧
    (after (exec (.arm 0x200 9) s)).spState 4 = 2 := by decide +kernel

theorem witness_armFails : let s := { stagedEntry with root := 16 * 1725001 }
    s.accepts 0x200 ⟨.spCmd, 0, 0⟩ ∧ s.flag ⟨.spCmd, 0, 0⟩ 31 = false ∧ s.inHold = false ∧ s.spGroup 9 (fun st => st == 1) = [4] ∧ s.spArmedOf 9 = [] ∧
    s.armFault (s.spGroup 9 fun st => st == 1) none = some (4, 8) ∧
    (after (exec (.arm 0x200 9) s)).fld ⟨.spCtl, 4, 0⟩ 15 12 = 8 := by decide +kernel

theorem witness_cancel : let s := armedEntry
    s.accepts 0x200 ⟨.spCmd, 0, 0⟩ ∧ s.flag ⟨.spCmd, 0, 0⟩ 31 = false ∧ s.spArmedOf 9 = [4] ∧ s.spState 4 = 2 ∧
    (after (exec (.cancel 0x200 9) s)).spState 4 = 5 := by decide +kernel

theorem witness_cancelCasc :
    let x : SpEnt := { exec := 2000000, casc := true, group := 9, action := 2, args := [3] }
    let s := withRegs { armedEntry with spEnts := [(4, x)] } [(⟨.casStat, 0, 0⟩, 0x40000000)]
    s.accepts 0x200 ⟨.spCmd, 0, 0⟩ ∧ s.flag ⟨.spCmd, 0, 0⟩ 31 = false ∧ s.spArmedOf 9 = [4] ∧ s.spState 4 = 2 ∧ s.spCasc 9 = true ∧ s.casRole = 1 ∧
    s.spCasc 8 = false := by decide +kernel

theorem witness_spFinalCheck : let s := { armedEntry with root := 16 * 1750000 }
    s.serving = true ∧ s.spGroupTick 9 = some 2000000 ∧ 2000000 ≤ s.tick + 250000 ∧ s.spArmedOf 9 = [4] ∧
    s.spState 4 = 2 ∧ s.finalFault 9 = none ∧ (after (exec (.spFinalCheck 9) s)).spState 4 = 3 := by decide +kernel

theorem witness_spCommitCheck :
    let s := { pin armedEntry ⟨.strSrc, 0x032, 0⟩ 0 with root := 16 * 1975000, spEnts := [(4, { exec := 2000000, casc := true, group := 9, action := 2, args := [3] })] }
    s.serving = true ∧ s.spGroupTick 9 = some 2000000 ∧ 2000000 ≤ s.tick + 25000 ∧ s.spCasc 9 = true ∧
    (s.group 9).commit = false ∧ s.fld ⟨.strSrc, 0x032, 0⟩ 21 20 ≠ 1 := by decide +kernel

theorem witness_spExecute : let s := finalEntry 2 [3]
    s.serving = true ∧ s.spArmedOf 9 = [4] ∧ s.spLocalTick 4 = s.tick ∧ s.root = 16 * s.tick ∧ s.clk.mode = .running ∧
    s.groupsNow = [9] ∧ s.spState 4 = 3 ∧ s.spAction 4 = 2 ∧ s.spGone 4 = false ∧ s.spCasc 9 = false ∧ s.spGroupTick 9 = some 2000000 ∧
    (s.stream 5).prep = some { set := bits ((s.spEnt 4).arg 0) 3 0, tree := none } ∧
    (after (exec (.spExecute 9) s)).spState 4 = 4 := by decide +kernel

theorem witness_spExecuteFlip : let s := finalEntry 1 [1]
    s.serving = true ∧ s.spArmedOf 9 = [4] ∧ s.spLocalTick 4 = s.tick ∧ s.root = 16 * s.tick ∧ s.clk.mode = .running ∧
    s.groupsNow = [9] ∧ s.spState 4 = 3 ∧ s.spAction 4 = 1 ∧ (s.spEnt 4).cups = [0] ∧ s.cupGone 0 = false ∧
    s.spCasc 9 = false := by decide +kernel

theorem witness_spExecuteGone : let s := pin ((finalEntry 1 [1]).setReg ⟨.trayLmap, 0, 0⟩ 0x100) ⟨.strSrc, 0x032, 0⟩ 0
    s.serving = true ∧ s.spArmedOf 9 = [4] ∧ s.spLocalTick 4 = s.tick ∧ s.root = 16 * s.tick ∧ s.clk.mode = .running ∧
    s.groupsNow = [9] ∧ s.spState 4 = 3 ∧ s.spGone 4 = true ∧ s.fld ⟨.strSrc, 0x032, 0⟩ 21 20 ≠ 1 := by decide +kernel

theorem witness_spHeldWrites :
    let s := { atTick 2000001 with heldWrites := [(2000000, .cupStateReq 0x200 7 1)] }
    let u := { atTick 2000001 with heldWrites := [(2000000, .cupBdrvWrite 0x200 7 2 0)] }
    let x := { atTick 2000001 with heldWrites := [(2000000, .cupBrdReqWrite 0x200 7 2 0)] }
    s.finals = [] ∧ u.finals = [] ∧ x.finals = [] ∧ x.live = true ∧ bits (1 : Word) 1 0 ≠ 3 ∧
    s.live = true ∧ 2000000 < s.tick ∧ u.live = true ∧ { s with root := 32000000 }.tick ≤ 2000000 ∧
    (after (exec .spHeldWritesApply s)).heldWrites = [] ∧
    (after (exec .spHeldWritesApply s)).cupTarget 7 = 1 := by decide +kernel


theorem witness_spCmdBusy : let s := stagedEntry.setReg ⟨.spCmd, 0, 0⟩ 0x80000000
    s.accepts 0x200 ⟨.spCmd, 0, 0⟩ ∧ s.flag ⟨.spCmd, 0, 0⟩ 31 = true := by decide +kernel

theorem witness_spHeldWritesOther :
    let s := { atTick 2000001 with heldWrites := [(2000000, .tenantCreate 0x200 3)] }
    let u := { atTick 2000001 with heldWrites := [(2000000, .registerWrite 0x200 (0xF000020100 + 4 * 7) 4 5)] }
    let x := { atTick 2000001 with heldWrites := [(2000000, .registerWrite 0x200 (0xF000D00080 + 0x1000 * 51 + 4 * 3) 4 5)] }
    let y := { atTick 2000001 with heldWrites := [(2000000, .cupStateReq 0x200 7 1), (2000001, .cupStateReq 0x200 8 1)] }
    s.finals = [] ∧ u.finals = [] ∧ x.finals = [] ∧ x.live = true ∧ s.live = true ∧ u.live = true ∧ y.live = true ∧
    2000000 < s.tick ∧ y.tick ≤ 2000001 ∧
    (after (exec .spHeldWritesApply u)).reg ⟨.urnCl, 7, 0⟩ = 5 ∧
    (after (exec .spHeldWritesApply x)).reg ⟨.leafDivgrant, 51, 3⟩ = 5 ∧
    ((after (exec .spHeldWritesApply y)).heldWrites.map (·.1)) = [2000001] := by decide +kernel

/-! ### Cups -/

/-- Cups 0 to 3 stand on leaf 0; cup 0 in a state, with a target and units granted. -/
def cupIn (st target units : Nat) : State :=
  withRegs (atTick 1000000) [(⟨.trayLmap, 0, 0⟩, 0),
    (⟨.cupState, 0, 0⟩, BitVec.ofNat 32 (st + 256 * target)), (⟨.urnCls, 0, 0⟩, BitVec.ofNat 32 units),
    (⟨.urnBudget, 0, 0⟩, 4000)]

theorem witness_cupStateReq : let s := cupIn 0 0 0
    s.accepts 0x200 ⟨.cupStateReq, 0, 0⟩ ∧ bits 2 1 0 ≠ 3 ∧ s.finals = [] ∧ s.cupState 0 = 0 ∧ s.grant 0 = 0 ∧
    s.urn.pend = [] ∧ s.fits 0 1 = true ∧ s.firm 0 = true ∧ bits 3 1 0 = 3 ∧
    (after (exec (.cupStateReq 0x200 0 2) s)).flag ⟨.cupState, 0, 0⟩ 10 = true := by decide +kernel

theorem witness_cupGrant :
    let s := withRegs (cupIn 0 1 0) [(⟨.cupState, 0, 0⟩, 0x500)]
    let s : State := { s with urn := { s.urn with pend := [{ client := 0, units := 1, cycle := 3999999 }] } }
    s.fits 0 1 = true ∧ s.firm 0 = true ∧ s.flag ⟨.cupState, 0, 0⟩ 10 = true ∧ s.grant 0 + 1 < 2048 ∧
    3999999 < s.trayCycle ∧ s.examine.grant 0 = 1 ∧ ({ s with root := 0 } : State).trayCycle ≤ 3999999 := by decide +kernel

theorem witness_cupOffToDormantDone : let s := (cupIn 0 1 1).modCup 0 fun x => { x with moving := true }
    s.serving = true ∧ s.cupState 0 = 0 ∧ (s.cup 0).moving = true ∧ 1 ≤ s.cupTarget 0 ∧ s.cupTarget 0 ≠ 2 := by
  decide +kernel

theorem witness_cupClocksStart : let s := (cupIn 1 2 16).modCup 0 fun x => { x with moving := true }
    s.serving = true ∧ s.cupState 0 = 1 ∧ (s.cup 0).moving = true ∧ s.cupTarget 0 = 2 ∧
    ((after (exec (.cupClocksStart 0) s)).cup 0).startRoot = 16000016 := by decide +kernel

theorem witness_cupClocksStop : let s := (cupIn 2 1 16).modCup 0 fun x => { x with stopTick := some 999990 }
    s.serving = true ∧ s.cupState 0 = 2 ∧ s.cupTarget 0 = 1 ∧ (s.cup 0).stopped = true ∧ s.urn.pend = [] ∧
    (after (exec (.cupClocksStop 0) s)).grant 0 = 1 := by decide +kernel

theorem witness_cupToOffDone : let s := cupIn 1 0 1
    s.serving = true ∧ s.cupTarget 0 = 0 ∧ (s.cup 0).deferred = none ∧ s.cupState 0 ≠ 0 ∧ s.urn.pend = [] ∧
    (after (exec (.cupToOffDone 0) s)).grant 0 = 0 := by decide +kernel

theorem witness_cupBrdReqWrite : let s := cupIn 1 1 1
    s.accepts 0x200 ⟨.cupBrdReq, 0, 1⟩ ∧ s.finals = [] ∧ s.inHold = false ∧ s.modesRefused 0 1 5 = false ∧
    look ((after (exec (.cupBrdReqWrite 0x200 0 1 5) s)).cup 0).brdPend 1 = some 5 ∧
    s.facesNone 0 1 = false ∧ s.sameDomAcross 0 1 = true ∧ s.facesNone 0 0 = true ∧
    (pin s ⟨.cupOwner, 1, 0⟩ 0x10).sameDomAcross 0 1 = false ∧
    (pin s ⟨.cupOwner, 1, 0⟩ 0x10).modesRefused 0 1 5 = true := by decide +kernel

theorem witness_borderApply : let s := (cupIn 1 1 1).modCup 0 fun x => { x with brdPend := [(1, 5)] }
    s.live = true ∧ look (s.cup 0).brdPend 1 = some 5 ∧
    (after (exec (.borderApply 0 1) s)).reg ⟨.cupBrd, 0, 1⟩ = 5 := by decide +kernel

theorem witness_cupBdrvWrite : let s := withRegs (cupIn 1 1 1) [(⟨.cupBdrv, 0, 1⟩, 3), (⟨.cupBrd, 1, 3⟩, 5)]
    s.accepts 0x200 ⟨.cupBdrv, 0, 1⟩ ∧ s.finals = [] ∧ s.inHold = false ∧ cupAcross 0 1 = some (1, false) ∧
    s.cupGone 1 = false ∧ s.cupDom 1 = s.cupDom 0 ∧ s.flag ⟨.cupBdrv, 0, 1⟩ 1 = true ∧
    (after (exec (.cupBdrvWrite 0x200 0 1 1) s)).reg ⟨.cupBrd, 1, 3⟩ = 1 := by decide +kernel

theorem witness_shadowRecheck :
    let s := (withRegs (cupIn 1 1 1) [(⟨.cupLoadStat, 0, 0⟩, 0x800000)]).modCup 0 fun x => { x with recheck := true }
    s.live = true ∧ (s.cup 0).recheck = true ∧ s.shadow 0 = 2 := by decide +kernel

/-- A cup in RUN whose plane binds the AWAKE pin and clocks nothing. -/
def gatable : State := (cupIn 2 2 16).modCup 0 fun x => { x with clocksOn := true, idleSince := 999984 }

theorem witness_cupGateWake : let s := (withRegs gatable [(⟨.urnCls, 0, 0⟩, 0x20000010)]).modCup 0 fun x => { x with awake := true }
    s.serving = true ∧ s.gated 0 = true ∧ (s.cup 0).awake = true ∧
    (after (exec (.cupGateWake 0) s)).gated 0 = false := by decide +kernel

theorem witness_captureRelease : let s := withRegs (cupIn 2 2 16) [(⟨.cupState, 0, 0⟩, 0xA02)]
    s.accepts 0x200 ⟨.cupCap, 0, 0⟩ ∧ bit 4 2 = true ∧ s.held 0 = true ∧ s.flag ⟨.cupCap, 0, 0⟩ 2 = false ∧
    (after (exec (.captureRelease 0x200 0 4) s)).flag ⟨.cupCap, 0, 0⟩ 2 = true := by decide +kernel

/-- The owner's range 0 covers the lowest gibibyte. -/
def ownRange : RangeSt := { base := 0, limit := 1023, owner := 1 }

theorem witness_readbackStart : let s := { cupIn 1 1 1 with ranges := [(0, ownRange)] }
    s.accepts 0x200 ⟨.cupRbCmd, 0, 0⟩ ∧ s.fld ⟨.cupRbCmd, 0, 0⟩ 31 30 ≠ 1 ∧ bits 1 3 0 ≠ 0 ∧ s.midDomain 0x200 = some 1 ∧
    s.passYoung 0 = false ∧ s.leaseOk .captureReadback [.cup 0] = true ∧ bit 1 3 = false := by decide +kernel

/-- The owner may read and write range 0, the lowest gibibyte, which is ready. -/
def ownHbm (s : State) : State :=
  { withRegs s [(⟨.infRngStat, 0, 0⟩, 2), (⟨.infRngRights, 0, 0⟩, 0xFFFFFFFF)] with ranges := [(0, ownRange)] }

theorem witness_readbackExtent : let s := ownHbm (cupIn 1 1 1)
    s.mayWrite 1 (s.pair ⟨.cupRbAddr, 0, 0⟩ ⟨.cupRbAddrHi, 0, 0⟩) ((regionList (bits 1 3 0)).map regionLen).sum = true ∧
    ((after (exec (.readbackStart 0x200 0 1) s)).cup 0).rbJob =
      some { regions := 1, addr := 0, dom := 1, since := 16000000 } := by
  decide +kernel

theorem witness_readbackDone : let s := { (ownHbm (cupIn 1 1 1)).modCup 0 fun x => { x with rbJob := some { regions := 0, addr := 0, dom := 1 } } with leases := [(0, { cls := .captureReadback, rs := [.cup 0], dom := 1, started := 0, renewed := 0 })] }
    s.serving = true ∧ s.leased .captureReadback (.cup 0) = true ∧
    s.agentWaits bulkClass 1 0 ((regionList 0).map regionLen).sum = false ∧
    (s.hbmPut 1 0 ((regionList 0).flatMap fun r => (s.cup 0).regionBytes r)).2 = true ∧
    ((after (exec (.readbackDone 0) s)).cup 0).rbJob = none := by decide +kernel

theorem witness_cupGateStop : let s := gatable.modCup 0 fun x => { x with plane0 := [(settingsIndex 11, 0x80000000)] }
    s.serving = true ∧ s.cupState 0 = 2 ∧ (s.cup 0).active.bound 11 = true ∧ (s.cup 0).clocksOn = true ∧
    (s.cup 0).stopTick = none ∧ s.held 0 = false ∧ s.gated 0 = false ∧ (s.cup 0).fab.waitE1 = [] ∧
    (s.cup 0).capWait = [] ∧ s.debugged (s.cupDom 0) = false ∧ (s.cup 0).awake = false ∧ s.portWork 0 = false ∧
    (s.cup 0).idleSince + 16 ≤ s.tick ∧ (after (exec (.cupGateStop 0) s)).gated 0 = true := by decide +kernel

/-- The steep pass of leaf 0 holds its lease. -/
def passing (s : State) : State :=
  { s with leases := [(0, { cls := .steepPass, rs := [.leaf 0], dom := 0, started := 0, renewed := 0 })] }

theorem witness_steepPassStep : let s := cupIn 1 1 1
    s.leafOfCup 0 = some 0 ∧ s.cupGone 0 = false ∧ (s.leaf 0).pausedAt = none ∧ s.leased .steepPass (.leaf 0) = false ∧
    s.leaseOk .steepPass [.leaf 0] = true ∧
    { s with leases := (List.range 511).map fun e =>
      (e, ({ cls := .caddyWrite, rs := [.storeDie], dom := 0, started := 0, renewed := 0 } : Lease)) }.leaseOk .steepPass [.leaf 0] = false ∧
    ((s.modLeaf 0 fun x => { x with pausedAt := some 0 }).leaf 0).pausedAt.isSome = true := by decide +kernel

theorem witness_steepPassWord : let s := passing (cupIn 1 1 1)
    s.serving = true ∧ s.leafOfCup 0 = some 0 ∧ s.cupGone 0 = false ∧ (s.leaf 0).pausedAt = none ∧
    s.leased .steepPass (.leaf 0) = true ∧ nget (s.cup 0).cfgErr ((s.cup 0).errKey 787599) 0 = 0 ∧
    (after (exec (.steepPassWord 0 787599 (.single 31)) s)).fld ⟨.cupScrub, 0, 0⟩ 7 0 = 1 := by decide +kernel

theorem witness_steepPassCorrects : let s := (passing (cupIn 1 1 1)).modCup 0 fun x => { x with cfgErr := [(7, 4)] }
    s.leafOfCup 0 = some 0 ∧ s.leased .steepPass (.leaf 0) = true ∧
    popCount (nget (s.cup 0).cfgErr ((s.cup 0).errKey 7) 0) = 1 ∧
    ((after (exec (.steepPassWord 0 7 .none) s)).cup 0).active.at 7 = 4 := by decide +kernel

theorem witness_steepPassCut : let s := (passing (cupIn 1 1 1)).modCup 0 fun x => { x with passCut := true }
    s.leafOfCup 0 = some 0 ∧ s.leased .steepPass (.leaf 0) = true ∧ (s.cup 0).passCut = true ∧
    ((after (exec (.steepPassCupEnd 0) s)).cup 0).passCut = false := by decide +kernel

theorem witness_steepPassDigest (d : BitVec 384) : let s := (passing (cupIn 1 1 1)).setDigest .cupEdig 0 d
    s.serving = true ∧ s.cupGone 0 = false ∧ (s.cup 0).passCut = false ∧ (s.cup 0).passUe = false ∧
    s.digest .cupEdig 0 = d := by
  refine ⟨?_, ?_, ?_, ?_, State.digest_setDigest _ _ _ _⟩
  · rw [State.setDigest_eq]; exact (by decide +kernel : (passing (cupIn 1 1 1)).serving = true)
  · have h := State.reg_setDigest_ne (passing (cupIn 1 1 1)) .cupEdig 0 d ⟨.trayLmap, 0, 0⟩ (.inl (by decide))
    unfold State.cupGone State.fld State.flag
    rw [h]
    exact (by decide +kernel : (passing (cupIn 1 1 1)).cupGone 0 = false)
  · rw [State.setDigest_eq]; exact (by decide +kernel : ((passing (cupIn 1 1 1)).cup 0).passCut = false)
  · rw [State.setDigest_eq]; exact (by decide +kernel : ((passing (cupIn 1 1 1)).cup 0).passUe = false)

theorem witness_steepPassPause : let s := (cupIn 1 1 1).modLeaf 0 fun x => { x with pausedAt := some 0 }
    let u := { s with root := 16 * 12500000 }
    u.serving = true ∧ (u.leaf 0).pausedAt = some 0 ∧ 0 + 12500000 ≤ u.tick ∧
    ((after (exec (.steepPassPauseTimeout 0) u)).leaf 0).pausedAt = none := by decide +kernel

theorem witness_steepPassMinRun :
    let s := { ((cupIn 1 1 1).modLeaf 0 fun x => { x with resumedAt := some 0 }).modCup 2
      (fun x => { x with rbJob := some { regions := 1, addr := 0, dom := 1, waiting := true } }) with root := 16 * 2500000 }
    s.serving = true ∧ (s.leaf 0).resumedAt = some 0 ∧ 0 + 2500000 ≤ s.tick ∧
    ((s.cupsOfLeaf 0).find? fun c => (s.cup c).rbJob.any (·.waiting)) = some 2 ∧
    s.leaseOk .captureReadback [.cup 2] = true := by decide +kernel

/-! ### Images -/

theorem witness_cupLoad : let s := (cupIn 1 1 1).setValid 4 7 true
    s.accepts 0x200 ⟨.cupLoadCmd, 0, 0⟩ ∧ s.loadDenied 0 0x80000007 = false ∧ (s.cup 0).loadJob = none ∧
    bit 0x80000007 31 = true ∧ bit 0x80000007 25 = false ∧ s.inHold = false ∧ s.flipArmed 0 = false ∧
    (s.nv.libEnt (bits 0x80000007 15 0)).valid = true ∧
    s.leaseOk .shadowLoad [.cup 0, .libEntry (bits 0x80000007 15 0)] = true ∧
    s.loadDenied 0 0x80000333 = true := by decide +kernel

theorem witness_cupLoadBusy : let s := (cupIn 1 1 1).modCup 0 fun x => { x with loadJob := some { code := 0 } }
    s.accepts 0x200 ⟨.cupLoadCmd, 0, 0⟩ ∧ s.loadDenied 0 0x80000007 = false ∧ (s.cup 0).loadJob ≠ none ∧
    (after (exec (.cupLoad 0x200 0 0x80000007) s)).fld ⟨.cupLoadStat, 0, 0⟩ 31 28 = 7 := by decide +kernel

/-- A load of the plane of zero words, with the digest the image declares. -/
def emptyLoad : LoadJob :=
  { code := 0, words := List.replicate 787600 0, digest := planeDigest (toPlane (List.replicate 787600 0)) }

/-- A cup in DORMANT whose load its leaf's configuration port serves. -/
def loading : State :=
  { (cupIn 1 1 1).modLeaf 0 (fun x => { x with loads := [0, 2] }) with
    leases := [(0, { cls := .shadowLoad, rs := [.cup 0], dom := 1, started := 0, renewed := 0 }),
      (1, { cls := .shadowLoad, rs := [.cup 2], dom := 1, started := 0, renewed := 0 })] }

theorem witness_loadComplete : let s := loading.modCup 0 fun x => { x with loadJob := some emptyLoad }
    s.live = true ∧ s.loadServed 0 = true ∧ s.leased .shadowLoad (.cup 0) = true ∧ emptyLoad.unread = none ∧
    s.leased .shadowLoad (.cup 2) = true ∧ s.leafOfCup 2 = some 0 ∧ (s.leaf 0).loads.head? ≠ some 2 ∧ (s.cup 0).loadJob = some emptyLoad ∧ emptyLoad.code = 0 ∧ emptyLoad.content = none ∧
    s.sieveFor 0 emptyLoad.words none = none ∧ planeDigest (toPlane emptyLoad.words) = emptyLoad.digest := by
  refine ⟨?_, ?_, ?_, rfl, ?_, ?_, ?_, ?_, rfl, rfl, ?_, rfl⟩
  · exact (by decide +kernel : loading.live = true)
  · exact (by decide +kernel : loading.loadServed 0 = true)
  · exact (by decide +kernel : loading.leased .shadowLoad (.cup 0) = true)
  · exact (by decide +kernel : loading.leased .shadowLoad (.cup 2) = true)
  · exact (by decide +kernel : loading.leafOfCup 2 = some 0)
  · exact (by decide +kernel : (loading.leaf 0).loads.head? ≠ some 2)
  · unfold State.modCup
    rw [State.cup_setCup]
    rfl
  · unfold State.sieveFor emptyLoad
    rw [toPlane_replicate, List.length_replicate]
    exact sieve_nil _ _ _ _ (by decide +kernel)

theorem witness_loadSieved : let s := loading.modCup 0 fun x => { x with loadJob := some { code := 0, words := [1] } }
    s.live = true ∧ (s.cup 0).loadJob = some { code := 0, words := [1] } ∧
    s.loadServed 0 = true ∧ s.sieveFor 0 [1] none = some (1, 0) ∧
    (after (exec (.loadComplete 0) s)).fld ⟨.cupLoadStat, 0, 0⟩ 31 28 = 4 := by decide +kernel

theorem witness_loadFails : let s := loading.modCup 0 fun x => { x with loadJob := some { code := 8 } }
    s.live = true ∧ (s.cup 0).loadJob = some { code := 8 } ∧ s.loadServed 0 = true ∧
    (after (exec (.loadComplete 0) s)).fld ⟨.cupLoadStat, 0, 0⟩ 31 28 = 8 := by decide +kernel

theorem witness_loadUnread :
    let s := (ownHbm loading).modCup 0 fun x => { x with loadJob := some { code := 0, unread := some (1, 0) } }
    let u := s.modPch 0 fun p => { p with retrain := some { stage := 1, active := true } }
    s.live = true ∧ (s.cup 0).loadJob = some { code := 0, unread := some (1, 0) } ∧ s.loadServed 0 = true ∧
    s.leased .shadowLoad (.cup 0) = true ∧ s.imageWaits 1 0 = false ∧ u.imageWaits 1 0 = true ∧ u.live = true := by
  decide +kernel

theorem witness_loadLeaseLost :
    let s : State := { (loading.modCup 0 fun x => { x with loadJob := some { code := 0 } }) with leases := [] }
    s.live = true ∧ (s.cup 0).loadJob = some { code := 0 } ∧ s.leased .shadowLoad (.cup 0) = false ∧
    (after (exec (.loadComplete 0) s)).fld ⟨.cupLoadStat, 0, 0⟩ 31 28 = 7 := by decide +kernel

/-- The Kettle is free; 64 bytes from HBM address 0 to offset 128. -/
def freeKettle : State := ownHbm (withRegs (atTick 1000000) [(⟨.imgDst, 0, 0⟩, 128), (⟨.imgLen, 0, 0⟩, 64)])

theorem witness_kettleFree : let s := freeKettle
    s.kettleFree 0x200 0 ∧ s.inHold = false ∧ inRange 2 3 (s.imgJobOf 0x200 0 4 0x200).region = true ∧
    s.mayRead (windowDom 0) (s.imgJobOf 0x200 0 5 0).src 144 = true ∧
    s.mayWrite (windowDom 0) (s.imgJobOf 0x200 0 5 0).dst 40 = true ∧
    s.mayRead 0x01 (s.imgJobOf 0x200 0 6 0).src 146 = true ∧
    s.regionCode (windowDom 0) (s.imgJobOf 0x200 0 3 0x300) = 0 ∧
    (after (exec (.progSlot 0x200 0) s)).imgJobs = [(0, { s.imgJobOf 0x200 0 6 0 with started := true })] := by
  decide +kernel

theorem witness_storeWrite : let s := freeKettle
    let j := s.imgJobOf 0x200 0 1 0x200
    s.kettleFree 0x200 0 ∧ s.regionCode (windowDom 0) j = 0 ∧ lenOk j j.dst = true ∧ j.region = 2 ∧
    s.mayRead (windowDom 0) j.src j.len = true ∧ s.leaseOk .storeWrite [.storeDie, .region 2] = true ∧
    (after (exec (.storeWrite 0x200 0x200) s)).leased .storeWrite .storeDie = true := by decide +kernel

theorem witness_storeRead : let s := freeKettle.setValid 2 0 true
    let j := s.imgJobOf 0x200 0 2 0x200
    s.kettleFree 0x200 0 ∧ s.regionCode (windowDom 0) j = 0 ∧ lenOk j j.src = true ∧ s.nv.valid j.region j.lib = true ∧
    s.mayWrite (windowDom 0) j.dst j.len = true ∧
    (after (exec (.storeRead 0x200 0x200) s)).imgJobs ≠ [] := by decide +kernel

/-- An image command that runs. -/
def running (op region : Nat) : ImgJob :=
  { mid := 0x181, op, region, lib := 0, src := 0, dst := 128, len := 64, srcj := true, started := true,
    gathered := List.replicate 64 7 }

theorem witness_imgCommandDone :
    let s := { atTick 1000000 with
      imgJobs := [(0, running 1 2)]
      leases := [(0, { cls := .storeWrite, rs := [.storeDie, .region 2], dom := 1, started := 0, renewed := 0 })] }
    let u : State := { s with leases := [] }
    let v : State := { withRegs s [(⟨.cadStat, 0, 0⟩, 0x80000000)] with caddy := { s.caddy with buf := [s.mkRec 0 0 1 0 []] } }
    s.imgWaits 0 (running 1 2) = false ∧ s.leased .storeWrite .storeDie = true ∧ (running 1 2).fed = true ∧
    u.imgWaits 0 (running 1 2) = false ∧ u.leased .storeWrite .storeDie = false ∧ v.imgWaits 0 (running 1 2) = true ∧
    (running 1 2).srcj = true ∧ (running 1 2).len ≤ (running 1 2).gathered.length ∧
    (after (exec (.imgCommandDone 0) s)).storeByte 0x100000BF = 7 ∧
    (after (exec (.imgCommandDone 0) s)).storeByte 0x100000C0 = 0 ∧
    (after (exec (.imgCommandDone 0) { s with imgJobs := [(0, running 4 3)] })).reloadRegion = some 3 := by
  decide +kernel

theorem witness_imgJdata :
    let j : ImgJob := { running 1 2 with gathered := List.replicate 60 7 }
    let s := { withRegs (atTick 1000000) [(⟨.devToken, 0, 0⟩, 0xC0000000)] with imgJobs := [(0, j)] }
    s.accepts jtagMid ⟨.imgJdata, 0, 0⟩ ∧ look s.imgJobs 0 = some j ∧ j.gathered.length < j.len ∧
    (look (after (exec (.imgJdataWrite jtagMid 0x04030201) s)).imgJobs 0).map (·.gathered.length) = some 64 := by
  decide +kernel

theorem witness_imgLibent : let s := withRegs (atTick 1000000) [(⟨.imgLibsel, 0, 0⟩, 818)]
    s.winOf 0x200 = 0 ∧ s.accepts 0x200 ⟨.imgLibent, 0, 0⟩ ∧ s.fld ⟨.imgLibsel, 0, 0⟩ 9 0 < 819 ∧
    inRange 0x10 0x4F (bits 0x4F 7 0) = true ∧
    (after (exec (.imgLibentWrite 0x200 0x4F) s)).nv.libEnt 818 = { dom := 0x4F } := by decide +kernel

/-! ### Leases and the cup's ports -/

/-- A lease as entry 0, granted at tick 1. -/
def oneLease (cls : LeaseClass) (rs : List Resource) (tick : Nat) : State :=
  { atTick tick with leases := [(0, { cls, rs, dom := 1, started := 1, renewed := 1 })] }

theorem witness_leaseRequest : let s := atTick 1000000
    s.serving = true ∧ s.leaseOk .eyeScan [.lane 255] = true ∧ s.freeLease .eyeScan = some 0 ∧
    (oneLease .eyeScan [.lane 255] 2).leaseOk .eyeScan [.lane 255] = false ∧
    (oneLease .eyeScan [.lane 255] 2).serving = true ∧
    (look (after (exec (.leaseRequest .eyeScan [.lane 255] 1) s)).leases 0).map (·.started) = some 1000000 := by
  decide +kernel

theorem witness_leaseYoung :
    let s := { (cupIn 1 1 1).modLeaf 0 fun x => { x with resumedAt := some 999999 } with
      leases := [(0, { cls := .steepPass, rs := [.leaf 0], dom := 0, started := 1, renewed := 1 })] }
    s.serving = true ∧ s.readYoung .captureReadback [.cup 0] = true ∧
    (atTick 1000000).readYoung .eyeScan [.lane 255] = false := by decide +kernel

theorem witness_leaseMidStep :
    let s := (oneLease .captureReadback [.cup 191] 2500001).modCup 191 fun x =>
      { x with rbJob := some { regions := 1, addr := 0, dom := 1 } }
    s.serving = true ∧ s.midStep { cls := .captureReadback, rs := [.cup 191], dom := 1, started := 1, renewed := 1 } = true ∧
    (oneLease .patrolScrub [.pch 255] 9).midStep
      { cls := .patrolScrub, rs := [.pch 255], dom := 1, started := 1, renewed := 1 } = false := by decide +kernel

theorem witness_leaseRenew : let s := oneLease .captureReadback [.cup 0] 100
    s.serving = true ∧ (look s.leases 0).isSome = true ∧
    s.renewBarred { cls := .captureReadback, rs := [.cup 0], dom := 1, started := 1, renewed := 1 } = false ∧
    s.renewBarred { cls := .captureReadback, rs := [.cup 0], dom := 1, started := 1, renewed := 1, deferAt := some 0 } = false ∧
    { s with root := 16 * 11000000 }.renewBarred
      { cls := .captureReadback, rs := [.cup 0], dom := 1, started := 1, renewed := 1, deferAt := some 0 } = true := by
  decide +kernel

theorem witness_leaseEnd : let s := oneLease .patrolScrub [.pch 255] 2500001
    s.serving = true ∧ (look s.leases 0).map (·.cls) = some .patrolScrub ∧ s.urn.deferred = [] ∧
    1 + 2500000 ≤ s.tick ∧ (after (exec (.leaseEnd 0) s)).leases = [] ∧
    (after (exec (.leaseExpiry 0) s)).leases = [] := by decide +kernel

theorem witness_leaseExpiryScan : let s := oneLease .eyeScan [.lane 255] 2500001
    s.serving = true ∧ (look s.leases 0).map (·.cls) = some .eyeScan ∧ s.urn.deferred = [] ∧ 1 + 2500000 ≤ s.tick ∧
    (after (exec (.leaseExpiry 0) s)).fld ⟨.lnEscanRes, 255, 0⟩ 31 30 = 3 := by decide +kernel

theorem witness_deferLimit :
    let s := (oneLease .captureReadback [.cup 191] 12500000).modCup 191 fun x => { x with deferred := some 0 }
    let u := { s with urn := { s.urn with deferred := [(191, 0)] } }
    u.serving = true ∧ u.urn.deferred = [(191, 0)] ∧ 0 + 12500000 ≤ u.tick ∧ (u.cup 191).deferred = some 0 ∧ u.cupGone 191 = false ∧
    readbackLease 191 { cls := .captureReadback, rs := [.cup 191], dom := 1, started := 1, renewed := 1 } = true ∧
    u.midStep { cls := .captureReadback, rs := [.cup 191], dom := 1, started := 1, renewed := 1 } = false ∧
    (u.modCup 191 fun x => { x with rbJob := some { regions := 1, addr := 0, dom := 1 } }).midStep
      { cls := .captureReadback, rs := [.cup 191], dom := 1, started := 1, renewed := 1 } = true ∧
    (after (exec (.deferLimitTimeout 191) u)).leases = [] ∧
    (({ u with leases := [] } : State).leases.any fun e => readbackLease 191 e.2) = false ∧
    (after (exec (.deferLimitTimeout 191) { u with leases := [] })).urn.deferred = [] := by decide +kernel

/-- Cup 0 runs with its request port bound. -/
def portCup : State := (cupIn 2 2 16).modCup 0 fun x => { x with plane0 := [(settingsIndex 9, 0x80000000)] }

theorem witness_cupRequest : let s := portCup
    s.serving = true ∧ s.portActs 0 9 = true ∧ (s.cup 0).rq.takes 0 63 4096 = true ∧ (s.cup 0).rq.takes 1 63 4096 = true ∧
    (s.cup 0).rq.takes 2 63 1 = true ∧ (s.cup 0).rq.takes 15 63 1 = true ∧ legalExtent 0xFFF 2 = false ∧
    ({ (s.cup 0).rq with tags := [63] } : ReqPortSt).takes 0 63 1 = false ∧ legalExtent 0xF000000000 4096 = true ∧ s.takes 0 0xF000000000 = true ∧ s.tagBusy 0 63 = false ∧
    s.fenced 0 = false ∧ s.midDomain 0 = some 1 ∧ tenantOf 1 = none ∧
    (after (exec (.cupRequest 0 2 0 63 1 []) s)).fences = [(0, 63)] := by decide +kernel

/-- Cup 0 runs on one line: divider 5, macrocell 0 of cell (0, 0) a D flip-flop of line 0, which its cell uses, with INIT
1. -/
def clockCup (waits : List Nat) : State :=
  (cupIn 2 2 16).modCup 0 fun x =>
    { x with plane0 := [(44, 0x21), (48, 0x100000), (settingsIndex 0, 0x01000000)], clocksOn := true, fab := { waitE1 := waits } }

theorem clockCup_line (l : List Nat) : (0, 0, 0) ∈ lineMacs ((clockCup l).cup 0).active 0 false := by
  unfold lineMacs
  rw [List.mem_flatMap]
  refine ⟨(0, 0), ?_, ?_⟩
  · unfold allCells
    rw [List.mem_flatMap]
    refine ⟨0, List.mem_range.mpr (by decide), ?_⟩
    rw [List.mem_map]
    refine ⟨0, List.mem_filter.mpr ⟨List.mem_range.mpr (by decide), by decide +kernel⟩, rfl⟩
  · have e : ((clockCup l).cup 0).active = [(44, 0x21), (48, 0x100000), (settingsIndex 0, 0x01000000)] := by
      unfold clockCup State.modCup
      rw [State.cup_setCup]
      rfl
    rw [e]
    decide +kernel

theorem witness_clockEdge : let s := clockCup []
    s.edgeFalls 0 0 = true ∧ s.held 0 = false ∧ (s.cup 0).fab.waitE1.contains 0 = false ∧ (s.cup 0).capWait = [] ∧
    (s.cup 0).active.portsOn 0 = [] ∧ (clockCup [0]).edgeFalls 0 0 = true ∧
    ((clockCup [0]).cup 0).fab.waitE1.contains 0 = true := by decide +kernel

/-- The same with the macrocell a latch, just after an edge of its line. -/
def latchCup : State :=
  (clockCup []).modCup 0 fun x =>
    { x with plane0 := [(44, 3), (48, 0x100000), (settingsIndex 0, 0x01000000)], lastEdge := [(0, 16000000)] }

theorem witness_latch : latchCup.lineHigh 0 0 = true ∧ (0, 0, 0) ∈ lineMacs (latchCup.cup 0).active 0 true := by
  refine ⟨by decide +kernel, ?_⟩
  unfold lineMacs
  rw [List.mem_flatMap]
  refine ⟨(0, 0), ?_, ?_⟩
  · unfold allCells
    rw [List.mem_flatMap]
    refine ⟨0, List.mem_range.mpr (by decide), ?_⟩
    rw [List.mem_map]
    refine ⟨0, List.mem_filter.mpr ⟨List.mem_range.mpr (by decide), by decide +kernel⟩, rfl⟩
  · have e : (latchCup.cup 0).active = [(44, 3), (48, 0x100000), (settingsIndex 0, 0x01000000)] := by
      unfold latchCup State.modCup
      rw [State.cup_setCup]
      rfl
    rw [e]
    decide +kernel

/-- Cup 0 with port w bound at block 0, its first handshake output 1, and the first north pin of the block driven 1. -/
def edgePort (w slices : Nat) : State :=
  (cupIn 2 2 16).modCup 0 fun x =>
    { x with plane0 := [(frameIndex 1 0 + 47, 0x400), (settingsIndex w, BitVec.ofNat 32 (2 ^ 31 + slices * 2 ^ 16))],
             fab := { portC := [(w, 1)] }, sout := [(0, [])], rq := { tags := [0] } }

theorem witness_soutEdge : let s := edgePort 5 0
    (s.ctlBefore 0 5).testBit 0 = true ∧ (s.tapIn 0 5 0 0).testBit 0 = true ∧ (s.tapIn 0 5 0 0).testBit 1 = false ∧
    (s.tapIn 0 5 0 0).testBit 2 = false ∧ look (s.cup 0).sout 0 = some [] ∧
    (slice (s.portData 0 5) 0 (s.portWidth 0 5)).length = 8 := by decide +kernel

theorem witness_rqEdge : let s := edgePort 9 0
    (s.ctlBefore 0 9).testBit 0 = true ∧ (s.tapIn 0 9 0 0).testBit 0 = true ∧ (s.ctlBefore 0 9).testBit 16 = false ∧
    (s.cup 0).rq.cur = none ∧ s.rqHeader 0 = (0, 0, 0, 1) ∧ (s.cup 0).rq.takes 0 0 1 = false := by decide +kernel

theorem witness_egEdge :
    let s := (edgePort 10 2).setQueue (.egress 0 0) { pkts := [{ header := some 0, slots := List.replicate 255 0 }, { slots := List.replicate 255 0, dom := 1 }] }
    (s.ctlBefore 0 10).testBit 0 = true ∧ (s.tapIn 0 10 0 0).testBit 0 = true ∧ (s.cup 0).egHeld = none ∧
    s.egAccess 0 = (0, some (.dat [0])) ∧ s.egBlocked 0 0 (.dat [0]) = true := by decide +kernel

/-! ### Lanes -/

/-- Quad 63 in a role, its lane 255 in a power state, with registers over it; its event selects no BLOCK reset. -/
def laned (role st : Nat) (l : List (RegKey × Word)) : State :=
  pin (withRegs (atTick 1000000) ([(⟨.quadCfg, 63, 0⟩, BitVec.ofNat 32 role),
    (⟨.lnStat, 255, 0⟩, packBits [(31, 30, st)])] ++ l)) ⟨.strSrc, 0x4FF, 0⟩ 0

theorem witness_laneSignals : let s := laned 0x31 0 []
    s.serving = true ∧ s.lanePowered 255 = true ∧ s.los 255 = false ∧ s.lol 255 = false ∧ s.retrainRole 255 = true ∧
    s.fld ⟨.strSrc, 0x4FF, 0⟩ 21 20 ≠ 1 ∧ s.engineOf 63 = 63 ∧
    (pin s ⟨.strSrc, 0x53F, 0⟩ 0).fld ⟨.strSrc, 0x500 + s.engineOf 63, 0⟩ 21 20 ≠ 1 ∧ s.hasPort 63 3 = true ∧ look (s.quad 63).pcsLost 3 = none := by decide +kernel

theorem witness_pcsTimeout : let s := (laned 0x31 0 []).modQuad 63 fun x => { x with pcsLost := [(3, 749999)] }
    s.serving = true ∧ look (s.quad 63).pcsLost 3 = some 749999 ∧
    ((s.portsOf 63).find? fun e => e.1 == 3) = some (3, [255]) ∧ 749999 + 250000 < s.tick ∧
    ((after (exec (.pcsAlignmentLossTimeout 63 3) s)).lane 255).due = true := by decide +kernel

theorem witness_laneRetrain :
    let s := (laned 0x31 0 []).modLane 255 fun x => { x with due := true }
    let u := (withRegs s [(⟨.mntBudget, 0, 0⟩, 0x100003E8)]).modLane 255 fun x => { x with counted := [900000] }
    s.serving = true ∧ (s.lane 255).due = true ∧ (s.lane 255).retraining = false ∧ s.retrainRole 255 = true ∧
    s.laneState 255 ≠ 3 ∧ s.leaseOk .laneRetrain [.lane 255] = true ∧ s.los 255 = false ∧ s.afterStop = false ∧
    s.linkDowns 255 = true ∧ (s.laneCount 255).length < s.fld ⟨.mntBudget, 0, 0⟩ 31 28 ∧
    (s.setFlag ⟨.lnStat, 255, 0⟩ 28 true).los 255 = true ∧
    ((after (exec (.laneRetrain 63 3) (s.setFlag ⟨.lnStat, 255, 0⟩ 28 true))).lane 255).counted = [] ∧
    u.fld ⟨.mntBudget, 0, 0⟩ 31 28 ≤ (u.laneCount 255).length ∧ u.leaseOk .laneRetrain [.lane 255] = true ∧
    u.afterStop = false ∧ u.fld ⟨.strSrc, 0x4FF, 0⟩ 21 20 ≠ 1 ∧
    ((after (exec (.laneRetrain 63 3) s)).lane 255).counted = [1000000] := by decide +kernel

theorem witness_laneRetrainDone :
    let s := { (laned 4 0 [(⟨.lnStat, 255, 0⟩, 0x08000000)]).modLane 255 fun x => { x with retraining := true } with
      leases := [(0, { cls := .laneRetrain, rs := [.lane 255], dom := 0, started := 0, renewed := 0 })] }
    s.serving = true ∧ (s.lane 255).retraining = true ∧ (s.lane 255).deferredLp = none ∧ s.quadRole 63 ≠ 1 ∧ s.quadRole 63 ≠ 2 ∧ (laned 0x31 0 []).quadRole 63 = 1 ∧
    (after (exec (.laneRetrainDone 63 3) s)).lol 255 = false ∧
    (after (exec (.laneRetrainDone 63 3) s)).leases = [] := by decide +kernel

theorem witness_lanePower :
    let s := laned 0x31 0 []
    let u := laned 0x31 1 []
    let r := u.modLane 255 fun x => { x with wantLp := some 0 }
    s.accepts 0x200 ⟨.lnCtl, 255, 0⟩ ∧ s.quadRole 63 = 1 ∧ bits 1 1 0 ≠ 3 ∧ s.laneState 255 < bits 1 1 0 ∧
    (s.leases.any fun e => laneLease 255 e.2) = false ∧ u.laneState 255 = 1 ∧ bits 0 1 0 = 0 ∧
    u.accepts 0x200 ⟨.lnCtl, 255, 0⟩ ∧ r.serving = true ∧ (r.lane 255).wantLp = some 0 ∧
    r.flag ⟨.lnStat, 255, 0⟩ 29 = false ∧ r.laneState 255 ≠ 2 ∧ r.urn.pend = [] ∧ r.quadRole 63 = 1 ∧
    ((after (exec (.lanePowerExitDone 63 3) r)).lane 255).retraining = true ∧
    ((after (exec (.lanePowerRequest 0x200 63 3 0) u)).lane 255).wantLp = some 0 := by decide +kernel

theorem witness_lnTxeq : let s := laned 3 0 []
    s.accepts 0x200 ⟨.lnTxeq, 255, 0⟩ ∧ s.quadRole 63 ≠ 1 ∧ s.quadRole 63 ≠ 2 ∧
    bits 0x00FC0000 29 24 + bits 0x00FC0000 23 18 + bits 0x00FC0000 17 12 + bits 0x00FC0000 11 6 ≤ 63 ∧
    63 < bits 0x01FC0000 29 24 + bits 0x01FC0000 23 18 + bits 0x01FC0000 17 12 + bits 0x01FC0000 11 6 ∧
    (after (exec (.lnTxeqWrite 0x200 63 3 0x00FC0000) s)).reg ⟨.lnTxeq, 255, 0⟩ = 0x00FC0000 := by decide +kernel

/-- A lease that scans the eye of lane 255. -/
def eyeLease : Lease := { cls := .eyeScan, rs := [.lane 255], dom := 0, started := 0, renewed := 0 }

theorem witness_eyeScan :
    let s := laned 0x31 0 []
    let u := ({ laned 0x31 0 [(⟨.lnEscan, 255, 0⟩, 0x8F000000)] with leases := [(0, eyeLease)] } : State).modLane 255 fun x => { x with dwell := 15 }
    s.accepts 0x200 ⟨.lnEscan, 255, 0⟩ ∧ s.flag ⟨.lnEscan, 255, 0⟩ 31 = false ∧ bit 0x80000000 31 = true ∧
    s.leaseOk .eyeScan [.lane 255] = true ∧
    ({ s with leases := [(0, eyeLease)] } : State).leaseOk .eyeScan [.lane 255] = false ∧
    u.serving = true ∧ u.flag ⟨.lnEscan, 255, 0⟩ 31 = true ∧ (u.lane 255).deferredLp = none ∧
    (after (exec (.eyeScanDone 63 3 (2 ^ 31)) u)).fld ⟨.lnEscanRes, 255, 0⟩ 28 0 = 2 ^ 29 - 1 := by decide +kernel

theorem witness_margin :
    let s := laned 0x31 0 [(⟨.lnMargin, 255, 0⟩, 0x0000FF01)]
    let u := s.modLane 255 fun x => { x with below := 2 }
    s.serving = true ∧ s.lanePowered 255 = true ∧ s.fld ⟨.lnMargin, 255, 0⟩ 7 0 ≠ 0 ∧
    (s.lane 255).measuredAt + 250000 * s.fld ⟨.lnMargin, 255, 0⟩ 7 0 ≤ s.tick ∧
    s.leaseOk .eyeScan [.lane 255] = true ∧ s.flag ⟨.lnMargin, 255, 0⟩ 31 = false ∧
    s.fld ⟨.lnMargin, 255, 0⟩ 15 8 ≤ 255 ∧ (s.lane 255).below < 2 ∧ 254 < u.fld ⟨.lnMargin, 255, 0⟩ 15 8 ∧
    2 ≤ (u.lane 255).below ∧ u.fld ⟨.strSrc, 0x4FF, 0⟩ 21 20 ≠ 1 ∧
    ((after (exec (.marginMeasure 63 3 254) s)).lane 255).below = 1 := by decide +kernel

theorem witness_overrun :
    let s := { laned 0x31 0 [(⟨.lnStat, 255, 0⟩, 0x00FF0000)] with clk := { State.reset.clk with mode := .coasting } }
    s.serving = true ∧ s.clk.mode = .coasting ∧ s.lanePowered 255 = true ∧
    (after (exec (.elasticBufferOverrun 63 3) s)).fld ⟨.lnStat, 255, 0⟩ 23 16 = 255 := by decide +kernel

/-- Lanes 252 to 254 in LP2, lane 255 in L0 and the quad with a grant of 7 units. -/
theorem witness_laneLast :
    let s := laned 0x31 0 [(⟨.lnStat, 252, 0⟩, 0x80000000), (⟨.lnStat, 253, 0⟩, 0x80000000),
      (⟨.lnStat, 254, 0⟩, 0x80000000), (⟨.urnCls, 255, 0⟩, 7)]
    s.urn.pend = [] ∧ (∀ i : Fin 4, i ≠ 3 → 2 ≤ s.laneState (4 * 63 + i.val) ∧ (s.lane (4 * 63 + i.val)).wantLp = none) ∧
    s.laneState 255 < bits 2 1 0 ∧ s.grant 255 = 7 ∧
    (after (exec (.lanePowerRequest 0x200 63 3 2) s)).grant (192 + 63) = 0 := by decide +kernel

/-! ### Ethernet ports -/

/-- Quad 1 is four 100GbE ports, every lane powered with signal and lock. -/
def etherQuad (l : List (RegKey × Word)) : State :=
  withRegs (atTick 1000000) ((⟨.quadCfg, 1, 0⟩, 0x21) :: l)

/-- A broadcast frame of no listed EtherType. -/
def plainFrame (n : Nat) : RxFrame :=
  { port := 0, bytes := List.replicate 6 0 ++ List.replicate n 0x11, fcsOk := true, fecOk := true, frac := 3 }

theorem witness_frameBad : let s := etherQuad []
    s.serving = true ∧ s.portUp 1 0 = true ∧ s.burstLanes 1 0 = [] ∧
    (after (exec (.ethFrameReceive 1 { plainFrame 60 with fcsOk := false }) s)).pair ⟨.portCnt, 4, 1⟩ ⟨.portCntHi, 4, 1⟩ =
      1 := by decide +kernel

theorem witness_frameFec : let s := etherQuad []
    s.portFec 1 0 = true ∧ (withRegs s [(⟨.quadCfg, 1, 0⟩, 0x51)]).portFec 1 0 = false ∧
    (after (exec (.ethFrameReceive 1 { plainFrame 60 with fecOk := false }) s)).pair ⟨.portCnt, 4, 1⟩ ⟨.portCntHi, 4, 1⟩ =
      1 := by decide +kernel

theorem witness_frameLong : let s := etherQuad []
    s.serving = true ∧ s.portUp 1 0 = true ∧ s.burstLanes 1 0 = [] ∧
    9600 < ({ plainFrame 60 with bytes := List.replicate 9597 0 } : RxFrame).bytes.length + 4 := by decide +kernel

/-- Quad 1 is the source of stream 5, its default stream. -/
def defaultStream (be : Bool) : State :=
  (etherQuad [(⟨.clsDefault, 1, 0⟩, 0x80000005)]).modStream 5 fun x =>
    { x with tree := some { srcK := (quadRouter 1).1, srcPort := (quadRouter 1).2, via := none, dsts := [(2, 0)], slots := if be then [] else [7], be } }

theorem witness_frameDefault : ∀ be : Bool, let s := defaultStream be
    s.serving = true ∧ s.portUp 1 0 = true ∧ s.burstLanes 1 0 = [] ∧ macControl (plainFrame 60).bytes = false ∧
    numAtBe (plainFrame 60).bytes 0 6 = s.portMac 1 0 ∧ ptpAt (plainFrame 60).bytes = none ∧
    s.classify 1 0 (plainFrame 60).bytes = none ∧ s.flag ⟨.clsDefault, 1, 0⟩ 31 = true ∧
    s.flag ⟨.clsDefault, 1, 0⟩ 30 = false ∧ s.fld ⟨.clsDefault, 1, 0⟩ 13 0 = 5 ∧
    (s.stream 5).tree.isSome = true ∧ (s.stream 5).tree.map (·.be) = some be ∧ (s.stream 5).wait = [] ∧
    (s.stream 5).prep = none ∧ s.bytesWaiting 5 = 0 ∧ s.rxHeld 1 = 0 ∧ s.flitInj = [] ∧
    (s.stream 5).tree.map (s.rawSinks 5) = some [] ∧
    (after (exec (.ethFrameReceive 1 (plainFrame 60)) s)).sent.length = (if be then 1 else 0) ∧
    ((after (exec (.ethFrameReceive 1 (plainFrame 60)) s)).stream 5).wait.length = (if be then 0 else 1) := by
  decide +kernel

theorem witness_classifier : let s := withRegs (etherQuad []) [(⟨.clsKey, 1, 0⟩, 7), (⟨.clsAddr, 1, 3⟩, 9)]
    let t := after (exec (.clsActWrite 0x200 1 0x80000000) s)
    (pin s ⟨.strSrc, 0x501, 0⟩ 0).fld ⟨.strSrc, 0x501, 0⟩ 21 20 ≠ 1 ∧
    (pin s ⟨.strSrc, 0x501, 0⟩ 0).accepts 0x200 ⟨.clsAct, 1, 0⟩ ∧
    ((List.range 4).all fun n => !s.hasPort 1 n || s.portUp 1 n) = true ∧ s.accepts 0x200 ⟨.clsAct, 1, 0⟩ ∧ t.accepts 0x200 ⟨.clsSel, 1, 0⟩ ∧
    (look (t.quad 1).cls 0).map (·.addr) = some (9 * 2 ^ 96) ∧
    (after (exec (.clsSelWrite 0x200 1 1023) t)).reg ⟨.clsKey, 1, 0⟩ = 0 ∧
    look ((after (exec (.clsActWrite 0x200 1 0) t)).quad 1).cls 0 = none := by decide +kernel

theorem witness_mergeLegSilence :
    let s := pin (withRegs (etherQuad []) [(⟨.mrgCfg, 1, 511⟩, 0x800A0000)]) ⟨.strSrc, 0x501, 0⟩ 0
    s.serving = true ∧ s.flag ⟨.mrgCfg, 1, 511⟩ 31 = true ∧
    (nget (s.quad 1).mrg 511 {}).lastB + usTicks (s.fld ⟨.mrgCfg, 1, 511⟩ 29 16) ≤ s.tick ∧
    s.fld ⟨.strSrc, 0x501, 0⟩ 21 20 ≠ 1 := by decide +kernel

theorem witness_pacCfgWrite : let s := withRegs (etherQuad []) [(⟨.pacTrs, 1, 0⟩, 1), (⟨.pacSel, 1, 0⟩, 1023)]
    s.accepts 0x200 ⟨.pacCfg, 1, 0⟩ ∧ s.fld ⟨.pacSel, 1, 0⟩ 9 0 = 1023 ∧ look (s.quad 1).pac 1023 = none ∧
    (look ((after (exec (.pacCfgWrite 0x200 1 0xC07F0000) s)).quad 1).pac 1023).map (·.tokens) = some 127 ∧
    (etherQuad []).accepts 0x200 ⟨.pacCfg, 1, 0⟩ ∧ (etherQuad []).reg ⟨.pacTrs, 1, 0⟩ = 0 := by decide +kernel

theorem witness_pacCfgForms :
    let s := withRegs (etherQuad []) [(⟨.pacTrs, 1, 0⟩, 1), (⟨.pacSel, 1, 0⟩, 1023)]
    let u := after (exec (.pacCfgWrite 0x200 1 0xA0000C05) s)
    s.accepts 0x200 ⟨.pacCfg, 1, 0⟩ ∧ bit 0xA0000C05 30 = false ∧ bit 0xC0000000 30 = true ∧ bits 0xC0000000 22 16 = 0 ∧
    nget (u.quad 1).pac 1023 {} = { cfg := 0xA0000C05, trs := 1, lastTok := u.tick, since := u.root } ∧
    (after (exec (.pacCfgWrite 0x200 1 0xC0000000) s)).quads = s.quads := by decide +kernel

/-- A pacer of stream 5 that holds `n` bytes and a token. -/
def onePacer (n : Nat) : PacEnt :=
  { cfg := 0xC07F0000, streams := 5, trs := 16, tokens := 1, queue := [(0, List.replicate n 0)], lastTok := 1 }

/-- Engine 1 with that pacer, stream 5 ending there. -/
def paced (n : Nat) : State :=
  ((etherQuad []).modQuad 1 fun x => { x with pac := [(0, onePacer n)], pacSeq := 1 }).modStream 5 fun x =>
    { x with tree := some { srcK := 0, srcPort := 0, via := none, dsts := [(3, 2)], slots := [7], be := false } }

theorem witness_pacerEnqueue : let s := paced 2
    s.serving = true ∧ s.quadRole 1 = 1 ∧ s.servedByEven 1 = false ∧
    ((s.stream 5).dstAt (quadRouter 1).1 (quadRouter 1).2).isSome = true ∧
    (s.quad 1).pac = [(0, onePacer 2)] ∧ (onePacer 2).en = true ∧ (onePacer 2).names 5 = true ∧
    (onePacer 2).used + 1 ≤ 65536 ∧
    ((nget ((after (exec (.pacerEnqueue 1 5 ⟨[7], none⟩) s)).quad 1).pac 0 {}).queue.map (·.1)) = [0, 1] := by decide +kernel

theorem onePacer_used (n : Nat) : (onePacer n).used = n := by simp [onePacer, PacEnt.used]

theorem witness_pacerFull : let s := paced 65536
    s.serving = true ∧ s.quadRole 1 = 1 ∧ s.servedByEven 1 = false ∧
    ((s.stream 5).dstAt (quadRouter 1).1 (quadRouter 1).2).isSome = true ∧
    (s.quad 1).pac = [(0, onePacer 65536)] ∧ (onePacer 65536).en = true ∧ (onePacer 65536).names 5 = true ∧
    65536 < (onePacer 65536).used + 1 := by
  rw [onePacer_used]
  exact ⟨by decide +kernel, by decide +kernel, by decide +kernel, by decide +kernel, rfl, by decide +kernel,
    by decide +kernel, by decide⟩

theorem witness_pacerToken : let s := paced 2
    s.serving = true ∧ look (s.quad 1).pac 0 = some (onePacer 2) ∧ (onePacer 2).en = true ∧ (onePacer 2).paced = true ∧
    (onePacer 2).trs.toNat * 2 ^ 16 ≤ s.pacElapsed (onePacer 2) ∧
    (nget ((after (exec (.pacerToken 1 0) s)).quad 1).pac 0 {}).tokens = 2 := by decide +kernel

theorem witness_packetTransmit : let s := paced 2
    s.serving = true ∧ s.portUp 1 0 = true ∧ (s.queue (.mgmtTx 1)).pkts = [] ∧ (s.quad 1).pac = [(0, onePacer 2)] ∧
    (onePacer 2).due = true ∧ bits (onePacer 2).cfg 11 10 = 0 ∧ (onePacer 2).queue = [(0, [0, 0])] ∧
    bit (onePacer 2).cfg 29 = false ∧
    (after (exec (.packetTransmit 1 0 0) s)).sent = [.frame 1 0 [0, 0]] := by decide +kernel

theorem witness_txstampPop :
    let s := (etherQuad []).modQuad 1 fun x => { x with stamps := [{ tick := 2 ^ 32, frac := 0, port := 0, cookie := 0 }] }
    s.reaches 0x200 ⟨.txstampHi, 1, 0⟩ = true ∧ s.readVerdict 0x200 ⟨.txstampHi, 1, 0⟩ = .pass ∧
    s.fenced 0x200 = false ∧ s.latched 0x200 ⟨.txstampHi, 1, 0⟩ = none ∧ (s.quad 1).stamps.length = 1 ∧
    ((after (exec (.txstampPop 0x200 1) s)).quad 1).stamps = [] := by decide +kernel


theorem witness_packetTemplate :
    let p : PacEnt := { cfg := 0xA1000000, streams := 5, queue := [(0, [7, 8, 9])] }
    let s := (withRegs (etherQuad []) [(⟨.tmpl, 1, 0⟩, 0x0000BBAA)]).modQuad 1 fun x => { x with pac := [(0, p)] }
    s.serving = true ∧ s.portUp 1 0 = true ∧ (s.queue (.mgmtTx 1)).pkts = [] ∧ p.en = true ∧ p.paced = false ∧
    bits p.cfg 11 10 = 0 ∧ bit p.cfg 29 = true ∧
    (after (exec (.packetTransmit 1 0 0) s)).sent = [.frame 1 0 [0xAA, 0xBB, 9]] := by decide +kernel

/-! ### RAW lanes, PCI Express, the TAP and I2C -/

/-- Quad 1 in RAW role, its control register of lane 7 given. -/
def rawQuad (v : Word) : State := withRegs (atTick 1000000) [(⟨.quadCfg, 1, 0⟩, 0x04), (⟨.rawCtl, 7, 0⟩, v)]

theorem witness_rawRxPacket :
    let u := rawQuad 0x40020005
    let s := u.modStream 5 fun x =>
      { x with tree := some { srcK := (quadRouter 1).1, srcPort := (quadRouter 1).2, via := none, dsts := [(2, 0)], slots := [7], be := false } }
    s.serving = true ∧ s.quadRole 1 = 4 ∧ s.flag ⟨.rawCtl, 7, 0⟩ 30 = true ∧ s.laneState 7 = 0 ∧ s.los 7 = false ∧
    999999 ≤ s.tick ∧ 16 = s.fld ⟨.rawCtl, 7, 0⟩ 28 16 * s.rawBytes 1 ∧ s.fld ⟨.rawCtl, 7, 0⟩ 13 0 = 5 ∧
    (s.stream 5).tree.isSome = true ∧ (s.stream 5).prep = none ∧ (s.stream 5).wait = [] ∧ u.serving = true ∧
    (u.stream 5).tree = none ∧ (u.stream 5).prep = none ∧ (u.stream 5).wait = [] ∧
    ((after (exec (.rawRxPacket 1 3 999999 7 (List.replicate 16 1)) s)).stream 5).wait.length = 1 ∧
    (after (exec (.rawRxPacket 1 3 999999 7 (List.replicate 16 1)) u)).pair ⟨.portCnt, 7, 5⟩ ⟨.portCntHi, 7, 5⟩ = 1 := by
  decide +kernel

theorem witness_rawTx : let s := rawQuad 0x20020005
    s.serving = true ∧ s.quadRole 1 = 4 ∧ s.flag ⟨.rawCtl, 7, 0⟩ 29 = true ∧ s.laneState 7 = 0 ∧
    s.txWaiting 7 = 0 ∧ (s.modLane 7 fun x => { x with txWords := 16, txAt := s.root }).txWaiting 7 = 16 ∧ s.quadRole 2 ≠ 4 ∧
    (after (exec (.rawTxUnderrun 1 3) s)).fld ⟨.lnStat, 7, 0⟩ 15 8 = 1 := by decide +kernel

theorem witness_slip : let s := rawQuad 0x20020005
    let t := after (exec (.slip 0x200 1 3 0xC0010006) s)
    s.accepts 0x200 ⟨.rawCtl, 7, 0⟩ ∧ ({ s with pins := { s.pins with perst0N := true } } : State).pcieLanes 0 = [] ∧ s.flag ⟨.rawCtl, 7, 0⟩ 31 = false ∧ t.reg ⟨.rawCtl, 7, 0⟩ = 0xC0010006 ∧
    t.accepts 0x200 ⟨.rawCtl, 7, 0⟩ ∧ t.flag ⟨.rawCtl, 7, 0⟩ 31 = true ∧ t.serving = true ∧
    ((after (exec (.slipDone 1 3) t)).lane 7).slips = 1 := by decide +kernel

/-- Controller 1 is present and out of reset. -/
def twoHosts : State :=
  { withRegs (atTick 1000000) [(⟨.quadCfg, 60, 0⟩, 0x22)] with pins := { State.reset.pins with perst1N := true } }

theorem witness_tlp : let s := twoHosts
    s.serving = true ∧ s.pciePresent 1 = true ∧ s.perstHigh 1 = true ∧ legalExtent 0x47FFFFFFFF 1 = true ∧
    s.fnOn 0 = true ∧ barAddr 0 0x47FFFFFFFF true = some 0x47FFFFFFFF ∧ s.mayIssue (fnMid 1 0) 5 ∧ s.flitInj = [] ∧
    legalExtent 0x4800000000 4096 = true ∧ s.isTenant (fnMid 1 0) = false ∧ s.fnOn 64 = false ∧
    legalExtent 0xFFFFFF 1 = true ∧ barAddr 64 0xFFFFFF false = some 0xF13FFFFFFF ∧
    { s with vfs := [63] }.fnOn 64 = true ∧ { s with vfs := [63] }.mayIssue (fnMid 1 64) 5 ∧
    (after (exec (.pcieTlp 1 0 5 true 0x4800000000 4096 none) s)).responses.length = 1 ∧
    (after (exec (.pcieTlp 1 64 5 false 0 4 none) s)).sent.length = 1 := by decide +kernel

theorem witness_tap : let s : State := { State.reset with phase := .recovery }
    (s.phase = .recovery ∨ s.phase = .factory) ∧ (after (exec (.jtagInstruction 7) s)).tap = 7 ∧
    (after (exec (.jtagInstruction 3) State.reset)).tap = 0xFF ∧
    (after (exec (.jtagInstruction 8) s)).tap = 0xFF := by decide +kernel

theorem witness_i2c :
    let s : State := { atTick 5 with pins := { State.reset.pins with i2cOff := 0x50000 } }
    s.kettleRuns = true ∧ s.pins.i2cOff % 4 = 0 ∧ s.ownerAt s.pins.i2cOff = some ⟨.tickLo, 0, 0⟩ ∧
    blkOf .tickLo ∈ [Blk.dev, .clk, .urn, .str, .cad, .tick, .img] ∧ (after (exec .i2cRead s)).sent = [.i2c [5, 0, 0, 0]] ∧
    { s with pins := { s.pins with i2cOff := 2 } }.pins.i2cOff % 4 ≠ 0 := by decide +kernel

theorem witness_i2cElsewhere :
    let s : State := { atTick 5 with pins := { State.reset.pins with i2cOff := 0xA0000 } }
    let u : State := { atTick 5 with sess := [(7, { win := 7, mid := 0x181, dom := 0, isOpen := true, lastAccess := 0, halted := [16] })] }
    s.kettleRuns = true ∧ s.pins.i2cOff % 4 = 0 ∧
    (s.ownerAt s.pins.i2cOff).any (fun k => ! List.contains [Blk.dev, .clk, .urn, .str, .cad, .tick, .img] (blkOf k.name)) = true ∧
    (after (exec .i2cRead s)).sent = [.i2c [0, 0, 0, 0]] ∧ u.kettleRuns = false ∧ (∃ e ∈ u.sess, 16 ∈ e.2.halted) ∧
    (after (exec .i2cRead u)).pins.i2cNack = true ∧ State.reset.kettleRuns = false := by decide +kernel

/-! ### Stacks -/

theorem witness_cgWrite : let s := atTick 1000000
    s.accepts 0x200 ⟨.stkCgStart, 7, 0⟩ ∧ s.accepts 0x200 ⟨.stkCgCfg, 7, 0⟩ ∧ s.stackRanged 7 = false ∧
    cgLegal 0x00010001 = true ∧ cgLegal 0x00010000 = false ∧
    (after (exec (.cgWrite 0x200 7 false 0x00010001) s)).reg ⟨.stkCgStart, 7, 0⟩ = 0x00010001 ∧
    (after (exec (.cgWrite 0x200 7 true 2) s)).fld ⟨.stkCgCfg, 7, 0⟩ 1 0 = 2 ∧
    (after (exec (.cgWrite 0x200 7 true 7) (withRegs s [(⟨.stkCgCfg, 7, 0⟩, 1)]))).fld ⟨.stkCgCfg, 7, 0⟩ 1 0 = 1 ∧
    (after (exec (.cgWrite 0x200 7 false 2) s)).flag ⟨.stkStat, 7, 0⟩ 26 = true := by decide +kernel

theorem witness_stackTemp : let s := after (exec (.stackTempSample 7 86) (atTick 1000000))
    let t := after (exec (.stackTempSample 7 82) s)
    (atTick 1000000).live = true ∧ s.fld ⟨.stkTemp, 7, 0⟩ 31 30 = 1 ∧ t.fld ⟨.stkTemp, 7, 0⟩ 31 30 = 1 ∧
    look (t.stk 7).coolSince 1 = some 1000000 ∧ { t with root := 16 * 251000000 }.live = true ∧
    (after (exec (.stackTempSample 7 82) { t with root := 16 * 251000000 })).fld ⟨.stkTemp, 7, 0⟩ 31 30 = 0 ∧
    (after (exec (.stackTempSample 7 116) t)).fld ⟨.stkTemp, 7, 0⟩ 31 30 = 3 := by decide +kernel

theorem witness_selfRefresh :
    let s := withRegs (atTick 1000000) [(⟨.stkCtl, 7, 0⟩, 0x80000000), (⟨.pchDly, 255, 37⟩, 9)]
    let u := (withRegs (atTick 1000000) [(⟨.stkStat, 7, 0⟩, 0x80000000)])
    let v := (atTick 1000000).modPch 255 fun x => { x with verify := true }
    s.live = true ∧ s.inSr 7 = false ∧ s.flag ⟨.stkCtl, 7, 0⟩ 31 = true ∧ s.srFree 7 = true ∧ (∀ e ∈ (s.stk 7).cache, e.2.dirty = false ∧ e.2.poison = false) ∧
    u.live = true ∧ u.inSr 7 = true ∧ ((after (exec (.selfRefreshExit 7) u)).pch 255).verify = true ∧
    v.live = true ∧ (v.pch 255).verify = true ∧ v.inSr 7 = false ∧
    ((after (exec (.selfRefreshVerify 7 31 true) v)).pch 255).retrain = none ∧
    ((after (exec (.selfRefreshVerify 7 31 false) v)).pch 255).retrain = some {} := by decide +kernel

theorem witness_selfRefreshExit_saved :
    let f : Nat → Word := fun i => BitVec.ofNat 32 i
    let w : State := { withRegs (atTick 1000000) [(⟨.stkStat, 7, 0⟩, 0x80000000)] with
      stks := [(7, { saved := (List.range 1216).map fun i => (i, f i) })] }
    w.live = true ∧ w.inSr 7 = true ∧ (w.stk 7).saved = (List.range 1216).map fun i => (i, f i) := by
  decide +kernel

theorem witness_waymaskWrite : let s := withRegs (atTick 1000000) [(⟨.stkWaymask, 7, 2⟩, 0x0001)]
    s.accepts 0x200 ⟨.stkWaymask, 7, 65⟩ ∧ s.accepts 0x200 ⟨.stkWaymask, 7, 1⟩ ∧
    s.maskClash 7 65 (bits 0x0002 15 0) = false ∧ s.maskClash 7 65 (bits 0x0001 15 0) = true ∧
    s.accepts 0x200 ⟨.stkWaymask, 7, 0⟩ ∧
    (after (exec (.waymaskWrite 0x200 7 65 2) s)).reg ⟨.stkWaymask, 7, 65⟩ = 2 ∧
    (after (exec (.waymaskWrite 0x200 7 65 1) s)).reg ⟨.stkWaymask, 7, 65⟩ = 0x80000000 := by decide +kernel

/-- A full retrain of pseudo-channel 255 as given, over registers. -/
def retraining (r : RetrainSt) (l : List (RegKey × Word)) : State :=
  (withRegs (atTick 100000000) l).modPch 255 fun x => { x with retrain := some r }

theorem witness_fullRetrain : let s := retraining {} []
    let u := pin (retraining {} [(⟨.rtpStat, 2047, 0⟩, 0x80000000)]) ⟨.strSrc, 0x707, 0⟩ 0
    s.serving = true ∧ (s.pch 255).retrain = some {} ∧ s.pchRetired 255 = false ∧ s.stackPanic 7 = false ∧
    s.leaseOk .fullRetrain [.pch 255, .stack 7] = true ∧ s.leases = [] ∧ s.freeLease .fullRetrain = some 0 ∧
    (after (exec (.fullRetrain 7 31) s)).fld ⟨.pchStat, 255, 0⟩ 31 30 = 1 ∧
    u.serving = true ∧ (u.pch 255).retrain = some {} ∧ u.pchRetired 255 = false ∧ u.stackPanic 7 = true ∧
    u.fld ⟨.strSrc, 0x707, 0⟩ 21 20 ≠ 1 ∧
    ((after (exec (.fullRetrain 7 31) u)).pch 255).retrain.bind (·.waitingSince) = some 100000000 := by decide +kernel

/-- The same under its lease. -/
def leasedRetrain (r : RetrainSt) : State :=
  { retraining r [(⟨.stkCtl, 7, 0⟩, 0x01)] with
    leases := [(0, { cls := .fullRetrain, rs := [.pch 255, .stack 7], dom := 0, started := 1, renewed := 100000000 })] }

theorem witness_panicYield : let s := leasedRetrain { waitingSince := some 99750000 }
    s.serving = true ∧ (s.pch 255).retrain = some { waitingSince := some 99750000 } ∧
    s.fld ⟨.stkCtl, 7, 0⟩ 7 0 ≠ 0 ∧ 99750000 + 250000 * s.fld ⟨.stkCtl, 7, 0⟩ 7 0 ≤ s.tick ∧
    s.leased .fullRetrain (.pch 255) = true ∧
    ((after (exec (.panicYieldTimeout 7 31) s)).pch 255).retrain.map (·.active) = some true ∧
    0 + 25000000 ≤ s.tick := by decide +kernel

/-- A training result with every window open. -/
def trainedAll : TrainResult := { lanes := List.replicate 38 (BitVec.ofNat 256 (2 ^ 24 - 1), BitVec.ofNat 256 (2 ^ 256 - 2 ^ 232)), cadly := 0, lat := 0 }

theorem witness_retrainStageDone :
    let s := leasedRetrain { active := true, stage := 2 }
    let u := leasedRetrain { active := true, stage := 3 }
    s.serving = true ∧ (s.pch 255).retrain = some { active := true, stage := 2 } ∧
    (∀ i, i < 256 → s.rtpEn (1792 + i) = false) ∧ s.retrainDue 255 = false ∧ s.stackPanic 7 = false ∧
    s.leased .fullRetrain (.pch 255) = true ∧ u.serving = true ∧ (u.pch 255).retrain = some { active := true, stage := 3 } ∧
    (∀ i, i < 256 → u.rtpEn (1792 + i) = false) ∧ trainSpares trainedAll = some [] ∧ (u.stk 7).deferredSr = false ∧
    s.hbmHeld = [] ∧ u.hbmHeld = [] ∧ u.afterStopAt 0 = false ∧ centres trainedAll 37 = some (11, 243) ∧
    ((after (exec (.retrainStageDone 7 31 trainedAll) s)).pch 255).retrain.map (·.stage) = some 3 ∧
    (after (exec (.retrainStageDone 7 31 trainedAll) u)).reg ⟨.pchDly, 255, 37⟩ = 0xF30BF3 := by decide +kernel

theorem witness_driftTrack : let s := withRegs (atTick 1000000) [(⟨.pchStat, 255, 0⟩, 0x20FFFF00)]
    s.serving = true ∧ s.inSr 7 = false ∧ s.pchRetired 255 = false ∧ s.pchBusy 255 = false ∧
    s.leaseOk .driftTrack [.pch 255] = true ∧ s.leases = [] ∧ s.freeLease .driftTrack = some 0 ∧
    s.flag ⟨.pchStat, 255, 0⟩ 29 = true ∧
    (after (exec (.driftTrack 7 31 [(5, -5)] true) s)).reg ⟨.pchDly, 255, 0⟩ = 1 := by decide +kernel

theorem witness_patrolScrub :
    let s := atTick 1000000
    let u := s.modStk 7 fun x => { x with cache := [(wayKey 603979775 0, { line := 603979775, bytes := [], dirty := true })] }
    s.serving = true ∧ s.flag ⟨.stkScrub, 7, 0⟩ 31 = true ∧ s.inSr 7 = false ∧ s.stackPanic 7 = false ∧
    s.pchRetired (s.pchOf (64 * (7 * (stackBytes / 64) + 603979775))) = false ∧
    s.leaseOk .patrolScrub [.pch (s.pchOf (64 * (7 * (stackBytes / 64) + 603979775)))] = true ∧ s.leases = [] ∧
    s.freeLease .patrolScrub = some 0 ∧
    s.agentWaits bulkClass 0x00 (64 * (7 * (stackBytes / 64) + 603979775)) 64 = false ∧ u.agentWaits bulkClass 0x00 (64 * (7 * (stackBytes / 64) + 603979775)) 64 = false ∧ (s.stk 7).hit 603979775 = none ∧
    nearPoison (s.stored (7 * (stackBytes / 64) + 603979775)) = true ∧ u.serving = true ∧ u.leases = [] ∧
    ((u.stk 7).hit 603979775).map (·.dirty) = some true ∧
    (after (exec (.patrolScrubStep 7 603979775) s)).fld ⟨.stkScrub, 7, 0⟩ 7 0 = 1 := by decide +kernel

theorem witness_hbmPick :
    let h : HbmReq := { mid := 0x181, tag := 1, dom := 1, addr := 0x40, len := 64, since := 9 }
    let b : HbmReq := { mid := 0x188, tag := 2, dom := 1, addr := 0x80, len := 64, since := 8 }
    let s : State := { atTick 1000000 with hbmHeld := [b, h] }
    (s.hbmPick 0 true).isSome = true ∧ s.hbmPick 0 false = some b ∧
    { s with root := 44 }.hbmPick 0 false = some h ∧ { s with root := 44 }.hbmPick 0 true = none ∧
    { s with root := 44 }.hbmServable 0 false [b] h = true := by decide +kernel

/-! ### Real-time ports and ranges -/

/-- Range 1 of the owner, from 2 MiB to 6 MiB, in the given state. -/
def ownerRange (st : Word) (l : List (RegKey × Word)) : State :=
  (withRegs (atTick 1000000) ((⟨.infRngStat, 1, 0⟩, st) :: (⟨.infRsel, 0, 0⟩, 1) :: l)).modRange 1 fun _ =>
    { base := 1, limit := 2, owner := 1, k1 := 1, k2 := 2 }

/-- Port 255 of stack 0: a ring of 16 slots of 2 lines at 2 MiB, its domain the owner's, stream 5. -/
def oneRtp (cfg : Word) (l : List (RegKey × Word)) : State :=
  ownerRange 2 ([(⟨.rtpSel, 0, 0⟩, 255), (⟨.rtpCfg, 255, 0⟩, cfg), (⟨.rtpBind, 255, 0⟩, 0x01000005),
    (⟨.traySent, 5, 0⟩, 1), (⟨.rtpBase, 255, 0⟩, 0x200000), (⟨.rtpRing, 255, 0⟩, 0x02000010)] ++ l)

theorem witness_rtpEnable : let s := oneRtp 0 []
    let u := oneRtp 0 [(⟨.traySent, 5, 0⟩, 0x10)]
    256 * 0 + s.fld ⟨.rtpSel, 0, windowOf ((s.midDomain 0x200).getD 0)⟩ 7 0 = 255 ∧
    s.accepts 0x200 ⟨.rtpCfg, 255, 0⟩ ∧ s.rtpEn 255 = false ∧ s.rtpRetired 255 = false ∧
    s.fld ⟨.traySent, s.rtpStream 255, 0⟩ 7 0 = s.rtpDom 255 ∧ s.ringOk 255 (s.rtpDom 255) true = true ∧
    s.meetsRetired (s.rtpBase 255) (s.rtpLen 255) = false ∧
    (after (exec (.rtpEnable 0x200 0 0x80000000) s)).rtpEn 255 = true ∧
    u.fld ⟨.traySent, u.rtpStream 255, 0⟩ 7 0 ≠ u.rtpDom 255 ∧ u.accepts 0x200 ⟨.rtpCfg, 255, 0⟩ ∧
    (after (exec (.rtpEnable 0x200 0 0x80000000) u)).flag ⟨.rtpStat, 255, 0⟩ 29 = true ∧
    (oneRtp 0x80000000 []).rtpEn 255 = true ∧ (oneRtp 0x80000000 []).accepts 0x200 ⟨.rtpCfg, 255, 0⟩ ∧
    (after (exec (.rtpEnable 0x200 0 0) (oneRtp 0x80000000 []))).rtpEn 255 = false ∧
    (after (exec (.rtpEnable 0x200 0 0x8F000000) (oneRtp 0x80000000 []))).fld ⟨.rtpCfg, 255, 0⟩ 27 24 = 15 := by
  decide +kernel

theorem witness_rtpEnable_read :
    let s := oneRtp 0x80000000 [(⟨.rtpSel, 0, 0⟩, 254), (⟨.rtpBind, 254, 0⟩, 0x01000006), (⟨.traySent, 6, 0⟩, 1),
      (⟨.rtpStart, 254, 0⟩, 1000000)]
    256 * 0 + s.fld ⟨.rtpSel, 0, windowOf ((s.midDomain 0x200).getD 0)⟩ 7 0 = 254 ∧
    s.accepts 0x200 ⟨.rtpCfg, 254, 0⟩ ∧ s.rtpEn 254 = false ∧ s.rtpRetired 254 = false ∧ bits 0xC00000FF 7 0 = 255 ∧
    s.rtpEn 255 = true ∧ s.rtpReads 255 = false ∧ s.rtpDom 255 = s.rtpDom 254 ∧
    s.fld ⟨.traySent, s.rtpStream 254, 0⟩ 7 0 = s.rtpDom 254 ∧ s.ringOk 255 (s.rtpDom 254) false = true ∧
    s.meetsRetired (s.rtpBase 255) (s.rtpLen 255) = false ∧
    s.tick ≤ s.pair ⟨.rtpStart, 254, 0⟩ ⟨.rtpStartHi, 254, 0⟩ ∧
    (after (exec (.rtpEnable 0x200 0 0xC00000FF) s)).rtpEn 254 = true := by decide +kernel

theorem witness_rtpWritePacket :
    let s := (oneRtp 0x80000000 []).modStream 5 fun x =>
      { x with tree := some { srcK := 0, srcPort := 0, via := none, dsts := [((stackRouters 0).headD 0, 0)], slots := [7], be := false } }
    s.serving = true ∧ s.dstAtStack 0 (s.rtpStream 255) = some ((stackRouters 0).headD 0) ∧ s.rtpEn 255 = true ∧
    s.rtpReads 255 = false ∧ s.rtpRetired 255 = false ∧ 64 + 64 ≤ s.rtpSize 255 ∧ s.rtpSize 255 < 65 + 64 ∧
    (s.rtp 255).buf = [] ∧ s.slotHeld 255 (s.rtp 255).slot = false ∧ s.rtpBase 255 % 64 = 0 ∧
    s.rtpBase 255 + (s.rtp 255).slot * s.rtpSize 255 = 0x200000 ∧ s.rtpSize 255 = 128 ∧
    (∀ a, a < 128 → s.hbmRight (s.rtpDom 255) (0x200000 + a) true = some 1 ∧ s.groupRetired (0x200000 + a) = false) ∧
    s.rangeState 1 = 2 ∧ (s.range 1).wcnt + 256 < rekeyAt ∧
    (s.stk (stackOf 0x200000)).wayOf (0x200000 / 64 % (stackBytes / 64)) = none ∧
    (s.stk (stackOf 0x200000)).injBytes = 0 ∧ (s.stk (stackOf 0x200000)).injTag = false ∧
    s.lineCell (0x200000 / 64 + 1) ≠ s.lineCell (0x200000 / 64) ∧
        ((after (exec (.rtpWritePacket 0 255 ⟨(List.replicate 65 1), none⟩) s)).rtp 255).gap = true ∧
    ((after (exec (.rtpWritePacket 0 255 ⟨[7], some 239⟩) s)).rtp 255).gap = true := by decide +kernel

/-- The same with the first slot's pseudo-channel in a training stage. -/
def heldSlot : State :=
  ((oneRtp 0x80000000 []).modStream 5 fun x =>
    { x with tree := some { srcK := 0, srcPort := 0, via := none, dsts := [((stackRouters 0).headD 0, 0)], slots := [7], be := false } }).modPch
    0 fun p => { p with retrain := some { active := true } }

theorem witness_rtpWriteHeld : heldSlot.serving = true ∧ heldSlot.rtpRetired 255 = false ∧
    heldSlot.dstAtStack 0 (heldSlot.rtpStream 255) = some ((stackRouters 0).headD 0) ∧
    heldSlot.slotHeld 255 (heldSlot.rtp 255).slot = true ∧
    ((after (exec (.rtpWritePacket 0 255 ⟨[7], none⟩) heldSlot)).rtp 255).buf = [([7], 1000000)] := by decide +kernel

/-- Port 254 of stack 0 reads from port 255, which has stored one frame of one packet. -/
def readRtp (x : RtpSt) : State :=
  ((oneRtp 0x80000000 [(⟨.rtpCfg, 254, 0⟩, 0xC00000FF), (⟨.rtpPeriod, 254, 0⟩, 1), (⟨.rtpBind, 254, 0⟩, 0x01000005)]).modRtp 254
    fun _ => x).modRtp 255 fun y => { y with frames := [{ num := 1, slot := 0, seq := 0, tick := 0, ended := true, count := 1 }] }

theorem witness_rtpBoundary : let s := readRtp { boundary := 3, bTick := 999999 }
    s.serving = true ∧ s.rtpEn 254 = true ∧ s.rtpReads 254 = true ∧ s.rtpRetired 254 = false ∧
    (s.rtp 254).boundary ≠ 0 ∧
    s.pair ⟨.rtpPeriod, 254, 0⟩ ⟨.rtpPeriodHi, 254, 0⟩ * 2 ^ 16 ≤ (s.rtp 254).bPart + s.devSince (s.rtp 254).bTick ∧
    (s.rtp 254).sending = none ∧ (s.rtp 254).last = none ∧ s.rtpSrc 254 ≠ 254 ∧ s.rtpSrc 254 = 255 ∧
    (pin s ⟨.strSrc, 0x700, 0⟩ 0).fld ⟨.strSrc, 0x700, 0⟩ 21 20 ≠ 1 ∧
    (s.rtp 255).frames.length = 1 ∧ ((s.rtp 255).frames.all fun f => f.ended && decide (0 < f.num)) = true := by
  decide +kernel

theorem witness_rtpBoundary_empty :
    let s := (readRtp { boundary := 3, bTick := 999999 }).modRtp 255 fun y => { y with frames := [] }
    s.serving = true ∧ s.rtpEn 254 = true ∧ s.rtpReads 254 = true ∧ s.rtpRetired 254 = false ∧
    (s.rtp 254).boundary ≠ 0 ∧
    s.pair ⟨.rtpPeriod, 254, 0⟩ ⟨.rtpPeriodHi, 254, 0⟩ * 2 ^ 16 ≤ (s.rtp 254).bPart + s.devSince (s.rtp 254).bTick ∧
    (s.rtp 254).sending = none ∧ (s.rtp 254).last = none ∧ (s.rtp (s.rtpSrc 254)).frames = [] ∧
    ((after (exec (.rtpBoundary 0 254) s)).rtp 254).boundary = 4 ∧
    (readRtp { boundary := 3, bTick := 1000000 }).devSince 1000000 <
      s.pair ⟨.rtpPeriod, 254, 0⟩ ⟨.rtpPeriodHi, 254, 0⟩ * 2 ^ 16 := by decide +kernel

theorem witness_rtpPacketSend :
    let f : FrameEnt := { num := 1, slot := 0, seq := 0, tick := 0, ended := true, count := 1 }
    let s := (readRtp { boundary := 3, bTick := 999999, sending := some (f, 0), ahead := [[7]], last := some f }).modStream 5
      fun x => { x with tree := some { srcK := (stackRouters 0).headD 0, srcPort := 0, via := none, dsts := [(2, 0)], slots := [7], be := false } }
    s.serving = true ∧ s.rtpEn 254 = true ∧ s.rtpReads 254 = true ∧ s.rtpRetired 254 = false ∧
    (s.rtp 254).sending = some (f, 0) ∧
    0 * (s.reg ⟨.rtpInterval, 254, 0⟩).toNat * 2 ^ 16 ≤ (s.rtp 254).bPart + s.devSince (s.rtp 254).bTick ∧
    f.count = 0 + 1 ∧ (s.rtp 254).ahead = [[7]] ∧ (s.stream (s.rtpStream 254)).tree.isSome = true ∧
    (s.stream (s.rtpStream 254)).prep = none ∧ (stackRouters 0).contains ((stackRouters 0).headD 0) = true ∧
    (s.stream (s.rtpStream 254)).wait = [] ∧ (s.stream (s.rtpStream 254)).tree.map (·.be) = some false ∧
    ((after (exec (.rtpPacketSend 0 254) s)).stream 5).wait.length = 1 := by decide +kernel

theorem witness_rtpPacketSend_noTree :
    let f : FrameEnt := { num := 1, slot := 0, seq := 0, tick := 0, ended := true, count := 1 }
    let s := readRtp { boundary := 3, bTick := 999999, sending := some (f, 0), ahead := [[7]], last := some f }
    let u := withRegs (readRtp { boundary := 3, bTick := 1000000, sending := some ({ f with count := 9 }, 5) })
      [(⟨.rtpInterval, 254, 0⟩, 1)]
    s.serving = true ∧ s.rtpEn 254 = true ∧ s.rtpReads 254 = true ∧ s.rtpRetired 254 = false ∧
    (s.rtp 254).sending = some (f, 0) ∧ (s.rtp 254).ahead = [[7]] ∧ (s.stream (s.rtpStream 254)).tree = none ∧
    (s.stream (s.rtpStream 254)).prep = none ∧
    (after (exec (.rtpPacketSend 0 254) s)).fld ⟨.rtpStat, 254, 0⟩ 23 16 = 1 ∧
    (u.rtp 254).sending = some ({ f with count := 9 }, 5) ∧
    (u.rtp 254).bPart + u.devSince (u.rtp 254).bTick <
      5 * (u.reg ⟨.rtpInterval, 254, 0⟩).toNat * 2 ^ 16 := by decide +kernel

theorem witness_rangeCommands :
    let s := withRegs (atTick 1000000) [(⟨.infRsel, 0, 0⟩, 15), (⟨.infRngBase, 15, 0⟩, 1), (⟨.infRngLimit, 15, 0⟩, 2),
      (⟨.infRngCtl, 15, 0⟩, 1)]
    let u := ownerRange 2 [(⟨.infRngCtl, 1, 0⟩, 1)]
    s.rngSel 0x200 = 15 ∧ s.accepts 0x200 ⟨.infRngCmd, 15, 0⟩ ∧
    (∀ o, o < 5 → s.rngDenied 0x200 (packBits [(31, 31, 1), (3, 0, o)]) = false) ∧ s.inHold = false ∧
    s.rangeState 15 = 0 ∧ s.rangeCode 15 (s.fld ⟨.infRngBase, 15, 0⟩ 18 0) (s.fld ⟨.infRngLimit, 15, 0⟩ 18 0)
      (s.fld ⟨.infRngCtl, 15, 0⟩ 7 0) = 0 ∧ s.leases = [] ∧ s.freeLease .rekeySweep = some 0 ∧
    s.flag ⟨.infRngCmd, 15, 0⟩ 31 = false ∧ u.flag ⟨.infRngCmd, 1, 0⟩ 31 = false ∧ u.rngSel 0x200 = 1 ∧ u.accepts 0x200 ⟨.infRngCmd, 1, 0⟩ ∧
    (∀ o, o < 5 → u.rngDenied 0x200 (packBits [(31, 31, 1), (3, 0, o)]) = false) ∧ u.inHold = false ∧
    u.rangeState 1 = 2 ∧ u.ownerFits 1 (u.fld ⟨.infRngCtl, 1, 0⟩ 7 0) = true ∧ u.leases = [] ∧
    u.freeLease .rekeySweep = some 0 ∧ (after (exec (.remove 0x200) u)).rangeState 1 = 0 := by decide +kernel

theorem witness_rangeRefused :
    let s := withRegs (atTick 1000000) [(⟨.infRsel, 0, 0⟩, 15), (⟨.infRngBase, 15, 0⟩, 2), (⟨.infRngLimit, 15, 0⟩, 1),
      (⟨.infRngCtl, 15, 0⟩, 1)]
    let u := ownerRange 2 [(⟨.infRngCmd, 1, 0⟩, 0x80000003)]
    s.rngSel 0x200 = 15 ∧ s.accepts 0x200 ⟨.infRngCmd, 15, 0⟩ ∧ s.flag ⟨.infRngCmd, 15, 0⟩ 31 = false ∧
    s.rangeState 15 = 0 ∧ s.rangeCode 15 (s.fld ⟨.infRngBase, 15, 0⟩ 18 0) (s.fld ⟨.infRngLimit, 15, 0⟩ 18 0)
      (s.fld ⟨.infRngCtl, 15, 0⟩ 7 0) = 6 ∧ (after (exec (.create 0x200) s)).fld ⟨.infRngStat, 15, 0⟩ 27 24 = 6 ∧
    u.rngSel 0x200 = 1 ∧ u.accepts 0x200 ⟨.infRngCmd, 1, 0⟩ ∧
    u.rngDenied 0x200 (packBits [(31, 31, 1), (3, 0, 3)]) = false ∧ u.flag ⟨.infRngCmd, 1, 0⟩ 31 = true := by
  decide +kernel

theorem witness_rangeFillDone : let s := ownerRange 1 []
    let u : State := { s with leases := [(0, { cls := .fullRetrain, rs := [.pch 0, .stack 0], dom := 0, started := 1, renewed := 1 })] }
    s.live = true ∧ s.rangeState 1 = 1 ∧ s.leaseOk .rekeySweep (sweepLease ((s.range 1).base * 2 ^ 21 / stackBytes) 1) = true ∧
    (after (exec (.rangeFillDone 1) s)).rangeState 1 = 2 ∧ u.rangeState 1 = 1 ∧ u.leased .rekeySweep (.range 1) = false ∧
    u.leaseOk .rekeySweep (sweepLease ((u.range 1).base * 2 ^ 21 / stackBytes) 1) = false := by decide +kernel

/-- The read port's ring lies in a retired group. -/
theorem witness_rtpEnable_retired :
    let s := (oneRtp 0x80000000 [(⟨.rtpSel, 0, 0⟩, 254), (⟨.rtpBind, 254, 0⟩, 0x01000006), (⟨.traySent, 6, 0⟩, 1),
      (⟨.pchStat, 0, 0⟩, 0xC0000000)]).modStream 6 fun x => { x with tree := some { srcK := (stackRouters 0).headD 0, srcPort := 0, via := none, dsts := [(2, 0)], slots := [7], be := false } }
    s.accepts 0x200 ⟨.rtpCfg, 254, 0⟩ ∧ s.meetsRetired (s.rtpBase 255) (s.rtpLen 255) = true ∧
    s.ringOk 255 (s.rtpDom 254) false = true ∧
    (after (exec (.rtpEnable 0x200 0 0xC00000FF) s)).rtpRetired 254 = true ∧
    nget ((after (exec (.rtpEnable 0x200 0 0xC00000FF) s)).stream 6).dstState 0 0 = 4 := by decide +kernel

/-- Range 1 sweeps at line n under its lease. -/
def sweeping (n : Nat) (l : List (RegKey × Word)) : State :=
  { (ownerRange 3 l).modRange 1 fun x => { x with ptr := n, n1 := 3, n2 := 4 } with
    leases := [(0, { cls := .rekeySweep, rs := [.stack 0, .range 1], dom := 1, started := 1, renewed := 1 })] }

theorem witness_rekeySweepStep :
    let s := (sweeping 40000 []).modStk 0 fun x =>
      { x with cache := [(wayKey 40000 0, { line := 40000, bytes := List.replicate 64 7, dirty := true })] }
    let u := sweeping 98303 [(⟨.pchStat, 0, 0⟩, 0xC0000000)]
    s.live = true ∧ s.rangeState 1 = 3 ∧ (s.range 1).ptr = 40000 ∧ stackOf (64 * 40000) = 0 ∧ s.stackPanic 0 = false ∧
    s.leased .rekeySweep (.range 1) = true ∧ s.inSr 0 = false ∧ s.groupRetired (64 * 40000) = false ∧ 40000 < (s.rangeLines 1).2 ∧
    (s.stk 0).wayOf (40000 % (stackBytes / 64)) = some 0 ∧
    ((s.stk 0).hit (40000 % (stackBytes / 64))).map (·.poison) = some false ∧
    ((s.stk 0).hit (40000 % (stackBytes / 64))).map (·.bad) = some false ∧
    s.agentWaits bulkClass 0x00 (64 * 40000) 64 = false ∧ u.agentWaits bulkClass 0x00 (64 * 98303) 64 = false ∧
    (u.stk 0).hit (98303 % (stackBytes / 64)) = none ∧ (s.stk 0).injBytes = 0 ∧
    (s.stk 0).injTag = false ∧ u.live = true ∧ u.rangeState 1 = 3 ∧ (u.range 1).ptr = 98303 ∧
    stackOf (64 * 98303) = 0 ∧ u.stackPanic 0 = false ∧ u.leased .rekeySweep (.range 1) = true ∧ u.inSr 0 = false ∧
    u.groupRetired (64 * 98303) = true ∧ 98303 = (u.rangeLines 1).2 ∧
    (after (exec (.rekeySweepStep 1) u)).rangeState 1 = 2 ∧
    ((after (exec (.sweepRateCheck 1 1 1) u)).range 1).share = 1 := by decide +kernel

theorem witness_bucket :
    let s := withRegs (atTick 250000000) [(⟨.infPchStat, 255, 0⟩, 7)]
    s.live = true ∧ (s.pch 255).leakBase + 250000 * s.fld ⟨.infBktCfg, 7, 0⟩ 15 0 ≤ s.tick ∧
    (after (exec (.bucketLeak 7 31) s)).fld ⟨.infPchStat, 255, 0⟩ 15 0 = 6 ∧ s.accepts 0x200 ⟨.infBktCfg, 7, 0⟩ ∧
    (after (exec (.infBktCfgWrite 0x200 7 0x00010000) s)).fld ⟨.infBktCfg, 7, 0⟩ 15 0 =
      s.fld ⟨.infBktCfg, 7, 0⟩ 15 0 ∧
    ((after (exec (.infBktCfgWrite 0x200 7 0x00010001) s)).pch 255).leakBase = 250000000 := by decide +kernel

theorem witness_lineRead :
    let s := pin (ownerRange 2 []) ⟨.strSrc, 0x600, 0⟩ 0
    s.serving = true ∧ 0x200040 < 8 * stackBytes ∧ s.rangeAt 0x200040 = some 1 ∧ s.rangeState 1 = 2 ∧
    nearPoison (s.stored (0x200040 / 64)) = true ∧ s.pchOf (64 * (0x200040 / 64)) = 0 ∧
    s.fld ⟨.strSrc, 0x600, 0⟩ 21 20 ≠ 1 ∧
    (after (exec (.lineRead 0x200040 1 false {}) s)).fld ⟨.stkScrub, 0, 0⟩ 7 0 = 1 := by decide +kernel

theorem witness_lineReadPredicts :
    let s := withRegs (ownerRange 2 []) [(⟨.pchCtl, 0, 0⟩, 0x80000000)]
    s.serving = true ∧ s.pchAddr (64 * (0x200040 / 64)) = (0, 65600) ∧ s.flag ⟨.pchCtl, 0, 0⟩ 31 = true ∧
    s.hbmHeld = [] ∧ nearPoison (s.stored (0x200040 / 64)) = true ∧
    nget (nget s.banks 0 []) (Config.bankRow 65600).1 {} = {} := by decide +kernel

theorem witness_lineReadClean :
    let s := (ownerRange 2 []).store 32769 (codeword (List.replicate 64 7) 0x01020304)
    s.serving = true ∧ s.rangeAt 0x200040 = some 1 ∧ s.rangeState 1 = 2 ∧ 0x200040 / 64 = 32769 ∧
    nearPoison (s.stored 32769) = false ∧ rsDecode (s.stored 32769) = .clean ∧
    allZero ((s.stored 32769).take 68) = false ∧ s.lineKeys 1 32769 = (0, 1, 2) ∧
    nearPoison (addErr (s.stored 32769) [(0, 1), (1, 2), (2, 3)]) = false ∧
    rsDecode (addErr (s.stored 32769) [(0, 1), (1, 2), (2, 3)]) = .bad := by decide +kernel

/-! ### Reset, start-up and the hash engine -/

/-- The island has counted. -/
def counted : State :=
  { State.reset with phase := .counting, aon := 131072, pins := { State.reset.pins with sysrstN := true } }

theorem witness_resets : State.reset.phase = .inReset ∧ (after (exec .porstRelease State.reset)).phase = .counting ∧
    (atTick 5).phase = .service ∧ (after (exec .sysrst (atTick 5))).chipDue = true ∧
    (after (exec .sysrst (atTick 5))).pins.sysrstN = false ∧
    (after (exec .sysrst { atTick 5 with phase := .safe true })).phase = .safe true ∧
    (after (exec .sysrst counted)).pins.sysrstN = false := by decide +kernel

theorem witness_startCount :
    (counted.phase = .counting ∧ 131072 ≤ counted.aon ∧ counted.pins.sysrstN = true ∧ counted.urn.pend = []) ∧
    (let s := { counted with pins := { counted.pins with sysrstN := false } };
      s.phase = .counting ∧ s.pins.sysrstN = false) ∧
    counted.firmware = none := by decide +kernel

theorem witness_chipReset : let s := { withRegs (atTick 9) [(⟨.imgStat, 0, 0⟩, 0x20000000)] with chipDue := true }
    s.chipReady = true ∧ s.fld ⟨.imgStat, 0, 0⟩ 31 29 = 1 ∧
    ({ atTick 9 with chipDue := true }).chipReady = true ∧ (atTick 9).fld ⟨.imgStat, 0, 0⟩ 31 29 = 0 ∧
    (atTick 9).chipReady = false ∧ ({ atTick 9 with phase := .safe true, chipDue := true }).chipReady = false ∧
    ({ atTick 9 with phase := .integrity, chipDue := true }).chipReady = false := by decide +kernel

theorem witness_run :
    let s := { withRegs (atTick 9) [(⟨.devToken, 0, 0⟩, 0xC0000000)] with phase := .recovery }
    s.kettleFree 0x181 0 ∧ 0x181 = jtagMid ∧ s.phase = .recovery ∧ s.headerCause 2 = some 2 := by decide +kernel

/-- Context 7 is the owner's, its descriptor at 2 MiB in a cached line. -/
def hceState (op : Byte) : State :=
  (ownerRange 2 [(⟨.hceCtx, 7, 0⟩, 0x80000001), (⟨.hceDesc, 7, 0⟩, 0x200000)]).modStk 0 fun x =>
    { x with cache := [(wayKey 32768 0, { line := 32768, bytes := op :: List.replicate 63 0, dirty := true })] }

theorem witness_hceJobStart : let s := hceState 1
    s.accepts 0x200 ⟨.hceCmd, 7, 0⟩ ∧ s.flag ⟨.hceCmd, 7, 0⟩ 31 = false ∧ s.flag ⟨.hceCtx, 7, 0⟩ 31 = true ∧
    s.pair ⟨.hceDesc, 7, 0⟩ ⟨.hceDescHi, 7, 0⟩ = 0x200000 ∧ s.hceLater 7 (s.hceDom 7) = false ∧ s.hbmRight (s.hceDom 7) 0x200000 false = some 1 ∧
    s.groupRetired 0x200000 = false ∧ stackOf 0x200000 = 0 ∧
    ((s.stk 0).hit (0x200000 / 64 % (stackBytes / 64))).map (fun l => (l.poison, l.bad, l.bytes.length)) = some (false, false, 64) ∧
    (look (after (exec (.hceJobStart 0x200 7 0x80000000) s)).hceJobs 7).map (·.left) = some 1 ∧
    (after (exec (.hceJobStart 0x200 7 0x80000000) (hceState 9))).fld ⟨.hceStat, 7, 0⟩ 27 24 = 4 := by decide +kernel

/-- A job of 3 chunks of context 7, whose first runs on a pipeline. -/
def hceBusy (stop : Bool) (pipe : List (Nat × Nat)) : State :=
  { withRegs (atTick 16384) [(⟨.hceCtx, 7, 0⟩, 0x80000001), (⟨.hceCmd, 7, 0⟩, 0x80000000)] with
    hceJobs := [(7, { desc := List.replicate 64 0, dom := 1, left := 3, stop })], hcePipe := pipe }

theorem witness_hceChunkDone : let s := hceBusy false [(5, 7)]
    let u := hceBusy true [(5, 7)]
    s.live = true ∧ look s.hcePipe 5 = some 7 ∧ s.hceFixed = false ∧ look u.hcePipe 5 = some 7 ∧ u.hceFixed = false ∧
    (look (after (exec (.hceChunkDone 5) s)).hceJobs 7).map (·.left) = some 2 ∧
    (after (exec (.hceChunkDone 5) u)).fld ⟨.hceStat, 7, 0⟩ 27 24 = 5 := by decide +kernel

/-- A job of one chunk whose source no range holds ends with CODE 1. -/
theorem witness_hceChunkDone_last :
    let d := (1 : Byte) :: List.replicate 3 0 ++ leBytes 4 8 ++ List.replicate 56 0
    let s := { hceBusy false [(5, 7)] with hceJobs := [(7, { desc := d, dom := 1, left := 1 })] }
    s.live = true ∧ look s.hcePipe 5 = some 7 ∧ s.hceFixed = false ∧ hceOk d = true ∧
    (look s.hceJobs 7).map s.hceWaits = some false ∧
    (({ s with hcePipe := erase s.hcePipe 5 }).hceRun 1 d).2 = 1 ∧ tenantOf 1 = none ∧
    (after (exec (.hceChunkDone 5) s)).fld ⟨.hceStat, 7, 0⟩ 27 24 = 1 := by decide +kernel

theorem witness_hceIgnored : let s := hceBusy false []
    s.accepts 0x200 ⟨.hceCmd, 7, 0⟩ ∧ s.flag ⟨.hceCmd, 7, 0⟩ 31 = true := by decide +kernel

theorem witness_hceSlotBoundary : let s := atTick 16384
    s.live = true ∧ s.hceSlotNo < s.hceSlotNow ∧ s.hceJobs = [] ∧ s.hceFixed = false ∧
    (after (exec .hceSlotBoundary s)).hceSlotNo = 1 := by decide +kernel

theorem witness_hceCtxWrite : let s := hceBusy false []
    (atTick 9).accepts 0x200 ⟨.hceCtx, 7, 0⟩ ∧ (atTick 9).flag ⟨.hceCtx, 7, 0⟩ 31 = false ∧
    s.accepts 0x200 ⟨.hceCtx, 7, 0⟩ ∧ s.flag ⟨.hceCtx, 7, 0⟩ 31 = true ∧ s.hceReady 7 = true ∧
    (after (exec (.hceCtxWrite 0x200 7 0) s)).hceJobs = [] := by decide +kernel

/-- The descriptor and the last chunk of a job wait for a training stage of the pseudo-channel that they reach. -/
theorem witness_hceWaits :
    let d := (1 : Byte) :: List.replicate 3 0 ++ leBytes 4 8 ++ leBytes 8 0x200000 ++ List.replicate 48 0
    let s := (ownerRange 2 [(⟨.hceCtx, 7, 0⟩, 0x80000001), (⟨.hceDesc, 7, 0⟩, 0x200000)]).modPch ((hceState 1).pchOf 0x200000)
      fun x => { x with retrain := some { active := true } }
    let u := { s with hceJobs := [(7, { desc := d, dom := 1, left := 1 })], hcePipe := [(5, 7)] }
    s.accepts 0x200 ⟨.hceCmd, 7, 0⟩ ∧ s.flag ⟨.hceCmd, 7, 0⟩ 31 = false ∧ s.flag ⟨.hceCtx, 7, 0⟩ 31 = true ∧
    s.hceLater 7 (s.hceDom 7) = true ∧ (look u.hceJobs 7).map u.hceWaits = some true := by decide +kernel

/-! ### The root clock, power and heat -/

/-- A clock as given, LOSS_MODE with it. -/
def clocked (mode : RootMode) (bad good : Nat) (l : List (RegKey × Word)) : State :=
  let s := withRegs (atTick 1000000) l
  { s with clk := { s.clk with mode, bad, good } }

theorem witness_refWindow :
    let s := clocked .running 0 0 []
    s.rootRuns = true ∧ s.flag ⟨.clkStat, 0, 0⟩ 28 = false ∧ s.clk.mode = .running ∧ s.stoppedSafe = false ∧
    s.clk.refOk = true ∧ s.clk.bad = 0 ∧
    (after (exec (.refWindow 240) s)).clk.good = 1 ∧ (after (exec (.refWindow 239) s)).clk.bad = 1 ∧
    (after (exec (.refWindow 273) s)).clk.bad = 1 := by decide +kernel

theorem witness_refLoss :
    let s := clocked .running 1 0 [(⟨.clkCtl, 0, 0⟩, 1)]
    let u := pin (clocked .running 1 0 [(⟨.clkCtl, 0, 0⟩, 2)]) ⟨.strSrc, 0x010, 0⟩ 0
    s.clk.mode = .running ∧ s.stoppedSafe = false ∧ s.flag ⟨.clkStat, 0, 0⟩ 28 = false ∧ s.clk.bad = 1 ∧
    s.lossStops = true ∧ u.clk.mode = .running ∧ u.stoppedSafe = false ∧ u.flag ⟨.clkStat, 0, 0⟩ 28 = false ∧
    u.clk.bad = 1 ∧ u.lossStops = false ∧ u.fld ⟨.strSrc, 0x010, 0⟩ 21 20 ≠ 1 ∧
    (after (exec (.refWindow 239) s)).clk.mode = .holding ∧ (after (exec (.refWindow 239) u)).clk.mode = .coasting := by
  decide +kernel

theorem witness_relock :
    let s := (let x := clocked .stopped 0 15 [(⟨.clkStat, 0, 0⟩, 0x40000001)]; { x with clk := { x.clk with refOk := false } })
    let u := clocked .relocking 0 16 [(⟨.clkStat, 0, 0⟩, 0xE0000001)]
    let v := clocked .coasting 0 16 [(⟨.clkStat, 0, 0⟩, 0xA0000001)]
    s.clk.mode = .stopped ∧ s.stoppedSafe = false ∧ s.flag ⟨.clkStat, 0, 0⟩ 28 = false ∧ s.clk.good = 15 ∧
    s.clk.refOk = false ∧ (after (exec (.refWindow 256) s)).clk.mode = .relocking ∧
    u.stoppedSafe = false ∧ u.clk.mode = .relocking ∧ u.phase = .service ∧ { u with phase := .recovery }.phase ≠ .service ∧
    { u with phase := .recovery }.stoppedSafe = false ∧
    v.stoppedSafe = false ∧ v.clk.mode = .coasting ∧ v.clk.refOk = true ∧ u.phase ≠ .inReset := by decide +kernel

theorem witness_urnRequest : let s := withRegs (atTick 1000000) [(⟨.urnCl, 3, 0⟩, 16)]
    let r : UrnReq := { client := 291, units := 60, cycle := 1 }
    let q : UrnReq := { client := 3, units := 6400, cycle := 1 }
    let u : State := { s with urn := { s.urn with pend := [r] } }
    let v : State := { s with urn := { s.urn with pend := [q] } }
    let x : State := { s with urn := { s.urn with pend := [{ client := 291, units := 6400 }, { q with units := 1 }] } }
    s.live = true ∧ s.urn.pend = [] ∧ (after (exec (.urnRequest 291 60) s)).urn.pend.map (·.client) = [291] ∧
    u.urn.pend = [r] ∧ r.cycle < u.trayCycle ∧ u.fits 291 60 = true ∧ u.firm 291 = true ∧ u.grant 291 + 60 < 2048 ∧
    u.examine.grant 291 = 60 ∧ v.urn.pend = [q] ∧ v.fits 3 6400 = false ∧ v.examine.grant 3 = 0 ∧
    x.firm 291 = true ∧ x.fits 291 6400 = false ∧ x.firm 3 = false ∧ x.examine.grant 3 = 0 ∧
    placeReq r [q] = [q, r] ∧ [q].Pairwise (fun a b : UrnReq => a.cycle < b.cycle ∨ a.cycle = b.cycle ∧ a.client ≤ b.client) ∧
    (after (exec (.urnRelease 291 10) u.examine)).grant 291 = 50 := by decide +kernel

theorem witness_urnBudget : let s := atTick 1000000
    s.accepts 0x200 ⟨.urnBudget, 0, 0⟩ ∧ s.urn.pend = [] ∧
    (after (exec (.urnBudgetWrite 0x200 6400) s)).fld ⟨.urnBudget, 0, 0⟩ 12 0 = 6400 ∧
    (after (exec (.urnBudgetWrite 0x200 6401) s)).fld ⟨.urnBudget, 0, 0⟩ 12 0 = 4400 ∧
    (after (exec (.avsAdjust [some (-9)]) s)).rail 0 = 800 ∧
    (let u := atTick 250000000; u.live = true ∧ u.urn.trimAt + 250000000 ≤ u.tick ∧ s.tick < s.urn.trimAt + 250000000 ∧
      (after (exec (.avsAdjust [some (-9)]) u)).rail 0 = 795) := by decide +kernel

/-- Cup 0 holds a soft grant of 16, its throttle level as given. -/
def softCup (k : Nat) : State :=
  let s := withRegs (atTick 100000000) [(⟨.urnCls, 0, 0⟩, BitVec.ofNat 32 (16 + k * 2 ^ 26)), (⟨.urnCl, 0, 0⟩, 16),
    (⟨.urnBudget, 0, 0⟩, 1000)]
  { s with urn := { s.urn with prevAbove := true, lvl := if k = 0 then [] else [(0, k)], order := if k = 0 then [] else [0],
                               lowSince := some 1 } }

/-- Rail 0 at 1 V and p amperes over 4, which is p units. -/
def railsOf (p : Nat) : List RailReading := [{ mv := 1000, deciamps := 5 * p / 2 }]

theorem witness_powerSample : let s := softCup 3
    s.live = true ∧ powerUnits (railsOf 1000) ≤ s.fld ⟨.urnBudget, 0, 0⟩ 12 0 ∧
    s.fld ⟨.urnBudget, 0, 0⟩ 12 0 < powerUnits (railsOf 1002) ∧
    s.urn.sampleAt + 25000 ≤ s.tick ∧ (atTick 25000).urn.sampleAt + 25000 ≤ (atTick 25000).tick ∧
    (atTick 9).tick < (atTick 9).urn.sampleAt + 25000 ∧ (atTick 9).tick < (atTick 9).urn.tempAt + 250000 ∧
    s.urn.prevAbove = true ∧ (atTick 25000).urn.prevAbove = false ∧ (atTick 25000).live = true ∧
    (atTick 25000).fld ⟨.urnBudget, 0, 0⟩ 12 0 < powerUnits (railsOf 4402) ∧ s.softClients = [0] ∧ nget s.urn.lvl 0 0 < 4 ∧
    s.urn.heated = false ∧ (after (exec (.powerSample (railsOf 1002) []) s)).throttle 0 = 4 ∧
    (after (exec (.powerSample (railsOf 1000) []) s)).urn.prevAbove = false ∧
    (after (exec (.powerSample (railsOf 1000) []) s)).fld ⟨.urnRail, 0, 0⟩ 15 0 = 1000 := by decide +kernel

theorem witness_unthrottle : let s := softCup 3
    s.live = true ∧ s.urn.lowSince = some 1 ∧ 1 + 2500000 ≤ s.tick ∧ s.urn.lastStep + 250000 ≤ s.tick ∧
    s.urn.order = [0] ∧ nget s.urn.lvl 0 0 = 2 + 1 ∧ s.urn.pend = [] ∧
    (after (exec .unthrottleStep s)).throttle 0 = 2 := by decide +kernel

theorem witness_overloadRepeat :
    let s := pin (withRegs (atTick 25000000) [(⟨.urnStat, 0, 0⟩, 0x80000000)]) ⟨.strSrc, 0x020, 0⟩ 0
    s.fld ⟨.strSrc, 0x020, 0⟩ 21 20 ≠ 1 ∧
    s.live = true ∧ s.flag ⟨.urnStat, 0, 0⟩ 31 = true ∧ s.urn.lastRaise + 25000000 ≤ s.tick := by decide +kernel

theorem witness_tempSample :
    let s := pin (atTick 250000) ⟨.strSrc, 0x021, 0⟩ 0
    let u := { atTick 250000000 with urn := { State.reset.urn with coolSince := some 0, heated := true } }
    s.urn.tempAt + 250000 ≤ s.tick ∧ u.urn.tempAt + 250000 ≤ u.tick ∧ s.live = true ∧ (∃ z ∈ [(126 : Int)], 125 < z) ∧ s.fld ⟨.strSrc, 0x021, 0⟩ 21 20 ≠ 1 ∧ u.live = true ∧
    (∀ z ∈ List.replicate 68 (121 : Int), -128 ≤ z ∧ z < 122) ∧ u.urn.coolSince = some 0 ∧
    0 + 250000000 ≤ u.tick ∧ (after (exec (.tempSample (List.replicate 68 121)) u)).urn.heated = false := by
  decide +kernel

theorem witness_thermalTrip : (135 : Int) ≤ 135 ∧ (134 : Int) < 135 ∧ (atTick 9).phase ≠ .inReset ∧
    (atTick 9).pins.thermTrip = false := by decide +kernel

/-! ### Tenant cores, the Strainer, the Caddy and fault injection -/

theorem witness_wfi :
    let s := withRegs (atTick 1000000) [(⟨.cpuStat, 15, 0⟩, 0x40000000), (⟨.cpuMtimecmp, 15, 0⟩, 2000000)]
    let u := withRegs (atTick 1000000) [(⟨.cpuStat, 15, 0⟩, 0x80000000), (⟨.cpuMsip, 15, 0⟩, 1)]
    s.serving = true ∧ s.coreState 15 = 1 ∧ s.coreIrqs 15 = false ∧ u.serving = true ∧ u.coreState 15 = 2 ∧
    u.coreIrqs 15 = true ∧ (after (exec (.wfi 15) s)).coreState 15 = 2 ∧
    (withRegs s [(⟨.cpuMsip, 15, 0⟩, 1)]).coreIrqs 15 = true ∧
    (withRegs s [(⟨.cpuMsip, 15, 0⟩, 1)]).coreState 15 = 1 ∧ u.coreState 15 ≠ 1 ∧
    ((after (exec (.wfi 15) s)).core 15).pc = 4 ∧
    (after (exec (.coreInterrupt 15) u)).coreState 15 = 1 := by decide +kernel

theorem witness_cpuPin : let s := atTick 1000000
    s.accepts 0x200 ⟨.cpuPin, 15, 0⟩ ∧ s.coreRuns 15 = false ∧ s.domainExists (bits 1 7 0) = true ∧ s.l2 = [] ∧
    s.domainExists (bits 0x10 7 0) = false ∧
    (after (exec (.cpuPinWrite 0x200 15 0x10) s)).flag ⟨.cpuPin, 15, 0⟩ 31 = true := by decide +kernel

theorem witness_coreRun :
    let s := withRegs (atTick 1000000) [(⟨.urnCls, 279, 0⟩, 6), (⟨.urnCls, 283, 0⟩, 8), (⟨.cpuBoot, 15, 0⟩, 0x1000)]
    let u := withRegs s [(⟨.cpuCtl, 15, 0⟩, 0x80000000), (⟨.cpuStat, 15, 0⟩, 0x40000000)]
    s.accepts 0x200 ⟨.cpuCtl, 15, 0⟩ ∧ s.coreRuns 15 = false ∧ s.grant (264 + 15) ≠ 0 ∧ s.grant (280 + 15 / 4) ≠ 0 ∧
    s.l2 = [] ∧ (let n := atTick 1000000; n.coreRuns 15 = false ∧ n.grant 279 = 0 ∧ n.grant 283 = 0 ∧ n.urn.pend = []) ∧
    (after (exec (.coreRun 0x200 15 0) (atTick 1000000))).urn.pend.map (·.client) = [279, 283] ∧
    (after (exec (.coreRun 0x200 15 0) s)).coreState 15 = 1 ∧ u.accepts 0x200 ⟨.cpuCtl, 15, 0⟩ ∧
    u.coreRuns 15 = true ∧ u.urn.pend = [] ∧ (after (exec (.coreReset 0x200 15 0) u)).grant 279 = 0 := by decide +kernel

theorem witness_coreInterrupts : let s := withRegs (atTick 1000000) [(⟨.cpuStat, 15, 0⟩, 0x40000000)]
    s.accepts 0x200 ⟨.cpuMsip, 15, 0⟩ ∧ s.coreState 15 ≠ 0 ∧ s.serving = true ∧ s.timeCmp 15 ≤ s.tick ∧
    (s.core 15).mtip = false ∧ (after (exec (.msipWrite 0x200 15 1) s)).sent.length = 2 ∧
    (after (exec (.machineTimer 15) s)).sent = [.coreIrq 15 7] := by decide +kernel

theorem witness_strainer : let s := withRegs (atTick 1000000) [(⟨.strIrqack, 0, 0⟩, 0xFF), (⟨.strStat, 0, 0⟩, 0x18000000)]
    sourceExists 0x818 = true ∧ s.live = true ∧ s.winOfMaster 0x200 = 0 ∧ s.accepts 0x200 ⟨.strIrqack, 0, 0⟩ ∧
    (s.evq 0).ents = [] ∧ s.accepts 0x200 ⟨.strEvpop, 0, 0⟩ ∧ s.accepts 0x200 ⟨.strErrctl, 0, 0⟩ ∧
    (after (exec (.strIrqackWrite 0x200 0x80) s)).reg ⟨.strIrqack, 0, 0⟩ = 0x7F ∧
    (after (exec (.errRelease 0x200 0) s)).reg ⟨.strStat, 0, 0⟩ = 0 ∧
    (after (exec (.errAssert 0x200 1) s)).reg ⟨.strStat, 0, 0⟩ = 0x08000000 := by decide +kernel

theorem witness_errPulse :
    let s : State := { atTick 9 with str := { State.reset.str with pulseEnd := some 5 }, aon := 5 }
    s.str.pulseEnd = some 5 ∧ (after (exec .errPulseEnd s)).str.pulseEnd = none ∧
    (after (exec .errPulseEnd { s with aon := 4 })).str.pulseEnd = some 5 := by decide +kernel

/-- A record. -/
def oneRecord (seq : Nat) : CadRec :=
  { seq, tick := 7, sec := 0, ns := 0, source := 5, sev := 0, tvalid := false, inj := false, dom := 1, cause := 0x0100,
    boot := 1, bytes := [] }

theorem witness_caddy :
    let s := { atTick 9 with caddy := { State.reset.caddy with buf := [oneRecord 0], nextSeq := 2 ^ 32 - 1 },
                             nv := { State.reset.nv with ring := [oneRecord 9] } }
    let u := s.setFlag ⟨.cadStat, 0, 0⟩ 31 true
    u.flag ⟨.cadStat, 0, 0⟩ 31 = true ∧ u.caddy.buf = [oneRecord 0] ∧ u.nv.ring.length < ringSize ∧ u.leases = [] ∧
    (after (exec .caddyCommit u)).nv.ring.length = 2 ∧ (after (exec .caddyCommit u)).caddy.nextSeq = 0 ∧
    s.phase ≠ .inReset ∧ s.flag ⟨.cadStat, 0, 0⟩ 31 = false ∧ s.nv.ring = [oneRecord 9] ∧
    (after (exec .caddyHeadFound s)).caddy.nextSeq = 10 ∧ u.caddy.waiting = [] ∧ u.caddy.dropped = 0 ∧
    u.nv.ring.length + u.caddy.buf.length ≤ ringSize ∧ (after (exec .droopTrip u)).nv.ring.length = 2 ∧
    u.winOfMaster 0x200 = 0 ∧ u.accepts 0x200 ⟨.cadSel, 0, 0⟩ ∧ u.selRecord 0 (bits 0 19 0) = some (oneRecord 9) ∧
    u.selRecord 0 (bits 1 19 0) = none ∧
    (after (exec (.cadSelWrite 0x200 0) u)).reg ⟨.cadRec, 0, 0⟩ = 9 := by decide +kernel

/-- Factory test mode, a Plyngen-keyed session open. -/
def factory (l : List (RegKey × Word)) : State :=
  let s := withRegs (atTick 1000000) ((⟨.devToken, 0, 0⟩, 0xC0000000) :: l)
  { s with phase := .factory, sess := [(0, { isOpen := true, dom := 0x00 })] }

theorem witness_injectOff : let s := withRegs (atTick 1000000) []
    s.accepts 0x200 ⟨.strInj, 0, 0⟩ ∧ s.injectOn = false := by decide +kernel

theorem witness_inject : let s := factory [(⟨.strInjWord, 0, 0⟩, 787599)]
    s.accepts 0x181 ⟨.strInj, 0, 0⟩ ∧ s.injectOn = true ∧ sourceExists (injArg 0x0818) = true ∧
    s.fld ⟨.strInjWord, 0, 0⟩ 19 0 = 787599 ∧ injSel 0x00BF001F = 191 ∧ injArg 0x00BF001F = 31 ∧
    ((after (exec (.injectConfigBit 0x181 0x00BF001F) s)).cup 191).cfgErr = [(787599, 0x80000000)] ∧
    injSel 0x00070005 = 7 ∧ injArg 0x00070005 = 5 ∧
    ((after (exec (.injectLineBytes 0x181 0x00070005) s)).stk 7).injBytes = 5 ∧
    ((after (exec (.injectWrongTag 0x181 0x00070005) s)).stk 7).injTag = true ∧
    injSel 0x00EF0002 = 239 ∧ injArg 0x00EF0002 = 2 ∧
    (after (exec (.injectFlitError 0x181 0x00EF0002) s)).flitInj = [(239, 2)] ∧
    ((after (exec (.injectLaneBurst 0x181 0x00FF0003) s)).lane 255).burst = 3 := by decide +kernel

/-! ### Cascades -/

/-- Quads 0 and 1 carry one link of four lanes each, link 0 in STATE `st` with far end 7; registers over it. -/
def linked (st : Nat) (l : List (RegKey × Word)) : State :=
  withRegs (atTick 5000000) ([(⟨.quadCfg, 0, 0⟩, 3), (⟨.quadCfg, 1, 0⟩, 3),
    (⟨.casLink, 0, 0⟩, packBits [(31, 29, st), (19, 10, 7)])] ++ l)

/-- The first 268 bytes of a frame of another device, and the frame. -/
def frameHead (type flags seq : Nat) : List Byte :=
  [BitVec.ofNat 8 type, BitVec.ofNat 8 flags, 0, 0, 0, 0, BitVec.ofNat 8 seq, 0, 0, 0, 0, 0] ++ List.replicate 256 0
def framed (type flags seq : Nat) : List Byte :=
  frameHead type flags seq ++ leBytes 4 (crc32 (frameHead type flags seq)).toNat

theorem framed_crc (type flags seq : Nat) :
    (framed type flags seq).length = 272 ∧
    (crc32 ((framed type flags seq).take 268)).toNat = numAt (framed type flags seq) 268 4 := by
  have hl : (frameHead type flags seq).length = 268 := by
    rw [frameHead, List.length_append, List.length_replicate]; rfl
  have hx := (crc32 (frameHead type flags seq)).isLt
  have ht : (framed type flags seq).take 268 = frameHead type flags seq := by
    rw [framed, ← hl, List.take_left']; rfl
  refine ⟨by simp [framed, hl, leBytes], ?_⟩
  rw [ht]
  generalize hc : (crc32 (frameHead type flags seq)).toNat = x at hx
  have hd : (framed type flags seq).drop 268 = leBytes 4 x := by
    rw [framed, ← hl, List.drop_left' rfl, hc]
  simp only [numAt, slice, hd]
  simp [leBytes, ofLe, BitVec.toNat_ofNat]
  omega

theorem witness_selovFrame :
    let s := { linked 2 [] with links := [(0, { rxSeq := 9 })] }
    s.serving = true ∧ s.linkState 0 = 2 ∧ numAt (framed 2 0 9) 0 1 = 2 ∧ numAt (framed 2 0 9) 6 2 = (s.link 0).rxSeq ∧
    numAt (framed 2 0 9) 1 1 / 4 % 2 = 0 ∧ (s.link 0).replay = [] ∧
    (∀ l ∈ s.linkLanes 0, (s.lane l).burst = 0) ∧
    (∃ l ∈ (s.modLane 2 fun x => { x with burst := 3 }).linkLanes 0,
      ((s.modLane 2 fun x => { x with burst := 3 }).lane l).burst ≠ 0) ∧
    numAt (framed 2 0 9) 12 4 / 2 ^ 10 % 1024 = s.casId ∧ numAt (framed 1 1 9) 0 1 = 1 ∧
    numAt (framed 1 1 9) 1 1 / 2 % 2 = 0 ∧ numAt (framed 3 0 9) 0 1 = 3 ∧ numAt (framed 3 4 9) 1 1 / 4 % 2 = 1 ∧
    ([{ seq := 0, bytes := [] }] : List HeldFrame).findIdx? (fun e => e.seq == numAt (framed 3 0 9) 8 2) = some 0 ∧
    ([{ seq := 1, bytes := [] }] : List HeldFrame).findIdx? (fun e => e.seq == numAt (framed 3 4 9) 8 2) = none ∧
    (numAt (framed 2 0 8) 0 1 ≠ 3 ∧ numAt (framed 2 0 8) 6 2 ≠ (s.link 0).rxSeq) := by decide +kernel

theorem witness_ackTimeout :
    let s := { linked 2 [] with links := [(0, { replay := [{ seq := 3, bytes := [] }], lastAck := 4975000 })] }
    s.serving = true ∧ s.linkState 0 = 2 ∧ (s.link 0).replay ≠ [] ∧ (s.link 0).lastAck + 25000 ≤ s.tick ∧
    ((after (exec (.ackTimeout 0) s)).link 0).due = true := by decide +kernel

theorem witness_selovRetrain :
    let s := { linked 2 [] with links := [(0, { due := true })] }
    s.serving = true ∧ s.linkState 0 = 2 ∧ (s.link 0).due = true ∧ (s.linkLease 0).2 = true ∧
    (after (exec (.selovRetrain 0) s)).linkState 0 = 1 ∧
    (after (exec (.selovRetrain 0) s)).leases.length = 4 := by decide +kernel

theorem witness_selovRetrainFail :
    let s := { pin (linked 1 [(⟨.mntBudget, 1, 0⟩, 0x40000001)]) ⟨.strSrc, 0x540, 0⟩ 0 with
      links := [(0, { retrainAt := some 2500000 })] }
    let u := { s with links := [(0, { retrainAt := some 2500000, uncounted := true })] }
    s.serving = true ∧ s.linkState 0 = 1 ∧ (s.link 0).retrainAt = some 2500000 ∧ 2500000 + 2500000 ≤ s.tick ∧
    (s.linkLanes 0).all s.los = false ∧ (s.link 0).uncounted = false ∧ (u.link 0).uncounted = true ∧
    s.fld ⟨.strSrc, 0x540, 0⟩ 21 20 ≠ 1 ∧
    (after (exec (.selovRetrainFail 0) s)).linkState 0 = 1 ∧
    ((after (exec (.selovRetrainFail 0) s)).link 0).fails = [5000000] ∧
    ((after (exec (.selovRetrainFail 0) u)).link 0).retrainAt = some 5000000 := by decide +kernel

theorem witness_selovLinkUp : let s := { linked 1 [] with links := [(0, { retrainAt := some 9 })] }
    s.serving = true ∧ s.linkState 0 = 1 ∧ (s.link 0).retrainAt.isSome = true ∧ s.leases = [] ∧
    (after (exec (.selovLinkUp 0 { id := 1023, quad := 9 }) s)).reg ⟨.casLink, 0, 0⟩ = packBits [(31, 29, 2), (19, 10, 1023)] := by
  decide +kernel

theorem witness_restore :
    let s := { linked 4 [] with links := [(0, { fails := [1, 2] })] }
    s.accepts 0x200 ⟨.casCmd, 0, 0⟩ ∧ s.flag ⟨.casCmd, 0, 0⟩ 31 = false ∧ s.linkState 0 = 4 ∧ 0 < s.casLinks.length ∧ s.casLinks.length ≤ 2 ∧
    ((after (exec (.restore 0x200 0) s)).link 0).fails = [] ∧
    (s.linkLease 0).2 = true ∧
    (after (exec (.restore 0x200 2) s)).reg ⟨.casCmdstat, 0, 0⟩ = 0xC3000000 := by decide +kernel

/-- Another lane retrain holds the first lane of the link. -/
theorem witness_restore_waits :
    let s := { linked 4 [] with leases := [(0, { cls := .laneRetrain, rs := [.lane 0], dom := 0, started := 1, renewed := 1 })] }
    s.accepts 0x200 ⟨.casCmd, 0, 0⟩ ∧ s.flag ⟨.casCmd, 0, 0⟩ 31 = false ∧ s.linkState 0 = 4 ∧ 0 < s.casLinks.length ∧ (s.linkLease 0).2 = false ∧
    ((after (exec (.restore 0x200 0) s)).link 0).due = true := by decide +kernel

/-- The head of a management frame for device 9, two hops from its source, from link 0 to link 1. -/
def relayHead : List Byte :=
  [2, 0, 0, 0, 8, 0, 9, 0, 0, 0, 0, 0] ++ leBytes 4 (3 + 2 ^ 10 * 9 + 2 ^ 20 * 9 + 2 ^ 26 * 2) ++ List.replicate 252 0

theorem witness_selovFrame_relay :
    let s := { linked 2 [(⟨.casLink, 1, 0⟩, packBits [(31, 29, 2), (19, 10, 9)])] with links := [(0, { rxSeq := 9 })] }
    let f := relayHead ++ leBytes 4 (crc32 relayHead).toNat
    s.serving = true ∧ s.linkState 0 = 2 ∧ f.length = 272 ∧ numAt f 0 1 = 2 ∧ numAt f 6 2 = (s.link 0).rxSeq ∧
    numAt f 1 1 / 4 % 2 = 0 ∧ (s.link 0).replay = [] ∧ numAt f 12 4 / 2 ^ 10 % 1024 ≠ s.casId ∧
    numAt f 12 4 / 2 ^ 26 + 1 = 3 ∧ s.casRoute (numAt f 12 4 / 2 ^ 10 % 1024) = some 1 ∧
    (s.link 1).replay.length < 8192 := by decide +kernel

theorem witness_lsa : let s := linked 2 []
    let l : List LinkReport := [{ far := 1 }, { far := 9, state := 4 }]
    s.serving = true ∧ s.linkState 0 = 2 ∧ (7 : Fin 1024).val ≠ s.casId ∧ s.upLinks = [0] ∧
    nget s.cas.routes 7 [] ≠ [2049, 4105] ∧ nget (after (exec (.lsa 0 7 l) s)).cas.routes 7 [] = [2049, 4105] ∧
    nget s.cas.routes s.casId [] ≠ s.casStates := by decide +kernel

/-- The stream 5 from the port of quad 0 with a destination there. -/
def crossing (st : Nat) (l : List (RegKey × Word)) : State :=
  { linked st l with
    streams := [(5, { tree := some { srcK := (quadRouter 0).1, srcPort := (quadRouter 0).2, via := none,
                                     dsts := [quadRouter 0], slots := [0, 1], be := false } })] }

theorem witness_cascadeFlitEject :
    let s := crossing 2 [(⟨.casSlink, 0, 5⟩, packBits [(31, 31, 1), (28, 24, 0), (9, 0, 2)])]
    let u := crossing 2 []
    s.serving = true ∧ s.quadRole 0 = 3 ∧ s.servedByEven 0 = false ∧
    ((s.stream 5).dstAt (quadRouter 0).1 (quadRouter 0).2).isSome = true ∧ s.flag ⟨.casSlink, 0, 5⟩ 31 = true ∧
    s.fld ⟨.casSlink, 0, 5⟩ 28 24 = 0 ∧ s.linkState 0 = 2 ∧ (s.link 0).replay.length < 8192 ∧
    (s.quad 0).spoilt.contains 5 = false ∧
    ((after (exec (.cascadeFlitEject 0 5 false true { bytes := [9], bad := some 3 }) s)).quad 0).spoilt.contains 5 = true ∧
    (after (exec (.cascadeFlitEject 0 5 false true { bytes := [9] }) s)).sent.length = 1 ∧
    (crossing 3 [(⟨.casSlink, 0, 5⟩, packBits [(31, 31, 1)])]).linkState 0 ≠ 1 ∧
    (crossing 3 [(⟨.casSlink, 0, 5⟩, packBits [(31, 31, 1)])]).linkState 0 ≠ 2 ∧
    u.flag ⟨.casSlink, 0, 5⟩ 31 = false ∧ ((u.stream 5).dstAt (quadRouter 0).1 (quadRouter 0).2).isSome = true := by
  decide +kernel

theorem witness_casSlinkWrite :
    let s := crossing 2 [(⟨.casSsel, 0, 0⟩, 5)]
    let v : Word := packBits [(31, 31, 1), (28, 24, 0), (9, 0, 1023)]
    s.accepts 0x200 ⟨.casSlink, s.fld ⟨.casSsel, 0, 0⟩ 21 16, s.fld ⟨.casSsel, 0, 0⟩ 13 0⟩ ∧ bit v 31 = true ∧
    s.flag ⟨.casSlink, 0, 5⟩ 31 = false ∧ s.linkFree (bits v 28 24) < bits v 9 0 ∧
    (after (exec (.casSlinkWrite 0x200 v) s)).flag ⟨.casSsel, 0, 0⟩ 31 = true := by decide +kernel

theorem witness_casSlinkWrite_taken :
    let s := withRegs ((crossing 2 [(⟨.casSsel, 0, 0⟩, 5)]).modQuad 0 fun x => { x with plan := [25781250] }) []
    let v : Word := packBits [(31, 31, 1), (28, 24, 0), (9, 0, 2)]
    s.accepts 0x200 ⟨.casSlink, 0, 5⟩ ∧ bit v 31 = true ∧ s.flag ⟨.casSlink, 0, 5⟩ 31 = false ∧
    (s.casLinks[bits v 28 24]?).map (·.1) = some 0 ∧ bits v 9 0 ≤ s.linkFree (bits v 28 24) ∧
    s.slotsAt 5 (quadRouter 0).1 (quadRouter 0).2 = bits v 9 0 ∧
    (after (exec (.casSlinkWrite 0x200 v) s)).flag ⟨.casSlink, 0, 5⟩ 31 = true := by decide +kernel

/-- Quad 0 carries two links of two lanes each to device 7, the first retired. -/
theorem witness_reroute :
    let s := { withRegs (atTick 5000000) [(⟨.quadCfg, 0, 0⟩, 0x13), (⟨.casLink, 0, 0⟩, packBits [(31, 29, 4), (19, 10, 7)]),
      (⟨.casLink, 1, 0⟩, packBits [(31, 29, 2), (19, 10, 7)]),
      (⟨.casSlink, 0, 5⟩, packBits [(31, 31, 1), (28, 24, 0), (9, 0, 0)])] with phase := .service }
    s.serving = true ∧ s.linkState 0 = 4 ∧ s.linkQuad 0 = 0 ∧ s.flag ⟨.casSlink, 0, 5⟩ 31 = true ∧
    s.fld ⟨.casSlink, 0, 5⟩ 28 24 = 0 ∧ (s.bundle 0).contains 1 = true ∧ s.fld ⟨.casSlink, 0, 5⟩ 9 0 ≤ s.linkFree 1 ∧
    (after (exec (.reroute 0 [(5, 1)]) s)).fld ⟨.casSlink, 0, 5⟩ 28 24 = 1 := by decide +kernel

theorem witness_sync :
    let s := { linked 2 [(⟨.casStat, 0, 0⟩, packBits [(31, 30, 1), (19, 10, 7), (9, 0, 8)])] with
      cas := { State.reset.cas with routes := [(8, [linkCode 7 2])] } }
    s.serving = true ∧ s.linkState 0 = 2 ∧ s.casRole = 1 ∧ s.casHold = false ∧ s.clk.mode ≠ .coasting ∧
    s.cas.realign = false ∧ s.cascFinal = false ∧ s.casHops (s.farId 0) s.casMaster < s.casHops s.casId s.casMaster ∧
    (linked 2 []).casRole ≠ 1 ∧
    syncError ⟨100, 700, 800, 1412⟩ 0 0 = -12 ∧
    (after (exec (.sync 0 ⟨100, 700, 800, 1412⟩ 0) s)).pair ⟨.tickCascOfs, 0, 0⟩ ⟨.tickCascOfsHi, 0, 0⟩ = 2 ^ 64 - 1 ∧
    (after (exec (.sync 0 ⟨100, 700, 800, 1412⟩ 0) s)).flag ⟨.casStat, 0, 0⟩ 24 = true ∧
    (after (exec (.sync 0 ⟨100, 700, 800, 1412⟩ 0) { s with cas := { s.cas with realign := true } })).pair
      ⟨.tickCascOfs, 0, 0⟩ ⟨.tickCascOfsHi, 0, 0⟩ = 2 ^ 64 - 1 := by decide +kernel

/-- A device of a cascade: ROLE, HOLD and DEPUTY, master 7 and ID 8; link 0 is up. -/
def cascaded (role hold deputy : Nat) (cas : CasSt) : State :=
  { linked 2 [(⟨.casStat, 0, 0⟩, packBits [(31, 30, role), (29, 29, hold), (23, 23, deputy), (19, 10, 7), (9, 0, 8)])] with
    cas := cas, root := 16 * 30000000 }

theorem witness_claimSend : let s := cascaded 2 0 0 { claimant := true, lastSent := some 29750000, epoch := 3 }
    s.serving = true ∧ s.cas.claimant = true ∧ s.cas.lastSent = some 29750000 ∧ 29750000 + 250000 ≤ s.tick ∧
    (after (exec .claimSend s)).sent.getLast? = some (.cas none (.claim 3 8)) := by decide +kernel

theorem witness_claim : let s := cascaded 1 1 0 { claims := [(7, 5)] }
    s.serving = true ∧ s.linkState 0 = 2 ∧ s.casRole ≠ 0 ∧ (7 : Fin 1024).val ≠ s.casId ∧ s.cas.claimant = false ∧
    (∀ e ∈ s.cas.claims, e.1 = 7) ∧ s.reg ⟨.casEpoch, 0, 0⟩ = 0 ∧ s.casMaster = 7 ∧
    s.flag ⟨.casStat, 0, 0⟩ 26 = false := by
  decide +kernel

theorem witness_claimClash :
    let s := pin (pin (cascaded 1 0 0 { claims := [(6, 27500001)] }) ⟨.strSrc, 0x40, 0⟩ 0) ⟨.strSrc, 0x41, 0⟩ 0
    s.serving = true ∧ s.linkState 0 = 2 ∧ s.casRole ≠ 0 ∧ (7 : Fin 1024).val ≠ s.casId ∧
    (∃ e ∈ s.cas.claims, e.1 ≠ 7 ∧ s.tick < e.2 + 2500000) ∧ s.casConflict = false ∧
    s.fld ⟨.strSrc, 0x040, 0⟩ 21 20 ≠ 1 ∧ s.fld ⟨.strSrc, 0x041, 0⟩ 21 20 ≠ 1 := by decide +kernel

theorem witness_claimTimeout : let s := pin (cascaded 1 0 0 { claims := [(7, 27500000)] }) ⟨.strSrc, 0x41, 0⟩ 0
    s.fld ⟨.strSrc, 0x041, 0⟩ 21 20 ≠ 1 ∧ s.serving = true ∧ s.casRole = 1 ∧ s.casHold = false ∧ (∀ e ∈ s.cas.claims, e.2 + 2500000 ≤ s.tick) := by
  decide +kernel

theorem witness_conflictClear :
    let s := (cascaded 1 1 0 { claims := [(7, 5000001)], asked := true }).setFlag ⟨.casStat, 0, 0⟩ 27 true
    let u := (cascaded 2 1 0 { claims := [(7, 5000000)], claimant := true, epoch := 2 ^ 32 - 1 }).setFlag
      ⟨.casStat, 0, 0⟩ 27 true
    s.serving = true ∧ s.casConflict = true ∧ s.tick < 5000001 + 25000000 ∧ s.cas.claimant = false ∧
    (after (exec .conflictClear s)).casConflict = false ∧
    u.casConflict = true ∧ (∀ e ∈ u.cas.claims, e.2 + 25000000 ≤ u.tick) ∧ u.cas.claimant = true ∧
    (after (exec .conflictClear u)).cas.epoch = 0 := by decide +kernel

theorem witness_resign : let s := pin (cascaded 2 0 0 { claimant := true }) ⟨.strSrc, 0x41, 0⟩ 0
    s.fld ⟨.strSrc, 0x041, 0⟩ 21 20 ≠ 1 ∧ s.accepts 0x200 ⟨.casCmd, 0, 0⟩ ∧ s.flag ⟨.casCmd, 0, 0⟩ 31 = false ∧ s.cas.claimant = true := by decide +kernel

theorem witness_override : let s := cascaded 1 1 0 {}
    s.accepts 0x200 ⟨.casCmd, 0, 0⟩ ∧ s.flag ⟨.casCmd, 0, 0⟩ 31 = false ∧ s.casHold = true ∧ s.inHold = true ∧
    (after (exec (.override 0x200) s)).inHold = false := by decide +kernel

theorem witness_deputySilence : let s := cascaded 1 0 1 { claims := [(7, 17500000)], lastPoll := some 17500000, registry := [0x8] }
    s.serving = true ∧ s.flag ⟨.casStat, 0, 0⟩ 23 = true ∧ s.casRole = 1 ∧ s.cas.claimant = false ∧
    (∀ e ∈ s.cas.claims, e.2 + 12500000 ≤ s.tick) ∧ s.cas.lastPoll = some 17500000 ∧ s.linkState 0 = 2 ∧
    s.cas.startAt + 12500000 ≤ s.tick ∧
    (after (exec .deputySilenceTimeout s)).sent.getLast? = some (.cas (some 3) .silenceQ) ∧
    (after (exec (.silenceQ 0 3) s)).sent.getLast? = some (.cas (some 3) (.silenceA 3 true 0)) := by decide +kernel

theorem witness_silenceA :
    let s := cascaded 1 1 1 { lastPoll := some 1, registry := [0x1C], polled := [(2, true)], maxEpoch := 4 }
    let p := nset s.cas.polled 3 true
    s.serving = true ∧ s.flag ⟨.casStat, 0, 0⟩ 23 = true ∧ s.casRole = 1 ∧ s.cas.lastPoll.isSome = true ∧
    s.silent = true ∧ s.registered.length < 2 * (p.filter fun e => s.registered.contains e.1).length ∧
    (∀ e ∈ p, e.1 ∈ s.registered → e.2 = true) ∧ (3 : Fin 1024).val ∈ s.registered ∧
    (after (exec (.silenceA 3 true 9) s)).cas.epoch = 10 ∧ (after (exec (.silenceA 3 true 9) s)).casRole = 2 := by
  decide +kernel

theorem witness_join :
    let s := withRegs (pin (cascaded 2 0 0 {}) ⟨.strSrc, 0x44, 0⟩ 0) [(⟨.casCfg, 0, 0⟩, 1), (⟨.casMembers, 0, 31⟩, 0x80000000)]
    let u := withRegs (pin (cascaded 2 0 0 { paths := [(3, 5)] }) ⟨.strSrc, 0x44, 0⟩ 0) [(⟨.casAdmitted, 0, 0⟩, 8)]
    s.serving = true ∧ s.casRole = 2 ∧ s.linkState 0 = 2 ∧ (8 : Fin 1024).val = s.casId ∧
    (1023 : Fin 1024).val ≠ s.casId ∧ s.admitted 1023 = false ∧ s.flag ⟨.casCfg, 0, 0⟩ 0 = true ∧
    s.casIn .casMembers 1023 = true ∧ s.cas.dups.contains 1023 = false ∧ s.expectWaits 1023 = false ∧
    (State.mismatch 1023 0 [(5, true)] { s with cas := { s.cas with maxEpoch := max s.cas.maxEpoch 0, joined := nset s.cas.joined 1023 0 } }).2 = some 0 ∧ s.casIn .casMembers 3 = false ∧ s.admitted 3 = false ∧
    s.fld ⟨.strSrc, 0x044, 0⟩ 21 20 ≠ 1 ∧ u.fld ⟨.strSrc, 0x044, 0⟩ 21 20 ≠ 1 ∧
    u.admitted 3 = true ∧ nget u.cas.paths 3 32 ≠ 0 ∧
    (after (exec (.join 0 3 0 []) u)).cas.dups = [3] ∧
    (after (exec (.join 0 1023 0 [(0, false)]) s)).admitted 1023 = true := by decide +kernel

theorem witness_casAdmitMsg : let s := cascaded 1 1 1 {}
    s.serving = true ∧ s.casRole = 1 ∧ s.linkState 0 = 2 ∧ s.flag ⟨.casStat, 0, 0⟩ 23 = true ∧
    (after (exec (.casAdmitMsg 0 0 true) s)).casHold = false ∧ (after (exec (.casAdmitMsg 0 0 true) s)).cas.realign = true ∧
    bit ((([0x100, 2] : List Word).take 32).getD (s.casId / 32) 0) (s.casId % 32) = true ∧
    (after (exec (.registry [0x100, 2]) s)).cas.registry = [0x100, 2] := by decide +kernel

/-- The expected digests of device 0 lie in a pseudo-channel that trains. -/
theorem witness_expectWaits :
    let s := withRegs ((cascaded 2 0 0 { dups := [] }).modPch ((atTick 9).pchOf 0) fun x => { x with retrain := some { active := true } })
      [(⟨.casCfg, 0, 0⟩, 1), (⟨.casMembers, 0, 0⟩, 1)]
    s.serving = true ∧ s.casRole = 2 ∧ s.linkState 0 = 2 ∧ (0 : Fin 1024).val ≠ s.casId ∧ s.admitted 0 = false ∧
    s.flag ⟨.casCfg, 0, 0⟩ 0 = true ∧ s.casIn .casMembers 0 = true ∧ s.expectWaits 0 = true := by decide +kernel

theorem witness_memberOut : let s := pin (cascaded 1 0 1 {}) ⟨.strSrc, 0x41, 0⟩ 0
    s.serving = true ∧ s.casRole = 1 ∧ s.linkState 0 = 2 ∧ s.casId = 8 ∧ s.flag ⟨.casStat, 0, 0⟩ 23 = true ∧
    bit (([1, 2] : List Word).getD (s.casId / 32) 0) (s.casId % 32) = false ∧
    s.fld ⟨.strSrc, 0x041, 0⟩ 21 20 ≠ 1 := by decide +kernel

theorem witness_casAdmit : let s := cascaded 2 0 0 { joined := [(3, 0)] }
    s.accepts 0x200 ⟨.casCmd, 0, 0⟩ ∧ s.flag ⟨.casCmd, 0, 0⟩ 31 = false ∧ s.casRole = 2 ∧ (3 : Fin 1024).val ≠ s.casId ∧ (cascaded 1 0 0 {}).casRole ≠ 2 ∧
    (cascaded 1 0 0 {}).accepts 0x200 ⟨.casCmd, 0, 0⟩ ∧
    (after (exec (.casAdmit 0x200 3) s)).admitted 3 = true ∧
    (after (exec (.casAdmit 0x200 3) (cascaded 1 0 0 {}))).reg ⟨.casCmdstat, 0, 0⟩ = 0xC1000000 ∧
    (after (exec (.casState 3 true false) s)).cas.states = [(3, 2)] := by decide +kernel

theorem witness_mbox : let s := (cascaded 1 0 0 {}).setReg ⟨.casCfg, 0, 0⟩ 4
    s.serving = true ∧ s.casRole ≠ 0 ∧ s.flag ⟨.casCfg, 0, 0⟩ 2 = true ∧
    (s.queue .mailRx).used + 1 + (slotsOf (List.replicate 240 7)).length ≤ qCap .mailRx ∧
    (s.queue .mailRx).dropping = false ∧
    ((after (exec (.mbox 1023 [7]) s)).queue .mailRx).used = 2 := by decide +kernel

theorem witness_mboxFull :
    let s := { cascaded 1 0 0 {} with
      queues := [(queueKey .mailRx, { pkts := [{ slots := List.replicate 4095 0 }] })] }
    s.serving = true ∧ qCap .mailRx < (s.queue .mailRx).used + 1 + (slotsOf [7]).length := by decide +kernel

/-- A device of a cascade with entry 4 staged in group 9 at cascade tick 40,000,000. -/
def cascStaged (role : Nat) (l : List (RegKey × Word)) : State :=
  { withRegs swapStream ([(⟨.spSel, 0, 0⟩, 4), (⟨.spCtl, 4, 0⟩, 0x20090002),
      (⟨.casStat, 0, 0⟩, packBits [(31, 30, role), (24, 24, 1), (19, 10, 7), (9, 0, 8)])] ++ l) with
    root := 16 * 30000000
    spEnts := [(4, { exec := 40000000, casc := true, group := 9, action := 2, args := [3, 0, 0, 0, 0, 0] })] }

theorem witness_prepareRefused :
    let s := (cascStaged 1 []).setFlag ⟨.casStat, 0, 0⟩ 29 true
    let u := (cascStaged 1 []).setFlag ⟨.casStat, 0, 0⟩ 24 false
    s.serving = true ∧ s.casRole = 1 ∧ s.casHold = true ∧ u.serving = true ∧ u.casRole = 1 ∧ u.casHold = false ∧
    u.flag ⟨.casStat, 0, 0⟩ 24 = false ∧
    (after (exec (.prepare 9 40000000) u)).sent.getLast? = some (.cas (some 7) (.refuse 9 11)) := by decide +kernel

theorem witness_prepare : let s := cascStaged 1 []
    s.serving = true ∧ s.casRole = 1 ∧ s.casHold = false ∧ s.clk.mode ≠ .coasting ∧ s.flag ⟨.casStat, 0, 0⟩ 24 = true ∧
    s.spGroup 9 (fun st => st == 1) = [4] ∧ s.spArmedOf 9 = [] ∧
    s.armFault (s.spGroup 9 fun st => st == 1) (some 40000000) = none ∧
    s.armFault (s.spGroup 9 fun st => st == 1) (some 40000001) = some (4, 13) ∧
    (after (exec (.prepare 9 40000000) s)).sent.getLast? = some (.cas (some 7) (.ready 9)) ∧
    (after (exec (.prepare 9 40000001) s)).sent.getLast? = some (.cas (some 7) (.refuse 9 13)) := by decide +kernel

theorem witness_casPrepare :
    let s := cascStaged 2 [(⟨.casPtick, 0, 0⟩, 40000000), (⟨.casAdmitted, 0, 0⟩, 0x10)]
    let s1 := (s.plainWrite ⟨.casCmd, 0, 0⟩ (casWord 1 9)).setFlag ⟨.casCmd, 0, 0⟩ 31 false
    s.accepts 0x200 ⟨.casCmd, 0, 0⟩ ∧ s.flag ⟨.casCmd, 0, 0⟩ 31 = false ∧ s.casRole = 2 ∧ s.casGroupState 9 ≠ 1 ∧
    s.pair ⟨.casPtick, 0, 0⟩ ⟨.casPtickHi, 0, 0⟩ = 40000000 ∧ s.cascTick + 275000 ≤ 40000000 ∧ s.inHold = false ∧
    s1.spGroup 9 (fun st => st == 1) = [4] ∧ s1.spArmedOf 9 = [] ∧
    s1.armFault (s1.spGroup 9 fun st => st == 1) (some 40000000) = none := by decide +kernel

theorem witness_casPrepareLate :
    let s := cascStaged 2 [(⟨.casPtick, 0, 0⟩, 30274999)]
    s.accepts 0x200 ⟨.casCmd, 0, 0⟩ ∧ s.flag ⟨.casCmd, 0, 0⟩ 31 = false ∧ s.casRole = 2 ∧ s.casGroupState 9 ≠ 1 ∧
    s.pair ⟨.casPtick, 0, 0⟩ ⟨.casPtickHi, 0, 0⟩ < s.cascTick + 275000 ∧
    (after (exec (.casPrepare 0x200 9) s)).reg ⟨.casCmdstat, 0, 0⟩ = 0xC4000000 := by decide +kernel

/-- A master with group 9 PREPARED, its entry armed, member 4 admitted. -/
def preparing (ready : List Nat) : State :=
  let s := cascStaged 2 [(⟨.casAdmitted, 0, 0⟩, 0x10), (⟨.casGstat, 9, 0⟩, 0x40000000), (⟨.spCtl, 4, 0⟩, 0x40090002)]
  { s with root := 16 * 39750000, cas := { s.cas with groups := [(9, { exec := 40000000, ready })] } }

theorem witness_ready : let s := preparing []
    s.serving = true ∧ s.casRole = 2 ∧ s.casGroupState 9 = 1 ∧ s.admitted 4 = true ∧
    ((after (exec (.ready 4 9) s)).group 9).ready = [4] := by decide +kernel

theorem witness_refuse : let s := (preparing []).setReg ⟨.spCtl, 4, 0⟩ 0x20090002
    s.serving = true ∧ s.casRole = 2 ∧ s.casGroupState 9 = 1 ∧ s.admitted 4 = true ∧ s.spArmedOf 9 = [] := by
  decide +kernel

theorem witness_commitDecision : let s := preparing [4]
    let u := preparing []
    s.serving = true ∧ s.casRole = 2 ∧ s.casGroupState 9 = 1 ∧ (s.group 9).exec ≤ s.cascTick + 250000 ∧
    s.spArmedOf 9 = [4] ∧ s.members = [4] ∧ 4 ∈ (s.group 9).ready ∧ u.casGroupState 9 = 1 ∧ u.members = [4] ∧
    4 ∉ (u.group 9).ready ∧ (after (exec (.commitDecision 9) s)).sent.getLast? = some (.cas (some 4) (.commit 9)) := by
  decide +kernel

theorem witness_commit :
    let s := pin ((preparing []).setFld ⟨.casStat, 0, 0⟩ 31 30 1) ⟨.strSrc, 0x032, 0⟩ 0
    s.serving = true ∧ s.casRole = 1 ∧ s.spCasc 9 = true ∧ s.cascTick + 25000 ≤ (s.group 9).exec ∧
    s.fld ⟨.strSrc, 0x032, 0⟩ 21 20 ≠ 1 ∧ ((after (exec (.commit 9) s)).group 9).commit = true := by decide +kernel

theorem witness_report :
    let s := { pin (cascStaged 2 [(⟨.casAdmitted, 0, 0⟩, 0x10), (⟨.casGstat, 9, 0⟩, 0x80000000)]) ⟨.strSrc, 0x42, 0⟩ 0 with
      root := 16 * 42500000, cas := { State.reset.cas with groups := [(9, { exec := 40000000 })] } }
    s.serving = true ∧ s.casRole = 2 ∧ s.casGroupState 9 = 2 ∧ (s.group 9).exec + 2500000 ≤ s.cascTick ∧
    s.admitted 4 = true ∧ 4 ∉ (s.group 9).executed ∧ 4 ∉ (s.group 9).failed ∧ 4 ∉ (s.group 9).raised ∧
    s.fld ⟨.strSrc, 0x042, 0⟩ 21 20 ≠ 1 ∧ ((after (exec (.refuse 4 9 0) s)).group 9).failed = [4] ∧
    ((after (exec (.report 4 9 0) s)).group 9).executed = [4] := by decide +kernel

theorem witness_censusRound :
    let s := (cascaded 2 0 0 { round := 1, roundAt := 0 }).setReg ⟨.casCfg, 0, 0⟩ 2
    let u := { s with root := 16 * 250000000 }
    u.serving = true ∧ u.casRole = 2 ∧ u.flag ⟨.casCfg, 0, 0⟩ 1 = true ∧ u.cas.roundAt + 250000000 ≤ u.tick ∧
    (after (exec .censusRound u)).cas.round = 2 ∧ s.accepts 0x200 ⟨.casCmd, 0, 0⟩ ∧ s.flag ⟨.casCmd, 0, 0⟩ 31 = false ∧
    (after (exec (.casCensus 0x200) s)).cas.round = 2 := by decide +kernel

theorem witness_censusQ : let s := cascaded 1 0 0 {}
    s.serving = true ∧ s.casRole = 1 := by decide +kernel

theorem witness_census :
    let s := (cascaded 2 0 0 { round := 1, roundAt := 0 }).setReg ⟨.casAdmitted, 0, 0⟩ 0x10
    let u := { s with root := 16 * 125000000 }
    s.serving = true ∧ s.casRole = 2 ∧ s.admitted 4 = true ∧ s.expectWaits 4 = false ∧
    (s.modPch (s.pchOf (96 * 192 * 4)) fun x => { x with retrain := some { active := true } }).expectWaits 4 = true ∧
    (after (exec (.census 4 191 [(0, false)]) s)).cas.answered = [303] ∧
    u.serving = true ∧ u.cas.round ≠ 0 ∧ u.cas.roundAt + 125000000 ≤ u.tick ∧ u.admitted 4 = true ∧
    u.cas.answered = [] ∧ u.flag ⟨.casCmis, 0, 0⟩ 31 = false ∧
    (after (exec (.censusAnswerTimeout 4) u)).reg ⟨.casCmis, 0, 0⟩ = 0x800400FF := by decide +kernel

theorem witness_censusMismatch :
    let s := pin ((cascaded 2 0 0 {}).setReg ⟨.casAdmitted, 0, 0⟩ 0x10) ⟨.strSrc, 0x043, 0⟩ 0
    let s1 := { s with cas := { s.cas with answered := (s.cas.answered.filter (· != 303)) ++ [303] } }
    s.serving = true ∧ s.casRole = 2 ∧ s.admitted 4 = true ∧ s.expectWaits 4 = false ∧ (s1.digestOk 4 191 (5, true)).2 = false ∧
    (s1.digestOk 4 191 (5, true)).1.flag ⟨.casCmis, 0, 0⟩ 31 = false ∧
    (s1.digestOk 4 191 (5, true)).1.fld ⟨.strSrc, 0x043, 0⟩ 21 20 ≠ 1 := by decide +kernel

/-! ### The owner token, tenants and debug sessions -/

theorem witness_token :
    let s := { atTick 600000000 with beat := 100000000 }
    let u := withRegs { atTick 600000000 with beat := 100000001 } [(⟨.devToken, 0, 0⟩, 0)]
    holderCode 0x200 ≠ 0 ∧ u.holder = 0 ∧ u.accepts 0x200 ⟨.devToken, 0, 0⟩ ∧
    (after (exec (.acquire [0x280, 0x200]) u)).holder = 1 ∧ (after (exec (.acquire [0x280, 0x200]) u)).beat = 600000000 ∧
    s.holder ≠ 0 ∧ s.accepts 0x200 ⟨.devToken, 0, 0⟩ ∧ s.holder = holderCode 0x200 ∧
    (after (exec (.tokenRelease 0x200) s)).holder = 0 ∧ s.accepts 0x280 ⟨.devToken, 0, 0⟩ ∧
    s.holder ≠ holderCode 0x280 ∧ s.accepts 0x200 ⟨.devHeartbeat, 0, 0⟩ ∧ s.live = true ∧
    s.beat + 250000 * s.fld ⟨.devTokenCfg, 0, 0⟩ 15 0 ≤ s.tick ∧
    u.tick < u.beat + 250000 * s.fld ⟨.devTokenCfg, 0, 0⟩ 15 0 := by decide +kernel

/-- A descriptor: cup 191 and core 15, 3 streams, 5 slots. -/
def oneDesc : List Byte :=
  [1, 0, 3, 0, 5, 0, 7, 0, 0, 0x80] ++ List.replicate 125 0 ++ [0x80] ++ List.replicate 776 0

/-- The descriptor stands in the owner's range 0, at address 0. -/
def described : State := ((ownHbm (withRegs (atTick 1000000) [(⟨.trayLmap, 47, 0⟩, 5)])).hbmPut 1 0
  (oneDesc ++ List.replicate 48 0)).1

theorem witness_tenantCreate :
    let s := described
    let s0 := (s.plainWrite ⟨.devTcmd, 0, 0⟩ (tcmdWord 1 63)).setFlag ⟨.devTcmd, 0, 0⟩ 31 false
    let s1 := s0.setFlag ⟨.devTcmd, 0, 0⟩ 31 false
    let r := s1.hbmFetch 0x01 (s1.pair ⟨.devTdesc, 0, 0⟩ ⟨.devTdescHi, 0, 0⟩) 912
    s.accepts 0x200 ⟨.devTcmd, 0, 0⟩ ∧ s.finals = [] ∧ s.flag ⟨.devTcmd, 0, 0⟩ 31 = false ∧ s0.tcmdWaits = false ∧ r.2 = some oneDesc ∧ r.1.descCode 63 oneDesc = 0 ∧ descRanges oneDesc = [] ∧
    descCups oneDesc = [191] ∧ (tenRecOf oneDesc).cores = [15] ∧ r.1.descCode 63 (1 :: 2 :: oneDesc.drop 2) ≠ 0 := by
  decide +kernel

theorem witness_teardown :
    let s := withRegs (atTick 1000000) [(⟨.devTexist, 0, 1⟩, 0x80000000), (⟨.cupOwner, 191, 0⟩, 0x4F), (⟨.cpuPin, 15, 0⟩, 0x4F)]
    s.accepts 0x200 ⟨.devTcmd, 0, 0⟩ ∧ s.flag ⟨.devTcmd, 0, 0⟩ 31 = false ∧ s.tenantExists 63 = true ∧ s.tenantExists 0 = false ∧ s.cupDom 191 = 0x10 + 63 ∧
    s.coreDom 15 = 0x10 + 63 ∧ (after (exec (.teardown 0x200 0) s)).reg ⟨.devTstat, 0, 0⟩ = 0xC8000000 := by
  decide +kernel

theorem witness_hello : let s := atTick 1000000
    s.mayCommand 0x200 7 ∧ s.dbgWin 0x200 7 = 7 ∧ s.mayOpen 0x200 7 1 = true ∧ s.plyngen = false ∧
    s.sessFor 7 = some 7 := by decide +kernel

/-- Session 7 of the owner's domain: answered, or open. -/
def aSession (isOpen : Bool) (halted : List Nat) : SessSt :=
  { isOpen, auth := !isOpen, win := 7, mid := 0x200, dom := 1, lastAccess := 5, halted }

/-- A device with that session, core 15 in a state. -/
def debugging (x : SessSt) (core : Nat) : State :=
  { withRegs (atTick 3000000000) [(⟨.cpuStat, 15, 0⟩, packBits [(31, 30, core)])] with sess := [(7, x)] }

theorem witness_proof : let s := pin (debugging (aSession false []) 1) ⟨.strSrc, 0x070, 0⟩ 0
    s.mayCommand 0x200 7 ∧ s.dbgWin 0x200 7 = 7 ∧
    (s.sess.find? fun e => e.2.win == 7 && e.2.auth && e.2.mid == 0x200) = some (7, aSession false []) ∧
    s.mayOpen 0x200 7 1 = true ∧ s.fld ⟨.strSrc, 0x070, 0⟩ 21 20 ≠ 1 := by decide +kernel

theorem witness_helloBarred : let s := pin (debugging (aSession true [15]) 3) ⟨.strSrc, 0x070, 0⟩ 0
    s.mayCommand 0x200 7 ∧ look s.sess 7 = some (aSession true [15]) ∧ s.fld ⟨.strSrc, 0x070, 0⟩ 21 20 ≠ 1 := by decide +kernel

theorem witness_close : let s := pin (debugging (aSession true [15]) 3) ⟨.strSrc, 0x070, 0⟩ 0
    s.urn.pend = [] ∧ s.fld ⟨.strSrc, 0x070, 0⟩ 21 20 ≠ 1 ∧
    s.mayCommand 0x200 7 ∧ (s.sess.find? fun e => e.2.win == 7 && e.2.mid == 0x200) = some (7, aSession true [15]) ∧
    look s.sess 7 = some (aSession true [15]) ∧ s.coreState 15 = 3 ∧ s.live = true ∧ 5 + 2500000000 ≤ s.tick ∧
    s.fld ⟨.cpuStat, 15, 0⟩ 31 30 = 3 := by decide +kernel

theorem witness_noTimeout : let s := { debugging (aSession true []) 3 with root := 16 * 2500000004 }
    s.tick < (s.session 7).lastAccess + 2500000000 ∧ (s.session 0).isOpen = false := by decide +kernel

theorem witness_recover : let s := { atTick 9 with phase := .integrity }
    s.mayCommand 0x181 0 ∧ s.phase = .integrity ∧ s.sessAt (s.dbgWin 0x181 0) = none := by decide +kernel

theorem witness_halt : let s := debugging (aSession true []) 2
    s.commands 0x200 7 7 ∧ s.dbgCore (s.session 7) 15 = true ∧ s.coreState 15 ≠ 0 ∧ s.outstanding = [] ∧ 15 ∉ (s.session 7).halted ∧
    (debugging (aSession true []) 0).coreState 15 = 0 ∧ (debugging (aSession true []) 0).commands 0x200 7 7 ∧
    (after (exec (.halt 0x200 7 15) s)).coreState 15 = 3 ∧
    ((after (exec (.halt 0x200 7 15) s)).session 7).halted = [15] := by decide +kernel

theorem witness_resume : let s := debugging (aSession true [15]) 3
    s.commands 0x200 7 7 ∧ s.dbgCore (s.session 7) 15 = true ∧ 15 ∈ (s.session 7).halted ∧ s.coreState 15 = 3 ∧
    (s.core 15).csr = [] ∧ (s.core 15) = {} ∧ (after (exec (.resume 0x200 7 15) s)).coreState 15 = 1 := by decide +kernel

theorem witness_dbgCapture :
    let s := withRegs (debugging (aSession true []) 1) [(⟨.dbgMsg, 7, 0⟩, 1), (⟨.dbgMsg, 7, 8⟩, 3000002500)]
    captureCups (s.dbgMsg 7 40) = [0] ∧ numAt (s.dbgMsg 7 40) 32 8 = 3000002500 ∧ s.tick + 2500 ≤ 3000002500 ∧
    numAt (s.dbgMsg 7 40) 24 1 ≤ 1 ∧ s.cupDom 0 = (s.session 7).dom ∧ s.captureBusy [0] 3000002500 = false ∧
    ((after (exec (.dbgCapture 0x200 7 0) s)).session 7).captures = [([0], false, 3000002500)] := by decide +kernel

theorem witness_debugCapture : let s := debugging { aSession true [] with captures := [([0], true, 3000000000)] } 1
    s.serving = true ∧ (s.session 7).captures = [([0], true, s.tick)] ∧ s.root = 16 * s.tick ∧
    ((after (exec (.debugCaptureTick 7) s)).session 7).held = [0] := by decide +kernel

/-- A training stage holds the descriptor's pseudo-channel; the tag of an outstanding request is free. -/
theorem witness_createWaits :
    let d := ownHbm (withRegs (atTick 1000000) [(⟨.trayLmap, 47, 0⟩, 5)])
    let s := d.modPch (d.pchOf 0) fun x => { x with retrain := some { active := true } }
    let s0 := (s.plainWrite ⟨.devTcmd, 0, 0⟩ (tcmdWord 1 63)).setFlag ⟨.devTcmd, 0, 0⟩ 31 false
    let u := withRegs s [(⟨.devTcmd, 0, 0⟩, 0x80000000)]
    s.accepts 0x200 ⟨.devTcmd, 0, 0⟩ ∧ s.finals = [] ∧ s.flag ⟨.devTcmd, 0, 0⟩ 31 = false ∧ s0.tcmdWaits = true ∧
    u.accepts 0x200 ⟨.devTcmd, 0, 0⟩ ∧ u.flag ⟨.devTcmd, 0, 0⟩ 31 = true ∧ u.finals = [] := by decide +kernel

theorem witness_haltWaits :
    let s := { debugging (aSession true []) 2 with outstanding := [{ mid := 0x10F, tag := 0, op := .read, issued := 0 }] }
    s.commands 0x200 7 7 ∧ s.dbgCore (s.session 7) 15 = true ∧ (∃ e ∈ s.outstanding, e.mid = 0x10F) ∧
    (after (exec (.halt 0x200 7 15) s)).later = [.core 7] := by decide +kernel

/-- Whether a core's step waits hangs on what Config says of its fetch. -/
theorem witness_stepWaits :
    let s := debugging (aSession true [15]) 3
    (Config.rvFetch 0 [] 0 3 = none → s.stepWaits 15 1 = false) ∧
    (Config.rvFetch 0 [] 0 3 = some 0 →
      (s.modPch (s.pchOf 0) fun x => { x with retrain := some { active := true } }).stepWaits 15 1 = true) ∧
    s.commands 0x200 7 7 ∧ s.core 15 = {} ∧ s.freeCtr = 0 := by
  refine ⟨fun h => ?_, fun h => ?_, by decide +kernel⟩
  · have h0 : (debugging (aSession true [15]) 3).core 15 = {} := by decide +kernel
    have h1 : (debugging (aSession true [15]) 3).draw.core 15 = {} := by decide +kernel
    have h2 : (debugging (aSession true [15]) 3).freeCtr = 0 := by decide +kernel
    simp only [State.stepWaits, State.coreFetch, h0, h1, h2, h, Bool.false_or]
  · have h0 : (State.modPch (debugging (aSession true [15]) 3) (State.pchOf (debugging (aSession true [15]) 3) 0)
        fun x => { x with retrain := some { active := true } }).core 15 = {} := by decide +kernel
    have h2 : (State.modPch (debugging (aSession true [15]) 3) (State.pchOf (debugging (aSession true [15]) 3) 0)
        fun x => { x with retrain := some { active := true } }).freeCtr = 0 := by decide +kernel
    simp only [State.stepWaits, h0, h2, h]
    exact Bool.or_eq_true _ _ |>.mpr (.inl (by decide +kernel))

theorem witness_execWaits :
    let s := debugging (aSession true [15]) 3
    Config.rvAccess 0 [] [] (nset (nset (nset [] 0x7B1 0) 0x7B2 0) 0x7B3 0) 0 3 = none → s.execWaits 7 15 1 = false := by
  intro s h
  have h0 : s.core 15 = {} := by decide +kernel
  have h1 : s.dbgData 7 = (0, 0) := by decide +kernel
  have h2 : s.reg ⟨.dbgInsn, 7, 0⟩ = 0 := by decide +kernel
  simp only [State.execWaits, h0, h1, h2, h]

end Sys2Proof.Tests
end

section
/-! PROOF. Words, their bytes and their fields: what a write merges field by field, and what a clearing read leaves (R10,
R11, R464). -/

namespace Sys2Proof.Machine

/-! ### Words and their bytes -/

/-- The bytes of a number spell it again, cut to as many bytes. -/
theorem ofLe_leBytes (k n : Nat) : ofLe (leBytes k n) = n % 256 ^ k := by
  induction k generalizing n with
  | zero => simp [leBytes, ofLe, Nat.mod_one]
  | succ k ih =>
    have hb : (BitVec.ofNat 8 n).toNat = n % 256 := BitVec.toNat_ofNat n 8
    rw [leBytes, ofLe, ih, hb, Nat.pow_succ', Nat.mod_mul]

/-- A word is spelt by its own bytes. -/
@[simp] theorem wordOf_wordBytes (w : Word) : wordOf (wordBytes w) = w := by
  unfold wordOf wordBytes
  rw [ofLe_leBytes]
  apply BitVec.eq_of_toNat_eq
  rw [BitVec.toNat_ofNat]
  have := w.isLt
  omega

/-- A word has four bytes. -/
@[simp] theorem length_wordBytes (w : Word) : (wordBytes w).length = 4 := rfl

/-- The first four bytes of a word are all of them. -/
@[simp] theorem slice_wordBytes (w : Word) : slice (wordBytes w) 0 4 = wordBytes w := rfl

/-! ### Words bit by bit -/

/-- A bit of a word whose field was written. -/
theorem bit_putBits (w : Word) {hi lo : Nat} (v i : Nat) (h : hi < 32) (hl : lo ≤ hi) :
    bit (putBits w hi lo v) i = if lo ≤ i ∧ i ≤ hi then v.testBit (i - lo) else bit w i := by
  unfold bit
  rw [getLsbD_putBits]
  exact if_congr (by omega) rfl rfl

/-- A field is known by its bits. -/
theorem bits_eq_of_bit {v w : Word} {hi lo : Nat} (h : ∀ i, lo ≤ i → i ≤ hi → bit v i = bit w i) :
    bits v hi lo = bits w hi lo := by
  apply Nat.eq_of_testBit_eq
  intro i
  rw [testBit_bits, testBit_bits]
  by_cases hi' : i < hi + 1 - lo
  · rw [show v.getLsbD (lo + i) = w.getLsbD (lo + i) from h (lo + i) (by omega) (by omega)]
  · simp [hi']

/-- A field is less than the power of two of its width. -/
theorem bits_lt (w : Word) (hi lo : Nat) : bits w hi lo < 2 ^ (hi + 1 - lo) := Nat.mod_lt _ (Nat.two_pow_pos _)

/-! ### The fields of a register (R464) -/

/-- The listed fields of a register lie in its word. -/
theorem fieldsOf_bound (n : RegName) : ∀ f ∈ fieldsOf n, f.lo ≤ f.hi ∧ f.hi < 32 := by
  cases n <;> decide

/-- The listed fields of a register do not meet. -/
theorem fieldsOf_apart (n : RegName) : (fieldsOf n).Pairwise fun f g => f.hi < g.lo ∨ g.hi < f.lo := by
  cases n <;> decide

/-- A listed field, and those before and after it, none of which holds a bit of it. -/
theorem fieldsOf_split {n : RegName} {f : Fld} (hf : f ∈ fieldsOf n) :
    ∃ l₁ l₂, fieldsOf n = l₁ ++ f :: l₂ ∧ ∀ i, f.lo ≤ i → i ≤ f.hi → ∀ g ∈ l₁ ++ l₂, i < g.lo ∨ g.hi < i := by
  obtain ⟨l₁, l₂, e⟩ := List.append_of_mem hf
  have hp := fieldsOf_apart n
  rw [e, List.pairwise_append, List.pairwise_cons] at hp
  obtain ⟨-, ⟨hafter, -⟩, hbefore⟩ := hp
  refine ⟨l₁, l₂, e, fun i hlo hhi g hg => ?_⟩
  rcases List.mem_append.mp hg with h | h
  · have := hbefore g h f List.mem_cons_self
    omega
  · have := hafter g h
    omega

/-! ### Writes (R10, R11) -/

/-- What the write of one field leaves of the bits outside it. -/
theorem bit_mergeField_ne (new w : Word) (f : Fld) {i : Nat} (h : i < f.lo ∨ f.hi < i) :
    bit (mergeField new w f) i = bit w i := by
  have hp (v : Nat) : bit (putBits w f.hi f.lo v) i = bit w i := bit_putBits_ne w f.hi f.lo v i h
  unfold mergeField
  cases f.acc <;> simp only [apply_ite fun a => bit a i, hp, ite_self]

/-- What the write of one field leaves at a bit hangs on that bit alone. -/
theorem bit_mergeField_congr (new : Word) {v w : Word} (f : Fld) {i : Nat} (h : bit v i = bit w i) :
    bit (mergeField new v f) i = bit (mergeField new w f) i := by
  have hp (x : Nat) : bit (putBits v f.hi f.lo x) i = bit (putBits w f.hi f.lo x) i := by
    unfold bit at *
    rw [getLsbD_putBits, getLsbD_putBits, h]
  unfold mergeField
  cases f.acc <;> simp only [apply_ite fun a => bit a i, hp, h]

/-- Fields written in a row leave a bit that none of them writes. -/
theorem bit_foldl_mergeField (new w : Word) {l : List Fld} {i : Nat}
    (h : ∀ f ∈ l, ∀ a, bit (mergeField new a f) i = bit a i) : bit (l.foldl (mergeField new) w) i = bit w i :=
  List.foldlRecOn (motive := fun a => bit a i = bit w i) l _ rfl fun a ha f hf => (h f hf a).trans ha

/-- A write gives the bits of a field what the write of that field alone gives them. -/
theorem bit_mergeWrite_of_mem {n : RegName} {f : Fld} (hf : f ∈ fieldsOf n) (old new : Word) {i : Nat}
    (hlo : f.lo ≤ i) (hhi : i ≤ f.hi) : bit (mergeWrite n old new) i = bit (mergeField new old f) i := by
  obtain ⟨l₁, l₂, e, hapart⟩ := fieldsOf_split hf
  have hkeep (l : List Fld) (hl : l ⊆ l₁ ++ l₂) (w : Word) : bit (l.foldl (mergeField new) w) i = bit w i :=
    bit_foldl_mergeField new w fun g hg a => bit_mergeField_ne new a g (hapart i hlo hhi g (hl hg))
  unfold mergeWrite
  rw [e, List.foldl_append, List.foldl_cons, hkeep l₂ (List.subset_append_right _ _)]
  exact bit_mergeField_congr new f (hkeep l₁ (List.subset_append_left _ _) old)

/-- A write leaves every bit that no writable field holds. -/
theorem bit_mergeWrite_of_unwritable {n : RegName} (old new : Word) {i : Nat}
    (h : ∀ f ∈ fieldsOf n, f.acc = .rw ∨ f.acc = .w1c ∨ f.acc = .w1s → ¬(f.lo ≤ i ∧ i ≤ f.hi)) :
    bit (mergeWrite n old new) i = bit old i := by
  refine bit_foldl_mergeField new old fun f hf a => ?_
  by_cases hin : f.lo ≤ i ∧ i ≤ f.hi
  · have hacc : f.acc = .wo ∨ f.acc = .rc := by
      have := fun hw => h f hf hw hin
      cases hf' : f.acc <;> simp_all
    rcases hacc with e | e <;> simp [mergeField, e]
  · exact bit_mergeField_ne new a f (by omega)

/-- A write gives an RW field the new value where that is an encoding, and leaves it otherwise (R11). -/
theorem bits_mergeWrite_rw {n : RegName} {f : Fld} (hf : f ∈ fieldsOf n) (hacc : f.acc = .rw) (old new : Word) :
    bits (mergeWrite n old new) f.hi f.lo =
      if f.ok (bits new f.hi f.lo) then bits new f.hi f.lo else bits old f.hi f.lo := by
  obtain ⟨-, h32⟩ := fieldsOf_bound n f hf
  rw [bits_eq_of_bit fun i => bit_mergeWrite_of_mem hf old new]
  simp only [mergeField, hacc]
  split
  · rw [bits_putBits_self _ _ _ _ h32, Nat.mod_eq_of_lt (bits_lt new f.hi f.lo)]
  · rfl

/-- A write of 1 clears a W1C field (R464). -/
theorem bit_mergeWrite_w1c {n : RegName} {f : Fld} (hf : f ∈ fieldsOf n) (hacc : f.acc = .w1c) (old new : Word) :
    bit (mergeWrite n old new) f.lo = (bit old f.lo && !bit new f.lo) := by
  obtain ⟨hle, h32⟩ := fieldsOf_bound n f hf
  rw [bit_mergeWrite_of_mem hf old new le_rfl hle]
  simp only [mergeField, hacc]
  split <;> simp_all [bit_putBits]

/-- A write of 1 sets a W1S field (R464). -/
theorem bit_mergeWrite_w1s {n : RegName} {f : Fld} (hf : f ∈ fieldsOf n) (hacc : f.acc = .w1s) (old new : Word) :
    bit (mergeWrite n old new) f.lo = (bit old f.lo || bit new f.lo) := by
  obtain ⟨hle, h32⟩ := fieldsOf_bound n f hf
  rw [bit_mergeWrite_of_mem hf old new le_rfl hle]
  simp only [mergeField, hacc]
  split <;> simp_all [bit_putBits]

/-! ### Clearing reads (R464) -/

/-- A clearing read leaves nothing in an RC field. -/
theorem bits_clearRc {n : RegName} {f : Fld} (hf : f ∈ fieldsOf n) (hacc : f.acc = .rc) (w : Word) :
    bits (clearRc n w) f.hi f.lo = 0 := by
  obtain ⟨hle, h32⟩ := fieldsOf_bound n f hf
  obtain ⟨l₁, l₂, e, hapart⟩ := fieldsOf_split hf
  rw [← bits_zero f.hi f.lo]
  refine bits_eq_of_bit fun i hlo hhi => ?_
  unfold clearRc
  rw [e, List.foldl_append, List.foldl_cons, if_pos hacc, bit_zero]
  refine List.foldlRecOn (motive := fun a => bit a i = false) l₂ _ ?_ fun a ha g hg => ?_
  · simp [bit_putBits _ _ _ h32 hle, hlo, hhi]
  · split
    · rw [bit_putBits_ne _ _ _ _ _ (hapart i hlo hhi g (List.mem_append_right _ hg)), ha]
    · exact ha

/-- A clearing read of a register without RC fields leaves its word. -/
theorem clearRc_of_not_hasRc {n : RegName} (h : hasRc n = false) (w : Word) : clearRc n w = w := by
  refine List.foldlRecOn (motive := fun a => a = w) _ _ rfl fun a ha f hf => ?_
  have hacc : f.acc ≠ .rc := by simpa using List.any_eq_false.mp h f hf
  rw [if_neg hacc, ha]

end Sys2Proof.Machine
end

section
/-! PROOF. Register accesses in the owner window: what a read latches, answers and clears (R9, R464), and which write is a
register's own (R8, R10). -/

namespace Sys2Proof.Machine

/-! ### Latches (R9) -/

/-- What a read returns of a register does not hang on the latches. -/
theorem State.readReg_latches (s : State) (l : List (Nat × RegKey × Word)) (m w : Nat) (k : RegKey) :
    State.readReg { s with latches := l } m w k = s.readReg m w k := by
  obtain ⟨n, i, j⟩ := k
  cases n <;> rfl

/-- A forgotten latch is gone, and every other stands. -/
theorem State.latched_unlatch (s : State) (m : Nat) (h k : RegKey) :
    (s.unlatch m h).latched m k = if k = h then none else s.latched m k := by
  unfold State.latched State.unlatch
  rw [List.find?_filter]
  split
  · rename_i e
    subst e
    simp only [Option.map_eq_none_iff, List.find?_eq_none]
    intro x _
    by_cases hx : x.1 = m ∧ x.2.1 = k <;> simp [hx]
  · rename_i e
    congr 2
    funext x
    by_cases hx : x.1 = m ∧ x.2.1 = k
    · simp [hx, e]
    · simp [hx]

/-- The state with the word of one high register latched for a master. -/
def State.latchKey (s : State) (m w : Nat) (h : RegKey) : State :=
  { s.unlatch m h with latches := (m, h, s.readReg m w h) :: (s.unlatch m h).latches }

/-- A read latches its high registers one after another. -/
theorem State.latchHigh_eq_foldl (s : State) (m w : Nat) (k : RegKey) :
    s.latchHigh m w k = (highKeys k).foldl (fun s h => s.latchKey m w h) s := rfl

/-- The latch just taken holds the register's word, and every other stands. -/
theorem State.latched_latchKey (s : State) (m w : Nat) (h k : RegKey) :
    (s.latchKey m w h).latched m k = if k = h then some (s.readReg m w h) else s.latched m k := by
  have hu := s.latched_unlatch m h k
  unfold State.latched at hu ⊢
  unfold State.latchKey
  by_cases e : k = h
  · simp [e]
  · rw [if_neg e] at hu ⊢
    rw [List.find?_cons_of_neg (by simp [Ne.symm e]), hu]

/-- After latching in a row each register of the row has its word latched, and every other latch stands. -/
theorem State.latched_foldl_latchKey (s : State) (m w : Nat) (l : List RegKey) (k : RegKey) :
    (l.foldl (fun s h => s.latchKey m w h) s).latched m k =
      if k ∈ l then some (s.readReg m w k) else s.latched m k := by
  induction l generalizing s with
  | nil => simp
  | cons h l ih =>
    have hr : (s.latchKey m w h).readReg m w k = s.readReg m w k := s.readReg_latches _ m w k
    rw [List.foldl_cons, ih, hr, State.latched_latchKey]
    by_cases e : k = h
    · subst e; simp
    · simp [e]

/-- A read latches the high words that belong to its register, and leaves every other latch. -/
theorem State.latched_latchHigh (s : State) (m w : Nat) (k j : RegKey) :
    (s.latchHigh m w k).latched m j = if j ∈ highKeys k then some (s.readReg m w j) else s.latched m j :=
  s.latched_foldl_latchKey m w (highKeys k) j

/-- Latching changes the latches alone. -/
theorem State.latchHigh_eq (s : State) (m w : Nat) (k : RegKey) :
    s.latchHigh m w k = { s with latches := (s.latchHigh m w k).latches } :=
  List.foldlRecOn (motive := fun t : State => t = { s with latches := t.latches }) (highKeys k) _ rfl
    fun t ht h _ => by rw [ht]; rfl

/-- No register's high word is itself. -/
theorem not_mem_highKeys_self (k : RegKey) : k ∉ highKeys k := by
  obtain ⟨n, i, j⟩ := k
  cases n
  case infLog => simp only [highKeys]; split <;> simp_all [highOf]
  all_goals simp [highKeys, highOf]

/-! ### What a read does (R9, R215, R464) -/

/-- What a read does to the latches: it uses up the latch that its word came from, or takes those of the high words. -/
def State.latchRead (s : State) (m w : Nat) (k : RegKey) : State :=
  if (s.latched m k).isSome then s.unlatch m k else s.latchHigh m w k

/-- A read changes the latches, and then clears its RC fields; but for TXSTAMP_HI and LN_STAT it does nothing else. -/
theorem State.readEffect_eq (s : State) (m w : Nat) {k : RegKey} (hx : k.name ≠ .txstampHi) (hl : k.name ≠ .lnStat) :
    s.readEffect m w k =
      if hasRc k.name then (s.latchRead m w k).setReg k (clearRc k.name ((s.latchRead m w k).reg k))
      else s.latchRead m w k := by
  simp only [State.readEffect, if_neg hx, if_neg hl]
  rfl

/-- The step of a read at the latches changes them alone. -/
theorem State.latchRead_eq (s : State) (m w : Nat) (k : RegKey) :
    s.latchRead m w k = { s with latches := (s.latchRead m w k).latches } := by
  unfold State.latchRead
  split
  · rfl
  · exact s.latchHigh_eq m w k

/-- A read of a register without a latch and without high words leaves the latches. -/
theorem State.latchRead_of_no_high {s : State} {m : Nat} (w : Nat) {k : RegKey} (hk : s.latched m k = none)
    (hh : highKeys k = []) : s.latchRead m w k = s := by
  simp [State.latchRead, hk, latchHigh_eq_foldl, hh]

/-- The step of a read at the latches leaves every register. -/
theorem State.reg_latchRead (s : State) (m w : Nat) (k j : RegKey) : (s.latchRead m w k).reg j = s.reg j :=
  State.reg_congr (by rw [latchRead_eq]) j

/-- After a read no latch stands for its register. -/
theorem State.latched_latchRead_self (s : State) (m w : Nat) (k : RegKey) : (s.latchRead m w k).latched m k = none := by
  unfold State.latchRead
  split
  · rw [latched_unlatch, if_pos rfl]
  · rename_i h
    rw [latched_latchHigh, if_neg (not_mem_highKeys_self k)]
    simpa using h

/-- A read whose word came from no latch latches the high words that belong to it. -/
theorem State.latched_latchRead_high (s : State) (m w : Nat) {k h : RegKey} (hk : s.latched m k = none)
    (hh : h ∈ highKeys k) : (s.latchRead m w k).latched m h = some (s.readReg m w h) := by
  simp [State.latchRead, hk, latched_latchHigh, hh]

section

variable (s : State) (m w : Nat) {k : RegKey} (hx : k.name ≠ .txstampHi) (hl : k.name ≠ .lnStat)
include hx hl

/-- A read changes registers and latches alone. -/
theorem State.readEffect_rest :
    s.readEffect m w k = { s with regs := (s.readEffect m w k).regs, latches := (s.readEffect m w k).latches } := by
  rw [s.readEffect_eq m w hx hl, s.latchRead_eq]
  split <;> rfl

/-- A read leaves the latches as its step at the latches does. -/
theorem State.latches_readEffect : (s.readEffect m w k).latches = (s.latchRead m w k).latches := by
  rw [s.readEffect_eq m w hx hl]
  split <;> rfl

/-- A read of a register without RC fields leaves the register file. -/
theorem State.regs_readEffect_of_not_hasRc (h : hasRc k.name = false) : (s.readEffect m w k).regs = s.regs := by
  rw [s.readEffect_eq m w hx hl, h, s.latchRead_eq]
  rfl

/-- A read clears the RC fields of its register and leaves every other register. -/
theorem State.reg_readEffect (j : RegKey) :
    (s.readEffect m w k).reg j = if j = k then clearRc k.name (s.reg k) else s.reg j := by
  rw [s.readEffect_eq m w hx hl]
  split
  · rw [State.reg_setReg, reg_latchRead, reg_latchRead]
  · rename_i h
    rw [clearRc_of_not_hasRc (by simpa using h), reg_latchRead]
    split
    · rename_i e; rw [e]
    · rfl

end

/-- The latched words hang on the latches alone. -/
theorem State.latched_congr {s t : State} (h : t.latches = s.latches) (m : Nat) (k : RegKey) :
    t.latched m k = s.latched m k := by
  unfold State.latched; rw [h]

/-! ### Accesses to the owner window (R8, R136, R438) -/

section

variable {s : State} {m o a : Nat} {k : RegKey}

/-- The windows let a master write no register that they do not let it read, nor one that the token bars. -/
theorem mayWriteReg_parts {w : Nat} (h : s.mayWriteReg m w k = true) :
    s.mayReadReg m w k = true ∧ s.tokenBars m k = false := by
  simp only [State.mayWriteReg, Bool.and_eq_true, Bool.not_eq_true'] at h
  exact h.1

/-- In the owner window every master acts as itself. -/
@[simp] theorem acting_owner : s.acting m 0 = m := by simp [State.acting]

/-- A write that the owner window takes is the register's own. -/
theorem spaceWrite_owner (hk : s.ownerAt o = some k) (ho : o % 4 = 0) (hu : s.mayUseWin m 0 = true)
    (hw : s.mayWriteReg m 0 k = true) (hg : s.keyGone k = false) {data : List Byte} (hlen : data.length = 4)
    (hv : s.valueDenied m k (wordOf data) = false) (hb : blkOf k.name ≠ .dbg)
    (put : State → Nat → Nat → RegKey → Word → State) :
    s.spaceWrite put m 0 o data = (put s m 0 k (wordOf data), .ok) := by
  obtain ⟨hr, ht⟩ := mayWriteReg_parts hw
  simp [State.spaceWrite, State.regPut, *]

/-- A read that the owner window takes answers the register's word and has the read's effect. -/
theorem spaceRead_owner (hk : s.ownerAt o = some k) (ho : o % 4 = 0) (hu : s.mayUseWin m 0 = true)
    (hr : s.mayReadReg m 0 k = true) (hg : s.keyGone k = false) (hb : blkOf k.name ≠ .dbg) :
    s.spaceRead m 0 o 4 = (s.readEffect m 0 k, .ok, wordBytes (s.readValue m 0 k)) := by
  simp [State.spaceRead, State.regGet, *]

/-- A request to an aligned address of the owner window is taken where its register answers. -/
theorem takes_owner (ht : s.target a = .owner o) (hk : s.ownerAt o = some k) (ha : a % 4 = 0)
    (hr : s.reaches m k = true) (hd : (s.midDomain m).isSome = true) : s.takes m a = true := by
  simp [State.takes, State.keyAt, *]

/-- A register access that is taken, of a master that has no FENCE pending, is performed. -/
theorem wordCommand_taken (h : s.takes m a = true) (hf : s.fenced m = false) (r : Req) :
    s.wordCommand m a r = .next (s.perform m noTag r) := by
  simp [State.wordCommand, h, hf]

/-- REGISTER_WRITE of a word in the owner window is the register's own write, answered OK. -/
theorem registerWrite_owner (ht : s.target a = .owner o) (hk : s.ownerAt o = some k) (ho : o % 4 = 0) (ha : a % 4 = 0)
    (hr : s.reaches m k = true) (hd : (s.midDomain m).isSome = true) (hu : s.mayUseWin m 0 = true)
    (hw : s.mayWriteReg m 0 k = true) (hg : s.keyGone k = false) (hf : s.fenced m = false) {v : Word}
    (hv : s.valueDenied m k v = false) (hb : blkOf k.name ≠ .dbg) :
    exec (.registerWrite m a 4 v) s = .next ((s.writeReg m 0 k v).answer m .ok) := by
  have hspace := spaceWrite_owner hk ho hu hw hg (length_wordBytes v) (by rwa [wordOf_wordBytes]) hb State.writeReg
  calc exec (.registerWrite m a 4 v) s
      = s.wordCommand m a (.putAt a 4 v) := rfl
    _ = .next (s.putWord m a 4 v) := wordCommand_taken (takes_owner ht hk ha hr hd) hf _
    _ = .next ((s.writeReg m 0 k v).answer m .ok) := by
      simp [State.putWord, State.finish0, ht, hspace]

/-- What a read of register k in the owner window leaves: its effect, and its word on the way to master m. -/
def State.readOwner (s : State) (m : Nat) (k : RegKey) : State :=
  (s.readEffect m 0 k).answer m .ok (wordBytes (s.readValue m 0 k))

/-- LOW_WORD_READ and RC_FIELD_READ of a word in the owner window are reads of its register. -/
theorem read_owner (ht : s.target a = .owner o) (hk : s.ownerAt o = some k) (ho : o % 4 = 0) (ha : a % 4 = 0)
    (hr : s.reaches m k = true) (hd : (s.midDomain m).isSome = true) (hu : s.mayUseWin m 0 = true)
    (hm : s.mayReadReg m 0 k = true) (hg : s.keyGone k = false) (hf : s.fenced m = false) (hb : blkOf k.name ≠ .dbg) :
    exec (.lowWordRead m a) s = .next (s.readOwner m k) ∧ exec (.rcFieldRead m a) s = .next (s.readOwner m k) := by
  have hspace := spaceRead_owner hk ho hu hm hg hb
  have hget : s.getWord m a = s.readOwner m k := by
    simp [State.getWord, State.finish0, State.readOwner, ht, hspace]
  have hcmd : s.wordCommand m a (.getAt a) = .next (s.readOwner m k) :=
    hget ▸ wordCommand_taken (takes_owner ht hk ha hr hd) hf _
  exact ⟨hcmd, hcmd⟩

end

section

variable (s : State) (m : Nat) {k : RegKey} (hx : k.name ≠ .txstampHi) (hl : k.name ≠ .lnStat)
include hx hl

/-- A read changes registers, latches and what the device has driven out alone. -/
theorem State.readOwner_rest :
    s.readOwner m k =
      { s with regs := (s.readOwner m k).regs, latches := (s.readOwner m k).latches,
               sent := (s.readOwner m k).sent } := by
  unfold State.readOwner
  rw [s.readEffect_rest m 0 hx hl]
  rfl

/-- A read answers the word latched for the master, or else the register's. -/
theorem State.sent_readOwner :
    (s.readOwner m k).sent = .response { mid := m, tag := 0, code := .ok,
                                         bytes := wordBytes ((s.latched m k).getD (s.readReg m 0 k)) } :: s.sent := by
  unfold State.readOwner
  rw [s.readEffect_rest m 0 hx hl]
  rfl

/-- The latches after a read are those its step at the latches leaves. -/
theorem State.latched_readOwner (j : RegKey) : (s.readOwner m k).latched m j = (s.latchRead m 0 k).latched m j :=
  State.latched_congr (s.latches_readEffect m 0 hx hl) m j

/-- A read leaves nothing in the RC fields of its register. -/
theorem State.rc_readOwner {f : Fld} (hf : f ∈ fieldsOf k.name) (hacc : f.acc = .rc) :
    bits ((s.readOwner m k).reg k) f.hi f.lo = 0 := by
  rw [show (s.readOwner m k).reg k = clearRc k.name (s.reg k) from
    (s.reg_readEffect m 0 hx hl k).trans (if_pos rfl), bits_clearRc hf hacc]

/-- A read leaves every other register. -/
theorem State.keepsRegs_readOwner : s.keepsRegs (s.readOwner m k) [k] := fun j hj =>
  (s.reg_readEffect m 0 hx hl j).trans (if_neg (by simpa using hj))

end

/-! ### Writes of a register without a command of its own -/

/-- A register without a command of its own stands in a block that merges writes. -/
theorem blkOf_of_not_ownWrite {n : RegName} (h : ownWrite n = false) :
    blkOf n ≠ .dbg ∧ blkOf n ≠ .rtr ∧ blkOf n ≠ .pcie := by
  unfold ownWrite at h
  split at h <;> simp_all

/-- In every block the arms of its write that do not merge are those of the registers that `ownWrite` names. -/
theorem putReg_of_not_ownWrite (s : State) (m w : Nat) {k : RegKey} (v : Word) (h : ownWrite k.name = false) :
    s.putReg m w k v = s.plainWrite k v := by
  obtain ⟨hdbg, hrtr, hpcie⟩ := blkOf_of_not_ownWrite h
  unfold State.putReg State.writeDev State.writeStr State.writeTick State.writeImg State.writeInf State.writeCup
    State.writeTray State.writeQuad State.writeStk
  split <;> try split
  all_goals simp_all [ownWrite]

/-- The write of a register without a command of its own merges its fields (R10). -/
theorem writeReg_of_not_ownWrite (s : State) (m w : Nat) {k : RegKey} (v : Word) (h : ownWrite k.name = false) :
    s.writeReg m w k v = s.plainWrite k v := by
  have hk : k.name ≠ .dbgCtl := fun e => by rw [e] at h; cases h
  rw [State.writeReg, if_neg hk, putReg_of_not_ownWrite s m w v h]

/-! ### The statement -/

/-- TICK_LO read in the owner window: its low word, and its high word latched (R9). -/
theorem lowWordRead_tickLo {s : State} {m : Nat} (hr : s.reaches m ⟨.tickLo, 0, 0⟩ = true)
    (hm : s.mayReadReg m 0 ⟨.tickLo, 0, 0⟩ = true) (hu : s.mayUseWin m 0 = true) (hd : (s.midDomain m).isSome = true)
    (hf : s.fenced m = false) (hn : s.latched m ⟨.tickLo, 0, 0⟩ = none) :
    ∃ t, exec (.lowWordRead m 0xF000050000) s = .next t ∧
      t = { s with latches := t.latches, sent := t.sent } ∧
      t.sent = .response { mid := m, tag := 0, code := .ok, bytes := wordBytes (loWord s.tick) } :: s.sent ∧
      t.latched m ⟨.tickHi, 0, 0⟩ = some (hiWord s.tick) := by
  have hx : RegName.tickLo ≠ .txstampHi := by decide
  have hl : RegName.tickLo ≠ .lnStat := by decide
  have hread := (read_owner (a := 0xF000050000) (k := ⟨.tickLo, 0, 0⟩) rfl rfl rfl rfl hr hd hu hm rfl hf (by decide)).1
  have hregs : (s.readOwner m ⟨.tickLo, 0, 0⟩).regs = s.regs := s.regs_readEffect_of_not_hasRc m 0 hx hl rfl
  have hrest := s.readOwner_rest m (k := ⟨.tickLo, 0, 0⟩) hx hl
  have hsent := s.sent_readOwner m (k := ⟨.tickLo, 0, 0⟩) hx hl
  rw [hregs] at hrest
  rw [hn] at hsent
  refine ⟨_, hread, hrest, hsent, ?_⟩
  rw [s.latched_readOwner m hx hl, s.latched_latchRead_high m 0 hn (List.mem_singleton.mpr rfl)]
  rfl

/-- CAD_STAT read in the owner window: its word, and its drop count cleared (R464). -/
theorem rcFieldRead_cadStat {s : State} {m : Nat} (hr : s.reaches m ⟨.cadStat, 0, 0⟩ = true)
    (hm : s.mayReadReg m 0 ⟨.cadStat, 0, 0⟩ = true) (hu : s.mayUseWin m 0 = true) (hd : (s.midDomain m).isSome = true)
    (hf : s.fenced m = false) (hn : s.latched m ⟨.cadStat, 0, 0⟩ = none) :
    ∃ t, exec (.rcFieldRead m 0xF000040000) s = .next t ∧
      t = { s with regs := t.regs, sent := t.sent } ∧
      t.sent = .response { mid := m, tag := 0, code := .ok,
                           bytes := wordBytes (s.readReg m 0 ⟨.cadStat, 0, 0⟩) } :: s.sent ∧
      t.fld ⟨.cadStat, 0, 0⟩ 15 0 = 0 ∧ s.keepsRegs t [⟨.cadStat, 0, 0⟩] := by
  have hx : RegName.cadStat ≠ .txstampHi := by decide
  have hl : RegName.cadStat ≠ .lnStat := by decide
  have hread := (read_owner (a := 0xF000040000) (k := ⟨.cadStat, 0, 0⟩) rfl rfl rfl rfl hr hd hu hm rfl hf (by decide)).2
  have hlatches : (s.readOwner m ⟨.cadStat, 0, 0⟩).latches = s.latches :=
    (s.latches_readEffect m 0 hx hl).trans (congrArg State.latches (State.latchRead_of_no_high 0 hn rfl))
  have hrest := s.readOwner_rest m (k := ⟨.cadStat, 0, 0⟩) hx hl
  have hsent := s.sent_readOwner m (k := ⟨.cadStat, 0, 0⟩) hx hl
  rw [hlatches] at hrest
  rw [hn] at hsent
  exact ⟨_, hread, hrest, hsent, s.rc_readOwner m hx hl (f := rcF 15 0) (List.mem_singleton.mpr rfl) rfl,
    s.keepsRegs_readOwner m hx hl⟩

/-- Settles O13: no two fields of a register meet, so a write gives each field what its own access code says; a read uses
up or takes latches, then clears its RC fields. -/
theorem registerAccessesMergeLatchAndClear : Obligations.RegisterAccessesMergeLatchAndClear := by
  unfold Obligations.RegisterAccessesMergeLatchAndClear
  refine ⟨?write, fun n old new i => bit_mergeWrite_of_unwritable old new,
    fun n old new f hf hacc => bits_mergeWrite_rw hf hacc old new,
    fun n old new f hf hacc => bit_mergeWrite_w1c hf hacc old new,
    fun n old new f hf hacc => bit_mergeWrite_w1s hf hacc old new,
    fun s m hr hm hu hd hf hn => lowWordRead_tickLo hr hm hu hd hf hn,
    fun s m hr hm hu hd hf hn => rcFieldRead_cadStat hr hm hu hd hf hn, ?read⟩
  case write =>
    intro s m o k v ht hk ho hr hd hu hw hg hf hv hb
    have hown := registerWrite_owner ht hk ho (by omega) hr hd hu hw hg hf hv hb
    exact ⟨hown, fun h => by rw [hown, writeReg_of_not_ownWrite s m 0 v h]⟩
  case read =>
    intro s m o k ht hk ho hr hd hu hm hg hf hb hx hl
    obtain ⟨hlow, hrc⟩ := read_owner ht hk ho (by omega) hr hd hu hm hg hf hb
    refine ⟨s.readOwner m k, hlow, hrc, s.sent_readOwner m hx hl, ?used, fun hn h hh => ?high,
      fun f hfm hacc => s.rc_readOwner m hx hl hfm hacc, s.keepsRegs_readOwner m hx hl, s.readOwner_rest m hx hl⟩
    case used => rw [s.latched_readOwner m hx hl, s.latched_latchRead_self]
    case high => rw [s.latched_readOwner m hx hl, s.latched_latchRead_high m 0 hn hh]

end Sys2Proof.Machine
end

section
/-! PROOF. The registers at reset (R12). -/

namespace Sys2Proof.Machine

/-- A field at reset is that of the Reset value (R12). -/
@[simp] theorem reset_fld (k : RegKey) (hi lo : Nat) : State.reset.fld k hi lo = bits (resetVal k) hi lo := rfl

/-- A bit at reset is that of the Reset value. -/
@[simp] theorem reset_flag (k : RegKey) (n : Nat) : State.reset.flag k n = bit (resetVal k) n := rfl

/-- The client of a cup is firm at reset, with a need of 16 (R370). -/
theorem resetVal_urnCl_cup {k : Nat} (h : k < 192) : resetVal ⟨.urnCl, k, 0⟩ = 0x80000010 := by
  have hfirm : resetFirm k = true := by simp [resetFirm]; omega
  simp [resetVal, defaultNeed, hfirm, h]

/-- Settles O9: the register file of the reset state lists nothing, so each of these registers holds its Reset value; of
them URN_CL alone hangs on its index, which is a cup's. -/
theorem resetHoldsTheSpecsValues : Obligations.ResetHoldsTheSpecsValues := by
  unfold Obligations.ResetHoldsTheSpecsValues
  refine ⟨rfl, rfl, rfl, rfl, rfl, rfl, rfl, fun c => ?cup, fun p n => ?leaf, fun l => ?lane, fun k hk => ?urn,
    fun t => ?core, fun st => ?stack⟩
  case cup => exact (by decide : bits 1 7 0 = 0x01 ∧ bits 0 1 0 = 0)
  case leaf => exact (by decide : bits 4 7 0 = 4)
  case lane => exact (by decide : bits 2 1 0 = 2 ∧ bits 0x00FC0000 23 18 = 0x3F)
  case urn =>
    rw [reset_fld, reset_flag, resetVal_urnCl_cup hk]
    decide
  case core => exact (by decide : bit 1 31 = false ∧ bits 1 7 0 = 0x01)
  case stack => exact ⟨(by decide : bits 0x80001800 15 8 = 24), rfl⟩

end Sys2Proof.Machine
end

section
/-! PROOF. What a loop of writes leaves, and which cell a number stands for. -/

namespace Sys2Proof.Machine

/-! ### Loops of writes -/

/-- What no step of a loop changes, the loop does not change. -/
theorem foldl_keeps {σ ι α : Type} {get : σ → α} {step : σ → ι → σ} {l : List ι}
    (h : ∀ s, ∀ i ∈ l, get (step s i) = get s) (s : σ) : get (l.foldl step s) = get s :=
  List.foldlRecOn (motive := fun t => get t = get s) l step rfl fun t ht i hi => (h t i hi).trans ht

/-- What one step of a loop writes stands at its end, where every other step writes the same there or nothing. -/
theorem foldl_gives {σ ι α : Type} {get : σ → α} {step : σ → ι → σ} {l : List ι} {v : α}
    (h : ∀ s, ∀ i ∈ l, get (step s i) = v ∨ get (step s i) = get s) {j : ι} (hj : j ∈ l)
    (hv : ∀ s, get (step s j) = v) (s : σ) : get (l.foldl step s) = v := by
  obtain ⟨l₁, l₂, rfl⟩ := List.append_of_mem hj
  rw [List.foldl_append, List.foldl_cons]
  refine List.foldlRecOn (motive := fun t => get t = v) l₂ step (hv _) fun t ht i hi => ?_
  rcases h t i (by simp [hi]) with e | e
  · exact e
  · exact e.trans ht

/-- A step that occurs once in a loop, and reads of the state only what no other step changes, acts as on the state
before the loop. -/
theorem foldl_once {σ ι α : Type} {get : σ → α} {step : σ → ι → σ} {l : List ι} {j : ι} (hl : l.Nodup) (hj : j ∈ l)
    (hother : ∀ s, ∀ i ∈ l, i ≠ j → get (step s i) = get s)
    (hcongr : ∀ s t, get s = get t → get (step s j) = get (step t j)) (s : σ) :
    get (l.foldl step s) = get (step s j) := by
  obtain ⟨l₁, l₂, rfl⟩ := List.append_of_mem hj
  have hn := List.nodup_middle.mp hl
  rw [List.nodup_cons] at hn
  have hne : ∀ i ∈ l₁ ++ l₂, i ≠ j := fun i hi e => hn.1 (e ▸ hi)
  rw [List.foldl_append, List.foldl_cons,
    foldl_keeps (get := get) (l := l₂) fun s i hi => hother s i (by simp [hi]) (hne i (by simp [hi]))]
  exact hcongr _ _ (foldl_keeps (get := get) (fun s i hi => hother s i (by simp [hi]) (hne i (by simp [hi]))) s)

/-! ### Number-keyed lists -/

/-- A number-keyed list read after a write with default. -/
theorem nget_nput {α : Type} [DecidableEq α] (m : List (Nat × α)) (k j : Nat) (v d : α) :
    nget (nput m k v d) j d = if j = k then v else nget m j d := by
  unfold nget nput
  split
  · rename_i h; rw [h, lookD_putD_self]
  · rename_i h; rw [lookD_putD_ne natLt _ _ _ _ _ _ h]

/-- A number-keyed list read after a write that always lists. -/
theorem look_nset {α : Type} (m : List (Nat × α)) (k j : Nat) (v : α) :
    look (nset m k v) j = if j = k then some v else look m j := by
  unfold nset
  split
  · rename_i h; rw [h, look_insertAt_self]
  · rename_i h; rw [look_insertAt_ne natLt _ _ _ _ h]

/-- The value just listed is read back. -/
theorem nget_nset_self {α : Type} (m : List (Nat × α)) (k : Nat) (v d : α) : nget (nset m k v) k d = v := by
  rw [nget, lookD, look_nset, if_pos rfl, Option.getD_some]

section

variable {ι α : Type} [DecidableEq α] (key : ι → Nat) (val : ι → α) (d : α)

/-- Values written in a row leave every key that is none of theirs. -/
theorem nget_foldl_nput_ne (l : List ι) (m : List (Nat × α)) {k : Nat} (h : ∀ i ∈ l, key i ≠ k) :
    nget (l.foldl (fun m i => nput m (key i) (val i) d) m) k d = nget m k d :=
  foldl_keeps (get := fun m => nget m k d) (fun m i hi => by rw [nget_nput, if_neg (h i hi).symm]) m

/-- Values written in a row under keys of their own are all read back. -/
theorem nget_foldl_nput_of_mem {l : List ι} (m : List (Nat × α)) {j : ι} (hj : j ∈ l)
    (hinj : ∀ i ∈ l, key i = key j → i = j) :
    nget (l.foldl (fun m i => nput m (key i) (val i) d) m) (key j) d = val j := by
  refine foldl_gives (get := fun m => nget m (key j) d) (fun m i hi => ?_) hj (fun m => by rw [nget_nput, if_pos rfl]) m
  rw [nget_nput]
  split
  · rename_i e; exact .inl (by rw [hinj i hi e.symm])
  · exact .inr rfl

end

/-! ### The cells of a cup (R61, R124) -/

/-- The cells of a tile row before column u. -/
def tileCells (u v : Nat) : Nat := ((List.range u).map fun u => cellCount u v).sum

/-- The cells of a tile's rows before row v. -/
def tileRows (v : Nat) : Nat := ((List.range v).map fun w => rowSum cellCount w).sum

/-- Within a tile row, cells are numbered one by one. -/
theorem tileCells_lt : ∀ v < 16, ∀ u < 16, tileSite u v = .cell → ∀ u' < 17, u < u' → tileCells u v < tileCells u' v := by
  decide

/-- The rows of a tile come one after another. -/
theorem tileRows_le : ∀ v < 16, ∀ v' < 17, v < v' → tileRows v + tileCells 16 v ≤ tileRows v' := by decide

/-- The number of a cell counts the cells of the rows of tiles above it, of the rows above it in its own row of tiles, and
those before it in its row. -/
theorem cellIndex_eq (x y : Nat) :
    cellIndex x y = y / 16 * (10 * tileRows 16) + 10 * tileRows (y % 16) + x / 16 * tileCells 16 (y % 16) +
      tileCells (x % 16) (y % 16) := rfl

/-- What stands at a site of a cell's row is decided within its tile. -/
theorem tileSite_of_isCell {x y : Nat} (h : isCell x y = true) :
    x < 160 ∧ tileSite (x % 16) (y % 16) = .cell := by
  simp only [isCell, Bool.and_eq_true, decide_eq_true_eq, beq_iff_eq] at h
  obtain ⟨⟨hx, -⟩, hs⟩ := h
  refine ⟨hx, ?_⟩
  unfold siteAt at hs
  split at hs
  · assumption
  · exact absurd hs (by simp)
  · exact absurd hs (by simp)

/-- Cells are numbered by y, and within a row by x (R63). -/
theorem cellIndex_lt {x y x' y' : Nat} (h : isCell x y = true) (hlt : y < y' ∨ y = y' ∧ x < x') :
    cellIndex x y < cellIndex x' y' := by
  obtain ⟨hx, hc⟩ := tileSite_of_isCell h
  have hv : y % 16 < 16 := Nat.mod_lt _ (by decide)
  have hu : x % 16 < 16 := Nat.mod_lt _ (by decide)
  have hcol := tileCells_lt _ hv _ hu hc
  have hend := hcol 16 (by decide) hu
  rw [cellIndex_eq, cellIndex_eq]
  rcases hlt with hy | ⟨rfl, hx'⟩
  · have hrow : x / 16 * tileCells 16 (y % 16) ≤ 9 * tileCells 16 (y % 16) := Nat.mul_le_mul_right _ (by omega)
    rcases Nat.lt_or_ge (y / 16) (y' / 16) with ht | ht
    · have hrows := tileRows_le _ hv 16 (by decide) hv
      have htile : (y / 16 + 1) * (10 * tileRows 16) ≤ y' / 16 * (10 * tileRows 16) := Nat.mul_le_mul_right _ ht
      rw [Nat.succ_mul] at htile
      omega
    · have hrows := tileRows_le _ hv (y' % 16) (by omega) (by omega)
      rw [show y' / 16 = y / 16 by omega]
      omega
  · rcases Nat.lt_or_ge (x / 16) (x' / 16) with ht | ht
    · have htile : (x / 16 + 1) * tileCells 16 (y % 16) ≤ x' / 16 * tileCells 16 (y % 16) := Nat.mul_le_mul_right _ ht
      rw [Nat.succ_mul] at htile
      omega
    · have := hcol (x' % 16) (by omega) (by omega)
      rw [show x' / 16 = x / 16 by omega]
      omega

/-- A cell is known by its number. -/
theorem cellIndex_inj {x y x' y' : Nat} (h : isCell x y = true) (h' : isCell x' y' = true)
    (e : cellIndex x y = cellIndex x' y') : x = x' ∧ y = y' := by
  by_contra hne
  rcases Nat.lt_trichotomy y y' with hy | hy | hy
  · exact absurd e (cellIndex_lt h (.inl hy)).ne
  · rcases Nat.lt_or_gt_of_ne (fun hx => hne ⟨hx, hy⟩ : x ≠ x') with hx | hx
    · exact absurd e (cellIndex_lt h (.inr ⟨hy, hx⟩)).ne
    · exact absurd e (cellIndex_lt h' (.inr ⟨hy.symm, hx⟩)).ne'
  · exact absurd e (cellIndex_lt h' (.inl hy)).ne'

/-! ### The macrocells of a clock line (R42, R43, R53) -/

/-- The key of a macrocell's register. -/
def macKey (e : Nat × Nat × Nat) : Nat := 4 * cellIndex e.1 e.2.1 + e.2.2

/-- The listed cells are those that stand in the cup. -/
theorem mem_allCells {x y : Nat} : (x, y) ∈ allCells ↔ isCell x y = true := by
  have hb (h : isCell x y = true) : x < 160 ∧ y < 160 := by
    simp only [isCell, Bool.and_eq_true, decide_eq_true_eq] at h
    exact h.1
  simp only [allCells, List.mem_flatMap, List.mem_map, List.mem_filter, List.mem_range, Prod.mk.injEq]
  constructor
  · rintro ⟨b, -, a, ⟨-, h⟩, rfl, rfl⟩
    exact h
  · exact fun h => ⟨y, (hb h).2, x, ⟨(hb h).1, h⟩, rfl, rfl⟩

/-- What puts a macrocell on a line: its mode, its CLK field and its cell's CLK_USE bit. -/
theorem mem_lineMacs {pl : Plane} {n : Nat} {latch : Bool} {x y m : Nat} :
    (x, y, m) ∈ lineMacs pl n latch ↔
      isCell x y = true ∧ m < 4 ∧
        (if latch then mcMode pl x y m = 3 else mcMode pl x y m = 1 ∨ mcMode pl x y m = 2) ∧
        mcClk pl x y m = n ∧ clkUse pl x y n = true := by
  have hmode (a b i : Nat) : (if latch then mcMode pl a b i == 3 else mcMode pl a b i == 1 || mcMode pl a b i == 2) = true ↔
      if latch then mcMode pl a b i = 3 else mcMode pl a b i = 1 ∨ mcMode pl a b i = 2 := by
    cases latch <;> simp
  simp only [lineMacs, List.mem_flatMap, List.mem_map, List.mem_filter, List.mem_range, Prod.mk.injEq, Bool.and_eq_true,
    beq_iff_eq, Prod.exists, hmode]
  constructor
  · rintro ⟨a, b, hc, i, ⟨hi, ⟨hm, hk⟩, hu⟩, rfl, rfl, rfl⟩
    exact ⟨mem_allCells.mp hc, hi, hm, hk, hu⟩
  · rintro ⟨hc, hi, hm, hk, hu⟩
    exact ⟨x, y, mem_allCells.mpr hc, m, ⟨hi, ⟨hm, hk⟩, hu⟩, rfl, rfl, rfl⟩

/-- A register of a line is one of its flip-flops or one of its latches. -/
theorem exists_lineMacs_of_lineRegs {pl : Plane} {n : Nat} {e : Nat × Nat × Nat} (h : e ∈ lineRegs pl n) :
    ∃ l, e ∈ lineMacs pl n l := by
  rcases List.mem_append.mp h with h | h
  · exact ⟨false, h⟩
  · exact ⟨true, h⟩

/-- Macrocells that lines clock are known by their keys. -/
theorem macKey_inj {pl : Plane} {n n' : Nat} {l l' : Bool} {e e' : Nat × Nat × Nat} (h : e ∈ lineMacs pl n l)
    (h' : e' ∈ lineMacs pl n' l') (hk : macKey e = macKey e') : e = e' := by
  obtain ⟨x, y, m⟩ := e
  obtain ⟨x', y', m'⟩ := e'
  obtain ⟨hc, hm, -⟩ := mem_lineMacs.mp h
  obtain ⟨hc', hm', -⟩ := mem_lineMacs.mp h'
  simp only [macKey] at hk
  obtain ⟨rfl, rfl⟩ := cellIndex_inj hc hc' (by omega)
  rw [show m = m' by omega]

/-- A macrocell that lines clock has one line and one kind. -/
theorem lineMacs_unique {pl : Plane} {n n' : Nat} {l l' : Bool} {e : Nat × Nat × Nat} (h : e ∈ lineMacs pl n l)
    (h' : e ∈ lineMacs pl n' l') : n = n' ∧ l = l' := by
  obtain ⟨x, y, m⟩ := e
  obtain ⟨-, -, hm, hk, -⟩ := mem_lineMacs.mp h
  obtain ⟨-, -, hm', hk', -⟩ := mem_lineMacs.mp h'
  refine ⟨hk.symm.trans hk', ?_⟩
  cases l <;> cases l' <;> simp_all

end Sys2Proof.Machine
end

section
/-! PROOF. What an edge leaves of a cup beside its registers (R43, R115, R122). -/

namespace Sys2Proof.Machine

/-! ### Cups -/

/-- A cup after an update, read at any cup. -/
theorem State.cup_modCup (s : State) (c d : Nat) (f : CupSt → CupSt) :
    (s.modCup c f).cup d = if d = c then f (s.cup c) else s.cup d := s.cup_setCup c d _

/-- The updated cup. -/
@[simp] theorem State.cup_modCup_self (s : State) (c : Nat) (f : CupSt → CupSt) : (s.modCup c f).cup c = f (s.cup c) := by
  rw [cup_modCup, if_pos rfl]

/-- The cup that was put. -/
@[simp] theorem State.cup_setCup_self (s : State) (c : Nat) (x : CupSt) : (s.setCup c x).cup c = x := by
  rw [cup_setCup, if_pos rfl]

/-- From s to t nothing but cups changes. -/
def State.movesCups (s t : State) : Prop := t = { s with cups := t.cups }

/-- Two steps that change cups alone change cups alone. -/
theorem State.movesCups.trans {s t u : State} (h : s.movesCups t) (h' : t.movesCups u) : s.movesCups u := by
  unfold State.movesCups at *
  rw [h', h]

/-- Where cups alone change, the memory stands. -/
theorem State.movesCups.hbm {s t : State} (h : s.movesCups t) : t.hbm = s.hbm := (congrArg State.hbm h :)

/-- Where cups alone change, the queues stand. -/
theorem State.movesCups.queues {s t : State} (h : s.movesCups t) : t.queues = s.queues := (congrArg State.queues h :)

/-- Where cups alone change, the root cycle stands. -/
theorem State.movesCups.root {s t : State} (h : s.movesCups t) : t.root = s.root := (congrArg State.root h :)

/-- Putting a cup changes cups alone. -/
theorem State.movesCups_setCup (s : State) (c : Nat) (x : CupSt) : s.movesCups (s.setCup c x) := rfl

/-- Updating a cup changes cups alone. -/
theorem State.movesCups_modCup (s : State) (c : Nat) (f : CupSt → CupSt) : s.movesCups (s.modCup c f) := rfl

/-- A loop whose steps change cups alone changes cups alone. -/
theorem State.movesCups_foldl {ι : Type} {step : State → ι → State} {l : List ι} (h : ∀ (s : State) i, s.movesCups (step s i))
    (s : State) : s.movesCups (l.foldl step s) :=
  List.foldlRecOn (motive := fun t => s.movesCups t) l step rfl fun t ht i _ => ht.trans (h t i)

/-! ### Flip windows (R116) -/

/-- A window that reaches the receivers of a side makes them hold what they read. -/
theorem State.windowReaches_movesCups (s : State) (c sd : Nat) (pre : FabSt) : s.movesCups (s.windowReaches c sd pre) := by
  unfold State.windowReaches
  split
  · split
    · exact movesCups_foldl (fun s n => s.movesCups_modCup _ _) s
    · rfl
  · rfl

/-- It changes of a cup the held wires alone. -/
theorem State.cup_windowReaches (s : State) (c sd : Nat) (pre : FabSt) (d : Nat) :
    { (s.windowReaches c sd pre).cup d with hold := [] } = { s.cup d with hold := [] } := by
  unfold State.windowReaches
  split
  · split
    · refine foldl_keeps (get := fun s : State => { s.cup d with hold := [] }) (fun t n _ => ?_) s
      dsimp only
      rw [cup_modCup]
      split
      · rename_i e; rw [e]; rfl
      · rfl
    · rfl
  · rfl

/-! ### Captures (R122) -/

/-- A capture at an edge leaves the memory and the queues. -/
theorem State.captureEdge_rest (s : State) (c n : Nat) :
    (s.captureEdge c n).hbm = s.hbm ∧ (s.captureEdge c n).queues = s.queues := by
  have hdone (t : State) (hold : Bool) : (t.captureDone c hold).hbm = t.hbm ∧ (t.captureDone c hold).queues = t.queues := by
    unfold State.captureDone
    dsimp only
    split <;> simp
  unfold State.captureEdge
  dsimp only
  split
  · split
    · exact hdone _ _
    · exact ⟨rfl, rfl⟩
  · exact ⟨rfl, rfl⟩

/-- What a capture leaves of a cup: all but its capture latches. -/
def CupSt.uncaptured (x : CupSt) : CupSt :=
  { x with capMacs := [], capMath := [], capOut := [], capWait := [], capUnread := false, capHold := false }

/-- A capture at an edge changes of its cup the capture latches alone. -/
theorem State.cup_captureEdge (s : State) (c n : Nat) :
    ((s.captureEdge c n).cup c).uncaptured = (s.cup c).uncaptured := by
  have hdone (t : State) (hold : Bool) : ((t.captureDone c hold).cup c).uncaptured = (t.cup c).uncaptured := by
    unfold State.captureDone
    dsimp only
    split
    · rw [show ∀ u : State, (u.setFlag ⟨.cupState, c, 0⟩ 11 true).cup c = u.cup c from fun _ => rfl, cup_modCup_self]
      rfl
    · rw [cup_modCup_self]
      rfl
  unfold State.captureEdge
  dsimp only
  split
  · split
    · rw [hdone, cup_setCup_self]
      rfl
    · rw [cup_setCup_self]
      rfl
  · rfl

/-! ### Latches while their line is high (R42, R43) -/

/-- Every latch of one cup shows its value. -/
def State.setLatches (s : State) (e : Nat × List (Nat × Bool)) : State :=
  s.modCup e.1 fun x =>
    { x with fab := { x.fab with macs := e.2.foldl (fun (l : List (Nat × Bool)) v => nput l v.1 v.2 false) x.fab.macs },
             old := some (s.root, (x.instant s.root).1, (x.instant s.root).2) }

/-- The cups with open latches, and what those show. -/
def State.openCups (s : State) : List (Nat × List (Nat × Bool)) :=
  (s.cups.map (·.1)).filterMap fun c => match s.openLatches c with
    | [] => none
    | vs => some (c, vs)

/-- Latches follow cup by cup. -/
theorem State.followLatches_eq (s : State) : s.followLatches = s.openCups.foldl State.setLatches s := rfl

/-- Following latches changes cups alone. -/
theorem State.followLatches_movesCups (s : State) : s.movesCups s.followLatches := by
  rw [followLatches_eq]
  exact movesCups_foldl (fun s e => s.movesCups_modCup _ _) s

/-- Following latches changes of a cup its macrocells alone, and notes the fabric before the instant. -/
theorem State.cup_followLatches (s : State) (c : Nat) :
    { s.followLatches.cup c with fab := { (s.followLatches.cup c).fab with macs := [] }, old := none } =
      { s.cup c with fab := { (s.cup c).fab with macs := [] }, old := none } := by
  rw [followLatches_eq]
  refine foldl_keeps (get := fun s : State => { s.cup c with fab := { (s.cup c).fab with macs := [] }, old := none })
    (fun t e _ => ?_) s
  dsimp only
  rw [setLatches, cup_modCup]
  split
  · rename_i h; rw [h]
  · rfl

/-- The open latches of a cup: those of its lines that are high. -/
theorem State.mem_openLatches {s : State} {c : Nat} {v : Nat × Bool} :
    v ∈ s.openLatches c ↔ ∃ k, k < 4 ∧ s.lineHigh c k = true ∧ ∃ e ∈ lineMacs (s.cup c).active k true,
      v = (macKey e, s.sigVal .now sigFuel c e) := by
  simp only [openLatches, List.mem_map, List.mem_flatMap, List.mem_filter, List.mem_range]
  constructor
  · rintro ⟨e, ⟨k, ⟨hk, hh⟩, he⟩, rfl⟩
    exact ⟨k, hk, hh, e, he, rfl⟩
  · rintro ⟨k, hk, hh, e, he, rfl⟩
    exact ⟨e, ⟨k, ⟨hk, hh⟩, he⟩, rfl⟩

/-- What the open cups list is what their latches show. -/
theorem State.mem_openCups {s : State} {e : Nat × List (Nat × Bool)} (h : e ∈ s.openCups) : e.2 = s.openLatches e.1 := by
  obtain ⟨c, -, hc⟩ := List.mem_filterMap.mp h
  split at hc
  · exact absurd hc (by simp)
  · rename_i vs hvs
    simp only [Option.some.injEq] at hc
    subst hc
    rfl

/-- A cup with an open latch is one of the cups with open latches. -/
theorem State.openCups_of_mem {s : State} {c : Nat} {v : Nat × Bool} (h : v ∈ s.openLatches c) :
    (c, s.openLatches c) ∈ s.openCups := by
  obtain ⟨k, -, hh, -⟩ := mem_openLatches.mp h
  have hc : c ∈ s.cups.map (·.1) := by
    by_contra hn
    have hdflt : s.cup c = {} := by
      have hlook : look s.cups c = none := by
        generalize s.cups = l at hn
        induction l with
        | nil => rfl
        | cons e r ih =>
          simp only [List.map_cons, List.mem_cons, not_or] at hn
          rw [look, if_neg hn.1, ih hn.2]
      rw [State.cup, nget, lookD, hlook]
      rfl
    unfold State.lineHigh at hh
    rw [hdflt] at hh
    exact absurd hh (by simp [look])
  refine List.mem_filterMap.mpr ⟨c, hc, ?_⟩
  split
  · rename_i e; rw [e] at h; exact absurd h (by simp)
  · rfl

/-- Setting the latches of another cup leaves a cup. -/
theorem State.cup_setLatches_ne (s : State) {c : Nat} {e : Nat × List (Nat × Bool)} (h : e.1 ≠ c) :
    (s.setLatches e).cup c = s.cup c := by
  rw [setLatches, cup_modCup, if_neg h.symm]

/-- The macrocells of a cup whose latches are set. -/
theorem State.macs_setLatches (s : State) (c : Nat) (l : List (Nat × Bool)) :
    ((s.setLatches (c, l)).cup c).fab.macs = l.foldl (fun m v => nput m v.1 v.2 false) (s.cup c).fab.macs := by
  rw [setLatches, cup_modCup_self]

/-- A macrocell that is no latch of a high line stays as it is. -/
theorem State.followLatches_keeps (s : State) (c j : Nat)
    (h : ∀ k, s.lineHigh c k = true → ∀ e ∈ lineMacs (s.cup c).active k true, macKey e ≠ j) :
    nget (s.followLatches.cup c).fab.macs j false = nget (s.cup c).fab.macs j false := by
  rw [followLatches_eq]
  refine foldl_keeps (get := fun s : State => nget (s.cup c).fab.macs j false) (fun t e he => ?_) s
  by_cases hc : e.1 = c
  · obtain ⟨a, l⟩ := e
    obtain rfl : a = c := hc
    obtain rfl : l = s.openLatches a := mem_openCups he
    rw [macs_setLatches]
    refine nget_foldl_nput_ne _ _ _ _ _ fun v hv => ?_
    obtain ⟨k, -, hh, e, he, rfl⟩ := mem_openLatches.mp hv
    exact h k hh e he
  · rw [cup_setLatches_ne t hc]

/-- A latch whose line is high shows what it takes (R42, R43). -/
theorem State.followLatches_latch (s : State) {c k : Nat} (hh : s.lineHigh c k = true) (hk : k < 4) {e : Nat × Nat × Nat}
    (he : e ∈ lineMacs (s.cup c).active k true) :
    nget (s.followLatches.cup c).fab.macs (macKey e) false = s.sigVal .now sigFuel c e := by
  have hv : (macKey e, s.sigVal .now sigFuel c e) ∈ s.openLatches c := mem_openLatches.mpr ⟨k, hk, hh, e, he, rfl⟩
  have hset (t : State) : nget ((t.setLatches (c, s.openLatches c)).cup c).fab.macs (macKey e) false =
      s.sigVal .now sigFuel c e := by
    rw [macs_setLatches]
    refine nget_foldl_nput_of_mem Prod.fst Prod.snd false _ hv fun v hv' hkey => ?_
    obtain ⟨k', -, -, e', he', rfl⟩ := mem_openLatches.mp hv'
    rw [macKey_inj he' he hkey]
  rw [followLatches_eq]
  refine foldl_gives (get := fun s : State => nget (s.cup c).fab.macs (macKey e) false) (fun t e' he' => ?_)
    (openCups_of_mem hv) hset s
  by_cases hc : e'.1 = c
  · obtain ⟨a, l⟩ := e'
    obtain rfl : a = c := hc
    obtain rfl : l = s.openLatches a := mem_openCups he'
    exact .inl (hset t)
  · rw [cup_setLatches_ne t hc]
    exact .inr rfl

end Sys2Proof.Machine
end

section
/-! PROOF. The registers and blocks of a cup at an edge of a line (R43, R68, R73, R79, R115). -/

namespace Sys2Proof.Machine

/-! ### The parts of a functional edge -/

/-- What the D or T flip-flop of a macrocell takes at an edge (R43). -/
def State.macNext (s : State) (c : Nat) (e : Nat × Nat × Nat) : Bool :=
  regNext (s.cup c).active e.1 e.2.1 e.2.2 (nget (s.fabPre c).macs (macKey e) false)
    (fun i => s.cellInput .before c e.1 e.2.1 i)
    (chainAllowed e.1 e.2.1 && chIn (s.cup c).active e.1 e.2.1 && s.sig c (e.1, e.2.1 + 1, 20))

/-- What a math block takes at an edge (R73). -/
def State.mathNext (s : State) (c b : Nat) : MathSt :=
  mathStep (s.cup c).active (s.fabPre c) b (s.mathPins c b 0) (s.mathPins c b 1) (s.mathPins c b 2) (s.mathPins c b 3)

/-- A port of a block RAM whose line has the edge (R68). -/
def State.bramPortEdge (s : State) (c n b : Nat) (portB : Bool) (e : FabSt × List (Nat × BitVec 64)) :
    FabSt × List (Nat × BitVec 64) :=
  let w := (s.cup c).active.bramW b
  if (if portB then bits w 7 6 else bits w 5 4) = n then
    bramPort (s.cup c).active (s.fabPre c) e.1 e.2 b portB
      (bramAct w portB (s.bramPins c b 0) (s.bramPins c b 1) (s.bramPins c b 2) (s.bramPins c b 3))
  else e

/-- A block RAM at an edge: port A, then port B. -/
def State.bramEdge (s : State) (c n : Nat) (e : FabSt × List (Nat × BitVec 64)) (b : Nat) :
    FabSt × List (Nat × BitVec 64) :=
  s.bramPortEdge c n b true (s.bramPortEdge c n b false e)

/-- A block RAM whose ports act: it is in use, no tap, and no clear at flip runs. -/
def CupSt.bramActs (x : CupSt) (b : Nat) : Bool :=
  bit (x.active.bramW b) 2 && !x.active.allTaps.contains b && !x.clearingBlock b

/-- The fabric after the flip-flops of a line. -/
def State.macsEdge (s : State) (c n : Nat) (f : FabSt) : FabSt :=
  (lineMacs (s.cup c).active n false).foldl
    (fun (f : FabSt) e => { f with macs := nput f.macs (macKey e) (s.macNext c e) false }) f

/-- The fabric after the math blocks of a line. -/
def State.mathEdge (s : State) (c n : Nat) (f : FabSt) : FabSt :=
  ((List.range 400).filter fun b => mathRuns (s.cup c).active b && mathLine (s.cup c).active b == n).foldl
    (fun (f : FabSt) b => { f with math := nput f.math b (s.mathNext c b) {} }) f

/-- The fabric after the block RAMs, and what their ports A have written at this instant. -/
def State.bramsEdge (s : State) (c n : Nat) (e : FabSt × List (Nat × BitVec 64)) : FabSt × List (Nat × BitVec 64) :=
  ((List.range 200).filter fun b => (s.cup c).bramActs b).foldl (s.bramEdge c n) e

/-- The fabric after the crossings of a line. -/
def State.crossEdge (s : State) (c n : Nat) (pre f : FabSt) : FabSt :=
  ((dieSides (c % 4)).filter fun sd => (s.cup c).active.xclk sd == n).foldl (fun f sd => s.crossStep c sd pre f) f

/-- The receivers across the sides of a line learn of a flip window. -/
def State.windowsReach (s : State) (c n : Nat) (pl : Plane) (pre : FabSt) : State :=
  ((dieSides (c % 4)).filter fun sd => pl.xclk sd == n).foldl (fun s sd => s.windowReaches c sd pre) s

/-- The fabric of a cup after its blocks, before the crossings. -/
def State.blocksEdge (s : State) (c n : Nat) : FabSt × List (Nat × BitVec 64) :=
  s.bramsEdge c n (s.mathEdge c n (s.macsEdge c n (s.cup c).fab), ((s.cup c).instant s.root).2)

/-- A functional edge: flip-flops, math blocks, block RAMs, crossings, windows. -/
theorem State.lineEdge_eq (s : State) (c n : Nat) :
    s.lineEdge c n =
      (s.setCup c { s.cup c with fab := s.crossEdge c n (s.fabPre c) (s.blocksEdge c n).1,
                                 old := some (s.root, s.fabPre c, (s.blocksEdge c n).2) }).windowsReach c n
        (s.cup c).active (s.fabPre c) := rfl

/-- The fabric after E1 of a line, before the crossings. -/
def State.initEdge (s : State) (c n : Nat) : FabSt :=
  let f := loadInit (s.cup c).active n (s.cup c).fab
  { f with waitE1 := f.waitE1.filter (fun k => k != n), waitE2 := f.waitE2 ++ [n] }

/-- E1 of a line: INIT, crossings, windows (R115). -/
theorem State.edgeE1_eq (s : State) (c n : Nat) :
    s.edgeE1 c n =
      (s.setCup c { s.cup c with fab := s.crossEdge c n (s.fabPre c) (s.initEdge c n),
                                 old := some (s.root, s.fabPre c, ((s.cup c).instant s.root).2) }).windowsReach c n
        (s.cup c).active (s.fabPre c) := rfl

/-! ### What each part leaves -/

section

variable {ι : Type} (key : ι → Nat)

/-- Macrocells written in a row change the macrocells alone. -/
theorem foldl_macs (val : ι → Bool) (l : List ι) (f : FabSt) :
    l.foldl (fun (f : FabSt) i => { f with macs := nput f.macs (key i) (val i) false }) f =
      { f with macs := l.foldl (fun m i => nput m (key i) (val i) false) f.macs } := by
  induction l generalizing f with
  | nil => rfl
  | cons a l ih => exact ih _

/-- Math blocks written in a row change the math blocks alone. -/
theorem foldl_math (val : ι → MathSt) (l : List ι) (f : FabSt) :
    l.foldl (fun (f : FabSt) i => { f with math := nput f.math (key i) (val i) {} }) f =
      { f with math := l.foldl (fun m i => nput m (key i) (val i) {}) f.math } := by
  induction l generalizing f with
  | nil => rfl
  | cons a l ih => exact ih _

/-- Crossing registers written in a row change them alone. -/
theorem foldl_cross (v₁ v₂ : ι → Bool) (l : List ι) (f : FabSt) :
    l.foldl (fun (f : FabSt) i => { f with cross2 := nput f.cross2 (key i) (v₂ i) false,
                                           cross1 := nput f.cross1 (key i) (v₁ i) false }) f =
      { f with cross2 := l.foldl (fun m i => nput m (key i) (v₂ i) false) f.cross2,
               cross1 := l.foldl (fun m i => nput m (key i) (v₁ i) false) f.cross1 } := by
  induction l generalizing f with
  | nil => rfl
  | cons a l ih => exact ih _

end

/-- The fabric but for its block RAMs. -/
def FabSt.withoutBram (f : FabSt) : FabSt := { f with bram := [], bramErr := [], bramOut := [] }

/-- An edge of a block-RAM port changes block RAMs alone. -/
theorem bramPort_withoutBram (pl : Plane) (pre f : FabSt) (aw : List (Nat × BitVec 64)) (b : Nat) (portB : Bool)
    (act : BramAct) : (bramPort pl pre f aw b portB act).1.withoutBram = f.withoutBram := by
  unfold bramPort
  dsimp only
  split
  · rfl
  · split <;> rfl

/-- The block RAMs of a line change block RAMs alone. -/
theorem State.bramsEdge_withoutBram (s : State) (c n : Nat) (e : FabSt × List (Nat × BitVec 64)) :
    (s.bramsEdge c n e).1.withoutBram = e.1.withoutBram := by
  have hport (b : Nat) (p : Bool) (e : FabSt × List (Nat × BitVec 64)) :
      (s.bramPortEdge c n b p e).1.withoutBram = e.1.withoutBram := by
    unfold State.bramPortEdge
    dsimp only
    generalize (if p = true then bits ((s.cup c).active.bramW b) 7 6 else bits ((s.cup c).active.bramW b) 5 4) = k
    split
    · exact bramPort_withoutBram _ _ _ _ _ _ _
    · rfl
  exact foldl_keeps (get := fun e : FabSt × List (Nat × BitVec 64) => e.1.withoutBram)
    (fun e b _ => (hport b true _).trans (hport b false _)) e

/-- The fabric but for its crossing registers. -/
def FabSt.withoutCross (f : FabSt) : FabSt := { f with cross1 := [], cross2 := [], crossF1 := [], crossF2 := [] }

/-- An edge of one side's crossings changes the crossing registers alone (R79). -/
theorem State.crossStep_withoutCross (s : State) (c sd : Nat) (pre f : FabSt) :
    (s.crossStep c sd pre f).withoutCross = f.withoutCross := by
  unfold State.crossStep
  dsimp only
  rw [foldl_cross (fun e : Nat × Nat => 640 * sd + 4 * e.1 + e.2) (fun e => s.sig c (edgeNode sd e.1 e.2))
    fun e => nget pre.cross1 (640 * sd + 4 * e.1 + e.2) false]
  simp only [FabSt.withoutCross]

/-- Crossings change the crossing registers alone. -/
theorem State.crossEdge_withoutCross (s : State) (c n : Nat) (pre f : FabSt) :
    (s.crossEdge c n pre f).withoutCross = f.withoutCross :=
  foldl_keeps (get := FabSt.withoutCross) (fun f sd _ => s.crossStep_withoutCross c sd pre f) f

/-- Windows that reach the receivers change cups alone. -/
theorem State.windowsReach_movesCups (s : State) (c n : Nat) (pl : Plane) (pre : FabSt) :
    s.movesCups (s.windowsReach c n pl pre) :=
  movesCups_foldl (fun s sd => s.windowReaches_movesCups c sd pre) s

/-- Windows that reach the receivers change of a cup the held wires alone. -/
theorem State.cup_windowsReach (s : State) (c n : Nat) (pl : Plane) (pre : FabSt) (d : Nat) :
    { (s.windowsReach c n pl pre).cup d with hold := [] } = { s.cup d with hold := [] } :=
  foldl_keeps (get := fun s : State => { s.cup d with hold := [] }) (fun s sd _ => s.cup_windowReaches c sd pre d) s

/-- A functional edge changes cups alone. -/
theorem State.lineEdge_movesCups (s : State) (c n : Nat) : s.movesCups (s.lineEdge c n) := by
  rw [lineEdge_eq]
  exact (s.movesCups_setCup c _).trans (windowsReach_movesCups _ _ _ _ _)

/-- E1 changes cups alone. -/
theorem State.edgeE1_movesCups (s : State) (c n : Nat) : s.movesCups (s.edgeE1 c n) := by
  rw [edgeE1_eq]
  exact (s.movesCups_setCup c _).trans (windowsReach_movesCups _ _ _ _ _)

/-- What a functional edge leaves of its cup. -/
theorem State.cup_lineEdge (s : State) (c n : Nat) :
    { (s.lineEdge c n).cup c with hold := [] } =
      { s.cup c with fab := s.crossEdge c n (s.fabPre c) (s.blocksEdge c n).1,
                     old := some (s.root, s.fabPre c, (s.blocksEdge c n).2), hold := [] } := by
  rw [lineEdge_eq, cup_windowsReach, cup_setCup_self]

/-- What E1 leaves of its cup. -/
theorem State.cup_edgeE1 (s : State) (c n : Nat) :
    { (s.edgeE1 c n).cup c with hold := [] } =
      { s.cup c with fab := s.crossEdge c n (s.fabPre c) (s.initEdge c n),
                     old := some (s.root, s.fabPre c, ((s.cup c).instant s.root).2), hold := [] } := by
  rw [edgeE1_eq, cup_windowsReach, cup_setCup_self]

/-! ### E1 (R115) -/

/-- Macrocells take INIT under their keys (R45). -/
theorem initMacs_eq (pl : Plane) (l : List (Nat × Nat × Nat)) (f : FabSt) :
    initMacs pl l f =
      { f with macs := l.foldl (fun m e => nput m (macKey e) (mcInit pl e.1 e.2.1 e.2.2) false) f.macs } :=
  foldl_macs macKey (fun e => mcInit pl e.1 e.2.1 e.2.2) l f

/-- A register of the line holds INIT after E1. -/
theorem loadInit_macs {pl : Plane} {n : Nat} (f : FabSt) {e : Nat × Nat × Nat} (he : e ∈ lineRegs pl n) :
    nget (loadInit pl n f).macs (macKey e) false = mcInit pl e.1 e.2.1 e.2.2 := by
  obtain ⟨l, hl⟩ := exists_lineMacs_of_lineRegs he
  unfold loadInit
  dsimp only
  rw [foldl_math fun b => b, initMacs_eq]
  refine nget_foldl_nput_of_mem macKey _ false _ he fun a ha hk => ?_
  obtain ⟨l', hl'⟩ := exists_lineMacs_of_lineRegs ha
  exact macKey_inj hl' hl hk

/-- E1 of a line leaves of the macrocells and the waiting lines what `initEdge` says. -/
theorem State.fab_edgeE1 (s : State) (c n : Nat) :
    ((s.edgeE1 c n).cup c).fab.withoutCross = (s.initEdge c n).withoutCross := by
  have h := congrArg (fun x : CupSt => x.fab.withoutCross) (s.cup_edgeE1 c n)
  exact h.trans (s.crossEdge_withoutCross c n _ _)

end Sys2Proof.Machine
end

section
/-! PROOF. What the flip-flops, math blocks and block RAMs of a line take at a functional edge (R43, R68, R73). -/

namespace Sys2Proof.Machine

/-! ### Block RAMs (R66 to R69) -/

/-- What a block RAM holds: each word, its mark, and the bits of it that port A has written at this instant; and what its
ports show. -/
def bramOf (b : Nat) (e : FabSt × List (Nat × BitVec 64)) : (Fin 2048 → BitVec 64 × Nat × BitVec 64) × BramOut :=
  (fun a => (nget e.1.bram (2048 * b + a) 0, nget e.1.bramErr (2048 * b + a) 0, nget e.2 (2048 * b + a) 0),
    nget e.1.bramOut b {})

/-- An address of a port falls in its own block. -/
theorem bramWord_bramAct (w : Word) (portB : Bool) (pn pe ps pw b : Nat) :
    ∃ a : Fin 2048, bramWord b (bits w 1 0) (bramAct w portB pn pe ps pw).addr = 2048 * b + a := by
  have hw : bits w 1 0 < 4 := bits_lt w 1 0
  suffices h : (bramAct w portB pn pe ps pw).addr / (64 / (8 * 2 ^ bits w 1 0)) < 2048 from ⟨⟨_, h⟩, rfl⟩
  unfold bramAct
  dsimp only
  generalize (if portB = true then ps else pn) = adr
  generalize bits w 1 0 = k at hw
  interval_cases k <;> omega

/-- A port leaves the other blocks. -/
theorem bramOf_bramPort_ne (pl : Plane) (pre : FabSt) (e : FabSt × List (Nat × BitVec 64)) {b d : Nat} (hd : d ≠ b)
    (portB : Bool) {act : BramAct} (ha : ∃ a : Fin 2048, bramWord b (bits (pl.bramW b) 1 0) act.addr = 2048 * b + a) :
    bramOf d (bramPort pl pre e.1 e.2 b portB act) = bramOf d e := by
  obtain ⟨a, ha⟩ := ha
  have hne (i : Fin 2048) : 2048 * d + i ≠ bramWord b (bits (pl.bramW b) 1 0) act.addr := by omega
  unfold bramPort
  dsimp only
  split
  · rfl
  · split
    · have hput (m : List (Nat × BitVec 64)) (x : Nat) (keep : BitVec 64) (i : Fin 2048) :
          nget (bramPut m b (bits (pl.bramW b) 1 0) act.addr x keep) (2048 * d + i) 0 = nget m (2048 * d + i) 0 := by
        unfold bramPut
        exact (nget_nput _ _ _ _ _).trans (if_neg (hne i))
      cases portB <;> simp only [bramOf, nget_nput, hne, hd, hput, reduceIte, Bool.false_eq_true]
    · simp only [bramOf, nget_nput, hd, reduceIte]

/-- What a port does to its block hangs on the block alone. -/
theorem bramOf_bramPort_congr (pl : Plane) (pre : FabSt) {e e' : FabSt × List (Nat × BitVec 64)} {b : Nat}
    (he : bramOf b e = bramOf b e') (portB : Bool) {act : BramAct}
    (ha : ∃ a : Fin 2048, bramWord b (bits (pl.bramW b) 1 0) act.addr = 2048 * b + a) :
    bramOf b (bramPort pl pre e.1 e.2 b portB act) = bramOf b (bramPort pl pre e'.1 e'.2 b portB act) := by
  obtain ⟨a, ha⟩ := ha
  simp only [bramOf, Prod.mk.injEq] at he
  obtain ⟨hwords, hout⟩ := he
  have hword (i : Fin 2048) : nget e.1.bram (2048 * b + i) 0 = nget e'.1.bram (2048 * b + i) 0 ∧
      nget e.1.bramErr (2048 * b + i) 0 = nget e'.1.bramErr (2048 * b + i) 0 ∧
      nget e.2 (2048 * b + i) 0 = nget e'.2 (2048 * b + i) 0 := by
    simpa only [Prod.mk.injEq] using congrFun hwords i
  unfold bramPort
  dsimp only
  rw [ha, hout]
  split
  · simp only [bramOf, hword, hout]
  · split
    · have hput (x : Nat) (keep : BitVec 64) (i : Fin 2048) :
          nget (bramPut e.1.bram b (bits (pl.bramW b) 1 0) act.addr x keep) (2048 * b + i) 0 =
            nget (bramPut e'.1.bram b (bits (pl.bramW b) 1 0) act.addr x keep) (2048 * b + i) 0 := by
        unfold bramPut
        unfold bramWord at ha
        dsimp only
        rw [ha, nget_nput, nget_nput, (hword a).1, (hword i).1]
      cases portB <;> simp only [bramOf, nget_nput, hput, hword, reduceIte, Bool.false_eq_true]
    · simp only [bramOf, nget_nput, hword, reduceIte]

/-- A block RAM's port at an edge leaves the other blocks. -/
theorem State.bramOf_bramPortEdge_ne (s : State) (c n : Nat) {b d : Nat} (hd : d ≠ b) (portB : Bool)
    (e : FabSt × List (Nat × BitVec 64)) : bramOf d (s.bramPortEdge c n b portB e) = bramOf d e := by
  unfold State.bramPortEdge
  dsimp only
  rw [apply_ite (bramOf d), bramOf_bramPort_ne _ _ _ hd _ (bramWord_bramAct _ _ _ _ _ _ _), ite_self]

/-- What a block RAM's port does to its block at an edge hangs on the block alone. -/
theorem State.bramOf_bramPortEdge_congr (s : State) (c n : Nat) {b : Nat} (portB : Bool)
    {e e' : FabSt × List (Nat × BitVec 64)} (he : bramOf b e = bramOf b e') :
    bramOf b (s.bramPortEdge c n b portB e) = bramOf b (s.bramPortEdge c n b portB e') := by
  unfold State.bramPortEdge
  dsimp only
  rw [apply_ite (bramOf b), apply_ite (bramOf b), he,
    bramOf_bramPort_congr _ _ he _ (bramWord_bramAct _ _ _ _ _ _ _)]

/-- After the block RAMs of a line, one that acts holds what its own two ports leave, and any other what it held. -/
theorem State.bramOf_bramsEdge (s : State) (c n : Nat) {b : Nat} (hb : b < 200) {e e' : FabSt × List (Nat × BitVec 64)}
    (he : bramOf b e = bramOf b e') :
    bramOf b (s.bramsEdge c n e) = bramOf b (if (s.cup c).bramActs b then s.bramEdge c n e' b else e') := by
  have hne (e : FabSt × List (Nat × BitVec 64)) (i : Nat) (hi : i ≠ b) :
      bramOf b (s.bramEdge c n e i) = bramOf b e :=
    (s.bramOf_bramPortEdge_ne c n hi.symm true _).trans (s.bramOf_bramPortEdge_ne c n hi.symm false e)
  have hcongr {e e' : FabSt × List (Nat × BitVec 64)} (h : bramOf b e = bramOf b e') :
      bramOf b (s.bramEdge c n e b) = bramOf b (s.bramEdge c n e' b) :=
    s.bramOf_bramPortEdge_congr c n true (s.bramOf_bramPortEdge_congr c n false h)
  unfold State.bramsEdge
  split
  · rename_i hact
    have hmem : b ∈ (List.range 200).filter fun b => (s.cup c).bramActs b :=
      List.mem_filter.mpr ⟨List.mem_range.mpr hb, hact⟩
    exact (foldl_once (List.nodup_range.filter _) hmem (fun e i _ hi => hne e i hi) (fun _ _ => hcongr) e).trans (hcongr he)
  · rename_i hact
    refine (foldl_keeps (get := bramOf b) (fun e i hi => hne e i ?_) e).trans he
    rintro rfl
    exact hact (List.mem_filter.mp hi).2

/-! ### The blocks of a line together -/

/-- The flip-flops of a line change the macrocells alone. -/
theorem State.macsEdge_eq (s : State) (c n : Nat) (f : FabSt) :
    s.macsEdge c n f =
      { f with macs := (lineMacs (s.cup c).active n false).foldl (fun m e => nput m (macKey e) (s.macNext c e) false)
                         f.macs } :=
  foldl_macs macKey (s.macNext c) _ f

/-- The math blocks of a line change the math blocks alone. -/
theorem State.mathEdge_eq (s : State) (c n : Nat) (f : FabSt) :
    s.mathEdge c n f =
      { f with math := ((List.range 400).filter fun b => mathRuns (s.cup c).active b &&
                         mathLine (s.cup c).active b == n).foldl (fun m b => nput m b (s.mathNext c b) {}) f.math } :=
  foldl_math (fun b => b) (s.mathNext c) _ f

/-- Beside the block RAMs the blocks of a line leave what its flip-flops and math blocks leave. -/
theorem State.blocksEdge_withoutBram (s : State) (c n : Nat) :
    (s.blocksEdge c n).1.withoutBram = (s.mathEdge c n (s.macsEdge c n (s.cup c).fab)).withoutBram :=
  s.bramsEdge_withoutBram c n _

/-- A flip-flop of the line takes its next value (R43). -/
theorem State.blocksEdge_macs (s : State) (c n : Nat) {e : Nat × Nat × Nat}
    (he : e ∈ lineMacs (s.cup c).active n false) : nget (s.blocksEdge c n).1.macs (macKey e) false = s.macNext c e := by
  have h : (s.blocksEdge c n).1.macs = (s.mathEdge c n (s.macsEdge c n (s.cup c).fab)).macs :=
    (congrArg FabSt.macs (s.blocksEdge_withoutBram c n) :)
  rw [h, mathEdge_eq, macsEdge_eq]
  exact nget_foldl_nput_of_mem macKey _ false _ he fun i hi hk => macKey_inj hi he hk

/-- A math block of the line takes its next value, and any other keeps its own (R73). -/
theorem State.blocksEdge_math (s : State) (c n : Nat) {b : Nat} (hb : b < 400) :
    nget (s.blocksEdge c n).1.math b {} =
      if mathRuns (s.cup c).active b && mathLine (s.cup c).active b == n then s.mathNext c b
      else nget (s.cup c).fab.math b {} := by
  have h : (s.blocksEdge c n).1.math = (s.mathEdge c n (s.macsEdge c n (s.cup c).fab)).math :=
    (congrArg FabSt.math (s.blocksEdge_withoutBram c n) :)
  rw [h, mathEdge_eq, macsEdge_eq]
  split
  · rename_i hline
    exact nget_foldl_nput_of_mem (fun b => b) (s.mathNext c) {} _
      (List.mem_filter.mpr ⟨List.mem_range.mpr hb, hline⟩) fun i _ hi => hi
  · rename_i hline
    refine nget_foldl_nput_ne (fun b => b) (s.mathNext c) {} _ _ fun i hi e => ?_
    exact hline (e ▸ (List.mem_filter.mp hi).2)

/-- A block RAM that acts holds what its ports leave of the state before the edges so far, and any other what it held. -/
theorem State.blocksEdge_bram (s : State) (c n : Nat) {b : Nat} (hb : b < 200) :
    bramOf b (s.blocksEdge c n) =
      bramOf b (if (s.cup c).bramActs b then s.bramEdge c n ((s.cup c).fab, ((s.cup c).instant s.root).2) b
        else ((s.cup c).fab, ((s.cup c).instant s.root).2)) := by
  refine s.bramOf_bramsEdge c n hb ?_
  rw [mathEdge_eq, macsEdge_eq]
  rfl

end Sys2Proof.Machine
end

section
/-! PROOF. A clock edge as a whole: what follows the edge of the registers and blocks, and the two kinds of edge (R43,
R115, R122). -/

namespace Sys2Proof.Machine

/-! ### What follows the edge of the registers and blocks -/

/-- The edge is noted: its toggles, and its root cycle. -/
def State.noteEdge (s : State) (old : CupSt) (c n : Nat) : State :=
  s.modCup c fun x => { x.countToggles old n with lastEdge := nset x.lastEdge n s.root }

/-- What follows: open latches follow, a capture due is taken, and a busy cup is not idle. -/
def State.endEdge (s : State) (busy : Bool) (old : CupSt) (c n : Nat) : State :=
  let t := (s.noteEdge old c n).followLatches.captureEdge c n
  if busy || t.portWork c || (t.cup c).awake then t.modCup c fun x => { x with idleSince := t.tick } else t

/-- A held cup that RELEASE lets go on is held no more. -/
def State.letGo (s : State) (c : Nat) : State :=
  if s.releasing c then (s.setFlag ⟨.cupState, c, 0⟩ 11 false).setFlag ⟨.cupCap, c, 0⟩ 2 false else s

/-- A clock edge is E1 or a functional edge, and what follows. -/
theorem State.clockEdge_eq (s : State) (c n : Nat) :
    s.clockEdge c n =
      (if ((s.letGo c).cup c).fab.waitE1.contains n then (s.letGo c).edgeE1 c n else (s.letGo c).funcEdge c n).endEdge
        (s.portWork c) (s.cup c) c n := rfl

/-- A cup but for what follows an edge may change. -/
def CupSt.edgeRest (x : CupSt) : CupSt :=
  { x.uncaptured with fab := { x.fab with macs := [] }, old := none, toggles := 0, chances := 0, lastEdge := [],
                      idleSince := 0 }

/-- The idle time is no part of the rest. -/
theorem CupSt.edgeRest_of_idle {x y : CupSt} (h : { x with idleSince := 0 } = { y with idleSince := 0 }) :
    x.edgeRest = y.edgeRest := (congrArg CupSt.edgeRest h :)

/-- The capture latches are no part of the rest. -/
theorem CupSt.edgeRest_of_uncaptured {x y : CupSt} (h : x.uncaptured = y.uncaptured) : x.edgeRest = y.edgeRest :=
  (congrArg CupSt.edgeRest h :)

/-- The macrocells, and the fabric before the instant, are no part of the rest. -/
theorem CupSt.edgeRest_of_latches {x y : CupSt}
    (h : { x with fab := { x.fab with macs := [] }, old := none } = { y with fab := { y.fab with macs := [] }, old := none }) :
    x.edgeRest = y.edgeRest := (congrArg CupSt.edgeRest h :)

variable (s : State) (busy : Bool) (old : CupSt) (c n : Nat)

/-- Beside its idle time a cup after an edge is what the capture leaves. -/
theorem State.cup_endEdge :
    { (s.endEdge busy old c n).cup c with idleSince := 0 } =
      { ((s.noteEdge old c n).followLatches.captureEdge c n).cup c with idleSince := 0 } := by
  unfold State.endEdge
  dsimp only
  split
  · rw [cup_modCup_self]
  · rfl

/-- What follows an edge leaves the rest of its cup. -/
theorem State.endEdge_edgeRest : ((s.endEdge busy old c n).cup c).edgeRest = (s.cup c).edgeRest := by
  have hend := CupSt.edgeRest_of_idle (s.cup_endEdge busy old c n)
  have hcap := CupSt.edgeRest_of_uncaptured ((s.noteEdge old c n).followLatches.cup_captureEdge c n)
  have hlatch := CupSt.edgeRest_of_latches ((s.noteEdge old c n).cup_followLatches c)
  have hnote : ((s.noteEdge old c n).cup c).edgeRest = (s.cup c).edgeRest := by
    rw [noteEdge, cup_modCup_self]
    rfl
  rw [hend, hcap, hlatch, hnote]

/-- What follows an edge leaves the memory and the queues. -/
theorem State.endEdge_hbm_queues :
    (s.endEdge busy old c n).hbm = s.hbm ∧ (s.endEdge busy old c n).queues = s.queues := by
  obtain ⟨hh, hq⟩ := (s.noteEdge old c n).followLatches.captureEdge_rest c n
  have hmoves : s.movesCups (s.noteEdge old c n).followLatches :=
    (s.movesCups_modCup c _).trans (s.noteEdge old c n).followLatches_movesCups
  rw [hmoves.hbm] at hh
  rw [hmoves.queues] at hq
  unfold State.endEdge
  dsimp only
  split
  · rw [modCup_hbm, modCup_queues]
    exact ⟨hh, hq⟩
  · exact ⟨hh, hq⟩

/-- The edge's root cycle is kept. -/
theorem State.endEdge_lastEdge : nget ((s.endEdge busy old c n).cup c).lastEdge n 0 = s.root := by
  have hend : ((s.endEdge busy old c n).cup c).lastEdge = _ := (congrArg CupSt.lastEdge (s.cup_endEdge busy old c n) :)
  have hcap := (congrArg CupSt.lastEdge ((s.noteEdge old c n).followLatches.cup_captureEdge c n) :)
  have hlatch := (congrArg CupSt.lastEdge ((s.noteEdge old c n).cup_followLatches c) :)
  have hnote : ((s.noteEdge old c n).cup c).lastEdge = nset (s.cup c).lastEdge n s.root := by
    rw [noteEdge, cup_modCup_self]
  rw [hend.trans (hcap.trans (hlatch.trans hnote)), nget_nset_self]

/-- A macrocell that is no latch of a high line stays as the edge left it. -/
theorem State.endEdge_macs (j : Nat)
    (h : ∀ k, (s.noteEdge old c n).lineHigh c k = true → ∀ e ∈ lineMacs (s.cup c).active k true, macKey e ≠ j) :
    nget ((s.endEdge busy old c n).cup c).fab.macs j false = nget (s.cup c).fab.macs j false := by
  have hend : ((s.endEdge busy old c n).cup c).fab = _ := (congrArg CupSt.fab (s.cup_endEdge busy old c n) :)
  have hcap := (congrArg CupSt.fab ((s.noteEdge old c n).followLatches.cup_captureEdge c n) :)
  have hnote : (s.noteEdge old c n).cup c = _ := s.cup_modCup_self c _
  have hact : ((s.noteEdge old c n).cup c).active = (s.cup c).active := by rw [hnote]; rfl
  have hfab : ((s.noteEdge old c n).cup c).fab = (s.cup c).fab := by rw [hnote]; rfl
  rw [hend.trans hcap]
  exact ((s.noteEdge old c n).followLatches_keeps c j (hact ▸ h)).trans (by rw [hfab])

end Sys2Proof.Machine
end

section
/-! PROOF. E1 and a functional edge of a line, as the command gives them (R43, R115). -/

namespace Sys2Proof.Machine

/-- An edge that falls is carried out. -/
theorem exec_fabricClockEdge {s : State} {c : Fin 192} {n : Fin 4} (h : s.edgeFalls c.val n.val = true) :
    exec (.fabricClockEdge c n) s = .next (s.clockEdge c.val n.val) := by
  rw [show exec (.fabricClockEdge c n) s = execFabricClockEdge c n s from rfl, execFabricClockEdge, if_pos h]

/-- Letting a held cup go changes registers alone. -/
theorem State.letGo_rest (s : State) (c : Nat) :
    (s.letGo c).cups = s.cups ∧ (s.letGo c).root = s.root ∧ (s.letGo c).hbm = s.hbm := by
  unfold State.letGo
  split
  · exact ⟨rfl, rfl, rfl⟩
  · exact ⟨rfl, rfl, rfl⟩

/-- A cup that is not held need not be let go. -/
theorem State.letGo_of_not_held {s : State} {c : Nat} (h : s.held c = false) : s.letGo c = s := by
  rw [letGo, releasing, h, Bool.false_and, if_neg Bool.false_ne_true]

/-- A line that waits for E2 is not high (R115). -/
theorem State.lineHigh_of_waitE2 {s : State} {c n : Nat} (h : n ∈ (s.cup c).fab.waitE2) : s.lineHigh c n = false := by
  unfold State.lineHigh
  dsimp only
  split
  · simp [h]
  · rfl

/-- The edge of a line that waits for E1 is E1, and what follows. -/
theorem State.clockEdge_of_waitE1 {s : State} {c n : Nat} (h : (s.cup c).fab.waitE1.contains n = true) :
    s.clockEdge c n = ((s.letGo c).edgeE1 c n).endEdge (s.portWork c) (s.cup c) c n := by
  rw [clockEdge_eq, State.cup, (s.letGo_rest c).1, ← State.cup, if_pos h]

/-- Any other edge of a cup that is not held is a functional one, and what follows. -/
theorem State.clockEdge_of_not_held {s : State} {c n : Nat} (hh : s.held c = false)
    (h : (s.cup c).fab.waitE1.contains n = false) :
    s.clockEdge c n = (s.funcEdge c n).endEdge (s.portWork c) (s.cup c) c n := by
  rw [clockEdge_eq, letGo_of_not_held hh, h, if_neg Bool.false_ne_true]

/-- At E1 the registers of a line load INIT and the line waits for E2 (R115). -/
theorem State.clockEdge_E1 {s : State} {c n : Nat} (h : (s.cup c).fab.waitE1.contains n = true)
    {e : Nat × Nat × Nat} (he : e ∈ lineRegs (s.cup c).active n) :
    nget ((s.clockEdge c n).cup c).fab.macs (macKey e) false = mcInit (s.cup c).active e.1 e.2.1 e.2.2 ∧
      ((s.clockEdge c n).cup c).fab.waitE1.contains n = false ∧
      nget ((s.clockEdge c n).cup c).lastEdge n 0 = s.root ∧ s.keepsHbm (s.clockEdge c n) := by
  obtain ⟨hcups, hroot, hhbm⟩ := s.letGo_rest c
  have hcup : (s.letGo c).cup c = s.cup c := by rw [State.cup, hcups]; rfl
  rw [clockEdge_of_waitE1 h]
  generalize hs' : s.letGo c = s' at *
  have hmoves := s'.edgeE1_movesCups c n
  have hfab := s'.fab_edgeE1 c n
  have hact : ((s'.edgeE1 c n).cup c).active = (s.cup c).active :=
    Eq.trans (b := (s'.cup c).active) (congrArg CupSt.active (s'.cup_edgeE1 c n) :) (by rw [hcup])
  have hmacs : ((s'.edgeE1 c n).cup c).fab.macs = (s'.initEdge c n).macs := (congrArg FabSt.macs hfab :)
  have hE1 : ((s'.edgeE1 c n).cup c).fab.waitE1 = (s'.initEdge c n).waitE1 := (congrArg FabSt.waitE1 hfab :)
  have hE2 : ((s'.edgeE1 c n).cup c).fab.waitE2 = (s'.initEdge c n).waitE2 := (congrArg FabSt.waitE2 hfab :)
  have hlow : ((s'.edgeE1 c n).noteEdge (s.cup c) c n).lineHigh c n = false := by
    refine lineHigh_of_waitE2 ?_
    rw [noteEdge, cup_modCup_self]
    show n ∈ ((s'.edgeE1 c n).cup c).fab.waitE2
    rw [hE2]
    simp [State.initEdge]
  refine ⟨?macs, ?wait, ?last, ?hbm⟩
  case macs =>
    obtain ⟨l, hl⟩ := exists_lineMacs_of_lineRegs he
    rw [endEdge_macs, hmacs]
    · exact (loadInit_macs _ (by rwa [hcup])).trans (by rw [hcup])
    · intro k hk e' he' hkey
      rw [hact] at he'
      obtain rfl := macKey_inj he' hl hkey
      obtain rfl := (lineMacs_unique he' hl).1
      rw [hlow] at hk
      exact absurd hk Bool.false_ne_true
  case wait =>
    have hrest : (((s'.edgeE1 c n).endEdge (s.portWork c) (s.cup c) c n).cup c).fab.waitE1 =
        ((s'.edgeE1 c n).cup c).fab.waitE1 :=
      (congrArg (fun x : CupSt => x.fab.waitE1) ((s'.edgeE1 c n).endEdge_edgeRest (s.portWork c) (s.cup c) c n) :)
    rw [hrest, hE1]
    simp [State.initEdge]
  case last => rw [endEdge_lastEdge, hmoves.root, hroot]
  case hbm =>
    refine State.keepsHbm_of_eq ?_
    rw [((s'.edgeE1 c n).endEdge_hbm_queues _ _ c n).1, hmoves.hbm, hhbm]

end Sys2Proof.Machine
end

section
/-! PROOF. A functional edge of a line (R43, R68, R73, R94, R115). -/

namespace Sys2Proof.Machine

/-! ### Registers and blocks -/

/-- A functional edge before the ports: registers and blocks act, the line waits for E2 no more, and clears count on. -/
def State.quietEdge (s : State) (c n : Nat) : State :=
  (s.lineEdge c n).modCup c fun x =>
    ({ x with fab := { x.fab with waitE2 := x.fab.waitE2.filter fun k => k != n } }).countClears n

/-- A functional edge before the ports changes cups alone. -/
theorem State.quietEdge_movesCups (s : State) (c n : Nat) : s.movesCups (s.quietEdge c n) :=
  (s.lineEdge_movesCups c n).trans (State.movesCups_modCup _ c _)

/-- A functional edge leaves the planes. -/
theorem State.active_quietEdge (s : State) (c n : Nat) : ((s.quietEdge c n).cup c).active = (s.cup c).active := by
  rw [quietEdge, cup_modCup_self]
  exact (congrArg CupSt.active (s.cup_lineEdge c n) :)

/-- A functional edge: registers and blocks, then the ports of the line. -/
theorem State.funcEdge_eq (s : State) (c n : Nat) :
    s.funcEdge c n = ((s.cup c).active.portsOn n).foldl (fun s w => s.portEdge c w) (s.quietEdge c n) := by
  rw [← s.active_quietEdge c n]
  rfl

/-- The fabric but for its crossing registers and the lines that wait for E2. -/
def FabSt.blocks (f : FabSt) : FabSt := { f.withoutCross with waitE2 := [] }

/-- The blocks hang on no crossing register. -/
theorem FabSt.blocks_of_withoutCross {f g : FabSt} (h : f.withoutCross = g.withoutCross) : f.blocks = g.blocks :=
  congrArg (fun f : FabSt => { f with waitE2 := [] }) h

/-- The macrocells are part of the blocks. -/
theorem FabSt.macs_of_blocks {f g : FabSt} (h : f.blocks = g.blocks) : f.macs = g.macs := (congrArg FabSt.macs h :)

/-- A line that waits for E2 no more, and clears that count on, leave the blocks. -/
theorem CupSt.blocks_filter_waitE2 (x : CupSt) (p : Nat → Bool) (n : Nat) :
    (CupSt.countClears { x with fab := { x.fab with waitE2 := x.fab.waitE2.filter p } } n).fab.blocks = x.fab.blocks :=
  rfl

/-- Before the ports a functional edge leaves of the fabric what its blocks leave. -/
theorem State.fab_quietEdge (s : State) (c n : Nat) :
    ((s.quietEdge c n).cup c).fab.blocks = (s.blocksEdge c n).1.blocks := by
  have hline : ((s.lineEdge c n).cup c).fab = s.crossEdge c n (s.fabPre c) (s.blocksEdge c n).1 :=
    (congrArg CupSt.fab (s.cup_lineEdge c n) :)
  rw [quietEdge, cup_modCup_self, CupSt.blocks_filter_waitE2, hline]
  exact FabSt.blocks_of_withoutCross (s.crossEdge_withoutCross c n _ _)

/-- The edge of a line without ports is that of its registers and blocks, and what follows. -/
theorem State.clockEdge_quiet {s : State} {c n : Nat} (hh : s.held c = false)
    (hw : (s.cup c).fab.waitE1.contains n = false) (hp : (s.cup c).active.portsOn n = []) :
    s.clockEdge c n = (s.quietEdge c n).endEdge (s.portWork c) (s.cup c) c n := by
  rw [clockEdge_of_not_held hh hw, funcEdge_eq, hp, List.foldl_nil]

/-- A flip-flop of the line takes its next value (R43). -/
theorem State.endEdge_quietEdge_macs (s : State) (busy : Bool) (old : CupSt) (c n : Nat) {e : Nat × Nat × Nat}
    (he : e ∈ lineMacs (s.cup c).active n false) :
    nget (((s.quietEdge c n).endEdge busy old c n).cup c).fab.macs (macKey e) false = s.macNext c e := by
  have hmacs : ((s.quietEdge c n).cup c).fab.macs = (s.blocksEdge c n).1.macs :=
    FabSt.macs_of_blocks (s.fab_quietEdge c n)
  rw [endEdge_macs, hmacs, blocksEdge_macs s c n he]
  intro k _ e' he' hkey
  rw [active_quietEdge] at he'
  obtain rfl := macKey_inj he' he hkey
  exact absurd (lineMacs_unique he' he).2 (by decide)

/-- Beside the macrocells the fabric's blocks are part of the rest of a cup. -/
theorem CupSt.blocks_of_edgeRest {x y : CupSt} (h : x.edgeRest = y.edgeRest) :
    { x.fab.blocks with macs := [] } = { y.fab.blocks with macs := [] } :=
  (congrArg (fun x : CupSt => { x.fab.blocks with macs := [] }) h :)

/-- Beside the macrocells the fabric of a cup after the edge is what its blocks leave. -/
theorem State.fab_endEdge_quietEdge (s : State) (busy : Bool) (old : CupSt) (c n : Nat) :
    { (((s.quietEdge c n).endEdge busy old c n).cup c).fab.blocks with macs := [] } =
      { (s.blocksEdge c n).1.blocks with macs := [] } := by
  rw [← s.fab_quietEdge c n]
  exact CupSt.blocks_of_edgeRest ((s.quietEdge c n).endEdge_edgeRest busy old c n)

/-- What a fabric holds in a block RAM, where that block stands there as in another fabric. -/
theorem words_of_bramOf {f g : FabSt} (hb : f.bram = g.bram) (he : f.bramErr = g.bramErr) (ho : f.bramOut = g.bramOut)
    {b a : Nat} (ha : a < 2048) {e : FabSt × List (Nat × BitVec 64)} {aw : List (Nat × BitVec 64)}
    (h : bramOf b (g, aw) = bramOf b e) :
    nget f.bram (2048 * b + a) 0 = nget e.1.bram (2048 * b + a) 0 ∧
      nget f.bramErr (2048 * b + a) 0 = nget e.1.bramErr (2048 * b + a) 0 ∧ nget f.bramOut b {} = nget e.1.bramOut b {} := by
  simp only [bramOf, Prod.mk.injEq] at h
  obtain ⟨hwords, hout⟩ := h
  have hword := congrFun hwords ⟨a, ha⟩
  simp only [Prod.mk.injEq] at hword
  obtain ⟨hbram, herr, -⟩ := hword
  rw [hb, he, ho]
  exact ⟨hbram, herr, hout⟩

end Sys2Proof.Machine
end

section
/-! PROOF. The ports of a cup at an edge (R94 to R98, R104, R105). -/

namespace Sys2Proof.Machine

/-! ### What a port shows -/

/-- A cup but for what its ports show. -/
def CupSt.portRest (x : CupSt) : CupSt := { x with fab := { x.fab with portC := [], portD := [] } }

section

variable {x y : CupSt} (h : x.portRest = y.portRest)
include h

/-! What the ports of a cup hold is part of the rest. -/

theorem CupSt.sin_of_portRest : x.sin = y.sin := (congrArg CupSt.sin h :)
theorem CupSt.sout_of_portRest : x.sout = y.sout := (congrArg CupSt.sout h :)
theorem CupSt.rq_of_portRest : x.rq = y.rq := (congrArg CupSt.rq h :)
theorem CupSt.egHeld_of_portRest : x.egHeld = y.egHeld := (congrArg CupSt.egHeld h :)
theorem CupSt.status_of_portRest : x.status = y.status := (congrArg CupSt.status h :)
theorem CupSt.awake_of_portRest : x.awake = y.awake := (congrArg CupSt.awake h :)

end

/-- Setting a port's outputs changes nothing else of the cup. -/
theorem State.setPort_portRest (s : State) (c w ctl : Nat) (data : List Byte) :
    ((s.setPort c w ctl data).cup c).portRest = (s.cup c).portRest := by
  rw [setPort, cup_modCup_self]
  rfl

/-- The controls that were set. -/
theorem State.setPort_portC (s : State) (c w ctl : Nat) (data : List Byte) :
    nget ((s.setPort c w ctl data).cup c).fab.portC w 0 = ctl := by
  rw [setPort, cup_modCup_self]
  exact (nget_nput _ _ _ _ _).trans (if_pos rfl)

/-- A port that offers nothing shows its fixed controls, and the open ones as they may be. -/
theorem State.cup_idlePort (s : State) (c w fixed open_ : Nat) :
    (s.idlePort c w fixed open_).cup c =
      (s.setPort c w (fixed ||| (Config.freeNat (s.freeCtr + 1) &&& open_)) (s.freeBytes (s.portWidth c w))).cup c := rfl

/-- A port that offers nothing changes nothing else of the cup. -/
theorem State.idlePort_portRest (s : State) (c w fixed open_ : Nat) :
    ((s.idlePort c w fixed open_).cup c).portRest = (s.cup c).portRest := by
  rw [cup_idlePort, setPort_portRest]

/-! ### Stream-in ports (R95) -/

/-- What a stream-in port offers changes nothing else of the cup. -/
theorem State.sinOffer_portRest (s : State) (c n : Nat) : ((s.sinOffer c n).cup c).portRest = (s.cup c).portRest := by
  unfold State.sinOffer
  dsimp only
  split
  · exact s.setPort_portRest c _ _ _
  · exact s.idlePort_portRest c _ _ _

/-- What a stream-in port offers stays in it. -/
theorem State.sinOffer_sin (s : State) (c n : Nat) : ((s.sinOffer c n).cup c).sin = (s.cup c).sin :=
  CupSt.sin_of_portRest (s.sinOffer_portRest c n)

/-- A stream-in port is valid while a packet waits. -/
theorem State.sinOffer_valid (s : State) (c n : Nat) :
    (nget ((s.sinOffer c n).cup c).fab.portC (1 + n) 0).testBit 0 = !(nget (s.cup c).sin n {}).pkts.isEmpty := by
  unfold State.sinOffer
  dsimp only
  split
  · rename_i p ps hp
    have hodd (a b d : Bool) (k : Nat) :
        (1 + (if a then 0 else 2) + (if b then 4 else 0) + 8 * k + (if d then 2 ^ 11 else 0)) % 2 = 1 := by
      split_ifs <;> omega
    rw [setPort_portC, hp, Nat.testBit_zero, hodd]
    rfl
  · rename_i hp
    rw [cup_idlePort, setPort_portC, hp]
    simp

/-- A stream-in port gives up the beat that is taken (R95). -/
theorem State.sinEdge_sin (s : State) (c n : Nat) :
    nget ((s.sinEdge c n).cup c).sin n {} =
      if (s.ctlBefore c (1 + n)).testBit 0 && (s.tapIn c (1 + n) 0 0).testBit 0 then
        (nget (s.cup c).sin n {}).take (s.portWidth c (1 + n)) ((s.ctlBefore c (1 + n)).testBit 11)
      else nget (s.cup c).sin n {} := by
  unfold State.sinEdge
  dsimp only
  rw [sinOffer_sin]
  split
  · rw [cup_modCup_self]
    exact (nget_nput _ _ _ _ _).trans (if_pos rfl)
  · rfl

/-- After its edge a stream-in port is valid while a packet waits. -/
theorem State.sinEdge_valid (s : State) (c n : Nat) :
    (nget ((s.sinEdge c n).cup c).fab.portC (1 + n) 0).testBit 0 = !(nget ((s.sinEdge c n).cup c).sin n {}).pkts.isEmpty := by
  obtain ⟨t, ht⟩ : ∃ t : State, s.sinEdge c n = t.sinOffer c n := ⟨_, rfl⟩
  rw [ht, sinOffer_valid, sinOffer_sin]

/-! ### Stream-out ports (R96) -/

/-- A beat that neither begins nor ends a packet joins the open one. -/
theorem State.soutBeat_middle {s : State} {c n : Nat} {p bytes : List Byte} (hp : look (s.cup c).sout n = some p)
    (hlen : (p ++ bytes).length ≤ 9216) :
    s.soutBeat c n false false bytes = s.modCup c fun x => { x with sout := nset x.sout n (p ++ bytes) } := by
  unfold State.soutBeat
  simp only [Bool.false_and, Bool.false_eq_true, if_false, hp, if_neg (Nat.not_lt.mpr hlen)]

/-- A stream-out port keeps the beat it accepts (R96). -/
theorem State.soutEdge_keeps {s : State} {c n : Nat} {p : List Byte} (hr : (s.ctlBefore c (5 + n)).testBit 0 = true)
    (hv : (s.tapIn c (5 + n) 0 0).testBit 0 = true) (hsop : (s.tapIn c (5 + n) 0 0).testBit 1 = false)
    (heop : (s.tapIn c (5 + n) 0 0).testBit 2 = false) (hp : look (s.cup c).sout n = some p)
    (hlen : (p ++ slice (s.portData c (5 + n)) 0 (s.portWidth c (5 + n))).length ≤ 9216) :
    look ((s.soutEdge c n).cup c).sout n = some (p ++ slice (s.portData c (5 + n)) 0 (s.portWidth c (5 + n))) := by
  unfold State.soutEdge
  simp only [hr, hv, hsop, heop, Bool.and_self, if_true, Bool.false_and, Bool.false_eq_true, if_false]
  have hbeat : s.beatLen (s.portWidth c (5 + n)) (s.tapIn c (5 + n) 0 0 / 8 % 256) false = s.portWidth c (5 + n) := rfl
  rw [hbeat, soutBeat_middle hp hlen]
  rw [CupSt.sout_of_portRest (idlePort_portRest _ _ _ _ _), cup_modCup_self]
  exact (look_nset _ _ _ _).trans (if_pos rfl)

/-! ### The request port (R98) -/

/-- An edge of the request port at which no response beat is taken and a header is: the header's own step, then what the
port shows. -/
theorem State.rqEdge_portRest {s : State} {c : Nat} (hr : (s.ctlBefore c 9).testBit 0 = true)
    (hv : (s.tapIn c 9 0 0).testBit 0 = true)
    (ht : ((s.ctlBefore c 9).testBit 16 && (s.tapIn c 9 0 2).testBit 0) = false) :
    ((s.rqEdge c).cup c).portRest = ((s.rqBeat c).cup c).portRest ∧
      (s.rqEdge c).outstanding = (s.rqBeat c).outstanding := by
  unfold State.rqEdge
  simp only [ht, hr, hv, Bool.and_self, if_true, Bool.false_eq_true, if_false]
  split
  · exact ⟨setPort_portRest _ _ _ _ _, rfl⟩
  · exact ⟨idlePort_portRest _ _ _ _ _, rfl⟩

/-- A header that cannot go on is held in the port. -/
theorem State.rqBeat_held {s : State} {c op tag addr len : Nat} (hcur : (s.cup c).rq.cur = none)
    (hh : s.rqHeader c = (op, tag, addr, len)) (ht : (s.cup c).rq.takes op tag len = false) :
    s.rqBeat c = s.modCup c fun y => { y with rq := { y.rq with held := some (op, tag, addr, len) } } := by
  unfold State.rqBeat
  simp only [hcur, hh, ht, Bool.false_eq_true, if_false]

/-! ### The queue port (R104) -/

/-- Taking a slot leaves every cup. -/
theorem State.fabTake_cups (s : State) (c : Nat) (n : Fin 8) : (s.fabTake c n).cups = s.cups := by
  unfold State.fabTake
  dsimp only
  split <;> simp

/-- Dropping leaves every cup. -/
theorem State.fabDrop_cups (s : State) (c : Nat) (n : Fin 8) : (s.fabDrop c n).cups = s.cups := by
  simp [State.fabDrop]

/-- The egress access that waits or is presented. -/
def State.queueBeat (s : State) (c : Nat) : State :=
  match (s.cup c).egHeld, (s.egAccess c).2 with
  | some (n, a), _ => s.egBeat c n a
  | none, some a =>
    if (s.ctlBefore c 10).testBit 0 && (s.tapIn c 10 0 0).testBit 0 then s.egBeat c (s.egAccess c).1 a else s
  | none, none => s

/-- The take and the drop that the fabric presents, and the queue that it names. -/
def State.queueServe (s : State) (c ctl ps : Nat) : State :=
  let s := if ctl.testBit 16 && ps.testBit 0 then s.fabTake c (Fin.ofNat 8 (s.cup c).inShown) else s
  let s := if ps.testBit 4 then s.fabDrop c (Fin.ofNat 8 (ps / 2 % 8)) else s
  s.modCup c fun x => { x with inShown := ps / 2 % 8 }

/-- The slot of the queue that IN_Q names. -/
def State.queueShow (s : State) (c inQ : Nat) (beat : Bool) : State :=
  let fixed := b2n (s.egReady c beat) + 2 ^ 18 * s.inReady c
  match (s.queue (.ingress (Fin.ofNat 192 c) (Fin.ofNat 8 inQ))).take1 with
  | some (w, head, _) => s.setPort c 10 (fixed + 2 ^ 16 + (if head then 2 ^ 17 else 0)) (slotBytes w)
  | none => s.idlePort c 10 fixed (2 ^ 17)

/-- An edge of the queue port: its egress access, its take and drop, and what it shows. -/
theorem State.queueEdge_eq (s : State) (c : Nat) :
    s.queueEdge c =
      ((s.queueBeat c).queueServe c (s.ctlBefore c 10) (s.tapIn c 10 0 2)).queueShow c (s.tapIn c 10 0 2 / 2 % 8)
        ((s.ctlBefore c 10).testBit 0 && (s.tapIn c 10 0 0).testBit 0) := rfl

/-- Takes and drops leave the egress access that waits. -/
theorem State.queueServe_egHeld (s : State) (c ctl ps : Nat) :
    ((s.queueServe c ctl ps).cup c).egHeld = (s.cup c).egHeld := by
  have htake (t : State) (n : Fin 8) : (t.fabTake c n).cup c = t.cup c := by rw [State.cup, fabTake_cups]; rfl
  have hdrop (t : State) (n : Fin 8) : (t.fabDrop c n).cup c = t.cup c := by rw [State.cup, fabDrop_cups]; rfl
  unfold State.queueServe
  dsimp only
  rw [cup_modCup_self]
  split <;> split <;> simp only [htake, hdrop]

/-- What the queue port shows changes nothing else of the cup. -/
theorem State.queueShow_portRest (s : State) (c inQ : Nat) (beat : Bool) :
    ((s.queueShow c inQ beat).cup c).portRest = (s.cup c).portRest := by
  unfold State.queueShow
  dsimp only
  split
  · exact s.setPort_portRest c _ _ _
  · exact s.idlePort_portRest c _ _ _

/-- An egress access that its queue has no room for waits in the port (R94). -/
theorem State.queueEdge_egHeld {s : State} {c n : Nat} {a : QAccess} (hr : (s.ctlBefore c 10).testBit 0 = true)
    (hv : (s.tapIn c 10 0 0).testBit 0 = true) (hheld : (s.cup c).egHeld = none) (ha : s.egAccess c = (n, some a))
    (hb : s.egBlocked c n a = true) : ((s.queueEdge c).cup c).egHeld = some (n, a) := by
  have hbeat : s.queueBeat c = s.modCup c fun x => { x with egHeld := some (n, a) } := by
    simp only [queueBeat, hheld, ha, hr, hv, Bool.and_self, if_true, egBeat, hb]
  rw [queueEdge_eq, CupSt.egHeld_of_portRest (queueShow_portRest _ _ _ _), queueServe_egHeld, hbeat, cup_modCup_self]

/-! ### The status port (R105, R355) -/

/-- The event that is taken, and AWAKE. -/
def State.statusTaken (s : State) (c : Nat) : State :=
  (if (s.ctlBefore c 11).testBit 0 && (s.tapIn c 11 0 0).testBit 0 then s.modCup c fun x => x.takeEvent s.tick
    else s).modCup c fun x => { x with awake := (s.tapIn c 11 0 0).testBit 1 }

/-- The event at the head of the status buffer. -/
def State.statusShow (s : State) (c : Nat) : State :=
  match (s.cup c).status with
  | e :: _ => s.setPort c 11 1 (leBytes 8 e.toNat)
  | [] => s.idlePort c 11 0 0

/-- An edge of the status port: what is taken and sampled, and what it shows. -/
theorem State.statusEdge_eq (s : State) (c : Nat) : s.statusEdge c = (s.statusTaken c).statusShow c := rfl

/-- What the status port shows changes nothing else of the cup. -/
theorem State.statusShow_portRest (s : State) (c : Nat) : ((s.statusShow c).cup c).portRest = (s.cup c).portRest := by
  unfold State.statusShow
  split
  · exact s.setPort_portRest c _ _ _
  · exact s.idlePort_portRest c _ _ _

/-- The status port gives up the event that is taken (R105). -/
theorem State.statusEdge_status (s : State) (c : Nat) :
    ((s.statusEdge c).cup c).status =
      if (s.ctlBefore c 11).testBit 0 && (s.tapIn c 11 0 0).testBit 0 then ((s.cup c).takeEvent s.tick).status
      else (s.cup c).status := by
  rw [statusEdge_eq, CupSt.status_of_portRest (statusShow_portRest _ c), statusTaken, cup_modCup_self]
  split
  · rw [cup_modCup_self]
  · rfl

/-- The status port samples AWAKE (R355). -/
theorem State.statusEdge_awake (s : State) (c : Nat) :
    ((s.statusEdge c).cup c).awake = (s.tapIn c 11 0 0).testBit 1 := by
  rw [statusEdge_eq, CupSt.awake_of_portRest (statusShow_portRest _ c), statusTaken, cup_modCup_self]

/-! ### The port of a binding word -/

/-- Binding words 1 to 4 are the stream-in ports. -/
theorem State.portEdge_sin (s : State) (c : Nat) {k : Nat} (hk : k < 4) : s.portEdge c (1 + k) = s.sinEdge c k := by
  rw [portEdge, if_pos (by omega), Nat.add_sub_cancel_left]

/-- Binding words 5 to 8 are the stream-out ports. -/
theorem State.portEdge_sout (s : State) (c : Nat) {k : Nat} (hk : k < 4) : s.portEdge c (5 + k) = s.soutEdge c k := by
  rw [portEdge, if_neg (by omega), if_pos (by omega), Nat.add_sub_cancel_left]

/-- Binding word 9 is the request port. -/
theorem State.portEdge_rq (s : State) (c : Nat) : s.portEdge c 9 = s.rqEdge c := rfl

/-- Binding word 10 is the queue port. -/
theorem State.portEdge_queue (s : State) (c : Nat) : s.portEdge c 10 = s.queueEdge c := rfl

/-- Binding word 11 is the status port. -/
theorem State.portEdge_status (s : State) (c : Nat) : s.portEdge c 11 = s.statusEdge c := rfl

end Sys2Proof.Machine
end

section
/-! PROOF. A clock edge moves the fabric, or loads INIT (R42, R43, R68, R73, R94, R95, R96, R98, R104, R105, R115). -/

namespace Sys2Proof.Machine

/-! ### A functional edge of a line without ports -/

section

variable {s : State} {c n : Nat} (hh : s.held c = false) (hw : (s.cup c).fab.waitE1.contains n = false)
  (hp : (s.cup c).active.portsOn n = [])
include hh hw hp

/-- The edge is kept, and memory is not touched. -/
theorem State.clockEdge_quiet_rest :
    nget ((s.clockEdge c n).cup c).lastEdge n 0 = s.root ∧ s.keepsHbm (s.clockEdge c n) := by
  have hmoves := s.quietEdge_movesCups c n
  rw [clockEdge_quiet hh hw hp]
  refine ⟨?_, State.keepsHbm_of_eq ?_⟩
  · rw [endEdge_lastEdge, hmoves.root]
  · rw [(State.endEdge_hbm_queues _ _ _ c n).1, hmoves.hbm]

/-- The flip-flops of the line take their next values (R43). -/
theorem State.clockEdge_quiet_macs {e : Nat × Nat × Nat} (he : e ∈ lineMacs (s.cup c).active n false) :
    nget ((s.clockEdge c n).cup c).fab.macs (macKey e) false = s.macNext c e := by
  rw [clockEdge_quiet hh hw hp, endEdge_quietEdge_macs s _ _ c n he]

/-- The rest of the fabric is what the blocks of the line leave. -/
theorem State.clockEdge_quiet_fab :
    { ((s.clockEdge c n).cup c).fab.blocks with macs := [] } = { (s.blocksEdge c n).1.blocks with macs := [] } := by
  rw [clockEdge_quiet hh hw hp, fab_endEdge_quietEdge]

/-- The math blocks of the line take their next values, and every other keeps its own (R73). -/
theorem State.clockEdge_quiet_math {b : Nat} (hb : b < 400) :
    nget ((s.clockEdge c n).cup c).fab.math b {} =
      if mathRuns (s.cup c).active b && mathLine (s.cup c).active b == n then s.mathNext c b
      else nget (s.cup c).fab.math b {} := by
  have hmath : ((s.clockEdge c n).cup c).fab.math = (s.blocksEdge c n).1.math :=
    (congrArg FabSt.math (clockEdge_quiet_fab hh hw hp) :)
  rw [hmath, blocksEdge_math s c n hb]

/-- A block RAM holds what its own ports leave (R68). -/
theorem State.clockEdge_quiet_bram {b a : Nat} (hb : b < 200) (ha : a < 2048) :
    let e := if (s.cup c).bramActs b then s.bramEdge c n ((s.cup c).fab, ((s.cup c).instant s.root).2) b
      else ((s.cup c).fab, ((s.cup c).instant s.root).2)
    nget ((s.clockEdge c n).cup c).fab.bram (2048 * b + a) 0 = nget e.1.bram (2048 * b + a) 0 ∧
      nget ((s.clockEdge c n).cup c).fab.bramErr (2048 * b + a) 0 = nget e.1.bramErr (2048 * b + a) 0 ∧
      nget ((s.clockEdge c n).cup c).fab.bramOut b {} = nget e.1.bramOut b {} := by
  have hfab := clockEdge_quiet_fab hh hw hp
  exact words_of_bramOf (congrArg FabSt.bram hfab :) (congrArg FabSt.bramErr hfab :) (congrArg FabSt.bramOut hfab :) ha
    (s.blocksEdge_bram c n hb)

end

/-- The block RAMs of a line, with the edge's condition on each port written as a Bool. -/
theorem State.bramEdge_eq (s : State) (c n b : Nat) (e : FabSt × List (Nat × BitVec 64)) {act : Bool}
    (hact : act = (s.cup c).bramActs b) :
    (if (s.cup c).bramActs b then s.bramEdge c n e b else e) =
      (let w := (s.cup c).active.bramW b
       let port (bb : Bool) (e : FabSt × List (Nat × BitVec 64)) : FabSt × List (Nat × BitVec 64) :=
         if act && (if bb then bits w 7 6 else bits w 5 4) == n then
           bramPort (s.cup c).active (s.fabPre c) e.1 e.2 b bb
             (bramAct w bb (s.bramPins c b 0) (s.bramPins c b 1) (s.bramPins c b 2) (s.bramPins c b 3))
         else e
       port true (port false e)) := by
  subst hact
  cases h : (s.cup c).bramActs b
  · simp
  · simp [State.bramEdge, State.bramPortEdge]

/-- What follows an edge leaves the ports and what they show. -/
theorem CupSt.ports_of_edgeRest {x y : CupSt} (h : x.edgeRest = y.edgeRest) :
    x.sin = y.sin ∧ x.sout = y.sout ∧ x.rq = y.rq ∧ x.egHeld = y.egHeld ∧ x.status = y.status ∧
      x.fab.portC = y.fab.portC ∧ x.fab.portD = y.fab.portD :=
  ⟨(congrArg CupSt.sin h :), (congrArg CupSt.sout h :), (congrArg CupSt.rq h :), (congrArg CupSt.egHeld h :),
    (congrArg CupSt.status h :), (congrArg (fun x : CupSt => x.fab.portC) h :),
    (congrArg (fun x : CupSt => x.fab.portD) h :)⟩

/-- After a functional edge the ports, the queues and what the ports show are what the edges of the ports leave (R94). -/
theorem State.clockEdge_ports {s : State} {c n : Nat} (hh : s.held c = false)
    (hw : (s.cup c).fab.waitE1.contains n = false) :
    let t := s.clockEdge c n
    let u := ((s.cup c).active.portsOn n).foldl (fun s w => s.portEdge c w) (s.quietEdge c n)
    (t.cup c).sin = (u.cup c).sin ∧ (t.cup c).sout = (u.cup c).sout ∧ (t.cup c).rq = (u.cup c).rq ∧
      (t.cup c).egHeld = (u.cup c).egHeld ∧ (t.cup c).status = (u.cup c).status ∧
      (t.cup c).fab.portC = (u.cup c).fab.portC ∧ (t.cup c).fab.portD = (u.cup c).fab.portD ∧ t.queues = u.queues := by
  dsimp only
  rw [← funcEdge_eq, clockEdge_of_not_held hh hw]
  have hrest := (s.funcEdge c n).endEdge_edgeRest (s.portWork c) (s.cup c) c n
  have hqueues := ((s.funcEdge c n).endEdge_hbm_queues (s.portWork c) (s.cup c) c n).2
  obtain ⟨hsin, hsout, hrq, heg, hstatus, hC, hD⟩ := CupSt.ports_of_edgeRest hrest
  exact ⟨hsin, hsout, hrq, heg, hstatus, hC, hD, hqueues⟩

/-- Settles O32: cells have numbers of their own, so every register, block and word is written once at an edge and reads
back; what follows an edge writes only latches whose line is high, and each port's edge ends by showing outputs alone. -/
theorem clockEdgesMoveTheFabric : Obligations.ClockEdgesMoveTheFabric := by
  unfold Obligations.ClockEdgesMoveTheFabric
  refine ⟨?e1, ?func, ?latch, ?other, ?ports, ?sin, ?sout, ?request, ?queue, ?status⟩
  case e1 =>
    intro s c n x y m hf hw hm
    have h := State.clockEdge_E1 hw hm
    simp only [macKey] at h
    exact ⟨_, exec_fabricClockEdge hf, h⟩
  case func =>
    intro s c n hf hh hw hp
    obtain ⟨hlast, hhbm⟩ := State.clockEdge_quiet_rest hh hw hp
    refine ⟨_, exec_fabricClockEdge hf, hlast, hhbm, fun x y m hm => ?_,
      fun b hb => State.clockEdge_quiet_math hh hw hp hb, fun b a hb ha act e hact he => ?_⟩
    · have h := State.clockEdge_quiet_macs hh hw hp hm
      simp only [macKey, State.macNext] at h
      exact h
    · rw [he, ← s.bramEdge_eq c.val n.val b _ hact]
      exact State.clockEdge_quiet_bram hh hw hp hb ha
  case latch =>
    intro s c k x y m hh hk hm
    have h := s.followLatches_latch hh hk hm
    simp only [macKey] at h
    exact h
  case other =>
    intro s c j h
    exact s.followLatches_keeps c j fun k hh e he => h k e.1 e.2.1 e.2.2 hh he
  case ports =>
    intro s c n hf hh hw _
    exact ⟨_, _, exec_fabricClockEdge hf, rfl, State.clockEdge_ports hh hw⟩
  case sin =>
    intro s c k hk
    rw [s.portEdge_sin c hk]
    exact ⟨s.sinEdge_sin c k, s.sinEdge_valid c k⟩
  case sout =>
    intro s c k p hk hr hv hsop heop hp hlen
    rw [s.portEdge_sout c hk]
    exact State.soutEdge_keeps hr hv hsop heop hp hlen
  case request =>
    intro s c op tag addr len hr hv ht hcur hh htakes
    obtain ⟨hrest, hout⟩ := State.rqEdge_portRest hr hv ht
    rw [s.portEdge_rq c, CupSt.rq_of_portRest hrest, hout, State.rqBeat_held hcur hh htakes, State.cup_modCup_self]
    exact ⟨rfl, rfl⟩
  case queue =>
    intro s c n a hr hv hheld ha hb
    rw [s.portEdge_queue c, State.queueEdge_egHeld hr hv hheld ha hb]
  case status =>
    intro s c
    rw [s.portEdge_status c]
    exact ⟨s.statusEdge_status c, s.statusEdge_awake c⟩

end Sys2Proof.Machine
end

section
/-! PROOF. Leaf dies in service: dividers between uses (R78, R89) and Colrek groups that retrain (R85, R86, R393). -/

namespace Sys2Proof.Machine

/-! ### What an update of a leaf or of one register leaves -/

/-- The value just listed. -/
theorem look_nset_self {α : Type} (m : List (Nat × α)) (k : Nat) (v : α) : look (nset m k v) k = some v := by
  rw [look_nset, if_pos rfl]

/-- The value just written, with default. -/
theorem nget_nput_self {α : Type} [DecidableEq α] (m : List (Nat × α)) (k : Nat) (v d : α) :
    nget (nput m k v d) k d = v := by
  rw [nget_nput, if_pos rfl]

/-- The leaf die just updated. -/
@[simp] theorem State.leaf_modLeaf_self (s : State) (p : Nat) (f : LeafSt → LeafSt) :
    (s.modLeaf p f).leaf p = f (s.leaf p) := nget_nput_self _ _ _ _

/-- Updating a leaf changes leaves alone. -/
theorem State.modLeaf_eq (s : State) (p : Nat) (f : LeafSt → LeafSt) :
    s.modLeaf p f = { s with leaves := (s.modLeaf p f).leaves } := rfl

/-- A leaf depends on the leaves alone. -/
theorem State.leaf_congr {s t : State} (h : t.leaves = s.leaves) (p : Nat) : t.leaf p = s.leaf p :=
  congrArg (fun l : List (Nat × LeafSt) => nget l p {}) h

/-- Where cups alone change, the registers stand. -/
theorem State.movesCups.regs {s t : State} (h : s.movesCups t) : t.regs = s.regs := (congrArg State.regs h :)

/-- Where cups alone change, the leaves stand. -/
theorem State.movesCups.leaves {s t : State} (h : s.movesCups t) : t.leaves = s.leaves := (congrArg State.leaves h :)

/-- A write of one register leaves every other; what shares the register file shares that. -/
theorem State.keepsRegs_of_setReg {s t : State} {k : RegKey} {w : Word} (h : t.regs = (s.setReg k w).regs) :
    s.keepsRegs t [k] := fun _ hj =>
  (State.reg_congr h _).trans (s.reg_setReg_ne w (List.ne_of_not_mem_cons hj))

/-- The fields of a register depend on the register file alone. -/
theorem State.fld_congr {s t : State} (h : t.regs = s.regs) (k : RegKey) (hi lo : Nat) : t.fld k hi lo = s.fld k hi lo :=
  congrArg (bits · hi lo) (State.reg_congr h k)

/-! ### Dividers (R78, R89) -/

/-- A divider in use refuses its new value, and the status bit says so. -/
theorem State.writeDiv_used {s : State} {p n : Nat} (h : s.dividerUsed p n = true) (v : Word) :
    s.writeDiv p n v = s.setFlag ⟨.leafStatus, p, 0⟩ 8 true := by
  simp only [writeDiv, h, if_true]

/-- From 4 on, every value of the field is a divider (R78). -/
theorem inRange_div {v : Word} (h : 4 ≤ bits v 7 0) : inRange 4 255 (bits v 7 0) = true := by
  have := bits_lt v 7 0
  simp only [inRange, decide_eq_true_eq]
  omega

/-- A divider that no running line selects takes its new value, which waits for its effect. -/
theorem State.writeDiv_unused {s : State} {p n : Nat} {v : Word} (h : s.dividerUsed p n = false) (hv : 4 ≤ bits v 7 0) :
    s.writeDiv p n v = (s.plainWrite ⟨.leafDiv, p, n⟩ v).modLeaf p fun x =>
      { x with divPend := nset x.divPend n (bits v 7 0 + 1) } := by
  simp only [writeDiv, h, inRange_div hv, Bool.false_eq_true, if_false, if_true]

/-- Of the leaf, only what waits for its effect changes then. -/
theorem State.leaf_writeDiv {s : State} {p n : Nat} {v : Word} (h : s.dividerUsed p n = false) (hv : 4 ≤ bits v 7 0) :
    (s.writeDiv p n v).leaf p = { s.leaf p with divPend := nset (s.leaf p).divPend n (bits v 7 0 + 1) } := by
  rw [writeDiv_unused h hv, leaf_modLeaf_self]
  rfl

/-- LEAF_DIV takes each value from 4 on. -/
theorem State.fld_plainWrite_leafDiv (s : State) (p n : Nat) {v : Word} (hv : 4 ≤ bits v 7 0) :
    (s.plainWrite ⟨.leafDiv, p, n⟩ v).fld ⟨.leafDiv, p, n⟩ 7 0 = bits v 7 0 := by
  rw [fld, reg_plainWrite, if_pos rfl]
  exact (bits_mergeWrite_rw (f := rwOk 7 0 (inRange 4 255)) (List.mem_singleton.mpr rfl) rfl _ v).trans
    (if_pos (inRange_div hv))

/-! ### The start of a retrain (R86) -/

/-- What the receiver of a group holds while the group retrains (R85). -/
def State.crkHeld (s : State) (p g : Nat) : List (Nat × Bool) :=
  if g < 32 then s.crossNow p g else if g < 176 then s.portNow p g else []

/-- A group that is trained or repaired begins to retrain. -/
theorem State.crkBegin_eq {s : State} {p g : Nat} (h : s.crkState p g = 0 ∨ s.crkState p g = 2) :
    s.crkBegin p g = (s.setFld ⟨.leafCrkGstat, p, g⟩ 1 0 1).modLeaf p fun x =>
      { x with crcAt := erase x.crcAt g, gapStart := nset x.gapStart g s.tick,
               gapHeld := nput x.gapHeld g (s.crkHeld p g) [] } := if_pos h

/-- It then retrains. -/
theorem State.crkState_crkBegin {s : State} {p g : Nat} (h : s.crkState p g = 0 ∨ s.crkState p g = 2) :
    (s.crkBegin p g).crkState p g = 1 := by
  rw [crkBegin_eq h]
  exact s.fld_setFld_self _ 1 0 1 (by decide)

/-- Its gap starts now. -/
theorem State.gapStart_crkBegin {s : State} {p g : Nat} (h : s.crkState p g = 0 ∨ s.crkState p g = 2) :
    look ((s.crkBegin p g).leaf p).gapStart g = some s.tick := by
  rw [crkBegin_eq h, leaf_modLeaf_self]
  exact look_nset_self _ _ _

/-- The start of a retrain changes the group's register and the leaf alone. -/
theorem State.crkBegin_rest {s : State} {p g : Nat} (h : s.crkState p g = 0 ∨ s.crkState p g = 2) :
    s.keepsRegs (s.crkBegin p g) [⟨.leafCrkGstat, p, g⟩] ∧
      s.crkBegin p g = { s with regs := (s.crkBegin p g).regs, leaves := (s.crkBegin p g).leaves } := by
  rw [crkBegin_eq h]
  exact ⟨keepsRegs_of_setReg rfl, rfl⟩

/-! ### The end of a retrain (R86) -/

/-- The state with the crossing gap of each affected cup recorded. -/
def State.crkGaps (s : State) (p g : Nat) : State :=
  (s.crkCups p g).foldl
    (fun (t : State) c => t.raiseEvent (0x100 + c) 4 [t.cupDom c]
      ([BitVec.ofNat 8 c] ++ leBytes 8 (nget (s.leaf p).gapStart g s.tick) ++ leBytes 8 t.tick)) s

/-- Recording the gaps leaves the memory. -/
theorem State.crkGaps_hbm (s : State) (p g : Nat) : (s.crkGaps p g).hbm = s.hbm :=
  foldl_keeps (get := State.hbm) (fun t _ _ => t.raiseEvent_hbm _ _ _ _ _) s

/-- The state with the group's gap over and its STATE set, before latches follow. -/
def State.crkClosed (s : State) (p g st : Nat) : State :=
  ((s.crkGaps p g).setFld ⟨.leafCrkGstat, p, g⟩ 1 0 st).modLeaf p fun x =>
    { x with gapStart := erase x.gapStart g, gapHeld := erase x.gapHeld g }

/-- The end of a retrain: the gaps, the group, then the latches. -/
theorem State.crkEnd_eq (s : State) (p g st : Nat) : s.crkEnd p g st = (s.crkClosed p g st).followLatches := rfl

/-- Before latches follow, the group has the state it was given. -/
theorem State.crkState_crkClosed (s : State) (p g : Nat) {st : Nat} (h : st < 4) :
    (s.crkClosed p g st).crkState p g = st := by
  have hset := (s.crkGaps p g).fld_setFld_self ⟨.leafCrkGstat, p, g⟩ 1 0 st (by decide)
  exact hset.trans (Nat.mod_eq_of_lt h)

/-- Before latches follow, the group has no gap. -/
theorem State.gapStart_crkClosed (s : State) (p g st : Nat) : look ((s.crkClosed p g st).leaf p).gapStart g = none := by
  rw [crkClosed, leaf_modLeaf_self]
  exact look_erase_self _ g

/-- After its retrain a group has the state it was given. -/
theorem State.crkState_crkEnd (s : State) (p g : Nat) {st : Nat} (h : st < 4) : (s.crkEnd p g st).crkState p g = st := by
  rw [crkEnd_eq, crkState, fld_congr (followLatches_movesCups _).regs]
  exact s.crkState_crkClosed p g h

/-- After its retrain a group has no gap. -/
theorem State.gapStart_crkEnd (s : State) (p g st : Nat) : look ((s.crkEnd p g st).leaf p).gapStart g = none := by
  rw [crkEnd_eq, leaf_congr (followLatches_movesCups _).leaves]
  exact s.gapStart_crkClosed p g st

/-- The end of a retrain leaves the memory. -/
theorem State.crkEnd_keepsHbm (s : State) (p g st : Nat) : s.keepsHbm (s.crkEnd p g st) :=
  keepsHbm_of_eq ((followLatches_movesCups _).hbm.trans (s.crkGaps_hbm p g))

/-! ### The commands -/

/-- DIVIDER_CHANGE_EFFECT at a root cycle that is a multiple of the value that waits. -/
theorem exec_dividerChangeEffect {s : State} {p : Fin 52} {n : Fin 16} {d : Nat} (hl : s.live = true)
    (hd : look (s.leaf p.val).divPend n.val = some d) (hr : s.root % d = 0) :
    exec (.dividerChangeEffect p n) s = .next (s.modLeaf p.val fun x =>
      { x with divNow := nput x.divNow n.val d 5, divPend := erase x.divPend n.val }) := by
  change execDividerChangeEffect p n s = _
  rw [execDividerChangeEffect, whenLive_live hl]
  simp only [hd, hr, if_true]

/-- COLREK_CRC_MISMATCH with no mismatch before it. -/
theorem exec_colrekCrcMismatch_first {s : State} {p : Fin 52} {g : Fin 178} (hs : s.serving = true)
    (hc : look (s.leaf p.val).crcAt g.val = none) :
    exec (.colrekCrcMismatch p g) s =
      .next (s.modLeaf p.val fun x => { x with crcAt := nset x.crcAt g.val s.tick }) := by
  change execColrekCrcMismatch p g s = _
  rw [execColrekCrcMismatch, whenServing_serving hs]
  simp only [hc]

/-- COLREK_CRC_MISMATCH within 1 ms of another. -/
theorem exec_colrekCrcMismatch_second {s : State} {p : Fin 52} {g : Fin 178} {t : Nat} (hs : s.serving = true)
    (hc : look (s.leaf p.val).crcAt g.val = some t) (ht : s.tick < t + 250000) :
    exec (.colrekCrcMismatch p g) s = .next (s.crkBegin p.val g.val) := by
  change execColrekCrcMismatch p g s = _
  rw [execColrekCrcMismatch, whenServing_serving hs]
  simp only [hc]
  exact congrArg _ (if_pos ht)

/-- COLREK_LOCK_LOSS starts a retrain. -/
theorem exec_colrekLockLoss {s : State} {p : Fin 52} {g : Fin 178} (hs : s.serving = true) :
    exec (.colrekLockLoss p g) s = .next (s.crkBegin p.val g.val) := by
  change execColrekLockLoss p g s = _
  rw [execColrekLockLoss, whenServing_serving hs]

/-- COLREK_RETRAIN of a group that has begun fewer than three counted retrains in the last second. -/
theorem exec_colrekRetrain_counted {s : State} {p : Fin 52} {g : Fin 178} (failing : List (Fin 32)) (holds : Bool)
    (hs : s.serving = true) (hg : s.crkState p.val g.val = 1)
    (ha : s.afterStopAt (nget (s.leaf p.val).gapStart g.val s.tick) = false)
    (hn : ((nget (s.leaf p.val).retrains g.val []).filter fun t => s.tick < t + 250000000).length < 3) :
    exec (.colrekRetrain p g failing holds) s = .next (s.modLeaf p.val fun x =>
      { x with
        retrains := nput x.retrains g.val
          (((nget (s.leaf p.val).retrains g.val []).filter fun t => s.tick < t + 250000000) ++ [s.tick]) [] }) := by
  change execColrekRetrain p g failing holds s = _
  rw [execColrekRetrain, whenServing_serving hs, if_pos ⟨hg, ha⟩]
  exact congrArg Host.Outcome.next (if_pos hn)

/-- COLREK_RETRAIN of a retrain that began about a reference-loss stop is not counted (R393). -/
theorem exec_colrekRetrain_afterStop {s : State} {p : Fin 52} {g : Fin 178} (failing : List (Fin 32)) (holds : Bool)
    (hs : s.serving = true) (ha : s.afterStopAt (nget (s.leaf p.val).gapStart g.val s.tick) = true) :
    exec (.colrekRetrain p g failing holds) s = .next s := by
  change execColrekRetrain p g failing holds s = _
  rw [execColrekRetrain, whenServing_serving hs]
  simp only [ha, Bool.true_eq_false, and_false, if_false]

/-- COLREK_RETRAIN_DONE of a group without spares in use. -/
theorem exec_colrekRetrainDone_trained {s : State} {p : Fin 52} {g : Fin 178} (hs : s.serving = true)
    (hg : s.crkState p.val g.val = 1) (hu : nget (s.leaf p.val).spared g.val 0 = 0) :
    exec (.colrekRetrainDone p g) s = .next (s.crkEnd p.val g.val 0) := by
  change execColrekRetrainDone p g s = _
  rw [execColrekRetrainDone, whenServing_serving hs]
  simp only [hg, hu, if_true]

/-- Settles O19: each command is its own update of one leaf, of one register, or of both; only the end of a retrain also
raises events and lets latches follow, neither of which touches the group or the memory. -/
theorem leafDividersAndColrekGroups : Obligations.LeafDividersAndColrekGroups := by
  unfold Obligations.LeafDividersAndColrekGroups
  refine ⟨?free, ?used, ?effect, ?first, ?second, ?lock, ?counted, ?afterStop, ?done⟩
  case free =>
    intro s m v p n hacc hfree hv
    refine ⟨_, writeCommand_accepts hacc v _, ?_⟩
    have hleaf : (((s.writeDiv p.val n.val v).answer m .ok).leaf p.val) = _ := State.leaf_writeDiv hfree hv
    rw [hleaf, State.writeDiv_unused hfree hv]
    exact ⟨s.fld_plainWrite_leafDiv p.val n.val hv, look_nset_self _ _ _, rfl,
      State.keepsRegs_of_setReg rfl, rfl⟩
  case used =>
    intro s m v p n hacc hused
    refine ⟨_, writeCommand_accepts hacc v _, ?_⟩
    rw [State.writeDiv_used hused]
    exact ⟨s.flag_setFlag_self _ 8 true (by decide), State.keepsRegs_of_setReg rfl, rfl⟩
  case effect =>
    intro s p n d hl hd hr
    refine ⟨_, exec_dividerChangeEffect hl hd hr, ?_, ?_, s.modLeaf_eq _ _⟩ <;> rw [State.leaf_modLeaf_self]
    · exact nget_nput_self _ _ _ _
    · exact look_erase_self _ _
  case first =>
    intro s p g hs hc
    refine ⟨_, exec_colrekCrcMismatch_first hs hc, ?_, s.modLeaf_eq _ _⟩
    rw [State.leaf_modLeaf_self]
    exact look_nset_self _ _ _
  case second =>
    intro s p g t0 hs hc ht hg
    exact ⟨_, exec_colrekCrcMismatch_second hs hc ht, State.crkState_crkBegin (.inl hg)⟩
  case lock =>
    intro s p g hs hg
    exact ⟨_, exec_colrekLockLoss hs, State.crkState_crkBegin hg, State.gapStart_crkBegin hg, State.crkBegin_rest hg⟩
  case counted =>
    intro s p g failing holds hs hg ha hn
    refine ⟨_, exec_colrekRetrain_counted failing holds hs hg ha hn, ?_, s.modLeaf_eq _ _⟩
    rw [State.leaf_modLeaf_self]
    exact nget_nput_self _ _ _ _
  case afterStop =>
    intro s p g failing holds hs ha
    exact exec_colrekRetrain_afterStop failing holds hs ha
  case done =>
    intro s p g hs hg hu
    exact ⟨_, exec_colrekRetrainDone_trained hs hg hu, s.crkState_crkEnd _ _ (by decide), s.gapStart_crkEnd _ _ _,
      s.crkEnd_keepsHbm _ _ _⟩

end Sys2Proof.Machine
end

section
/-! PROOF. The invariants at reset (R108, R395). -/

namespace Sys2Proof.Machine

/-- No segment is open at reset. -/
theorem segMode_reset (c sd : Nat) {n : Nat} (h : n < 10) : State.reset.segMode c sd n = 0 :=
  (by decide : ∀ n < 10, bits (0x3FF00000 : Word) (2 * n + 1) (2 * n) = 0) n h

/-- The state after reset is in its canonical form: its sparse lists list nothing. -/
theorem canonical_reset : State.reset.Canonical := ⟨Sparse.nil, Sparse.nil, Sparse.nil, Sparse.nil⟩

/-- The borders are closed at reset: no segment is open and no refusal is held. -/
theorem bordersClosed_reset : State.reset.BordersClosed :=
  ⟨fun c _ sd _ _ _ h => segMode_reset c sd h, fun _ c _ sd _ _ _ h => segMode_reset c sd h, nofun⟩

/-- Settles O5: at reset the sparse lists and the lease table are empty, and no border holds an open segment. -/
theorem resetMeetsTheInvariants : Obligations.ResetMeetsTheInvariants :=
  ⟨canonical_reset, List.Pairwise.nil, bordersClosed_reset⟩

end Sys2Proof.Machine
end

section
/-! PROOF. Packet queues: the accesses of tray masters at their producing and consuming sides, and the accesses that wait
(R99 to R104, R140 to R144). -/

namespace Sys2Proof.Machine

/-! ### Queues and answers by field -/

/-- A queue reads what was put. -/
@[simp] theorem State.queue_setQueue_self (s : State) (q : QRef) (x : QueueSt) : (s.setQueue q x).queue q = x :=
  nget_nput_self s.queues (queueKey q) x {}

/-- A put leaves every other queue. -/
theorem State.keepsQueues_setQueue (s : State) (q : QRef) (x : QueueSt) : s.keepsQueues (s.setQueue q x) q :=
  fun _ h => lookD_putD_ne natLt s.queues _ _ x {} {} h

/-- The answer to a master of the tray joins the responses (R136). -/
theorem State.respond_master {m : Nat} (h : inRange 0x400 0x443 m = false) (s : State) (tag : Nat) (c : Code)
    (b : List Byte) :
    s.respond m tag c b = { s with responses := s.responses ++ [{ mid := m, tag, code := c, bytes := b }] } := by
  have hl2 : inRange 0x440 0x443 m = false := by simp [inRange] at h ⊢; omega
  have hcol : inRange 0x400 0x43F m = false := by simp [inRange] at h ⊢; omega
  simp [State.respond, hl2, hcol]

/-! ### A tray access that is carried out at once (R140 to R144) -/

/-- The accesses of a producer. -/
def QAccess.produces : QAccess → Bool
  | .opn | .dat _ | .cls _ _ => true
  | _ => false

/-- The accesses that are tray writes. -/
def QAccess.writes : QAccess → Bool
  | .rd _ => false
  | _ => true

/-- The operation of an access's tray request. -/
def QAccess.op : QAccess → ReqOp
  | .rd _ => .read
  | _ => .write

/-- The state in which master m's interface has issued its access to a queue (R138). -/
def State.issueQueue (s : State) (m tag : Nat) (q : QRef) (a : QAccess) : State :=
  s.issue m tag a.op (s.queueAddr m q a) a.len

/-- The state in which master m's access has left queue q as x and is answered OK. -/
def State.queueDone (s : State) (m tag : Nat) (q : QRef) (a : QAccess) (x : QueueSt) (bytes : List Byte) : State :=
  ((s.issueQueue m tag q a).setQueue q x).respond m tag .ok bytes

/-- A tray request of a master without a pending FENCE is issued and carried out. -/
theorem State.qRequest_eq {s : State} {m : Nat} (hf : s.fenced m = false) (tag : Nat) (q : QRef) (a : QAccess) :
    s.qRequest m tag q a = (s.issueQueue m tag q a).qAccess m tag q a := by
  unfold State.qRequest State.request
  rw [hf]
  cases a <;> rfl

/-- A queue access of a master that is not the queue's own cup goes by the tray (R133). -/
theorem State.qCommand_eq_qRequest {m : Nat} {q : QRef} (h : qCup q ≠ some m) (s : State) (tag : Nat) (a : QAccess) :
    s.qCommand m tag q a = s.qRequest m tag q a := by
  unfold State.qCommand
  split
  case h_3 | h_4 => exact if_neg fun e => h (by rw [e]; rfl)
  all_goals rfl

/-- An access that passes its rights and waits for nothing does what `qTry` gives. -/
theorem State.qAccess_eq {s t : State} {m tag : Nat} {q : QRef} {a : QAccess} (hq : qWritten q = a.produces)
    (hr : s.queueRight m q a.writes = true) (hg : (qCup q).any s.cupGone = false) (hb : s.qBehind m q = false)
    (ht : s.qTry m tag q a = some t) : s.qAccess m tag q a = t := by
  unfold State.qAccess State.qDo
  rw [hq, hb, ht]
  cases a <;> simp_all [QAccess.produces, QAccess.writes]

/-- An access that a master may make at once does what `qTry` gives after its issue. -/
theorem State.qCommand_eq {s t : State} {m tag : Nat} {q : QRef} {a : QAccess} (h : s.mayAccess m tag q a.writes)
    (hq : qWritten q = a.produces) (ht : (s.issueQueue m tag q a).qTry m tag q a = some t) :
    s.qCommand m tag q a = t := by
  obtain ⟨-, ⟨-, hf⟩, hr, hg, hown, hb, -⟩ := h
  rw [qCommand_eq_qRequest hown, qRequest_eq hf]
  exact qAccess_eq hq hr hg hb ht

/-- What an access leaves that is done at once. -/
theorem State.queueDone_spec {s : State} {m : Nat} (hm : inRange 0x400 0x443 m = false) (tag : Nat) (q : QRef)
    (a : QAccess) (x : QueueSt) (bytes : List Byte) :
    (s.queueDone m tag q a x bytes).queue q = x ∧ s.keepsQueues (s.queueDone m tag q a x bytes) q ∧
      s.queueDone m tag q a x bytes =
        { s with queues := (s.queueDone m tag q a x bytes).queues,
                 outstanding := s.outstanding ++ [s.outgoing m tag a.op (s.queueAddr m q a) a.len],
                 responses := s.responses ++ [{ mid := m, tag, code := .ok, bytes }] } := by
  unfold State.queueDone
  rw [respond_master hm]
  exact ⟨(s.issueQueue m tag q a).queue_setQueue_self q x, (s.issueQueue m tag q a).keepsQueues_setQueue q x, rfl⟩

/-! ### Producing (R100, R101) -/

/-- A queue with room and no open packet opens one. -/
theorem QueueSt.openPkt_ok {x : QueueSt} {cap : Nat} (ho : x.isOpen = false) (hu : x.used < cap) (dom mid : Nat) :
    x.openPkt cap dom mid = ({ x with pkts := x.pkts ++ [{ dom, mid }] }, .ok) := by
  simp [QueueSt.openPkt, ho, Nat.not_le.mpr hu]

/-- An open packet at the tail takes data that fits (R100). -/
theorem QueueSt.addData_ok {x : QueueSt} {l : List Pkt} {p : Pkt} {cap : Nat} {d : List (BitVec 256)}
    (hx : x.pkts = l ++ [p]) (hp : p.header = none) (hlen : p.slots.length + d.length ≤ 511)
    (hroom : x.used + d.length ≤ cap) :
    x.addData cap d = ({ x with pkts := l ++ [{ p with slots := p.slots ++ d }] }, .ok) := by
  have htake : d.take (511 - p.slots.length) = d := List.take_of_length_le (by omega)
  simp [QueueSt.addData, QueueSt.setLast, Pkt.closed, hx, hp, htake, Nat.not_lt.mpr hroom]

/-- An open packet at the tail is closed by its header, where no DROP waits for it (R100, R102). -/
theorem QueueSt.closePkt_ok {x : QueueSt} {l : List Pkt} {p : Pkt} (hx : x.pkts = l ++ [p]) (hp : p.header = none)
    (hd : x.dropping = false) (hdr : Pkt → BitVec 256) :
    x.closePkt hdr = ({ x with pkts := l ++ [{ p with header := some (hdr p) }] }, .ok) := by
  simp [QueueSt.closePkt, QueueSt.settle, QueueSt.setLast, Pkt.closed, hx, hp, hd]

/-- The header of a packet whose LAST_BYTES is an encoding and which lost no slot (R100). -/
theorem State.qHeader_eq (s : State) {p : Pkt} {last : Nat} (hs : p.slots ≠ []) (ht : p.trunc = false) (hl : last ≤ 32)
    (flags : Fin 65536) :
    s.qHeader p last flags.val = BitVec.ofNat 256
      ((32 * p.slots.length - 32 + (if last = 0 then 32 else last)) + flags.val * 2 ^ 16 + p.dom % 256 * 2 ^ 32 +
        s.tick % 2 ^ 64 * 2 ^ 64) := by
  simp [State.qHeader, State.qLength, hs, ht, Nat.not_lt.mpr hl, Nat.mod_eq_of_lt flags.isLt]

/-- 32 or 64 bytes are one or two slots. -/
theorem length_slotsOf {bytes : List Byte} (h : bytes.length = 32 ∨ bytes.length = 64) :
    32 * (slotsOf bytes).length = bytes.length := by
  rcases h with h | h <;> simp [slotsOf, ceilDiv, h]

/-- An OPEN that the queue takes. -/
theorem State.qProduce_opn {s : State} {q : QRef} {dom mid : Nat} {x : QueueSt}
    (h : (s.queue q).openPkt (qCap q) dom mid = (x, .ok)) : s.qProduce q dom mid .opn = (s.setQueue q x, .ok) := by
  simp [State.qProduce, h]

/-- DATA that the queue takes. -/
theorem State.qProduce_dat {s : State} {q : QRef} {d : List (BitVec 256)} {x : QueueSt}
    (h : (s.queue q).addData (qCap q) d = (x, .ok)) (dom mid : Nat) :
    s.qProduce q dom mid (.dat d) = (s.setQueue q x, .ok) := by
  simp [State.qProduce, h]

/-- A CLOSE that the queue takes, of a LAST_BYTES that is an encoding. -/
theorem State.qProduce_cls {s : State} {q : QRef} {last flags : Nat} {x : QueueSt} (hl : last ≤ 32)
    (h : (s.queue q).closePkt (fun p => s.qHeader p last flags) = (x, .ok)) (dom mid : Nat) :
    s.qProduce q dom mid (.cls last flags) = (s.setQueue q x, .ok) := by
  simp [State.qProduce, h, Nat.not_lt.mpr hl]

/-- A producer's access that its queue takes is answered OK; only a CLOSE of the mailbox does more (R338). -/
theorem State.qTry_of_qProduce {s : State} {m : Nat} {q : QRef} {a : QAccess} {x : QueueSt} (ha : a.produces = true)
    (hmail : q = .mailTx → ∀ last flags, a ≠ .cls last flags)
    (h : s.qProduce q (s.qDom m) m a = (s.setQueue q x, .ok)) (tag : Nat) :
    s.qTry m tag q a = some ((s.setQueue q x).respond m tag .ok) := by
  unfold State.qTry
  rw [h]
  cases a with
  | rd | drp => cases ha
  | opn | dat => cases q <;> rfl
  | cls last flags =>
    cases q with
    | mailTx => exact absurd rfl (hmail rfl last flags)
    | _ => rfl

section

variable {s : State} {m tag : Nat} {q : QRef}

/-- A producer's access that a master may make at once and that its queue takes. -/
theorem State.qCommand_of_qProduce {a : QAccess} {x : QueueSt} (h : s.mayAccess m tag q a.writes)
    (hq : qWritten q = true) (ha : a.produces = true) (hmail : q = .mailTx → ∀ last flags, a ≠ .cls last flags)
    (hx : (s.issueQueue m tag q a).qProduce q (s.qDom m) m a = ((s.issueQueue m tag q a).setQueue q x, .ok)) :
    s.qCommand m tag q a = s.queueDone m tag q a x [] :=
  qCommand_eq h (hq.trans ha.symm) (qTry_of_qProduce ha hmail hx tag)

/-- OPEN by a tray master. -/
theorem exec_qOpen (h : s.mayAccess m tag q true) (hq : qWritten q = true) (ho : (s.queue q).isOpen = false)
    (hu : (s.queue q).used < qCap q) :
    exec (.qOpen m tag q) s = .next
      (s.queueDone m tag q .opn { s.queue q with pkts := (s.queue q).pkts ++ [{ dom := s.qDom m, mid := m }] } []) :=
  have hprod := State.qProduce_opn (s := s.issueQueue m tag q .opn) (QueueSt.openPkt_ok ho hu (s.qDom m) m)
  (whenLive_live h.1 fun s => s.qCommand m tag q .opn).trans
    (congrArg Host.Outcome.next (State.qCommand_of_qProduce (a := .opn) h hq rfl (fun _ => nofun) hprod))

/-- DATA by a tray master. -/
theorem exec_qData {bytes : List Byte} {l : List Pkt} {p : Pkt} (h : s.mayAccess m tag q true)
    (hq : qWritten q = true) (hb : bytes.length = 32 ∨ bytes.length = 64) (hx : (s.queue q).pkts = l ++ [p])
    (hp : p.header = none) (hlen : p.slots.length + 2 ≤ 511) (hroom : (s.queue q).used + 2 ≤ qCap q) :
    exec (.qData m tag q bytes) s = .next
      (s.queueDone m tag q (.dat (slotsOf bytes))
        { s.queue q with pkts := l ++ [{ p with slots := p.slots ++ slotsOf bytes }] } []) := by
  have hslots := length_slotsOf hb
  have hdata := QueueSt.addData_ok (cap := qCap q) (d := slotsOf bytes) hx hp (by omega) (by omega)
  have hprod := State.qProduce_dat (s := s.issueQueue m tag q (.dat (slotsOf bytes))) hdata (s.qDom m) m
  have hexec : exec (.qData m tag q bytes) s = .next (s.qCommand m tag q (.dat (slotsOf bytes))) := by
    change execQData m tag q bytes s = _
    rw [execQData, whenLive_live h.1, if_pos hb]
  exact hexec.trans <|
    congrArg Host.Outcome.next (State.qCommand_of_qProduce (a := .dat _) h hq rfl (fun _ => nofun) hprod)

/-- CLOSE by a tray master, of a packet that no DROP waits for. -/
theorem exec_qClose {l : List Pkt} {p : Pkt} (last : Fin 256) (flags : Fin 65536) (h : s.mayAccess m tag q true)
    (hq : qWritten q = true) (hmail : q ≠ .mailTx) (hx : (s.queue q).pkts = l ++ [p]) (hp : p.header = none)
    (hlast : last.val ≤ 32) (hd : (s.queue q).dropping = false) :
    exec (.qClose m tag q last flags) s = .next
      (s.queueDone m tag q (.cls last.val flags.val)
        { s.queue q with pkts := l ++ [{ p with header := some (s.qHeader p last.val flags.val) }] } []) :=
  have hprod := State.qProduce_cls (s := s.issueQueue m tag q (.cls last.val flags.val)) hlast
    (QueueSt.closePkt_ok hx hp hd fun p => s.qHeader p last.val flags.val) (s.qDom m) m
  (whenLive_live h.1 fun s => s.qCommand m tag q (.cls last.val flags.val)).trans
    (congrArg Host.Outcome.next (State.qCommand_of_qProduce (a := .cls _ _) h hq rfl (fun e => absurd e hmail) hprod))

end

/-- Settles O15: each access passes its rights, is issued, and puts one new tail of its queue. -/
theorem queueProducerBuildsAPacket : Obligations.QueueProducerBuildsAPacket := by
  unfold Obligations.QueueProducerBuildsAPacket
  refine ⟨?opn, ?dat, ?cls⟩
  case opn =>
    intro s m tag q h hq ho hu
    obtain ⟨-, -, -, -, -, -, hm⟩ := id h
    exact ⟨_, exec_qOpen h hq ho hu, State.queueDone_spec hm tag q .opn _ []⟩
  case dat =>
    intro s m tag q bytes l p h hq hb hx hp hlen hroom
    obtain ⟨-, -, -, -, -, -, hm⟩ := id h
    obtain ⟨hq', hkeep, hrest⟩ := State.queueDone_spec (s := s) hm tag q (.dat (slotsOf bytes))
      { s.queue q with pkts := l ++ [{ p with slots := p.slots ++ slotsOf bytes }] } []
    exact ⟨_, exec_qData h hq hb hx hp hlen hroom, hq', hkeep, length_slotsOf hb ▸ hrest⟩
  case cls =>
    intro s m tag q l p last flags h hq hmail hx hp hs ht hlast hd _
    obtain ⟨-, -, -, -, -, -, hm⟩ := id h
    rw [← s.qHeader_eq hs ht hlast flags]
    exact ⟨_, exec_qClose last flags h hq hmail hx hp hlast hd, State.queueDone_spec hm tag q _ _ []⟩

end Sys2Proof.Machine
end

section
/-! PROOF. Packet queues: what consumes a queue's head packet, and how accesses that wait go on or end (R101, R102, R104). -/

namespace Sys2Proof.Machine

/-! ### Consuming (R102) -/

/-- A read of one slot takes the next slot. -/
theorem QueueSt.takeN_one {x y : QueueSt} {a : BitVec 256} {h : Bool} (ht : x.take1 = some (a, h, y)) :
    x.takeN 1 = some ([a], y) := by
  simp [QueueSt.takeN, ht]

/-- A closed packet at the head of the queue gives its header first, and its slots are next. -/
theorem QueueSt.take1_header {p : Pkt} {h : BitVec 256} (hh : p.header = some h) (hs : p.slots ≠ []) (ps : List Pkt) :
    ({ pkts := p :: ps } : QueueSt).take1 = some (h, true, { cur := some p.slots, pkts := ps }) := by
  simp [QueueSt.take1, hh, hs]

/-- A slot of the current packet that is not its last leaves the others. -/
theorem QueueSt.take1_slot {x : QueueSt} {a b : BitVec 256} {r : List (BitVec 256)} (h : x.cur = some (a :: b :: r)) :
    x.take1 = some (a, false, { x with cur := some (b :: r) }) := by
  simp [QueueSt.take1, h]

/-- A DROP discards the rest of the packet whose header was taken. -/
theorem QueueSt.dropPkt_cur {x : QueueSt} (h : x.cur.isSome = true) : x.dropPkt = { x with cur := none } := by
  simp [QueueSt.dropPkt, h]

/-- A read that its queue can serve is answered with the slots' bytes. -/
theorem State.qTry_rd {s : State} {q : QRef} {n : Nat} {l : List (BitVec 256)} {y : QueueSt}
    (h : (s.queue q).takeN n = some (l, y)) (m tag : Nat) :
    s.qTry m tag q (.rd n) = some ((s.setQueue q y).respond m tag .ok (l.flatMap slotBytes)) := by
  simp [State.qTry, h]

section

variable {s : State} {m tag : Nat} {q : QRef}

/-- EGRESS_READ of one slot by a tray master. -/
theorem exec_egressRead_one {a : BitVec 256} {y : QueueSt} {h : Bool} (hm : s.mayAccess m tag q false)
    (hq : qWritten q = false) (ht : (s.queue q).take1 = some (a, h, y)) :
    exec (.egressRead m tag q 1) s = .next (s.queueDone m tag q (.rd 1) y (slotBytes a)) := by
  have htry := State.qTry_rd (s := s.issueQueue m tag q (.rd 1)) (QueueSt.takeN_one ht) m tag
  rw [List.flatMap_singleton] at htry
  exact (whenLive_live hm.1 fun s => s.qCommand m tag q (.rd 1)).trans
    (congrArg Host.Outcome.next (State.qCommand_eq (a := .rd 1) hm hq htry))

/-- DROP by a tray master. -/
theorem exec_drop (hm : s.mayAccess m tag q true) (hq : qWritten q = false) :
    exec (.drop m tag q) s = .next (s.queueDone m tag q .drp (s.queue q).dropPkt []) :=
  (whenLive_live hm.1 fun s => s.qCommand m tag q .drp).trans
    (congrArg Host.Outcome.next (State.qCommand_eq (a := .drp) hm hq rfl))

end

/-- IN_TAKE: the fabric takes the slot shown at its ingress queue. -/
theorem exec_inTake {s : State} {c : Fin 192} {n : Fin 8} {a : BitVec 256} {h : Bool} {y : QueueSt}
    (hs : s.serving = true) (hp : s.portActs c.val 10 = true) (ht : (s.queue (.ingress c n)).take1 = some (a, h, y)) :
    exec (.inTake c n) s = .next (s.setQueue (.ingress c n) y) := by
  have htake : s.fabTake c.val n = s.setQueue (.ingress c n) y := by
    rw [State.fabTake, Fin.ofNat_val_eq_self, ht]
  change execInTake c n s = _
  rw [execInTake, whenServing_serving hs, if_pos hp, htake]

/-! ### Accesses that wait (R101, R102) -/

section

variable {s : State} {m tag : Nat} {x : Stall}

/-- A write held for QUEUE_TIMEOUT ends DENIED. -/
theorem exec_queueWriteTimeout (hl : s.live = true) (hx : s.findStall m tag = some x) (hw : ∀ n, x.acc ≠ .rd n)
    (ht : x.since + s.qTimeout x.q ≤ s.tick) :
    exec (.queueWriteTimeout m tag) s = .next ((s.dropStall m tag).respond m tag .denied) := by
  change execQueueWriteTimeout m tag s = _
  rw [execQueueWriteTimeout, whenLive_live hl, hx]
  cases hacc : x.acc with
  | rd n => exact absurd hacc (hw n)
  | _ => simp [hacc, ht]

/-- A read held for QUEUE_TIMEOUT ends EMPTY. -/
theorem exec_queueReadTimeout {n : Nat} (hl : s.live = true) (hx : s.findStall m tag = some x) (hr : x.acc = .rd n)
    (ht : x.since + s.qTimeout x.q ≤ s.tick) :
    exec (.queueReadTimeout m tag) s = .next ((s.dropStall m tag).respond m tag .empty) := by
  change execQueueReadTimeout m tag s = _
  rw [execQueueReadTimeout, whenLive_live hl, hx]
  simp [hr, ht]

/-- A held read that can go on does. -/
theorem exec_queueStallResume_rd {n : Nat} {l : List (BitVec 256)} {y : QueueSt} (hl : s.live = true)
    (hx : s.findStall m tag = some x) (hb : s.stallBarred x = false) (hf : s.stallFirst x = true) (hr : x.acc = .rd n)
    (ht : (s.queue x.q).takeN n = some (l, y)) :
    exec (.queueStallResume m tag) s = .next
      (((s.dropStall m tag).setQueue x.q y).respond m tag .ok (l.flatMap slotBytes)) := by
  have htry := State.qTry_rd (s := s.dropStall m tag) ht m tag
  change execQueueStallResume m tag s = _
  rw [execQueueStallResume, whenLive_live hl, hx]
  simp [hb, hf, hr, htry]

end

/-- Settles O16: a served access leaves what `take1`, `takeN` and `dropPkt` say of its queue, and an access that waits is
dropped from those held as it is answered. -/
theorem queueConsumersTakeDropAndWait : Obligations.QueueConsumersTakeDropAndWait := by
  unfold Obligations.QueueConsumersTakeDropAndWait
  refine ⟨?read, fun p ps h hh hs => QueueSt.take1_header hh hs ps, fun x a b r h => QueueSt.take1_slot h, ?drop, ?take,
    ?writeTimeout, ?readTimeout, ?resume⟩
  case read =>
    intro s m tag q a y h hm hq ht
    obtain ⟨-, -, -, -, -, -, hin⟩ := id hm
    exact ⟨_, exec_egressRead_one hm hq ht, State.queueDone_spec hin tag q (.rd 1) y _⟩
  case drop =>
    intro s m tag q hm hq hc
    obtain ⟨-, -, -, -, -, -, hin⟩ := id hm
    rw [← QueueSt.dropPkt_cur hc]
    exact ⟨_, exec_drop hm hq, State.queueDone_spec hin tag q .drp _ []⟩
  case take =>
    intro s c n a h y hs hp ht
    exact ⟨_, exec_inTake hs hp ht, s.queue_setQueue_self _ y, s.keepsQueues_setQueue _ y, rfl⟩
  case writeTimeout =>
    intro s m tag x hl hx hw ht hin
    rw [exec_queueWriteTimeout hl hx hw ht, State.respond_master hin]
    rfl
  case readTimeout =>
    intro s m tag x n hl hx hr ht hin
    rw [exec_queueReadTimeout hl hx hr ht, State.respond_master hin]
    rfl
  case resume =>
    intro s m tag x n l y hl hx hb hf hr ht hin
    refine ⟨_, exec_queueStallResume_rd hl hx hb hf hr ht, ?_⟩
    rw [State.respond_master hin]
    exact ⟨(s.dropStall m tag).queue_setQueue_self _ y, (s.dropStall m tag).keepsQueues_setQueue _ y, rfl⟩

end Sys2Proof.Machine
end

section
/-! PROOF. Borders between domains (R108) in a register file that is not in canonical form: a refutation. -/

namespace Sys2Proof.Machine

/-! The statement asks nothing of the form of the register file.  Where a file lists a register twice, the first entry is
the one that reads; a BLOCK reset (`State.blockRegs`) drops every entry that stands at its Reset value, whatever its
register, so that the second entry comes to read.  So CUP_OWNER can change with no border going to CLAMP0. -/

/-- A register file that lists the owner of cup 0 twice, with the word w in STR_SRC of router 0. -/
def ownedTwice (w : Word) : List (RegKey × Word) :=
  [(⟨.strSrc, 0x300, 0⟩, w), (⟨.cupOwner, 0, 0⟩, 0x01), (⟨.cupOwner, 0, 0⟩, 0x10), (⟨.cupBrd, 0, 1⟩, 0x3FF00001)]

/-- A device in service whose register file lists the owner of cup 0 twice: domain 0x01, its Reset value, and behind it
0x10.  Segment 0 of its east side, which faces cup 1, is at PASS, and the reaction of router 0's errors is BLOCK. -/
def twiceOwned : State :=
  { phase := .service, clk := { mode := .running }, regs := ownedTwice 0x00100000 }

/-- The command that is next: an error of router 0. -/
def routerError : Instr := .strainerEvent 0x300 0 [] []

/-- The device after that error. -/
def afterRouterError : State := twiceOwned.raiseEvent 0x300 0 [] []

/-- Every border but the east side of cup 0 is at its Reset value. -/
theorem reg_cupBrd_twiceOwned {c sd : Nat} (h : ¬(c = 0 ∧ sd = 1)) :
    twiceOwned.reg ⟨.cupBrd, c, sd⟩ = State.reset.reg ⟨.cupBrd, c, sd⟩ := by
  have hne : (⟨.cupBrd, c, sd⟩ : RegKey) ≠ ⟨.cupBrd, 0, 1⟩ := by simpa using h
  simp [State.reg, lookD, look, twiceOwned, ownedTwice, State.reset, h]

/-- The only open segment of the device faces a cup of its own domain. -/
theorem bordersClosed_twiceOwned : (twiceOwned.push routerError).BordersClosed := by
  refine ⟨fun c _ sd _ hfaces n hn => ?facing, fun hp => ?early, nofun⟩
  case facing =>
    by_cases h : c = 0 ∧ sd = 1
    · obtain ⟨rfl, rfl⟩ := h
      have hsame : ¬(twiceOwned.facesNone 0 1 = true ∨ twiceOwned.sameDomAcross 0 1 = false) := by decide
      exact absurd hfaces hsame
    · change twiceOwned.segMode c sd n = 0
      rw [State.segMode, State.fld, reg_cupBrd_twiceOwned h]
      exact segMode_reset c sd hn
  case early =>
    have hphase : ¬(twiceOwned.phase = .inReset ∨ twiceOwned.phase = .counting) := by decide
    exact absurd hp hphase

/-- The error is an event, with the reaction BLOCK. -/
theorem step_routerError : step (twiceOwned.push routerError) = .next afterRouterError := by
  have hlive : sourceExists 0x300 ∧ (twiceOwned.live || twiceOwned.stoppedSafe) = true := by decide
  exact congrArg Host.Outcome.next (if_pos hlive)

/-- The error of router 0 is counted, and its block is reset. -/
theorem afterRouterError_eq : afterRouterError =
    ((twiceOwned.setFlag ⟨.strSrc, 0x300, 0⟩ 31 true).countUp ⟨.strSrc, 0x300, 0⟩ 15 0).blockReset 0x300 := by
  rfl

/-- The reset of a router's block changes registers alone. -/
theorem blockReset_router (s : State) : s.blockReset 0x300 = s.blockRegs (blockResets 0x300) := by
  rfl

/-- No source's reaction is BLOCK at reset. -/
theorem ne_resetVal_of_block {n : Nat} {w : Word} (h : bits w 21 20 = 1) : w ≠ resetVal ⟨.strSrc, n, 0⟩ := by
  rintro rfl
  have hnone : bits (srcReset n) 21 20 = 0 := by
    have hout : ∀ (w : Word) (hi lo v : Nat), 21 < lo → bits (putBits w hi lo v) 21 20 = bits w 21 20 :=
      fun w hi lo v hlo => bits_putBits_ne w hi lo v 21 20 (.inl hlo)
    simp [srcReset, hout, bits_zero]
  cases hn : sourceExists n <;> simp [resetVal, hn, hnone, bits_zero] at h

/-- A write of the reaction of router 0 in such a register file. -/
theorem regs_setReg_ownedTwice {s : State} {v w : Word} (hs : s.regs = ownedTwice v) (h : bits w 21 20 = 1) :
    (s.setReg ⟨.strSrc, 0x300, 0⟩ w).regs = ownedTwice w := by
  simp [State.setReg, hs, putD, ne_resetVal_of_block h, ownedTwice, insertAt]

/-- The BLOCK reset of router 0 drops the first entry of the owner alone. -/
theorem regs_blockReset_ownedTwice {s : State} {w : Word} (hs : s.regs = ownedTwice w) (h : bits w 21 20 = 1) :
    (s.blockReset 0x300).regs =
      [(⟨.strSrc, 0x300, 0⟩, w), (⟨.cupOwner, 0, 0⟩, 0x10), (⟨.cupBrd, 0, 1⟩, 0x3FF00001)] := by
  have hw := ne_resetVal_of_block (n := 0x300) h
  have howner : resetVal ⟨.cupOwner, 0, 0⟩ = 0x01 := rfl
  have hbrd : resetVal ⟨.cupBrd, 0, 1⟩ = 0x3FF00000 := rfl
  simp [blockReset_router, State.blockRegs, hs, ownedTwice, blockResets, inRange, blkOf, hw, howner, hbrd]

/-- A field of the reaction of router 0 outside REACTION, set in such a register file. -/
theorem regs_setFld_ownedTwice {s : State} {w : Word} {hi lo : Nat} (v : Nat) (hs : s.regs = ownedTwice w)
    (h : bits w 21 20 = 1) (hout : 21 < lo ∨ hi < 20) :
    ∃ w', (s.setFld ⟨.strSrc, 0x300, 0⟩ hi lo v).regs = ownedTwice w' ∧ bits w' 21 20 = 1 := by
  have hreg : s.reg ⟨.strSrc, 0x300, 0⟩ = w := by simp [State.reg, hs, ownedTwice, lookD, look]
  have hw : bits (putBits w hi lo v) 21 20 = 1 := (bits_putBits_ne w hi lo v 21 20 hout).trans h
  refine ⟨putBits w hi lo v, ?_, hw⟩
  rw [State.setFld, hreg]
  exact regs_setReg_ownedTwice hs hw

/-- After the error cup 0 is of domain 0x10, and its east side is as it was. -/
theorem regs_afterRouterError : ∃ w, afterRouterError.regs =
    [(⟨.strSrc, 0x300, 0⟩, w), (⟨.cupOwner, 0, 0⟩, 0x10), (⟨.cupBrd, 0, 1⟩, 0x3FF00001)] := by
  obtain ⟨w, hset, hw⟩ := regs_setFld_ownedTwice (s := twiceOwned) (hi := 31) (lo := 31) 1 rfl rfl (by decide)
  obtain ⟨w', hcount, hw'⟩ := regs_setFld_ownedTwice (hi := 15) (lo := 0)
    (satInc (2 ^ (15 + 1 - 0) - 1) ((twiceOwned.setFlag ⟨.strSrc, 0x300, 0⟩ 31 true).fld ⟨.strSrc, 0x300, 0⟩ 15 0))
    hset hw (by decide)
  rw [afterRouterError_eq]
  exact ⟨w', regs_blockReset_ownedTwice hcount hw'⟩

/-- Cup 1 is of domain 0x01, and the segment between the two is at PASS still. -/
theorem open_afterRouterError :
    afterRouterError.sameDomAcross 0 1 = false ∧ afterRouterError.segMode 0 1 0 = 1 := by
  obtain ⟨w, hregs⟩ := regs_afterRouterError
  have howner0 : afterRouterError.reg ⟨.cupOwner, 0, 0⟩ = 0x10 := by simp [State.reg, hregs, lookD, look]
  have howner1 : afterRouterError.reg ⟨.cupOwner, 1, 0⟩ = 0x01 := by
    simp [State.reg, hregs, lookD, look, resetVal]
  have hbrd : afterRouterError.reg ⟨.cupBrd, 0, 1⟩ = 0x3FF00001 := by simp [State.reg, hregs, lookD, look]
  constructor
  · have hacross : cupAcross 0 1 = some (1, false) := rfl
    simp [State.sameDomAcross, hacross, State.cupDom, State.fld, howner0, howner1, bits]
  · simp [State.segMode, State.fld, hbrd, bits]

/-- Refutes O8: a BLOCK reset of router 0 makes the second entry of CUP[0]_OWNER read, with an open segment at a cup that
is now of another domain. -/
theorem not_bordersBetweenDomainsStayClosed : ¬ Obligations.BordersBetweenDomainsStayClosed := by
  unfold Obligations.BordersBetweenDomainsStayClosed
  intro h
  obtain ⟨hfacing, -, -⟩ := h _ _ bordersClosed_twiceOwned step_routerError
  obtain ⟨hdom, hopen⟩ := open_afterRouterError
  have hclamped := hfacing 0 (by decide) 1 (by decide) (.inr hdom) 0 (by decide)
  rw [hopen] at hclamped
  cases hclamped

end Sys2Proof.Machine
end

section
/-! PROOF. What a cup keeps of its registers and its state through the operations that CUP_STATE requests, grants and
releases are made of. -/

namespace Sys2Proof.Machine

variable {s t u : State}

/-! ### Reading through updates -/

@[simp] theorem State.cup_setReg (s : State) (k : RegKey) (w : Word) (c : Nat) : (s.setReg k w).cup c = s.cup c := rfl
@[simp] theorem State.cup_setFld (s : State) (k : RegKey) (hi lo v c : Nat) : (s.setFld k hi lo v).cup c = s.cup c := rfl
@[simp] theorem State.cup_setFlag (s : State) (k : RegKey) (n : Nat) (b : Bool) (c : Nat) :
    (s.setFlag k n b).cup c = s.cup c := rfl
@[simp] theorem State.cup_setFields (s : State) (k : RegKey) (fs : List (Nat × Nat × Nat)) (c : Nat) :
    (s.setFields k fs).cup c = s.cup c := rfl
@[simp] theorem State.reg_setCup (s : State) (c : Nat) (x : CupSt) (k : RegKey) : (s.setCup c x).reg k = s.reg k := rfl
@[simp] theorem State.reg_modCup (s : State) (c : Nat) (f : CupSt → CupSt) (k : RegKey) :
    (s.modCup c f).reg k = s.reg k := rfl

/-- A write of several fields, read at any register. -/
theorem State.reg_setFields (s : State) (k j : RegKey) (fs : List (Nat × Nat × Nat)) :
    (s.setFields k fs).reg j =
      if j = k then fs.foldl (fun w f => putBits w f.1 f.2.1 f.2.2) (s.reg k) else s.reg j := s.reg_setReg k j _

/-- A field write leaves the fields beside it. -/
theorem State.fld_setFld_ne (s : State) (k : RegKey) {hi lo v hi' lo' : Nat} (h : hi' < lo ∨ hi < lo') :
    (s.setFld k hi lo v).fld k hi' lo' = s.fld k hi' lo' := by
  rw [State.fld, State.reg_setFld, if_pos rfl, bits_putBits_ne _ _ _ _ _ _ h, State.fld]

/-- A field write leaves every other register. -/
theorem State.fld_setFld_other (s : State) {k j : RegKey} (h : j ≠ k) (hi lo v hi' lo' : Nat) :
    (s.setFld k hi lo v).fld j hi' lo' = s.fld j hi' lo' := by
  rw [State.fld, State.reg_setFld, if_neg h, State.fld]

/-- A field is below the power of two of its width. -/
theorem State.fld_lt (s : State) (k : RegKey) (hi lo : Nat) : s.fld k hi lo < 2 ^ (hi + 1 - lo) := bits_lt ..

/-! ### Steps that write registers, cups and the Urn alone -/

/-- From s to t nothing but registers, cups and the Urn changes. -/
def State.movesPower (s t : State) : Prop := t = { s with regs := t.regs, cups := t.cups, urn := t.urn }

theorem State.movesPower.trans (h : s.movesPower t) (g : t.movesPower u) : s.movesPower u := by
  unfold State.movesPower at *
  rw [h] at g
  exact g

theorem State.movesPower.hbm (h : s.movesPower t) : t.hbm = s.hbm := (congrArg State.hbm h :)

theorem State.movesPower_setReg (s : State) (k : RegKey) (w : Word) : s.movesPower (s.setReg k w) := rfl

theorem State.movesPower_setCup (s : State) (c : Nat) (x : CupSt) : s.movesPower (s.setCup c x) := rfl

theorem State.movesPower_unask (s : State) (n : Nat) : s.movesPower (s.unask n) := rfl

theorem State.movesCups.power (h : s.movesCups t) : s.movesPower t := by
  unfold State.movesCups at h
  unfold State.movesPower
  rw [h]

/-! ### Grants where no request waits (R372, R373) -/

/-- What a release of a cup's units changes where no request waits: fields of URN_CLS of the cup, the Urn's lists of levels
and the status buffers. -/
structure UrnFrame (c : Nat) (s t : State) : Prop where
  rest : s.movesPower t
  regs : s.keepsRegs t [⟨.urnCls, c, 0⟩]
  cup : ∀ d, ∃ l k, t.cup d = { s.cup d with status := l, statusLost := k }
  pend : t.urn.pend = s.urn.pend

theorem UrnFrame.refl (c : Nat) (s : State) : UrnFrame c s s := ⟨rfl, fun _ _ => rfl, fun _ => ⟨_, _, rfl⟩, rfl⟩

theorem UrnFrame.trans {c : Nat} (h : UrnFrame c s t) (g : UrnFrame c t u) : UrnFrame c s u where
  rest := h.rest.trans g.rest
  regs k hk := (g.regs k hk).trans (h.regs k hk)
  cup d := by
    obtain ⟨l, k, a⟩ := h.cup d
    obtain ⟨l', k', b⟩ := g.cup d
    exact ⟨l', k', by rw [b, a]⟩
  pend := g.pend.trans h.pend

/-- A write of URN_CLS of the cup. -/
theorem UrnFrame.setFld (s : State) (c hi lo v : Nat) : UrnFrame c s (s.setFld ⟨.urnCls, c, 0⟩ hi lo v) where
  rest := rfl
  regs := State.keepsRegs_of_setReg rfl
  cup _ := ⟨_, _, rfl⟩
  pend := rfl

/-- A status event of a cup. -/
theorem UrnFrame.statusEvent (s : State) (c d kind detail obj : Nat) : UrnFrame c s (s.statusEvent d kind detail obj) where
  rest := by unfold State.statusEvent; dsimp only; split <;> rfl
  regs k _ := by unfold State.statusEvent; dsimp only; split <;> rfl
  cup := (statusEvent_frame s d kind detail obj).cup
  pend := by unfold State.statusEvent; dsimp only; split <;> rfl

/-- A level put into force. -/
theorem UrnFrame.relevel (s : State) (c : Nat) : UrnFrame c s (s.relevel c) := by
  unfold State.relevel
  dsimp only
  split
  · exact .refl c s
  · split
    · exact (UrnFrame.setFld s c _ _ _).trans (.statusEvent _ _ _ _ _ _)
    · exact .setFld s c _ _ _

/-- A status event leaves every register. -/
@[simp] theorem State.reg_statusEvent (s : State) (c kind detail obj : Nat) (k : RegKey) :
    (s.statusEvent c kind detail obj).reg k = s.reg k := by
  unfold State.statusEvent
  dsimp only
  split <;> rfl

/-- A level put into force leaves every grant. -/
@[simp] theorem State.grant_relevel (s : State) (c d : Nat) : (s.relevel c).grant d = s.grant d := by
  have hset : (s.setFld ⟨.urnCls, c, 0⟩ 28 26 (s.level c)).grant d = s.grant d := by
    by_cases h : d = c
    · subst h; exact s.fld_setFld_ne _ (.inl (by decide))
    · exact s.fld_setFld_other (by simpa using h) ..
  unfold State.relevel
  dsimp only
  split
  · rfl
  · split
    · rw [State.grant, State.fld, State.reg_statusEvent]; exact hset
    · exact hset

/-- A level that returns to 0 leaves every register and what waits. -/
theorem UrnFrame.calm (s : State) (c n : Nat) : UrnFrame c s (s.calm n) := ⟨rfl, fun _ _ => rfl, fun _ => ⟨_, _, rfl⟩, rfl⟩

@[simp] theorem State.grant_calm (s : State) (n c : Nat) : (s.calm n).grant c = s.grant c := rfl

/-- Where no request waits there is none to examine. -/
theorem State.examine_idle (h : s.urn.pend = []) : s.examine = s := by
  rw [State.examine, h]
  rfl

/-- A release where no request waits. -/
theorem State.freeGrant_idle (c u : Nat) (h : s.urn.pend = []) :
    UrnFrame c s (s.freeGrant c u) ∧ (s.freeGrant c u).grant c = s.grant c - u := by
  have hlt : s.grant c - u < 2 ^ (10 + 1 - 0) := lt_of_le_of_lt (Nat.sub_le _ _) (s.fld_lt ⟨.urnCls, c, 0⟩ 10 0)
  have h1 := UrnFrame.setFld s c 10 0 (s.grant c - u)
  have g1 : (s.setFld ⟨.urnCls, c, 0⟩ 10 0 (s.grant c - u)).grant c = s.grant c - u :=
    (s.fld_setFld_self _ _ _ _ (by decide)).trans (Nat.mod_eq_of_lt hlt)
  unfold State.freeGrant
  dsimp only
  split
  · have hf := (h1.trans (.calm _ c c)).trans (.relevel _ c)
    rw [State.examine_idle (hf.pend.trans h)]
    exact ⟨hf, by simpa using g1⟩
  · have hf := h1.trans (.relevel _ c)
    rw [State.examine_idle (hf.pend.trans h)]
    exact ⟨hf, by simpa using g1⟩

/-- A cup that keeps k units where no request waits. -/
theorem State.keepUnits_idle (c k : Nat) (h : s.urn.pend = []) :
    UrnFrame c s (s.keepUnits c k) ∧ (s.keepUnits c k).grant c = min (s.grant c) k := by
  unfold State.keepUnits
  split
  · rename_i hle
    exact ⟨.refl c s, (Nat.min_eq_left hle).symm⟩
  · rename_i hgt
    obtain ⟨hf, hg⟩ := State.freeGrant_idle (s := s) c (s.grant c - k) h
    exact ⟨hf, by rw [hg]; omega⟩

/-! ### Latches of a cup that does not run (R42, R43) -/

/-- A cup that is not in RUN has no line that is high. -/
theorem State.lineHigh_of_stopped {c : Nat} (h : s.cupState c ≠ 2) (n : Nat) : s.lineHigh c n = false := by
  have hst : (s.fld ⟨.cupState, c, 0⟩ 1 0 == 2) = false := by simpa [State.cupState] using h
  unfold State.lineHigh
  dsimp only
  split
  · simp [hst]
  · rfl

/-- Its latches keep what they hold. -/
theorem State.cup_followLatches_of_stopped {c : Nat} (h : s.cupState c ≠ 2) : s.followLatches.cup c = s.cup c := by
  have hopen : s.openLatches c = [] := by
    refine List.eq_nil_iff_forall_not_mem.mpr fun v hv => ?_
    obtain ⟨k, -, hh, -⟩ := mem_openLatches.mp hv
    rw [State.lineHigh_of_stopped h] at hh
    cases hh
  rw [followLatches_eq]
  refine foldl_keeps (get := fun s : State => s.cup c) (fun t e he => ?_) s
  refine State.cup_setLatches_ne t fun hc => ?_
  obtain ⟨d, -, hd⟩ := List.mem_filterMap.mp he
  split at hd
  · cases hd
  · rename_i vs hvs
    cases hd
    obtain rfl : d = c := hc
    exact hvs hopen

end Sys2Proof.Machine
end

section
/-! PROOF. Cup states: their requests, the grants behind them, and the moves between OFF, DORMANT and RUN (R120, R121,
R128, R372, R373). -/

namespace Sys2Proof.Machine

variable {s : State}

/-! ### A grant (R373) -/

/-- One request that fits and is firm is granted once its tray cycle has passed. -/
theorem State.examine_one {c u k : Nat} (hp : s.urn.pend = [{ client := c, units := u, cycle := k }])
    (hfit : s.fits c u = true) (hfirm : s.firm c = true) (hk : k < s.trayCycle) :
    s.examine = s.giveUnits { client := c, units := u, cycle := k } := by
  simp [State.examine, hp, hk, State.examineList, hfit, hfirm]

/-- One request waits through the tray cycle of its arrival. -/
theorem State.examine_early {c u k : Nat} (hp : s.urn.pend = [{ client := c, units := u, cycle := k }])
    (hk : s.trayCycle ≤ k) : s.examine = s := by
  have : ¬ k < s.trayCycle := by omega
  simp [State.examine, hp, this, State.examineList]

/-- A granted cup that waits for its grant moves. -/
theorem State.onGrant_waiting {c : Nat} (hc : c < 192) (h : s.flag ⟨.cupState, c, 0⟩ 10 = true) :
    s.onGrant c = ((s.statusEvent c 6 (if s.firm c then 0 else 1) 0).setFlag ⟨.cupState, c, 0⟩ 10 false).modCup c
      fun x => { x with moving := true } := by
  have hw (d : Nat) : (s.statusEvent c 6 d 0).flag ⟨.cupState, c, 0⟩ 10 = true := by
    rw [State.flag, State.reg_statusEvent]; exact h
  simp [State.onGrant, hc, hw]

/-- The grant of a cup's pending request (R121, R373). -/
theorem State.giveUnits_cup {c u k : Nat} (hc : c < 192) (hp : s.urn.pend = [{ client := c, units := u, cycle := k }])
    (hw : s.flag ⟨.cupState, c, 0⟩ 10 = true) (hlt : s.grant c + u < 2048) :
    let t := s.giveUnits { client := c, units := u, cycle := k }
    t.grant c = s.grant c + u ∧ (t.cup c).moving = true ∧ t.flag ⟨.cupState, c, 0⟩ 10 = false ∧ t.urn.pend = [] := by
  have hne : (⟨.urnCls, c, 0⟩ : RegKey) ≠ ⟨.cupState, c, 0⟩ := by simp
  set s0 : State := { s with urn := { s.urn with pend := s.urn.pend.filter fun e => e.client != c } } with hs0
  have hpend0 : s0.urn.pend = [] := by simp [hs0, hp]
  set s1 := s0.setFld ⟨.urnCls, c, 0⟩ 10 0 (s.grant c + u) with hs1
  have hgrant1 : s1.grant c = s.grant c + u :=
    (s0.fld_setFld_self _ _ _ _ (by decide)).trans (Nat.mod_eq_of_lt hlt)
  have hframe := (UrnFrame.setFld s0 c 10 0 (s.grant c + u)).trans (.relevel _ c)
  have hw2 : (s1.relevel c).flag ⟨.cupState, c, 0⟩ 10 = true := by
    rw [State.flag, hframe.regs _ (by simp)]; exact hw
  have hgive : s.giveUnits { client := c, units := u, cycle := k } = (s1.relevel c).onGrant c := rfl
  intro t
  have ht : t = _ := hgive.trans (State.onGrant_waiting hc hw2)
  rw [ht]
  refine ⟨?_, by simp, ?_, ?_⟩
  · rw [State.grant, State.fld, State.reg_modCup, State.reg_setFlag, if_neg hne, State.reg_statusEvent]
    exact (State.grant_relevel s1 c c).trans hgrant1
  · rw [State.flag, State.reg_modCup]
    exact State.flag_setFlag_self _ _ _ _ (by decide)
  · have hst := (UrnFrame.statusEvent (s1.relevel c) c c 6 (if (s1.relevel c).firm c then 0 else 1) 0).pend
    exact hst.trans (hframe.pend.trans hpend0)

/-! ### Requests (R121, R183, R186) -/

/-- A write that no FINAL entry is to hold is performed. -/
theorem State.holdOr_free {p : Nat → Bool} (h : ∀ e ∈ s.finals, p e = false) (i : Instr) (act : State → State) :
    s.holdOr p i act = act s := by
  have hnone : s.finals.filter (fun e => p e && decide (s.tick ≤ s.spLocalTick e)) = [] :=
    List.filter_eq_nil_iff.mpr fun e he => by simp [h e he]
  rw [State.holdOr, hnone]

/-- A cup whose registers answer is there. -/
theorem State.cupGone_of_accepts {m : Nat} {k : RegKey} (h : s.accepts m k) (hk : blkOf k.name = .cup) :
    s.cupGone k.i = false := by
  obtain ⟨-, -, hgone, -⟩ := h
  simpa [State.keyGone, hk] using hgone

/-- An accepted request that no FINAL flip holds is performed and answered. -/
theorem exec_cupStateReq {m : Nat} {c : Fin 192} {v : Word} (h : s.accepts m ⟨.cupStateReq, c.val, 0⟩)
    (hv : bits v 1 0 ≠ 3) (hf : ∀ e ∈ s.finals, s.finalFlip c.val e = false) :
    exec (.cupStateReq m c v) s = .next ((s.stateReq c.val (bits v 1 0)).answer m .ok) := by
  change execCupStateReq m c v s = _
  rw [execCupStateReq, writeCommand_accepts h, State.writeStateReq, if_neg hv, State.holdOr_free]
  exact fun e he => by simp [hf e he]

/-- The reserved value changes nothing (R11). -/
theorem exec_cupStateReq_reserved {m : Nat} {c : Fin 192} {v : Word} (h : s.accepts m ⟨.cupStateReq, c.val, 0⟩)
    (hv : bits v 1 0 = 3) : exec (.cupStateReq m c v) s = .next { s with sent := okTo m :: s.sent } := by
  change execCupStateReq m c v s = _
  rw [execCupStateReq, writeCommand_accepts h, State.writeStateReq, if_pos hv]
  rfl

/-- A dropped request leaves PENDING clear and every other register as it is. -/
theorem State.regs_dropReq (s : State) (c : Nat) : (s.dropReq c).regs = (s.setFlag ⟨.cupState, c, 0⟩ 10 false).regs := rfl

/-- The device once an earlier request of cup c is dropped and TARGET is set. -/
def State.aimed (s : State) (c t : Nat) : State := (s.dropReq c).setFld ⟨.cupState, c, 0⟩ 9 8 t

/-- No other register than CUP_STATE is written. -/
theorem State.keepsRegs_aimed (s : State) (c t : Nat) : s.keepsRegs (s.aimed c t) [⟨.cupState, c, 0⟩] := by
  intro k hk
  have hne : k ≠ ⟨.cupState, c, 0⟩ := List.ne_of_not_mem_cons hk
  rw [State.aimed, State.reg_setFld, if_neg hne, State.reg_congr (s.regs_dropReq c), State.reg_setFlag, if_neg hne]

/-- The grants stay. -/
theorem State.grant_aimed (s : State) (c t d : Nat) : (s.aimed c t).grant d = s.grant d :=
  congrArg (bits · 10 0) (s.keepsRegs_aimed c t ⟨.urnCls, d, 0⟩ (by simp))

/-- A request of a cup in OFF for DORMANT or RUN asks for what DORMANT needs (R121). -/
theorem State.stateReq_off {c t : Nat} (hgone : s.cupGone c = false) (ht : t = 1 ∨ t = 2) (hoff : s.cupState c = 0) :
    s.stateReq c t = (s.aimed c t).askMove c 1 := by
  rcases ht with rfl | rfl <;> simp [State.stateReq, hgone, hoff, State.aimed]

/-- A cup that holds no unit asks the Urn for one (R121, R373). -/
theorem State.askMove_first {c : Nat} (hg : s.grant c = 0) (hp : s.urn.pend = []) :
    (s.askMove c 1).grant c = 0 ∧ (s.askMove c 1).flag ⟨.cupState, c, 0⟩ 10 = true ∧
    (s.askMove c 1).urn.pend = [{ client := c, units := 1, cycle := s.trayCycle }] := by
  have hask : s.askMove c 1 = (s.setFlag ⟨.cupState, c, 0⟩ 10 true).askUnits c 1 := by
    simp [State.askMove, hg]
  have hgrant : (s.setFlag ⟨.cupState, c, 0⟩ 10 true).grant c = s.grant c := s.fld_setFld_other (by simp) ..
  have hflag : (s.setFlag ⟨.cupState, c, 0⟩ 10 true).flag ⟨.cupState, c, 0⟩ 10 = true :=
    s.flag_setFlag_self _ _ _ (by decide)
  rw [hask]
  refine ⟨hgrant.trans hg, hflag, ?_⟩
  change placeReq _ (s.urn.pend.filter _) = _
  rw [hp]
  rfl

/-- No request of the cup waits once its target is set, and the others wait as before. -/
theorem State.pend_aimed (s : State) (c t : Nat) : (s.aimed c t).urn.pend = s.urn.pend.filter fun e => e.client != c := rfl

/-! ### Moves (R120, R121, R372) -/

/-- A cup that asks for what a move needs keeps its state. -/
theorem State.cupState_askMove (s : State) (c n : Nat) : (s.askMove c n).cupState c = s.cupState c := by
  have hset := s.fld_setFld_ne (v := 1) ⟨.cupState, c, 0⟩ (hi := 10) (lo := 10) (hi' := 1) (lo' := 0) (.inl (by decide))
  unfold State.askMove
  split
  · exact hset
  · rfl

/-- It keeps its fabric too. -/
theorem State.fab_askMove (s : State) (c n : Nat) : ((s.askMove c n).cup c).fab = (s.cup c).fab := by
  unfold State.askMove
  split
  · rfl
  · rw [State.cup_modCup_self]

/-- A cup that leaves OFF with its first unit is in DORMANT, its fabric as it powers on (R121). -/
theorem State.toDormant_spec (s : State) (c : Nat) :
    (s.toDormant c).cupState c = 1 ∧ ((s.toDormant c).cup c).fab = powerOnFab (s.cup c).active (s.cup c).fab ∧
    (s.cupTarget c ≠ 2 → ((s.toDormant c).cup c).moving = false ∧ s.keepsRegs (s.toDormant c) [⟨.cupState, c, 0⟩] ∧
      s.toDormant c = { s with regs := (s.toDormant c).regs, cups := (s.toDormant c).cups }) := by
  set s1 := (s.modCup c fun x => { x with fab := powerOnFab x.active x.fab, moving := false }).setFld
    ⟨.cupState, c, 0⟩ 1 0 1 with hs1
  have hstate1 : s1.cupState c = 1 := State.fld_setFld_self _ _ _ _ _ (by decide)
  have hregs2 : s1.followLatches.regs = s1.regs := s1.followLatches_movesCups.regs
  have hstate2 : s1.followLatches.cupState c = 1 := (State.fld_congr hregs2 _ _ _).trans hstate1
  have htarget2 : s1.followLatches.cupTarget c = s.cupTarget c :=
    (State.fld_congr hregs2 _ _ _).trans (State.fld_setFld_ne _ _ (.inr (by decide)))
  have hcup2 : s1.followLatches.cup c = { s.cup c with fab := powerOnFab (s.cup c).active (s.cup c).fab, moving := false } := by
    rw [State.cup_followLatches_of_stopped (by rw [hstate1]; decide)]
    simp [hs1]
  have hdef : s.toDormant c =
      if s1.followLatches.cupTarget c = 2 then s1.followLatches.askMove c (max 1 (s1.followLatches.need c))
      else s1.followLatches := rfl
  rw [htarget2] at hdef
  by_cases ht : s.cupTarget c = 2
  · rw [if_pos ht] at hdef
    rw [hdef]
    refine ⟨?_, ?_, fun h => absurd ht h⟩
    · rw [State.cupState_askMove, hstate2]
    · rw [State.fab_askMove, hcup2]
  · rw [if_neg ht] at hdef
    rw [hdef]
    refine ⟨hstate2, by rw [hcup2], fun _ => ⟨by rw [hcup2], ?_, ?_⟩⟩
    · exact State.keepsRegs_of_setReg hregs2
    · have hmoves := s1.followLatches_movesCups
      unfold State.movesCups at hmoves
      rw [hmoves]
      rfl

/-- A cup that reaches RUN: its lines run from the next tick on (R121). -/
theorem State.toRun_spec (s : State) (c : Nat) :
    (s.toRun c).cupState c = 2 ∧ ((s.toRun c).cup c).clocksOn = true ∧
      ((s.toRun c).cup c).startRoot = 16 * s.nextTick ∧ ((s.toRun c).cup c).fab = (s.cup c).fab ∧
      s.keepsRegs (s.toRun c) [⟨.cupState, c, 0⟩] ∧
      s.toRun c = { s with regs := (s.toRun c).regs, cups := (s.toRun c).cups } := by
  have hcup : (s.toRun c).cup c = { s.cup c with moving := false, emulated := false, clocksOn := true, stopTick := none,
                                                 startRoot := 16 * s.nextTick, idleSince := s.tick } := by
    unfold State.toRun
    rw [State.cup_modCup_self]
    rfl
  refine ⟨s.fld_setFld_self _ _ _ _ (by decide), ?_, ?_, ?_, State.keepsRegs_of_setReg rfl, rfl⟩
  · rw [hcup]
  · rw [hcup]
  · rw [hcup]

/-- A cup that stops keeps one unit (R121, R372). -/
theorem State.clocksStop_spec {c : Nat} (hp : s.urn.pend = []) :
    let t := (((s.setFields ⟨.cupState, c, 0⟩ [(11, 11, 0), (1, 0, 1)]).setFlag ⟨.urnCls, c, 0⟩ 29 false).modCup c
      fun x => { x with clocksOn := false, stopTick := none, capHold := false }).keepUnits c 1
    t.cupState c = 1 ∧ (t.cup c).clocksOn = false ∧ t.grant c = min (s.grant c) 1 ∧ (t.cup c).fab = (s.cup c).fab ∧
      s.keepsRegs t [⟨.cupState, c, 0⟩, ⟨.urnCls, c, 0⟩] ∧ s.movesPower t := by
  have hne : (⟨.cupState, c, 0⟩ : RegKey) ≠ ⟨.urnCls, c, 0⟩ := by simp
  set s1 := s.setFields ⟨.cupState, c, 0⟩ [(11, 11, 0), (1, 0, 1)] with hs1
  set s2 := s1.setFlag ⟨.urnCls, c, 0⟩ 29 false with hs2
  set s3 := s2.modCup c fun x => { x with clocksOn := false, stopTick := none, capHold := false } with hs3
  obtain ⟨hframe, hgrant⟩ := State.keepUnits_idle (s := s3) c 1 hp
  have hstate : s3.cupState c = 1 := by
    rw [State.cupState, State.fld, hs3, State.reg_modCup, hs2, State.reg_setFlag, if_neg hne, hs1, State.reg_setFields,
      if_pos rfl]
    exact bits_putBits_self _ _ _ _ (by decide)
  have hgrant3 : s3.grant c = s.grant c := by
    have h2 : s2.grant c = s1.grant c := s1.fld_setFld_ne _ (.inl (by decide))
    have h1 : s1.grant c = s.grant c := by
      rw [State.grant, State.fld, hs1, State.reg_setFields, if_neg hne.symm, State.grant, State.fld]
    exact h2.trans h1
  obtain ⟨l, n, hcup⟩ := hframe.cup c
  intro t
  refine ⟨?_, ?_, ?_, ?_, ?_, ?_⟩
  · rw [State.cupState, State.fld, hframe.regs _ (by simp)]; exact hstate
  · rw [hcup, hs3, State.cup_modCup_self]
  · rw [hgrant, hgrant3]
  · rw [hcup, hs3, State.cup_modCup_self, hs2, State.cup_setFlag, hs1, State.cup_setFields]
  · intro k hk
    obtain ⟨hk1, hk2⟩ : k ≠ ⟨.cupState, c, 0⟩ ∧ k ≠ ⟨.urnCls, c, 0⟩ := by simpa using hk
    rw [hframe.regs k (by simpa using hk2), hs3, State.reg_modCup, hs2, State.reg_setFlag, if_neg hk2, hs1,
      State.reg_setFields, if_neg hk1]
  · exact (((s.movesPower_setReg _ _).trans (s1.movesPower_setReg _ _)).trans (s2.movesPower_setCup _ _)).trans hframe.rest

/-! The device as a cup loses its state, before the Urn takes its units back (`State.cupOff`). -/

/-- What a cup loses on its way to OFF (R120, R123): all but its planes, its capture and what the owner set. -/
def CupSt.unpowered (x : CupSt) : CupSt :=
  { x with fab := { waitE1 := x.fab.waitE1 ++ x.fab.waitE2.filter fun n => !x.fab.waitE1.contains n }, old := none,
           clearing := [], clocksOn := false, stopTick := none, moving := false, deferred := none, emulated := false,
           capWait := [], capHold := false, awake := false }

/-- The device once a cup has lost its state, its request dropped. -/
def State.unpowered (s : State) (c : Nat) : State :=
  ((((s.setFields ⟨.cupState, c, 0⟩ [(11, 11, 0), (10, 10, 0), (1, 0, 0)]).setFlag ⟨.cupCap, c, 0⟩ 2 false).setFlag
    ⟨.urnCls, c, 0⟩ 29 false).modCup c CupSt.unpowered).unask c

/-- Nothing but registers, the cup and the Urn is written. -/
theorem State.movesPower_unpowered (s : State) (c : Nat) : s.movesPower (s.unpowered c) :=
  ((((s.movesPower_setReg _ _).trans (State.movesPower_setReg _ _ _)).trans (State.movesPower_setReg _ _ _)).trans
    (State.movesPower_setCup _ _ _)).trans (State.movesPower_unask _ _)

theorem State.cupOff_eq (s : State) (c : Nat) : s.cupOff c = ((s.unpowered c).keepUnits c 0).followLatches := rfl

/-- The cup that has lost its state. -/
theorem State.cup_unpowered (s : State) (c : Nat) : (s.unpowered c).cup c = (s.cup c).unpowered := by
  change (State.modCup _ c CupSt.unpowered).cup c = _
  rw [State.cup_modCup_self]
  rfl

/-- The registers written. -/
theorem State.reg_unpowered (s : State) (c : Nat) (k : RegKey) : (s.unpowered c).reg k =
    (((s.setFields ⟨.cupState, c, 0⟩ [(11, 11, 0), (10, 10, 0), (1, 0, 0)]).setFlag ⟨.cupCap, c, 0⟩ 2 false).setFlag
      ⟨.urnCls, c, 0⟩ 29 false).reg k := rfl

/-- Its state is OFF. -/
theorem State.cupState_unpowered (s : State) (c : Nat) : (s.unpowered c).cupState c = 0 := by
  rw [State.cupState, State.fld, State.reg_unpowered, State.reg_setFlag, if_neg (by simp), State.reg_setFlag,
    if_neg (by simp), State.reg_setFields, if_pos rfl]
  exact bits_putBits_self _ _ _ _ (by decide)

/-- Only CUP_STATE, CUP_CAP and URN_CLS of the cup are written. -/
theorem State.keepsRegs_unpowered (s : State) (c : Nat) :
    s.keepsRegs (s.unpowered c) [⟨.cupState, c, 0⟩, ⟨.cupCap, c, 0⟩, ⟨.urnCls, c, 0⟩] := by
  intro k hk
  obtain ⟨hk1, hk2, hk3⟩ : k ≠ ⟨.cupState, c, 0⟩ ∧ k ≠ ⟨.cupCap, c, 0⟩ ∧ k ≠ ⟨.urnCls, c, 0⟩ := by simpa using hk
  rw [State.reg_unpowered, State.reg_setFlag, if_neg hk3, State.reg_setFlag, if_neg hk2, State.reg_setFields, if_neg hk1]

/-- A cup that reaches OFF keeps its planes alone (R120, R121, R372). -/
theorem State.cupOff_spec {c : Nat} (hp : s.urn.pend = []) :
    (s.cupOff c).cupState c = 0 ∧ (s.cupOff c).grant c = 0 ∧ ((s.cupOff c).cup c).clocksOn = false ∧
      ((s.cupOff c).cup c).fab.macs = [] ∧ ((s.cupOff c).cup c).fab.bram = [] ∧
      ((s.cupOff c).cup c).active = (s.cup c).active ∧ ((s.cupOff c).cup c).shadow = (s.cup c).shadow ∧
      s.keepsRegs (s.cupOff c) [⟨.cupState, c, 0⟩, ⟨.cupCap, c, 0⟩, ⟨.urnCls, c, 0⟩] ∧
      s.movesPower (s.cupOff c) := by
  have hpend : (s.unpowered c).urn.pend = [] := by
    change s.urn.pend.filter _ = []
    rw [hp]
    rfl
  obtain ⟨hframe, hgrant⟩ := State.keepUnits_idle c 0 hpend
  have hmoves := ((s.unpowered c).keepUnits c 0).followLatches_movesCups
  rw [← State.cupOff_eq] at hmoves
  have hreg : ∀ k, k ≠ ⟨.urnCls, c, 0⟩ → (s.cupOff c).reg k = (s.unpowered c).reg k := fun k hk =>
    (State.reg_congr hmoves.regs k).trans (hframe.regs k (by simpa using hk))
  have hstate : ((s.unpowered c).keepUnits c 0).cupState c = 0 := by
    rw [State.cupState, State.fld, hframe.regs _ (by simp)]
    exact s.cupState_unpowered c
  obtain ⟨l, n, hcup⟩ := hframe.cup c
  have hcupOff : (s.cupOff c).cup c = { (s.cup c).unpowered with status := l, statusLost := n } := by
    rw [State.cupOff_eq, State.cup_followLatches_of_stopped (by rw [hstate]; decide), hcup, State.cup_unpowered]
  refine ⟨(State.fld_congr hmoves.regs _ _ _).trans hstate, ?_, ?_, ?_, ?_, ?_, ?_, ?_, ?_⟩
  · rw [State.grant, State.fld_congr hmoves.regs]
    exact hgrant.trans (Nat.min_zero _)
  · rw [hcupOff]; rfl
  · rw [hcupOff]; rfl
  · rw [hcupOff]; rfl
  · rw [hcupOff]; rfl
  · rw [hcupOff]; rfl
  · intro k hk
    have hk3 : k ≠ ⟨.urnCls, c, 0⟩ := fun e => hk (by simp [e])
    exact (hreg k hk3).trans (s.keepsRegs_unpowered c k hk)
  · exact ((s.movesPower_unpowered c).trans hframe.rest).trans hmoves.power

end Sys2Proof.Machine
end

section
/-! PROOF. A register of a cup's block through the work of the Urn, the tray and the memory: nothing there writes one, and
no event there has a cup for its source. -/

namespace Sys2Proof.Machine

/-- The registers of the cups' block. -/
def ofCup (n : RegName) : Bool := blkOf n == .cup

/-- A register file in which a cup's register reads a word that no BLOCK reset of another block can change: it is not
listed at its Reset value. -/
structure RegFile.Holds (key : RegKey) (word : Word) (l : List (RegKey × Word)) : Prop where
  block : ofCup key.name = true
  listed : look l key ≠ some (resetVal key)
  read : lookD l key (resetVal key) = word

/-- The register file of a state. -/
def State.regFile (s : State) : List (RegKey × Word) := s.regs

/-- A state whose register file is so: an update of any other part leaves it as it stands. -/
abbrev Holds (key : RegKey) (word : Word) (s : State) : Prop := RegFile.Holds key word s.regFile

variable {key : RegKey} {word : Word} {s t : State}

/-! ### Sparse lists -/

/-- The value listed where one was put. -/
theorem look_putD_self {κ α : Type} [DecidableEq κ] [DecidableEq α] (lt : κ → κ → Bool) (m : List (κ × α)) (k : κ) (v d : α) :
    look (putD lt m k v d) k ≠ some d := by
  unfold putD
  split
  · rw [look_erase_self]; exact nofun
  · rename_i hv; rw [look_insertAt_self]; simpa using hv

/-- The values listed elsewhere. -/
theorem look_putD_ne {κ α : Type} [DecidableEq κ] [DecidableEq α] (lt : κ → κ → Bool) (m : List (κ × α)) {k j : κ} (v d : α)
    (h : j ≠ k) : look (putD lt m k v d) j = look m j := by
  unfold putD
  split
  · exact look_erase_ne m k j h
  · exact look_insertAt_ne lt m k j v h

/-- An entry that a map leaves and a filter keeps is listed as before. -/
theorem look_map_filter {κ α : Type} [DecidableEq κ] (f : κ × α → κ × α) (p : κ × α → Bool) (m : List (κ × α)) {k : κ}
    (hf : ∀ e, (f e).1 = e.1) (hk : ∀ v, f (k, v) = (k, v)) (hp : ∀ v, look m k = some v → p (k, v) = true) :
    look ((m.map f).filter p) k = look m k := by
  induction m with
  | nil => rfl
  | cons e r ih =>
    obtain ⟨j, v⟩ := e
    by_cases hj : k = j
    · subst hj
      have hkeep : p (k, v) = true := hp v (by simp [look])
      simp [hk, hkeep, look]
    · have hr := ih fun v hv => hp v (by simpa [look, hj] using hv)
      obtain ⟨w, hw⟩ : ∃ w, f (j, v) = (j, w) := ⟨(f (j, v)).2, Prod.ext (hf _) rfl⟩
      have hskip (l : List (κ × α)) : look ((j, w) :: l) k = look l k := by simp [look, hj]
      cases hpw : p (j, w) <;> simp [hw, hpw, hskip, hr, look, hj]

/-! ### Updates -/

/-- What was written. -/
theorem Holds.of_setReg {s : State} {key : RegKey} {word : Word} (hk : ofCup key.name = true) :
    Holds key word (s.setReg key word) :=
  ⟨hk, look_putD_self _ _ _ _ _, lookD_putD_self ..⟩

/-- A write of another register. -/
theorem Holds.setReg_ne {k : RegKey} {w : Word} (h : Holds key word s) (hne : key ≠ k) : Holds key word (s.setReg k w) :=
  ⟨h.block, (look_putD_ne _ _ _ _ hne).trans_ne h.listed, (s.reg_setReg_ne w hne).trans h.read⟩

/-- A write of a register of another block. -/
theorem Holds.setReg {k : RegKey} {w : Word} (h : Holds key word s) (hk : ofCup k.name = false) :
    Holds key word (s.setReg k w) :=
  h.setReg_ne fun e => by rw [← e, h.block] at hk; cases hk

/-- A BLOCK reset of registers of other blocks. -/
theorem Holds.blockRegs {p : RegKey → Bool} (h : Holds key word s) (hp : p key = false) :
    Holds key word (s.blockRegs p) := by
  have hlook : look (s.blockRegs p).regs key = look s.regs key := by
    refine look_map_filter _ _ _ (fun e => ?_) (fun v => ?_) (fun v hv => ?_)
    · split <;> rfl
    · simp [hp]
    · have hne : v ≠ resetVal key := fun e => h.listed (e ▸ hv)
      simpa using hne
  exact ⟨h.block, hlook.trans_ne h.listed, (congrArg (·.getD (resetVal key)) hlook).trans h.read⟩

/-- A source that is no cup's resets no register of a cup. -/
theorem blockResets_ofCup {n : Nat} (hk : ofCup key.name = true) (hn : n < 0x100 ∨ 0x1C0 ≤ n) : blockResets n key = false := by
  have hcup : inRange 0x100 0x1BF n = false := by
    rcases hn with h | h <;> simp [inRange] <;> omega
  have hblk : blkOf key.name = .cup := by simpa [ofCup] using hk
  have hname (m : RegName) (hm : ofCup m = false) : (key.name == m) = false := by
    refine beq_eq_false_iff_ne.mpr fun e => ?_
    rw [e, hm] at hk
    cases hk
  simp [blockResets, hcup, hblk, hname .casLink rfl, hname .casLdly rfl, hname .infBktCfg rfl, hname .infPchStat rfl,
    hname .infPchCecnt rfl, hname .infPchOvfcnt rfl]

/-! ### Ways to build a state -/

/-- A choice between two states. -/
theorem Holds.ite {c : Prop} [Decidable c] (hs : Holds key word s) (ht : Holds key word t) :
    Holds key word (if c then s else t) := by
  split <;> assumption

/-- Steps in a row. -/
theorem Holds.foldl {ι : Type} {f : State → ι → State} {l : List ι} (h : Holds key word s)
    (hf : ∀ t i, Holds key word t → Holds key word (f t i)) : Holds key word (l.foldl f s) :=
  List.foldlRecOn l f h fun t ht i _ => hf t i ht

/-- Steps in a row that each give a value too. -/
theorem Holds.foldl_fst {ι α : Type} {f : State × α → ι → State × α} {l : List ι} {x : α} (h : Holds key word s)
    (hf : ∀ t y i, Holds key word t → Holds key word (f (t, y) i).1) : Holds key word (l.foldl f (s, x)).1 :=
  List.foldlRecOn (motive := fun e : State × α => Holds key word e.1) l f h fun e he i _ => hf e.1 e.2 i he

end Sys2Proof.Machine
end

section
/-! PROOF. A register of a cup's block through the operations of the Strainer, the leases, the memory and the Urn, one
lemma per operation: each is made of writes of other blocks' registers and of events whose source is no cup's. -/

namespace Sys2Proof.Machine

variable {key : RegKey} {word : Word} {s t : State}

theorem Holds.setFld {k : RegKey} {hi lo v : Nat} (h : Holds key word s) (hk : ofCup k.name = false) :
    Holds key word (s.setFld k hi lo v) := .setReg h hk

theorem Holds.setFlag {k : RegKey} {n : Nat} {b : Bool} (h : Holds key word s) (hk : ofCup k.name = false) :
    Holds key word (s.setFlag k n b) := .setFld h hk

theorem Holds.countUp {k : RegKey} {hi lo : Nat} (h : Holds key word s) (hk : ofCup k.name = false) :
    Holds key word (s.countUp k hi lo) := .setFld h hk

theorem Holds.deferOn {n : Nat} {p : Lease → Bool} (h : Holds key word s) : Holds key word (s.deferOn n p) :=
  .countUp h rfl

theorem Holds.statusEvent {c kind detail obj : Nat} (h : Holds key word s) :
    Holds key word (s.statusEvent c kind detail obj) := .ite h h

theorem Holds.setFields {k : RegKey} {fs : List (Nat × Nat × Nat)} (h : Holds key word s) (hk : ofCup k.name = false) :
    Holds key word (s.setFields k fs) := .setReg h hk

theorem Holds.modStk {i : Nat} {f : StackSt → StackSt} (h : Holds key word s) : Holds key word (s.modStk i f) := h

theorem Holds.exitSr {st : Nat} (h : Holds key word s) : Holds key word (s.exitSr st) :=
  .modStk (.setFld (.foldl (.foldl h fun _ _ h1 => .setReg h1 rfl) fun _ _ h1 => .ite h1 h1) rfl)

theorem Holds.touchStack {st : Nat} (h : Holds key word s) : Holds key word (s.touchStack st) := .ite (.exitSr h) h

theorem Holds.signalCores {d : Nat} (h : Holds key word s) : Holds key word (s.signalCores d) :=
  .foldl h fun _ _ h1 => .ite h1 h1

theorem Holds.sendMsix {w vec : Nat} (h : Holds key word s) : Holds key word (s.sendMsix w vec) :=
  .ite (.ite h h) (.ite h h)

theorem Holds.enqueueEvent {w cap vec : Nat} {r : CadRec} (h : Holds key word s) :
    Holds key word (s.enqueueEvent w cap vec r) :=
  .ite (.ite h (.signalCores (.sendMsix (.setFlag h rfl)))) (.countUp h rfl)

theorem Holds.errPulse (h : Holds key word s) : Holds key word s.errPulse := .ite (.setFlag h rfl) h

theorem Holds.l2Mark {cl : Nat} {p : Nat → Bool} (h : Holds key word s) : Holds key word (s.l2Mark cl p) := h

theorem Holds.pinSplit {t' d : Nat} (h : Holds key word s) : Holds key word (s.pinSplit t' d) := .l2Mark (.setFld h rfl)

theorem Holds.dropClient {n : Nat} (h : Holds key word s) : Holds key word (s.dropClient n) := .setFields h rfl

theorem Holds.respond {m tag : Nat} {code : Code} {bytes : List Byte} (h : Holds key word s) :
    Holds key word (s.respond m tag code bytes) := .ite h (.ite (.ite h (.setFlag h rfl)) h)

theorem Holds.denyIn {win : Bool} {m tag : Nat} (h : Holds key word s) : Holds key word (s.denyIn win m tag) :=
  .ite h (.respond h)

theorem Holds.denyTray {m tag : Nat} (h : Holds key word s) : Holds key word (s.denyTray m tag) := .denyIn h

theorem Holds.colForget {n : Nat} (h : Holds key word s) : Holds key word (s.colForget n) :=
  .foldl h fun _ _ h1 => .denyTray h1

theorem Holds.lanePort {l : Nat} (h : Holds key word s) : Holds key word (s.lanePort l) := .ite h h

theorem Holds.setQueue {q : QRef} {x : QueueSt} (h : Holds key word s) : Holds key word (s.setQueue q x) := h

theorem Holds.modQuad {q : Nat} {f : QuadSt → QuadSt} (h : Holds key word s) : Holds key word (s.modQuad q f) := h

theorem Holds.portForget {q : Nat} (h : Holds key word s) : Holds key word (s.portForget q) :=
  .setQueue (.setQueue (.modQuad (.foldl h fun _ _ h1 => .lanePort h1)))

theorem Holds.coreForget {t' : Nat} (h : Holds key word s) : Holds key word (s.coreForget t') :=
  .ite (.dropClient h) (.dropClient (.dropClient h))

theorem Holds.blockStore {n : Nat} (h : Holds key word s) : Holds key word (s.blockStore n) := by
  delta State.blockStore
  extract_lets _ _ _ _ _ s1 _ s2 s3
  have h1 : Holds key word s1 := .dropClient h
  have h2 : Holds key word s2 := h1
  have h3 : Holds key word s3 := h2
  exact .ite h <| .ite h <| .ite h <| .ite h3 <| .ite h <| .ite (.colForget h) <| .ite h <| .ite (.portForget h) <|
    .ite h <| .ite h <| .ite h <| .ite h <| .ite h <| .ite (.coreForget h) <| .ite h <| .ite h h

theorem Holds.urnReset (h : Holds key word s) : Holds key word s.urnReset := h

theorem Holds.blockReset {n : Nat} (h : Holds key word s) (hn : n < 0x100 ∨ 0x1C0 ≤ n) :
    Holds key word (s.blockReset n) := by
  delta State.blockReset
  extract_lets _ s1 s2
  have h1 : Holds key word s1 := .ite (.pinSplit h) h
  have h2 : Holds key word s2 := .blockStore (.blockRegs (.ite (.urnReset h1) h1) (blockResets_ofCup h.block hn))
  exact .ite (.setFld h2 rfl) h2

theorem Holds.addRecord {r : CadRec} (h : Holds key word s) : Holds key word (s.addRecord r) :=
  .ite h (.ite (.countUp h rfl) h)

theorem Holds.raiseEvent {n kind : Nat} {doms : List Nat} {bytes : List Byte} {own : Option Nat}
    (h : Holds key word s) (hn : n < 0x100 ∨ 0x1C0 ≤ n) : Holds key word (s.raiseEvent n kind doms bytes own) := by
  delta State.raiseEvent
  extract_lets _ _ _ _ _ _ s1 s2 s3 s4 s5 s6 s7 s8
  have h1 : Holds key word s1 := .countUp (.setFlag h rfl) rfl
  have h2 : Holds key word s2 := by
    unfold s2
    refine .foldl h1 fun t1 _ h2 => ?_
    split
    · exact .ite (.enqueueEvent h2) h2
    · exact h2
  have h3 : Holds key word s3 := .ite (.enqueueEvent h2) h2
  have h4 : Holds key word s4 := .ite h3 h3
  have h5 : Holds key word s5 := .ite (.errPulse h4) h4
  have h6 : Holds key word s6 := .ite (.statusEvent h5) h5
  have h7 : Holds key word s7 := .ite (.blockReset h6 hn) h6
  have h8 : Holds key word s8 := .ite (.addRecord h7) h7
  exact .ite h8 h8

theorem Holds.secdedEvent {st line : Nat} (h : Holds key word s) : Holds key word (s.secdedEvent st line) :=
  .raiseEvent h (by omega)

theorem Holds.secded {st line : Nat} (h : Holds key word s) : Holds key word (s.secded st line) := by
  delta State.secded
  split
  · exact .ite h (.ite (.secdedEvent h) h)
  · exact h

theorem Holds.useWay {st line w d : Nat} (h : Holds key word s) : Holds key word (s.useWay st line w d) := .ite h h

theorem Holds.ueRead {n : Nat} (h : Holds key word s) : Holds key word (s.ueRead n) :=
  .raiseEvent (.countUp h rfl) (by omega)

theorem Holds.fillCells {c : Nat} {line : List Byte} (h : Holds key word s) :
    Holds key word (s.fillCells c line) := .foldl h fun _ _ h1 => h1

theorem Holds.store {n : Nat} {line : List Byte} (h : Holds key word s) : Holds key word (s.store n line) :=
  .fillCells h

theorem Holds.haltActivity {l : Lease} (h : Holds key word s) : Holds key word (s.haltActivity l) := by
  delta State.haltActivity
  split
  · exact .setFlag (.setFld h rfl) rfl
  · extract_lets s1
    have h1 : Holds key word s1 := h
    split
    · exact h1
    · exact h1
  · exact h
  · exact h

theorem Holds.takeOver {e : Nat} {l : Lease} (h : Holds key word s) : Holds key word (s.takeOver e l) := .haltActivity h

theorem Holds.leaseTry {cls : LeaseClass} {rs : List Resource} {dom : Nat} (h : Holds key word s) :
    Holds key word (s.leaseTry cls rs dom).1 := by
  unfold State.leaseTry
  split
  · split
    · refine .foldl (.foldl h fun _ _ h1 => .takeOver h1) fun _ _ h1 => ?_
      split
      · exact h1
      · exact h1
    · exact h
  · exact h

theorem Holds.startSweep {r : Nat} (h : Holds key word s) : Holds key word (s.startSweep r) := .setFld h rfl

theorem Holds.countLine {r n : Nat} (h : Holds key word s) : Holds key word (s.countLine r n) :=
  .ite h (.ite (.leaseTry (.startSweep h)) (.ite (.raiseEvent (.setFlag h rfl) (by omega)) h))

theorem Holds.storeCode {n : Nat} {ct : List Byte} {tag : Nat} (h : Holds key word s) :
    Holds key word (s.storeCode n ct tag) := .ite (.store (.ite h h)) (.store h)

theorem Holds.storeLine {r n : Nat} {plain : List Byte} (h : Holds key word s) :
    Holds key word (s.storeLine r n plain) := .countLine (.storeCode h)

theorem Holds.writeBack {l : CacheLine} {st : Nat} (h : Holds key word s) : Holds key word (s.writeBack l st) := by
  delta State.writeBack
  extract_lets
  split
  · exact .store h
  · split
    · exact .store (.secdedEvent h)
    · split
      · exact .ite h (.storeLine h)
      · exact h

theorem Holds.flushSlice {st : Nat} (h : Holds key word s) : Holds key word (s.flushSlice st) :=
  .modStk (.foldl h fun _ _ h1 => .writeBack h1)

theorem Holds.enterSr {st : Nat} (h : Holds key word s) : Holds key word (s.enterSr st) :=
  .setFld (.modStk (.flushSlice h)) rfl

theorem Holds.leaseEnded {l : Lease} (h : Holds key word s) : Holds key word (s.leaseEnded l) := by
  delta State.leaseEnded
  extract_lets s1
  have h1 : Holds key word s1 := h
  split
  · split
    · exact .ite h1 h1
    · exact h1
  · exact h1
  · exact h1

theorem Holds.leaseDropIf {p : Lease → Bool} (h : Holds key word s) : Holds key word (s.leaseDropIf p) :=
  .foldl h fun _ _ h1 => .leaseEnded h1

theorem Holds.haltAll (h : Holds key word s) : Holds key word s.haltAll :=
  .foldl (.leaseDropIf (.foldl h fun _ _ h1 => .haltActivity h1)) fun _ _ h1 => .ite (.setFields h1 rfl) h1

theorem Holds.integrityHalt {r n : Nat} (h : Holds key word s) : Holds key word (s.integrityHalt r n) := by
  delta State.integrityHalt
  extract_lets _ _ s1 s2 s3
  have h1 : Holds key word s1 := .raiseEvent h (by omega)
  have h2 : Holds key word s2 := .foldl h1 fun _ _ h2 => .ite h2 (.enterSr h2)
  have h3 : Holds key word s3 := .haltAll h2
  exact h3

theorem Holds.bucketHit {x : Nat} (h : Holds key word s) : Holds key word (s.bucketHit x) :=
  .ite (.setFld (.countUp h rfl) rfl) <| .ite (.countUp (.countUp h rfl) rfl) <|
    .raiseEvent (.setFlag (.countUp h rfl) rfl) (by omega)

theorem Holds.correction {n dom src : Nat} {pos : List Nat} (h : Holds key word s) :
    Holds key word (s.correction n dom src pos) := .bucketHit h

theorem Holds.relevel {n : Nat} (h : Holds key word s) : Holds key word (s.relevel n) :=
  .ite h (.ite (.statusEvent (.setFld h rfl)) (.setFld h rfl))

/-! ### Reads and writes of HBM -/

theorem Holds.readLine {r n dom src : Nat} (h : Holds key word s) : Holds key word (s.readLine r n dom src).1 := by
  have h1 : Holds key word (s.accessRow n) := h
  unfold State.readLine
  dsimp only
  split
  · exact .ueRead h1
  · split
    · split
      · exact .ueRead h1
      · split
        · exact h1
        · exact .integrityHalt h1
    · split
      · exact .ueRead h1
      · exact .correction h1
    · exact .ueRead h1

theorem Holds.taggedRead {r n dom src : Nat} (h : Holds key word s) : Holds key word (s.taggedRead r n dom src).1 :=
  .readLine (s := s.setInj _) h

theorem Holds.allocLine {st d : Nat} {l : CacheLine} (h : Holds key word s) : Holds key word (s.allocLine st d l) := by
  delta State.allocLine
  extract_lets _ s1
  have h1 : Holds key word s1 := by
    unfold s1
    split
    · exact .ite (.writeBack h) h
    · exact h
  exact .useWay h1

theorem Holds.lineGet {r n dom src : Nat} {alloc : Bool} (h : Holds key word s) :
    Holds key word (s.lineGet r n dom src alloc).1 := by
  unfold State.lineGet
  extract_lets st line s1
  have h1 : Holds key word s1 := .secded h
  split
  · split
    · exact h1
    · exact .ite (.useWay h1) h1
  · have hread := h1.taggedRead (r := r) (n := n) (dom := dom) (src := src)
    split
    · rename_i e; rw [e] at hread; exact .ite (.allocLine hread) hread
    · rename_i e; rw [e] at hread; exact hread

theorem Holds.linePut {r n dom : Nat} {bytes : List Byte} {alloc : Bool} (h : Holds key word s) :
    Holds key word (s.linePut r n dom bytes alloc) := by
  delta State.linePut
  extract_lets
  split
  · exact .ite (.useWay h) h
  · exact .ite (.allocLine h) (.storeLine h)

theorem Holds.rangeRead {r dom a len src : Nat} {alloc : Bool} (h : Holds key word s) :
    Holds key word (s.rangeRead r dom a len src alloc).1 := by
  unfold State.rangeRead
  split
  · exact h
  · refine .foldl_fst (.touchStack h) fun t acc p ht => ?_
    dsimp only
    split
    · have hget := ht.lineGet (r := r) (n := p.1) (dom := dom) (src := src) (alloc := alloc)
      split <;> (rename_i e; rw [e] at hget; exact hget)
    · exact ht

theorem Holds.rangeWrite {r dom a : Nat} {data : List Byte} {alloc : Bool} (h : Holds key word s) :
    Holds key word (s.rangeWrite r dom a data alloc).1 := by
  unfold State.rangeWrite
  split
  · exact h
  · extract_lets s1 parts fetched
    have hfetched : Holds key word fetched.1 := by
      refine .foldl_fst (.touchStack h) fun t acc p ht => ?_
      dsimp only
      split
      · split
        · exact ht
        · have hget := ht.lineGet (r := r) (n := p.1) (dom := dom) (src := 1) (alloc := alloc)
          split <;> (rename_i e; rw [e] at hget; exact hget)
      · exact ht
    obtain ⟨t, res, l⟩ := fetched
    cases res with
    | ok _ => exact .foldl (s := t) hfetched fun _ _ h1 => .linePut h1
    | code _ => exact hfetched
    | halted => exact hfetched

theorem Holds.hbmRun {q : HbmReq} (h : Holds key word s) : Holds key word (s.hbmRun q).1 := by
  unfold State.hbmRun
  split
  · exact h
  · exact .rangeWrite h
  · exact .rangeRead h

theorem Holds.hbmDo {q : HbmReq} (h : Holds key word s) : Holds key word (s.hbmDo q) := by
  have hrun := h.hbmRun (q := q)
  unfold State.hbmDo
  split <;> (rename_i e; rw [e] at hrun)
  · exact .respond hrun
  · exact .denyTray hrun
  · exact .respond hrun
  · exact hrun

theorem Holds.hbmReq {q : HbmReq} (h : Holds key word s) : Holds key word (s.hbmReq q) :=
  .ite (.touchStack h) (.hbmDo h)

/-! ### Lines of L2 that a grant sends back (R406, R407) -/

theorem Holds.l2Settle {cl : Nat} (h : Holds key word s) : Holds key word (s.l2Settle cl) :=
  .foldl h fun _ _ h1 => .hbmReq h1

theorem Holds.startCore {c : Nat} (h : Holds key word s) : Holds key word (s.startCore c) :=
  .ite (.setFields (.l2Settle h) rfl) h

end Sys2Proof.Machine
end

section
/-! PROOF. The target of a cup's state through a request and the grants that it leads to (R121, R373). -/

namespace Sys2Proof.Machine

variable {c t : Nat} {s u : State}

/-- CUP_STATE of cup c shows target t, in a word that no BLOCK reset of another block can change. -/
def Aims (c t : Nat) (s : State) : Prop := ∃ w, Holds ⟨.cupState, c, 0⟩ w s ∧ bits w 9 8 = t

theorem Aims.target (h : Aims c t s) : s.cupTarget c = t := by
  obtain ⟨w, hw, ht⟩ := h
  exact (congrArg (bits · 9 8) hw.read).trans ht

/-- What keeps every word of CUP_STATE keeps the target. -/
theorem Aims.map (h : Aims c t s) (f : ∀ w, Holds ⟨.cupState, c, 0⟩ w s → Holds ⟨.cupState, c, 0⟩ w u) : Aims c t u := by
  obtain ⟨w, hw, ht⟩ := h
  exact ⟨w, f w hw, ht⟩

/-- A field of CUP_STATE beside TARGET. -/
theorem Aims.setState {d hi lo v : Nat} (h : Aims c t s) (hout : 9 < lo ∨ hi < 8) :
    Aims c t (s.setFld ⟨.cupState, d, 0⟩ hi lo v) := by
  by_cases hd : d = c
  · subst hd
    refine ⟨_, Holds.of_setReg rfl, ?_⟩
    rw [bits_putBits_ne _ _ _ _ _ _ hout]
    exact h.target
  · exact h.map fun w hw => hw.setReg_ne (by simpa using Ne.symm hd)

/-- A grant of a client's request (R105, R121, R230, R407). -/
theorem Aims.onGrant {n : Nat} (h : Aims c t s) : Aims c t (s.onGrant n) := by
  have hlane : Aims c t ((List.range 4).foldl
      (fun (s : State) j => s.setFlag ⟨.lnStat, 4 * (n - 192) + j, 0⟩ 29 false) s) :=
    h.map fun w hw => .foldl hw fun _ _ h1 => .setFlag h1 rfl
  have hcores : Aims c t ((List.range 4).foldl (fun (s : State) j => s.startCore (4 * (n - 280) + j)) s) :=
    h.map fun w hw => .foldl hw fun _ _ h1 => .startCore h1
  have hcore : Aims c t (s.startCore (n - 264)) := h.map fun w hw => .startCore hw
  have hstatus (d : Nat) : Aims c t (s.statusEvent n 6 d 0) := h.map fun w hw => .statusEvent hw
  delta State.onGrant
  extract_lets s1
  have h1 : Aims c t s1 := hstatus _
  split
  · split
    · exact (h1.setState (hi := 10) (lo := 10) (v := 0) (.inl (by decide))).map fun w hw => hw
    · exact h1
  · split
    · exact hlane
    · split
      · exact hcore
      · split
        · exact hcores
        · exact h

theorem Aims.giveUnits {r : UrnReq} (h : Aims c t s) : Aims c t (s.giveUnits r) :=
  Aims.onGrant (h.map fun _ hw => .relevel (.setFld hw rfl))

theorem Aims.examineList {l : List UrnReq} {b : Bool} (h : Aims c t s) : Aims c t (State.examineList l b s) := by
  induction l generalizing s b with
  | nil => exact h
  | cons r rs ih =>
    unfold State.examineList
    dsimp only
    split
    · exact ih h.giveUnits
    · exact ih h

theorem Aims.freeGrant {n k : Nat} (h : Aims c t s) : Aims c t (s.freeGrant n k) := by
  delta State.freeGrant
  extract_lets s1 s2
  have h1 : Aims c t s1 := h.map fun _ hw => .setFld hw rfl
  have h2 : Aims c t s2 := by
    unfold s2
    split
    · exact h1.map fun _ hw => hw
    · exact h1
  exact Aims.examineList (h2.map fun _ hw => .relevel hw)

theorem Aims.keepUnits {n k : Nat} (h : Aims c t s) : Aims c t (s.keepUnits n k) := by
  unfold State.keepUnits
  split
  · exact h
  · exact h.freeGrant

theorem Aims.modCup {d : Nat} {f : CupSt → CupSt} (h : Aims c t s) : Aims c t (s.modCup d f) := h.map fun _ hw => hw

theorem Aims.askMove {d n : Nat} (h : Aims c t s) : Aims c t (s.askMove d n) := by
  unfold State.askMove
  split
  · exact (h.setState (.inl (by decide))).map fun _ hw => hw
  · exact h.modCup

theorem Aims.aimed (s : State) (c t : Nat) : Aims c (t % 4) (s.aimed c t) :=
  ⟨_, Holds.of_setReg rfl, bits_putBits_self _ _ _ _ (by decide)⟩

/-- A request for a state is made of few operations: what holds once TARGET is set, and is kept by each of them, holds
after the request. -/
theorem State.stateReq_ind {P : State → Prop} (hgone : s.cupGone c = false) (h : P (s.aimed c t))
    (hdefer : ∀ u, P u → P (u.deferOn c (readbackLease c))) (hcup : ∀ u f, P u → P (u.modCup c f))
    (hstate : ∀ u, P u → P (u.setFld ⟨.cupState, c, 0⟩ 1 0 1)) (hask : ∀ u n, P u → P (u.askMove c n))
    (hkeep : P ((s.aimed c t).keepUnits c 1)) : P (s.stateReq c t) := by
  delta State.stateReq
  rw [if_neg (by simp [hgone])]
  extract_lets was st s1
  have h1 : P s1 := h
  have hkeep1 : P (s1.keepUnits c 1) := hkeep
  clear_value s1 st
  clear h hkeep
  split
  · split
    · exact hcup _ _ (hdefer _ h1)
    · exact h1
  · exact hask _ _ h1
  · split
    · exact h1
    · exact hkeep1
  · split
    · exact hcup _ _ (hstate _ h1)
    · exact hcup _ _ h1
  · exact hask _ _ h1
  · split
    · exact hcup _ _ h1
    · exact hask _ _ h1
  · split
    · exact hcup _ _ h1
    · exact h1

/-- A request for OFF, DORMANT or RUN sets the target, whatever the Urn grants as units become free (R121). -/
theorem State.cupTarget_stateReq (hgone : s.cupGone c = false) (ht : t < 4) : (s.stateReq c t).cupTarget c = t :=
  (Aims.target (State.stateReq_ind hgone (Aims.aimed s c t) (fun _ h => h.map fun _ hw => .deferOn hw)
    (fun _ _ h => h.modCup) (fun _ h => h.setState (.inr (by decide))) (fun _ _ h => h.askMove)
    (Aims.aimed s c t).keepUnits)).trans (Nat.mod_eq_of_lt ht)

/-- Where no request waits, a request for a state leaves the memory. -/
theorem State.hbm_stateReq (hgone : s.cupGone c = false) (hp : s.urn.pend = []) : (s.stateReq c t).hbm = s.hbm := by
  have hpend : (s.aimed c t).urn.pend = [] := by rw [State.pend_aimed, hp]; rfl
  have hask (u : State) (n : Nat) : (u.askMove c n).hbm = u.hbm := by
    unfold State.askMove
    split <;> rfl
  refine State.stateReq_ind (P := fun u => u.hbm = s.hbm) hgone rfl (fun _ h => h) (fun _ _ h => h) (fun _ h => h)
    (fun u n h => (hask u n).trans h) ?_
  obtain ⟨hframe, -⟩ := State.keepUnits_idle c 1 hpend
  exact hframe.rest.hbm

end Sys2Proof.Machine
end

section
/-! PROOF. Cup states follow their requests and power grants (O24). -/

namespace Sys2Proof.Machine

/-- Settles O24: a request sets TARGET whatever the Urn grants on it, the grant of a first unit comes in a later tray
cycle, and each move writes the cup, its registers and the Urn alone. -/
theorem cupStatesFollowRequestsAndPower : Obligations.CupStatesFollowRequestsAndPower := by
  unfold Obligations.CupStatesFollowRequestsAndPower
  refine ⟨?target, ?firstUnit, ?grant, ?reserved, ?dormant, ?run, ?stop, ?off⟩
  case target =>
    intro s m c v hacc hv hf
    have hgone := State.cupGone_of_accepts hacc rfl
    have hlt : bits v 1 0 < 4 := bits_lt v 1 0
    exact ⟨_, exec_cupStateReq hacc hv hf, State.cupTarget_stateReq hgone hlt,
      fun hp => State.keepsHbm_of_eq (State.hbm_stateReq hgone hp)⟩
  case firstUnit =>
    intro s m c v hacc hv hf hoff hg hp
    have hgone := State.cupGone_of_accepts hacc rfl
    refine ⟨_, exec_cupStateReq hacc (by omega) hf, ?_⟩
    rw [State.stateReq_off hgone hv hoff]
    exact State.askMove_first ((s.grant_aimed _ _ _).trans hg) (by rw [State.pend_aimed, hp]; rfl)
  case grant =>
    intro s c u k hp hfit hfirm hw hlt
    refine ⟨State.examine_early hp, fun hk => ?_⟩
    rw [State.examine_one hp hfit hfirm hk]
    exact State.giveUnits_cup c.isLt hp hw hlt
  case reserved =>
    intro s m c v hacc hv
    exact exec_cupStateReq_reserved hacc hv
  case dormant =>
    intro s c hserv hoff hmov ht
    refine ⟨s.toDormant c, ?_, s.toDormant_spec c⟩
    change execCupOffToDormantDone c s = _
    rw [execCupOffToDormantDone, whenServing_serving hserv, if_pos ⟨hoff, hmov, ht⟩]
  case run =>
    intro s c hserv hdorm hmov ht
    refine ⟨s.toRun c, ?_, s.toRun_spec c⟩
    change execCupClocksStart c s = _
    rw [execCupClocksStart, whenServing_serving hserv, if_pos ⟨hdorm, hmov, ht⟩]
  case stop =>
    intro s c hserv hrun ht hst hp
    refine ⟨_, ?_, State.clocksStop_spec hp⟩
    change execCupClocksStop c s = _
    rw [execCupClocksStop, whenServing_serving hserv, if_pos ⟨hrun, ht, hst⟩]
  case off =>
    intro s c hserv ht hdef hst hp
    refine ⟨s.cupOff c, ?_, State.cupOff_spec hp⟩
    change execCupToOffDone c s = _
    rw [execCupToOffDone, whenServing_serving hserv, if_pos ⟨ht, hdef, hst⟩]

end Sys2Proof.Machine
end

section
/-! PROOF. The modes of borders, their writes and their application, DRIVE and the shadow plane's second check (R106 to R109,
R127). -/

namespace Sys2Proof.Machine

variable {s : State} {c sd : Nat}

/-! ### Modes that may stand (R108) -/

/-- A field inside one that is cleared reads 0. -/
theorem bits_putBits_inside (w : Word) {hi lo hi' lo' : Nat} (hlo : lo ≤ lo') (hhi : hi' ≤ hi) :
    bits (putBits w hi lo 0) hi' lo' = 0 := by
  apply Nat.eq_of_testBit_eq
  intro i
  rw [testBit_bits, getLsbD_putBits]
  by_cases hi : i < hi' + 1 - lo'
  · by_cases h32 : lo' + i < 32
    · rw [if_pos (by omega)]; simp
    · rw [if_neg (by omega)]; simp [BitVec.getLsbD_of_ge w (lo' + i) (by omega)]
  · simp [hi]

/-- A side that faces the outside, an absent leaf or a cup of another domain is shut. -/
def State.shutSide (s : State) (c sd : Nat) : Bool := s.facesNone c sd || !s.sameDomAcross c sd

theorem State.legalModes_shut (h : s.shutSide c sd = true) (w : Word) : s.legalModes c sd w = putBits w 19 0 0 := by
  exact if_pos h

theorem State.legalModes_open (h : s.shutSide c sd = false) (w : Word) : s.legalModes c sd w = w := by
  unfold State.shutSide at h
  rw [State.legalModes, if_neg (by simp [h])]

/-- Some segment of a word asks for PASS or HOLD. -/
theorem asksOpen_iff (w : Word) :
    asksOpen w = true ↔ ∃ n, n < 10 ∧ (bits w (2 * n + 1) (2 * n) = 1 ∨ bits w (2 * n + 1) (2 * n) = 2) := by
  have hrange (m : Nat) : inRange 1 2 m = true ↔ m = 1 ∨ m = 2 := by
    simp [inRange]
    omega
  simp [asksOpen, hrange]

/-! ### Steps that write registers and cups alone -/

/-- From s to t nothing but registers and cups changes. -/
def State.movesCupRegs (s t : State) : Prop := t = { s with regs := t.regs, cups := t.cups }

theorem State.movesCupRegs.trans {s t u : State} (h : s.movesCupRegs t) (g : t.movesCupRegs u) : s.movesCupRegs u := by
  unfold State.movesCupRegs at *
  rw [h] at g
  exact g

theorem State.movesCupRegs_setReg (s : State) (k : RegKey) (w : Word) : s.movesCupRegs (s.setReg k w) := rfl

theorem State.movesCupRegs_setCup (s : State) (d : Nat) (x : CupSt) : s.movesCupRegs (s.setCup d x) := rfl

theorem State.movesCups.cupRegs {s t : State} (h : s.movesCups t) : s.movesCupRegs t := by
  unfold State.movesCups at h
  unfold State.movesCupRegs
  rw [h]

/-- Such a step, answered OK. -/
theorem State.movesCupRegs.answered {s t : State} (h : s.movesCupRegs t) (m : Nat) :
    t.answer m .ok = { s with regs := t.regs, cups := t.cups, sent := okTo m :: s.sent } := by
  unfold State.movesCupRegs at h
  rw [h]
  rfl

/-- A step that changes cups alone, answered OK. -/
theorem State.movesCups.answered {s t : State} (h : s.movesCups t) (m : Nat) :
    t.answer m .ok = { s with cups := t.cups, sent := okTo m :: s.sent } := by
  unfold State.movesCups at h
  rw [h]
  rfl

/-- A status event changes cups alone. -/
theorem State.movesCups_statusEvent (s : State) (d kind detail obj : Nat) : s.movesCups (s.statusEvent d kind detail obj) := by
  unfold State.statusEvent
  dsimp only
  split <;> rfl

/-! ### Modes applied (R106, R107) -/

/-- The modes accepted and not yet applied of a cup, and whether its shadow plane is due another check. -/
def CupSt.due (x : CupSt) : List (Nat × Word) × Bool := (x.brdPend, x.recheck)

/-- Holding segments changes neither. -/
theorem CupSt.due_holdSegs (x : CupSt) (sd : Nat) (v : Nat → Nat → Bool) (l : List Nat) :
    (l.foldl (fun (x : CupSt) n => x.holdSeg sd n v) x).due = x.due := 
  foldl_keeps (get := CupSt.due) (step := fun x n => x.holdSeg sd n v) (fun _ _ _ => rfl) x

/-- Nor do latches that follow. -/
theorem State.due_followLatches (s : State) (d : Nat) : (s.followLatches.cup d).due = (s.cup d).due :=
  (congrArg CupSt.due (s.cup_followLatches d) :)

/-- Nor does a status event. -/
theorem State.due_statusEvent (s : State) (d e kind detail obj : Nat) :
    ((s.statusEvent e kind detail obj).cup d).due = (s.cup d).due := by
  obtain ⟨l, k, h⟩ := (statusEvent_frame s e kind detail obj).cup d
  rw [h]
  rfl

/-- An update of one cup that keeps them. -/
theorem State.due_modCup (s : State) (d e : Nat) {f : CupSt → CupSt} (hf : ∀ x, (f x).due = x.due) :
    ((s.modCup e f).cup d).due = (s.cup d).due := by
  rw [State.cup_modCup]
  split
  · rename_i h; rw [hf, h]
  · rfl

/-- The segments of a side keep what they read. -/
def State.heldSegs (s : State) (c sd : Nat) (l : List Nat) : State :=
  s.modCup c fun x => l.foldl (fun (x : CupSt) n => x.holdSeg sd n fun p j => s.segInput c sd p j) x

/-- A change of modes writes the side's register, and of cups neither what is accepted nor what is due. -/
theorem State.applyModes_spec (s : State) (c sd : Nat) (w : Word) :
    (s.applyModes c sd w).regs = (s.setReg ⟨.cupBrd, c, sd⟩ w).regs ∧ s.movesCupRegs (s.applyModes c sd w) ∧
      ∀ d, ((s.applyModes c sd w).cup d).due = (s.cup d).due := by
  set s1 := s.heldSegs c sd ((List.range 10).filter (keepsRead (s.reg ⟨.cupBrd, c, sd⟩) w)) with hs1
  set s2 := s1.setReg ⟨.cupBrd, c, sd⟩ w with hs2
  have hdue2 (d : Nat) : (s2.cup d).due = (s.cup d).due :=
    s.due_modCup d c fun x => CupSt.due_holdSegs x sd _ _
  have hmoves2 : s.movesCupRegs s2 := (s.movesCupRegs_setCup _ _).trans (s1.movesCupRegs_setReg _ _)
  obtain ⟨s3, hs3, hmoves3, hdue3⟩ : ∃ s3, s.applyModes c sd w = s3.followLatches ∧ s2.movesCups s3 ∧
      ∀ d, (s3.cup d).due = (s2.cup d).due := by
    refine ⟨_, rfl, ?_, ?_⟩
    · split
      · rfl
      · exact s2.movesCups_statusEvent _ _ _ _
    · intro d
      split
      · rfl
      · exact s2.due_statusEvent _ _ _ _ _
  have hmoves := hmoves3.trans s3.followLatches_movesCups
  rw [hs3]
  exact ⟨hmoves.regs, hmoves2.trans hmoves.cupRegs,
    fun d => ((s3.due_followLatches d).trans (hdue3 d)).trans (hdue2 d)⟩

/-- A segment of a list that goes to CLAMP0 is at CLAMP0. -/
theorem bits_clampWord {l : List Nat} {n : Nat} (hn : n ∈ l) (w : Word) : bits (clampWord l w) (2 * n + 1) (2 * n) = 0 := by
  refine foldl_gives (get := fun w : Word => bits w (2 * n + 1) (2 * n)) (fun w i _ => ?_) hn (fun w => ?_) w
  · by_cases hi : i = n
    · subst hi
      exact .inl (bits_putBits_inside w le_rfl le_rfl)
    · exact .inr (bits_putBits_ne _ _ _ _ _ _ (by omega))
  · exact bits_putBits_inside w le_rfl le_rfl

/-- The side behind a segment that loses its driver: its segments go to CLAMP0, and its register alone is written
(R107). -/
theorem State.clampFacing_spec {r : Nat} {die : Bool} (hacross : cupAcross c sd = some (r, die)) (l : List Nat) :
    (∀ n ∈ l, (s.clampFacing c sd l).segMode r ((sd + 2) % 4) n = 0) ∧
      s.keepsRegs (s.clampFacing c sd l) [⟨.cupBrd, r, (sd + 2) % 4⟩] ∧ s.movesCupRegs (s.clampFacing c sd l) := by
  set s1 := s.modCup r fun x =>
    { x with brdPend := x.brdPend.map fun e => if e.1 = (sd + 2) % 4 then (e.1, clampWord l e.2) else e } with hs1
  have hdef : s.clampFacing c sd l =
      s1.applyModes r ((sd + 2) % 4) (clampWord l (s1.reg ⟨.cupBrd, r, (sd + 2) % 4⟩)) := by
    rw [State.clampFacing, hacross]
  obtain ⟨hregs, hmoves, -⟩ := s1.applyModes_spec r ((sd + 2) % 4) (clampWord l (s1.reg ⟨.cupBrd, r, (sd + 2) % 4⟩))
  rw [hdef]
  refine ⟨fun n hn => ?_, State.keepsRegs_of_setReg hregs, (s.movesCupRegs_setCup _ _).trans hmoves⟩
  rw [State.segMode, State.fld_congr hregs, State.fld, State.reg_setReg_self]
  exact bits_clampWord hn _

/-! ### Requests (R107, R108) -/

/-- A write of CUP_BRD_REQ that is not refused is accepted, and waits to be applied. -/
theorem State.brdReq_accepted {v : Word} (hhold : s.inHold = false) (hok : s.modesRefused c sd v = false) :
    look ((s.brdReq c sd v).cup c).brdPend sd = some (s.legalModes c sd
        (mergeModes ((look (s.cup c).brdPend sd).getD (s.reg ⟨.cupBrd, c, sd⟩)) v)) ∧
      (∀ c', c' ≠ c → (s.brdReq c sd v).cup c' = s.cup c') ∧ s.movesCups (s.brdReq c sd v) := by
  have hfind (l : List (Nat × Word)) : (l.find? fun e => e.1 == sd).map (·.2) = look l sd := by
    induction l with
    | nil => rfl
    | cons e r ih =>
      obtain ⟨j, w⟩ := e
      by_cases hj : j = sd
      · subst hj; simp [look]
      · simpa [look, hj, Ne.symm hj] using ih
  have hdef : s.brdReq c sd v = s.modCup c fun x => { x with brdPend := nset x.brdPend sd (s.legalModes c sd
      (mergeModes ((look (s.cup c).brdPend sd).getD (s.reg ⟨.cupBrd, c, sd⟩)) v)) } := by
    rw [State.brdReq, if_neg (by simp [hhold, hok])]
    dsimp only
    rw [hfind]
  rw [hdef]
  refine ⟨?_, fun c' hc => ?_, s.movesCups_modCup _ _⟩
  · rw [State.cup_modCup_self]
    exact look_nset_self _ _ _
  · rw [State.cup_modCup, if_neg hc]

/-- A refused one sets the side's refusal mark alone. -/
theorem State.brdReq_refused {v : Word} (h : s.modesRefused c sd v = true) :
    s.brdReq c sd v = s.setFlag ⟨.cupBdrv, c, sd⟩ 31 true := by
  rw [State.brdReq, if_pos (by simp [h])]

/-! ### DRIVE (R109) -/

/-- The segments whose DRIVE bits a mask clears. -/
def State.undriven (s : State) (c sd : Nat) (mask : Word) : List Nat :=
  (List.range 10).filter fun n => bit (s.reg ⟨.cupBdrv, c, sd⟩) n && bit mask n

theorem State.clearDrive_eq (s : State) (c sd : Nat) (mask : Word) : s.clearDrive c sd mask =
    let s1 := s.setReg ⟨.cupBdrv, c, sd⟩ (s.reg ⟨.cupBdrv, c, sd⟩ &&& ~~~ (mask &&& 0x3FF))
    if (s.undriven c sd mask).isEmpty then s1
    else (s1.clampFacing c sd (s.undriven c sd mask)).modCup c fun x => { x with recheck := true } := rfl

/-- Cleared DRIVE bits: the facing segments go to CLAMP0, and the shadow plane is due another check. -/
theorem State.clearDrive_spec {r : Nat} {die : Bool} (hacross : cupAcross c sd = some (r, die)) (mask : Word) :
    (∀ n ∈ s.undriven c sd mask, (s.clearDrive c sd mask).segMode r ((sd + 2) % 4) n = 0 ∧
        ((s.clearDrive c sd mask).cup c).recheck = true) ∧
      s.keepsRegs (s.clearDrive c sd mask) [⟨.cupBdrv, c, sd⟩, ⟨.cupBrd, r, (sd + 2) % 4⟩] ∧
      s.movesCupRegs (s.clearDrive c sd mask) := by
  rw [State.clearDrive_eq]
  set s1 := s.setReg ⟨.cupBdrv, c, sd⟩ (s.reg ⟨.cupBdrv, c, sd⟩ &&& ~~~ (mask &&& 0x3FF)) with hs1
  dsimp only
  have hreg1 {k : RegKey} (hk : k ≠ ⟨.cupBdrv, c, sd⟩) : s1.reg k = s.reg k := s.reg_setReg_ne _ hk
  split
  · rename_i hnone
    rw [List.isEmpty_iff.mp hnone]
    exact ⟨nofun, fun k hk => hreg1 (by simp at hk; exact hk.1), s.movesCupRegs_setReg _ _⟩
  · obtain ⟨hseg, hregs, hmoves⟩ := s1.clampFacing_spec hacross (s.undriven c sd mask)
    refine ⟨fun n hn => ⟨hseg n hn, by rw [State.cup_modCup_self]⟩, fun k hk => ?_,
      ((s.movesCupRegs_setReg _ _).trans hmoves).trans (State.movesCupRegs_setCup _ _ _)⟩
    obtain ⟨hk1, hk2⟩ : k ≠ ⟨.cupBdrv, c, sd⟩ ∧ k ≠ ⟨.cupBrd, r, (sd + 2) % 4⟩ := by simpa using hk
    rw [State.reg_modCup, hregs k (by simpa using hk2), hreg1 hk1]

/-- A write of CUP_BDRV towards a cup of the same domain: DRIVE reads what was written, and the segments whose bits it
clears are shut on the other side (R109). -/
theorem State.bdrvWrite_spec {r : Nat} {die : Bool} (hhold : s.inHold = false) (hacross : cupAcross c sd = some (r, die))
    (hthere : s.cupGone r = false) (hdom : s.cupDom r = s.cupDom c) (v : Word) :
    (s.bdrvWrite c sd v).fld ⟨.cupBdrv, c, sd⟩ 9 0 = bits v 9 0 ∧
      (∀ n, n < 10 → s.flag ⟨.cupBdrv, c, sd⟩ n = true → bit v n = false →
        (s.bdrvWrite c sd v).segMode r ((sd + 2) % 4) n = 0 ∧ ((s.bdrvWrite c sd v).cup c).recheck = true) ∧
      s.keepsRegs (s.bdrvWrite c sd v) [⟨.cupBdrv, c, sd⟩, ⟨.cupBrd, r, (sd + 2) % 4⟩] ∧
      s.movesCupRegs (s.bdrvWrite c sd v) := by
  set k : RegKey := ⟨.cupBdrv, c, sd⟩ with hk
  obtain ⟨s1, hs1, hhold1, hface1, hsame1, hflag1, hkeep1, hmoves1⟩ : ∃ s1,
      s1 = (if bit v 31 then s.setFlag k 31 false else s) ∧ s1.inHold = false ∧ s1.facesNone c sd = false ∧
      s1.sameDomAcross c sd = true ∧ (∀ n, n < 10 → s1.flag k n = s.flag k n) ∧ s.keepsRegs s1 [k] ∧
      s.movesCupRegs s1 := by
    have hface : s.facesNone c sd = false := by simp [State.facesNone, hacross, hthere]
    have hsame : s.sameDomAcross c sd = true := by simp [State.sameDomAcross, hacross, hdom]
    refine ⟨_, rfl, ?_⟩
    split
    · have hother {j : RegKey} (hj : j ≠ k) : (s.setFlag k 31 false).reg j = s.reg j := s.reg_setReg_ne _ hj
      have hgone : (s.setFlag k 31 false).cupGone r = s.cupGone r := by
        simp only [State.cupGone, State.fld, State.flag, hother (j := ⟨.trayLmap, r / 4, 0⟩) (by simp [hk])]
      have hdom1 (d : Nat) : (s.setFlag k 31 false).cupDom d = s.cupDom d := by
        simp only [State.cupDom, State.fld, hother (j := ⟨.cupOwner, d, 0⟩) (by simp [hk])]
      refine ⟨?_, ?_, ?_, fun n hn => ?_, State.keepsRegs_of_setReg rfl, s.movesCupRegs_setReg _ _⟩
      · simpa only [State.inHold, State.flag, hother (j := ⟨.casStat, 0, 0⟩) (by simp [hk])] using hhold
      · simp [State.facesNone, hacross, hgone, hthere]
      · simp [State.sameDomAcross, hacross, hdom1, hdom]
      · rw [State.flag, State.reg_setFlag, if_pos rfl, bit_putBits_ne _ _ _ _ _ (.inl (by omega)), State.flag]
    · exact ⟨hhold, hface, hsame, fun _ _ => rfl, fun _ _ => rfl, rfl⟩
  have hdef : s.bdrvWrite c sd v = (s1.clearDrive c sd (~~~ v)).setFld k 9 0 (bits v 9 0) := by
    have hbranch : s.bdrvWrite c sd v = if s1.inHold || (List.range 10).any (fun n => (bits v 9 0).testBit n &&
        !(bits (s1.reg k) 9 0).testBit n) && (s1.facesNone c sd || !s1.sameDomAcross c sd) then s1.setFlag k 31 true
        else (s1.clearDrive c sd (~~~ v)).setFld k 9 0 (bits v 9 0) := by
      rw [hs1]
      rfl
    rw [hbranch, if_neg (by simp [hhold1, hface1, hsame1])]
  obtain ⟨hclear, hregs, hmoves⟩ := s1.clearDrive_spec hacross (~~~ v)
  rw [hdef]
  refine ⟨?_, fun n hn hwas hnow => ?_, fun j hj => ?_, (hmoves1.trans hmoves).trans (State.movesCupRegs_setReg _ _ _)⟩
  · rw [State.fld_setFld_self _ _ _ _ _ (by decide)]
    exact Nat.mod_eq_of_lt (bits_lt v 9 0)
  · have hmem : n ∈ s1.undriven c sd (~~~ v) := by
      refine List.mem_filter.mpr ⟨List.mem_range.mpr hn, ?_⟩
      have hbit : bit (s1.reg k) n = true := (hflag1 n hn).trans hwas
      have hmask : bit (~~~ v) n = true := by
        unfold bit at hnow ⊢
        rw [BitVec.getLsbD_not, hnow]
        simp
        omega
      rw [hbit, hmask]
      rfl
    obtain ⟨hseg, hdue⟩ := hclear n hmem
    exact ⟨(State.fld_setFld_other _ (by simp [hk]) ..).trans hseg, hdue⟩
  · have hjk : j ≠ k := fun e => hj (by simp [e])
    rw [State.reg_setFld, if_neg hjk, hregs j hj, hkeep1 j (by simpa using hjk)]

/-! ### The second check of the shadow plane (R127) -/

/-- The check finds the shadow plane unfit under the values in force. -/
def State.shadowUnfit (s : State) (c : Nat) : Bool :=
  (resieve (s.cup c).shadow (c % 4) (s.divGrants c) (s.drives c)).isSome

theorem exec_shadowRecheck {c : Fin 192} (hlive : s.live = true) (hdue : (s.cup c.val).recheck = true)
    (hready : s.shadow c.val = 2) :
    exec (.shadowRecheck c) s = .next (let s1 := s.modCup c.val fun x => { x with recheck := false }
      if s.shadowUnfit c.val then s1.setFld ⟨.cupLoadStat, c.val, 0⟩ 23 22 3 else s1) := by
  change execShadowRecheck c s = _
  have hready1 : (s.modCup c.val fun x => { x with recheck := false }).shadow c.val = 2 := hready
  rw [execShadowRecheck, whenLive_live hlive, if_pos hdue]
  simp only [hready1, beq_self_eq_true, Bool.and_true]
  rfl

/-! ### The statement -/

/-- Settles O25: modes pass `legalModes` both when they are accepted and when they are applied. -/
theorem bordersStayInsideADomain : Obligations.BordersStayInsideADomain := by
  unfold Obligations.BordersStayInsideADomain
  refine ⟨?shut, ?legal, ?refusedIff, ?accepted, ?refused, ?applied, ?drive, ?recheck⟩
  case shut =>
    intro s c sd w n hn h
    have hshut : s.shutSide c sd = true := by
      rcases h with h | h <;> simp [State.shutSide, h]
    rw [State.legalModes_shut hshut]
    exact bits_putBits_inside w (Nat.zero_le _) (by omega)
  case legal =>
    intro s c sd w hface hsame
    exact State.legalModes_open (by simp [State.shutSide, hface, hsame]) w
  case refusedIff =>
    intro s c sd v
    rw [State.modesRefused, Bool.and_eq_true, Bool.and_eq_true, asksOpen_iff, Bool.not_eq_true', Bool.not_eq_true',
      and_assoc]
  case accepted =>
    intro s m c sd v hacc hfin hhold hok
    obtain ⟨hpend, hothers, hmoves⟩ := State.brdReq_accepted hhold hok
    refine ⟨(s.brdReq c.val sd.val v).answer m .ok, ?_, hpend, hothers, ?_⟩
    · change execCupBrdReqWrite m c sd v s = _
      rw [execCupBrdReqWrite, writeCommand_accepts hacc, State.writeBrdReq, State.holdOr_free (by simp [hfin])]
    · exact hmoves.answered m
  case refused =>
    intro s m c sd v hacc hfin hno
    refine ⟨(s.setFlag ⟨.cupBdrv, c.val, sd.val⟩ 31 true).answer m .ok, ?_, s.flag_setFlag_self _ _ _ (by decide),
      State.keepsRegs_of_setReg rfl, rfl⟩
    change execCupBrdReqWrite m c sd v s = _
    rw [execCupBrdReqWrite, writeCommand_accepts hacc, State.writeBrdReq, State.holdOr_free (by simp [hfin]),
      State.brdReq_refused hno]
  case applied =>
    intro s c sd w hlive hw
    set s1 := s.modCup c.val fun x => { x with brdPend := erase x.brdPend sd.val } with hs1
    obtain ⟨hregs, hmoves, hdue⟩ := s1.applyModes_spec c.val sd.val (s.legalModes c.val sd.val w)
    refine ⟨s1.applyModes c.val sd.val (s.legalModes c.val sd.val w), ?_, ?_, ?_, State.keepsRegs_of_setReg hregs,
      (s.movesCupRegs_setCup _ _).trans hmoves⟩
    · change execBorderApply c sd s = _
      rw [execBorderApply, whenLive_live hlive, hw]
      rfl
    · rw [State.reg_congr hregs, State.reg_setReg_self]
    · have hpend := congrArg Prod.fst (hdue c.val)
      change ((s1.applyModes c.val sd.val _).cup c.val).brdPend = (s1.cup c.val).brdPend at hpend
      rw [hpend, hs1, State.cup_modCup_self]
      exact look_erase_self _ _
  case drive =>
    intro s m c sd v r die hacc hfin hhold hacross hthere hdom
    obtain ⟨hdrive, hclear, hregs, hmoves⟩ := State.bdrvWrite_spec hhold hacross hthere hdom v
    refine ⟨(s.bdrvWrite c.val sd.val v).answer m .ok, ?_, hdrive, hclear, hregs, ?_⟩
    · change execCupBdrvWrite m c sd v s = _
      rw [execCupBdrvWrite, writeCommand_accepts hacc, State.writeBdrv, State.holdOr_free (by simp [hfin])]
    · exact hmoves.answered m
  case recheck =>
    intro s c hlive hdue hready
    refine ⟨_, exec_shadowRecheck hlive hdue hready, ?_⟩
    dsimp only
    change _ ∧ _ = (if s.shadowUnfit c.val = true then 3 else 2) ∧ _
    split
    · exact ⟨by rw [State.cup_setFld, State.cup_modCup_self], State.fld_setFld_self _ _ _ _ _ (by decide),
        State.keepsRegs_of_setReg rfl, rfl⟩
    · exact ⟨by rw [State.cup_modCup_self], hready, fun _ _ => rfl, rfl⟩

end Sys2Proof.Machine
end

section
/-! PROOF. Leases whose request takes over no other: those of a load, of a readback and of the steep pass (R394, R395). -/

namespace Sys2Proof.Machine

variable {s : State} {cls : LeaseClass} {rs : List Resource} {dom : Nat}

/-- From s to t nothing but the lease table, its log and the leaves changes. -/
def State.movesLeases (s t : State) : Prop := t = { s with leases := t.leases, leaseLog := t.leaseLog, leaves := t.leaves }

theorem State.movesLeases.regs {s t : State} (h : s.movesLeases t) : t.regs = s.regs := (congrArg State.regs h :)

theorem State.movesLeases.cups {s t : State} (h : s.movesLeases t) : t.cups = s.cups := (congrArg State.cups h :)

theorem State.movesLeases.hbm {s t : State} (h : s.movesLeases t) : t.hbm = s.hbm := (congrArg State.hbm h :)

theorem State.movesLeases.trans {s t u : State} (h : s.movesLeases t) (g : t.movesLeases u) : s.movesLeases u := by
  unfold State.movesLeases at *
  rw [h] at g
  exact g

/-- Steps in a row that each change no more. -/
theorem State.movesLeases_foldl {ι : Type} {step : State → ι → State} (h : ∀ (s : State) i, s.movesLeases (step s i))
    (l : List ι) (s : State) : s.movesLeases (l.foldl step s) :=
  List.foldlRecOn (motive := fun t => s.movesLeases t) l step rfl fun t ht i _ => ht.trans (h t i)

/-- The classes whose request takes over no lease (R395). -/
def takesNone : LeaseClass → Bool
  | .steepPass | .captureReadback | .shadowLoad => true
  | _ => false

/-- A request of such a class takes over no lease that is held. -/
theorem State.meet_of_takesNone (s : State) (h : Lease) (hm : takesNone cls = true) : s.meet h cls rs ≠ .takeOver := by
  unfold State.meet
  dsimp only
  split <;> simp_all [takesNone, ite_eq_iff]

/-- A value that is found at a key stands in the list. -/
theorem mem_of_look {κ α : Type} [DecidableEq κ] {m : List (κ × α)} {k : κ} {v : α} (h : look m k = some v) :
    (k, v) ∈ m := by
  induction m with
  | nil => cases h
  | cons e r ih =>
    obtain ⟨j, w⟩ := e
    by_cases hj : k = j
    · subst hj
      obtain rfl : w = v := by simpa [look] using h
      exact List.mem_cons_self
    · exact List.mem_cons_of_mem _ (ih (by simpa [look, hj] using h))

/-- A lease in the table is held on each of its resources. -/
theorem leased_nset (l : List (Nat × Lease)) (e : Nat) {x : Lease} {r : Resource} (hr : r ∈ x.rs) :
    ((nset l e x).any fun e => e.2.cls == x.cls && e.2.rs.contains r) = true := by
  have hmem : (e, x) ∈ nset l e x := mem_of_look (look_nset_self l e x)
  exact List.any_eq_true.mpr ⟨_, hmem, by simp [hr]⟩

/-- A request that the table admits and that takes over nothing is granted: it is held on its resources, and nothing but
the table, its log and leaves whose pass it pauses changes. -/
theorem State.leaseTry_granted (hok : s.leaseOk cls rs = true) (hm : takesNone cls = true) (dom : Nat) :
    ∃ t, s.leaseTry cls rs dom = (t, true) ∧ s.movesLeases t ∧ ∀ r ∈ rs, t.leased cls r = true := by
  obtain ⟨e, he⟩ : ∃ e, s.freeLease cls = some e := by
    have hfree : (s.freeLease cls).isSome = true := (Bool.and_eq_true_iff.mp hok).2
    exact Option.isSome_iff_exists.mp hfree
  have holds : (s.leases.filter fun h => s.meet h.2 cls rs == .takeOver) = [] :=
    List.filter_eq_nil_iff.mpr fun h _ => by simpa using s.meet_of_takesNone h.2 hm
  unfold State.leaseTry
  rw [he]
  dsimp only
  rw [if_pos hok, holds, List.foldl_nil]
  refine ⟨_, rfl, State.movesLeases.trans (State.movesLeases_foldl (fun s h => ?_) _ s) rfl, fun r hr => leased_nset _ _ hr⟩
  split <;> rfl

/-- A request that it does not admit is logged as refused. -/
theorem State.leaseTry_refused (hno : s.leaseOk cls rs = false) (dom : Nat) :
    s.leaseTry cls rs dom = (s.logLease 4 cls rs dom, false) := by
  unfold State.leaseTry
  rw [hno]
  split <;> rfl

end Sys2Proof.Machine
end

section
/-! PROOF. The steep pass and the leases it works under (R125, R126, R394, R395). -/

namespace Sys2Proof.Machine

variable {s : State} {c p : Nat}

/-! ### A step of the pass -/

/-- Under the pass's lease a step is taken. -/
theorem State.passStep_leased (f : State → State) (hp : s.leafOfCup c = some p) (hthere : s.cupGone c = false)
    (hgo : (s.leaf p).pausedAt = none) (hl : s.leased .steepPass (.leaf p) = true) : s.passStep c f = f s := by
  simp [State.passStep, hp, hthere, hgo, hl]

/-- Without it the lease is asked for, and the step is taken where it is granted. -/
theorem State.passStep_unleased (f : State → State) (hp : s.leafOfCup c = some p) (hthere : s.cupGone c = false)
    (hgo : (s.leaf p).pausedAt = none) (hl : s.leased .steepPass (.leaf p) = false) {t : State} {granted : Bool}
    (ht : s.leaseTry .steepPass [.leaf p] 0x00 = (t, granted)) : s.passStep c f = if granted then f t else t := by
  rw [State.passStep, hp]
  dsimp only
  rw [if_neg (by simp [hthere, hgo]), if_neg (by simp [hl]), ht]
  cases granted <;> rfl

/-- Nothing is done to a cup that is gone, or while the pass is paused. -/
theorem State.passStep_idle (f : State → State) (hp : s.leafOfCup c = some p)
    (h : s.cupGone c = true ∨ (s.leaf p).pausedAt.isSome = true) : s.passStep c f = s := by
  have hstop : (s.cupGone c || (s.leaf p).pausedAt.isSome) = true := by simpa using h
  rw [State.passStep, hp]
  exact if_pos hstop

/-! ### A word of the pass (R125) -/

/-- A count field of a register, as it saturates. -/
theorem State.fld_countUp (s : State) (k : RegKey) {hi lo : Nat} (h : hi < 32) :
    (s.countUp k hi lo).fld k hi lo = min (s.fld k hi lo + 1) (2 ^ (hi + 1 - lo) - 1) := by
  have hlt : s.fld k hi lo < 2 ^ (hi + 1 - lo) := s.fld_lt k hi lo
  have hsat : satInc (2 ^ (hi + 1 - lo) - 1) (s.fld k hi lo) = min (s.fld k hi lo + 1) (2 ^ (hi + 1 - lo) - 1) := by
    unfold satInc
    split <;> omega
  rw [State.countUp, State.fld_setFld_self _ _ _ _ _ h, hsat]
  exact Nat.mod_eq_of_lt (by omega)

/-- A count of 8 bits. -/
theorem State.fld_countUp8 (s : State) (k : RegKey) : (s.countUp k 7 0).fld k 7 0 = min 255 (s.fld k 7 0 + 1) :=
  (s.fld_countUp k (by decide)).trans (Nat.min_comm _ _)

theorem popCount_zero : popCount 0 = 0 := by decide

/-- A cup whose flipped word is set right. -/
def CupSt.mended (x : CupSt) (w : Nat) : CupSt :=
  { x.setActive (nput x.active w (x.active.at w ^^^ nget x.cfgErr (x.errKey w) 0) 0) with cfgErr := erase x.cfgErr (x.errKey w) }

/-- How many bits a fault of a read flips. -/
def faultBits : WordFault → Nat
  | .none => 0
  | .single _ => 1
  | .double => 2

/-- The pass reads a word: the bits flipped in the plane and by the read count together. -/
theorem State.passWord_eq (s : State) (c w : Nat) (f : WordFault) : s.passWord c w f =
    if popCount (nget (s.cup c).cfgErr ((s.cup c).errKey w) 0) + faultBits f = 0 then s
    else if popCount (nget (s.cup c).cfgErr ((s.cup c).errKey w) 0) + faultBits f = 1 then
      if nget (s.cup c).cfgErr ((s.cup c).errKey w) 0 = 0 then s.countUp ⟨.cupScrub, c, 0⟩ 7 0
      else ((s.countUp ⟨.cupScrub, c, 0⟩ 7 0).setCup c ((s.cup c).mended w)).followLatches
    else s.injected (nget (s.cup c).cfgErr ((s.cup c).errKey w) 0 != 0) fun s => s.passUe c w := by
  cases f <;> rfl

/-- A sound word changes nothing. -/
theorem State.passWord_sound {w : Nat} (h : nget (s.cup c).cfgErr ((s.cup c).errKey w) 0 = 0) :
    s.passWord c w .none = s := by
  rw [State.passWord_eq, h, popCount_zero, faultBits, if_pos rfl]

/-- A single-bit error of a read alone is counted. -/
theorem State.passWord_read {w : Nat} (h : nget (s.cup c).cfgErr ((s.cup c).errKey w) 0 = 0) (b : Fin 32) :
    s.passWord c w (.single b) = s.countUp ⟨.cupScrub, c, 0⟩ 7 0 := by
  rw [State.passWord_eq, h, popCount_zero, faultBits, if_neg (by decide), if_pos rfl, if_pos rfl]

/-- A single flipped bit is counted and set right. -/
theorem State.passWord_mends {w : Nat} (h : popCount (nget (s.cup c).cfgErr ((s.cup c).errKey w) 0) = 1) :
    s.passWord c w .none =
      ((s.countUp ⟨.cupScrub, c, 0⟩ 7 0).setCup c ((s.cup c).mended w)).followLatches := by
  have hne : nget (s.cup c).cfgErr ((s.cup c).errKey w) 0 ≠ 0 := fun e => by rw [e, popCount_zero] at h; cases h
  rw [State.passWord_eq, h, faultBits, if_neg (by decide), if_pos rfl, if_neg hne]

/-- What cups that differ in macrocells and in the instant before alone read of their planes. -/
theorem CupSt.planes_of_latched {x y : CupSt} (h : { x with fab := { x.fab with macs := [] }, old := none } =
    { y with fab := { y.fab with macs := [] }, old := none }) : x.active = y.active ∧ x.cfgErr = y.cfgErr :=
  ⟨(congrArg CupSt.active h :), (congrArg CupSt.cfgErr h :)⟩

/-- The word it reads then. -/
theorem CupSt.active_mended (x : CupSt) (w : Nat) :
    (x.mended w).active.at w = x.active.at w ^^^ nget x.cfgErr (x.errKey w) 0 := by
  have hact (pl : Plane) : (x.setActive pl).active = pl := by
    unfold CupSt.setActive CupSt.active
    cases x.bank <;> rfl
  have h : (x.mended w).active = nput x.active w (x.active.at w ^^^ nget x.cfgErr (x.errKey w) 0) 0 := hact _
  rw [h]
  exact nget_nput_self _ _ _ _

/-- Its error is gone. -/
theorem CupSt.cfgErr_mended (x : CupSt) (w : Nat) : nget (x.mended w).cfgErr (x.errKey w) 0 = 0 := by
  change nget (erase x.cfgErr (x.errKey w)) (x.errKey w) 0 = 0
  rw [nget, lookD, look_erase_self]
  rfl

/-- The word set right, and what else is written: the count alone (R125). -/
theorem State.passWord_mends_spec {w : Nat} (h : popCount (nget (s.cup c).cfgErr ((s.cup c).errKey w) 0) = 1) :
    ((s.passWord c w .none).cup c).active.at w =
        (s.cup c).active.at w ^^^ nget (s.cup c).cfgErr ((s.cup c).errKey w) 0 ∧
      nget ((s.passWord c w .none).cup c).cfgErr ((s.cup c).errKey w) 0 = 0 ∧
      (s.passWord c w .none).fld ⟨.cupScrub, c, 0⟩ 7 0 = min 255 (s.fld ⟨.cupScrub, c, 0⟩ 7 0 + 1) ∧
      s.keepsRegs (s.passWord c w .none) [⟨.cupScrub, c, 0⟩] ∧ s.movesCupRegs (s.passWord c w .none) := by
  rw [State.passWord_mends h]
  generalize hs1 : (s.countUp ⟨.cupScrub, c, 0⟩ 7 0).setCup c ((s.cup c).mended w) = s1
  have hcup1 : s1.cup c = (s.cup c).mended w := by rw [← hs1, State.cup_setCup_self]
  have hregs1 : s1.regs = (s.countUp ⟨.cupScrub, c, 0⟩ 7 0).regs := by rw [← hs1]; rfl
  have hmoves1 : s.movesCupRegs s1 := by
    rw [← hs1]
    exact (s.movesCupRegs_setReg _ _).trans (State.movesCupRegs_setCup _ _ _)
  have hmoves := s1.followLatches_movesCups
  obtain ⟨hactive, hcfg⟩ := CupSt.planes_of_latched (s1.cup_followLatches c)
  have hregs := hmoves.regs.trans hregs1
  refine ⟨?_, ?_, (State.fld_congr hregs _ _ _).trans (s.fld_countUp8 _), State.keepsRegs_of_setReg hregs,
    hmoves1.trans hmoves.cupRegs⟩
  · rw [hactive, hcup1, CupSt.active_mended]
  · rw [hcfg, hcup1, CupSt.cfgErr_mended]

/-! ### The end of a cup's part (R126) -/

/-- The pass begins anew for a cup. -/
def CupSt.passNew (x : CupSt) : CupSt := { x with passUe := false, passCut := false }

/-- The part of cup c ends: it and the next of its leaf begin anew. -/
def State.passTurn (s : State) (c : Nat) : State :=
  (s.modCup c CupSt.passNew).modCup (4 * (c / 4) + (c + 1) % 4) CupSt.passNew

theorem State.passCut_passTurn (s : State) (c : Nat) : ((s.passTurn c).cup c).passCut = false := by
  rw [State.passTurn, State.cup_modCup]
  split
  · rfl
  · rw [State.cup_modCup_self]; rfl

/-- A part that was cut short is marked so. -/
theorem State.passEnd_cut (h : (s.cup c).passCut = true) :
    s.passEnd c = (s.passTurn c).setFlag ⟨.cupPdigStat, c, 0⟩ 1 true := by
  have hdef : s.passEnd c = if (s.cup c).passCut then (s.passTurn c).setFlag ⟨.cupPdigStat, c, 0⟩ 1 true else _ := rfl
  rw [hdef, if_pos h]

/-- The registers that a whole part with the digest expected writes. -/
def State.passDone (s : State) (c : Nat) (d : BitVec 384) : State :=
  ((s.setDigest .cupPdig c d).setPair ⟨.cupPdigTick, c, 0⟩ ⟨.cupPdigTickHi, c, 0⟩ s.tick).setReg ⟨.cupPdigStat, c, 0⟩ 1

/-- A whole part with the digest expected stores it with its time. -/
theorem State.passEnd_whole (hcut : (s.cup c).passCut = false) (hue : (s.cup c).passUe = false)
    (hd : planeDigest (s.cup c).correctedPlane = s.digest .cupEdig c) :
    s.passEnd c = (s.passTurn c).passDone c (planeDigest (s.cup c).correctedPlane) := by
  have hd1 : planeDigest (s.cup c).correctedPlane = (s.passTurn c).digest .cupEdig c := hd
  have hgood : (planeDigest (s.cup c).correctedPlane != (s.passTurn c).digest .cupEdig c) = false := by simp [hd1]
  have hdef : s.passEnd c =
      if (s.cup c).passCut then (s.passTurn c).setFlag ⟨.cupPdigStat, c, 0⟩ 1 true
      else
        let s1 := (((s.passTurn c).setDigest .cupPdig c (planeDigest (s.cup c).correctedPlane)).setPair
          ⟨.cupPdigTick, c, 0⟩ ⟨.cupPdigTickHi, c, 0⟩ (s.passTurn c).tick).setReg ⟨.cupPdigStat, c, 0⟩
            (packBits [(3, 3, b2n (s.cup c).passUe),
              (2, 2, b2n (planeDigest (s.cup c).correctedPlane != (s.passTurn c).digest .cupEdig c)), (1, 1, 0), (0, 0, 1)])
        if (planeDigest (s.cup c).correctedPlane != (s.passTurn c).digest .cupEdig c) || (s.cup c).passUe then _
        else s1 := rfl
  rw [hdef, if_neg (by simp [hcut])]
  dsimp only
  rw [hgood, hue, if_neg (by decide)]
  rfl

/-- What it stores. -/
theorem State.passDone_spec (s : State) (c : Nat) (d : BitVec 384) :
    (s.passDone c d).digest .cupPdig c = d ∧
      (s.passDone c d).pair ⟨.cupPdigTick, c, 0⟩ ⟨.cupPdigTickHi, c, 0⟩ = s.tick % 2 ^ 64 ∧
      (s.passDone c d).reg ⟨.cupPdigStat, c, 0⟩ = 1 ∧ s.passDone c d = { s with regs := (s.passDone c d).regs } := by
  set s1 := s.setDigest .cupPdig c d with hs1
  set s2 := s1.setReg ⟨.cupPdigTick, c, 0⟩ (loWord s.tick) with hs2
  set s3 := s2.setReg ⟨.cupPdigTickHi, c, 0⟩ (hiWord s.tick) with hs3
  have hdef : s.passDone c d = s3.setReg ⟨.cupPdigStat, c, 0⟩ 1 := rfl
  have hlo : (s.passDone c d).reg ⟨.cupPdigTick, c, 0⟩ = loWord s.tick := by
    rw [hdef, State.reg_setReg, if_neg (by simp), hs3, State.reg_setReg, if_neg (by simp), hs2, State.reg_setReg_self]
  have hhi : (s.passDone c d).reg ⟨.cupPdigTickHi, c, 0⟩ = hiWord s.tick := by
    rw [hdef, State.reg_setReg, if_neg (by simp), hs3, State.reg_setReg_self]
  refine ⟨?_, ?_, ?_, ?_⟩
  · have hkeep : (s.passDone c d).digest .cupPdig c = s1.digest .cupPdig c := State.digest_congr fun j => by
      rw [hdef, State.reg_setReg, if_neg (by simp), hs3, State.reg_setReg, if_neg (by simp), hs2, State.reg_setReg,
        if_neg (by simp)]
    exact hkeep.trans (s.digest_setDigest _ _ _)
  · rw [State.pair, hlo, hhi, pairNat, loWord, hiWord, BitVec.toNat_ofNat, BitVec.toNat_ofNat]
    omega
  · rw [hdef, State.reg_setReg_self]
  · have hset := s.setDigest_eq .cupPdig c d
    rw [← hs1] at hset
    rw [hdef, hs3, hs2, hset]
    rfl

/-- A step that writes registers alone. -/
theorem State.movesCupRegs_of_regs {s t : State} (h : t = { s with regs := t.regs }) : s.movesCupRegs t := by
  unfold State.movesCupRegs
  rw [h]

/-! ### A readback that waited (R395) -/

/-- A readback that gets its lease waits no more. -/
theorem State.rbLease_granted {j : RbJob} (hj : (s.cup c).rbJob = some j) (hok : s.leaseOk .captureReadback [.cup c] = true) :
    ((s.rbLease c).cup c).rbJob = some { j with waiting := false } ∧
      (s.rbLease c).leased .captureReadback (.cup c) = true ∧ (s.rbLease c).regs = s.regs ∧ (s.rbLease c).hbm = s.hbm := by
  obtain ⟨t, ht, hmoves, hheld⟩ := State.leaseTry_granted hok rfl j.dom
  have hdef : s.rbLease c = t.modCup c fun x => { x with rbJob := some { j with waiting := false } } := by
    rw [State.rbLease, hj]
    dsimp only
    rw [ht]
  rw [hdef]
  exact ⟨by rw [State.cup_modCup_self], hheld _ (by simp), hmoves.regs, hmoves.hbm⟩

/-! ### The statement -/

/-- A leaf that is updated, read at another. -/
theorem State.leaf_modLeaf_ne (s : State) {p p' : Nat} (h : p' ≠ p) (f : LeafSt → LeafSt) :
    (s.modLeaf p f).leaf p' = s.leaf p' := (nget_nput ..).trans (if_neg h)

/-- Settles O27: a step of the pass is taken under its lease alone, which no other lease's taking over can cost it. -/
theorem theSteepPassChecksConfiguration : Obligations.TheSteepPassChecksConfiguration := by
  unfold Obligations.TheSteepPassChecksConfiguration
  refine ⟨?leased, ?unleased, ?idle, ?word, ?mends, ?cut, ?whole, ?pause, ?minRun⟩
  case leased =>
    intro s c p f hp hthere hgo hl
    exact State.passStep_leased f hp hthere hgo hl
  case unleased =>
    intro s c p f hp hthere hgo hl
    refine ⟨fun hok => ?_, fun hno => ?_⟩
    · obtain ⟨t, ht, -, hheld⟩ := State.leaseTry_granted hok rfl 0x00
      rw [State.passStep_unleased f hp hthere hgo hl ht, ht]
      exact ⟨rfl, hheld _ (by simp)⟩
    · exact State.passStep_unleased f hp hthere hgo hl (State.leaseTry_refused hno 0x00)
  case idle =>
    intro s c p f hp h
    exact State.passStep_idle f hp h
  case word =>
    intro s c w p hserv hp hthere hgo hl hsound
    have hexec (f : WordFault) : exec (.steepPassWord c w f) s = .next (s.passWord c.val w.val f) := by
      change execSteepPassWord c w f s = _
      rw [execSteepPassWord, whenServing_serving hserv, State.passStep_leased _ hp hthere hgo hl]
    refine ⟨by rw [hexec, State.passWord_sound hsound], fun b => ?_⟩
    refine ⟨s.countUp ⟨.cupScrub, c.val, 0⟩ 7 0, by rw [hexec, State.passWord_read hsound], s.fld_countUp8 _,
      State.keepsRegs_of_setReg rfl, rfl⟩
  case mends =>
    intro s c w p hserv hp hthere hgo hl hone
    obtain ⟨hat, herr, hcount, hregs, hmoves⟩ := State.passWord_mends_spec hone
    refine ⟨_, ?_, hat, herr, hcount, hregs, hmoves⟩
    change execSteepPassWord c w .none s = _
    rw [execSteepPassWord, whenServing_serving hserv, State.passStep_leased _ hp hthere hgo hl]
  case cut =>
    intro s c p hserv hp hthere hgo hl hcut
    refine ⟨(s.passTurn c.val).setFlag ⟨.cupPdigStat, c.val, 0⟩ 1 true, ?_, State.flag_setFlag_self _ _ _ _ (by decide),
      s.passCut_passTurn c.val, State.keepsRegs_of_setReg (t := (s.passTurn c.val).setFlag _ 1 true) rfl,
      ((s.movesCupRegs_setCup _ _).trans (State.movesCupRegs_setCup _ _ _)).trans (State.movesCupRegs_setReg _ _ _)⟩
    change execSteepPassCupEnd c s = _
    rw [execSteepPassCupEnd, whenServing_serving hserv, State.passStep_leased _ hp hthere hgo hl, State.passEnd_cut hcut]
  case whole =>
    intro s c p hserv hp hthere hgo hl hcut hue hd
    obtain ⟨hdig, htick, hstat, hrest⟩ := (s.passTurn c.val).passDone_spec c.val (planeDigest (s.cup c.val).correctedPlane)
    refine ⟨_, ?_, hdig, htick, hstat, ?_⟩
    · change execSteepPassCupEnd c s = _
      rw [execSteepPassCupEnd, whenServing_serving hserv, State.passStep_leased _ hp hthere hgo hl,
        State.passEnd_whole hcut hue hd]
    · have hcups : s.movesCupRegs (s.passTurn c.val) :=
        (s.movesCupRegs_setCup _ _).trans (State.movesCupRegs_setCup _ _ _)
      exact hcups.trans (State.movesCupRegs_of_regs hrest)
  case pause =>
    intro s p t0 hserv hpaused hlong
    refine ⟨s.modLeaf p.val fun x => { x with pausedAt := none, resumedAt := some s.tick }, ?_, s.leaf_modLeaf_self _ _,
      fun p' hp' => s.leaf_modLeaf_ne hp' _, rfl⟩
    change execSteepPassPauseTimeout p s = _
    rw [execSteepPassPauseTimeout, whenServing_serving hserv, hpaused]
    exact congrArg Host.Outcome.next (if_pos hlong)
  case minRun =>
    intro s p t0 c j hserv hres hlong hfind hj hok
    obtain ⟨hjob, hheld, hregs, hhbm⟩ := State.rbLease_granted hj hok
    refine ⟨s.rbLease c, ?_, hjob, hheld, hregs, State.keepsHbm_of_eq hhbm⟩
    change execSteepPassMinRunExpiry p s = _
    have hrun : t0 + msTicks 10 ≤ s.tick := hlong
    rw [execSteepPassMinRunExpiry, whenServing_serving hserv, hres]
    dsimp only
    rw [if_pos hrun, hfind]

end Sys2Proof.Machine
end

section
/-! PROOF. How a load ends: the lease and the place among its leaf's loads given up, the status set (R88, R114, R394). -/

namespace Sys2Proof.Machine

variable {s : State} {c : Nat}

/-! ### Leases that end -/

/-- What ends with a lease is in the table, its log and the leaves. -/
theorem State.movesLeases_leaseEnded (s : State) (l : Lease) : s.movesLeases (s.leaseEnded l) := by
  unfold State.leaseEnded
  dsimp only
  split
  · split
    · split <;> rfl
    · rfl
  · rfl
  · rfl

/-- The table itself is as it was. -/
theorem State.leases_leaseEnded (s : State) (l : Lease) : (s.leaseEnded l).leases = s.leases := by
  unfold State.leaseEnded
  dsimp only
  split
  · split
    · split <;> rfl
    · rfl
  · rfl
  · rfl

theorem State.movesLeases_leaseDropIf (s : State) (p : Lease → Bool) : s.movesLeases (s.leaseDropIf p) :=
  State.movesLeases.trans (t := { s with leases := s.leases.filter fun e => !p e.2 }) rfl
    (State.movesLeases_foldl (fun s (e : Nat × Lease) => s.movesLeases_leaseEnded e.2) _ _)

/-- The leases that are left. -/
theorem State.leases_leaseDropIf (s : State) (p : Lease → Bool) :
    (s.leaseDropIf p).leases = s.leases.filter fun e => !p e.2 :=
  foldl_keeps (get := State.leases) (step := fun (s : State) (e : Nat × Lease) => s.leaseEnded e.2)
    (fun s (e : Nat × Lease) _ => s.leases_leaseEnded e.2) _

/-- Once every lease of an activity on a resource has ended, none is held. -/
theorem State.leased_leaseDropOn (s : State) (cls : LeaseClass) (r : Resource) :
    (s.leaseDropOn cls r).leased cls r = false := by
  rw [State.leased, State.leaseDropOn, State.leases_leaseDropIf, List.any_eq_false]
  intro e he
  have hkept : (e.2.cls == cls && e.2.rs.contains r) = false := Bool.not_eq_true' _ ▸ (List.mem_filter.mp he).2
  rw [hkept]
  exact Bool.false_ne_true

/-- The loads of a leaf are in the leaves. -/
theorem State.movesLeases_modLoads (s : State) (c : Nat) (f : List Nat → List Nat) : s.movesLeases (s.modLoads c f) := by
  unfold State.modLoads
  split <;> rfl

theorem State.movesLeases.cup {s t : State} (h : s.movesLeases t) (d : Nat) : t.cup d = s.cup d :=
  congrArg (fun l : List (Nat × CupSt) => nget l d {}) h.cups

/-! ### The end of a load (R114) -/

/-- LOAD_CMD and LOAD_STAT once a load ends. -/
def State.loadStatus (s : State) (c code check word : Nat) : State :=
  (s.setFlag ⟨.cupLoadCmd, c, 0⟩ 31 false).setFields ⟨.cupLoadStat, c, 0⟩
    [(31, 28, code), (27, 24, check), (23, 22, if code = 2 then 2 else 0), (19, 0, word)]

/-- The word of LOAD_STAT then, field by field. -/
theorem State.fld_loadStatus (s : State) (c : Nat) {code check word : Nat} (hcode : code < 16) (hcheck : check < 16)
    (hword : word < 2 ^ 20) :
    (s.loadStatus c code check word).fld ⟨.cupLoadStat, c, 0⟩ 31 28 = code ∧
      (s.loadStatus c code check word).fld ⟨.cupLoadStat, c, 0⟩ 27 24 = check ∧
      (s.loadStatus c code check word).shadow c = (if code = 2 then 2 else 0) ∧
      (s.loadStatus c code check word).fld ⟨.cupLoadStat, c, 0⟩ 19 0 = word := by
  have hreg : (s.loadStatus c code check word).reg ⟨.cupLoadStat, c, 0⟩ =
      putBits (putBits (putBits (putBits (s.reg ⟨.cupLoadStat, c, 0⟩) 31 28 code) 27 24 check) 23 22
        (if code = 2 then 2 else 0)) 19 0 word := by
    rw [State.loadStatus, State.reg_setFields, if_pos rfl, State.reg_setFlag, if_neg (by simp)]
    rfl
  simp only [State.shadow, State.fld, hreg]
  refine ⟨?_, ?_, ?_, ?_⟩
  · rw [bits_putBits_ne _ _ _ _ _ _ (.inr (by decide)), bits_putBits_ne _ _ _ _ _ _ (.inr (by decide)),
      bits_putBits_ne _ _ _ _ _ _ (.inr (by decide)), bits_putBits_self _ _ _ _ (by decide)]
    exact Nat.mod_eq_of_lt hcode
  · rw [bits_putBits_ne _ _ _ _ _ _ (.inr (by decide)), bits_putBits_ne _ _ _ _ _ _ (.inr (by decide)),
      bits_putBits_self _ _ _ _ (by decide)]
    exact Nat.mod_eq_of_lt hcheck
  · rw [bits_putBits_ne _ _ _ _ _ _ (.inr (by decide)), bits_putBits_self _ _ _ _ (by decide)]
    split <;> rfl
  · rw [bits_putBits_self _ _ _ _ (by decide)]
    exact Nat.mod_eq_of_lt hword

/-- The device without the load, but for its lease and its place. -/
def State.loadGone (s : State) (c code check word : Nat) : State :=
  (s.loadStatus c code check word).modCup c fun x => { x with loadJob := none }

theorem State.loadEnd_eq (s : State) (c code check word : Nat) : s.loadEnd c code check word =
    ((s.loadGone c code check word).modLoads c fun l => l.filter (· != c)).leaseDropOn .shadowLoad (.cup c) := rfl

/-- What the end of a load changes: the two registers, the cup's job, and in leases and leaves the load's. -/
theorem State.loadEnd_spec (s : State) (c code check word : Nat) :
    (s.loadEnd c code check word).regs = (s.loadStatus c code check word).regs ∧
      (s.loadEnd c code check word).cup c = { s.cup c with loadJob := none } ∧
      (s.loadEnd c code check word).leased .shadowLoad (.cup c) = false ∧
      (s.loadEnd c code check word).hbm = s.hbm := by
  have hmoves : (s.loadGone c code check word).movesLeases (s.loadEnd c code check word) := by
    rw [State.loadEnd_eq]
    exact (State.movesLeases_modLoads _ c _).trans (State.movesLeases_leaseDropIf _ _)
  refine ⟨hmoves.regs, ?_, ?_, hmoves.hbm⟩
  · rw [hmoves.cup, State.loadGone, State.cup_modCup_self]
    rfl
  · rw [State.loadEnd_eq]
    exact State.leased_leaseDropOn _ _ _

/-- The registers beside them stand. -/
theorem State.keepsRegs_loadEnd (s : State) (c code check word : Nat) :
    s.keepsRegs (s.loadEnd c code check word) [⟨.cupLoadCmd, c, 0⟩, ⟨.cupLoadStat, c, 0⟩] := by
  obtain ⟨hregs, -, -, -⟩ := s.loadEnd_spec c code check word
  intro k hk
  obtain ⟨hk1, hk2⟩ : k ≠ ⟨.cupLoadCmd, c, 0⟩ ∧ k ≠ ⟨.cupLoadStat, c, 0⟩ := by simpa using hk
  rw [State.reg_congr hregs, State.loadStatus, State.reg_setFields, if_neg hk2, State.reg_setFlag, if_neg hk1]

end Sys2Proof.Machine
end

section
/-! PROOF. Loads of a shadow plane: their start, what they read, and how they end (R88, R112 to R114, R127, R256, R309). -/

namespace Sys2Proof.Machine

variable {s t : State} {c : Nat}

/-! ### What a load's own registers have no part in -/

/-- A write of LOAD_CMD or LOAD_STAT. -/
def loadReg (k : RegKey) : Prop := k.name = .cupLoadCmd ∨ k.name = .cupLoadStat

theorem loadReg.ne {k j : RegKey} (hk : loadReg k) (hj : ¬ loadReg j) : j ≠ k := fun e => hj (e ▸ hk)

/-- A state that differs in such registers, cups, leases and leaves alone, as a load begins. -/
structure LoadView (s t : State) : Prop where
  reg : ∀ k, ¬ loadReg k → t.reg k = s.reg k
  spEnts : t.spEnts = s.spEnts
  nv : t.nv = s.nv
  tenantKeys : t.tenantKeys = s.tenantKeys
  plyngen : t.plyngen = s.plyngen

theorem LoadView.setReg (s : State) {k : RegKey} (hk : loadReg k) (w : Word) : LoadView s (s.setReg k w) where
  reg _ hj := s.reg_setReg_ne w (hk.ne hj)
  spEnts := rfl
  nv := rfl
  tenantKeys := rfl
  plyngen := rfl

theorem LoadView.trans {u : State} (h : LoadView s t) (g : LoadView t u) : LoadView s u where
  reg k hk := (g.reg k hk).trans (h.reg k hk)
  spEnts := g.spEnts.trans h.spEnts
  nv := g.nv.trans h.nv
  tenantKeys := g.tenantKeys.trans h.tenantKeys
  plyngen := g.plyngen.trans h.plyngen

theorem State.movesLeases.loadView (h : s.movesLeases t) : LoadView s t where
  reg := fun k _ => State.reg_congr h.regs k
  spEnts := (congrArg State.spEnts h :)
  nv := (congrArg State.nv h :)
  tenantKeys := (congrArg State.tenantKeys h :)
  plyngen := (congrArg State.plyngen h :)

section
variable (h : LoadView s t)
include h

theorem LoadView.fld {k : RegKey} (hk : ¬ loadReg k) (hi lo : Nat) : t.fld k hi lo = s.fld k hi lo :=
  congrArg (bits · hi lo) (h.reg k hk)

theorem LoadView.leafOfCup (d : Nat) : t.leafOfCup d = s.leafOfCup d := by
  unfold State.leafOfCup
  rw [h.fld (by simp [loadReg])]

theorem LoadView.cupDom (d : Nat) : t.cupDom d = s.cupDom d := h.fld (by simp [loadReg]) 7 0

theorem LoadView.spEnt (e : Nat) : t.spEnt e = s.spEnt e := by
  unfold State.spEnt
  rw [h.spEnts]

theorem LoadView.spArmed (e : Nat) : t.spArmed e = s.spArmed e := by
  unfold State.spArmed
  rw [h.fld (by simp [loadReg])]

theorem LoadView.spNames (e d : Nat) : t.spNames e d = s.spNames e d := by
  unfold State.spNames
  rw [h.spEnt]

theorem LoadView.spAction (e : Nat) : t.spAction e = s.spAction e := by
  unfold State.spAction
  rw [h.spEnt]

/-- An armed FLIP. -/
theorem LoadView.flipArmed (d : Nat) : t.flipArmed d = s.flipArmed d := by
  unfold State.flipArmed
  simp only [h.spArmed, h.spAction, h.spNames]

theorem LoadView.inHold : t.inHold = s.inHold := by
  unfold State.inHold State.flag
  rw [h.reg _ (by simp [loadReg])]

/-- What a lease meets. -/
theorem LoadView.meet (l : Lease) (cls : LeaseClass) (rs : List Resource) : t.meet l cls rs = s.meet l cls rs := by
  have hleaf : t.leafOfCup = s.leafOfCup := funext h.leafOfCup
  unfold State.meet
  rw [hleaf]

/-- Whether a lease may be granted, where the table is the same. -/
theorem LoadView.leaseOk (hl : t.leases = s.leases) (cls : LeaseClass) (rs : List Resource) :
    t.leaseOk cls rs = s.leaseOk cls rs := by
  have hconf : t.spConflicts cls rs = s.spConflicts cls rs := by
    unfold State.spConflicts State.spExcludes
    simp only [h.spArmed, h.spAction, h.spNames]
  have hfree : t.freeLease cls = s.freeLease cls := by
    unfold State.freeLease
    rw [hl]
  unfold State.leaseOk
  simp only [hl, hconf, hfree, h.meet]

/-- The container of a library entry. -/
theorem LoadView.regionImage (r lib : Nat) : t.regionImage r lib = s.regionImage r lib := by
  have hbyte : t.storeByte = s.storeByte := by
    funext a
    unfold State.storeByte
    rw [h.nv]
  unfold State.regionImage State.storeBytes
  rw [hbyte]

/-- Its authentication (R309). -/
theorem LoadView.authLoad (dom : Nat) (b : Bool) (lib : Option Nat) (img : List Byte) :
    t.authLoad dom b lib img = s.authLoad dom b lib img := by
  have hfault (secs : List Sec) : t.cupFault dom img secs = s.cupFault dom img secs := by
    have hsigner : t.cupSigner dom img = s.cupSigner dom img := by
      unfold State.cupSigner State.tenantKey
      rw [h.nv, h.tenantKeys]
    unfold State.cupFault
    rw [hsigner, h.plyngen]
  unfold State.authLoad
  dsimp only
  rw [hfault]

end

/-! ### The start of a load (R112, R128) -/

/-- The device once LOAD_CMD has taken the fields of a write. -/
def State.loadAsked (s : State) (c : Nat) (v : Word) : State :=
  (s.plainWrite ⟨.cupLoadCmd, c, 0⟩ v).setFlag ⟨.cupLoadCmd, c, 0⟩ 31 false

theorem State.loadView_loadAsked (s : State) (c : Nat) (v : Word) : LoadView s (s.loadAsked c v) :=
  (LoadView.setReg s (.inl rfl) _).trans (LoadView.setReg _ (.inl rfl) _)

/-- The fields it has taken: a reserved PARTS leaves the one before (R11). -/
theorem State.fld_loadAsked (s : State) (c : Nat) (v : Word) :
    (s.loadAsked c v).fld ⟨.cupLoadCmd, c, 0⟩ 15 0 = bits v 15 0 ∧
      (s.loadAsked c v).flag ⟨.cupLoadCmd, c, 0⟩ 25 = bit v 25 ∧
      (s.loadAsked c v).fld ⟨.cupLoadCmd, c, 0⟩ 27 26 =
        if bits v 27 26 ≤ 1 then bits v 27 26 else s.fld ⟨.cupLoadCmd, c, 0⟩ 27 26 := by
  have hreg : (s.loadAsked c v).reg ⟨.cupLoadCmd, c, 0⟩ =
      putBits (mergeWrite .cupLoadCmd (s.reg ⟨.cupLoadCmd, c, 0⟩) v) 31 31 0 := by
    rw [State.loadAsked, State.reg_setFlag, if_pos rfl, State.reg_plainWrite, if_pos rfl]
    rfl
  have hlib : rwF 15 0 ∈ fieldsOf .cupLoadCmd := .tail _ (.tail _ (.tail _ (.head _)))
  have hsrc : rwF 25 25 ∈ fieldsOf .cupLoadCmd := .tail _ (.tail _ (.head _))
  have hparts : rwOk 27 26 (inRange 0 1) ∈ fieldsOf .cupLoadCmd := .tail _ (.head _)
  refine ⟨?_, ?_, ?_⟩
  · rw [State.fld, hreg, bits_putBits_ne _ _ _ _ _ _ (.inl (by decide))]
    exact (bits_mergeWrite_rw hlib rfl _ v).trans (if_pos rfl)
  · have hbit := bit_mergeWrite_of_mem hsrc (s.reg ⟨.cupLoadCmd, c, 0⟩) v (i := 25) le_rfl le_rfl
    rw [State.flag, hreg, bit_putBits_ne _ _ _ _ _ (.inl (by decide)), hbit]
    change bit (putBits (s.reg ⟨.cupLoadCmd, c, 0⟩) 25 25 (bits v 25 25)) 25 = bit v 25
    unfold bit
    rw [getLsbD_putBits, if_pos (by decide), testBit_bits]
    rfl
  · rw [State.fld, hreg, bits_putBits_ne _ _ _ _ _ _ (.inl (by decide))]
    simpa [rwOk, inRange, State.fld] using bits_mergeWrite_rw hparts rfl (s.reg ⟨.cupLoadCmd, c, 0⟩) v

/-- The status while a load runs. -/
def State.loadShown (s : State) (c : Nat) : State :=
  (s.setFlag ⟨.cupLoadCmd, c, 0⟩ 31 true).setFields ⟨.cupLoadStat, c, 0⟩ [(31, 28, 1), (27, 24, 0), (23, 22, 1), (19, 0, 0)]

theorem State.fld_loadShown (s : State) (c : Nat) :
    (s.loadShown c).fld ⟨.cupLoadStat, c, 0⟩ 31 28 = 1 ∧ (s.loadShown c).shadow c = 1 := by
  have hreg : (s.loadShown c).reg ⟨.cupLoadStat, c, 0⟩ =
      putBits (putBits (putBits (putBits (s.reg ⟨.cupLoadStat, c, 0⟩) 31 28 1) 27 24 0) 23 22 1) 19 0 0 := by
    rw [State.loadShown, State.reg_setFields, if_pos rfl, State.reg_setFlag, if_neg (by simp)]
    rfl
  simp only [State.shadow, State.fld, hreg]
  constructor
  · rw [bits_putBits_ne _ _ _ _ _ _ (.inr (by decide)), bits_putBits_ne _ _ _ _ _ _ (.inr (by decide)),
      bits_putBits_ne _ _ _ _ _ _ (.inr (by decide)), bits_putBits_self _ _ _ _ (by decide)]
    rfl
  · rw [bits_putBits_ne _ _ _ _ _ _ (.inr (by decide)), bits_putBits_self _ _ _ _ (by decide)]
    rfl

/-- A library entry is read and authenticated at once (R309). -/
theorem State.loadRead_lib (s : State) (m c n dom a since : Nat) : s.loadRead m c (some n) dom a since =
    s.modCup c fun x => { x with loadJob := some { s.authLoad (s.cupDom c) (s.fld ⟨.cupLoadCmd, c, 0⟩ 27 26 == 1) (some n)
      (s.regionImage 4 n) with since } } := rfl

/-- A START for a valid library entry, with its lease to be had, begins the load (R112, R128). -/
theorem State.writeLoadCmd_starts {m n : Nat} {v : Word} (hidle : (s.cup c).loadJob = none) (hstart : bit v 31 = true)
    (hlib : bit v 25 = false) (hn : bits v 15 0 = n) (hhold : s.inHold = false) (hflip : s.flipArmed c = false)
    (hvalid : (s.nv.libEnt n).valid = true) (hok : s.leaseOk .shadowLoad [.cup c, .libEntry n] = true) :
    ∃ t dom a, (s.loadAsked c v).movesLeases t ∧ t.leased .shadowLoad (.cup c) = true ∧
      s.writeLoadCmd m c v = ((t.loadShown c).modLoads c fun l => l ++ [c]).loadRead m c (some n) dom a s.root := by
  have hview := s.loadView_loadAsked c v
  obtain ⟨hfld, hflag, -⟩ := s.fld_loadAsked c v
  have hok1 : (s.loadAsked c v).leaseOk .shadowLoad [.cup c, .libEntry n] = true := (hview.leaseOk rfl _ _).trans hok
  obtain ⟨t, ht, hmoves, hheld⟩ := State.leaseTry_granted hok1 rfl (((s.loadAsked c v).midDomain m).getD 0)
  have hnv : (t.loadShown c).nv = s.nv := hmoves.loadView.nv.trans hview.nv
  have hfree : ((s.loadAsked c v).inHold || (s.loadAsked c v).flipArmed c) = false := by
    rw [hview.inHold, hview.flipArmed, hhold, hflip]
    rfl
  have hroot : ((t.loadShown c).modLoads c fun l => l ++ [c]).root = s.root := by
    rw [(congrArg State.root ((t.loadShown c).movesLeases_modLoads c _) :)]
    exact (congrArg State.root hmoves :)
  refine ⟨t, ((s.loadAsked c v).midDomain m).getD 0,
    (t.loadShown c).pair ⟨.cupLoadSrc, c, 0⟩ ⟨.cupLoadSrcHi, c, 0⟩, hmoves, hheld _ List.mem_cons_self, ?_⟩
  have hasked : (s.plainWrite ⟨.cupLoadCmd, c, 0⟩ v).setFlag ⟨.cupLoadCmd, c, 0⟩ 31 false = s.loadAsked c v := rfl
  unfold State.writeLoadCmd
  dsimp only
  rw [hidle, if_neg (by decide), hstart, if_neg (by decide), hasked, if_neg (by simp [hfree]), hflag, hlib,
    if_neg (by decide), hfld, hn]
  have ht' : (s.loadAsked c v).leaseTry .shadowLoad (.cup c :: (Option.map Resource.libEntry (some n)).toList)
      (((s.loadAsked c v).midDomain m).getD 0) = (t, true) := ht
  have hshown : (t.setFlag ⟨.cupLoadCmd, c, 0⟩ 31 true).setFields ⟨.cupLoadStat, c, 0⟩
      [(31, 28, 1), (27, 24, 0), (23, 22, 1), (19, 0, 0)] = t.loadShown c := rfl
  rw [ht']
  dsimp only
  rw [hshown, if_neg (by simp [hnv, hvalid]), if_neg (by simp), hroot]

/-! ### What a begun load leaves -/

/-- The device as the load reads its image. -/
def State.loadBegun (s : State) (c : Nat) : State := (s.loadShown c).modLoads c fun l => l ++ [c]

theorem State.movesLeases_loadBegun (s : State) (c : Nat) : (s.loadShown c).movesLeases (s.loadBegun c) :=
  State.movesLeases_modLoads _ _ _

theorem State.leases_loadBegun (s : State) (c : Nat) : (s.loadBegun c).leases = s.leases := by
  unfold State.loadBegun State.modLoads
  split <;> rfl

theorem State.reg_loadBegun (s : State) (c : Nat) (k : RegKey) : (s.loadBegun c).reg k = (s.loadShown c).reg k :=
  State.reg_congr (s.movesLeases_loadBegun c).regs k

/-- The fields it has shown and kept. -/
theorem State.fld_loadBegun (s : State) (c : Nat) :
    (s.loadBegun c).fld ⟨.cupLoadStat, c, 0⟩ 31 28 = 1 ∧ (s.loadBegun c).shadow c = 1 ∧
      (s.loadBegun c).fld ⟨.cupLoadCmd, c, 0⟩ 27 26 = s.fld ⟨.cupLoadCmd, c, 0⟩ 27 26 := by
  obtain ⟨hstat, hshadow⟩ := s.fld_loadShown c
  refine ⟨?_, ?_, ?_⟩
  · rw [State.fld, State.reg_loadBegun]
    exact hstat
  · rw [State.shadow, State.fld, State.reg_loadBegun]
    exact hshadow
  · rw [State.fld, State.reg_loadBegun, State.loadShown, State.reg_setFields, if_neg (by simp), State.reg_setFlag,
      if_pos rfl, bits_putBits_ne _ _ _ _ _ _ (.inl (by decide)), State.fld]

/-- The other registers stand. -/
theorem State.loadView_loadBegun (s : State) (c : Nat) : LoadView s (s.loadBegun c) := by
  have hshown : LoadView s (s.loadShown c) :=
    (LoadView.setReg s (.inl rfl) _).trans (LoadView.setReg _ (.inr rfl) _)
  exact hshown.trans (s.movesLeases_loadBegun c).loadView

/-- A START that begins a load of library entry n: the job, the plane's state, the lease, and what stands (R112, R309). -/
theorem State.writeLoadCmd_starts_spec {m n : Nat} {v : Word} (hidle : (s.cup c).loadJob = none) (hstart : bit v 31 = true)
    (hlib : bit v 25 = false) (hn : bits v 15 0 = n) (hhold : s.inHold = false) (hflip : s.flipArmed c = false)
    (hvalid : (s.nv.libEnt n).valid = true) (hok : s.leaseOk .shadowLoad [.cup c, .libEntry n] = true) :
    (s.writeLoadCmd m c v).cup c = { s.cup c with loadJob := some { s.authLoad (s.cupDom c)
        ((if bits v 27 26 ≤ 1 then bits v 27 26 else s.fld ⟨.cupLoadCmd, c, 0⟩ 27 26) == 1) (some n)
        (s.regionImage 4 n) with since := s.root } } ∧
      (s.writeLoadCmd m c v).shadow c = 1 ∧ (s.writeLoadCmd m c v).fld ⟨.cupLoadStat, c, 0⟩ 31 28 = 1 ∧
      (s.writeLoadCmd m c v).leased .shadowLoad (.cup c) = true ∧
      s.keepsRegs (s.writeLoadCmd m c v) [⟨.cupLoadCmd, c, 0⟩, ⟨.cupLoadStat, c, 0⟩] ∧
      (s.writeLoadCmd m c v).hbm = s.hbm := by
  obtain ⟨t, dom, a, hmoves, hheld, hdef⟩ :=
    State.writeLoadCmd_starts (m := m) hidle hstart hlib hn hhold hflip hvalid hok
  obtain ⟨-, -, hparts⟩ := s.fld_loadAsked c v
  obtain ⟨hstat, hshadow, hkept⟩ := t.fld_loadBegun c
  have hview : LoadView s (t.loadBegun c) :=
    ((s.loadView_loadAsked c v).trans hmoves.loadView).trans (t.loadView_loadBegun c)
  have hask : (t.loadBegun c).fld ⟨.cupLoadCmd, c, 0⟩ 27 26 =
      if bits v 27 26 ≤ 1 then bits v 27 26 else s.fld ⟨.cupLoadCmd, c, 0⟩ 27 26 := by
    rw [hkept, State.fld_congr hmoves.regs, hparts]
  have hbegun := t.movesLeases_loadBegun c
  have hcup : (t.loadBegun c).cup c = s.cup c := (hbegun.cup c).trans (hmoves.cup c)
  change s.writeLoadCmd m c v = (t.loadBegun c).loadRead m c (some n) dom a s.root at hdef
  rw [hdef, State.loadRead_lib]
  refine ⟨?_, hshadow, hstat, ?_, ?_, ?_⟩
  · rw [State.cup_modCup_self, hview.cupDom, hask, hview.regionImage, hview.authLoad, hcup]
  · change ((t.loadBegun c).leases.any _) = true
    rw [State.leases_loadBegun]
    exact hheld
  · intro k hk
    obtain ⟨hk1, hk2⟩ : k ≠ ⟨.cupLoadCmd, c, 0⟩ ∧ k ≠ ⟨.cupLoadStat, c, 0⟩ := by simpa using hk
    change (t.loadBegun c).reg k = s.reg k
    rw [State.reg_loadBegun, State.loadShown, State.reg_setFields, if_neg hk2, State.reg_setFlag, if_neg hk1,
      State.reg_congr hmoves.regs, State.loadAsked, State.reg_setFlag, if_neg hk1, State.reg_plainWrite, if_neg hk1]
  · exact hbegun.hbm.trans hmoves.hbm

/-- A START while a load runs shows BUSY and does no more (R114). -/
theorem State.writeLoadCmd_busy {m : Nat} {v : Word} (hjob : (s.cup c).loadJob ≠ none) (hstart : bit v 31 = true) :
    s.writeLoadCmd m c v = s.setFld ⟨.cupLoadStat, c, 0⟩ 31 28 7 := by
  unfold State.writeLoadCmd
  dsimp only
  rw [if_pos (Option.isSome_iff_ne_none.mpr hjob), if_pos hstart]

/-! ### The steps that end a load -/

/-- A load that ends with CODE and leaves the plane empty. -/
theorem State.loadEnd_failed (s : State) (c : Nat) {code check word : Nat} (hcode : code < 16) (hfail : code ≠ 2)
    (hcheck : check < 16) (hword : word < 2 ^ 20) :
    (s.loadEnd c code check word).fld ⟨.cupLoadStat, c, 0⟩ 31 28 = code ∧
      (s.loadEnd c code check word).fld ⟨.cupLoadStat, c, 0⟩ 27 24 = check ∧
      (s.loadEnd c code check word).fld ⟨.cupLoadStat, c, 0⟩ 19 0 = word ∧
      (s.loadEnd c code check word).shadow c = 0 ∧
      (s.loadEnd c code check word).cup c = { s.cup c with loadJob := none } ∧ s.keepsHbm (s.loadEnd c code check word) := by
  obtain ⟨hregs, hcup, -, hhbm⟩ := s.loadEnd_spec c code check word
  obtain ⟨h1, h2, h3, h4⟩ := s.fld_loadStatus c hcode hcheck hword
  rw [if_neg hfail] at h3
  exact ⟨(State.fld_congr hregs _ _ _).trans h1, (State.fld_congr hregs _ _ _).trans h2,
    (State.fld_congr hregs _ _ _).trans h4, (State.fld_congr hregs _ _ _).trans h3, hcup, State.keepsHbm_of_eq hhbm⟩

/-- The plane, its digest and the digest expected, as a sound load fills them. -/
def State.loadFilled (s : State) (c : Nat) (j : LoadJob) : State :=
  ((s.modCup c fun x => x.putShadow j.words).setDigest .cupSdig c j.digest).modCup c fun x => { x with xdig := j.digest }

/-- The plane a structure fills is the shadow plane alone. -/
theorem CupSt.planes_putShadow (x : CupSt) (ws : List Word) :
    (x.putShadow ws).shadow = toPlane ws ∧ (x.putShadow ws).active = x.active := by
  unfold CupSt.putShadow CupSt.setShadow CupSt.shadow CupSt.active
  cases x.bank <;> exact ⟨rfl, rfl⟩

/-- A load without content that the sieve and the digest pass ends with CODE 0010 (R112). -/
theorem State.loadFinish_sound {j : LoadJob} (hcode : j.code = 0) (hcontent : j.content = none)
    (hsieve : s.sieveFor c j.words none = none) (hdigest : planeDigest (toPlane j.words) = j.digest) :
    s.loadFinish c j = (s.loadFilled c j).loadEnd c 2 0 0 := by
  have hshadow : ((s.modCup c fun x => (x.putShadow j.words).putContents none).cup c).shadow = toPlane j.words := by
    rw [State.cup_modCup_self]
    exact (CupSt.planes_putShadow _ _).1
  unfold State.loadFinish
  rw [hcode, if_neg (by decide), hcontent, hsieve]
  dsimp only
  rw [if_neg (by simp), hshadow, hdigest, if_neg (by simp)]
  rfl

/-- One that the sieve rejects (R127). -/
theorem State.loadFinish_rejected {j : LoadJob} {check word : Nat} (hcode : j.code = 0)
    (hsieve : s.sieveFor c j.words j.content = some (check, word)) : s.loadFinish c j = s.loadEnd c 4 check word := by
  unfold State.loadFinish
  rw [hcode, if_neg (by decide), hsieve]

/-- One whose authentication failed (R309). -/
theorem State.loadFinish_failed {j : LoadJob} (hcode : j.code ≠ 0) : s.loadFinish c j = s.loadEnd c j.code 0 0 := by
  unfold State.loadFinish
  rw [if_pos hcode]

/-- What a sound load leaves (R112, R114). -/
theorem State.loadFilled_ended (s : State) (c : Nat) (j : LoadJob) :
    (((s.loadFilled c j).loadEnd c 2 0 0).cup c).shadow = toPlane j.words ∧
      (((s.loadFilled c j).loadEnd c 2 0 0).cup c).active = (s.cup c).active ∧
      ((s.loadFilled c j).loadEnd c 2 0 0).digest .cupSdig c = j.digest ∧
      ((s.loadFilled c j).loadEnd c 2 0 0).shadow c = 2 ∧
      ((s.loadFilled c j).loadEnd c 2 0 0).fld ⟨.cupLoadStat, c, 0⟩ 31 28 = 2 ∧
      (((s.loadFilled c j).loadEnd c 2 0 0).cup c).loadJob = none ∧
      ((s.loadFilled c j).loadEnd c 2 0 0).leased .shadowLoad (.cup c) = false ∧
      s.keepsHbm ((s.loadFilled c j).loadEnd c 2 0 0) := by
  obtain ⟨hregs, hcup, hleased, hhbm⟩ := (s.loadFilled c j).loadEnd_spec c 2 0 0
  obtain ⟨hcode, -, hshadow, -⟩ := (s.loadFilled c j).fld_loadStatus c (code := 2) (check := 0) (word := 0) (by decide)
    (by decide) (by decide)
  have hkeeps := (s.loadFilled c j).keepsRegs_loadEnd c 2 0 0
  have hset := (s.modCup c fun x => x.putShadow j.words).setDigest_eq .cupSdig c j.digest
  generalize ht : (s.modCup c fun x => x.putShadow j.words).setDigest .cupSdig c j.digest = t at hset
  have hfilled : s.loadFilled c j = t.modCup c fun x => { x with xdig := j.digest } := by rw [State.loadFilled, ht]
  have hcups : t.cup c = (s.cup c).putShadow j.words := by
    rw [← s.cup_modCup_self c fun x => x.putShadow j.words, hset]
    rfl
  have hx : (s.loadFilled c j).cup c = { (s.cup c).putShadow j.words with xdig := j.digest } := by
    rw [hfilled, State.cup_modCup_self, hcups]
  obtain ⟨hfull, hactive⟩ := (s.cup c).planes_putShadow j.words
  rw [hcup, hx]
  refine ⟨hfull, hactive, ?_, (State.fld_congr hregs _ _ _).trans hshadow, (State.fld_congr hregs _ _ _).trans hcode, rfl,
    hleased, State.keepsHbm_of_eq (hhbm.trans ?_)⟩
  · have hdig : (s.loadFilled c j).digest .cupSdig c = j.digest := by
      rw [hfilled]
      change t.digest .cupSdig c = j.digest
      rw [← ht]
      exact State.digest_setDigest _ _ _ _
    exact (State.digest_congr fun i => hkeeps _ (by simp)).trans hdig
  · rw [hfilled]
    exact (congrArg State.hbm hset :)

/-! ### The statement -/

/-- A load whose lease stands and whose turn it is finishes where its image is read. -/
theorem execLoadComplete_read {c : Fin 192} {j : LoadJob} (hl : s.live = true) (hj : (s.cup c.val).loadJob = some j)
    (hserved : s.loadServed c.val = true) (hleased : s.leased .shadowLoad (.cup c.val) = true) (hread : j.unread = none) :
    exec (.loadComplete c) s = .next (s.loadFinish c.val j) := by
  change execLoadComplete c s = _
  rw [execLoadComplete, whenLive_live hl, hj]
  dsimp only
  rw [hleased, if_neg (by decide), if_pos hserved, hread]

/-- Settles O28: a load is granted its lease, takes its turn among its leaf's, and ends in one of a few ways. -/
theorem loadsFillTheShadowPlane : Obligations.LoadsFillTheShadowPlane := by
  unfold Obligations.LoadsFillTheShadowPlane
  refine ⟨?starts, ?denied, ?busy, ?sound, ?rejected, ?failed, ?unread, ?lapsed, ?waits⟩
  case starts =>
    intro s m c v hacc hnot hidle hstart hlib hhold hflip hvalid hok
    obtain ⟨hcup, hshadow, hstat, hleased, hregs, hhbm⟩ :=
      State.writeLoadCmd_starts_spec (m := m) hidle hstart hlib rfl hhold hflip hvalid hok
    generalize hu : s.writeLoadCmd m c.val v = u at hcup hshadow hstat hleased hregs hhbm
    refine ⟨u.answer m .ok, ?_, ?_, hshadow, hstat, hleased, ?_, hregs, State.keepsHbm_of_eq hhbm⟩
    · change execCupLoad m c v s = _
      rw [execCupLoad, hnot, writeUnless_accepts hacc, hu]
    · change (u.cup c.val).loadJob = _
      rw [hcup]
    · change (u.cup c.val).active = _
      rw [hcup]
      rfl
  case denied =>
    intro s m c v hacc hbar
    change execCupLoad m c v s = _
    rw [execCupLoad, hbar, writeUnless_barred hacc]
  case busy =>
    intro s m c v hacc hnot hjob hstart
    refine ⟨(s.setFld ⟨.cupLoadStat, c.val, 0⟩ 31 28 7).answer m .ok, ?_, ?_, ?_, rfl⟩
    · change execCupLoad m c v s = _
      rw [execCupLoad, hnot, writeUnless_accepts hacc, State.writeLoadCmd_busy hjob hstart]
    · exact s.fld_setFld_self _ _ _ _ (by decide)
    · exact State.keepsRegs_of_setReg rfl
  case sound =>
    intro s c j hl hj hserved hleased hread hcode hcontent hsieve hdigest
    refine ⟨_, ?_, s.loadFilled_ended c.val j⟩
    rw [execLoadComplete_read hl hj hserved hleased hread, State.loadFinish_sound hcode hcontent hsieve hdigest]
  case rejected =>
    intro s c j check word hl hj hserved hleased hread hcode hsieve hcheck hword
    refine ⟨_, ?_, s.loadEnd_failed c.val (by decide) (by decide) hcheck hword⟩
    rw [execLoadComplete_read hl hj hserved hleased hread, State.loadFinish_rejected hcode hsieve]
  case failed =>
    intro s c j hl hj hserved hleased hread hcode hlt hfail
    obtain ⟨hstat, -, -, hrest⟩ := s.loadEnd_failed c.val hlt hfail (check := 0) (word := 0) (by decide) (by decide)
    refine ⟨_, ?_, hstat, hrest⟩
    rw [execLoadComplete_read hl hj hserved hleased hread, State.loadFinish_failed hcode]
  case unread =>
    intro s c j d a hl hj hserved hleased hunread
    have hexec : exec (.loadComplete c) s = .next (if s.imageWaits d a then s else
        (s.loadRead (domMid d) c.val none d a j.since).loadTail c.val) := by
      change execLoadComplete c s = _
      rw [execLoadComplete, whenLive_live hl, hj]
      dsimp only
      rw [hleased, if_neg (by decide), if_pos hserved, hunread]
    rw [hexec]
    exact ⟨fun hwait => by rw [if_pos hwait], fun hgo => by rw [if_neg (by simp [hgo])]⟩
  case lapsed =>
    intro s c j hl hj hleased
    obtain ⟨hstat, -, -, hrest⟩ := s.loadEnd_failed c.val (code := 7) (check := 0) (word := 0) (by decide) (by decide)
      (by decide) (by decide)
    refine ⟨_, ?_, hstat, hrest⟩
    change execLoadComplete c s = _
    rw [execLoadComplete, whenLive_live hl, hj]
    dsimp only
    rw [hleased, if_pos (by decide)]
  case waits =>
    intro s c p hp hturn hleased
    have hserved : s.loadServed c.val = false := by
      rw [State.loadServed, hp]
      exact beq_eq_false_iff_ne.mpr hturn
    change execLoadComplete c s = _
    cases hl : s.live with
    | false => rw [execLoadComplete, whenLive_dead hl]
    | true =>
      rw [execLoadComplete, whenLive_live hl, hleased, hserved]
      cases (s.cup c.val).loadJob with
      | none => rfl
      | some j => exact congrArg Host.Outcome.next ((if_neg (by decide)).trans (if_neg (by decide)))

end Sys2Proof.Machine
end

section
/-! PROOF. The ports of a cup: stream ports bound, their packets, clears that end, and the request port (R96 to R98, R117,
R138, R142, R148, R150). -/

namespace Sys2Proof.Machine

variable {s : State} {c n stream k : Nat}

/-! ### Bindings (R142) -/

/-- A write that names a stream of another domain is refused to a tenant. -/
theorem State.bindDenied_of_tenant {m d : Nat} {v : Word} (hm : s.midDomain m = some d) (hd : (tenantOf d).isSome = true)
    (hother : s.fld ⟨.traySent, bits v 13 0, 0⟩ 7 0 ≠ d) : s.bindDenied m v = true := by
  rw [State.bindDenied, hm]
  exact Bool.and_eq_true_iff.mpr ⟨hd, by simpa using hother⟩

/-- A tenant's refused register access is held for 2 µs. -/
theorem State.denyAccess_of_tenant {m d : Nat} (hm : s.midDomain m = some d) (hd : (tenantOf d).isSome = true) :
    s.denyAccess m = s.hold m 0 8000 .deny := by
  have htenant : s.isTenant m = true := by rw [State.isTenant, hm]; exact hd
  rw [State.denyAccess, State.denyAccessIn, htenant]
  rfl

/-- The binding words take EN and STREAM as a write gives them. -/
theorem bindKey_mergeWrite (c n : Nat) (out : Bool) (old v : Word) :
    bits (mergeWrite (bindKey c n out).name old v) 13 0 = bits v 13 0 ∧
      bits (mergeWrite (bindKey c n out).name old v) 31 31 = bits v 31 31 := by
  have hfields : fieldsOf (bindKey c n out).name = [rwF 31 31, rcF 29 14, rwF 13 0] := by cases out <;> rfl
  have hstream : rwF 13 0 ∈ fieldsOf (bindKey c n out).name := hfields ▸ .tail _ (.tail _ (.head _))
  have hen : rwF 31 31 ∈ fieldsOf (bindKey c n out).name := hfields ▸ .head _
  exact ⟨(bits_mergeWrite_rw hstream rfl old v).trans (if_pos rfl), (bits_mergeWrite_rw hen rfl old v).trans (if_pos rfl)⟩

/-- A bit is its field of one bit. -/
theorem bit_eq_of_bits {w v : Word} {i : Nat} (h : bits w i i = bits v i i) : bit w i = bit v i := by
  have htest : (bits w i i).testBit 0 = (bits v i i).testBit 0 := by rw [h]
  rw [testBit_bits, testBit_bits] at htest
  simpa [bit] using htest

/-! ### Stream-in ports (R96, R138) -/

/-- A packet that fits is kept whole by the port of a running cup. -/
theorem State.sinTake_fits {data : List Byte} (hrun : s.cupState c = 2) (hbound : (s.cup c).active.bound (1 + n) = true)
    (hen : s.flag ⟨.cupSin, c, n⟩ 31 = true) (hfits : (nget (s.cup c).sin n {}).used + data.length ≤ 32768) :
    (nget ((s.sinTake c n data).cup c).sin n {}).pkts = (nget (s.cup c).sin n {}).pkts ++ [data] := by
  unfold State.sinTake
  dsimp only
  rw [if_pos ⟨hrun, hbound, hen, hfits⟩, State.cup_setCup_self, nget_nput_self]

/-- A router that finds damage counts it, and no more. -/
theorem State.flitError_eq (s : State) {r : Nat} (hr : r < 240) : s.flitError r = s.countUp ⟨.rtrErr, r, 0⟩ 15 0 := if_pos hr

/-- A discarded packet: counted, and a gap before the next. -/
theorem State.sinDrop_spec (s : State) (c n : Nat) :
    (s.sinDrop c n).regs = (s.countUp ⟨.cupSin, c, n⟩ 29 14).regs ∧
      (s.sinDrop c n).cup c =
        { s.cup c with sin := nput (s.cup c).sin n { nget (s.cup c).sin n {} with gap := true } {} } ∧
      (∀ d, d ≠ c → (s.sinDrop c n).cup d = s.cup d) ∧ s.movesCupRegs (s.sinDrop c n) := by
  refine ⟨rfl, ?_, fun d hd => ?_, (s.movesCupRegs_setReg _ _).trans (State.movesCupRegs_setCup _ _ _)⟩
  · rw [State.sinDrop, State.cup_modCup_self]
    rfl
  · rw [State.sinDrop, State.cup_modCup, if_neg hd]
    rfl

/-- A packet that a router found damaged is discarded; router and port count it (R138). -/
theorem State.damaged_spec (s : State) (c n : Nat) {r : Nat} (hr : r < 240) :
    ((s.flitError r).sinDrop c n).fld ⟨.cupSin, c, n⟩ 29 14 = min (s.fld ⟨.cupSin, c, n⟩ 29 14 + 1) 65535 ∧
      ((s.flitError r).sinDrop c n).fld ⟨.rtrErr, r, 0⟩ 15 0 = min (s.fld ⟨.rtrErr, r, 0⟩ 15 0 + 1) 65535 ∧
      (nget (((s.flitError r).sinDrop c n).cup c).sin n {}).pkts = (nget (s.cup c).sin n {}).pkts ∧
      (nget (((s.flitError r).sinDrop c n).cup c).sin n {}).gap = true ∧
      (∀ d, d ≠ c → ((s.flitError r).sinDrop c n).cup d = s.cup d) ∧
      s.keepsRegs ((s.flitError r).sinDrop c n) [⟨.cupSin, c, n⟩, ⟨.rtrErr, r, 0⟩] ∧
      s.movesCupRegs ((s.flitError r).sinDrop c n) := by
  rw [s.flitError_eq hr]
  obtain ⟨hregs, hcup, hothers, hmoves⟩ := (s.countUp ⟨.rtrErr, r, 0⟩ 15 0).sinDrop_spec c n
  have hother (k : RegKey) (hk : k ≠ ⟨.cupSin, c, n⟩) :
      ((s.countUp ⟨.rtrErr, r, 0⟩ 15 0).sinDrop c n).reg k = (s.countUp ⟨.rtrErr, r, 0⟩ 15 0).reg k :=
    (State.reg_congr hregs k).trans (State.reg_setReg_ne _ _ hk)
  have hport : (s.countUp ⟨.rtrErr, r, 0⟩ 15 0).reg ⟨.cupSin, c, n⟩ = s.reg ⟨.cupSin, c, n⟩ :=
    State.reg_setReg_ne _ _ (by simp)
  refine ⟨?_, ?_, ?_, ?_, hothers, fun k hk => ?_, (s.movesCupRegs_setReg _ _).trans hmoves⟩
  · rw [State.fld_congr hregs, State.fld_countUp _ _ (by decide), State.fld, hport]
    rfl
  · rw [State.fld, hother _ (by simp)]
    exact s.fld_countUp _ (by decide)
  · rw [hcup, nget_nput_self]
    rfl
  · rw [hcup, nget_nput_self]
  · obtain ⟨hk1, hk2⟩ : k ≠ ⟨.cupSin, c, n⟩ ∧ k ≠ ⟨.rtrErr, r, 0⟩ := by simpa using hk
    rw [hother k hk1]
    exact State.reg_setReg_ne _ _ hk2

/-- A packet of the port's own stream reaches the port, damaged or not. -/
theorem execStreamInPacket_reaches {c : Fin 192} {n : Fin 4} {stream : Fin 16384} (hs : s.serving = true)
    (hk : s.cupRouter c.val = some k) (hbind : s.fld ⟨.cupSin, c.val, n.val⟩ 13 0 = stream.val)
    (hown : s.ownStream c.val stream.val = true) (hdst : ((s.stream stream.val).dstAt k 0).isSome = true)
    (hthere : s.cupGone c.val = false) :
    (∀ data, exec (.streamInPacket c n stream ⟨data, none⟩) s =
        .next ((s.streamArrive stream.val k 0).sinTake c.val n.val data)) ∧
      ∀ data (r : Fin 240), exec (.streamInPacket c n stream ⟨data, some r⟩) s =
        .next ((s.flitError r.val).sinDrop c.val n.val) := by
  have hcond : s.fld ⟨.cupSin, c.val, n.val⟩ 13 0 = stream.val ∧ s.ownStream c.val stream.val = true ∧
      ((s.stream stream.val).dstAt k 0).isSome = true ∧ s.cupGone c.val = false := ⟨hbind, hown, hdst, hthere⟩
  refine ⟨fun data => ?_, fun data r => ?_⟩
  · change execStreamInPacket c n stream ⟨data, none⟩ s = _
    rw [execStreamInPacket, whenServing_serving hs, hk]
    exact congrArg Host.Outcome.next (if_pos hcond)
  · change execStreamInPacket c n stream ⟨data, some r⟩ s = _
    rw [execStreamInPacket, whenServing_serving hs, hk]
    exact congrArg Host.Outcome.next (if_pos hcond)

/-! ### Stream-out ports (R96, R148, R150) -/

/-- The stream just updated. -/
theorem State.stream_modStream_self (s : State) (i : Nat) (f : StreamSt → StreamSt) :
    (s.modStream i f).stream i = f (s.stream i) := nget_nput_self _ _ _ _

/-- While a change is not prepared, and the packet at the head is one of its tree's source with slots of its own, none
goes on without a slot. -/
theorem State.streamFlow_waits {tr : Tree} (htree : (s.stream stream).tree = some tr) (hbe : tr.be = false)
    (hprep : (s.stream stream).prep = none)
    (hwait : ∀ w ∈ (s.stream stream).wait, tr.srcK = w.k ∧ tr.srcPort = w.p) : s.streamFlow stream = s := by
  unfold State.streamFlow State.flowSteps
  cases hlist : (s.stream stream).wait with
  | nil => rfl
  | cons w rest =>
    have hsource := hwait w (hlist ▸ List.mem_cons_self)
    have hswitch : s.switchTree stream = s := by rw [State.switchTree, hprep]
    dsimp only
    rw [hswitch, ite_self, htree]
    dsimp only
    rw [if_pos hsource, if_neg (by simp [hbe])]

/-- A packet of the source of a stream's tree waits in its buffer, behind those of the buffer. -/
theorem State.inject_waits {owner : Producer} {bytes : List Byte} {p : Nat} {tr : Tree} (hlen : 1 ≤ bytes.length)
    (hmax : bytes.length ≤ 9216) (htree : (s.stream stream).tree = some tr) (hk : tr.srcK = k) (hp : tr.srcPort = p)
    (hbe : tr.be = false) (hprep : (s.stream stream).prep = none)
    (hwait : ∀ w ∈ (s.stream stream).wait, w.k = k ∧ w.p = p) :
    s.inject stream k p owner bytes =
      (s.modStream stream fun x => { x with wait := x.wait ++ [{ owner, k, p, bytes }] }, true) := by
  have hsource : s.isSource stream k p = true := by
    simp [State.isSource, htree, hk, hp]
  have hstream := s.stream_modStream_self stream fun x => { x with wait := x.wait ++ [{ owner, k, p, bytes }] }
  rw [State.inject, if_pos ⟨hsource, hmax, hlen⟩]
  refine congrArg (·, true) (State.streamFlow_waits (tr := tr) ?_ hbe ?_ fun w hw => ?_)
  · rw [hstream]
    exact htree
  · rw [hstream]
    exact hprep
  · rw [hstream] at hw
    rcases List.mem_append.mp hw with hold | hnew
    · obtain ⟨hwk, hwp⟩ := hwait w hold
      exact ⟨hk.trans hwk.symm, hp.trans hwp.symm⟩
    · obtain rfl := List.mem_singleton.mp hnew
      exact ⟨hk, hp⟩

/-- A packet that goes onto its stream. -/
theorem State.soutSend_takes {r : Nat} {data : List Byte} {t : State} (hr : s.cupRouter c = some r)
    (hen : s.flag ⟨.cupSout, c, n⟩ 31 = true) (hown : s.ownStream c (s.fld ⟨.cupSout, c, n⟩ 13 0) = true)
    (ht : s.inject (s.fld ⟨.cupSout, c, n⟩ 13 0) r 0 (.sout c n) data = (t, true)) : s.soutSend c n data = t := by
  unfold State.soutSend
  rw [hr]
  dsimp only
  rw [if_pos (by rw [hen, hown]; rfl), ht]

/-- Where no tree of the stream starts at the cup the packet is counted. -/
theorem State.soutSend_lost {r : Nat} (hr : s.cupRouter c = some r)
    (hno : s.isSource (s.fld ⟨.cupSout, c, n⟩ 13 0) r 0 = false) (data : List Byte) :
    s.soutSend c n data = s.countUp ⟨.cupSout, c, n⟩ 29 14 := by
  have hinject : s.inject (s.fld ⟨.cupSout, c, n⟩ 13 0) r 0 (.sout c n) data = (s, false) :=
    if_neg (by simp [hno])
  unfold State.soutSend
  rw [hr]
  dsimp only
  rw [hinject]
  exact ite_self _

/-- A packet for which the buffer has room leaves the port. -/
theorem execStreamOutPacket_room {c : Fin 192} {n : Fin 4} {data : List Byte} (hs : s.serving = true)
    (hacts : s.portActs c.val (5 + n.val) = true) (hroom : s.soutRoom c.val n.val data.length = true) :
    exec (.streamOutPacket c n data) s = .next (s.soutSend c.val n.val data) := by
  change execStreamOutPacket c n data s = _
  rw [execStreamOutPacket, whenServing_serving hs, hacts, hroom]
  rfl

/-! ### Clears that end (R117) -/

/-- The words of a block that has been cleared read zero. -/
theorem nget_filter_block {α : Type} (m : List (Nat × α)) (d : α) {b a : Nat} (ha : a < 2048) :
    nget (m.filter fun e => e.1 / 2048 != b) (2048 * b + a) d = d := by
  have hblock : ((2048 * b + a) / 2048 != b) = false := by
    have : (2048 * b + a) / 2048 = b := by omega
    simp [this]
  rw [nget, lookD, look_filter_drop (fun i => i / 2048 != b) m _ hblock]
  rfl

/-- The block holds zeros, and its clear is over. -/
theorem State.clearBlock_spec (s : State) (c b : Nat) :
    (∀ a, a < 2048 → nget ((s.clearBlock c b).cup c).fab.bram (2048 * b + a) 0 = 0 ∧
        nget ((s.clearBlock c b).cup c).fab.bramErr (2048 * b + a) 0 = 0) ∧
      look ((s.clearBlock c b).cup c).clearing b = none ∧ (∀ d, d ≠ c → (s.clearBlock c b).cup d = s.cup d) ∧
      s.movesCups (s.clearBlock c b) := by
  refine ⟨fun a ha => ?_, ?_, fun d hd => ?_, rfl⟩
  · rw [State.clearBlock, State.cup_modCup_self]
    exact ⟨nget_filter_block _ _ ha, nget_filter_block _ _ ha⟩
  · rw [State.clearBlock, State.cup_modCup_self]
    exact look_erase_self _ _
  · rw [State.clearBlock, State.cup_modCup, if_neg hd]

/-! ### The request port (R98) -/

/-- A cup whose request port has taken a header: its TAG, and for a READ the room of its response. -/
def CupSt.asked (op tag len : Nat) (x : CupSt) : CupSt :=
  { x with rq := { x.rq with tags := x.rq.tags ++ [tag], room := if op = 0 then x.rq.room ++ [(tag, len)] else x.rq.room } }

/-- What a request and its target read is not in the cups. -/
theorem State.takes_modCup (s : State) (d : Nat) (f : CupSt → CupSt) (m a : Nat) : (s.modCup d f).takes m a = s.takes m a := rfl

theorem State.tagBusy_modCup (s : State) (d : Nat) (f : CupSt → CupSt) (m tag : Nat) :
    (s.modCup d f).tagBusy m tag = s.tagBusy m tag := rfl

theorem State.outgoing_modCup (s : State) (d : Nat) (f : CupSt → CupSt) (m tag : Nat) (op : ReqOp) (addr len : Nat) :
    (s.modCup d f).outgoing m tag op addr len = s.outgoing m tag op addr len := rfl

/-- A request that the port takes is issued. -/
theorem execCupRequest_takes {c : Fin 192} {op : Fin 16} {tag : Fin 64} {len : Nat} (addr : Nat) (data : List Byte)
    (hs : s.serving = true) (hacts : s.portActs c.val 9 = true)
    (htakes : (s.cup c.val).rq.takes op.val tag.val len = true) :
    exec (.cupRequest c op addr tag len data) s = .next (s.cupIssue c.val op.val addr tag.val len data) := by
  change execCupRequest c op addr tag len data s = _
  rw [execCupRequest, whenServing_serving hs, hacts, htakes]
  rfl

/-- A READ is the cup's tray request. -/
theorem State.cupIssue_read {addr tag len : Nat} (data : List Byte) (hlegal : legalExtent addr len = true)
    (htakes : s.takes c addr = true) (hfree : s.tagBusy c tag = false) :
    s.cupIssue c 0 addr tag len data = (s.modCup c (CupSt.asked 0 tag len)).issueRead c tag addr len .clean := by
  have hgo : ((s.modCup c (CupSt.asked 0 tag len)).takes c addr && !(s.modCup c (CupSt.asked 0 tag len)).tagBusy c tag) = true := by
    rw [State.takes_modCup, State.tagBusy_modCup, htakes, hfree]
    rfl
  rw [State.issueRead, if_pos hgo]
  unfold State.cupIssue
  dsimp only
  rw [if_neg (by decide), if_neg (by simp [hlegal]), if_pos rfl]
  rfl

/-- So is a WRITE. -/
theorem State.cupIssue_write {addr tag len : Nat} (data : List Byte) (hlegal : legalExtent addr len = true)
    (htakes : s.takes c addr = true) (hfree : s.tagBusy c tag = false) :
    s.cupIssue c 1 addr tag len data = (s.modCup c (CupSt.asked 1 tag len)).issueWrite c tag addr data .clean := by
  have hgo : ((s.modCup c (CupSt.asked 1 tag len)).takes c addr && !(s.modCup c (CupSt.asked 1 tag len)).tagBusy c tag) = true := by
    rw [State.takes_modCup, State.tagBusy_modCup, htakes, hfree]
    rfl
  rw [State.issueWrite, if_pos hgo]
  unfold State.cupIssue
  dsimp only
  rw [if_neg (by decide), if_neg (by simp [hlegal]), if_neg (by decide)]
  rfl

/-- A FENCE waits at the interface. -/
theorem State.cupIssue_fence {addr tag len : Nat} (data : List Byte) (hfree : s.fenced c = false) :
    s.cupIssue c 2 addr tag len data = (s.modCup c (CupSt.asked 2 tag len)).putFence c tag := by
  unfold State.cupIssue
  dsimp only
  rw [if_pos rfl]
  exact if_neg fun hheld => Bool.false_ne_true (hfree.symm.trans hheld)

/-- A request that is refused for its OP or its extent is sent and DENIED. -/
theorem State.cupIssue_refused {op addr tag len : Nat} (data : List Byte) (hfree : s.fenced c = false)
    (h : 2 < op ∨ op ≠ 2 ∧ legalExtent addr len = false) :
    s.cupIssue c op addr tag len data =
      ((s.modCup c (CupSt.asked op tag len)).issue c tag (cupOp op) addr len).denyIn (s.uniformAt addr) c tag := by
  have hop : op ≠ 2 := by omega
  have hbad : 2 < op ∨ legalExtent addr len = false := h.imp_right And.right
  unfold State.cupIssue
  dsimp only
  rw [if_neg hop, if_pos hbad]
  exact if_neg fun hheld => Bool.false_ne_true (hfree.symm.trans hheld)

/-! ### The statement -/

/-- Settles O18: each port takes what it may, by its own conditions, and passes it to the tray's own operations. -/
theorem cupPortsCarryStreamsAndRequests : Obligations.CupPortsCarryStreamsAndRequests := by
  unfold Obligations.CupPortsCarryStreamsAndRequests
  refine ⟨?bound, ?foreign, ?fits, ?damaged, ?waits, ?lost, ?cleared, ?read, ?write, ?fence, ?refused, ?untaken⟩
  case bound =>
    intro s m v c out n hacc hnot
    refine ⟨(s.plainWrite (bindKey c.val n.val out) v).answer m .ok, ?_, ?_, ?_, State.keepsRegs_of_setReg rfl, rfl⟩
    · change execStreamPortBindWrite m c out n v s = _
      rw [execStreamPortBindWrite, hnot, writeUnless_accepts hacc]
    · change bits ((s.plainWrite (bindKey c.val n.val out) v).reg _) 13 0 = _
      rw [State.reg_plainWrite, if_pos rfl]
      exact (bindKey_mergeWrite ..).1
    · change bit ((s.plainWrite (bindKey c.val n.val out) v).reg _) 31 = _
      rw [State.reg_plainWrite, if_pos rfl]
      exact bit_eq_of_bits (bindKey_mergeWrite ..).2
  case foreign =>
    intro s m v d c out n hacc hm hd hother
    change execStreamPortBindWrite m c out n v s = _
    rw [execStreamPortBindWrite, State.bindDenied_of_tenant hm hd hother, writeUnless_barred hacc, State.denyAccess_of_tenant hm hd]
  case fits =>
    intro s c n stream data k hs hk hbind hown hdst hthere hrun hsame hbound hen hfits
    refine ⟨_, (execStreamInPacket_reaches hs hk hbind hown hdst hthere).1 data, ?_⟩
    rw [← hsame] at hbound hfits ⊢
    exact State.sinTake_fits hrun hbound hen hfits
  case damaged =>
    intro s c n stream data k r hs hk hbind hown hdst hthere
    exact ⟨_, (execStreamInPacket_reaches hs hk hbind hown hdst hthere).2 data r, s.damaged_spec c.val n.val r.isLt⟩
  case waits =>
    intro s c n data r tr hs hacts hr hen hown hroom hlen hmax htree hk hp hbe hprep hwait
    rw [execStreamOutPacket_room hs hacts hroom,
      State.soutSend_takes hr hen hown (State.inject_waits hlen hmax htree hk hp hbe hprep hwait)]
  case lost =>
    intro s c n data r hs hacts hr hen hroom hno
    refine ⟨s.countUp ⟨.cupSout, c.val, n.val⟩ 29 14, ?_, s.fld_countUp _ (by decide), State.keepsRegs_of_setReg rfl, rfl⟩
    rw [execStreamOutPacket_room hs hacts hroom, State.soutSend_lost hr hno]
  case cleared =>
    intro s c b hs hdue
    refine ⟨s.clearBlock c.val b.val, ?_, s.clearBlock_spec c.val b.val⟩
    change execClearAtFlipDone c b s = _
    rw [execClearAtFlipDone, whenServing_serving hs]
    exact congrArg Host.Outcome.next (if_pos hdue)
  case read =>
    intro s c addr tag len data hs hacts hport hlegal htakes hfree
    rw [execCupRequest_takes addr data hs hacts hport]
    exact congrArg Host.Outcome.next (State.cupIssue_read data hlegal htakes hfree)
  case write =>
    intro s c addr tag len data hs hacts hport hlegal htakes hfree
    rw [execCupRequest_takes addr data hs hacts hport]
    exact congrArg Host.Outcome.next (State.cupIssue_write data hlegal htakes hfree)
  case fence =>
    intro s c addr tag len data hs hacts hport hfree
    refine ⟨(s.modCup c.val (CupSt.asked 2 tag.val len)).putFence c.val tag.val, ?_, ?_, rfl, rfl⟩
    · rw [execCupRequest_takes addr data hs hacts hport]
      exact congrArg Host.Outcome.next (State.cupIssue_fence data hfree)
    · change ((s.modCup c.val (CupSt.asked 2 tag.val len)).cup c.val).rq.tags = _
      rw [State.cup_modCup_self]
      rfl
  case refused =>
    intro s c op addr tag len data hs hacts hport hfree h
    refine ⟨(s.modCup c.val (CupSt.asked op.val tag.val len)).issue c.val tag.val (cupOp op.val) addr len, ?_, ?_, ?_⟩
    · have hop : 2 < op.val ∨ op.val ≠ 2 ∧ legalExtent addr len = false := h
      rw [execCupRequest_takes addr data hs hacts hport, State.cupIssue_refused data hfree hop]
    · change ((s.modCup c.val (CupSt.asked op.val tag.val len)).cup c.val).rq.tags = _
      rw [State.cup_modCup_self]
      rfl
    · rw [State.issue, State.outgoing_modCup]
      rfl
  case untaken =>
    intro s c op addr tag len data hno
    change execCupRequest c op addr tag len data s = _
    cases hs : s.serving with
    | false => rw [execCupRequest, whenServing_idle hs]
    | true =>
      rw [execCupRequest, whenServing_serving hs, hno, Bool.and_false]
      rfl

end Sys2Proof.Machine
end

section
/-! PROOF. FENCEs, responses, timeouts and held refusals: how a request that a master has issued ends (R136, R138, R143,
R144, R415). -/

namespace Sys2Proof.Machine

variable {s : State} {m tag : Nat}

/-! ### FENCE (R144) -/

/-- A FENCE that finds no other waits in its master's interface. -/
theorem exec_fence (hl : s.live = true) (hd : (s.midDomain m).isSome = true) (hi : s.mayIssue m tag) :
    exec (.fence m tag) s = .next (s.putFence m tag) := by
  change execFence m tag s = _
  rw [execFence, hl, hd, hi.1, hi.2]
  rfl

/-- While a WRITE of the master is outstanding its FENCE waits. -/
theorem exec_fenceComplete_early (hl : s.live = true)
    (hw : (s.outstanding.any fun o => o.mid == m && o.op == .write) = true) : exec (.fenceComplete m) s = .next s := by
  change execFenceComplete m s = _
  rw [execFenceComplete, whenLive_live hl, hw]
  split <;> rfl

/-- With none outstanding the FENCE completes, and where nothing waited behind it nothing else happens. -/
theorem exec_fenceComplete {f : Nat × Nat} (hl : s.live = true) (hf : s.fences.find? (fun e => e.1 == m) = some f)
    (hw : (s.outstanding.any fun o => o.mid == m && o.op == .write) = false)
    (hheld : s.heldReqs.filter (fun h => h.1 == m) = []) :
    exec (.fenceComplete m) s = .next
      ({ s with fences := s.fences.filter (fun g => g.1 != m),
                heldReqs := s.heldReqs.filter (fun h => h.1 != m) }.arrive { mid := m, tag := f.2, code := .ok }) := by
  change execFenceComplete m s = _
  rw [execFenceComplete, whenLive_live hl, hf]
  dsimp only
  rw [hw, hheld]
  rfl

/-! ### Responses (R136, R138, R143) -/

/-- On a way without an injected error a flit meets none but its own (R401). -/
theorem State.wayError_clear {l : List Nat} (h : s.clearWay l) (err : FlitErr) : s.wayError l err = (s, err, false) := by
  rw [State.wayError, h]

section

variable {r : Resp} {o : Outstanding} (hl : s.live = true)
  (hr : s.responses.find? (fun r => r.mid == m && r.tag == tag) = some r)
include hl hr

/-- A response to no request is discarded. -/
theorem exec_responseFlit_unasked (ho : s.outstanding.find? (fun o => o.mid == m && o.tag == tag) = none) :
    exec (.responseFlit m tag .clean) s = .next { s with responses := s.responses.erase r } := by
  change execResponseFlit m tag .clean s = _
  rw [execResponseFlit, whenLive_live hl, hr]
  dsimp only
  rw [ho]

variable (ho : s.outstanding.find? (fun o => o.mid == m && o.tag == tag) = some o)
include ho

/-- A response whose turn has not come waits. -/
theorem exec_responseFlit_waits (ht : s.respTurn o = false) (err : FlitErr) :
    exec (.responseFlit m tag err) s = .next s := by
  change execResponseFlit m tag err s = _
  rw [execResponseFlit, whenLive_live hl, hr]
  dsimp only
  rw [ho]
  dsimp only
  rw [ht]
  rfl

/-- A flit that meets no error on its way is taken. -/
theorem exec_responseFlit_taken (ht : s.respTurn o = true)
    (hw : s.clearWay (routersOn (s.place o.mid o.dst).1 (s.masterRouter o.mid))) :
    exec (.responseFlit m tag .clean) s = .next (s.takeFlit o r false) := by
  change execResponseFlit m tag .clean s = _
  rw [execResponseFlit, whenLive_live hl, hr]
  dsimp only
  rw [ho]
  dsimp only
  rw [ht, State.wayError_clear hw]
  rfl

end

/-- The last flit of a response completes its request. -/
theorem State.takeFlit_last {r : Resp} (o : Outstanding) (h : r.bytes.length ≤ 256) :
    s.takeFlit o r false = { s with responses := s.responses.erase r }.deliver o r := by
  rw [State.takeFlit, if_pos h, List.take_of_length_le h]
  rfl

/-- A flit that is not the last brings 256 bytes. -/
theorem State.takeFlit_part {r : Resp} (o : Outstanding) (h : 256 < r.bytes.length) :
    s.takeFlit o r false =
      { s with responses := { r with bytes := r.bytes.drop 256 } :: s.responses.erase r }.deliverPart o
        { r with bytes := r.bytes.take 256 } := by
  rw [State.takeFlit, if_neg (by omega)]
  rfl

/-- A response to a master that is no host function and no cup is shown, and its request is no longer outstanding. -/
theorem State.deliver_plain {o : Outstanding} {r : Resp} (ho : hostFn o.mid = none) (hr : ¬r.mid < 192) :
    s.deliver o r = { s with sent := .response r :: s.sent,
                             outstanding := s.outstanding.filter fun x => !(x.mid == o.mid && x.tag == o.tag) } := by
  unfold State.deliver State.arrive
  dsimp only
  rw [ho, if_neg fun h => hr h.1]
  rfl

/-! ### Timeouts (R138) -/

/-- A request outstanding for 2 ms completes UNCORRECTABLE. -/
theorem exec_requestTimeout {o : Outstanding} (hl : s.live = true)
    (ho : s.outstanding.find? (fun o => o.mid == m && o.tag == tag) = some o) (ht : o.issued + 500000 ≤ s.tick) :
    exec (.requestTimeout m tag) s = .next ((s.orphan m tag).deliver o { mid := m, tag, code := .uncorrectable }) := by
  change execRequestTimeout m tag s = _
  rw [execRequestTimeout, whenLive_live hl, ho]
  dsimp only
  rw [if_pos ht]

/-- No response on its way answers a request that has timed out. -/
theorem State.find_responses_orphan (s : State) (m tag : Nat) :
    (s.orphan m tag).responses.find? (fun r => r.mid == m && r.tag == tag) = none := by
  rw [List.find?_eq_none]
  intro r hr hasked
  obtain ⟨-, hkept⟩ := List.mem_filter.mp hr
  rw [hasked] at hkept
  exact Bool.false_ne_true hkept

/-- No access held at a queue answers it: what is left there stands under a tag that no request has. -/
theorem State.findStall_orphan (s : State) (m tag : Nat) : (s.orphan m tag).findStall m tag = none := by
  rw [State.findStall, List.find?_eq_none]
  intro x hx
  obtain ⟨y, -, rfl⟩ := List.mem_map.mp hx
  by_cases h : y.mid = m ∧ y.tag = tag
  · simp only [if_pos h, lateTag, decide_eq_true_eq]
    omega
  · simpa only [if_neg h, decide_eq_true_eq] using h

/-! ### Held refusals (R415) -/

/-- A DENIED whose latency is over joins the responses. -/
theorem exec_refusalLatencyExpiry {h : HeldRefusal} (hl : s.live = true ∨ s.stoppedSafe = true)
    (hf : s.refusals.find? (fun h => h.mid == m && h.tag == tag && decide (h.due ≤ s.root)) = some h) (hd : h.eff = .deny)
    (ho : (s.outstanding.any fun o => o.mid == h.mid && o.tag == h.tag) = true) (hm : inRange 0x400 0x443 h.mid = false) :
    exec (.refusalLatencyExpiry m tag) s = .next
      { s with refusals := s.refusals.erase h,
               responses := s.responses ++ [{ mid := h.mid, tag := h.tag, code := .denied }] } := by
  change execRefusalLatencyExpiry m tag s = _
  rw [execRefusalLatencyExpiry, if_pos hl, hf]
  dsimp only
  rw [State.release, hd]
  dsimp only
  rw [if_pos ho, State.respond_master hm]

/-- Before its latency is over a refusal does not appear. -/
theorem exec_refusalLatencyExpiry_early (h : ∀ h ∈ s.refusals, h.mid = m → h.tag = tag → s.root < h.due) :
    exec (.refusalLatencyExpiry m tag) s = .next s := by
  have hnone : s.refusals.find? (fun h => h.mid == m && h.tag == tag && decide (h.due ≤ s.root)) = none := by
    rw [List.find?_eq_none]
    intro x hx hdue
    simp only [Bool.and_eq_true, beq_iff_eq, decide_eq_true_eq] at hdue
    obtain ⟨⟨hm, ht⟩, hroot⟩ := hdue
    exact absurd (h x hx hm ht) (Nat.not_lt.mpr hroot)
  change execRefusalLatencyExpiry m tag s = _
  rw [execRefusalLatencyExpiry, hnone]
  exact congrArg Host.Outcome.next (ite_self _)

/-! ### The statement -/

/-- Settles O14: each command of a master's interface has one condition for its effect, and waits where that fails. -/
theorem fencesResponsesAndTimeouts : Obligations.FencesResponsesAndTimeouts := by
  unfold Obligations.FencesResponsesAndTimeouts
  refine ⟨?fence, ?early, ?completes, ?last, ?part, ?waits, ?plain, ?unasked, ?timeout, ?orphan, ?refused, ?held⟩
  case fence => exact fun s m tag hl hd hi => exec_fence hl hd hi
  case early => exact fun s m hl hw => exec_fenceComplete_early hl hw
  case completes => exact fun s m f hl hf hw hheld => exec_fenceComplete hl hf hw hheld
  case last =>
    intro s m tag r o hl hr ho ht hw hlen
    rw [exec_responseFlit_taken hl hr ho ht hw, State.takeFlit_last o hlen]
  case part =>
    intro s m tag r o hl hr ho ht hw hlen
    rw [exec_responseFlit_taken hl hr ho ht hw, State.takeFlit_part o hlen]
  case waits => exact fun s m tag r o err hl hr ho ht => exec_responseFlit_waits hl hr ho ht err
  case plain => exact fun s o r ho hr => State.deliver_plain ho hr
  case unasked => exact fun s m tag r hl hr ho => exec_responseFlit_unasked hl hr ho
  case timeout => exact fun s m tag o hl ho ht => exec_requestTimeout hl ho ht
  case orphan => exact fun s m tag => ⟨s.find_responses_orphan m tag, s.findStall_orphan m tag⟩
  case refused => exact fun s m tag h hl hf hd ho hm => exec_refusalLatencyExpiry hl hf hd ho hm
  case held => exact fun s m tag _ h => exec_refusalLatencyExpiry_early h

end Sys2Proof.Machine
end

section
/-! PROOF. Tray requests: how one is issued, crosses the tray and is carried out, and what a damaged or malformed one gets
(R8, R134 to R138, R142, R434). -/

namespace Sys2Proof.Machine

variable {s : State} {m tag a : Nat}

/-! ### Issue and way -/

/-- A READ that the target's block takes is recorded and carried out. -/
theorem exec_read (ht : s.takes m a = true) (hi : s.mayIssue m tag) (len : Nat) (err : FlitErr) :
    exec (.read m tag a len err) s =
      .next ((s.issue m tag .read a len).perform m tag (.read a len err)) := by
  change execRead m tag a len err s = _
  rw [execRead, State.issueRead, ht, hi.1, State.request, hi.2]
  rfl

/-- So is a WRITE. -/
theorem exec_write (ht : s.takes m a = true) (hi : s.mayIssue m tag) (d : List Byte) (err : FlitErr) :
    exec (.write m tag a d err) s =
      .next ((s.issue m tag .write a d.length).perform m tag (.write a d err)) := by
  change execWrite m tag a d err s = _
  rw [execWrite, State.issueWrite, ht, hi.1, State.request, hi.2]
  rfl

/-- DBGACC without data is JTAG's READ, and with data its WRITE. -/
theorem exec_dbgacc_read (s : State) (tag a len : Nat) :
    exec (.dbgacc tag a len none) s = exec (.read 0x181 tag a len .clean) s := rfl

theorem exec_dbgacc_write (s : State) (tag a len : Nat) (d : List Byte) :
    exec (.dbgacc tag a len (some d)) s = exec (.write 0x181 tag a d .clean) s := rfl

/-- On a way without an injected error a request meets its own error alone (R401). -/
theorem State.wayError_issue (hw : s.clearWay (s.wayOut m a)) (op : ReqOp) (len : Nat) (err : FlitErr) :
    (s.issue m tag op a len).wayError ((s.issue m tag op a len).wayOut m a) err =
      (s.issue m tag op a len, err, false) :=
  State.wayError_clear (s := s.issue m tag op a len) hw err

/-- A READ without an error reaches its target. -/
theorem State.perform_read_clean (hw : s.clearWay (s.wayOut m a)) (len : Nat) :
    (s.issue m tag .read a len).perform m tag (.read a len .clean) =
      (s.issue m tag .read a len).readAt m tag a len := by
  rw [State.perform, State.wayError_issue hw]

/-- So does a WRITE. -/
theorem State.perform_write_clean (hw : s.clearWay (s.wayOut m a)) (d : List Byte) :
    (s.issue m tag .write a d.length).perform m tag (.write a d .clean) =
      (s.issue m tag .write a d.length).writeAt m tag a d := by
  rw [State.perform, State.wayError_issue hw]

/-- A READ whose header is damaged is lost at the router that finds it (R138). -/
theorem State.perform_read_header (hw : s.clearWay (s.wayOut m a)) (len : Nat) (k : Nat) :
    (s.issue m tag .read a len).perform m tag (.read a len (.header k)) =
      (s.issue m tag .read a len).injected false fun s => (s.loseRequest m tag).headerError k := by
  rw [State.perform, State.wayError_issue hw]

/-- So is a WRITE. -/
theorem State.perform_write_header (hw : s.clearWay (s.wayOut m a)) (d : List Byte) (k : Nat) :
    (s.issue m tag .write a d.length).perform m tag (.write a d (.header k)) =
      (s.issue m tag .write a d.length).injected false fun s => (s.loseRequest m tag).headerError k := by
  rw [State.perform, State.wayError_issue hw]

/-- Damaged write data is counted at the router that finds it, and the target discards the write (R138). -/
theorem State.perform_write_data (hw : s.clearWay (s.wayOut m a)) (d : List Byte) (k : Nat) :
    (s.issue m tag .write a d.length).perform m tag (.write a d (.data k)) =
      ((s.issue m tag .write a d.length).flitError k).writeDamaged m tag a d := by
  rw [State.perform, State.wayError_issue hw]

/-- No answer comes to a request that is lost. -/
theorem State.lost_of_mem_loseRequest {o : Outstanding} (ho : o ∈ (s.loseRequest m tag).outstanding) (hm : o.mid = m)
    (ht : o.tag = tag) : o.lost = true := by
  obtain ⟨x, -, rfl⟩ := List.mem_map.mp ho
  by_cases h : x.mid = m ∧ x.tag = tag
  · rw [if_pos h]
  · rw [if_neg h] at hm ht
    exact absurd ⟨hm, ht⟩ h

/-! ### Refusals (R135, R142, R415) -/

/-- A refused request of a master of the tray: held to the uniform latency, or DENIED at once. -/
theorem State.denyIn_master (hm : inRange 0x400 0x443 m = false) (win : Bool) :
    s.denyIn win m tag =
      if win || s.isTenant m then
        { s with refusals := s.refusals ++ [{ mid := m, tag, due := s.root + 8000, eff := .deny }] }
      else { s with responses := s.responses ++ [{ mid := m, tag, code := .denied }] } := by
  rw [State.denyIn, State.respond_master hm]
  rfl

/-- A READ of an extent that is not legal is refused whatever its target. -/
theorem State.readAt_illegal {len : Nat} (h : legalExtent a len = false) :
    s.readAt m tag a len = s.denyIn (s.uniformAt a) m tag := by
  rw [State.readAt, h]
  rfl

/-- The count of an error moves no domain. -/
theorem State.midDomain_flitError (s : State) (k n : Nat) : (s.flitError k).midDomain n = s.midDomain n := by
  have hreg (j : RegKey) (hj : j.name ≠ .rtrErr) : (s.flitError k).reg j = s.reg j := by
    unfold State.flitError
    split
    · exact State.reg_setReg_ne _ _ fun e => hj (e ▸ rfl)
    · rfl
  have hcup (c : Nat) : (s.flitError k).cupDom c = s.cupDom c := congrArg (bits · 7 0) (hreg _ (by simp))
  have hcore (c : Nat) : (s.flitError k).coreDom c = s.coreDom c := congrArg (bits · 7 0) (hreg _ (by simp))
  have hsess : (s.flitError k).sess = s.sess := by
    unfold State.flitError
    split <;> rfl
  have hdom (i : Nat) : (s.flitError k).sessDom i = s.sessDom i := by
    rw [State.sessDom, State.session, hsess]
    rfl
  simp only [State.midDomain, hcup, hcore, hdom]

/-- Damaged data answers UNCORRECTABLE where the master's rights reach the target. -/
theorem State.writeDamaged_reached {d : List Byte} (hm : inRange 0x400 0x443 m = false) (h : s.writeBar m a d = none) :
    s.writeDamaged m tag a d = { s with responses := s.responses ++ [{ mid := m, tag, code := .uncorrectable }] } := by
  rw [State.writeDamaged, h]
  exact State.respond_master hm ..

/-- Where they do not, the master is told no more than that. -/
theorem State.writeDamaged_denied {d : List Byte} (hm : inRange 0x400 0x443 m = false)
    (h : s.writeBar m a d = some .denied) (hu : s.uniformAt a = false) (ht : s.isTenant m = false) :
    s.writeDamaged m tag a d = { s with responses := s.responses ++ [{ mid := m, tag, code := .denied }] } := by
  rw [State.writeDamaged, h]
  dsimp only
  rw [State.finish, if_pos rfl, hu, State.denyIn_master hm, ht]
  rfl

/-- A router below its limit counts one error more, and nothing else changes. -/
theorem State.flitError_spec (s : State) {k : Nat} (hk : k < 240) (hc : s.fld ⟨.rtrErr, k, 0⟩ 15 0 < 65535) :
    (s.flitError k).fld ⟨.rtrErr, k, 0⟩ 15 0 = s.fld ⟨.rtrErr, k, 0⟩ 15 0 + 1 ∧
      s.keepsRegs (s.flitError k) [⟨.rtrErr, k, 0⟩] ∧ s.flitError k = { s with regs := (s.flitError k).regs } := by
  rw [s.flitError_eq hk]
  refine ⟨?_, State.keepsRegs_of_setReg rfl, rfl⟩
  rw [s.fld_countUp _ (by decide)]
  exact Nat.min_eq_left (by omega)

/-! ### DEV_ID over JTAG (R8, R434) -/

/-- The first word of register space is DEV_ID. -/
theorem State.target_devId (s : State) : s.target 0xF000000000 = .owner 0 := rfl

/-- The read of a register in the owner window answers its word. -/
theorem State.readAt_owner {o len : Nat} {k : RegKey} (hlen : legalExtent a len = true) (ht : s.target a = .owner o)
    (h : s.spaceRead m 0 o len = (s, .ok, wordBytes (s.reg k))) (hm : inRange 0x400 0x443 m = false) :
    s.readAt m tag a len =
      { s with responses := s.responses ++ [{ mid := m, tag, code := .ok, bytes := wordBytes (s.reg k) }] } := by
  unfold State.readAt
  dsimp only
  rw [hlen, ht]
  dsimp only
  rw [h]
  dsimp only
  rw [State.finish, State.respond_master hm]
  rfl

/-- A read of DEV_ID changes nothing. -/
theorem State.spaceRead_devId (hl : s.latched 0x181 ⟨.devId, 0, 0⟩ = none) :
    s.spaceRead 0x181 0 0 4 = (s, .ok, wordBytes (s.reg ⟨.devId, 0, 0⟩)) := by
  have hread := spaceRead_owner (s := s) (m := 0x181) (o := 0) (k := ⟨.devId, 0, 0⟩) rfl rfl rfl rfl rfl (by decide)
  have heffect : s.readEffect 0x181 0 ⟨.devId, 0, 0⟩ = s := by
    rw [State.readEffect_eq s 0x181 0 (by decide) (by decide), State.latchRead_of_no_high 0 hl rfl]
    rfl
  rw [hread, heffect, State.readValue, hl]
  rfl

/-! ### The statement -/

/-- Settles O12: a request is recorded, meets the errors of its way, and is carried out by its target or refused. -/
theorem requestsAreIssuedAndCarriedOut : Obligations.RequestsAreIssuedAndCarriedOut := by
  unfold Obligations.RequestsAreIssuedAndCarriedOut
  refine ⟨?read, ?write, ?dbgRead, ?dbgWrite, ?readLost, ?writeLost, ?lost, ?illegal, ?damaged, ?denied, ?counted, ?devId⟩
  case read =>
    intro s m tag a len ht hi hw
    rw [exec_read ht hi, State.perform_read_clean hw]
  case write =>
    intro s m tag a d ht hi hw
    rw [exec_write ht hi, State.perform_write_clean hw]
  case dbgRead =>
    intro s tag a len ht hi hw
    rw [exec_dbgacc_read, exec_read ht hi, State.perform_read_clean hw]
  case dbgWrite =>
    intro s tag a d ht hi hw
    rw [exec_dbgacc_write, exec_write ht hi, State.perform_write_clean hw]
  case readLost =>
    intro s m tag a len k ht hi hw
    rw [exec_read ht hi, State.perform_read_header hw]
  case writeLost =>
    intro s m tag a d k ht hi hw
    rw [exec_write ht hi, State.perform_write_header hw]
  case lost => exact fun s m tag o ho hm ht => State.lost_of_mem_loseRequest ho hm ht
  case illegal =>
    intro s m tag a len ht hi hw hlen hm
    rw [exec_read ht hi, State.perform_read_clean hw, State.readAt_illegal hlen, State.denyIn_master hm]
    rfl
  case damaged =>
    intro s m tag a d k ht hi hw hm u hbar
    rw [exec_write ht hi, State.perform_write_data hw, State.writeDamaged_reached hm hbar]
  case denied =>
    intro s m tag a d k ht hi hw htenant hm u hbar hu
    have hplain : u.isTenant m = false := by
      rw [State.isTenant, State.midDomain_flitError]
      exact htenant
    rw [exec_write ht hi, State.perform_write_data hw, State.writeDamaged_denied hm hbar hu hplain]
  case counted => exact fun s k hk hc => s.flitError_spec hk hc
  case devId =>
    intro s tag hr hi hl hw
    have ht : s.takes 0x181 0xF000000000 = true := takes_owner s.target_devId rfl rfl hr rfl
    have hread := State.spaceRead_devId (s := s.issue 0x181 tag .read 0xF000000000 4) hl
    rw [exec_read ht hi, State.perform_read_clean hw, State.readAt_owner rfl (State.target_devId _) hread rfl]
    rfl

end Sys2Proof.Machine
end

section
/-! PROOF. Collectors: requests that become pending, wait for a credit or are refused, the completion accepted in a tray
cycle, and the registers that pop and clear (R158 to R163, R170). -/

namespace Sys2Proof.Machine

variable {s : State} {m tag n : Nat}

/-! ### Requests on their way to a collector (R159 to R161) -/

/-- A request of a master without a pending FENCE is issued and carried out. -/
theorem State.request_issued (hf : s.fenced m = false) (op : ReqOp) (r : Req) (f : State → State) :
    s.request m tag op r f = f (s.issue m tag op (s.reqSpan m r).1 (s.reqSpan m r).2) :=
  if_neg fun h => Bool.false_ne_true (hf.symm.trans h)

/-- Master m's interface has sent a request, a message or not, to collector n's aperture. -/
def State.sendCol (s : State) (m tag n : Nat) (msg : Bool) : State := s.issue m tag .write (s.signalAddr m n msg) 32

theorem exec_signal {n : Fin 64} (hl : s.live = true) (hi : s.mayIssue m tag) :
    exec (.signal m tag n) s = .next ((s.sendCol m tag n.val false).colSend m tag n.val none) := by
  change execSignal m tag n s = _
  rw [execSignal, whenLive_live hl, State.request_issued hi.2]
  rfl

theorem exec_message {n : Fin 64} {bytes : List Byte} (hl : s.live = true) (hi : s.mayIssue m tag)
    (hb : bytes.length = 32) :
    exec (.message m tag n bytes) s = .next ((s.sendCol m tag n.val true).colSend m tag n.val (some bytes)) := by
  change execMessage m tag n bytes s = _
  rw [execMessage, whenLive_live hl, if_pos hb, State.request_issued hi.2]
  rfl

/-- An element of the collectors after an update of one. -/
theorem State.col_modCol (s : State) (n j : Nat) (f : ColSt → ColSt) :
    (s.modCol n f).col j = if j = n then f (s.col n) else s.col j := nget_nput ..

/-- The collector just updated. -/
@[simp] theorem State.col_modCol_self (s : State) (n : Nat) (f : ColSt → ColSt) : (s.modCol n f).col n = f (s.col n) :=
  nget_nput_self ..

/-- An update of one collector leaves the others. -/
theorem State.col_modCol_ne (s : State) {n j : Nat} (h : j ≠ n) (f : ColSt → ColSt) : (s.modCol n f).col j = s.col j :=
  (s.col_modCol n j f).trans (if_neg h)

/-- A master whose domain stands and whose writes the token lets through is recorded under its entry. -/
theorem State.colWould_of_entry {d : Nat} (hd : s.midDomain m = some d) (ht : s.lacksToken m = false)
    (he : ((tenantOf d).any fun t => !s.tenantExists t) = false) : s.colWould m n = s.colIndex n m d := by
  rw [State.colWould, hd]
  dsimp only
  rw [ht, he]
  rfl

/-- A request that needs no credit, or has one, and finds none of its source before it reaches its collector. -/
theorem State.colSend_reaches (hw : ((s.col n).waiting.any fun e => e.1 == m) = false) {msg : Option (List Byte)}
    (hc : (msg.isSome && s.noCredit m n) = false) : s.colSend m tag n msg = s.colReach m tag n msg :=
  if_neg (by simp [hw, hc])

/-- A request that an entry names is pending. -/
theorem State.colReach_pending (h : (s.colWould m n).isSome = true) (msg : Option (List Byte)) :
    s.colReach m tag n msg = s.modCol n fun x => { x with queued := x.queued ++ [(m, tag, msg)] } := if_pos h

/-- A request that no entry names is refused. -/
theorem State.colReach_refused (h : s.colWould m n = none) (msg : Option (List Byte)) :
    s.colReach m tag n msg = s.denyTray m tag := if_neg (by simp [h])

/-- A message without a credit waits at its source. -/
theorem State.colSend_waits (hc : s.noCredit m n = true) (bytes : List Byte) :
    s.colSend m tag n (some bytes) = s.modCol n fun x => { x with waiting := x.waiting ++ [(m, tag, some bytes)] } :=
  if_pos (by simp [hc])

/-- A request of a source that the collector names, with its credit, is pending there, and nothing else changes. -/
theorem State.colSend_pending {d i : Nat} {msg : Option (List Byte)} {b : Bool} (hd : s.midDomain m = some d)
    (hi : s.colIndex n m d = some i) (ht : s.lacksToken m = false)
    (he : ((tenantOf d).any fun t => !s.tenantExists t) = false)
    (hw : ((s.col n).waiting.any fun e => e.1 == m) = false) (hc : (msg.isSome && s.noCredit m n) = false) :
    (s.sendCol m tag n b).colSend m tag n msg =
      (s.sendCol m tag n b).modCol n fun x => { x with queued := x.queued ++ [(m, tag, msg)] } := by
  have hwould : s.colWould m n = some i := (State.colWould_of_entry hd ht he).trans hi
  have hpending : ((s.sendCol m tag n b).colWould m n).isSome = true := by
    change (s.colWould m n).isSome = true
    rw [hwould]
    rfl
  rw [State.colSend_reaches (s := s.sendCol m tag n b) hw hc, State.colReach_pending hpending]

/-- What a pending request leaves: its collector's queue of requests, and the record of its interface. -/
theorem State.pending_spec (s : State) (m tag n : Nat) (b : Bool) (e : Nat × Nat × Option (List Byte)) :
    let t := (s.sendCol m tag n b).modCol n fun x => { x with queued := x.queued ++ [e] }
    (t.col n).queued = (s.col n).queued ++ [e] ∧ (t.col n).msgs = (s.col n).msgs ∧
      (∀ n', n' ≠ n → t.col n' = s.col n') ∧
      t = { s with cols := t.cols, outstanding := s.outstanding ++ [s.outgoing m tag .write (s.signalAddr m n b) 32] } := by
  refine ⟨?_, ?_, fun n' hn => State.col_modCol_ne _ hn _, rfl⟩
  · rw [State.col_modCol_self]
    rfl
  · rw [State.col_modCol_self]
    rfl

/-! ### The completion accepted in a tray cycle (R160, R170) -/

/-- A collector takes the pending request of least index. -/
theorem State.colNext_eq_argmin (s : State) (n : Nat) :
    s.colNext n = List.argmin (fun e : Nat × Nat × Option (List Byte) => (s.colWould e.1 n).getD 256) (s.col n).queued := by
  unfold State.colNext List.argmin
  congr 1
  funext best e
  cases best <;> rfl

/-- Without an address to notify a change of the vector only shows in DONE. -/
theorem State.colAfter_silent (h : s.pair ⟨.colNotify, n, 0⟩ ⟨.colNotifyHi, n, 0⟩ = 0) (s0 : State) :
    s.colAfter s0 n = s := if_neg (by simp [h])

/-- The messages that a collector holds once it has accepted a completion of master m at index i. -/
def State.msgsWith (s : State) (m n i : Nat) (msg : Option (List Byte)) : List ColMsg :=
  match msg with
  | some bytes =>
    if s.flag ⟨.colCfg, n, 0⟩ 30 then insertMsg (s.col n).msgs { idx := i, src := originOf m, tick := s.tick, bytes }
    else (s.col n).msgs
  | none => (s.col n).msgs

/-- A completion has set its bit of collector n, and is the one accepted last. -/
def State.marked (s : State) (n i : Nat) : State :=
  (s.setFlag ⟨.colVec, n, i / 32⟩ (i % 32) true).modCol n fun x => { x with last := some (s.trayCycle, i) }

/-- A state that comes of s by the completion of index i: its bit is set, and of the collectors n alone has changed, with
the requests it had and these messages. -/
structure State.Completed (s : State) (n i : Nat) (msgs : List ColMsg) (t : State) : Prop where
  regs : t.regs = (s.setFlag ⟨.colVec, n, i / 32⟩ (i % 32) true).regs
  queued : (t.col n).queued = (s.col n).queued
  msgs : (t.col n).msgs = msgs
  others : ∀ n', n' ≠ n → t.col n' = s.col n'
  rest : t = { s with regs := t.regs, cols := t.cols }

theorem State.completed_marked (s : State) (n i : Nat) : s.Completed n i (s.col n).msgs (s.marked n i) where
  regs := rfl
  queued := by rw [State.marked, State.col_modCol_self]; rfl
  msgs := by rw [State.marked, State.col_modCol_self]; rfl
  others _ hn := State.col_modCol_ne _ hn _
  rest := rfl

theorem State.completed_message (s : State) (n i : Nat) (f : List ColMsg → List ColMsg) :
    s.Completed n i (f (s.col n).msgs) ((s.marked n i).modCol n fun x => { x with msgs := f x.msgs }) where
  regs := rfl
  queued := by rw [State.col_modCol_self]; exact (s.completed_marked n i).queued
  msgs := by rw [State.col_modCol_self, ← (s.completed_marked n i).msgs]
  others _ hn := (State.col_modCol_ne _ hn _).trans ((s.completed_marked n i).others _ hn)
  rest := rfl

/-- The setting of a bit of the vector leaves the address to notify. -/
theorem State.Completed.silent {i : Nat} {msgs : List ColMsg} {t : State} (h : s.Completed n i msgs t)
    (hp : s.pair ⟨.colNotify, n, 0⟩ ⟨.colNotifyHi, n, 0⟩ = 0) : t.colAfter s n = t := by
  have hreg (k : RegKey) (hk : k.name ≠ .colVec) : t.reg k = s.reg k :=
    (State.reg_congr h.regs k).trans (State.reg_setReg_ne _ _ fun e => hk (e ▸ rfl))
  refine State.colAfter_silent ?_ s
  rw [State.pair, hreg _ (by simp), hreg _ (by simp)]
  exact hp

/-- Where nothing is notified a completion sets its bit, and joins its message to those held. -/
theorem State.completed_complete (i : Nat) (msg : Option (List Byte))
    (hp : s.pair ⟨.colNotify, n, 0⟩ ⟨.colNotifyHi, n, 0⟩ = 0) :
    s.Completed n i (s.msgsWith m n i msg) (s.complete m n i msg) := by
  have hmarked := s.completed_marked n i
  cases msg with
  | none =>
    have heq : s.complete m n i none = s.marked n i := hmarked.silent hp
    rw [heq]
    exact hmarked
  | some bytes =>
    unfold State.complete State.msgsWith
    dsimp only
    cases s.flag ⟨.colCfg, n, 0⟩ 30 with
    | false =>
      have heq : (s.marked n i).colAfter s n = s.marked n i := hmarked.silent hp
      exact heq ▸ hmarked
    | true =>
      have hmsg := s.completed_message n i
        (insertMsg · { idx := i, src := originOf m, tick := s.tick, bytes })
      have heq := hmsg.silent hp
      rw [if_pos rfl, if_pos rfl]
      exact heq.symm ▸ hmsg

/-- What is accepted leaves the requests pending, and the rest of the collector as it was. -/
def State.colTaken (s : State) (n : Nat) (e : Nat × Nat × Option (List Byte)) : State :=
  s.modCol n fun x => { x with queued := x.queued.erase e }

/-- A collector that takes a request accepts it as the completion of its index, and answers OK. -/
theorem State.colServe_eq {msg : Option (List Byte)} {i : Nat} (he : s.colNext n = some (m, tag, msg))
    (hi : s.colWould m n = some i) :
    s.colServe n = ((s.colTaken n (m, tag, msg)).complete m n i msg).respond m tag .ok := by
  have hwould : (s.colTaken n (m, tag, msg)).colWould m n = some i := hi
  rw [State.colServe, he]
  change (s.colTaken n (m, tag, msg)).colAccept m tag n msg = _
  rw [State.colAccept, hwould]

/-! ### Registers (R161 to R163) -/

/-- A collector where no request waits for a credit. -/
theorem State.colRelease_idle (h : (s.col n).waiting = []) : s.colRelease n = s.modCol n fun x => { x with waiting := [] } := by
  rw [State.colRelease, h]
  rfl

theorem State.writePop_head {v : Word} (hv : bit v 0 = true) (hw : (s.col n).waiting = []) (hm : (s.col n).msgs ≠ []) :
    s.writePop n v = (s.modCol n fun x => { x with msgs := x.msgs.drop 1 }).modCol n fun x => { x with waiting := [] } := by
  rw [State.writePop, if_pos ⟨hv, hm⟩, State.colRelease_idle]
  rw [State.col_modCol_self]
  exact hw

/-! ### The statement -/

/-- Settles O17: a request is pending, waits or is refused at its source's interface; the one pending of least index is
accepted as a tray cycle begins. -/
theorem collectorsTakeCompletions : Obligations.CollectorsTakeCompletions := by
  unfold Obligations.CollectorsTakeCompletions
  refine ⟨?signal, ?message, ?waits, ?refused, ?least, ?served, ?between, ?popped, ?cleared⟩
  case signal =>
    intro s m tag n d i hl hm hd hi ht he hw
    exact ⟨_, (exec_signal hl hm).trans (congrArg _ (State.colSend_pending hd hi ht he hw rfl)), s.pending_spec m tag n false _⟩
  case message =>
    intro s m tag n bytes d i hl hm hb hd hi ht he hw hc
    exact ⟨_, (exec_message hl hm hb).trans (congrArg _ (State.colSend_pending hd hi ht he hw hc)),
      s.pending_spec m tag n true _⟩
  case waits =>
    intro s m tag n bytes hl hm hb hc
    have hwait := State.colSend_waits (s := s.sendCol m tag n true) (tag := tag) hc bytes
    refine ⟨_, (exec_message hl hm hb).trans (congrArg _ hwait), ?_, ?_, rfl⟩
    · rw [State.col_modCol_self]
      rfl
    · rw [State.col_modCol_self]
      rfl
  case refused =>
    intro s m tag n d hl hm hd hno hw hten hmid
    have hwould : (s.sendCol m tag n false).colWould m n = none := by
      change s.colWould m n = none
      rw [State.colWould, hd]
      dsimp only
      rw [hno, ite_self]
    have hplain : (s.sendCol m tag n false).isTenant m = false := hten
    rw [exec_signal hl hm, State.colSend_reaches (s := s.sendCol m tag n false) hw rfl, State.colReach_refused hwould,
      State.denyTray, State.denyIn_master hmid, hplain]
    rfl
  case least =>
    intro s n e he
    have hmin : e ∈ List.argmin (fun e : Nat × Nat × Option (List Byte) => (s.colWould e.1 n).getD 256) (s.col n).queued :=
      (s.colNext_eq_argmin n).symm.trans he
    exact ⟨List.argmin_mem hmin, fun x hx => List.le_of_mem_argmin hx hmin⟩
  case served =>
    intro s n m tag msg i he hi _ hp hm
    have hdone := (s.colTaken n (m, tag, msg)).completed_complete (m := m) (n := n) i msg hp
    have htaken : (s.colTaken n (m, tag, msg)).col n = { s.col n with queued := (s.col n).queued.erase (m, tag, msg) } :=
      State.col_modCol_self ..
    have hmsgs : (s.colTaken n (m, tag, msg)).msgsWith m n i msg = s.msgsWith m n i msg := by
      unfold State.msgsWith
      rw [htaken]
      rfl
    rw [State.colServe_eq he hi, State.respond_master hm]
    generalize (s.colTaken n (m, tag, msg)).complete m n i msg = t at hdone
    refine ⟨?_, ?_, fun bytes hb hq => ?_, fun hno => ?_, fun n' hn => ?_, ?_, ?_⟩
    · change t.flag _ _ = true
      rw [State.flag, State.reg_congr hdone.regs]
      exact State.flag_setFlag_self _ _ _ _ (Nat.mod_lt _ (by decide))
    · exact hdone.queued.trans (congrArg ColSt.queued htaken)
    · refine hdone.msgs.trans (hmsgs.trans ?_)
      rw [hb, State.msgsWith, if_pos hq]
    · refine hdone.msgs.trans (hmsgs.trans ?_)
      cases msg with
      | none => rfl
      | some bytes => exact if_neg (by simpa using hno)
    · exact (hdone.others n' hn).trans (State.col_modCol_ne _ hn _)
    · exact State.keepsRegs_of_setReg hdone.regs
    · have hrest := hdone.rest
      rw [hrest]
      rfl
  case between => exact fun s h => if_neg h
  case popped =>
    intro s m v n ha hv hw hm
    refine ⟨(s.writePop n v).answer m .ok, writeCommand_accepts ha v _, ?_, ?_⟩
    · change ((s.writePop n v).col n).msgs = _
      rw [State.writePop_head hv hw hm, State.col_modCol_self, State.col_modCol_self]
    · rw [State.writePop_head hv hw hm]
      rfl
  case cleared =>
    intro s m v n w ha
    exact ⟨(s.writeVec n w v).answer m .ok, writeCommand_accepts ha v _, State.reg_setReg_self .., State.keepsRegs_of_setReg rfl,
      rfl⟩

end Sys2Proof.Machine
end

section
/-! PROOF. Stream states (R154 to R156): what a change at a destination, a new tree and a DEGRADED that clears leave of the
streams, and that beside them only cups hear of it. -/

namespace Sys2Proof.Machine

variable {s : State} {n d : Nat}

/-! ### Streams by index -/

/-- A stream after an update of one. -/
theorem State.stream_modStream (s : State) (i j : Nat) (f : StreamSt → StreamSt) :
    (s.modStream i f).stream j = if j = i then f (s.stream i) else s.stream j := nget_nput ..

/-- An update of one stream leaves the others. -/
theorem State.stream_modStream_ne (s : State) {i j : Nat} (h : j ≠ i) (f : StreamSt → StreamSt) :
    (s.modStream i f).stream j = s.stream j := (s.stream_modStream i j f).trans (if_neg h)

/-- From s to t nothing but streams, and cups that hear of them, has changed. -/
def State.movesStreams (s t : State) : Prop := t = { s with streams := t.streams, cups := t.cups }

theorem State.movesStreams.trans {t u : State} (h : s.movesStreams t) (g : t.movesStreams u) : s.movesStreams u := by
  unfold State.movesStreams at *
  rw [h] at g
  exact g

theorem State.movesStreams.regs {t : State} (h : s.movesStreams t) : t.regs = s.regs := (congrArg State.regs h :)

theorem State.movesStreams.root {t : State} (h : s.movesStreams t) : t.root = s.root := (congrArg State.root h :)

theorem State.movesStreams_modStream (s : State) (n : Nat) (f : StreamSt → StreamSt) : s.movesStreams (s.modStream n f) := rfl

theorem State.movesCups.movesStreams {t : State} (h : s.movesCups t) : s.movesStreams t := by
  rw [h]
  rfl

theorem State.movesStreams_foldl {ι : Type} {step : State → ι → State} (h : ∀ (s : State) i, s.movesStreams (step s i))
    (l : List ι) (s : State) : s.movesStreams (l.foldl step s) :=
  List.foldlRecOn (motive := s.movesStreams) l step rfl fun u hu i _ => hu.trans (h u i)

theorem State.movesCups.streams {t : State} (h : s.movesCups t) : t.streams = s.streams := (congrArg State.streams h :)

/-- The streams depend on their list alone. -/
theorem State.stream_congr {t : State} (h : t.streams = s.streams) (n : Nat) : t.stream n = s.stream n :=
  congrArg (fun l => nget l n ({} : StreamSt)) h

/-! ### The state at a destination (R155) -/

/-- A cup that hears of a stream takes a status event. -/
theorem State.movesCups_tellCup (s : State) (k p n st : Nat) : s.movesCups (s.tellCup k p n st) := by
  unfold State.tellCup
  split
  · split
    · split
      · exact s.movesCups_statusEvent ..
      · rfl
    · rfl
  · rfl

/-- A destination's change of state, and the word to its cup. -/
theorem State.setDst_cases (s : State) (n d st : Nat) :
    nget (s.stream n).dstState d 0 = st ∧ s.setDst n d st = s ∨
      nget (s.stream n).dstState d 0 ≠ st ∧
        (s.modStream n fun x => { x with dstState := nput x.dstState d st 0 }).movesCups (s.setDst n d st) := by
  unfold State.setDst
  by_cases h : nget (s.stream n).dstState d 0 = st
  · exact .inl ⟨h, if_pos h⟩
  · refine .inr ⟨h, ?_⟩
    dsimp only
    rw [if_neg h]
    split
    · exact State.movesCups_tellCup ..
    · rfl

theorem State.movesStreams_setDst (s : State) (n d st : Nat) : s.movesStreams (s.setDst n d st) := by
  obtain ⟨-, h⟩ | ⟨-, h⟩ := s.setDst_cases n d st
  · rw [h]
    rfl
  · exact (s.movesStreams_modStream n _).trans h.movesStreams

/-- A destination that changes its state. -/
theorem State.stream_setDst_change {st : Nat} (h : nget (s.stream n).dstState d 0 ≠ st) :
    (s.setDst n d st).stream n = { s.stream n with dstState := nput (s.stream n).dstState d st 0 } := by
  obtain ⟨hsame, -⟩ | ⟨-, hmoves⟩ := s.setDst_cases n d st
  · exact absurd hsame h
  · rw [State.stream_congr hmoves.streams, State.stream_modStream_self]

/-- The states of a stream's destinations after a change at one. -/
theorem State.dstState_setDst (s : State) (n d st e : Nat) :
    nget ((s.setDst n d st).stream n).dstState e 0 = if e = d then st else nget (s.stream n).dstState e 0 := by
  obtain ⟨hsame, heq⟩ | ⟨-, hmoves⟩ := s.setDst_cases n d st
  · rw [heq]
    split
    · next he => rw [he, hsame]
    · rfl
  · rw [State.stream_congr hmoves.streams, State.stream_modStream_self]
    exact nget_nput ..

/-- A stream without the states at its destinations. -/
def StreamSt.plain (x : StreamSt) : StreamSt := { x with dstState := [] }

theorem State.plain_setDst (s : State) (n d st : Nat) : ((s.setDst n d st).stream n).plain = (s.stream n).plain := by
  obtain ⟨-, heq⟩ | ⟨-, hmoves⟩ := s.setDst_cases n d st
  · rw [heq]
  · rw [State.stream_congr hmoves.streams, State.stream_modStream_self]
    rfl

theorem State.stream_setDst_ne (s : State) {j : Nat} (h : j ≠ n) (d st : Nat) :
    (s.setDst n d st).stream j = s.stream j := by
  obtain ⟨-, heq⟩ | ⟨-, hmoves⟩ := s.setDst_cases n d st
  · rw [heq]
  · rw [State.stream_congr hmoves.streams, State.stream_modStream_ne _ h]

/-! ### Every destination (R154, R155) -/

theorem State.movesStreams_setDsts (s : State) (n st : Nat) (p : Nat → Bool) : s.movesStreams (s.setDsts n st p) := by
  unfold State.setDsts
  split
  · exact State.movesStreams_foldl (fun s d => s.movesStreams_setDst n d st) _ _
  · rfl

theorem State.plain_setDsts (s : State) (n st : Nat) (p : Nat → Bool) :
    ((s.setDsts n st p).stream n).plain = (s.stream n).plain := by
  unfold State.setDsts
  split
  · exact foldl_keeps (get := fun s : State => (s.stream n).plain) (fun s d _ => s.plain_setDst n d st) s
  · rfl

theorem State.stream_setDsts_ne (s : State) {j : Nat} (h : j ≠ n) (st : Nat) (p : Nat → Bool) :
    (s.setDsts n st p).stream j = s.stream j := by
  unfold State.setDsts
  split
  · exact foldl_keeps (get := fun s : State => s.stream j) (fun s d _ => s.stream_setDst_ne h d st) s
  · rfl

/-- A state set at every destination stands at each. -/
theorem State.dstState_setDsts_all {tr : Tree} (ht : (s.stream n).tree = some tr) (st : Nat) (hd : d < tr.dsts.length) :
    nget ((s.setDsts n st fun _ => true).stream n).dstState d 0 = st := by
  rw [State.setDsts, ht]
  dsimp only
  refine foldl_gives (get := fun s : State => nget (s.stream n).dstState d 0) (fun s e _ => ?_) (j := d) (by simpa using hd)
    (fun s => ?_) s
  · rw [s.dstState_setDst]
    split
    · exact .inl rfl
    · exact .inr rfl
  · rw [s.dstState_setDst, if_pos rfl]

/-- A stream that has taken a tree, or none, without the states at its destinations. -/
def StreamSt.treed (x : StreamSt) (t : Option Tree) : StreamSt :=
  { x with tree := t, prep := none, srcSop := none, dstState := [], lastSop := [], degradedAt := none }

/-- A stream takes a tree or none: it alone changes, a change prepared for it is gone, and each destination of the tree is
RESERVED (R154, R155). -/
theorem State.setTree_spec (s : State) (n : Nat) (t : Option Tree) :
    ((s.setTree n t).stream n).plain = (s.stream n).treed t ∧ (∀ j, j ≠ n → (s.setTree n t).stream j = s.stream j) ∧
      s.movesStreams (s.setTree n t) ∧
      ∀ tr, t = some tr → ∀ d, d < tr.dsts.length → nget ((s.setTree n t).stream n).dstState d 0 = 1 := by
  unfold State.setTree
  dsimp only
  generalize hgone : List.filter _ (((s.stream n).tree.map (·.dsts)).getD []) = gone
  generalize hkept : List.foldl _ [] (List.zip _ _) = kept
  have htold : s.movesCups (gone.foldl (fun (s : State) d => s.tellCup d.1 d.2 n 0) s) :=
    State.movesCups_foldl (fun s (d : Nat × Nat) => s.movesCups_tellCup d.1 d.2 n 0) s
  generalize gone.foldl (fun (s : State) d => s.tellCup d.1 d.2 n 0) s = told at htold ⊢
  have hstream (j : Nat) : told.stream j = s.stream j := State.stream_congr htold.streams j
  refine ⟨?_, fun j hj => ?_, ?_, fun tr htr d hd => ?_⟩
  · rw [State.plain_setDsts, State.stream_modStream_self, hstream]
    rfl
  · rw [State.stream_setDsts_ne _ hj, State.stream_modStream_ne _ hj, hstream]
  · exact (htold.movesStreams.trans (told.movesStreams_modStream n _)).trans (State.movesStreams_setDsts ..)
  · exact State.dstState_setDsts_all (by rw [State.stream_modStream_self]; exact htr) 1 hd

/-! ### DEGRADED clears (R196, R363) -/

/-- The state that a destination returns to rests on its last SOP and on the time. -/
theorem State.plainState_congr {t : State} (hm : s.movesStreams t) (hp : (t.stream n).lastSop = (s.stream n).lastSop) (d : Nat) :
    t.plainState n d = s.plainState n d := by
  have hsilence : t.silenceTicks = s.silenceTicks := congrArg (· * 256) (State.fld_congr hm.regs ..)
  have htick : t.tick = s.tick := congrArg (· / 16) hm.root
  rw [State.plainState, State.plainState, hp, hsilence, htick]

theorem StreamSt.lastSop_of_plain {x y : StreamSt} (h : x.plain = y.plain) : x.lastSop = y.lastSop :=
  (congrArg StreamSt.lastSop h :)

theorem StreamSt.degradedAt_of_plain {x y : StreamSt} (h : x.plain = y.plain) : x.degradedAt = y.degradedAt :=
  (congrArg StreamSt.degradedAt h :)

/-- A destination that is DEGRADED returns to its plain state. -/
def State.mend (s : State) (n d : Nat) : State :=
  if nget (s.stream n).dstState d 0 = 5 then s.setDst n d (s.plainState n d) else s

theorem State.movesStreams_mend (s : State) (n d : Nat) : s.movesStreams (s.mend n d) := by
  unfold State.mend
  split
  · exact s.movesStreams_setDst ..
  · rfl

theorem State.plain_mend (s : State) (n d : Nat) : ((s.mend n d).stream n).plain = (s.stream n).plain := by
  unfold State.mend
  split
  · exact s.plain_setDst ..
  · rfl

theorem State.stream_mend_ne (s : State) {j : Nat} (h : j ≠ n) (d : Nat) : (s.mend n d).stream j = s.stream j := by
  unfold State.mend
  split
  · exact s.stream_setDst_ne h ..
  · rfl

theorem State.dstState_mend_ne (s : State) {e : Nat} (h : e ≠ d) :
    nget ((s.mend n d).stream n).dstState e 0 = nget (s.stream n).dstState e 0 := by
  unfold State.mend
  split
  · rw [s.dstState_setDst, if_neg h]
  · rfl

theorem State.dstState_mend_self (s : State) (n d : Nat) :
    nget ((s.mend n d).stream n).dstState d 0 =
      if nget (s.stream n).dstState d 0 = 5 then s.plainState n d else nget (s.stream n).dstState d 0 := by
  unfold State.mend
  split
  · rw [s.dstState_setDst, if_pos rfl]
  · rfl

theorem State.plainState_mend (s : State) (n d e : Nat) : (s.mend n d).plainState n e = s.plainState n e :=
  State.plainState_congr (s.movesStreams_mend n d) (StreamSt.lastSop_of_plain (s.plain_mend n d)) e

/-- Undegrading a stream with a tree mends its destinations in order. -/
theorem State.undegrade_eq {tr : Tree} (ht : (s.stream n).tree = some tr) :
    s.undegrade n = (List.range tr.dsts.length).foldl (fun (s : State) d => s.mend n d)
      (s.modStream n fun x => { x with degradedAt := none }) := by
  have ht1 : ((s.modStream n fun x => { x with degradedAt := none }).stream n).tree = some tr := by
    rw [State.stream_modStream_self]
    exact ht
  unfold State.undegrade
  dsimp only
  rw [ht1]
  rfl

/-- The destinations that are DEGRADED return to their plain states, and the others keep theirs. -/
theorem State.undegrade_spec {tr : Tree} (ht : (s.stream n).tree = some tr) :
    ((s.undegrade n).stream n).degradedAt = none ∧
      (∀ d, d < tr.dsts.length → nget ((s.undegrade n).stream n).dstState d 0 =
        if nget (s.stream n).dstState d 0 = 5 then s.plainState n d else nget (s.stream n).dstState d 0) ∧
      (∀ j, j ≠ n → (s.undegrade n).stream j = s.stream j) ∧ s.movesStreams (s.undegrade n) := by
  have hs1 := s.stream_modStream_self n fun x => { x with degradedAt := none }
  have hm1 := s.movesStreams_modStream n fun x => { x with degradedAt := none }
  have hother1 (j : Nat) (hj : j ≠ n) := s.stream_modStream_ne hj fun x => { x with degradedAt := none }
  rw [State.undegrade_eq ht]
  generalize s.modStream n (fun x => { x with degradedAt := none }) = s1 at hs1 hm1 hother1 ⊢
  refine ⟨?_, fun d hd => ?_, fun j hj => ?_, ?_⟩
  · have hplain := foldl_keeps (get := fun s : State => (s.stream n).plain) (l := List.range tr.dsts.length)
      (fun s d _ => s.plain_mend n d) s1
    rw [StreamSt.degradedAt_of_plain hplain, hs1]
  · have honce := foldl_once (get := fun s : State => (nget (s.stream n).dstState d 0, s.plainState n d))
      (step := fun (s : State) d => s.mend n d) List.nodup_range (List.mem_range.mpr hd)
      (fun s i _ hi => by rw [s.dstState_mend_ne (Ne.symm hi), s.plainState_mend])
      (fun s t h => by
        obtain ⟨hstate, hplain⟩ := Prod.mk.inj h
        rw [s.dstState_mend_self, t.dstState_mend_self, s.plainState_mend, t.plainState_mend, hstate, hplain]) s1
    have hplain1 : s1.plainState n d = s.plainState n d := State.plainState_congr hm1 (by rw [hs1]) d
    have hvalue := (congrArg Prod.fst honce).trans (s1.dstState_mend_self n d)
    rw [hplain1, hs1] at hvalue
    exact hvalue
  · exact (foldl_keeps (get := fun s : State => s.stream j) (fun s d _ => s.stream_mend_ne hj d) s1).trans (hother1 j hj)
  · exact hm1.trans (State.movesStreams_foldl (fun s d => s.movesStreams_mend n d) _ _)

end Sys2Proof.Machine
end

section
/-! PROOF. The domains of streams, the silence of a destination, DEGRADED that clears, and queue grants (R141, R149, R155,
R196, R363). -/

namespace Sys2Proof.Machine

variable {s : State} {m n : Nat} {v : Word}

/-! ### Domains (R149) -/

/-- The command is the write of the TRAY_SENT that the writer's TRAY_SSEL selects. -/
theorem exec_streamDomainWrite (ha : s.accepts m ⟨.traySent, n, 0⟩)
    (hn : s.fld ⟨.traySsel, 0, windowOf ((s.midDomain m).getD 0)⟩ 13 0 = n) :
    exec (.streamDomainWrite m v) s =
      .next ((s.writeStreamDomain (windowOf ((s.midDomain m).getD 0)) n v).answer m .ok) := by
  change execStreamDomainWrite m v s = _
  rw [execStreamDomainWrite, hn, writeCommand_accepts ha]

/-- An idle stream takes an existing domain that has room for it. -/
theorem State.writeStreamDomain_takes (w : Nat) (ht : (s.stream n).tree = none)
    (hd : s.fld ⟨.traySent, n, 0⟩ 7 0 ≠ bits v 7 0) (he : s.domainExists (bits v 7 0) = true)
    (hroom : ∀ i ∈ tenantOf (bits v 7 0),
      (s.regs.filter fun e => e.1.name == .traySent && bits e.2 7 0 == bits v 7 0).length + 1 ≤
        s.fld ⟨.traySbudget, i, 0⟩ 15 0) :
    s.writeStreamDomain w n v = s.setFld ⟨.traySent, n, 0⟩ 7 0 (bits v 7 0) := by
  unfold State.writeStreamDomain
  dsimp only
  rw [if_neg (by simp [ht, hd]), he, if_neg (by decide)]
  cases htenant : tenantOf (bits v 7 0) with
  | none => rfl
  | some i => exact if_neg (Nat.not_lt.mpr (hroom i htenant))

/-- A domain that does not exist is refused. -/
theorem State.writeStreamDomain_refused (w : Nat) (ht : (s.stream n).tree = none)
    (hd : s.fld ⟨.traySent, n, 0⟩ 7 0 ≠ bits v 7 0) (he : s.domainExists (bits v 7 0) = false) :
    s.writeStreamDomain w n v = s.setFlag ⟨.traySsel, 0, w⟩ 31 true := by
  unfold State.writeStreamDomain
  dsimp only
  rw [if_neg (by simp [ht, hd]), he]
  rfl

/-! ### Silence and DEGRADED (R155, R196, R363) -/

theorem exec_streamSilenceTimeout {n : Fin 16384} {d : Fin 64} {t0 : Nat} (hs : s.serving = true)
    (hl : look (s.stream n.val).lastSop d.val = some t0) (hf : nget (s.stream n.val).dstState d.val 0 = 2)
    (hon : s.silenceTicks ≠ 0) (ht : t0 + s.silenceTicks ≤ s.tick) :
    exec (.streamSilenceTimeout n d) s = .next (s.setDst n.val d.val 3) := by
  change execStreamSilenceTimeout n d s = _
  rw [execStreamSilenceTimeout, whenServing_serving hs]
  dsimp only
  rw [hl]
  dsimp only
  rw [if_pos ⟨hf, hon, ht⟩]

theorem exec_degradedClear {n : Fin 16384} {t0 : Nat} (hs : s.serving = true)
    (hd : (s.stream n.val).degradedAt = some t0) (ht : t0 + 250000 ≤ s.tick) :
    exec (.degradedClear n) s = .next (s.undegrade n.val) := by
  change execDegradedClear n s = _
  rw [execDegradedClear, whenServing_serving hs, hd]
  exact congrArg Host.Outcome.next (if_pos ht)

/-! ### Queue grants (R141) -/

/-- An entry that gave no grant, written with a cup and a tenant, ends none. -/
theorem exec_queueGrantWrite {e : Nat} (he : s.fld ⟨.trayQgsel, 0, 0⟩ 7 0 = e) (ha : s.accepts m ⟨.trayQg, e, 0⟩)
    (hc : bits v 23 16 ≤ 191) (hd : inRange 0x10 0x4F (bits v 7 0) = true) (hoff : s.flag ⟨.trayQg, e, 0⟩ 31 = false) :
    exec (.queueGrantWrite m v) s = .next ((s.plainWrite ⟨.trayQg, e, 0⟩ v).answer m .ok) := by
  have hend : (s.plainWrite ⟨.trayQg, e, 0⟩ v).endGrant (s.reg ⟨.trayQg, e, 0⟩) = s.plainWrite ⟨.trayQg, e, 0⟩ v := by
    have hbit : bit (s.reg ⟨.trayQg, e, 0⟩) 31 = false := hoff
    rw [State.endGrant, hbit]
    rfl
  change execQueueGrantWrite m v s = _
  rw [execQueueGrantWrite, he, writeCommand_accepts ha, State.writeQueueGrant, he, if_neg (by simp [hd]; omega), hend]

/-! ### The statement -/

/-- Settles O21: each command is one write of a register, or a change of one stream's states. -/
theorem streamDomainsStatesAndGrants : Obligations.StreamDomainsStatesAndGrants := by
  unfold Obligations.StreamDomainsStatesAndGrants
  refine ⟨?domain, ?refused, ?silent, ?clear, ?grant⟩
  case domain =>
    intro s m v n ha hn ht hd he hroom
    refine ⟨(s.setFld ⟨.traySent, n, 0⟩ 7 0 (bits v 7 0)).answer m .ok, ?_, ?_, State.keepsRegs_of_setReg rfl, rfl⟩
    · rw [exec_streamDomainWrite ha hn, State.writeStreamDomain_takes _ ht hd he hroom]
    · exact (s.fld_setFld_self _ _ _ _ (by decide)).trans (Nat.mod_eq_of_lt (bits_lt v 7 0))
  case refused =>
    intro s m v n ha hn ht hd he
    refine ⟨(s.setFlag ⟨.traySsel, 0, windowOf ((s.midDomain m).getD 0)⟩ 31 true).answer m .ok, ?_,
      s.flag_setFlag_self _ _ _ (by decide), State.keepsRegs_of_setReg rfl, rfl⟩
    rw [exec_streamDomainWrite ha hn, State.writeStreamDomain_refused _ ht hd he]
  case silent =>
    intro s n d tr t0 hs _ hl hf hon ht
    exact ⟨_, exec_streamSilenceTimeout hs hl hf hon ht, State.stream_setDst_change (by rw [hf]; decide),
      fun n' hn => s.stream_setDst_ne hn .., s.movesStreams_setDst ..⟩
  case clear =>
    intro s n tr t0 hs htree hd ht
    exact ⟨_, exec_degradedClear hs hd ht, State.undegrade_spec htree⟩
  case grant =>
    intro s m v e he ha hc hd hoff
    have hfield {hi lo : Nat} (h : rwF hi lo ∈ [rwF 31 31, rwF 30 30, rwF 26 24, rwF 23 16, rwF 7 0]) :
        bits (((s.plainWrite ⟨.trayQg, e, 0⟩ v).answer m .ok).reg ⟨.trayQg, e, 0⟩) hi lo = bits v hi lo :=
      (congrArg (bits · hi lo) (s.reg_setReg_self ⟨.trayQg, e, 0⟩ _)).trans ((bits_mergeWrite_rw (n := .trayQg) h rfl _ v).trans (if_pos rfl))
    exact ⟨_, exec_queueGrantWrite he ha hc hd hoff, bit_eq_of_bits (hfield (by simp)), bit_eq_of_bits (hfield (by simp)),
      hfield (by simp), hfield (by simp), hfield (by simp), State.keepsRegs_of_setReg rfl, rfl⟩

end Sys2Proof.Machine
end

section
/-! PROOF. The reservation engine and swap sets, changes that take effect, and flits that leave at their slots (R148, R150 to
R154, R467). -/

namespace Sys2Proof.Machine

variable {s t u : State} {m n : Nat}

/-! ### The engine's command register (R467) -/

/-- What each command of the engine writes: GO, its OP and its set. -/
theorem rsvWord_fields (op : Fin 6) (set : Fin 16) :
    bit (rsvWord op.val set.val) 31 = true ∧ bits (rsvWord op.val set.val) 3 0 = op.val ∧
      bits (rsvWord op.val set.val) 7 4 = set.val ∧ namesOp .rsvCmd (rsvWord op.val set.val) = true := by
  revert op set
  decide

/-- The engine has stored a command's SET and OP. -/
def State.rsvStored (s : State) (v : Word) : State := (s.plainWrite ⟨.rsvCmd, 0, 0⟩ v).setFlag ⟨.rsvCmd, 0, 0⟩ 31 false

/-- A write while GO reads 1 changes nothing. -/
theorem State.rsvCommand_busy (ha : s.accepts m ⟨.rsvCmd, 0, 0⟩) (hgo : s.flag ⟨.rsvCmd, 0, 0⟩ 31 = true) (op : Nat)
    (set : Fin 16) : s.rsvCommand m op set = .next { s with sent := okTo m :: s.sent } := by
  rw [State.rsvCommand, writeCommand_accepts ha, State.writeRsvCmd, State.goWrite, hgo]
  rfl

/-! ### What the engine reads -/

/-- From s to t nothing has changed but TRAY_RSV_CMD, which the engine reads no more. -/
structure RsvView (s t : State) : Prop where
  reg : ∀ k, k ≠ ⟨.rsvCmd, 0, 0⟩ → t.reg k = s.reg k
  rest : t = { s with regs := t.regs }

theorem State.rsvView_rsvStored (s : State) (v : Word) : RsvView s (s.rsvStored v) where
  reg k hk := by rw [State.rsvStored, State.reg_setFlag, if_neg hk, State.reg_plainWrite, if_neg hk]
  rest := rfl

/-- A command that the engine takes is run on what it has stored. -/
theorem State.rsvCommand_runs (ha : s.accepts m ⟨.rsvCmd, 0, 0⟩) (hgo : s.flag ⟨.rsvCmd, 0, 0⟩ 31 = false)
    (hh : s.inHold = false) {op : Nat} (hlt : op < 6) (set : Fin 16) :
    ∃ u, RsvView s u ∧ s.rsvCommand m op set = .next ((u.rsvRun op set.val).answer m .ok) := by
  obtain ⟨hbit, hop, hset, hnames⟩ := rsvWord_fields ⟨op, hlt⟩ set
  dsimp only at hbit hop hset hnames
  have hv := s.rsvView_rsvStored (rsvWord op set.val)
  have hhold : (s.rsvStored (rsvWord op set.val)).inHold = false := by
    rw [State.inHold, State.flag, State.flag, hv.reg _ (by simp)]
    exact hh
  refine ⟨s.rsvStored (rsvWord op set.val), hv, ?_⟩
  rw [State.rsvCommand, writeCommand_accepts ha, State.writeRsvCmd, State.goWrite, hgo, hbit, hnames, hop, hset]
  change Host.Outcome.next (State.answer (if (s.rsvStored (rsvWord op set.val)).inHold then _ else _) m .ok) = _
  rw [hhold]
  rfl

section
variable (h : RsvView s t)
include h

theorem RsvView.fld {k : RegKey} (hk : k ≠ ⟨.rsvCmd, 0, 0⟩) (hi lo : Nat) : t.fld k hi lo = s.fld k hi lo :=
  congrArg (bits · hi lo) (h.reg k hk)

theorem RsvView.flag {k : RegKey} (hk : k ≠ ⟨.rsvCmd, 0, 0⟩) (i : Nat) : t.flag k i = s.flag k i :=
  congrArg (bit · i) (h.reg k hk)

theorem RsvView.streams : t.streams = s.streams := by rw [h.rest]

theorem RsvView.stream (n : Nat) : t.stream n = s.stream n := State.stream_congr h.streams n

theorem RsvView.setArmed : t.setArmed = s.setArmed := by
  have hents : t.spEnts = s.spEnts := by rw [h.rest]
  have hfld (e : Nat) : t.fld ⟨.spCtl, e, 0⟩ 31 29 = s.fld ⟨.spCtl, e, 0⟩ 31 29 := h.fld (by simp) ..
  funext set
  simp only [State.setArmed, State.spArmed, State.spAction, State.spEnt, hents, hfld]

theorem RsvView.stagedTree : t.stagedTree = s.stagedTree := by
  have hsrc := h.reg ⟨.rsvSrc, 0, 0⟩ (by simp)
  have hdst (i : Nat) : t.reg ⟨.rsvDst, 0, i⟩ = s.reg ⟨.rsvDst, 0, i⟩ := h.reg _ (by simp)
  have hslots := h.reg ⟨.rsvSlots, 0, 0⟩ (by simp)
  simp only [State.stagedTree, State.flag, State.fld, hsrc, hdst, hslots]

/-- An endpoint rests on the leaf map and the roles of quads. -/
theorem RsvView.endpointOk : t.endpointOk = s.endpointOk := by
  have hmap (i : Nat) : t.fld ⟨.trayLmap, i, 0⟩ 5 0 = s.fld ⟨.trayLmap, i, 0⟩ 5 0 := h.fld (by simp) ..
  have hquad (q hi lo : Nat) : t.fld ⟨.quadCfg, q, 0⟩ hi lo = s.fld ⟨.quadCfg, q, 0⟩ hi lo := h.fld (by simp) ..
  have hcups : t.cupsOfLeaf = s.cupsOfLeaf := by
    funext p
    simp only [State.cupsOfLeaf, hmap]
  funext k p
  simp only [State.endpointOk, State.cupAtRouter, hcups, State.quadRole, State.servedByEven, State.quadConfig, hquad]

theorem RsvView.descriptorCode : t.descriptorCode = s.descriptorCode := by
  have hsrc : t.fld ⟨.rsvSrc, 0, 0⟩ 23 16 = s.fld ⟨.rsvSrc, 0, 0⟩ 23 16 := h.fld (by simp) ..
  funext tr count
  simp only [State.descriptorCode, h.endpointOk, hsrc]

/-- A tenant's slots rest on the domains of streams, their trees and its budget. -/
theorem RsvView.overSlots : t.overSlots = s.overSlots := by
  have hdom (i : Nat) : t.fld ⟨.traySent, i, 0⟩ 7 0 = s.fld ⟨.traySent, i, 0⟩ 7 0 := h.fld (by simp) ..
  have hbudget (i : Nat) : t.fld ⟨.traySbudget, i, 0⟩ 31 16 = s.fld ⟨.traySbudget, i, 0⟩ 31 16 := h.fld (by simp) ..
  have hslots : t.domSlots = s.domSlots := by
    funext d
    simp only [State.domSlots, hdom, h.streams]
  funext stream count
  rw [State.overSlots, State.overSlots, hdom, hslots]
  cases tenantOf (s.fld ⟨.traySent, stream, 0⟩ 7 0) with
  | none => rfl
  | some i =>
    dsimp only
    rw [hbudget]

/-- The slots that are free rest on the trees of the streams alone. -/
theorem RsvView.allocate : t.allocate = s.allocate := by
  funext tr start count
  simp only [State.allocate, State.slotFree, State.placeHeld, h.streams]

theorem RsvView.setMembers : t.setMembers = s.setMembers := by
  funext set
  simp only [State.setMembers, h.streams]

end

/-! ### Reports (R153) -/

/-- A command that has ended well says so, with the slots taken. -/
theorem State.fld_rsvDone (s : State) (taken : Nat) :
    (s.rsvDone 0 0 0 taken).fld ⟨.rsvStat, 0, 0⟩ 31 30 = 2 ∧
      (s.rsvDone 0 0 0 taken).fld ⟨.rsvStat, 0, 0⟩ 9 0 = taken % 1024 := by
  simp only [State.fld, State.rsvDone, State.reg_setReg_self]
  constructor
  · simp only [packBits, List.foldl]
    rw [bits_putBits_ne _ _ _ _ _ _ (by omega), bits_putBits_ne _ _ _ _ _ _ (by omega), bits_putBits_ne _ _ _ _ _ _ (by omega),
      bits_putBits_ne _ _ _ _ _ _ (by omega), bits_putBits_self _ _ _ _ (by omega)]
    rfl
  · simp only [packBits, List.foldl]
    rw [bits_putBits_self _ _ _ _ (by omega)]
    rfl

/-- A report leaves every other register and every stream. -/
theorem State.reg_reported {k : RegKey} (hk : k ≠ ⟨.rsvStat, 0, 0⟩) (u : State) (taken : Nat) :
    ((u.rsvDone 0 0 0 taken).answer m .ok).reg k = u.reg k :=
  u.reg_setReg_ne _ hk

theorem State.stream_reported (u : State) (taken i : Nat) :
    ((u.rsvDone 0 0 0 taken).answer m .ok).stream i = u.stream i :=
  rfl

/-- From s to t nothing but streams, registers and cups has changed. -/
def State.movesFlow (s t : State) : Prop := t = { s with regs := t.regs, streams := t.streams, cups := t.cups }

theorem State.movesFlow.trans {s t u : State} (h : s.movesFlow t) (g : t.movesFlow u) : s.movesFlow u := by
  unfold State.movesFlow at *
  rw [h] at g
  exact g

theorem State.movesStreams.flow (h : s.movesStreams t) : s.movesFlow t := by
  rw [h]
  rfl

/-- A command that has stored its word, changed streams and reported leaves but its two registers where the streams changed no
other. -/
theorem RsvView.reported_regs (h : RsvView s t) (hr : u.regs = t.regs) (taken : Nat) :
    s.keepsRegs ((u.rsvDone 0 0 0 taken).answer m .ok) [⟨.rsvCmd, 0, 0⟩, ⟨.rsvStat, 0, 0⟩] := by
  intro k hk
  obtain ⟨hcmd, hstat⟩ : k ≠ ⟨.rsvCmd, 0, 0⟩ ∧ k ≠ ⟨.rsvStat, 0, 0⟩ := by simpa using hk
  exact (u.reg_reported hstat taken).trans ((State.reg_congr hr k).trans (h.reg k hcmd))

/-- Beside them it leaves its answer. -/
theorem RsvView.reported_rest (h : RsvView s t) (hm : t.movesFlow u) (taken : Nat) :
    (u.rsvDone 0 0 0 taken).answer m .ok =
      { s with regs := ((u.rsvDone 0 0 0 taken).answer m .ok).regs, streams := u.streams, cups := u.cups,
               sent := okTo m :: s.sent } := by
  have hs := h.rest
  rw [hs] at hm
  rw [hm]
  rfl

/-- The same of a command that no cup hears of. -/
theorem RsvView.reported_streams (h : RsvView s t) (hm : t.movesStreams u) (hc : u.cups = t.cups) (taken : Nat) :
    ((u.rsvDone 0 0 0 taken).answer m .ok).fld ⟨.rsvStat, 0, 0⟩ 31 30 = 2 ∧
    s.keepsRegs ((u.rsvDone 0 0 0 taken).answer m .ok) [⟨.rsvCmd, 0, 0⟩, ⟨.rsvStat, 0, 0⟩] ∧
    ((u.rsvDone 0 0 0 taken).answer m .ok) =
      { s with regs := ((u.rsvDone 0 0 0 taken).answer m .ok).regs, streams := u.streams, sent := okTo m :: s.sent } := by
  have hrest := h.reported_rest (m := m) hm.flow taken
  rw [hc, h.rest] at hrest
  exact ⟨(u.fld_rsvDone taken).1, h.reported_regs hm.regs taken, hrest⟩

/-! ### Trees taken and changes prepared (R151, R152, R154) -/

section

variable (hv : RsvView s u) (hn : s.fld ⟨.rsvStream, 0, 0⟩ 13 0 = n)
include hv hn

/-- The stream that a command is for. -/
theorem RsvView.rsvStream : u.fld ⟨.rsvStream, 0, 0⟩ 13 0 = n := (hv.fld (by simp) ..).trans hn

section

variable {slots : List Nat} (hc : s.descriptorCode s.stagedTree (s.fld ⟨.rsvSlots, 0, 0⟩ 9 0) = 0)
  (ho : s.overSlots n (s.fld ⟨.rsvSlots, 0, 0⟩ 9 0) = false)
  (ha : s.allocate s.stagedTree (s.fld ⟨.rsvSlots, 0, 0⟩ 25 16) (s.fld ⟨.rsvSlots, 0, 0⟩ 9 0) = .ok slots)
include hc ho ha

/-- RESERVE of an unused stream whose descriptor is in order and finds its slots. -/
theorem RsvView.rsvRun_reserve (ht : (s.stream n).tree = none) (set : Nat) :
    u.rsvRun 0 set = (u.setTree n (some { s.stagedTree with slots })).rsvDone 0 0 0 slots.length := by
  rw [State.rsvRun, hv.rsvStream hn]
  dsimp only
  rw [hv.stream, ht, State.rsvTake]
  dsimp only
  rw [hv.stagedTree, hv.fld (k := ⟨.rsvSlots, 0, 0⟩) (by simp), hv.fld (k := ⟨.rsvSlots, 0, 0⟩) (by simp),
    hv.descriptorCode, hv.overSlots, hv.allocate, hc, ho, ha]
  rfl

/-- PREPARE of a stream in use for a set that no armed entry names. -/
theorem RsvView.rsvRun_prepare (ht : (s.stream n).tree ≠ none) (hp : (s.stream n).prep = none) {set : Nat}
    (hs : s.setArmed set = false) :
    u.rsvRun 1 set = (u.modStream n fun x =>
      { x with prep := some { set, tree := some { s.stagedTree with slots } } }).rsvDone 0 0 0 slots.length := by
  obtain ⟨tr, htr⟩ := Option.ne_none_iff_exists'.mp ht
  rw [State.rsvRun, hv.rsvStream hn]
  dsimp only
  rw [hv.stream, htr, hp, hv.setArmed, hs, State.rsvTake]
  dsimp only
  rw [hv.stagedTree, hv.fld (k := ⟨.rsvSlots, 0, 0⟩) (by simp), hv.fld (k := ⟨.rsvSlots, 0, 0⟩) (by simp),
    hv.descriptorCode, hv.overSlots, hv.allocate, hc, ho, ha]
  rfl

end

variable (ht : (s.stream n).tree ≠ none)
include ht

/-- RELEASE of a stream in use, none of whose changes is armed. -/
theorem RsvView.rsvRun_release (hp : ((s.stream n).prep.any fun p => s.setArmed p.set) = false) (set : Nat) :
    u.rsvRun 2 set = ((u.setTree n none).streamFlow n).rsvDone 0 0 0 0 := by
  obtain ⟨tr, htr⟩ := Option.ne_none_iff_exists'.mp ht
  rw [State.rsvRun, hv.rsvStream hn, hv.stream, htr, hv.setArmed, hp]
  rfl

/-- PREPARE_RELEASE of a stream in use. -/
theorem RsvView.rsvRun_prepareRelease (hp : (s.stream n).prep = none) {set : Nat} (hs : s.setArmed set = false) :
    u.rsvRun 3 set = (u.modStream n fun x => { x with prep := some { set, tree := none } }).rsvDone 0 0 0 0 := by
  obtain ⟨tr, htr⟩ := Option.ne_none_iff_exists'.mp ht
  rw [State.rsvRun, hv.rsvStream hn, hv.stream, htr, hp, hv.setArmed, hs]
  rfl

end

/-! ### Swap sets (R154) -/

/-- A set that no armed entry names is applied. -/
theorem RsvView.rsvRun_apply (hv : RsvView s u) {set : Nat} (hs : s.setArmed set = false) :
    u.rsvRun 4 set = (u.applySwap set).rsvDone 0 0 0 0 := by
  rw [State.rsvRun, hv.setArmed, hs]
  rfl

/-- Or discarded. -/
theorem RsvView.rsvRun_discard (hv : RsvView s u) {set : Nat} (hs : s.setArmed set = false) :
    u.rsvRun 5 set = (u.discardSwap set).rsvDone 0 0 0 0 := by
  change (if u.setArmed set then _ else _) = _
  rw [hv.setArmed, hs]
  rfl

/-- A stream whose change is of a set is one of the set's members. -/
theorem State.mem_setMembers {p : Prep} {set : Nat} (hp : (s.stream n).prep = some p) (hs : p.set = set) :
    n ∈ s.setMembers set := by
  cases hl : look s.streams n with
  | none =>
    have hdefault : s.stream n = {} := by rw [State.stream, nget, lookD, hl]; rfl
    rw [hdefault] at hp
    cases hp
  | some x =>
    have hx : s.stream n = x := by rw [State.stream, nget, lookD, hl]; rfl
    rw [hx] at hp
    exact List.mem_map.mpr ⟨(n, x), List.mem_filter.mpr ⟨mem_of_look hl, by simp [hp, hs]⟩, rfl⟩

/-- An update that doing twice does once, made at every stream of a list. -/
theorem State.stream_foldl_modStream {f : StreamSt → StreamSt} (hf : ∀ x, f (f x) = f x) (l : List Nat) (s : State) (n : Nat) :
    (l.foldl (fun (s : State) i => s.modStream i f) s).stream n = if n ∈ l then f (s.stream n) else s.stream n := by
  induction l generalizing s with
  | nil => rfl
  | cons i l ih =>
    rw [List.foldl_cons, ih, s.stream_modStream]
    by_cases hi : n = i
    · subst hi
      simp [hf]
    · simp [hi]

/-- Such updates change streams alone. -/
theorem State.foldl_modStream_rest (f : StreamSt → StreamSt) (l : List Nat) (s : State) :
    s.movesStreams (l.foldl (fun (s : State) i => s.modStream i f) s) ∧
      (l.foldl (fun (s : State) i => s.modStream i f) s).cups = s.cups :=
  ⟨State.movesStreams_foldl (fun s i => s.movesStreams_modStream i f) l s,
    foldl_keeps (get := State.cups) (step := fun (s : State) i => s.modStream i f) (fun _ _ _ => rfl) s⟩

/-- The members of a set that is applied wait for their SOPs. -/
theorem State.stream_applySwap (s : State) (set n : Nat) :
    (s.applySwap set).stream n =
      if n ∈ s.setMembers set then
        { s.stream n with prep := (s.stream n).prep.map fun p => { p with applied := true } }
      else s.stream n :=
  State.stream_foldl_modStream (fun x => by rw [Option.map_map]; rfl) _ s n

/-- The members of a set that is discarded have no change prepared. -/
theorem State.stream_discardSwap (s : State) (set n : Nat) :
    (s.discardSwap set).stream n = if n ∈ s.setMembers set then { s.stream n with prep := none } else s.stream n :=
  State.stream_foldl_modStream (f := fun x => { x with prep := none }) (fun _ => rfl) _ s n

/-! ### Packets without a tree (R150) -/

/-- A discarded packet is counted in a register of its producer. -/
theorem State.countLost_rest (s : State) (o : Producer) : s.countLost o = { s with regs := (s.countLost o).regs } := by
  cases o <;> rfl

/-- With no packet waiting nothing flows. -/
theorem State.flowSteps_idle (hw : (s.stream n).wait = []) (k : Nat) : State.flowSteps n (k + 1) s = s := by
  rw [State.flowSteps, hw]

/-- The packet at the head of a stream without a tree is discarded and counted. -/
theorem State.flowSteps_discard {w : WaitPkt} {rest : List WaitPkt} (hw : (s.stream n).wait = w :: rest)
    (ht : (s.stream n).tree = none) (hp : (s.stream n).prep = none) (k : Nat) :
    State.flowSteps n (k + 1) s =
      State.flowSteps n k ((s.modStream n fun x => { x with wait := rest }).countLost w.owner) := by
  have hswitch : s.switchTree n = s := by rw [State.switchTree, hp]
  rw [State.flowSteps, hw]
  dsimp only
  rw [hswitch, ite_self, ht]

/-- All that wait in a stream without a tree are discarded, and counted in registers. -/
theorem State.flowSteps_treeless (k : Nat) (ht : (s.stream n).tree = none) (hp : (s.stream n).prep = none)
    (hk : (s.stream n).wait.length < k) :
    (State.flowSteps n k s).stream n = { s.stream n with wait := [] } ∧
      (∀ j, j ≠ n → (State.flowSteps n k s).stream j = s.stream j) ∧
      s.movesFlow (State.flowSteps n k s) := by
  induction k generalizing s with
  | zero => exact absurd hk (Nat.not_lt_zero _)
  | succ k ih =>
    cases hw : (s.stream n).wait with
    | nil =>
      rw [State.flowSteps_idle hw]
      refine ⟨?_, fun _ _ => rfl, rfl⟩
      rw [← hw]
    | cons w rest =>
      rw [State.flowSteps_discard hw ht hp]
      have hrest := (s.modStream n fun x => { x with wait := rest }).countLost_rest w.owner
      have hmoves : s.movesFlow ((s.modStream n fun x => { x with wait := rest }).countLost w.owner) := by
        rw [hrest]
        rfl
      have hstream (j : Nat) : ((s.modStream n fun x => { x with wait := rest }).countLost w.owner).stream j =
          (s.modStream n fun x => { x with wait := rest }).stream j := by rw [hrest]; rfl
      have hself := (hstream n).trans (s.stream_modStream_self n _)
      have hlen : rest.length < k := by rw [hw] at hk; exact Nat.lt_of_succ_lt_succ hk
      obtain ⟨hn, hj, hr⟩ := ih (s := (s.modStream n fun x => { x with wait := rest }).countLost w.owner)
        (by rw [hself]; exact ht) (by rw [hself]; exact hp) (by rw [hself]; exact hlen)
      refine ⟨?_, fun j hne => ?_, ?_⟩
      · rw [hn, hself]
      · rw [hj j hne, hstream, s.stream_modStream_ne hne]
      · exact hmoves.trans hr

end Sys2Proof.Machine
end

section
/-! PROOF. Changes that take effect at a SOP, flits that leave at their slots, and what the family of the reservation engine
claims (R148, R150 to R154, R467). -/

namespace Sys2Proof.Machine

variable {s t u : State} {m n : Nat}

/-! ### A change takes effect (R154) -/

/-- A change that has been applied puts its tree into effect. -/
theorem State.switchTree_applied {p : Prep} (hp : (s.stream n).prep = some p) (ha : p.applied = true) :
    s.switchTree n = s.setTree n p.tree := by
  rw [State.switchTree, hp]
  exact if_pos ha

theorem StreamSt.tree_of_plain {x y : StreamSt} (h : x.plain = y) : x.tree = y.tree := (congrArg StreamSt.tree h :)

theorem StreamSt.prep_of_plain {x y : StreamSt} (h : x.plain = y) : x.prep = y.prep := (congrArg StreamSt.prep h :)

theorem StreamSt.wait_of_plain {x y : StreamSt} (h : x.plain = y) : x.wait = y.wait := (congrArg StreamSt.wait h :)

/-- A SOP with no flit before it. -/
theorem exec_streamTreeSwitch {n : Fin 16384} {p : Prep} (hs : s.serving = true) (hp : (s.stream n.val).prep = some p)
    (ha : p.applied = true) (hw : (s.stream n.val).wait = []) :
    exec (.streamTreeSwitch n) s = .next (s.sourceSop n.val) := by
  change execStreamTreeSwitch n s = _
  rw [execStreamTreeSwitch, whenServing_serving hs, hp, hw]
  exact congrArg Host.Outcome.next (if_pos (by simpa using ha))

/-- A SOP behind packets that have not left does nothing yet. -/
theorem exec_streamTreeSwitch_waits {n : Fin 16384} (hw : (s.stream n.val).wait ≠ []) :
    exec (.streamTreeSwitch n) s = .next s := by
  change execStreamTreeSwitch n s = _
  cases hs : s.serving with
  | false => rw [execStreamTreeSwitch, whenServing_idle hs]
  | true =>
    rw [execStreamTreeSwitch, whenServing_serving hs]
    exact congrArg Host.Outcome.next (if_neg (by simp [hw]))

/-- The first SOP after the point of application. -/
theorem State.sourceSop_spec {p : Prep} (hp : (s.stream n).prep = some p) (ha : p.applied = true) :
    ((s.sourceSop n).stream n).tree = p.tree ∧ ((s.sourceSop n).stream n).prep = none ∧
      ((s.sourceSop n).stream n).srcSop = (if p.tree.isSome then some s.tick else none) ∧
      (∀ j, j ≠ n → (s.sourceSop n).stream j = s.stream j) ∧ s.movesStreams (s.sourceSop n) := by
  obtain ⟨hplain, hothers, hmoves, -⟩ := s.setTree_spec n p.tree
  have htree : ((s.setTree n p.tree).stream n).tree = p.tree := StreamSt.tree_of_plain hplain
  have hprep : ((s.setTree n p.tree).stream n).prep = none := StreamSt.prep_of_plain hplain
  rw [State.sourceSop, State.switchTree_applied hp ha]
  refine ⟨?_, ?_, ?_, fun j hj => ?_, hmoves.trans (State.movesStreams_modStream ..)⟩
  · rw [State.stream_modStream_self, htree]
  · rw [State.stream_modStream_self, hprep]
  · rw [State.stream_modStream_self, htree]
  · rw [State.stream_modStream_ne _ hj, hothers j hj]

/-- A packet of the source of its stream's tree waits for a slot, once a change that it brings into effect is in effect. -/
theorem State.streamFlow_slotted {w : WaitPkt} {rest : List WaitPkt} {tr : Tree} (hw : (s.stream n).wait = w :: rest)
    (hs : (if w.gone = 0 then s.switchTree n else s) = t) (ht : (t.stream n).tree = some tr) (hk : tr.srcK = w.k)
    (hp : tr.srcPort = w.p) (hbe : tr.be = false) : s.streamFlow n = t := by
  rw [State.streamFlow, State.flowSteps, hw]
  dsimp only
  rw [hs, ht]
  dsimp only
  rw [if_pos ⟨hk, hp⟩, hbe]
  rfl

/-- With nothing waiting nothing flows. -/
theorem State.streamFlow_idle (hw : (s.stream n).wait = []) : s.streamFlow n = s := State.flowSteps_idle hw _

/-- The one packet of a stream without a tree is discarded and counted. -/
theorem State.streamFlow_discard {w : WaitPkt} (hw : (s.stream n).wait = [w]) (ht : (s.stream n).tree = none)
    (hp : (s.stream n).prep = none) :
    s.streamFlow n = (s.modStream n fun x => { x with wait := [] }).countLost w.owner := by
  rw [State.streamFlow, hw, List.length_singleton, State.flowSteps_discard hw ht hp, State.flowSteps_idle]
  rw [State.countLost_rest]
  exact congrArg StreamSt.wait (s.stream_modStream_self n fun x => { x with wait := [] })

/-! ### A released stream (R150, R154) -/

/-- A stream is released: its tree, its prepared change and the packets that waited are gone; where none waited no register
changes, and one of a stream-out port is counted there. -/
theorem State.released_spec (s : State) (n : Nat) :
    let t := (s.setTree n none).streamFlow n
    ((t.stream n).tree = none ∧ (t.stream n).prep = none ∧ (t.stream n).wait = []) ∧
      (∀ j, j ≠ n → t.stream j = s.stream j) ∧ ((s.stream n).wait = [] → t.regs = s.regs) ∧
      (∀ c i p, (s.stream n).wait = [p] → p.owner = .sout c i → t.regs = (s.countUp ⟨.cupSout, c, i⟩ 29 14).regs) ∧
      s.movesFlow t := by
  obtain ⟨hplain, hothers, hmoves, -⟩ := s.setTree_spec n none
  have htree : ((s.setTree n none).stream n).tree = none := StreamSt.tree_of_plain hplain
  have hprep : ((s.setTree n none).stream n).prep = none := StreamSt.prep_of_plain hplain
  have hwait : ((s.setTree n none).stream n).wait = (s.stream n).wait := (StreamSt.wait_of_plain hplain :)
  generalize s.setTree n none = u at *
  obtain ⟨hself, hj, hrest⟩ := State.flowSteps_treeless _ htree hprep (Nat.lt_succ_self _)
  change (u.streamFlow n).stream n = _ at hself
  change ∀ j, j ≠ n → (u.streamFlow n).stream j = _ at hj
  change u.movesFlow (u.streamFlow n) at hrest
  refine ⟨?_, fun j hne => (hj j hne).trans (hothers j hne), fun hw => ?_, fun c i p hw hp => ?_, ?_⟩
  · rw [hself]
    exact ⟨htree, hprep, rfl⟩
  · rw [State.streamFlow_idle (hwait.trans hw), hmoves.regs]
  · rw [State.streamFlow_discard (hwait.trans hw) htree hprep, hp]
    change ((u.modStream n _).countUp ⟨.cupSout, c, i⟩ 29 14).regs = _
    rw [hmoves]
    rfl
  · exact hmoves.flow.trans hrest

/-! ### A flit leaves (R148) -/

/-- The first flit of a packet is its SOP. -/
def State.sopOut (s : State) (n : Nat) (w : WaitPkt) : State :=
  if w.gone + 1 = 1 then s.modStream n fun x => { x with srcSop := some s.tick } else s

/-- A packet is out with its last flit. -/
def State.packetOut (s : State) (n : Nat) (w : WaitPkt) (rest : List WaitPkt) : State :=
  ((s.sopOut n w).modStream n fun x => { x with wait := rest }).log (.streamPacket n w.bytes w.bad)

/-- What a RAW lane makes of a packet: it sends the words, or counts a damaged packet. -/
def State.rawOut (s : State) (n : Nat) (w : WaitPkt) (l : Nat) : State :=
  if w.bad then s.portCount (l / 4) (l % 4) 7 else s.rawSend n l w.bytes

section

variable {w : WaitPkt} {rest : List WaitPkt} {tr : Tree} (hw : (s.stream n).wait = w :: rest)
  (hc : s.clearWay tr.routers)
include hw hc

/-- A flit that meets no error: one of several, or the last. -/
theorem State.leaveFlit_clear :
    s.leaveFlit n tr =
      if w.gone + 1 < flitCount w.bytes.length then
        (s.sopOut n w).modStream n fun x => { x with wait := { w with gone := w.gone + 1 } :: rest }
      else ((s.packetOut n w rest).rawSinks n tr).foldl (fun (s : State) l => s.rawOut n w l) (s.packetOut n w rest) := by
  have hcross : s.crossRouters tr.routers = (s, false) := by rw [State.crossRouters, hc]
  rw [State.leaveFlit, hw]
  dsimp only
  rw [hcross]
  simp only [Bool.or_false]
  rfl

theorem State.leaveFlit_more (hmore : w.gone + 1 < flitCount w.bytes.length) :
    s.leaveFlit n tr =
      (s.sopOut n w).modStream n fun x => { x with wait := { w with gone := w.gone + 1 } :: rest } := by
  rw [State.leaveFlit_clear hw hc, if_pos hmore]

/-- The last flit of a stream that no RAW lane sends. -/
theorem State.leaveFlit_last (hlast : flitCount w.bytes.length ≤ w.gone + 1) (hraw : s.rawSinks n tr = []) :
    s.leaveFlit n tr = s.packetOut n w rest := by
  have hsinks : (s.packetOut n w rest).rawSinks n tr = s.rawSinks n tr := by
    unfold State.packetOut State.sopOut
    split <;> rfl
  rw [State.leaveFlit_clear hw hc, if_neg (Nat.not_lt.mpr hlast), hsinks, hraw]
  rfl

end

theorem State.sopOut_rest (s : State) (n : Nat) (w : WaitPkt) :
    s.sopOut n w = { s with streams := (s.sopOut n w).streams } := by
  unfold State.sopOut
  split <;> rfl

/-- The SOP is the first flit's. -/
theorem State.srcSop_sopOut {w : WaitPkt} (h : w.gone = 0) : ((s.sopOut n w).stream n).srcSop = some s.tick := by
  rw [State.sopOut, if_pos (by omega), State.stream_modStream_self]

/-- A packet that arrives moves no SOP of its source. -/
theorem State.srcSop_streamArrive (s : State) (n k p : Nat) :
    ((s.streamArrive n k p).stream n).srcSop = (s.stream n).srcSop := by
  unfold State.streamArrive
  split
  · have hmod (l : List (Nat × Nat)) :
        ((s.modStream n fun x => { x with lastSop := l }).stream n).srcSop = (s.stream n).srcSop := by
      rw [State.stream_modStream_self]
    dsimp only
    split
    · exact (congrArg StreamSt.srcSop (State.plain_setDst ..) :).trans (hmod _)
    · exact hmod _
  · rfl

/-- Nor does a RAW lane that takes it. -/
theorem State.srcSop_rawOut (s : State) (n : Nat) (w : WaitPkt) (l : Nat) :
    ((s.rawOut n w l).stream n).srcSop = (s.stream n).srcSop := by
  unfold State.rawOut
  split
  · rfl
  · unfold State.rawSend
    dsimp only
    split <;> exact State.srcSop_streamArrive ..

/-- The first flit of a packet is the SOP of its stream at the source. -/
theorem State.srcSop_leaveFlit {w : WaitPkt} {rest : List WaitPkt} {tr : Tree} (hw : (s.stream n).wait = w :: rest)
    (hc : s.clearWay tr.routers) (h : w.gone = 0) : ((s.leaveFlit n tr).stream n).srcSop = some s.tick := by
  have hmod (l : List WaitPkt) :
      (((s.sopOut n w).modStream n fun x => { x with wait := l }).stream n).srcSop = some s.tick :=
    (congrArg StreamSt.srcSop (State.stream_modStream_self ..)).trans (State.srcSop_sopOut h)
  rw [State.leaveFlit_clear hw hc]
  split
  · exact hmod _
  · exact (foldl_keeps (get := fun s : State => (s.stream n).srcSop) (fun s l _ => s.srcSop_rawOut n w l) _).trans (hmod rest)

/-! ### The statement -/

/-- Settles O20: each command of the engine runs on what it has stored, as one change of streams and a report; packets go on
by one flit at a time. -/
theorem reservationsAreTakenAndSwapped : Obligations.ReservationsAreTakenAndSwapped := by
  unfold Obligations.ReservationsAreTakenAndSwapped
  refine ⟨?reserve, ?prepare, ?release, ?prepareRelease, ?busy, ?apply, ?discard, ?switch, ?early, ?sending, ?switched, ?flit⟩
  case reserve =>
    intro s m set n slots ha hgo hh hn ht hc ho hslots
    obtain ⟨u, hv, hrun⟩ := State.rsvCommand_runs ha hgo hh (by decide : 0 < 6) set
    obtain ⟨hplain, hothers, hmoves, hstates⟩ := u.setTree_spec n (some { s.stagedTree with slots })
    obtain ⟨hstat, htaken⟩ := (u.setTree n (some { s.stagedTree with slots })).fld_rsvDone slots.length
    rw [hv.rsvRun_reserve hn hc ho hslots ht] at hrun
    exact ⟨_, hrun, StreamSt.tree_of_plain hplain, fun d hd => hstates _ rfl d hd, fun n' hne => (hothers n' hne).trans (hv.stream n'), hstat,
      htaken, hv.reported_regs hmoves.regs _, hv.reported_rest hmoves.flow _⟩
  case prepare =>
    intro s m set n slots ha hgo hh hn ht hp hs hc ho hslots
    obtain ⟨u, hv, hrun⟩ := State.rsvCommand_runs ha hgo hh (by decide : 1 < 6) set
    rw [hv.rsvRun_prepare hn hc ho hslots ht hp hs] at hrun
    refine ⟨_, hrun, ?_, fun n' hne => ?_,
      hv.reported_streams (u.movesStreams_modStream n _) rfl _⟩
    · rw [State.stream_reported, State.stream_modStream_self, hv.stream]
    · rw [State.stream_reported, State.stream_modStream_ne _ hne, hv.stream]
  case release =>
    intro s m set n ha hgo hh hn ht hp
    obtain ⟨u, hv, hrun⟩ := State.rsvCommand_runs ha hgo hh (by decide : 2 < 6) set
    rw [hv.rsvRun_release hn ht hp] at hrun
    obtain ⟨⟨htree, hprep, hwait⟩, hothers, hidle, hsout, hrest⟩ := u.released_spec n
    generalize (u.setTree n none).streamFlow n = x at *
    refine ⟨_, hrun, htree, hprep, hwait, fun n' hne => (hothers n' hne).trans (hv.stream n'), (x.fld_rsvDone 0).1,
      fun hw => hv.reported_regs (hidle ((congrArg StreamSt.wait (hv.stream n)).trans hw)) 0, fun c i p _ hw hp => ?_,
      hv.reported_rest hrest 0⟩
    calc ((x.rsvDone 0 0 0 0).answer m .ok).fld ⟨.cupSout, c, i⟩ 29 14
        = x.fld ⟨.cupSout, c, i⟩ 29 14 := congrArg (bits · 29 14) (x.reg_reported (by simp) 0)
      _ = (u.countUp ⟨.cupSout, c, i⟩ 29 14).fld ⟨.cupSout, c, i⟩ 29 14 :=
        State.fld_congr (hsout c i p ((congrArg StreamSt.wait (hv.stream n)).trans hw) hp) ..
      _ = min (u.fld ⟨.cupSout, c, i⟩ 29 14 + 1) 65535 := u.fld_countUp _ (by decide)
      _ = min (s.fld ⟨.cupSout, c, i⟩ 29 14 + 1) 65535 := by rw [hv.fld (by simp)]
  case prepareRelease =>
    intro s m set n ha hgo hh hn ht hp hs
    obtain ⟨u, hv, hrun⟩ := State.rsvCommand_runs ha hgo hh (by decide : 3 < 6) set
    rw [hv.rsvRun_prepareRelease hn ht hp hs] at hrun
    refine ⟨_, hrun, ?_, fun n' hne => ?_,
      hv.reported_streams (u.movesStreams_modStream n _) rfl _⟩
    · rw [State.stream_reported, State.stream_modStream_self, hv.stream]
    · rw [State.stream_reported, State.stream_modStream_ne _ hne, hv.stream]
  case busy =>
    intro s m set ha hgo i hi
    have hbusy (op : Nat) := State.rsvCommand_busy ha hgo op set
    simp only [List.mem_cons, List.not_mem_nil, or_false] at hi
    rcases hi with rfl | rfl | rfl | rfl | rfl | rfl
    exacts [hbusy 0, hbusy 1, hbusy 2, hbusy 3, hbusy 4, hbusy 5]
  case apply =>
    intro s m set ha hgo hh hs
    obtain ⟨u, hv, hrun⟩ := State.rsvCommand_runs ha hgo hh (by decide : 4 < 6) set
    obtain ⟨hmoves, hcups⟩ := State.foldl_modStream_rest _ (u.setMembers set.val) u
    rw [hv.rsvRun_apply hs] at hrun
    have hstream (n : Nat) := u.stream_applySwap set.val n
    simp only [hv.setMembers, hv.stream] at hstream
    refine ⟨_, hrun, fun n p hp hset => ?_, fun n hn => (hstream n).trans (if_neg hn), hv.reported_streams hmoves hcups 0⟩
    exact (hstream n).trans ((if_pos (State.mem_setMembers hp hset)).trans (by rw [hp]; rfl))
  case discard =>
    intro s m set ha hgo hh hs
    obtain ⟨u, hv, hrun⟩ := State.rsvCommand_runs ha hgo hh (by decide : 5 < 6) set
    obtain ⟨hmoves, hcups⟩ := State.foldl_modStream_rest _ (u.setMembers set.val) u
    rw [hv.rsvRun_discard hs] at hrun
    have hstream (n : Nat) := u.stream_discardSwap set.val n
    simp only [hv.setMembers, hv.stream] at hstream
    exact ⟨_, hrun, fun n p hp hset => (hstream n).trans (if_pos (State.mem_setMembers hp hset)),
      fun n hn => (hstream n).trans (if_neg hn), hv.reported_streams hmoves hcups 0⟩
  case switch =>
    intro s n p hs hp happ hw
    exact ⟨_, exec_streamTreeSwitch hs hp happ hw, State.sourceSop_spec hp happ⟩
  case early => exact fun s n hw => exec_streamTreeSwitch_waits hw
  case sending =>
    intro s n w rest tr hw hgone ht hk hp hbe
    exact State.streamFlow_slotted hw (if_neg hgone) ht hk hp hbe
  case switched =>
    intro s n w rest p tr hw hgone hp happ htr hk hport hbe
    obtain ⟨hplain, -, hmoves, -⟩ := s.setTree_spec n p.tree
    have htree : ((s.setTree n p.tree).stream n).tree = p.tree := StreamSt.tree_of_plain hplain
    rw [State.streamFlow_slotted hw ((if_pos hgone).trans (State.switchTree_applied hp happ)) (htree.trans htr) hk hport hbe]
    exact ⟨htree.trans htr, StreamSt.prep_of_plain hplain, (StreamSt.wait_of_plain hplain).trans hw, hmoves.regs⟩
  case flit =>
    intro s n w rest tr hw hc
    refine ⟨fun hmore => ?_, fun hlast hraw => ?_, State.srcSop_leaveFlit hw hc⟩
    · rw [State.leaveFlit_more hw hc hmore, State.stream_modStream_self, s.sopOut_rest]
      exact ⟨rfl, rfl⟩
    · rw [State.leaveFlit_last hw hc hlast hraw]
      have hwait := congrArg StreamSt.wait ((s.sopOut n w).stream_modStream_self n fun x => { x with wait := rest })
      refine ⟨hwait, ?_⟩
      rw [State.packetOut, s.sopOut_rest]
      rfl

end Sys2Proof.Machine
end

section
/-! PROOF. Device time: the writes that make a change due, the second boundary that applies it, the servo and its source's
silence, and the PPS pins (R172 to R178, R191). -/

namespace Sys2Proof.Machine

variable {s : State} {m : Nat} {v : Word}

/-! ### ADJ limited (R191) -/

theorem ofNat_toUnsigned (w : Nat) (z : Int) : BitVec.ofNat w (toUnsigned w z) = BitVec.ofInt w z := by
  apply BitVec.eq_of_toNat_eq
  rw [BitVec.toNat_ofInt, BitVec.toNat_ofNat, toUnsigned]
  have hpos : (0 : Int) < (2 ^ w : Nat) := by exact_mod_cast Nat.two_pow_pos w
  have hlt := Int.emod_lt_of_pos z hpos
  have hnn := Int.emod_nonneg z hpos.ne'
  exact Nat.mod_eq_of_lt (by omega)

/-! ### Writes (R173 to R175) -/

theorem exec_timeAdjWrite (ha : s.accepts m ⟨.timeAdj, 0, 0⟩) :
    exec (.timeAdjWrite m v) s = .next ((s.writeAdj v).answer m .ok) := writeCommand_accepts ha v _

theorem exec_timeStep (ha : s.accepts m ⟨.timeStep, 0, 0⟩) :
    exec (.timeStep m v) s = .next ((s.writeStep v).answer m .ok) := writeCommand_accepts ha v _

theorem exec_timeSet (ha : s.accepts m ⟨.timeSetSecHi, 0, 0⟩) :
    exec (.timeSet m v) s = .next ((s.writeSet v).answer m .ok) := writeCommand_accepts ha v _

/-- What the three registers of a set hold once the last of them is written. -/
theorem State.set_plainWrite (s : State) (v : Word) :
    (s.plainWrite ⟨.timeSetSecHi, 0, 0⟩ v).reg ⟨.timeSetNs, 0, 0⟩ = s.reg ⟨.timeSetNs, 0, 0⟩ ∧
      (s.plainWrite ⟨.timeSetSecHi, 0, 0⟩ v).reg ⟨.timeSetSecLo, 0, 0⟩ = s.reg ⟨.timeSetSecLo, 0, 0⟩ ∧
      (s.plainWrite ⟨.timeSetSecHi, 0, 0⟩ v).fld ⟨.timeSetSecHi, 0, 0⟩ 15 0 = bits v 15 0 := by
  refine ⟨s.reg_setReg_ne _ (by simp), s.reg_setReg_ne _ (by simp), ?_⟩
  rw [State.fld, State.reg_plainWrite, if_pos rfl]
  exact (bits_mergeWrite_rw (n := .timeSetSecHi) (f := rwF 15 0) (List.mem_singleton_self _) rfl _ v).trans (if_pos rfl)

/-! ### What an event leaves of device time -/

/-- Device time without what a BLOCK reset of TICK discards (R177, R466). -/
def TimeSt.lasting (x : TimeSt) : TimeSt := { x with pendStep := none, pendSet := none, servoGood := 0, everLocked := false }

/-- A part of the state that both branches leave. -/
theorem get_ite {α : Type} (get : State → α) {x : α} {t u : State} {c : Prop} [Decidable c] (ht : get t = x) (hu : get u = x) :
    get (if c then t else u) = x := by
  split <;> assumption

theorem State.time_denyTray (s : State) (m tag : Nat) : (s.denyTray m tag).time = s.time := by
  unfold State.denyTray State.denyIn State.respond
  repeat' split
  all_goals rfl

theorem State.time_colForget (s : State) (n : Nat) : (s.colForget n).time = s.time := by
  rw [State.colForget]
  exact foldl_keeps (get := State.time) (step := fun (s : State) (e : Nat × Nat × Option (List Byte)) => s.denyTray e.1 e.2.1)
    (fun s _ _ => s.time_denyTray _ _) _

theorem State.time_lanePort (s : State) (l : Nat) : (s.lanePort l).time = s.time := by
  unfold State.lanePort
  split <;> rfl

theorem State.time_portForget (s : State) (q : Nat) : (s.portForget q).time = s.time := by
  rw [State.portForget]
  simp only [State.setQueue_time, State.modQuad_time]
  exact foldl_keeps (get := State.time) (step := fun (s : State) j => s.lanePort (4 * q + j)) (fun s _ _ => s.time_lanePort _) s

theorem State.time_coreForget (s : State) (t : Nat) : (s.coreForget t).time = s.time := by
  unfold State.coreForget
  exact get_ite State.time rfl rfl

theorem State.lasting_blockStore (s : State) (n : Nat) : (s.blockStore n).time.lasting = s.time.lasting := by
  unfold State.blockStore
  repeat' with_reducible apply get_ite fun s : State => s.time.lasting
  all_goals first
    | with_reducible exact congrArg TimeSt.lasting (s.time_colForget _)
    | with_reducible exact congrArg TimeSt.lasting (s.time_portForget _)
    | with_reducible exact congrArg TimeSt.lasting (s.time_coreForget _)
    | rfl

theorem State.lasting_blockReset (s : State) (n : Nat) : (s.blockReset n).time.lasting = s.time.lasting := by
  have hstore (u : State) : ((u.blockRegs (blockResets n)).blockStore n).time.lasting = u.time.lasting :=
    State.lasting_blockStore _ _
  unfold State.blockReset
  dsimp only
  split <;> split <;> exact hstore _

/-- An event leaves device time, its ADJ and its stamps, whatever its reaction. -/
theorem State.lasting_raiseEvent (s : State) (n kind : Nat) (doms : List Nat) (bytes : List Byte) (own : Option Nat) :
    (s.raiseEvent n kind doms bytes own).time.lasting = s.time.lasting :=
  EventFrame.field (fun s => s.time.lasting) n (fun _ _ h => by rw [h.rest]) (fun u => u.lasting_blockReset n)
    (raiseEvent_frame s n kind doms bytes own)

/-! ### The second boundary (R174, R175) -/

/-- Device time set or stepped at a boundary, with its event. -/
def State.shifted (s : State) : State :=
  match s.time.pendSet, s.time.pendStep with
  | some (sec, ns), _ =>
    (({ s with time := { s.time with acc := (sec * 1000000000 + ns) * 2 ^ 32 } }).setFlag ⟨.timeStat, 0, 0⟩ 0 true).stepped
  | none, some z => ({ s with time := { s.time with acc := ((s.time.acc : Int) + z * 2 ^ 32).toNat } }).stepped
  | none, none => s

/-- Nothing is due any more, the pending ADJ is in force, and the second has been met. -/
def State.secondDone (s : State) (adj : Int) : State :=
  let s := { s with time := { s.time with adj, pendSet := none, pendStep := none, pendAdj := none } }
  { s with time := { s.time with secDone := s.devSec } }

theorem State.applySecond_eq (s : State) :
    s.applySecond = s.shifted.secondDone (s.time.pendAdj.getD s.time.adj) ∨
      s.applySecond = (s.shifted.secondDone (s.time.pendAdj.getD s.time.adj)).latchMap := by
  unfold State.applySecond State.shifted State.secondDone
  dsimp only
  cases s.time.pendSet <;> cases s.time.pendStep <;> cases s.time.pendAdj <;> simp

theorem State.acc_stepped (s : State) : s.stepped.time.acc = s.time.acc :=
  (congrArg TimeSt.acc (s.setFlag ⟨.timeStat, 0, 0⟩ 3 true |>.lasting_raiseEvent 0x030 0 [0x01] [] none) :)

theorem State.acc_stepped_to (s : State) (a : Nat) : ({ s with time := { s.time with acc := a } }).stepped.time.acc = a :=
  State.acc_stepped _

theorem State.acc_stepped_valid (s : State) (a : Nat) :
    (({ s with time := { s.time with acc := a } }).setFlag ⟨.timeStat, 0, 0⟩ 0 true).stepped.time.acc = a :=
  State.acc_stepped _

theorem State.hbm_stepped (s : State) : s.stepped.hbm = s.hbm := State.raiseEvent_hbm ..

theorem State.hbm_shifted (s : State) : s.shifted.hbm = s.hbm := by
  unfold State.shifted
  split
  · rw [State.hbm_stepped, State.setFlag_hbm]
  · rw [State.hbm_stepped]
  · rfl

/-- Device time after a set or a step. -/
theorem State.acc_shifted (s : State) :
    (∀ sec ns, s.time.pendSet = some (sec, ns) → s.shifted.time.acc = (sec * 1000000000 + ns) * 2 ^ 32) ∧
      (∀ z, s.time.pendSet = none → s.time.pendStep = some z →
        s.shifted.time.acc = ((s.time.acc : Int) + z * 2 ^ 32).toNat) ∧
      (s.time.pendSet = none → s.time.pendStep = none → s.shifted.time.acc = s.time.acc) := by
  unfold State.shifted
  split
  next sec ns hset =>
    refine ⟨fun sec' ns' h => ?_, fun z h => ?_, fun h => ?_⟩
    · obtain ⟨rfl, rfl⟩ : sec = sec' ∧ ns = ns' := by simpa [hset] using h
      exact s.acc_stepped_valid _
    · simp [hset] at h
    · simp [hset] at h
  next z hset hstep =>
    refine ⟨fun sec ns h => ?_, fun z' _ h => ?_, fun _ h => ?_⟩
    · simp [hset] at h
    · obtain rfl : z = z' := by simpa [hstep] using h
      exact s.acc_stepped_to _
    · simp [hstep] at h
  next hset hstep =>
    refine ⟨fun sec ns h => ?_, fun z _ h => ?_, fun _ _ => rfl⟩
    · simp [hset] at h
    · simp [hstep] at h

theorem State.latchMap_rest (s : State) : s.latchMap.time = s.time ∧ s.latchMap.hbm = s.hbm := by
  unfold State.latchMap
  dsimp only
  constructor
  · rw [State.setReg_time, State.setReg_time, State.setPair_time, State.setPair_time]
  · rw [State.setReg_hbm, State.setReg_hbm, State.setPair_hbm, State.setPair_hbm]

/-- PPS_OUT rises or does not: device time and HBM stand. -/
theorem State.ppsRise_keeps (s old : State) :
    ∃ f, (s.ppsRise old).time = { s.time with ppsFallAt := f } ∧ (s.ppsRise old).hbm = s.hbm := by
  unfold State.ppsRise
  split
  · exact ⟨_, rfl, rfl⟩
  · exact ⟨s.time.ppsFallAt, rfl, rfl⟩

/-- A boundary leaves device time as a set or a step moved it, the pending ADJ in force and nothing due. -/
theorem State.second_spec (s : State) :
    let t := s.applySecond.ppsRise s
    t.time.adj = s.time.pendAdj.getD s.time.adj ∧ t.time.pendAdj = none ∧ t.time.pendStep = none ∧ t.time.pendSet = none ∧
      t.time.acc = s.shifted.time.acc ∧ t.hbm = s.hbm := by
  intro t
  obtain ⟨f, htime, hhbm⟩ := s.applySecond.ppsRise_keeps s
  have hdone : s.applySecond.time = (s.shifted.secondDone (s.time.pendAdj.getD s.time.adj)).time ∧
      s.applySecond.hbm = s.shifted.hbm := by
    obtain h | h := s.applySecond_eq
    · rw [h]
      exact ⟨rfl, rfl⟩
    · rw [h, (State.latchMap_rest _).1, (State.latchMap_rest _).2]
      exact ⟨rfl, rfl⟩
  rw [show t.time = _ from htime, show t.hbm = _ from hhbm, hdone.1, hdone.2, s.hbm_shifted]
  exact ⟨rfl, rfl, rfl, rfl, rfl, rfl⟩

theorem exec_timeSecondBoundary (hl : s.live = true) (hd : s.time.secDone < s.devSec) :
    exec .timeSecondBoundary s = .next (s.applySecond.ppsRise s) := by
  change execTimeSecondBoundary s = _
  rw [execTimeSecondBoundary, whenLive_live hl, if_pos hd]

/-! ### The servo (R173, R176) -/

theorem exec_servoUpdate {offset adj : Int} (hl : s.live = true) (hsrc : s.timeSrc = 1 ∨ s.timeSrc = 2) :
    exec (.servoUpdate offset adj) s = .next (s.servo offset adj) := by
  change execServoUpdate offset adj s = _
  rw [execServoUpdate, whenLive_live hl, if_pos hsrc]

/-- An update's part before LOCKED and VALID: the new ADJ, the count of good updates and a first step. -/
def State.measured (s : State) (offset adj : Int) : State :=
  let good := if offset.natAbs ≤ 50 then s.time.servoGood + 1 else 0
  { (s.setReg ⟨.timeAdj, 0, 0⟩ (BitVec.ofNat 32 (toUnsigned 32 (clampAdj adj)))).setFlag ⟨.timeStat, 0, 0⟩ 2 false with
    time := { s.time with
      pendAdj := some (clampAdj adj), servoGood := good, lastUpdate := s.tick
      pendStep := if !s.time.everLocked && decide (1000000 < offset.natAbs) then some (-offset) else s.time.pendStep
      everLocked := s.time.everLocked || decide (16 ≤ good) } }

/-- LOCKED and VALID rise with the sixteenth good update in a row, LOCKED falls with an offset above 1 µs, and else both stand. -/
theorem State.servo_eq (s : State) (offset adj : Int) :
    s.servo offset adj =
      if 16 ≤ (if offset.natAbs ≤ 50 then s.time.servoGood + 1 else 0) then
        ((s.measured offset adj).setFlag ⟨.timeStat, 0, 0⟩ 1 true).setFlag ⟨.timeStat, 0, 0⟩ 0 true
      else if 1000 < offset.natAbs then (s.measured offset adj).setFlag ⟨.timeStat, 0, 0⟩ 1 false
      else s.measured offset adj := rfl

/-- An update that leaves the registers beside those of a list still does so after a write of one of these. -/
theorem State.keepsRegs.setReg {s t : State} {ks : List RegKey} (h : s.keepsRegs t ks) {k : RegKey} (hk : k ∈ ks) (w : Word) :
    s.keepsRegs (t.setReg k w) ks := fun j hj =>
  (t.reg_setReg_ne w fun e => hj (by rwa [e])).trans (h j hj)

/-- From s to t the servo has written TIME_ADJ and TIME_STAT, and its own record. -/
structure ServoFrame (s t : State) : Prop where
  regs : s.keepsRegs t [⟨.timeAdj, 0, 0⟩, ⟨.timeStat, 0, 0⟩]
  rest : t = { s with regs := t.regs, time := t.time }

theorem ServoFrame.setStat {s t : State} (h : ServoFrame s t) (i : Nat) (b : Bool) :
    ServoFrame s (t.setFlag ⟨.timeStat, 0, 0⟩ i b) where
  regs := h.regs.setReg (by simp) _
  rest := by
    have hrest := h.rest
    generalize t.time = x at hrest
    generalize t.regs = l at hrest
    subst hrest
    rfl

theorem State.servoFrame_measured (s : State) (offset adj : Int) : ServoFrame s (s.measured offset adj) where
  regs := State.keepsRegs.setReg (k := ⟨.timeStat, 0, 0⟩)
    (State.keepsRegs.setReg (k := ⟨.timeAdj, 0, 0⟩) (fun _ _ => rfl) (by simp) _) (by simp) _
  rest := rfl

/-- An update writes TIME_ADJ and TIME_STAT, and what the servo remembers. -/
theorem State.servo_spec (s : State) (offset adj : Int) :
    (s.servo offset adj).time = (s.measured offset adj).time ∧ ServoFrame s (s.servo offset adj) := by
  have hframe := s.servoFrame_measured offset adj
  rw [s.servo_eq]
  generalize s.measured offset adj = u at hframe
  generalize (if offset.natAbs ≤ 50 then s.time.servoGood + 1 else 0) = good
  by_cases hgood : 16 ≤ good
  · rw [if_pos hgood]
    exact ⟨rfl, (hframe.setStat ..).setStat ..⟩
  · rw [if_neg hgood]
    by_cases hoff : 1000 < offset.natAbs
    · rw [if_pos hoff]
      exact ⟨rfl, hframe.setStat ..⟩
    · rw [if_neg hoff]
      exact ⟨rfl, hframe⟩

theorem State.servo_locks {offset : Int} (adj : Int) (hgood : 15 ≤ s.time.servoGood) (hoff : offset.natAbs ≤ 50) :
    (s.servo offset adj).flag ⟨.timeStat, 0, 0⟩ 1 = true ∧ (s.servo offset adj).flag ⟨.timeStat, 0, 0⟩ 0 = true ∧
      (s.servo offset adj).time.everLocked = true := by
  have h16 : 16 ≤ (if offset.natAbs ≤ 50 then s.time.servoGood + 1 else 0) := by rw [if_pos hoff]; omega
  rw [s.servo_eq, if_pos h16]
  refine ⟨?_, State.flag_setFlag_self _ _ _ _ (by decide), ?_⟩
  · rw [State.flag, State.reg_setFlag, if_pos rfl, bit_putBits_ne _ _ _ _ _ (by omega)]
    exact State.flag_setFlag_self _ _ _ _ (by decide)
  · change (s.time.everLocked || decide (16 ≤ (if offset.natAbs ≤ 50 then s.time.servoGood + 1 else 0))) = true
    rw [decide_eq_true h16, Bool.or_true]

/-! ### The statement -/

/-- Settles O10: each write, update and boundary is one change of device time's record and of its registers. -/
theorem deviceTimeFollowsWritesAndItsSource : Obligations.DeviceTimeFollowsWritesAndItsSource := by
  unfold Obligations.DeviceTimeFollowsWritesAndItsSource
  refine ⟨?adj, ?adjIgnored, ?step, ?stepIgnored, ?set, ?setIgnored, ?second, ?servo, ?holdover, ?fall⟩
  case adj =>
    intro s m v ha hsrc
    refine ⟨_, exec_timeAdjWrite ha, ?_⟩
    rw [State.writeAdj, if_pos hsrc]
    exact ⟨rfl, (s.reg_setReg_self _ _).trans (ofNat_toUnsigned 32 _), State.keepsRegs_of_setReg rfl⟩
  case adjIgnored =>
    intro s m v ha hsrc
    rw [exec_timeAdjWrite ha, State.writeAdj, if_neg (by omega)]
    rfl
  case step =>
    intro s m v ha hsrc
    rw [exec_timeStep ha, State.writeStep, if_pos hsrc]
    rfl
  case stepIgnored =>
    intro s m v ha hsrc
    rw [exec_timeStep ha, State.writeStep, if_neg hsrc]
    rfl
  case set =>
    intro s m v ha hns
    obtain ⟨hnsReg, hloReg, hhiFld⟩ := s.set_plainWrite v
    refine ⟨_, exec_timeSet ha, ?_⟩
    rw [State.writeSet, hnsReg, hloReg, hhiFld, if_pos hns]
    exact ⟨rfl, State.keepsRegs_of_setReg rfl⟩
  case setIgnored =>
    intro s m v ha hns
    refine ⟨_, exec_timeSet ha, ?_⟩
    rw [State.writeSet, (s.set_plainWrite v).1, if_neg (by omega)]
    exact ⟨rfl, State.keepsRegs_of_setReg rfl⟩
  case second =>
    intro s hl hd
    obtain ⟨hadj, hpa, hps, hpset, hacc, hhbm⟩ := s.second_spec
    obtain ⟨hset, hstep, hstay⟩ := s.acc_shifted
    exact ⟨_, exec_timeSecondBoundary hl hd, hadj, hpa, hps, hpset, fun sec ns h => hacc.trans (hset sec ns h),
      fun z h hz => hacc.trans (hstep z h hz), fun h hz => hacc.trans (hstay h hz), State.keepsHbm_of_eq hhbm⟩
  case servo =>
    intro s offset adj hl hsrc
    obtain ⟨htime, hframe⟩ := s.servo_spec offset adj
    refine ⟨_, exec_servoUpdate hl hsrc, ?_, ?_, fun hnew hoff => ?_, fun hold => ?_, State.servo_locks adj, hframe.rest, hframe.regs⟩
    · exact congrArg TimeSt.pendAdj htime
    · exact congrArg TimeSt.lastUpdate htime
    · rw [htime]
      exact if_pos (by simp [hnew, hoff])
    · rw [htime]
      exact if_neg (by simp [hold])
  case holdover =>
    intro s hl hsrc hsilent hoff
    change execHoldover s = _
    rw [execHoldover, whenLive_live hl, if_pos ⟨hsrc, hsilent, hoff⟩]
  case fall =>
    intro s hl hout hfall
    change execPpsOutFall s = _
    rw [execPpsOutFall, whenLive_live hl, if_pos ⟨hout, hfall⟩]

/-! ### PPS input edges (R178) -/

theorem exec_ppsInEdge_stamped {frac : Fin 8} (hl : s.live = true) (hen : s.flag ⟨.ppsCfg, 0, 0⟩ 1 = true)
    (hfar : s.time.ppsStamped = false ∨ s.ppsLast + 1000000000 ≤ 8 * s.tick + frac.val) :
    exec (.ppsInEdge frac) s = .next (s.stampPps frac.val) := by
  change execPpsInEdge frac s = _
  rw [execPpsInEdge, whenLive_live hl, if_pos ⟨hen, hfar⟩]

theorem exec_ppsInEdge_ignored {frac : Fin 8}
    (h : ¬(s.flag ⟨.ppsCfg, 0, 0⟩ 1 = true ∧
      (s.time.ppsStamped = false ∨ s.ppsLast + 1000000000 ≤ 8 * s.tick + frac.val))) :
    exec (.ppsInEdge frac) s = .next s := by
  change execPpsInEdge frac s = _
  rw [execPpsInEdge, State.whenLive, if_neg h, ite_self]

/-- The two words of a 64-bit number spell it again, cut to 64 bits. -/
theorem pairNat_loWord_hiWord (n : Nat) : pairNat (loWord n) (hiWord n) = n % 2 ^ 64 := by
  rw [pairNat, loWord, hiWord, BitVec.toNat_ofNat, BitVec.toNat_ofNat]
  omega

theorem State.pair_setPair (s : State) {lo hi : RegKey} (h : lo ≠ hi) (n : Nat) : (s.setPair lo hi n).pair lo hi = n % 2 ^ 64 := by
  rw [State.pair, State.setPair, State.reg_setReg_ne _ _ h, State.reg_setReg_self, State.reg_setReg_self,
    pairNat_loWord_hiWord]

theorem State.keepsRegs_setPair (s : State) (lo hi : RegKey) (n : Nat) : s.keepsRegs (s.setPair lo hi n) [lo, hi] :=
  State.keepsRegs.setReg (State.keepsRegs.setReg (t := s) (fun _ _ => rfl) (by simp) _) (by simp) _

theorem State.stampPps_spec (s : State) (frac : Fin 8) :
    (s.stampPps frac.val).pair ⟨.ppsInStamp, 0, 0⟩ ⟨.ppsInStampHi, 0, 0⟩ = s.tick % 2 ^ 64 ∧
      (s.stampPps frac.val).reg ⟨.ppsInFrac, 0, 0⟩ = BitVec.ofNat 32 frac.val ∧
      s.keepsRegs (s.stampPps frac.val) [⟨.ppsInStamp, 0, 0⟩, ⟨.ppsInStampHi, 0, 0⟩, ⟨.ppsInFrac, 0, 0⟩] := by
  refine ⟨?_, ?_, fun k hk => ?_⟩
  · rw [← s.pair_setPair (lo := ⟨.ppsInStamp, 0, 0⟩) (hi := ⟨.ppsInStampHi, 0, 0⟩) (by simp)]
    exact congrArg₂ pairNat (State.reg_setReg_ne _ _ (by simp)) (State.reg_setReg_ne _ _ (by simp))
  · exact (State.reg_setReg_self _ _ _).trans (by rw [Nat.mod_eq_of_lt frac.isLt])
  · exact (State.reg_setReg_ne _ _ (by simp_all)).trans (s.keepsRegs_setPair _ _ s.tick k (by simp_all))

theorem State.stampPps_rest (s : State) (frac : Nat) :
    ∃ R, s.stampPps frac = { s with regs := R, time := { s.time with ppsStamped := true } } := by
  unfold State.stampPps State.setPair State.setReg
  exact ⟨_, rfl⟩

/-- Settles O11: an edge is stamped where IN_EN is set and no stamped edge lies less than 0.5 s back, and else ignored. -/
theorem ppsEdgesAreStamped : Obligations.PpsEdgesAreStamped := by
  unfold Obligations.PpsEdgesAreStamped
  refine ⟨fun s frac hl hen hfar => ?_, fun s frac hl hen hst hnear => ?_, fun s frac hen => ?_⟩
  · obtain ⟨hpair, hfrac, hregs⟩ := s.stampPps_spec frac
    refine ⟨_, exec_ppsInEdge_stamped hl hen hfar, ?_, hpair, hfrac, hregs⟩
    obtain ⟨R, hrest⟩ := s.stampPps_rest frac
    rw [hrest]
  · refine exec_ppsInEdge_ignored ?_
    rintro ⟨-, hfirst | hfar⟩
    · simp [hst] at hfirst
    · exact absurd hnear (Nat.not_lt.mpr hfar)
  · exact exec_ppsInEdge_ignored (by simp [hen])

end Sys2Proof.Machine
end

section
/-! PROOF. The switch-point table: what a mark of entries leaves, entries staged and freed, and groups armed and cancelled
(R181 to R187, R345, R346, R467). -/

namespace Sys2Proof.Machine

variable {s t u : State} {m e g : Nat} {v : Word}

/-! ### STATE and CAUSE of an entry (R181) -/

theorem State.reg_spMark_ne {k : RegKey} (hk : k ≠ ⟨.spCtl, e, 0⟩) (st cause : Nat) : (s.spMark e st cause).reg k = s.reg k :=
  s.reg_setReg_ne _ hk

theorem State.spState_spMark (s : State) (e st cause : Nat) : (s.spMark e st cause).spState e = st % 8 := by
  rw [State.spState, State.fld, State.spMark, State.reg_setFields, if_pos rfl]
  exact (bits_putBits_ne _ _ _ _ _ _ (by omega)).trans (bits_putBits_self _ _ _ _ (by omega))

theorem State.cause_spMark (s : State) (e st cause : Nat) : (s.spMark e st cause).fld ⟨.spCtl, e, 0⟩ 15 12 = cause % 16 := by
  rw [State.fld, State.spMark, State.reg_setFields, if_pos rfl]
  exact bits_putBits_self _ _ _ _ (by omega)

/-- Entries marked in a row with one STATE, each with its cause. -/
def State.spMarks (s : State) (l : List Nat) (st : Nat) (cause : Nat → Nat) : State :=
  l.foldl (fun (s : State) e => s.spMark e st (cause e)) s

theorem State.reg_spMarks_of_name {k : RegKey} (hk : k.name ≠ .spCtl) (s : State) (l : List Nat) (st : Nat) (cause : Nat → Nat) :
    (s.spMarks l st cause).reg k = s.reg k :=
  foldl_keeps (get := fun s : State => s.reg k) (fun s e _ => s.reg_spMark_ne (fun h => hk (by rw [h])) st (cause e)) s

theorem State.reg_spMarks_of_not_mem {l : List Nat} (he : e ∉ l) (s : State) (st : Nat) (cause : Nat → Nat) :
    (s.spMarks l st cause).reg ⟨.spCtl, e, 0⟩ = s.reg ⟨.spCtl, e, 0⟩ :=
  foldl_keeps (get := fun s : State => s.reg ⟨.spCtl, e, 0⟩)
    (fun s i hi => s.reg_spMark_ne (fun h => he (by cases h; exact hi)) st (cause i)) s

/-- Each entry of the row reads the STATE and its cause. -/
theorem State.spMarks_of_mem {l : List Nat} (he : e ∈ l) (s : State) (st : Nat) (cause : Nat → Nat) :
    (s.spMarks l st cause).spState e = st % 8 ∧ (s.spMarks l st cause).fld ⟨.spCtl, e, 0⟩ 15 12 = cause e % 16 := by
  have hother (get : Word → Nat) (s : State) (i : Nat) (hi : i ≠ e) :
      get ((s.spMark i st (cause i)).reg ⟨.spCtl, e, 0⟩) = get (s.reg ⟨.spCtl, e, 0⟩) :=
    congrArg get (s.reg_spMark_ne (fun h => hi (by cases h; rfl)) _ _)
  constructor
  · refine foldl_gives (get := fun s : State => s.spState e) (step := fun s e => s.spMark e st (cause e))
      (fun s i _ => ?_) he (fun s => s.spState_spMark e st _) s
    by_cases hi : i = e
    · exact .inl (hi ▸ s.spState_spMark i st _)
    · exact .inr (hother (bits · 31 29) s i hi)
  · refine foldl_gives (get := fun s : State => s.fld ⟨.spCtl, e, 0⟩ 15 12) (step := fun s e => s.spMark e st (cause e))
      (fun s i _ => ?_) he (fun s => s.cause_spMark e st _) s
    by_cases hi : i = e
    · exact .inl (hi ▸ s.cause_spMark i st _)
    · exact .inr (hother (bits · 15 12) s i hi)

theorem State.spMarks_rest (s : State) (l : List Nat) (st : Nat) (cause : Nat → Nat) :
    s.spMarks l st cause = { s with regs := (s.spMarks l st cause).regs } := by
  rw [State.spMarks]
  induction l generalizing s with
  | nil => rfl
  | cons e l ih =>
    rw [List.foldl_cons]
    exact (ih _).trans rfl

/-! ### Staging (R181) -/

theorem exec_spStage (ha : s.accepts m ⟨.spCtl, s.spSel, 0⟩) :
    exec (.spStage m v) s = .next ((s.writeSpCtl s.spSel v).answer m .ok) := writeCommand_accepts ha v _

theorem exec_spFree (ha : s.accepts m ⟨.spCtl, s.spSel, 0⟩) :
    exec (.spFree m v) s = .next ((s.writeSpCtl s.spSel (putBits v 3 0 0)).answer m .ok) := writeCommand_accepts ha _ _

/-- An ARMED or FINAL entry ignores the write. -/
theorem State.writeSpCtl_shut (h : s.spState e = 2 ∨ s.spState e = 3) (v : Word) : s.writeSpCtl e v = s := by
  have hopen : s.spOpen e = false := by
    rw [State.spOpen]
    obtain h | h := h <;> rw [h] <;> rfl
  rw [State.writeSpCtl, hopen]
  rfl

theorem State.writeSpCtl_stages (hopen : s.spOpen e = true) (h1 : 1 ≤ bits v 3 0) (h4 : bits v 3 0 ≤ 4) :
    s.writeSpCtl e v =
      { (s.plainWrite ⟨.spCtl, e, 0⟩ v).spMark e 1 0 with
        spEnts := nset s.spEnts e ((s.plainWrite ⟨.spCtl, e, 0⟩ v).spNow e), spLocal := erase s.spLocal e } := by
  rw [State.writeSpCtl, if_pos hopen]
  dsimp only
  rw [if_neg (by omega), if_pos h4]
  rfl

theorem State.writeSpCtl_frees (hopen : s.spOpen e = true) (h0 : bits v 3 0 = 0) :
    s.writeSpCtl e v =
      { (s.plainWrite ⟨.spCtl, e, 0⟩ v).spMark e 0 0 with spEnts := erase s.spEnts e, spLocal := erase s.spLocal e } := by
  rw [State.writeSpCtl, if_pos hopen]
  dsimp only
  rw [if_pos h0]
  rfl

/-- The values that a write of SP_CTL stages: its own fields, and what the entry's other registers hold. -/
theorem State.spNow_plainWrite (s : State) (e : Nat) {v : Word} (h4 : bits v 3 0 ≤ 4) :
    (s.plainWrite ⟨.spCtl, e, 0⟩ v).spNow e =
      { exec := s.pair ⟨.spTickLo, e, 0⟩ ⟨.spTickHi, e, 0⟩, casc := bit v 28, hold := bit v 27,
        group := bits v 23 16, action := bits v 3 0, args := (List.range 6).map fun i => s.reg ⟨.spArg, e, i⟩ } := by
  have hother {k : RegKey} (hk : k ≠ ⟨.spCtl, e, 0⟩) : (s.plainWrite ⟨.spCtl, e, 0⟩ v).reg k = s.reg k :=
    s.reg_setReg_ne _ hk
  have hself : (s.plainWrite ⟨.spCtl, e, 0⟩ v).reg ⟨.spCtl, e, 0⟩ = mergeWrite .spCtl (s.reg ⟨.spCtl, e, 0⟩) v :=
    s.reg_setReg_self ⟨.spCtl, e, 0⟩ _
  have hfield {hi lo : Nat} (h : rwF hi lo ∈ [rwF 28 28, rwF 27 27, rwF 23 16]) :
      bits (mergeWrite .spCtl (s.reg ⟨.spCtl, e, 0⟩) v) hi lo = bits v hi lo :=
    (bits_mergeWrite_rw (n := .spCtl) (List.mem_append_left [rwOk 3 0 (inRange 0 4)] h) rfl _ v).trans (if_pos rfl)
  have haction : bits (mergeWrite .spCtl (s.reg ⟨.spCtl, e, 0⟩) v) 3 0 = bits v 3 0 :=
    (bits_mergeWrite_rw (n := .spCtl) (f := rwOk 3 0 (inRange 0 4))
      (List.mem_append_right [rwF 28 28, rwF 27 27, rwF 23 16] (List.mem_singleton_self _))
      rfl _ v).trans (if_pos (decide_eq_true ⟨Nat.zero_le _, h4⟩))
  have hargs : ((List.range 6).map fun i => (s.plainWrite ⟨.spCtl, e, 0⟩ v).reg ⟨.spArg, e, i⟩) =
      (List.range 6).map fun i => s.reg ⟨.spArg, e, i⟩ := by
    refine List.map_congr_left fun i _ => hother (by simp)
  have hpair : (s.plainWrite ⟨.spCtl, e, 0⟩ v).pair ⟨.spTickLo, e, 0⟩ ⟨.spTickHi, e, 0⟩ =
      s.pair ⟨.spTickLo, e, 0⟩ ⟨.spTickHi, e, 0⟩ := by
    rw [State.pair, hother (by simp), hother (by simp)]
    rfl
  rw [State.spNow, hargs, hpair, hself, haction, hfield (by simp), bit_eq_of_bits (hfield (hi := 28) (by simp)),
    bit_eq_of_bits (hfield (hi := 27) (by simp))]

/-! ### The command register (R467) -/

theorem spCmdWord_fields {op : Nat} (hop : op < 16) (g : Fin 256) :
    bit (spCmdWord op g) 31 = true ∧ bits (spCmdWord op g) 11 8 = op ∧ bits (spCmdWord op g) 7 0 = g.val := by
  simp only [spCmdWord, packBits, List.foldl]
  refine ⟨?_, ?_, ?_⟩
  · rw [bit_putBits_ne _ _ _ _ _ (by omega), bit_putBits_ne _ _ _ _ _ (by omega)]
    exact bit_putBits_self _ 31 true (by omega)
  · rw [bits_putBits_ne _ _ _ _ _ _ (by omega), bits_putBits_self _ _ _ _ (by omega)]
    exact Nat.mod_eq_of_lt hop
  · rw [bits_putBits_self _ _ _ _ (by omega)]
    exact Nat.mod_eq_of_lt g.isLt

/-- The table has stored a command's OP and group. -/
def State.spStored (s : State) (v : Word) : State := (s.plainWrite ⟨.spCmd, 0, 0⟩ v).setFlag ⟨.spCmd, 0, 0⟩ 31 false

/-- The table takes up a command that it names. -/
theorem State.writeSpCmd_takes {op : Nat} {g : Fin 256} (hgo : s.flag ⟨.spCmd, 0, 0⟩ 31 = false) (hop : op = 1 ∨ op = 2) :
    s.writeSpCmd (spCmdWord op g) =
      if op = 1 then ((s.spStored (spCmdWord op g)).armGroup g.val none).1
      else (s.spStored (spCmdWord op g)).spCancelCmd g.val := by
  obtain ⟨hbit, hfld, hgroup⟩ := spCmdWord_fields (op := op) (by omega) g
  have hnames : namesOp .spCmd (spCmdWord op g) = true := by
    change inRange 1 2 (bits (spCmdWord op g) 11 8) = true
    rw [hfld]
    obtain rfl | rfl := hop <;> rfl
  rw [State.writeSpCmd, State.goWrite, hgo, hbit, hnames, hfld, hgroup]
  rfl

theorem exec_arm {g : Fin 256} (ha : s.accepts m ⟨.spCmd, 0, 0⟩) :
    exec (.arm m g) s = .next ((s.writeSpCmd (spCmdWord 1 g)).answer m .ok) := writeCommand_accepts ha _ _

theorem exec_cancel {g : Fin 256} (ha : s.accepts m ⟨.spCmd, 0, 0⟩) :
    exec (.cancel m g) s = .next ((s.writeSpCmd (spCmdWord 2 g)).answer m .ok) := writeCommand_accepts ha _ _

theorem State.writeSpCmd_busy (hgo : s.flag ⟨.spCmd, 0, 0⟩ 31 = true) (v : Word) : s.writeSpCmd v = s := by
  rw [State.writeSpCmd, State.goWrite, if_pos hgo]

/-! ### What the table reads -/

/-- From s to t nothing has changed but SP_CMD, which the table reads no more. -/
structure SpView (s t : State) : Prop where
  reg : ∀ k, k ≠ ⟨.spCmd, 0, 0⟩ → t.reg k = s.reg k
  rest : t = { s with regs := t.regs }

theorem State.spView_spStored (s : State) (v : Word) : SpView s (s.spStored v) where
  reg k hk := by rw [State.spStored, State.reg_setFlag, if_neg hk, State.reg_plainWrite, if_neg hk]
  rest := rfl

section
variable (h : SpView s t)
include h

theorem SpView.spEnt : t.spEnt = s.spEnt := by rw [h.rest]; rfl

theorem SpView.root : t.root = s.root := by rw [h.rest]

theorem SpView.leases : t.leases = s.leases := by rw [h.rest]

theorem SpView.cup : t.cup = s.cup := by rw [h.rest]; rfl

theorem SpView.spState : t.spState = s.spState := by
  funext e
  rw [State.spState, State.fld, h.reg _ (by simp)]
  rfl

theorem SpView.spGroup (g : Nat) (p : Nat → Bool) : t.spGroup g p = s.spGroup g p := by
  simp only [State.spGroup, h.spState, h.spEnt]

theorem SpView.spArmedOf (g : Nat) : t.spArmedOf g = s.spArmedOf g := h.spGroup g _

theorem SpView.spArmed : t.spArmed = s.spArmed := by
  funext e
  simp only [State.spArmed, State.fld, h.reg ⟨.spCtl, e, 0⟩ (by simp)]

theorem SpView.spCasc (g : Nat) : t.spCasc g = s.spCasc g := by
  simp only [State.spCasc, h.spArmedOf, h.spEnt]

theorem SpView.inHold : t.inHold = s.inHold := by
  simp only [State.inHold, State.flag, h.reg ⟨.casStat, 0, 0⟩ (by simp)]

/-- The preconditions of an entry rest on cups, power, the leaf map, owners and leases. -/
theorem SpView.spCause : t.spCause = s.spCause := by
  have hgone (c : Nat) : t.cupGone c = s.cupGone c := by
    simp only [State.cupGone, State.fld, State.flag, h.reg ⟨.trayLmap, c / 4, 0⟩ (by simp)]
  have hdom (c : Nat) : t.cupDom c = s.cupDom c := by
    simp only [State.cupDom, State.fld, h.reg ⟨.cupOwner, c, 0⟩ (by simp)]
  have hdigest (c : Nat) : t.digest .cupSdig c = s.digest .cupSdig c := State.digest_congr fun j => h.reg _ (by simp)
  have hflip (c : Nat) (fin : Bool) : t.flipCause c fin = s.flipCause c fin := by
    simp only [State.flipCause, hgone, State.shadow, State.cupState, State.firm, State.grant, State.fld, State.flag, h.cup, hdigest,
      h.reg ⟨.cupLoadStat, c, 0⟩ (by simp), h.reg ⟨.cupState, c, 0⟩ (by simp), h.reg ⟨.urnCl, c, 0⟩ (by simp),
      h.reg ⟨.urnCls, c, 0⟩ (by simp)]
    rfl
  have hborder (x : SpEnt) : t.borderCause x = s.borderCause x := by
    simp only [State.borderCause, State.facesNone, State.sameDomAcross, hgone, hdom]
    rfl
  have hbars (action : Nat) : t.leaseBars action = s.leaseBars action := by
    funext c
    simp only [State.leaseBars, State.leased, h.leases]
  funext x others fin
  simp only [State.spCause, hflip, hborder, hbars, hgone]

theorem SpView.execTick : t.execTick = s.execTick := by
  funext x
  simp only [State.execTick, State.pair, h.reg ⟨.tickCascOfs, 0, 0⟩ (by simp), h.reg ⟨.tickCascOfsHi, 0, 0⟩ (by simp)]

theorem SpView.armChecks (l : List Nat) (others : List SpEnt) : t.armChecks l others = s.armChecks l others := by
  induction l generalizing others with
  | nil => rfl
  | cons e l ih => simp only [State.armChecks, h.spEnt, h.spCause, h.execTick, ih]

theorem SpView.armFault : t.armFault = s.armFault := by
  have hcasc : t.cascTick = s.cascTick := by
    simp only [State.cascTick, State.tick, State.pair, h.root, h.reg ⟨.tickCascOfs, 0, 0⟩ (by simp),
      h.reg ⟨.tickCascOfsHi, 0, 0⟩ (by simp)]
  funext staged want
  cases staged with
  | nil => rfl
  | cons e l =>
    simp only [State.armFault, h.spEnt, hcasc, State.tick, h.root, h.armChecks, h.spArmed]
    rfl

end

/-! ### SP_STAT (R191) -/

theorem State.fld_spStat (s : State) {st code : Nat} (hst : st < 4) (hcode : code < 16) (e : Nat) :
    (s.spStat st code e).fld ⟨.spStat, 0, 0⟩ 31 30 = st ∧ (s.spStat st code e).fld ⟨.spStat, 0, 0⟩ 27 24 = code := by
  simp only [State.fld, State.spStat, State.reg_setReg_self, packBits, List.foldl]
  constructor
  · rw [bits_putBits_ne _ _ _ _ _ _ (by omega), bits_putBits_ne _ _ _ _ _ _ (by omega), bits_putBits_self _ _ _ _ (by omega)]
    exact Nat.mod_eq_of_lt hst
  · rw [bits_putBits_ne _ _ _ _ _ _ (by omega), bits_putBits_self _ _ _ _ (by omega)]
    exact Nat.mod_eq_of_lt hcode

/-- The table after entries are marked, with SP_STAT telling of it. -/
structure Marked (s t : State) (l : List Nat) (st : Nat) (cause : Nat → Nat) (done code : Nat) : Prop where
  entries : ∀ e ∈ l, t.spState e = st % 8 ∧ t.fld ⟨.spCtl, e, 0⟩ 15 12 = cause e % 16
  stat : t.fld ⟨.spStat, 0, 0⟩ 31 30 = done ∧ t.fld ⟨.spStat, 0, 0⟩ 27 24 = code
  others : ∀ e, e ∉ l → t.reg ⟨.spCtl, e, 0⟩ = s.reg ⟨.spCtl, e, 0⟩
  regs : ∀ k, k.name ≠ .spCtl → k ≠ ⟨.spCmd, 0, 0⟩ → k ≠ ⟨.spStat, 0, 0⟩ → t.reg k = s.reg k

theorem State.marked_spStat (hv : ∀ k, k ≠ ⟨.spCmd, 0, 0⟩ → u.reg k = s.reg k) (l : List Nat) (st : Nat) (cause : Nat → Nat)
    {done code : Nat} (hdone : done < 4) (hcode : code < 16) (bad : Nat) :
    Marked s ((u.spMarks l st cause).spStat done code bad) l st cause done code := by
  have hctl (e : Nat) : ((u.spMarks l st cause).spStat done code bad).reg ⟨.spCtl, e, 0⟩ =
      (u.spMarks l st cause).reg ⟨.spCtl, e, 0⟩ := (u.spMarks l st cause).reg_setReg_ne _ (by simp)
  refine ⟨fun e he => ?_, (u.spMarks l st cause).fld_spStat hdone hcode bad, fun e he => ?_, fun k hname hcmd hk => ?_⟩
  · obtain ⟨hstate, hcause⟩ := u.spMarks_of_mem he st cause
    exact ⟨(congrArg (bits · 31 29) (hctl e)).trans hstate, (congrArg (bits · 15 12) (hctl e)).trans hcause⟩
  · exact (hctl e).trans ((u.reg_spMarks_of_not_mem he st cause).trans (hv _ (by simp)))
  · exact ((u.spMarks l st cause).reg_setReg_ne _ hk).trans ((u.reg_spMarks_of_name hname l st cause).trans (hv k hcmd))

/-- What reads the same registers is marked alike. -/
theorem Marked.congr {l : List Nat} {st done code : Nat} {cause : Nat → Nat} (h : Marked s t l st cause done code)
    (hu : u.regs = t.regs) : Marked s u l st cause done code where
  entries e he := by
    rw [State.spState, State.fld_congr hu, State.fld_congr hu]
    exact h.entries e he
  stat := by
    rw [State.fld_congr hu, State.fld_congr hu]
    exact h.stat
  others e he := (State.reg_congr hu _).trans (h.others e he)
  regs k hname hcmd hk := (State.reg_congr hu k).trans (h.regs k hname hcmd hk)

theorem State.spStat_spMarks_rest (s : State) (l : List Nat) (st : Nat) (cause : Nat → Nat) (done code bad : Nat) :
    (s.spMarks l st cause).spStat done code bad =
      { s with regs := ((s.spMarks l st cause).spStat done code bad).regs } := by
  have hmarks := s.spMarks_rest l st cause
  generalize s.spMarks l st cause = w at hmarks ⊢
  generalize w.regs = R at hmarks
  subst hmarks
  rfl

/-! ### Arming and cancelling (R182, R187) -/

section
variable (hhold : s.inHold = false) (hstaged : s.spGroup g (fun st => st == 1) ≠ []) (hfree : s.spArmedOf g = [])
include hhold hstaged hfree

/-- A group none of whose staged entries fails is armed whole. -/
theorem State.armGroup_arms (hfault : s.armFault (s.spGroup g fun st => st == 1) none = none) :
    (s.armGroup g none).1 =
      (({ s with clk := { s.clk with lost := s.clk.lost.filter fun e => !(s.spGroup g fun st => st == 1).contains e } }.modGroup
        g fun x => { x with commit := false }).spMarks (s.spGroup g fun st => st == 1) 2 fun _ => 0).spStat 2 0 0 := by
  rw [State.armGroup]
  simp only [hhold, hfree, hfault, List.isEmpty_iff, hstaged, List.isEmpty_nil, Bool.not_true, Bool.false_eq_true, if_false]
  rfl

/-- A group one of whose staged entries fails stays staged. -/
theorem State.armGroup_fails {bad cause : Nat}
    (hfault : s.armFault (s.spGroup g fun st => st == 1) none = some (bad, cause)) :
    (s.armGroup g none).1 =
      (s.spMarks (s.spGroup g fun st => st == 1) 1 fun e => if e = bad then cause else 12).spStat 3 1 bad := by
  rw [State.armGroup]
  simp only [hhold, hfree, hfault, List.isEmpty_iff, hstaged, List.isEmpty_nil, Bool.not_true, Bool.false_eq_true, if_false]
  rfl

end

theorem State.spCancelCmd_cancels (harmed : s.spArmedOf g ≠ []) (hst : ∀ e ∈ s.spArmedOf g, s.spState e = 2) :
    s.spCancelCmd g =
      if s.spCasc g then ((s.spMarks (s.spArmedOf g) 5 fun _ => 9).spStat 2 0 0).casReport g 9
      else (s.spMarks (s.spArmedOf g) 5 fun _ => 9).spStat 2 0 0 := by
  have hnone : ((s.spArmedOf g).any fun e => s.spState e == 3) = false := by
    rw [List.any_eq_false]
    intro e he
    rw [hst e he]
    decide
  rw [State.spCancelCmd]
  simp only [hnone, List.isEmpty_iff, harmed, Bool.or_false, if_false]
  rfl

section
variable {g : Fin 256} (hgo : s.flag ⟨.spCmd, 0, 0⟩ 31 = false)
include hgo

theorem State.writeSpCmd_arms (hhold : s.inHold = false) (hstaged : s.spGroup g (fun st => st == 1) ≠ [])
    (hfree : s.spArmedOf g = []) (hfault : s.armFault (s.spGroup g fun st => st == 1) none = none) :
    Marked s (s.writeSpCmd (spCmdWord 1 g)) (s.spGroup g fun st => st == 1) 2 (fun _ => 0) 2 0 ∧
      s.writeSpCmd (spCmdWord 1 g) =
        { s with
          regs := (s.writeSpCmd (spCmdWord 1 g)).regs
          cas := { s.cas with groups := nput s.cas.groups g { s.group g with commit := false } {} }
          clk := { s.clk with lost := s.clk.lost.filter fun e => !(s.spGroup g fun st => st == 1).contains e } } := by
  have hv := s.spView_spStored (spCmdWord 1 g)
  rw [State.writeSpCmd_takes hgo (.inl rfl), if_pos rfl]
  generalize s.spStored (spCmdWord 1 g) = u at hv
  obtain ⟨hreg, hrest⟩ := id hv
  rw [State.armGroup_arms (hv.inHold.symm ▸ hhold) (hv.spGroup g _ ▸ hstaged) (hv.spArmedOf g ▸ hfree)
    (by rw [hv.armFault, hv.spGroup]; exact hfault), hv.spGroup]
  refine ⟨State.marked_spStat (fun k hk => ?_) _ _ _ (by omega) (by omega) _, (State.spStat_spMarks_rest _ _ _ _ _ _ _).trans ?_⟩
  · exact (State.reg_congr rfl k).trans (hreg k hk)
  · generalize State.regs _ = R
    rw [hrest]
    rfl

theorem State.writeSpCmd_fails {bad cause : Nat} (hhold : s.inHold = false)
    (hstaged : s.spGroup g (fun st => st == 1) ≠ []) (hfree : s.spArmedOf g = [])
    (hfault : s.armFault (s.spGroup g fun st => st == 1) none = some (bad, cause)) :
    Marked s (s.writeSpCmd (spCmdWord 1 g)) (s.spGroup g fun st => st == 1) 1 (fun e => if e = bad then cause else 12) 3 1 ∧
      s.writeSpCmd (spCmdWord 1 g) = { s with regs := (s.writeSpCmd (spCmdWord 1 g)).regs } := by
  have hv := s.spView_spStored (spCmdWord 1 g)
  rw [State.writeSpCmd_takes hgo (.inl rfl), if_pos rfl]
  generalize s.spStored (spCmdWord 1 g) = u at hv
  obtain ⟨hreg, hrest⟩ := id hv
  rw [State.armGroup_fails (hv.inHold.symm ▸ hhold) (hv.spGroup g _ ▸ hstaged) (hv.spArmedOf g ▸ hfree)
    (by rw [hv.armFault, hv.spGroup]; exact hfault), hv.spGroup]
  refine ⟨State.marked_spStat hreg _ _ _ (by omega) (by omega) _, (State.spStat_spMarks_rest _ _ _ _ _ _ _).trans ?_⟩
  generalize State.regs _ = R
  rw [hrest]

theorem State.writeSpCmd_cancels (harmed : s.spArmedOf g ≠ []) (hst : ∀ e ∈ s.spArmedOf g, s.spState e = 2) :
    Marked s (s.writeSpCmd (spCmdWord 2 g)) (s.spArmedOf g) 5 (fun _ => 9) 2 0 ∧
      s.writeSpCmd (spCmdWord 2 g) =
        { s with
          regs := (s.writeSpCmd (spCmdWord 2 g)).regs
          links := (s.writeSpCmd (spCmdWord 2 g)).links
          sent := (s.writeSpCmd (spCmdWord 2 g)).sent } ∧
      (s.spCasc g = false → (s.writeSpCmd (spCmdWord 2 g)).links = s.links ∧ (s.writeSpCmd (spCmdWord 2 g)).sent = s.sent) ∧
      (s.spCasc g = true → s.casRole = 1 → .cas (some s.casMaster) (.report g 9) ∈ (s.writeSpCmd (spCmdWord 2 g)).sent) := by
  have hv := s.spView_spStored (spCmdWord 2 g)
  rw [State.writeSpCmd_takes hgo (.inr rfl), if_neg (by omega)]
  generalize s.spStored (spCmdWord 2 g) = u at hv
  obtain ⟨hreg, hrest⟩ := id hv
  rw [State.spCancelCmd_cancels (by rw [hv.spArmedOf]; exact harmed) (by rw [hv.spArmedOf, hv.spState]; exact hst),
    hv.spArmedOf, hv.spCasc]
  have hm := State.marked_spStat hreg (s.spArmedOf g) 5 (fun _ => 9) (done := 2) (code := 0) (by omega) (by omega) 0
  have hw := u.spStat_spMarks_rest (s.spArmedOf g) 5 (fun _ => 9) 2 0 0
  generalize (u.spMarks (s.spArmedOf g) 5 fun _ => 9).spStat 2 0 0 = w at hm hw
  rw [hrest] at hw
  have hreport := casReport_frame w g 9
  cases hcasc : s.spCasc g
  · rw [if_neg (by simp)]
    refine ⟨hm, ?_, fun _ => ?_, by simp⟩
    · rw [hw]
    · rw [hw]
      exact ⟨rfl, rfl⟩
  · rw [if_pos rfl]
    obtain ⟨L, o, hsent⟩ := hreport
    refine ⟨hm.congr (by rw [hsent]), ?_, by simp, fun _ hrole => ?_⟩
    · rw [hsent]
      dsimp only
      rw [hw]
    · have hstat : w.reg ⟨.casStat, 0, 0⟩ = s.reg ⟨.casStat, 0, 0⟩ := hm.regs _ (by simp) (by simp) (by simp)
      have hrole' : w.casRole = 1 := (congrArg (bits · 31 30) hstat).trans hrole
      have hmaster : w.casMaster = s.casMaster := congrArg (bits · 19 10) hstat
      obtain ⟨L, o, hsend⟩ := casSend_frame w (some w.casMaster) (.report g 9)
      rw [State.casReport, if_pos hrole', hsend, hmaster]
      simp

end

/-- The table's other parts change beside its registers, and the access is answered. -/
theorem State.answer_staged {w : State} (hw : w = { s with regs := w.regs }) (E : List (Nat × SpEnt)) (L : List (Nat × Nat)) (m : Nat) :
    ({ w with spEnts := E, spLocal := L } : State).answer m .ok =
      { s with regs := w.regs, spEnts := E, spLocal := L, sent := okTo m :: s.sent } := by
  generalize w.regs = R at hw
  subst hw
  rfl

/-- What a write of SP_CTL that stages or frees an entry leaves in the registers. -/
theorem State.spMark_plainWrite (s : State) (v : Word) (e st : Nat) {t : State}
    (ht : t.regs = ((s.plainWrite ⟨.spCtl, e, 0⟩ v).spMark e st 0).regs) :
    t.spState e = st % 8 ∧ t.fld ⟨.spCtl, e, 0⟩ 15 12 = 0 ∧ s.keepsRegs t [⟨.spCtl, e, 0⟩] := by
  refine ⟨?_, ?_, fun k hk => ?_⟩
  · rw [State.spState, State.fld_congr ht]
    exact State.spState_spMark _ e st 0
  · rw [State.fld_congr ht]
    exact State.cause_spMark _ e st 0
  · have hne : k ≠ ⟨.spCtl, e, 0⟩ := List.ne_of_not_mem_cons hk
    rw [State.reg_congr ht, State.reg_spMark_ne hne, State.reg_plainWrite, if_neg hne]

/-- Settles O22: each write of the table, by its present state. -/
theorem groupsAreStagedArmedAndCancelled : Obligations.GroupsAreStagedArmedAndCancelled := by
  unfold Obligations.GroupsAreStagedArmedAndCancelled
  refine ⟨?stage, ?free, ?shut, ?arms, ?fails, ?busy, ?cancels⟩
  case stage =>
    intro s m v ha hopen h1 h4
    refine ⟨_, exec_spStage ha, ?_⟩
    rw [State.writeSpCtl_stages hopen h1 h4, State.answer_staged (s := s) rfl]
    obtain ⟨hstate, hcause, hregs⟩ := s.spMark_plainWrite v s.spSel 1
      (t := { s with regs := ((s.plainWrite ⟨.spCtl, s.spSel, 0⟩ v).spMark s.spSel 1 0).regs }) rfl
    refine ⟨hstate, hcause, ?_, hregs, fun e he => ?_, rfl⟩
    · exact (nget_nset_self s.spEnts s.spSel _ {}).trans (s.spNow_plainWrite s.spSel h4)
    · exact congrArg (Option.getD · {}) ((look_nset s.spEnts s.spSel e _).trans (if_neg he))
  case free =>
    intro s m v ha hopen
    refine ⟨_, exec_spFree ha, ?_⟩
    rw [State.writeSpCtl_frees hopen (bits_putBits_self v 3 0 0 (by omega)), State.answer_staged (s := s) rfl]
    obtain ⟨hstate, -, hregs⟩ := s.spMark_plainWrite (putBits v 3 0 0) s.spSel 0
      (t := { s with regs := ((s.plainWrite ⟨.spCtl, s.spSel, 0⟩ (putBits v 3 0 0)).spMark s.spSel 0 0).regs }) rfl
    refine ⟨hstate, ?_, hregs, fun e he => ?_, rfl⟩
    · exact congrArg (Option.getD · {}) (look_erase_self s.spEnts s.spSel)
    · exact congrArg (Option.getD · {}) (look_erase_ne s.spEnts s.spSel e he)
  case shut =>
    intro s m v ha hst
    rw [exec_spStage ha, exec_spFree ha, State.writeSpCtl_shut hst, State.writeSpCtl_shut hst]
    exact ⟨rfl, rfl⟩
  case arms =>
    intro s m g ha hgo hhold hstaged hfree hfault
    refine ⟨_, exec_arm ha, ?_⟩
    obtain ⟨⟨hentries, hstat, hothers, hregs⟩, hrest⟩ := State.writeSpCmd_arms hgo hhold hstaged hfree hfault
    generalize s.writeSpCmd (spCmdWord 1 g) = t at *
    generalize t.regs = R at hrest
    subst hrest
    refine ⟨hentries, hstat.1, hregs, hothers, nget_nput_self _ _ _ ({} : CasGroup), fun g' hg => ?_, rfl⟩
    exact (nget_nput _ _ _ _ ({} : CasGroup)).trans (if_neg hg)
  case fails =>
    intro s m g bad cause ha hgo hhold hstaged hfree hfault
    refine ⟨_, exec_arm ha, ?_⟩
    obtain ⟨⟨hentries, hstat, -, hregs⟩, hrest⟩ := State.writeSpCmd_fails hgo hhold hstaged hfree hfault
    generalize s.writeSpCmd (spCmdWord 1 g) = t at *
    generalize t.regs = R at hrest
    subst hrest
    exact ⟨hentries, hstat.1, hstat.2, hregs, rfl⟩
  case busy =>
    intro s m g ha hgo
    rw [exec_arm ha, exec_cancel ha, State.writeSpCmd_busy hgo, State.writeSpCmd_busy hgo]
    exact ⟨rfl, rfl⟩
  case cancels =>
    intro s m g ha hgo harmed hst
    refine ⟨_, exec_cancel ha, ?_⟩
    obtain ⟨⟨hentries, hstat, -, hregs⟩, hrest, hlocal, hreport⟩ := State.writeSpCmd_cancels hgo harmed hst
    generalize s.writeSpCmd (spCmdWord 2 g) = t at *
    generalize t.regs = R, t.links = L, t.sent = o at hrest
    subst hrest
    exact ⟨hentries, hstat.1, hregs, rfl, fun h => ⟨(hlocal h).1, congrArg _ (hlocal h).2⟩,
      fun h hrole => List.mem_cons_of_mem _ (hreport h hrole)⟩

end Sys2Proof.Machine
end

section
/-! PROOF. Groups become FINAL or end cancelled (R186, R187, R190), and what their swap point does (R188, R189). -/

namespace Sys2Proof.Machine

variable {s t u : State} {e g : Nat}

/-! ### The final check (R186) -/

/-- An entry that passes the final check becomes FINAL, its local tick fixed. -/
def State.spFix (s : State) (e : Nat) : State :=
  { (s.setFld ⟨.spCtl, e, 0⟩ 31 29 3) with spLocal := nset s.spLocal e (s.spLocalTick e) }

theorem exec_spFinalCheck {g : Fin 256} {T : Nat} (hs : s.serving = true) (hT : s.spGroupTick g.val = some T)
    (hdue : T ≤ s.tick + 250000) (harmed : ∀ e ∈ s.spArmedOf g.val, s.spState e = 2) (hpass : s.finalFault g.val = none) :
    exec (.spFinalCheck g) s = .next ((s.spArmedOf g.val).foldl State.spFix s) := by
  have hall : ((s.spArmedOf g.val).all fun e => s.spState e == 2) = true :=
    List.all_eq_true.mpr fun e he => beq_iff_eq.mpr (harmed e he)
  change execSpFinalCheck g s = _
  rw [execSpFinalCheck, whenServing_serving hs, hT]
  dsimp only
  rw [if_pos ⟨hdue, hall⟩, State.finalCheck, hpass]
  rfl

theorem State.reg_spFix_ne (s : State) {k : RegKey} (hk : k ≠ ⟨.spCtl, e, 0⟩) : (s.spFix e).reg k = s.reg k :=
  s.reg_setReg_ne _ hk

theorem State.spState_spFix (s : State) (e : Nat) : (s.spFix e).spState e = 3 :=
  s.fld_setFld_self ⟨.spCtl, e, 0⟩ 31 29 3 (by decide)

theorem State.look_spFix (s : State) (e j : Nat) :
    look (s.spFix e).spLocal j = if j = e then some (s.spLocalTick e) else look s.spLocal j := look_nset _ _ _ _

/-- The fixed tick is the one that the entry's EXEC named. -/
theorem State.spLocalTick_spFix (s : State) (i e : Nat) : (s.spFix i).spLocalTick e = s.spLocalTick e := by
  have hpair : (s.spFix i).pair ⟨.tickCascOfs, 0, 0⟩ ⟨.tickCascOfsHi, 0, 0⟩ = s.pair ⟨.tickCascOfs, 0, 0⟩ ⟨.tickCascOfsHi, 0, 0⟩ := by
    rw [State.pair, s.reg_spFix_ne (by simp), s.reg_spFix_ne (by simp)]
    rfl
  have hent : (s.spFix i).spEnt e = s.spEnt e := rfl
  by_cases hcasc : (s.spEnt e).casc = true
  · rw [State.spLocalTick, hent, hpair, s.look_spFix]
    by_cases he : e = i
    · subst he
      rw [if_pos hcasc, if_pos rfl, Option.getD_some]
    · rw [if_neg he, State.spLocalTick]
  · rw [State.spLocalTick, hent, State.spLocalTick, if_neg hcasc, if_neg hcasc]

/-- Each entry of a group that passes is FINAL with its tick. -/
theorem State.foldl_spFix_of_mem {l : List Nat} (he : e ∈ l) (s : State) :
    (l.foldl State.spFix s).spState e = 3 ∧ look (l.foldl State.spFix s).spLocal e = some (s.spLocalTick e) := by
  constructor
  · refine foldl_gives (get := fun s : State => s.spState e) (step := State.spFix) (fun s i _ => ?_) he
      (fun s => s.spState_spFix e) s
    by_cases hi : i = e
    · exact .inl (hi ▸ s.spState_spFix i)
    · exact .inr (congrArg (bits · 31 29) (s.reg_spFix_ne fun h => hi (by cases h; rfl)))
  · induction l generalizing s with
    | nil => cases he
    | cons i l ih =>
      rw [List.foldl_cons]
      by_cases hl : e ∈ l
      · rw [ih hl, s.spLocalTick_spFix]
      · obtain rfl : e = i := (List.mem_cons.mp he).resolve_right hl
        rw [foldl_keeps (get := fun s : State => look s.spLocal e) (step := State.spFix) fun s i hi => ?_]
        · exact (s.look_spFix e e).trans (if_pos rfl)
        · exact (s.look_spFix i e).trans (if_neg fun h : e = i => hl (h ▸ hi))

theorem State.foldl_spFix_of_not_mem {l : List Nat} (he : e ∉ l) (s : State) :
    (l.foldl State.spFix s).reg ⟨.spCtl, e, 0⟩ = s.reg ⟨.spCtl, e, 0⟩ ∧ look (l.foldl State.spFix s).spLocal e = look s.spLocal e :=
  ⟨foldl_keeps (get := fun s : State => s.reg ⟨.spCtl, e, 0⟩)
      (fun s _ hi => s.reg_spFix_ne fun h => he (by cases h; exact hi)) s,
    foldl_keeps (get := fun s : State => look s.spLocal e)
      (fun s i hi => (s.look_spFix i e).trans (if_neg fun h : e = i => he (h ▸ hi))) s⟩

theorem State.foldl_spFix_rest (l : List Nat) (s : State) :
    (∀ k, k.name ≠ .spCtl → (l.foldl State.spFix s).reg k = s.reg k) ∧
      l.foldl State.spFix s = { s with regs := (l.foldl State.spFix s).regs, spLocal := (l.foldl State.spFix s).spLocal } := by
  constructor
  · intro k hk
    exact foldl_keeps (get := fun s : State => s.reg k) (fun s i _ => s.reg_spFix_ne fun h => hk (by rw [h])) s
  · induction l generalizing s with
    | nil => rfl
    | cons i l ih =>
      rw [List.foldl_cons]
      exact (ih _).trans rfl

/-! ### A group that is cancelled (R187, R190) -/

theorem State.cups_signalCores (s : State) (d : Nat) : (s.signalCores d).cups = s.cups := by
  unfold State.signalCores
  refine foldl_keeps (get := State.cups) (fun s t _ => ?_) s
  split <;> rfl

theorem State.cups_sendMsix (s : State) (w vec : Nat) : (s.sendMsix w vec).cups = s.cups := by
  unfold State.sendMsix
  exact get_ite State.cups (get_ite State.cups rfl rfl) (get_ite State.cups rfl rfl)

theorem State.cups_enqueueEvent (s : State) (w cap vec : Nat) (r : CadRec) : (s.enqueueEvent w cap vec r).cups = s.cups := by
  unfold State.enqueueEvent
  dsimp only
  split
  · split
    · rfl
    · rw [State.cups_signalCores, State.cups_sendMsix]
      rfl
  · rfl

theorem State.cups_errPulse (s : State) : s.errPulse.cups = s.cups := by
  unfold State.errPulse
  exact get_ite State.cups rfl rfl

theorem State.cups_addRecord (s : State) (r : CadRec) : (s.addRecord r).cups = s.cups := by
  unfold State.addRecord
  repeat' with_reducible apply get_ite State.cups
  all_goals rfl

/-- An event whose source has no BLOCK reaction, and is no cup's, leaves the cups. -/
theorem State.cups_raiseEvent (s : State) {n : Nat} (hn : inRange 0x100 0x1BF n = false) (hb : s.fld ⟨.strSrc, n, 0⟩ 21 20 ≠ 1)
    (kind : Nat) (doms : List Nat) (bytes : List Byte) (own : Option Nat) :
    (s.raiseEvent n kind doms bytes own).cups = s.cups := by
  have hblock : (bits (s.reg ⟨.strSrc, n, 0⟩) 21 20 == 1) = false := beq_eq_false_iff_ne.mpr hb
  have henq (l : List Nat) (r : CadRec) (u : State) : (l.foldl (fun (s : State) (d : Nat) => match tenantOf d with
      | some t => if s.tenantExists t then s.enqueueEvent (t + 1) 64 0 { r with dom := d } else s
      | none => s) u).cups = u.cups := by
    refine foldl_keeps (get := State.cups) (fun s d _ => ?_) u
    split
    · exact get_ite State.cups (State.cups_enqueueEvent ..) rfl
    · rfl
  have hlast (c : Prop) [Decidable c] {u : State} (hu : u.cups = s.cups) :
      (if c then u else { u with chipDue := true, chipWhy := 3, reloadRegion := none }).cups = s.cups :=
    get_ite State.cups hu hu
  have hrec (c : Prop) [Decidable c] (r : CadRec) {u : State} (hu : u.cups = s.cups) :
      (if c then u.addRecord r else u).cups = s.cups := get_ite State.cups ((u.cups_addRecord r).trans hu) hu
  have hpulse (c : Prop) [Decidable c] {u : State} (hu : u.cups = s.cups) : (if c then u.errPulse else u).cups = s.cups :=
    get_ite State.cups (u.cups_errPulse.trans hu) hu
  have hnmi (c : Prop) [Decidable c] {u : State} (hu : u.cups = s.cups) : (if c then u.log (.nmi n) else u).cups = s.cups :=
    get_ite State.cups hu hu
  have hqueue (c : Prop) [Decidable c] (vec : Nat) (r : CadRec) {u : State} (hu : u.cups = s.cups) :
      (if c then u.enqueueEvent 0 1024 vec r else u).cups = s.cups :=
    get_ite State.cups ((u.cups_enqueueEvent _ _ _ _).trans hu) hu
  unfold State.raiseEvent
  simp only [hn, hblock, Bool.and_false, Bool.false_eq_true, if_false]
  exact hlast _ (hrec _ _ (hpulse _ (hnmi _ (hqueue _ _ _ (henq _ _ _)))))

/-- What a cancelled group leaves: its entries marked, with the event and the report of it. -/
theorem State.spCancel_rest (s : State) (g cause : Nat) (bad : Option Nat) (hb : s.fld ⟨.strSrc, 0x032, 0⟩ 21 20 ≠ 1) :
    (∀ k, blkOf k.name ≠ .str → k ≠ ⟨.cadStat, 0, 0⟩ → (s.spCancel g cause bad).reg k = (s.spCancelMarks g cause bad).reg k) ∧
      (s.spCancel g cause bad).cups = s.cups ∧
      s.spCancel g cause bad = { s with
        regs := (s.spCancel g cause bad).regs, sent := (s.spCancel g cause bad).sent
        cups := (s.spCancel g cause bad).cups, str := (s.spCancel g cause bad).str
        caddy := (s.spCancel g cause bad).caddy, chipDue := (s.spCancel g cause bad).chipDue
        chipWhy := (s.spCancel g cause bad).chipWhy, reloadRegion := (s.spCancel g cause bad).reloadRegion
        links := (s.spCancel g cause bad).links } := by
  obtain ⟨doms, bytes, hcancel⟩ : ∃ doms bytes, s.spCancel g cause bad =
      if s.spCasc g then ((s.spCancelMarks g cause bad).raiseEvent 0x032 0 doms bytes).casReport g cause
      else (s.spCancelMarks g cause bad).raiseEvent 0x032 0 doms bytes := ⟨_, _, rfl⟩
  have hsrc : (s.spCancelMarks g cause bad).fld ⟨.strSrc, 0x032, 0⟩ 21 20 = s.fld ⟨.strSrc, 0x032, 0⟩ 21 20 :=
    congrArg (bits · 21 20) (s.reg_spMarks_of_name (by simp) _ _ _)
  have hmarks : s.spCancelMarks g cause bad = { s with regs := (s.spCancelMarks g cause bad).regs } := s.spMarks_rest _ _ _
  rw [hcancel]
  generalize s.spCancelMarks g cause bad = w at hsrc hmarks
  have hcups := w.cups_raiseEvent (n := 0x032) rfl (hsrc ▸ hb) 0 doms bytes none
  have hframe : EventFrame w (w.raiseEvent 0x032 0 doms bytes) :=
    (raiseEvent_frame w 0x032 0 doms bytes none).resolve_right fun h => (hsrc ▸ hb) h.1
  have hlink : LinkFrame (w.raiseEvent 0x032 0 doms bytes)
      (if s.spCasc g then (w.raiseEvent 0x032 0 doms bytes).casReport g cause else w.raiseEvent 0x032 0 doms bytes) := by
    split
    · exact casReport_frame _ _ _
    · exact .refl _
  generalize w.raiseEvent 0x032 0 doms bytes = x at hcups hframe hlink
  obtain ⟨L, o, hlink⟩ := hlink
  rw [hlink]
  refine ⟨hframe.reg, hcups.trans ?_, ?_⟩
  · rw [hmarks]
  · have hrest := hframe.rest
    rw [hmarks] at hrest
    rw [hrest]

/-! ### What entries do at their tick (R188, R189) -/

/-- What the exchange of planes at a swap point reads and writes of a cup. -/
def CupSt.swapView (x : CupSt) : Bool × List (Nat × Word) × List (Nat × Word) × Nat × List (Nat × Nat) :=
  (x.bank, x.plane0, x.plane1, x.swapRoot, x.clearing)

/-- The memory, and the time of the swap point. -/
def State.still (s : State) : List (Nat × Byte) × Nat := (s.hbm, s.root)

theorem State.movesCups.still (h : s.movesCups t) : t.still = s.still := congrArg₂ Prod.mk h.hbm h.root

theorem State.swapView_followLatches (s : State) (c : Nat) : (s.followLatches.cup c).swapView = (s.cup c).swapView :=
  (congrArg CupSt.swapView (s.cup_followLatches c) :)

theorem State.swapView_statusEvent (s : State) (c d kind detail obj : Nat) :
    ((s.statusEvent d kind detail obj).cup c).swapView = (s.cup c).swapView := by
  obtain ⟨l, k, h⟩ := (statusEvent_frame s d kind detail obj).cup c
  rw [h]
  rfl

theorem State.swapView_modCup (s : State) (c d : Nat) {f : CupSt → CupSt} (hf : ∀ x, (f x).swapView = x.swapView) :
    ((s.modCup d f).cup c).swapView = (s.cup c).swapView := by
  rw [State.cup_modCup]
  split
  · rename_i h; rw [hf, h]
  · rfl

/-- A capture that the swap point completes leaves the planes, the memory and the time. -/
theorem State.captureDone_swap (s : State) (c d : Nat) (hold : Bool) :
    ((s.captureDone c hold).cup d).swapView = (s.cup d).swapView ∧ (s.captureDone c hold).still = s.still := by
  unfold State.captureDone
  dsimp only
  have hmod (u : State) : ((u.modCup c fun x => { x with
      capUnread := true, capWait := [], capHold := hold && u.cupState c == 2 }).cup d).swapView = (u.cup d).swapView :=
    u.swapView_modCup d c fun _ => rfl
  split <;> exact ⟨hmod _, rfl⟩

theorem State.captureAtSwap_swap (s : State) (c d : Nat) (new : Plane) :
    ((s.captureAtSwap c new).cup d).swapView = (s.cup d).swapView ∧ (s.captureAtSwap c new).still = s.still := by
  have hcup (p : Nat → Bool) (left : List Nat) :
      ((s.setCup c { (s.cup c).captureLines p with capWait := left }).cup d).swapView = (s.cup d).swapView :=
    s.swapView_modCup d c (f := fun x => { x.captureLines p with capWait := left }) fun _ => rfl
  have hend (p : Nat → Bool) (left : List Nat) (b : Prop) [Decidable b]  :
      ∀ u, u = s.setCup c { (s.cup c).captureLines p with capWait := left } →
      ((if b then u.captureDone c (s.cup c).capHold else u).cup d).swapView = (s.cup d).swapView ∧
        (if b then u.captureDone c (s.cup c).capHold else u).still = s.still := by
    rintro u rfl
    split
    · obtain ⟨hview, hstill⟩ := State.captureDone_swap (s.setCup c { (s.cup c).captureLines p with capWait := left }) c d
        (s.cup c).capHold
      exact ⟨hview.trans (hcup p left), hstill⟩
    · exact ⟨hcup p left, rfl⟩
  unfold State.captureAtSwap
  dsimp only
  split
  · exact ⟨rfl, rfl⟩
  · exact hend _ _ _ _ rfl

theorem CupSt.swapView_holdSeg (x : CupSt) (sd n : Nat) (v : Nat → Nat → Bool) : (x.holdSeg sd n v).swapView = x.swapView := rfl

/-- Segments of a side keep what they read. -/
def State.holdFacing (s : State) (r back : Nat) (l : List Nat) : State :=
  l.foldl (fun (s : State) n => s.modCup r fun x => x.holdSeg back n fun p j => s.segInput r back p j) s

/-- What one side of a cup freezes as its planes exchange. -/
def State.freezeSide (s : State) (c sd : Nat) : State :=
  match cupAcross c sd with
  | some (r, false) =>
    s.holdFacing r ((sd + 2) % 4)
      ((List.range 10).filter fun n => s.segMode r ((sd + 2) % 4) n == 1 && !s.segFlipClamp r ((sd + 2) % 4) n)
  | _ => s

theorem State.freezeFacing_eq (s : State) (c : Nat) :
    s.freezeFacing c = (List.range 4).foldl (fun (s : State) sd => s.freezeSide c sd) s := rfl

theorem State.freezeFacing_swap (s : State) (c d : Nat) :
    ((s.freezeFacing c).cup d).swapView = (s.cup d).swapView ∧ (s.freezeFacing c).still = s.still := by
  rw [State.freezeFacing_eq]
  have hhold (s : State) (r back : Nat) (l : List Nat) :
      ((s.holdFacing r back l).cup d).swapView = (s.cup d).swapView ∧ (s.holdFacing r back l).still = s.still :=
    ⟨foldl_keeps (get := fun s : State => (s.cup d).swapView)
        (fun s n _ => s.swapView_modCup d r fun x => x.swapView_holdSeg back n _) s,
      foldl_keeps (get := State.still)
        (step := fun (s : State) n => s.modCup r fun x => x.holdSeg back n fun p j => s.segInput r back p j)
        (fun _ _ _ => rfl) s⟩
  have hstep (s : State) (sd : Nat) : ((s.freezeSide c sd).cup d).swapView = (s.cup d).swapView ∧ (s.freezeSide c sd).still = s.still := by
    unfold State.freezeSide
    split
    · exact hhold _ _ _ _
    · exact ⟨rfl, rfl⟩
  exact ⟨foldl_keeps (get := fun s : State => (s.cup d).swapView) (fun s sd _ => (hstep s sd).1) s,
    foldl_keeps (get := State.still) (fun s sd _ => (hstep s sd).2) s⟩

theorem State.ungate_swap (s : State) (c r d : Nat) :
    ((s.ungate c r).cup d).swapView = (s.cup d).swapView ∧ (s.ungate c r).still = s.still := by
  unfold State.ungate
  split
  · exact ⟨State.swapView_modCup (s.setFlag ⟨.urnCls, c, 0⟩ 29 false) d c fun _ => rfl, rfl⟩
  · exact ⟨rfl, rfl⟩

/-- A cup as its planes exchange (R115, R118). -/
def CupSt.swapped (x : CupSt) (root : Nat) (edig : BitVec 384) : CupSt :=
  { x with
    bank := !x.bank, fab := swapFab x.active x.shadow x.fab, old := none
    clearing := (clearBlocks x.shadow).map fun b => (b, 256)
    swapRoot := root, xdig := edig, passCut := true, awake := x.awake && x.shadow.bound 11
    sin := x.sin.filter (fun e => x.shadow.bound (1 + e.1)), sout := x.sout.filter (fun e => x.shadow.bound (5 + e.1))
    rq := if x.shadow.bound 9 then x.rq else {}, egHeld := if x.shadow.bound 10 then x.egHeld else none }

/-- The state in which the planes exchange: captures are made, facing segments hold, and the cup is awake. -/
def State.beforeSwap (s : State) (c : Nat) : State :=
  ((s.captureAtSwap c (s.cup c).shadow).freezeFacing c).ungate c s.root

theorem State.beforeSwap_swap (s : State) (c d : Nat) :
    ((s.beforeSwap c).cup d).swapView = (s.cup d).swapView ∧ (s.beforeSwap c).still = s.still := by
  obtain ⟨hc, hcs⟩ := s.captureAtSwap_swap c d (s.cup c).shadow
  obtain ⟨hf, hfs⟩ := (s.captureAtSwap c (s.cup c).shadow).freezeFacing_swap c d
  obtain ⟨hu, hus⟩ := ((s.captureAtSwap c (s.cup c).shadow).freezeFacing c).ungate_swap c s.root d
  exact ⟨hu.trans (hf.trans hc), hus.trans (hfs.trans hcs)⟩

/-- The planes have exchanged, and packets of ports that the new plane does not bind are gone. -/
def State.exchanged (s : State) (c : Nat) : State :=
  (s.setCup c ((s.cup c).swapped s.root (s.digest .cupEdig c))).dropWait
    fun w => (List.range 4).any fun n => w.owner == .sout c n && !(s.cup c).shadow.bound (5 + n)

/-- The digests have exchanged with the planes, and SHADOW tells of it. -/
def State.flipRegs (t s : State) (c : Nat) (startup : Bool) : State :=
  ((t.setDigest .cupEdig c (s.cup c).xdig).setDigest .cupSdig c (s.digest .cupEdig c)).setFld ⟨.cupLoadStat, c, 0⟩ 23 22
    (if startup then 0 else 2)

theorem State.flip_eq (s : State) (c : Nat) (startup : Bool) :
    s.flip c startup = (((s.beforeSwap c).exchanged c).flipRegs (s.beforeSwap c) c startup).followLatches := by
  unfold State.flip State.flipRegs State.exchanged State.beforeSwap CupSt.swapped
  exact rfl

theorem State.setDigest_rest (s : State) (n : RegName) (c : Nat) (d : BitVec 384) :
    (s.setDigest n c d).cups = s.cups ∧ (s.setDigest n c d).still = s.still := by
  rw [s.setDigest_eq]
  generalize (s.setDigest n c d).regs = R
  exact ⟨rfl, rfl⟩

theorem State.dropWait_rest (s : State) (p : WaitPkt → Bool) : (s.dropWait p).cups = s.cups ∧ (s.dropWait p).still = s.still :=
  ⟨foldl_keeps (get := State.cups)
      (step := fun (s : State) (e : Nat × StreamSt) => s.modStream e.1 fun x => { x with wait := x.wait.filter fun w => !p w })
      (fun _ _ _ => rfl) s,
    foldl_keeps (get := State.still)
      (step := fun (s : State) (e : Nat × StreamSt) => s.modStream e.1 fun x => { x with wait := x.wait.filter fun w => !p w })
      (fun _ _ _ => rfl) s⟩

theorem State.flipRegs_rest (t s : State) (c : Nat) (startup : Bool) :
    (t.flipRegs s c startup).cups = t.cups ∧ (t.flipRegs s c startup).still = t.still := by
  obtain ⟨he, hes⟩ := t.setDigest_rest .cupEdig c (s.cup c).xdig
  obtain ⟨hs, hss⟩ := (t.setDigest .cupEdig c (s.cup c).xdig).setDigest_rest .cupSdig c (s.digest .cupEdig c)
  exact ⟨(State.setFld_cups ..).trans (hs.trans he),
    (congrArg₂ Prod.mk (State.setFld_hbm ..) (State.setFld_root ..)).trans (hss.trans hes)⟩

/-- A flip exchanges the planes at the present root cycle, and clears the blocks that the new plane clears (R115, R117). -/
theorem State.flip_spec (s : State) (c : Nat) (startup : Bool) :
    ((s.flip c startup).cup c).swapView =
        (!(s.cup c).bank, (s.cup c).plane0, (s.cup c).plane1, s.root, (clearBlocks (s.cup c).shadow).map fun b => (b, 256)) ∧
      (s.flip c startup).shadow c = (if startup then 0 else 2) ∧ (s.flip c startup).still = s.still := by
  obtain ⟨hview, hstill⟩ := s.beforeSwap_swap c c
  rw [State.flip_eq]
  generalize s.beforeSwap c = w at hview hstill
  obtain ⟨hbank, hplane0, hplane1, -, -⟩ : _ ∧ _ ∧ _ ∧ _ ∧ _ := by simpa only [CupSt.swapView, Prod.mk.injEq] using hview
  have hroot : w.root = s.root := congrArg Prod.snd hstill
  have hshadow : (w.cup c).shadow = (s.cup c).shadow := by rw [CupSt.shadow, hbank, hplane0, hplane1]; rfl
  obtain ⟨hdrop, hdropped⟩ := (w.setCup c ((w.cup c).swapped w.root (w.digest .cupEdig c))).dropWait_rest
    fun x => (List.range 4).any fun n => x.owner == .sout c n && !(w.cup c).shadow.bound (5 + n)
  obtain ⟨hregs, hregsStill⟩ := (w.exchanged c).flipRegs_rest w c startup
  have hcup : ((w.exchanged c).flipRegs w c startup).cup c = (w.cup c).swapped w.root (w.digest .cupEdig c) := by
    rw [State.cup, hregs, State.exchanged, hdrop]
    exact w.cup_setCup_self c _
  refine ⟨?_, ?_, ?_⟩
  · rw [State.swapView_followLatches, hcup, CupSt.swapped, CupSt.swapView, hbank, hplane0, hplane1, hroot, hshadow]
  · rw [State.shadow, State.fld_congr (State.followLatches_movesCups _).regs]
    refine (State.fld_setFld_self _ _ _ _ _ (by decide)).trans ?_
    cases startup <;> rfl
  · exact (State.followLatches_movesCups _).still.trans (hregsStill.trans (hdropped.trans hstill))

/-! ### The effects of entries (R189) -/

theorem State.hbm_captureDone (s : State) (c : Nat) (hold : Bool) : (s.captureDone c hold).hbm = s.hbm :=
  congrArg Prod.fst (s.captureDone_swap c c hold).2

theorem State.hbm_ungate (s : State) (c r : Nat) : (s.ungate c r).hbm = s.hbm := congrArg Prod.fst (s.ungate_swap c r c).2

theorem State.hbm_flip (s : State) (c : Nat) (startup : Bool) : (s.flip c startup).hbm = s.hbm :=
  congrArg Prod.fst (s.flip_spec c startup).2.2

theorem State.hbm_statusEvent (s : State) (c kind detail obj : Nat) : (s.statusEvent c kind detail obj).hbm = s.hbm :=
  (s.movesCups_statusEvent c kind detail obj).hbm

theorem State.hbm_capture (s : State) (c e : Nat) (hold : Bool) : (s.capture c e hold).hbm = s.hbm := by
  unfold State.capture
  dsimp only
  split
  · exact s.hbm_statusEvent ..
  · split <;> split <;> simp only [State.setFlag_hbm, State.hbm_captureDone, State.setCup_hbm, State.hbm_ungate, State.hbm_statusEvent]

theorem State.hbm_applySwap (s : State) (set : Nat) : (s.applySwap set).hbm = s.hbm := by
  obtain ⟨hmoves, -⟩ := State.foldl_modStream_rest (fun x => { x with prep := x.prep.map fun p => { p with applied := true } })
    (s.setMembers set) s
  exact (congrArg State.hbm hmoves :)

/-- No entry writes HBM. -/
theorem State.hbm_spAct (s : State) (e : Nat) : (s.spAct e).hbm = s.hbm := by
  unfold State.spAct
  dsimp only
  split
  · exact foldl_keeps (get := State.hbm) (fun s c _ => (State.hbm_statusEvent ..).trans (s.hbm_flip c false)) s
  · exact s.hbm_applySwap _
  · obtain ⟨-, hmoves, -⟩ := s.applyModes_spec (s.spEnt e).border.1 (s.spEnt e).border.2.1
      (s.legalModes (s.spEnt e).border.1 (s.spEnt e).border.2.1
        (borderWord (s.reg ⟨.cupBrd, (s.spEnt e).border.1, (s.spEnt e).border.2.1⟩) (s.spEnt e).border.2.2.1
          (s.spEnt e).border.2.2.2))
    exact (congrArg State.hbm hmoves :)
  · exact foldl_keeps (get := State.hbm) (fun s c _ => s.hbm_capture c e _) s

/-- An entry that has executed reads so, and no local tick is fixed for it any more. -/
def State.spExecuted (s : State) (e : Nat) : State :=
  { (s.setFld ⟨.spCtl, e, 0⟩ 31 29 4) with spLocal := erase s.spLocal e }

/-- Entries that have executed. -/
def State.spDone (s : State) (l : List Nat) : State := l.foldl State.spExecuted s

theorem State.spRun_eq (s : State) (l : List Nat) :
    s.spRun l = ((s.spOrder l).foldl (fun (s : State) e => s.spAct e) s).spDone l := rfl

theorem State.spDone_of_mem {l : List Nat} (he : e ∈ l) (s : State) :
    (s.spDone l).spState e = 4 ∧ look (s.spDone l).spLocal e = none := by
  constructor
  · refine foldl_gives (get := fun s : State => s.spState e) (step := State.spExecuted) (fun s i _ => ?_) he
      (fun s => s.fld_setFld_self ⟨.spCtl, e, 0⟩ 31 29 4 (by decide)) s
    by_cases hi : i = e
    · exact .inl (hi ▸ s.fld_setFld_self ⟨.spCtl, i, 0⟩ 31 29 4 (by decide))
    · exact .inr (congrArg (bits · 31 29) (s.reg_setReg_ne _ fun h => hi (by cases h; rfl)))
  · refine foldl_gives (get := fun s : State => look s.spLocal e) (step := State.spExecuted) (fun s i _ => ?_) he
      (fun s => look_erase_self s.spLocal e) s
    by_cases hi : i = e
    · exact .inl (hi ▸ look_erase_self s.spLocal i)
    · exact .inr (look_erase_ne s.spLocal i e (Ne.symm hi))

theorem State.hbm_spRun (s : State) (l : List Nat) : (s.spRun l).hbm = s.hbm := by
  rw [State.spRun_eq]
  exact (foldl_keeps (get := State.hbm) (step := State.spExecuted) (fun _ _ _ => rfl) _).trans (foldl_keeps (get := State.hbm) (fun s e _ => s.hbm_spAct e) s)

/-! ### The swap point (R188, R189) -/

theorem exec_spExecute {g : Fin 256} (hs : s.serving = true) (hroot : s.root = 16 * s.tick) (hmode : s.clk.mode = .running)
    (hg : g.val ∈ s.groupsNow) : exec (.spExecute g) s = .next s.swapPoint := by
  change execSpExecute g s = _
  rw [execSpExecute, whenServing_serving hs, if_pos ⟨hroot, hmode, List.contains_iff_mem.mpr hg⟩]

/-- A group that no retirement and no want of COMMIT cancels. -/
theorem State.spBar_free (hgone : ((s.spArmedOf g).any s.spGone) = false)
    (hcommit : s.spCasc g = true → (s.group g).commit = true) : s.spBar g = s := by
  have hfind : (s.spArmedOf g).find? s.spGone = none :=
    List.find?_eq_none.mpr fun e he => by simpa using List.any_eq_false.mp hgone e he
  rw [State.spBar, hfind]
  cases hcasc : s.spCasc g
  · rfl
  · rw [hcommit hcasc]
    rfl

/-- Where every group of the tick is free to execute, they do. -/
theorem State.swapPoint_free
    (h : ∀ g ∈ s.groupsNow, ((s.spArmedOf g).any s.spGone) = false ∧ (s.spCasc g = true → (s.group g).commit = true)) :
    s.swapPoint = (s.groupsNow.filter s.spCasc).foldl (fun (s : State) g => s.casReport g 0)
      (s.spRun (s.groupsNow.flatMap s.spArmedOf)) := by
  have hbars (l : List Nat) (hl : ∀ g ∈ l, g ∈ s.groupsNow) : l.foldl (fun (s : State) g => s.spBar g) s = s := by
    induction l with
    | nil => rfl
    | cons g l ih =>
      obtain ⟨hgone, hcommit⟩ := h g (hl g (List.mem_cons_self ..))
      rw [List.foldl_cons, State.spBar_free hgone hcommit]
      exact ih fun g hg => hl g (List.mem_cons_of_mem _ hg)
  rw [State.swapPoint, hbars s.groupsNow fun _ hg => hg]

/-- Reports to a master leave the table and the memory. -/
theorem State.foldl_casReport (l : List Nat) (s : State) :
    LinkFrame s (l.foldl (fun (s : State) g => s.casReport g 0) s) :=
  .foldl (fun s g => casReport_frame s g 0) l s

/-- The one group of the tick, of one entry, executes. -/
theorem State.swapPoint_one (hnow : s.groupsNow = [g]) (harmed : s.spArmedOf g = [e]) (hgone : s.spGone e = false)
    (hcasc : s.spCasc g = false) (hact : s.spAction e = 1 ∨ s.spAction e = 2) :
    s.swapPoint = (s.spAct e).spDone [e] := by
  have horder : s.spOrder [e] = [e] := by
    obtain hact | hact := hact <;> simp [State.spOrder, hact]
  rw [State.swapPoint_free, hnow, List.flatMap_singleton, harmed, List.filter_singleton, hcasc, State.spRun_eq, horder]
  · rfl
  · intro g' hg'
    rw [hnow, List.mem_singleton] at hg'
    rw [hg', harmed, List.any_cons, hgone, hcasc]
    exact ⟨rfl, fun h => absurd h (by simp)⟩

theorem State.mem_spArmedOf : e ∈ s.spArmedOf g ↔ e < 256 ∧ (s.spState e = 2 ∨ s.spState e = 3) ∧ (s.spEnt e).group = g := by
  rw [State.spArmedOf, State.spGroup, List.mem_filter]
  simp

/-- A group that names a retired cup leaves the tick cancelled, its one entry with cause 0110 (R188). -/
theorem State.swapPoint_gone (hnow : s.groupsNow = [g]) (harmed : s.spArmedOf g = [e]) (hgone : s.spGone e = true)
    (hb : s.fld ⟨.strSrc, 0x032, 0⟩ 21 20 ≠ 1) : s.swapPoint = s.spCancel g 6 (some e) := by
  obtain ⟨hregs, -, hrest⟩ := s.spCancel_rest g 6 (some e) hb
  have hmarks : s.spCancelMarks g 6 (some e) = s.spMarks [e] 5 fun i => if i = e then 6 else 12 := by
    rw [State.spCancelMarks, harmed]
    rfl
  have hbar : s.spBar g = s.spCancel g 6 (some e) := by
    rw [State.spBar, harmed, List.find?_cons, hgone]
  rw [State.swapPoint, hnow, List.foldl_cons, List.foldl_nil, hbar]
  generalize s.spCancel g 6 (some e) = t at hregs hrest
  rw [hmarks] at hregs
  have hent : t.spEnt = s.spEnt := by rw [hrest]; rfl
  have htick : t.tick = s.tick := by rw [hrest]; rfl
  have hstate (i : Nat) : t.spState i = if i = e then 5 else s.spState i := by
    have hctl : t.spState i = (s.spMarks [e] 5 fun i => if i = e then 6 else 12).spState i :=
      congrArg (bits · 31 29) (hregs ⟨.spCtl, i, 0⟩ (by simp [blkOf]) (by simp))
    rw [hctl]
    split
    · rename_i hi
      exact (s.spMarks_of_mem (List.mem_singleton.mpr hi) 5 _).1
    · rename_i hi
      exact congrArg (bits · 31 29) (s.reg_spMarks_of_not_mem (by simpa using hi) 5 _)
  have hlocal : t.spLocalTick = s.spLocalTick := by
    have hloc : t.spLocal = s.spLocal := by rw [hrest]
    funext i
    rw [State.spLocalTick, hent, hloc, State.pair, hregs _ (by decide) (by simp), hregs _ (by decide) (by simp),
      s.reg_spMarks_of_name (by simp), s.reg_spMarks_of_name (by simp)]
    rfl
  have hmem (i g' : Nat) : i ∈ t.spArmedOf g' ↔ i ≠ e ∧ i ∈ s.spArmedOf g' := by
    rw [State.mem_spArmedOf, State.mem_spArmedOf, hent, hstate]
    by_cases hi : i = e <;> simp [hi]
  have he : (s.spEnt e).group = g := (State.mem_spArmedOf.mp (harmed ▸ List.mem_singleton_self e)).2.2
  have hown : t.spArmedOf g = [] := by
    refine List.eq_nil_iff_forall_not_mem.mpr fun i hi => ?_
    obtain ⟨hne, hi⟩ := (hmem i g).mp hi
    rw [harmed, List.mem_singleton] at hi
    exact hne hi
  have hothers (g' : Nat) (hg : g' ≠ g) : t.spArmedOf g' = s.spArmedOf g' := by
    rw [State.spArmedOf, State.spGroup, State.spArmedOf, State.spGroup]
    refine List.filter_congr fun i _ => ?_
    rw [hent, hstate]
    by_cases hi : i = e
    · rw [if_pos hi, hi, he, beq_false_of_ne (Ne.symm hg), Bool.and_false, Bool.and_false]
    · rw [if_neg hi]
  have hnone : t.groupsNow = [] := by
    refine List.filter_eq_nil_iff.mpr fun g' hg' hcond => ?_
    by_cases hg : g' = g
    · rw [hg, State.spGroupTick, hown] at hcond
      simp at hcond
    · have hfinal (i : Nat) (hi : i ∈ s.spArmedOf g') : t.spState i = s.spState i := by
        rw [hstate, if_neg]
        rintro rfl
        exact hg ((State.mem_spArmedOf.mp hi).2.2.symm.trans he)
      rw [State.spGroupTick, hothers g' hg, hlocal, htick, Bool.and_eq_true, List.all_eq_true] at hcond
      have hall : ((s.spArmedOf g').all fun i => s.spState i == 3) = true :=
        List.all_eq_true.mpr fun i hi => (hfinal i hi) ▸ hcond.2 i hi
      have hin : g' ∈ s.groupsNow := List.mem_filter.mpr ⟨hg', Bool.and_eq_true _ _ ▸ ⟨hcond.1, hall⟩⟩
      rw [hnow, List.mem_singleton] at hin
      exact hg hin
  rw [hnone]
  rfl

/-! ### Held writes are made (R186) -/

/-- Of the writes held, the first alone is due. -/
theorem exec_spHeldWritesApply_first {T : Nat} {i : Instr} {rest : List (Nat × Instr)} (hl : s.live = true)
    (hheld : s.heldWrites = (T, i) :: rest) (hdue : T < s.tick) (hrest : ∀ e ∈ rest, s.tick ≤ e.1) :
    exec .spHeldWritesApply s = .next ({ s with heldWrites := rest }.applyHeld i) := by
  have hfirst : (rest.filter fun e => decide (e.1 < s.tick)) = [] :=
    List.filter_eq_nil_iff.mpr fun e he => by simpa using hrest e he
  have hkeep : (rest.filter fun e => decide (s.tick ≤ e.1)) = rest :=
    List.filter_eq_self.mpr fun e he => by simpa using hrest e he
  change execSpHeldWritesApply s = _
  rw [execSpHeldWritesApply, whenLive_live hl, hheld, List.filter_cons_of_pos (by simpa using hdue),
    List.filter_cons_of_neg (by simpa using hdue), hfirst, hkeep]
  rfl

/-- With no write due none is made. -/
theorem exec_spHeldWritesApply_none (hl : s.live = true) (h : ∀ e ∈ s.heldWrites, s.tick ≤ e.1) :
    exec .spHeldWritesApply s = .next s := by
  have hfirst : (s.heldWrites.filter fun e => decide (e.1 < s.tick)) = [] :=
    List.filter_eq_nil_iff.mpr fun e he => by simpa using h e he
  have hkeep : (s.heldWrites.filter fun e => decide (s.tick ≤ e.1)) = s.heldWrites :=
    List.filter_eq_self.mpr fun e he => by simpa using h e he
  change execSpHeldWritesApply s = _
  rw [execSpHeldWritesApply, whenLive_live hl, hfirst, hkeep]
  rfl

theorem arrAt_index {base stride n i : Nat} (hs : 0 < stride) (hi : i < n) : arrAt base stride n (base + stride * i) = some i := by
  have hsub : base + stride * i - base = stride * i := Nat.add_sub_cancel_left ..
  rw [arrAt, hsub, Nat.mul_div_cancel_left i hs, if_pos ⟨Nat.le_add_right .., Nat.mul_mod_right .., hi⟩]

theorem arrAt_beyond {base stride n o : Nat} (hs : 0 < stride) (ho : base + stride * n ≤ o) : arrAt base stride n o = none := by
  have hle : n ≤ (o - base) / stride := (Nat.le_div_iff_mul_le hs).mpr (by rw [Nat.mul_comm]; omega)
  exact if_neg fun h => absurd h.2.2 (Nat.not_lt.mpr hle)

/-- The offset of URN_CL[n] (R433). -/
theorem State.ownerAt_urnCl (s : State) {n : Nat} (hn : n < 292) :
    s.ownerAt (0x20100 + 4 * n) = some ⟨.urnCl, n, 0⟩ := by
  have hblock : (0x20100 + 4 * n) / 0x10000 = 2 := by omega
  have hofs : (0x20100 + 4 * n) % 0x10000 = 0x100 + 4 * n := by omega
  have hsingle : regIn [(0x000, .urnBudget), (0x004, .urnStat), (0x008, .urnPower), (0x00C, .urnDefer)] 0 (0x100 + 4 * n) = none := by
    simp only [regIn, look]
    rw [if_neg (by omega), if_neg (by omega), if_neg (by omega), if_neg (by omega)]
    rfl
  rw [State.ownerAt, if_pos (by omega), hblock, hofs]
  dsimp only
  rw [urnAt, hsingle, arrAt_beyond (base := 0x040) (by omega) (by omega), arrAt_index (by omega) hn]
  rfl

/-- The offset of LEAF_DIVGRANT[j] of leaf p (R433). -/
theorem State.ownerAt_leafDivgrant (s : State) {p j : Nat} (hp : p < 52) (hj : j < 4) :
    s.ownerAt (0xD00080 + 0x1000 * p + 4 * j) = some ⟨.leafDivgrant, p, j⟩ := by
  have hleaf : (0xD00080 + 0x1000 * p + 4 * j - 0x0D00000) / 0x1000 = p := by omega
  have hofs : (0xD00080 + 0x1000 * p + 4 * j - 0x0D00000) % 0x1000 = 0x080 + 4 * j := by omega
  have hsingle : regIn [(0x000, .leafStatus), (0x0C0, .leafCrkSel)] p (0x080 + 4 * j) = none := by
    simp only [regIn, look]
    rw [if_neg (by omega), if_neg (by omega)]
    rfl
  rw [State.ownerAt, if_neg (by omega), if_neg (by omega), if_pos (by omega), hleaf, hofs, leafAt, hsingle, regArr, regArr,
    arrAt_beyond (base := 0x040) (by omega) (by omega), arrAt_index (by omega) hj]
  rfl

theorem State.applyHeld_cupStateReq (s : State) (m : Nat) (c : Fin 192) (v : Word) :
    s.applyHeld (.cupStateReq m c v) = s.writeStateReq m c v := rfl

theorem State.applyHeld_cupBdrvWrite (s : State) (m : Nat) (c : Fin 192) (sd : Fin 4) (v : Word) :
    s.applyHeld (.cupBdrvWrite m c sd v) = s.writeBdrv m c sd v := rfl

theorem State.applyHeld_cupBrdReqWrite (s : State) (m : Nat) (c : Fin 192) (sd : Fin 4) (v : Word) :
    s.applyHeld (.cupBrdReqWrite m c sd v) = s.writeBrdReq m c sd v := rfl

theorem State.applyHeld_tenantCreate (s : State) (m : Nat) (n : Fin 64) :
    s.applyHeld (.tenantCreate m n) = s.putTcmd m (tcmdWord 1 n.val) := rfl

/-- A held write of a register is made again by what its address names. -/
def State.writeAgain (s : State) (m : Nat) (k : Option RegKey) (v : Word) : State :=
  match k with
  | some k => match k.name with
    | .urnCl => s.putUrnCl m k.i v
    | .leafDivgrant => s.putDivgrant m k.i k.j v
    | _ => s
  | none => s

/-- A match on held writes that meets a write of a register, whatever it makes of it. -/
theorem held_registerWrite {m a w : Nat} {v : Word} {i : Instr} {A : Nat → Fin 192 → Word → State}
    {B C : Nat → Fin 192 → Fin 4 → Word → State} {D : Nat → Fin 64 → State} {F : Nat → Nat → Nat → Word → State} {G : State} :
    i = .registerWrite m a w v → (match i with
      | .cupStateReq m c v => A m c v
      | .cupBdrvWrite m c sd v => B m c sd v
      | .cupBrdReqWrite m c sd v => C m c sd v
      | .tenantCreate m n => D m n
      | .registerWrite m a w v => F m a w v
      | _ => G) = F m a w v := by
  rintro rfl
  rfl

/-- The offset stays as it is: it does not compute. -/
theorem State.applyHeld_registerWrite {m a w o : Nat} {v : Word} {k : Option RegKey} (ho : a - 0xF000000000 = o)
    (h : s.ownerAt o = k) {i : Instr} (hi : i = .registerWrite m a w v) : s.applyHeld i = s.writeAgain m k v := by
  refine (State.applyHeld.eq_def s i).trans ((held_registerWrite hi).trans ?_)
  rw [ho, h]
  rfl

section
variable (h : s.finals = [])
include h

/-- With no entry FINAL no write is held. -/
theorem State.holdOr_of_finals (p : Nat → Bool) (i : Instr) (act : State → State) : s.holdOr p i act = act s :=
  State.holdOr_free (by simp [h]) i act

theorem State.writeStateReq_free {v : Word} (hv : bits v 1 0 ≠ 3) (m : Nat) (c : Fin 192) :
    s.writeStateReq m c v = s.stateReq c.val (bits v 1 0) :=
  (if_neg hv).trans (State.holdOr_of_finals h _ _ _)

theorem State.putTcmd_free (m : Nat) (v : Word) : s.putTcmd m v = s.writeTcmd v := by
  rw [State.putTcmd]
  split
  · exact State.holdOr_of_finals h _ _ _
  · rfl

theorem State.writeAgain_urnCl (m n : Nat) (v : Word) : s.writeAgain m (some ⟨.urnCl, n, 0⟩) v = s.writeUrnCl n v :=
  State.holdOr_of_finals h (s.firmHeld n v) _ fun s => s.writeUrnCl n v

theorem State.writeAgain_leafDivgrant (m p j : Nat) (v : Word) :
    s.writeAgain m (some ⟨.leafDivgrant, p, j⟩) v = s.divgrantWrite p j v :=
  State.holdOr_of_finals h (s.divHeld p j v) _ fun s => s.divgrantWrite p j v

end

theorem exec_spCommitCheck {g : Fin 256} {T : Nat} (hs : s.serving = true) (hT : s.spGroupTick g.val = some T)
    (hdue : T ≤ s.tick + 25000) (hcasc : s.spCasc g.val = true) (hno : (s.group g.val).commit = false) :
    exec (.spCommitCheck g) s = .next (s.spCancel g.val 10 none) := by
  change execSpCommitCheck g s = _
  rw [execSpCommitCheck, whenServing_serving hs, hT]
  dsimp only
  rw [if_pos ⟨hdue, hcasc, hno⟩]

/-- The cause that a cancelled group gives an entry (R187). -/
def cancelCause (cause : Nat) (bad : Option Nat) (e : Nat) : Nat :=
  match bad with
  | some b => if e = b then cause else 12
  | none => cause

theorem State.spCancelMarks_eq (s : State) (g cause : Nat) (bad : Option Nat) :
    s.spCancelMarks g cause bad = s.spMarks (s.spArmedOf g) 5 (cancelCause cause bad) := rfl

/-- Every entry of a cancelled group reads CANCELLED with its cause, and no other entry changes. -/
theorem State.spCancel_entries (s : State) (g cause : Nat) (bad : Option Nat) (hb : s.fld ⟨.strSrc, 0x032, 0⟩ 21 20 ≠ 1) :
    (∀ e ∈ s.spArmedOf g, (s.spCancel g cause bad).spState e = 5 ∧
      (s.spCancel g cause bad).fld ⟨.spCtl, e, 0⟩ 15 12 = cancelCause cause bad e % 16) ∧
      ∀ e, e ∉ s.spArmedOf g → (s.spCancel g cause bad).reg ⟨.spCtl, e, 0⟩ = s.reg ⟨.spCtl, e, 0⟩ := by
  have hregs := (s.spCancel_rest g cause bad hb).1
  rw [State.spCancelMarks_eq] at hregs
  generalize s.spCancel g cause bad = t at hregs ⊢
  have hctl (e : Nat) : t.reg ⟨.spCtl, e, 0⟩ = (s.spMarks (s.spArmedOf g) 5 (cancelCause cause bad)).reg ⟨.spCtl, e, 0⟩ :=
    hregs _ (by simp [blkOf]) (by simp)
  refine ⟨fun e he => ?_, fun e he => (hctl e).trans (s.reg_spMarks_of_not_mem he 5 _)⟩
  obtain ⟨hstate, hcause⟩ := s.spMarks_of_mem he 5 (cancelCause cause bad)
  exact ⟨(congrArg (bits · 31 29) (hctl e)).trans hstate, (congrArg (bits · 15 12) (hctl e)).trans hcause⟩

/-- The flip of a cup at the swap point, with its status event. -/
theorem State.spAct_flip {c : Nat} (hact : s.spAction e = 1) (hcups : (s.spEnt e).cups = [c]) :
    s.spAct e = (s.flip c false).statusEvent c 3 0 e := by
  have h : (s.spEnt e).action = 1 := hact
  simp only [State.spAct, h, hcups, List.foldl]

theorem State.spAct_swap (hact : s.spAction e = 2) : s.spAct e = s.applySwap (bits ((s.spEnt e).arg 0) 3 0) := by
  have h : (s.spEnt e).action = 2 := hact
  simp only [State.spAct, h]

/-- What an executed flip of one cup shows. -/
theorem State.flipped_spec {c : Nat} {w : State} (hw : w = (s.flip c false).statusEvent c 3 0 e) :
    (w.cup c).bank = (!(s.cup c).bank) ∧ (w.cup c).active = (s.cup c).shadow ∧ (w.cup c).shadow = (s.cup c).active ∧
      (w.cup c).swapRoot = s.root ∧ (w.cup c).clearing = ((clearBlocks (s.cup c).shadow).map fun b => (b, 256)) ∧
      (w.spDone [e]).shadow c = 2 ∧ w.hbm = s.hbm := by
  obtain ⟨hview, hshadow, -⟩ := s.flip_spec c false
  have hcup := ((s.flip c false).swapView_statusEvent c c 3 0 e).trans hview
  have hready : ((s.flip c false).statusEvent c 3 0 e).shadow c = 2 :=
    (State.fld_congr ((s.flip c false).movesCups_statusEvent c 3 0 e).regs _ _ _).trans hshadow
  have hhbm : ((s.flip c false).statusEvent c 3 0 e).hbm = s.hbm := (State.hbm_statusEvent ..).trans (s.hbm_flip c false)
  rw [← hw] at hcup hready hhbm
  obtain ⟨hbank, hplane0, hplane1, hroot, hclear⟩ : _ ∧ _ ∧ _ ∧ _ ∧ _ := by
    simpa only [CupSt.swapView, Prod.mk.injEq] using hcup
  refine ⟨hbank, ?_, ?_, hroot, hclear, ?_, hhbm⟩
  · rw [CupSt.active, CupSt.shadow, hbank, hplane0, hplane1]
    cases (s.cup c).bank <;> rfl
  · rw [CupSt.active, CupSt.shadow, hbank, hplane0, hplane1]
    cases (s.cup c).bank <;> rfl
  · exact (congrArg (bits · 23 22) (w.reg_setReg_ne _ (by simp))).trans hready

/-- What an executed set of streams shows. -/
theorem State.swapped_spec (s : State) (e set : Nat) : let t := (s.applySwap set).spDone [e]
    (∀ n p, (s.stream n).prep = some p → p.set = set → t.stream n = { s.stream n with prep := some { p with applied := true } }) ∧
      s.keepsRegs t [⟨.spCtl, e, 0⟩] ∧
      t = { s with regs := t.regs, streams := t.streams, spLocal := erase s.spLocal e } := by
  intro t
  obtain ⟨hmoves, hcups⟩ := State.foldl_modStream_rest (fun x => { x with prep := x.prep.map fun p => { p with applied := true } })
    (s.setMembers set) s
  have hrest : s.applySwap set = { s with streams := (s.applySwap set).streams } := by
    have h : s.movesStreams (s.applySwap set) := hmoves
    have hc : (s.applySwap set).cups = s.cups := hcups
    unfold State.movesStreams at h
    rw [hc] at h
    exact h
  have hstream (n : Nat) (p : Prep) (hp : (s.stream n).prep = some p) (hset : p.set = set) :
      (s.applySwap set).stream n = { s.stream n with prep := some { p with applied := true } } := by
    rw [s.stream_applySwap, if_pos (State.mem_setMembers hp hset), hp]
    rfl
  change (∀ n p, _ → _ → ((s.applySwap set).spDone [e]).stream n = _) ∧ s.keepsRegs ((s.applySwap set).spDone [e]) _ ∧
    (s.applySwap set).spDone [e] = { s with
      regs := ((s.applySwap set).spDone [e]).regs, streams := ((s.applySwap set).spDone [e]).streams
      spLocal := erase s.spLocal e }
  generalize s.applySwap set = w at hrest hstream
  refine ⟨hstream, fun k hk => ?_, ?_⟩
  · exact (State.reg_setReg_ne _ _ (List.ne_of_not_mem_cons hk)).trans (State.reg_congr (by rw [hrest]) k)
  · generalize w.streams = X at hrest
    subst hrest
    rfl

/-- Settles O23: the checks by what each group's entries read, the swap point by its one loop over the groups of its tick,
and the held writes one by one. -/
theorem groupsBecomeFinalAndExecute : Obligations.GroupsBecomeFinalAndExecute := by
  unfold Obligations.GroupsBecomeFinalAndExecute
  refine ⟨?final, ?uncommitted, ?executes, ?swapSet, ?flips, ?retired, ?none, ?stateReq, ?drives, ?modes, ?create, ?client,
    ?divider, ?first⟩
  case final =>
    intro s g T hs hT hdue harmed hpass
    obtain ⟨hregs, hrest⟩ := State.foldl_spFix_rest (s.spArmedOf g.val) s
    exact ⟨_, exec_spFinalCheck hs hT hdue harmed hpass, fun e he => State.foldl_spFix_of_mem he s,
      fun e he => State.foldl_spFix_of_not_mem he s, hregs, hrest⟩
  case uncommitted =>
    intro s g T hs hT hdue hcasc hno hb
    obtain ⟨-, hcups, hrest⟩ := s.spCancel_rest g.val 10 none hb
    obtain ⟨hentries, hothers⟩ := s.spCancel_entries g.val 10 none hb
    exact ⟨_, exec_spCommitCheck hs hT hdue hcasc hno, hentries, hothers, hcups, by rw [hrest],
      State.keepsHbm_of_eq (by rw [hrest])⟩
  case executes =>
    intro s g hs hroot hmode hg hfree
    obtain ⟨L, o, hlink⟩ := State.foldl_casReport (s.groupsNow.filter s.spCasc) (s.spRun (s.groupsNow.flatMap s.spArmedOf))
    refine ⟨_, exec_spExecute hs hroot hmode hg, ?_⟩
    rw [State.swapPoint_free hfree, hlink]
    have hhbm := s.hbm_spRun (s.groupsNow.flatMap s.spArmedOf)
    have hdone (g' : Nat) (hg' : g' ∈ s.groupsNow) (e : Nat) (he : e ∈ s.spArmedOf g') :=
      State.spDone_of_mem (List.mem_flatMap.mpr ⟨g', hg', he⟩)
        ((s.spOrder (s.groupsNow.flatMap s.spArmedOf)).foldl (fun (s : State) e => s.spAct e) s)
    simp only [← State.spRun_eq] at hdone
    generalize s.spRun (s.groupsNow.flatMap s.spArmedOf) = t at hhbm hdone
    exact ⟨hdone, State.keepsHbm_of_eq hhbm⟩
  case swapSet =>
    rintro s g e hs harmed - hroot hmode - hact hcasc hnow
    refine ⟨_, exec_spExecute hs hroot hmode (hnow ▸ List.mem_singleton_self _), ?_⟩
    rw [State.swapPoint_one hnow harmed (by rw [State.spGone, hact]; rfl) hcasc (.inr hact), State.spAct_swap hact]
    exact s.swapped_spec e _
  case flips =>
    rintro s g e c hs harmed - hroot hmode - hact hcups hcasc hgone hnow
    have hfree : s.spGone e = false := by
      rw [State.spGone, hact, hcups, List.any_cons, hgone]
      rfl
    refine ⟨_, exec_spExecute hs hroot hmode (hnow ▸ List.mem_singleton_self _), ?_⟩
    rw [State.swapPoint_one hnow harmed hfree hcasc (.inl hact), State.spAct_flip hact hcups]
    obtain ⟨w, hw⟩ : ∃ w, w = (s.flip c false).statusEvent c 3 0 e := ⟨_, rfl⟩
    obtain ⟨hbank, hactive, hshadow, hswap, hclear, hready, hhbm⟩ := State.flipped_spec hw
    rw [← hw]
    exact ⟨hbank, hactive, hshadow, hswap, hclear, hready, State.keepsHbm_of_eq hhbm⟩
  case retired =>
    rintro s g e hs harmed - hroot hmode - hgone hnow hb
    refine ⟨_, exec_spExecute hs hroot hmode (hnow ▸ List.mem_singleton_self _), ?_⟩
    obtain ⟨-, hcups, hrest⟩ := s.spCancel_rest g.val 6 (some e) hb
    obtain ⟨hentries, -⟩ := s.spCancel_entries g.val 6 (some e) hb
    obtain ⟨hstate, hcause⟩ := hentries e (harmed ▸ List.mem_singleton_self e)
    rw [State.swapPoint_gone hnow harmed hgone hb]
    refine ⟨hstate, hcause.trans ?_, hcups, by rw [hrest]⟩
    rw [cancelCause, if_pos rfl]
  case none => exact fun s hl h => exec_spHeldWritesApply_none hl h
  case stateReq =>
    intro s T m c v hl hheld hT hfin hv
    rw [exec_spHeldWritesApply_first hl hheld hT (by simp), State.applyHeld_cupStateReq,
      State.writeStateReq_free (s := { s with heldWrites := [] }) hfin hv]
  case drives =>
    intro s T m c sd v hl hheld hT hfin
    rw [exec_spHeldWritesApply_first hl hheld hT (by simp), State.applyHeld_cupBdrvWrite, State.writeBdrv,
      State.holdOr_of_finals (s := { s with heldWrites := [] }) hfin]
  case modes =>
    intro s T m c sd v hl hheld hT hfin
    rw [exec_spHeldWritesApply_first hl hheld hT (by simp), State.applyHeld_cupBrdReqWrite, State.writeBrdReq,
      State.holdOr_of_finals (s := { s with heldWrites := [] }) hfin]
  case create =>
    intro s T m n hl hheld hT hfin
    rw [exec_spHeldWritesApply_first hl hheld hT (by simp), State.applyHeld_tenantCreate,
      State.putTcmd_free (s := { s with heldWrites := [] }) hfin]
  case client =>
    intro s T m n v hl hn hheld hT hfin
    rw [exec_spHeldWritesApply_first hl hheld hT (by simp),
      State.applyHeld_registerWrite (show 0xF000020100 + 4 * n - 0xF000000000 = 0x20100 + 4 * n by omega)
        (State.ownerAt_urnCl _ hn) rfl, State.writeAgain_urnCl (s := { s with heldWrites := [] }) hfin]
  case divider =>
    intro s T m p j v hl hp hj hheld hT hfin
    rw [exec_spHeldWritesApply_first hl hheld hT (by simp),
      State.applyHeld_registerWrite
        (show 0xF000D00080 + 0x1000 * p + 4 * j - 0xF000000000 = 0xD00080 + 0x1000 * p + 4 * j by omega)
        (State.ownerAt_leafDivgrant _ hp hj) rfl, State.writeAgain_leafDivgrant (s := { s with heldWrites := [] }) hfin]
  case first =>
    intro s T i w hl hheld hT hw
    exact exec_spHeldWritesApply_first hl hheld hT (by simpa using hw)

end Sys2Proof.Machine
end

section
/-! PROOF. A loss of the reference ends every lease, but the write-back of a slice whose self-refresh was deferred may start a
re-key sweep, which takes a lease of its own (R252, R287, R290, R359, R378). -/

namespace Sys2Proof.Machine

variable {s t u : State}

/-- From s to t a lease has been taken, and LOSS_MODE stands. -/
structure Sweeps (s t : State) : Prop where
  leases : t.leases ≠ []
  ctl : t.reg ⟨.clkCtl, 0, 0⟩ = s.reg ⟨.clkCtl, 0, 0⟩

theorem Sweeps.of_eq (h : Sweeps t u) (hs : t.reg ⟨.clkCtl, 0, 0⟩ = s.reg ⟨.clkCtl, 0, 0⟩) :
    Sweeps s u := ⟨h.leases, h.ctl.trans hs⟩

theorem Sweeps.rest (h : Sweeps s t) (hl : u.leases = t.leases) (hr : u.reg ⟨.clkCtl, 0, 0⟩ = t.reg ⟨.clkCtl, 0, 0⟩) : Sweeps s u :=
  ⟨hl ▸ h.leases, hr.trans h.ctl⟩

/-! ### A lease with none held (R394) -/

theorem State.leases_logLease (s : State) (event : Nat) (cls : LeaseClass) (rs : List Resource) (dom : Nat) :
    (s.logLease event cls rs dom).leases = s.leases := rfl

/-- With no lease held a re-key sweep gets its own. -/
theorem State.leaseTry_sweep (hl : s.leases = []) (st r dom : Nat) :
    Sweeps s (s.leaseTry .rekeySweep (sweepLease st r) dom).1 := by
  have hfree : s.freeLease .rekeySweep = some 0 := by
    have hrange : List.range 511 = 0 :: (List.range 510).map Nat.succ := List.range_succ_eq_map
    rw [State.freeLease, if_neg (by decide), hl, hrange]
    rfl
  have hconf : s.spConflicts .rekeySweep (sweepLease st r) = [] := List.filter_eq_nil_iff.mpr fun _ _ => by simp [sweepLease]
  have hok : s.leaseOk .rekeySweep (sweepLease st r) = true := by
    rw [State.leaseOk, hl, hconf, hfree]
    rfl
  rw [State.leaseTry, hfree]
  dsimp only
  rw [if_pos hok, hl]
  simp only [List.filter_nil, List.foldl_nil, hl]
  refine ⟨?_, rfl⟩
  simp [State.leases_logLease, nset, insertAt]

/-! ### The last line before a sweep (R287) -/

theorem State.leases_startSweep (s : State) (r : Nat) : (s.startSweep r).leases = s.leases := rfl

/-- A range whose counter reaches the number at which a sweep starts takes its lease. -/
theorem State.countLine_sweep {r : Nat} (hl : s.leases = []) (hr : s.rangeState r = 2) (hc : rekeyAt ≤ (s.range r).wcnt + 1)
    (n : Nat) : Sweeps s (s.countLine r n) := by
  have hcount : ((s.modRange r fun x => { x with wcnt := x.wcnt + 1 }).range r).wcnt = (s.range r).wcnt + 1 :=
    congrArg RangeSt.wcnt (nget_nput_self ..)
  have hstate : (s.modRange r fun x => { x with wcnt := x.wcnt + 1 }).rangeState r = 2 := hr
  rw [State.countLine]
  dsimp only
  rw [if_neg (by simp [hr]), if_pos ⟨hstate, hcount ▸ hc⟩]
  refine (State.leaseTry_sweep ?_ _ _ _).of_eq (State.reg_setReg_ne _ _ (by simp))
  rw [State.leases_startSweep, State.modRange_leases]
  exact hl

/-- The leases, the ranges and the registers. -/
def State.keyed (s : State) : List (Nat × Lease) × List (Nat × RangeSt) × List (RegKey × Word) := (s.leases, s.ranges, s.regs)

theorem State.keyed_accessRow (s : State) (n : Nat) : (s.accessRow n).keyed = s.keyed := by
  rw [State.accessRow]
  dsimp only
  generalize nset s.banks _ _ = B
  rfl

theorem State.keyed_setCell (s : State) (a : Nat) (b : Byte) : (s.setCell a b).keyed = s.keyed := by
  rw [State.setCell]
  generalize nput s.hbm _ _ _ = H
  rfl

theorem State.keyed_store (s : State) (n : Nat) (line : List Byte) : (s.store n line).keyed = s.keyed := by
  rw [State.store, State.fillCells]
  exact (foldl_keeps (get := State.keyed) (fun s b _ => s.keyed_setCell _ _) _).trans (s.keyed_accessRow n)

/-- What a stored codeword leaves. -/
theorem State.keyed_storeCode (s : State) (n : Nat) (ct : List Byte) (tag : Nat) : (s.storeCode n ct tag).keyed = s.keyed := by
  rw [State.storeCode]
  dsimp only
  split
  · rw [State.keyed_store]
    split <;> rfl
  · rw [State.keyed_store]
    rfl

theorem State.storeLine_sweep {r : Nat} (hl : s.leases = []) (hr : s.rangeState r = 2) (hc : rekeyAt ≤ (s.range r).wcnt + 1)
    (n : Nat) (plain : List Byte) : Sweeps s (s.storeLine r n plain) := by
  obtain ⟨ct, tag, hdef⟩ : ∃ ct tag, s.storeLine r n plain = (s.storeCode n ct tag).countLine r n := ⟨_, _, rfl⟩
  obtain ⟨hleases, hranges, hregs⟩ : _ ∧ _ ∧ _ := by
    simpa only [State.keyed, Prod.mk.injEq] using s.keyed_storeCode n ct tag
  rw [hdef]
  generalize s.storeCode n ct tag = t at *
  refine (State.countLine_sweep (hleases.trans hl) ((State.fld_congr hregs _ _ _).trans hr) ?_ n).of_eq (State.reg_congr hregs _)
  rw [State.range, hranges]
  exact hc

/-- So does the write-back of a line of it. -/
theorem State.writeBack_sweep {l : CacheLine} {st r : Nat} (hpoison : l.poison = false) (hbad : l.bad = false)
    (hrange : s.rangeAt (64 * (st * (stackBytes / 64) + l.line)) = some r)
    (hgroup : s.groupRetired (64 * (st * (stackBytes / 64) + l.line)) = false) (hl : s.leases = []) (hr : s.rangeState r = 2)
    (hc : rekeyAt ≤ (s.range r).wcnt + 1) : Sweeps s (s.writeBack l st) := by
  simp only [State.writeBack, hpoison, hbad, hrange, hgroup, Bool.false_eq_true, if_false]
  exact State.storeLine_sweep hl hr hc _ _

/-- And the self-refresh of a stack whose only dirty line that is. -/
theorem State.enterSr_sweep {st i r : Nat} {l : CacheLine} (hdirty : ((s.stk st).cache.filter fun e => e.2.dirty || e.2.poison) = [(i, l)])
    (hpoison : l.poison = false) (hbad : l.bad = false)
    (hrange : s.rangeAt (64 * (st * (stackBytes / 64) + l.line)) = some r)
    (hgroup : s.groupRetired (64 * (st * (stackBytes / 64) + l.line)) = false) (hl : s.leases = []) (hr : s.rangeState r = 2)
    (hc : rekeyAt ≤ (s.range r).wcnt + 1) : Sweeps s (s.enterSr st) := by
  have hflush : s.flushSlice st = (s.writeBack l st).modStk st fun x => { x with cache := [] } := by
    rw [State.flushSlice, hdirty]
    rfl
  have hback := State.writeBack_sweep hpoison hbad hrange hgroup hl hr hc
  rw [State.enterSr, hflush]
  refine hback.rest ?_ (State.reg_setReg_ne _ _ (by simp))
  rw [State.setFld_leases, State.modStk_leases, State.modStk_leases]

/-! ### A stop of the root -/

/-- A stop leaves the leases as they are. -/
theorem State.leases_stopRoot (s : State) : s.stopRoot.leases = s.leases := by
  have hpcie : s.pcieDown.leases = s.leases := by
    rw [State.pcieDown]
    refine foldl_keeps (get := State.leases) (fun s l _ => ?_) s
    split
    · rw [State.modLane_leases]
    · rfl
  have hlines (u : State) : u.stopLines.leases = u.leases := by
    rw [State.stopLines]
    refine foldl_keeps (get := State.leases) (fun s c _ => ?_) u
    split
    · rw [State.modCup_leases]
    · rfl
  have hstacks (u : State) : ((List.range 8).foldl (fun (s : State) st => s.setFld ⟨.stkStat, st, 0⟩ 31 30 2) u).leases = u.leases :=
    foldl_keeps (get := State.leases) (fun s _ _ => s.setFld_leases _ _ _ _) u
  obtain ⟨u, hu, hdef⟩ : ∃ u : State, u.leases = s.leases ∧
      s.stopRoot = { u with clk := { u.clk with mode := .holding }, pins := { u.pins with squelched := true } } :=
    ⟨_, (State.setFld_leases ..).trans ((hstacks _).trans ((hlines _).trans hpcie)), rfl⟩
  rw [hdef]
  exact hu

/-- With one deferred request, of a stack, and one lease, that request is what the end of the leases carries out. -/
theorem State.endLeases_one {e st tick : Nat} {l : Lease} (hl : s.leases = [(e, l)])
    (hd : (s.stopActivity e).urn.deferred = [(256 + st, tick)])
    (hst : st < 8) : s.endLeases = (s.stopActivity e).stackUndefer st := by
  rw [State.endLeases, hl]
  dsimp only [List.map, List.foldl]
  rw [State.undeferAll, hd]
  dsimp only [List.map, List.foldl]
  rw [State.undefer, if_neg (by omega), if_neg (by omega), if_pos (by omega), Nat.add_sub_cancel_left]

/-- A deferred self-refresh that nothing defers any more is carried out. -/
theorem State.stackUndefer_enters {st : Nat} (hd : (s.stk st).deferredSr = true) (hl : s.leases = [])
    (hreq : (s.dropSr st).flag ⟨.stkCtl, st, 0⟩ 31 = true) (hin : (s.dropSr st).inSr st = false)
    (hfree : (s.dropSr st).srFree st = true) : s.stackUndefer st = (s.dropSr st).enterSr st := by
  simp [State.stackUndefer, hd, hl, hreq, hin, hfree]

/-! ### The state that refutes the statement -/

/-- The range of HBM whose counter stands one below the start of a sweep. -/
def fullRange : RangeSt := { wcnt := rekeyAt - 1 }

/-- A dirty line of that range. -/
def dirtyLine : CacheLine := { line := 0, bytes := [], dirty := true }

/-- A device in service after one window outside the limits: a patrol scrub of its stack 0 defers the self-refresh that
STK_CTL asks for, and the one dirty line of the stack's slice is the next write under the keys of range 1. -/
def scrubbing : State :=
  { phase := .service
    clk := { mode := .running, bad := 1 }
    regs := [(⟨.clkCtl, 0, 0⟩, 1), (⟨.stkCtl, 0, 0⟩, 0x80000000), (⟨.infRngStat, 1, 0⟩, 2)]
    stks := [(0, { cache := [(0, dirtyLine)], deferredSr := true })]
    ranges := [(1, fullRange)]
    urn := { deferred := [(256, 0)] }
    leases := [(0, { cls := .patrolScrub, rs := [.pch 0], dom := 0x00, started := 0, renewed := 0, deferAt := some 0 })] }

/-- The loss as its leases end. -/
def State.lossNoted (s : State) : State :=
  let s := s.countLoss.loseTime
  { s with clk := { s.clk with lost := (List.range 256).filter fun e => s.spArmed e || s.clk.lost.contains e } }

theorem State.refLoss_eq (s : State) :
    s.refLoss = if s.lossNoted.endLeases.lossStops then s.lossNoted.endLeases.stopRoot else s.lossNoted.endLeases.coastRoot := by
  rw [State.refLoss]
  rfl

theorem exec_refWindow_loss {n : Fin 1024} (hmode : s.clk.mode = .running) (hsafe : s.stoppedSafe = false)
    (hout : s.refInside n.val = false) (hbad : s.clk.bad = 1) :
    exec (.refWindow n) s = .next ({ (s.setReg ⟨.clkRefcnt, 0, 0⟩ (BitVec.ofNat 32 n.val)) with
      clk := { s.clk with bad := 2, good := 0 } }.refLoss) := by
  have hout' : (s.setReg ⟨.clkRefcnt, 0, 0⟩ (BitVec.ofNat 32 n.val)).refInside n.val = false := by
    rw [State.refInside, State.flag, State.reg_setReg_ne _ _ (by simp)]
    exact hout
  change execRefWindow n s = _
  rw [execRefWindow, if_neg (by simp [hmode, hsafe])]
  dsimp only
  rw [hout', if_neg (by simp), if_neg (by simp [hbad]), if_pos (.inl hmode)]
  simp [hbad]

/-- Where the leases end in a sweep, a stop leaves its lease. -/
theorem State.refLoss_sweeps (h : Sweeps s s.lossNoted.endLeases) (hmode : bits (s.reg ⟨.clkCtl, 0, 0⟩) 1 0 = 1) :
    s.refLoss.leases ≠ [] := by
  have hstops : s.lossNoted.endLeases.lossStops = true := by
    have hlossMode : s.lossNoted.endLeases.lossMode = 1 := (congrArg (bits · 1 0) h.ctl).trans hmode
    rw [State.lossStops, hlossMode]
    simp
  rw [State.refLoss_eq, if_pos hstops, State.leases_stopRoot]
  exact h.leases

/-- The state in which the deferred self-refresh of the counterexample is carried out: the reference is lost, and the scrub has
stopped. -/
def State.scrubStopped (s : State) : State := (s.lossNoted.stopActivity 0).dropSr 0

/-- The second window of the counterexample outside the limits. -/
def scrubLost : State :=
  { (scrubbing.setReg ⟨.clkRefcnt, 0, 0⟩ 0) with clk := { scrubbing.clk with bad := 2, good := 0 } }

theorem scrubLost_sweeps : Sweeps scrubLost scrubLost.lossNoted.endLeases := by
  have hasks : ((scrubLost.lossNoted.stopActivity 0).stk 0).deferredSr = true ∧
      (scrubLost.lossNoted.stopActivity 0).leases = [] ∧ scrubLost.scrubStopped.flag ⟨.stkCtl, 0, 0⟩ 31 = true ∧
      scrubLost.scrubStopped.inSr 0 = false ∧ scrubLost.scrubStopped.srFree 0 = true := by decide +kernel
  have hline : ((scrubLost.scrubStopped.stk 0).cache.filter fun e => e.2.dirty || e.2.poison) = [(0, dirtyLine)] ∧
      scrubLost.scrubStopped.rangeAt (64 * (0 * (stackBytes / 64) + dirtyLine.line)) = some 1 ∧
      scrubLost.scrubStopped.groupRetired (64 * (0 * (stackBytes / 64) + dirtyLine.line)) = false ∧
      scrubLost.scrubStopped.leases = [] ∧ scrubLost.scrubStopped.rangeState 1 = 2 ∧
      rekeyAt ≤ (scrubLost.scrubStopped.range 1).wcnt + 1 := by decide +kernel
  have hctl : scrubLost.scrubStopped.reg ⟨.clkCtl, 0, 0⟩ = scrubLost.reg ⟨.clkCtl, 0, 0⟩ := by decide +kernel
  have hdeferred : (scrubLost.lossNoted.stopActivity 0).urn.deferred = [(256 + 0, 0)] := by decide +kernel
  obtain ⟨hdef, hl, hreq, hin, hfree⟩ := hasks
  obtain ⟨hdirty, hrange, hgroup, hnone, hactive, hcount⟩ := hline
  rw [State.endLeases_one rfl hdeferred (by omega), State.stackUndefer_enters hdef hl hreq hin hfree]
  exact (State.enterSr_sweep hdirty rfl rfl hrange hgroup hnone hactive hcount).of_eq hctl

/-- Refutes O47: at the loss the deferred self-refresh of stack 0 is carried out, the line that its slice writes back
starts a re-key sweep of range 1, and the sweep's lease outlives the end of the leases. -/
theorem not_referenceLossStopsOrCoastsTheRoot : ¬ Obligations.ReferenceLossStopsOrCoastsTheRoot := by
  unfold Obligations.ReferenceLossStopsOrCoastsTheRoot
  rintro ⟨-, -, -, hstop, -⟩
  have hscrub : scrubbing.stoppedSafe = false ∧ scrubbing.flag ⟨.clkStat, 0, 0⟩ 28 = false ∧ scrubbing.lossStops = true ∧
      scrubbing.refInside 0 = false := by decide +kernel
  obtain ⟨hsafe, hosc, hstops, hout⟩ := hscrub
  obtain ⟨t, ht, -, -, -, -, -, -, -, -, -, -, -, hleases, -⟩ := hstop scrubbing 0 (.inl rfl) hsafe hosc
    (.inl (by decide)) rfl hstops
  have hexec : exec (.refWindow 0) scrubbing = .next scrubLost.refLoss := exec_refWindow_loss rfl hsafe hout rfl
  obtain rfl : scrubLost.refLoss = t := by simpa using hexec.symm.trans ht
  exact State.refLoss_sweeps scrubLost_sweeps (by decide +kernel) hleases

end Sys2Proof.Machine
end

section
/-! PROOF. The counts of the clocks, device time and the queue through what follows a root cycle (R166, R172, R350): no
operation there writes one, by one lemma per operation in the shape of its definition. First the ways to build a state,
the registers, the responses and the events. -/

namespace Sys2Proof.Machine

/-- What a root cycle counts, and the queue. -/
def State.clockwork (s : State) : Nat × Nat × Nat × List Instr := (s.root, s.aon, s.time.acc, s.pending)

/-- The counts and the queue stand at w. -/
def Clocked (w : Nat × Nat × Nat × List Instr) (s : State) : Prop := s.clockwork = w

variable {w : Nat × Nat × Nat × List Instr} {s t : State}

/-! ### Ways to build a state -/

/-- A choice between two states. -/
theorem Clocked.ite {c : Prop} [Decidable c] (hs : Clocked w s) (ht : Clocked w t) :
    Clocked w (if c then s else t) := by
  split <;> assumption

/-- A choice between two states that each come with a value. -/
theorem Clocked.ite_fst {α : Type} {c : Prop} [Decidable c] {x y : State × α} (hs : Clocked w x.1)
    (ht : Clocked w y.1) : Clocked w (if c then x else y).1 := by
  split <;> assumption

/-- Steps in a row. -/
theorem Clocked.foldl {ι : Type} {f : State → ι → State} {l : List ι} (h : Clocked w s)
    (hf : ∀ t i, Clocked w t → Clocked w (f t i)) : Clocked w (l.foldl f s) :=
  List.foldlRecOn l f h fun t ht i _ => hf t i ht

/-- Steps in a row that each give a value too. -/
theorem Clocked.foldl_fst {ι α : Type} {f : State × α → ι → State × α} {l : List ι} {x : State × α} (h : Clocked w x.1)
    (hf : ∀ t y i, Clocked w t → Clocked w (f (t, y) i).1) : Clocked w (l.foldl f x).1 :=
  List.foldlRecOn (motive := fun e : State × α => Clocked w e.1) l f h fun e he i _ => hf e.1 e.2 i he

/-- The state of a result taken apart. -/
theorem Clocked.of_fst {α : Type} {p : State × α} {x : α} (e : p = (t, x)) (h : Clocked w p.1) : Clocked w t := by
  rw [e] at h
  exact h

/-- A state given with a value. -/
theorem Clocked.pair {α : Type} {x : α} (h : Clocked w s) : Clocked w (s, x).1 := h

/-- A record whose counts and queue are s's. -/
theorem Clocked.update (h : Clocked w s)
    (e : (t.root, t.aon, t.time.acc, t.pending) = (s.root, s.aon, s.time.acc, s.pending)) : Clocked w t :=
  e.trans h

/-! ### Registers and parts -/

theorem Clocked.setReg {k : RegKey} {v : Word} (h : Clocked w s) : Clocked w (s.setReg k v) := .update h rfl

theorem Clocked.modPch {x : Nat} {f : PchSt → PchSt} (h : Clocked w s) : Clocked w (s.modPch x f) := .update h rfl

theorem Clocked.modStk {i : Nat} {f : StackSt → StackSt} (h : Clocked w s) : Clocked w (s.modStk i f) := .update h rfl

theorem Clocked.setFld {k : RegKey} {hi lo v : Nat} (h : Clocked w s) : Clocked w (s.setFld k hi lo v) := .setReg h

theorem Clocked.exitSr {st : Nat} (h : Clocked w s) : Clocked w (s.exitSr st) := by
  delta State.exitSr
  extract_lets _ s1 s2
  have h1 : Clocked w s1 := .foldl h fun _ _ h1 => .setReg h1
  have h2 : Clocked w s2 := .foldl h1 fun _ _ h2 => .ite h2 (.modPch h2)
  exact .modStk (.setFld h2)

theorem Clocked.touchStack {st : Nat} (h : Clocked w s) : Clocked w (s.touchStack st) := .ite (.exitSr h) (.modStk h)

theorem Clocked.countUp {k : RegKey} {hi lo : Nat} (h : Clocked w s) : Clocked w (s.countUp k hi lo) := .setFld h

theorem Clocked.setFlag {k : RegKey} {n : Nat} {b : Bool} (h : Clocked w s) : Clocked w (s.setFlag k n b) := .setFld h

theorem Clocked.modEvq {win : Nat} {f : EvQueue → EvQueue} (h : Clocked w s) : Clocked w (s.modEvq win f) :=
  .update h rfl

theorem Clocked.log {o : Out} (h : Clocked w s) : Clocked w (s.log o) := .update h rfl

theorem Clocked.signalCores {d : Nat} (h : Clocked w s) : Clocked w (s.signalCores d) :=
  .foldl h fun _ _ h1 => .ite (.log h1) h1

theorem Clocked.sendMsix {win vec : Nat} (h : Clocked w s) : Clocked w (s.sendMsix win vec) :=
  .ite (.ite (.log h) h) (.ite (.log h) h)

theorem Clocked.enqueueEvent {win cap vec : Nat} {r : CadRec} (h : Clocked w s) :
    Clocked w (s.enqueueEvent win cap vec r) := by
  delta State.enqueueEvent
  extract_lets _ s1
  have h1 : Clocked w s1 := .modEvq h
  exact .ite (.ite h1 (.signalCores (.sendMsix (.setFlag h1)))) (.countUp h)

theorem Clocked.errPulse (h : Clocked w s) : Clocked w s.errPulse := by
  delta State.errPulse
  extract_lets _ s1
  have h1 : Clocked w s1 := .update h rfl
  exact .ite (.setFlag h1) h1

theorem Clocked.setCup {c : Nat} {x : CupSt} (h : Clocked w s) : Clocked w (s.setCup c x) := .update h rfl

theorem Clocked.statusEvent {c kind detail obj : Nat} (h : Clocked w s) :
    Clocked w (s.statusEvent c kind detail obj) := by
  delta State.statusEvent
  extract_lets
  exact .ite (.setCup h) (.setCup h)

theorem Clocked.l2Mark {cl : Nat} {p : Nat → Bool} (h : Clocked w s) : Clocked w (s.l2Mark cl p) := .update h rfl

theorem Clocked.pinSplit {t' d : Nat} (h : Clocked w s) : Clocked w (s.pinSplit t' d) := by
  delta State.pinSplit
  extract_lets _ _ s1
  have h1 : Clocked w s1 := .setFld h
  exact .l2Mark h1

theorem Clocked.setFields {k : RegKey} {fs : List (Nat × Nat × Nat)} (h : Clocked w s) : Clocked w (s.setFields k fs) :=
  .setReg h

/-! ### Responses, and what a BLOCK reset discards (R466) -/

theorem Clocked.dropClient {n : Nat} (h : Clocked w s) : Clocked w (s.dropClient n) := .setFields (.update h rfl)

theorem Clocked.modCup {c : Nat} {f : CupSt → CupSt} (h : Clocked w s) : Clocked w (s.modCup c f) := .setCup h

theorem Clocked.modLeaf {p : Nat} {f : LeafSt → LeafSt} (h : Clocked w s) : Clocked w (s.modLeaf p f) := .update h rfl

theorem Clocked.holdUntil {m tag due : Nat} {eff : HeldEff} (h : Clocked w s) : Clocked w (s.holdUntil m tag due eff) :=
  .update h rfl

theorem Clocked.hold {m tag latency : Nat} {eff : HeldEff} (h : Clocked w s) : Clocked w (s.hold m tag latency eff) :=
  .holdUntil h

theorem Clocked.respond {m tag : Nat} {code : Code} {bytes : List Byte} (h : Clocked w s) :
    Clocked w (s.respond m tag code bytes) := .ite h (.ite (.ite h (.setFlag h)) (.update h rfl))

theorem Clocked.denyIn {win : Bool} {m tag : Nat} (h : Clocked w s) : Clocked w (s.denyIn win m tag) :=
  .ite (.hold h) (.respond h)

theorem Clocked.denyTray {m tag : Nat} (h : Clocked w s) : Clocked w (s.denyTray m tag) := .denyIn h

theorem Clocked.colForget {n : Nat} (h : Clocked w s) : Clocked w (s.colForget n) := by
  delta State.colForget
  extract_lets
  exact .foldl (.update h rfl) fun _ _ h1 => .denyTray h1

theorem Clocked.modLane {l : Nat} {f : LaneSt → LaneSt} (h : Clocked w s) : Clocked w (s.modLane l f) := .update h rfl

theorem Clocked.lanePort {l : Nat} (h : Clocked w s) : Clocked w (s.lanePort l) := .ite (.modLane h) h

theorem Clocked.setQueue {q : QRef} {x : QueueSt} (h : Clocked w s) : Clocked w (s.setQueue q x) := .update h rfl

theorem Clocked.modQuad {q : Nat} {f : QuadSt → QuadSt} (h : Clocked w s) : Clocked w (s.modQuad q f) := .update h rfl

theorem Clocked.portForget {q : Nat} (h : Clocked w s) : Clocked w (s.portForget q) := by
  delta State.portForget
  extract_lets s1
  have h1 : Clocked w s1 := .foldl h fun _ _ h1 => .lanePort h1
  exact .setQueue (.setQueue (.modQuad h1))

theorem Clocked.coreForget {t' : Nat} (h : Clocked w s) : Clocked w (s.coreForget t') := by
  delta State.coreForget
  extract_lets _ s1
  have h1 : Clocked w s1 := .dropClient (.update h rfl)
  exact .ite h1 (.dropClient h1)

theorem Clocked.blockStore {n : Nat} (h : Clocked w s) : Clocked w (s.blockStore n) := by
  delta State.blockStore
  refine .ite (.update h rfl) (.ite (.update h rfl) (.ite ?_ (.ite ?_ (.ite (.modLeaf h) (.ite (.colForget h) (.ite
    (.modLane h) (.ite (.portForget h) (.ite (.update h rfl) (.ite (.update h rfl) (.ite (.update h rfl) (.ite (.update
    h rfl) (.ite (.update h rfl) (.ite (.coreForget h) (.ite (.l2Mark h) (.ite (.update h rfl) h)))))))))))))))
  · extract_lets
    exact .update h rfl
  · extract_lets _ s1 _ s2 s3
    have h1 : Clocked w s1 := .dropClient (.update h rfl)
    have h2 : Clocked w s2 := .update h1 rfl
    have h3 : Clocked w s3 := .modCup h2
    exact .update h3 rfl

theorem Clocked.blockRegs {p : RegKey → Bool} (h : Clocked w s) : Clocked w (s.blockRegs p) := .update h rfl

theorem Clocked.urnReset (h : Clocked w s) : Clocked w s.urnReset := by
  delta State.urnReset
  extract_lets _ s1
  have h1 : Clocked w s1 := .update h rfl
  exact h1

theorem Clocked.blockReset {n : Nat} (h : Clocked w s) : Clocked w (s.blockReset n) := by
  delta State.blockReset
  extract_lets _ s1 s2
  have h1 : Clocked w s1 := .ite (.pinSplit h) h
  have h2 : Clocked w s2 := .blockStore (.blockRegs (.ite (.urnReset h1) h1))
  exact .ite (.setFld h2) h2

/-! ### Events -/

theorem Clocked.addRecord {r : CadRec} (h : Clocked w s) : Clocked w (s.addRecord r) :=
  .ite (.update h rfl) (.ite (.countUp (.update h rfl)) (.update h rfl))

theorem Clocked.raiseEvent {n kind : Nat} {doms : List Nat} {bytes : List Byte} {own : Option Nat} (h : Clocked w s) :
    Clocked w (s.raiseEvent n kind doms bytes own) := by
  delta State.raiseEvent
  extract_lets _ _ _ _ _ _ s1 s2 s3 s4 s5 s6 s7 s8
  have h1 : Clocked w s1 := .countUp (.setFlag h)
  have h2 : Clocked w s2 := by
    unfold s2
    refine .foldl h1 fun t1 i1 h2 => ?_
    split
    · exact .ite (.enqueueEvent h2) h2
    · exact h2
  have h3 : Clocked w s3 := .ite (.enqueueEvent h2) h2
  have h4 : Clocked w s4 := .ite (.log h3) h3
  have h5 : Clocked w s5 := .ite (.errPulse h4) h4
  have h6 : Clocked w s6 := .ite (.statusEvent h5) h5
  have h7 : Clocked w s7 := .ite (.blockReset h6) h6
  have h8 : Clocked w s8 := .ite (.addRecord h7) h7
  exact .ite h8 (.update h8 rfl)

theorem Clocked.secdedEvent {st line : Nat} (h : Clocked w s) : Clocked w (s.secdedEvent st line) := by
  delta State.secdedEvent
  extract_lets
  exact .raiseEvent h

theorem Clocked.secded {st line : Nat} (h : Clocked w s) : Clocked w (s.secded st line) := by
  delta State.secded
  split
  · exact .ite h (.ite (.secdedEvent (.modStk h)) (.modStk h))
  · exact h

end Sys2Proof.Machine
end

section
/-! PROOF. The counts and the queue through the memory, its leases, the Urn's grants and the moves of cups that they
lead to. -/

namespace Sys2Proof.Machine

variable {w : Nat × Nat × Nat × List Instr} {s t : State}

/-! ### Lines, leases and re-key sweeps (R287, R394) -/

theorem Clocked.useWay {st line win d : Nat} (h : Clocked w s) : Clocked w (s.useWay st line win d) :=
  .ite (.modStk h) h

theorem Clocked.accessRow {n : Nat} (h : Clocked w s) : Clocked w (s.accessRow n) := by
  delta State.accessRow
  extract_lets
  dsimp only
  exact .update h rfl

theorem Clocked.ueRead {n : Nat} (h : Clocked w s) : Clocked w (s.ueRead n) := by
  delta State.ueRead
  extract_lets
  exact .raiseEvent (.countUp h)

theorem Clocked.setCell {k : Nat} {b : Byte} (h : Clocked w s) : Clocked w (s.setCell k b) := .update h rfl

theorem Clocked.fillCells {c : Nat} {line : List Byte} (h : Clocked w s) : Clocked w (s.fillCells c line) :=
  .foldl h fun _ _ h1 => .setCell h1

theorem Clocked.store {n : Nat} {line : List Byte} (h : Clocked w s) : Clocked w (s.store n line) :=
  .fillCells (.accessRow h)

theorem Clocked.modRange {r : Nat} {f : RangeSt → RangeSt} (h : Clocked w s) : Clocked w (s.modRange r f) :=
  .update h rfl

theorem Clocked.modLink {n : Nat} {f : LinkSt → LinkSt} (h : Clocked w s) : Clocked w (s.modLink n f) := .update h rfl

theorem Clocked.haltActivity {l : Lease} (h : Clocked w s) : Clocked w (s.haltActivity l) := by
  delta State.haltActivity
  split
  · exact .setFlag (.setFld h)
  · extract_lets s1
    have h1 : Clocked w s1 := .modLane h
    split
    · exact .modLink h1
    · exact h1
  · exact .modPch h
  · exact h

theorem Clocked.logLease {event : Nat} {cls : LeaseClass} {rs : List Resource} {dom : Nat} (h : Clocked w s) :
    Clocked w (s.logLease event cls rs dom) := .update h rfl

theorem Clocked.takeOver {e : Nat} {l : Lease} (h : Clocked w s) : Clocked w (s.takeOver e l) :=
  .haltActivity (.logLease (.update h rfl))

theorem Clocked.leaseTry {cls : LeaseClass} {rs : List Resource} {dom : Nat} (h : Clocked w s) :
    Clocked w (s.leaseTry cls rs dom).1 := by
  delta State.leaseTry
  split
  · refine .ite_fst ?_ (.pair (.logLease h))
    extract_lets _ s1 _ s2
    have h1 : Clocked w s1 := .foldl h fun _ _ h1 => .takeOver h1
    have h2 : Clocked w s2 := by
      unfold s2
      refine .foldl h1 fun t1 i1 h2 => ?_
      split
      · exact .modLeaf h2
      · exact h2
    exact .pair (.logLease (.update h2 rfl))
  · exact .pair (.logLease h)

theorem Clocked.newKeys (h : Clocked w s) : Clocked w s.newKeys.1 := by
  delta State.newKeys
  extract_lets
  exact .pair (.update h rfl)

theorem Clocked.startSweep {r : Nat} (h : Clocked w s) : Clocked w (s.startSweep r) := by
  delta State.startSweep
  dsimp only
  exact .setFld (.modRange (.newKeys h))

theorem Clocked.countLine {r n : Nat} (h : Clocked w s) : Clocked w (s.countLine r n) := by
  delta State.countLine
  extract_lets _ s1
  have h1 : Clocked w s1 := .modRange h
  exact .ite (.modRange h) (.ite (.leaseTry (.startSweep h1)) (.ite (.raiseEvent (.setFlag h1)) h1))

theorem Clocked.storeCode {n : Nat} {ct : List Byte} {tag : Nat} (h : Clocked w s) :
    Clocked w (s.storeCode n ct tag) := by
  delta State.storeCode
  extract_lets _ _ _ _ _ s1
  have h1 : Clocked w s1 := .update h rfl
  exact .ite (.store (.ite (.modStk h) h)) (.store (.modStk h1))

theorem Clocked.storeLine {r n : Nat} {plain : List Byte} (h : Clocked w s) : Clocked w (s.storeLine r n plain) := by
  delta State.storeLine
  dsimp only
  exact .countLine (.storeCode h)

theorem Clocked.writeBack {l : CacheLine} {st : Nat} (h : Clocked w s) : Clocked w (s.writeBack l st) := by
  delta State.writeBack
  extract_lets
  refine .ite (.store h) (.ite (.store (.secdedEvent h)) ?_)
  split
  · exact .ite h (.storeLine h)
  · exact h

theorem Clocked.flushSlice {st : Nat} (h : Clocked w s) : Clocked w (s.flushSlice st) := by
  delta State.flushSlice
  extract_lets
  exact .modStk (.foldl h fun _ _ h1 => .writeBack h1)

theorem Clocked.enterSr {st : Nat} (h : Clocked w s) : Clocked w (s.enterSr st) := by
  delta State.enterSr
  extract_lets s1 _ s2
  have h1 : Clocked w s1 := .flushSlice h
  have h2 : Clocked w s2 := .modStk h1
  exact .setFld h2

theorem Clocked.leaseEnded {l : Lease} (h : Clocked w s) : Clocked w (s.leaseEnded l) := by
  delta State.leaseEnded
  extract_lets s1
  have h1 : Clocked w s1 := .logLease h
  split
  · split
    · exact .ite h1 (.modLeaf h1)
    · exact h1
  · exact .modLeaf h1
  · exact h1

theorem Clocked.leaseDropIf {p : Lease → Bool} (h : Clocked w s) : Clocked w (s.leaseDropIf p) :=
  .foldl (.update h rfl) fun _ _ h1 => .leaseEnded h1

theorem Clocked.draw (h : Clocked w s) : Clocked w s.draw := .update h rfl

/-! ### Reads and writes of HBM -/

theorem Clocked.haltAll (h : Clocked w s) : Clocked w s.haltAll := by
  delta State.haltAll
  extract_lets s1 s2
  have h1 : Clocked w s1 := .update h rfl
  have h2 : Clocked w s2 := .leaseDropIf (.foldl h1 fun _ _ h2 => .haltActivity h2)
  exact .foldl h2 fun _ _ h3 => .ite (.setFields (.draw h3)) h3

theorem Clocked.integrityHalt {r n : Nat} (h : Clocked w s) : Clocked w (s.integrityHalt r n) := by
  delta State.integrityHalt
  extract_lets _ _ s1 s2 s3
  have h1 : Clocked w s1 := .raiseEvent h
  have h2 : Clocked w s2 := .foldl h1 fun _ _ h2 => .ite h2 (.enterSr h2)
  have h3 : Clocked w s3 := .haltAll h2
  exact .update h3 rfl

theorem Clocked.bucketHit {x : Nat} (h : Clocked w s) : Clocked w (s.bucketHit x) := by
  delta State.bucketHit
  extract_lets _ s1
  have h1 : Clocked w s1 := .countUp h
  exact .ite (.setFld h1) (.ite (.countUp h1) (.raiseEvent (.setFlag h1)))

theorem Clocked.correction {n dom src : Nat} {pos : List Nat} (h : Clocked w s) :
    Clocked w (s.correction n dom src pos) := by
  delta State.correction
  extract_lets
  exact .bucketHit (.modPch h)

theorem Clocked.readLine {r n dom src : Nat} (h : Clocked w s) : Clocked w (s.readLine r n dom src).1 := by
  delta State.readLine
  extract_lets _ s1
  have h1 : Clocked w s1 := .accessRow h
  refine .ite_fst (.pair (.ueRead h1)) ?_
  dsimp only
  split
  · exact .ite_fst (.pair (.ueRead h1)) (.ite_fst h1 (.pair (.integrityHalt h1)))
  · exact .ite_fst (.pair (.ueRead h1)) (.pair (.correction h1))
  · exact .pair (.ueRead h1)

theorem Clocked.setInj {b : Bool} (h : Clocked w s) : Clocked w (s.setInj b) := .update h rfl

theorem Clocked.taggedRead {r n dom src : Nat} (h : Clocked w s) : Clocked w (s.taggedRead r n dom src).1 := by
  delta State.taggedRead
  dsimp only
  exact .setInj (.readLine (.setInj h))

theorem Clocked.allocLine {st d : Nat} {l : CacheLine} (h : Clocked w s) : Clocked w (s.allocLine st d l) := by
  delta State.allocLine
  extract_lets _ s1
  have h1 : Clocked w s1 := by
    unfold s1
    split
    · exact .ite (.writeBack h) h
    · exact h
  exact .useWay (.modStk h1)

theorem Clocked.lineGet {r n dom src : Nat} {alloc : Bool} (h : Clocked w s) :
    Clocked w (s.lineGet r n dom src alloc).1 := by
  delta State.lineGet
  extract_lets _ _ s1
  have h1 : Clocked w s1 := .secded h
  split
  · exact .ite_fst h1 (.pair (.ite (.useWay h1) h1))
  · split
    · rename_i t1 _ e1
      have ht1 : Clocked w t1 := .of_fst e1 (.taggedRead h1)
      exact .pair (.ite (.allocLine ht1) ht1)
    · rename_i e1
      exact .of_fst e1 (.taggedRead h1)

theorem Clocked.linePut {r n dom : Nat} {bytes : List Byte} {alloc : Bool} (h : Clocked w s) :
    Clocked w (s.linePut r n dom bytes alloc) := by
  delta State.linePut
  extract_lets
  split
  · extract_lets s1
    have h1 : Clocked w s1 := .modStk h
    exact .ite (.useWay h1) h1
  · exact .ite (.allocLine h) (.storeLine h)

theorem Clocked.rangeWrite {r dom a : Nat} {data : List Byte} {alloc : Bool} (h : Clocked w s) :
    Clocked w (s.rangeWrite r dom a data alloc).1 := by
  delta State.rangeWrite
  refine .ite_fst h ?_
  extract_lets s1 parts fetched
  have hfetched : Clocked w fetched.1 := by
    refine .foldl_fst (.touchStack h) fun t1 y1 i1 h1 => ?_
    dsimp only
    split
    · refine .ite_fst h1 ?_
      split <;> rename_i e1 <;> exact .of_fst e1 (.lineGet h1)
    · exact h1
  obtain ⟨t1, res, l⟩ := fetched
  cases res with
  | ok _ => exact .foldl (s := t1) hfetched fun _ _ h2 => .linePut h2
  | code _ => exact hfetched
  | halted => exact hfetched

theorem Clocked.rangeRead {r dom a len src : Nat} {alloc : Bool} (h : Clocked w s) :
    Clocked w (s.rangeRead r dom a len src alloc).1 := by
  delta State.rangeRead
  refine .ite_fst h ?_
  extract_lets s1
  have h1 : Clocked w s1 := .touchStack h
  refine .foldl_fst h1 fun t1 y1 i1 h2 => ?_
  split
  · split <;> rename_i e1 <;> exact .of_fst e1 (.lineGet h2)
  · exact h2

theorem Clocked.hbmRun {q : HbmReq} (h : Clocked w s) : Clocked w (s.hbmRun q).1 := by
  delta State.hbmRun
  split
  · exact h
  · exact .rangeWrite h
  · exact .rangeRead h

theorem Clocked.hbmDo {q : HbmReq} (h : Clocked w s) : Clocked w (s.hbmDo q) := by
  delta State.hbmDo
  split
  · rename_i e1
    exact .respond (.of_fst e1 (.hbmRun h))
  · rename_i e1
    exact .denyTray (.of_fst e1 (.hbmRun h))
  · rename_i e1
    exact .respond (.of_fst e1 (.hbmRun h))
  · rename_i e1
    exact .of_fst e1 (.hbmRun h)

theorem Clocked.hbmReq {q : HbmReq} (h : Clocked w s) : Clocked w (s.hbmReq q) := by
  delta State.hbmReq
  refine .ite ?_ (.hbmDo h)
  extract_lets s1
  have h1 : Clocked w s1 := .touchStack h
  exact .update h1 rfl

/-! ### Cores, grants of the Urn and cup states (R121, R373, R407) -/

theorem Clocked.l2WriteBack {l : L2Line} (h : Clocked w s) : Clocked w (s.l2WriteBack l) := .hbmReq h

theorem Clocked.l2Settle {cl : Nat} (h : Clocked w s) : Clocked w (s.l2Settle cl) := by
  delta State.l2Settle
  extract_lets _ s1
  have h1 : Clocked w s1 := .update h rfl
  exact .foldl h1 fun _ _ h2 => .l2WriteBack h2

theorem Clocked.goCore {t' : Nat} (h : Clocked w s) : Clocked w (s.goCore t') := .ite (.setFields h) h

theorem Clocked.writeCap {c : Nat} {v : Word} (h : Clocked w s) : Clocked w (s.writeCap c v) := by
  delta State.writeCap
  extract_lets s1
  have h1 : Clocked w s1 := .ite (.setFlag h) h
  exact .ite (.modCup (.setFlag h1)) h1

theorem Clocked.dbgRecord {detail i m dom : Nat} {leaf : List Byte} (h : Clocked w s) :
    Clocked w (s.dbgRecord detail i m dom leaf) := .raiseEvent h

theorem Clocked.calm {n : Nat} (h : Clocked w s) : Clocked w (s.calm n) := .update h rfl

theorem Clocked.modCore {t' : Nat} {f : CoreSt → CoreSt} (h : Clocked w s) : Clocked w (s.modCore t' f) := .update h rfl

theorem Clocked.startCore {t' : Nat} (h : Clocked w s) : Clocked w (s.startCore t') := by
  delta State.startCore
  refine .ite ?_ h
  extract_lets s1
  have h1 : Clocked w s1 := .setFields (.l2Settle h)
  exact .modCore h1

theorem Clocked.onGrant {n : Nat} (h : Clocked w s) : Clocked w (s.onGrant n) := by
  delta State.onGrant
  refine .ite ?_ (.ite (.foldl h fun _ _ h1 => .setFlag h1) (.ite (.startCore h) (.ite (.foldl h fun _ _ h1 =>
    .startCore h1) h)))
  extract_lets s1
  have h1 : Clocked w s1 := .statusEvent h
  exact .ite (.modCup (.setFlag h1)) h1

theorem Clocked.relevel {n : Nat} (h : Clocked w s) : Clocked w (s.relevel n) := by
  delta State.relevel
  extract_lets _ _ s1
  have h1 : Clocked w s1 := .setFld h
  exact .ite h (.ite (.statusEvent h1) h1)

theorem Clocked.giveUnits {r : UrnReq} (h : Clocked w s) : Clocked w (s.giveUnits r) := by
  delta State.giveUnits
  extract_lets _ s1
  have h1 : Clocked w s1 := .update h rfl
  exact .onGrant (.relevel (.setFld h1))

theorem Clocked.examineList {l : List UrnReq} {b : Bool} (h : Clocked w s) : Clocked w (State.examineList l b s) := by
  induction l generalizing s b with
  | nil => exact h
  | cons r rs ih =>
    unfold State.examineList
    exact .ite (ih (.giveUnits h)) (ih h)

theorem Clocked.examine (h : Clocked w s) : Clocked w s.examine := .examineList h

theorem Clocked.freeGrant {n u : Nat} (h : Clocked w s) : Clocked w (s.freeGrant n u) := by
  delta State.freeGrant
  extract_lets s1 s2
  have h1 : Clocked w s1 := .setFld h
  have h2 : Clocked w s2 := .ite (.calm h1) h1
  exact .examine (.relevel h2)

theorem Clocked.keepUnits {n k : Nat} (h : Clocked w s) : Clocked w (s.keepUnits n k) := .ite h (.freeGrant h)

theorem Clocked.emulCores {d : Nat} {on : Bool} (h : Clocked w s) : Clocked w (s.emulCores d on) :=
  .foldl h fun _ _ h1 => .setFlag h1

theorem Clocked.endEmulation {d : Nat} (h : Clocked w s) : Clocked w (s.endEmulation d) :=
  .foldl (.emulCores h) fun _ _ h1 => .keepUnits (.modCup h1)

theorem Clocked.closeSession {i : Nat} (h : Clocked w s) : Clocked w (s.closeSession i) := by
  delta State.closeSession
  split
  · extract_lets s1 s2 s3 s4
    have h1 : Clocked w s1 := .foldl h fun _ _ h1 => .goCore h1
    have h2 : Clocked w s2 := .foldl h1 fun _ _ h2 => .writeCap h2
    have h3 : Clocked w s3 := .setFields (.update h2 rfl)
    have h4 : Clocked w s4 := .ite (.update h3 rfl) h3
    exact .ite (.dbgRecord (.dbgRecord (.endEmulation h4))) h4
  · exact h

theorem Clocked.unask {n : Nat} (h : Clocked w s) : Clocked w (s.unask n) := .update h rfl

theorem Clocked.dropReq {c : Nat} (h : Clocked w s) : Clocked w (s.dropReq c) := by
  delta State.dropReq
  extract_lets s1 _ s2
  have h1 : Clocked w s1 := .setFlag (.unask h)
  have h2 : Clocked w s2 := .update h1 rfl
  exact .modCup h2

theorem Clocked.deferOn {n : Nat} {p : Lease → Bool} (h : Clocked w s) : Clocked w (s.deferOn n p) := by
  delta State.deferOn
  extract_lets _ _ _ s1
  have h1 : Clocked w s1 := .update h rfl
  exact .countUp h1

theorem Clocked.askUnits {n u : Nat} (h : Clocked w s) : Clocked w (s.askUnits n u) := by
  delta State.askUnits
  extract_lets
  exact .update h rfl

theorem Clocked.askMove {c total : Nat} (h : Clocked w s) : Clocked w (s.askMove c total) :=
  .ite (.askUnits (.setFlag h)) (.modCup h)

theorem Clocked.stateReq {c t' : Nat} (h : Clocked w s) : Clocked w (s.stateReq c t') := by
  delta State.stateReq
  refine .ite h ?_
  extract_lets _ st s1
  have h1 : Clocked w s1 := .setFld (.dropReq h)
  clear_value st s1
  split
  · exact .ite (.modCup (.deferOn h1)) h1
  · exact .askMove h1
  · exact .ite h1 (.keepUnits h1)
  · exact .ite (.modCup (.setFld h1)) (.modCup h1)
  · exact .askMove h1
  · exact .ite (.modCup h1) (.askMove h1)
  · exact .ite (.modCup h1) h1

theorem Clocked.cupUndefer {c : Nat} (h : Clocked w s) : Clocked w (s.cupUndefer c) := by
  delta State.cupUndefer
  split
  · exact .ite h (.stateReq h)
  · exact h

theorem Clocked.dropLp {l : Nat} (h : Clocked w s) : Clocked w (s.dropLp l) := by
  delta State.dropLp
  extract_lets s1 s2
  have h1 : Clocked w s1 := .setFlag (.modLane h)
  have h2 : Clocked w s2 := .ite h1 (.unask h1)
  exact .ite h2 (.update h2 rfl)

theorem Clocked.quadRest {q : Nat} (h : Clocked w s) : Clocked w (s.quadRest q) := .ite (.keepUnits (.unask h)) h

theorem Clocked.legDown {q i : Nat} {b : Bool} (h : Clocked w s) : Clocked w (s.legDown q i b) := by
  delta State.legDown
  extract_lets
  exact .ite h (.raiseEvent (.setFlag h))

theorem Clocked.legsOfPort {q n : Nat} (h : Clocked w s) : Clocked w (s.legsOfPort q n) :=
  .ite h (.foldl h fun _ _ h1 => .ite h1 (.foldl h1 fun _ _ h2 => .legDown h2))

theorem Clocked.afterLane {l : Nat} (h : Clocked w s) : Clocked w (s.afterLane l) := by
  delta State.afterLane
  split
  · exact .legsOfPort h
  · exact h

theorem Clocked.setLp {l t' : Nat} (h : Clocked w s) : Clocked w (s.setLp l t') := by
  delta State.setLp
  extract_lets s1 _ s2
  have h1 : Clocked w s1 := .setFld (.setFlag h)
  have h2 : Clocked w s2 := .afterLane (.modLane h1)
  exact .quadRest h2

theorem Clocked.askLp {l t' : Nat} (h : Clocked w s) : Clocked w (s.askLp l t') := by
  delta State.askLp
  extract_lets _ _ s1 s2
  have h1 : Clocked w s1 := .dropLp h
  have h2 : Clocked w s2 := .modLane h1
  exact .ite h1 (.ite (.quadRest h1) (.ite (.ite (.modLane (.deferOn h1)) (.setLp h1)) (.ite (.askUnits (.setFlag h2))
    h2)))

theorem Clocked.laneUndefer {l : Nat} (h : Clocked w s) : Clocked w (s.laneUndefer l) := by
  delta State.laneUndefer
  split
  · exact .ite h (.askLp (.dropLp h))
  · exact h

theorem Clocked.dropSr {st : Nat} (h : Clocked w s) : Clocked w (s.dropSr st) := by
  delta State.dropSr
  extract_lets
  exact .modStk (.update h rfl)

theorem Clocked.stackUndefer {st : Nat} (h : Clocked w s) : Clocked w (s.stackUndefer st) := by
  delta State.stackUndefer
  refine .ite ?_ h
  extract_lets s1
  have h1 : Clocked w s1 := .dropSr h
  exact .ite (.enterSr h1) h1

theorem Clocked.undefer {n : Nat} (h : Clocked w s) : Clocked w (s.undefer n) :=
  .ite (.cupUndefer h) (.ite (.foldl h fun _ _ h1 => .laneUndefer h1) (.ite (.stackUndefer h) h))

theorem Clocked.undeferAll (h : Clocked w s) : Clocked w s.undeferAll := .foldl h fun _ _ h1 => .undefer h1

end Sys2Proof.Machine
end

section
/-! PROOF. The counts and the queue through what is done after a root cycle in a live device, but for what waited for a
training stage (R43, R148, R160, R343). -/

namespace Sys2Proof.Machine

variable {w : Nat × Nat × Nat × List Instr} {s t : State}

/-! ### Links and latches -/

theorem Clocked.linkSend {n type flags stream len : Nat} {payload : List Byte} (h : Clocked w s) :
    Clocked w (s.linkSend n type flags stream len payload) := by
  delta State.linkSend
  extract_lets _ _ s1
  have h1 : Clocked w s1 := .modLink h
  exact .ite h (.ite (.log h1) h1)

theorem Clocked.casFrame {n dst hops : Nat} {msg : CasOut} (h : Clocked w s) : Clocked w (s.casFrame n dst hops msg) :=
  .linkSend h

theorem Clocked.casFlood (h : Clocked w s) : Clocked w s.casFlood := by
  delta State.casFlood
  extract_lets _ _ s1
  have h1 : Clocked w s1 := .update h rfl
  exact .ite h (.foldl (.log h1) fun _ _ h2 => .casFrame h2)

theorem Clocked.followUp (h : Clocked w s) : Clocked w s.followUp := by
  delta State.followUp
  extract_lets s1 s2 s3
  have h1 : Clocked w s1 := .foldl h fun _ _ h1 => .l2Settle h1
  have h2 : Clocked w s2 := .foldl h1 fun _ _ h2 => .closeSession h2
  have h3 : Clocked w s3 := .examine (.undeferAll h2)
  exact .ite (.casFlood h3) h3

theorem Clocked.followLatches (h : Clocked w s) : Clocked w s.followLatches := by
  delta State.followLatches
  extract_lets
  exact .foldl h fun _ _ h1 => .modCup h1

/-! ### Streams and their flits -/

theorem Clocked.tellCup {k p stream st : Nat} (h : Clocked w s) : Clocked w (s.tellCup k p stream st) := by
  delta State.tellCup
  refine .ite ?_ h
  split
  · exact .ite (.statusEvent h) h
  · exact h

theorem Clocked.modStream {n : Nat} {f : StreamSt → StreamSt} (h : Clocked w s) : Clocked w (s.modStream n f) :=
  .update h rfl

theorem Clocked.setDst {stream d st : Nat} (h : Clocked w s) : Clocked w (s.setDst stream d st) := by
  delta State.setDst
  extract_lets _ s1
  have h1 : Clocked w s1 := .modStream h
  refine .ite h ?_
  split
  · exact .tellCup h1
  · exact h1

theorem Clocked.setDsts {stream st : Nat} {p : Nat → Bool} (h : Clocked w s) : Clocked w (s.setDsts stream st p) := by
  delta State.setDsts
  split
  · exact .foldl h fun _ _ h1 => .setDst h1
  · exact h

theorem Clocked.setTree {stream : Nat} {t' : Option Tree} (h : Clocked w s) : Clocked w (s.setTree stream t') := by
  delta State.setTree
  extract_lets _ _ _ s1 _ s2
  have h1 : Clocked w s1 := .foldl h fun _ _ h1 => .tellCup h1
  have h2 : Clocked w s2 := .modStream h1
  exact .setDsts h2

theorem Clocked.switchTree {stream : Nat} (h : Clocked w s) : Clocked w (s.switchTree stream) := by
  delta State.switchTree
  split
  · exact .ite (.setTree h) h
  · exact h

theorem Clocked.flitError {k : Nat} (h : Clocked w s) : Clocked w (s.flitError k) := .ite (.countUp h) h

theorem Clocked.crossRouters {l : List Nat} (h : Clocked w s) : Clocked w (s.crossRouters l).1 := by
  delta State.crossRouters
  split
  · extract_lets s1
    have h1 : Clocked w s1 := .update h rfl
    exact .ite_fst (.pair (.flitError h1)) h1
  · exact h

theorem Clocked.setPair {lo hi : RegKey} {n : Nat} (h : Clocked w s) : Clocked w (s.setPair lo hi n) :=
  .setReg (.setReg h)

theorem Clocked.portCount {q n i : Nat} (h : Clocked w s) : Clocked w (s.portCount q n i) := by
  delta State.portCount
  extract_lets
  exact .setPair h

theorem Clocked.streamArrive {stream k p : Nat} (h : Clocked w s) : Clocked w (s.streamArrive stream k p) := by
  delta State.streamArrive
  split
  · extract_lets s1
    have h1 : Clocked w s1 := .modStream h
    exact .ite (.setDst h1) h1
  · exact h

theorem Clocked.rawSend {stream l : Nat} {bytes : List Byte} (h : Clocked w s) :
    Clocked w (s.rawSend stream l bytes) := by
  delta State.rawSend
  extract_lets
  dsimp only
  exact .ite (.modLane (.log (.streamArrive h))) (.draw (.modLane (.log (.streamArrive h))))

theorem Clocked.leaveFlit {stream : Nat} {tr : Tree} (h : Clocked w s) : Clocked w (s.leaveFlit stream tr) := by
  delta State.leaveFlit
  split
  · dsimp only
    exact .ite (.modStream (.ite (.modStream (.crossRouters h)) (.crossRouters h))) (.foldl (.log (.modStream (.ite
      (.modStream (.crossRouters h)) (.crossRouters h)))) fun _ _ h1 => .ite (.portCount h1) (.rawSend h1))
  · exact h

theorem Clocked.countLost {a : Producer} (h : Clocked w s) : Clocked w (s.countLost a) := by
  delta State.countLost
  split
  · exact .countUp h
  · exact .countUp h
  · exact .portCount h

theorem Clocked.flowSteps {stream n : Nat} (h : Clocked w s) : Clocked w (State.flowSteps stream n s) := by
  induction n generalizing s with
  | zero => exact h
  | succ n ih =>
    unfold State.flowSteps
    split
    · exact h
    · extract_lets s1
      have h1 : Clocked w s1 := .ite (.switchTree h) h
      split
      · exact .ite (.ite (ih (.foldl h1 fun _ _ h2 => .leaveFlit h2)) h1) (ih (.countLost (.modStream h1)))
      · exact ih (.countLost (.modStream h1))

theorem Clocked.streamFlow {stream : Nat} (h : Clocked w s) : Clocked w (s.streamFlow stream) := .flowSteps h

theorem Clocked.streamCycle (h : Clocked w s) : Clocked w s.streamCycle := by
  delta State.streamCycle
  refine .ite (.foldl h fun t1 i1 h1 => ?_) h
  extract_lets s1
  have h1' : Clocked w s1 := .streamFlow h1
  split
  · exact .ite (.leaveFlit h1') h1'
  · exact h1'

/-! ### Queues and collectors -/

theorem Clocked.modCol {n : Nat} {f : ColSt → ColSt} (h : Clocked w s) : Clocked w (s.modCol n f) := .update h rfl

theorem Clocked.qProto {q : QRef} (h : Clocked w s) : Clocked w (s.qProto q) := by
  delta State.qProto
  split
  · exact .setFlag h
  · exact h

theorem Clocked.qProduce {q : QRef} {dom mid : Nat} {a : QAccess} (h : Clocked w s) :
    Clocked w (s.qProduce q dom mid a).1 := by
  delta State.qProduce
  extract_lets
  split
  · exact .pair (.setQueue (.ite (.draw h) h))
  · exact .pair (.qProto h)
  · exact h

theorem Clocked.casPost {dst : Nat} {msg : CasOut} (h : Clocked w s) : Clocked w (s.casPost dst msg) := by
  delta State.casPost
  split
  · exact .casFrame h
  · exact h

theorem Clocked.casSend {dest : Option Nat} {msg : CasOut} (h : Clocked w s) : Clocked w (s.casSend dest msg) := by
  delta State.casSend
  extract_lets s1
  have h1 : Clocked w s1 := .log h
  split
  · exact .casPost h1
  · exact .foldl h1 fun _ _ h2 => .casPost h2

theorem Clocked.sendMail (h : Clocked w s) : Clocked w s.sendMail := by
  delta State.sendMail
  extract_lets
  split
  · refine .ite ?_ h
    extract_lets s1
    have h1 : Clocked w s1 := .setQueue h
    exact .ite (.casSend h1) h1
  · exact h

theorem Clocked.qTry {m tag : Nat} {q : QRef} {a : QAccess} (h : Clocked w s) (e : s.qTry m tag q a = some t) :
    Clocked w t := by
  unfold State.qTry at e
  split at e
  · split at e
    · cases e
      exact .respond (.setQueue h)
    · cases e
  · cases e
    exact .respond (.setQueue h)
  · split at e
    · rename_i e1
      cases e
      have h1 := Clocked.of_fst e1 (.qProduce h)
      refine .respond ?_
      split
      · exact .sendMail h1
      · exact h1
    · rename_i e1
      cases e
      exact .respond (.of_fst e1 (.qProduce h))
    · cases e

theorem Clocked.qDo {m tag : Nat} {q : QRef} {a : QAccess} (h : Clocked w s) : Clocked w (s.qDo m tag q a) := by
  delta State.qDo
  refine .ite (.update h rfl) ?_
  cases e : s.qTry m tag q a with
  | none =>
    rw [Option.getD_none]
    exact .update h rfl
  | some t => exact h.qTry e

theorem Clocked.notify {n : Nat} (h : Clocked w s) : Clocked w (s.notify n) := by
  delta State.notify
  extract_lets _ _ _ fail
  have hfail : Clocked w (fail s) := .setFlag h
  split
  · exact .ite hfail (.hbmReq h)
  · exact .ite h hfail
  · refine .ite ?_ hfail
    split
    · exact .ite (.qDo h) hfail
    · exact hfail
  · exact hfail

theorem Clocked.colAfter {s0 : State} {n : Nat} (h : Clocked w s) : Clocked w (s.colAfter s0 n) := .ite (.notify h) h

theorem Clocked.complete {m n i : Nat} {msg : Option (List Byte)} (h : Clocked w s) :
    Clocked w (s.complete m n i msg) := by
  delta State.complete
  extract_lets s1 s2
  have h1 : Clocked w s1 := .modCol (.setFlag h)
  have h2 : Clocked w s2 := by
    unfold s2
    split
    · extract_lets
      exact .ite (.modCol h1) h1
    · exact h1
  exact .colAfter h2

theorem Clocked.colAccept {m tag n : Nat} {msg : Option (List Byte)} (h : Clocked w s) :
    Clocked w (s.colAccept m tag n msg) := by
  delta State.colAccept
  split
  · exact .respond (.complete h)
  · exact .denyTray h

theorem Clocked.colServe {n : Nat} (h : Clocked w s) : Clocked w (s.colServe n) := by
  delta State.colServe
  split
  · exact .colAccept (.modCol h)
  · exact h

theorem Clocked.colCycle (h : Clocked w s) : Clocked w s.colCycle := .ite (.foldl h fun _ _ h1 => .colServe h1) h

/-! ### Links that fail -/

theorem Clocked.linkLost {n : Nat} (h : Clocked w s) : Clocked w (s.linkLost n) := by
  delta State.linkLost
  dsimp only
  refine .modLink (.foldl (.foldl h fun t1 i1 h1 => ?_) fun _ _ h1 => .setDsts h1)
  split
  · exact .setDst h1
  · exact h1

theorem Clocked.linkExpire (h : Clocked w s) : Clocked w s.linkExpire := .foldl h fun _ _ h1 => .linkLost h1

end Sys2Proof.Machine
end

section
/-! PROOF. The counts and the queue through work that waited for a training stage, up to the writes of registers:
descriptors, tenants that are created, and the reads of cores and debug sessions. -/

namespace Sys2Proof.Machine

variable {w : Nat × Nat × Nat × List Instr} {s t : State}

/-! ### Descriptors of the HCE (R320, R321) -/

theorem Clocked.hceEnd {i code : Nat} (h : Clocked w s) : Clocked w (s.hceEnd i code) := by
  delta State.hceEnd
  extract_lets _ s1
  have h1 : Clocked w s1 := .update h rfl
  exact .ite (.hold h1) (.setFlag (.setFields h1))

theorem Clocked.putOff {l : Later} (h : Clocked w s) : Clocked w (s.putOff l) := .update h rfl

theorem Clocked.hbmRead {dom a len src : Nat} {alloc : Bool} (h : Clocked w s) :
    Clocked w (s.hbmRead dom a len src alloc).1 := by
  delta State.hbmRead
  split
  · exact h
  · exact .rangeRead h

theorem Clocked.hceRead {dom a len : Nat} (h : Clocked w s) : Clocked w (s.hceRead dom a len).1 := by
  delta State.hceRead
  refine .foldl_fst h fun t1 y1 i1 h1 => ?_
  split
  · split <;> rename_i e1 <;> exact .of_fst e1 (.hbmRead h1)
  · exact h1

theorem Clocked.hceBegin {pipe i : Nat} (h : Clocked w s) : Clocked w (s.hceBegin pipe i) := .update h rfl

theorem Clocked.hceRound (h : Clocked w s) : Clocked w s.hceRound := by
  delta State.hceRound
  extract_lets
  exact .update h rfl

theorem Clocked.hceServeRound {pipe : Nat} (h : Clocked w s) : Clocked w (s.hceServeRound pipe) := by
  delta State.hceServeRound
  extract_lets s1
  have h1 : Clocked w s1 := .ite h (.hceRound h)
  split
  · extract_lets
    exact .hceBegin (.update h1 rfl)
  · exact h1

theorem Clocked.hceServe {pipe : Nat} {slotBegins : Bool} (h : Clocked w s) :
    Clocked w (s.hceServe pipe slotBegins) := by
  delta State.hceServe
  refine .ite h (.ite (.hceBegin h) (.ite (.ite h ?_) (.hceServeRound h)))
  extract_lets
  split
  · exact .hceBegin h
  · exact h

theorem Clocked.hceServeAll {slotBegins : Bool} (h : Clocked w s) : Clocked w (s.hceServeAll slotBegins) :=
  .foldl h fun _ _ h1 => .hceServe h1

theorem Clocked.hceLoad {i d : Nat} (h : Clocked w s) : Clocked w (s.hceLoad i d) := by
  delta State.hceLoad
  split
  · rename_i e1
    exact .hceEnd (.of_fst e1 (.hceRead h))
  · rename_i t1 _ e1
    have h1 : Clocked w t1 := .of_fst e1 (.hceRead h)
    exact .ite (.hceServeAll (.update h1 rfl)) (.hceEnd h1)

theorem Clocked.hceRetry {i : Nat} (h : Clocked w s) : Clocked w (s.hceRetry i) := by
  delta State.hceRetry
  split
  · exact .ite h (.ite (.hceEnd h) (.ite (.putOff h) (.hceLoad h)))
  · exact h

/-! ### Tenants (R412) -/

theorem Clocked.hbmFetch {dom a len : Nat} (h : Clocked w s) : Clocked w (s.hbmFetch dom a len).1 := by
  delta State.hbmFetch
  refine .foldl_fst h fun t1 y1 i1 h1 => ?_
  split
  · split <;> rename_i e1 <;> exact .of_fst e1 (.hbmRead h1)
  · exact h1

theorem Clocked.tcmdEnd {code : Nat} (h : Clocked w s) : Clocked w (s.tcmdEnd code) := .setFields h

theorem Clocked.closeFor {q : QRef} {d : Nat} (h : Clocked w s) : Clocked w (s.closeFor q d) := by
  delta State.closeFor
  extract_lets
  split
  · refine .ite ?_ h
    extract_lets
    exact .setQueue h
  · exact h

theorem Clocked.endGrant {v : Word} (h : Clocked w s) : Clocked w (s.endGrant v) := .ite (.closeFor h) h

theorem Clocked.endGrants {p : Word → Bool} (h : Clocked w s) : Clocked w (s.endGrants p) := by
  delta State.endGrants
  refine .foldl h fun t1 i1 h1 => ?_
  extract_lets
  exact .ite (.endGrant (.setFlag h1)) h1

theorem Clocked.dropWait {p : WaitPkt → Bool} (h : Clocked w s) : Clocked w (s.dropWait p) :=
  .foldl h fun _ _ h1 => .modStream h1

theorem Clocked.emptyQueues {c : Nat} (h : Clocked w s) : Clocked w (s.emptyQueues c) := by
  delta State.emptyQueues
  extract_lets s1
  have h1 : Clocked w s1 := .modCup h
  exact .update h1 rfl

theorem Clocked.applyModes {c sd : Nat} {v : Word} (h : Clocked w s) : Clocked w (s.applyModes c sd v) := by
  delta State.applyModes
  extract_lets _ _ _ s1 s2
  have h1 : Clocked w s1 := .modCup h
  have h2 : Clocked w s2 := .setReg h1
  exact .followLatches (.ite h2 (.statusEvent h2))

theorem Clocked.clampFacing {c sd : Nat} {l : List Nat} (h : Clocked w s) : Clocked w (s.clampFacing c sd l) := by
  delta State.clampFacing
  split
  · extract_lets _ s1
    have h1 : Clocked w s1 := .modCup h
    exact .applyModes h1
  · exact h

theorem Clocked.clearDrive {c sd : Nat} {mask : Word} (h : Clocked w s) : Clocked w (s.clearDrive c sd mask) := by
  delta State.clearDrive
  extract_lets _ _ s1
  have h1 : Clocked w s1 := .setReg h
  exact .ite h1 (.modCup (.clampFacing h1))

theorem Clocked.changeOwner {c d : Nat} (h : Clocked w s) : Clocked w (s.changeOwner c d) := by
  delta State.changeOwner
  extract_lets s1
  have h1 : Clocked w s1 := by
    unfold s1
    refine .foldl h fun t1 i1 h1 => ?_
    extract_lets s2 s3 s4
    have h2 : Clocked w s2 := .applyModes (.modCup h1)
    have h3 : Clocked w s3 := .clampFacing h2
    have h4 : Clocked w s4 := .clearDrive h3
    split
    · exact .clearDrive h4
    · exact h4
  exact .setReg h1

theorem Clocked.newDomain {c d : Nat} (h : Clocked w s) : Clocked w (s.newDomain c d) := by
  delta State.newDomain
  extract_lets
  exact .modCup (.dropWait (.emptyQueues (.changeOwner h)))

theorem Clocked.modLoads {c : Nat} {f : List Nat → List Nat} (h : Clocked w s) : Clocked w (s.modLoads c f) := by
  delta State.modLoads
  split
  · exact .modLeaf h
  · exact h

theorem Clocked.leaseDropOn {cls : LeaseClass} {r : Resource} (h : Clocked w s) : Clocked w (s.leaseDropOn cls r) :=
  .leaseDropIf h

theorem Clocked.giveCup {c d : Nat} (h : Clocked w s) : Clocked w (s.giveCup c d) := by
  delta State.giveCup
  extract_lets s1 s2 s3
  have h1 : Clocked w s1 := .endGrants (.newDomain h)
  have h2 : Clocked w s2 := .modLoads (.leaseDropOn h1)
  have h3 : Clocked w s3 := .modCup h2
  exact .setFields h3

theorem Clocked.poisonLines {lo hi : Nat} (h : Clocked w s) : Clocked w (s.poisonLines lo hi) := .update h rfl

theorem Clocked.dropCached {lo hi : Nat} (h : Clocked w s) : Clocked w (s.dropCached lo hi) := by
  delta State.dropCached
  extract_lets
  exact .update h rfl

theorem Clocked.fillRange {r base limit owner : Nat} {rights : List Word} (h : Clocked w s) :
    Clocked w (s.fillRange r base limit owner rights) := by
  delta State.fillRange
  dsimp only
  exact .setFields (.poisonLines (.dropCached (.foldl (.setFld (.setFld (.setFld (.touchStack (.modRange (.newKeys
    h)))))) fun _ _ h1 => .setReg h1)))

theorem Clocked.tryFill {r base limit owner : Nat} {rights : List Word} {dom : Nat} (h : Clocked w s) :
    Clocked w (s.tryFill r base limit owner rights dom).1 := by
  delta State.tryFill
  split <;> rename_i e1
  · exact .fillRange (.of_fst e1 (.leaseTry h))
  · exact .of_fst e1 (.leaseTry h)

theorem Clocked.fillDone {r : Nat} (h : Clocked w s) : Clocked w (s.fillDone r) := .leaseDropOn (.setFld h)

theorem Clocked.fillRanges {es : List RngEnt} (h : Clocked w s) (e : s.fillRanges es = some t) : Clocked w t := by
  unfold State.fillRanges at e
  refine List.foldlRecOn (motive := fun x : Option State => ∀ u, x = some u → Clocked w u) es _ ?_
    (fun x hx r _ u hu => ?_) t e
  · intro u hu
    cases hu
    exact h
  · obtain ⟨v, hv, hu⟩ := Option.bind_eq_some_iff.mp hu
    split at hu
    · cases hu
    · split at hu
      · rename_i e1
        cases hu
        exact .fillDone (.of_fst e1 (.tryFill (hx v hv)))
      · cases hu

theorem Clocked.pinCore {t' d : Nat} (h : Clocked w s) : Clocked w (s.pinCore t' d) := .l2Settle (.pinSplit h)

theorem Clocked.setPower {n p : Nat} (h : Clocked w s) : Clocked w (s.setPower n p) := .update h rfl

theorem Clocked.enrol {n : Nat} {r : TenRec} {img dbg : BitVec 384} (h : Clocked w s) :
    Clocked w (s.enrol n r img dbg) := by
  delta State.enrol
  extract_lets s1 s2 s3 s4
  have h1 : Clocked w s1 := .setFields h
  have h2 : Clocked w s2 := .foldl (.setPower h1) fun _ _ h2 => .pinCore h2
  have h3 : Clocked w s3 := .update h2 rfl
  have h4 : Clocked w s4 := .ite (.update h3 rfl) h3
  exact .setFlag h4

theorem Clocked.createTenant {n : Nat} {b : List Byte} (h : Clocked w s) : Clocked w (s.createTenant n b).1 := by
  delta State.createTenant
  split
  · extract_lets _ s1 s2
    have h2 : Clocked w s2 := .setFlag (.foldl h fun _ _ h1 => .giveCup h1)
    split
    · rename_i e1
      exact .enrol (h2.fillRanges e1)
    · exact h
  · exact h

theorem Clocked.tcmdCreate {n : Nat} (h : Clocked w s) : Clocked w (s.tcmdCreate n) := by
  delta State.tcmdCreate
  split
  · rename_i e1
    exact .tcmdEnd (.createTenant (.of_fst e1 (.hbmFetch h)))
  · rename_i e1
    exact .tcmdEnd (.draw (.of_fst e1 (.hbmFetch h)))

theorem Clocked.tcmdBegin {n : Nat} (h : Clocked w s) : Clocked w (s.tcmdBegin n) :=
  .ite (.putOff (.setFields (.setFlag h))) (.tcmdCreate (.setFlag h))

/-! ### Debug sessions -/

theorem Clocked.dbgEnd {win code : Nat} (h : Clocked w s) : Clocked w (s.dbgEnd win code) := .setFlag (.setFields h)

theorem Clocked.dbgRefuse {m win code : Nat} (h : Clocked w s) : Clocked w (s.dbgRefuse m win code) :=
  .ite (.hold (.setFlag (.setFields h))) (.dbgEnd h)

theorem Clocked.modSession {i : Nat} {f : SessSt → SessSt} (h : Clocked w s) : Clocked w (s.modSession i f) :=
  .update h rfl

theorem Clocked.dbgCapture {m i win : Nat} (h : Clocked w s) : Clocked w (s.dbgCapture m i win) := by
  delta State.dbgCapture
  extract_lets
  exact .ite (.dbgRefuse h) (.ite (.dbgRefuse h) (.dbgEnd (.modSession h)))

theorem Clocked.dbgPutOff {win : Nat} (h : Clocked w s) : Clocked w (s.dbgPutOff win) :=
  .putOff (.setFlag (.setFields h))

theorem Clocked.dbgHalt {i win t' : Nat} (h : Clocked w s) : Clocked w (s.dbgHalt i win t') := by
  delta State.dbgHalt
  refine .ite (.dbgEnd h) ?_
  extract_lets s1
  have h1 : Clocked w s1 := .ite (.setFields h) h
  exact .dbgEnd (.modSession h1)

theorem Clocked.dbgResume {i win t' : Nat} (h : Clocked w s) : Clocked w (s.dbgResume i win t') :=
  .ite (.dbgEnd (.modSession (.goCore h))) (.dbgEnd h)

/-! ### Reads by a core or a session -/

theorem Clocked.l2Room {cl d addr : Nat} (h : Clocked w s) : Clocked w (s.l2Room cl d addr) := by
  delta State.l2Room
  extract_lets _ s1
  have h1 : Clocked w s1 := .draw h
  refine .ite h ?_
  split
  · extract_lets s2
    have h2 : Clocked w s2 := .update h1 rfl
    exact .ite (.l2WriteBack h2) h2
  · exact h

theorem Clocked.l2Get {cl d addr : Nat} (h : Clocked w s) : Clocked w (s.l2Get cl d addr).1 := by
  delta State.l2Get
  extract_lets
  split
  · exact h
  · split
    · rename_i t1 _ e1
      have h1 : Clocked w t1 := .of_fst e1 (.hbmRead h)
      extract_lets s1
      have h1' : Clocked w s1 := .l2Room h1
      exact .pair (.update h1' rfl)
    · rename_i e1
      exact .of_fst e1 (.hbmRead h)

theorem Clocked.touchSession {m win : Nat} (h : Clocked w s) : Clocked w (s.touchSession m win) := .update h rfl

theorem Clocked.unlatch {m : Nat} {k : RegKey} (h : Clocked w s) : Clocked w (s.unlatch m k) := .update h rfl

theorem Clocked.latchHigh {m win : Nat} {k : RegKey} (h : Clocked w s) : Clocked w (s.latchHigh m win k) := by
  delta State.latchHigh
  refine .foldl h fun t1 i1 h1 => ?_
  extract_lets s1
  have h1' : Clocked w s1 := .unlatch h1
  exact .update h1' rfl

theorem Clocked.readEffect {m win : Nat} {k : RegKey} (h : Clocked w s) : Clocked w (s.readEffect m win k) := by
  delta State.readEffect
  extract_lets s1 s2
  have h1 : Clocked w s1 := .ite (.unlatch h) (.latchHigh h)
  have h2 : Clocked w s2 := .ite (.setReg h1) h1
  exact .ite (.modQuad h2) (.ite (.draw h2) h2)

theorem Clocked.regGet {m win : Nat} {k : RegKey} (h : Clocked w s) : Clocked w (s.regGet m win k).1 := by
  delta State.regGet
  refine .ite_fst h (.ite_fst h ?_)
  extract_lets _ s1
  have h1 : Clocked w s1 := .ite (.touchSession h) h
  exact .pair (.readEffect h1)

theorem Clocked.spaceRead {m win o len : Nat} (h : Clocked w s) : Clocked w (s.spaceRead m win o len).1 := by
  delta State.spaceRead
  refine .ite_fst h ?_
  extract_lets
  refine .ite_fst ?_ ?_
  · split
    · split <;> rename_i e1 <;> exact .of_fst e1 (.regGet h)
    · exact .ite_fst h h
  · split
    · split <;> rename_i e1 <;> exact .of_fst e1 (.regGet h)
    · exact h

theorem Clocked.busRead {mid d a n : Nat} (h : Clocked w s) : Clocked w (s.busRead mid d a n).1 := by
  delta State.busRead
  split
  · split <;> rename_i e1 <;> exact .of_fst e1 (.hbmRead h)
  · split <;> rename_i e1 <;> exact .of_fst e1 (.spaceRead h)
  · split <;> rename_i e1 <;> exact .of_fst e1 (.spaceRead h)
  · exact h

theorem Clocked.kettleRead {mid a n : Nat} (h : Clocked w s) : Clocked w (s.kettleRead mid a n).1 := by
  delta State.kettleRead
  split
  · exact h
  · exact h
  · exact .busRead h

theorem Clocked.coreRead {t' d a n : Nat} (h : Clocked w s) : Clocked w (s.coreRead t' d a n).1 := by
  delta State.coreRead
  refine .ite_fst (.foldl_fst h fun t1 y1 i1 h1 => ?_) (.ite_fst (.kettleRead h) (.busRead h))
  split
  · refine .ite_fst h1 ?_
    split <;> rename_i e1 <;> exact .of_fst e1 (.l2Get h1)
  · exact h1

theorem Clocked.coreFetch {n t' d : Nat} (h : Clocked w s) : Clocked w (s.coreFetch n t' d).1 := by
  delta State.coreFetch
  extract_lets
  split
  · exact .coreRead h
  · exact h

theorem Clocked.rvMem {rd : State → Nat → Nat → State × Option (List Byte)}
    {wr : State → Nat → List Byte → State × Bool} {acc : Option (Nat × Nat × List Byte)} (h : Clocked w s)
    (hrd : ∀ t a n, Clocked w t → Clocked w (rd t a n).1)
    (hwr : ∀ t a b, Clocked w t → Clocked w (wr t a b).1) : Clocked w (s.rvMem rd wr acc).1 := by
  delta State.rvMem
  split
  · exact h
  · extract_lets r
    have hr : Clocked w r.1 := .ite_fst h (hrd _ _ _ h)
    obtain ⟨t1, res⟩ := r
    cases res with
    | none => exact hr
    | some b =>
      refine .ite_fst hr ?_
      split <;> rename_i e1 <;> exact .of_fst e1 (hwr _ _ _ hr)

end Sys2Proof.Machine
end

section
/-! PROOF. The counts and the queue through the writes of registers by a core or a debug session. -/

namespace Sys2Proof.Machine

variable {w : Nat × Nat × Nat × List Instr} {s t : State}

/-! ### Memory, and the forms of a write -/

theorem Clocked.l2Put {cl d addr : Nat} {data : List Byte} (h : Clocked w s) :
    Clocked w (s.l2Put cl d addr data).1 := by
  delta State.l2Put
  split
  · rename_i t1 _ _ e1
    have h1 : Clocked w t1 := .of_fst e1 (.l2Get h)
    extract_lets
    exact .pair (.update h1 rfl)
  · exact h

theorem Clocked.hbmWrite {dom a : Nat} {data : List Byte} {alloc : Bool} (h : Clocked w s) :
    Clocked w (s.hbmWrite dom a data alloc).1 := by
  delta State.hbmWrite
  split
  · exact h
  · exact .rangeWrite h

theorem Clocked.regPut {put : State → Nat → Nat → RegKey → Word → State} {m win : Nat} {k : RegKey} {v : Word}
    (h : Clocked w s) (hput : ∀ t x1 x2 x3 x4, Clocked w t → Clocked w (put t x1 x2 x3 x4)) :
    Clocked w (s.regPut put m win k v).1 := by
  delta State.regPut
  refine .ite_fst h (.ite_fst h (.ite_fst h ?_))
  extract_lets _ s1
  have h1 : Clocked w s1 := .ite (.touchSession h) h
  exact .ite_fst h (.pair (hput _ _ _ _ _ h1))

theorem Clocked.spaceWrite {put : State → Nat → Nat → RegKey → Word → State} {m win o : Nat} {data : List Byte}
    (h : Clocked w s) (hput : ∀ t x1 x2 x3 x4, Clocked w t → Clocked w (put t x1 x2 x3 x4)) :
    Clocked w (s.spaceWrite put m win o data).1 := by
  delta State.spaceWrite
  refine .ite_fst h ?_
  extract_lets
  refine .ite_fst ?_ ?_
  · split
    · exact .regPut h hput
    · exact h
  · split
    · exact .regPut h hput
    · exact h

theorem Clocked.sendPending (h : Clocked w s) : Clocked w s.sendPending := .foldl h fun _ _ h1 => .ite (.sendMsix h1) h1

theorem Clocked.takeToken {m : Nat} (h : Clocked w s) : Clocked w (s.takeToken m) := by
  delta State.takeToken
  refine .ite (.sendPending ?_) h
  extract_lets s1
  have h1 : Clocked w s1 := .setFld h
  exact .update h1 rfl

theorem Clocked.writeToken {m : Nat} {v : Word} (h : Clocked w s) : Clocked w (s.writeToken m v) := by
  delta State.writeToken
  extract_lets s1 s2
  have h1 : Clocked w s1 := .ite (.setFlag h) h
  have h2 : Clocked w s2 := .ite (.setFld h1) h1
  exact .ite (.takeToken h2) h2

theorem Clocked.writeHeartbeat {m : Nat} (h : Clocked w s) : Clocked w (s.writeHeartbeat m) := .ite (.update h rfl) h

theorem Clocked.holdOr {p : Nat → Bool} {i : Instr} {act : State → State} (h : Clocked w s)
    (hact : ∀ t, Clocked w t → Clocked w (act t)) : Clocked w (s.holdOr p i act) := by
  delta State.holdOr
  split
  · exact hact _ h
  · exact .update h rfl

theorem Clocked.plainWrite {k : RegKey} {v : Word} (h : Clocked w s) : Clocked w (s.plainWrite k v) := .setReg h

theorem Clocked.goWrite {k : RegKey} {v : Word} {act : State → State} (h : Clocked w s)
    (hact : ∀ t, Clocked w t → Clocked w (act t)) : Clocked w (s.goWrite k v act) := by
  delta State.goWrite
  refine .ite h ?_
  extract_lets s1
  have h1 : Clocked w s1 := .setFlag (.plainWrite h)
  exact .ite (hact _ h1) h1

/-! ### Registers of the device: tenants torn down, the budget, the Urn -/

theorem Clocked.resetRegs {p : RegKey → Bool} (h : Clocked w s) : Clocked w (s.resetRegs p) := .update h rfl

theorem Clocked.setValid {r lib : Nat} {b : Bool} (h : Clocked w s) : Clocked w (s.setValid r lib b) := by
  delta State.setValid
  extract_lets
  exact .update h rfl

theorem Clocked.imgBegin {n : Nat} {j : ImgJob} (h : Clocked w s) : Clocked w (s.imgBegin n j).1 := by
  delta State.imgBegin
  extract_lets _ _ fail
  have hfail (c : Nat) : Clocked w (fail c).1 := h
  refine .ite_fst (hfail _) ?_
  split
  · refine .ite_fst (hfail _) (.ite_fst (hfail _) (.ite_fst (hfail _) (.ite_fst (hfail _) ?_)))
    split <;> rename_i e1
    · exact .setValid (.of_fst e1 (.leaseTry h))
    · exact .of_fst e1 (.leaseTry h)
  · exact .ite_fst (hfail _) (.ite_fst (hfail _) (.ite_fst h (.ite_fst (hfail _) (hfail _))))
  · exact hfail _
  · exact .ite_fst (hfail _) (.ite_fst (hfail _) (.ite_fst (hfail _) (hfail _)))
  · exact .ite_fst (hfail _) (hfail _)
  · exact .ite_fst (hfail _) (.ite_fst (hfail _) (hfail _))
  · exact .ite_fst (hfail _) (.ite_fst (hfail _) (hfail _))

theorem Clocked.imgEnd {win code detail : Nat} (h : Clocked w s) : Clocked w (s.imgEnd win code detail) := by
  delta State.imgEnd
  extract_lets _ s1
  have h1 : Clocked w s1 := .update h rfl
  exact .ite (.holdUntil h1) (.setFlag (.setFields h1))

theorem Clocked.imgServe {fuel n : Nat} (h : Clocked w s) : Clocked w (State.imgServe fuel n s) := by
  induction fuel generalizing s n with
  | zero => exact h
  | succ fuel ih =>
    unfold State.imgServe
    refine .ite h ?_
    split
    · exact h
    · split
      · exact h
      · split <;> rename_i e1
        · exact .update (.of_fst e1 (.imgBegin h)) rfl
        · exact ih (.imgEnd (.of_fst e1 (.imgBegin h)))

theorem Clocked.forget {n : Nat} (h : Clocked w s) : Clocked w (s.forget n) := by
  delta State.forget
  extract_lets s1 _ s2 s3
  have h1 : Clocked w s1 := .resetRegs (.modEvq h)
  have h2 : Clocked w s2 := .update h1 rfl
  exact .setFlag (.setPower (.ite (.imgServe h2) h2))

theorem Clocked.removeRange {r : Nat} (h : Clocked w s) : Clocked w (s.removeRange r) := by
  delta State.removeRange
  refine .ite h ?_
  dsimp only
  exact .setFields (.modRange (.foldl (.leaseDropOn (.dropCached h)) fun _ _ h1 => .setReg h1))

theorem Clocked.stopRanges {d : Nat} (h : Clocked w s) : Clocked w (s.stopRanges d) := by
  delta State.stopRanges
  extract_lets s1
  have h1 : Clocked w s1 := .foldl h fun _ _ h1 => .removeRange h1
  exact .foldl h1 fun _ _ h2 => .setFld h2

theorem Clocked.resetRtps {d : Nat} (h : Clocked w s) : Clocked w (s.resetRtps d) := by
  delta State.resetRtps
  extract_lets _ s1
  have h1 : Clocked w s1 := .resetRegs h
  exact .update h1 rfl

theorem Clocked.colReset {n : Nat} (h : Clocked w s) : Clocked w (s.colReset n) := .colForget (.resetRegs h)

theorem Clocked.stopTray {d : Nat} (h : Clocked w s) : Clocked w (s.stopTray d) := by
  delta State.stopTray
  extract_lets _ s1 s2 _ s3
  have h1 : Clocked w s1 := .foldl h fun _ _ h1 => .setFld (.modStream (.streamFlow (.setTree h1)))
  have h2 : Clocked w s2 := .endGrants (.resetRtps h1)
  have h3 : Clocked w s3 := .foldl h2 fun _ _ h3 => .colReset h3
  exact .update h3 rfl

theorem Clocked.cupOff {c : Nat} (h : Clocked w s) : Clocked w (s.cupOff c) := by
  delta State.cupOff
  extract_lets s1 s2 s3
  have h1 : Clocked w s1 := .setFields h
  have h2 : Clocked w s2 := .setFlag (.setFlag h1)
  have h3 : Clocked w s3 := .modCup h2
  exact .followLatches (.keepUnits (.unask h3))

theorem Clocked.takeCups {d : Nat} (h : Clocked w s) : Clocked w (s.takeCups d) := by
  delta State.takeCups
  refine .foldl h fun t1 i1 h1 => ?_
  extract_lets s1 _ s2
  have h1' : Clocked w s1 := .cupOff h1
  have h2 : Clocked w s2 := .update h1' rfl
  exact .resetRegs (.setCup (.giveCup h2))

theorem Clocked.spMark {e st cause : Nat} (h : Clocked w s) : Clocked w (s.spMark e st cause) := .setFields h

theorem Clocked.spCancelMarks {g cause : Nat} {bad : Option Nat} (h : Clocked w s) :
    Clocked w (s.spCancelMarks g cause bad) := .foldl h fun _ _ h1 => .spMark h1

theorem Clocked.casReport {g cause : Nat} (h : Clocked w s) : Clocked w (s.casReport g cause) := .ite (.casSend h) h

theorem Clocked.spCancel {g cause : Nat} {bad : Option Nat} (h : Clocked w s) : Clocked w (s.spCancel g cause bad) := by
  delta State.spCancel
  extract_lets _ _ s1 s2
  have h1 : Clocked w s1 := .spCancelMarks h
  have h2 : Clocked w s2 := .raiseEvent h1
  exact .ite (.casReport h2) h2

theorem Clocked.leaseDropRes {p : Resource → Bool} (h : Clocked w s) : Clocked w (s.leaseDropRes p) :=
  .leaseDropIf (.foldl h fun _ _ h1 => .haltActivity h1)

theorem Clocked.stopPlans {d : Nat} (h : Clocked w s) : Clocked w (s.stopPlans d) := by
  delta State.stopPlans
  extract_lets _ s1
  have h1 : Clocked w s1 := .foldl h fun _ _ h1 => .spCancel h1
  exact .leaseDropRes h1

theorem Clocked.l2Drop {d : Nat} (h : Clocked w s) : Clocked w (s.l2Drop d) := .update h rfl

theorem Clocked.dropIssue {p : Nat → Bool} (h : Clocked w s) : Clocked w (s.dropIssue p) := .update h rfl

theorem Clocked.stopCore {t' : Nat} (h : Clocked w s) : Clocked w (s.stopCore t') := by
  delta State.stopCore
  extract_lets s1 _ s2 s3
  have h1 : Clocked w s1 := .setFields (.setFlag h)
  have h2 : Clocked w s2 := .update h1 rfl
  have h3 : Clocked w s3 := .keepUnits (.unask h2)
  exact .ite h3 (.keepUnits (.unask h3))

theorem Clocked.hceStop {i : Nat} (h : Clocked w s) : Clocked w (s.hceStop i) := by
  delta State.hceStop
  split
  · exact .ite (.hceEnd h) (.update h rfl)
  · exact h

theorem Clocked.hceDrop {d : Nat} (h : Clocked w s) : Clocked w (s.hceDrop d) :=
  .foldl h fun _ _ h1 => .setReg (.hceStop (.setFlag h1))

theorem Clocked.stopIssue {d : Nat} (h : Clocked w s) : Clocked w (s.stopIssue d) := by
  delta State.stopIssue
  extract_lets _ s1 s2 s3 s4
  have h1 : Clocked w s1 := .l2Drop (.dropIssue h)
  have h2 : Clocked w s2 := .foldl h1 fun _ _ h2 => .stopCore h2
  have h3 : Clocked w s3 := .foldl h2 fun _ _ h3 => .resetRegs (.pinCore h3)
  have h4 : Clocked w s4 := .resetRegs (.hceDrop h3)
  exact .update h4 rfl

theorem Clocked.closeSessions {d : Nat} (h : Clocked w s) : Clocked w (s.closeSessions d) :=
  .foldl h fun _ _ h1 => .closeSession h1

theorem Clocked.tcmdTeardown {n : Nat} (h : Clocked w s) : Clocked w (s.tcmdTeardown n) := by
  delta State.tcmdTeardown
  extract_lets
  exact .ite (.tcmdEnd (.forget (.stopRanges (.stopTray (.takeCups (.stopPlans (.stopIssue (.closeSessions h))))))))
    (.tcmdEnd h)

theorem Clocked.writeTcmd {v : Word} (h : Clocked w s) : Clocked w (s.writeTcmd v) :=
  .goWrite h (fun _ h1 => .ite (.tcmdBegin h1) (.tcmdTeardown h1))

theorem Clocked.putTcmd {m : Nat} {v : Word} (h : Clocked w s) : Clocked w (s.putTcmd m v) := by
  delta State.putTcmd
  refine .ite ?_ (.writeTcmd h)
  extract_lets
  exact .holdOr h fun _ h1 => .writeTcmd h1

theorem Clocked.writeBudget {v : Word} (h : Clocked w s) : Clocked w (s.writeBudget v) := .examine (.plainWrite h)

theorem Clocked.writeUrnCl {n : Nat} {v : Word} (h : Clocked w s) : Clocked w (s.writeUrnCl n v) := by
  delta State.writeUrnCl
  extract_lets _ s1 s2
  have h1 : Clocked w s1 := .setReg h
  have h2 : Clocked w s2 := .ite (.calm h1) h1
  exact .examine (.relevel h2)

theorem Clocked.putUrnCl {m n : Nat} {v : Word} (h : Clocked w s) : Clocked w (s.putUrnCl m n v) :=
  .holdOr h (fun _ h1 => .writeUrnCl h1)

theorem Clocked.writeDev {m : Nat} {k : RegKey} {v : Word} (h : Clocked w s) : Clocked w (s.writeDev m k v) := by
  delta State.writeDev
  split
  · exact .writeToken h
  · exact .writeHeartbeat h
  · exact .putTcmd h
  · exact .writeBudget h
  · exact .putUrnCl h
  · exact .plainWrite h

/-! ### The Strainer and the Caddy, with the injection of faults (R401) -/

theorem Clocked.writeErrctl {v : Word} (h : Clocked w s) : Clocked w (s.writeErrctl v) := by
  delta State.writeErrctl
  extract_lets s1
  have h1 : Clocked w s1 := .ite (.setFields h) h
  exact .ite (.setFlag h1) h1

theorem Clocked.writeEvpop {win : Nat} {v : Word} (h : Clocked w s) : Clocked w (s.writeEvpop win v) :=
  .ite (.modEvq h) h

theorem Clocked.resendVector {win vec : Nat} (h : Clocked w s) : Clocked w (s.resendVector win vec) :=
  .ite (.signalCores (.sendMsix (.setFlag h))) h

theorem Clocked.writeIrqack {win : Nat} {v : Word} (h : Clocked w s) : Clocked w (s.writeIrqack win v) :=
  .foldl h fun _ _ h1 => .ite (.resendVector (.setFlag h1)) h1

theorem Clocked.injected {b : Bool} {f : State → State} (h : Clocked w s) (hf : ∀ t, Clocked w t → Clocked w (f t)) :
    Clocked w (s.injected b f) := .setInj (hf _  (.setInj h))

theorem Clocked.injEvent {n : Nat} (h : Clocked w s) : Clocked w (s.injEvent n) :=
  .ite (.injected h (fun _ h1 => .raiseEvent h1)) h

theorem Clocked.injConfig {c arg : Nat} (h : Clocked w s) : Clocked w (s.injConfig c arg) := by
  delta State.injConfig
  extract_lets
  exact .ite (.followLatches (.setCup h)) h

theorem Clocked.injBytes {st n : Nat} (h : Clocked w s) : Clocked w (s.injBytes st n) := .ite (.modStk h) h

theorem Clocked.injTag {st : Nat} (h : Clocked w s) : Clocked w (s.injTag st) := .ite (.modStk h) h

theorem Clocked.injFlit {k n : Nat} (h : Clocked w s) : Clocked w (s.injFlit k n) := .ite (.update h rfl) h

theorem Clocked.injBurst {l n : Nat} (h : Clocked w s) : Clocked w (s.injBurst l n) := .ite (.modLane h) h

theorem Clocked.enterSafe {source cause : Nat} {bytes : List Byte} {thermal : Bool} (h : Clocked w s) :
    Clocked w (s.enterSafe source cause bytes thermal) := by
  delta State.enterSafe
  extract_lets s1 s2 s3
  have h1 : Clocked w s1 := .raiseEvent h
  have h2 : Clocked w s2 := .foldl h1 fun _ _ h2 => .setFld h2
  have h3 : Clocked w s3 := .haltAll h2
  exact .update h3 rfl

theorem Clocked.injCompare (h : Clocked w s) : Clocked w s.injCompare := .injected h fun _ h1 => .enterSafe h1

theorem Clocked.injectFault {v : Word} (h : Clocked w s) : Clocked w (s.injectFault v) := by
  delta State.injectFault
  split
  · exact .injEvent h
  · exact .injConfig h
  · exact .injBytes h
  · exact .injTag h
  · exact .injFlit h
  · exact .injBurst h
  · exact .injCompare h
  · exact h

theorem Clocked.writeInj {v : Word} (h : Clocked w s) : Clocked w (s.writeInj v) := by
  delta State.writeInj
  refine .ite h ?_
  extract_lets s1
  have h1 : Clocked w s1 := .plainWrite h
  exact .ite (.injectFault h1) h1

theorem Clocked.writeInjWord {v : Word} (h : Clocked w s) : Clocked w (s.writeInjWord v) := .ite (.plainWrite h) h

theorem Clocked.writeSrc {n : Nat} {v : Word} (h : Clocked w s) : Clocked w (s.writeSrc n v) := by
  delta State.writeSrc
  extract_lets
  exact .ite h (.ite (.ite (.setFlag h) h) (.plainWrite h))

theorem Clocked.writeCadSel {win : Nat} {v : Word} (h : Clocked w s) : Clocked w (s.writeCadSel win v) := by
  delta State.writeCadSel
  extract_lets s1
  have h1 : Clocked w s1 := .plainWrite h
  split
  · extract_lets
    exact .foldl (.setFields h1) fun _ _ h2 => .setReg h2
  · exact .setFields h1

theorem Clocked.writeStr {win : Nat} {k : RegKey} {v : Word} (h : Clocked w s) : Clocked w (s.writeStr win k v) := by
  delta State.writeStr
  split
  · exact .writeErrctl h
  · exact .writeEvpop h
  · exact .writeIrqack h
  · exact .writeInj h
  · exact .writeInjWord h
  · exact .writeSrc h
  · exact .writeCadSel h
  · exact .ite h (.plainWrite h)
  · exact .plainWrite h

/-! ### Device time and the switch-point table (R173 to R191) -/

theorem Clocked.writeTimeCtl {v : Word} (h : Clocked w s) : Clocked w (s.writeTimeCtl v) := by
  delta State.writeTimeCtl
  extract_lets s1 s2
  have h1 : Clocked w s1 := .plainWrite h
  have h2 : Clocked w s2 := .setFlag h1
  exact .ite h1 (.update h2 rfl)

theorem Clocked.writeAdj {v : Word} (h : Clocked w s) : Clocked w (s.writeAdj v) := by
  delta State.writeAdj
  refine .ite ?_ h
  extract_lets _ s1
  have h1 : Clocked w s1 := .setReg h
  exact .update h1 rfl

theorem Clocked.writeStep {v : Word} (h : Clocked w s) : Clocked w (s.writeStep v) := .ite (.update h rfl) h

theorem Clocked.writeSet {v : Word} (h : Clocked w s) : Clocked w (s.writeSet v) := by
  delta State.writeSet
  extract_lets s1
  have h1 : Clocked w s1 := .plainWrite h
  exact .ite (.update h1 rfl) h1

theorem Clocked.writeSpCtl {e : Nat} {v : Word} (h : Clocked w s) : Clocked w (s.writeSpCtl e v) := by
  delta State.writeSpCtl
  refine .ite ?_ h
  extract_lets s1 _ s2 s3
  have h1 : Clocked w s1 := .plainWrite h
  have h2 : Clocked w s2 := .spMark h1
  have h3 : Clocked w s3 := .spMark h1
  exact .ite (.update h2 rfl) (.ite (.update h3 rfl) h1)

theorem Clocked.writeSpReg {k : RegKey} {v : Word} (h : Clocked w s) : Clocked w (s.writeSpReg k v) :=
  .ite (.setReg h) h

theorem Clocked.spStat {st code e : Nat} (h : Clocked w s) : Clocked w (s.spStat st code e) := .setReg h

theorem Clocked.modGroup {g : Nat} {f : CasGroup → CasGroup} (h : Clocked w s) : Clocked w (s.modGroup g f) :=
  .update h rfl

theorem Clocked.armGroup {g : Nat} {want : Option Nat} (h : Clocked w s) : Clocked w (s.armGroup g want).1 := by
  delta State.armGroup
  extract_lets _ _ s1
  have h1 : Clocked w s1 := .modGroup (.update h rfl)
  refine .ite_fst (.pair (.spStat h)) (.ite_fst (.pair (.spStat h)) (.ite_fst (.pair (.spStat h)) ?_))
  split
  · exact .pair (.spStat (.foldl h fun _ _ h2 => .spMark h2))
  · exact .pair (.spStat (.foldl h1 fun _ _ h2 => .spMark h2))

theorem Clocked.spCancelCmd {g : Nat} (h : Clocked w s) : Clocked w (s.spCancelCmd g) := by
  delta State.spCancelCmd
  extract_lets _ s1
  have h1 : Clocked w s1 := .spStat (.spCancelMarks h)
  exact .ite (.spStat h) (.ite (.casReport h1) h1)

theorem Clocked.writeSpCmd {v : Word} (h : Clocked w s) : Clocked w (s.writeSpCmd v) :=
  .goWrite h (fun _ h1 => .ite (.armGroup h1) (.spCancelCmd h1))

theorem Clocked.writeTick {k : RegKey} {v : Word} (h : Clocked w s) : Clocked w (s.writeTick k v) := by
  delta State.writeTick
  split
  · exact .writeTimeCtl h
  · exact .writeAdj h
  · exact .writeStep h
  · exact .writeSet h
  · exact .writeSpCtl h
  · exact .writeSpReg h
  · exact .writeSpReg h
  · exact .writeSpReg h
  · exact .writeSpCmd h
  · exact .plainWrite h

/-! ### The store die, the library and the HCE -/

theorem Clocked.writeImgCmd {m win : Nat} {v : Word} (h : Clocked w s) : Clocked w (s.writeImgCmd m win v) := by
  delta State.writeImgCmd
  refine .goWrite h fun t1 h1 => ?_
  extract_lets _ s1
  have h2 : Clocked w s1 := .setFields (.setFlag h1)
  exact .imgServe (.update h2 rfl)

theorem Clocked.writeJdata {m : Nat} {v : Word} (h : Clocked w s) : Clocked w (s.writeJdata m v) := by
  delta State.writeJdata
  refine .ite ?_ h
  split
  · exact .ite (.update h rfl) h
  · exact h

theorem Clocked.writeLibent {win : Nat} {v : Word} (h : Clocked w s) : Clocked w (s.writeLibent win v) := by
  delta State.writeLibent
  extract_lets
  exact .ite (.update h rfl) h

theorem Clocked.writeHceCtl {v : Word} (h : Clocked w s) : Clocked w (s.writeHceCtl v) := by
  delta State.writeHceCtl
  extract_lets _ s1
  have h1 : Clocked w s1 := .plainWrite h
  exact .update h1 rfl

theorem Clocked.writeHceCtx {i : Nat} {v : Word} (h : Clocked w s) : Clocked w (s.writeHceCtx i v) := by
  delta State.writeHceCtx
  extract_lets
  exact .ite h (.ite (.ite h (.hceStop (.setFlag h))) (.plainWrite h))

theorem Clocked.writeHceCmd {m i : Nat} {v : Word} (h : Clocked w s) : Clocked w (s.writeHceCmd m i v) := by
  delta State.writeHceCmd
  refine .ite h (.goWrite h (fun t1 h1 => ?_))
  extract_lets _ s1
  have h1' : Clocked w s1 := .setFields (.setFlag h1)
  exact .ite (.putOff (.update h1' rfl)) (.hceLoad h1')

theorem Clocked.writeImg {m win : Nat} {k : RegKey} {v : Word} (h : Clocked w s) :
    Clocked w (s.writeImg m win k v) := by
  delta State.writeImg
  split
  · exact .writeImgCmd h
  · exact .writeJdata h
  · exact .writeLibent h
  · exact .writeHceCtl h
  · exact .writeHceCtx h
  · exact .writeHceCmd h
  · exact .ite h (.plainWrite h)
  · exact .ite h (.plainWrite h)
  · exact .plainWrite h

/-! ### The cascade -/

theorem Clocked.casTell {msg : CasOut} (h : Clocked w s) : Clocked w (s.casTell msg) :=
  .foldl h fun _ _ h1 => .casSend h1

theorem Clocked.casPrep {g : Nat} (h : Clocked w s) : Clocked w (s.casPrep g).1 := by
  delta State.casPrep
  refine .ite_fst h (.ite_fst h ?_)
  split <;> rename_i e1 <;> have h1 := Clocked.of_fst e1 (.armGroup h)
  · exact .pair (.casTell (.modGroup (.setReg h1)))
  · exact h1

theorem Clocked.enterHold (h : Clocked w s) : Clocked w s.enterHold := by
  delta State.enterHold
  refine .ite h ?_
  extract_lets s1 _ s2 s3
  have h1 : Clocked w s1 := .setFlag h
  have h2 : Clocked w s2 := .update h1 rfl
  have h3 : Clocked w s3 := .foldl h2 fun _ _ h3 => .ite (.spCancel h3) h3
  exact .raiseEvent h3

theorem Clocked.resign (h : Clocked w s) : Clocked w s.resign :=
  .ite (.enterHold (.setFlag (.setFld (.update h rfl)))) h

theorem Clocked.setAdmitted {id : Nat} {b : Bool} (h : Clocked w s) : Clocked w (s.setAdmitted id b) := .setFlag h

theorem Clocked.admitDev {id : Nat} (h : Clocked w s) : Clocked w (s.admitDev id) := by
  delta State.admitDev
  extract_lets
  exact .casSend (.setAdmitted (.update h rfl))

theorem Clocked.linkLease {n : Nat} (h : Clocked w s) : Clocked w (s.linkLease n).1 :=
  .foldl_fst h fun _ _ _ h1 => .ite_fst (.leaseTry h1) h1

theorem Clocked.linkFreeLease {n : Nat} (h : Clocked w s) : Clocked w (s.linkFreeLease n) :=
  .foldl h fun _ _ h1 => .leaseDropOn h1

theorem Clocked.linkTrain {n : Nat} (h : Clocked w s) : Clocked w (s.linkTrain n) := by
  delta State.linkTrain
  extract_lets
  dsimp only
  exact .modLink (.setFld (.ite (.linkLease h) (.linkFreeLease (.linkLease h))))

theorem Clocked.restoreLink {n : Nat} (h : Clocked w s) : Clocked w (s.restoreLink n) :=
  .ite (.casFlood (.linkTrain (.modLink h))) h

theorem Clocked.startCensus (h : Clocked w s) : Clocked w s.startCensus := by
  delta State.startCensus
  extract_lets
  exact .casTell (.update h rfl)

theorem Clocked.casRun {op arg : Nat} (h : Clocked w s) : Clocked w (s.casRun op arg).1 := by
  delta State.casRun
  extract_lets
  split
  · exact .ite_fst h (.ite_fst h (.casPrep h))
  · exact .pair (.resign h)
  · exact .ite_fst h (.ite_fst h (.pair (.admitDev h)))
  · exact .ite (.setFlag h) h
  · exact .ite_fst h (.pair (.restoreLink h))
  · exact .ite_fst h (.pair (.startCensus h))

theorem Clocked.writeCasCmd {v : Word} (h : Clocked w s) : Clocked w (s.writeCasCmd v) := by
  delta State.writeCasCmd
  refine .goWrite h fun t1 h1 => ?_
  dsimp only
  exact .setReg (.casRun h1)

theorem Clocked.writeSlink {v : Word} (h : Clocked w s) : Clocked w (s.writeSlink v) := by
  delta State.writeSlink
  extract_lets
  refine .ite ?_ (.plainWrite h)
  dsimp only
  exact .ite (.setFlag h) (.plainWrite h)

theorem Clocked.writeMembers {win : Nat} {v : Word} (h : Clocked w s) : Clocked w (s.writeMembers win v) := by
  delta State.writeMembers
  extract_lets s1 s2
  have h1 : Clocked w s1 := .plainWrite h
  have h2 : Clocked w s2 := .setReg h1
  exact .ite (.casSend h2) h1

/-! ### Ranges of HBM -/

theorem Clocked.writeRights {own : Bool} {r win : Nat} {v : Word} (h : Clocked w s) :
    Clocked w (s.writeRights own r win v) := by
  delta State.writeRights
  extract_lets
  exact .ite h (.setReg h)

theorem Clocked.rngStatus {r code : Nat} (h : Clocked w s) : Clocked w (s.rngStatus r code) := .setFields h

theorem Clocked.rangeRun {r op dom : Nat} (h : Clocked w s) : Clocked w (s.rangeRun r op dom).1 := by
  delta State.rangeRun
  extract_lets
  split
  · exact .removeRange h
  · refine .ite_fst h (.ite_fst h ?_)
    extract_lets
    split
    · exact .tryFill h
    · exact h
  · refine .ite_fst h (.ite_fst h ?_)
    split <;> rename_i e1
    · exact .startSweep (.of_fst e1 (.leaseTry h))
    · exact .of_fst e1 (.leaseTry h)
  · exact .ite_fst h (.ite_fst h (.ite_fst h (.tryFill h)))

theorem Clocked.rngRefused {m r : Nat} (h : Clocked w s) : Clocked w (s.rngRefused m r) := by
  delta State.rngRefused
  extract_lets
  exact .ite (.hold (.setFlag (.setFields h))) (.rngStatus h)

theorem Clocked.writeRngCmd {m : Nat} {v : Word} (h : Clocked w s) : Clocked w (s.writeRngCmd m v) := by
  delta State.writeRngCmd
  extract_lets
  refine .ite h (.goWrite h (fun t1 h1 => .ite (.rngStatus h1) ?_))
  split
  · rename_i e1
    exact .rngRefused (.of_fst e1 (.rangeRun h1))
  · rename_i e1
    exact .rngStatus (.of_fst e1 (.rangeRun h1))

theorem Clocked.writeBucket {st : Nat} {v : Word} (h : Clocked w s) : Clocked w (s.writeBucket st v) :=
  .foldl (.plainWrite h) fun _ _ h1 => .modPch h1

theorem Clocked.writeInf {m win : Nat} {k : RegKey} {v : Word} (h : Clocked w s) :
    Clocked w (s.writeInf m win k v) := by
  delta State.writeInf
  split
  · exact .writeCasCmd h
  · exact .writeSlink h
  · exact .writeMembers h
  · exact .ite h (.plainWrite h)
  · exact .ite h (.plainWrite h)
  · exact .ite h (.plainWrite h)
  · exact .writeRights h
  · exact .writeRngCmd h
  · exact .writeBucket h
  · exact .plainWrite h

/-! ### Cups, their loads, borders and readbacks -/

theorem Clocked.writeStateReq {m : Nat} {c : Fin 192} {v : Word} (h : Clocked w s) :
    Clocked w (s.writeStateReq m c v) := by
  delta State.writeStateReq
  extract_lets
  exact .ite h (.holdOr h (fun _ h1 => .stateReq h1))

theorem Clocked.failSince {since m : Nat} {k : RegKey} {fs : List (Nat × Nat × Nat)} (h : Clocked w s) :
    Clocked w (s.failSince since m k fs) := .ite (.holdUntil h) (.setFields h)

theorem Clocked.failKettle {m : Nat} {k : RegKey} {fs : List (Nat × Nat × Nat)} (h : Clocked w s) :
    Clocked w (s.failKettle m k fs) := .failSince h

theorem Clocked.loadEnd {c code check word : Nat} (h : Clocked w s) : Clocked w (s.loadEnd c code check word) := by
  delta State.loadEnd
  extract_lets s1
  have h1 : Clocked w s1 := .setFields (.setFlag h)
  exact .leaseDropOn (.modLoads (.modCup h1))

theorem Clocked.loadImage {dom : Nat} {lib : Option Nat} {a : Nat} (h : Clocked w s) :
    Clocked w (s.loadImage dom lib a).1 := by
  delta State.loadImage
  split
  · exact h
  · split
    · rename_i t1 _ e1
      have h1 : Clocked w t1 := .of_fst e1 (.hbmFetch h)
      extract_lets
      exact .ite_fst (.hbmFetch h1) h1
    · rename_i e1
      exact .of_fst e1 (.hbmFetch h)

theorem Clocked.loadRead {m c : Nat} {lib : Option Nat} {dom a since : Nat} (h : Clocked w s) :
    Clocked w (s.loadRead m c lib dom a since) := by
  delta State.loadRead
  split
  · rename_i t1 _ e1
    have h1 : Clocked w t1 := .of_fst e1 (.loadImage h)
    extract_lets
    exact .modCup h1
  · rename_i e1
    exact .failSince (.loadEnd (.of_fst e1 (.loadImage h)))

theorem Clocked.writeLoadCmd {m c : Nat} {v : Word} (h : Clocked w s) : Clocked w (s.writeLoadCmd m c v) := by
  delta State.writeLoadCmd
  extract_lets _ _ s1
  have h1 : Clocked w s1 := .setFlag (.plainWrite h)
  refine .ite (.ite (.setFld h) (.plainWrite h)) (.ite h1 (.ite (.failKettle h1) ?_))
  split <;> rename_i e1 <;> have h2 := Clocked.of_fst e1 (.leaseTry h1)
  · exact .failKettle h2
  · extract_lets s2 _ s3
    have h3 : Clocked w s2 := .setFields (.setFlag h2)
    have h4 : Clocked w s3 := .modLoads h3
    exact .ite (.loadEnd h3) (.ite (.modCup h4) (.loadRead h4))

theorem Clocked.brdReq {c sd : Nat} {v : Word} (h : Clocked w s) : Clocked w (s.brdReq c sd v) := by
  delta State.brdReq
  refine .ite (.setFlag h) ?_
  extract_lets
  exact .modCup h

theorem Clocked.writeBrdReq {m : Nat} {c : Fin 192} {side : Fin 4} {v : Word} (h : Clocked w s) :
    Clocked w (s.writeBrdReq m c side v) := .holdOr h fun _ h1 => .brdReq h1

theorem Clocked.bdrvWrite {c sd : Nat} {v : Word} (h : Clocked w s) : Clocked w (s.bdrvWrite c sd v) := by
  delta State.bdrvWrite
  extract_lets _ s1
  have h1 : Clocked w s1 := .ite (.setFlag h) h
  exact .ite (.setFlag h1) (.setFld (.clearDrive h1))

theorem Clocked.writeBdrv {m : Nat} {c : Fin 192} {side : Fin 4} {v : Word} (h : Clocked w s) :
    Clocked w (s.writeBdrv m c side v) := by
  delta State.writeBdrv
  extract_lets
  exact .holdOr h fun _ h1 => .bdrvWrite h1

theorem Clocked.rbFail {c : Nat} {j : RbJob} {code : Nat} (h : Clocked w s) : Clocked w (s.rbFail c j code) :=
  .failSince (.modCup h)

theorem Clocked.rbLease {c : Nat} (h : Clocked w s) : Clocked w (s.rbLease c) := by
  delta State.rbLease
  split
  · split <;> rename_i e1 <;> have h1 := Clocked.of_fst e1 (.leaseTry h)
    · exact .modCup h1
    · exact .rbFail h1
  · exact h

theorem Clocked.writeRbCmd {m c : Nat} {v : Word} (h : Clocked w s) : Clocked w (s.writeRbCmd m c v) := by
  delta State.writeRbCmd
  extract_lets _ _ s1 _ _ _ _ s2
  have h1 : Clocked w s1 := .setFld h
  have h2 : Clocked w s2 := .modCup (.setFields h1)
  exact .ite h1 (.ite (.failKettle h1) (.ite (.setFields h1) (.ite h2 (.rbLease h2))))

theorem Clocked.writeDiv {p n : Nat} {v : Word} (h : Clocked w s) : Clocked w (s.writeDiv p n v) := by
  delta State.writeDiv
  refine .ite (.setFlag h) ?_
  extract_lets s1
  have h1 : Clocked w s1 := .plainWrite h
  exact .ite (.modLeaf h1) h1

theorem Clocked.divgrantWrite {p j : Nat} {v : Word} (h : Clocked w s) : Clocked w (s.divgrantWrite p j v) := by
  delta State.divgrantWrite
  extract_lets _ _ s1
  have h1 : Clocked w s1 := .plainWrite h
  refine .ite ?_ h1
  split
  · exact .modCup h1
  · exact h1

theorem Clocked.putDivgrant {m p j : Nat} {v : Word} (h : Clocked w s) : Clocked w (s.putDivgrant m p j v) :=
  .holdOr h (fun _ h1 => .divgrantWrite h1)

theorem Clocked.writeCup {m : Nat} {k : RegKey} {v : Word} (h : Clocked w s) : Clocked w (s.writeCup m k v) := by
  delta State.writeCup
  extract_lets
  split
  · exact .writeStateReq h
  · exact .writeLoadCmd h
  · exact .writeBrdReq h
  · exact .writeBdrv h
  · exact .writeCap h
  · exact .writeRbCmd h
  · exact .writeDiv h
  · exact .putDivgrant h
  · exact .plainWrite h

/-! ### Streams, queue grants and collectors -/

theorem Clocked.rsvDone {code k link taken : Nat} (h : Clocked w s) : Clocked w (s.rsvDone code k link taken) :=
  .setReg h

theorem Clocked.rsvTake {stream : Nat} {prep : Option Nat} (h : Clocked w s) : Clocked w (s.rsvTake stream prep) := by
  delta State.rsvTake
  extract_lets
  refine .ite (.rsvDone h) (.ite (.rsvDone h) ?_)
  split
  · extract_lets
    refine .rsvDone ?_
    split
    · exact .setTree h
    · exact .modStream h
  · exact .rsvDone h

theorem Clocked.applySwap {set : Nat} (h : Clocked w s) : Clocked w (s.applySwap set) :=
  .foldl h fun _ _ h1 => .modStream h1

theorem Clocked.discardSwap {set : Nat} (h : Clocked w s) : Clocked w (s.discardSwap set) :=
  .foldl h fun _ _ h1 => .modStream h1

theorem Clocked.rsvRun {op set : Nat} (h : Clocked w s) : Clocked w (s.rsvRun op set) := by
  delta State.rsvRun
  extract_lets
  split
  · exact .ite (.rsvDone h) (.rsvTake h)
  · exact .ite (.rsvDone h) (.ite (.rsvDone h) (.rsvTake h))
  · exact .ite (.rsvDone h) (.ite (.rsvDone h) (.rsvDone (.streamFlow (.setTree h))))
  · exact .ite (.rsvDone h) (.ite (.rsvDone h) (.rsvDone (.modStream h)))
  · exact .ite (.rsvDone h) (.rsvDone (.applySwap h))
  · exact .ite (.rsvDone h) (.rsvDone (.discardSwap h))

theorem Clocked.writeRsvCmd {v : Word} (h : Clocked w s) : Clocked w (s.writeRsvCmd v) :=
  .goWrite h (fun _ h1 => .ite (.rsvDone h1) (.rsvRun h1))

theorem Clocked.writeStreamDomain {win stream : Nat} {v : Word} (h : Clocked w s) :
    Clocked w (s.writeStreamDomain win stream v) := by
  delta State.writeStreamDomain
  extract_lets
  refine .ite h (.ite (.setFlag h) ?_)
  split
  · exact .ite (.setFlag h) (.setFld h)
  · exact .setFld h

theorem Clocked.writeQueueGrant {v : Word} (h : Clocked w s) : Clocked w (s.writeQueueGrant v) := by
  delta State.writeQueueGrant
  extract_lets
  exact .ite h (.endGrant (.plainWrite h))

theorem Clocked.writeColCfg {n : Nat} {v : Word} (h : Clocked w s) : Clocked w (s.writeColCfg n v) := by
  delta State.writeColCfg
  extract_lets
  exact .setReg h

theorem Clocked.writeVec {n win : Nat} {v : Word} (h : Clocked w s) : Clocked w (s.writeVec n win v) := .setReg h

theorem Clocked.writeExpect {n win : Nat} {v : Word} (h : Clocked w s) : Clocked w (s.writeExpect n win v) :=
  .colAfter (.setReg h)

theorem Clocked.colReach {m tag n : Nat} {msg : Option (List Byte)} (h : Clocked w s) :
    Clocked w (s.colReach m tag n msg) := .ite (.modCol h) (.denyTray h)

theorem Clocked.colSend {m tag n : Nat} {msg : Option (List Byte)} (h : Clocked w s) :
    Clocked w (s.colSend m tag n msg) :=
  .ite (.modCol h) (.colReach h)

theorem Clocked.colRelease {n : Nat} (h : Clocked w s) : Clocked w (s.colRelease n) :=
  .foldl (.modCol h) fun _ _ h1 => .colSend h1

theorem Clocked.writePop {n : Nat} {v : Word} (h : Clocked w s) : Clocked w (s.writePop n v) :=
  .ite (.colRelease (.modCol h)) h

theorem Clocked.writeTray {win : Nat} {k : RegKey} {v : Word} (h : Clocked w s) : Clocked w (s.writeTray win k v) := by
  delta State.writeTray
  split
  · exact .writeRsvCmd h
  · exact .writeStreamDomain h
  · exact .writeQueueGrant h
  · exact .writeColCfg h
  · exact .writeVec h
  · exact .writeExpect h
  · exact .writePop h
  · exact .plainWrite h

/-! ### Lanes and quads -/

theorem Clocked.writeLnCtl {l : Nat} {v : Word} (h : Clocked w s) : Clocked w (s.writeLnCtl l v) := by
  delta State.writeLnCtl
  extract_lets _ _ s1
  have h1 : Clocked w s1 := .plainWrite h
  exact .ite h1 (.askLp h1)

theorem Clocked.writeTxeq {l : Nat} {v : Word} (h : Clocked w s) : Clocked w (s.writeTxeq l v) := by
  delta State.writeTxeq
  extract_lets
  exact .ite h (.plainWrite h)

theorem Clocked.writeEscan {m l : Nat} {v : Word} (h : Clocked w s) : Clocked w (s.writeEscan m l v) := by
  delta State.writeEscan
  extract_lets _ _ s1
  have h1 : Clocked w s1 := .setFlag (.plainWrite h)
  refine .ite (.plainWrite h) (.ite ?_ h1)
  split <;> rename_i e1 <;> have h2 := Clocked.of_fst e1 (.leaseTry h1)
  · exact .modLane (.setFields (.setFlag h2))
  · exact .setFields h2

theorem Clocked.writeRawCtl {l : Nat} {v : Word} (h : Clocked w s) : Clocked w (s.writeRawCtl l v) :=
  .ite h (.plainWrite h)

theorem Clocked.writeClsSel {q : Nat} {v : Word} (h : Clocked w s) : Clocked w (s.writeClsSel q v) := by
  delta State.writeClsSel
  extract_lets s1 _ s2
  have h1 : Clocked w s1 := .plainWrite h
  have h2 : Clocked w s2 := .setReg (.setReg h1)
  exact .foldl h2 fun _ _ h3 => .setReg h3

theorem Clocked.writeClsAct {q : Nat} {v : Word} (h : Clocked w s) : Clocked w (s.writeClsAct q v) := by
  delta State.writeClsAct
  extract_lets s1 _ _ _ _ s2
  have h1 : Clocked w s1 := .plainWrite h
  have h2 : Clocked w s2 := .modQuad h1
  exact .foldl h2 fun _ _ h3 => .ite (.legsOfPort h3) h3

theorem Clocked.writePacCfg {q : Nat} {v : Word} (h : Clocked w s) : Clocked w (s.writePacCfg q v) := by
  delta State.writePacCfg
  extract_lets s1
  have h1 : Clocked w s1 := .plainWrite h
  exact .ite h1 (.modQuad h1)

theorem Clocked.writeMrgCfg {q i : Nat} {v : Word} (h : Clocked w s) : Clocked w (s.writeMrgCfg q i v) := by
  delta State.writeMrgCfg
  extract_lets _ s1 _ s2 s3
  have h1 : Clocked w s1 := .plainWrite h
  have h2 : Clocked w s2 := .setFields h1
  have h3 : Clocked w s3 := .modQuad h2
  exact .ite (.foldl h3 fun _ _ h4 => .ite (.legsOfPort h4) h4) (.ite h1 (.modQuad h1))

theorem Clocked.writeQuad {m : Nat} {k : RegKey} {v : Word} (h : Clocked w s) : Clocked w (s.writeQuad m k v) := by
  delta State.writeQuad
  split
  · exact .writeLnCtl h
  · exact .writeTxeq h
  · exact .writeEscan h
  · exact .writeRawCtl h
  · exact .ite h (.writeClsSel h)
  · exact .ite h (.writeClsAct h)
  · exact .ite h (.writePacCfg h)
  · exact .ite h (.writeMrgCfg h)
  · exact .ite h (.plainWrite h)
  · exact .ite h (.plainWrite h)
  · exact .ite h (.plainWrite h)
  · exact .ite h (.plainWrite h)
  · exact .ite h (.plainWrite h)
  · exact .ite h (.plainWrite h)
  · exact .ite h (.plainWrite h)
  · exact .plainWrite h

/-! ### Stacks, RTPs and cores -/

theorem Clocked.writeStkCtl {st : Nat} {v : Word} (h : Clocked w s) : Clocked w (s.writeStkCtl st v) := by
  delta State.writeStkCtl
  extract_lets s1
  have h1 : Clocked w s1 := .dropSr (.plainWrite h)
  exact .ite (.ite (.modStk (.deferOn h1)) h1) (.ite (.exitSr h1) h1)

theorem Clocked.writeCg {st : Nat} {cfg : Bool} {v : Word} (h : Clocked w s) : Clocked w (s.writeCg st cfg v) :=
  .ite (.setFlag h) (.plainWrite h)

theorem Clocked.writeWaymask {st n : Nat} {v : Word} (h : Clocked w s) : Clocked w (s.writeWaymask st n v) := by
  delta State.writeWaymask
  extract_lets
  exact .ite h (.ite (.setFlag h) (.plainWrite h))

theorem Clocked.settleRows {x : Nat} (h : Clocked w s) : Clocked w (s.settleRows x) := by
  delta State.settleRows
  extract_lets
  exact .update h rfl

theorem Clocked.writePchCtl {x : Nat} {v : Word} (h : Clocked w s) : Clocked w (s.writePchCtl x v) :=
  .plainWrite (.settleRows h)

theorem Clocked.rtpPanic {x : Nat} (h : Clocked w s) : Clocked w (s.rtpPanic x) := by
  delta State.rtpPanic
  extract_lets
  exact .setFlag h

theorem Clocked.modRtp {x : Nat} {f : RtpSt → RtpSt} (h : Clocked w s) : Clocked w (s.modRtp x f) := .update h rfl

theorem Clocked.writeRtpCfg {x : Nat} {v : Word} (h : Clocked w s) : Clocked w (s.writeRtpCfg x v) := by
  delta State.writeRtpCfg
  extract_lets _ s1 s2 _ s3
  have h1 : Clocked w s1 := .setFld h
  have h2 : Clocked w s2 := .setFlag (.plainWrite h)
  have h3 : Clocked w s3 := .setFlag h2
  exact .ite (.ite (.rtpPanic h1) (.modRtp (.setFlag (.setFlag h1)))) (.ite (.ite (.setFlag h2) (.ite (.ite (.setDsts
    h3) h3) (.modRtp (.setFlag h2)))) h2)

theorem Clocked.writeRtpReg {own : Bool} {k : RegKey} {v : Word} (h : Clocked w s) :
    Clocked w (s.writeRtpReg own k v) := by
  delta State.writeRtpReg
  refine .ite h (.ite ?_ (.plainWrite h))
  extract_lets
  exact .setFlag (.plainWrite h)

theorem Clocked.askNeed {n : Nat} (h : Clocked w s) : Clocked w (s.askNeed n) := .ite h (.askUnits h)

theorem Clocked.runCore {t' : Nat} (h : Clocked w s) : Clocked w (s.runCore t') := by
  delta State.runCore
  extract_lets s1
  have h1 : Clocked w s1 := .setFlag (.setFlag h)
  exact .startCore (.askNeed (.askNeed h1))

theorem Clocked.writeCpuCtl {t' : Nat} {v : Word} (h : Clocked w s) : Clocked w (s.writeCpuCtl t' v) := by
  delta State.writeCpuCtl
  extract_lets s1
  have h1 : Clocked w s1 := .setFlag h
  exact .ite (.ite h1 (.runCore h1)) (.ite (.stopCore h1) h1)

theorem Clocked.writeMsip {t' : Nat} {v : Word} (h : Clocked w s) : Clocked w (s.writeMsip t' v) := by
  delta State.writeMsip
  extract_lets s1
  have h1 : Clocked w s1 := .plainWrite h
  exact .ite (.log h1) h1

theorem Clocked.writeTimeCmp {k : RegKey} {v : Word} (h : Clocked w s) : Clocked w (s.writeTimeCmp k v) := by
  delta State.writeTimeCmp
  extract_lets s1
  have h1 : Clocked w s1 := .plainWrite h
  exact .ite (.modCore h1) h1

theorem Clocked.writePin {t' : Nat} {v : Word} (h : Clocked w s) : Clocked w (s.writePin t' v) := by
  delta State.writePin
  extract_lets _ _ s1
  have h1 : Clocked w s1 := .ite (.setFlag h) h
  exact .ite (.setFlag h1) (.pinCore h1)

theorem Clocked.writeStk {win : Nat} {k : RegKey} {v : Word} (h : Clocked w s) : Clocked w (s.writeStk win k v) := by
  delta State.writeStk
  split
  · exact .writeStkCtl h
  · exact .writeCg h
  · exact .writeCg h
  · exact .writeWaymask h
  · exact .writePchCtl h
  · exact .writeRtpCfg h
  · exact .writeRtpReg h
  · exact .writeRtpReg h
  · exact .writeRtpReg h
  · exact .writeRtpReg h
  · exact .writeRtpReg h
  · exact .writeRtpReg h
  · exact .writeRtpReg h
  · exact .writeRtpReg h
  · exact .writeRtpReg h
  · exact .writeRtpReg h
  · exact .writeCpuCtl h
  · exact .writeMsip h
  · exact .writeTimeCmp h
  · exact .writeTimeCmp h
  · exact .writePin h
  · exact .ite h (.plainWrite h)
  · exact .ite h (.plainWrite h)
  · exact .plainWrite h

/-! ### Every register -/

theorem Clocked.writeDbg {k : RegKey} {v : Word} (h : Clocked w s) : Clocked w (s.writeDbg k v) := by
  delta State.writeDbg
  split
  · exact h
  · exact .setReg h
  · exact .plainWrite h

theorem Clocked.putReg {m win : Nat} {k : RegKey} {v : Word} (h : Clocked w s) : Clocked w (s.putReg m win k v) := by
  delta State.putReg
  split
  · exact .writeDev h
  · exact .writeDev h
  · exact .writeDev h
  · exact .writeStr h
  · exact .writeStr h
  · exact .writeStr h
  · exact .writeTick h
  · exact .writeImg h
  · exact .writeImg h
  · exact .writeInf h
  · exact .writeInf h
  · exact .writeCup h
  · exact .writeCup h
  · exact .writeTray h
  · exact .writeTray h
  · exact .writeQuad h
  · exact .writeQuad h
  · exact .writeStk h
  · exact .writeStk h
  · exact .writeStk h
  · exact .writeDbg h
  · exact h
  · exact h

end Sys2Proof.Machine
end

section
/-! PROOF. The counts and the queue through what waited for a training stage, and the root cycle as a whole (O2). -/

namespace Sys2Proof.Machine

variable {w : Nat × Nat × Nat × List Instr} {s t : State}

/-! ### Steps of cores and debug commands -/

theorem Clocked.busWrite {mid d a : Nat} {data : List Byte} (h : Clocked w s) :
    Clocked w (s.busWrite mid d a data).1 := by
  delta State.busWrite
  split
  · split <;> rename_i e1 <;> exact .of_fst e1 (.hbmWrite h)
  · dsimp only
    exact .spaceWrite h fun _ _ _ _ _ h1 => .putReg h1
  · dsimp only
    exact .spaceWrite h fun _ _ _ _ _ h1 => .putReg h1
  · exact h

theorem Clocked.kettleWrite {mid a : Nat} {data : List Byte} (h : Clocked w s) :
    Clocked w (s.kettleWrite mid a data).1 := by
  delta State.kettleWrite
  split
  · extract_lets
    exact .pair (.update h rfl)
  · exact h
  · exact .busWrite h

theorem Clocked.coreWrite {t' d a : Nat} {data : List Byte} (h : Clocked w s) : Clocked w (s.coreWrite t' d a data).1 :=
  .ite_fst (.foldl_fst h fun _ _ _ h1 => .ite_fst (.l2Put h1) h1) (.ite_fst (.kettleWrite h) (.busWrite h))

theorem Clocked.coreStep {t' d : Nat} (h : Clocked w s) : Clocked w (s.coreStep t' d) := by
  delta State.coreStep
  extract_lets
  split
  · rename_i e1
    exact .modCore (.of_fst e1 (.coreFetch (.draw h)))
  · rename_i t1 _ e1
    have h1 : Clocked w t1 := .of_fst e1 (.coreFetch (.draw h))
    extract_lets
    split
    · rename_i e2
      exact .modCore (.of_fst e2 (.rvMem h1 (fun _ _ _ h2 => .coreRead h2) (fun _ _ _ h2 => .coreWrite h2)))
    · rename_i e2
      split <;> exact .modCore (.of_fst e2 (.rvMem h1 (fun _ _ _ h2 => .coreRead h2) (fun _ _ _ h2 => .coreWrite h2)))

theorem Clocked.dbgStep {i win t' : Nat} (h : Clocked w s) : Clocked w (s.dbgStep i win t') := by
  delta State.dbgStep
  extract_lets
  exact .ite (.dbgEnd (.coreStep h)) (.dbgEnd h)

theorem Clocked.dbgExec {i win t' : Nat} (h : Clocked w s) : Clocked w (s.dbgExec i win t') := by
  delta State.dbgExec
  extract_lets _ _ _ _ _ _ fail _
  have hfail {u : State} {c : Nat} (hu : Clocked w u) : Clocked w (fail u c) := .dbgEnd (.setFld hu)
  refine .ite (.dbgEnd h) (.ite (.dbgEnd h) ?_)
  split
  · exact hfail h
  · rename_i e1
    have h1 := Clocked.of_fst e1 (.rvMem h (fun _ _ _ h2 => .ite_fst (.kettleRead h2) (.busRead h2))
      fun _ _ _ h2 => .ite_fst (.kettleWrite h2) (.busWrite h2))
    split
    · exact hfail h
    · exact .dbgEnd (.setPair (.setPair (.modCore h1)))

theorem Clocked.sessOp {m i win op t' : Nat} (h : Clocked w s) : Clocked w (s.sessOp m i win op t') := by
  delta State.sessOp
  extract_lets
  refine .ite (.dbgCapture h) (.ite (.dbgRefuse h) ?_)
  split
  · exact .ite (.dbgPutOff h) (.dbgHalt h)
  · exact .dbgResume h
  · exact .ite (.dbgPutOff h) (.dbgStep h)
  · exact .ite (.dbgPutOff h) (.dbgExec h)

theorem Clocked.dbgRetry {win : Nat} (h : Clocked w s) : Clocked w (s.dbgRetry win) := by
  delta State.dbgRetry
  extract_lets
  split
  · exact .ite (.sessOp h) h
  · exact h

/-! ### Joins and the census of a cascade -/

theorem Clocked.expected {id c : Nat} (h : Clocked w s) : Clocked w (s.expected id c).1 := by
  delta State.expected
  extract_lets
  split <;> rename_i e1 <;> exact .of_fst e1 (.hbmFetch h)

theorem Clocked.digestOk {id c : Nat} {d : BitVec 384 × Bool} (h : Clocked w s) : Clocked w (s.digestOk id c d).1 := by
  delta State.digestOk
  refine .ite_fst h ?_
  split <;> rename_i e1 <;> exact .of_fst e1 (.expected h)

theorem Clocked.mismatch {id c : Nat} {ds : List (BitVec 384 × Bool)} (h : Clocked w s) :
    Clocked w (State.mismatch id c ds s).1 := by
  induction ds generalizing s c with
  | nil => exact h
  | cons d ds ih =>
    unfold State.mismatch
    split <;> rename_i e1 <;> have h1 := Clocked.of_fst e1 (.digestOk h)
    · exact ih h1
    · exact h1

theorem Clocked.joinCheck {id : Nat} {digests : List (BitVec 384 × Bool)} (h : Clocked w s) :
    Clocked w (s.joinCheck id digests) := by
  delta State.joinCheck
  extract_lets _
  refine .ite (.putOff h) ?_
  split <;> rename_i e1 <;> have h1 := Clocked.of_fst e1 (.ite_fst (.mismatch h) h)
  · exact .admitDev h1
  · exact .raiseEvent h1

theorem Clocked.joinRetry {id : Nat} {digests : List (BitVec 384 × Bool)} (h : Clocked w s) :
    Clocked w (s.joinRetry id digests) := .ite (.joinCheck h) h

theorem Clocked.showMismatch {id c : Nat} (h : Clocked w s) : Clocked w (s.showMismatch id c) := .ite h (.setReg h)

theorem Clocked.censusCheck {id c : Nat} {ds : List (BitVec 384 × Bool)} (h : Clocked w s) :
    Clocked w (State.censusCheck id c ds s) := by
  induction ds generalizing s c with
  | nil => exact h
  | cons d ds ih =>
    unfold State.censusCheck
    split <;> rename_i e1 <;> have h1 := Clocked.of_fst e1 (.digestOk h)
    · exact ih h1
    · exact ih (.raiseEvent (.showMismatch h1))

theorem Clocked.censusTake {id first : Nat} {digests : List (BitVec 384 × Bool)} (h : Clocked w s) :
    Clocked w (s.censusTake id first digests) := .ite (.putOff h) (.censusCheck h)

/-! ### What waited for a training stage (R256) -/

theorem Clocked.tryLater (h : Clocked w s) : Clocked w s.tryLater := by
  delta State.tryLater
  refine .foldl (.update h rfl) fun t1 i1 h1 => ?_
  split
  · exact .hceRetry h1
  · exact .ite (.tcmdBegin h1) h1
  · exact .dbgRetry h1
  · exact .joinRetry h1
  · exact .censusTake h1

/-! ### The root cycle itself -/

/-- The device one root cycle on, its root running. -/
def State.cyclePassed (s : State) : State :=
  { s with
    root := s.root + 1
    time := { s.time with acc := if (s.root + 1) % 16 = 0 then s.time.acc + s.rate else s.time.acc }
    aon := if (s.root + 1) % (if s.clk.mode = .coasting then 96 else 160) = 0 then s.aon + 1 else s.aon }

theorem State.rootCycle_of_rootRuns (h : s.rootRuns = true) : s.rootCycle = s.cyclePassed := by
  have hmode : s.clk.mode ≠ .holding := fun e => by simp [State.rootRuns, e] at h
  unfold State.rootCycle
  rw [if_pos (by rw [h, Bool.true_or])]
  by_cases htick : (s.root + 1) % 16 = 0 <;>
    simp [State.tickTime, State.cyclePassed, State.aonCycles, State.rate, htick, hmode] <;> rfl

theorem State.live_cyclePassed : s.cyclePassed.live = s.live := rfl

/-- TICK rises at every sixteenth root cycle (R166). -/
theorem State.tick_cyclePassed : s.cyclePassed.tick = if (s.root + 1) % 16 = 0 then s.tick + 1 else s.tick := by
  change (s.root + 1) / 16 = if (s.root + 1) % 16 = 0 then s.root / 16 + 1 else s.root / 16
  split <;> omega

/-- What follows a root cycle in a live device. -/
theorem Clocked.afterCycle (h : Clocked w s) :
    Clocked w s.followUp.followLatches.streamCycle.colCycle.linkExpire.tryLater :=
  .tryLater (.linkExpire (.colCycle (.streamCycle (.followLatches (.followUp h)))))

/-- Settles O2: with the root running one root cycle passes, and none of the work that follows it in a live device
writes what the cycle counts. -/
theorem emptyQueuePassesOneRootCycle : Obligations.EmptyQueuePassesOneRootCycle := by
  unfold Obligations.EmptyQueuePassesOneRootCycle
  intro s hpend hruns u v
  have hu : s.cyclePassed = u := rfl
  have hv : u.followUp.followLatches.streamCycle.colCycle.linkExpire.tryLater = v := rfl
  have hafter : Clocked u.clockwork v := Clocked.afterCycle rfl
  obtain ⟨hroot, haon, hacc, hqueue⟩ :
      v.root = u.root ∧ v.aon = u.aon ∧ v.time.acc = u.time.acc ∧ v.pending = u.pending := by
    simpa only [Clocked, State.clockwork, Prod.mk.injEq] using hafter
  refine ⟨?_, s.tick_cyclePassed, hroot, hacc, haon, hqueue.trans hpend⟩
  have hstep : step s = .next s.idle := by rw [step, hpend]
  rw [hstep, State.idle, State.rootCycle_of_rootRuns hruns, State.live_cyclePassed, hu, hv]

end Sys2Proof.Machine
end

section
/-! PROOF. What a count of a port's counter and a write of a lane's or a quad's record leave (R234), and what a write gives the
bits of an RW field (R11). -/

namespace Sys2Proof.Machine

variable {s t : State}

/-- A command of service whose meaning leaves the state as it is. -/
theorem whenServing_same {f : State → State} (h : f s = s) : s.whenServing f = .next s := by
  rw [State.whenServing, h, ite_self]

/-! ### The lanes and port engines by index -/

/-- A lane after an update of one. -/
theorem State.lane_modLane (s : State) (l j : Nat) (f : LaneSt → LaneSt) :
    (s.modLane l f).lane j = if j = l then f (s.lane l) else s.lane j := nget_nput ..

/-- The engine just updated. -/
theorem State.quad_modQuad_self (s : State) (q : Nat) (f : QuadSt → QuadSt) : (s.modQuad q f).quad q = f (s.quad q) :=
  nget_nput_self ..

/-- The quad of a lane, and the lane's number there. -/
theorem lane_div (q : Nat) (j : Fin 4) : (4 * q + j.val) / 4 = q := by omega

theorem lane_mod (q : Nat) (j : Fin 4) : (4 * q + j.val) % 4 = j.val := by omega

/-! ### Counters of a port (R234) -/

/-- A pair of registers depends on the register file alone. -/
theorem State.pair_congr (h : t.regs = s.regs) (lo hi : RegKey) : t.pair lo hi = s.pair lo hi :=
  congrArg₂ pairNat (State.reg_congr h lo) (State.reg_congr h hi)

theorem State.pair_lt (s : State) (lo hi : RegKey) : s.pair lo hi < 2 ^ 64 := by
  have hlo := (s.reg lo).isLt
  have hhi := (s.reg hi).isLt
  unfold State.pair pairNat
  omega

/-- A counter just counted, and the others of its port. -/
theorem State.pair_portCount (s : State) (q n i j : Nat) :
    (s.portCount q n i).pair ⟨.portCnt, 4 * q + n, j⟩ ⟨.portCntHi, 4 * q + n, j⟩ =
      (s.pair ⟨.portCnt, 4 * q + n, j⟩ ⟨.portCntHi, 4 * q + n, j⟩ + if j = i then 1 else 0) % 2 ^ 64 := by
  unfold State.portCount
  by_cases h : j = i
  · subst h
    rw [State.pair_setPair _ (by simp), Nat.mod_mod, if_pos rfl]
  · have hkeeps := s.keepsRegs_setPair ⟨.portCnt, 4 * q + n, i⟩ ⟨.portCntHi, 4 * q + n, i⟩
      ((s.pair ⟨.portCnt, 4 * q + n, i⟩ ⟨.portCntHi, 4 * q + n, i⟩ + 1) % 2 ^ 64)
    rw [if_neg h, Nat.add_zero, Nat.mod_eq_of_lt (State.pair_lt ..)]
    exact congrArg₂ pairNat (hkeeps _ (by simp [h])) (hkeeps _ (by simp [h]))

theorem State.pair_portCount_self (s : State) (q n i : Nat) :
    (s.portCount q n i).pair ⟨.portCnt, 4 * q + n, i⟩ ⟨.portCntHi, 4 * q + n, i⟩ =
      (s.pair ⟨.portCnt, 4 * q + n, i⟩ ⟨.portCntHi, 4 * q + n, i⟩ + 1) % 2 ^ 64 :=
  (s.pair_portCount q n i i).trans (by rw [if_pos rfl])

/-- A count changes the two words of its counter alone. -/
theorem State.keepsRegs_portCount (s : State) (q n i : Nat) :
    s.keepsRegs (s.portCount q n i) [⟨.portCnt, 4 * q + n, i⟩, ⟨.portCntHi, 4 * q + n, i⟩] := fun k hk =>
  s.keepsRegs_setPair _ _ _ k hk

/-! ### Written fields (R11) -/

/-- A write of an RW field gives each of its bits, where the value is an encoding. -/
theorem bit_mergeWrite_rw {n : RegName} {f : Fld} (hf : f ∈ fieldsOf n) (hacc : f.acc = .rw) (old : Word) {new : Word}
    (hok : f.ok (bits new f.hi f.lo) = true) {i : Nat} (hlo : f.lo ≤ i) (hhi : i ≤ f.hi) :
    bit (mergeWrite n old new) i = bit new i := by
  obtain ⟨hle, h32⟩ := fieldsOf_bound n f hf
  have hlt : i - f.lo < f.hi + 1 - f.lo := by omega
  rw [bit_mergeWrite_of_mem hf old new hlo hhi]
  simp only [mergeField, hacc, hok, if_true]
  rw [bit_putBits _ _ _ h32 hle, if_pos ⟨hlo, hhi⟩, testBit_bits, decide_eq_true hlt, Nat.add_sub_cancel' hlo]
  rfl

end Sys2Proof.Machine
end

section
/-! PROOF. RAW lanes: the packets of received words, underruns and slips (R224 to R226). -/

namespace Sys2Proof.Machine

variable {s : State} {q : Fin 64} {j : Fin 4}

/-! ### Received words (R225) -/

/-- A lane that receives makes a packet of PKT words. -/
theorem exec_rawRxPacket {t0 : Nat} {frac : Fin 8} {data : List Byte} (hs : s.serving = true) (hrole : s.quadRole q.val = 4)
    (hrx : s.flag ⟨.rawCtl, 4 * q.val + j.val, 0⟩ 30 = true) (hl0 : s.laneState (4 * q.val + j.val) = 0)
    (hlos : s.los (4 * q.val + j.val) = false) (ht : t0 ≤ s.tick)
    (hlen : data.length = s.fld ⟨.rawCtl, 4 * q.val + j.val, 0⟩ 28 16 * s.rawBytes q.val) :
    exec (.rawRxPacket q j t0 frac data) s = .next (s.rawEmit (4 * q.val + j.val) t0 frac.val data) := by
  change execRawRxPacket q j t0 frac data s = _
  rw [execRawRxPacket, whenServing_serving hs]
  exact congrArg Host.Outcome.next (if_pos ⟨hrole, hrx, hl0, hlos, ht, hlen⟩)

/-- A lane that does not receive makes none. -/
theorem exec_rawRxPacket_idle {t0 : Nat} {frac : Fin 8} {data : List Byte}
    (h : s.quadRole q.val ≠ 4 ∨ s.flag ⟨.rawCtl, 4 * q.val + j.val, 0⟩ 30 = false ∨ s.laneState (4 * q.val + j.val) ≠ 0 ∨
      s.los (4 * q.val + j.val) = true) : exec (.rawRxPacket q j t0 frac data) s = .next s := by
  change execRawRxPacket q j t0 frac data s = _
  rw [execRawRxPacket]
  refine whenServing_same (if_neg ?_)
  rintro ⟨hrole, hrx, hl0, hlos, -⟩
  rcases h with h | h | h | h
  · exact h hrole
  · rw [hrx] at h
    cases h
  · exact h hl0
  · rw [hlos] at h
    cases h

/-- A free value that is drawn changes no stream. -/
theorem State.draw_stream (s : State) (n : Nat) : s.draw.stream n = s.stream n := rfl

/-- With nothing waiting the buffer has room (log entry 91). -/
theorem State.quadRoom_of_empty {n : Nat} (hw : (s.stream n).wait = []) (len : Nat) : s.quadRoom n len = true := by
  simp [State.quadRoom, State.bytesWaiting, hw]

/-- Sixteen bytes stand in front of the data. -/
theorem State.length_rawPacket (s : State) (l t0 frac : Nat) (data : List Byte) :
    (s.rawPacket l t0 frac data).length = data.length + 16 := by
  simp [State.rawPacket, leBytes]

/-- A packet that its stream's buffer takes. -/
theorem State.rawEmit_takes {l t0 frac n k p : Nat} {data : List Byte} {t : State} (hn : s.fld ⟨.rawCtl, l, 0⟩ 13 0 = n)
    (hq : quadRouter (l / 4) = (k, p)) (hw : (s.stream n).wait = [])
    (ht : s.draw.inject n k p (.port (l / 4) (l % 4)) (s.rawPacket l t0 frac data) = (t, true)) :
    s.rawEmit l t0 frac data = t := by
  have hroom := State.quadRoom_of_empty hw (s.rawPacket l t0 frac data).length
  unfold State.rawEmit
  rw [hn, hq]
  dsimp only
  rw [hroom, ht]
  rfl

/-- One whose stream has no tree from the quad is counted in RX_NOTREE (log entry 91). -/
theorem State.rawEmit_treeless {l t0 frac n : Nat} {data : List Byte} (hn : s.fld ⟨.rawCtl, l, 0⟩ 13 0 = n)
    (htree : (s.stream n).tree = none) (hprep : (s.stream n).prep = none) (hw : (s.stream n).wait = [])
    (hmax : data.length + 16 ≤ 9216) :
    s.rawEmit l t0 frac data = s.draw.portCount (l / 4) (l % 4) 5 := by
  have hroom := State.quadRoom_of_empty hw (s.rawPacket l t0 frac data).length
  have hsource (k p : Nat) : s.draw.isSource n k p = false := by
    change s.isSource n k p = false
    simp [State.isSource, htree, hprep]
  have hlen : ¬9216 < (s.rawPacket l t0 frac data).length := by
    rw [s.length_rawPacket]
    omega
  unfold State.rawEmit
  rw [hn]
  dsimp only
  rw [hroom, State.inject, hsource, if_neg (by simp), if_neg hlen]
  rfl

/-! ### Words to send (R225) -/

/-- A lane whose transmit buffer is empty sends its idle word and counts. -/
theorem exec_rawTxUnderrun (hs : s.serving = true) (hrole : s.quadRole q.val = 4)
    (htx : s.flag ⟨.rawCtl, 4 * q.val + j.val, 0⟩ 29 = true) (hl0 : s.laneState (4 * q.val + j.val) = 0)
    (hempty : s.txWaiting (4 * q.val + j.val) = 0) :
    exec (.rawTxUnderrun q j) s = .next ((s.countUp ⟨.lnStat, 4 * q.val + j.val, 0⟩ 15 8).log (.raw (4 * q.val + j.val)
      ((List.replicate (s.rawBytes q.val / 4) (wordBytes (s.reg ⟨.rawIdle, 4 * q.val + j.val, 0⟩))).flatten))) := by
  change execRawTxUnderrun q j s = _
  rw [execRawTxUnderrun, whenServing_serving hs]
  exact congrArg Host.Outcome.next (if_pos ⟨hrole, htx, hl0, hempty⟩)

/-- One whose buffer holds words does neither. -/
theorem exec_rawTxUnderrun_idle (h : s.txWaiting (4 * q.val + j.val) ≠ 0) : exec (.rawTxUnderrun q j) s = .next s := by
  change execRawTxUnderrun q j s = _
  rw [execRawTxUnderrun]
  exact whenServing_same (if_neg fun ⟨_, _, _, hempty⟩ => h hempty)

/-! ### Slips (R226) -/

theorem exec_slip {m : Nat} {v : Word} (ha : s.accepts m ⟨.rawCtl, 4 * q.val + j.val, 0⟩) :
    exec (.slip m q j v) s = .next ((s.writeRawCtl (4 * q.val + j.val) v).answer m .ok) := writeCommand_accepts ha ..

/-- A write of RAW_CTL gives RX_EN, TX_EN, PKT and STREAM, and starts a slip where it sets SLIP. -/
theorem rawCtl_mergeWrite (old v : Word) :
    bit (mergeWrite .rawCtl old v) 31 = (bit old 31 || bit v 31) ∧
      bits (mergeWrite .rawCtl old v) 30 16 = bits v 30 16 ∧ bits (mergeWrite .rawCtl old v) 13 0 = bits v 13 0 := by
  have hfields : fieldsOf .rawCtl = [w1sF 31, rwF 30 30, rwF 29 29, rwF 28 16, rwF 13 0] := rfl
  refine ⟨bit_mergeWrite_w1s (f := w1sF 31) (by simp [hfields]) rfl old v, bits_eq_of_bit fun i hlo hhi => ?_,
    (bits_mergeWrite_rw (f := rwF 13 0) (by simp [hfields]) rfl old v).trans (if_pos rfl)⟩
  have hfield (hi lo : Nat) (hmem : rwF hi lo ∈ fieldsOf .rawCtl) (h : lo ≤ i ∧ i ≤ hi) :
      bit (mergeWrite .rawCtl old v) i = bit v i := bit_mergeWrite_rw hmem rfl old rfl h.1 h.2
  obtain h | h | h : i = 30 ∨ i = 29 ∨ i ≤ 28 := by omega
  · exact hfield 30 30 (by simp [hfields]) (by omega)
  · exact hfield 29 29 (by simp [hfields]) (by omega)
  · exact hfield 28 16 (by simp [hfields]) (by omega)

/-- The word boundary is moved and SLIP falls. -/
theorem exec_slipDone (hs : s.serving = true) (hslip : s.flag ⟨.rawCtl, 4 * q.val + j.val, 0⟩ 31 = true) :
    exec (.slipDone q j) s = .next ((s.setFlag ⟨.rawCtl, 4 * q.val + j.val, 0⟩ 31 false).modLane (4 * q.val + j.val) fun x =>
      { x with slips := (x.slips + 1) % (8 * s.rawBytes q.val) }) := by
  change execSlipDone q j s = _
  rw [execSlipDone, whenServing_serving hs]
  exact congrArg Host.Outcome.next (if_pos hslip)

theorem exec_slipDone_idle (h : s.flag ⟨.rawCtl, 4 * q.val + j.val, 0⟩ 31 = false) : exec (.slipDone q j) s = .next s := by
  change execSlipDone q j s = _
  rw [execSlipDone]
  exact whenServing_same (if_neg (by simp [h]))

/-! ### The statement -/

/-- Settles O36: each command of a RAW lane has one condition for its effect, and the packet of received words enters its
stream's buffer where a tree starts at the quad. -/
theorem rawLanesPacketiseCountAndSlip : Obligations.RawLanesPacketiseCountAndSlip := by
  unfold Obligations.RawLanesPacketiseCountAndSlip
  refine ⟨?received, ?treeless, ?deaf, ?underrun, ?filled, ?slip, ?slipping, ?done, ?idle⟩
  case received =>
    intro s q j t0 frac data n tr hs hrole hrx hl0 hlos ht hlen hmax hn htree hprep hsrc hbe hw
    have hpkt := s.length_rawPacket (4 * q.val + j.val) t0 frac.val data
    have hinject := State.inject_waits (s := s.draw) (stream := n) (k := tr.srcK) (p := tr.srcPort)
      (owner := .port ((4 * q.val + j.val) / 4) ((4 * q.val + j.val) % 4))
      (bytes := s.rawPacket (4 * q.val + j.val) t0 frac.val data) (by omega) (by omega) htree rfl rfl hbe hprep
      (fun w hmem => absurd (hw ▸ hmem : w ∈ []) List.not_mem_nil)
    refine ⟨_, Config.freeNat s.freeCtr, (exec_rawRxPacket hs hrole hrx hl0 hlos ht hlen).trans
      (congrArg _ (State.rawEmit_takes hn (by rw [lane_div, hsrc]) hw hinject)), ?_, fun n' hne => ?_, rfl⟩
    · rw [State.stream_modStream_self, s.draw_stream, hw, lane_div, lane_mod]
      rfl
    · rw [State.stream_modStream_ne _ hne, s.draw_stream]
  case treeless =>
    intro s q j t0 frac data n hs hrole hrx hl0 hlos ht hlen hmax hn htree hprep hw
    refine ⟨_, (exec_rawRxPacket hs hrole hrx hl0 hlos ht hlen).trans
      (congrArg _ (State.rawEmit_treeless hn htree hprep hw hmax)), ?_, rfl⟩
    rw [lane_div, lane_mod]
    exact s.draw.pair_portCount_self q.val j.val 5
  case deaf =>
    intro s q j t0 frac data h
    exact exec_rawRxPacket_idle h
  case underrun =>
    intro s q j hs hrole htx hl0 hempty
    exact ⟨_, exec_rawTxUnderrun hs hrole htx hl0 hempty, rfl, (s.fld_countUp _ (by decide)).trans (Nat.min_comm ..),
      State.keepsRegs_of_setReg rfl, rfl⟩
  case filled =>
    intro s q j h
    exact exec_rawTxUnderrun_idle h
  case slip =>
    intro s m q j v ha hidle
    obtain ⟨hslip, hhigh, hstream⟩ := rawCtl_mergeWrite (s.reg ⟨.rawCtl, 4 * q.val + j.val, 0⟩) v
    have hreg : ((s.plainWrite ⟨.rawCtl, 4 * q.val + j.val, 0⟩ v).answer m .ok).reg ⟨.rawCtl, 4 * q.val + j.val, 0⟩ =
        mergeWrite .rawCtl (s.reg ⟨.rawCtl, 4 * q.val + j.val, 0⟩) v := s.reg_setReg_self ..
    refine ⟨(s.plainWrite ⟨.rawCtl, 4 * q.val + j.val, 0⟩ v).answer m .ok, ?_, ?_, ?_, ?_,
      State.keepsRegs_of_setReg rfl, rfl⟩
    · rw [exec_slip ha, State.writeRawCtl, hidle, if_neg (by simp)]
    · have hold : bit (s.reg ⟨.rawCtl, 4 * q.val + j.val, 0⟩) 31 = false := hidle
      rw [State.flag, hreg, hslip, hold, Bool.false_or]
    · rw [State.fld, hreg, hhigh]
    · rw [State.fld, hreg, hstream]
  case slipping =>
    intro s m q j v ha hbusy
    rw [exec_slip ha, State.writeRawCtl, hbusy, if_pos rfl]
    rfl
  case done =>
    intro s q j hs hslip
    refine ⟨_, exec_slipDone hs hslip, s.flag_setFlag_self _ _ _ (by decide), ?_, fun l hne => ?_,
      State.keepsRegs_of_setReg rfl, rfl⟩
    · rw [State.lane_modLane, if_pos rfl]
      rfl
    · rw [State.lane_modLane, if_neg hne]
      rfl
  case idle =>
    intro s q j h
    exact exec_slipDone_idle h

end Sys2Proof.Machine
end

section
/-! PROOF. Pacers and transmit stamps: configuration, queueing, tokens and transmission (R215 to R219). -/

namespace Sys2Proof.Machine

variable {s : State} {q : Fin 64} {k : Nat} {p : PacEnt}

/-- The pacers of the engine just updated. -/
theorem State.pac_modQuad (s : State) (q : Nat) {f : QuadSt → QuadSt} {l : List (Nat × PacEnt)}
    (hf : (f (s.quad q)).pac = l) : ((s.modQuad q f).quad q).pac = l :=
  (congrArg QuadSt.pac (s.quad_modQuad_self q f)).trans hf

/-- The pacer just updated. -/
theorem State.nget_modQuad_pac (s : State) (q k : Nat) (v : PacEnt) (f : QuadSt → QuadSt)
    (hf : (f (s.quad q)).pac = nset (s.quad q).pac k v) : nget ((s.modQuad q f).quad q).pac k {} = v := by
  rw [State.pac_modQuad s q hf]
  exact nget_nset_self ..

/-- An answer moves no port engine. -/
theorem State.quad_answer (s : State) (m : Nat) (code : Code) (bytes : List Byte) (j : Nat) :
    (s.answer m code bytes).quad j = s.quad j := rfl

/-! ### PAC_CFG (R219) -/

/-- Every field of PAC_CFG is plain. -/
theorem fieldsOf_pacCfg :
    fieldsOf .pacCfg = [(31, 31), (30, 30), (29, 29), (28, 23), (22, 16), (11, 10), (9, 0)].map fun i => rwF i.1 i.2 := rfl

/-- A write of PAC_CFG gives every field its new value. -/
theorem pacCfg_mergeWrite (old v : Word) :
    ∀ i ∈ [(31, 31), (30, 30), (29, 29), (28, 23), (22, 16), (11, 10), (9, 0)],
      bits (mergeWrite .pacCfg old v) i.1 i.2 = bits v i.1 i.2 := by
  intro i hi
  have hmem : rwF i.1 i.2 ∈ fieldsOf .pacCfg := fieldsOf_pacCfg ▸ List.mem_map_of_mem hi
  exact (bits_mergeWrite_rw hmem rfl old v).trans (if_pos rfl)

theorem pacCfg_bit (old v : Word) {i : Nat} (hi : (i, i) ∈ [(31, 31), (30, 30), (29, 29), (28, 23), (22, 16), (11, 10), (9, 0)]) :
    bit (mergeWrite .pacCfg old v) i = bit v i :=
  bit_mergeWrite_rw (f := rwF i i) (fieldsOf_pacCfg ▸ List.mem_map_of_mem hi) rfl old rfl le_rfl le_rfl

theorem pacCfg_enable (old v : Word) : bit (mergeWrite .pacCfg old v) 31 = bit v 31 := pacCfg_bit old v (by simp)

theorem pacCfg_paced (old v : Word) : bit (mergeWrite .pacCfg old v) 30 = bit v 30 := pacCfg_bit old v (by simp)

theorem pacCfg_cmax (old v : Word) : bits (mergeWrite .pacCfg old v) 22 16 = bits v 22 16 :=
  pacCfg_mergeWrite old v (22, 16) (by simp)

/-- The entry that a write of v to PAC_CFG commits at k. -/
def State.pacEntry (s : State) (q k : Nat) (v : Word) : PacEnt :=
  let old := nget (s.quad q).pac k {}
  let fresh := bit v 31 && !(old.en && old.paced)
  { cfg := mergeWrite .pacCfg (s.reg ⟨.pacCfg, q, 0⟩) v, streams := s.reg ⟨.pacStreams, q, 0⟩, trs := s.reg ⟨.pacTrs, q, 0⟩,
    tokens := if fresh then bits v 22 16 else min old.tokens (bits v 22 16),
    lastTok := if fresh then s.tick else old.lastTok, part := if fresh then 0 else old.part,
    since := if fresh then s.root else old.since, queue := old.queue }

/-- An accepted write is answered OK. -/
theorem exec_pacCfgWrite {m : Nat} {v : Word} {t : State} (ha : s.accepts m ⟨.pacCfg, q.val, 0⟩)
    (ht : s.writePacCfg q.val v = t) : exec (.pacCfgWrite m q v) s = .next (t.answer m .ok) :=
  ht ▸ writeCommand_accepts ha v fun s => s.writePacCfg q.val v

/-- A write that paces commits nothing where TRS or CMAX is 0. -/
theorem State.writePacCfg_refused {v : Word} (hpaced : bit v 30 = true)
    (hzero : s.reg ⟨.pacTrs, q.val, 0⟩ = 0 ∨ bits v 22 16 = 0) :
    s.writePacCfg q.val v = s.plainWrite ⟨.pacCfg, q.val, 0⟩ v := by
  have hcfg : (s.plainWrite ⟨.pacCfg, q.val, 0⟩ v).reg ⟨.pacCfg, q.val, 0⟩ =
    mergeWrite .pacCfg (s.reg ⟨.pacCfg, q.val, 0⟩) v := s.reg_setReg_self ..
  have htrs : (s.plainWrite ⟨.pacCfg, q.val, 0⟩ v).reg ⟨.pacTrs, q.val, 0⟩ = s.reg ⟨.pacTrs, q.val, 0⟩ :=
    s.reg_setReg_ne _ (by simp)
  unfold State.writePacCfg
  dsimp only
  rw [hcfg, htrs, pacCfg_paced, pacCfg_cmax]
  exact if_pos ⟨hpaced, hzero⟩

/-- Every other write commits the entry. -/
theorem State.writePacCfg_commits {v : Word} (hk : s.fld ⟨.pacSel, q.val, 0⟩ 9 0 = k)
    (hok : bit v 30 = true → bits v 22 16 ≠ 0 ∧ s.reg ⟨.pacTrs, q.val, 0⟩ ≠ 0) :
    s.writePacCfg q.val v = (s.plainWrite ⟨.pacCfg, q.val, 0⟩ v).modQuad q.val fun x =>
      { x with pac := nput x.pac k (s.pacEntry q.val k v) {} } := by
  have hcfg : (s.plainWrite ⟨.pacCfg, q.val, 0⟩ v).reg ⟨.pacCfg, q.val, 0⟩ =
    mergeWrite .pacCfg (s.reg ⟨.pacCfg, q.val, 0⟩) v := s.reg_setReg_self ..
  have hother {n : RegName} (h : n ≠ .pacCfg) :
    (s.plainWrite ⟨.pacCfg, q.val, 0⟩ v).reg ⟨n, q.val, 0⟩ = s.reg ⟨n, q.val, 0⟩ := s.reg_setReg_ne _ (by simp [h])
  have hsel : (s.plainWrite ⟨.pacCfg, q.val, 0⟩ v).fld ⟨.pacSel, q.val, 0⟩ 9 0 = k :=
    (congrArg (bits · 9 0) (hother (by decide))).trans hk
  unfold State.writePacCfg
  dsimp only
  rw [hcfg, hsel, hother (n := .pacTrs) (by decide), hother (n := .pacStreams) (by decide), pacCfg_paced, pacCfg_cmax,
    pacCfg_enable]
  refine if_neg ?_
  rintro ⟨hpaced, htrs | hcmax⟩
  · exact (hok hpaced).2 htrs
  · exact (hok hpaced).1 hcmax

/-- What a write that commits changes: the entry, the register and the answer. -/
theorem exec_pacCfgWrite_commits {m : Nat} {v : Word} (ha : s.accepts m ⟨.pacCfg, q.val, 0⟩)
    (hk : s.fld ⟨.pacSel, q.val, 0⟩ 9 0 = k)
    (hok : bit v 30 = true → bits v 22 16 ≠ 0 ∧ s.reg ⟨.pacTrs, q.val, 0⟩ ≠ 0) :
    ∃ t, exec (.pacCfgWrite m q v) s = .next t ∧
      (t.quad q.val).pac = nput (s.quad q.val).pac k (s.pacEntry q.val k v) {} ∧
      t.reg ⟨.pacCfg, q.val, 0⟩ = mergeWrite .pacCfg (s.reg ⟨.pacCfg, q.val, 0⟩) v ∧
      s.keepsRegs t [⟨.pacCfg, q.val, 0⟩] ∧ t = { s with regs := t.regs, quads := t.quads, sent := okTo m :: s.sent } :=
  ⟨_, exec_pacCfgWrite ha (State.writePacCfg_commits hk hok),
    by rw [State.quad_answer, State.pac_modQuad (hf := rfl)]; rfl, s.reg_setReg_self .., State.keepsRegs_of_setReg rfl, rfl⟩

/-- The entry of an index just written, which an entry in use always lists. -/
theorem look_nput_enabled (m : List (Nat × PacEnt)) (k : Nat) (hen : p.en = true) : look (nput m k p {}) k = some p := by
  have hne : p ≠ {} := by
    rintro rfl
    cases hen
  rw [nput, putD, if_neg hne]
  exact look_insertAt_self ..

/-! ### Packets that come in (R216, R218) -/

section

variable {n : Fin 16384} {data : List Byte} (hs : s.serving = true) (hrole : s.quadRole q.val = 1)
  (heven : s.servedByEven q.val = false)
  (hdst : ((s.stream n.val).dstAt (quadRouter q.val).1 (quadRouter q.val).2).isSome = true) (hlo : 1 ≤ data.length)
  (hhi : data.length ≤ 9216)
include hs hrole heven hdst hlo hhi

/-- A packet of a destination's stream at an ETH quad is taken up by its pacers. -/
theorem exec_pacerEnqueue_whole :
    exec (.pacerEnqueue q n ⟨data, none⟩) s =
      .next ((s.streamArrive n.val (quadRouter q.val).1 (quadRouter q.val).2).pacEnqueue q.val n.val data false) := by
  change execPacerEnqueue q n ⟨data, none⟩ s = _
  rw [execPacerEnqueue, whenServing_serving hs]
  exact congrArg Host.Outcome.next (if_pos ⟨hrole, heven, hdst, hlo, hhi⟩)

/-- So is one with a damaged flit, which its router counts. -/
theorem exec_pacerEnqueue_damaged (r : Fin 240) :
    exec (.pacerEnqueue q n ⟨data, some r⟩) s = .next ((s.flitError r.val).pacEnqueue q.val n.val data true) := by
  change execPacerEnqueue q n ⟨data, some r⟩ s = _
  rw [execPacerEnqueue, whenServing_serving hs]
  exact congrArg Host.Outcome.next (if_pos ⟨hrole, heven, hdst, hlo, hhi⟩)

end

/-- An arrival moves streams, and cups that hear of it. -/
theorem State.movesStreams_streamArrive (s : State) (n k p : Nat) : s.movesStreams (s.streamArrive n k p) := by
  unfold State.streamArrive
  split
  · have hmod (l : List (Nat × Nat)) : s.movesStreams (s.modStream n fun x => { x with lastSop := l }) := rfl
    dsimp only
    split
    · exact (hmod _).trans (State.movesStreams_setDst ..)
    · exact hmod _
  · rfl

/-- The one pacer of an engine that names the stream. -/
theorem PacEnt.find_single {n : Nat} (hen : p.en = true) (hn : p.names n = true) :
    ([(k, p)] : List (Nat × PacEnt)).find? (fun e => e.2.en && e.2.names n) = some (k, p) := by
  simp [hen, hn]

/-- A packet that its pacer cannot take, or a damaged one, is counted. -/
theorem State.pacEnqueue_counts {n : Nat} {data : List Byte} {bad : Bool} (hpac : (s.quad q.val).pac = [(k, p)])
    (hen : p.en = true) (hn : p.names n = true) (h : bad = true ∨ 65536 < p.used + data.length) :
    s.pacEnqueue q.val n data bad = s.countUp ⟨.pacStat, q.val, k⟩ 15 0 := by
  unfold State.pacEnqueue
  rw [hpac, PacEnt.find_single hen hn]
  exact if_pos (h.imp_right .inl)

/-- A packet that fits joins its pacer's queue. -/
theorem State.pacEnqueue_joins {n : Nat} {data : List Byte} (hpac : (s.quad q.val).pac = [(k, p)]) (hen : p.en = true)
    (hn : p.names n = true) (hfit : p.used + data.length ≤ 65536) :
    s.pacEnqueue q.val n data false = s.modQuad q.val fun x =>
      { x with
        pac := nset x.pac k { p with
          queue := p.queue ++ [((s.quad q.val).pacSeq, data)], since := if p.queue = [] then s.root else p.since }
        pacSeq := (s.quad q.val).pacSeq + 1 } := by
  have hall : (([(k, p)] : List (Nat × PacEnt)).map fun e => e.2.used).sum = p.used := by simp
  unfold State.pacEnqueue
  rw [hpac, PacEnt.find_single hen hn, hall]
  exact if_neg (by simp only [Bool.false_eq_true, false_or]; omega)

/-- A count of 16 bits. -/
theorem State.fld_countUp16 (s : State) (r : RegKey) :
    (s.countUp r 15 0).fld r 15 0 = min 65535 (s.fld r 15 0 + 1) :=
  (s.fld_countUp r (by decide)).trans (Nat.min_comm _ _)

theorem State.keepsRegs_countUp (s : State) (r : RegKey) (hi lo : Nat) : s.keepsRegs (s.countUp r hi lo) [r] :=
  State.keepsRegs_of_setReg rfl

/-- A count leaves the fields of every other register. -/
theorem State.fld_countUp_ne (s : State) {r j : RegKey} (h : j ≠ r) (hi lo a b : Nat) :
    (s.countUp r hi lo).fld j a b = s.fld j a b :=
  congrArg (bits · a b) (s.keepsRegs_countUp r hi lo j (by simpa using h))

/-! ### Tokens (R217) -/

theorem exec_pacerToken {i : Fin 1024} (hs : s.serving = true) (hlook : look (s.quad q.val).pac i.val = some p)
    (hen : p.en = true) (hpaced : p.paced = true) (hgone : p.trs.toNat * 2 ^ 16 ≤ s.pacElapsed p) :
    exec (.pacerToken q i) s = .next (s.modQuad q.val fun x => { x with pac := nset x.pac i.val { p with
      tokens := min p.cmax (p.tokens + 1), lastTok := s.tick, part := s.pacElapsed p - p.trs.toNat * 2 ^ 16,
      since := if p.tokens = 0 then s.root else p.since } }) := by
  have hget : nget (s.quad q.val).pac i.val {} = p := by rw [nget, lookD, hlook, Option.getD_some]
  change execPacerToken q i s = _
  rw [execPacerToken, whenServing_serving hs]
  dsimp only
  rw [hget]
  exact congrArg Host.Outcome.next (if_pos ⟨hen, hpaced, hgone⟩)

/-! ### Transmission (R214, R216, R218) -/

/-- A pacer sends its head packet and takes its token. -/
theorem State.pacSend_cons {n i : Nat} {data : List Byte} {rest : List (Nat × List Byte)}
    (hqueue : p.queue = (i, data) :: rest) :
    s.pacSend q.val n k p = (s.modQuad q.val fun x => { x with pac := nset x.pac k { p with
      queue := rest, tokens := if p.paced then p.tokens - 1 else p.tokens, since := s.root } }).sendFrame q.val n
        (s.dress q.val p data) := by
  rw [State.pacSend, hqueue]

/-- With no management frame the one pacer of a port, due or unpaced, sends. -/
theorem State.transmit_single {n frac : Nat} (hmgmt : s.mgmtHead q.val = none) (hpac : (s.quad q.val).pac = [(k, p)])
    (hqueue : p.queue ≠ []) (hport : bits p.cfg 11 10 = n) (h : p.due = true ∨ (p.en = true ∧ p.paced = false)) :
    s.transmit q.val n frac = s.pacSend q.val n k p := by
  have hpick : s.dueOn q.val n = some (k, p) ∨ s.dueOn q.val n = none ∧ s.readyOn q.val n = some (k, p) := by
    rw [State.dueOn, State.readyOn, hpac]
    rcases h with hdue | ⟨hen, hpaced⟩
    · exact .inl (by simp [hdue, hport])
    · exact .inr (by simp [PacEnt.due, hen, hpaced, hqueue, hport])
  rw [State.transmit, hmgmt]
  rcases hpick with hdue | ⟨hdue, hready⟩
  · rw [hdue]
  · rw [hdue, hready]

/-- A frame that leaves moves no port engine. -/
theorem State.quad_sendFrame (s : State) (q n j : Nat) (f : List Byte) : (s.sendFrame q n f).quad j = s.quad j := rfl

/-- It is counted at its port. -/
theorem State.pair_sendFrame (s : State) (q n : Nat) (f : List Byte) :
    (s.sendFrame q n f).pair ⟨.portCnt, 4 * q + n, 6⟩ ⟨.portCntHi, 4 * q + n, 6⟩ =
      (s.pair ⟨.portCnt, 4 * q + n, 6⟩ ⟨.portCntHi, 4 * q + n, 6⟩ + 1) % 2 ^ 64 := s.pair_portCount_self q n 6

theorem State.keepsRegs_sendFrame (s : State) (q n : Nat) (f : List Byte) :
    s.keepsRegs (s.sendFrame q n f) [⟨.portCnt, 4 * q + n, 6⟩, ⟨.portCntHi, 4 * q + n, 6⟩] := s.keepsRegs_portCount q n 6

/-- Beside that it is put out. -/
theorem State.sendFrame_eq (s : State) (q n : Nat) (f : List Byte) :
    s.sendFrame q n f = { s with regs := (s.portCount q n 6).regs, sent := .frame q n f :: s.sent } := by
  have hrest : s.portCount q n 6 = { s with regs := (s.portCount q n 6).regs } := rfl
  rw [State.sendFrame, hrest, State.log]

theorem State.mgmtHead_empty (h : (s.queue (.mgmtTx q)).pkts = []) : s.mgmtHead q.val = none := by
  rw [State.mgmtHead, Fin.ofNat_val_eq_self, h]

theorem exec_packetTransmit {n : Fin 4} {frac : Fin 8} (hs : s.serving = true) (hup : s.portUp q.val n.val = true)
    (hmgmt : s.mgmtHead q.val = none) :
    exec (.packetTransmit q n frac) s = .next (s.transmit q.val n.val frac.val) := by
  have hskip : s.mgmtSkip q.val = s := by rw [State.mgmtSkip, hmgmt]
  change execPacketTransmit q n frac s = _
  rw [execPacketTransmit, whenServing_serving hs, hup, if_pos rfl, hskip]

/-! ### Transmit stamps (R215) -/

/-- A read of TXSTAMP_HI answers the head's high word and drops the head. -/
theorem exec_txstampPop {m : Nat} {x : TxStamp} {l : List TxStamp} (hreach : s.reaches m ⟨.txstampHi, q.val, 0⟩ = true)
    (hverdict : s.readVerdict m ⟨.txstampHi, q.val, 0⟩ = .pass) (hfence : s.fenced m = false)
    (hlatch : s.latched m ⟨.txstampHi, q.val, 0⟩ = none) (hstamps : (s.quad q.val).stamps = x :: l) :
    exec (.txstampPop m q) s = .next ((s.modQuad q.val fun y => { y with stamps := y.stamps.drop 1 }).answer m .ok
      (wordBytes (hiWord x.tick))) := by
  have heffect (w : Nat) : s.readEffect m w ⟨.txstampHi, q.val, 0⟩ =
      s.modQuad q.val fun y => { y with stamps := y.stamps.drop 1 } :=
    congrArg (State.modQuad · q.val fun y => { y with stamps := y.stamps.drop 1 })
      (State.latchRead_of_no_high w hlatch rfl)
  have hvalue (w : Nat) : s.readValue m w ⟨.txstampHi, q.val, 0⟩ = hiWord x.tick := by
    change (s.latched m _).getD (hiWord (((s.quad q.val).stamps.head?.map (·.tick)).getD 0)) = _
    rw [hlatch, hstamps]
    rfl
  have hgone : s.keyGone ⟨.txstampHi, q.val, 0⟩ = false := rfl
  change execTxstampPop m q s = _
  rw [execTxstampPop, State.readCommand, hreach, if_pos rfl, hfence, if_neg (by simp), State.regRead, hverdict]
  dsimp only
  rw [hgone, heffect, hvalue]
  rfl

/-! ### The statement -/

/-- Settles O35: each command has one condition for its effect, which is a change of one pacer's entry, of a counter or of
the stamp FIFO. -/
theorem pacersAndStampsKeepTheirQueues : Obligations.PacersAndStampsKeepTheirQueues := by
  unfold Obligations.PacersAndStampsKeepTheirQueues
  refine ⟨?filled, ?committed, ?refused, ?joins, ?full, ?damaged, ?token, ?transmit, ?pop⟩
  case filled =>
    intro s m q v k ha hk hen hpaced hcmax htrs hnone
    obtain ⟨t, hexec, hpac, hcfg, hkeeps, hrest⟩ := exec_pacCfgWrite_commits ha hk fun _ => ⟨hcmax, htrs⟩
    have hold : nget (s.quad q.val).pac k {} = {} := by rw [nget, lookD, hnone, Option.getD_none]
    have hfresh : (bit v 31 && !(PacEnt.en {} && PacEnt.paced {})) = true := by rw [hen]; rfl
    refine ⟨t, hexec, ⟨s.pacEntry q.val k v, ?_, hcfg.symm, rfl, rfl, ?_, ?_, ?_⟩, hkeeps, hrest⟩
    · rw [hpac]
      exact look_nput_enabled _ k ((pacCfg_enable ..).trans hen)
    · rw [State.pacEntry, hold]
    · rw [State.pacEntry, hold]
      exact (if_pos hfresh).trans (pacCfg_cmax ..).symm
    · rw [State.pacEntry, hold]
      exact if_pos hfresh
  case committed =>
    intro s m q v k old fresh ha hk hok hold hfresh
    obtain ⟨t, hexec, hpac, hcfg, hkeeps, hrest⟩ := exec_pacCfgWrite_commits ha hk hok
    refine ⟨t, hexec, ?_, fun i hi => ?_, fun i hi => ?_, hkeeps, hrest⟩
    · rw [hpac, nget_nput_self, hcfg, State.pacEntry, hold, ← hfresh]
    · exact (congrArg (bits · i.1 i.2) hcfg).trans (pacCfg_mergeWrite _ v i hi)
    · rw [hpac, nget_nput, if_neg hi]
  case refused =>
    intro s m q v ha hpaced hzero
    exact ⟨_, exec_pacCfgWrite ha (State.writePacCfg_refused hpaced hzero), rfl, State.keepsRegs_of_setReg rfl⟩
  case joins =>
    intro s q n data k p hs hrole heven hdst hlo hhi hpac hen hn hfit
    have hmoves := s.movesStreams_streamArrive n.val (quadRouter q.val).1 (quadRouter q.val).2
    generalize hu : s.streamArrive n.val (quadRouter q.val).1 (quadRouter q.val).2 = u at hmoves
    have hquad : u.quad q.val = s.quad q.val := by rw [hmoves]; rfl
    refine ⟨_, (exec_pacerEnqueue_whole hs hrole heven hdst hlo hhi).trans
      (congrArg Host.Outcome.next ((congrArg (State.pacEnqueue · q.val n.val data false) hu).trans
        (State.pacEnqueue_joins (hquad ▸ hpac) hen hn hfit))), ?_, ?_, ?_⟩
    · rw [State.nget_modQuad_pac (hf := rfl), hquad]
    · rw [State.nget_modQuad_pac (hf := rfl)]
    · rw [hmoves]
      rfl
  case full =>
    intro s q n data k p hs hrole heven hdst hlo hhi hpac hen hn hfull
    have hmoves := s.movesStreams_streamArrive n.val (quadRouter q.val).1 (quadRouter q.val).2
    generalize hu : s.streamArrive n.val (quadRouter q.val).1 (quadRouter q.val).2 = u at hmoves
    have hquad : u.quad q.val = s.quad q.val := by rw [hmoves]; rfl
    have hregs : u.regs = s.regs := by rw [hmoves]
    refine ⟨_, (exec_pacerEnqueue_whole hs hrole heven hdst hlo hhi).trans
      (congrArg Host.Outcome.next ((congrArg (State.pacEnqueue · q.val n.val data false) hu).trans
        (State.pacEnqueue_counts (hquad ▸ hpac) hen hn (.inr hfull)))), (congrArg QuadSt.pac hquad).trans hpac, ?_,
      fun r hr => (u.keepsRegs_countUp _ _ _ r hr).trans (State.reg_congr hregs r)⟩
    rw [State.fld_countUp16, State.fld_congr hregs]
  case damaged =>
    intro s q n data k p r hs hrole heven hdst hlo hhi hpac hen hn
    refine ⟨_, (exec_pacerEnqueue_damaged hs hrole heven hdst hlo hhi r).trans
      (congrArg Host.Outcome.next ((congrArg (State.pacEnqueue · q.val n.val data true) (s.flitError_eq r.isLt)).trans
        (State.pacEnqueue_counts hpac hen hn (.inl rfl)))), ?_, ?_, fun j hj => ?_, rfl⟩
    · rw [State.fld_countUp16, State.fld_countUp_ne s (by simp)]
    · rw [State.fld_countUp_ne _ (by simp), State.fld_countUp16]
    · obtain ⟨hstat, herr⟩ : j ≠ ⟨.pacStat, q.val, k⟩ ∧ j ≠ ⟨.rtrErr, r.val, 0⟩ := by simpa using hj
      rw [State.keepsRegs_countUp _ _ _ _ j (by simpa using hstat), s.keepsRegs_countUp _ _ _ j (by simpa using herr)]
  case token =>
    intro s q k p hs hlook hen hpaced hgone
    refine ⟨_, exec_pacerToken hs hlook hen hpaced hgone, ?_, ?_, ?_, rfl⟩ <;> rw [State.nget_modQuad_pac (hf := rfl)]
  case transmit =>
    intro s q n frac k p i data rest hs hup hempty hpac hdue hport hqueue
    have hmgmt := State.mgmtHead_empty hempty
    refine ⟨_, (exec_packetTransmit hs hup hmgmt).trans (congrArg Host.Outcome.next
      ((State.transmit_single hmgmt hpac (by simp [hqueue]) hport hdue).trans (State.pacSend_cons hqueue))), rfl,
      fun h => by rw [State.dress, h, if_neg (by simp)], fun h => by rw [State.dress, h, if_pos rfl], ?_, ?_,
      ?_, ?_, ?_⟩
    · rw [State.quad_sendFrame, State.nget_modQuad_pac (hf := rfl)]
    · rw [State.quad_sendFrame, State.nget_modQuad_pac (hf := rfl)]
    · exact State.pair_sendFrame ..
    · exact fun j hj => (State.keepsRegs_sendFrame _ _ _ _ j hj).trans (State.reg_congr rfl j)
    · rw [State.sendFrame_eq]
      rfl
  case pop =>
    intro s m q x l hreach hverdict hfence hlatch hstamps
    refine ⟨_, exec_txstampPop hreach hverdict hfence hlatch hstamps, ?_, rfl, rfl⟩
    rw [State.quad_answer, State.quad_modQuad_self]
    exact congrArg (List.drop 1) hstamps

end Sys2Proof.Machine
end

section
/-! PROOF. A packet that enters its stream's buffer, and one that a best-effort tree takes at once (R148, R150, R157). -/

namespace Sys2Proof.Machine

variable {s : State} {n : Nat} {tr : Tree} {w : WaitPkt}

/-! ### A packet waits for the slots of its stream (R148, R150) -/

/-- A packet of the source of a slotted tree waits in its buffer, where the packet at the head is of that source too. -/
theorem State.inject_slotted {owner : Producer} {bytes : List Byte} (hlen : 1 ≤ bytes.length) (hmax : bytes.length ≤ 9216)
    (htree : (s.stream n).tree = some tr) (hbe : tr.be = false) (hprep : (s.stream n).prep = none)
    (hhead : ∀ w, (s.stream n).wait.head? = some w → w.k = tr.srcK ∧ w.p = tr.srcPort) :
    s.inject n tr.srcK tr.srcPort owner bytes =
      (s.modStream n fun x => { x with wait := x.wait ++ [{ owner, k := tr.srcK, p := tr.srcPort, bytes }] }, true) := by
  have hsource : s.isSource n tr.srcK tr.srcPort = true := by simp [State.isSource, htree]
  have hstream := s.stream_modStream_self n fun x =>
    { x with wait := x.wait ++ [{ owner, k := tr.srcK, p := tr.srcPort, bytes }] }
  generalize hu : s.modStream n _ = u at hstream
  have hswitch : u.switchTree n = u := by rw [State.switchTree, hstream, hprep]
  obtain ⟨w, rest, hwait, hk, hp⟩ : ∃ w rest, (u.stream n).wait = w :: rest ∧ tr.srcK = w.k ∧ tr.srcPort = w.p := by
    rw [hstream]
    cases hl : (s.stream n).wait with
    | nil => exact ⟨_, _, rfl, rfl, rfl⟩
    | cons w rest =>
      obtain ⟨hk, hp⟩ := hhead w (by rw [hl]; rfl)
      exact ⟨w, _, rfl, hk.symm, hp.symm⟩
  rw [State.inject, if_pos ⟨hsource, hmax, hlen⟩, hu]
  exact congrArg (·, true) (State.streamFlow_slotted hwait (by rw [hswitch, ite_self]) (by rw [hstream, htree]) hk hp hbe)

/-! ### A packet leaves at once (R157) -/

/-- What `i` flits of the one packet of a stream leave of it, with the tick of the SOP. -/
def StreamSt.flitsOut (x : StreamSt) (w : WaitPkt) (tick i : Nat) : StreamSt :=
  { x with wait := [{ w with gone := i }], srcSop := if i = 0 then x.srcSop else some tick }

/-- The state is another where `i` flits of the one packet of stream n have left. -/
structure State.FlitsOut (s : State) (n : Nat) (w : WaitPkt) (i : Nat) (t : State) : Prop where
  rest : t = { s with streams := t.streams }
  stream : t.stream n = (s.stream n).flitsOut w s.tick i
  others : ∀ j, j ≠ n → t.stream j = s.stream j

/-- With none out, the packet has just come to the empty buffer. -/
theorem State.FlitsOut.zero (hw : w.gone = 0) : s.FlitsOut n w 0 (s.modStream n fun x => { x with wait := [w] }) where
  rest := rfl
  stream := by
    have hgone : { w with gone := 0 } = w := by rw [← hw]
    rw [State.stream_modStream_self, StreamSt.flitsOut, hgone]
    rfl
  others j hj := s.stream_modStream_ne hj _

variable {t : State} {i : Nat}

/-- The SOP of a stream after the next flit. -/
theorem State.FlitsOut.stream_sopOut (h : s.FlitsOut n w i t) :
    (t.sopOut n { w with gone := i }).stream n =
      { (s.stream n).flitsOut w s.tick i with srcSop := some s.tick } := by
  have htick : t.tick = s.tick := by rw [h.rest]; rfl
  unfold State.sopOut
  by_cases hi : i = 0
  · rw [if_pos (congrArg (· + 1) hi), State.stream_modStream_self, h.stream, htick]
  · rw [if_neg fun hone => hi (Nat.succ.inj hone), h.stream, StreamSt.flitsOut, if_neg hi]

theorem State.stream_sopOut_ne (s : State) {n j : Nat} (hj : j ≠ n) (w : WaitPkt) :
    (s.sopOut n w).stream j = s.stream j := by
  unfold State.sopOut
  split
  · exact s.stream_modStream_ne hj _
  · rfl

/-- The packet at the head. -/
theorem State.FlitsOut.wait (h : s.FlitsOut n w i t) : (t.stream n).wait = [{ w with gone := i }] := by
  rw [h.stream]
  rfl

/-- A router's error waits on the way no more than it did. -/
theorem State.FlitsOut.clearWay (h : s.FlitsOut n w i t) (hc : s.clearWay tr.routers) : t.clearWay tr.routers := by
  have hinj : t.flitInj = s.flitInj := by rw [h.rest]
  rw [State.clearWay, hinj]
  exact hc

/-- One flit of several. -/
theorem State.FlitsOut.more (h : s.FlitsOut n w i t) (hc : s.clearWay tr.routers)
    (hi : i + 1 < flitCount w.bytes.length) : s.FlitsOut n w (i + 1) (t.leaveFlit n tr) := by
  rw [State.leaveFlit_more h.wait (h.clearWay hc) hi]
  refine ⟨?_, ?_, fun j hj => ?_⟩
  · rw [State.sopOut_rest, h.rest]
    rfl
  · rw [State.stream_modStream_self, h.stream_sopOut]
    rfl
  · rw [State.stream_modStream_ne _ hj, State.stream_sopOut_ne _ hj, h.others j hj]

/-- All flits but the last. -/
theorem State.FlitsOut.most (h : s.FlitsOut n w 0 t) (hc : s.clearWay tr.routers) {k : Nat}
    (hk : k + 1 ≤ flitCount w.bytes.length) :
    s.FlitsOut n w k ((List.range k).foldl (fun (t : State) _ => t.leaveFlit n tr) t) := by
  induction k with
  | zero => exact h
  | succ k ih =>
    rw [List.range_succ, List.foldl_append]
    exact (ih (by omega)).more hc (by omega)

/-- The state is another where the one packet of stream n has left at one tick. -/
structure State.PacketOut (s : State) (n : Nat) (w : WaitPkt) (t : State) : Prop where
  rest : t = { s with sent := t.sent, streams := t.streams }
  sent : t.sent = .streamPacket n w.bytes w.bad :: s.sent
  stream : t.stream n = { s.stream n with wait := [], srcSop := some s.tick }
  others : ∀ j, j ≠ n → t.stream j = s.stream j

/-- What is put out moves no stream. -/
theorem State.stream_log (s : State) (o : Out) (j : Nat) : (s.log o).stream j = s.stream j := rfl

/-- The RAW lanes that send a stream depend on the registers alone. -/
theorem State.rawSinks_congr (h : ∀ k : RegKey, k.name ≠ .portCnt → k.name ≠ .portCntHi → t.reg k = s.reg k) :
    t.rawSinks n tr = s.rawSinks n tr := by
  have hreg (m : RegName) (l : Nat) (hlo : m ≠ .portCnt) (hhi : m ≠ .portCntHi) : t.reg ⟨m, l, 0⟩ = s.reg ⟨m, l, 0⟩ :=
    h _ hlo hhi
  unfold State.rawSinks State.quadRole State.laneState State.flag State.fld
  refine List.filter_congr fun l _ => ?_
  rw [hreg .quadCfg _ (by decide) (by decide), hreg .rawCtl _ (by decide) (by decide), hreg .lnStat _ (by decide) (by decide)]

/-- The last flit. -/
theorem State.FlitsOut.last (h : s.FlitsOut n w i t) (hc : s.clearWay tr.routers) (hraw : s.rawSinks n tr = [])
    (hi : flitCount w.bytes.length ≤ i + 1) : s.PacketOut n w (t.leaveFlit n tr) := by
  have hregs : t.regs = s.regs := by rw [h.rest]
  have hsinks : t.rawSinks n tr = [] := (State.rawSinks_congr fun k _ _ => State.reg_congr hregs k).trans hraw
  rw [State.leaveFlit_last h.wait (h.clearWay hc) hi hsinks]
  have hrest : t.sopOut n { w with gone := i } = { s with streams := (t.sopOut n { w with gone := i }).streams } := by
    rw [State.sopOut_rest, h.rest]
  have hstream := h.stream_sopOut
  have hothers (j : Nat) (hj : j ≠ n) : (t.sopOut n { w with gone := i }).stream j = s.stream j :=
    (t.stream_sopOut_ne hj _).trans (h.others j hj)
  unfold State.packetOut
  generalize t.sopOut n { w with gone := i } = u at hrest hstream hothers
  refine ⟨?_, ?_, ?_, fun j hj => ?_⟩
  · rw [hrest]
    rfl
  · rw [hrest]
    rfl
  · rw [State.stream_log, State.stream_modStream_self, hstream]
    rfl
  · rw [State.stream_log, State.stream_modStream_ne _ hj, hothers j hj]

/-- A packet that has just come to the empty buffer of a best-effort stream leaves at once. -/
theorem State.FlitsOut.flow (h : s.FlitsOut n w 0 t) (hlen : 1 ≤ w.bytes.length) (hbe : tr.be = true)
    (htree : (s.stream n).tree = some tr) (hprep : (s.stream n).prep = none) (hk : tr.srcK = w.k) (hp : tr.srcPort = w.p)
    (hc : s.clearWay tr.routers) (hraw : s.rawSinks n tr = []) : s.PacketOut n w (t.streamFlow n) := by
  obtain ⟨k, hcount⟩ : ∃ k, flitCount w.bytes.length = k + 1 :=
    Nat.exists_eq_add_one.mpr (by unfold flitCount ceilDiv; omega)
  have hswitch : t.switchTree n = t := by rw [State.switchTree, h.stream, StreamSt.flitsOut, hprep]
  have hout : s.PacketOut n w ((List.range (flitCount w.bytes.length)).foldl (fun (t : State) _ => t.leaveFlit n tr) t) := by
    rw [hcount, List.range_succ, List.foldl_append]
    exact (h.most hc hcount.ge).last hc hraw hcount.le
  have hwait : (((List.range (flitCount w.bytes.length)).foldl (fun (t : State) _ => t.leaveFlit n tr) t).stream n).wait =
      [] := by rw [hout.stream]
  rw [State.streamFlow, State.flowSteps, h.wait]
  dsimp only
  rw [hswitch, ite_self, h.stream, StreamSt.flitsOut, htree]
  dsimp only
  rw [if_pos ⟨hk, hp⟩, hbe, if_pos rfl]
  exact (State.flowSteps_idle hwait 0).symm ▸ hout

end Sys2Proof.Machine
end

section
/-! PROOF. Frames that arrive: discarded with a count, or given to the default stream (R204, R206, R208 to R210). -/

namespace Sys2Proof.Machine

variable {s : State} {q : Fin 64} {f : RxFrame}

/-! ### A frame arrives (R206) -/

/-- What no injection caused carries no mark of one. -/
theorem State.injected_false {g : State → State} (h : (g s).str = s.str) : s.injected false g = g s := by
  have hset : s.setInj (s.str.inj || false) = s := by rw [Bool.or_false]; rfl
  have hback : (g s).setInj s.str.inj = g s := by rw [State.setInj, ← h]
  rw [State.injected, hset, hback]

/-- A frame at a port that is up, with no injected burst about it. -/
theorem exec_ethFrameReceive {ok : Bool} {t : State} (hs : s.serving = true) (hup : s.portUp q.val f.port.val = true)
    (hburst : s.burstLanes q.val f.port.val = []) (hok : (f.fcsOk && (f.fecOk || !s.portFec q.val f.port.val)) = ok)
    (ht : s.frameIn q.val f.port.val f.frac.val f.bytes ok = t) (hstr : t.str = s.str) :
    exec (.ethFrameReceive q f) s = .next t := by
  have htake : s.takeBurst q.val f.port.val = (s, true) := by rw [State.takeBurst, hburst]
  have hframe : s.frameIn q.val f.port.val f.frac.val f.bytes
      (f.fcsOk && (f.fecOk || !s.portFec q.val f.port.val) && true) = t := by rw [Bool.and_true, hok, ht]
  change execEthFrameReceive q f s = _
  rw [execEthFrameReceive, whenServing_serving hs, hup, if_pos rfl, htake, hburst]
  exact congrArg Host.Outcome.next ((State.injected_false (g := fun s => s.frameIn q.val f.port.val f.frac.val f.bytes
    (f.fcsOk && (f.fecOk || !s.portFec q.val f.port.val) && true)) (by rw [hframe, hstr])).trans hframe)

/-- The check of a frame, and of its codewords where the port runs FEC (R204). -/
theorem frameOk_eq_true (hfcs : f.fcsOk = true) (hfec : f.fecOk = true ∨ s.portFec q.val f.port.val = false) :
    (f.fcsOk && (f.fecOk || !s.portFec q.val f.port.val)) = true := by
  rcases hfec with h | h <;> simp [hfcs, h]

theorem frameOk_eq_false (h : f.fcsOk = false ∨ (f.fecOk = false ∧ s.portFec q.val f.port.val = true)) :
    (f.fcsOk && (f.fecOk || !s.portFec q.val f.port.val)) = false := by
  rcases h with h | ⟨hfec, hport⟩
  · simp [h]
  · simp [hfec, hport]

theorem State.frameIn_bad (s : State) (q n frac : Nat) (b : List Byte) : s.frameIn q n frac b false = s.portCount q n 1 := rfl

theorem State.frameIn_long {n frac : Nat} {b : List Byte} (h : 9600 < b.length + 4) :
    s.frameIn q.val n frac b true = s.portCount q.val n 4 := by
  rw [State.frameIn, Bool.not_true, if_neg (by decide), if_pos h]

/-- A frame of legal length for the port that is no MAC control frame is accepted. -/
theorem State.frameIn_accepted {n frac : Nat} {b : List Byte} (hlen : b.length ≤ 9200) (hctl : macControl b = false)
    (hmac : numAtBe b 0 1 % 2 = 1 ∨ numAtBe b 0 6 = s.portMac q.val n) :
    s.frameIn q.val n frac b true = s.accepted q.val n frac b := by
  rw [State.frameIn, Bool.not_true, if_neg (by decide), if_neg (by omega), hctl, if_neg (by decide), if_pos hmac]

/-! ### The default stream (R209) -/

/-- The counts of a frame that is accepted and that no entry matches (R234). -/
def State.countDefault (s : State) (q n : Nat) : State := (s.portCount q n 0).portCount q n 2

theorem State.countDefault_rest (s : State) (q n : Nat) : ∃ r, s.countDefault q n = { s with regs := r } := by
  obtain ⟨r0, h0⟩ : ∃ r, s.portCount q n 0 = { s with regs := r } := ⟨_, rfl⟩
  obtain ⟨r, h⟩ : ∃ r, (s.portCount q n 0).portCount q n 2 = { s.portCount q n 0 with regs := r } := ⟨_, rfl⟩
  exact ⟨r, by rw [State.countDefault, h, h0]⟩

/-- The counts change the two counters alone. -/
theorem State.reg_countDefault (s : State) (q n : Nat) {k : RegKey} (hlo : k.name ≠ .portCnt) (hhi : k.name ≠ .portCntHi) :
    (s.countDefault q n).reg k = s.reg k := by
  have hne (i : Nat) : k ∉ [(⟨.portCnt, 4 * q + n, i⟩ : RegKey), ⟨.portCntHi, 4 * q + n, i⟩] := by
    rw [List.mem_pair]
    rintro (rfl | rfl)
    exacts [hlo rfl, hhi rfl]
  exact (State.keepsRegs_portCount _ q n 2 k (hne 2)).trans (s.keepsRegs_portCount q n 0 k (hne 0))

theorem State.pair_countDefault (s : State) (q n : Nat) (i : Fin 8) :
    (s.countDefault q n).pair ⟨.portCnt, 4 * q + n, i.val⟩ ⟨.portCntHi, 4 * q + n, i.val⟩ =
      (s.pair ⟨.portCnt, 4 * q + n, i.val⟩ ⟨.portCntHi, 4 * q + n, i.val⟩ + if i.val = 0 ∨ i.val = 2 then 1 else 0) %
        2 ^ 64 := by
  rw [State.countDefault, State.pair_portCount, State.pair_portCount]
  have hsplit : (if i.val = 0 ∨ i.val = 2 then 1 else 0) = (if i.val = 0 then 1 else 0) + (if i.val = 2 then 1 else 0) := by
    by_cases h0 : i.val = 0
    · simp [h0]
    · simp [h0]
  rw [hsplit, Nat.mod_add_mod, Nat.add_assoc]

/-- An accepted frame that is no PTP message and that no entry matches goes to the default stream, where there is one and
the management queue takes no such frames. -/
theorem State.accepted_default {n frac : Nat} {b : List Byte} (hptp : ptpAt b = none)
    (hcls : s.classify q.val n b = none) (hon : s.flag ⟨.clsDefault, q.val, 0⟩ 31 = true)
    (hmq : s.flag ⟨.clsDefault, q.val, 0⟩ 30 = false) :
    s.accepted q.val n frac b = (s.countDefault q.val n).rxStream q.val n (s.fld ⟨.clsDefault, q.val, 0⟩ 13 0)
      (rxPrefix s.tick frac n (b.length + 4) ++ b) := by
  have hreg : ((s.portCount q.val n 0).portCount q.val n 2).reg ⟨.clsDefault, q.val, 0⟩ = s.reg ⟨.clsDefault, q.val, 0⟩ :=
    s.reg_countDefault q.val n (by simp) (by simp)
  have hcls0 : (s.portCount q.val n 0).classify q.val n b = none := hcls
  have hon : bit (s.reg ⟨.clsDefault, q.val, 0⟩) 31 = true := hon
  have hmq : bit (s.reg ⟨.clsDefault, q.val, 0⟩) 30 = false := hmq
  rw [State.accepted]
  dsimp only
  rw [hptp, hcls0]
  simp only [Option.isSome_none, Bool.false_and, Bool.false_eq_true, if_false]
  rw [State.unmatched]
  rw [hreg, hon, hmq, if_pos rfl, if_neg (by decide)]
  rfl

/-! ### A packet built by the engine (R208, R210) -/

/-- Sixteen bytes stand in front of the data. -/
theorem length_rxPrefix (tick frac port len : Nat) (b : List Byte) :
    (rxPrefix tick frac port len ++ b).length = b.length + 16 := by
  simp [rxPrefix, leBytes]

/-- A packet that has room leaves for its stream. -/
theorem State.rxStream_fits {n stream k p : Nat} {pkt : List Byte} {t : State} (hq : quadRouter q.val = (k, p))
    (hpos : 1 ≤ pkt.length) (hmax : pkt.length ≤ 9216) (hroom : s.bytesWaiting stream + pkt.length ≤ 65536)
    (hheld : s.rxHeld q.val + pkt.length ≤ 4194304) (ht : s.inject stream k p (.port q.val n) pkt = (t, true)) :
    s.rxStream q.val n stream pkt = t := by
  have hne : pkt ≠ [] := List.ne_nil_of_length_pos hpos
  have hfits : ¬(65536 < s.bytesWaiting stream + pkt.length ∨ 4194304 < s.rxHeld q.val + pkt.length) := by omega
  rw [State.rxStream, hq]
  dsimp only
  rw [if_neg hne, if_neg (by omega), decide_eq_false hfits, Bool.and_false, if_neg (by decide), ht]

theorem State.modStream_congr {n : Nat} {g h : StreamSt → StreamSt} (e : g (s.stream n) = h (s.stream n)) :
    s.modStream n g = s.modStream n h := by
  rw [State.modStream, e]
  rfl

/-- A packet that a best-effort tree takes leaves at once. -/
theorem State.inject_leaves {n : Nat} {tr : Tree} {owner : Producer} {bytes : List Byte} (hlen : 1 ≤ bytes.length)
    (hmax : bytes.length ≤ 9216) (htree : (s.stream n).tree = some tr) (hbe : tr.be = true)
    (hprep : (s.stream n).prep = none) (hempty : (s.stream n).wait = []) (hc : s.clearWay tr.routers)
    (hraw : s.rawSinks n tr = []) :
    ∃ t, s.inject n tr.srcK tr.srcPort owner bytes = (t, true) ∧
      s.PacketOut n { owner, k := tr.srcK, p := tr.srcPort, bytes } t := by
  have hsource : s.isSource n tr.srcK tr.srcPort = true := by simp [State.isSource, htree]
  have hzero := State.FlitsOut.zero (s := s) (n := n) (w := { owner, k := tr.srcK, p := tr.srcPort, bytes }) rfl
  refine ⟨_, ?_, hzero.flow hlen hbe htree hprep rfl rfl hc hraw⟩
  rw [State.inject, if_pos ⟨hsource, hmax, hlen⟩]
  refine congrArg (fun t : State => (t.streamFlow n, true)) (State.modStream_congr ?_)
  rw [hempty]
  rfl

end Sys2Proof.Machine
end

section
/-! PROOF. Events of a source whose reaction is no BLOCK reset: they leave its reaction (R387). -/

namespace Sys2Proof.Machine

/-- Source n has the reaction v. -/
def Reaction (n v : Nat) (s : State) : Prop := s.fld ⟨.strSrc, n, 0⟩ 21 20 = v

variable {n v : Nat} {s t : State}

/-- A field of another register, or another field of the source's. -/
theorem Reaction.setFld {k : RegKey} {hi lo w : Nat} (h : Reaction n v s) (hk : k.name ≠ .strSrc ∨ hi < 20 ∨ 21 < lo) :
    Reaction n v (s.setFld k hi lo w) := by
  by_cases e : (⟨.strSrc, n, 0⟩ : RegKey) = k
  · subst e
    exact (s.fld_setFld_ne _ (by simpa [or_comm] using hk)).trans h
  · exact (congrArg (bits · 21 20) (s.reg_setReg_ne _ e)).trans h

theorem Reaction.setFlag {k : RegKey} {i : Nat} {b : Bool} (h : Reaction n v s) (hk : k.name ≠ .strSrc ∨ i < 20 ∨ 21 < i) :
    Reaction n v (s.setFlag k i b) := h.setFld hk

theorem Reaction.countUp {k : RegKey} {hi lo : Nat} (h : Reaction n v s) (hk : k.name ≠ .strSrc ∨ hi < 20 ∨ 21 < lo) :
    Reaction n v (s.countUp k hi lo) := h.setFld hk

theorem Reaction.ite {c : Prop} [Decidable c] (hs : Reaction n v s) (ht : Reaction n v t) :
    Reaction n v (if c then s else t) := by
  split <;> assumption

theorem Reaction.foldl {ι : Type} {f : State → ι → State} {l : List ι} (h : Reaction n v s)
    (hf : ∀ t i, Reaction n v t → Reaction n v (f t i)) : Reaction n v (l.foldl f s) :=
  List.foldlRecOn l f h fun t ht i _ => hf t i ht

theorem Reaction.signalCores {d : Nat} (h : Reaction n v s) : Reaction n v (s.signalCores d) :=
  .foldl h fun _ _ h1 => .ite h1 h1

theorem Reaction.sendMsix {w vec : Nat} (h : Reaction n v s) : Reaction n v (s.sendMsix w vec) :=
  .ite (.ite h h) (.ite h h)

theorem Reaction.enqueueEvent {w cap vec : Nat} {r : CadRec} (h : Reaction n v s) :
    Reaction n v (s.enqueueEvent w cap vec r) :=
  .ite (.ite h (.signalCores (.sendMsix (.setFlag h (.inl (by simp)))))) (.countUp h (.inl (by simp)))

theorem Reaction.errPulse (h : Reaction n v s) : Reaction n v s.errPulse := .ite (.setFlag h (.inl (by simp))) h

theorem Reaction.addRecord {r : CadRec} (h : Reaction n v s) : Reaction n v (s.addRecord r) :=
  .ite h (.ite (.countUp h (.inl (by simp))) h)

/-- An event leaves the reaction of its source, where that is no BLOCK reset. -/
theorem Reaction.raiseEvent {kind : Nat} {doms : List Nat} {bytes : List Byte} {own : Option Nat} (h : Reaction n v s)
    (hv : v ≠ 1) : Reaction n v (s.raiseEvent n kind doms bytes own) := by
  have hblock : (bits (s.reg ⟨.strSrc, n, 0⟩) 21 20 == 1) = false := beq_eq_false_iff_ne.mpr (h.trans_ne hv)
  delta State.raiseEvent
  extract_lets _ cfg _ _ _ _ s1 s2 s3 s4 s5 s6 s7 s8
  have h1 : Reaction n v s1 := .countUp (.setFlag h (by omega)) (by omega)
  have h2 : Reaction n v s2 := by
    unfold s2
    refine .foldl h1 fun t1 _ h2 => ?_
    split
    · exact .ite (.enqueueEvent h2) h2
    · exact h2
  have h3 : Reaction n v s3 := .ite (.enqueueEvent h2) h2
  have h4 : Reaction n v s4 := .ite h3 h3
  have h5 : Reaction n v s5 := .ite (.errPulse h4) h4
  have h6 : Reaction n v s6 := .ite (.ite h5 h5) h5
  have h7 : Reaction n v s7 := by
    unfold s7 cfg
    rw [hblock, Bool.and_false]
    exact h6
  have h8 : Reaction n v s8 := .ite (.addRecord h7) h7
  exact .ite h8 h8

end Sys2Proof.Machine
end

section
/-! PROOF. Classifier registers and merge legs (R211, R213). -/

namespace Sys2Proof.Machine

variable {s t u : State} {q : Fin 64}

/-! ### Merge legs that go DOWN (R213) -/

/-- What legs that go DOWN leave of a state: all registers but the Strainer's, CAD_STAT and MRG_STAT, the port engines, the
memory, and the reaction of the engine's source. -/
structure LegFrame (q : Nat) (s t : State) : Prop where
  quads : t.quads = s.quads
  hbm : t.hbm = s.hbm
  reg : ∀ k, blkOf k.name ≠ .str → k ≠ ⟨.cadStat, 0, 0⟩ → k.name ≠ .mrgStat → t.reg k = s.reg k
  reaction : t.fld ⟨.strSrc, 0x500 + q, 0⟩ 21 20 = s.fld ⟨.strSrc, 0x500 + q, 0⟩ 21 20

theorem LegFrame.refl (q : Nat) (s : State) : LegFrame q s s := ⟨rfl, rfl, fun _ _ _ _ => rfl, rfl⟩

theorem LegFrame.trans {q : Nat} (h : LegFrame q s t) (g : LegFrame q t u) : LegFrame q s u where
  quads := g.quads.trans h.quads
  hbm := g.hbm.trans h.hbm
  reg k hstr hcad hmrg := (g.reg k hstr hcad hmrg).trans (h.reg k hstr hcad hmrg)
  reaction := g.reaction.trans h.reaction

/-- Steps that each keep the frame, from a state whose source has no BLOCK reset for its reaction. -/
theorem LegFrame.foldl {q : Nat} {ι : Type} {f : State → ι → State} (l : List ι)
    (hb : s.fld ⟨.strSrc, 0x500 + q, 0⟩ 21 20 ≠ 1)
    (hf : ∀ t i, t.fld ⟨.strSrc, 0x500 + q, 0⟩ 21 20 ≠ 1 → LegFrame q t (f t i)) : LegFrame q s (l.foldl f s) :=
  List.foldlRecOn l f (.refl q s) fun t ht i _ => ht.trans (hf t i (ht.reaction.trans_ne hb))

/-- MRG_STAT is no register of the Strainer. -/
theorem State.legFrame_setStat (s : State) (q i n : Nat) (b : Bool) : LegFrame q s (s.setFlag ⟨.mrgStat, q, i⟩ n b) where
  quads := rfl
  hbm := rfl
  reg k _ _ hmrg := s.reg_setReg_ne _ fun e => hmrg (congrArg RegKey.name e)
  reaction := congrArg (bits · 21 20) (s.reg_setReg_ne _ (by simp))

/-- The event of a leg. -/
theorem State.legFrame_raiseEvent {q kind : Nat} {doms : List Nat} {bytes : List Byte}
    (hb : s.fld ⟨.strSrc, 0x500 + q, 0⟩ 21 20 ≠ 1) :
    LegFrame q s (s.raiseEvent (0x500 + q) kind doms bytes) := by
  have hframe := (raiseEvent_frame s (0x500 + q) kind doms bytes none).resolve_right fun h => hb h.1
  exact ⟨by rw [hframe.rest], by rw [hframe.rest], fun k hstr hcad _ => hframe.reg k hstr hcad,
    Reaction.raiseEvent (v := s.fld ⟨.strSrc, 0x500 + q, 0⟩ 21 20) rfl hb⟩

theorem State.legDown_marked {q i : Nat} {b : Bool} (h : s.flag ⟨.mrgStat, q, i⟩ (if b then 30 else 31) = true) :
    s.legDown q i b = s := if_pos h

theorem State.legDown_unmarked {q i : Nat} {b : Bool} (h : ¬s.flag ⟨.mrgStat, q, i⟩ (if b then 30 else 31) = true) :
    s.legDown q i b = (s.setFlag ⟨.mrgStat, q, i⟩ (if b then 30 else 31) true).raiseEvent (0x500 + q) 2 [0x01]
      (leBytes 2 i ++ [BitVec.ofNat 8 (b2n b)]) := if_neg h

theorem State.legFrame_legDown {q i : Nat} {b : Bool} (hb : s.fld ⟨.strSrc, 0x500 + q, 0⟩ 21 20 ≠ 1) :
    LegFrame q s (s.legDown q i b) := by
  by_cases h : s.flag ⟨.mrgStat, q, i⟩ (if b then 30 else 31) = true
  · rw [State.legDown_marked h]
    exact .refl q s
  · have hstat := s.legFrame_setStat q i (if b then 30 else 31) true
    rw [State.legDown_unmarked h]
    exact hstat.trans (State.legFrame_raiseEvent (hstat.reaction.trans_ne hb))

theorem State.legFrame_legsOfPort {q n : Nat} (hb : s.fld ⟨.strSrc, 0x500 + q, 0⟩ 21 20 ≠ 1) :
    LegFrame q s (s.legsOfPort q n) := by
  unfold State.legsOfPort
  split
  · exact .refl q s
  · refine LegFrame.foldl _ hb fun t e ht => ?_
    split
    · exact .refl q t
    · exact LegFrame.foldl _ ht fun u i hu => State.legFrame_legDown hu

/-- The legs of the ports that an engine has. -/
def State.legsNow (s : State) (q : Nat) : State :=
  (List.range 4).foldl (fun (s : State) n => if s.hasPort q n then s.legsOfPort q n else s) s

theorem State.legFrame_legsNow {q : Nat} (hb : s.fld ⟨.strSrc, 0x500 + q, 0⟩ 21 20 ≠ 1) : LegFrame q s (s.legsNow q) := by
  refine LegFrame.foldl _ hb fun t n ht => ?_
  split
  · exact State.legFrame_legsOfPort ht
  · exact .refl q t

/-- No leg of a port that is up goes DOWN. -/
theorem State.legsNow_up {q : Nat} (h : ∀ n, n < 4 → s.hasPort q n = true → s.portUp q n = true) : s.legsNow q = s := by
  refine List.foldlRecOn (motive := fun t => t = s) _ _ rfl fun t ht n hn => ?_
  subst ht
  split
  · next hport => exact if_pos (h n (List.mem_range.mp hn) hport)
  · rfl

/-- A leg that goes DOWN is marked. -/
theorem State.flag_legDown {q i : Nat} {b : Bool} (hb : s.fld ⟨.strSrc, 0x500 + q, 0⟩ 21 20 ≠ 1) :
    (s.legDown q i b).flag ⟨.mrgStat, q, i⟩ (if b then 30 else 31) = true := by
  by_cases h : s.flag ⟨.mrgStat, q, i⟩ (if b then 30 else 31) = true
  · rw [State.legDown_marked h, h]
  · have hstat := s.legFrame_setStat q i (if b then 30 else 31) true
    have hframe := (raiseEvent_frame (s.setFlag ⟨.mrgStat, q, i⟩ (if b then 30 else 31) true) (0x500 + q) 2 [0x01]
      (leBytes 2 i ++ [BitVec.ofNat 8 (b2n b)]) none).resolve_right fun h => hstat.reaction.trans_ne hb h.1
    have hreg := hframe.reg ⟨.mrgStat, q, i⟩ (by simp [blkOf]) (by simp)
    rw [State.legDown_unmarked h]
    exact (congrArg (bit · (if b then 30 else 31)) hreg).trans (s.flag_setFlag_self _ _ _ (by cases b <;> decide))

theorem exec_mergeLegSilence {i : Fin 512} {b : Bool} (hs : s.serving = true)
    (hen : s.flag ⟨.mrgCfg, q.val, i.val⟩ 31 = true)
    (hsilent : (if b then (nget (s.quad q.val).mrg i.val {}).lastB else (nget (s.quad q.val).mrg i.val {}).lastA) +
      usTicks (s.fld ⟨.mrgCfg, q.val, i.val⟩ 29 16) ≤ s.tick) :
    exec (.mergeLegSilence q i b) s = .next (s.legDown q.val i.val b) := by
  change execMergeLegSilence q i b s = _
  rw [execMergeLegSilence, whenServing_serving hs]
  exact congrArg Host.Outcome.next (if_pos ⟨hen, hsilent⟩)

/-! ### CLS_SEL (R211) -/

/-- Word i of an entry's address, as CLS_ADDR shows it. -/
def ClsEnt.word (e : ClsEnt) (i : Nat) : Word := BitVec.ofNat 32 (e.addr.toNat / 2 ^ (32 * i))

/-- The staging registers take the entry that a write of CLS_SEL selects. -/
theorem State.writeClsSel_eq {v : Word} {e : ClsEnt} (he : nget (s.quad q.val).cls (bits v 9 0) {} = e) :
    s.writeClsSel q.val v =
      ((((((s.plainWrite ⟨.clsSel, q.val, 0⟩ v).setReg ⟨.clsAct, q.val, 0⟩ e.act).setReg ⟨.clsKey, q.val, 0⟩ e.key).setReg
        ⟨.clsAddr, q.val, 0⟩ (e.word 0)).setReg
        ⟨.clsAddr, q.val, 1⟩ (e.word 1)).setReg
        ⟨.clsAddr, q.val, 2⟩ (e.word 2)).setReg
        ⟨.clsAddr, q.val, 3⟩ (e.word 3) := by
  have hsel : (s.plainWrite ⟨.clsSel, q.val, 0⟩ v).fld ⟨.clsSel, q.val, 0⟩ 9 0 = bits v 9 0 :=
    (congrArg (bits · 9 0) (s.reg_setReg_self ..)).trans
      ((bits_mergeWrite_rw (f := rwF 9 0) (List.mem_singleton_self _) rfl _ v).trans (if_pos rfl))
  have hquad : (s.plainWrite ⟨.clsSel, q.val, 0⟩ v).quad q.val = s.quad q.val := rfl
  rw [State.writeClsSel]
  rw [hsel, hquad, he]
  rfl

/-- A write of a register changes registers alone. -/
theorem State.regsAlone_setReg (h : ∃ r, t = { s with regs := r }) (k : RegKey) (w : Word) :
    ∃ r, t.setReg k w = { s with regs := r } := by
  obtain ⟨r, rfl⟩ := h
  exact ⟨_, rfl⟩

theorem State.regsAlone_iff : (∃ r, t = { s with regs := r }) ↔ t = { s with regs := t.regs } := by
  constructor
  · rintro ⟨r, rfl⟩
    rfl
  · exact fun h => ⟨_, h⟩

/-- What a write of CLS_SEL changes: the selector and the staging registers. -/
theorem State.writeClsSel_spec {v : Word} {e : ClsEnt} (he : nget (s.quad q.val).cls (bits v 9 0) {} = e) :
    (s.writeClsSel q.val v).fld ⟨.clsSel, q.val, 0⟩ 9 0 = bits v 9 0 ∧
      (s.writeClsSel q.val v).reg ⟨.clsAct, q.val, 0⟩ = e.act ∧ (s.writeClsSel q.val v).reg ⟨.clsKey, q.val, 0⟩ = e.key ∧
      (∀ i : Fin 4, (s.writeClsSel q.val v).reg ⟨.clsAddr, q.val, i.val⟩ = e.word i.val) ∧
      s.keepsRegs (s.writeClsSel q.val v) [⟨.clsSel, q.val, 0⟩, ⟨.clsAct, q.val, 0⟩, ⟨.clsKey, q.val, 0⟩,
        ⟨.clsAddr, q.val, 0⟩, ⟨.clsAddr, q.val, 1⟩, ⟨.clsAddr, q.val, 2⟩, ⟨.clsAddr, q.val, 3⟩] ∧
      s.writeClsSel q.val v = { s with regs := (s.writeClsSel q.val v).regs } := by
  have hsel : bits (mergeWrite .clsSel (s.reg ⟨.clsSel, q.val, 0⟩) v) 9 0 = bits v 9 0 :=
    (bits_mergeWrite_rw (f := rwF 9 0) (List.mem_singleton_self _) rfl _ v).trans (if_pos rfl)
  rw [State.writeClsSel_eq he]
  refine ⟨?_, ?_, ?_, fun i => ?_, ?_, State.regsAlone_iff.mp ?_⟩
  · simp [State.fld, State.plainWrite, State.reg_setReg, hsel]
  · simp [State.reg_setReg]
  · simp [State.reg_setReg]
  · fin_cases i <;> simp [State.reg_setReg]
  · have hstart : s.keepsRegs s [⟨.clsSel, q.val, 0⟩, ⟨.clsAct, q.val, 0⟩, ⟨.clsKey, q.val, 0⟩,
        ⟨.clsAddr, q.val, 0⟩, ⟨.clsAddr, q.val, 1⟩, ⟨.clsAddr, q.val, 2⟩, ⟨.clsAddr, q.val, 3⟩] := fun _ _ => rfl
    exact ((((((hstart.setReg (by simp) _).setReg (by simp) _).setReg (by simp) _).setReg (by simp) _).setReg (by simp) _).setReg
      (by simp) _).setReg (by simp) _
  · iterate 7 refine State.regsAlone_setReg ?_ _ _
    exact ⟨_, rfl⟩

/-! ### CLS_ACT (R211) -/

/-- The entry that a write of v to CLS_ACT commits. -/
def State.stagedEntry (s : State) (q : Nat) (v : Word) : ClsEnt :=
  { act := mergeWrite .clsAct (s.reg ⟨.clsAct, q, 0⟩) v
    key := s.reg ⟨.clsKey, q, 0⟩
    addr := BitVec.ofNat 128 ((List.range 4).map fun i => (s.reg ⟨.clsAddr, q, i⟩).toNat * 2 ^ (32 * i)).sum }

theorem sum_range_four (f : Nat → Nat) : ((List.range 4).map f).sum = f 0 + (f 1 + (f 2 + f 3)) := by
  simp [List.range_succ]

/-- Four words laid end to end. -/
theorem words_apart {a b c d : Nat} (ha : a < 2 ^ 32) (hb : b < 2 ^ 32) (hc : c < 2 ^ 32) (hd : d < 2 ^ 32) :
    let n := (a + (b * 2 ^ 32 + (c * 2 ^ 64 + d * 2 ^ 96))) % 2 ^ 128
    n % 2 ^ 32 = a ∧ n / 2 ^ 32 % 2 ^ 32 = b ∧ n / 2 ^ 64 % 2 ^ 32 = c ∧ n / 2 ^ 96 % 2 ^ 32 = d := by
  dsimp only
  omega

/-- CLS_ADDR holds the entry's address word by word. -/
theorem State.stagedEntry_addr (s : State) (q : Nat) (v : Word) (i : Fin 4) :
    (s.stagedEntry q v).addr.toNat / 2 ^ (32 * i.val) % 2 ^ 32 = (s.reg ⟨.clsAddr, q, i.val⟩).toNat := by
  obtain ⟨h0, h1, h2, h3⟩ := words_apart (s.reg ⟨.clsAddr, q, 0⟩).isLt (s.reg ⟨.clsAddr, q, 1⟩).isLt
    (s.reg ⟨.clsAddr, q, 2⟩).isLt (s.reg ⟨.clsAddr, q, 3⟩).isLt
  rw [State.stagedEntry, BitVec.toNat_ofNat, sum_range_four, Nat.mul_zero, Nat.pow_zero, Nat.mul_one]
  fin_cases i
  · rw [Nat.mul_zero, Nat.pow_zero, Nat.div_one]
    exact h0
  · exact h1
  · exact h2
  · exact h3

/-- The bit VALID of CLS_ACT is plain. -/
theorem clsAct_valid (old v : Word) : bit (mergeWrite .clsAct old v) 31 = bit v 31 :=
  bit_mergeWrite_rw (f := rwF 31 31) List.mem_cons_self rfl old rfl le_rfl le_rfl

/-- The state where a write of v to CLS_ACT has committed the staged entry, or removed the entry. -/
def State.committed (s : State) (q : Nat) (v : Word) : State :=
  (s.plainWrite ⟨.clsAct, q, 0⟩ v).modQuad q fun x => { x with
    cls := if bit v 31 then nset x.cls (s.fld ⟨.clsSel, q, 0⟩ 9 0) (s.stagedEntry q v)
      else erase x.cls (s.fld ⟨.clsSel, q, 0⟩ 9 0) }

/-- A write of CLS_ACT commits or removes the entry, and then legs may be DOWN. -/
theorem State.writeClsAct_eq (s : State) (q : Fin 64) (v : Word) :
    s.writeClsAct q.val v = (s.committed q.val v).legsNow q.val := by
  have hact : (s.plainWrite ⟨.clsAct, q.val, 0⟩ v).reg ⟨.clsAct, q.val, 0⟩ =
    mergeWrite .clsAct (s.reg ⟨.clsAct, q.val, 0⟩) v := s.reg_setReg_self ..
  have hother {n : RegName} (i : Nat) (h : n ≠ .clsAct) :
    (s.plainWrite ⟨.clsAct, q.val, 0⟩ v).reg ⟨n, q.val, i⟩ = s.reg ⟨n, q.val, i⟩ := s.reg_setReg_ne _ (by simp [h])
  have hsel : (s.plainWrite ⟨.clsAct, q.val, 0⟩ v).fld ⟨.clsSel, q.val, 0⟩ 9 0 = s.fld ⟨.clsSel, q.val, 0⟩ 9 0 :=
    congrArg (bits · 9 0) (hother 0 (by decide))
  unfold State.writeClsAct
  dsimp only
  simp only [hact, hsel, hother 0 (n := .clsKey) (by decide), fun i => hother i (n := .clsAddr) (by decide), clsAct_valid]
  rfl

/-- The entries after it. -/
theorem State.cls_committed (s : State) (q : Fin 64) (v : Word) :
    ((s.committed q.val v).quad q.val).cls =
      if bit v 31 then nset (s.quad q.val).cls (s.fld ⟨.clsSel, q.val, 0⟩ 9 0) (s.stagedEntry q.val v)
      else erase (s.quad q.val).cls (s.fld ⟨.clsSel, q.val, 0⟩ 9 0) :=
  congrArg QuadSt.cls (State.quad_modQuad_self ..)

theorem State.look_cls_committed_ne (s : State) (q : Fin 64) (v : Word) {n : Nat} (hn : n ≠ s.fld ⟨.clsSel, q.val, 0⟩ 9 0) :
    look ((s.committed q.val v).quad q.val).cls n = look (s.quad q.val).cls n := by
  rw [s.cls_committed]
  split
  · rw [look_nset, if_neg hn]
  · exact look_erase_ne _ _ _ hn

/-- CLS_ACT reads what was written. -/
theorem State.reg_committed_self (s : State) (q : Fin 64) (v : Word) :
    (s.committed q.val v).reg ⟨.clsAct, q.val, 0⟩ = mergeWrite .clsAct (s.reg ⟨.clsAct, q.val, 0⟩) v := s.reg_setReg_self ..

theorem State.keepsRegs_committed (s : State) (q : Fin 64) (v : Word) :
    s.keepsRegs (s.committed q.val v) [⟨.clsAct, q.val, 0⟩] := State.keepsRegs_of_setReg rfl

/-- A quad's ports depend on its plan alone. -/
theorem State.portsOf_congr {q : Nat} (h : t.reg ⟨.quadCfg, q, 0⟩ = s.reg ⟨.quadCfg, q, 0⟩) : t.portsOf q = s.portsOf q := by
  unfold State.portsOf State.quadRole State.quadConfig State.fld
  rw [h]

/-- A port's state depends on the quad's plan, its lanes and its alignment. -/
theorem State.portUp_congr {q : Nat} (hcfg : t.reg ⟨.quadCfg, q, 0⟩ = s.reg ⟨.quadCfg, q, 0⟩)
    (hstat : ∀ l, t.reg ⟨.lnStat, l, 0⟩ = s.reg ⟨.lnStat, l, 0⟩) (hpcs : (t.quad q).pcsLost = (s.quad q).pcsLost)
    (hlanes : t.lanes = s.lanes) (n : Nat) : t.portUp q n = s.portUp q n := by
  unfold State.portUp State.laneState State.los State.lol State.flag State.fld State.lane
  rw [State.portsOf_congr hcfg, hpcs, hlanes]
  simp only [hstat]

/-- Ports do not depend on the classifier. -/
theorem State.portUp_committed (s : State) (q : Fin 64) (v : Word) (n : Nat) :
    (s.committed q.val v).portUp q.val n = s.portUp q.val n :=
  State.portUp_congr (s.keepsRegs_committed q v _ (by simp)) (fun _ => s.keepsRegs_committed q v _ (by simp))
    (by rw [State.committed, State.quad_modQuad_self]; rfl) rfl n

theorem State.hasPort_committed (s : State) (q : Fin 64) (v : Word) (n : Nat) :
    (s.committed q.val v).hasPort q.val n = s.hasPort q.val n :=
  congrArg (List.any · _) (State.portsOf_congr (s.keepsRegs_committed q v _ (by simp)))

theorem exec_clsSelWrite {m : Nat} {v : Word} (ha : s.accepts m ⟨.clsSel, q.val, 0⟩) :
    exec (.clsSelWrite m q v) s = .next ((s.writeClsSel q.val v).answer m .ok) := writeCommand_accepts ha ..

theorem exec_clsActWrite {m : Nat} {v : Word} (ha : s.accepts m ⟨.clsAct, q.val, 0⟩) :
    exec (.clsActWrite m q v) s = .next (((s.committed q.val v).legsNow q.val).answer m .ok) :=
  s.writeClsAct_eq q v ▸ writeCommand_accepts ha v fun s => s.writeClsAct q.val v

/-! ### The statement -/

/-- A frame for the default stream is counted and goes with its 16 bytes in front into the stream's buffer, whatever its tree does with
it there. -/
theorem exec_ethFrameReceive_default {f : RxFrame} {tr : Tree} {n : Nat} {t : State} (hs : s.serving = true)
    (hup : s.portUp q.val f.port.val = true) (hburst : s.burstLanes q.val f.port.val = []) (hfcs : f.fcsOk = true)
    (hfec : f.fecOk = true ∨ s.portFec q.val f.port.val = false) (hlen : f.bytes.length ≤ 9200)
    (hctl : macControl f.bytes = false)
    (hmac : numAtBe f.bytes 0 1 % 2 = 1 ∨ numAtBe f.bytes 0 6 = s.portMac q.val f.port.val) (hptp : ptpAt f.bytes = none)
    (hcls : s.classify q.val f.port.val f.bytes = none) (hon : s.flag ⟨.clsDefault, q.val, 0⟩ 31 = true)
    (hmq : s.flag ⟨.clsDefault, q.val, 0⟩ 30 = false) (hn : s.fld ⟨.clsDefault, q.val, 0⟩ 13 0 = n)
    (hsrc : (tr.srcK, tr.srcPort) = quadRouter q.val) (hroom : s.bytesWaiting n + (f.bytes.length + 16) ≤ 65536)
    (hheld : s.rxHeld q.val + (f.bytes.length + 16) ≤ 4194304) (hstr : t.str = s.str)
    (ht : (s.countDefault q.val f.port.val).inject n tr.srcK tr.srcPort (.port q.val f.port.val)
      (rxPrefix s.tick f.frac.val f.port.val (f.bytes.length + 4) ++ f.bytes) = (t, true)) :
    exec (.ethFrameReceive q f) s = .next t := by
  obtain ⟨r, hrest⟩ := s.countDefault_rest q.val f.port.val
  have hpkt := length_rxPrefix s.tick f.frac.val f.port.val (f.bytes.length + 4) f.bytes
  have hwaiting : (s.countDefault q.val f.port.val).bytesWaiting n = s.bytesWaiting n := by
    rw [hrest]
    rfl
  have hholds : (s.countDefault q.val f.port.val).rxHeld q.val = s.rxHeld q.val := by
    rw [hrest]
    rfl
  refine exec_ethFrameReceive hs hup hburst (frameOk_eq_true hfcs hfec) ?_ hstr
  rw [State.frameIn_accepted hlen hctl hmac, State.accepted_default hptp hcls hon hmq, hn]
  exact State.rxStream_fits hsrc.symm (by omega) (by omega) (by omega) (by omega) ht

/-- Settles O34: a frame meets one counter where it is discarded and two where it goes to the default stream, whose tree
holds the packet or takes it at once; a write of the classifier's registers changes the staged or the committed entry. -/
theorem framesAreCountedClassifiedAndForwarded : Obligations.FramesAreCountedClassifiedAndForwarded := by
  unfold Obligations.FramesAreCountedClassifiedAndForwarded
  refine ⟨?bad, ?long, ?slotted, ?bestEffort, ?select, ?act, ?silence⟩
  case bad =>
    intro s q f hs hup hburst hbad
    exact ⟨_, exec_ethFrameReceive hs hup hburst (frameOk_eq_false hbad) (s.frameIn_bad ..) rfl, s.pair_portCount_self ..,
      s.keepsRegs_portCount _ _ _, rfl⟩
  case long =>
    intro s q f hs hup hburst hfcs hfec hlong
    exact ⟨_, exec_ethFrameReceive hs hup hburst (frameOk_eq_true hfcs hfec) (State.frameIn_long hlong) rfl,
      s.pair_portCount_self .., s.keepsRegs_portCount _ _ _, rfl⟩
  case slotted =>
    intro s q f n tr hs hup hburst hfcs hfec hlen hctl hmac hptp hcls hon hmq hn htree hprep hsrc hbe hhead hroom hheld
    obtain ⟨r, hrest⟩ := s.countDefault_rest q.val f.port.val
    have hpkt := length_rxPrefix s.tick f.frac.val f.port.val (f.bytes.length + 4) f.bytes
    have hstream (j : Nat) : (s.countDefault q.val f.port.val).stream j = s.stream j := by
      rw [hrest]
      rfl
    have hinject := State.inject_slotted (s := s.countDefault q.val f.port.val) (n := n) (tr := tr)
      (owner := .port q.val f.port.val)
      (bytes := rxPrefix s.tick f.frac.val f.port.val (f.bytes.length + 4) ++ f.bytes) (by omega) (by omega)
      (by rw [hstream, htree]) hbe (by rw [hstream, hprep])
      fun w hw => Prod.ext_iff.mp ((hhead w (by rw [← hstream, hw])).trans hsrc.symm)
    refine ⟨_, exec_ethFrameReceive_default hs hup hburst hfcs hfec hlen hctl hmac hptp hcls hon hmq hn hsrc hroom hheld
      (by rw [hrest]; rfl) hinject, ?_, fun i => ?_, fun j hj => ?_, ?_⟩
    · rw [State.stream_modStream_self, hstream]
    · exact s.pair_countDefault q.val f.port.val i
    · rw [State.stream_modStream_ne _ hj, hstream]
    · rw [hrest]
      rfl
  case bestEffort =>
    intro s q f n tr hs hup hburst hfcs hfec hlen hctl hmac hptp hcls hon hmq hn htree hprep hsrc hbe hempty hheld hraw hinj
    obtain ⟨r, hrest⟩ := s.countDefault_rest q.val f.port.val
    have hpkt := length_rxPrefix s.tick f.frac.val f.port.val (f.bytes.length + 4) f.bytes
    have hstream (j : Nat) : (s.countDefault q.val f.port.val).stream j = s.stream j := by
      rw [hrest]
      rfl
    have hclear : (s.countDefault q.val f.port.val).clearWay tr.routers := by
      rw [hrest]
      exact List.find?_eq_none.mpr fun e he => by simpa using hinj e he
    have hsinks : (s.countDefault q.val f.port.val).rawSinks n tr = [] :=
      (State.rawSinks_congr fun k hlo hhi => s.reg_countDefault _ _ hlo hhi).trans hraw
    have hroom : s.bytesWaiting n + (f.bytes.length + 16) ≤ 65536 := by
      rw [State.bytesWaiting, hempty, List.map_nil, List.sum_nil]
      omega
    obtain ⟨t, hinject, hout⟩ := State.inject_leaves (s := s.countDefault q.val f.port.val) (n := n) (tr := tr)
      (owner := .port q.val f.port.val)
      (bytes := rxPrefix s.tick f.frac.val f.port.val (f.bytes.length + 4) ++ f.bytes) (by omega) (by omega)
      (by rw [hstream, htree]) hbe (by rw [hstream, hprep]) (by rw [hstream, hempty]) hclear hsinks
    have hregs : t.regs = (s.countDefault q.val f.port.val).regs := by rw [hout.rest]
    refine ⟨t, exec_ethFrameReceive_default hs hup hburst hfcs hfec hlen hctl hmac hptp hcls hon hmq hn hsrc hroom hheld
      (by rw [hout.rest, hrest]) hinject, ?_, ?_, fun i => ?_, fun j hj => ?_, ?_⟩
    · rw [hout.sent, hrest]
    · rw [hout.stream, hstream, ← hempty, hrest]
      rfl
    · rw [State.pair_congr hregs]
      exact s.pair_countDefault q.val f.port.val i
    · rw [hout.others j hj, hstream]
    · rw [hout.rest, hrest]
  case select =>
    intro s m q v ha
    obtain ⟨hsel, hact, hkey, haddr, hkeeps, hrest⟩ := s.writeClsSel_spec (q := q) (v := v) rfl
    have hexec := exec_clsSelWrite (v := v) ha
    generalize s.writeClsSel q.val v = t at hsel hact hkey haddr hkeeps hrest hexec
    refine ⟨t.answer m .ok, hexec, hsel, ?_, hkeeps, by rw [hrest]; rfl⟩
    rintro e rfl
    exact ⟨hact, hkey, fun i => (congrArg BitVec.toNat (haddr i)).trans (BitVec.toNat_ofNat ..)⟩
  case act =>
    intro s m q v ha hb
    have hsrc : (s.committed q.val v).fld ⟨.strSrc, 0x500 + q.val, 0⟩ 21 20 = s.fld ⟨.strSrc, 0x500 + q.val, 0⟩ 21 20 :=
      congrArg (bits · 21 20) (s.keepsRegs_committed q v _ (by simp))
    have hframe := State.legFrame_legsNow (s := s.committed q.val v) (hsrc.trans_ne hb)
    have hup (h : ∀ n, n < 4 → s.hasPort q.val n = true → s.portUp q.val n = true) :
        (s.committed q.val v).legsNow q.val = s.committed q.val v :=
      State.legsNow_up fun n hn hport =>
        (s.portUp_committed q v n).trans (h n hn ((s.hasPort_committed q v n).symm.trans hport))
    have hexec := exec_clsActWrite (v := v) ha
    generalize (s.committed q.val v).legsNow q.val = t at hframe hup hexec
    have hcls : (t.quad q.val).cls = ((s.committed q.val v).quad q.val).cls :=
      congrArg (fun l : List (Nat × QuadSt) => (nget l q.val {}).cls) hframe.quads
    have hreg : t.reg ⟨.clsAct, q.val, 0⟩ = mergeWrite .clsAct (s.reg ⟨.clsAct, q.val, 0⟩) v :=
      (hframe.reg _ (by simp [blkOf]) (by simp) (by simp)).trans (s.reg_committed_self q v)
    refine ⟨t.answer m .ok, hexec, ?_, fun hv => ⟨s.stagedEntry q.val v, ?_, hreg.symm, rfl, s.stagedEntry_addr q.val v⟩,
      fun hv => ?_, fun n hn => ?_, State.keepsHbm_of_eq hframe.hbm, fun h => ?_⟩
    · exact (congrArg (bit · 31) hreg).trans (clsAct_valid ..)
    · rw [State.quad_answer, hcls, s.cls_committed, if_pos hv, look_nset_self]
    · rw [State.quad_answer, hcls, s.cls_committed, hv, if_neg (by decide), look_erase_self]
    · rw [State.quad_answer, hcls, s.look_cls_committed_ne q v hn]
    · rw [hup h]
      exact ⟨s.keepsRegs_committed q v, rfl⟩
  case silence =>
    intro s q i b hs hen hsilent hb
    exact ⟨_, exec_mergeLegSilence hs hen hsilent, State.flag_legDown hb,
      State.keepsHbm_of_eq (State.legFrame_legDown hb).hbm⟩

end Sys2Proof.Machine
end

section
/-! PROOF. PERST (R223) in a register file that is not in canonical form: a refutation. -/

namespace Sys2Proof.Machine

/-! The statement asks nothing of the form of the register file.  Where a file lists a register twice, the first entry is
the one that reads.  PERST resets the block of its controller, and a BLOCK reset (`State.blockRegs`) drops every entry that
stands at its Reset value, whatever its block, so that the second entry comes to read. -/

/-- A device in service whose register file lists the owner of cup 0 twice: domain 0x01, its Reset value, and behind it
0x10. -/
def ownerListedTwice : State :=
  { phase := .service, clk := { mode := .running }, regs := [(⟨.cupOwner, 0, 0⟩, 0x01), (⟨.cupOwner, 0, 0⟩, 0x10)] }

/-- The device after PERST of controller 0. -/
def afterPerst : State := ((ownerListedTwice.setPerst 0 false).blockReset 0x560).dropIssue (ofCtl 0)

theorem exec_perst_ownerListedTwice : exec (.perst 0) ownerListedTwice = .next afterPerst := rfl

/-- The reset of a controller's block drops the first entry. -/
theorem reg_afterPerst : afterPerst.reg ⟨.cupOwner, 0, 0⟩ = 0x10 := by decide +kernel

theorem reg_ownerListedTwice : ownerListedTwice.reg ⟨.cupOwner, 0, 0⟩ = 0x01 := by decide

/-- Refutes O37: where the register file lists CUP[0]_OWNER at its Reset value and then at another word, PERST makes the
second word read, though no register of a cup is of the controller's block. -/
theorem not_tlpsBecomeTrayRequestsUntilReset : ¬ Obligations.TlpsBecomeTrayRequestsUntilReset := by
  unfold Obligations.TlpsBecomeTrayRequestsUntilReset
  rintro ⟨-, -, -, -, -, hperst, -⟩
  obtain ⟨t, hexec, -, -, -, -, hkeeps, -⟩ := hperst ownerListedTwice 0
  obtain rfl : afterPerst = t := Host.Outcome.next.inj (exec_perst_ownerListedTwice.symm.trans hexec)
  have hsame := hkeeps ⟨.cupOwner, 0, 0⟩ (by decide)
  rw [reg_afterPerst, reg_ownerListedTwice] at hsame
  exact absurd hsame (by decide)

end Sys2Proof.Machine
end

section
/-! PROOF. A lane retired in a quad that then rests (R232, R372): a refutation. -/

namespace Sys2Proof.Machine

/-! The statement says that the retirement of a lane leaves HBM as it is.  Where the lane was the last of its quad out of LP2,
the quad's grant is free (R372), and the units may be what a tenant core waits for: the core then starts, which first writes
its cluster's marked lines back (R406, R407).  Such a write can take the place of a poisoned line in the tray cache, and that
line goes to HBM as the poison pattern (R261, R264).  The other clauses about a grant that becomes free assume that no request
is pending; this one does not. -/

/-! ### What a retirement does to HBM beside the quad's grant -/

section

variable {s : State}

/-- A leg that goes DOWN leaves HBM, whatever the reaction to its event. -/
theorem State.cell_legDown (s : State) (q i : Nat) (b : Bool) (a : Nat) : (s.legDown q i b).cell a = s.cell a := by
  by_cases h : s.flag ⟨.mrgStat, q, i⟩ (if b then 30 else 31) = true
  · rw [State.legDown_marked h]
  · rw [State.legDown_unmarked h, State.raiseEvent_cell]
    rfl

theorem State.cell_legsOfPort (s : State) (q n a : Nat) : (s.legsOfPort q n).cell a = s.cell a := by
  unfold State.legsOfPort
  split
  · rfl
  · refine foldl_keeps (get := fun t : State => t.cell a) (fun t e _ => ?_) s
    split
    · rfl
    · exact foldl_keeps (get := fun t : State => t.cell a) (fun u i _ => u.cell_legDown q i _ a) t

theorem State.cell_afterLane (s : State) (l a : Nat) : (s.afterLane l).cell a = s.cell a := by
  unfold State.afterLane
  split
  · exact State.cell_legsOfPort ..
  · rfl

/-- Streams that are lost leave HBM. -/
theorem State.cell_setDsts (s : State) (n st : Nat) (p : Nat → Bool) (a : Nat) : (s.setDsts n st p).cell a = s.cell a :=
  State.cell_congr (by rw [s.movesStreams_setDsts n st p]) a

/-- A retired lane up to the release of its quad's grant. -/
def State.retireRest (s : State) (l : Nat) : State :=
  ((((s.dropLp l).setFld ⟨.lnStat, l, 0⟩ 31 30 3).leaseDropRes fun r => r == .lane l).modLane l fun x =>
    { x with retraining := false, due := false }).quadRest (l / 4)

/-- What follows the release of the grant, the retirement's event and the streams, leaves HBM. -/
theorem State.cell_retireLane (s : State) (l first a : Nat) : (s.retireLane l first).cell a = (s.retireRest l).cell a := by
  rw [State.retireLane, State.cell_afterLane]
  refine (foldl_keeps (get := fun t : State => t.cell a) (fun t n _ => t.cell_setDsts n 4 _ a) _).trans ?_
  exact State.raiseEvent_cell ..

/-- A retrain that is due, that counts, and that the budget does not allow retires its lane. -/
theorem State.beginRetrain_retires {l : Nat} {t : State} (ht : (s.leaseTry .laneRetrain [.lane l] 0x00).1 = t)
    (hok : (s.leaseTry .laneRetrain [.lane l] 0x00).2 = true)
    (hcounts : (!t.los l && !t.afterStop && t.linkDowns l) = true)
    (hbudget : t.fld ⟨.mntBudget, 0, 0⟩ 31 28 ≤ (t.laneCount l).length) :
    s.beginRetrain l = t.retireLane l ((t.laneCount l).headD t.tick) := by
  have hlease : s.leaseTry .laneRetrain [.lane l] 0x00 = (t, true) := Prod.ext ht hok
  have hbeyond : (true && decide (t.fld ⟨.mntBudget, 0, 0⟩ 31 28 ≤ (t.laneCount l).length)) = true := by
    rw [Bool.true_and, decide_eq_true hbudget]
  unfold State.beginRetrain
  rw [hlease]
  dsimp only
  rw [hcounts]
  exact if_pos hbeyond

end

/-! ### The counterexample -/

/-- A device in service with one lane of the RAW quad 0 out of LP2, whose retrain is due with three in the window of its
budget.  Core 0 waits for 6 units, and the device's budget has 5 beside what quad 0 and cluster 0 hold.  The cluster has a
marked line of the owner's range 1, whose set in the tray cache has one way for the owner: it holds line 0, poisoned.  One
stored byte of line 0 is 1. -/
def coreAwaitsQuad : State :=
  { phase := .service, clk := { mode := .running }, root := 16
    regs := [(⟨.urnBudget, 0, 0⟩, 505), (⟨.urnCls, 192, 0⟩, 12), (⟨.urnCls, 280, 0⟩, 8), (⟨.strSrc, 0x400, 0⟩, 0x80000000),
      (⟨.infRngStat, 1, 0⟩, 2), (⟨.lnStat, 0, 0⟩, 0), (⟨.lnStat, 1, 0⟩, 0x80000000), (⟨.lnStat, 2, 0⟩, 0x80000000),
      (⟨.lnStat, 3, 0⟩, 0x80000000), (⟨.quadCfg, 0, 0⟩, 4), (⟨.stkWaymask, 0, 1⟩, 1), (⟨.cpuStat, 0, 0⟩, 0x10000000)]
    lanes := [(0, { due := true, counted := [0, 0, 0] })]
    urn := { pend := [{ client := 264, units := 6 }] }
    ranges := [(1, { base := 0, limit := 1, owner := 0x01 })]
    stks := [(0, { cache := [(0, { line := 0, bytes := List.replicate 64 0, dirty := true, poison := true })] })]
    l2 := [{ cluster := 0, dom := 0x01, addr := 2 ^ 21, bytes := List.replicate 64 0, dirty := true, due := true }]
    hbm := [(0, 1)] }

/-- The device once the retrain has its lease. -/
def coreAwaitsLeased : State := (coreAwaitsQuad.leaseTry .laneRetrain [.lane 0] 0x00).1

/-- The retrain of lane 0 is due. -/
theorem coreAwaitsQuad_due : coreAwaitsQuad.serving = true ∧ (coreAwaitsQuad.lane 0).due = true ∧
    (coreAwaitsQuad.lane 0).retraining = false ∧ coreAwaitsQuad.retrainRole 0 = true ∧ coreAwaitsQuad.laneState 0 ≠ 3 := by
  decide +kernel

/-- Its lease is free. -/
theorem coreAwaitsQuad_lease : coreAwaitsQuad.leaseOk .laneRetrain [.lane 0] = true := by decide +kernel

/-- It counts, beyond the budget. -/
theorem coreAwaitsQuad_counts : coreAwaitsQuad.los 0 = false ∧ coreAwaitsQuad.afterStop = false ∧
    coreAwaitsQuad.linkDowns 0 = true ∧ coreAwaitsQuad.fld ⟨.mntBudget, 0, 0⟩ 31 28 ≤ (coreAwaitsQuad.laneCount 0).length := by
  decide +kernel

/-- The reaction to the lane's events is no BLOCK reset. -/
theorem coreAwaitsQuad_reaction : coreAwaitsQuad.fld ⟨.strSrc, 0x400, 0⟩ 21 20 ≠ 1 := by decide +kernel

theorem coreAwaitsLeased_counts : (!coreAwaitsLeased.los 0 && !coreAwaitsLeased.afterStop && coreAwaitsLeased.linkDowns 0) = true ∧
    coreAwaitsLeased.fld ⟨.mntBudget, 0, 0⟩ 31 28 ≤ (coreAwaitsLeased.laneCount 0).length := by decide +kernel

/-- The lease is taken. -/
theorem coreAwaitsQuad_takes : (coreAwaitsQuad.leaseTry .laneRetrain [.lane 0] 0x00).2 = true := by decide +kernel

/-- The retrain retires the lane. -/
theorem exec_laneRetrain_coreAwaits : exec (.laneRetrain 0 0) coreAwaitsQuad =
    .next (coreAwaitsLeased.retireLane 0 ((coreAwaitsLeased.laneCount 0).headD coreAwaitsLeased.tick)) := by
  obtain ⟨hs, hdue, hidle, hrole, hstate⟩ := coreAwaitsQuad_due
  obtain ⟨hcounts, hbudget⟩ := coreAwaitsLeased_counts
  change execLaneRetrain 0 0 coreAwaitsQuad = _
  rw [execLaneRetrain, whenServing_serving hs]
  refine congrArg Host.Outcome.next
    ((if_pos ?_).trans (State.beginRetrain_retires rfl coreAwaitsQuad_takes hcounts hbudget))
  exact (by simp [hdue, hidle, hrole, hstate] : ((coreAwaitsQuad.lane 0).due && !(coreAwaitsQuad.lane 0).retraining &&
    coreAwaitsQuad.retrainRole 0 && coreAwaitsQuad.laneState 0 != 3) = true)

/-- The stored byte before. -/
theorem cell_coreAwaitsQuad : coreAwaitsQuad.cell 0 = 1 := by decide

/-- The core has its grant with the quad's, and the poison pattern stands in line 0. -/
theorem cell_retireRest_coreAwaits : (coreAwaitsLeased.retireRest 0).cell 0 = 0 := by decide +kernel

/-- Refutes O33: the retirement of a quad's last lane out of LP2 frees the units that a core waits for, whose start writes a
line back over a poisoned one. -/
theorem not_lanesSignalRetrainAndAreMeasured : ¬ Obligations.LanesSignalRetrainAndAreMeasured := by
  unfold Obligations.LanesSignalRetrainAndAreMeasured
  rintro ⟨-, -, -, -, -, -, hretire, -⟩
  obtain ⟨hs, hdue, hidle, hrole, hstate⟩ := coreAwaitsQuad_due
  obtain ⟨hlos, hstop, hlink, hbudget⟩ := coreAwaitsQuad_counts
  obtain ⟨t, hexec, -, hkeeps⟩ := hretire coreAwaitsQuad 0 0 hs hdue hidle hrole hstate coreAwaitsQuad_lease hlos hstop hlink
    hbudget coreAwaitsQuad_reaction
  obtain rfl := Host.Outcome.next.inj (exec_laneRetrain_coreAwaits.symm.trans hexec)
  have hsame := hkeeps 0
  rw [State.cell_retireLane, cell_retireRest_coreAwaits, cell_coreAwaitsQuad] at hsame
  exact absurd hsame (by decide)

end Sys2Proof.Machine
end
